-- ==== Sys2Proof/Word.lean ====
section
/-! DEFINITION. The word types of the Skoiq (spec 00_scope R3, R4; 01_machine R7) and the
identifiers of cores and threads. -/

namespace Sys2Proof

abbrev Byte := BitVec 8
abbrev W32 := BitVec 32
abbrev W64 := BitVec 64

/-- A core number, 0 to 63 (R2). -/
abbrev CoreId := Fin 64

/-- The instruction streams of one core: the engines C, A, V and M (R9) and the Chaperone, a second
hardware context on C (R304). -/
inductive Thread where
  | c | a | v | m | chap
  deriving DecidableEq, Repr

/-- The engine codes of R26; the Chaperone executes C words. -/
def Thread.code : Thread → BitVec 2
  | .c => 0 | .a => 1 | .v => 2 | .m => 3 | .chap => 0

/-- The kernel engine that an engine code of R26 names. -/
def Thread.ofCode (b : BitVec 2) : Thread :=
  if b = 0 then .c else if b = 1 then .a else if b = 2 then .v else .m

/-- A thread of a core: who executes the word being executed. -/
structure Who where
  core : CoreId
  th : Thread
  deriving DecidableEq, Repr

end Sys2Proof
end

