-- ==== Sys2Proof/Syntax.lean ====
section
/-! DEFINITION. The abstract syntax: the format classes of R31, the section header of R19, the
sequencer word of R391, the operands of the events, and Instr, one constructor per row of the opcode
table. -/

namespace Sys2Proof

/-- The fields common to every kernel word (R23): TAG and the guard. -/
structure Hdr where
  tag : BitVec 2
  greg : BitVec 5
  gbit : BitVec 6
  gsense : BitVec 1
  deriving DecidableEq, Repr

/-- Class S3: scalar, three registers (R31). -/
structure S3 where
  d : BitVec 5
  a : BitVec 5
  b : BitVec 5
  c : BitVec 5
  n : BitVec 6
  i : BitVec 1
  cond : BitVec 4
  imm : BitVec 32
  deriving DecidableEq, Repr

/-- Class SI: scalar with 32-bit immediate (R31). -/
structure SI where
  d : BitVec 5
  a : BitVec 5
  n : BitVec 6
  sub : BitVec 4
  imm : BitVec 32
  deriving DecidableEq, Repr

/-- Class SW: scalar with 48-bit immediate (R31). -/
structure SW where
  d : BitVec 5
  mode : BitVec 3
  imm : BitVec 48
  deriving DecidableEq, Repr

/-- Class BR: branch and loop (R31). -/
structure BrF where
  t : BitVec 3
  lc : BitVec 2
  pusho : BitVec 1
  cr : BitVec 1
  s : BitVec 3
  q : BitVec 2
  gc : BitVec 5
  r : BitVec 1
  tl : BitVec 3
  imm : BitVec 32
  deriving DecidableEq, Repr

/-- Class VT: vector, three tile operands (R31). -/
structure VT where
  d : BitVec 20
  a : BitVec 20
  b : BitVec 20
  ty : BitVec 5
  rm : BitVec 3
  sat : BitVec 1
  fn : BitVec 3
  deriving DecidableEq, Repr

/-- Class VM: vector with lane mask (R31). -/
structure VM where
  d : BitVec 20
  a : BitVec 20
  mreg : BitVec 10
  mbit : BitVec 5
  msense : BitVec 1
  ty : BitVec 5
  rm : BitVec 3
  sat : BitVec 1
  fn : BitVec 3
  ring : BitVec 4
  deriving DecidableEq, Repr

/-- Class MX: matrix (R31). -/
structure MX where
  arr : BitVec 2
  ta : BitVec 5
  tb : BitVec 5
  spa : BitVec 16
  bar : BitVec 6
  bt : BitVec 1
  tile : BitVec 10
  acc : BitVec 20
  sp : BitVec 2
  mv : BitVec 1
  nv : BitVec 3
  z : BitVec 1
  deriving DecidableEq, Repr

/-- Class ST: stream (R31). -/
structure ST where
  str : BitVec 4
  dk : BitVec 3
  oq : BitVec 3
  pol : BitVec 2
  pd : BitVec 1
  pt : BitVec 1
  atm : BitVec 2
  ga : BitVec 5
  gd : BitVec 5
  recb : BitVec 17
  imm : BitVec 16
  deriving DecidableEq, Repr

/-- Class CM: command (R31). -/
structure CM where
  ws : BitVec 8
  wt : BitVec 16
  ss : BitVec 8
  si : BitVec 8
  blk : BitVec 17
  gt : BitVec 5
  we : BitVec 1
  se : BitVec 1
  qsel : BitVec 3
  gp : BitVec 5
  deriving DecidableEq, Repr

/-- Class SY: system (R31). -/
structure SY where
  gd : BitVec 5
  ga : BitVec 5
  gb : BitVec 5
  n : BitVec 6
  obj : BitVec 8
  scope : BitVec 3
  ord : BitVec 2
  pa : BitVec 5
  pb : BitVec 5
  code : BitVec 8
  opnd : BitVec 20
  deriving DecidableEq, Repr

/-- The section header's fields (R19), all 64 bits of it. -/
structure SecHdr where
  mark : BitVec 8
  len : BitVec 12
  sid : BitVec 12
  wc : BitVec 4
  wa : BitVec 4
  wv : BitVec 4
  wm : BitVec 4
  loophead : BitVec 1
  stage : BitVec 3
  sealf : BitVec 1
  drainsafe : BitVec 1
  commit : BitVec 1
  rsv : BitVec 1
  par : BitVec 8
  deriving DecidableEq, Repr

/-- A sequencer word's fields below its opcode (R391): layout G has f, c and imm in the low 48 bits,
layout W (MOVI) all 48 as imm48, so lo holds the 48 bits. -/
structure SeqW where
  a : BitVec 4
  b : BitVec 4
  lo : BitVec 48
  deriving DecidableEq, Repr

/-- A packet header of R370. -/
structure FlitHdr where
  ptype : BitVec 8
  vc : BitVec 3
  mode : BitVec 2
  kp : BitVec 1
  pz : BitVec 1
  trim : BitVec 1
  fidx : BitVec 3
  fcnt : BitVec 3
  rmb : BitVec 1
  hops : BitVec 3
  ecn : BitVec 1
  rsv1 : BitVec 5
  job : BitVec 24
  drank : BitVec 16
  srank : BitVec 16
  igrp : BitVec 11
  dcore : BitVec 6
  score : BitVec 6
  flow : BitVec 10
  obj : BitVec 6
  rsv2 : BitVec 1
  fsn : BitVec 32
  chunk : BitVec 32
  ivc : BitVec 64
  deriving DecidableEq, Repr

/-- A data flit as it arrives (R371): header, 512 payload bytes (encrypted, as the wire carries them),
the 16-byte tag, and whether the link's FEC could correct it (R373, an input). -/
structure Flit where
  hdr : FlitHdr
  payload : List Byte
  tag : BitVec 128
  fecOk : Bool
  deriving DecidableEq, Repr

/-- A control packet as it arrives (R371): flit 0, the payload bytes of flits 1 onward, the tag. -/
structure Packet where
  hdr : FlitHdr
  payload : List Byte
  tag : BitVec 128
  fecOk : Bool
  deriving DecidableEq, Repr

/-- Where a host command or a launch request comes from (R283): the consumed entry of a host ring, or
the Chaperone queue of a core. -/
inductive CmdSrc where
  | host (ctx ring : Nat)
  | queue (core : CoreId)
  deriving DecidableEq, Repr

/-- An object whose accesses translate (R328): a stream of the core, a command of its X queue (by its
position number), a flow of its sequencer that sends (by the flow's own number), or its text fetch and other single
accesses. -/
inductive ObjRef where
  | stream (n : Nat)
  | command (n : Nat)
  | flow (id : Nat)
  | other
  deriving DecidableEq, Repr

/-- The completions of a PCIe AtomicOp (R213). -/
inductive AtomicCpl where
  | success (old : BitVec 128) (poisoned : Bool)
  | unsupportedRequest
  | completerAbort
  deriving DecidableEq, Repr

/-- The operands of a mailbox command (R423, R424): CMDARG, TGT and CTX. -/
structure Cmd where
  arg : W64
  tgt : BitVec 16
  ctx : BitVec 10
  deriving DecidableEq, Repr

/-- What FLIT_TRANSMIT sends: the next packet of a core, sealed and handed to its port, or the next flit that waits at a
port (R295, R383, R384). -/
inductive TxSrc where
  | core (core : CoreId)
  | port (port : Nat)
  deriving DecidableEq, Repr

/-- The storage that an uncorrectable error strikes (R340, R354). -/
inductive ErrPlace where
  | tile (core : CoreId) (reg row : Nat)
  | wfile (core : CoreId) (entry row : Nat)
  | scratch (core : CoreId) (addr : Nat)
  | acc (core : CoreId) (container : Nat)
  | queue (core : CoreId) (q entry : Nat)
  | plane (core : CoreId) (arr plane : Nat)
  | spill (core : CoreId) (th : Thread) (off : Nat)
  | shadow (core : CoreId) (store gran : Nat)
  | hbm (addr : Nat)
  | pool (line : Nat)
  | llc (line : Nat)
  | llcLocal (line : Nat)
  | barMem (core : CoreId) (off : Nat)
  | hold (core : CoreId) (id unit : Nat)
  | host (addr : Nat)
  deriving DecidableEq, Repr
/-- One constructor per row of the opcode table: words and headers, then the events that are steps of the
device. A word's engine is the TAG of its header. -/
inductive Instr where
  /-- Adds two general registers, or a register and the n field, modulo 2^64 (R82) -/
  | add (h : Hdr) (f : S3)
  /-- Subtracts op2 from a register, modulo 2^64 (R82) -/
  | sub (h : Hdr) (f : S3)
  /-- Adds a sign-extended 32-bit immediate to a register (R82) -/
  | addi (h : Hdr) (f : SI)
  /-- Writes the low 64 bits of the product (R82) -/
  | mul (h : Hdr) (f : S3)
  /-- Writes the high 64 bits of the signed product (R82) -/
  | mulh (h : Hdr) (f : S3)
  /-- Writes the high 64 bits of the unsigned product (R82) -/
  | mulhu (h : Hdr) (f : S3)
  /-- Signed division rounded toward zero; never traps (R83) -/
  | div (h : Hdr) (f : S3)
  /-- Unsigned division; never traps (R83) -/
  | divu (h : Hdr) (f : S3)
  /-- Signed remainder, with the sign of a (R83) -/
  | rem (h : Hdr) (f : S3)
  /-- Unsigned remainder (R83) -/
  | remu (h : Hdr) (f : S3)
  /-- Bitwise AND (R82) -/
  | and (h : Hdr) (f : S3)
  /-- Bitwise OR (R82) -/
  | or (h : Hdr) (f : S3)
  /-- Bitwise exclusive OR (R82) -/
  | xor (h : Hdr) (f : S3)
  /-- a AND NOT op2 (R82) -/
  | andn (h : Hdr) (f : S3)
  /-- a OR NOT op2 (R82) -/
  | orn (h : Hdr) (f : S3)
  /-- Shifts a left by idx (R82) -/
  | shl (h : Hdr) (f : S3)
  /-- Shifts a logically right by idx (R82) -/
  | shr (h : Hdr) (f : S3)
  /-- Shifts a arithmetically right by idx (R82) -/
  | sar (h : Hdr) (f : S3)
  /-- Rotates a left by idx (R82) -/
  | rotl (h : Hdr) (f : S3)
  /-- Signed minimum (R82) -/
  | min (h : Hdr) (f : S3)
  /-- Signed maximum (R82) -/
  | max (h : Hdr) (f : S3)
  /-- Unsigned minimum (R82) -/
  | minu (h : Hdr) (f : S3)
  /-- Unsigned maximum (R82) -/
  | maxu (h : Hdr) (f : S3)
  /-- Sets bit n of gd to the outcome of a condition on a and op2 (R84) -/
  | cmp (h : Hdr) (f : S3)
  /-- Selects a or b by bit n of g[c] (R85) -/
  | sel (h : Hdr) (f : S3)
  /-- Loads a sign-extended 32-bit immediate (R86) -/
  | movi (h : Hdr) (f : SI)
  /-- Loads a zero-extended 32-bit immediate (R86) -/
  | moviZ (h : Hdr) (f : SI)
  /-- Writes the immediate to bits [63:32], keeping the low half (R86) -/
  | moviHi (h : Hdr) (f : SI)
  /-- Loads a sign-extended 48-bit immediate (R86) -/
  | movw (h : Hdr) (f : SW)
  /-- Loads a zero-extended 48-bit immediate (R86) -/
  | movwZ (h : Hdr) (f : SW)
  /-- Computes a + (b << n) + sext(imm32) (R87) -/
  | lea (h : Hdr) (f : S3)
  /-- Counts leading zero bits (R88) -/
  | clz (h : Hdr) (f : S3)
  /-- Counts trailing zero bits (R88) -/
  | ctz (h : Hdr) (f : S3)
  /-- Counts one bits (R88) -/
  | popc (h : Hdr) (f : S3)
  /-- Extracts bit idx of a (R88) -/
  | bext (h : Hdr) (f : S3)
  /-- Replaces bit idx of a with bit 0 of g[c] (R88) -/
  | bins (h : Hdr) (f : S3)
  /-- Sets bit idx of a (R88) -/
  | bset (h : Hdr) (f : S3)
  /-- Clears bit idx of a (R88) -/
  | bclr (h : Hdr) (f : S3)
  /-- Reads a special register into a general register (R89) -/
  | mfs (h : Hdr) (f : SI)
  /-- Writes a special register at retirement, including VBANKPWR transitions (R89) -/
  | mts (h : Hdr) (f : SI)
  /-- Loads from the engine's spill store (R91) -/
  | spld (h : Hdr) (f : SI)
  /-- Stores to the engine's spill store (R91) -/
  | spst (h : Hdr) (f : SI)
  /-- Reads a parameter window, returning zeros and setting PWSTAT beyond the bound (R92) -/
  | pld (h : Hdr) (f : SI)
  /-- Scalar load from scratchpad on C or A (R94) -/
  | sld (h : Hdr) (f : SI)
  /-- Scalar store to scratchpad on C or A (R94) -/
  | sst (h : Hdr) (f : SI)
  /-- Pushes a register into the cross-engine queue to engine E (R96) -/
  | putx (h : Hdr) (f : S3)
  /-- Pops the cross-engine queue from engine E, acquiring its L writes (R96) -/
  | getx (h : Hdr) (f : S3)
  /-- Loads a branch target register with a text address (R115) -/
  | pbr (h : Hdr) (f : BrF)
  /-- Branches on its guard and optionally pushes the outcome to the other engines (R116) -/
  | br (h : Hdr) (f : BrF)
  /-- Pops a branch outcome from engine q and branches if it is 1 (R117) -/
  | bro (h : Hdr) (f : BrF)
  /-- Calls a routine, recording the next section as the return point (R118) -/
  | jmpl (h : Hdr) (f : BrF)
  /-- Starts a hardware loop on a loop counter from C (R125) -/
  | loop (h : Hdr) (f : BrF)
  /-- Joins A, V or M to the loop started by C (R125) -/
  | loopj (h : Hdr) (f : BrF)
  /-- Cuts the loop's trip count, voiding instances beyond the new last pass (R122) -/
  | lbrk (h : Hdr) (f : BrF)
  /-- Takes one issue slot with no effect (R128) -/
  | nop (h : Hdr) (f : SY)
  /-- Ends the engine's part of the tile task; the fourth is a commit point (R128) -/
  | taskend (h : Hdr) (f : SY)
  /-- Opens a stream from a pattern record after its execution checks (R189) -/
  | sopen (h : Hdr) (f : ST)
  /-- Closes a stream, stalling until it is DONE or FAULTED (R198) -/
  | sclose (h : Hdr) (f : ST)
  /-- Closes a stream at once, cancelling undelivered reads and parked sectors (R194) -/
  | scloseAbort (h : Hdr) (f : ST)
  /-- Reads a stream's state, code and byte count (R199) -/
  | sstat (h : Hdr) (f : ST)
  /-- Pushes scratchpad entries into an operand queue (R200) -/
  | sfeed (h : Hdr) (f : ST)
  /-- Stalls until the stream is DONE, trapping if it is FAULTED (R201) -/
  | sdrain (h : Hdr) (f : ST)
  /-- Asks the LLC to fill every line a pattern touches (R202) -/
  | spref (h : Hdr) (f : ST)
  /-- Queues a copy of a byte range on the X engine (R209) -/
  | xcopy (h : Hdr) (f : CM)
  /-- Queues a fill of a byte range with a pattern (R209) -/
  | xfill (h : Hdr) (f : CM)
  /-- Queues an element-wise read-modify-write combine into a destination (R210) -/
  | xacc (h : Hdr) (f : CM)
  /-- Queues a fetch-and-op on one value, returning the old value (R211) -/
  | xfao (h : Hdr) (f : CM)
  /-- Queues a compare-and-swap on one value, returning the old value (R211) -/
  | xcas (h : Hdr) (f : CM)
  /-- Queues a gather of indexed elements (R209) -/
  | xgath (h : Hdr) (f : CM)
  /-- Queues a scatter of elements to indexed places (R209) -/
  | xscat (h : Hdr) (f : CM)
  /-- Queues LLC clean or invalidate maintenance on a range (R219) -/
  | xcmo (h : Hdr) (f : CM)
  /-- Queues a signal that completes after every earlier command (R219) -/
  | xsig (h : Hdr) (f : CM)
  /-- Orders accesses of paths pa before accesses of paths pb at a scope (R231) -/
  | fence (h : Hdr) (f : SY)
  /-- Adds to a semaphore, optionally as a release (R255) -/
  | ssig (h : Hdr) (f : SY)
  /-- Waits for a semaphore to meet a threshold (R256) -/
  | swait (h : Hdr) (f : SY)
  /-- Sets a semaphore count (R255) -/
  | sset (h : Hdr) (f : SY)
  /-- Arms a barrier from a descriptor (R258) -/
  | barm (h : Hdr) (f : SY)
  /-- Waits for a barrier to be COMPLETE or PARTIAL (R256) -/
  | bwait (h : Hdr) (f : SY)
  /-- Waits for one tile of a barrier to be complete (R256) -/
  | bwaitTile (h : Hdr) (f : SY)
  /-- Tests whether a barrier tile is complete (R257) -/
  | btestTile (h : Hdr) (f : SY)
  /-- Reads a barrier's state, code and arrived bytes (R257) -/
  | btestStat (h : Hdr) (f : SY)
  /-- Reads a barrier's DUP and LOST counts (R257) -/
  | btestCnt (h : Hdr) (f : SY)
  /-- Reads a barrier's STRAY and LATE counts (R257) -/
  | btestLate (h : Hdr) (f : SY)
  /-- Resets a barrier to IDLE (R259) -/
  | brst (h : Hdr) (f : SY)
  /-- Waits until a ring holds at least k filled slots (R268) -/
  | rwaitf (h : Hdr) (f : SY)
  /-- Waits until a ring has at least k free slots (R268) -/
  | rwaite (h : Hdr) (f : SY)
  /-- Claims k slots of a kind-L ring without stalling (R269) -/
  | rclaim (h : Hdr) (f : SY)
  /-- Publishes k claimed slots (R270) -/
  | rpub (h : Hdr) (f : SY)
  /-- Opens a ring from a descriptor (R270) -/
  | rpubInit (h : Hdr) (f : SY)
  /-- Closes a ring (R262) -/
  | rpubClose (h : Hdr) (f : SY)
  /-- Consumes k slots (R271) -/
  | rcons (h : Hdr) (f : SY)
  /-- Raises CONS to v (R271) -/
  | rconsUpto (h : Hdr) (f : SY)
  /-- Reads a ring's PUB count (R271) -/
  | rconsPub (h : Hdr) (f : SY)
  /-- Reads a ring's CONS count (R271) -/
  | rconsCons (h : Hdr) (f : SY)
  /-- Reads a ring's CLM count (R271) -/
  | rconsClm (h : Hdr) (f : SY)
  /-- Reads a ring's DROPS count (R271) -/
  | rconsDrops (h : Hdr) (f : SY)
  /-- Reads a ring's DROPB count (R271) -/
  | rconsDropb (h : Hdr) (f : SY)
  /-- Reserves and pushes a 64-byte block to a queue or ring of a target core, stalling when full (R274) -/
  | qpush (h : Hdr) (f : CM)
  /-- Pushes a block to a target queue if an entry is free, reporting success (R274) -/
  | qpoll (h : Hdr) (f : CM)
  /-- Pushes a transport block into the issuing core's T queue (R273) -/
  | tqpush (h : Hdr) (f : CM)
  /-- Raises TRAP_INSN (R316) -/
  | trap (h : Hdr) (f : SY)
  /-- Takes a commit point and sends a service request to the Chaperone (R317) -/
  | svc (h : Hdr) (f : SY)
  /-- Returns from a trap handler (R318) -/
  | rett (h : Hdr) (f : SY)
  /-- Ends the tile task fatally with the trap's code (R318) -/
  | rettAbort (h : Hdr) (f : SY)
  /-- Latches a pre-emption request for an eligible record of another context (R319) -/
  | yield (h : Hdr) (f : SY)
  /-- Saves a kind of engine state into the Hamper in a drain stub (R320) -/
  | csave (h : Hdr) (f : SY)
  /-- Ends a drain stub; the fourth is a commit point after which the core block is written (R312) -/
  | csaveEnd (h : Hdr) (f : SY)
  /-- Restores a kind of engine state from the Hamper in a refill stub (R320) -/
  | crest (h : Hdr) (f : SY)
  /-- Ends a refill stub; the fourth is a commit point and the engines enter instance n (R314) -/
  | crestEnd (h : Hdr) (f : SY)
  /-- Stops Chaperone fetch until a selected condition holds (R321) -/
  | idle (h : Hdr) (f : SY)
  /-- Invalidates translations of a range of 64 KiB pages of an ASID (R338) -/
  | tlbinvPage (h : Hdr) (f : SY)
  /-- Invalidates every translation of an ASID (R338) -/
  | tlbinvAsid (h : Hdr) (f : SY)
  /-- Invalidates every translation (R338) -/
  | tlbinvAll (h : Hdr) (f : SY)
  /-- Translates an address without faulting and reports the leaf (R339) -/
  | tlbprobe (h : Hdr) (f : SY)
  /-- Requests a commit point and retires when it is taken (R364) -/
  | sealWord (h : Hdr) (f : SY)
  /-- Requests a commit point and stalls until it is sealed (R364) -/
  | sealWait (h : Hdr) (f : SY)
  /-- Poisons every row of a tile view (R365) -/
  | pmarkV (h : Hdr) (f : SY)
  /-- Poisons a range of scratchpad granules (R365) -/
  | pmarkA (h : Hdr) (f : SY)
  /-- Clears poison marks of a tile view (R365) -/
  | pclrV (h : Hdr) (f : SY)
  /-- Clears poison marks of scratchpad granules (R365) -/
  | pclrA (h : Hdr) (f : SY)
  /-- Element-wise addition (R135) -/
  | vadd (h : Hdr) (f : VT)
  /-- Element-wise subtraction (R135) -/
  | vsub (h : Hdr) (f : VT)
  /-- Element-wise multiplication (R135) -/
  | vmul (h : Hdr) (f : VT)
  /-- Fused multiply-add into the destination (R135) -/
  | vfma (h : Hdr) (f : VT)
  /-- Fused multiply-subtract from the destination (R135) -/
  | vfms (h : Hdr) (f : VT)
  /-- Element-wise minimum (R135) -/
  | vmin (h : Hdr) (f : VT)
  /-- Element-wise maximum (R135) -/
  | vmax (h : Hdr) (f : VT)
  /-- Element-wise absolute value (R135) -/
  | vabs (h : Hdr) (f : VT)
  /-- Element-wise negation (R135) -/
  | vneg (h : Hdr) (f : VT)
  /-- Bitwise AND of containers (R135) -/
  | vand (h : Hdr) (f : VT)
  /-- Bitwise OR of containers (R135) -/
  | vor (h : Hdr) (f : VT)
  /-- Bitwise XOR of containers (R135) -/
  | vxor (h : Hdr) (f : VT)
  /-- Bitwise complement of containers (R135) -/
  | vnot (h : Hdr) (f : VT)
  /-- Element-wise left shift (R136) -/
  | vshl (h : Hdr) (f : VT)
  /-- Element-wise logical right shift (R136) -/
  | vshr (h : Hdr) (f : VT)
  /-- Element-wise arithmetic right shift (R136) -/
  | vsar (h : Hdr) (f : VT)
  /-- Element-wise comparison producing all-ones or zero slots (R137) -/
  | vcmp (h : Hdr) (f : VT)
  /-- Writes a where the mask is true (R150) -/
  | vsel (h : Hdr) (f : VM)
  /-- Copies containers bit for bit (R138) -/
  | vmov (h : Hdr) (f : VT)
  /-- Converts elements between formats, including block formats and scales (R140) -/
  | vcvt (h : Hdr) (f : VT)
  /-- Requantises INT32 elements to a narrower integer type (R141) -/
  | vrqs (h : Hdr) (f : VT)
  /-- Multiplies 8-bit elements into INT32 accumulators (R142) -/
  | vmaci (h : Hdr) (f : VT)
  /-- Adds four-term 8-bit dot products to INT32 containers (R142) -/
  | vdot4 (h : Hdr) (f : VT)
  /-- Applies a correctly rounded special function (R143) -/
  | vsfu (h : Hdr) (f : VT)
  /-- Rotates rows along columns (R144) -/
  | vrotr (h : Hdr) (f : VT)
  /-- Rotates columns along rows (R144) -/
  | vrotc (h : Hdr) (f : VT)
  /-- Broadcasts one column across each row (R144) -/
  | vbcr (h : Hdr) (f : VT)
  /-- Broadcasts one row across each column (R144) -/
  | vbcc (h : Hdr) (f : VT)
  /-- Reduces each row (R146) -/
  | vredr (h : Hdr) (f : VT)
  /-- Reduces each column (R146) -/
  | vredc (h : Hdr) (f : VT)
  /-- Transposes a 64 x 64 matrix held in four registers (R147) -/
  | vtrn (h : Hdr) (f : VT)
  /-- Permutes containers within each row by index (R145) -/
  | vperm (h : Hdr) (f : VT)
  /-- Interleaves two registers (R148) -/
  | zip2 (h : Hdr) (f : VT)
  /-- Interleaves three registers (R148) -/
  | zip3 (h : Hdr) (f : VT)
  /-- Interleaves four registers (R148) -/
  | zip4 (h : Hdr) (f : VT)
  /-- De-interleaves into two registers (R148) -/
  | unzip2 (h : Hdr) (f : VT)
  /-- De-interleaves into three registers (R148) -/
  | unzip3 (h : Hdr) (f : VT)
  /-- De-interleaves into four registers (R148) -/
  | unzip4 (h : Hdr) (f : VT)
  /-- Appends masked containers to a scratchpad ring (R151) -/
  | cpush (h : Hdr) (f : VM)
  /-- Fills a view from published ring containers (R151) -/
  | cpop (h : Hdr) (f : VM)
  /-- Loads rows of a tile view from scratchpad (R152) -/
  | vlds (h : Hdr) (f : VT)
  /-- Stores rows of a tile view to scratchpad (R152) -/
  | vsts (h : Hdr) (f : VT)
  /-- Pops operand-queue rows into a register (R155) -/
  | vpop (h : Hdr) (f : VT)
  /-- Pops and discards n operand-queue rows (R155) -/
  | vpopSkip (h : Hdr) (f : VT)
  /-- Checks rows for poison and records, recovers or traps (R157) -/
  | vpchk (h : Hdr) (f : VT)
  /-- Adds the running count of true mask positions (R150) -/
  | viota (h : Hdr) (f : VM)
  /-- Writes one container of a view to every container of the destination (R138) -/
  | vsplat (h : Hdr) (f : VT)
  /-- Loads an array configuration from a scratchpad record (R176) -/
  | mcfg (h : Hdr) (f : MX)
  /-- Loads the shadow plane from scratchpad or a barrier tile (R177) -/
  | mldw (h : Hdr) (f : MX)
  /-- Loads the shadow plane from an operand queue (R177) -/
  | mldwq (h : Hdr) (f : MX)
  /-- Exchanges the stationary and shadow planes (R165) -/
  | mswap (h : Hdr) (f : MX)
  /-- Runs a pass streaming rows from scratchpad or a barrier tile (R178) -/
  | mstr (h : Hdr) (f : MX)
  /-- Runs a pass streaming rows from an operand queue (R178) -/
  | mstrq (h : Hdr) (f : MX)
  /-- Runs a matrix-vector pass from an operand queue (R178) -/
  | mmv (h : Hdr) (f : MX)
  /-- Loads sparsity masks into the shadow plane's metadata (R177) -/
  | mspm (h : Hdr) (f : MX)
  /-- Zeroes a range of accumulator containers (R179) -/
  | macz (h : Hdr) (f : MX)
  /-- Reads accumulators out into tile registers with conversion (R180) -/
  | macrd (h : Hdr) (f : MX)
  /-- Stores accumulators to scratchpad with conversion (R180) -/
  | macst (h : Hdr) (f : MX)
  /-- Loads accumulators from scratchpad bit for bit (R179) -/
  | macld (h : Hdr) (f : MX)
  /-- Stalls until earlier M words on the named arrays have retired (R181) -/
  | mfin (h : Hdr) (f : MX)
  /-- Ends the sequencer routine with a code (R402) -/
  | halt (f : SeqW)
  /-- Copies a sequencer register (R394) -/
  | mov (f : SeqW)
  /-- Loads a sign-extended 48-bit immediate into a sequencer register (R394) -/
  | seqMovi (f : SeqW)
  /-- Sequencer addition (R394) -/
  | seqAdd (f : SeqW)
  /-- Sequencer subtraction (R394) -/
  | seqSub (f : SeqW)
  /-- Sequencer bitwise AND (R394) -/
  | seqAnd (f : SeqW)
  /-- Sequencer bitwise OR (R394) -/
  | seqOr (f : SeqW)
  /-- Sequencer bitwise XOR (R394) -/
  | seqXor (f : SeqW)
  /-- Sequencer left shift (R394) -/
  | seqShl (f : SeqW)
  /-- Sequencer logical right shift (R394) -/
  | seqShr (f : SeqW)
  /-- Sets a sequencer register to a condition outcome (R394) -/
  | seqCmp (f : SeqW)
  /-- Sequencer unconditional branch (R394) -/
  | seqBr (f : SeqW)
  /-- Branches when the register is nonzero (R394) -/
  | brcNz (f : SeqW)
  /-- Branches when the register is zero (R394) -/
  | brcZ (f : SeqW)
  /-- Records the return address and branches (R394) -/
  | call (f : SeqW)
  /-- Jumps to the address in a register (R394) -/
  | ret (f : SeqW)
  /-- Loads from sequencer local memory (R394) -/
  | ldx (f : SeqW)
  /-- Stores to sequencer local memory (R394) -/
  | stx (f : SeqW)
  /-- Stalls until the event queue is not empty or a limit passes (R395) -/
  | evwait (f : SeqW)
  /-- Removes the head event record into local memory (R395) -/
  | evpop (f : SeqW)
  /-- Pops the head command whose wait is met into local memory (R395) -/
  | cmdpop (f : SeqW)
  /-- Adds to a semaphore of the core as a DEVICE-scope T-path release (R395) -/
  | sems (f : SeqW)
  /-- Completes a popped command and applies its signal (R395) -/
  | semsDone (f : SeqW)
  /-- Stalls until a semaphore meets a threshold (R395) -/
  | semw (f : SeqW)
  /-- Stalls until a device time or an event (R395) -/
  | dline (f : SeqW)
  /-- Opens a flow from a descriptor (R396) -/
  | flowOpen (f : SeqW)
  /-- Closes a flow, discarding unacknowledged flits (R396) -/
  | flowClose (f : SeqW)
  /-- Writes a flow's status to local memory (R396) -/
  | flowStat (f : SeqW)
  /-- Sends bytes as chunks to a remote barrier or ring (R398) -/
  | put (f : SeqW)
  /-- Sends bytes along a group multicast tree (R398) -/
  | putm (f : SeqW)
  /-- Sends a remote-load request whose reply is placed in a local barrier (R398) -/
  | get (f : SeqW)
  /-- Sends a remote atomic request (R398) -/
  | atom (f : SeqW)
  /-- Sends contributions to a group reduction (R398) -/
  | redc (f : SeqW)
  /-- Retransmits selected unacknowledged flits of a flow (R400) -/
  | retx (f : SeqW)
  /-- Derives an exchange step list from two layouts (R410) -/
  | xplan (f : SeqW)
  /-- Performs one step record as PUT, PUTM or REDC (R399) -/
  | xstep (f : SeqW)
  /-- Loads a key slot of a job key (R401) -/
  | keyld (f : SeqW)
  /-- Switches sealing to a loaded key slot and sends a MARKER (R401) -/
  | keysw (f : SeqW)
  /-- An engine reaches a section header, checks it and enters the section instance (R22) -/
  | sectionHeader (f : SecHdr)
  /-- A tile bank's 40-cycle wake ends and the bank is ON (R71) -/
  | bankWakeDone (core : CoreId) (bank : Nat)
  /-- A requested commit point is taken once earlier words have retired, writing a checkpoint (R344) -/
  | commitPointTaken (core : CoreId)
  /-- 160 cycles after it was taken without a strike report, a commit point seals (R345) -/
  | commitPointSealed (core : CoreId)
  /-- Sealed held effects leave the Pan in entry order and are performed (R346) -/
  | heldEffectRelease (core : CoreId)
  /-- A strike is located and reported to nearby regions or counted in DSTRK (R342) -/
  | strike (cores : List CoreId)
  /-- A strike report reaches a region and starts rollback to its last sealed commit point (R350) -/
  | strikeReport (core : CoreId)
  /-- The checkpoint and granules are restored and the first word issues again (R350) -/
  | rollbackComplete (core : CoreId)
  /-- Once the commit point seals, the region rolls back and re-enters at the poisoned iteration (R357) -/
  | iterationRecoveryRollback (core : CoreId)
  /-- A doorbell write makes the device read the next expected ring entry's SEQ (R281) -/
  | doorbellWrite (ctx ring : Nat)
  /-- A launch bundle entry or request is read and accepted by the Chaperone after its checks (R285) -/
  | launchBundle (src : CmdSrc)
  /-- A load command registers a kernel image after its checks (R104) -/
  | loadImage (src : CmdSrc)
  /-- An unload command removes an image or marks the unload pending (R105) -/
  | unloadImage (src : CmdSrc)
  /-- A waiting bundle whose dependences are met activates (R287) -/
  | bundleActivate (bundle : Nat)
  /-- The walker binds the next ordinal of a chosen record to a free core (R291) -/
  | walkerBind (die : Nat)
  /-- A sealing tile task retires once its effects, queues and streams are done (R293) -/
  | tileTaskRetire (core : CoreId)
  /-- A draining bundle completes, applying its signal and writing its completion (R292) -/
  | bundleDone (bundle : Nat)
  /-- A record eligible for 4,096 uncore cycles without a binding is promoted one class (R296) -/
  | recordPromotion (bundle : Nat)
  /-- An aligned 4,096-uncore-cycle window ends and the EXPRESS cap starts again (R295) -/
  | expressWindow (die : Nat)
  /-- A replay's signature is compared with the original and the majority decides (R362) -/
  | auditReplayDone (core : CoreId)
  /-- A replay whose wait stays unmet for 2^20 cycles is abandoned (R360) -/
  | auditReplayAbandon (core : CoreId)
  /-- An EXPRESS record unbound for 4,096 uncore cycles sends a pre-emption request (R311) -/
  | walkerPreemptRequest (bundle : Nat)
  /-- When every engine waits at instance n, the core takes the drain entry and runs the drain stubs (R312) -/
  | preemptDrainEntry (core : CoreId)
  /-- After 64 cycles of stalled engines, the waiting engines enter n and n is chosen again (R312) -/
  | preemptStallTimeout (core : CoreId)
  /-- After the core block is written and effects are sealed, the tile task becomes PREEMPTED (R312) -/
  | preemptComplete (core : CoreId)
  /-- The core restores the core block and runs the refill stubs (R314) -/
  | refillStart (core : CoreId)
  /-- The Chaperone answers a service request with a status and value (R317) -/
  | svcAnswer (core : CoreId) (th : Thread) (status value : BitVec 64)
  /-- A translation completes from the second-level cache or a walk, or meets a fault (R327) -/
  | translationDone (core : CoreId) (obj : ObjRef) (va : BitVec 64)
  /-- Stream read data arrives and is deposited, pushed or published (R190) -/
  | streamSectorArrival (core : CoreId) (str pos : Nat)
  /-- A copy command at the head of the X queue whose wait is met starts running (R217) -/
  | xCommandStart (core : CoreId)
  /-- A copy sector is performed at its destination, credits its barrier and may complete the command (R216) -/
  | copySectorDone (core : CoreId) (cmd sector : Nat)
  /-- A wait without a slot evaluates its condition at its back-off interval (R245) -/
  | waitPoll (core : CoreId) (th : Thread)
  /-- A wait whose condition has not held for 65,536 cycles retires with met = 0 (R245) -/
  | waitTimeout (core : CoreId) (th : Thread)
  /-- DTIME reaches a barrier's deadline: unmarked chunks are zero-filled and it goes PARTIAL (R250) -/
  | barrierDeadline (core : CoreId) (bar : Nat)
  /-- A data flit is received, checked and placed by chunk in a barrier or ring (R470) -/
  | data (port : Nat) (f : Flit)
  /-- An ACK control packet arrives, acknowledging a range of flits (R386) -/
  | ack (port : Nat) (p : Packet)
  /-- A SACK arrives, reporting received and missing flits (R372) -/
  | sack (port : Nat) (p : Packet)
  /-- A TRIMN arrives naming trimmed flits (R372) -/
  | trimn (port : Nat) (p : Packet)
  /-- An AUTHN arrives naming flits that failed authentication (R376) -/
  | authn (port : Nat) (p : Packet)
  /-- A MARKER arrives announcing a new key phase (R375) -/
  | marker (port : Nat) (p : Packet)
  /-- A MARKACK arrives acknowledging a key phase (R375) -/
  | markack (port : Nat) (p : Packet)
  /-- A remote-load request arrives and is translated and answered (R193) -/
  | rload (port : Nat) (p : Packet)
  /-- A remote atomic request arrives and is performed at the home (R398) -/
  | ratom (port : Nat) (p : Packet)
  /-- A credit grant arrives for a credit-mode flow (R378) -/
  | credit (port : Nat) (p : Packet)
  /-- A reliable ordered sequencer message arrives (R371) -/
  | seqmsg (port : Nat) (p : Packet)
  /-- A sealed send flit is sealed under its key slot and transmitted (R384) -/
  | flitTransmit (src : TxSrc)
  /-- A reliable flow's retransmission timeout expires and posts TIMEOUT (R372) -/
  | retransmitTimeout (core : CoreId) (flow fsn : Nat)
  /-- A held REDC flit's 256 ns expires and the aligned packet is sent (R415) -/
  | alignmentTimeout (port : Nat)
  /-- A waiting transport event is posted to the sequencer's event queue (R390) -/
  | transportEventPost (core : CoreId)
  /-- The sequencer copies a routine from the start queue and begins (R389) -/
  | sequencerStart (core : CoreId)
  /-- An EVWAIT's cycle limit passes (R395) -/
  | evwaitTimeout (core : CoreId)
  /-- DTIME reaches a DLINE's deadline (R395) -/
  | dlineDeadline (core : CoreId)
  /-- A lane or wavelength is lost and the port degrades or fails (R367) -/
  | laneLoss (port lost : Nat)
  /-- A receive buffer block fails its memory check and is retired (R366) -/
  | blockRetire (port : Nat)
  /-- Training ends with the port UP, DEGRADED or FAILED (R367) -/
  | trainingDone (port passing : Nat)
  /-- Training without success for 10 ms leaves the port FAILED (R367) -/
  | trainingTimeout (port : Nat)
  /-- A draining port's buffers empty and it goes DOWN (R367) -/
  | linkDrainDone (port : Nat)
  /-- A waiting fault record is written to its fault ring and PROD rises (R330) -/
  | faultRecordPost (die : Nat)
  /-- A RESOLVE with ACT 0x00 replays an object's parked sectors on the page (R331) -/
  | resolveReplay (die : Nat) (seq : BitVec 32)
  /-- A RESOLVE with ACT 0x10–0x13 makes the object FAULTED with that code (R331) -/
  | resolveFail (die : Nat) (seq : BitVec 32) (act : BitVec 8)
  /-- A CXL port's link goes down and its regions go LOST (R336) -/
  | poolLinkDown (cxl : Nat)
  /-- The memory device reports a region failed and it goes LOST (R334) -/
  | regionFailureReport (region : Nat)
  /-- A back-invalidation snoop invalidates or recalls a pool line (R237) -/
  | biSnoop (line : Nat) (toShared : Bool)
  /-- A PCIe AtomicOp completion arrives and is handled by its kind (R213) -/
  | hostAtomicCompletion (core : CoreId) (cmd : Nat) (c : AtomicCpl)
  /-- No AtomicOp completion arrives within the Completion Timeout range (R213) -/
  | atomicCompletionTimeout (core : CoreId) (cmd : Nat) (performed : Bool)
  /-- A write claims a proxy request and OK reports whether it was granted (R429) -/
  | pxclaim (seq : BitVec 64)
  /-- A write reports a proxy request answered; the device reads OLD and completes (R429) -/
  | pxdone (seq : BitVec 64)
  /-- An unclaimed proxy request times out and its command faults (R429) -/
  | proxyClaimTimeout (seq : BitVec 64)
  /-- A host write through BAR4 is performed on the H path (R426) -/
  | bar4Write (off : Nat) (bytes : List Byte)
  /-- A host read through BAR4 returns device memory (R426) -/
  | bar4Read (off len : Nat)
  /-- A write to a BAR register without behaviour of its own (R422) -/
  | registerWrite (bar off size : Nat) (value : Option (BitVec 64))
  /-- Builds a context from a context record (R302) -/
  | build (c : Cmd)
  /-- Makes a context resident on its cores (R302) -/
  | reside (c : Cmd)
  /-- Clears a FAULTED context (R302) -/
  | clear (c : Cmd)
  /-- Tears a context down and starts invalidating its translations (R302) -/
  | teardown (c : Cmd)
  /-- The teardown invalidation retires and the context becomes FREE (R302) -/
  | teardownComplete (ctx : Nat)
  /-- A pre-emption command latches a request on a core (R311) -/
  | preempt (c : Cmd)
  /-- Invalidates translations of an ASID, or all (R424) -/
  | inval (c : Cmd)
  /-- Starts training a DOWN port (R367) -/
  | linkEnable (c : Cmd)
  /-- Puts a port in DRAINING (R367) -/
  | linkDrain (c : Cmd)
  /-- Retrains a DEGRADED port (R367) -/
  | linkRetrain (c : Cmd)
  /-- Takes a port DOWN, dropping buffered flits (R367) -/
  | linkDisable (c : Cmd)
  /-- Fences a pool region (R334) -/
  | regionFence (c : Cmd)
  /-- Brings a FENCED pool region ONLINE (R334) -/
  | regionOnline (c : Cmd)
  /-- Defines a group table entry (R407) -/
  | groupDefine (c : Cmd)
  /-- Joins a defined group (R407) -/
  | groupJoin (c : Cmd)
  /-- Activates a joined group (R407) -/
  | groupActivate (c : Cmd)
  /-- Resumes a suspended group (R407) -/
  | groupResume (c : Cmd)
  /-- Suspends an active group (R407) -/
  | groupSuspend (c : Cmd)
  /-- Dissolves a group and frees its reduction entries (R407) -/
  | groupDissolve (c : Cmd)
  /-- Writes a signed attestation report over a nonce (R433) -/
  | attest (c : Cmd)
  /-- CTL.EN := 1 enables a host submission ring (R282) -/
  | hostRingEnable (ctx ring : Nat)
  /-- CTL.EN := 0 disables a host submission ring (R282) -/
  | hostRingDisable (ctx ring : Nat)
  /-- CLR clears a monitor's extremes and bins (R435) -/
  | monitorClear (mon : Nat)
  /-- A monitor samples its source into its bins (R435) -/
  | monitorSample (mon value : Nat)
  /-- A write of 1 to FRZ freezes every clock (R434) -/
  | frz
  /-- The FREEZE_N pin held low freezes every clock (R434) -/
  | freezeN
  /-- A read of SCANDATA returns a scan word and advances the word (R434) -/
  | scandata
  /-- A write to the warm-reset register requests a warm reset (R432) -/
  | warmResetRequest
  /-- The WRST_N pin held low for 1 µs requests a warm reset (R432) -/
  | wrstN
  /-- A PCIe Hot Reset requests a warm reset (R432) -/
  | hotReset
  /-- A Secondary Bus Reset requests a warm reset (R432) -/
  | secondaryBusReset
  /-- A Fundamental Reset acts as a power-on reset (R432) -/
  | fundamentalReset
  /-- Power-on verifies firmware, runs self-test and trains HBM (R432) -/
  | powerOn
  /-- Self-test and HBM training end and the device enters WAITFW (R432) -/
  | bootWaitfw (pass : BitVec 8)
  /-- The Chaperone firmware check ends with READY or FAILED (R432) -/
  | firmwareCheck (ok : Bool)
  /-- A CXL port's link comes up, so that a region online command for its regions can succeed (R334) -/
  | poolLinkUp (cxl : Nat)
  /-- A host read of a stream or copy gets no completion in time and its bytes are delivered as zeros carrying poison (R193) -/
  | hostReadTimeout (core : CoreId) (obj : ObjRef) (pos : Nat)
  /-- A storage array suffers an error its SECDED code cannot correct, poisoning the row or granule or dropping a clean LLC line (R340) -/
  | uncorrectableError (place : ErrPlace)
  /-- Sustained draw reaches the design power or PWRLIM and the housekeeping controller starts or stops withholding M and V issue slots (R14) -/
  | throttling (on : Bool)
  /-- The last element, scale or metadata byte of a plane load arrives, moving the plane from LOADING or NEEDMETA to READY or NEEDMETA (R164) -/
  | planeLoadDone (core : CoreId) (arr : Nat)
  /-- An M word reads the last byte of a leased range and releases the lease, letting held writes take effect (R171) -/
  | leaseRelease (core : CoreId)
  /-- An XFAO, XCAS or remote atomic's read-modify-write is performed at its home, the old value written to RET and the command made DONE (R211) -/
  | readModifyWriteDone (core : CoreId) (cmd unit : Nat)
  /-- The pool home acknowledges a written-home line, performing the write at POOL scope so a waiting release may proceed (R238) -/
  | poolWriteAck (line : Nat)
  /-- The flushing zero-length read of a SYSTEM-scope release toward host memory completes, after which the release write is issued (R240) -/
  | flushReadCompletion (core : CoreId)
  deriving DecidableEq, Repr
end Sys2Proof
end

