-- ==== Sys2Proof/WellFormed.lean ====
section
/-! DEFINITION. Check 3 of R27 as a static check: every reserved field and every field the form does not
use is 0, and every field value lies within its stated limits. It needs no state. -/

namespace Sys2Proof

/-! Types (R33). -/

/-- Element width in bits by type code; the 6-bit formats count as 8 (R48, R139, R158). -/
def typeWidth (t : BitVec 5) : Nat :=
  match t.toNat with
  | 0x00 | 0x1C | 0x1D => 32
  | 0x01 | 0x02 | 0x14 => 16
  | 0x08 | 0x0D | 0x12 | 0x13 | 0x17 | 0x18 => 4
  | 0x19 | 0x1A => 2
  | 0x1B => 1
  | 0x1E => 64
  | _ => 8

/-- The 6-bit element types. -/
def isSixBit (t : BitVec 5) : Bool :=
  t.toNat ∈ [0x06, 0x07, 0x0B, 0x0C, 0x10, 0x11]

/-- Block length of a block format (R49, R50), 0 for a plain type. -/
def blockLen (t : BitVec 5) : Nat :=
  if 0x09 ≤ t.toNat ∧ t.toNat ≤ 0x0E then 32
  else if 0x0F ≤ t.toNat ∧ t.toNat ≤ 0x13 then 16 else 0

/-- A plain floating vector type: .f32, .bf16 or .f16. -/
def isVecFloat (t : BitVec 5) : Bool := t.toNat ≤ 2

/-- VADD and VSUB types (R132). -/
def arithType (t : BitVec 5) : Bool :=
  t.toNat ∈ [0, 1, 2, 0x1C, 0x1D, 0x14, 0x15, 0x16, 0x1E]

/-- Types of VMUL, VFMA, VFMS, VMIN, VMAX, VABS, VNEG and VCMP (R132). -/
def mulType (t : BitVec 5) : Bool := arithType t && t ≠ 0x1E

/-- Shift types (R132). -/
def shiftType (t : BitVec 5) : Bool := t.toNat ∈ [0x1C, 0x1D, 0x14, 0x15, 0x16]

/-- The accumulation classes of R55: 0 floating, 1 integer, 2 binary. -/
def accClass (t : BitVec 5) : Option Nat :=
  if t.toNat ≤ 0x13 then some 0
  else if t.toNat ≤ 0x1A then some 1
  else if t.toNat = 0x1B then some 2 else none

/-! Tile operands (R28 to R30). -/

def tLvl (o : BitVec 20) : Nat := (o.extractLsb' 18 2).toNat
def tView (o : BitVec 20) : Nat := (o.extractLsb' 16 2).toNat
def tReg (o : BitVec 20) : Nat := (o.extractLsb' 6 10).toNat
def tIdx (o : BitVec 20) : Nat := (o.extractLsb' 0 6).toNat
/-- Kind of a special operand (R30); the same bits as the view. -/
def tKind (o : BitVec 20) : Nat := tView o
def tPayload (o : BitVec 20) : Nat := (o.extractLsb' 0 16).toNat

/-- Shapes (R62): 0 whole, 1 row, 2 column or diagonal, 3 none of its own (special level). -/
def tShape (o : BitVec 20) : Nat :=
  if tLvl o = 3 then 3 else if tView o = 3 then 2 else tView o

/-- The number of containers of a view (R62). -/
def shapeLen (sh : Nat) : Nat := if sh = 0 then 1024 else if sh = 1 then 64 else 16

/-- The index limits of a view: row index at most 15, whole index 0. -/
def idxOk (view idx : Nat) : Bool :=
  if view = 0 then idx = 0 else if view = 1 then idx ≤ 15 else true

/-- A source operand within the limits of R28 and R30. -/
def srcOk (o : BitVec 20) : Bool :=
  match tLvl o with
  | 0 => tReg o < 768 && idxOk (tView o) (tIdx o)
  | 1 => tReg o < 16 && idxOk (tView o) (tIdx o)
  | 2 => tReg o < 4 && idxOk (tView o) (tIdx o)
  | _ =>
    match tKind o with
    | 0 => tPayload o < 8
    | 1 => true
    | 2 => tPayload o < 4
    | _ => tPayload o < 32

/-- A source with a view of its own. -/
def srcView (o : BitVec 20) : Bool := srcOk o && tLvl o ≠ 3

/-- A destination operand (R28, R29). -/
def dstOk (o : BitVec 20) : Bool :=
  match tLvl o with
  | 0 =>
    tReg o < 768 &&
      (if tView o = 0 then tIdx o = 0 || (16 ≤ tIdx o && tIdx o < 32) else idxOk (tView o) (tIdx o))
  | 1 => tReg o < 16 && idxOk (tView o) (tIdx o)
  | _ => false

/-- A queue operand. -/
def isQueue (o : BitVec 20) : Bool := tLvl o = 3 && tKind o = 0

/-- A source combines with the destination (R129, R130). -/
def combines (d a : BitVec 20) : Bool :=
  match tShape d, tShape a with
  | _, 3 => !(isQueue a && tShape d = 2)
  | 0, _ => true
  | 1, 1 => true
  | 2, 2 => true
  | _, _ => false

/-- Source valid and combining with the destination. -/
def vsrc (d a : BitVec 20) : Bool := srcOk a && combines d a

/-- .int64p operands are whole or row views (R132). -/
def pairView (ty : BitVec 5) (os : List (BitVec 20)) : Bool :=
  ty ≠ 0x1E || os.all (fun o => tShape o ≠ 2)

def rmOk (rm : BitVec 3) : Bool := rm.toNat ≤ 4

/-- An amount or index operand: an immediate splat or a register splat (R138, R144). -/
def amountOk (o : BitVec 20) : Bool := srcOk o && tLvl o = 3 && (tKind o = 1 || tKind o = 3)

/-- Containers of an operand, a special operand taking the destination's shape (R130). -/
def viewLen (d a : BitVec 20) : Nat := if tShape a = 3 then shapeLen (tShape d) else shapeLen (tShape a)

/-- The part rule of R139: dest width, source width, containers, part. -/
def partOk (wd wa ld la p : Nat) : Bool :=
  let nd := ld * (32 / wd)
  let na := la * (32 / wa)
  (wd ≤ 8 * wa && wa ≤ 8 * wd) &&
    (if wd < wa then (p + 1) * na ≤ nd else (p + 1) * nd ≤ na)

/-! Class-wide checks. -/

def VT.plain (f : VT) : Bool := f.ty = 0 && f.rm = 0 && f.sat = 0 && f.fn = 0

/-- Binary element-wise arithmetic with an rm for floats and a sat for integers (R132, R135). -/
def wfArith (ok : Bool) (f : VT) : Bool :=
  ok && dstOk f.d && vsrc f.d f.a && vsrc f.d f.b && pairView f.ty [f.d, f.a, f.b] && f.fn = 0 &&
    (if isVecFloat f.ty then rmOk f.rm && f.sat = 0 else f.rm = 0)

def wfMinMax (f : VT) : Bool :=
  mulType f.ty && dstOk f.d && vsrc f.d f.a && vsrc f.d f.b && f.fn = 0 && f.rm = 0 && f.sat = 0

def wfUnary (f : VT) : Bool :=
  mulType f.ty && dstOk f.d && vsrc f.d f.a && f.b = 0 && f.fn = 0 && f.rm = 0 &&
    (!isVecFloat f.ty || f.sat = 0)

def wfLogic (f : VT) : Bool := f.plain && dstOk f.d && vsrc f.d f.a && vsrc f.d f.b

def wfShift (satOk : Bool) (f : VT) : Bool :=
  shiftType f.ty && dstOk f.d && vsrc f.d f.a && vsrc f.d f.b && f.fn = 0 && f.rm = 0 && (satOk || f.sat = 0)

def wfVcvt (f : VT) : Bool :=
  let st : BitVec 5 := f.b.extractLsb' 0 5
  let blk := blockLen st ≠ 0 || blockLen f.ty ≠ 0
  let n := if typeWidth f.ty < typeWidth st then viewLen f.d f.a * (32 / typeWidth st)
    else shapeLen (tShape f.d) * (32 / typeWidth f.ty)
  dstOk f.d && vsrc f.d f.a && f.b.extractLsb' 9 11 = 0 && (blk || f.b.extractLsb' 5 4 = 0) &&
    f.ty.toNat < 0x1E && st.toNat < 0x1E && rmOk f.rm && !(blockLen st ≠ 0 && blockLen f.ty ≠ 0) &&
    partOk (typeWidth f.ty) (typeWidth st) (shapeLen (tShape f.d)) (viewLen f.d f.a) f.fn.toNat &&
    (!blk || n % (blockLen st + blockLen f.ty) = 0)

def wfVrqs (f : VT) : Bool :=
  f.ty.toNat ∈ [0x14, 0x15, 0x16, 0x17, 0x18] && dstOk f.d && vsrc f.d f.a && srcOk f.b &&
    tLvl f.b = 3 && tKind f.b = 3 &&
    partOk (typeWidth f.ty) 32 (shapeLen (tShape f.d)) (viewLen f.d f.a) (f.fn.extractLsb' 0 2).toNat

def wfVmaci (f : VT) : Bool :=
  let p := (f.fn.extractLsb' 0 2).toNat
  (f.ty = 0x15 || f.ty = 0x16) && dstOk f.d && vsrc f.d f.a && vsrc f.d f.b && f.rm = 0 &&
    partOk 32 8 (shapeLen (tShape f.d)) (viewLen f.d f.a) p &&
    partOk 32 8 (shapeLen (tShape f.d)) (viewLen f.d f.b) p

def sameShape (d a : BitVec 20) : Bool := tShape a = 3 || tShape a = tShape d

def wfVdot4 (f : VT) : Bool :=
  (f.ty = 0x15 || f.ty = 0x16) && dstOk f.d && vsrc f.d f.a && vsrc f.d f.b && f.rm = 0 &&
    sameShape f.d f.a && sameShape f.d f.b && f.fn.extractLsb' 0 2 = 0

/-- VROTR, VROTC, VBCR, VBCC with the shapes allowed (R144). -/
def wfMove (shapes : List Nat) (f : VT) : Bool :=
  f.plain && dstOk f.d && vsrc f.d f.a && amountOk f.b && shapes.contains (tShape f.d) && sameShape f.d f.a

/-- VREDR, VREDC: a whole source, or with a whole destination one at the special level, which takes its shape
(R130, R146). -/
def wfRed (shapes : List Nat) (f : VT) : Bool :=
  f.ty.toNat ∈ [0, 0x1C, 0x1D] && dstOk f.d && srcOk f.a &&
    (tShape f.a = 0 || (tShape f.a = 3 && tShape f.d = 0)) && shapes.contains (tShape f.d) &&
    f.b = 0 && f.fn.toNat ≤ 5 && (f.ty ≠ 0 || f.fn.toNat ≤ 2) &&
    (if f.ty = 0 ∧ f.fn = 0 then rmOk f.rm else f.rm = 0) && (f.sat = 0 || (f.ty ≠ 0 && f.fn = 0))

/-- VTRN, ZIPn, UNZIPn: main-level whole operands whose n registers end at v767 (R149); the destination may name the
copy of R29. -/
def wfMulti (n : Nat) (f : VT) : Bool :=
  f.plain && f.b = 0 && tLvl f.d = 0 && tView f.d = 0 && dstOk f.d && tLvl f.a = 0 && tView f.a = 0 &&
    tIdx f.a = 0 && tReg f.d + n ≤ 768 && tReg f.a + n ≤ 768

/-- VLDS and VSTS (R152). A VSTS whose source is a queue or a splat has no view to give it a shape, and no rule says what it
stores: the form takes none, so the word raises RESERVED_FIELD at check 3 (DESIGN CHOICE, log entry 149). -/
def wfLdst (dst : Bool) (f : VT) : Bool :=
  (if dst then dstOk f.d else srcView f.d) && (f.ty = 0 || isSixBit f.ty) && f.rm = 0 && f.sat = 0 && f.fn = 0

/-! Scalar forms (R80 to R96). -/

def s3Base (f : S3) : Bool := f.c = 0 && f.cond = 0 && f.imm = 0

/-- Two-source forms that accept I = 1 (R81). -/
def wfS3i (f : S3) : Bool := s3Base f && (if f.i = 0 then f.n = 0 else f.b = 0)

/-- Two-source forms without I. -/
def wfS3r (f : S3) : Bool := s3Base f && f.i = 0 && f.n = 0

def wfCmp (f : S3) : Bool := f.c = 0 && f.cond.toNat ≤ 0xB && (if f.i = 0 then f.imm = 0 else f.b = 0)

def wfBins (f : S3) : Bool := f.cond = 0 && f.imm = 0 && (if f.i = 0 then f.n = 0 else f.b = 0)

def wfS3u (f : S3) : Bool := s3Base f && f.i = 0 && f.b = 0 && f.n = 0

/-- Partner engine of PUTX and GETX: n[1:0], not the executing engine (R96). -/
def partnerOk (h : Hdr) (n : BitVec 6) : Bool := n.extractLsb' 2 4 = 0 && n.extractLsb' 0 2 ≠ h.tag

/-- Access size of a sub code (R90). -/
def subBytes (sub : BitVec 4) : Nat :=
  match sub.toNat with
  | 0 | 4 => 1
  | 1 | 5 => 2
  | 2 | 6 => 4
  | _ => 8

/-- The assigned special-register numbers (R75). -/
def sprAssigned (n : BitVec 32) : Bool :=
  n.toNat ∈ [0x000, 0x001, 0x002, 0x003, 0x004, 0x010, 0x011, 0x012, 0x013, 0x014, 0x015, 0x016, 0x020,
    0x021, 0x022, 0x023, 0x024, 0x025, 0x028, 0x029, 0x02A, 0x02B, 0x030, 0x031, 0x032]

def guardZero (h : Hdr) : Bool := h.greg = 0 && h.gbit = 0 && h.gsense = 0

/-! Matrix forms (R166, R173 to R175). -/

def MX.noMem (f : MX) : Bool := f.spa = 0 && f.bar = 0 && f.bt = 0
def MX.noTile (f : MX) : Bool := f.bar = 0 && f.bt = 0 && f.tile = 0
def MX.noSp (f : MX) : Bool := f.sp = 0 && f.mv = 0 && f.nv = 0
def MX.noTypes (f : MX) : Bool := f.ta = 0 && f.tb = 0

def pairOk (f : MX) : Bool := accClass f.ta = accClass f.tb && (accClass f.ta).isSome

def widerWidth (f : MX) : Nat := max (typeWidth f.ta) (typeWidth f.tb)

/-- R166: what sparsity requires. -/
def sparseOk (f : MX) : Bool :=
  f.sp = 0 || (widerWidth f ∈ [4, 8, 16] && blockLen f.ta = 0 && blockLen f.tb = 0 && f.ta ≠ 0 && f.mv = 0)

/-- R173: a barrier-tile operand of type t. -/
def btOk (f : MX) (t : BitVec 5) : Bool :=
  if f.bt = 1 then f.spa = 0 && blockLen t = 0 else f.bar = 0 && f.tile = 0

def queueSpa (f : MX) : Bool := f.spa.extractLsb' 3 13 = 0

def wfMld (f : MX) : Bool :=
  f.arr ≠ 3 && pairOk f && sparseOk f && f.acc = 0 && f.z = 0 && (f.mv = 1 || f.nv = 0)

def readoutOk (f : MX) : Bool :=
  (f.ta = 0 && f.tb.toNat ∈ [0, 1, 2, 3, 4]) ||
    ((f.ta = 0x1C || f.ta = 0x1E) && f.tb.toNat ∈ [0x1C, 0x14, 0x15, 0x1E])

/-! Stream, command and system forms. -/

def wfSopen (f : ST) : Bool :=
  f.dk.toNat ≤ 3 && f.pol ≠ 3 && f.atm ≠ 3 && (f.dk = 0 || f.oq = 0) &&
    (if f.dk = 2 then f.imm.extractLsb' 4 12 = 0 else f.imm = 0) && (f.dk = 1 || f.dk = 3 || f.gd = 0)

def ST.rest0 (f : ST) : Bool := f.dk = 0 && f.pd = 0 && f.pt = 0 && f.atm = 0

def wfSclose (imm : BitVec 16) (f : ST) : Bool :=
  f.rest0 && f.oq = 0 && f.pol = 0 && f.ga = 0 && f.gd = 0 && f.recb = 0 && f.imm = imm

def cmBase (f : CM) : Bool :=
  (f.we = 1 || (f.ws = 0 && f.wt = 0)) && (f.se = 1 || (f.ss = 0 && f.si = 0))

def wfX (f : CM) : Bool := cmBase f && f.gt = 0 && f.qsel = 0 && f.gp = 0

/-- SY words: which of the eleven fields a form uses; every other one must be 0. -/
structure SyUse where
  gd : Bool := false
  ga : Bool := false
  gb : Bool := false
  n : Bool := false
  obj : Bool := false
  scope : Bool := false
  ord : Bool := false
  paths : Bool := false
  code : Option Nat := some 0
  opnd : Bool := false

def wfSy (u : SyUse) (f : SY) : Bool :=
  (u.gd || f.gd = 0) && (u.ga || f.ga = 0) && (u.gb || f.gb = 0) && (u.n || f.n = 0) && (u.obj || f.obj = 0) &&
    (if u.scope then f.scope.toNat ≤ 4 else f.scope = 0) && (u.ord || f.ord = 0) &&
    (u.paths || (f.pa = 0 && f.pb = 0)) &&
    (match u.code with | some c => f.code.toNat = c | none => true) && (u.opnd || f.opnd = 0)

def wfBar (u : SyUse) (f : SY) : Bool := f.obj.toNat < 64 && wfSy u f
def wfRing (u : SyUse) (f : SY) : Bool := f.obj.toNat < 16 && wfSy u f

/-- Engines that may save or restore a kind (R320), by engine code. -/
def saveEngine (kind : Nat) (tag : BitVec 2) : Bool :=
  match kind with
  | 0 | 1 => true
  | 2 | 3 => tag = 2
  | 4 | 5 => tag = 3
  | 6 | 7 => tag = 1
  | _ => false

def wfSave (h : Hdr) (f : SY) : Bool :=
  saveEngine f.code.toNat h.tag &&
    wfSy { ga := f.code ≠ 0, gb := f.code.toNat ∈ [1, 2, 3, 4, 6], code := none, opnd := true } f

/-! Sequencer words (R391 to R402). -/

def SeqW.f (w : SeqW) : BitVec 4 := w.lo.extractLsb' 44 4
def SeqW.c (w : SeqW) : BitVec 4 := w.lo.extractLsb' 40 4
def SeqW.rsv (w : SeqW) : BitVec 8 := w.lo.extractLsb' 32 8
def SeqW.imm (w : SeqW) : BitVec 32 := w.lo.extractLsb' 0 32

/-- Fields used by a sequencer form beside its f code. -/
structure SeqUse where
  a : Bool := false
  b : Bool := false
  c : Bool := false
  imm : Bool := false
  f : List Nat := [0]

def wfSeq (u : SeqUse) (w : SeqW) : Bool :=
  (u.a || w.a = 0) && (u.b || w.b = 0) && (u.c || w.c = 0) && w.rsv = 0 && (u.imm || w.imm = 0) &&
    u.f.contains w.f.toNat

/-- Check 3 of R27 and the word checks of R391 for the forms that are words. Headers are checked by R22
when they are entered; events have no encoding and so no check. -/
def WellFormed : Instr → Bool
  | .add _ f | .sub _ f | .mul _ f | .and _ f | .or _ f | .xor _ f | .andn _ f | .orn _ f | .shl _ f
  | .shr _ f | .sar _ f | .rotl _ f | .min _ f | .max _ f | .minu _ f | .maxu _ f | .bext _ f | .bset _ f
  | .bclr _ f => wfS3i f
  | .mulh _ f | .mulhu _ f | .div _ f | .divu _ f | .rem _ f | .remu _ f => wfS3r f
  | .addi _ f => f.n = 0 && f.sub = 0
  | .cmp _ f => wfCmp f
  | .sel _ f => f.i = 0 && f.cond = 0 && f.imm = 0
  | .movi _ f => f.a = 0 && f.n = 0 && f.sub = 0
  | .moviZ _ f => f.a = 0 && f.n = 0 && f.sub = 1
  | .moviHi _ f => f.a = 0 && f.n = 0 && f.sub = 2
  | .movw _ f => f.mode = 0
  | .movwZ _ f => f.mode = 1
  | .lea _ f => f.i = 0 && f.c = 0 && f.cond = 0
  | .clz _ f | .ctz _ f | .popc _ f => wfS3u f
  | .bins _ f => wfBins f
  | .mfs _ f => f.a = 0 && f.n = 0 && f.sub = 0 && sprAssigned f.imm
  | .mts _ f => f.d = 0 && f.n = 0 && f.sub = 0 && sprAssigned f.imm
  | .spld _ f => f.a = 0 && f.n = 0 && f.sub.toNat ≤ 6 && f.imm.toNat + subBytes f.sub ≤ 16384
  | .spst _ f => f.a = 0 && f.n = 0 && f.sub.toNat ≤ 3 && f.imm.toNat + subBytes f.sub ≤ 16384
  | .pld _ f => f.n.toNat < 8 && f.sub.toNat ≤ 6
  | .sld _ f => f.n = 0 && f.sub.toNat ≤ 6
  | .sst _ f => f.n = 0 && f.sub.toNat ≤ 3
  | .putx h f => partnerOk h f.n && f.d = 0 && f.b = 0 && f.i = 0 && s3Base f
  | .getx h f => partnerOk h f.n && f.a = 0 && f.b = 0 && f.i = 0 && s3Base f
  | .pbr _ f => f.lc = 0 && f.pusho = 0 && f.cr = 0 && f.s = 0 && f.q = 0 && f.gc = 0 && f.r = 0 && f.tl = 0
  | .br _ f =>
    f.lc = 0 && f.cr = 0 && f.s = 0 && f.q = 0 && f.gc = 0 && f.r = 0 && f.tl = 0 && f.imm = 0
  | .bro h f =>
    f.lc = 0 && f.pusho = 0 && f.cr = 0 && f.s = 0 && f.gc = 0 && f.r = 0 && f.tl = 0 && f.imm = 0 &&
      f.q ≠ h.tag && guardZero h
  | .jmpl _ f => f.t = 0 && f.lc = 0 && f.pusho = 0 && f.cr = 0 && f.s = 0 && f.q = 0 && f.gc = 0 && f.r = 0
  | .loop h f =>
    f.t = 0 && f.pusho = 0 && f.q = 0 && f.tl = 0 && guardZero h && (if f.cr = 1 then f.imm = 0 else f.gc = 0)
  | .loopj h f =>
    f.t = 0 && f.pusho = 0 && f.q = 0 && f.tl = 0 && f.cr = 0 && f.gc = 0 && f.imm = 0 && guardZero h
  | .lbrk _ f =>
    f.t = 0 && f.pusho = 0 && f.cr = 0 && f.s = 0 && f.q = 0 && f.gc = 0 && f.r = 0 && f.tl = 0 && f.imm = 0
  | .nop _ f | .taskend _ f => wfSy {} f
  | .sopen _ f => wfSopen f
  | .sclose _ f => wfSclose 0 f
  | .scloseAbort _ f => wfSclose 1 f
  | .sstat _ f => f.rest0 && f.oq = 0 && f.pol = 0 && f.ga = 0 && f.recb = 0 && f.imm = 0
  | .sfeed _ f =>
    f.rest0 && f.str = 0 && f.pol = 0 && f.gd = 0 && f.recb = 0 && 1 ≤ f.imm.toNat && f.imm.toNat ≤ 128
  | .sdrain _ f => f.rest0 && f.oq = 0 && f.pol = 0 && f.ga = 0 && f.gd = 0 && f.recb = 0 && f.imm = 0
  | .spref _ f =>
    f.rest0 && f.str = 0 && f.oq = 0 && f.gd = 0 && f.imm = 0 && (f.pol = 0 || f.pol = 2)
  | .xcopy _ f | .xfill _ f | .xacc _ f | .xfao _ f | .xcas _ f | .xgath _ f | .xscat _ f | .xcmo _ f
  | .xsig _ f => wfX f
  | .fence _ f =>
    f.pa ≠ 0 && f.pb ≠ 0 && f.pb.extractLsb' 0 1 = 0 && wfSy { scope := true, paths := true } f
  | .ssig _ f => f.ord ≠ 1 && wfSy { ga := true, obj := true, scope := true, ord := true, opnd := true } f
  | .swait _ f =>
    f.ord ≠ 2 && wfSy { gd := true, gb := true, n := true, obj := true, scope := true, ord := true, opnd := true } f
  | .sset _ f => wfSy { ga := true, obj := true, opnd := true } f
  | .barm _ f => wfBar { ga := true, obj := true, opnd := true } f
  | .bwait _ f => wfBar { gd := true, n := true, obj := true } f
  | .bwaitTile _ f => wfBar { gd := true, gb := true, n := true, obj := true, code := some 1, opnd := true } f
  | .btestTile _ f => wfBar { gd := true, gb := true, n := true, obj := true, opnd := true } f
  | .btestStat _ f => wfBar { gd := true, obj := true, code := some 1 } f
  | .btestCnt _ f => wfBar { gd := true, obj := true, code := some 2 } f
  | .btestLate _ f => wfBar { gd := true, obj := true, code := some 3 } f
  | .brst _ f => wfBar { obj := true } f
  | .rwaitf _ f | .rwaite _ f => wfRing { gd := true, gb := true, n := true, obj := true, opnd := true } f
  | .rclaim _ f => wfRing { gd := true, gb := true, obj := true, opnd := true } f
  | .rpub _ f => wfRing { gb := true, obj := true, opnd := true } f
  | .rpubInit _ f => wfRing { ga := true, obj := true, code := some 1, opnd := true } f
  | .rpubClose _ f => wfRing { obj := true, code := some 2 } f
  | .rcons _ f => wfRing { gb := true, obj := true, opnd := true } f
  | .rconsUpto _ f => wfRing { gb := true, obj := true, code := some 1, opnd := true } f
  | .rconsPub _ f => wfRing { gd := true, obj := true, code := some 2 } f
  | .rconsCons _ f => wfRing { gd := true, obj := true, code := some 3 } f
  | .rconsClm _ f => wfRing { gd := true, obj := true, code := some 4 } f
  | .rconsDrops _ f => wfRing { gd := true, obj := true, code := some 5 } f
  | .rconsDropb _ f => wfRing { gd := true, obj := true, code := some 6 } f
  | .qpush _ f => cmBase f && f.qsel.toNat ≤ 3 && f.gp = 0
  | .qpoll _ f => cmBase f && f.qsel.toNat ≤ 3
  | .tqpush _ f => wfX f
  | .trap _ f => wfSy { code := none } f
  | .svc _ f => wfSy { gd := true, ga := true, code := none } f
  | .rett _ f => wfSy {} f
  | .rettAbort _ f => wfSy { code := some 1 } f
  | .yield _ f => wfSy { gd := true, n := true } f
  | .csave h f | .crest h f => wfSave h f
  | .csaveEnd _ f | .crestEnd _ f => wfSy { code := some 15 } f
  | .idle _ f => wfSy { gd := true, ga := true } f
  | .tlbinvPage _ f => f.opnd ≠ 0 && wfSy { ga := true, gb := true, opnd := true } f
  | .tlbinvAsid _ f => wfSy { gb := true, code := some 1 } f
  | .tlbinvAll _ f => wfSy { code := some 2 } f
  | .tlbprobe _ f => wfSy { gd := true, ga := true } f
  | .sealWord _ f => wfSy {} f
  | .sealWait _ f => wfSy { code := some 1 } f
  | .pmarkV _ f | .pclrV _ f => srcView f.opnd && tLvl f.opnd ≤ 1 && wfSy { opnd := true } f
  | .pmarkA _ f | .pclrA _ f => wfSy { ga := true, gb := true, opnd := true } f
  | .vadd _ f | .vsub _ f => wfArith (arithType f.ty) f
  | .vmul _ f => wfArith (mulType f.ty) f
  | .vfma _ f | .vfms _ f => wfArith (mulType f.ty) f
  | .vmin _ f | .vmax _ f => wfMinMax f
  | .vabs _ f | .vneg _ f => wfUnary f
  | .vand _ f | .vor _ f | .vxor _ f => wfLogic f
  | .vnot _ f => f.plain && dstOk f.d && vsrc f.d f.a && f.b = 0
  | .vshl _ f => wfShift true f
  | .vshr _ f | .vsar _ f => wfShift false f
  | .vcmp _ f =>
    mulType f.ty && dstOk f.d && vsrc f.d f.a && vsrc f.d f.b && f.rm = 0 && f.sat = 0 && f.fn.toNat ≤ 5
  | .vsel _ f =>
    dstOk f.d && vsrc f.d f.a && f.mreg.toNat < 768 && f.ty = 0 && f.rm = 0 && f.sat = 0 && f.fn = 0 && f.ring = 0
  | .vmov _ f => f.plain && dstOk f.d && srcOk f.a && !(isQueue f.a && tShape f.d = 2) && f.b = 0
  | .vcvt _ f => wfVcvt f
  | .vrqs _ f => wfVrqs f
  | .vmaci _ f => wfVmaci f
  | .vdot4 _ f => wfVdot4 f
  | .vsfu _ f =>
    isVecFloat f.ty && dstOk f.d && vsrc f.d f.a && f.b = 0 && rmOk f.rm && f.sat = 0
  | .vrotr _ f => wfMove [0, 1] f
  | .vrotc _ f => wfMove [0, 2] f && tView f.d ≠ 3 && (tLvl f.a = 3 || tView f.a ≠ 3)
  | .vbcr _ f | .vbcc _ f => wfMove [0] f
  | .vredr _ f => wfRed [0, 2] f
  | .vredc _ f => wfRed [0, 1] f
  | .vtrn _ f => wfMulti 4 f
  | .vperm _ f =>
    f.plain && dstOk f.d && vsrc f.d f.a && vsrc f.d f.b && tShape f.d ≠ 2 && sameShape f.d f.a && sameShape f.d f.b
  | .zip2 _ f | .unzip2 _ f => wfMulti 2 f
  | .zip3 _ f | .unzip3 _ f => wfMulti 3 f
  | .zip4 _ f | .unzip4 _ f => wfMulti 4 f
  | .cpush _ f =>
    f.d = 0 && srcView f.a && tShape f.a ≠ 2 && f.mreg.toNat < 768 && f.ty = 0 && f.rm = 0 && f.sat = 0 &&
      f.fn.toNat ≤ 1
  | .cpop _ f =>
    f.a = 0 && dstOk f.d && tShape f.d ≠ 2 && f.mreg = 0 && f.mbit = 0 && f.msense = 0 && f.ty = 0 && f.rm = 0 &&
      f.sat = 0 && f.fn = 0
  | .vlds _ f => wfLdst true f
  | .vsts _ f => wfLdst false f
  | .vpop _ f => f.plain && dstOk f.d && tShape f.d ≠ 2 && srcOk f.a && isQueue f.a && f.b = 0
  | .vpopSkip _ f =>
    f.d = 0 && srcOk f.a && isQueue f.a && tLvl f.b = 3 && tKind f.b = 1 && 1 ≤ tPayload f.b &&
      tPayload f.b ≤ 128 && f.ty = 0 && f.rm = 0 && f.sat = 0 && f.fn = 1
  | .vpchk _ f => f.d = 0 && f.b = 0 && srcView f.a && f.ty = 0 && f.rm = 0 && f.sat = 0 && f.fn.toNat ≤ 1
  | .viota _ f =>
    dstOk f.d && vsrc f.d f.a && f.mreg.toNat < 768 && f.ty = 0x1C && f.rm = 0 && f.sat = 0 && f.fn = 0 && f.ring = 0
  | .vsplat _ f =>
    f.plain && dstOk f.d && srcOk f.a && !(isQueue f.a && tShape f.d = 2) && amountOk f.b
  | .mcfg _ f =>
    f.arr ≠ 3 && f.noTypes && f.noTile && f.noSp && f.acc = 0 && f.z = 0
  | .mldw _ f => wfMld f && btOk f f.ta
  | .mldwq _ f => wfMld f && queueSpa f && f.noTile
  | .mswap _ f => f.arr ≠ 3 && f.noTypes && f.spa = 0 && f.noTile && f.noSp && f.acc = 0 && f.z = 0
  | .mstr _ f => f.arr ≠ 3 && pairOk f && sparseOk f && btOk f f.tb && f.mv = 0 && f.nv = 0
  | .mstrq _ f => f.arr ≠ 3 && pairOk f && sparseOk f && queueSpa f && f.noTile && f.mv = 0 && f.nv = 0
  | .mmv _ f => f.arr ≠ 3 && pairOk f && queueSpa f && f.noTile && f.sp = 0 && f.mv = 1
  | .mspm _ f =>
    f.arr ≠ 3 && pairOk f && f.sp ≠ 0 && sparseOk f && f.noTile && f.acc = 0 && f.mv = 0 && f.nv = 0 && f.z = 0
  | .macz _ f => f.arr = 0 && f.noTypes && f.noMem && f.noSp && f.z = 0
  | .macrd _ f =>
    f.arr = 0 && readoutOk f && f.noMem && f.sp = 0 && f.mv = 0 && f.z = 0 && f.tile.toNat + f.nv.toNat ≤ 767
  | .macst _ f => f.arr = 0 && readoutOk f && f.bar = 0 && f.bt = 0 && f.noSp && f.z = 0
  | .macld _ f => f.arr = 0 && f.noTypes && f.bar = 0 && f.bt = 0 && f.noSp && f.z = 0
  | .mfin _ f => f.arr ≠ 3 && f.noTypes && f.spa = 0 && f.noTile && f.noSp && f.acc = 0 && f.z = 0
  | .halt w => wfSeq { imm := true } w && w.imm.toNat < 256
  | .mov w => wfSeq { a := true, b := true } w
  | .seqMovi _ => true
  | .seqAdd w | .seqSub w | .seqAnd w | .seqOr w | .seqXor w | .seqShl w | .seqShr w =>
    wfSeq { a := true, b := true, c := true, imm := true } w
  | .seqCmp w =>
    wfSeq { a := true, b := true, c := true, imm := true, f := [0, 1, 2, 3, 4, 5, 6, 7, 8, 9, 10, 11] } w
  | .seqBr w => wfSeq { imm := true } w
  | .brcNz w => wfSeq { a := true, imm := true } w
  | .brcZ w => wfSeq { a := true, imm := true, f := [1] } w
  | .call w => wfSeq { a := true, imm := true } w
  | .ret w => wfSeq { b := true } w
  | .ldx w | .stx w => wfSeq { a := true, b := true, imm := true, f := [0, 1, 2, 3] } w
  | .evwait w => wfSeq { a := true, c := true, imm := true } w
  | .evpop w | .cmdpop w | .dline w => wfSeq { a := true, b := true, imm := true } w
  | .sems w => wfSeq { b := true, imm := true } w && w.imm.toNat < 256
  | .semsDone w => wfSeq { b := true, f := [1] } w
  | .semw w => wfSeq { b := true, imm := true } w && w.imm.toNat < 256
  | .put w | .putm w | .get w | .atom w | .redc w | .xplan w | .xstep w | .flowOpen w =>
    wfSeq { a := true, b := true, imm := true } w
  | .flowClose w => wfSeq { a := true, f := [1] } w
  | .flowStat w => wfSeq { a := true, b := true, imm := true, f := [2] } w
  | .retx w => wfSeq { a := true, b := true, c := true, imm := true } w
  | .keyld w => wfSeq { a := true, b := true, c := true, imm := true, f := [0, 1] } w
  | .keysw w => wfSeq { a := true, c := true, f := [0, 1] } w
  | .sectionHeader _ => true
  | .bankWakeDone _ _ | .commitPointTaken _ | .commitPointSealed _ | .heldEffectRelease _ | .strike _
  | .strikeReport _ | .rollbackComplete _ | .iterationRecoveryRollback _ | .doorbellWrite _ _
  | .launchBundle _ | .loadImage _ | .unloadImage _ | .bundleActivate _ | .walkerBind _ | .tileTaskRetire _
  | .bundleDone _ | .recordPromotion _ | .expressWindow _ | .auditReplayDone _ | .auditReplayAbandon _
  | .walkerPreemptRequest _ | .preemptDrainEntry _ | .preemptStallTimeout _ | .preemptComplete _
  | .refillStart _ | .svcAnswer _ _ _ _ | .translationDone _ _ _ | .streamSectorArrival _ _ _
  | .xCommandStart _ | .copySectorDone _ _ _ | .waitPoll _ _ | .waitTimeout _ _ | .barrierDeadline _ _
  | .data _ _ | .ack _ _ | .sack _ _ | .trimn _ _ | .authn _ _ | .marker _ _ | .markack _ _ | .rload _ _
  | .ratom _ _ | .credit _ _ | .seqmsg _ _ | .flitTransmit _ | .retransmitTimeout _ _ _
  | .alignmentTimeout _ | .transportEventPost _ | .sequencerStart _ | .evwaitTimeout _ | .dlineDeadline _
  | .laneLoss _ _ | .blockRetire _ | .trainingDone _ _ | .trainingTimeout _ | .linkDrainDone _
  | .faultRecordPost _ | .resolveReplay _ _ | .resolveFail _ _ _ | .poolLinkDown _ | .regionFailureReport _
  | .biSnoop _ _ | .hostAtomicCompletion _ _ _ | .atomicCompletionTimeout _ _ _ | .pxclaim _ | .pxdone _
  | .proxyClaimTimeout _ | .bar4Write _ _ | .bar4Read _ _ | .registerWrite _ _ _ _ | .build _ | .reside _
  | .clear _ | .teardown _ | .teardownComplete _ | .preempt _ | .inval _ | .linkEnable _ | .linkDrain _
  | .linkRetrain _ | .linkDisable _ | .regionFence _ | .regionOnline _ | .groupDefine _ | .groupJoin _
  | .groupActivate _ | .groupResume _ | .groupSuspend _ | .groupDissolve _ | .attest _
  | .hostRingEnable _ _ | .hostRingDisable _ _ | .monitorClear _ | .monitorSample _ _ | .frz | .freezeN
  | .scandata | .warmResetRequest | .wrstN | .hotReset | .secondaryBusReset | .fundamentalReset | .powerOn
  | .bootWaitfw _ | .firmwareCheck _ | .poolLinkUp _ | .hostReadTimeout _ _ _ | .uncorrectableError _
  | .throttling _ | .planeLoadDone _ _ | .leaseRelease _ | .readModifyWriteDone _ _ _ | .poolWriteAck _
  | .flushReadCompletion _ => true

end Sys2Proof
end

