-- ==== Sys2Proof/Decode.lean ====
section
/-! DEFINITION. The decoder of kernel words (R17, R23, R31, R36), of section headers (R19) and of sequencer
words (R391, R392), total on any bits and rejecting by name, and after it the encoder. A word is accepted
when its opcode is assigned for its TAG, its fields pass check 3 of R27 and every reserved bit is 0, that
is, when encoding what was read gives the word back. -/

namespace Sys2Proof

/-- Why a word is no instruction: its opcode is not assigned for its TAG (check 1 of R27), or it is a form
with a reserved field, an unused field or a field out of its limits (check 3); the form is kept, since
check 2 comes between the two. -/
inductive DecErr where
  | illegal
  | reserved (i : Instr)
  deriving DecidableEq, Repr

/-! The fields of a word (R23) and of each class (R31). -/

def wTag (w : BitVec 96) : BitVec 2 := w.extractLsb' 94 2
def wOpc (w : BitVec 96) : BitVec 10 := w.extractLsb' 84 10
def wArea (w : BitVec 96) : BitVec 72 := w.extractLsb' 0 72
def wHdr (w : BitVec 96) : Hdr :=
  ⟨wTag w, w.extractLsb' 79 5, w.extractLsb' 73 6, w.extractLsb' 72 1⟩

def decS3 (x : BitVec 72) : S3 :=
  ⟨x.extractLsb' 67 5, x.extractLsb' 62 5, x.extractLsb' 57 5, x.extractLsb' 52 5, x.extractLsb' 46 6, x.extractLsb' 45 1, x.extractLsb' 41 4, x.extractLsb' 0 32⟩

def encS3 (f : S3) : BitVec 72 :=
  f.d ++ f.a ++ f.b ++ f.c ++ f.n ++ f.i ++ f.cond ++ (0 : BitVec 9) ++ f.imm

def decSI (x : BitVec 72) : SI :=
  ⟨x.extractLsb' 67 5, x.extractLsb' 62 5, x.extractLsb' 56 6, x.extractLsb' 52 4, x.extractLsb' 0 32⟩

def encSI (f : SI) : BitVec 72 :=
  f.d ++ f.a ++ f.n ++ f.sub ++ (0 : BitVec 20) ++ f.imm

def decSW (x : BitVec 72) : SW :=
  ⟨x.extractLsb' 67 5, x.extractLsb' 64 3, x.extractLsb' 0 48⟩

def encSW (f : SW) : BitVec 72 :=
  f.d ++ f.mode ++ (0 : BitVec 16) ++ f.imm

def decBrF (x : BitVec 72) : BrF :=
  ⟨x.extractLsb' 69 3, x.extractLsb' 67 2, x.extractLsb' 66 1, x.extractLsb' 65 1, x.extractLsb' 62 3, x.extractLsb' 60 2, x.extractLsb' 55 5, x.extractLsb' 54 1, x.extractLsb' 51 3, x.extractLsb' 0 32⟩

def encBrF (f : BrF) : BitVec 72 :=
  f.t ++ f.lc ++ f.pusho ++ f.cr ++ f.s ++ f.q ++ f.gc ++ f.r ++ f.tl ++ (0 : BitVec 19) ++ f.imm

def decVT (x : BitVec 72) : VT :=
  ⟨x.extractLsb' 52 20, x.extractLsb' 32 20, x.extractLsb' 12 20, x.extractLsb' 7 5, x.extractLsb' 4 3, x.extractLsb' 3 1, x.extractLsb' 0 3⟩

def encVT (f : VT) : BitVec 72 :=
  f.d ++ f.a ++ f.b ++ f.ty ++ f.rm ++ f.sat ++ f.fn

def decVM (x : BitVec 72) : VM :=
  ⟨x.extractLsb' 52 20, x.extractLsb' 32 20, x.extractLsb' 22 10, x.extractLsb' 17 5, x.extractLsb' 16 1, x.extractLsb' 11 5, x.extractLsb' 8 3, x.extractLsb' 7 1, x.extractLsb' 4 3, x.extractLsb' 0 4⟩

def encVM (f : VM) : BitVec 72 :=
  f.d ++ f.a ++ f.mreg ++ f.mbit ++ f.msense ++ f.ty ++ f.rm ++ f.sat ++ f.fn ++ f.ring

def decMX (x : BitVec 72) : MX :=
  ⟨x.extractLsb' 70 2, x.extractLsb' 65 5, x.extractLsb' 60 5, x.extractLsb' 44 16, x.extractLsb' 38 6, x.extractLsb' 37 1, x.extractLsb' 27 10, x.extractLsb' 7 20, x.extractLsb' 5 2, x.extractLsb' 4 1, x.extractLsb' 1 3, x.extractLsb' 0 1⟩

def encMX (f : MX) : BitVec 72 :=
  f.arr ++ f.ta ++ f.tb ++ f.spa ++ f.bar ++ f.bt ++ f.tile ++ f.acc ++ f.sp ++ f.mv ++ f.nv ++ f.z

def decST (x : BitVec 72) : ST :=
  ⟨x.extractLsb' 68 4, x.extractLsb' 65 3, x.extractLsb' 62 3, x.extractLsb' 60 2, x.extractLsb' 59 1, x.extractLsb' 58 1, x.extractLsb' 56 2, x.extractLsb' 51 5, x.extractLsb' 46 5, x.extractLsb' 29 17, x.extractLsb' 0 16⟩

def encST (f : ST) : BitVec 72 :=
  f.str ++ f.dk ++ f.oq ++ f.pol ++ f.pd ++ f.pt ++ f.atm ++ f.ga ++ f.gd ++ f.recb ++ (0 : BitVec 13) ++ f.imm

def decCM (x : BitVec 72) : CM :=
  ⟨x.extractLsb' 64 8, x.extractLsb' 48 16, x.extractLsb' 40 8, x.extractLsb' 32 8, x.extractLsb' 15 17, x.extractLsb' 10 5, x.extractLsb' 9 1, x.extractLsb' 8 1, x.extractLsb' 5 3, x.extractLsb' 0 5⟩

def encCM (f : CM) : BitVec 72 :=
  f.ws ++ f.wt ++ f.ss ++ f.si ++ f.blk ++ f.gt ++ f.we ++ f.se ++ f.qsel ++ f.gp

def decSY (x : BitVec 72) : SY :=
  ⟨x.extractLsb' 67 5, x.extractLsb' 62 5, x.extractLsb' 57 5, x.extractLsb' 51 6, x.extractLsb' 43 8, x.extractLsb' 40 3, x.extractLsb' 38 2, x.extractLsb' 33 5, x.extractLsb' 28 5, x.extractLsb' 20 8, x.extractLsb' 0 20⟩

def encSY (f : SY) : BitVec 72 :=
  f.gd ++ f.ga ++ f.gb ++ f.n ++ f.obj ++ f.scope ++ f.ord ++ f.pa ++ f.pb ++ f.code ++ f.opnd

/-- The opcode of a kernel form (R36). -/
def opcOf : Instr → Option (BitVec 10)
  | .add _ _ => some 0x000
  | .sub _ _ => some 0x001
  | .addi _ _ => some 0x002
  | .mul _ _ => some 0x003
  | .mulh _ _ => some 0x004
  | .mulhu _ _ => some 0x005
  | .div _ _ => some 0x006
  | .divu _ _ => some 0x007
  | .rem _ _ => some 0x008
  | .remu _ _ => some 0x009
  | .and _ _ => some 0x00A
  | .or _ _ => some 0x00B
  | .xor _ _ => some 0x00C
  | .andn _ _ => some 0x00D
  | .orn _ _ => some 0x00E
  | .shl _ _ => some 0x00F
  | .shr _ _ => some 0x010
  | .sar _ _ => some 0x011
  | .rotl _ _ => some 0x012
  | .min _ _ => some 0x013
  | .max _ _ => some 0x014
  | .minu _ _ => some 0x015
  | .maxu _ _ => some 0x016
  | .cmp _ _ => some 0x017
  | .sel _ _ => some 0x018
  | .movi _ _ => some 0x019
  | .moviZ _ _ => some 0x019
  | .moviHi _ _ => some 0x019
  | .movw _ _ => some 0x01A
  | .movwZ _ _ => some 0x01A
  | .lea _ _ => some 0x01B
  | .clz _ _ => some 0x01C
  | .ctz _ _ => some 0x01D
  | .popc _ _ => some 0x01E
  | .bext _ _ => some 0x01F
  | .bins _ _ => some 0x020
  | .bset _ _ => some 0x021
  | .bclr _ _ => some 0x022
  | .mfs _ _ => some 0x023
  | .mts _ _ => some 0x024
  | .spld _ _ => some 0x025
  | .spst _ _ => some 0x026
  | .pld _ _ => some 0x027
  | .sld _ _ => some 0x028
  | .sst _ _ => some 0x029
  | .putx _ _ => some 0x02A
  | .getx _ _ => some 0x02B
  | .pbr _ _ => some 0x040
  | .br _ _ => some 0x041
  | .bro _ _ => some 0x042
  | .jmpl _ _ => some 0x043
  | .loop _ _ => some 0x044
  | .loopj _ _ => some 0x045
  | .lbrk _ _ => some 0x046
  | .nop _ _ => some 0x047
  | .taskend _ _ => some 0x048
  | .sopen _ _ => some 0x080
  | .sclose _ _ => some 0x081
  | .scloseAbort _ _ => some 0x081
  | .sstat _ _ => some 0x082
  | .sfeed _ _ => some 0x083
  | .sdrain _ _ => some 0x084
  | .spref _ _ => some 0x085
  | .xcopy _ _ => some 0x090
  | .xfill _ _ => some 0x091
  | .xacc _ _ => some 0x092
  | .xfao _ _ => some 0x093
  | .xcas _ _ => some 0x094
  | .xgath _ _ => some 0x095
  | .xscat _ _ => some 0x096
  | .xcmo _ _ => some 0x097
  | .xsig _ _ => some 0x098
  | .fence _ _ => some 0x0A0
  | .ssig _ _ => some 0x0A8
  | .swait _ _ => some 0x0A9
  | .sset _ _ => some 0x0AA
  | .barm _ _ => some 0x0AB
  | .bwait _ _ => some 0x0AC
  | .bwaitTile _ _ => some 0x0AC
  | .btestTile _ _ => some 0x0AD
  | .btestStat _ _ => some 0x0AD
  | .btestCnt _ _ => some 0x0AD
  | .btestLate _ _ => some 0x0AD
  | .brst _ _ => some 0x0AE
  | .rwaitf _ _ => some 0x0B0
  | .rwaite _ _ => some 0x0B1
  | .rclaim _ _ => some 0x0B2
  | .rpub _ _ => some 0x0B3
  | .rpubInit _ _ => some 0x0B3
  | .rpubClose _ _ => some 0x0B3
  | .rcons _ _ => some 0x0B4
  | .rconsUpto _ _ => some 0x0B4
  | .rconsPub _ _ => some 0x0B4
  | .rconsCons _ _ => some 0x0B4
  | .rconsClm _ _ => some 0x0B4
  | .rconsDrops _ _ => some 0x0B4
  | .rconsDropb _ _ => some 0x0B4
  | .qpush _ _ => some 0x0B5
  | .qpoll _ _ => some 0x0B6
  | .tqpush _ _ => some 0x0B7
  | .trap _ _ => some 0x0C0
  | .svc _ _ => some 0x0C1
  | .rett _ _ => some 0x0C2
  | .rettAbort _ _ => some 0x0C2
  | .yield _ _ => some 0x0C3
  | .csave _ _ => some 0x0C4
  | .csaveEnd _ _ => some 0x0C4
  | .crest _ _ => some 0x0C5
  | .crestEnd _ _ => some 0x0C5
  | .idle _ _ => some 0x0C6
  | .tlbinvPage _ _ => some 0x0C8
  | .tlbinvAsid _ _ => some 0x0C8
  | .tlbinvAll _ _ => some 0x0C8
  | .tlbprobe _ _ => some 0x0C9
  | .sealWord _ _ => some 0x0D0
  | .sealWait _ _ => some 0x0D0
  | .pmarkV _ _ => some 0x0D1
  | .pmarkA _ _ => some 0x0D1
  | .pclrV _ _ => some 0x0D2
  | .pclrA _ _ => some 0x0D2
  | .vadd _ _ => some 0x100
  | .vsub _ _ => some 0x101
  | .vmul _ _ => some 0x102
  | .vfma _ _ => some 0x103
  | .vfms _ _ => some 0x104
  | .vmin _ _ => some 0x105
  | .vmax _ _ => some 0x106
  | .vabs _ _ => some 0x107
  | .vneg _ _ => some 0x108
  | .vand _ _ => some 0x109
  | .vor _ _ => some 0x10A
  | .vxor _ _ => some 0x10B
  | .vnot _ _ => some 0x10C
  | .vshl _ _ => some 0x10D
  | .vshr _ _ => some 0x10E
  | .vsar _ _ => some 0x10F
  | .vcmp _ _ => some 0x110
  | .vsel _ _ => some 0x111
  | .vmov _ _ => some 0x112
  | .vcvt _ _ => some 0x113
  | .vrqs _ _ => some 0x114
  | .vmaci _ _ => some 0x115
  | .vdot4 _ _ => some 0x116
  | .vsfu _ _ => some 0x117
  | .vrotr _ _ => some 0x118
  | .vrotc _ _ => some 0x119
  | .vbcr _ _ => some 0x11A
  | .vbcc _ _ => some 0x11B
  | .vredr _ _ => some 0x11C
  | .vredc _ _ => some 0x11D
  | .vtrn _ _ => some 0x11E
  | .vperm _ _ => some 0x11F
  | .zip2 _ _ => some 0x120
  | .zip3 _ _ => some 0x121
  | .zip4 _ _ => some 0x122
  | .unzip2 _ _ => some 0x123
  | .unzip3 _ _ => some 0x124
  | .unzip4 _ _ => some 0x125
  | .cpush _ _ => some 0x126
  | .cpop _ _ => some 0x127
  | .vlds _ _ => some 0x128
  | .vsts _ _ => some 0x129
  | .vpop _ _ => some 0x12A
  | .vpopSkip _ _ => some 0x12A
  | .vpchk _ _ => some 0x12B
  | .viota _ _ => some 0x12C
  | .vsplat _ _ => some 0x12D
  | .mcfg _ _ => some 0x200
  | .mldw _ _ => some 0x201
  | .mldwq _ _ => some 0x202
  | .mswap _ _ => some 0x203
  | .mstr _ _ => some 0x204
  | .mstrq _ _ => some 0x205
  | .mmv _ _ => some 0x206
  | .mspm _ _ => some 0x207
  | .macz _ _ => some 0x208
  | .macrd _ _ => some 0x209
  | .macst _ _ => some 0x20A
  | .macld _ _ => some 0x20B
  | .mfin _ _ => some 0x20C
  | .halt _ | .mov _ | .seqMovi _ | .seqAdd _ | .seqSub _ | .seqAnd _ | .seqOr _ | .seqXor _ | .seqShl _
  | .seqShr _ | .seqCmp _ | .seqBr _ | .brcNz _ | .brcZ _ | .call _ | .ret _ | .ldx _ | .stx _ | .evwait _
  | .evpop _ | .cmdpop _ | .sems _ | .semsDone _ | .semw _ | .dline _ | .flowOpen _ | .flowClose _
  | .flowStat _ | .put _ | .putm _ | .get _ | .atom _ | .redc _ | .retx _ | .xplan _ | .xstep _ | .keyld _
  | .keysw _ | .sectionHeader _ | .bankWakeDone _ _ | .commitPointTaken _ | .commitPointSealed _
  | .heldEffectRelease _ | .strike _ | .strikeReport _ | .rollbackComplete _ | .iterationRecoveryRollback _
  | .doorbellWrite _ _ | .launchBundle _ | .loadImage _ | .unloadImage _ | .bundleActivate _
  | .walkerBind _ | .tileTaskRetire _ | .bundleDone _ | .recordPromotion _ | .expressWindow _
  | .auditReplayDone _ | .auditReplayAbandon _ | .walkerPreemptRequest _ | .preemptDrainEntry _
  | .preemptStallTimeout _ | .preemptComplete _ | .refillStart _ | .svcAnswer _ _ _ _
  | .translationDone _ _ _ | .streamSectorArrival _ _ _ | .xCommandStart _ | .copySectorDone _ _ _
  | .waitPoll _ _ | .waitTimeout _ _ | .barrierDeadline _ _ | .data _ _ | .ack _ _ | .sack _ _ | .trimn _ _
  | .authn _ _ | .marker _ _ | .markack _ _ | .rload _ _ | .ratom _ _ | .credit _ _ | .seqmsg _ _
  | .flitTransmit _ | .retransmitTimeout _ _ _ | .alignmentTimeout _ | .transportEventPost _
  | .sequencerStart _ | .evwaitTimeout _ | .dlineDeadline _ | .laneLoss _ _ | .blockRetire _
  | .trainingDone _ _ | .trainingTimeout _ | .linkDrainDone _ | .faultRecordPost _ | .resolveReplay _ _
  | .resolveFail _ _ _ | .poolLinkDown _ | .regionFailureReport _ | .biSnoop _ _
  | .hostAtomicCompletion _ _ _ | .atomicCompletionTimeout _ _ _ | .pxclaim _ | .pxdone _
  | .proxyClaimTimeout _ | .bar4Write _ _ | .bar4Read _ _ | .registerWrite _ _ _ _ | .build _ | .reside _
  | .clear _ | .teardown _ | .teardownComplete _ | .preempt _ | .inval _ | .linkEnable _ | .linkDrain _
  | .linkRetrain _ | .linkDisable _ | .regionFence _ | .regionOnline _ | .groupDefine _ | .groupJoin _
  | .groupActivate _ | .groupResume _ | .groupSuspend _ | .groupDissolve _ | .attest _
  | .hostRingEnable _ _ | .hostRingDisable _ _ | .monitorClear _ | .monitorSample _ _ | .frz | .freezeN
  | .scandata | .warmResetRequest | .wrstN | .hotReset | .secondaryBusReset | .fundamentalReset | .powerOn
  | .bootWaitfw _ | .firmwareCheck _ | .poolLinkUp _ | .hostReadTimeout _ _ _ | .uncorrectableError _
  | .throttling _ | .planeLoadDone _ _ | .leaseRelease _ | .readModifyWriteDone _ _ _ | .poolWriteAck _
  | .flushReadCompletion _ => none

/-- The operand area of a kernel word. -/
def areaOf : Instr → BitVec 72
  | .add _ f | .sub _ f | .mul _ f | .mulh _ f | .mulhu _ f | .div _ f | .divu _ f | .rem _ f | .remu _ f
  | .and _ f | .or _ f | .xor _ f | .andn _ f | .orn _ f | .shl _ f | .shr _ f | .sar _ f | .rotl _ f
  | .min _ f | .max _ f | .minu _ f | .maxu _ f | .cmp _ f | .sel _ f | .lea _ f | .clz _ f | .ctz _ f
  | .popc _ f | .bext _ f | .bins _ f | .bset _ f | .bclr _ f | .putx _ f | .getx _ f => encS3 f
  | .addi _ f | .movi _ f | .moviZ _ f | .moviHi _ f | .mfs _ f | .mts _ f | .spld _ f | .spst _ f
  | .pld _ f | .sld _ f | .sst _ f => encSI f
  | .movw _ f | .movwZ _ f => encSW f
  | .pbr _ f | .br _ f | .bro _ f | .jmpl _ f | .loop _ f | .loopj _ f | .lbrk _ f => encBrF f
  | .vadd _ f | .vsub _ f | .vmul _ f | .vfma _ f | .vfms _ f | .vmin _ f | .vmax _ f | .vabs _ f
  | .vneg _ f | .vand _ f | .vor _ f | .vxor _ f | .vnot _ f | .vshl _ f | .vshr _ f | .vsar _ f
  | .vcmp _ f | .vmov _ f | .vcvt _ f | .vrqs _ f | .vmaci _ f | .vdot4 _ f | .vsfu _ f | .vrotr _ f
  | .vrotc _ f | .vbcr _ f | .vbcc _ f | .vredr _ f | .vredc _ f | .vtrn _ f | .vperm _ f | .zip2 _ f
  | .zip3 _ f | .zip4 _ f | .unzip2 _ f | .unzip3 _ f | .unzip4 _ f | .vlds _ f | .vsts _ f | .vpop _ f
  | .vpopSkip _ f | .vpchk _ f | .vsplat _ f => encVT f
  | .vsel _ f | .cpush _ f | .cpop _ f | .viota _ f => encVM f
  | .mcfg _ f | .mldw _ f | .mldwq _ f | .mswap _ f | .mstr _ f | .mstrq _ f | .mmv _ f | .mspm _ f
  | .macz _ f | .macrd _ f | .macst _ f | .macld _ f | .mfin _ f => encMX f
  | .sopen _ f | .sclose _ f | .scloseAbort _ f | .sstat _ f | .sfeed _ f | .sdrain _ f | .spref _ f => encST f
  | .xcopy _ f | .xfill _ f | .xacc _ f | .xfao _ f | .xcas _ f | .xgath _ f | .xscat _ f | .xcmo _ f
  | .xsig _ f | .qpush _ f | .qpoll _ f | .tqpush _ f => encCM f
  | .nop _ f | .taskend _ f | .fence _ f | .ssig _ f | .swait _ f | .sset _ f | .barm _ f | .bwait _ f
  | .bwaitTile _ f | .btestTile _ f | .btestStat _ f | .btestCnt _ f | .btestLate _ f | .brst _ f
  | .rwaitf _ f | .rwaite _ f | .rclaim _ f | .rpub _ f | .rpubInit _ f | .rpubClose _ f | .rcons _ f
  | .rconsUpto _ f | .rconsPub _ f | .rconsCons _ f | .rconsClm _ f | .rconsDrops _ f | .rconsDropb _ f
  | .trap _ f | .svc _ f | .rett _ f | .rettAbort _ f | .yield _ f | .csave _ f | .csaveEnd _ f
  | .crest _ f | .crestEnd _ f | .idle _ f | .tlbinvPage _ f | .tlbinvAsid _ f | .tlbinvAll _ f
  | .tlbprobe _ f | .sealWord _ f | .sealWait _ f | .pmarkV _ f | .pmarkA _ f | .pclrV _ f | .pclrA _ f => encSY f
  | .halt _ | .mov _ | .seqMovi _ | .seqAdd _ | .seqSub _ | .seqAnd _ | .seqOr _ | .seqXor _ | .seqShl _
  | .seqShr _ | .seqCmp _ | .seqBr _ | .brcNz _ | .brcZ _ | .call _ | .ret _ | .ldx _ | .stx _ | .evwait _
  | .evpop _ | .cmdpop _ | .sems _ | .semsDone _ | .semw _ | .dline _ | .flowOpen _ | .flowClose _
  | .flowStat _ | .put _ | .putm _ | .get _ | .atom _ | .redc _ | .retx _ | .xplan _ | .xstep _ | .keyld _
  | .keysw _ | .sectionHeader _ | .bankWakeDone _ _ | .commitPointTaken _ | .commitPointSealed _
  | .heldEffectRelease _ | .strike _ | .strikeReport _ | .rollbackComplete _ | .iterationRecoveryRollback _
  | .doorbellWrite _ _ | .launchBundle _ | .loadImage _ | .unloadImage _ | .bundleActivate _
  | .walkerBind _ | .tileTaskRetire _ | .bundleDone _ | .recordPromotion _ | .expressWindow _
  | .auditReplayDone _ | .auditReplayAbandon _ | .walkerPreemptRequest _ | .preemptDrainEntry _
  | .preemptStallTimeout _ | .preemptComplete _ | .refillStart _ | .svcAnswer _ _ _ _
  | .translationDone _ _ _ | .streamSectorArrival _ _ _ | .xCommandStart _ | .copySectorDone _ _ _
  | .waitPoll _ _ | .waitTimeout _ _ | .barrierDeadline _ _ | .data _ _ | .ack _ _ | .sack _ _ | .trimn _ _
  | .authn _ _ | .marker _ _ | .markack _ _ | .rload _ _ | .ratom _ _ | .credit _ _ | .seqmsg _ _
  | .flitTransmit _ | .retransmitTimeout _ _ _ | .alignmentTimeout _ | .transportEventPost _
  | .sequencerStart _ | .evwaitTimeout _ | .dlineDeadline _ | .laneLoss _ _ | .blockRetire _
  | .trainingDone _ _ | .trainingTimeout _ | .linkDrainDone _ | .faultRecordPost _ | .resolveReplay _ _
  | .resolveFail _ _ _ | .poolLinkDown _ | .regionFailureReport _ | .biSnoop _ _
  | .hostAtomicCompletion _ _ _ | .atomicCompletionTimeout _ _ _ | .pxclaim _ | .pxdone _
  | .proxyClaimTimeout _ | .bar4Write _ _ | .bar4Read _ _ | .registerWrite _ _ _ _ | .build _ | .reside _
  | .clear _ | .teardown _ | .teardownComplete _ | .preempt _ | .inval _ | .linkEnable _ | .linkDrain _
  | .linkRetrain _ | .linkDisable _ | .regionFence _ | .regionOnline _ | .groupDefine _ | .groupJoin _
  | .groupActivate _ | .groupResume _ | .groupSuspend _ | .groupDissolve _ | .attest _
  | .hostRingEnable _ _ | .hostRingDisable _ _ | .monitorClear _ | .monitorSample _ _ | .frz | .freezeN
  | .scandata | .warmResetRequest | .wrstN | .hotReset | .secondaryBusReset | .fundamentalReset | .powerOn
  | .bootWaitfw _ | .firmwareCheck _ | .poolLinkUp _ | .hostReadTimeout _ _ _ | .uncorrectableError _
  | .throttling _ | .planeLoadDone _ _ | .leaseRelease _ | .readModifyWriteDone _ _ _ | .poolWriteAck _
  | .flushReadCompletion _ => 0

/-- The header of a kernel word. -/
def hdrOf : Instr → Option Hdr
  | .add h _ | .sub h _ | .addi h _ | .mul h _ | .mulh h _ | .mulhu h _ | .div h _ | .divu h _ | .rem h _
  | .remu h _ | .and h _ | .or h _ | .xor h _ | .andn h _ | .orn h _ | .shl h _ | .shr h _ | .sar h _
  | .rotl h _ | .min h _ | .max h _ | .minu h _ | .maxu h _ | .cmp h _ | .sel h _ | .movi h _ | .moviZ h _
  | .moviHi h _ | .movw h _ | .movwZ h _ | .lea h _ | .clz h _ | .ctz h _ | .popc h _ | .bext h _
  | .bins h _ | .bset h _ | .bclr h _ | .mfs h _ | .mts h _ | .spld h _ | .spst h _ | .pld h _ | .sld h _
  | .sst h _ | .putx h _ | .getx h _ | .pbr h _ | .br h _ | .bro h _ | .jmpl h _ | .loop h _ | .loopj h _
  | .lbrk h _ | .nop h _ | .taskend h _ | .sopen h _ | .sclose h _ | .scloseAbort h _ | .sstat h _
  | .sfeed h _ | .sdrain h _ | .spref h _ | .xcopy h _ | .xfill h _ | .xacc h _ | .xfao h _ | .xcas h _
  | .xgath h _ | .xscat h _ | .xcmo h _ | .xsig h _ | .fence h _ | .ssig h _ | .swait h _ | .sset h _
  | .barm h _ | .bwait h _ | .bwaitTile h _ | .btestTile h _ | .btestStat h _ | .btestCnt h _
  | .btestLate h _ | .brst h _ | .rwaitf h _ | .rwaite h _ | .rclaim h _ | .rpub h _ | .rpubInit h _
  | .rpubClose h _ | .rcons h _ | .rconsUpto h _ | .rconsPub h _ | .rconsCons h _ | .rconsClm h _
  | .rconsDrops h _ | .rconsDropb h _ | .qpush h _ | .qpoll h _ | .tqpush h _ | .trap h _ | .svc h _
  | .rett h _ | .rettAbort h _ | .yield h _ | .csave h _ | .csaveEnd h _ | .crest h _ | .crestEnd h _
  | .idle h _ | .tlbinvPage h _ | .tlbinvAsid h _ | .tlbinvAll h _ | .tlbprobe h _ | .sealWord h _
  | .sealWait h _ | .pmarkV h _ | .pmarkA h _ | .pclrV h _ | .pclrA h _ | .vadd h _ | .vsub h _ | .vmul h _
  | .vfma h _ | .vfms h _ | .vmin h _ | .vmax h _ | .vabs h _ | .vneg h _ | .vand h _ | .vor h _
  | .vxor h _ | .vnot h _ | .vshl h _ | .vshr h _ | .vsar h _ | .vcmp h _ | .vsel h _ | .vmov h _
  | .vcvt h _ | .vrqs h _ | .vmaci h _ | .vdot4 h _ | .vsfu h _ | .vrotr h _ | .vrotc h _ | .vbcr h _
  | .vbcc h _ | .vredr h _ | .vredc h _ | .vtrn h _ | .vperm h _ | .zip2 h _ | .zip3 h _ | .zip4 h _
  | .unzip2 h _ | .unzip3 h _ | .unzip4 h _ | .cpush h _ | .cpop h _ | .vlds h _ | .vsts h _ | .vpop h _
  | .vpopSkip h _ | .vpchk h _ | .viota h _ | .vsplat h _ | .mcfg h _ | .mldw h _ | .mldwq h _ | .mswap h _
  | .mstr h _ | .mstrq h _ | .mmv h _ | .mspm h _ | .macz h _ | .macrd h _ | .macst h _ | .macld h _
  | .mfin h _ => some h
  | .halt _ | .mov _ | .seqMovi _ | .seqAdd _ | .seqSub _ | .seqAnd _ | .seqOr _ | .seqXor _ | .seqShl _
  | .seqShr _ | .seqCmp _ | .seqBr _ | .brcNz _ | .brcZ _ | .call _ | .ret _ | .ldx _ | .stx _ | .evwait _
  | .evpop _ | .cmdpop _ | .sems _ | .semsDone _ | .semw _ | .dline _ | .flowOpen _ | .flowClose _
  | .flowStat _ | .put _ | .putm _ | .get _ | .atom _ | .redc _ | .retx _ | .xplan _ | .xstep _ | .keyld _
  | .keysw _ | .sectionHeader _ | .bankWakeDone _ _ | .commitPointTaken _ | .commitPointSealed _
  | .heldEffectRelease _ | .strike _ | .strikeReport _ | .rollbackComplete _ | .iterationRecoveryRollback _
  | .doorbellWrite _ _ | .launchBundle _ | .loadImage _ | .unloadImage _ | .bundleActivate _
  | .walkerBind _ | .tileTaskRetire _ | .bundleDone _ | .recordPromotion _ | .expressWindow _
  | .auditReplayDone _ | .auditReplayAbandon _ | .walkerPreemptRequest _ | .preemptDrainEntry _
  | .preemptStallTimeout _ | .preemptComplete _ | .refillStart _ | .svcAnswer _ _ _ _
  | .translationDone _ _ _ | .streamSectorArrival _ _ _ | .xCommandStart _ | .copySectorDone _ _ _
  | .waitPoll _ _ | .waitTimeout _ _ | .barrierDeadline _ _ | .data _ _ | .ack _ _ | .sack _ _ | .trimn _ _
  | .authn _ _ | .marker _ _ | .markack _ _ | .rload _ _ | .ratom _ _ | .credit _ _ | .seqmsg _ _
  | .flitTransmit _ | .retransmitTimeout _ _ _ | .alignmentTimeout _ | .transportEventPost _
  | .sequencerStart _ | .evwaitTimeout _ | .dlineDeadline _ | .laneLoss _ _ | .blockRetire _
  | .trainingDone _ _ | .trainingTimeout _ | .linkDrainDone _ | .faultRecordPost _ | .resolveReplay _ _
  | .resolveFail _ _ _ | .poolLinkDown _ | .regionFailureReport _ | .biSnoop _ _
  | .hostAtomicCompletion _ _ _ | .atomicCompletionTimeout _ _ _ | .pxclaim _ | .pxdone _
  | .proxyClaimTimeout _ | .bar4Write _ _ | .bar4Read _ _ | .registerWrite _ _ _ _ | .build _ | .reside _
  | .clear _ | .teardown _ | .teardownComplete _ | .preempt _ | .inval _ | .linkEnable _ | .linkDrain _
  | .linkRetrain _ | .linkDisable _ | .regionFence _ | .regionOnline _ | .groupDefine _ | .groupJoin _
  | .groupActivate _ | .groupResume _ | .groupSuspend _ | .groupDissolve _ | .attest _
  | .hostRingEnable _ _ | .hostRingDisable _ _ | .monitorClear _ | .monitorSample _ _ | .frz | .freezeN
  | .scandata | .warmResetRequest | .wrstN | .hotReset | .secondaryBusReset | .fundamentalReset | .powerOn
  | .bootWaitfw _ | .firmwareCheck _ | .poolLinkUp _ | .hostReadTimeout _ _ _ | .uncorrectableError _
  | .throttling _ | .planeLoadDone _ _ | .leaseRelease _ | .readModifyWriteDone _ _ _ | .poolWriteAck _
  | .flushReadCompletion _ => none

/-- A kernel word from its fields (R23). -/
def packWord (h : Hdr) (opc : BitVec 10) (area : BitVec 72) : BitVec 96 :=
  h.tag ++ opc ++ h.greg ++ h.gbit ++ h.gsense ++ area

/-- The encoder of kernel words. -/
def encodeWord (i : Instr) : Option (BitVec 96) :=
  match hdrOf i, opcOf i with
  | some h, some c => some (packWord h c (areaOf i))
  | _, _ => none

/-- The engines on which an opcode is assigned (R36), as a list of TAG codes. -/
def enginesOf (opc : Nat) : List Nat :=
  match opc with
  | 0x000 | 0x001 | 0x002 | 0x003 | 0x004 | 0x005 | 0x006 | 0x007 | 0x008 | 0x009 | 0x00A | 0x00B | 0x00C
  | 0x00D | 0x00E | 0x00F | 0x010 | 0x011 | 0x012 | 0x013 | 0x014 | 0x015 | 0x016 | 0x017 | 0x018 | 0x019
  | 0x01A | 0x01B | 0x01C | 0x01D | 0x01E | 0x01F | 0x020 | 0x021 | 0x022 | 0x023 | 0x024 | 0x025 | 0x026
  | 0x027 | 0x02A | 0x02B | 0x040 | 0x041 | 0x042 | 0x043 | 0x046 | 0x047 | 0x048 | 0x0A0 | 0x0A8 | 0x0A9
  | 0x0AC | 0x0AD | 0x0C0 | 0x0C1 | 0x0C2 | 0x0C4 | 0x0C5 => [0, 1, 2, 3]
  | 0x028 | 0x029 | 0x090 | 0x091 | 0x092 | 0x093 | 0x094 | 0x095 | 0x096 | 0x097 | 0x098 | 0x0AA | 0x0AB
  | 0x0AE | 0x0B0 | 0x0B1 | 0x0B2 | 0x0B3 | 0x0B4 => [0, 1]
  | 0x044 | 0x0B5 | 0x0B6 | 0x0B7 | 0x0C3 | 0x0C6 | 0x0C8 | 0x0C9 | 0x0D0 => [0]
  | 0x045 => [1, 2, 3]
  | 0x080 | 0x081 | 0x082 | 0x083 | 0x084 | 0x085 => [1]
  | 0x0D1 | 0x0D2 => [1, 2]
  | 0x100 | 0x101 | 0x102 | 0x103 | 0x104 | 0x105 | 0x106 | 0x107 | 0x108 | 0x109 | 0x10A | 0x10B | 0x10C
  | 0x10D | 0x10E | 0x10F | 0x110 | 0x111 | 0x112 | 0x113 | 0x114 | 0x115 | 0x116 | 0x117 | 0x118 | 0x119
  | 0x11A | 0x11B | 0x11C | 0x11D | 0x11E | 0x11F | 0x120 | 0x121 | 0x122 | 0x123 | 0x124 | 0x125 | 0x126
  | 0x127 | 0x128 | 0x129 | 0x12A | 0x12B | 0x12C | 0x12D => [2]
  | 0x200 | 0x201 | 0x202 | 0x203 | 0x204 | 0x205 | 0x206 | 0x207 | 0x208 | 0x209 | 0x20A | 0x20B | 0x20C => [3]
  | _ => []

/-- The form that an opcode names for a TAG, its fields read out; a code field chooses among the rows of one
opcode, and an unlisted code stays with the first row, whose check 3 refuses it. -/
def rawWord (w : BitVec 96) : Option Instr :=
  let h := wHdr w
  let x := wArea w
  if !(enginesOf (wOpc w).toNat).contains (wTag w).toNat then none else
  match (wOpc w).toNat with
  | 0x000 => some (.add h (decS3 x))
  | 0x001 => some (.sub h (decS3 x))
  | 0x002 => some (.addi h (decSI x))
  | 0x003 => some (.mul h (decS3 x))
  | 0x004 => some (.mulh h (decS3 x))
  | 0x005 => some (.mulhu h (decS3 x))
  | 0x006 => some (.div h (decS3 x))
  | 0x007 => some (.divu h (decS3 x))
  | 0x008 => some (.rem h (decS3 x))
  | 0x009 => some (.remu h (decS3 x))
  | 0x00A => some (.and h (decS3 x))
  | 0x00B => some (.or h (decS3 x))
  | 0x00C => some (.xor h (decS3 x))
  | 0x00D => some (.andn h (decS3 x))
  | 0x00E => some (.orn h (decS3 x))
  | 0x00F => some (.shl h (decS3 x))
  | 0x010 => some (.shr h (decS3 x))
  | 0x011 => some (.sar h (decS3 x))
  | 0x012 => some (.rotl h (decS3 x))
  | 0x013 => some (.min h (decS3 x))
  | 0x014 => some (.max h (decS3 x))
  | 0x015 => some (.minu h (decS3 x))
  | 0x016 => some (.maxu h (decS3 x))
  | 0x017 => some (.cmp h (decS3 x))
  | 0x018 => some (.sel h (decS3 x))
  | 0x019 =>
    let f := decSI x
    some (if f.sub = 1 then .moviZ h f else if f.sub = 2 then .moviHi h f else .movi h f)
  | 0x01A =>
    let f := decSW x
    some (if f.mode = 1 then .movwZ h f else .movw h f)
  | 0x01B => some (.lea h (decS3 x))
  | 0x01C => some (.clz h (decS3 x))
  | 0x01D => some (.ctz h (decS3 x))
  | 0x01E => some (.popc h (decS3 x))
  | 0x01F => some (.bext h (decS3 x))
  | 0x020 => some (.bins h (decS3 x))
  | 0x021 => some (.bset h (decS3 x))
  | 0x022 => some (.bclr h (decS3 x))
  | 0x023 => some (.mfs h (decSI x))
  | 0x024 => some (.mts h (decSI x))
  | 0x025 => some (.spld h (decSI x))
  | 0x026 => some (.spst h (decSI x))
  | 0x027 => some (.pld h (decSI x))
  | 0x028 => some (.sld h (decSI x))
  | 0x029 => some (.sst h (decSI x))
  | 0x02A => some (.putx h (decS3 x))
  | 0x02B => some (.getx h (decS3 x))
  | 0x040 => some (.pbr h (decBrF x))
  | 0x041 => some (.br h (decBrF x))
  | 0x042 => some (.bro h (decBrF x))
  | 0x043 => some (.jmpl h (decBrF x))
  | 0x044 => some (.loop h (decBrF x))
  | 0x045 => some (.loopj h (decBrF x))
  | 0x046 => some (.lbrk h (decBrF x))
  | 0x047 => some (.nop h (decSY x))
  | 0x048 => some (.taskend h (decSY x))
  | 0x080 => some (.sopen h (decST x))
  | 0x081 =>
    let f := decST x
    some (if f.imm = 1 then .scloseAbort h f else .sclose h f)
  | 0x082 => some (.sstat h (decST x))
  | 0x083 => some (.sfeed h (decST x))
  | 0x084 => some (.sdrain h (decST x))
  | 0x085 => some (.spref h (decST x))
  | 0x090 => some (.xcopy h (decCM x))
  | 0x091 => some (.xfill h (decCM x))
  | 0x092 => some (.xacc h (decCM x))
  | 0x093 => some (.xfao h (decCM x))
  | 0x094 => some (.xcas h (decCM x))
  | 0x095 => some (.xgath h (decCM x))
  | 0x096 => some (.xscat h (decCM x))
  | 0x097 => some (.xcmo h (decCM x))
  | 0x098 => some (.xsig h (decCM x))
  | 0x0A0 => some (.fence h (decSY x))
  | 0x0A8 => some (.ssig h (decSY x))
  | 0x0A9 => some (.swait h (decSY x))
  | 0x0AA => some (.sset h (decSY x))
  | 0x0AB => some (.barm h (decSY x))
  | 0x0AC =>
    let f := decSY x
    some (if f.code = 1 then .bwaitTile h f else .bwait h f)
  | 0x0AD =>
    let f := decSY x
    some (if f.code = 1 then .btestStat h f else if f.code = 2 then .btestCnt h f else if f.code = 3 then .btestLate h f else .btestTile h f)
  | 0x0AE => some (.brst h (decSY x))
  | 0x0B0 => some (.rwaitf h (decSY x))
  | 0x0B1 => some (.rwaite h (decSY x))
  | 0x0B2 => some (.rclaim h (decSY x))
  | 0x0B3 =>
    let f := decSY x
    some (if f.code = 1 then .rpubInit h f else if f.code = 2 then .rpubClose h f else .rpub h f)
  | 0x0B4 =>
    let f := decSY x
    some (if f.code = 1 then .rconsUpto h f else if f.code = 2 then .rconsPub h f else if f.code = 3 then .rconsCons h f else if f.code = 4 then .rconsClm h f else if f.code = 5 then .rconsDrops h f else if f.code = 6 then .rconsDropb h f else .rcons h f)
  | 0x0B5 => some (.qpush h (decCM x))
  | 0x0B6 => some (.qpoll h (decCM x))
  | 0x0B7 => some (.tqpush h (decCM x))
  | 0x0C0 => some (.trap h (decSY x))
  | 0x0C1 => some (.svc h (decSY x))
  | 0x0C2 =>
    let f := decSY x
    some (if f.code = 1 then .rettAbort h f else .rett h f)
  | 0x0C3 => some (.yield h (decSY x))
  | 0x0C4 =>
    let f := decSY x
    some (if f.code = 15 then .csaveEnd h f else .csave h f)
  | 0x0C5 =>
    let f := decSY x
    some (if f.code = 15 then .crestEnd h f else .crest h f)
  | 0x0C6 => some (.idle h (decSY x))
  | 0x0C8 =>
    let f := decSY x
    some (if f.code = 1 then .tlbinvAsid h f else if f.code = 2 then .tlbinvAll h f else .tlbinvPage h f)
  | 0x0C9 => some (.tlbprobe h (decSY x))
  | 0x0D0 =>
    let f := decSY x
    some (if f.code = 1 then .sealWait h f else .sealWord h f)
  | 0x0D1 => some (if h.tag = 2 then .pmarkV h (decSY x) else .pmarkA h (decSY x))
  | 0x0D2 => some (if h.tag = 2 then .pclrV h (decSY x) else .pclrA h (decSY x))
  | 0x100 => some (.vadd h (decVT x))
  | 0x101 => some (.vsub h (decVT x))
  | 0x102 => some (.vmul h (decVT x))
  | 0x103 => some (.vfma h (decVT x))
  | 0x104 => some (.vfms h (decVT x))
  | 0x105 => some (.vmin h (decVT x))
  | 0x106 => some (.vmax h (decVT x))
  | 0x107 => some (.vabs h (decVT x))
  | 0x108 => some (.vneg h (decVT x))
  | 0x109 => some (.vand h (decVT x))
  | 0x10A => some (.vor h (decVT x))
  | 0x10B => some (.vxor h (decVT x))
  | 0x10C => some (.vnot h (decVT x))
  | 0x10D => some (.vshl h (decVT x))
  | 0x10E => some (.vshr h (decVT x))
  | 0x10F => some (.vsar h (decVT x))
  | 0x110 => some (.vcmp h (decVT x))
  | 0x111 => some (.vsel h (decVM x))
  | 0x112 => some (.vmov h (decVT x))
  | 0x113 => some (.vcvt h (decVT x))
  | 0x114 => some (.vrqs h (decVT x))
  | 0x115 => some (.vmaci h (decVT x))
  | 0x116 => some (.vdot4 h (decVT x))
  | 0x117 => some (.vsfu h (decVT x))
  | 0x118 => some (.vrotr h (decVT x))
  | 0x119 => some (.vrotc h (decVT x))
  | 0x11A => some (.vbcr h (decVT x))
  | 0x11B => some (.vbcc h (decVT x))
  | 0x11C => some (.vredr h (decVT x))
  | 0x11D => some (.vredc h (decVT x))
  | 0x11E => some (.vtrn h (decVT x))
  | 0x11F => some (.vperm h (decVT x))
  | 0x120 => some (.zip2 h (decVT x))
  | 0x121 => some (.zip3 h (decVT x))
  | 0x122 => some (.zip4 h (decVT x))
  | 0x123 => some (.unzip2 h (decVT x))
  | 0x124 => some (.unzip3 h (decVT x))
  | 0x125 => some (.unzip4 h (decVT x))
  | 0x126 => some (.cpush h (decVM x))
  | 0x127 => some (.cpop h (decVM x))
  | 0x128 => some (.vlds h (decVT x))
  | 0x129 => some (.vsts h (decVT x))
  | 0x12A =>
    let f := decVT x
    some (if f.fn = 1 then .vpopSkip h f else .vpop h f)
  | 0x12B => some (.vpchk h (decVT x))
  | 0x12C => some (.viota h (decVM x))
  | 0x12D => some (.vsplat h (decVT x))
  | 0x200 => some (.mcfg h (decMX x))
  | 0x201 => some (.mldw h (decMX x))
  | 0x202 => some (.mldwq h (decMX x))
  | 0x203 => some (.mswap h (decMX x))
  | 0x204 => some (.mstr h (decMX x))
  | 0x205 => some (.mstrq h (decMX x))
  | 0x206 => some (.mmv h (decMX x))
  | 0x207 => some (.mspm h (decMX x))
  | 0x208 => some (.macz h (decMX x))
  | 0x209 => some (.macrd h (decMX x))
  | 0x20A => some (.macst h (decMX x))
  | 0x20B => some (.macld h (decMX x))
  | 0x20C => some (.mfin h (decMX x))
  | _ => none

/-- The decoder of kernel words: checks 1 and 3 of R27. -/
def decodeWord (w : BitVec 96) : Except DecErr Instr :=
  match rawWord w with
  | none => .error .illegal
  | some i => if WellFormed i && encodeWord i == some w then .ok i else .error (.reserved i)

/-! Section headers (R19). Any 64 bits are read as a header; R22 checks them on entry. -/

def decodeHdr (x : BitVec 64) : SecHdr :=
  ⟨x.extractLsb' 56 8, x.extractLsb' 44 12, x.extractLsb' 32 12, x.extractLsb' 28 4, x.extractLsb' 24 4,
    x.extractLsb' 20 4, x.extractLsb' 16 4, x.extractLsb' 15 1, x.extractLsb' 12 3, x.extractLsb' 11 1,
    x.extractLsb' 10 1, x.extractLsb' 9 1, x.extractLsb' 8 1, x.extractLsb' 0 8⟩

def encodeHdr (f : SecHdr) : BitVec 64 :=
  f.mark ++ f.len ++ f.sid ++ f.wc ++ f.wa ++ f.wv ++ f.wm ++ f.loophead ++ f.stage ++ f.sealf ++ f.drainsafe ++
    f.commit ++ f.rsv ++ f.par

/-! Sequencer words (R391, R392). -/

/-- The opcode and the f code that a row fixes. -/
def seqOpOf : Instr → Option (BitVec 8 × SeqW)
  | .halt w => some (0x00, w)
  | .mov w => some (0x01, w)
  | .seqMovi w => some (0x02, w)
  | .seqAdd w => some (0x03, w)
  | .seqSub w => some (0x04, w)
  | .seqAnd w => some (0x05, w)
  | .seqOr w => some (0x06, w)
  | .seqXor w => some (0x07, w)
  | .seqShl w => some (0x08, w)
  | .seqShr w => some (0x09, w)
  | .seqCmp w => some (0x0A, w)
  | .seqBr w => some (0x10, w)
  | .brcNz w => some (0x11, w)
  | .brcZ w => some (0x11, w)
  | .call w => some (0x12, w)
  | .ret w => some (0x13, w)
  | .ldx w => some (0x18, w)
  | .stx w => some (0x19, w)
  | .evwait w => some (0x20, w)
  | .evpop w => some (0x21, w)
  | .cmdpop w => some (0x22, w)
  | .sems w => some (0x23, w)
  | .semsDone w => some (0x23, w)
  | .semw w => some (0x24, w)
  | .dline w => some (0x25, w)
  | .put w => some (0x30, w)
  | .putm w => some (0x31, w)
  | .get w => some (0x32, w)
  | .atom w => some (0x33, w)
  | .redc w => some (0x34, w)
  | .retx w => some (0x35, w)
  | .flowOpen w => some (0x36, w)
  | .flowClose w => some (0x36, w)
  | .flowStat w => some (0x36, w)
  | .xplan w => some (0x38, w)
  | .xstep w => some (0x39, w)
  | .keyld w => some (0x3C, w)
  | .keysw w => some (0x3D, w)
  | .add _ _ | .sub _ _ | .addi _ _ | .mul _ _ | .mulh _ _ | .mulhu _ _ | .div _ _ | .divu _ _ | .rem _ _
  | .remu _ _ | .and _ _ | .or _ _ | .xor _ _ | .andn _ _ | .orn _ _ | .shl _ _ | .shr _ _ | .sar _ _
  | .rotl _ _ | .min _ _ | .max _ _ | .minu _ _ | .maxu _ _ | .cmp _ _ | .sel _ _ | .movi _ _ | .moviZ _ _
  | .moviHi _ _ | .movw _ _ | .movwZ _ _ | .lea _ _ | .clz _ _ | .ctz _ _ | .popc _ _ | .bext _ _
  | .bins _ _ | .bset _ _ | .bclr _ _ | .mfs _ _ | .mts _ _ | .spld _ _ | .spst _ _ | .pld _ _ | .sld _ _
  | .sst _ _ | .putx _ _ | .getx _ _ | .pbr _ _ | .br _ _ | .bro _ _ | .jmpl _ _ | .loop _ _ | .loopj _ _
  | .lbrk _ _ | .nop _ _ | .taskend _ _ | .sopen _ _ | .sclose _ _ | .scloseAbort _ _ | .sstat _ _
  | .sfeed _ _ | .sdrain _ _ | .spref _ _ | .xcopy _ _ | .xfill _ _ | .xacc _ _ | .xfao _ _ | .xcas _ _
  | .xgath _ _ | .xscat _ _ | .xcmo _ _ | .xsig _ _ | .fence _ _ | .ssig _ _ | .swait _ _ | .sset _ _
  | .barm _ _ | .bwait _ _ | .bwaitTile _ _ | .btestTile _ _ | .btestStat _ _ | .btestCnt _ _
  | .btestLate _ _ | .brst _ _ | .rwaitf _ _ | .rwaite _ _ | .rclaim _ _ | .rpub _ _ | .rpubInit _ _
  | .rpubClose _ _ | .rcons _ _ | .rconsUpto _ _ | .rconsPub _ _ | .rconsCons _ _ | .rconsClm _ _
  | .rconsDrops _ _ | .rconsDropb _ _ | .qpush _ _ | .qpoll _ _ | .tqpush _ _ | .trap _ _ | .svc _ _
  | .rett _ _ | .rettAbort _ _ | .yield _ _ | .csave _ _ | .csaveEnd _ _ | .crest _ _ | .crestEnd _ _
  | .idle _ _ | .tlbinvPage _ _ | .tlbinvAsid _ _ | .tlbinvAll _ _ | .tlbprobe _ _ | .sealWord _ _
  | .sealWait _ _ | .pmarkV _ _ | .pmarkA _ _ | .pclrV _ _ | .pclrA _ _ | .vadd _ _ | .vsub _ _ | .vmul _ _
  | .vfma _ _ | .vfms _ _ | .vmin _ _ | .vmax _ _ | .vabs _ _ | .vneg _ _ | .vand _ _ | .vor _ _
  | .vxor _ _ | .vnot _ _ | .vshl _ _ | .vshr _ _ | .vsar _ _ | .vcmp _ _ | .vsel _ _ | .vmov _ _
  | .vcvt _ _ | .vrqs _ _ | .vmaci _ _ | .vdot4 _ _ | .vsfu _ _ | .vrotr _ _ | .vrotc _ _ | .vbcr _ _
  | .vbcc _ _ | .vredr _ _ | .vredc _ _ | .vtrn _ _ | .vperm _ _ | .zip2 _ _ | .zip3 _ _ | .zip4 _ _
  | .unzip2 _ _ | .unzip3 _ _ | .unzip4 _ _ | .cpush _ _ | .cpop _ _ | .vlds _ _ | .vsts _ _ | .vpop _ _
  | .vpopSkip _ _ | .vpchk _ _ | .viota _ _ | .vsplat _ _ | .mcfg _ _ | .mldw _ _ | .mldwq _ _ | .mswap _ _
  | .mstr _ _ | .mstrq _ _ | .mmv _ _ | .mspm _ _ | .macz _ _ | .macrd _ _ | .macst _ _ | .macld _ _
  | .mfin _ _ | .sectionHeader _ | .bankWakeDone _ _ | .commitPointTaken _ | .commitPointSealed _
  | .heldEffectRelease _ | .strike _ | .strikeReport _ | .rollbackComplete _ | .iterationRecoveryRollback _
  | .doorbellWrite _ _ | .launchBundle _ | .loadImage _ | .unloadImage _ | .bundleActivate _
  | .walkerBind _ | .tileTaskRetire _ | .bundleDone _ | .recordPromotion _ | .expressWindow _
  | .auditReplayDone _ | .auditReplayAbandon _ | .walkerPreemptRequest _ | .preemptDrainEntry _
  | .preemptStallTimeout _ | .preemptComplete _ | .refillStart _ | .svcAnswer _ _ _ _
  | .translationDone _ _ _ | .streamSectorArrival _ _ _ | .xCommandStart _ | .copySectorDone _ _ _
  | .waitPoll _ _ | .waitTimeout _ _ | .barrierDeadline _ _ | .data _ _ | .ack _ _ | .sack _ _ | .trimn _ _
  | .authn _ _ | .marker _ _ | .markack _ _ | .rload _ _ | .ratom _ _ | .credit _ _ | .seqmsg _ _
  | .flitTransmit _ | .retransmitTimeout _ _ _ | .alignmentTimeout _ | .transportEventPost _
  | .sequencerStart _ | .evwaitTimeout _ | .dlineDeadline _ | .laneLoss _ _ | .blockRetire _
  | .trainingDone _ _ | .trainingTimeout _ | .linkDrainDone _ | .faultRecordPost _ | .resolveReplay _ _
  | .resolveFail _ _ _ | .poolLinkDown _ | .regionFailureReport _ | .biSnoop _ _
  | .hostAtomicCompletion _ _ _ | .atomicCompletionTimeout _ _ _ | .pxclaim _ | .pxdone _
  | .proxyClaimTimeout _ | .bar4Write _ _ | .bar4Read _ _ | .registerWrite _ _ _ _ | .build _ | .reside _
  | .clear _ | .teardown _ | .teardownComplete _ | .preempt _ | .inval _ | .linkEnable _ | .linkDrain _
  | .linkRetrain _ | .linkDisable _ | .regionFence _ | .regionOnline _ | .groupDefine _ | .groupJoin _
  | .groupActivate _ | .groupResume _ | .groupSuspend _ | .groupDissolve _ | .attest _
  | .hostRingEnable _ _ | .hostRingDisable _ _ | .monitorClear _ | .monitorSample _ _ | .frz | .freezeN
  | .scandata | .warmResetRequest | .wrstN | .hotReset | .secondaryBusReset | .fundamentalReset | .powerOn
  | .bootWaitfw _ | .firmwareCheck _ | .poolLinkUp _ | .hostReadTimeout _ _ _ | .uncorrectableError _
  | .throttling _ | .planeLoadDone _ _ | .leaseRelease _ | .readModifyWriteDone _ _ _ | .poolWriteAck _
  | .flushReadCompletion _ => none

def encodeSeq (i : Instr) : Option (BitVec 64) :=
  (seqOpOf i).map (fun p => p.1 ++ p.2.a ++ p.2.b ++ p.2.lo)

def rawSeq (x : BitVec 64) : Option Instr :=
  let w : SeqW := ⟨x.extractLsb' 52 4, x.extractLsb' 48 4, x.extractLsb' 0 48⟩
  match (x.extractLsb' 56 8).toNat with
  | 0x00 => some (.halt w)
  | 0x01 => some (.mov w)
  | 0x02 => some (.seqMovi w)
  | 0x03 => some (.seqAdd w)
  | 0x04 => some (.seqSub w)
  | 0x05 => some (.seqAnd w)
  | 0x06 => some (.seqOr w)
  | 0x07 => some (.seqXor w)
  | 0x08 => some (.seqShl w)
  | 0x09 => some (.seqShr w)
  | 0x0A => some (.seqCmp w)
  | 0x10 => some (.seqBr w)
  | 0x11 => some (if w.f = 1 then .brcZ w else .brcNz w)
  | 0x12 => some (.call w)
  | 0x13 => some (.ret w)
  | 0x18 => some (.ldx w)
  | 0x19 => some (.stx w)
  | 0x20 => some (.evwait w)
  | 0x21 => some (.evpop w)
  | 0x22 => some (.cmdpop w)
  | 0x23 => some (if w.f = 1 then .semsDone w else .sems w)
  | 0x24 => some (.semw w)
  | 0x25 => some (.dline w)
  | 0x30 => some (.put w)
  | 0x31 => some (.putm w)
  | 0x32 => some (.get w)
  | 0x33 => some (.atom w)
  | 0x34 => some (.redc w)
  | 0x35 => some (.retx w)
  | 0x36 => some (if w.f = 1 then .flowClose w else if w.f = 2 then .flowStat w else .flowOpen w)
  | 0x38 => some (.xplan w)
  | 0x39 => some (.xstep w)
  | 0x3C => some (.keyld w)
  | 0x3D => some (.keysw w)
  | _ => none

/-- The decoder of sequencer words: ILLEGAL_WORD and RESERVED_FIELD of R391 to R403. -/
def decodeSeq (x : BitVec 64) : Except DecErr Instr :=
  match rawSeq x with
  | none => .error .illegal
  | some i => if WellFormed i && encodeSeq i == some x then .ok i else .error (.reserved i)

/-! Bytes (R4, R17): little-endian, low parcel first. -/

/-- The n low bytes of a number, lowest first. -/
def natBytes (n w : Nat) : List Byte := (List.range n).map (fun k => BitVec.ofNat 8 (w >>> (8 * k)))

/-- The number that bytes hold, lowest first. -/
def bytesNat : List Byte → Nat
  | [] => 0
  | b :: bs => b.toNat + 256 * bytesNat bs

def bytesWord (bs : List Byte) : BitVec 96 := BitVec.ofNat 96 (bytesNat bs)
def bytesHdr (bs : List Byte) : BitVec 64 := BitVec.ofNat 64 (bytesNat bs)

/-- A 64-bit unit is a section header when its MARK byte is 0xE5, and otherwise a sequencer word, whose
opcode 0xE5 is unassigned (R19, R392): the two kinds of 64-bit unit are fetched by different agents, and
this choice serves decodeTableWord only. -/
def decodeUnit64 (x : BitVec 64) : Option Instr :=
  if x.extractLsb' 56 8 = 0xE5 then some (.sectionHeader (decodeHdr x)) else (decodeSeq x).toOption

/-- The instruction read from a unit of nbits bits: its words are laid out as the hardware stores them, a
unit of more than 64 bits as a kernel word of twelve bytes, any other as eight bytes. -/
def decodeTableWord (nbits w : Nat) : Option Instr :=
  if 64 < nbits then (decodeWord (bytesWord (natBytes 12 w))).toOption
  else decodeUnit64 (bytesHdr (natBytes 8 w))

end Sys2Proof
end

