-- ==== Sys2Proof/Config.lean ====
section
/-! DEFINITION. What is fixed for one device, and the free values: values the spec leaves open, which
nothing in Lean can evaluate (assumption log entries 3 and 10). -/

namespace Sys2Proof

/-- A free choice between two values the spec allows, such as old or new in a latency shadow (R66)
or an old or new translation (R326). Log entry 3. -/
opaque Config.freeBool : Nat → Nat → Bool

/-- A free 64-bit value where the spec leaves a value open. Log entry 3. -/
opaque Config.freeWord : Nat → Nat → W64

/-- Byte k of the serial number, the firmware digests (of the empty list) and the signature (of the signed bytes and
the signature's number) of an attestation report (R433), whose key the spec does not give. Log entry 10. -/
opaque Config.attestByte : List Byte → Nat → Byte

/-- The sign of the zero that tanh and sin give for −0, by function, type and rounding mode (R143): the same on
every device, and stated by no rule. Log entry 24. -/
opaque Config.sfuZero : Nat → Nat → Nat → Bool

/-- The word that the scan chain holds (R434): the chain layout is not given. Log entry 10. -/
opaque Config.scanWord : Nat → Nat → Nat → W64

/-- What the device's fabric address comes from: no register gives it. Log entry 3. -/
opaque Config.address : Nat

/-- The device's own fabric address: 32 × group + member, of 1,537 groups of 32 members (R381). -/
def Config.rank : Nat := Config.address % 49184

/-- The target and value of an outward effect other than a write, as the word that an audit signature takes
(R361), whose layout the spec does not give. Log entry 3. -/
opaque Config.effWord : List Byte → W64

/-- The draw and temperature that the housekeeping controller measures (R436). Log entry 10. -/
opaque Config.powerReading : Nat → W64

/-- Whether the memory device that serves a pool region answers through an HDM-DB decoder (R430). It is no part of
this device. Log entry 3. -/
opaque Config.hdmDb : Nat → Bool

/-- The module is a Skoiq-56 (R1). Log entry 7. -/
opaque Config.skoiq56 : Bool

/-- The position in its cluster of the core of a Skoiq-56 that was disabled at manufacture (R2): fixed per module,
and named by no rule. Log entry 7. -/
opaque Config.disabledCore : Fin 8 → Fin 8

/-- The core is enabled (R1, R2). -/
def Config.enabled (c : CoreId) : Bool :=
  !(Config.skoiq56 && decide ((Config.disabledCore ⟨c.val / 8, by omega⟩).val = c.val % 8))

/-- The core-enable mask of the module (R2). -/
def Config.cemask : W64 :=
  (List.finRange 64).foldl (fun (m : W64) (c : CoreId) => if Config.enabled c then m ||| ((1 : W64) <<< c.val) else m) 0

/-- Bytes of HBM (R322). -/
def Config.hbmBytes : Nat := 576000000000

/-- Bytes of scratchpad of one core (R9). -/
def Config.scrBytes : Nat := 8388608

/-- Ticks of the model's clock in one core cycle, one uncore cycle and one nanosecond (R3, R11):
the tick is 1/533 GHz, a common divisor of 1.30 GHz, 2.05 GHz and 1 GHz. Log entry 2. -/
def Config.ticksPerCycle : Nat := 410
def Config.ticksPerUncore : Nat := 260
def Config.ticksPerNs : Nat := 533

/-- The seal delay in core cycles (R13, R345). -/
def Config.sealDelay : Nat := 160

end Sys2Proof
end

