-- ==== Sys2Proof/Machine/State.lean ====
section
/-! DEFINITION. The state of a Skoiq device as plain data: its 64 cores, its memories, its ports, its
tables and registers, the model's agenda, and the reasons a step can stop. The rule that names each field
stands beside it; reset values are those of INVENTORY.md and assumption log entries 1 to 7. -/

namespace Sys2Proof.Machine

open Sys2Proof

/-- Sparse storage: (place, value) pairs with places rising and no entry equal to what an unlisted place
reads as (Machine/Store.lean). -/
abbrev Store (α : Type) := List (Nat × α)

/-! ### Engines -/

/-- What an engine is doing. off: no tile task has started it. run: kernel text. handler: a trap handler
(R308). stub: a drain or refill stub (R312, R314). atN: it waits at the header of the diverting instance
or has ended its stub. dead: a fatal fault stopped it (R305). -/
inductive RunState where
  | off | run | handler | stub | atN | dead
  deriving DecidableEq, Repr

/-- What a wait instruction waits for (R256, R268): a semaphore's threshold, a barrier, a tile of a barrier, a
ring's filled or free slots. -/
inductive WaitCond where
  | sem (n : Nat) (thr : W32)
  | bar (n : Nat)
  | tile (n t : Nat)
  | filled (n k : Nat)
  | free (n k : Nat)
  deriving DecidableEq, Repr

/-- What an evaluation has found: the wait retires with met = 1 or 0, or traps (R245, R256). -/
inductive WaitOut where
  | met
  | unmet
  | trap (code : BitVec 8) (ea : W64)
  deriving DecidableEq, Repr

/-- A stalled wait instruction (R245): the cycle of its issue, whether it holds a slot, and without one
the cycle and interval of its next poll; its condition, whether an SSET, BARM or BRST has acted on the object since
the last evaluation, and what an evaluation has found. -/
structure WaitSt where
  since : Nat
  slot : Bool
  nextPoll : Nat
  interval : Nat
  cond : WaitCond
  hit : Bool
  out : Option WaitOut
  deriving DecidableEq, Repr

/-- A loop that is active for an engine, innermost first: its counter and the pass it is in (R120). -/
structure LoopAt where
  lc : Nat
  pass : Nat
  deriving DecidableEq, Repr

/-- One thread: C, A, V, M or the Chaperone. -/
structure Eng where
  g : Vector W64 32            -- R60, R61
  t : Vector W64 8             -- R60, R61
  pc : W64                     -- R106
  left : Nat                   -- words of the section not yet passed (R17, R24)
  sec : SecHdr                 -- header of the section being executed (R19)
  secAddr : W64                -- its address
  inst : Nat                   -- section instances entered (R106)
  done : Bool                  -- TASKEND retired (R107, R128)
  run : RunState
  delay : Option (Bool × W64)  -- the next word is a delay word: branch taken, its target (R111)
  status : W64                 -- R306
  cause : W64                  -- R307
  epc : W64                    -- R75, R78
  eaddr : W64                  -- R75, R78
  tvec : W64                   -- R75, R308
  stallcnt : W64               -- R75, R348
  spill : Store Byte           -- R68
  spillP : Store Bool          -- poison per 64 bytes (R340, R354)
  loops : List LoopAt          -- R120, R128
  wait : Option WaitSt         -- R245
  divBusy : Nat                -- cycle before which the divider is busy (R83)
  busy : Nat                   -- cycle before which no further word issues (R83, R133)
  stalled : Bool               -- the word at pc is stalled at issue and yields to a stop (R98, R309)
  panSince : Option Nat        -- cycle up to which a stall on the Pan has been counted (R348)
  ask : Option Nat             -- the word at pc has requested this commit point (R317, R364, R73)
  arrived : Bool               -- pc is a header reached and not entered; passes are settled (R120)
  came : Option W64            -- the header at pc was reached by a branch out of this section (R127)
  own : Bool                   -- it has executed words of its own in this instance (R21)
  sts : Nat × Nat              -- instance and cycle of retirement of its last VSTS (R133, R154)
  asked : Option (Nat × Nat)   -- a stalled FENCE or release waits for these many writes and held effects (R231, R234)
  pushTo : Option (Nat × Nat)  -- a stalled QPUSH or TQPUSH waits for this core's queue (R274)
  prog : Nat                   -- rows or entries that the queue-fed M word at pc has taken (R177, R178)
  fed : Nat                    -- cycle by which they have entered (R182)
  issued : Bool                -- the word at pc is a pass that has taken a row (R184)
  async : List (BitVec 8 × W64) -- faults of streams and commands to be taken, oldest first (R196, R218)
  retSec : SecHdr              -- section interrupted by the trap (R318)
  retAddr : W64
  retRun : RunState
  retHdr : Bool                -- the trap was taken at a header
  retCame : Option W64         -- by which branch that header had been reached (R127)
  retVoid : Option W64         -- an LBRK has made the trapped instance void: the engine returns to this header (R122)
  deriving DecidableEq, Repr

/-! ### Arrays, queues, loops -/

/-- An array's configuration (R163). -/
structure ArrCfg where
  mrows : Nat
  pitchA : Nat
  pitchB : Nat
  sclA : Nat
  sclB : Nat
  tscale : W32
  sat : Bool
  applySc : Bool
  deriving DecidableEq, Repr

inductive PlaneSt where
  | empty | loading | ready | needmeta
  deriving DecidableEq, Repr

/-- One plane (R164): recorded types, sparsity and mode, elements as an R47 stream of rows, scales, masks. -/
structure Plane where
  st : PlaneSt
  ta : BitVec 5
  tb : BitVec 5
  sp : BitVec 2
  mv : Bool
  nv : Nat
  elems : Store Byte
  scales : Store Byte
  masks : Store Byte
  poison : Bool
  loadDone : Option Nat        -- cycle at which the last byte of an element or metadata load arrives (R182)
  deriving DecidableEq, Repr

/-- An array: configuration, two physical planes, which of them is stationary, the joined pair (R159, R164). -/
structure Arr where
  cfg : ArrCfg
  p0 : Plane
  p1 : Plane
  stat1 : Bool
  joined : Bool
  portStream : Nat             -- cycle at which the streaming port is free (R182)
  portLoad : Nat
  deriving DecidableEq, Repr

/-- A lease of a scratchpad range by an issued M word (R171). -/
structure Lease where
  lo : Nat
  hi : Nat
  doneAt : Nat
  deriving DecidableEq, Repr

/-- An issued M word that has not retired (R181, R182). -/
structure MFlight where
  inst : Nat
  m0 : Bool
  m1 : Bool
  accForm : Bool
  load : Bool
  doneAt : Nat
  deriving DecidableEq, Repr

/-- One operand-queue entry: 256 bytes and its mark of poison (R9, R354). -/
structure OqEnt where
  bytes : List Byte
  poison : Bool
  deriving DecidableEq, Repr

/-- The loop on one counter (R119 to R123). -/
structure Loop where
  active : Bool
  n : Nat                      -- N'
  r : Nat
  s : Nat
  rb : Bool
  head : Nat                   -- addresses of the HEAD and LAST headers and of the header after LAST
  last : Nat
  after : Nat
  zt : Nat
  vb : Nat
  entered : Option Nat         -- highest iteration whose stage 0 an engine has entered (R122)
  headInst : Nat               -- instance number of HEAD's first instance (R123)
  value : W32                  -- what lcN reads after the loop (R120)
  passInst : List Nat          -- instance number at which each pass since r began (R122)
  exitInst : Option Nat        -- instance number of the header after LAST (R122)
  entryCp : Bool               -- the entry's commit point has been requested (R123)
  joinedBy : List Thread       -- engines that executed LOOP or LOOPJ
  leftBy : List Thread         -- engines that left the loop
  deriving DecidableEq, Repr

/-- A bound parameter window (R92, R93): address, size, contents at activation. -/
structure Window where
  va : Nat
  size : Nat
  bytes : List Byte
  deriving DecidableEq, Repr

/-! ### Scratchpad writes (R222, R228) -/

/-- The path by which a write reaches scratchpad (R222): L of a thread, S of a stream, X, T (placements and sends of
other agents), H. -/
inductive Via where
  | l (t : Thread)
  | s (stream : Nat)
  | x | t | h
  deriving DecidableEq, Repr

/-- A write to scratchpad that some reader of the core may not yet be ordered after (R228): its number in coherence
order, its path, the instance of the word that made it, the cycle from which it is performed, its atomic unit
(R229; 0: all of it), address, old and new bytes; the agents and tokens that it is ordered before, by number
(Machine/Ops.lean); and whether the stream that deposited it has been drained (R190). Log entry 15. -/
structure ScrWr where
  seq : Nat
  via : Via
  inst : Nat
  from_ : Nat
  unit : Nat
  addr : Nat
  old : List Byte
  new : List Byte
  known : List Nat
  settled : Bool
  deriving DecidableEq, Repr

/-! ### Semaphores, barriers, rings -/

inductive BarSt where
  | idle | armed | filling | complete | partialSt | faulted
  deriving DecidableEq, Repr

/-- The reduction that XPLAN bound to a barrier (R412). -/
structure RedBind where
  gid : Nat
  axis : Nat
  s : Nat
  et : BitVec 5
  op : Nat
  deriving DecidableEq, Repr

/-- A barrier: its descriptor (R247), state (R251) and counters (R252). Its marks are bits of barrier memory. -/
structure Bar where
  st : BarSt
  code : BitVec 8
  base : Nat
  exp : Nat
  tiled : Bool
  dl : Bool
  spb : Bool
  bmo : Nat
  deadline : Nat
  pitch : Nat
  trows : Nat
  tw : Nat
  tbytes : Nat
  trs : Nat
  tcs : Nat
  frec : Nat
  lmap : Nat
  arr : Nat
  lost : Nat
  dup : Nat
  late : Nat
  stray : Nat
  red : Option RedBind
  gen : Nat                    -- how often it has been armed: tells a barrier from an earlier arming of it (R253)
  deriving DecidableEq, Repr

/-- A scratchpad ring (R260 to R262). -/
structure Ring where
  opened : Bool
  base : Nat
  slot : Nat
  nslot : Nat
  prod : Nat
  dropOld : Bool
  clm : Nat
  pub : Nat
  cons : Nat
  drops : Nat
  dropb : Nat
  resv : Nat
  fill : Nat                   -- bytes in the open slot (R151, R190)
  taken : Nat                  -- containers taken from the head slot by CPOP (R151)
  rest : List (W32 × Bool)     -- containers that CPUSH has appended and whose slot is not free yet (R151)
  deriving DecidableEq, Repr

/-! ### Streams -/

inductive StreamSt where
  | closed | running | parked | done | faulted
  deriving DecidableEq, Repr

/-- A pattern record (R186). -/
structure Pattern where
  base : Nat
  run : Nat
  ind : Bool
  iw : Bool
  ra : Bool
  six : Bool
  cnt : List Nat
  str : List Int
  ibase : Nat
  deriving DecidableEq, Repr

/-- A parked sector (R195, R217): its first position and the 64 KiB page it met. -/
structure Parked where
  pos : Nat
  page : Nat
  deriving DecidableEq, Repr

/-- A sector whose data has been fetched and waits for its turn or for the rest of a group of 6-bit elements
(R188, R195). -/
structure Staged where
  pos : Nat
  bytes : List Byte
  poison : Bool
  deriving DecidableEq, Repr

/-- A stream (R186 to R199). -/
structure Stream where
  st : StreamSt
  code : BitVec 8
  kind : Nat
  oq : Nat
  ring : Nat
  pol : Nat
  pd : Bool
  pt : Bool
  atm : Nat
  pat : Pattern
  off : Nat
  dst : Nat
  pc : W64
  loop : Option (Nat × Nat)    -- loop counter and iteration whose stage issued the SOPEN (R197)
  idx : List Int               -- indices of dimension 3 (R187)
  count : Nat                  -- sequence bytes performed (R199)
  doneSecs : List Nat
  staged : List Staged
  parked : List Parked
  began : Nat                  -- writes counted when it was opened (R228)
  reach : Nat                  -- the sequence position up to which sectors have been enumerated (R187)
  ea : W64                     -- the faulting address (R196, R201)
  deriving DecidableEq, Repr

/-- An unfinished SFEED (R200): its word, queue, source address, entries pushed, entries wanted. -/
structure Sfeed where
  pc : W64
  oq : Nat
  src : Nat
  pushed : Nat
  total : Nat
  deriving DecidableEq, Repr

/-! ### The transport sequencer -/

inductive FlowSt where
  | closed | opened | faulted
  deriving DecidableEq, Repr

/-- A data flit, request or message of a flow that is not acknowledged (R384, R397): the first FSN of its
operation, its header before sealing, its staging copy or, when it has none, where its bytes are read at
transmission (SSP, address, length); the destinations that must acknowledge it and those that have (R414); whether it
has left the hold queue, was sent, waits to be sent again, how often it was sent again, when and by which sealing of
the flow it was last sent. -/
structure Unacked where
  fsn : Nat
  op : Nat
  hdr : FlitHdr
  payload : List Byte
  src : Option (Bool × Nat × Nat)
  need : List Nat
  acks : List Nat
  released : Bool
  sent : Bool
  again : Bool
  tries : Nat
  sentAt : Nat
  sealNo : Nat
  ring : Bool                  -- it goes to a ring (R398)
  deriving DecidableEq, Repr

/-- A flow (R396, R397). id numbers the opens of the core; seals counts the flow's sealings and authMark is that
count at the last AUTHN report (R376). -/
structure Flow where
  id : Nat
  st : FlowSt
  code : BitVec 8
  ctx : Nat
  jki : Nat
  peer : Nat
  mode : Nat
  cls : Nat
  w : Nat
  wlast : Nat
  target : Nat
  rto : Nat
  rlim : Nat
  cred : Bool
  auto : Bool
  credit : Nat
  nextFsn : Nat
  unacked : List Unacked
  authCount : Nat
  authMark : Nat
  seals : Nat
  retx : Nat
  job : Nat
  myrank : Nat
  deriving DecidableEq, Repr

/-- A transport operation that is not DONE (R398): the flow's id, first FSN and count, the semaphores still to be
signalled; for GET and ATOM where the reply goes. -/
structure TOp where
  kind : Nat                   -- 1 PUT, 2 PUTM, 3 REDC, 4 GET, 5 ATOM
  flow : Nat
  flowId : Nat
  first : Nat
  count : Nat
  lsem : Option Nat
  asem : Option Nat
  ret : Nat
  width : Nat
  bar : Nat
  chunk0 : Nat
  chunks : Nat
  deriving DecidableEq, Repr

/-- A command-queue entry (R272, R274): 64 bytes, wait and signal, who pushed it. -/
structure TCmd where
  bytes : List Byte
  we : Bool
  ws : Nat
  wt : Nat
  se : Bool
  ss : Nat
  si : Nat
  sigCore : Nat
  popped : Bool
  handle : Nat
  ctx : Nat
  fromCore : Nat               -- the core whose word pushed it (R275)
  met : Bool                   -- at the head, its wait field has been found met (R244)
  deriving DecidableEq, Repr

/-- A routine in the start queue (R388, R287). -/
structure Routine where
  trout : Nat
  tlen : Nat
  bundle : Nat
  bundleVa : Nat
  ctx : Nat
  deriving DecidableEq, Repr

/-- A transport event record (R385). -/
structure TEvent where
  evt : BitVec 8
  code : BitVec 8
  flow : Nat
  peer : Nat
  port : BitVec 8
  flg : BitVec 8
  fsn0 : W32
  fsn1 : W32
  arg : W64
  time : W64
  deriving DecidableEq, Repr

/-- The transport sequencer of a core (R388, R389). -/
structure Seq where
  x : Vector W64 16
  pc : W64
  running : Bool
  lmem : Store Byte
  startq : List Routine
  cmdq : List TCmd
  evq : List TEvent
  evwaitq : List TEvent        -- events waiting at their port (R390)
  flows : Store Flow
  stallSince : Option Nat      -- cycle at which the EVWAIT at pc issued (R395)
  lastCtx : Option Nat
  routine : Option Routine
  ops : List TOp
  opens : Nat                  -- flows opened so far
  busy : Nat                   -- cycle before which no further word issues (R394, R412)
  ldx : Nat × Nat              -- the register of the last LDX, and the cycle from which its result may be used (R394)
  deriving DecidableEq, Repr

/-! ### The restorable state of a core -/

/-- A write in its latency shadow (R65, R66): level (0 main file, 1 operand file, 2 latch), container key, the old
value, the cycle from which the new value is readable (log entry 71), and the engine whose word wrote it. -/
structure Pend where
  lvl : Nat
  key : Nat
  old : W32
  ready : Nat
  th : Thread                  -- R67, R78, R134
  deriving DecidableEq, Repr

/-- The part of a core that a commit point saves and a rollback restores (R344, R350). -/
structure Arch where
  engC : Eng
  engA : Eng
  engV : Eng
  engM : Eng
  chap : Eng
  tiles : Store W32            -- v0-v767 by 1,024 × register + 64 × row + column (R60, R62)
  wfile : Store W32            -- w0-w15 (R63)
  latches : Store W32          -- 4 images (R64)
  tileP : Store Bool           -- poison per row: 16 × register + row (R156)
  wfileP : Store Bool
  latchP : Store Bool
  pend : List Pend
  bankPwr : W32                -- R70
  bankWake : Store Nat         -- cycle at which a bank's wake ends (R71)
  named : List (Thread × Nat × Nat) -- banks that an issued word of an engine names, one bit each, and when it retires (R72)
  scr : Store Byte             -- R9
  scrP : Store Bool            -- poison per 64 bytes (R354)
  scrLog : List ScrWr          -- writes that a reader may see or not, newest first (R228)
  scrSeq : Nat                 -- writes so far
  acc : Store W32              -- R168
  accP : Store Bool            -- poison per 256 containers (R185)
  m0 : Arr
  m1 : Arr
  portAcc : Nat                -- cycle at which the readout port is free (R182)
  leases : List Lease
  mflight : List MFlight
  oq : Vector (List OqEnt) 8
  oqIn : Vector Nat 8          -- entries pushed so far: the place of the next one in queue storage (R203)
  putx : Vector (List W64) 16  -- from engine i to engine j at 4 × i + j (R96)
  putxSeq : Vector (List (List Nat)) 16 -- the scratchpad writes ordered before the push of each entry (R97)
  bout : Vector (List Bool) 16 -- R113
  loops : Vector Loop 4
  sids : List (BitVec 12)      -- R106
  srAt : List W64              -- SRCNT as V entered each instance (R54)
  sealPass : Option Nat        -- instance whose SEAL header's commit point was taken (R343)
  slipw : W32                  -- R109
  chshare : W32                -- R75, R299
  poisonst : W32               -- R356
  pwstat : W32                 -- R77
  ctxid : W32
  iter : W64
  srseed : W64
  srcnt : W64
  klim : W64
  kwarn : W64
  authmax : W32
  wins : Vector (Option Window) 8
  sems : Vector W32 256
  bars : Vector Bar 64
  barMem : Store Byte
  barP : Store Bool            -- poison per 64 bytes of barrier memory (R340)
  rings : Vector Ring 16
  streams : Vector Stream 16
  sfeed : Option Sfeed
  seq : Seq
  deriving DecidableEq, Repr

/-! ### Commands, the Pan, tasks -/

inductive CmdSt where
  | queued | running | parked | faulted | done
  deriving DecidableEq, Repr

/-- A copy block's fields (R35, R206, R207). -/
structure CopyBlk where
  tag : W32
  form : Nat
  src : Nat
  dst : Nat
  len : Nat
  elem : Nat
  cnt : Nat
  op : Nat
  et : BitVec 5
  sat : Bool
  ssp : Bool
  dsp : Bool
  unit : Nat
  spol : Nat
  dpol : Nat
  scope : Nat
  ord : Nat
  pd : Bool
  be : Bool
  bar : Nat
  opa : W64
  opb : W64
  ret : Nat
  deriving DecidableEq, Repr

/-- Wait and signal of a CM word (R34, R35). -/
structure WaitSig where
  we : Bool
  ws : Nat
  wt : Nat
  se : Bool
  ss : Nat
  si : Nat
  sigCore : Nat
  deriving DecidableEq, Repr

/-- What a leaf of a page table maps an address to (R323). -/
structure Place where
  kind : Nat                   -- 0 LOCAL, 1 POOL, 2 HOST, 3 REMOTE
  pa : Nat                     -- physical address; for REMOTE the virtual address
  jki : Nat
  rank : Nat
  deriving DecidableEq, Repr

/-- A command of an X queue (R205, R217). -/
structure XCmd where
  id : Nat
  blk : CopyBlk
  sig : WaitSig
  st : CmdSt
  fromCore : Nat
  fromTh : Thread
  pc : W64
  ctx : Nat
  epoch : Nat                  -- commit points taken when it was issued (R220)
  idx : List Int               -- index array (R209)
  doneSecs : List Nat
  heldSecs : List Nat
  parked : List Parked
  rmw : Option Place           -- the read-modify-write has left the Pan for this place (R213)
  reply : Option (List Byte × Bool) -- its old value and poison, while a lease holds RET (R172, R211)
  began : Nat                  -- writes counted when its reads could begin (R212, R228)
  asked : Nat × Nat            -- writes and held effects that precede the CM word (R212)
  met : Bool                   -- at the head, its wait field has been found met (R244)
  fate : Option (BitVec 8 × Nat × Bool × Bool) -- FAULTED, its record not yet in the Pan: code, address, write, MAL (R218, R348)
  bundle : Option Nat          -- the bundle of whose copy list it is (R287)
  deriving DecidableEq, Repr

/-- A fault record (R329). -/
structure FaultRec where
  va : W64
  pc : W64
  tag : W32
  ctx : Nat
  code : BitVec 8
  kind : Nat
  wr : Bool
  mal : Bool
  core : Nat
  obj : Nat
  sect : Nat
  deriving DecidableEq, Repr

/-- A packet the device sent or is to send, sealed. -/
structure Sent where
  port : Nat
  hdr : FlitHdr
  payload : List Byte
  tag : BitVec 128
  deriving DecidableEq, Repr

/-- An outward effect held in the Pan (R235, R346). -/
inductive Eff where
  | write (obj : ObjRef) (pos pol : Nat) (pieces : List (Place × List Byte)) (poison : List Bool)
  | rmw (cmd sec : Nat) (pieces : List (Place × List Byte)) (poison : List Bool)
  | flit (flow fsn : Nat)
  | signal (core sem inc : Nat)
  | qentry (core q : Nat) (ring : Nat) (bytes : List Byte) (sig : WaitSig) (cls : Nat)
  | cmo (cmd sec : Nat) (pieces : List Place)
  | record (die : Fin 2) (r : FaultRec) (obj : ObjRef) (page det : Nat) -- a fault record with its interrupt (R346, R427); its place in the order of detection (R330)
  | keySwitch (job slot : Nat) (markers : List Sent)                  -- the MARKERs of a KEYSW (R375, R401)
  deriving DecidableEq, Repr

/-- A held effect: entries it takes, the commit point that covers it, who made it. -/
structure Held where
  id : Nat
  since : Nat                  -- the cycle in which it entered (R346)
  eff : Eff
  entries : Nat
  cover : Option Nat
  fromCore : Nat
  fromTh : Thread
  pc : W64
  epoch : Nat
  ctx : Nat
  va : Nat
  unit : Nat                   -- the atomic unit of a write (R229)
  stale : Bool                 -- a TLBINV has removed the translation that it may have used (R338)
  deriving DecidableEq, Repr

/-- A pre-emption in progress (R311, R312). -/
inductive PreSt where
  | latched (n : Option Nat)
  | draining (n : Nat)
  | saving (n : Nat)
  | refilling (n : Nat)
  deriving DecidableEq, Repr

structure Preempt where
  beneficiary : Nat            -- bundle
  st : PreSt
  hdr : Nat                    -- address of the header of instance n
  drain : Nat                  -- addresses of the stubs
  refill : Nat
  low : Nat                    -- lowest instance that may be chosen as n
  since : Nat                  -- cycle at which n was chosen
  ended : List Thread          -- engines that ended their stub
  next : Option Nat            -- beneficiary of a request latched while this task refills (R311)
  deriving DecidableEq, Repr

/-- Where a requested commit point makes the engines resume, and what else it marks (R343). -/
inductive CpKind where
  | binding
  | sealSection
  | word
  | loopEntry (lc : Nat)
  | loopStage (lc iter : Nat)
  | loopExit (lc : Nat)
  | drainEntry
  | csaveEnd
  | crestEnd
  | refill (p : Preempt)       -- the start of a refill, to which a strike during it returns (R314)
  | taskend
  deriving DecidableEq, Repr

/-- A checkpoint (R344): its number, kind, the cycle it was taken, whether it has sealed. -/
structure Ckpt where
  num : Nat
  kind : CpKind
  takenAt : Nat
  sealedNow : Bool
  save : Arch
  deriving DecidableEq, Repr

/-- A shadow record (R347, R351): store code, granule, the window (commit points taken) of the write, and its
writer class: a rollback to commit point P undoes the write when P is at most epoch, and keeps it otherwise. bad:
the granule cannot be restored once the write is undone. -/
structure Shadow where
  store : Nat
  gran : Nat
  win : Nat
  epoch : Nat
  bad : Bool
  deriving DecidableEq, Repr

inductive RegionSt where
  | idle | active | rollback | recovery | faulted
  deriving DecidableEq, Repr

inductive TaskSt where
  | running | sealing | preempted | faulted
  deriving DecidableEq, Repr

/-- The tile task on a core (R293). -/
structure Task where
  bundle : Nat
  ord : Nat
  ctx : Nat
  img : Nat
  st : TaskSt
  replay : Bool
  audited : Bool               -- the Assay unit logs it (R359): counts at binding, signature, extents
  sems : List W32
  sig : W64
  extents : List (Nat × Place × Nat)
  unmet : List (Nat × Nat)     -- a replay's waits and dependences now unmet, and since which cycle (R360)
  deriving DecidableEq, Repr

/-- A PREEMPTED tile task: the task, its entry, what its core block holds (R313) and its commands not yet started. -/
structure Saved where
  task : Task
  pre : Preempt
  order : Nat
  loops : Vector Loop 4
  putx : Vector (List W64) 16
  bout : Vector (List Bool) 16
  streams : Vector Stream 16
  m0 : Arr
  m1 : Arr
  slipw : W32
  bankPwr : W32
  srseed : W64
  srcnt : W64
  stall : List W64
  pwstat : W32
  poisonst : W32
  doneSet : List Thread
  engLoops : List (List LoopAt)
  sids : List (BitVec 12)
  wins : Vector (Option Window) 8
  iter : W64
  xq : List XCmd
  async : List (Thread × BitVec 8 × W64) -- faults of its commands and streams that its engines take after the refill (R196, R218, R331)
  served : Bool                -- a tile task of the beneficiary has been bound here since (R314)
  deriving DecidableEq, Repr

/-- A launch request in a Chaperone queue (R272, R274, R284): its block, issuing context and class, signal, and
issuing core. -/
structure ChReq where
  bytes : List Byte
  ctx : Nat
  cls : Nat
  sig : WaitSig
  fromCore : Nat
  deriving DecidableEq, Repr

/-- A service request (R317). -/
structure SvcReq where
  th : Thread
  ctx : Nat
  n : BitVec 8
  arg : W64
  pc : W64
  cp : Nat                     -- the commit point after which it is delivered
  answer : Option (W64 × W64)
  deriving DecidableEq, Repr

/-- An iteration recovery (R357). -/
structure Recov where
  lc : Nat
  iter : Nat
  deriving DecidableEq, Repr

/-- A cached translation (R327): ASID, level, index of the page at that level, the entry. -/
structure TlbEnt where
  asid : Nat
  lvl : Nat
  vpn : Nat
  entry : W64
  deriving DecidableEq, Repr

/-- The writer classes of R351: the region's own words and streams, agents outside it, and its own commands by
the commit points taken when they were issued. -/
inductive Writer where
  | own
  | outside
  | command (epoch : Nat)
  deriving DecidableEq, Repr

/-- A write of the core's own machinery that a lease holds back (R172): a fault record at FREC, a loss map, zeros of a
deadline. -/
structure HeldScr where
  w : Writer
  addr : Nat
  bytes : List Byte
  tok : Option Nat             -- the chunk whose release covers it (R233)
  poison : Bool
  deriving DecidableEq, Repr

/-- A placement held back by a lease (R172): its barrier and chunk, which arming of the barrier it is for, and for a reduced
chunk the contributions in it (R418, R419). -/
structure HeldPlace where
  bar : Nat
  chunk : Nat
  gen : Nat
  count : Option Nat
  bytes : List Byte
  poison : Bool
  deriving DecidableEq, Repr

/-- The semaphores and barriers of a core, put aside while a replay uses a file of its own (R360). -/
structure SyncFile where
  sems : Vector W32 256
  bars : Vector Bar 64
  barMem : Store Byte
  deriving DecidableEq, Repr

/-- What a core has received of a flow of another core (R371, R383): every FSN below base, and those listed. -/
structure RxFlow where
  srank : Nat
  score : Nat
  flow : Nat
  base : Nat
  above : List Nat
  deriving DecidableEq, Repr

/-- A flit of a ring packet that is not complete: its sender, the FSN of the packet's first flit, its index in the
packet, the flits and payload bytes of the packet, its ring (R264, R371). -/
structure RingPart where
  srank : Nat
  score : Nat
  flow : Nat
  first : Nat
  fidx : Nat
  flits : Nat
  len : Nat
  ring : Nat
  bytes : List Byte
  poison : Bool
  deriving DecidableEq, Repr

/-- One core. -/
structure Core where
  arch : Arch
  xq : List XCmd
  nextCmd : Nat
  hold : List Held
  nextHold : Nat               -- effects that have entered the hold queue
  ckpts : List Ckpt            -- oldest first
  cpCount : Nat                -- commit points taken
  cpReq : List CpKind          -- requested and not yet taken
  panWait : List Nat           -- the producers that stall on the Pan (R348), by number (Machine/SeqOps.lean)
  shadows : List Shadow
  region : RegionSt
  recov : Option Recov
  attLoop : Option Recov       -- the loop and iteration whose recoveries ATT counts (R358)
  restart : Option (Nat × Nat) -- the rollback in progress: its commit point and the cycle at which words issue again (R350)
  strikes : List Nat           -- cycles of the strikes located near the core and not yet reported (R342)
  rgstrk : W32
  rgroll : W32
  rgrec : W32
  rgdisc : W32
  sigdrop : W32
  task : Option Task
  real : Option SyncFile
  lastCtx : Option Nat
  saved : List Saved
  preempt : Option Preempt
  svcs : List SvcReq
  chq : List ChReq             -- R272
  pushTurn : Store Nat         -- core served last by each queue of this core (R274)
  chcred : Nat
  tlb : List TlbEnt
  heldPlace : List HeldPlace
  heldScr : List HeldScr
  flushAsk : Option Nat        -- a flushing read is out; writes counted when it was issued (R240)
  chEarn : Nat                 -- cycle up to which Chaperone credits are counted (R299)
  rx : List RxFlow
  ringIn : List RingPart
  deriving DecidableEq, Repr

/-! ### The device -/

inductive CtxSt where
  | free | built | resident | running | preempted | faulted | tornDown
  deriving DecidableEq, Repr

/-- A loop descriptor (R101), offsets in bytes from the image base. -/
structure LoopDesc where
  head : Nat
  last : Nat
  after : Nat                  -- offset of the header that follows LAST
  lc : Nat
  sm1 : Nat
  rb : Bool
  zt : Nat
  vb : Nat
  deriving DecidableEq, Repr

/-- A drain-table entry (R102), offsets in bytes from the image base. -/
structure DrainEnt where
  first : Nat
  last : Nat
  drain : Nat
  refill : Nat
  deriving DecidableEq, Repr

/-- Where a host command's completion goes (R282): context, ring, producer and slot of the entry, its SEQ,
TAG and IRQ. -/
structure CplTo where
  ctx : Nat
  ring : Nat
  prod : Nat
  slot : Nat
  seq : W64
  tag : W32
  irq : Bool
  deriving DecidableEq, Repr

/-- A registered image (R100, R105). -/
structure Image where
  addr : Nat
  size : Nat
  textOff : Nat
  textLen : Nat
  slipw0 : Nat
  banks : W32
  pwin : List Nat
  loops : List LoopDesc
  drains : List DrainEnt
  audit : Bool
  use : Nat
  unload : List CplTo          -- the pending unloads (R105)
  text : List Byte             -- its text at the activation that made it IN_USE, which a fetch may still obtain (R105)
  deriving DecidableEq, Repr

/-- A context (R301, R302). -/
structure Ctx where
  st : CtxSt
  root : Nat
  asid : Nat
  tvec : W64
  hamper : Nat
  hsize : Nat
  kbase : Nat
  ksize : Nat
  cores : W64
  sema : BitVec 256
  bara : W64
  ringa : BitVec 16
  jktab : Nat
  njk : Nat
  images : List Image
  deriving DecidableEq, Repr

inductive RingHostSt where
  | disabled | enabled | faulted
  deriving DecidableEq, Repr

/-- A host submission ring (R277 to R282). -/
structure HostRing where
  st : RingHostSt
  recd : List Byte             -- the 64-byte control record
  expect : List Nat            -- next expected SEQ, one per producer (one in index mode)
  turn : Nat                   -- producer served next (R280)
  bell : Bool                  -- its doorbell has been written and not every published entry read (R281)
  deriving DecidableEq, Repr

/-- A command consumed from a host ring and not yet carried out (R278). -/
structure HostCmd where
  ctx : Nat
  ring : Nat
  op : Nat
  irq : Bool
  tag : W32
  addr : Nat
  size : Nat
  seq : W64
  slot : Nat
  prod : Nat
  bad : Bool
  deriving DecidableEq, Repr

inductive BundleSt where
  | waiting | active | draining | faulting | done
  deriving DecidableEq, Repr

/-- A launch bundle (R283, R292). -/
structure Bundle where
  id : Nat
  ctx : Nat
  addr : Nat
  cls : Nat                    -- effective class (R284)
  st : BundleSt
  code : BitVec 8
  img : Nat
  cores : W64
  seed : W64
  bnd : List Nat
  org : List Int
  step : List Int
  ndim : Nat
  order : Nat
  tsh : Nat
  ind : Bool
  iw8 : Bool
  icnt : Nat
  deps : List W64
  seen : List Nat              -- what the dependences' objects held when last evaluated (R286)
  sig : W64
  xl : Bool
  xlist : Nat
  xcnt : Nat
  tr : Bool
  trout : Nat
  tlen : Nat
  pw : List (Nat × Nat)
  wins : List (Option Window)
  total : Nat                  -- tile tasks (R287)
  next : Nat                   -- lowest unbound ordinal
  live : Nat                   -- bound tile tasks that have not ended
  copies : List (Nat × Nat)    -- copy blocks: core, command
  routineLive : Bool
  die : Nat                    -- walker that holds the record (R290)
  since : Nat                  -- uncore cycle since which it is eligible (R296)
  promoted : Nat               -- classes it has been promoted by
  actSeq : Nat                 -- order of activation (R295)
  met : Option Nat             -- uncore cycle at which its dependences were found met (R294)
  cpl : Option CplTo
  deriving DecidableEq, Repr

/-- A posted record: its index, the object it names, whether it is resolved (R331). -/
structure PostedRec where
  seq : Nat
  fr : FaultRec
  obj : ObjRef
  page : Nat
  resolved : Bool
  deriving DecidableEq, Repr

/-- A fault ring (R330). -/
structure FaultRing where
  base : W64
  logn : Nat
  own : Bool
  en : Bool
  vec : Nat
  prod : Nat
  cons : Nat
  waiting : List (FaultRec × ObjRef × Nat × Nat)   -- record, object, page, place in the order of detection
  posted : List PostedRec
  deriving DecidableEq, Repr

inductive LinkSt where
  | down | training | up | degraded | draining | failed
  deriving DecidableEq, Repr

/-- The arbitration state of a resource: a walker, the reader of host rings, a port (R295). -/
structure Walker where
  express : Nat                -- EXPRESS grants in this window
  high : Nat
  normal : Nat
  background : Nat             -- grants left in the round
  win : Nat                    -- the window of 4,096 uncore cycles that express counts in
  lastBind : Nat               -- uncore cycle of the last binding, plus 1
  deriving DecidableEq, Repr

/-- A flit or control packet that waits to leave at a port: as it will leave, the port in whose receive buffer it lies
(none: this device sends it), and since when it is held for alignment (R368, R383, R415). -/
structure OutFlit where
  x : Sent
  inp : Option Nat
  held : Option Nat
  deriving DecidableEq, Repr

/-- A port (R366 to R369, R387). -/
structure Port where
  st : LinkSt
  active : Nat
  retired : Nat
  since : Nat                  -- device time in ns at which training began
  evmask : W64
  plerr : W64
  pauth : W64
  pmemb : W64
  pmal : W64
  ptrim : W64
  pshed : W64
  outq : List OutFlit          -- what waits to leave here, oldest first (R383)
  llr : Bool                   -- training has negotiated link-level retry (R369)
  lfc : Bool                   -- training has negotiated credit-based flow control of the link (R369)
  arb : Walker                 -- arbitration of what it transmits (R295)
  deriving DecidableEq, Repr

inductive SlotSt where
  | empty | loaded | next | current | retired | exhausted
  deriving DecidableEq, Repr

/-- A peer whose MARKACK a NEXT slot awaits (R375): its rank, the core and flow whose MARKER it is, when the MARKER was
last sent and how often it was sent again. -/
structure MarkWait where
  rank : Nat
  core : Nat
  flow : Nat
  sentAt : Nat
  tries : Nat
  deriving DecidableEq, Repr

/-- A key slot (R375). -/
structure KeySlot where
  st : SlotSt
  key : List Byte
  ivc : Nat
  klim : Nat
  kwarn : Nat
  loader : Nat
  await : List MarkWait
  deriving DecidableEq, Repr

structure JobKey where
  job : Nat
  use : Option Nat             -- the slot that seals: the last one that a KEYSW or a MARKER has named (R375)
  s0 : KeySlot
  s1 : KeySlot
  deriving DecidableEq, Repr

inductive GroupSt where
  | dissolved | defined | joined | active | suspended
  deriving DecidableEq, Repr

/-- A group table entry (R405). -/
structure Group where
  st : GroupSt
  nax : Nat
  myidx : Nat
  job : Nat
  size : List Nat
  rtab : Nat
  ctx : Nat
  deriving DecidableEq, Repr

/-- An open reduction entry (R416, R417): barrier, chunk and contributions by index. -/
structure RedEnt where
  core : Nat
  bar : Nat
  chunk : Nat
  parts : List (Nat × List Byte × Bool)   -- index, bytes, poison
  deriving DecidableEq, Repr

/-- Who makes a write to memory beyond the scratchpads: the core (64: another agent) and thread, the path, the command's
number on the X path, the number of the held effect that it was, the lowest virtual address, the atomic unit, and the
cycle plus 1 in which it is performed (R222, R229). -/
structure Author where
  core : Nat
  th : Thread
  via : Via
  cmd : Nat
  held : Nat
  va : Nat
  unit : Nat
  at_ : Nat
  deriving DecidableEq, Repr

/-- A write to device, pool, host or remote memory that reads in progress may still miss, or that is not yet performed at
every scope (R224, R228, R231): its number, author, place, old and new bytes, and the agents and tokens that it is ordered
before (R227, R233), by number (Machine/Ops.lean). -/
structure MemWr where
  seq : Nat
  au : Author
  place : Place
  old : List Byte
  new : List Byte
  known : List Nat
  deriving DecidableEq, Repr

/-- A write to memory that releases others (R225, R231, R233): its number, place, bytes. -/
structure RelMark where
  seq : Nat
  place : Place
  n : Nat
  deriving DecidableEq, Repr

/-- A line of device memory that the LLC holds dirty: its number and what its home holds (R219, R224). -/
structure LlcLine where
  line : Nat
  home : List Byte
  poison : Bool
  deriving DecidableEq, Repr

/-- An LLC line of a pool region (R237): its 64-byte line number, state, bytes and dirty mask; whether a
snoop waits. -/
structure PoolLine where
  line : Nat
  excl : Bool
  bytes : List Byte
  dirty : List Bool
  poison : Bool
  since : Nat                  -- count (wseq) of the oldest write not yet performed at the home (R238)
  deriving DecidableEq, Repr

/-- A pool region's table entry (R431, R334). -/
structure Region where
  dpa : Nat                    -- in units of 1 GiB
  port : Nat
  st : Nat                     -- 0 ONLINE, 1 LOST, 2 FENCED
  deriving DecidableEq, Repr

/-- A request of the host proxy ring (R428, R429). -/
structure ProxyReq where
  seq : Nat
  core : Nat
  cmd : Nat
  postedAt : Nat
  claimed : Bool
  deriving DecidableEq, Repr

/-- A monitor (R435). -/
structure Monitor where
  en : Bool
  unit : Nat
  src : Nat
  mn : W32
  mx : W32
  bins : Store Nat
  deriving DecidableEq, Repr

/-- An audit in progress (R359 to R362). -/
structure Audit where
  b : Bundle
  ord : Nat
  orig : Nat                   -- core of the original
  sems : List W32              -- its semaphore counts at binding
  sig : W64
  extents : List (Nat × Place × Nat) -- sealed outward writes: virtual address, place, bytes
  replays : List (Nat × W64)   -- cores and signatures of the replays that have ended
  toBind : Bool                -- a replay waits to be bound
  deriving DecidableEq, Repr

/-- A Chaperone trap without a vector, as the housekeeping controller reports it to system software (R308). -/
structure ChapTrap where
  core : Nat
  code : BitVec 8
  pc : W64
  ea : W64
  deriving DecidableEq, Repr

/-- The device's registers, tables and memories outside the cores. -/
structure Dev where
  hbm : Store Byte             -- R322
  hbmP : Store Bool            -- poison per 64 bytes (R354)
  host : Store Byte            -- R221
  hostP : Store Bool           -- poison per 64 bytes, as poisoned TLPs have brought it there (R354)
  pool : Store Byte            -- the memory devices behind the CXL ports, by port × 2^52 + address (R333, R431)
  poolP : Store Bool
  lines : List PoolLine
  llc : List LlcLine           -- dirty lines of device memory, newest first (R9, R219)
  wseq : Nat                   -- writes performed (R224)
  wlog : List MemWr            -- the recent ones, newest first (R228, R231)
  rels : List RelMark          -- writes that an acquire may read a release from (R225)
  flushed : Nat                -- writes that a completed flushing read covers (R240)
  discarded : List MemWr       -- pool writes discarded by a region loss (R239)
  tlb : Vector (List TlbEnt) 2
  cemask : W64
  dstrk : W64
  boot : Nat
  hwin : W64
  fwAddr : W64
  fwLen : W64
  frozen : Bool
  pwrlim : W64
  throttled : Bool
  cmdarg : W64
  cmdBusy : Option (BitVec 8 × Nat) -- the pending command: OP and context (R423)
  cmdLost : Bool
  cmdCode : BitVec 8
  cmdvec : Nat
  frings : Vector FaultRing 2
  detected : Nat               -- fault records raised so far (R330)
  asyEn : Bool
  asyK : Nat
  audseq : W64
  samp : BitVec 16
  mtch : BitVec 16
  mism : BitVec 16
  aban : BitVec 16
  suspect : W64
  audits : List Audit
  pxbase : W64
  pxen : Bool
  pxlogn : Nat
  pxvec : Nat
  pxtmo : Nat
  pxprod : Nat
  pxok : Bool
  pxseq : W64
  pxreqs : List ProxyReq
  pwbase : W64
  pwcnt : Nat
  regions : Store Region
  cxlUp : Vector Bool 4
  ports : Vector Port 79
  member : Store W64           -- R379
  groups : Store Group
  routes : Store Byte          -- R421
  msix : Store Byte            -- R421
  scanChain : Nat
  scanWord : Nat
  monitors : Vector Monitor 32
  hrings : Store HostRing      -- 16 × context + ring (R277)
  hcmds : List HostCmd
  ctxs : Store Ctx
  bundles : List Bundle
  nextBundle : Nat
  nextAct : Nat
  walkers : Vector Walker 2
  keys : List JobKey
  ctlq : List (FlitHdr × List Byte) -- control packets that wait for a slot that may seal (R375)
  red : List RedEnt
  sigsLeft : Nat
  clusterPass : BitVec 8
  ringArb : Walker             -- arbitration of host ring reads, and the number of the ring read last, plus 1 (R295)
  chapTraps : List ChapTrap    -- reported to system software (R308)
  deriving DecidableEq, Repr

/-- Which agent moves: a thread executes its next header or word, a core's sequencer executes its next
word, or an event happens. -/
inductive Turn where
  | thread (w : Who)
  | seq (core : CoreId)
  | event (i : Instr)
  deriving DecidableEq, Repr

/-- An item of the agenda: how many ticks pass before it, and whose turn it is. -/
structure Action where
  dt : Nat
  turn : Turn
  deriving DecidableEq, Repr

/-- The order of the actions of one core cycle (R12): the cycle of the last one, the highest place taken in it
(Machine/Tick.lean), and the uncore cycle of the last thing that a core did, plus 1; how many core edges still look at what has
changed, and whether the next uncore edge does. -/
structure Phase where
  cycle : Nat
  rank : Nat
  coreAct : Nat
  edges : Nat
  cross : Bool
  deriving DecidableEq, Repr

/-- The whole machine. -/
structure State where
  now : Nat
  agenda : List Action
  cur : Who
  phase : Phase
  free : Nat
  irqs : List Nat
  wire : List Sent
  resp : List (Option (List Byte × Bool))  -- what host reads returned, and whether poisoned (R355); none: Unsupported Request (R422)
  dev : Dev
  cores : Vector Core 64
  deriving DecidableEq, Repr

/-! ### Why a step stops -/

/-- Reasons a step ends in a fault. -/
inductive Fault where
  /-- The device is frozen and no reset comes (R434). No step raises it: a frozen device steps to itself. Safe. -/
  | frozen
  deriving DecidableEq, Repr

/-- Reasons a step is refused. -/
inductive Refusal where
  /-- The instruction has no meaning in the model yet. Safe. -/
  | notModelled (mnemonic : String)
  deriving DecidableEq, Repr

/-! ### Reset -/

def SecHdr.zero : SecHdr := ⟨0, 0, 0, 0, 0, 0, 0, 0, 0, 0, 0, 0, 0, 0⟩

/-- A thread after device reset; priv is PRIV of STATUS (R306). -/
def Eng.reset (priv : Bool) : Eng :=
  { g := Vector.replicate 32 0, t := Vector.replicate 8 0, pc := 0, left := 0, sec := SecHdr.zero, secAddr := 0,
    inst := 0, done := false, run := .off, delay := none, status := if priv then 1 else 0, cause := 0, epc := 0,
    eaddr := 0, tvec := 0, stallcnt := 0, spill := [], spillP := [], loops := [], wait := none, divBusy := 0, busy := 0, stalled := false,
    panSince := none, ask := none, arrived := false, came := none, own := true, sts := (0, 0), asked := none, pushTo := none, prog := 0, fed := 0, issued := false, async := [],
    retSec := SecHdr.zero, retAddr := 0, retRun := .run, retHdr := false, retCame := none, retVoid := none }

def Plane.reset : Plane := ⟨.empty, 0, 0, 0, false, 0, [], [], [], false, none⟩

def Arr.reset : Arr :=
  ⟨⟨0, 0, 0, 0, 0, 0, false, false⟩, Plane.reset, Plane.reset, false, false, 0, 0⟩

def Loop.reset : Loop := ⟨false, 0, 0, 1, false, 0, 0, 0, 0, 0, none, 0, 0, [], none, false, [], []⟩

def Bar.reset : Bar :=
  { st := .idle, code := 0, base := 0, exp := 0, tiled := false, dl := false, spb := false, bmo := 0, deadline := 0,
    pitch := 0, trows := 0, tw := 0, tbytes := 0, trs := 0, tcs := 0, frec := 0, lmap := 0, arr := 0, lost := 0,
    dup := 0, late := 0, stray := 0, red := none, gen := 0 }

def Ring.reset : Ring := ⟨false, 0, 0, 0, 0, false, 0, 0, 0, 0, 0, 0, 0, 0, []⟩

def Pattern.zero : Pattern := ⟨0, 0, false, false, false, false, [], [], 0⟩

def Stream.reset : Stream :=
  { st := .closed, code := 0, kind := 0, oq := 0, ring := 0, pol := 0, pd := false, pt := false, atm := 0,
    pat := Pattern.zero, off := 0, dst := 0, pc := 0, loop := none, idx := [], count := 0, doneSecs := [],
    staged := [], parked := [], began := 0, reach := 0, ea := 0 }

def Seq.reset : Seq :=
  { x := Vector.replicate 16 0, pc := 0, running := false, lmem := [], startq := [], cmdq := [], evq := [],
    evwaitq := [], flows := [], stallSince := none, lastCtx := none, routine := none, ops := [], opens := 0, busy := 0, ldx := (0, 0) }

/-- A core's restorable state after device reset: VBANKPWR as R70 gives, KLIM, KWARN and AUTHMAX as R375
gives, CHSHARE as the row shown in 00_scope reads, every register without a stated value 0 (log entry 5). -/
def Arch.reset : Arch :=
  { engC := Eng.reset false, engA := Eng.reset false, engV := Eng.reset false, engM := Eng.reset false,
    chap := Eng.reset true, tiles := [], wfile := [], latches := [], tileP := [], wfileP := [], latchP := [],
    pend := [], bankPwr := 5, bankWake := [], named := [], scr := [], scrP := [], scrLog := [], scrSeq := 0, acc := [], accP := [], m0 := Arr.reset,
    m1 := Arr.reset, portAcc := 0, leases := [], mflight := [], oq := Vector.replicate 8 [], oqIn := Vector.replicate 8 0,
    putx := Vector.replicate 16 [], putxSeq := Vector.replicate 16 [], bout := Vector.replicate 16 [], loops := Vector.replicate 4 Loop.reset,
    sids := [], srAt := [], sealPass := none, slipw := 64, chshare := 0x400, poisonst := 0, pwstat := 0, ctxid := 0, iter := 0, srseed := 0,
    srcnt := 0, klim := 0x1000000000, kwarn := 0xF00000000, authmax := 8, wins := Vector.replicate 8 none,
    sems := Vector.replicate 256 0, bars := Vector.replicate 64 Bar.reset, barMem := [], barP := [],
    rings := Vector.replicate 16 Ring.reset, streams := Vector.replicate 16 Stream.reset, sfeed := none,
    seq := Seq.reset }

def Core.reset : Core :=
  { arch := Arch.reset, xq := [], nextCmd := 0, hold := [], nextHold := 0, ckpts := [], cpCount := 0, cpReq := [], panWait := [], shadows := [],
    region := .idle, recov := none, attLoop := none, restart := none, strikes := [], rgstrk := 0, rgroll := 0, rgrec := 0, rgdisc := 0,
    sigdrop := 0, task := none, real := none, lastCtx := none, saved := [], preempt := none, svcs := [], chq := [], pushTurn := [], chcred := 0,
    tlb := [], heldPlace := [], heldScr := [], flushAsk := none, chEarn := 0, rx := [], ringIn := [] }

def FaultRing.reset : FaultRing := ⟨0, 0, false, false, 0, 0, 0, [], []⟩

def Walker.reset : Walker := ⟨0, 8, 4, 1, 0, 0⟩

/-- A port after reset: DOWN, all blocks in service, counters 0. -/
def Port.reset : Port := ⟨.down, 0, 0, 0, 0, 0, 0, 0, 0, 0, 0, [], false, false, Walker.reset⟩

def Monitor.reset : Monitor := ⟨false, 0, 0, 0xFFFFFFFF, 0, []⟩

/-- The device outside its cores after reset. -/
def Dev.reset : Dev :=
  { hbm := [], hbmP := [], host := [], hostP := [], pool := [], poolP := [], lines := [], llc := [], wseq := 0, wlog := [], rels := [], flushed := 0, discarded := [], tlb := Vector.replicate 2 [],
    cemask := Config.cemask, dstrk := 0, boot := 0, hwin := 0, fwAddr := 0, fwLen := 0, frozen := false,
    pwrlim := 3800, throttled := false, cmdarg := 0, cmdBusy := none, cmdLost := false, cmdCode := 0, cmdvec := 0,
    frings := Vector.replicate 2 FaultRing.reset, detected := 0, asyEn := false, asyK := 0, audseq := 0, samp := 0, mtch := 0,
    mism := 0, aban := 0, suspect := 0, audits := [], pxbase := 0, pxen := false, pxlogn := 0, pxvec := 0,
    pxtmo := 1000, pxprod := 0, pxok := false, pxseq := 0, pxreqs := [], pwbase := 0x8640000000, pwcnt := 1,
    regions := [], cxlUp := Vector.replicate 4 false, ports := Vector.replicate 79 Port.reset, member := [],
    groups := [], routes := [], msix := [], scanChain := 0, scanWord := 0,
    monitors := Vector.replicate 32 Monitor.reset, hrings := [], hcmds := [], ctxs := [], bundles := [],
    nextBundle := 0, nextAct := 0, walkers := Vector.replicate 2 Walker.reset, keys := [], ctlq := [], red := [],
    sigsLeft := 0x100000, clusterPass := 0xFF, ringArb := Walker.reset, chapTraps := [] }

/-- The machine right after reset. -/
def State.reset : State :=
  { now := 0, agenda := [], cur := ⟨0, .c⟩, phase := ⟨0, 0, 0, 0, false⟩, free := 0, irqs := [], wire := [], resp := [], dev := Dev.reset,
    cores := Vector.replicate 64 Core.reset }

end Sys2Proof.Machine
end

