-- ==== Sys2Proof/Machine/Store.lean ====
section
/-! DEFINITION. Sparse storage in one canonical form: (place, value) pairs with places strictly rising and no
pair whose value is what an unlisted place reads as. Reading one place, reading a run, writing a run. -/

namespace Sys2Proof.Machine

open Sys2Proof

/-- The value at place k; d is what an unlisted place reads as. -/
def Store.get {α : Type} (d : α) : Store α → Nat → α
  | [], _ => d
  | p :: st, k => if p.1 = k then p.2 else Store.get d st k

/-- Pairs for a run of values from place k on, without those equal to d. -/
def Store.pairs {α : Type} [DecidableEq α] (d : α) : Nat → List α → Store α
  | _, [] => []
  | k, v :: vs => if v = d then Store.pairs d (k + 1) vs else (k, v) :: Store.pairs d (k + 1) vs

/-- Writes a run of values from place k on. -/
def Store.put {α : Type} [DecidableEq α] (d : α) (st : Store α) (k : Nat) (vs : List α) : Store α :=
  st.filter (fun p => decide (p.1 < k)) ++
    (Store.pairs d k vs ++ st.filter (fun p => decide (k + vs.length ≤ p.1)))

/-- Writes one place. -/
def Store.set {α : Type} [DecidableEq α] (d : α) (st : Store α) (k : Nat) (v : α) : Store α :=
  Store.put d st k [v]

/-- Lays out n values from place k on, given the pairs of that run. -/
def Store.expand {α : Type} (d : α) : Store α → Nat → Nat → List α
  | _, _, 0 => []
  | [], k, n + 1 => d :: Store.expand d [] (k + 1) n
  | p :: st, k, n + 1 =>
    if p.1 = k then p.2 :: Store.expand d st (k + 1) n else d :: Store.expand d (p :: st) (k + 1) n

/-- The n values from place k on. -/
def Store.run {α : Type} (d : α) (st : Store α) (k n : Nat) : List α :=
  Store.expand d (st.filter (fun p => decide (k ≤ p.1) && decide (p.1 < k + n))) k n

/-- Removes every pair outside the places that keep accepts. -/
def Store.restrict {α : Type} (st : Store α) (keep : Nat → Bool) : Store α := st.filter (fun p => keep p.1)

/-- The canonical form. -/
def Store.wf {α : Type} [DecidableEq α] (d : α) : Store α → Bool
  | [] => true
  | [p] => !decide (p.2 = d)
  | p :: q :: st => !decide (p.2 = d) && decide (p.1 < q.1) && Store.wf d (q :: st)

end Sys2Proof.Machine
end

