-- ==== Sys2Proof/Machine/Memory.lean ====
section
/-! DEFINITION. Cause codes, device memory by place (R221 to R225, R237), page tables and translation
(R322 to R328), the pool's lines and regions (R333 to R335). -/

namespace Sys2Proof.Machine

open Sys2Proof

/-! ### Cause codes (R305) -/

namespace Code
def illegalWord : BitVec 8 := 0x01
def reservedField : BitVec 8 := 0x02
def delaySlotBranch : BitVec 8 := 0x03
def bankOff : BitVec 8 := 0x04
def paramUnbound : BitVec 8 := 0x05
def matrixInHandler : BitVec 8 := 0x06
def misaligned : BitVec 8 := 0x07
def privilege : BitVec 8 := 0x08
def sectionFormat : BitVec 8 := 0x09
def trapInsn : BitVec 8 := 0x0A
def pageNotPresent : BitVec 8 := 0x10
def pagePermission : BitVec 8 := 0x11
def poolRegionLost : BitVec 8 := 0x12
def translationPoison : BitVec 8 := 0x13
def poisonConsumed : BitVec 8 := 0x20
def rollbackExhausted : BitVec 8 := 0x21
def auditMismatch : BitVec 8 := 0x22
def shadowConflict : BitVec 8 := 0x23
def hostAtomicUnsupported : BitVec 8 := 0x30
def hostProxyDisabled : BitVec 8 := 0x31
def hostCompletionTimeout : BitVec 8 := 0x32
def linkAuthExhausted : BitVec 8 := 0x40
def keyExhausted : BitVec 8 := 0x41
def jobKeyAbsent : BitVec 8 := 0x42
def deliveryTimeout : BitVec 8 := 0x43
def queueOverrun : BitVec 8 := 0x50
def waitGraphCycle : BitVec 8 := 0x51

/-- The codes of R305. -/
def all : List (BitVec 8) :=
  [0x01, 0x02, 0x03, 0x04, 0x05, 0x06, 0x07, 0x08, 0x09, 0x0A, 0x10, 0x11, 0x12, 0x13, 0x20, 0x21, 0x22, 0x23,
    0x30, 0x31, 0x32, 0x40, 0x41, 0x42, 0x43, 0x50, 0x51]
end Code

/-! ### Bytes and words -/

/-- The bits hi down to lo of a number. -/
def bitsOf (w hi lo : Nat) : Nat := (w >>> lo) % 2 ^ (hi - lo + 1)

/-- A little-endian number of n bytes out of a byte list, from offset o; bytes beyond the list read 0. -/
def leAt (bs : List Byte) (o n : Nat) : Nat := bytesNat ((bs.drop o).take n)

def leW64 (bs : List Byte) (o : Nat) : W64 := BitVec.ofNat 64 (leAt bs o 8)
def leW32 (bs : List Byte) (o : Nat) : W32 := BitVec.ofNat 32 (leAt bs o 4)

/-- A little-endian two's-complement number of 4 bytes. -/
def leInt32 (bs : List Byte) (o : Nat) : Int := (leW32 bs o).toInt

def zeroBytes (n : Nat) : List Byte := List.replicate n 0

/-- A byte list cut or filled with zeros to n bytes. -/
def padTo (n : Nat) (bs : List Byte) : List Byte := (bs ++ zeroBytes (n - bs.length)).take n

/-- Overwrites bs from offset o with new; what lies beyond bs is dropped. -/
def overlay (bs : List Byte) (o : Nat) (new : List Byte) : List Byte :=
  (bs.take o ++ new ++ bs.drop (o + new.length)).take bs.length

/-- The chunks of n of a list, given enough fuel. -/
def chunks {α : Type} (n : Nat) : Nat → List α → List (List α)
  | 0, _ => []
  | fuel + 1, xs => if xs.isEmpty then [] else xs.take n :: chunks n fuel (xs.drop n)

/-! ### Poison marks of granules -/

/-- Whether a run of n places from k meets a marked granule of size g (R354). -/
def marked (st : Store Bool) (g k n : Nat) : Bool :=
  n ≠ 0 && st.any (fun p => p.2 && decide (k / g ≤ p.1) && decide (p.1 ≤ (k + n - 1) / g))

/-- The marks after n places from k were written: poisoned data marks every granule touched; clean data
clears the granules it covers whole and leaves the others (R354). -/
def markWrite (st : Store Bool) (g k n : Nat) (poison : Bool) : Store Bool :=
  if n = 0 then st
  else
    let lo := k / g
    let cnt := (k + n - 1) / g - lo + 1
    Store.put false st lo ((List.range cnt).map (fun j =>
      poison || (Store.get false st (lo + j) && !(decide (k ≤ (lo + j) * g) && decide ((lo + j + 1) * g ≤ k + n)))))

/-! ### The pool (R237, R333, R334) -/

def Dev.poolSize (d : Dev) : Nat := d.pwcnt * 2 ^ 30

/-- A region's entry; regions start FENCED, unnamed by any register write (R334, R431). -/
def regionDefault : Region := ⟨0, 0, 2⟩
def Dev.region (d : Dev) (n : Nat) : Region := Store.get regionDefault d.regions n

/-- Where the home holds a byte of the window: on the port of its region, at the region's DPA (R333, R431). -/
def Dev.homeOf (d : Dev) (off : Nat) : Nat :=
  let r := d.region (off / 2 ^ 30)
  r.port * 2 ^ 52 + r.dpa * 2 ^ 30 + off % 2 ^ 30

def Dev.findLine (d : Dev) (l : Nat) : Option PoolLine := d.lines.find? (fun p => p.line = l)

/-- One byte of the pool as a DEVICE-scope read sees it: an LLC line's, else the home's. -/
def Dev.poolByte (d : Dev) (off : Nat) : Byte :=
  match d.findLine (off / 64) with
  | some p => p.bytes.getD (off % 64) 0
  | none => Store.get 0 d.pool (d.homeOf off)

def Dev.poolRead (d : Dev) (off n : Nat) : List Byte := (List.range n).map (fun j => d.poolByte (off + j))

def Dev.poolPoison (d : Dev) (off n : Nat) : Bool :=
  (List.range ((off % 64 + n + 63) / 64)).any (fun j =>
    match d.findLine (off / 64 + j) with
    | some p => p.poison
    | none => Store.get false d.poolP (d.homeOf (64 * (off / 64 + j)) / 64))

/-- Replaces or adds an LLC line. -/
def Dev.putLine (d : Dev) (p : PoolLine) : Dev :=
  { d with lines := d.lines.filter (fun q => q.line ≠ p.line) ++ [p] }

def Dev.dropLine (d : Dev) (l : Nat) : Dev := { d with lines := d.lines.filter (fun q => q.line ≠ l) }

/-- The line as the LLC fills it from home. -/
def Dev.fillLine (d : Dev) (l : Nat) : PoolLine :=
  match d.findLine l with
  | some p => p
  | none =>
    let a := d.homeOf (64 * l)
    ⟨l, false, Store.run 0 d.pool a 64, List.replicate 64 false, Store.get false d.poolP (a / 64), 0⟩

/-- Writes a dirty line home; it stays in the LLC clean (R238). -/
def Dev.cleanLine (d : Dev) (l : Nat) : Dev :=
  match d.findLine l with
  | none => d
  | some p =>
    if p.dirty.any id then
      { (d.putLine { p with dirty := List.replicate 64 false, since := 0 }) with
        pool := Store.put 0 d.pool (d.homeOf (64 * l)) p.bytes, poolP := Store.set false d.poolP (d.homeOf (64 * l) / 64) p.poison }
    else d

/-! ### The LLC (R6, R9, R13, R219) -/

/-- Lines of 64 bytes in the 192 MiB of the LLC (R13). -/
def llcLines : Nat := 3145728

/-- An LLC with more lines than it has room for writes the oldest home and drops it: those of device memory first (log
entry 136). -/
def Dev.fitLlc (d : Dev) : Dev :=
  let n := d.llc.length + d.lines.length - llcLines
  if n = 0 then d
  else
    let d := (d.lines.take (n - d.llc.length)).foldl (fun (d : Dev) p => (d.cleanLine p.line).dropLine p.line) d
    { d with llc := d.llc.take (llcLines - d.lines.length) }

/-- A line of device memory is about to be written in the LLC. What its home holds stays behind; the LLC may have written
the line home on its own since (R219): a free choice. -/
def Dev.llcTouch (d : Dev) (l : Nat) : Dev :=
  let now : LlcLine := ⟨l, Store.run 0 d.hbm (64 * l) 64, Store.get false d.hbmP l⟩
  let x := (d.llc.find? (fun x => x.line = l)).getD now
  let out := Config.freeBool d.wseq (2 ^ 95 + l)
  { d with llc := ⟨l, if out then now.home else x.home, if out then now.poison else x.poison⟩ ::
             d.llc.filter (fun x => x.line ≠ l) }

/-- Lines that n bytes at an address touch. -/
def linesOf (pa n : Nat) : List Nat := if n = 0 then [] else (List.range ((pa % 64 + n + 63) / 64)).map (fun k => pa / 64 + k)

/-- Lines of device memory written home: they are clean. -/
def Dev.llcClean (d : Dev) (ls : List Nat) : Dev := { d with llc := d.llc.filter (fun x => !ls.contains x.line) }

/-- A line of device memory is discarded without being written home; whether the LLC wrote it home before is free (R219). -/
def Dev.llcDrop (d : Dev) (l : Nat) : Dev :=
  match d.llc.find? (fun x => x.line = l) with
  | none => d
  | some x =>
    let d := d.llcClean [l]
    if Config.freeBool d.wseq (2 ^ 97 + l) then d
    else { d with hbm := Store.put 0 d.hbm (64 * l) x.home, hbmP := Store.set false d.hbmP l x.poison }

/-- A read of a pool place under policy LLC leaves its lines in the LLC, Shared where it did not hold them (R237). -/
def Dev.sharePool (d : Dev) (off n : Nat) : Dev :=
  let ls := (linesOf off n).filter (fun l => (d.findLine l).isNone)
  if ls.isEmpty then d else (ls.foldl (fun (d : Dev) l => d.putLine (d.fillLine l)) d).fitLlc

/-- A write performed to part of one pool line: at the LLC with the line exclusive, or at the home when the
policy is BYPASS (code 1), after the line has left the LLC (R224, R237). -/
def Dev.poolWriteLine (d : Dev) (pol off : Nat) (bs : List Byte) (poison : Bool) : Dev :=
  let l := off / 64
  let cover := decide (off % 64 = 0) && decide (bs.length = 64)
  if pol = 1 then
    let d := (d.cleanLine l).dropLine l
    let a := d.homeOf off
    { d with pool := Store.put 0 d.pool a bs
             poolP := Store.set false d.poolP (a / 64) (poison || (Store.get false d.poolP (a / 64) && !cover)) }
  else
    let p := d.fillLine l
    let old := p.dirty.any id
    let p : PoolLine :=
      { p with excl := true, bytes := overlay p.bytes (off % 64) bs
               dirty := p.dirty.zipIdx.map (fun q => q.1 || (decide (off % 64 ≤ q.2) && decide (q.2 < off % 64 + bs.length)))
               poison := poison || (p.poison && !cover), since := if old then p.since else d.wseq + 1 }
    d.putLine p

/-- A write to a run of pool bytes, line by line. -/
def Dev.poolWrite (pol : Nat) (poison : Bool) : Nat → Dev → Nat → List Byte → Dev
  | 0, d, _, _ => d
  | fuel + 1, d, off, bs =>
    if bs.isEmpty then d
    else
      let n := min (64 - off % 64) bs.length
      Dev.poolWrite pol poison fuel (d.poolWriteLine pol off (bs.take n) poison) (off + n) (bs.drop n)

/-! ### Memory by place -/

/-- The state of the region of a pool place: 0 ONLINE, 1 LOST, 2 FENCED. -/
def Dev.poolState (d : Dev) (off : Nat) : Nat := (d.region (off / 2 ^ 30)).st

/-- How many of n bytes at a device physical address HBM holds (R322). -/
def inHbm (pa n : Nat) : Nat := min n (Config.hbmBytes - pa)

/-- Reads n bytes at a place; a REMOTE place is not read here. Beyond the end of HBM, on the last page that begins in it,
there is no memory: what is read there is free (log entry 145). -/
def Dev.readPlace (d : Dev) (p : Place) (n : Nat) : List Byte :=
  if p.kind = 0 then
    Store.run 0 d.hbm p.pa (inHbm p.pa n) ++
      (List.range (n - inHbm p.pa n)).map (fun k => (Config.freeWord d.wseq (2 ^ 102 + p.pa + k)).extractLsb' 0 8)
  else if p.kind = 1 then d.poolRead (p.pa - d.pwbase.toNat) n
  else if p.kind = 2 then Store.run 0 d.host p.pa n
  else zeroBytes n

/-- Whether bytes read at a place are poisoned (R354). -/
def Dev.placePoison (d : Dev) (p : Place) (n : Nat) : Bool :=
  if p.kind = 0 then marked d.hbmP 64 p.pa n
  else if p.kind = 1 then d.poolPoison (p.pa - d.pwbase.toNat) n
  else if p.kind = 2 then marked d.hostP 64 p.pa n
  else false

/-- An agent that is no core: the host, another device, system software (R222). -/
def Author.other : Author := ⟨64, .c, .h, 0, 0, 0, 16, 0⟩

/-- The bytes at a place are written, whatever the log says: at the LLC under policies 0 and 2, beyond it under 1. Poisoned
bytes for a HOST place leave as a poisoned TLP, and host memory then holds them so (R354; log entry 146). -/
def Dev.storePlace (d : Dev) (p : Place) (pol : Nat) (bs : List Byte) (poison : Bool) : Dev :=
  if p.kind = 0 then
    let bs := bs.take (inHbm p.pa bs.length)
    let ls := linesOf p.pa bs.length
    let d := if pol = 1 then d.llcClean ls else ls.foldl Dev.llcTouch d
    { d with hbm := Store.put 0 d.hbm p.pa bs, hbmP := markWrite d.hbmP 64 p.pa bs.length poison }
  else if p.kind = 1 then Dev.poolWrite pol poison (bs.length + 1) d (p.pa - d.pwbase.toNat) bs
  else if p.kind = 2 then { d with host := Store.put 0 d.host p.pa bs, hostP := markWrite d.hostP 64 p.pa bs.length poison }
  else d

/-- A pool place whose region is not ONLINE. -/
def Dev.lostPlace (d : Dev) (p : Place) : Bool := p.kind = 1 && d.poolState (p.pa - d.pwbase.toNat) ≠ 0

/-- The bytes that a write leaves. It is a set of units performed in no stated order (R229): where another agent has written in
the same cycle, unit by unit either of the two is the later one, by free choice. -/
def Dev.mixed (d : Dev) (p : Place) (bs : List Byte) (au : Author) : List Byte :=
  let ws := d.wlog.filter (fun w => au.at_ ≠ 0 && w.au.at_ = au.at_ && w.au.core ≠ au.core && w.place.kind = p.kind &&
    decide (w.place.pa < p.pa + bs.length) && decide (p.pa < w.place.pa + w.new.length))
  if ws.isEmpty then bs
  else (bs.zip (d.readPlace p bs.length)).zipIdx.map (fun b =>
    let a := p.pa + b.2
    if ws.any (fun w => decide (w.place.pa ≤ a) && decide (a < w.place.pa + w.new.length) &&
        Config.freeBool d.wseq (2 ^ 103 + 2 ^ 64 * w.seq + a / max 1 (max au.unit w.au.unit))) then b.1.2 else b.1.1)

/-- Performs a write at a place under a policy (0 LLC, 1 BYPASS, 2 STREAM), and notes it. Writes to a pool region that is
not ONLINE are discarded (R336). What a REMOTE place then holds is the target's (R224). -/
def Dev.writePlace (d : Dev) (p : Place) (pol : Nat) (bs : List Byte) (poison : Bool) (au : Author := Author.other) : Dev :=
  let bs := d.mixed p bs au
  let w : MemWr := ⟨d.wseq + 1, au, p, d.readPlace p bs.length, bs, []⟩
  if bs.isEmpty then d
  else if d.lostPlace p then { d with discarded := d.discarded ++ [w], wseq := d.wseq + 1 }
  else
    let d := (d.storePlace p pol bs poison).fitLlc
    { d with wseq := d.wseq + 1, wlog := w :: d.wlog }

/-! ### Writes that a read may miss, and writes not yet performed everywhere (R224, R228, R229) -/

/-- A logged write meets n bytes at a place. -/
def MemWr.meets (w : MemWr) (p : Place) (n : Nat) : Bool :=
  w.place.kind = p.kind && decide (w.place.pa < p.pa + n) && decide (p.pa < w.place.pa + w.new.length)

/-- A byte as a read in progress takes it: the newest write first, each is seen or not, unit by unit (R229). -/
def missed (salt unit a : Nat) : List MemWr → Byte → Byte
  | [], v => v
  | w :: rest, v =>
    if w.place.pa ≤ a ∧ a < w.place.pa + w.new.length then
      if Config.freeBool salt (2 ^ 98 + 2 ^ 64 * w.seq + a / max 1 (min unit w.au.unit)) then
        missed salt unit a rest (w.old.getD (a - w.place.pa) v)
      else v
    else missed salt unit a rest v

/-- Bytes at a place as a stream or command reads them that has been reading since a number of writes: what has been
written since then it sees or not (R224, R228). -/
def Dev.readSince (d : Dev) (began unit salt : Nat) (p : Place) (n : Nat) : List Byte :=
  let ws := d.wlog.filter (fun w => decide (began < w.seq) && w.meets p n)
  if ws.isEmpty then d.readPlace p n
  else (d.readPlace p n).zipIdx.map (fun b => missed salt unit (p.pa + b.2) ws b.1)

/-- A pool write has reached its home (R224, R238). -/
def Dev.atHome (d : Dev) (w : MemWr) : Bool :=
  d.lines.all (fun p => !(linesOf (w.place.pa - d.pwbase.toNat) w.new.length).contains p.line || !p.dirty.any id ||
    decide (w.seq < p.since))

/-- A performed write is performed at a scope, at a cycle (the table of R224). When a remote target acknowledges is free. -/
def Dev.doneAt (d : Dev) (now scope : Nat) (w : MemWr) : Bool :=
  match w.place.kind with
  | 1 => decide (scope ≤ 1) || d.atHome w
  | 2 => decide (scope < 4) || decide (w.seq ≤ d.flushed)
  | 3 => decide ((Config.freeWord w.seq (2 ^ 94)).toNat ≤ now)
  | _ => true

/-- The log keeps what reads that began at a number of writes may miss, and what is not performed everywhere. -/
def Dev.prune (d : Dev) (now oldest : Nat) : Dev :=
  { d with wlog := d.wlog.filter (fun w => decide (oldest < w.seq) || !d.doneAt now 4 w) }

/-- Device physical memory: HBM below its end, the pool window above it (R322, R333). -/
def Dev.physPlace (d : Dev) (pa : Nat) : Place :=
  if d.pwbase.toNat ≤ pa then ⟨1, pa, 0, 0⟩ else ⟨0, pa, 0, 0⟩

/-! ### Page tables (R322, R323) -/

/-- The compute die of a core (R7). -/
def dieOf (c : CoreId) : Fin 2 := if c.val < 32 then 0 else 1

/-- The result of translating a virtual address, before permission is asked. -/
inductive Xlat where
  | leaf (e : W64) (lvl : Nat)
  | absent (lvl : Nat) (mal : Bool)
  | poisoned (lvl : Nat)
  deriving DecidableEq, Repr

/-- Bits of an address below the index of a level: a leaf there maps 1 GiB, 2 MiB or 64 KiB. -/
def pageBits (lvl : Nat) : Nat := if lvl = 0 then 39 else if lvl = 1 then 30 else if lvl = 2 then 21 else 16

def lvlIndex (va lvl : Nat) : Nat :=
  if lvl = 0 then bitsOf va 55 39 else if lvl = 1 then bitsOf va 38 30 else if lvl = 2 then bitsOf va 29 21
  else bitsOf va 20 16

def leafKind (e : W64) : Nat := bitsOf e.toNat 4 3
def leafPA (e : W64) : Nat := bitsOf e.toNat 51 16 * 2 ^ 16
def leafJki (e : W64) : Nat := bitsOf e.toNat 41 32
def leafRank (e : W64) : Nat := bitsOf e.toNat 31 16
def leafR (e : W64) : Bool := e.getLsbD 5
def leafW (e : W64) : Bool := e.getLsbD 6
def leafX (e : W64) : Bool := e.getLsbD 7

/-- A valid entry (V = 1) at a level that is malformed (R323). njk is NJK of the context. -/
def malformed (d : Dev) (njk : Nat) (e : W64) (lvl : Nat) : Bool :=
  let n := e.toNat
  bitsOf n 63 52 ≠ 0 || e.getLsbD 1 ||
    (if e.getLsbD 2 then
      lvl = 0 || bitsOf n 15 8 ≠ 0 ||
        (if leafKind e = 3 then bitsOf n 51 42 ≠ 0 || decide (njk ≤ leafJki e)
         else
          decide (leafPA e % 2 ^ pageBits lvl ≠ 0) ||
            (leafKind e = 0 && decide (Config.hbmBytes ≤ leafPA e)) ||
            (leafKind e = 1 && (decide (leafPA e < d.pwbase.toNat) || decide (d.pwbase.toNat + d.poolSize ≤ leafPA e))))
     else
      lvl = 3 || bitsOf n 7 1 ≠ 0 || (decide (lvl ≤ 1) && bitsOf n 11 8 ≠ 0) ||
        decide (Config.hbmBytes ≤ bitsOf n 51 8 * 2 ^ 8))

/-- Walks from a table at physical address base, at a level, with the levels left as fuel (R322). -/
def Dev.walkFrom (d : Dev) (njk va : Nat) : Nat → Nat → Nat → Xlat
  | 0, _, lvl => .absent lvl true
  | fuel + 1, base, lvl =>
    let a := base + 8 * lvlIndex va lvl
    if marked d.hbmP 64 a 8 then .poisoned lvl
    else
      let e : W64 := BitVec.ofNat 64 (bytesNat (Store.run 0 d.hbm a 8))
      if !e.getLsbD 0 then .absent lvl false
      else if malformed d njk e lvl then .absent lvl true
      else if e.getLsbD 2 then .leaf e lvl
      else Dev.walkFrom d njk va fuel (bitsOf e.toNat 51 8 * 2 ^ 8) (lvl + 1)

def Dev.walk (d : Dev) (x : Ctx) (va : Nat) : Xlat := d.walkFrom x.njk va 4 x.root 0

/-- The entries, tables and leaf, of a walk that comes to a leaf: what a second-level cache takes (R327). -/
def Dev.walkEnts (d : Dev) (asid va : Nat) : Nat → Nat → Nat → List TlbEnt
  | 0, _, _ => []
  | fuel + 1, base, lvl =>
    let e : W64 := BitVec.ofNat 64 (bytesNat (Store.run 0 d.hbm (base + 8 * lvlIndex va lvl) 8))
    ⟨asid, lvl, va / 2 ^ pageBits lvl, e⟩ ::
      (if e.getLsbD 2 then [] else Dev.walkEnts d asid va fuel (bitsOf e.toNat 51 8 * 2 ^ 8) (lvl + 1))

/-- The context record, FREE when the number names none (R302). -/
def Ctx.free : Ctx :=
  { st := .free, root := 0, asid := 0, tvec := 0, hamper := 0, hsize := 0, kbase := 0, ksize := 0, cores := 0,
    sema := 0, bara := 0, ringa := 0, jktab := 0, njk := 0, images := [] }

def Dev.ctx (d : Dev) (n : Nat) : Ctx := Store.get Ctx.free d.ctxs n
def Dev.setCtx (d : Dev) (n : Nat) (x : Ctx) : Dev := { d with ctxs := Store.set Ctx.free d.ctxs n x }

/-- A walk that starts at a table entry of the second-level cache (R327). -/
def Dev.walkBy (d : Dev) (x : Ctx) (va : Nat) (t : TlbEnt) : Xlat :=
  d.walkFrom x.njk va (3 - t.lvl) (bitsOf t.entry.toNat 51 8 * 2 ^ 8) (t.lvl + 1)

/-- What an access may translate to besides what the tables now hold: a leaf cached by the core, a leaf cached by its die,
a walk that starts at a table entry cached by its die (R326, R327). -/
def State.cached (s : State) (core : CoreId) (x : Ctx) (va : Nat) : List Xlat :=
  let mine (t : TlbEnt) : Bool := t.asid = x.asid && t.vpn = va / 2 ^ pageBits t.lvl
  let leaf (t : TlbEnt) : List Xlat := if mine t ∧ t.entry.getLsbD 2 then [.leaf t.entry t.lvl] else []
  s.cores[core].tlb.flatMap leaf ++ s.dev.tlb[dieOf core].flatMap (fun t =>
    if mine t ∧ !t.entry.getLsbD 2 then [s.dev.walkBy x va t] else leaf t)

/-- Translation of an access by a core. A cached entry that differs from what the tables now hold is used or not, as the
free choice says (R326): one choice for each access, which is a sector of 512 bytes or a unit of text (log entry 3). -/
def State.xlate (s : State) (core : CoreId) (ctx va : Nat) (unit : Nat := 512) : Xlat :=
  let x := s.dev.ctx ctx
  let w := s.dev.walk x va
  match (s.cached core x va).filter (· ≠ w) with
  | [] => w
  | old => (w :: old).getD ((Config.freeWord s.free (2 ^ 93 + 2 ^ 160 * s.now + 2 ^ 64 * core.val + va / unit)).toNat % (old.length + 1)) w

/-- What an access asks of a leaf (R324). -/
inductive Need where
  | r | w | rw | x
  deriving DecidableEq, Repr

def leafAllows (e : W64) : Need → Bool
  | .r => leafR e
  | .w => leafW e
  | .rw => leafR e && leafW e
  | .x => leafX e

/-- The place that a leaf gives an address. -/
def leafPlace (e : W64) (lvl va : Nat) : Place :=
  if leafKind e = 3 then ⟨3, va, leafJki e, leafRank e⟩
  else ⟨leafKind e, leafPA e + va % 2 ^ pageBits lvl, 0, 0⟩

/-- The outcome of an access check: a place, or a code of R305 with the malformed flag. -/
inductive Access where
  | ok (p : Place)
  | bad (code : BitVec 8) (mal : Bool)
  deriving DecidableEq, Repr

/-- Translates and asks for permission (R323, R324, R325); a pool place whose region is not ONLINE gives
POOL_REGION_LOST (R335). Virtual addresses have 56 bits: a larger one is not present. -/
def State.access (s : State) (core : CoreId) (ctx va : Nat) (n : Need) : Access :=
  if 2 ^ 56 ≤ va then .bad Code.pageNotPresent false
  else
    match s.xlate core ctx va (if n = .x then 4 else 512) with
    | .absent _ m => .bad Code.pageNotPresent m
    | .poisoned _ => .bad Code.translationPoison false
    | .leaf e lvl =>
      if !leafAllows e n then .bad Code.pagePermission false
      else
        let p := leafPlace e lvl va
        if p.kind = 1 && s.dev.poolState (p.pa - s.dev.pwbase.toNat) ≠ 0 then .bad Code.poolRegionLost false
        else .ok p

/-- What a read under a policy leaves in the LLC (R237). -/
def State.shareAt (s : State) (core : CoreId) (ctx va n pol : Nat) : State :=
  match s.access core ctx va .r with
  | .ok p => if p.kind = 1 ∧ pol = 0 then { s with dev := s.dev.sharePool (p.pa - s.dev.pwbase.toNat) n } else s
  | .bad _ _ => s

/-- Adds a leaf to a cache, replacing one for the same page; a cache holds at most cap entries (R327). -/
def fillTlb (cap : Nat) (l : List TlbEnt) (t : TlbEnt) : List TlbEnt :=
  (t :: l.filter (fun q => !(q.asid = t.asid && q.lvl = t.lvl && q.vpn = t.vpn))).take cap

/-- Reads n bytes of virtual memory page by page; stops at the first byte that does not translate, with its
address. The read also says whether it met poison. -/
def State.readVirt (s : State) (core : CoreId) (ctx : Nat) (need : Need) :
    Nat → Nat → Nat → Except (BitVec 8 × Nat) (List Byte × Bool)
  | 0, _, _ => .ok ([], false)
  | fuel + 1, va, n =>
    if n = 0 then .ok ([], false)
    else
      let k := min n (65536 - va % 65536)
      match s.access core ctx va need with
      | .bad c _ => .error (c, va)
      | .ok p =>
        match State.readVirt s core ctx need fuel (va + k) (n - k) with
        | .error e => .error e
        | .ok (bs, po) => .ok (s.dev.readPlace p k ++ bs, s.dev.placePoison p k || po)

/-- The entry of a job key: the first valid one (R379). -/
def Dev.memberOf (d : Dev) (job : Nat) : Option W64 :=
  (d.member.find? (fun p => p.2.getLsbD 63 && decide (bitsOf p.2.toNat 23 0 = job))).map (fun p => p.2)

/-- Reads n bytes at va (at most 2^20 pages). -/
def State.readVa (s : State) (core : CoreId) (ctx : Nat) (need : Need) (va n : Nat) :
    Except (BitVec 8 × Nat) (List Byte × Bool) :=
  State.readVirt s core ctx need (n / 65536 + 2) va n

/-- The job key and rank of binding j of a context; none for an invalid binding or an absent job key. The table is
read at JKTAB, an address of the context; one that cannot be read has no valid binding (log entry 64). -/
def State.binding (s : State) (core : CoreId) (ctx j : Nat) : Option (Nat × Nat) :=
  let x := s.dev.ctx ctx
  if x.njk ≤ j then none
  else
    match s.readVa core ctx .r (x.jktab + 8 * j) 8 with
    | .error _ => none
    | .ok (bs, _) =>
      let e := leAt bs 0 8
      let job := bitsOf e 55 32
      if e.testBit 63 ∧ bitsOf e 62 56 = 0 ∧ bitsOf e 15 0 = 0 ∧ (s.dev.memberOf job).isSome then some (job, bitsOf e 31 16)
      else none

/-- What a REMOTE access comes to besides the target's own effect (R193, R213, R218, R380): none when it is performed
there, else the code. Without a binding it is JOB_KEY_ABSENT. What the target or the transport answers is a free choice
among the codes that they give (log entry 3). -/
def State.remoteFault (s : State) (core : CoreId) (ctx : Nat) (p : Place) (salt : Nat) : Option (BitVec 8) :=
  if p.kind ≠ 3 then none
  else if (s.binding core ctx p.jki).isNone then some Code.jobKeyAbsent
  else if Config.freeBool s.free (2 ^ 99 + salt) then none
  else some (([Code.deliveryTimeout, Code.pageNotPresent, Code.pagePermission, Code.translationPoison, Code.poolRegionLost,
      Code.linkAuthExhausted].getD ((Config.freeWord s.free (2 ^ 99 + salt)).toNat % 7) Code.keyExhausted))

end Sys2Proof.Machine
end

