-- ==== Sys2Proof/Machine/Ops.lean ====
section
/-! DEFINITION. The shared operations of a core: time, engines and registers, region-internal writes with
their shadow records (R347, R351), the Pan's hold queue and commit-point requests (R343, R346, R348), faults,
taking a trap and returning from one (R305, R308, R318), and the frame in which every kernel word runs
(R25, R27, R111, R120). -/

namespace Sys2Proof.Machine

open Sys2Proof

/-! ### Time (R3, R11) -/

def State.cycle (s : State) : Nat := s.now / Config.ticksPerCycle
def State.uncore (s : State) : Nat := s.now / Config.ticksPerUncore
def State.dtime (s : State) : Nat := s.now / Config.ticksPerNs

/-- BOOTSTAT reads READY; before, only the identity page, BAR2 and the mailbox respond (R432). -/
def State.ready (s : State) : Bool := s.dev.boot = 3

/-! ### Free values (log entry 3) -/

def State.bumpFree (s : State) : State := { s with free := s.free + 1 }

/-- A value that the spec leaves open, when no rule gives one. -/
def State.given (s : State) : Option W64 → W64 × State
  | some v => (v, s)
  | none => (Config.freeWord s.free 0, s.bumpFree)

/-! ### Access to cores and engines -/

def State.core (s : State) (c : CoreId) : Core := s.cores[c]
def State.setCore (s : State) (c : CoreId) (x : Core) : State := { s with cores := s.cores.set c x }
def State.modCore (s : State) (c : CoreId) (f : Core → Core) : State := s.setCore c (f (s.core c))
def State.modDev (s : State) (f : Dev → Dev) : State := { s with dev := f s.dev }

/-- A core by number; numbers beyond 63 wrap and are never used. -/
def coreId (n : Nat) : CoreId := ⟨n % 64, Nat.mod_lt n (by decide)⟩

def Core.modArch (c : Core) (f : Arch → Arch) : Core := { c with arch := f c.arch }

def Arch.eng (a : Arch) : Thread → Eng
  | .c => a.engC
  | .a => a.engA
  | .v => a.engV
  | .m => a.engM
  | .chap => a.chap

def Arch.setEng (a : Arch) (t : Thread) (e : Eng) : Arch :=
  match t with
  | .c => { a with engC := e }
  | .a => { a with engA := e }
  | .v => { a with engV := e }
  | .m => { a with engM := e }
  | .chap => { a with chap := e }

def Arch.modEng (a : Arch) (t : Thread) (f : Eng → Eng) : Arch := a.setEng t (f (a.eng t))

/-- The four kernel engines in code order (R26). -/
def kernelThreads : List Thread := [.c, .a, .v, .m]

/-- The core, state and engine of the thread whose word is being executed. -/
def State.here (s : State) : Core := s.core s.cur.core
def State.arch (s : State) : Arch := s.here.arch
def State.eng (s : State) : Eng := s.arch.eng s.cur.th
def State.modHere (s : State) (f : Core → Core) : State := s.modCore s.cur.core f
def State.modArch (s : State) (f : Arch → Arch) : State := s.modHere (fun c => c.modArch f)
def State.modEng (s : State) (f : Eng → Eng) : State := s.modArch (fun a => a.modEng s.cur.th f)

/-- The context of the tile task running on a core, 0 when none runs. -/
def Core.ctx (c : Core) : Nat := match c.task with | some t => t.ctx | none => 0

/-! ### General and branch-target registers (R60, R61) -/

def Eng.getG (e : Eng) (r : BitVec 5) : W64 := if r = 0 then 0 else e.g[r.toNat]
def Eng.setG (e : Eng) (r : BitVec 5) (v : W64) : Eng :=
  if r = 0 then e else { e with g := e.g.set r.toNat v }
def Eng.getT (e : Eng) (r : BitVec 3) : W64 := e.t[r.toNat]
def Eng.setT (e : Eng) (r : BitVec 3) (v : W64) : Eng := { e with t := e.t.set r.toNat v }

def State.g (s : State) (r : BitVec 5) : W64 := s.eng.getG r
def State.setG (s : State) (r : BitVec 5) (v : W64) : State := s.modEng (fun e => e.setG r v)

/-- Writes bit n of a register and leaves the others (R84). -/
def setBit (w : W64) (n : Nat) (b : Bool) : W64 :=
  if b then w ||| ((1 : W64) <<< n) else w &&& ~~~((1 : W64) <<< n)

def State.setGBit (s : State) (r : BitVec 5) (n : Nat) (b : Bool) : State := s.setG r (setBit (s.g r) n b)

/-! ### Commit points requested, hold queue, shadow pool -/

/-- Entries in use in the hold queue (R346, R349). -/
def Core.holdUsed (c : Core) : Nat := (c.hold.map (fun h => h.entries)).sum

/-- The granules that some shadow records hold a copy of: one for each granule and window, whatever the writer classes
that wrote it, without the records of other agents' writes and those of barrier and ring words (R347). -/
def copiesOf (hs : List Shadow) : List (Nat × Nat × Nat) :=
  ((hs.filter (fun h => decide (h.epoch ≠ 0) && decide (h.store < 9))).map (fun h => (h.store, h.gran, h.win))).eraseDups

/-- Granules in use in the shadow pool (R347, R349). -/
def Core.shadUsed (c : Core) : Nat := (copiesOf c.shadows).length

/-- Commit points taken and not sealed (R349). -/
def Core.openCps (c : Core) : Nat := (c.ckpts.filter (fun k => !k.sealedNow)).length

def Core.requestCp (c : Core) (k : CpKind) : Core := { c with cpReq := c.cpReq ++ [k] }

/-- The store codes of R351, and two of the model's own for ring and barrier words (R253, R266). -/
inductive StoreId where
  | scratch | tile | wfile | acc | spill | bar | oq | plane | seqLmem | ringWord | barWord
  deriving DecidableEq, Repr

def StoreId.code : StoreId → Nat
  | .scratch => 0 | .tile => 1 | .wfile => 2 | .acc => 3 | .spill => 4 | .bar => 5 | .oq => 6 | .plane => 7
  | .seqLmem => 8 | .ringWord => 9 | .barWord => 10

/-- The epoch of a write: a rollback to P undoes it when P is at most this. -/
def Writer.epoch (w : Writer) (win : Nat) : Nat :=
  match w with
  | .own => win
  | .outside => 0
  | .command e => min e win

/-- Notes the first write to a granule since the last commit point (R347, R351). An idle region notes
nothing, since nothing is in flight there (R341). -/
def Core.shade (c : Core) (st : StoreId) (w : Writer) (gran : Nat) : Core :=
  let e := w.epoch c.cpCount
  if c.region = .idle ∨ c.shadows.any (fun h => h.store = st.code && h.gran = gran && h.epoch = e && h.win = c.cpCount) then c
  else { c with shadows := c.shadows ++ [⟨st.code, gran, c.cpCount, e, false⟩] }

def Core.shadeRun (c : Core) (st : StoreId) (w : Writer) (gran first n : Nat) : Core :=
  if n = 0 then c
  else (List.range ((first + n - 1) / gran - first / gran + 1)).foldl
    (fun c j => c.shade st w ((first / gran + j) * gran)) c

/-- Applies a change to the core's state that a rollback to any commit point after number e keeps (R246, R351). -/
def Core.keepFrom (c : Core) (e : Nat) (f : Arch → Arch) : Core :=
  { c with arch := f c.arch, ckpts := c.ckpts.map (fun k => if e < k.num then { k with save := f k.save } else k) }

/-- Applies a change that every rollback keeps. -/
def Core.keep (c : Core) (f : Arch → Arch) : Core :=
  { c with arch := f c.arch, ckpts := c.ckpts.map (fun k => { k with save := f k.save }) }

/-- Applies a change of a writer class. -/
def Core.alter (c : Core) (w : Writer) (f : Arch → Arch) : Core :=
  match w with
  | .own => c.modArch f
  | .outside => c.keep f
  | .command e => c.keepFrom e f

/-- A deposit into a ring or barrier that a word has opened, closed, armed or reset since some commit point:
the word can no longer be undone (R253, R266). -/
def Core.spoil (c : Core) (st : StoreId) (n : Nat) : Core :=
  match ((c.shadows.filter (fun h => h.store = st.code && h.gran = n && !h.bad)).map (fun h => h.win)).max? with
  | none => c
  | some w =>
    if c.shadows.any (fun h => h.store = st.code && h.gran = n && h.bad && h.win = w) then c
    else { c with shadows := c.shadows ++ [⟨st.code, n, w, w, true⟩] }

/-- Puts an outward effect into the hold queue at a cycle (R346). -/
def Core.holdEff (c : Core) (now : Nat) (e : Eff) (entries : Nat) (th : Thread) (pc : W64) (epoch va : Nat) (unit : Nat := 4) : Core :=
  { c with nextHold := c.nextHold + 1, hold := c.hold ++
    [{ id := c.nextHold, since := now, eff := e, entries := entries, cover := none, fromCore := 0, fromTh := th, pc := pc,
       epoch := epoch, ctx := c.ctx, va := va, unit := unit, stale := false }] }

/-- 64-byte-aligned units that a write touches (R346). -/
def unitsTouched (addr n : Nat) : Nat := if n = 0 then 0 else (addr + n - 1) / 64 - addr / 64 + 1

/-! ### Scratchpad (R9, R94, R303, R354) -/

def Arch.scrRead (a : Arch) (addr n : Nat) : List Byte := Store.run 0 a.scr addr n
def Arch.scrPoisoned (a : Arch) (addr n : Nat) : Bool := marked a.scrP 64 addr n

/-! The readers of one scratchpad (R222, R228): the L path of a thread; what a thread's later commands, streams and
transport entries inherit from it by FENCE; a command in progress; a stream in progress; the sequencer. -/

def lReader (t : Thread) : Nat := match t with | .c => 0 | .a => 1 | .v => 2 | .m => 3 | .chap => 4
def xHeir (t : Thread) : Nat := 8 + lReader t
def sHeir : Nat := 16
def tHeir (t : Thread) : Nat := 24 + lReader t
def tReader : Nat := 31
def streamReader (n : Nat) : Nat := 32 + n

/-! Agents that read nothing themselves, and tokens: what relaxed waits of a thread, and reads on a path, have taken from
releases (R231); what a thread's FENCEs have ordered before its later L accesses (R231); the releases to a semaphore by
its own core and by others, to a ring, to a chunk of a barrier (R225, R233). -/

def lSeen (t : Thread) : Nat := 48 + lReader t
def lSeenOwn (t : Thread) : Nat := 72 + lReader t
def pathSeen (letter : Nat) : Nat := 56 + letter
def lFenced (t : Thread) : Nat := 64 + lReader t
def xQueue : Nat := 80
def semTok (n : Nat) : Nat := 512 + n
def semFarTok (n : Nat) : Nat := 768 + n
def ringTok (n : Nat) : Nat := 1024 + n
def chunkTok (n gen c : Nat) : Nat := 2 ^ 100 + 2 ^ 26 * gen + 2 ^ 20 * n + c

/-! A command: as a reader; its own writes; what its role as a release covers besides them (R212, R231, R233). -/

/-- The L reader of number r has come to be ordered after a write in this instance of its own (R21). -/
def instTok (r inst : Nat) : Nat := 2 ^ 34 + 8 * inst + r

def cmdReader (id : Nat) : Nat := 2 ^ 40 + 4 * id
def cmdWrote (id : Nat) : Nat := 2 ^ 40 + 4 * id + 1
def cmdCover (id : Nat) : Nat := 2 ^ 40 + 4 * id + 2

/-! Tokens that more than one core knows: another core as a whole, the releases of others to its semaphore, a signal on its
way, a release by a write to memory. -/

def coreTok (k : Nat) : Nat := 2 ^ 60 + k
def farTok (k n : Nat) : Nat := 2 ^ 61 + 256 * k + n
def signalTok (k id : Nat) : Nat := 2 ^ 62 + 64 * id + k
def relTok (seq : Nat) : Nat := 2 ^ 63 + 2 ^ 64 * seq

/-- An agent of a core, in the log of writes to memory. -/
def memAgent (core : CoreId) (r : Nat) : Nat := 2 ^ 64 * (2 ^ 20 + core.val) + 2 ^ 90 * r

/-- Whether a reader sees a write at a cycle, for the unit at address u. Its own engine's writes are seen, M's once
performed (R169, R172). A performed write that is ordered before the reader is seen. Any other performed one is seen
from a cycle on that is free (an L reader never goes back in coherence order), or by a free choice of the reading
command or stream, which may (R228). salt tells cores apart. For an L reader u is a unit of the write, so that accesses of
every size agree on it. -/
def ScrWr.seenBy (w : ScrWr) (r now salt : Nat) (fresh : Option Nat) (u : Nat) : Bool :=
  let own := match w.via with | .l t => decide (lReader t = r) | _ => false
  if own && r ≠ 3 then true
  else if now < w.from_ then false
  else if own || w.known.contains r then true
  else
    match fresh with
    | none => decide ((Config.freeWord (64 * w.seq + salt) (2 ^ 64 + 64 * u + r)).toNat ≤ now)
    | some f => Config.freeBool f (2 ^ 64 + 2 ^ 24 * w.seq + u)

/-- Every reader sees the write: nothing is left open. -/
def ScrWr.plain (w : ScrWr) (r now : Nat) : Bool :=
  decide (w.from_ ≤ now) && (w.known.contains r || (match w.via with | .l t => decide (lReader t = r) | _ => false))

/-- Scratchpad as a reader sees it (R228): the writes are taken back, and those that the reader sees are applied
again in coherence order, unit by unit of what the writer accesses as one, and for a command or stream of what the
reader does too (R226, R229). -/
def Arch.seen (a : Arch) (r now salt : Nat) (fresh : Option Nat) (unit : Nat) : Arch :=
  if a.scrLog.all (fun w => w.plain r now) then a
  else
    let base := a.scrLog.foldl (fun st w => Store.put 0 st w.addr w.old) a.scr
    { a with scr := a.scrLog.foldr (fun w st =>
        let u := max 1 (match fresh with | none => w.unit | some _ => if w.unit = 0 then unit else min unit w.unit)
        w.new.zipIdx.foldl (fun st b =>
          if w.seenBy r now salt fresh (if w.unit = 0 ∧ fresh.isNone then w.addr else (w.addr + b.2) / u * u) then Store.set 0 st (w.addr + b.2) b.1 else st) st) base }

/-- The indices of a stream or command that are not enumerated yet may take the values that a write to their array
leaves (R187, R209): entry k from position k on. -/
def reindex (seq addr n ibase w done_ span : Nat) (scr : Store Byte) (idx : List Int) : List Int :=
  if addr < ibase + w * idx.length ∧ ibase < addr + n then
    idx.zipIdx.map (fun v =>
      let e := ibase + w * v.2
      if addr < e + w ∧ e < addr + n ∧ done_ ≤ v.2 * span ∧ Config.freeBool seq (2 ^ 90 + v.2) then
        (BitVec.ofNat (8 * w) (bytesNat (Store.run 0 scr e w))).toInt
      else v.1)
  else idx

/-- A write to scratchpad as it lands: bytes, marks, and its place in coherence order. -/
def Arch.scrPut (a : Arch) (p : Via) (unit at_ addr : Nat) (bs : List Byte) (poison : Bool) : Arch :=
  let scr := Store.put 0 a.scr addr bs
  let inst := match p with | .l t => (a.eng t).inst | _ => 0
  let old := a.scrRead addr bs.length
  { a with
    scr := scr
    scrP := markWrite a.scrP 64 addr bs.length poison
    scrSeq := a.scrSeq + 1
    scrLog := if bs.isEmpty then a.scrLog
      else ⟨a.scrSeq, p, inst, at_, unit, addr, old, bs, [], match p with | .s _ => false | _ => true⟩ :: a.scrLog
    streams := a.streams.map (fun t =>
      if t.pat.ind && (t.st = .running || t.st = .parked) then
        { t with idx := reindex a.scrSeq addr bs.length t.pat.ibase (if t.pat.iw then 8 else 4) t.reach
                          (t.pat.run * (t.pat.cnt.take 3).prod) scr t.idx }
      else t) }

/-- A write to scratchpad by a path with its shadow record. -/
def Core.scrWrite (c : Core) (w : Writer) (p : Via) (addr : Nat) (bs : List Byte) (poison : Bool) (unit : Nat := 4)
    (at_ : Nat := 0) : Core :=
  (c.shadeRun .scratch w 512 addr bs.length).alter w (fun a => a.scrPut p unit at_ addr bs poison)

/-- A write becomes ordered before what an agent does from now on (R227); rs is the agent and what marks the moment. -/
def ScrWr.learn (w : ScrWr) (rs : List Nat) : ScrWr := if rs.all w.known.contains then w else { w with known := rs ++ w.known }
def MemWr.learn (w : MemWr) (rs : List Nat) : MemWr := if rs.all w.known.contains then w else { w with known := rs ++ w.known }

/-- An agent with the instance that it is in, for the L reader of a thread. -/
def Arch.agent (a : Arch) (r : Nat) : List Nat :=
  match ([.c, .a, .v, .m, .chap] : List Thread)[r]? with
  | some t => [r, instTok r (a.eng t).inst]
  | none => [r]

/-- The writes that a predicate picks become ordered before the later reads of a reader. -/
def Arch.order (a : Arch) (r : Nat) (p : ScrWr → Bool) : Arch :=
  { a with scrLog := a.scrLog.map (fun w => if p w && !w.known.contains r then w.learn (a.agent r) else w) }

/-- The k writes made last become covered by a token (R233). -/
def Arch.orderNewest (a : Arch) (k tok : Nat) : Arch :=
  { a with scrLog := (a.scrLog.take k).map (fun w => w.learn [tok]) ++ a.scrLog.drop k }

/-- The same among the writes to memory, discarded ones too. -/
def Dev.order (d : Dev) (rs : List Nat) (p : MemWr → Bool) : Dev :=
  { d with wlog := d.wlog.map (fun w => if p w then w.learn rs else w)
           discarded := d.discarded.map (fun w => if p w then w.learn rs else w) }

/-- A reader starts with no order. -/
def Arch.forget (a : Arch) (r : Nat) : Arch :=
  { a with scrLog := a.scrLog.map (fun w => { w with known := w.known.filter (· ≠ r) }) }

/-- The same among the writes to memory. -/
def Dev.forget (d : Dev) (r : Nat) : Dev :=
  if d.wlog.any (fun w => w.known.contains r) || d.discarded.any (fun w => w.known.contains r) then
    { d with wlog := d.wlog.map (fun w => { w with known := w.known.filter (· ≠ r) })
             discarded := d.discarded.map (fun w => { w with known := w.known.filter (· ≠ r) }) }
  else d

/-- A write is ordered before what an agent of the core does next. -/
def ScrWr.before (w : ScrWr) (r : Nat) : Bool := w.known.contains r
def MemWr.before (w : MemWr) (core : CoreId) (r : Nat) : Bool := w.known.contains (memAgent core r)

/-- A write was ordered before the L accesses of a thread by an instance of it (R21, R227). -/
def knownBy (known : List Nat) (t : Thread) (inst : Nat) : Bool :=
  known.any (fun k => decide (instTok 0 0 ≤ k) && decide (k < cmdReader 0) && k % 8 = lReader t && decide ((k - instTok 0 0) / 8 ≤ inst))

/-- The agents of a core among the numbers of a memory write. -/
def MemWr.agents (w : MemWr) (core : CoreId) : List Nat :=
  (w.known.filter (fun k => k % 2 ^ 90 = memAgent core 0)).map (fun k => k / 2 ^ 90)

/-- A write is ordered before the L accesses of a thread that come next (R227). -/
def ScrWr.beforeL (w : ScrWr) (t : Thread) : Bool := w.via = .l t || w.before (lReader t)

/-- Writes of a core's scratchpad and to memory become ordered before what an agent or token of the core stands for. -/
def State.order (s : State) (core : CoreId) (r : Nat) (p : ScrWr → Bool) (q : MemWr → Bool) : State :=
  let rs := ((s.core core).arch.agent r).map (memAgent core)
  (s.modCore core (fun c => c.modArch (fun a => a.order r p))).modDev (fun d =>
    d.order rs (fun w => q w && !w.known.contains (memAgent core r)))

/-- An agent takes over what is ordered before another agent, or what a token covers. -/
def State.inherits (s : State) (core : CoreId) (r from_ : Nat) : State :=
  s.order core r (fun w => w.before from_) (fun w => w.before core from_)

/-- An agent starts with what is ordered before another one, and nothing else. -/
def State.heir (s : State) (core : CoreId) (r from_ : Nat) : State :=
  ((s.modCore core (fun c => c.modArch (fun a => a.forget r))).modDev (fun d => d.forget (memAgent core r))).inherits core r from_

/-- A thread's L accesses so far, and what is ordered before them, are covered by a token (R227, R233). -/
def State.releaseL (s : State) (core : CoreId) (t : Thread) (tok : Nat) : State :=
  s.order core tok (fun w => w.beforeL t) (fun w => w.before core (lReader t))

/-- What an acquire of a semaphore orders before a reader: what releases of its own core to it cover, and beyond CORE scope
what those of other cores cover (R225). An order that has come from another core is kept for the core as a whole (log entry
15). -/
def State.semAcquire (s : State) (core : CoreId) (r n scope : Nat) : State :=
  let s := s.inherits core r (semTok n)
  if scope = 0 then s
  else
    let s := s.inherits core r (semFarTok n)
    let far (w : ScrWr) : Bool := w.known.contains (farTok core.val n)
    { s with cores := s.cores.map (fun (c : Core) =>
        if c.arch.scrLog.any far then c.modArch (fun a => a.order (coreTok core.val) far) else c) }

/-- A relaxed wait orders nothing; what releases to the semaphore cover is noted, for a FENCE to come: those of the core
itself, and those of others besides (R231, R233). -/
def State.semSees (s : State) (core : CoreId) (t : Thread) (n : Nat) : State :=
  ((s.inherits core (lSeenOwn t) (semTok n)).inherits core (lSeen t) (semTok n)).inherits core (lSeen t) (semFarTok n)

/-- A token of the whole device comes to cover what p and q pick, and what the core knows of other cores' scratchpads. -/
def State.coverBy (s : State) (core : CoreId) (tok : Nat) (p : ScrWr → Bool) (q : MemWr → Bool) : State :=
  let s := (s.modCore core (fun c => c.modArch (fun a => a.order tok p))).modDev (fun d => d.order [tok] q)
  let far (w : ScrWr) : Bool := w.known.contains (coreTok core.val)
  { s with cores := s.cores.map (fun (c : Core) => if c.arch.scrLog.any far then c.modArch (fun a => a.order tok far) else c) }

/-- A signal of this core to another one's semaphore is produced: a token stands for what it covers until it arrives. -/
def State.signalCovers (s : State) (core : CoreId) (id : Nat) (p : ScrWr → Bool) (q : MemWr → Bool) : State :=
  s.coverBy core (signalTok core.val id) p q

/-- It has arrived at semaphore n of a core (R225, R243). -/
def State.signalArrives (s : State) (core : CoreId) (id k n : Nat) : State :=
  let tok := signalTok core.val id
  let here (w : ScrWr) : Bool := w.known.contains tok
  let s := { s with cores := s.cores.map (fun (c : Core) =>
    if c.arch.scrLog.any here then c.modArch (fun a => a.order (farTok k n) here) else c) }
  (s.modCore (coreId k) (fun c => c.modArch (fun a => a.order (semFarTok n) here))).modDev
    (fun d => d.order [memAgent (coreId k) (semFarTok n)] (fun w => w.known.contains tok))

/-- A write to memory at a place releases what p and q pick to acquires that read it (R225, R231, R233). -/
def State.releaseAt (s : State) (core : CoreId) (p : Place) (n : Nat) (pw : ScrWr → Bool) (q : MemWr → Bool) : State :=
  if n = 0 ∨ p.kind = 3 then s
  else (s.coverBy core (relTok s.dev.wseq) pw q).modDev (fun d => { d with rels := ⟨d.wseq, p, n⟩ :: d.rels })

/-- An agent of a core has read n bytes at a place: what the releases up to number upto there cover becomes ordered before the
agents rs (R225). -/
def State.readRelease (s : State) (core : CoreId) (rs : List Nat) (p : Place) (n upto : Nat) : State :=
  (s.dev.rels.filter (fun m => decide (m.seq ≤ upto) && m.place.kind = p.kind && decide (m.place.pa < p.pa + n) &&
      decide (p.pa < m.place.pa + m.n))).foldl (fun (s : State) m =>
    let has (w : ScrWr) : Bool := w.known.contains (relTok m.seq)
    let s := rs.foldl (fun (s : State) r => s.order core r has (fun w => w.known.contains (relTok m.seq))) s
    { s with cores := s.cores.map (fun (c : Core) =>
        if c.arch.scrLog.any has then c.modArch (fun a => a.order (coreTok core.val) has) else c) }) s

/-- Scratchpad as the L path of the current thread sees it (R95, R228), for accesses of a unit of n bytes. -/
def State.lview (s : State) (n : Nat) : Arch := s.arch.seen (lReader s.cur.th) s.cycle s.cur.core.val none n

/-- No word holds a lease beyond the cycle in which it has read the last byte of its range (R171). -/
def Arch.purgeLeases (a : Arch) (now : Nat) : Arch :=
  if a.leases.all (fun l => decide (now < l.doneAt)) then a else { a with leases := a.leases.filter (fun l => decide (now < l.doneAt)) }

/-- A leased range meets the n bytes at addr (R171, R172). -/
def Arch.leased (a : Arch) (addr n : Nat) : Bool :=
  n ≠ 0 && a.leases.any (fun l => decide (l.lo < addr + n) && decide (addr < l.hi))

/-- Contexts resident on a core: built, not torn down, with the core in CORES (R302). -/
def Ctx.residentOn (x : Ctx) (c : CoreId) : Bool :=
  (x.st = .resident || x.st = .running || x.st = .preempted || x.st = .faulted) && x.cores.getLsbD c.val

/-- The n bytes at addr meet the KEEP range of another resident context (R303). -/
def State.keepHit (s : State) (core : CoreId) (ctx addr n : Nat) : Bool :=
  n ≠ 0 && s.dev.ctxs.any (fun p =>
    p.1 ≠ ctx && p.2.residentOn core && decide (0 < p.2.ksize) && decide (p.2.kbase * 65536 < addr + n) &&
      decide (addr < (p.2.kbase + p.2.ksize) * 65536))

/-- A byte lies in some KEEP range of the core. -/
def State.inKeep (s : State) (core : CoreId) (addr : Nat) : Bool :=
  s.dev.ctxs.any (fun p =>
    p.2.residentOn core && decide (p.2.kbase * 65536 ≤ addr) && decide (addr < (p.2.kbase + p.2.ksize) * 65536))

/-- Check of a scratchpad range by a word: beyond 8 MiB RESERVED_FIELD, in another context's KEEP range
PRIVILEGE. -/
def State.scrRange (s : State) (core : CoreId) (ctx addr n : Nat) : Option (BitVec 8) :=
  if Config.scrBytes < addr + n then some Code.reservedField
  else if s.keepHit core ctx addr n then some Code.privilege else none

/-! ### Spill store (R68, R91) -/

/-- R304 gives the Chaperone registers of its own and no rule gives or denies it a spill store; the model gives it one
(log entry 131). -/
def Eng.spillRead (e : Eng) (off n : Nat) : List Byte := Store.run 0 e.spill off n
def Core.spillWrite (c : Core) (t : Thread) (off : Nat) (bs : List Byte) (poison : Bool) : Core :=
  (c.shadeRun .spill .own 512 (t.code.toNat * 16384 + off) bs.length).modArch
    (fun a => a.modEng t (fun e =>
      { e with spill := Store.put 0 e.spill off bs, spillP := markWrite e.spillP 64 off bs.length poison }))

/-! ### Interrupts and fault records -/

/-- The mask bit of an MSI-X table entry, in its vector control word (R421; the PCI Express layout, log entry 147). -/
def Dev.vecMasked (d : Dev) (vec : Nat) : Bool := (Store.get 0 d.msix (16 * vec + 12)).getLsbD 0

/-- The pending bit of a vector, in the array behind the table (R421). -/
def Dev.setPending (d : Dev) (vec : Nat) (b : Bool) : Dev :=
  let a := 32768 + vec / 8
  let o := Store.get 0 d.msix a
  let m : Byte := (1 : Byte) <<< (vec % 8)
  { d with msix := Store.set 0 d.msix a (if b then o ||| m else o &&& ~~~m) }

/-- An interrupt: its message is sent, or noted as pending while its vector is masked (R421, R427). -/
def State.irq (s : State) (vec : Nat) : State :=
  if s.dev.vecMasked vec then s.modDev (fun d => d.setPending vec true) else { s with irqs := s.irqs ++ [vec] }

/-- A record takes its place among those that wait at a ring, in the order of detection (R330). -/
def FaultRing.enqueue (fr : FaultRing) (r : FaultRec) (o : ObjRef) (page det : Nat) : FaultRing :=
  { fr with waiting := fr.waiting.filter (fun w => decide (w.2.2.2 < det)) ++ (r, o, page, det) ::
      fr.waiting.filter (fun w => !decide (w.2.2.2 < det)) }

/-- A record of a detection number waits at its die's ring (R330). -/
def State.reportAs (s : State) (die : Fin 2) (r : FaultRec) (o : ObjRef) (page det : Nat) : State :=
  s.modDev (fun d => { d with frings := d.frings.set die (d.frings[die].enqueue r o page det) })

/-- A record that no core holds back waits at its die's ring from its detection on (R330). -/
def State.report (s : State) (die : Fin 2) (r : FaultRec) (o : ObjRef) (page : Nat) : State :=
  (s.reportAs die r o page s.dev.detected).modDev (fun d => { d with detected := d.detected + 1 })

/-- Hold-queue entries of a fault record: its own, and its interrupt's unless the Chaperone polls the ring (R330, R346). -/
def State.recordEntries (s : State) (die : Fin 2) : Nat := if s.dev.frings[die].own then 1 else 2

/-- A fault record that a core raises is outward, with its interrupt: it waits in the Pan for a seal (R235, R346, R427). -/
def State.recordOut (s : State) (core : CoreId) (th : Thread) (epoch : Nat) (r : FaultRec) (o : ObjRef) (page : Nat) : State :=
  (s.modCore core (fun c =>
    c.holdEff s.cycle (.record (dieOf core) r o page s.dev.detected) (s.recordEntries (dieOf core)) th r.pc epoch r.va.toNat)).modDev
    (fun d => { d with detected := d.detected + 1 })

/-! ### Bundles -/

def Dev.bundle (d : Dev) (id : Nat) : Option Bundle := d.bundles.find? (fun b => b.id = id)
def Dev.modBundle (d : Dev) (id : Nat) (f : Bundle → Bundle) : Dev :=
  { d with bundles := d.bundles.map (fun b => if b.id = id then f b else b) }

/-- A fatal fault of a part of a bundle: unbound ordinals are cancelled and the first code is kept (R292). -/
def Bundle.fail (b : Bundle) (code : BitVec 8) : Bundle :=
  match b.st with
  | .active | .draining => { b with st := .faulting, code := code }
  | _ => if b.code = 0 then { b with code := code } else b

/-! ### A core without a tile task -/

/-- What a tile task leaves behind when it is over: no engine runs, streams are closed, entries not popped are
discarded, nothing awaits a seal, and semaphores and barriers put aside for a replay are back (R203, R128, R360). -/
def Core.vacate (c : Core) : Core :=
  let off : Eng → Eng := fun e =>
    { e with run := .off, left := 0, prog := 0, issued := false, wait := none, stalled := false, delay := none, pushTo := none, asked := none, ask := none
             async := [], loops := [], status := e.status &&& ~~~(3 : W64) }
  let a := c.arch
  let a := { a with engC := off a.engC, engA := off a.engA, engV := off a.engV, engM := off a.engM
                    loops := Vector.replicate 4 Loop.reset, oq := Vector.replicate 8 [], putx := Vector.replicate 16 []
                    bout := Vector.replicate 16 [], streams := Vector.replicate 16 Stream.reset, sfeed := none
                    leases := [], mflight := [], wins := Vector.replicate 8 none, sids := [], srAt := [], sealPass := none
                    putxSeq := Vector.replicate 16 [], scrLog := [] }
  let a := match c.real with
    | some r => { a with sems := r.sems, bars := r.bars, barMem := r.barMem }
    | none => a
  { c with arch := a, task := none, real := none, region := .idle, recov := none, restart := none, cpReq := [], panWait := [], ckpts := []
           shadows := [], preempt := none, svcs := [] }

/-! ### Rings, commands and held effects that are given up (R260, R274, R276, R350) -/

def Arch.ring (a : Arch) (n : Nat) : Ring := a.rings[n % 16]'(Nat.mod_lt n (by decide))
def Arch.modRing (a : Arch) (n : Nat) (f : Ring → Ring) : Arch :=
  { a with rings := a.rings.set (n % 16) (f (a.ring n)) (Nat.mod_lt n (by decide)) }

/-- A reservation is released without a delivery (R274, R276). -/
def State.unreserve (s : State) (k q ring : Nat) : State :=
  if q = 3 then
    s.modCore (coreId k) (fun c => c.keep (fun a => a.modRing ring (fun r => { r with resv := r.resv - 1 })))
  else s

def Core.cmd (c : Core) (id : Nat) : Option XCmd := c.xq.find? (fun x => x.id = id)

/-- A KEYSW whose MARKERs are discarded is undone: its slot is LOADED again (log entry 141). -/
def Dev.unswitch (d : Dev) (job n : Nat) : Dev :=
  let back (x : KeySlot) : KeySlot := if x.st = .next then { x with st := .loaded, await := [] } else x
  let old (x : KeySlot) (i : Nat) : Option Nat := if x.st = .current ∨ x.st = .exhausted then some i else none
  { d with keys := d.keys.map (fun k =>
      if k.job ≠ job then k
      else if n % 2 = 0 then { k with s0 := back k.s0, use := if k.use = some 0 then old k.s1 1 else k.use }
      else { k with s1 := back k.s1, use := if k.use = some 1 then old k.s0 0 else k.use }) }

/-- Held effects of a core are discarded: commands replay their sectors, those whose record was held among them, and
reservations are released (R276, R350). -/
def State.discard (s : State) (core : CoreId) (lost : Held → Bool) : State :=
  let c := s.core core
  let gone := c.hold.filter lost
  let xq := c.xq.map (fun (x : XCmd) =>
    let secs := gone.filterMap (fun h =>
      match h.eff with
      | .write (.command k) sec _ _ _ => if k = x.id then some sec else none
      | .rmw k sec _ _ => if k = x.id then some sec else none
      | .cmo k sec _ => if k = x.id then some sec else none
      | _ => none)
    let pages := gone.filterMap (fun h => match h.eff with | .record _ _ o page _ => if o = .command x.id then some page else none | _ => none)
    let left := x.parked.filter (fun p => !pages.contains p.page)
    { x with heldSecs := x.heldSecs.filter (fun n => !secs.contains n), parked := left
             st := if x.st = .parked ∧ left.isEmpty then .running else x.st })
  let n := (gone.map (fun h => h.entries)).sum
  let s := s.setCore core { c with hold := c.hold.filter (fun h => !lost h), xq := xq, rgdisc := c.rgdisc + BitVec.ofNat 32 n }
  gone.foldl (fun (s : State) h =>
    match h.eff with
    | .qentry k q r _ _ _ => s.unreserve k q r
    | .keySwitch job n _ => s.modDev (fun d => d.unswitch job n)
    | _ => s) s

/-- The record of a fatal fault is the Chaperone's, no effect of the task that faulted (R305, R360; log entry 148). -/
def Held.fatal (h : Held) : Bool := match h.eff with | .record _ r _ _ _ => r.kind = 4 | _ => false

/-- An effect that the tile task on the core made: neither the sequencer, nor a copy block of a bundle's list, nor
another core. -/
def Core.madeHere (c : Core) (core : CoreId) (h : Held) : Bool :=
  let own (id : Nat) : Bool := match c.cmd id with | some x => x.bundle.isNone && x.fromCore = core.val | none => false
  match h.eff with
  | .write (.command id) _ _ _ _ => own id
  | .rmw id _ _ _ => own id
  | .cmo id _ _ => own id
  | .flit _ _ | .keySwitch _ _ _ => false
  | .record _ _ (.command id) _ _ => own id
  | .record _ r _ _ _ => r.kind ≠ 3
  | _ => true

/-- A core without the commands and the held effects of its tile task; what others have put there stays. -/
def Core.dropTask (c : Core) (core : CoreId) : Core :=
  { c with hold := c.hold.filter (fun h => !c.madeHere core h), xq := c.xq.filter (fun x => x.bundle.isSome || x.fromCore ≠ core.val) }

/-- With the end of a core's tile task no release of the core covers its discarded writes any longer (R227, R239). -/
def Dev.taskOver (d : Dev) (core : CoreId) : Dev :=
  if d.discarded.isEmpty then d
  else
    { d with discarded := d.discarded.map (fun w =>
        { w with au := if w.au.core = core.val then { w.au with core := 64 } else w.au
                 known := w.known.filter (fun k => k % 2 ^ 90 ≠ memAgent core 0) }) }

/-- The core is left without its task (R302, R360); entries that its held pushes had reserved are released (R276). -/
def State.clearTask (s : State) (core : CoreId) : State :=
  let c := s.core core
  (c.hold.filter (c.madeHere core)).foldl (fun (s : State) h => match h.eff with | .qentry k q r _ _ _ => s.unreserve k q r | _ => s)
    ((s.setCore core (c.dropTask core).vacate).modDev (fun d => d.taskOver core))

/-! ### Audits (R360) -/

def Dev.dropAudit (d : Dev) (t : Task) : Dev :=
  { d with audits := d.audits.filter (fun x => !(x.b.id = t.bundle && x.ord = t.ord)) }

/-- The audit of a tile task is abandoned; a replay leaves its core at once. -/
def State.abandonAudit (s : State) (core : CoreId) : State :=
  match (s.core core).task with
  | none => s
  | some t =>
    let s := s.modDev (fun d => { (d.dropAudit t) with aban := d.aban + 1 })
    if t.replay then
      s.clearTask core
    else s.modCore core (fun c => { c with task := some { t with audited := false, extents := [] } })

/-- Two records of one core name the same object: stream numbers belong to a context, the others' numbers to the core. -/
def sameOwner (o : ObjRef) (a b : Nat) : Bool := match o with | .stream _ => a = b | _ => true

def State.inReplay (s : State) : Bool := match s.here.task with | some t => t.replay | none => false

/-! ### Fatal faults (R305) -/

/-- The tile task on a core goes FAULTED: the engines stop, held effects that no taken commit point covers are
discarded, the context goes FAULTED, and the bundle enters FAULTING, but for a replay, which is no part of it any more (R360;
log entry 148). A kind-4 record follows the effects that the commit points taken so far cover: it and its interrupt are
outward (R10, R235, R346), and it carries MAL of the entry that the fault met (R329). -/
def State.fatalOn (s : State) (core : CoreId) (code : BitVec 8) (pc eaddr : W64) (mal : Bool := false) : State :=
  let c := s.core core
  match c.task with
  | none => s
  | some t =>
    let stop : Eng → Eng := fun e => { e with run := .dead, wait := none, stalled := false, delay := none, pushTo := none }
    let s := s.discard core (fun h => h.cover.isNone)
    let c := s.core core
    let c := { c with
      arch := { c.arch with engC := stop c.arch.engC, engA := stop c.arch.engA, engV := stop c.arch.engV,
                            engM := stop c.arch.engM, leases := [], mflight := [] }
      region := .faulted, recov := none, restart := none, cpReq := [], preempt := none
      svcs := []
      task := some { t with st := .faulted } }
    let s := s.setCore core c
    let s := s.modDev (fun d =>
      let d := if t.replay then d else d.modBundle t.bundle (fun b => { b.fail code with live := b.live - 1 })
      let x := d.ctx t.ctx
      if x.st = .resident ∨ x.st = .running ∨ x.st = .preempted then d.setCtx t.ctx { x with st := .faulted } else d)
    let s := s.recordOut core .c (s.core core).cpCount
      { va := eaddr, pc := pc, tag := 0, ctx := t.ctx, code := code, kind := 4, wr := false, mal := mal,
        core := core.val, obj := 0, sect := 0 } .other 0
    s.modCore core (fun c =>
      { c with hold := c.hold.map (fun (h : Held) => if h.cover.isNone then { h with cover := some c.cpCount } else h) })

/-- The Chaperone's credits as they stand at a cycle (R299): one every D cycles, at most 64. -/
def Core.credits (c : Core) (now : Nat) : Nat :=
  min 64 (c.chcred + (now - c.chEarn) / max 1 (c.arch.chshare.extractLsb' 8 8).toNat)

/-! ### Taking a trap (R78, R308) and returning from it (R318) -/

def statusHM (w : W64) : Bool := w.getLsbD 1
def statusPriv (w : W64) : Bool := w.getLsbD 0

def Eng.inHandler (e : Eng) : Bool := statusHM e.status

/-- A handler or a stub: its words write no latch and read none (R79, R310, R312). -/
def Eng.noLatch (e : Eng) : Bool := e.inHandler || e.run = .stub

/-- The CAUSE register of R307. -/
def causeOf (code : BitVec 8) (delay : Option (Bool × W64)) : W64 :=
  match delay with
  | none => code.zeroExtend 64
  | some (tk, tgt) =>
    let b : BitVec 54 := if tk then tgt.extractLsb' 2 54 else 0
    (b ++ (if tk then 1 else 0 : BitVec 1) ++ (1 : BitVec 1) ++ code)

/-- STATUS on trap entry: PPRIV from PRIV, PRIV and HM set, NX as given (R308). -/
def statusTrap (w : W64) (nx : Bool) : W64 :=
  let w := setBit w 4 (statusPriv w)
  let w := setBit (setBit w 0 true) 1 true
  setBit w 2 nx

/-- What a trap does to its engine. -/
def Eng.trap (e : Eng) (code : BitVec 8) (eaddr : W64) (nx : Bool) : Eng :=
  { e with
    epc := e.pc, cause := causeOf code e.delay, eaddr := eaddr, status := statusTrap e.status nx
    pc := e.tvec, left := 0, delay := none, stalled := false, wait := none, panSince := none, ask := none
    arrived := false, came := none, asked := none, pushTo := none, prog := 0, issued := false
    retSec := e.sec, retAddr := e.secAddr, retRun := e.run, retHdr := e.left = 0, retCame := e.came, retVoid := none, run := .handler }

/-- Whether a trap is fatal: in handler mode, in a stub, with no vector, or by its code (R305). -/
def Eng.trapFatal (e : Eng) (code : BitVec 8) : Bool :=
  e.inHandler || e.run = .stub || e.tvec = 0 || code = Code.matrixInHandler || code = Code.rollbackExhausted ||
    code = Code.shadowConflict

/-- A trap on the thread whose word or header is being executed: R78 first lets every word it issued produce
its result, so nothing of its own stays in a latency shadow (R66). A Chaperone trap with no vector, or in its own handler, stops
the Chaperone, and the housekeeping controller reports it to system software (R308). A raising rule that gives no EADDR leaves it open. -/
def State.trapNx (s : State) (nx : Bool) (code : BitVec 8) (ea : Option W64) (mal : Bool := false) : State :=
  let (eaddr, s) := s.given ea
  let e := s.eng
  if s.cur.th = .chap then
    if e.inHandler ∨ e.tvec = 0 then
      (s.modEng (fun e => { e with run := .dead, cause := causeOf code e.delay, epc := e.pc, eaddr := eaddr })).modDev
        (fun d => { d with chapTraps := d.chapTraps ++ [⟨s.cur.core.val, code, e.pc, eaddr⟩] })
    else s.modEng (fun e => e.trap code eaddr nx)
  else if e.trapFatal code then s.fatalOn s.cur.core code e.pc eaddr mal
  else s.modArch (fun a => { (a.modEng s.cur.th (fun e => e.trap code eaddr nx)) with
    pend := a.pend.filter (fun p => p.th ≠ s.cur.th), named := a.named.filter (fun n => n.1 ≠ s.cur.th) })

def State.trap (s : State) (code : BitVec 8) (ea : Option W64) (mal : Bool := false) : State := s.trapNx false code ea mal

/-- Fetch continues at a target section after a transfer word (R111). -/
def Eng.redirect (e : Eng) (tgt : W64) : Eng :=
  { e with pc := tgt, left := 0, delay := none, came := some e.secAddr, arrived := false }

/-- The word at pc retires: the next word follows, or, after a delay word, the redirect (R111). was is the
branch whose delay word this was. -/
def Eng.retire (e : Eng) (was : Option (Bool × W64)) (now : Nat) : Eng :=
  let e := { e with pc := e.pc + 12, left := e.left - 1, stalled := false, wait := none, ask := none, panSince := none, asked := none, pushTo := none, prog := 0, issued := false
                    busy := max e.busy (now + 1) }
  match was with
  | none => e
  | some (tk, tgt) => if tk then e.redirect tgt else { e with delay := none }

/-- The words of the section not yet passed when its word at address w is next; 0 when w is no word of it. -/
def wordsLeft (sec : SecHdr) (secAddr w : W64) : Nat :=
  let off := (w - (secAddr + 8)).toNat
  if off % 12 = 0 ∧ off / 12 < sec.len.toNat then sec.len.toNat - off / 12 else 0

/-- Returning from a trap (R318) whose instance an LBRK has made void since: to the header after LAST (R122). -/
def Eng.retTo (e : Eng) (now : Nat) (hdr : W64) : Eng :=
  { e with
    status := setBit (setBit e.status 0 (e.status.getLsbD 4)) 1 false, pc := hdr, left := 0, sec := e.retSec, secAddr := e.retAddr
    run := e.retRun, arrived := true, came := none, own := true, delay := none, stalled := false, wait := none, ask := none
    panSince := none, retVoid := none, busy := max e.busy (now + 1) }

/-- Returning from a trap to the word at EPC (R318). -/
def Eng.retWord (e : Eng) (now : Nat) : Eng :=
  let st := setBit (setBit e.status 0 (e.status.getLsbD 4)) 1 false
  let left := if e.retHdr then 0 else wordsLeft e.retSec e.retAddr e.epc
  let tgt : W64 := (e.cause.extractLsb' 10 54).zeroExtend 64 <<< 2
  let tk := e.cause.getLsbD 9
  let nx := e.status.getLsbD 2
  let e := { e with status := st, pc := e.epc, left := left, sec := e.retSec, secAddr := e.retAddr, run := e.retRun
                    arrived := left = 0, came := if left = 0 then e.retCame else none, delay := none, stalled := false, wait := none, ask := none
                    panSince := none, busy := max e.busy (now + 1) }
  if e.cause.getLsbD 8 then
    if nx then ({ e with delay := some (tk, tgt) } : Eng).retire (some (tk, tgt)) now
    else { e with delay := some (tk, tgt) }
  else if nx then e.retire none now else e

/-- Returning from a trap (R318). -/
def Eng.ret (e : Eng) (now : Nat) : Eng :=
  match e.retVoid with
  | some hdr => e.retTo now hdr
  | none => e.retWord now

/-! ### Special registers (R75, R76, R306) -/

/-- The beneficiary of the request that is latched: a task that only refills has none of its own (R306, R311). -/
def Preempt.latched (p : Preempt) : Option Nat :=
  match p.st with
  | .refilling _ => p.next
  | _ => some p.beneficiary

/-- STATUS as it reads: PP, DM and RM come from the pre-emption in progress (R306). -/
def Core.statusOf (c : Core) (e : Eng) : W64 :=
  let pp := match c.preempt with | some p => p.latched.isSome | none => false
  let dm := match c.preempt with | some ⟨_, .draining _, _, _, _, _, _, _, _⟩ => e.run = .stub | _ => false
  let rm := match c.preempt with | some ⟨_, .refilling _, _, _, _, _, _, _, _⟩ => e.run = .stub | _ => false
  setBit (setBit (setBit (e.status &&& 0x17) 7 pp) 6 dm) 5 rm

/-- PANLVL (R349). -/
def Core.panlvl (c : Core) : W64 :=
  BitVec.ofNat 64 (c.holdUsed * 2 ^ 20 + c.shadUsed * 2 ^ 8 + c.openCps)

/-- What lcN reads on an engine (R120): the pass of the loop it runs, else the counter's value. An engine that has
executed LOOP or LOOPJ and has not entered HEAD executes no pass instance; the spec gives no reading there, and the
model reads the pass it is about to run, the restart iteration (log entry 132). -/
def Arch.lcRead (a : Arch) (e : Eng) (n : Fin 4) : W64 :=
  match e.loops.find? (fun l => l.lc = n.val) with
  | some l => BitVec.ofNat 64 (l.pass % 2 ^ 32)
  | none => a.loops[n].value.zeroExtend 64

/-- Reads special register n (R75, R89). -/
def State.readSpr (s : State) (n : Nat) : W64 :=
  let c := s.here
  let a := c.arch
  let e := s.eng
  match n with
  | 0x000 => c.statusOf e
  | 0x001 => e.cause
  | 0x002 => e.epc
  | 0x003 => e.eaddr
  | 0x004 => e.tvec
  | 0x010 => a.slipw.zeroExtend 64
  | 0x011 => a.bankPwr.zeroExtend 64
  | 0x012 => a.chshare.zeroExtend 64
  | 0x013 => e.stallcnt
  | 0x014 => c.panlvl
  | 0x015 => a.poisonst.zeroExtend 64
  | 0x016 => a.pwstat.zeroExtend 64
  | 0x020 => a.ctxid.zeroExtend 64
  | 0x021 => a.iter
  | 0x022 => BitVec.ofNat 64 s.cycle
  | 0x023 => BitVec.ofNat 64 s.dtime
  | 0x024 => a.srseed
  | 0x025 => a.srcnt
  | 0x028 => a.lcRead e 0
  | 0x029 => a.lcRead e 1
  | 0x02A => a.lcRead e 2
  | 0x02B => a.lcRead e 3
  | 0x030 => a.klim
  | 0x031 => a.kwarn
  | 0x032 => a.authmax.zeroExtend 64
  | _ => 0

/-- Whether a register may be read and written at a privilege (the User and Supervisor columns of R75). -/
def sprAccess (n : Nat) (sup write : Bool) : Bool :=
  match n with
  | 0x000 | 0x001 | 0x002 | 0x003 | 0x004 | 0x012 => !write || sup
  | 0x010 | 0x011 | 0x013 | 0x015 | 0x016 | 0x024 | 0x025 => true
  | 0x030 | 0x031 | 0x032 => sup
  | _ => !write

/-- Whether a value lies within a register's stated range and width (R76, R70, R109, R299). Reserved bits and, in
VBANKPWR, the read-only fields B1 and B0 are ignored, 0b11 in them included (R5, log entry 133). -/
def sprRange (n : Nat) (v : W64) : Bool :=
  match n with
  | 0x010 => decide (1 ≤ v.toNat) && decide (v.toNat ≤ 64)
  | 0x011 => decide (v.toNat < 2 ^ 32) &&
      (List.range 10).all (fun b => v.extractLsb' (2 * b + 4) 2 ≠ (3 : BitVec 2))
  | 0x012 => decide (v.toNat < 2 ^ 32) && decide (4 ≤ (v.extractLsb' 8 8).toNat) && decide ((v.extractLsb' 8 8).toNat ≤ 64)
  | 0x015 | 0x016 | 0x032 => decide (v.toNat < 2 ^ 32)
  | _ => true

/-! ### Check 2 of R27 -/

/-- The privilege check of a form on the executing engine: a special register without access (R76), TLBINV and
IDLE outside supervisor mode (R321, R337), an M word in handler mode (R175). -/
def check2 (i : Instr) (e : Eng) : Option (BitVec 8) :=
  let sup := statusPriv e.status
  match i with
  | .mfs _ f => if sprAssigned f.imm && !sprAccess f.imm.toNat sup false then some Code.privilege else none
  | .mts _ f => if sprAssigned f.imm && !sprAccess f.imm.toNat sup true then some Code.privilege else none
  | .tlbinvPage _ _ | .tlbinvAsid _ _ | .tlbinvAll _ _ | .idle _ _ => if sup then none else some Code.privilege
  | .mcfg _ _ | .mldw _ _ | .mldwq _ _ | .mswap _ _ | .mstr _ _ | .mstrq _ _ | .mmv _ _ | .mspm _ _ | .macz _ _
  | .macrd _ _ | .macst _ _ | .macld _ _ | .mfin _ _ => if e.inHandler then some Code.matrixInHandler else none
  | _ => none

/-! ### Loops and the stage of the word being executed (R120) -/

/-- The loop of an engine's list entry. -/
def Arch.loopOf (a : Arch) (l : LoopAt) : Loop := if h : l.lc < 4 then a.loops[l.lc] else Loop.reset

/-- The body of a loop holds the section at an address: HEAD to LAST in the text. -/
def Loop.holds (l : Loop) (secAddr : W64) : Bool :=
  decide (l.head ≤ secAddr.toNat) && decide (secAddr.toNat ≤ l.last)

/-- The stage of a section in a loop: its STAGE field when the loop has two or more stages, else 0 (R119). -/
def Loop.stageOf (l : Loop) (sec : SecHdr) : Nat := if l.s ≤ 1 then 0 else sec.stage.toNat

/-- The trip count that holds now: an iteration recovery makes it at most i (R357). -/
def Core.tripOf (c : Core) (lc : Nat) (l : Loop) : Nat :=
  match c.recov with
  | some r => if r.lc = lc then min l.n r.iter else l.n
  | none => l.n

/-- Stage k of pass p works on an active iteration: r ≤ p − k < N' (R120). -/
def Core.stageActive (c : Core) (l : LoopAt) (sec : SecHdr) : Bool :=
  let lp := c.arch.loopOf l
  let k := lp.stageOf sec
  decide (lp.r + k ≤ l.pass) && decide (l.pass < c.tripOf l.lc lp + k)

/-- The word is in an inactive stage, so it retires with no effect. -/
def Core.suppressed (c : Core) (e : Eng) : Bool :=
  e.run = .run && e.loops.any (fun l => (c.arch.loopOf l).holds e.secAddr && !c.stageActive l e.sec)

/-- The innermost active loop with RB = 1 of an engine: lcN and the iteration of its present stage. -/
def Core.rbLoop (c : Core) (e : Eng) : Option (Nat × Nat) :=
  (e.loops.find? (fun l => (c.arch.loopOf l).rb && (c.arch.loopOf l).holds e.secAddr)).map
    (fun l => (l.lc, l.pass - (c.arch.loopOf l).stageOf e.sec))

/-! ### Retired instances and section waits (R21, R107, R109) -/

/-- The instances that an engine has retired (R21, R107): it has passed every word of its own, and when it has none it
has entered the next; a trap interrupts the instance in which it was taken. An M word in flight and a VSTS that
has not retired hold their instance back. -/
def Arch.retiredUpTo (a : Arch) (t : Thread) (now : Nat) : Nat :=
  let e := a.eng t
  let over' := if e.run = .handler then e.retHdr else decide (e.left = 0)
  let n := if over' && e.own then e.inst else e.inst - 1
  let n := if now < e.sts.2 then min n (e.sts.1 - 1) else n
  if t = .m then ((a.mflight.filter (fun f => decide (now < f.doneAt))).map (fun f => f.inst)).foldl min n else n

/-- The section wait of R21 for an engine: the four bits of its wait field. -/
def waitField (sec : SecHdr) : Thread → BitVec 4
  | .c | .chap => sec.wc
  | .a => sec.wa
  | .v => sec.wv
  | .m => sec.wm

/-- The wait of the section being executed is met (R21, R107). -/
def Arch.waitMet (a : Arch) (t : Thread) (now : Nat) : Bool :=
  let e := a.eng t
  let w := waitField e.sec t
  let k := (w.extractLsb' 0 2).toNat
  let n := Thread.ofCode (w.extractLsb' 2 2)
  e.run ≠ .run || k = 0 || decide (e.inst ≤ k) || (a.eng n).done || decide (e.inst - k ≤ a.retiredUpTo n now)

/-- SLIPW lets an engine enter its next instance: every engine that has not retired TASKEND has entered the
instance SLIPW before it (R109). -/
def Arch.slipOk (a : Arch) (t : Thread) : Bool :=
  let n := (a.eng t).inst
  decide (n < a.slipw.toNat) ||
    kernelThreads.all (fun u => (a.eng u).done || decide (n - a.slipw.toNat < (a.eng u).inst))

/-! ### C's slots and the Chaperone (R298, R299) -/

/-- Whether the Chaperone takes C's slot at this cycle, and whether it spends a credit (R299). A slot that C cannot use
since it runs nothing, or waits on SLIPW or a section wait, costs none; at a boundary where C could go on it costs one. -/
def Core.chapSlot (c : Core) (now : Nat) : Option Bool :=
  let e := c.arch.engC
  if e.run = .off ∨ e.run = .dead ∨ e.done ∨ e.run = .atN then some false
  else if now < e.busy ∨ e.run = .handler then none
  else if e.left = 0 then
    (if e.arrived && e.run = .run && !c.arch.slipOk .c then some false
     else if 1 ≤ c.credits now then some true else none)
  else if e.run = .run && !e.own && !c.arch.waitMet .c now then some false
  else none

/-- A word of a thread retires at a cycle. One of the Chaperone's has had C's slot, which C then does not have; it has
cost a credit where C could have gone on (R298, R299). A word that stalls or waits has had none. -/
def Core.slotUsed (c : Core) (t : Thread) (now : Nat) : Core :=
  let d := max 1 (c.arch.chshare.extractLsb' 8 8).toNat
  let n := if c.chapSlot now = some true then c.credits now - 1 else c.credits now
  { c with
    chcred := if t = .chap then n else c.chcred
    chEarn := if t = .chap then c.chEarn + (now - c.chEarn) / d * d else c.chEarn
    arch := { c.arch with engC := { c.arch.engC with
      busy := if t = .chap then max c.arch.engC.busy (now + 1) else c.arch.engC.busy } } }

/-! ### The frame of a kernel word -/

/-- What a word's effect comes to. done: it retires. stall: it stalls at issue and yields to a stop (the kinds
of R98). wait: it stalls without yielding. trap: it faults. gone: the effect itself decides the engine's
next place. -/
inductive Res where
  | done (s : State)
  | stall (s : State)
  | wait (s : State)
  | trap (code : BitVec 8) (ea : Option W64)
  | gone (s : State)

/-- A word of kind R98 stalled at issue. -/
def State.stalledNow (s : State) : State := s.modEng (fun e => { e with stalled := true })

/-- A word retires. -/
def State.retire (s : State) (was : Option (Bool × W64)) : State :=
  (s.modHere (fun c => c.slotUsed s.cur.th s.cycle)).modEng (fun e => e.retire was s.cycle)

/-- The Pan lacks room for what a word would write: STALLCNT counts, and the first cycle requests a commit
point, except inside an active loop with RB = 1 (R348). -/
def State.panStall (s : State) : State :=
  let e := s.eng
  match e.panSince with
  | some c0 =>
    s.modEng (fun e => { e with stallcnt := e.stallcnt + BitVec.ofNat 64 (s.cycle - c0), panSince := some s.cycle })
  | none =>
    let s := s.modEng (fun e => { e with panSince := some s.cycle })
    if (s.here.rbLoop e).isSome then s else s.modHere (fun c => c.requestCp .word)

/-- The word's effect needs more of the Pan than is free (R346, R347). -/
def Core.panLacks (old new : Core) : Bool :=
  (decide (2048 < new.shadUsed) && decide (old.shadUsed < new.shadUsed)) ||
    (decide (2048 < new.holdUsed) && decide (old.holdUsed < new.holdUsed))

/-- The word that began in s retires with its effect done in t. A stall on the Pan ends here, its cycles counted (R348). -/
def State.wordDone (s t : State) : State :=
  (t.modEng (fun e =>
    match e.panSince with
    | some c0 => { e with stallcnt := e.stallcnt + BitVec.ofNat 64 (s.cycle - c0) }
    | none => e)).retire s.eng.delay

/-- Ends a word as its effect says. s is the state before the effect. A Chaperone word that waits claims no slot of C's
until it issues (R299). -/
def State.finish (s : State) : Res → State
  | .done t => if (s.here).panLacks t.here then s.panStall else s.wordDone t
  | .stall t => t.stalledNow
  | .wait t => if s.cur.th = .chap then t.stalledNow else t
  | .trap code ea => s.trap code ea
  | .gone t => t

/-- The guard: bit GBIT of GREG equals GSENSE (R25). -/
def Eng.guard (e : Eng) (h : Hdr) : Bool := (e.getG h.greg).getLsbD h.gbit.toNat == h.gsense.getLsbD 0

/-- A kernel word: check 2, then the guard and the stage, then check 4 and the effect (R25, R27, R120). -/
def runWord (i : Instr) (h : Hdr) (s : State) (eff : State → Res) : Host.Outcome State Fault Refusal :=
  match check2 i s.eng with
  | some code => .next (s.trap code none)
  | none =>
    if s.here.suppressed s.eng || !s.eng.guard h then .next (s.retire s.eng.delay)
    else .next (s.finish (eff s))

/-- Check 4 of the words that no delay slot may hold (R112) and no handler or stub (R310). -/
def State.placeOk (s : State) (delayOk handlerOk : Bool) : Option (BitVec 8) :=
  if !delayOk && s.eng.delay.isSome then some Code.delaySlotBranch
  else if !handlerOk && (s.eng.inHandler || s.eng.run = .stub) then some Code.reservedField
  else none

/-- Runs an effect behind a check 4. -/
def checked (c : Option (BitVec 8)) (ea : Option W64) (r : Res) : Res :=
  match c with
  | some code => .trap code ea
  | none => r

end Sys2Proof.Machine
end

