-- ==== Sys2Proof/Machine/SeqOps.lean ====
section
/-! DEFINITION. The transport sequencer's registers, local memory, the end of a routine and its faults
(R388, R389, R403). -/

namespace Sys2Proof.Machine

open Sys2Proof

def State.seq (s : State) : Seq := s.arch.seq
def State.modSeq (s : State) (f : Seq → Seq) : State := s.modArch (fun a => { a with seq := f a.seq })

/-- x0 reads 0 and discards writes (R388). -/
def Seq.getX (q : Seq) (r : BitVec 4) : W64 := if r = 0 then 0 else q.x[r.toNat]
def Seq.setX (q : Seq) (r : BitVec 4) (v : W64) : Seq :=
  if r = 0 then q else { q with x := q.x.set r.toNat v }

/-- The derived operands of R391. -/
def Seq.y (q : Seq) (w : SeqW) : W64 := q.getX w.c + w.imm.signExtend 64
def Seq.ea (q : Seq) (w : SeqW) : W64 := q.getX w.b + w.imm.signExtend 64

/-- Bytes of local memory. -/
def Seq.lread (q : Seq) (a n : Nat) : List Byte := Store.run 0 q.lmem a n

/-- A write to local memory; the Pan shadows it in 512-byte granules (R351). -/
def State.lwrite (s : State) (a : Nat) (bs : List Byte) : State :=
  (s.modHere (fun c => c.shadeRun .seqLmem .own 512 a bs.length)).modSeq
    (fun q => { q with lmem := Store.put 0 q.lmem a bs })

/-- The word at pc is done: the next one follows. -/
def Seq.next (q : Seq) : Seq := { q with pc := q.pc + 8, stallSince := none }

/-- The routine ends (R389). A nonzero code posts a kind-3 record with PC := pc and fails the bundle. Its TAG is 0: R329 gives
the TAG of a transport block or 0, and no rule says for which block, if any, that a routine has popped its end stands
(DESIGN CHOICE, log entry 149). -/
def State.seqEnd (s : State) (code : BitVec 8) : State :=
  let q := s.seq
  let r := q.routine
  let s := s.modSeq (fun q => { q with running := false, routine := none, stallSince := none })
  match r with
  | none => s
  | some r =>
    if code = 0 then s.modDev (fun d => d.modBundle r.bundle (fun b => { b with routineLive := false }))
    else
      let s := s.modDev (fun d => d.modBundle r.bundle (fun b => { b.fail code with routineLive := false }))
      s.recordOut s.cur.core .c s.here.cpCount
        { va := 0, pc := q.pc, tag := 0, ctx := r.ctx, code := code, kind := 3, wr := false, mal := false,
          core := s.cur.core.val, obj := 0, sect := 0 } .other 0

/-- What a sequencer word comes to: it retires and the next word follows; it stalls; it faults; or it sets pc
itself or ends the routine. -/
inductive SeqRes where
  | done (s : State)
  | stall (s : State)
  | fault (code : BitVec 8)
  | gone (s : State)

/-- The producers of outward effects besides the engines: a stream, the sequencer, a command. -/
def panStream (n : Nat) : Nat := n
def panSeq : Nat := 16
def panCmd (id : Nat) : Nat := 32 + id

/-- A producer finds the Pan full and stalls. In the first cycle of its stall the region requests a commit point, unless a
loop with RB = 1 is active (R348). -/
def Core.producerStall (c : Core) (who : Nat) : Core :=
  if c.panWait.contains who then c
  else
    let c := { c with panWait := who :: c.panWait }
    if c.arch.loops.all (fun l => !(l.active && l.rb)) && (c.region = .active || c.region = .recovery) then c.requestCp .word else c

/-- What the producer needs has entered the Pan: its stall is over. -/
def Core.producerGoes (c : Core) (who : Nat) : Core :=
  if c.panWait.contains who then { c with panWait := c.panWait.filter (· ≠ who) } else c

/-- A flow of a checkpoint after a rollback: one still open keeps what its peer and the network have done since and
gives back the FSNs assigned since; one closed since is open again (R404). -/
def Seq.flowBack (live : Seq) (k : Nat) (f : Flow) : Flow :=
  match (Store.get none (live.flows.map (fun p => (p.1, some p.2))) k : Option Flow) with
  | some g =>
    if g.id = f.id then
      { g with nextFsn := f.nextFsn, unacked := g.unacked.filter (fun u => f.unacked.any (fun v => v.fsn = u.fsn)) }
    else f
  | none => f

/-- The sequencer as a rollback leaves it (R404). Operations that have become DONE since stay DONE. -/
def Seq.restored (save live : Seq) : Seq :=
  { save with
    flows := save.flows.map (fun p => (p.1, live.flowBack p.1 p.2))
    ops := save.ops.filter (fun o =>
      live.ops.any (fun q => q.flowId = o.flowId && q.first = o.first) || !live.flows.any (fun p => p.2.id = o.flowId))
    opens := max save.opens live.opens, stallSince := none, busy := 0, ldx := (0, 0) }

/-- Ends a sequencer word. -/
def State.seqFinish (s : State) : SeqRes → State
  | .done t =>
    if s.here.panLacks t.here then s.modHere (fun c => c.producerStall panSeq)
    else (t.modHere (fun c => c.producerGoes panSeq)).modSeq (fun q => { q.next with busy := max q.busy (s.cycle + 1) })
  | .stall t => t
  | .fault code => s.seqEnd code
  | .gone t => t.modSeq (fun q => { q with busy := max q.busy (s.cycle + 1) })

def runSeq (s : State) (eff : State → SeqRes) : Host.Outcome State Fault Refusal := .next (s.seqFinish (eff s))

end Sys2Proof.Machine
end

