-- ==== Sys2Proof/Machine/Fetch.lean ====
section
/-! DEFINITION. Fetching (R17, R18, R24, R106, R108): what a thread does at its turn before a word or header
runs. It may not act at all, stall, take a fetch fault, or give the instruction to run. -/

namespace Sys2Proof.Machine

open Sys2Proof

/-- What fetching gives: an instruction and the state it runs in, or the state after a turn that runs none. -/
inductive Fetched where
  | go (i : Instr) (s : State)
  | stop (s : State)

/-! ### Text (R17, R18) -/

/-- Reads n bytes of text of the thread's program. Kernel engines fetch virtual addresses of the tile task's
context; the Chaperone fetches device physical addresses (log entry 11). The error is a code and the address
of the first parcel that failed. -/
def State.readText (s : State) (va n : Nat) : Except (BitVec 8 × Nat) (List Byte × Bool) :=
  if s.cur.th = .chap then
    .ok (s.dev.readPlace (s.dev.physPlace va) n, s.dev.placePoison (s.dev.physPlace va) n)
  else
    match s.readVa s.cur.core s.here.ctx .x va n with
    | .ok r => .ok r
    | .error (c, a) => .error (c, a)

/-- The image that the tile task runs, by its address (R105). -/
def Ctx.image (x : Ctx) (addr : Nat) : Option Image := x.images.find? (fun i => i.addr = addr)

def State.image (s : State) : Option Image :=
  match s.here.task with
  | some t => (s.dev.ctx t.ctx).image t.img
  | none => none

/-- Text fetched from an image that is IN_USE: where its bytes in memory differ from those at activation, which
instruction caches may still hold (R9), each parcel is old or new by a free choice (R105, log entry 134). -/
def State.mixText (s : State) (pc : Nat) (bs : List Byte) : List Byte :=
  match s.image with
  | none => bs
  | some i =>
    let o := pc - (i.addr + i.textOff)
    if s.cur.th = .chap ∨ pc < i.addr + i.textOff ∨ i.text.length < o + bs.length ∨ (i.text.drop o).take bs.length = bs then bs
    else bs.zipIdx.map (fun b =>
      if Config.freeBool s.free (2 ^ 91 + (pc + b.2) / 4) then i.text.getD (o + b.2) 0 else b.1)

/-- A unit of text of n bytes, or the trap that fetching it takes (R18; poisoned parcels R355). -/
def State.fetchUnit (s : State) (n : Nat) : Except State (List Byte) :=
  let pc := s.eng.pc.toNat
  match s.readText pc n with
  | .error (c, a) => .error (s.trap c (some (BitVec.ofNat 64 a)))
  | .ok (bs, po) =>
    if po then
      let g := if (s.readText pc (64 - pc % 64)).toOption.any (fun r => r.2) then pc / 64 else pc / 64 + 1
      .error (s.trap Code.poisonConsumed (some (BitVec.ofNat 64 (64 * g))))
    else .ok (s.mixText pc bs)

/-! ### Whether a thread may act -/

/-- Another kernel engine of the core is in handler mode (R309). -/
def Core.otherInHandler (c : Core) (t : Thread) : Bool :=
  kernelThreads.any (fun u => u ≠ t && (c.arch.eng u).inHandler)

/-- Some engine of the core is in handler mode. -/
def Core.anyInHandler (c : Core) : Bool := kernelThreads.any (fun u => (c.arch.eng u).inHandler)

/-- What passing its section wait orders for an engine (R95, R227): the L-path writes of the instances waited for, and
what the other engine was itself ordered after by then. -/
def State.waitOrder (s : State) : State :=
  let t := s.cur.th
  let a := s.arch
  let e := a.eng t
  let w := waitField e.sec t
  let k := (w.extractLsb' 0 2).toNat
  let n := Thread.ofCode (w.extractLsb' 2 2)
  if e.run ≠ .run ∨ k = 0 ∨ e.inst ≤ k then s
  else
    let upTo := if (a.eng n).done then (a.eng n).inst else e.inst - k
    s.order s.cur.core (lReader t) (fun x => (x.via = .l n && decide (x.inst ≤ upTo)) || knownBy x.known n upTo)
      (fun x => knownBy (x.agents s.cur.core) n upTo)

/-- A thread acts only while it runs text, the region is not being restored or faulted, no commit point is
requested and not yet taken or has been taken in this cycle (R344), and its last word's interval has passed. A pass that M has issued goes on all the
same (R184). -/
def Core.ready (c : Core) (t : Thread) (now : Nat) : Bool :=
  let e := c.arch.eng t
  (e.run = .run || e.run = .handler || e.run = .stub) && !e.done && c.restart.isNone && (c.cpReq.isEmpty || (t = .m && e.issued)) &&
    (c.ckpts.getLast?.all (fun k => decide (k.takenAt < now))) &&
    decide (e.busy ≤ now) && (t = .chap || c.region = .active || c.region = .recovery)

/-- A Chaperone with work pending takes the slots of the section boundary that its credits give it before C goes on
(R299). -/
def Core.chapFirst (c : Core) (now : Nat) : Bool :=
  c.chapSlot now = some true && c.ready .chap now && !c.arch.chap.stalled

/-- A thread whose turn it is may act. -/
def Core.mayAct (c : Core) (t : Thread) (now : Nat) : Bool := c.ready t now && !(t = .c && c.chapFirst now)

/-- The housekeeping controller withholds a slot of V or M, when it throttles and as it likes (R11, R298). -/
def State.withheld (s : State) : Bool :=
  s.dev.throttled && (s.cur.th = .v || s.cur.th = .m) && Config.freeBool s.free (2 ^ 92)

/-! ### Passing the words of other engines (R24) -/

/-- Moves an engine to its next own word in the section, reading tags; on the way it may take a fetch trap.
With none left it stands at the section's end. -/
def State.seek : Nat → State → Except State (Option (BitVec 96) × State)
  | 0, s => .ok (none, s.modEng (fun e => { e with left := 0 }))
  | fuel + 1, s =>
    if s.eng.left = 0 then .ok (none, s)
    else
      match s.fetchUnit 12 with
      | .error t => .error t
      | .ok bs =>
        let w := bytesWord bs
        if wTag w = s.cur.th.code then .ok (some w, s)
        else State.seek fuel (s.modEng (fun e => { e with pc := e.pc + 12, left := e.left - 1 }))

/-! ### Leaving a section: loop passes (R120, R123) -/

/-- A loop left or passed on by an engine: counter, pass that ended, whether the loop is over for it. -/
structure Passed where
  lc : Nat
  pass : Nat
  fin : Bool

/-- What an engine's loops become when it leaves the section at sec: the innermost loop whose LAST it is goes
on to its next pass or is left, and then the next one is asked. -/
def Core.leaveLoops (c : Core) (sec : Nat) : List LoopAt → List LoopAt × Option Nat × List Passed
  | [] => ([], none, [])
  | l :: rest =>
    let lp := c.arch.loopOf l
    if lp.last ≠ sec then (l :: rest, none, [])
    else
      let recovering := match c.recov with | some r => r.lc = l.lc | none => false
      if !recovering && decide (lp.n + lp.s ≤ l.pass + 2) then
        let (ls, h, ps) := Core.leaveLoops c sec rest
        (ls, h, ⟨l.lc, l.pass, true⟩ :: ps)
      else ({ l with pass := l.pass + 1 } :: rest, some lp.head, [⟨l.lc, l.pass, false⟩])

/-- At the HEAD of a loop in which no pass runs (N' ≤ r, R120) the loop is left at once, as if from its LAST: a loop
around it with the same LAST goes on to its next pass or ends too. -/
def Core.skipEmpty (c : Core) (ls : List LoopAt) (pc : W64) (ps : List Passed) : List LoopAt × W64 × List Passed :=
  match ls with
  | [] => ([], pc, ps)
  | l :: rest =>
    let lp := c.arch.loopOf l
    if lp.head = pc.toNat ∧ lp.n ≤ lp.r then
      let (ls, h, qs) := c.leaveLoops lp.last rest
      (ls, BitVec.ofNat 64 (h.getD lp.after), ps ++ ⟨l.lc, l.pass, true⟩ :: qs)
    else (l :: rest, pc, ps)

/-- Every engine that has not retired TASKEND has left pass p of the loop. -/
def Arch.allPast (a : Arch) (lc p : Nat) : Bool :=
  kernelThreads.all (fun t =>
    (a.eng t).done || (if h : lc < 4 then a.loops[lc].leftBy.contains t else false) ||
      (a.eng t).loops.any (fun l => l.lc = lc && decide (p < l.pass)))

def Arch.modLoop (a : Arch) (lc : Nat) (f : Loop → Loop) : Arch :=
  if h : lc < 4 then { a with loops := a.loops.set lc (f a.loops[lc]) } else a

/-- The counter is free once every engine has left the loop (R120). -/
def Arch.freeLoop (a : Arch) (lc : Nat) : Arch :=
  if kernelThreads.all (fun t => (a.eng t).done || (if h : lc < 4 then a.loops[lc].leftBy.contains t else true)) then
    a.modLoop lc (fun l => { l with active := false })
  else a

/-- The effects of one ended pass on the core: who left, what the counter reads, and the commit points of
R123 when the last engine passes: the end of an active COMMIT stage with RB = 1, and the loop's exit. -/
def Core.passEnded (t : Thread) (c : Core) (p : Passed) : Core :=
  let c := if p.fin then
      c.modArch (fun a => a.modLoop p.lc (fun l =>
        { l with leftBy := l.leftBy ++ [t], value := BitVec.ofNat 32 (l.n + l.s - 1)
                 exitInst := some ((c.arch.eng t).inst) }))
    else c
  let lp := if h : p.lc < 4 then c.arch.loops[p.lc] else Loop.reset
  if !c.arch.allPast p.lc p.pass then c
  else
    let c := if lp.rb && decide (lp.r + lp.s ≤ p.pass + 1) && decide (p.pass + 1 < c.tripOf p.lc lp + lp.s) then
      c.requestCp (.loopStage p.lc (p.pass + 1 - lp.s)) else c
    if p.fin then (c.modArch (fun a => a.freeLoop p.lc)).requestCp (.loopExit p.lc) else c

/-- A taken branch out of a section of an active loop body that R119 does not allow: R127. -/
def State.branchFault (s : State) (e : Eng) : Bool :=
  match e.came with
  | none => false
  | some src => e.loops.any (fun l =>
      let lp := s.arch.loopOf l
      lp.holds src && (decide (2 ≤ lp.s) || decide (e.pc.toNat ≤ src.toNat) || decide (lp.last < e.pc.toNat)))

/-- An engine has come to the end of a section: an empty delay slot redirects (R111); leaving LAST goes to the
next pass or on, and a loop without a pass is left at its HEAD, however the engine came there (R120). -/
def State.arrive (s : State) : State :=
  let e := s.eng
  let s := match e.delay with
    | some (true, tgt) => s.modEng (fun e => e.redirect tgt)
    | some (false, _) => s.modEng (fun e => { e with delay := none })
    | none => s
  let e := s.eng
  if e.arrived then s
  else if e.run ≠ .run ∨ (e.came.isSome ∧ s.branchFault e) then s.modEng (fun e => { e with arrived := true })
  else
    let (ls, head, ps) := if e.came.isSome then (e.loops, none, []) else s.here.leaveLoops e.secAddr.toNat e.loops
    let pc := match head with | some a => BitVec.ofNat 64 a | none => e.pc
    let (ls, pc, ps) := s.here.skipEmpty ls pc ps
    let s := s.modEng (fun e => { e with loops := ls, arrived := true, came := if pc = e.pc then e.came else none, pc := pc })
    s.modHere (fun c => ps.foldl (Core.passEnded s.cur.th) c)

/-! ### The image and its bounds -/

/-- The address just beyond the text of the running image (R108). -/
def State.textEnd (s : State) : Option Nat := s.image.map (fun i => i.addr + i.textOff + i.textLen)

/-! ### Planes whose load has ended (R164) -/

def Arr.plane (r : Arr) (k : Bool) : Plane := if k then r.p1 else r.p0
def Arr.setPlane (r : Arr) (k : Bool) (p : Plane) : Arr := if k then { r with p1 := p } else { r with p0 := p }
def Arr.shadow (r : Arr) : Plane := r.plane (!r.stat1)

/-- The plane after the last byte of a load has arrived. -/
def Plane.arrived (p : Plane) (now : Nat) : Plane :=
  match p.loadDone with
  | none => p
  | some t =>
    if now < t then p
    else if p.st = .loading then { p with st := if p.sp = 0 then .ready else .needmeta, loadDone := none }
    else if p.st = .needmeta then { p with st := .ready, loadDone := none }
    else p

/-- The planes of an array at a cycle: the shadow plane, or the joined pair, is READY or NEEDMETA once its load's last
byte has arrived. -/
def Arr.settle (r : Arr) (now : Nat) : Arr :=
  if r.joined then { r with p0 := r.p0.arrived now, p1 := r.p1.arrived now }
  else r.setPlane (!r.stat1) (r.shadow.arrived now)

/-- What an M word finds (R164): the planes as they stand at its cycle. -/
def Arch.settlePlanes (a : Arch) (t : Thread) (now : Nat) : Arch :=
  if t = .m then { a with m0 := a.m0.settle now, m1 := a.m1.settle now } else a

/-! ### The turn of a thread -/

/-- At a header: other engines in handler mode hold kernel text back (R309); the text's end is not fetched
(R108). -/
def State.fetchHeader (s : State) : Fetched :=
  let s := s.arrive
  let e := s.eng
  if !s.here.cpReq.isEmpty then .stop s
  else if s.cur.th ≠ .chap ∧ e.run ≠ .handler ∧ s.here.otherInHandler s.cur.th then .stop s
  else if (e.run = .run ∨ e.run = .stub) ∧ s.textEnd = some e.pc.toNat then .stop (s.trap Code.sectionFormat none)
  else
    match s.fetchUnit 8 with
    | .error t => .stop t
    | .ok bs => .go (.sectionHeader (decodeHdr (bytesHdr bs))) s

/-- At an own word: its section's wait (R21), a stop that holds a stalled word (R309), a stream's or command's
fault (R196, R218), then checks 1 to 3 of R27. Of several faults that have come before the word, each is taken, by a word
of its own, the oldest first: no rule ranks them (DESIGN CHOICE, log entry 149). -/
def State.fetchWord (s : State) (w : BitVec 96) : Fetched :=
  let e := s.eng
  if s.cur.th = .chap ∧ (s.here.chapSlot s.cycle).isNone then .stop s
  else if !s.arch.waitMet s.cur.th s.cycle then .stop s
  else if s.withheld then .stop s.bumpFree
  else if e.stalled ∧ s.cur.th ≠ .chap ∧ e.run ≠ .handler ∧ s.here.otherInHandler s.cur.th then .stop (s.modEng (fun e => { e with wait := none, ask := none, asked := none, pushTo := none }))
  else
    let s := (s.modArch (fun a => (a.settlePlanes s.cur.th s.cycle).modEng s.cur.th (fun e =>
      if e.run = .run then { e with own := true } else e))).waitOrder
    match e.async with
    | (code, ea) :: rest => .stop ((s.modEng (fun e => { e with async := rest })).trap code (some ea))
    | [] =>
      match decodeWord w with
      | .ok i => .go i s
      | .error .illegal => .stop (s.trap Code.illegalWord none)
      | .error (.reserved i) => .stop (s.trap ((check2 i e).getD Code.reservedField) none)

/-- The next instruction of the thread whose turn it is. -/
def State.fetch (s : State) : Fetched :=
  if !s.here.mayAct s.cur.th s.cycle || s.dev.frozen then .stop s
  else
    match State.seek s.eng.left s with
    | .error t => .stop t
    | .ok (some w, t) => t.fetchWord w
    | .ok (none, t) => t.fetchHeader

/-! ### The turn of a sequencer (R389, R394, R403) -/

/-- The registers that a sequencer word names. -/
def seqRegs (i : Instr) : List Nat :=
  match i with
  | .seqMovi w => [w.a.toNat]
  | _ => match seqOpOf i with | some (_, w) => [w.a.toNat, w.b.toNat, w.c.toNat] | none => []

/-- The next word of the sequencer of the current core. One that names the register of an LDX waits for its result (R394). -/
def State.seqFetch (s : State) : Fetched :=
  let q := s.seq
  if !q.running || decide (s.cycle < q.busy) || !s.here.cpReq.isEmpty || s.here.restart.isSome || s.dev.frozen then .stop s
  else if q.pc.toNat % 8 ≠ 0 then .stop (s.seqEnd Code.misaligned)
  else if 2 ^ 18 ≤ q.pc.toNat then .stop (s.seqEnd Code.reservedField)
  else
    match decodeSeq (bytesHdr (q.lread q.pc.toNat 8)) with
    | .ok i => if s.cycle < q.ldx.2 ∧ (seqRegs i).contains q.ldx.1 then .stop s else .go i s
    | .error .illegal => .stop (s.seqEnd Code.illegalWord)
    | .error (.reserved _) => .stop (s.seqEnd Code.reservedField)

/-- The events that a frozen device takes: the read-out registers and the resets that reach it (R432, R434). -/
def thaws : Instr → Bool
  | .scandata => true
  | .registerWrite bar off _ _ => decide (bar = 0) && decide (0x100000 ≤ off) && decide (off < 0x100010)
  | .wrstN | .hotReset | .secondaryBusReset | .fundamentalReset | .powerOn => true
  | _ => false

end Sys2Proof.Machine
end

