-- ==== Sys2Proof/Machine/Kernel.lean ====
section
/-! DEFINITION. Control of the four program counters: section headers (R22, R106 to R110, R127, R310),
branches (R111 to R118), hardware loops (R119 to R126), NOP and TASKEND (R128). -/

namespace Sys2Proof.Machine

open Sys2Proof

/-! ### Section headers -/

/-- The wait field w names its own engine, with k ≠ 0 (check 4 of R22). -/
def selfWait (w : BitVec 4) (e : BitVec 2) : Bool := w.extractLsb' 0 2 ≠ (0 : BitVec 2) && w.extractLsb' 2 2 = e

/-- A wait field with k = 0 whose engine bits are not 0 (check 5 of R22). -/
def badNoWait (w : BitVec 4) : Bool := w.extractLsb' 0 2 = (0 : BitVec 2) && w.extractLsb' 2 2 ≠ (0 : BitVec 2)

/-- The exclusive OR of the eight bytes of a header (R20). -/
def xorBytes (x : BitVec 64) : BitVec 8 :=
  x.extractLsb' 0 8 ^^^ x.extractLsb' 8 8 ^^^ x.extractLsb' 16 8 ^^^ x.extractLsb' 24 8 ^^^
    x.extractLsb' 32 8 ^^^ x.extractLsb' 40 8 ^^^ x.extractLsb' 48 8 ^^^ x.extractLsb' 56 8

/-- The checks of R22, in their order. -/
def headerFault (f : SecHdr) : Option (BitVec 8) :=
  if f.mark ≠ 0xE5 then some Code.sectionFormat
  else if xorBytes (encodeHdr f) ≠ 0 then some Code.sectionFormat
  else if f.len = 0 then some Code.sectionFormat
  else if selfWait f.wc 0 || selfWait f.wa 1 || selfWait f.wv 2 || selfWait f.wm 3 then some Code.sectionFormat
  else if f.rsv ≠ 0 || badNoWait f.wc || badNoWait f.wa || badNoWait f.wv || badNoWait f.wm then
    some Code.reservedField
  else none

/-- What a header in a handler or stub must not carry (R310). -/
def handlerHdrBad (f : SecHdr) : Bool :=
  f.wc ≠ 0 || f.wa ≠ 0 || f.wv ≠ 0 || f.wm ≠ 0 || f.loophead ≠ 0 || f.stage ≠ 0 || f.sealf ≠ 0 || f.commit ≠ 0 ||
    f.drainsafe ≠ 0

/-- The entry of the drain table that covers a header, with its stubs' addresses (R102, R312). -/
def Image.drainFor (i : Image) (hdr : Nat) : Option (Nat × Nat) :=
  (i.drains.find? (fun d => decide (i.addr + d.first ≤ hdr) && decide (hdr ≤ i.addr + d.last))).map
    (fun d => (i.addr + d.drain, i.addr + d.refill))

/-- The engine is the most advanced one that has not retired TASKEND. -/
def Arch.leads (a : Arch) (t : Thread) : Bool :=
  kernelThreads.all (fun u => (a.eng u).done || decide ((a.eng u).inst ≤ (a.eng t).inst))

/-- What a latched pre-emption does at a header (R312, steps 1 and 2): the leading engine fixes n at a header
that carries DRAINSAFE within the drain table; an engine at n waits. -/
inductive Divert where
  | enter
  | hold (s : State)

def State.divert (s : State) (f : SecHdr) : Divert :=
  let c := s.here
  match c.preempt with
  | some p =>
    match p.st with
    | .latched none =>
      if c.arch.leads s.cur.th ∧ f.drainsafe = 1 ∧ p.low ≤ s.eng.inst then
        match s.image.bind (fun i => i.drainFor s.eng.pc.toNat) with
        | some (d, r) =>
          let p := { p with st := .latched (some s.eng.inst), hdr := s.eng.pc.toNat, drain := d, refill := r, since := s.cycle }
          .hold (s.modHere (fun c => { c with preempt := some p }))
        | none => .enter
      else .enter
    | .latched (some n) => if s.eng.inst = n then .hold s else .enter
    | _ => .enter
  | none => .enter

/-- The loops of the image whose bodies hold an address, none of them active for the engine: R127. -/
def State.bodyFault (s : State) (e : Eng) : Bool :=
  match s.image with
  | none => false
  | some i => i.loops.any (fun d =>
      decide (i.addr + d.head ≤ e.pc.toNat) && decide (e.pc.toNat ≤ i.addr + d.last) &&
        !e.loops.any (fun l => (s.arch.loopOf l).head = i.addr + d.head && (s.arch.loopOf l).last = i.addr + d.last))

/-- The SEAL of a section: passed when its commit point was taken for this instance; otherwise requested once
every engine that has not retired TASKEND waits at this header (R343). -/
def State.sealGate (s : State) (f : SecHdr) : Option State :=
  let a := s.arch
  if f.sealf = 0 ∨ a.sealPass = some s.eng.inst then none
  else if kernelThreads.all (fun u =>
      (a.eng u).done || (decide ((a.eng u).inst = s.eng.inst) && decide ((a.eng u).left = 0) &&
        ((a.eng u).arrived || u = s.cur.th) && decide ((a.eng u).pc = s.eng.pc))) then
    some (s.modHere (fun c => c.requestCp .sealSection))
  else some s

/-- Entering a section: the header's fields, and the words that follow it. -/
def Eng.enter (e : Eng) (f : SecHdr) : Eng :=
  { e with sec := f, secAddr := e.pc, left := f.len.toNat, pc := e.pc + 8, arrived := false, came := none }

/-- What entering HEAD notes of a loop: where the pass began and the highest iteration begun (R122). -/
def Loop.enterHead (lp : Loop) (l : LoopAt) (inst : Nat) : Loop :=
  { lp with
    passInst := if lp.passInst.length = l.pass - lp.r then lp.passInst ++ [inst] else lp.passInst
    headInst := if lp.passInst.isEmpty then inst else lp.headInst
    entered := if l.pass < lp.n then some (max (lp.entered.getD 0) l.pass) else lp.entered }

/-- Every engine that has not retired TASKEND has entered HEAD of the loop's first pass (R123). -/
def Arch.allEntered (a : Arch) (lc : Nat) : Bool :=
  let lp := if h : lc < 4 then a.loops[lc] else Loop.reset
  kernelThreads.all (fun u => (a.eng u).done || lp.leftBy.contains u ||
    ((a.eng u).loops.any (fun l => l.lc = lc) && decide (lp.headInst < (a.eng u).inst)))

/-- Entering a section of kernel text: the instance is numbered, its SID recorded (R106), and at a HEAD the
loop unit takes note; the last engine to enter the first pass requests the entry's commit point. -/
def State.enterText (s : State) (f : SecHdr) : State :=
  let e := s.eng
  let inst := e.inst
  let s := s.modArch (fun a => if a.sids.length = inst then { a with sids := a.sids ++ [f.sid] } else a)
  let s := if s.cur.th = .v then s.modArch (fun a => { a with srAt := a.srAt.take inst ++ [a.srcnt] }) else s
  let s := s.modEng (fun e => { e.enter f with inst := inst + 1, own := false })
  match e.loops with
  | [] => s
  | l :: _ =>
    if (s.arch.loopOf l).head = e.pc.toNat then
      let s := s.modArch (fun a => a.modLoop l.lc (fun lp => lp.enterHead l inst))
      let lp := s.arch.loopOf l
      if l.pass = lp.r ∧ !lp.entryCp ∧ s.arch.allEntered l.lc then
        (s.modArch (fun a => a.modLoop l.lc (fun lp => { lp with entryCp := true }))).modHere
          (fun c => c.requestCp (.loopEntry l.lc))
      else s
    else s

/-- An iteration recovery holds an engine that has run its last pass (R357, step 2). -/
def State.recoveryHolds (s : State) : Bool :=
  match s.here.recov with
  | none => false
  | some r => s.eng.loops.any (fun l =>
      l.lc = r.lc && (s.arch.loopOf l).entryCp && decide (r.iter + (s.arch.loopOf l).s ≤ l.pass + 1))

/-- A header of kernel text (R22, R106, R109, R110, R127, R312, R343). -/
def State.textHeader (s : State) (f : SecHdr) : State :=
  let e := s.eng
  if s.recoveryHolds then s
  else
    match s.divert f with
    | .hold t => t
    | .enter =>
      if !s.arch.slipOk s.cur.th then s
      else
        match headerFault f with
        | some code => s.trap code none
        | none =>
          if decide (e.inst < s.arch.sids.length) && s.arch.sids.getD e.inst 0 ≠ f.sid then s.trap Code.sectionFormat none
          else if s.branchFault e || s.bodyFault e then s.trap Code.sectionFormat none
          else
            match s.sealGate f with
            | some t => t
            | none => s.enterText f

/-- A header of a handler, a stub or the Chaperone's text: not counted, no slip, no flags (R310). -/
def State.plainHeader (s : State) (f : SecHdr) : State :=
  match headerFault f with
  | some code => s.trap code none
  | none => if handlerHdrBad f then s.trap Code.sectionFormat none else s.modEng (fun e => e.enter f)

def execSectionHeader (f : SecHdr) (s : State) : Host.Outcome State Fault Refusal :=
  .next (if s.eng.run = .run ∧ s.cur.th ≠ .chap then s.textHeader f else s.plainHeader f)

/-! ### Branches (R111 to R118) -/

/-- A transfer word decides: its delay word comes next. -/
def State.branchTo (s : State) (taken : Bool) (tgt : W64) : State :=
  s.modEng (fun e => { e with delay := some (taken, tgt) })

/-- addr(word) + 4 × sext(imm32). -/
def State.relTarget (s : State) (imm : BitVec 32) : W64 := s.eng.pc + (imm.signExtend 64 <<< 2)

def execPbr (h : Hdr) (f : BrF) (s : State) :=
  runWord (.pbr h f) h s (fun s => .done (s.modEng (fun e => e.setT f.t (s.relTarget f.imm))))

/-- A transfer word whose guard is false or whose stage is inactive: not taken, and its delay word follows, unless it
is itself the delay word of a taken branch, which redirects (R111, R112). -/
def notTaken (s : State) : Host.Outcome State Fault Refusal :=
  .next (match s.eng.delay with
    | some (true, _) => s.finish (.done s)
    | _ => (s.finish (.done s)).branchTo false 0)

/-- Whether a word has its effect: a true guard in an active stage. -/
def State.live (s : State) (h : Hdr) : Bool := !s.here.suppressed s.eng && s.eng.guard h

/-- Appends an outcome to the queues from an engine to the three others, leaving out engines that have retired
TASKEND; none when one of them is full (R113, R116). -/
def Arch.pushOutcome (a : Arch) (t : Thread) (b : Bool) : Option Arch :=
  let us := kernelThreads.filter (fun u => u.code ≠ t.code && !(a.eng u).done)
  let q (u : Thread) : Fin 16 := ⟨4 * t.code.toNat + u.code.toNat, by have := t.code.isLt; have := u.code.isLt; omega⟩
  if us.any (fun u => decide (16 ≤ (a.bout[q u]).length)) then none
  else some (us.foldl (fun a u => { a with bout := a.bout.set (q u) (a.bout[q u] ++ [b]) }) a)

/-- BR with PUSHO = 1: the outcome is pushed whatever it is, and check 4 runs whatever the guard (R112, R116). -/
def brPush (h : Hdr) (f : BrF) (s : State) : Res :=
  checked (s.placeOk false true) none
    (let out := s.eng.guard h
     match s.arch.pushOutcome s.cur.th out with
     | none => .stall s
     | some a => .done ((s.modArch (fun _ => a)).branchTo out (s.eng.getT f.t)))

def execBr (h : Hdr) (f : BrF) (s : State) : Host.Outcome State Fault Refusal :=
  if f.pusho = 1 ∧ !s.here.suppressed s.eng then .next (s.finish (brPush h f s))
  else if !s.live h then notTaken s
  else .next (s.finish (checked (s.placeOk false true) none (.done (s.branchTo true (s.eng.getT f.t)))))

def execBro (h : Hdr) (f : BrF) (s : State) :=
  runWord (.bro h f) h s (fun s =>
    checked (s.placeOk false true) none
      (let q : Fin 16 := ⟨4 * f.q.toNat + s.cur.th.code.toNat, by have := f.q.isLt; have := s.cur.th.code.isLt; omega⟩
       match s.arch.bout[q] with
       | [] => .stall s
       | b :: l => .done ((s.modArch (fun a => { a with bout := a.bout.set q l })).branchTo b (s.eng.getT f.t))))

/-- The address of the header that follows the section (R118). -/
def Eng.nextSection (e : Eng) : W64 := e.secAddr + 8 + BitVec.ofNat 64 (12 * e.sec.len.toNat)

def execJmpl (h : Hdr) (f : BrF) (s : State) : Host.Outcome State Fault Refusal :=
  if !s.live h then notTaken s
  else .next (s.finish (checked (s.placeOk false true) none
    (.done ((s.modEng (fun e => e.setT f.tl e.nextSection)).branchTo true (s.relTarget f.imm)))))

/-! ### Hardware loops (R119 to R126) -/

/-- The loop descriptor whose HEAD follows the section of the word (R125). Of two nested ones that share a HEAD (R104) R125 does
not say which is meant; the model takes the first in the order of the table (DESIGN CHOICE, log entry 149). -/
def State.descHere (s : State) : Option (Image × LoopDesc) :=
  s.image.bind (fun i => (i.loops.find? (fun d => i.addr + d.head = s.eng.nextSection.toNat)).map (fun d => (i, d)))

/-- The word's lc, S and R agree with a descriptor. -/
def descAgrees (d : LoopDesc) (f : BrF) : Bool :=
  d.lc = f.lc.toNat && d.sm1 = f.s.toNat && d.rb == (f.r.getLsbD 0)

/-- The loop as LOOP starts it (R120, R121). -/
def startLoop (i : Image) (d : LoopDesc) (n : Nat) (value : W32) : Loop :=
  { active := true, n := n, r := 0, s := d.sm1 + 1, rb := d.rb, head := i.addr + d.head, last := i.addr + d.last
    after := i.addr + d.after, zt := d.zt, vb := d.vb, entered := none, headInst := 0, value := value
    passInst := [], exitInst := none, entryCp := false, joinedBy := [.c], leftBy := [] }

def execLoop (h : Hdr) (f : BrF) (s : State) :=
  runWord (.loop h f) h s (fun s =>
    checked (s.placeOk false false) none
      (let lp := s.arch.loops[f.lc.toNat]
       match s.descHere with
       | none => .trap Code.reservedField none
       | some (i, d) =>
         if lp.active ∨ !descAgrees d f then .trap Code.reservedField none
         else
           let n := if f.cr = 1 then ((s.g f.gc).extractLsb' 0 32).toNat else f.imm.toNat
           .done ((s.modArch (fun a => a.modLoop f.lc.toNat (fun _ => startLoop i d n lp.value))).modEng
             (fun e => { e with loops := ⟨f.lc.toNat, 0⟩ :: e.loops }))))

def execLoopj (h : Hdr) (f : BrF) (s : State) :=
  runWord (.loopj h f) h s (fun s =>
    checked (s.placeOk false false) none
      (let lp := s.arch.loops[f.lc.toNat]
       match s.descHere with
       | none => .trap Code.reservedField none
       | some (_, d) =>
         if s.eng.loops.any (fun l => l.lc = f.lc.toNat) ∨ !descAgrees d f then .trap Code.reservedField none
         else if !lp.active ∨ lp.joinedBy.contains s.cur.th then .stall s
         else if lp.s ≠ f.s.toNat + 1 ∨ lp.rb ≠ f.r.getLsbD 0 then .trap Code.reservedField none
         else
           .done ((s.modArch (fun a => a.modLoop f.lc.toNat (fun l => { l with joinedBy := l.joinedBy ++ [s.cur.th] }))).modEng
             (fun e => { e with loops := ⟨f.lc.toNat, 0⟩ :: e.loops }))))

/-- The iteration at which LBRK cuts, plus 1 (R122): that of the stage being run, or of the highest iteration
begun, or r when none has begun. -/
def lbrkCut (e : Eng) (lp : Loop) (lc : Nat) : Nat :=
  match e.loops.find? (fun l => l.lc = lc && lp.holds e.secAddr) with
  | some l => l.pass + 1 - lp.stageOf e.sec
  | none => match lp.entered with | some i => i + 1 | none => lp.r

/-- The entries of an engine's loop list up to and including lc: lc and the loops inside it. -/
def dropTo (lc : Nat) (ls : List LoopAt) : List LoopAt := (ls.dropWhile (fun l => l.lc ≠ lc)).drop 1

/-- The engine is in pass fv of the loop or beyond, or stands at HEAD about to begin it; one that has only joined and
stands in a section before HEAD is in no pass (R122). nv numbers the first instance of pass fv. -/
def Eng.inVoid (e : Eng) (lc fv nv : Nat) (lp : Loop) : Bool :=
  e.loops.any (fun l => l.lc = lc && decide (fv ≤ l.pass) &&
    (decide (lp.r < l.pass) || (!lp.passInst.isEmpty && decide (nv < e.inst)) || (e.arrived && decide (e.pc.toNat = lp.head))))

/-- An engine in a void pass goes on at the header after LAST, which bears the number nv (R122), once it has returned when it
is in a trap handler; one that has left the loop by then is renumbered by the x − nv instances removed. -/
def Eng.voided (e : Eng) (lc fv nv : Nat) (lp : Loop) : Eng :=
  if e.inVoid lc fv nv lp then
    if e.run = .handler then { e with loops := dropTo lc e.loops, inst := min e.inst nv, retVoid := some (BitVec.ofNat 64 lp.after) }
    else
      { e with
        loops := dropTo lc e.loops, pc := BitVec.ofNat 64 lp.after, left := 0, arrived := true, came := none, own := true
        delay := none, inst := min e.inst nv, asked := none, pushTo := none, prog := 0, issued := false, stalled := false
        wait := none }
  else
    match lp.exitInst with
    | some x => if x ≤ e.inst ∧ nv < x then { e with inst := e.inst - (x - nv) } else e
    | none => e

/-- Engines whose loop lists lose an entry when passes from fv on of lc become void. -/
def Arch.voidedBy (a : Arch) (lc fv nv : Nat) (lp : Loop) : List Thread :=
  kernelThreads.filter (fun t => (a.eng t).inVoid lc fv nv lp)

/-- The inner loops that an engine leaves with lc. -/
def innerOf (lc : Nat) (ls : List LoopAt) : List Nat := (ls.takeWhile (fun l => l.lc ≠ lc)).map (fun l => l.lc)

/-- LBRK's effect on the whole core (R122): the trip count falls, and the instances of the passes beyond the new
last pass are void. The word itself retires first, since its engine may stand in a void pass. A pre-emption that has
chosen an instance which the removal renumbers chooses again (R312). -/
def Core.lbrk (c : Core) (lc cut : Nat) : Core :=
  let lp := if h : lc < 4 then c.arch.loops[lc] else Loop.reset
  let n := min lp.n cut
  let fv := if n ≤ lp.r then lp.r else n + lp.s - 1
  let nv := match lp.passInst[fv - lp.r]? with | some k => k | none => c.arch.sids.length
  let gone := c.arch.voidedBy lc fv nv lp
  let inner := (gone.map (fun t => innerOf lc (c.arch.eng t).loops)).flatten.eraseDups
  let f (e : Eng) : Eng := e.voided lc fv nv lp
  let a := c.arch
  let a := { a with engC := f a.engC, engA := f a.engA, engV := f a.engV, engM := f a.engM
                    sfeed := if gone.contains .a then none else a.sfeed
                    sids := match lp.exitInst with
                      | some x => if nv < x then a.sids.take nv ++ a.sids.drop x else a.sids
                      | none => a.sids.take nv
                    srAt := match lp.exitInst with
                      | some x => if nv < x then a.srAt.take nv ++ a.srAt.drop x else a.srAt
                      | none => a.srAt.take nv
                    mflight := a.mflight.map (fun (m : MFlight) => if nv ≤ m.inst then { m with inst := max nv (f a.engM).inst } else m) }
  let a := a.modLoop lc (fun l => { l with n := n, leftBy := l.leftBy ++ gone, passInst := l.passInst.take (fv - l.r)
                                           value := BitVec.ofNat 32 (n + l.s - 1)
                                           exitInst := if gone.isEmpty && l.exitInst.all (fun x => decide (x ≤ nv)) then l.exitInst else some nv })
  let a := inner.foldl (fun a k => (a.modLoop k (fun l => { l with leftBy := l.leftBy ++ gone, active := false }))) a
  let again (p : Preempt) : Preempt := match p.st with | .latched (some k) => if nv < k then { p with st := .latched none, low := 0 } else p | _ => p
  let c := { c with arch := a, preempt := c.preempt.map again }
  if gone.isEmpty then c
  else
    let c' := c.modArch (fun a => a.freeLoop lc)
    if (if h : lc < 4 then c'.arch.loops[lc].active else true) then c' else c'.requestCp (.loopExit lc)

def execLbrk (h : Hdr) (f : BrF) (s : State) :=
  runWord (.lbrk h f) h s (fun s =>
    checked (s.placeOk false false) none
      (let lp := s.arch.loops[f.lc.toNat]
       if !lp.active then .trap Code.reservedField none
       else
         let cut := lbrkCut s.eng lp f.lc.toNat
         .gone ((s.retire s.eng.delay).modHere (fun c => c.lbrk f.lc.toNat cut))))

/-! ### NOP and TASKEND (R128) -/

def execNop (h : Hdr) (f : SY) (s : State) := runWord (.nop h f) h s (fun s => .done s)

/-- An engine's part of the tile task is retired; with the fourth the task is SEALING and a commit point is
requested (R128, R293); a pre-emption not yet begun is void (R312). Loops that every engine has now left are free. -/
def Core.taskEnd (c : Core) (t : Thread) : Core :=
  let c := c.modArch (fun a => a.modEng t (fun e => { e with done := true }))
  let c := [0, 1, 2, 3].foldl (fun c lc =>
    let lp := if h : lc < 4 then c.arch.loops[lc] else Loop.reset
    let c' := c.modArch (fun a => a.freeLoop lc)
    let after := if h : lc < 4 then c'.arch.loops[lc].active else false
    if lp.active && !after && !lp.leftBy.isEmpty then c'.requestCp (.loopExit lc) else c') c
  if kernelThreads.all (fun u => (c.arch.eng u).done) then
    { (c.requestCp .taskend) with task := c.task.map (fun k => { k with st := .sealing }), preempt := none }
  else c

def execTaskend (h : Hdr) (f : SY) (s : State) :=
  runWord (.taskend h f) h s (fun s =>
    checked (s.placeOk false false) none
      (if !s.eng.loops.isEmpty then .trap Code.sectionFormat none
       else if s.cycle < s.eng.sts.2 ∨ (s.cur.th = .m ∧ s.arch.mflight.any (fun m => decide (s.cycle < m.doneAt))) then .wait s
       else if s.cur.th = .a ∧ s.arch.streams.toList.any (fun t => t.st = .running || t.st = .parked) then .wait s
       else .done (s.modHere (fun c => c.taskEnd s.cur.th))))

end Sys2Proof.Machine
end

