-- ==== Sys2Proof/Machine/Numbers.lean ====
section
/-! DEFINITION. Number formats and arithmetic (R42 to R59): exact values of encodings, one rounding into a
destination format, stochastic rounding, block quantisation, exact sums and integer storage. -/

namespace Sys2Proof.Machine

open Sys2Proof

/-- A value: NaN, an infinity, or (−1)^neg × num / den × 2^e with den not 0. -/
inductive Val where
  | nan
  | inf (neg : Bool)
  | fin (neg : Bool) (num den : Nat) (e : Int)
  deriving DecidableEq, Repr

def Val.zero (neg : Bool) : Val := .fin neg 0 1 0
def Val.ofInt (i : Int) : Val := .fin (decide (i < 0)) i.natAbs 1 0

/-! ### Floating formats (R42 to R44) -/

/-- The width of the exponent and significand fields, the bias, and how specials are encoded: 0 as IEEE 754,
1 with a NaN only, 2 with none. -/
structure FloatFmt where
  ew : Nat
  mw : Nat
  bias : Nat
  kind : Nat
  deriving DecidableEq, Repr

/-- The plain floating formats by code 0x00 to 0x08. -/
def floatFmt (t : Nat) : FloatFmt :=
  match t with
  | 0 => ⟨8, 23, 127, 0⟩
  | 1 => ⟨8, 7, 127, 0⟩
  | 2 => ⟨5, 10, 15, 0⟩
  | 3 => ⟨5, 2, 15, 0⟩
  | 4 => ⟨4, 3, 7, 1⟩
  | 5 => ⟨3, 4, 3, 1⟩
  | 6 => ⟨3, 2, 3, 2⟩
  | 7 => ⟨2, 3, 1, 2⟩
  | _ => ⟨2, 1, 1, 2⟩

def FloatFmt.emin (f : FloatFmt) : Int := 1 - f.bias

/-- The value of an encoding (R42, R43). -/
def floatVal (f : FloatFmt) (w : Nat) : Val :=
  let m := w % 2 ^ f.mw
  let e := w / 2 ^ f.mw % 2 ^ f.ew
  let neg := w / 2 ^ (f.mw + f.ew) % 2 = 1
  let top := e = 2 ^ f.ew - 1
  if f.kind = 0 ∧ top then (if m = 0 then .inf neg else .nan)
  else if f.kind = 1 ∧ top ∧ m = 2 ^ f.mw - 1 then .nan
  else if e = 0 then .fin neg m 1 (f.emin - f.mw)
  else .fin neg (2 ^ f.mw + m) 1 ((e : Int) - f.bias - f.mw)

/-- The canonical NaN (R44); a format without NaN gives +0 (R52). -/
def FloatFmt.nan (f : FloatFmt) : Nat :=
  if f.kind = 0 then (2 ^ f.ew - 1) * 2 ^ f.mw + 2 ^ (f.mw - 1) else if f.kind = 1 then 0x7F else 0

def FloatFmt.sign (f : FloatFmt) (neg : Bool) : Nat := if neg then 2 ^ (f.mw + f.ew) else 0
def FloatFmt.inf (f : FloatFmt) (neg : Bool) : Nat := f.sign neg + (2 ^ f.ew - 1) * 2 ^ f.mw

/-- The largest finite encoding, without sign. -/
def FloatFmt.maxBits (f : FloatFmt) : Nat :=
  if f.kind = 0 then (2 ^ f.ew - 1) * 2 ^ f.mw - 1
  else if f.kind = 1 then 2 ^ (f.ew + f.mw) - 2 else 2 ^ (f.ew + f.mw) - 1

/-! ### Comparing magnitudes -/

/-- num / den × 2^e as a fraction of naturals. -/
def fraction (num den : Nat) (e : Int) : Nat × Nat :=
  if 0 ≤ e then (num * 2 ^ e.toNat, den) else (num, den * 2 ^ (-e).toNat)

/-- a < b for two nonnegative fractions. -/
def fracLt (a b : Nat × Nat) : Bool := decide (a.1 * b.2 < b.1 * a.2)

/-- floor(log2(num / den)) + e for num > 0. -/
def magLog (num den : Nat) (e : Int) : Int :=
  let k : Int := (num.log2 : Int) - (den.log2 : Int)
  if fracLt (fraction num den 0) (fraction 1 1 k) then k - 1 + e else k + e

/-! ### Rounding (R53, R54) -/

/-- Rounds a magnitude to a multiple of 2^q: the kept multiple, and whether it was rounded away from zero. -/
def roundMag (rm : Nat) (neg : Bool) (rbits : Nat) (num den : Nat) (e q : Int) : Nat × Bool :=
  let (n, d) := fraction num den (e - q)
  let k := n / d
  let r := n % d
  let up :=
    match rm with
    | 0 => decide (d < 2 * r) || (decide (2 * r = d) && decide (k % 2 = 1))
    | 1 => false
    | 2 => !neg && decide (r ≠ 0)
    | 3 => neg && decide (r ≠ 0)
    | _ => decide (2 ^ 32 ≤ r * 2 ^ 32 / d + rbits)
  (if up then k + 1 else k, up)

/-- The encoding of (−1)^neg × k × 2^q, a value that the format represents; q is at least emin − mw. -/
def FloatFmt.pack (f : FloatFmt) (neg : Bool) (k : Nat) (q : Int) : Nat :=
  if k = 0 then f.sign neg
  else
    let l : Int := (k.log2 : Int) + q
    if l < f.emin then f.sign neg + k * 2 ^ (q - (f.emin - f.mw)).toNat
    else f.sign neg + (l + f.bias).toNat * 2 ^ f.mw + (k * 2 ^ f.mw / 2 ^ k.log2 - 2 ^ f.mw)

/-- Conversion into a floating format (R52, the rows of the floating destinations). -/
def FloatFmt.conv (f : FloatFmt) (rm : Nat) (sat : Bool) (rbits : Nat) : Val → Nat
  | .nan => f.nan
  | .inf neg => if f.kind = 0 then f.inf neg else f.sign neg + f.maxBits
  | .fin neg num den e =>
    if num = 0 then f.sign neg
    else
      let q := max (magLog num den e - f.mw) (f.emin - f.mw)
      let (k, up) := roundMag rm neg rbits num den e q
      let mx := match floatVal f f.maxBits with | .fin _ m _ me => fraction m 1 me | _ => (0, 1)
      if fracLt mx (fraction k 1 q) then
        if f.kind = 0 && !sat then
          match rm with
          | 1 => f.sign neg + f.maxBits
          | 2 => if neg then f.sign neg + f.maxBits else f.inf neg
          | 3 => if neg then f.inf neg else f.sign neg + f.maxBits
          | 4 => if up then f.inf neg else f.sign neg + f.maxBits
          | _ => f.inf neg
        else f.sign neg + f.maxBits
      else f.pack neg k q

/-! ### Integers (R45, R46) -/

/-- Width and signedness of the integer codes. -/
def intFmt (t : Nat) : Option (Nat × Bool) :=
  match t with
  | 0x14 => some (16, true)
  | 0x15 => some (8, true)
  | 0x16 => some (8, false)
  | 0x17 => some (4, true)
  | 0x18 => some (4, false)
  | 0x19 => some (2, true)
  | 0x1C => some (32, true)
  | 0x1D => some (32, false)
  | 0x1E => some (64, true)
  | _ => none

def intVal (w : Nat) (signed : Bool) (x : Nat) : Int :=
  let x := x % 2 ^ w
  if signed && decide (2 ^ w ≤ 2 * x) then (x : Int) - 2 ^ w else x

def intMin (w : Nat) (signed : Bool) : Int := if signed then -(2 ^ (w - 1) : Int) else 0
def intMax (w : Nat) (signed : Bool) : Int := if signed then 2 ^ (w - 1) - 1 else 2 ^ w - 1

def clampInt (lo hi x : Int) : Int := max lo (min hi x)

/-- The w bits of an integer, wrapped. -/
def wrapInt (w : Nat) (x : Int) : Nat := (x % 2 ^ w).toNat

/-- Stores an exact integer in w bits: wrapped, or saturated to the type's range (R58). -/
def intStore (w : Nat) (signed sat : Bool) (x : Int) : Nat :=
  wrapInt w (if sat then clampInt (intMin w signed) (intMax w signed) x else x)

/-- Rounds a value to an integer under rm; infinities beyond every range, NaN 0 (R52). -/
def Val.toInt (rm rbits : Nat) : Val → Int
  | .nan => 0
  | .inf neg => if neg then -(2 ^ 100) else 2 ^ 100
  | .fin neg num den e =>
    if num = 0 then 0
    else if magLog num den e > 90 then (if neg then -(2 ^ 100) else 2 ^ 100)
    else
      let k := (roundMag rm neg rbits num den e 0).1
      if neg then -(k : Int) else k

/-! ### Element formats by type code (R33) -/

/-- The element format of a block code (R49, R50); other codes are their own. MXINT8 stays 0x0E. -/
def elemCode (t : Nat) : Nat :=
  match t with
  | 0x09 => 3 | 0x0A => 4 | 0x0B => 6 | 0x0C => 7 | 0x0D => 8
  | 0x0F => 4 | 0x10 => 6 | 0x11 => 7 | 0x12 => 8 | 0x13 => 0x17
  | _ => t

/-- The value of an element's bits, without a block scale (R43, R45, R46, R49). 6-bit codes ignore the two
upper bits of their slot (R48). -/
def elemVal (t x : Nat) : Val :=
  let t := elemCode t
  if t ≤ 8 then
    let f := floatFmt t
    floatVal f (x % 2 ^ (f.ew + f.mw + 1))
  else
    match t with
    | 0x0E => let i := intVal 8 true x; .fin (decide (i < 0)) i.natAbs 1 (-6)
    | 0x1A => Val.ofInt (match x % 4 with | 1 => 1 | 3 => -1 | _ => 0)
    | 0x1B => Val.ofInt (if x % 2 = 1 then 1 else -1)
    | _ => match intFmt t with | some (w, sg) => Val.ofInt (intVal w sg x) | none => Val.zero false

/-- Whether a code is an integer, ternary or binary type. -/
def isIntCode (t : Nat) : Bool := decide (0x14 ≤ t)

/-- Conversion of a value into an element format (R52). fromInt says the source type is an integer, which
decides between wrapping and saturation. -/
def convElem (t rm : Nat) (sat fromInt : Bool) (rbits : Nat) (v : Val) : Nat :=
  let t := elemCode t
  if t ≤ 8 then (floatFmt t).conv rm sat rbits v
  else
    match t with
    | 0x0E =>
      let v := match v with | .fin n a d e => Val.fin n a d (e + 6) | v => v
      wrapInt 8 (clampInt (-128) 127 (v.toInt rm rbits))
    | 0x1A => wrapInt 2 (clampInt (-1) 1 (v.toInt rm rbits))
    | 0x1B => match v with | .nan => 1 | .inf neg => if neg then 0 else 1 | .fin neg m _ _ => if neg && m ≠ 0 then 0 else 1
    | _ => match intFmt t with
      | some (w, sg) =>
        let i := v.toInt rm rbits
        intStore w sg (sat || !fromInt) i
      | none => 0

/-! ### Scales and block quantisation (R49 to R51) -/

/-- An E8M0 scale byte. -/
def e8m0Val (b : Nat) : Val := if b = 0xFF then .nan else .fin false 1 1 ((b : Int) - 127)

/-- A UE5M3 scale byte (R50). -/
def ue5m3Val (b : Nat) : Val :=
  if b = 0xFF then .nan
  else if b / 8 = 0 then .fin false (b % 8) 1 (-17)
  else .fin false (8 + b % 8) 1 ((b / 8 : Nat) - 18)

/-- The scale byte of a block of type t. -/
def scaleVal (t b : Nat) : Val := if t ≤ 0x0E then e8m0Val b else ue5m3Val b

/-- An element with its block's scale: a NaN scale makes it NaN, an infinity stays (R49). -/
def scaled (v s : Val) : Val :=
  match s, v with
  | .nan, _ => .nan
  | .fin _ sn sd se, .fin neg n d e => .fin neg (n * sn) (d * sd) (e + se)
  | _, v => v

def Val.isFin : Val → Bool
  | .fin _ _ _ _ => true
  | _ => false

/-- The magnitude of a finite value as a fraction. -/
def Val.mag : Val → Nat × Nat
  | .fin _ n d e => fraction n d e
  | _ => (0, 1)

def Val.isNeg : Val → Bool
  | .fin n _ _ _ => n
  | .inf n => n
  | .nan => false

/-- emax of the MX element formats (R49). -/
def mxEmax (t : Nat) : Int :=
  match t with | 0x09 => 15 | 0x0A => 8 | 0x0B => 4 | 0x0C => 2 | 0x0D => 2 | _ => 0

/-- qmax of the B16 element formats, doubled (R50). -/
def b16Qmax2 (t : Nat) : Nat :=
  match t with | 0x0F => 896 | 0x10 => 56 | 0x11 => 15 | 0x12 => 12 | _ => 14

/-- The UE5M3 byte of the next value at or above a fraction, at least 0x01 and at most 0xFE (R51). -/
def roundUpUe5m3 (x : Nat × Nat) : Nat :=
  ((List.range 254).find? (fun b => !fracLt (ue5m3Val (b + 1)).mag x)).elim 0xFE (fun b => b + 1)

/-- The largest magnitude of a list of finite values. -/
def maxMag (vs : List Val) : Nat × Nat := vs.foldl (fun m v => if fracLt m v.mag then v.mag else m) (0, 1)

/-- Quantises a block (R51): the scale byte and the elements' bits. rb gives each element's rbits. -/
def quantise (t rm : Nat) (rb : Nat → Nat) (vs : List Val) : Nat × List Nat :=
  if !vs.all Val.isFin then (0xFF, vs.map (fun _ => 0))
  else
    let am := maxMag vs
    if t ≤ 0x0E then
      let e : Int := if am.1 = 0 then -127 else clampInt (-127) 127 (magLog am.1 am.2 0 - mxEmax t)
      ((e + 127).toNat, vs.zipIdx.map (fun p =>
        convElem t rm true false (rb p.2)
          (match p.1 with | .fin n a d x => .fin n a d (x - e) | v => v)))
    else
      let b := roundUpUe5m3 (am.1 * 2, am.2 * b16Qmax2 t)
      (b, vs.zipIdx.map (fun p =>
        convElem t rm true false (rb p.2)
          (match p.1, ue5m3Val b with
           | .fin n a d x, .fin _ sn sd se => .fin n (a * sd) (d * sn) (x - se)
           | v, _ => v)))

/-! ### Exact arithmetic (R53, R56, R135) -/

/-- A finite value without denominator as a signed multiple of 2^q, for q at most its exponent. -/
def Val.atExp (q : Int) : Val → Int
  | .fin neg n _ e => let k : Int := n * 2 ^ (e - q).toNat; if neg then -k else k
  | _ => 0

def Val.exp : Val → Int
  | .fin _ n _ e => if n = 0 then 0 else e
  | _ => 0

def Val.isZero : Val → Bool
  | .fin _ n _ _ => n = 0
  | _ => false

/-- The exact sum of values without denominators. A zero sum of mixed signs is −0 only under .rd (R53); a sum of
zeros of one sign keeps it. -/
def sumVals (rm : Nat) (vs : List Val) : Val :=
  if vs.any (· == .nan) || (vs.any (· == .inf true) && vs.any (· == .inf false)) then .nan
  else if vs.any (· == .inf true) then .inf true
  else if vs.any (· == .inf false) then .inf false
  else
    let q : Int := vs.foldl (fun m v => min m v.exp) 0
    let k : Int := vs.foldl (fun t v => t + (if v.isZero then 0 else v.atExp q)) 0
    if k = 0 then
      if vs.all Val.isNeg && !vs.isEmpty then .zero true
      else if vs.all (fun v => !v.isNeg) then .zero false
      else .zero (rm = 3)
    else .fin (decide (k < 0)) k.natAbs 1 q

def addVal (rm : Nat) (a b : Val) : Val := sumVals rm [a, b]

def negVal : Val → Val
  | .nan => .nan
  | .inf n => .inf (!n)
  | .fin n a d e => .fin (!n) a d e

def absVal : Val → Val
  | .nan => .nan
  | .inf _ => .inf false
  | .fin _ a d e => .fin false a d e

def mulVal : Val → Val → Val
  | .nan, _ => .nan
  | _, .nan => .nan
  | .inf n, v => if v.isZero then .nan else .inf (n != v.isNeg)
  | v, .inf n => if v.isZero then .nan else .inf (n != v.isNeg)
  | .fin n a d e, .fin n' a' d' e' => .fin (n != n') (a * a') (d * d') (e + e')

/-- a < b, with infinities in order and −0 equal to +0; false when either is NaN. -/
def ltVal : Val → Val → Bool
  | .nan, _ => false
  | _, .nan => false
  | .inf n, .inf n' => n && !n'
  | .inf n, _ => n
  | _, .inf n => !n
  | .fin n a d e, .fin n' a' d' e' =>
    let x := fraction a d e
    let y := fraction a' d' e'
    if a = 0 ∧ a' = 0 then false
    else if n && !n' then true
    else if !n && n' then false
    else if n then fracLt y x else fracLt x y

/-- VMIN and VMAX (R135): NaN wins, −0 < +0. -/
def minVal (a b : Val) : Val :=
  if a = .nan ∨ b = .nan then .nan
  else if ltVal a b then a else if ltVal b a then b else if a.isNeg then a else b
def maxVal (a b : Val) : Val :=
  if a = .nan ∨ b = .nan then .nan
  else if ltVal a b then b else if ltVal b a then a else if a.isNeg then b else a

/-! ### The generator of R54 -/

/-- The four lines of R54 after the first: 64 bits. -/
def mix64 (x : W64) : W64 :=
  let x := x + 0x9E3779B97F4A7C15
  let x := (x ^^^ (x >>> 30)) * 0xBF58476D1CE9E5B9
  let x := (x ^^^ (x >>> 27)) * 0x94D049BB133111EB
  x ^^^ (x >>> 31)

/-- rbits of the element at row i, column j, slot h. -/
def rbitsOf (seed cnt : W64) (i j h : Nat) : Nat :=
  ((mix64 (seed ^^^ (cnt <<< 16) ^^^ BitVec.ofNat 64 (i * 2048) ^^^ BitVec.ofNat 64 (j * 32) ^^^
    BitVec.ofNat 64 h)).extractLsb' 32 32).toNat

/-! ### Requantisation (R59) -/

/-- (x × M + 2^30) >> 31, then the rounding shift by s, then z, clamped to the type. -/
def requant (t : Nat) (m z : Int) (s : Nat) (x : Int) : Nat :=
  let h := (x * m + 2 ^ 30) / 2 ^ 31
  let h := if s = 0 then h else (h + 2 ^ (s - 1)) / 2 ^ s
  match intFmt t with
  | some (w, sg) => wrapInt w (clampInt (intMin w sg) (intMax w sg) (h + z))
  | none => 0

/-! ### One FP32 rounding -/

/-- round_ne_f32 of R56. -/
def roundF32 (v : Val) : Nat := (floatFmt 0).conv 0 false 0 v
def f32Val (w : Nat) : Val := floatVal (floatFmt 0) w

end Sys2Proof.Machine
end

