-- ==== Sys2Proof/Machine/Operands.lean ====
section
/-! DEFINITION. Tile operands (R28 to R30, R62 to R67, R69 to R71, R121, R129, R130, R156): views, the levels
a source comes from, the latency shadow, queue pops, and writing a destination with its copy, its latch, its
poison and its shadow records. -/

namespace Sys2Proof.Machine

open Sys2Proof

/-! ### Views -/

/-- The places of a view in view order (R62, R131): (row, column). -/
def viewPos (o : BitVec 20) : List (Nat × Nat) :=
  match tView o with
  | 0 => (List.range 1024).map (fun k => (k / 64, k % 64))
  | 1 => (List.range 64).map (fun j => (tIdx o % 16, j))
  | 2 => (List.range 16).map (fun i => (i, tIdx o))
  | _ => (List.range 16).map (fun i => (i, (i + tIdx o) % 64))

/-- Rotating registers (R121): the register that a main-level number addresses in the stage being executed. -/
def Core.rotate (c : Core) (e : Eng) (n : Nat) : Nat :=
  match e.loops.find? (fun l =>
      let lp := c.arch.loopOf l
      lp.zt ≠ 0 && lp.holds e.secAddr && decide (lp.vb ≤ n) && decide (n < lp.vb + lp.s * lp.zt)) with
  | none => n
  | some l =>
    let lp := c.arch.loopOf l
    lp.vb + (n - lp.vb + (l.pass - lp.stageOf e.sec) % lp.s * lp.zt) % (lp.s * lp.zt)

def State.rotate (s : State) (n : Nat) : Nat := s.here.rotate s.eng n

/-- The register or entry number of an operand, after rotation at the main level. -/
def State.regOf (s : State) (o : BitVec 20) : Nat := if tLvl o = 0 then s.rotate (tReg o) else tReg o

/-! ### Storage of a level: 0 main file, 1 operand file, 2 latches -/

def Arch.tileStore (a : Arch) (lvl : Nat) : Store W32 :=
  if lvl = 0 then a.tiles else if lvl = 1 then a.wfile else a.latches

def Arch.setTileStore (a : Arch) (lvl : Nat) (st : Store W32) : Arch :=
  if lvl = 0 then { a with tiles := st } else if lvl = 1 then { a with wfile := st } else { a with latches := st }

def Arch.marks (a : Arch) (lvl : Nat) : Store Bool :=
  if lvl = 0 then a.tileP else if lvl = 1 then a.wfileP else a.latchP

def Arch.setMarks (a : Arch) (lvl : Nat) (st : Store Bool) : Arch :=
  if lvl = 0 then { a with tileP := st } else if lvl = 1 then { a with wfileP := st } else { a with latchP := st }

/-- The 1,024 containers of a register as stored, newest results included. -/
def Arch.regNow (a : Arch) (lvl reg : Nat) : List W32 := Store.run 0 (a.tileStore lvl) (reg * 1024) 1024

def Arch.rowMark (a : Arch) (lvl reg row : Nat) : Bool := Store.get false (a.marks lvl) (reg * 16 + row)

/-- What a read that samples at a cycle sees of one container: writes not yet readable are undone from the
newest on. At the main and operand-file levels each is undone or not as a free choice says (R66, log entry 3);
a latch read obtains the newest readable result (R65). -/
def shadowed (free now lvl key : Nat) (cur : W32) : List Pend → W32
  | [] => cur
  | p :: older =>
    if p.lvl ≠ lvl ∨ p.key ≠ key then shadowed free now lvl key cur older
    else if p.ready ≤ now then cur
    else if lvl ≠ 2 ∧ Config.freeBool free (key + p.ready) then cur
    else shadowed free now lvl key p.old older

/-- The containers of a register as a read at this cycle samples them. accum: an accumulating V word, which sees
every earlier V write (R134). -/
def State.regRead (s : State) (lvl reg : Nat) (accum : Bool) : List W32 :=
  let a := s.arch
  let ps := (a.pend.filter (fun p => p.lvl = lvl && p.key / 1024 = reg && (!accum || p.th = .m))).reverse
  let cur := a.regNow lvl reg
  if ps.all (fun p => decide (p.ready ≤ s.cycle)) then cur
  else cur.zipIdx.map (fun p => shadowed s.free s.cycle lvl (reg * 1024 + p.2) p.1 ps)

/-! ### Sources -/

/-- A resolved source: its shape (R62; 3 for none of its own), its containers in view order with the poison of
their rows. A shapeless source holds one pair of containers, for even and odd columns. -/
structure Src where
  shape : Nat
  cells : Array (W32 × Bool)

/-- Repeats a w-bit value in every slot of a container. -/
def replicate32 (w x : Nat) : W32 :=
  BitVec.ofNat 32 ((List.range (32 / w)).foldl (fun t h => t + (x % 2 ^ w) * 2 ^ (w * h)) 0)

/-- The container pattern of an immediate splat read under a type (R30); none for a form without a type. A type
for which R30 gives no value leaves the pattern open (log entry 3). -/
def State.immPattern (s : State) (ty : Option Nat) (imm : BitVec 16) : W32 × W32 :=
  match ty with
  | none => let w := imm.signExtend 32; (w, w)
  | some t =>
    if t ≤ 2 then
      let bits := convElem t 0 false false 0 (f32Val (imm.toNat * 65536))
      let w := replicate32 (typeWidth (BitVec.ofNat 5 t)) bits
      (w, w)
    else
      match intFmt t with
      | some (64, _) => let w := imm.signExtend 64; (w.extractLsb' 0 32, w.extractLsb' 32 32)
      | some (wd, sg) =>
        let w := replicate32 wd (wrapInt wd (if sg then imm.toInt else imm.toNat))
        (w, w)
      | none => let w := (Config.freeWord s.free t).extractLsb' 0 32; (w, w)

/-- The queue rows that an operand pops for a destination of a shape: 16 for whole, 1 for row. -/
def popRows (dShape : Nat) : Nat := if dShape = 0 then 16 else 1

def State.queue (s : State) (q : Nat) : List OqEnt := s.arch.oq[q % 8]'(Nat.mod_lt q (by decide))

/-- Removes n entries of an operand queue; its storage is shadowed by pairs of entries (R347). -/
def State.popQueue (s : State) (q n : Nat) : State :=
  let q : Fin 8 := ⟨q % 8, Nat.mod_lt q (by decide)⟩
  s.modArch (fun a => { a with oq := a.oq.set q (a.oq[q].drop n) })

/-- The containers of a queue entry. -/
def OqEnt.cells (e : OqEnt) : List (W32 × Bool) := (List.range 64).map (fun j => (leW32 e.bytes (4 * j), e.poison))

/-- Resolves a source operand for a destination shape; ty is the type under which an immediate is read. Every container
of an iteration-index splat holds the 32-bit index (R30; log entry 138). -/
def State.source (s : State) (o : BitVec 20) (dShape : Nat) (ty : Option Nat) (accum : Bool) : Src :=
  if tLvl o = 3 then
    match tKind o with
    | 0 => ⟨dShape, (((s.queue (tPayload o)).take (popRows dShape)).map OqEnt.cells).flatten.toArray⟩
    | 1 => let (a, b) := s.immPattern ty (o.extractLsb' 0 16); ⟨3, #[(a, false), (b, false)]⟩
    | 2 =>
      let w : W32 := (s.arch.iter.extractLsb' (16 * (tPayload o % 4)) 16).zeroExtend 32
      ⟨3, #[(w, false), (w, false)]⟩
    | _ =>
      let g := s.g (o.extractLsb' 0 5)
      ⟨3, #[(g.extractLsb' 0 32, false), (if ty = some 0x1E then g.extractLsb' 32 32 else g.extractLsb' 0 32, false)]⟩
  else
    let lvl := tLvl o
    let r := s.regOf o
    let cells := (s.regRead lvl r accum).toArray
    let a := s.arch
    let marks := ((List.range 16).map (fun i => a.rowMark lvl r i)).toArray
    ⟨tShape o, ((viewPos o).map (fun p => (cells.getD (64 * p.1 + p.2) 0, marks.getD p.1 false))).toArray⟩

/-- The source container that meets position k = (i, j) of a destination of a shape (R129). -/
def Src.at (x : Src) (dShape k i j : Nat) : W32 × Bool :=
  let idx :=
    if x.shape = 3 then j % 2
    else if x.shape = dShape then k
    else if x.shape = 1 then j
    else i
  x.cells.getD idx (0, false)

/-- The queues that a word's sources name pop in order: a, then b. None when an entry is missing. -/
def State.popSources (s : State) (os : List (BitVec 20)) (dShape : Nat) : Option State :=
  os.foldl (fun t o => t.bind (fun t =>
    if isQueue o then
      if (t.queue (tPayload o)).length < popRows dShape then none
      else some (t.popQueue (tPayload o) (popRows dShape))
    else some t)) (some s)

/-- The state in which the k-th of several sources is read: earlier queue operands have popped (R130). -/
def State.sourceB (s : State) (a b : BitVec 20) (dShape : Nat) (ty : Option Nat) : Src :=
  ((s.popSources [a] dShape).getD s).source b dShape ty false

/-! ### Destinations -/

/-- A container to write: row, column, value, and whether a poisoned container contributes. -/
structure Cell where
  row : Nat
  col : Nat
  val : W32
  poison : Bool

/-- The units with a latch (R28). -/
inductive VUnit where
  | alu | sfu | net | mrd | none
  deriving DecidableEq, Repr

def VUnit.latch : VUnit → Option Nat
  | .alu => some 0 | .sfu => some 1 | .net => some 2 | .mrd => some 3 | .none => .none

/-- Writes cells of one register or entry: values, marks (R156, R354), the shadow of old values until ready
(R65, R134), and shadow records (R347). -/
def Core.writeReg (c : Core) (lvl reg ready now : Nat) (th : Thread) (cells : List Cell) : Core :=
  let a := c.arch
  let old := (a.regNow lvl reg).toArray
  let new := cells.foldl (fun arr x => arr.setIfInBounds (64 * x.row + x.col) x.val) old
  let ps : List Pend := cells.map (fun x =>
    let key := reg * 1024 + 64 * x.row + x.col
    let ps := if lvl = 2 then [] else a.pend.filter (fun p => p.lvl = lvl && p.key = key)
    ⟨lvl, key, old.getD (64 * x.row + x.col) 0, ps.foldl (fun m p => max m p.ready) ready, th⟩)
  let marks := (List.range 16).foldl (fun st i =>
    let xs := cells.filter (fun x => x.row = i)
    if xs.isEmpty then st
    else
      Store.set false st (reg * 16 + i) (xs.any (fun x => x.poison))) (a.marks lvl)
  let c := if lvl = 2 then c else
    (List.range 8).foldl (fun c g => c.shade (if lvl = 0 then .tile else .wfile) .own (reg * 16 + g)) c
  c.modArch (fun a =>
    { ((a.setTileStore lvl (Store.put 0 (a.tileStore lvl) (reg * 1024) new.toList)).setMarks lvl marks) with
      pend := a.pend.filter (fun p => decide (now < p.ready) ||
        (p.lvl = 2 && a.pend.any (fun q => q.lvl = 2 && q.key / 1024 = p.key / 1024 && decide (now < q.ready)))) ++ ps })

/-- Latch u takes an image: the cells, and 0 everywhere else (R64); in handler mode V writes no latch (R79). A word
of the unit without a destination view names no position, so its image is all 0 (log entry 130). -/
def Core.writeLatch (c : Core) (u : VUnit) (ready now : Nat) (th : Thread) (handler : Bool) (cells : List Cell) : Core :=
  match u.latch with
  | none => c
  | some k =>
    if handler then c
    else
      let zero := (List.range 1024).map (fun n => (⟨n / 64, n % 64, 0, false⟩ : Cell))
      let arr := cells.foldl (fun (arr : Array Cell) x => arr.setIfInBounds (64 * x.row + x.col) x) zero.toArray
      c.writeReg 2 k ready now th arr.toList

/-- Writes a V word's destination (R29, R64, R65): the named level, the operand-file copy, the latch. lat is the word's
result latency as the instruction tables give it; the cycles that R65 adds for the levels of the word's operands are
not counted, as the tables of worked programs count none (DEDUCED, log entry 71). -/
def State.writeDest (s : State) (d : BitVec 20) (u : VUnit) (lat : Nat) (cells : List Cell) : State :=
  let now := s.cycle
  let e := s.eng
  let r := s.regOf d
  let c := s.here
  let c :=
    if tLvl d = 0 then
      let c := c.writeReg 0 r (now + lat + 2) now s.cur.th cells
      if tView d = 0 ∧ 16 ≤ tIdx d then c.writeReg 1 (tIdx d % 16) (now + lat + 1) now s.cur.th cells else c
    else c.writeReg 1 r (now + lat + 1) now s.cur.th cells
  s.setCore s.cur.core (c.writeLatch u (now + lat) now s.cur.th e.noLatch cells)

/-! ### Bank power (R69, R71) -/

/-- What naming a register's bank comes to. -/
inductive BankRes where
  | ok
  | off
  | wake (s : State)
  | waking

def bankPwrField (w : W32) (b v : Nat) : W32 :=
  BitVec.ofNat 32 (w.toNat - bitsOf w.toNat (2 * b + 1) (2 * b) * 2 ^ (2 * b) + v * 2 ^ (2 * b))

def State.bankUse (s : State) (b : Nat) : BankRes :=
  let a := s.arch
  let st := bitsOf a.bankPwr.toNat (2 * b + 1) (2 * b)
  if st = 0 then .off
  else if st = 2 then
    .wake (s.modArch (fun a => { a with bankPwr := bankPwrField a.bankPwr b 1, bankWake := Store.set 0 a.bankWake b (s.cycle + 40) }))
  else if s.cycle < Store.get 0 a.bankWake b then .waking else .ok

/-- The cycle by which every word that an engine has issued has retired. -/
def Arch.allRetired (a : Arch) (t : Thread) : Nat :=
  let e := a.eng t
  (a.mflight.filter (fun _ => t = .m)).foldl (fun m f => max m f.doneAt)
    ((a.pend.filter (fun p => p.th = t)).foldl (fun m p => max m p.ready) (max e.busy e.sts.2))

/-- A word that names banks has issued: a change of their power waits until it has retired, which a word with units
left to move has not (R72). -/
def State.nameBanks (s : State) (bs : List Nat) (t : State) : State :=
  if bs.isEmpty then t
  else t.modArch (fun a =>
    { a with named := (s.cur.th, (bs.map (fun b => 2 ^ b)).sum, a.allRetired s.cur.th) ::
        a.named.filter (fun n => decide (s.cycle < n.2.2) && (n.1 ≠ s.cur.th || n.2.2 ≠ 2 ^ 64)) })

/-- The same behind the effect of the word. -/
def State.bankNamed (s : State) (bs : List Nat) : Res → Res
  | .done t => .done (s.nameBanks bs t)
  | .gone t =>
    if bs.isEmpty ∨ (t.arch.eng s.cur.th).prog = 0 then .gone t
    else .gone (t.modArch (fun a =>
      { a with named := (s.cur.th, (bs.map (fun b => 2 ^ b)).sum, 2 ^ 64) :: a.named.filter (fun n => n.1 ≠ s.cur.th || n.2.2 ≠ 2 ^ 64) }))
  | r => r

/-- The banks of main registers (R70). -/
def banksOf (regs : List Nat) : List Nat := (regs.map (fun n => n / 64)).eraseDups

/-- Runs an effect behind the banks of the registers that a word names: OFF faults, RETENTION and a wake in
progress stall. -/
def withBanks (s : State) (regs : List Nat) (r : Res) : Res :=
  let bs := banksOf regs
  let rs := bs.map s.bankUse
  if rs.any (fun x => match x with | .off => true | _ => false) then .trap Code.bankOff none
  else
    let t := bs.foldl (fun t b => match t.bankUse b with | .wake u => u | _ => t) s
    if rs.any (fun x => match x with | .wake _ => true | .waking => true | _ => false) then .wait t
    else s.bankNamed bs r

/-- The main-level registers that operands name. -/
def State.mainRegs (s : State) (os : List (BitVec 20)) : List Nat :=
  (os.filter (fun o => tLvl o = 0)).map s.regOf

/-- A handler-mode word that reads a latch (R79). -/
def State.latchRead (s : State) (os : List (BitVec 20)) : Bool := s.eng.noLatch && os.any (fun o => tLvl o = 2)

end Sys2Proof.Machine
end

