-- ==== Sys2Proof/Machine/Vector.lean ====
section
/-! DEFINITION. The element-wise vector forms (R129 to R138, R150): the frame of a V word, slots, arithmetic,
shifts, compares, moves, and the masked forms VSEL and VIOTA. -/

namespace Sys2Proof.Machine

open Sys2Proof

/-! ### The frame of a V word (R65, R79, R129, R130, R133) -/

/-- How a V word runs: the tile operands it names, further main registers it names, the shape its queue sources
take, the operands that may pop, whether rm is .rs, and its occupancy for four row groups and for one. -/
structure VForm where
  named : List (BitVec 20)
  regs : List Nat
  shape : Nat
  pops : List (BitVec 20)
  rs : Bool
  occ4 : Nat
  occ1 : Nat

/-- A word touches four row groups when any of its views is whole, column or diagonal (R133). -/
def fourGroups (os : List (BitVec 20)) : Bool := os.any (fun o => tLvl o ≠ 3 && tView o ≠ 1)

/-- The issue of a V word: occupancy (R133) and SRCNT (R54). -/
def State.vIssue (s : State) (v : VForm) : State :=
  let s := s.modEng (fun e => { e with busy := s.cycle + (if fourGroups v.named then v.occ4 else v.occ1) })
  if v.rs then s.modArch (fun a => { a with srcnt := a.srcnt + 1 }) else s

/-- A V word. The effect takes the state in which the sources are read, and the state after the pops, which it
changes. A word that reads a latch where it may not and names a bank that is OFF raises RESERVED_FIELD: both are of check
4, which R27 does not order within (DESIGN CHOICE, log entry 149). -/
def vrun (i : Instr) (h : Hdr) (s : State) (v : VForm) (eff : State → State → State) :
    Host.Outcome State Fault Refusal :=
  runWord i h s (fun s =>
    if s.latchRead v.named then .trap Code.reservedField none
    else withBanks s (s.mainRegs v.named ++ v.regs)
      (match s.popSources v.pops v.shape with
       | none => .stall s
       | some t => .done ((eff s t).vIssue v).bumpFree))

/-! ### Slots (R48, R131) -/

/-- The bits of slot h of a container of w-bit elements. -/
def slot (w h : Nat) (x : W32) : Nat := x.toNat / 2 ^ (w * h) % 2 ^ w

/-- A container built from its slots. -/
def buildSlots (w : Nat) (f : Nat → Nat) : W32 :=
  BitVec.ofNat 32 ((List.range (32 / w)).foldl (fun t h => t + f h % 2 ^ w * 2 ^ (w * h)) 0)

/-- rbits of a destination position under .rs, else 0 (R54). -/
def State.rbits (s : State) (rm i j h : Nat) : Nat :=
  if rm = 4 then rbitsOf s.arch.srseed s.arch.srcnt i j h else 0

/-- The cells of a destination view, from its containers in view order. -/
def destCells (d : BitVec 20) (f : Nat → Nat → Nat → W32 × Bool) : List Cell :=
  (viewPos d).zipIdx.map (fun p => let v := f p.2 p.1.1 p.1.2; ⟨p.1.1, p.1.2, v.1, v.2⟩)

/-! ### Element-wise forms -/

/-- A value function on floats and one on integers, of the elements of a, b and the old d. -/
structure ElemOp where
  flt : Nat → Val → Val → Val → Val
  int : Int → Int → Int → Int

/-- One element under a plain type of R132: one rounding under rm, or exact and then wrapped or saturated. -/
def ElemOp.apply (o : ElemOp) (t rm : Nat) (sat : Bool) (rb a b d : Nat) : Nat :=
  if t ≤ 2 then (floatFmt t).conv rm false rb (o.flt rm (elemVal t a) (elemVal t b) (elemVal t d))
  else match intFmt t with
    | some (w, sg) => intStore w sg sat (o.int (intVal w sg a) (intVal w sg b) (intVal w sg d))
    | none => 0

/-- A 64-bit element of a source: the container pair that holds position k = (i, j). -/
def Src.pair (x : Src) (dShape k i j : Nat) : Nat :=
  (x.at dShape (k - j % 2) i (j - j % 2)).1.toNat + (x.at dShape (k - j % 2 + 1) i (j - j % 2 + 1)).1.toNat * 2 ^ 32

/-- What an element-wise word computes for a destination container from its sources. -/
def State.elemCell (s : State) (o : ElemOp) (t rm : Nat) (sat : Bool) (dShape : Nat) (a b d : Src) (k i j : Nat) :
    W32 × Bool :=
  let x := a.at dShape k i j
  let y := b.at dShape k i j
  let z := d.at dShape k i j
  let p := x.2 || y.2 || z.2
  if t = 0x1E then
    let r := o.apply t rm sat 0 (a.pair dShape k i j) (b.pair dShape k i j) (d.pair dShape k i j)
    (BitVec.ofNat 32 (r / 2 ^ (32 * (j % 2))), p)
  else
    let w := typeWidth (BitVec.ofNat 5 t)
    (buildSlots w (fun h => o.apply t rm sat (s.rbits rm i j h) (slot w h x.1) (slot w h y.1) (slot w h z.1)), p)

/-- A source that contributes nothing. -/
def Src.none : Src := ⟨3, #[(0, false), (0, false)]⟩

/-- An element-wise VT word over the named sources; cell computes a container from a, b and, when acc holds, the
destination read as accumulator. -/
def ewWord (i : Instr) (h : Hdr) (f : VT) (s : State) (two acc : Bool) (ty : Option Nat) (rs : Bool) (lat : Nat)
    (cell : State → Src → Src → Src → Nat → Nat → Nat → W32 × Bool) : Host.Outcome State Fault Refusal :=
  let srcs := if two then [f.a, f.b] else [f.a]
  let sh := tShape f.d
  vrun i h s ⟨f.d :: srcs, [], sh, srcs, rs, 4, 1⟩ (fun s t =>
    let a := s.source f.a sh ty false
    let b := if two then s.sourceB f.a f.b sh ty else Src.none
    let d := if acc then s.source f.d sh none true else Src.none
    t.writeDest f.d .alu lat (destCells f.d (cell s a b d)))

/-- A typed arithmetic form. -/
def vArith (i : Instr) (h : Hdr) (f : VT) (s : State) (two acc : Bool) (latInt : Nat) (o : ElemOp) :=
  let t := f.ty.toNat
  let rm := f.rm.toNat
  ewWord i h f s two acc (some t) (rm = 4) (if t ≤ 2 then 6 else latInt)
    (fun s a b d => s.elemCell o t rm (f.sat = 1) (tShape f.d) a b d)

def execVadd (h : Hdr) (f : VT) (s : State) :=
  vArith (.vadd h f) h f s true false 4 ⟨fun rm a b _ => addVal rm a b, fun a b _ => a + b⟩
def execVsub (h : Hdr) (f : VT) (s : State) :=
  vArith (.vsub h f) h f s true false 4 ⟨fun rm a b _ => addVal rm a (negVal b), fun a b _ => a - b⟩
def execVmul (h : Hdr) (f : VT) (s : State) :=
  vArith (.vmul h f) h f s true false 4 ⟨fun _ a b _ => mulVal a b, fun a b _ => a * b⟩
def execVfma (h : Hdr) (f : VT) (s : State) :=
  vArith (.vfma h f) h f s true true 6 ⟨fun rm a b d => addVal rm (mulVal a b) d, fun a b d => a * b + d⟩
def execVfms (h : Hdr) (f : VT) (s : State) :=
  vArith (.vfms h f) h f s true true 6 ⟨fun rm a b d => addVal rm d (negVal (mulVal a b)), fun a b d => d - a * b⟩
def execVmin (h : Hdr) (f : VT) (s : State) :=
  vArith (.vmin h f) h f s true false 4 ⟨fun _ a b _ => minVal a b, fun a b _ => Min.min a b⟩
def execVmax (h : Hdr) (f : VT) (s : State) :=
  vArith (.vmax h f) h f s true false 4 ⟨fun _ a b _ => maxVal a b, fun a b _ => Max.max a b⟩
def execVabs (h : Hdr) (f : VT) (s : State) :=
  vArith (.vabs h f) h f s false false 4 ⟨fun _ a _ _ => absVal a, fun a _ _ => a.natAbs⟩
def execVneg (h : Hdr) (f : VT) (s : State) :=
  vArith (.vneg h f) h f s false false 4 ⟨fun _ a _ _ => negVal a, fun a _ _ => -a⟩

/-- A bitwise form on whole containers. -/
def vLogic (i : Instr) (h : Hdr) (f : VT) (s : State) (two : Bool) (op : W32 → W32 → W32) :=
  ewWord i h f s two false none false 4 (fun _ a b _ k i j =>
    let x := a.at (tShape f.d) k i j
    let y := b.at (tShape f.d) k i j
    (op x.1 y.1, x.2 || y.2))

def execVand (h : Hdr) (f : VT) (s : State) := vLogic (.vand h f) h f s true (· &&& ·)
def execVor (h : Hdr) (f : VT) (s : State) := vLogic (.vor h f) h f s true (· ||| ·)
def execVxor (h : Hdr) (f : VT) (s : State) := vLogic (.vxor h f) h f s true (· ^^^ ·)
def execVnot (h : Hdr) (f : VT) (s : State) := vLogic (.vnot h f) h f s false (fun a _ => ~~~a)

/-! ### Shifts and compares (R136, R137) -/

/-- A form that maps the bits of two elements to the bits of one. -/
def vBits (i : Instr) (h : Hdr) (f : VT) (s : State) (lat : Nat) (op : Nat → Nat → Nat → Nat) :=
  let w := typeWidth f.ty
  ewWord i h f s true false (some f.ty.toNat) false lat (fun _ a b _ k i j =>
    let x := a.at (tShape f.d) k i j
    let y := b.at (tShape f.d) k i j
    (buildSlots w (fun n => op w (slot w n x.1) (slot w n y.1)), x.2 || y.2))

/-- VSHL of an element: 0 from the width on, or saturated as the exact product a × 2^amount. -/
def shlElem (t : Nat) (sat : Bool) (w a n : Nat) : Nat :=
  if sat then match intFmt t with
    | some (w, sg) => intStore w sg true (intVal w sg a * 2 ^ (Min.min n w))
    | none => 0
  else if w ≤ n then 0 else a * 2 ^ n

def shrElem (w a n : Nat) : Nat := if w ≤ n then 0 else a / 2 ^ n
def sarElem (w a n : Nat) : Nat := wrapInt w (intVal w true a / 2 ^ (Min.min n (w - 1)))

def execVshl (h : Hdr) (f : VT) (s : State) := vBits (.vshl h f) h f s 4 (shlElem f.ty.toNat (f.sat = 1))
def execVshr (h : Hdr) (f : VT) (s : State) := vBits (.vshr h f) h f s 4 shrElem
def execVsar (h : Hdr) (f : VT) (s : State) := vBits (.vsar h f) h f s 4 sarElem

/-- The condition codes of R137 from less-than and equality; NaN makes only .ne true. -/
def vcond (fn : Nat) (lt eq un : Bool) : Bool :=
  match fn with
  | 0 => eq && !un
  | 1 => !eq || un
  | 2 => lt && !un
  | 3 => (lt || eq) && !un
  | 4 => !lt && !eq && !un
  | _ => !lt && !un

def cmpElem (t fn w a b : Nat) : Nat :=
  let r :=
    if t ≤ 2 then
      let x := elemVal t a
      let y := elemVal t b
      vcond fn (ltVal x y) (!ltVal x y && !ltVal y x) (x == .nan || y == .nan)
    else match intFmt t with
      | some (w, sg) => vcond fn (intVal w sg a < intVal w sg b) (intVal w sg a = intVal w sg b) false
      | none => false
  if r then 2 ^ w - 1 else 0

def execVcmp (h : Hdr) (f : VT) (s : State) :=
  vBits (.vcmp h f) h f s (if f.ty.toNat ≤ 2 then 6 else 4) (cmpElem f.ty.toNat f.fn.toNat)

/-! ### VMOV and VSPLAT (R138) -/

/-- The container that VMOV gives position k: as R129 pairs them, else modulo the length of a's view. -/
def movCell (d a : BitVec 20) (x : Src) (k i j : Nat) : W32 × Bool :=
  if combines d a then x.at (tShape d) k i j else x.cells.getD (k % max 1 x.cells.size) (0, false)

def execVmov (h : Hdr) (f : VT) (s : State) :=
  ewWord (.vmov h f) h f s false false none false 4 (fun _ a _ _ k i j => movCell f.d f.a a k i j)

/-- The amount or index that b supplies: an unsigned immediate, or the low half of a general register (R30). -/
def State.amount (s : State) (b : BitVec 20) : Nat :=
  if tKind b = 1 then tPayload b else ((s.g (b.extractLsb' 0 5)).extractLsb' 0 32).toNat

/-- A lane-network or arithmetic move: vals gives a destination container from the resolved source and the
amount of b. -/
def vMove (i : Instr) (h : Hdr) (f : VT) (s : State) (u : VUnit) (lat : Nat)
    (cell : Src → Nat → Nat → Nat → Nat → W32 × Bool) : Host.Outcome State Fault Refusal :=
  let sh := tShape f.d
  vrun i h s ⟨[f.d, f.a], [], sh, [f.a], false, 4, 1⟩ (fun s t =>
    let a := s.source f.a sh none false
    t.writeDest f.d u lat (destCells f.d (cell a (s.amount f.b))))

def execVsplat (h : Hdr) (f : VT) (s : State) :=
  vMove (.vsplat h f) h f s .net 10 (fun a n _ _ _ => a.cells.getD (n % max 1 a.cells.size) (0, false))

/-! ### Masked forms (R150) -/

/-- The mask of a VM word at a position, and whether the row of the mask register is poisoned. -/
def State.maskAt (s : State) (f : VM) : Nat → Nat → Bool × Bool :=
  let cells := (s.regRead 0 f.mreg.toNat false).toArray
  let a := s.arch
  fun i j => ((cells.getD (64 * i + j) 0).getLsbD f.mbit.toNat == (f.msense = 1), a.rowMark 0 f.mreg.toNat i)

/-- The newest containers and marks of a destination's own view. -/
def State.destNow (s : State) (d : BitVec 20) : Nat → Nat → W32 × Bool :=
  let lvl := tLvl d
  let r := s.regOf d
  let a := s.arch
  let cells := (a.regNow lvl r).toArray
  fun i j => (cells.getD (64 * i + j) 0, a.rowMark lvl r i)

/-- VSEL: containers outside the mask keep their newest value, which the copy of R29 and the latch receive too. -/
def execVsel (h : Hdr) (f : VM) (s : State) :=
  vrun (.vsel h f) h s ⟨[f.d, f.a], [f.mreg.toNat], tShape f.d, [f.a], false, 4, 1⟩ (fun s t =>
    let a := s.source f.a (tShape f.d) none false
    let m := s.maskAt f
    let old := s.destNow f.d
    t.writeDest f.d .alu 4 (destCells f.d (fun k i j =>
      let x := if (m i j).1 then a.at (tShape f.d) k i j else old i j
      (x.1, x.2 || (m i j).2))))

/-- For each position in order, how many earlier ones a predicate holds at. -/
def countBefore (ms : List Bool) : List Nat :=
  ((ms.foldl (fun (acc : List Nat × Nat) m => (acc.2 :: acc.1, if m then acc.2 + 1 else acc.2)) ([], 0)).1).reverse

/-- VIOTA: the mask containers before a position contribute to it, with their poison (R156). -/
def execViota (h : Hdr) (f : VM) (s : State) :=
  vrun (.viota h f) h s ⟨[f.d, f.a], [f.mreg.toNat], tShape f.d, [f.a], false, 4, 1⟩ (fun s t =>
    let a := s.source f.a (tShape f.d) (some 0x1C) false
    let m := s.maskAt f
    let ns := (countBefore ((viewPos f.d).map (fun p => (m p.1 p.2).1))).toArray
    let ps := (countBefore ((viewPos f.d).map (fun p => (m p.1 p.2).2))).toArray
    t.writeDest f.d .net 10 (destCells f.d (fun k i j =>
      let x := a.at (tShape f.d) k i j
      (x.1 + BitVec.ofNat 32 (ns.getD k 0), x.2 || decide (0 < ps.getD k 0)))))

end Sys2Proof.Machine
end

