-- ==== Sys2Proof/Machine/VectorConv.lean ====
section
/-! DEFINITION. The vector forms whose operands may hold different numbers of elements: VCVT, VRQS, VMACI
(R139 to R142), and VDOT4. -/

namespace Sys2Proof.Machine

open Sys2Proof

/-- The container n of a source's own view, in view order. -/
def Src.cont (x : Src) (n : Nat) : W32 × Bool := x.cells.getD (if x.shape = 3 then n % 2 else n) (0, false)

/-- Element n of a source of w-bit elements (R131), with its container's poison. -/
def Src.elem (x : Src) (w n : Nat) : Nat × Bool :=
  let c := x.cont (n / (32 / w))
  (slot w (n % (32 / w)) c.1, c.2)

/-- The part that a word works on (R139): its first source element, first destination element, and length. -/
structure Part where
  src : Nat
  dst : Nat
  len : Nat

def partOf (wd wa ld la p : Nat) : Part :=
  let nd := ld * (32 / wd)
  let na := la * (32 / wa)
  if wd < wa then ⟨0, p * na, na⟩ else ⟨p * nd, 0, nd⟩

/-- The destination containers that receive elements; bits and poison are by element of the part. -/
def partCells (d : BitVec 20) (w : Nat) (q : Part) (bits : Array Nat) (po : Array Bool) : List Cell :=
  let per := 32 / w
  (viewPos d).zipIdx.filterMap (fun p =>
    let e := p.2 * per
    if q.dst ≤ e ∧ e < q.dst + q.len then
      some ⟨p.1.1, p.1.2, buildSlots w (fun h => bits.getD (e + h - q.dst) 0),
        (List.range per).any (fun h => po.getD (e + h - q.dst) false)⟩
    else none)

/-- The marks of the elements of a word under a destination type: an element of a block format depends on every
element of its block, which set its scale (R156). -/
def blockMarks (dt : Nat) (ps : List Bool) : List Bool :=
  let bl := blockLen (BitVec.ofNat 5 dt)
  if bl = 0 then ps
  else ((chunks bl (ps.length + 1) ps).map (fun b => List.replicate b.length (b.any (fun p => p)))).flatten

/-- The place of a destination element: row, column and slot, for R54. -/
def elemPlace (d : BitVec 20) (w : Nat) : Nat → Nat × Nat × Nat :=
  let ps := (viewPos d).toArray
  fun e => let p := ps.getD (e / (32 / w)) (0, 0); (p.1, p.2, e % (32 / w))

/-! ### VCVT (R140) -/

/-- Byte k of an operand-file entry and its row's mark, as a read samples it. -/
def State.entryByte (s : State) (e : Nat) : Nat → Nat × Bool :=
  let cells := (s.regRead 1 e false).toArray
  let a := s.arch
  fun k => ((cells.getD (k / 4) 0).toNat / 2 ^ (8 * (k % 4)) % 256, a.rowMark 1 e (k / 256))

/-- The values of the part's source elements, with block scales applied. -/
def State.cvtVals (s : State) (st p : Nat) (q : Part) (x : Src) (ent : Nat) : List (Val × Bool) :=
  let w := typeWidth (BitVec.ofNat 5 st)
  let bl := blockLen (BitVec.ofNat 5 st)
  let sc := s.entryByte ent
  (List.range q.len).map (fun n =>
    let e := x.elem w (q.src + n)
    if bl = 0 then (elemVal st e.1, e.2)
    else
      let b := sc (p * (q.len / bl) + n / bl)
      (scaled (elemVal st e.1) (scaleVal st b.1), e.2 || b.2))

/-- Writes bytes into an operand-file entry as a result of the word: the containers touched keep their other
bytes. -/
def State.writeEntryBytes (s : State) (e first ready : Nat) (bs : List (Nat × Bool)) : State :=
  let old := (s.arch.regNow 1 e).toArray
  let arr := bs.toArray
  let cells := ((List.range 1024).filter (fun c => decide (first < 4 * c + 4) && decide (4 * c < first + bs.length))).map
    (fun c =>
      let v := (List.range 4).foldl (fun t h =>
        let k := 4 * c + h
        let b := if first ≤ k ∧ k < first + bs.length then (arr.getD (k - first) (0, false)).1
          else (old.getD c 0).toNat / 2 ^ (8 * h) % 256
        t + b % 256 * 2 ^ (8 * h)) 0
      let po := (List.range 4).any (fun h => decide (first ≤ 4 * c + h) && (arr.getD (4 * c + h - first) (0, false)).2)
      (⟨c / 64, c % 64, BitVec.ofNat 32 v, po⟩ : Cell))
  s.modHere (fun c => c.writeReg 1 e ready s.cycle s.cur.th cells)

/-- VCVT's elements: bits by element of the part, and for a block destination the scale bytes. -/
def cvtOut (st dt rm : Nat) (sat : Bool) (rb : Nat → Nat) (vs : List (Val × Bool)) :
    List Nat × List (Nat × Bool) :=
  let bl := blockLen (BitVec.ofNat 5 dt)
  if bl = 0 then (vs.zipIdx.map (fun v => convElem dt rm sat (isIntCode st) (rb v.2) v.1.1), [])
  else
    let qs := (chunks bl (vs.length + 1) vs).zipIdx.map (fun b =>
      (quantise dt rm (fun k => rb (b.2 * bl + k)) (b.1.map (fun v => v.1)), b.1.any (fun v => v.2)))
    ((qs.map (fun b => b.1.2)).flatten, qs.map (fun b => (b.1.1, b.2)))

def execVcvt (h : Hdr) (f : VT) (s : State) :=
  let st := (f.b.extractLsb' 0 5).toNat
  let dt := f.ty.toNat
  let ent := (f.b.extractLsb' 5 4).toNat
  let p := f.fn.toNat
  let rm := f.rm.toNat
  let wd := typeWidth f.ty
  let wa := typeWidth (BitVec.ofNat 5 st)
  let q := partOf wd wa (shapeLen (tShape f.d)) (viewLen f.d f.a) p
  vrun (.vcvt h f) h s ⟨[f.d, f.a], [], tShape f.d, [f.a], rm = 4, 4, 1⟩ (fun s t =>
    let x := s.source f.a (tShape f.d) (some st) false
    let vs := s.cvtVals st p q x ent
    let place := elemPlace f.d wd
    let rb := fun n => let c := place (q.dst + n); s.rbits rm c.1 c.2.1 c.2.2
    let (bits, scales) := cvtOut st dt rm (f.sat = 1) rb vs
    let cells := partCells f.d wd q bits.toArray (blockMarks dt (vs.map (fun v => v.2))).toArray
    let t := t.writeDest f.d .alu 6 cells
    if scales.isEmpty then t else t.writeEntryBytes ent (p * scales.length) (s.cycle + 7) scales)

/-! ### VRQS (R141) -/

def execVrqs (h : Hdr) (f : VT) (s : State) :=
  let p := f.fn.toNat % 4
  let sh := f.rm.toNat * 4 + f.sat.toNat * 2 + f.fn.toNat / 4
  let w := typeWidth f.ty
  let q := partOf w 32 (shapeLen (tShape f.d)) (viewLen f.d f.a) p
  vrun (.vrqs h f) h s ⟨[f.d, f.a], [], tShape f.d, [f.a], false, 4, 1⟩ (fun s t =>
    let x := s.source f.a (tShape f.d) (some 0x1C) false
    let g := s.g (f.b.extractLsb' 0 5)
    let m := (g.extractLsb' 0 32).toInt
    let z := (g.extractLsb' 32 32).toInt
    let es := (List.range q.len).map (fun n => x.elem 32 (q.src + n))
    let bits := es.map (fun e => requant f.ty.toNat m z sh (intVal 32 true e.1))
    t.writeDest f.d .alu 6 (partCells f.d w q bits.toArray (es.map (fun e => e.2)).toArray))

/-! ### VMACI and VDOT4 (R142) -/

/-- Signedness of a and of b. -/
def mixSigns (f : VT) : Bool × Bool :=
  let sa := f.ty.toNat = 0x15
  (sa, sa != f.fn.getLsbD 2)

/-- The type under which b is read. -/
def mixType (f : VT) : Nat := if (mixSigns f).2 then 0x15 else 0x16

def execVmaci (h : Hdr) (f : VT) (s : State) :=
  let sh := tShape f.d
  let p := f.fn.toNat % 4
  vrun (.vmaci h f) h s ⟨[f.d, f.a, f.b], [], sh, [f.a, f.b], false, 4, 1⟩ (fun s t =>
    let a := s.source f.a sh (some f.ty.toNat) false
    let b := s.sourceB f.a f.b sh (some (mixType f))
    let d := s.source f.d sh none true
    let g := mixSigns f
    t.writeDest f.d .alu 6 (destCells f.d (fun k i j =>
      let x := a.elem 8 (p * shapeLen sh + k)
      let y := b.elem 8 (p * shapeLen sh + k)
      let z := d.at sh k i j
      (BitVec.ofNat 32 (intStore 32 true (f.sat = 1) (z.1.toInt + intVal 8 g.1 x.1 * intVal 8 g.2 y.1)),
        x.2 || y.2 || z.2))))

def execVdot4 (h : Hdr) (f : VT) (s : State) :=
  let sh := tShape f.d
  vrun (.vdot4 h f) h s ⟨[f.d, f.a, f.b], [], sh, [f.a, f.b], false, 4, 1⟩ (fun s t =>
    let a := s.source f.a sh (some f.ty.toNat) false
    let b := s.sourceB f.a f.b sh (some (mixType f))
    let d := s.source f.d sh none true
    let g := mixSigns f
    t.writeDest f.d .alu 6 (destCells f.d (fun k i j =>
      let x := a.at sh k i j
      let y := b.at sh k i j
      let z := d.at sh k i j
      let sum := (List.range 4).foldl (fun (t : Int) n => t + intVal 8 g.1 (slot 8 n x.1) * intVal 8 g.2 (slot 8 n y.1)) 0
      (BitVec.ofNat 32 (intStore 32 true (f.sat = 1) (z.1.toInt + sum)), x.2 || y.2 || z.2))))

end Sys2Proof.Machine
end

