-- ==== Sys2Proof/Machine/Sfu.lean ====
section
/-! DEFINITION. VSFU (R143): the exact real value of each special function to far more bits than any rounding
looks at, and the rounding of R143. The functions take representable or halfway values only at the inputs that
are handled exactly; elsewhere an approximation with 700 fraction bits lies on the true side of every rounding
boundary (DEDUCED, log entry 17). -/

namespace Sys2Proof.Machine

open Sys2Proof

/-- Fraction bits of the fixed-point work, and of the reduction by pi. -/
def sfuP : Nat := 700
def sfuBig : Nat := 900

/-- arctan (sign true) or arctanh of 1/k with p fraction bits: the terms t / n, t falling by k squared. -/
def atanSum (alt : Bool) (k : Nat) : Nat → Nat → Nat → Bool → Int → Int
  | 0, _, _, _, acc => acc
  | fuel + 1, t, n, neg, acc =>
    let term : Int := (t / n : Nat)
    atanSum alt k fuel (t / (k * k)) (n + 2) (alt && !neg) (if neg then acc - term else acc + term)

/-- 4 × (4 arctan(1/5) − arctan(1/239)) with p fraction bits. -/
def piFix (p : Nat) : Int :=
  let u : Nat := 2 ^ (p + 16)
  4 * (4 * atanSum true 5 400 (u / 5) 1 false 0 - atanSum true 239 400 (u / 239) 1 false 0) / 2 ^ 16

/-- 2 arctanh(1/3), the natural logarithm of 2, with sfuP fraction bits. -/
def ln2Fix : Int := 2 * atanSum false 3 400 (2 ^ (sfuP + 16) / 3) 1 false 0 / 2 ^ 16

def fmulFix (a b : Int) : Int := a * b / 2 ^ sfuP

/-- The exponential series from term n on. -/
def expSum (y : Int) : Nat → Nat → Int → Int → Int
  | 0, _, _, acc => acc
  | fuel + 1, n, t, acc => let t := fmulFix t y / n; expSum y fuel (n + 1) t (acc + t)

/-- e^y for |y| at most 1, all with sfuP fraction bits. -/
def expFix (y : Int) : Int :=
  let e := expSum (y / 256) 90 1 (2 ^ sfuP) (2 ^ sfuP)
  (List.range 8).foldl (fun s _ => fmulFix s s) e

/-- A positive fixed-point number times 2^k as a value. -/
def fixVal (neg : Bool) (x k : Int) : Val := .fin neg x.natAbs 1 (k - sfuP)

/-- The value of (−1)^neg × num × 2^e (den 1) as fixed point; used where |x| is small enough. -/
def toFix (p : Nat) (neg : Bool) (num : Nat) (e : Int) : Int :=
  let q := e + p
  let m : Int := if 0 ≤ q then num * 2 ^ q.toNat else num / 2 ^ (-q).toNat
  if neg then -m else m

/-- A tiny positive value, far below every rounding boundary near 0 that FP32 has. -/
def tinyVal (neg : Bool) : Val := .fin neg 1 1 (-2800)

/-- A value just below 1 in magnitude. -/
def nearOne (neg : Bool) : Val := .fin neg (2 ^ 280 - 1) 1 (-280)

/-- 2^x for finite x = (−1)^neg × num × 2^e. -/
def exp2Val (neg : Bool) (num : Nat) (e : Int) : Val :=
  if num = 0 then .fin false 1 1 0
  else if neg ∧ magLog num 1 e ≥ 11 then tinyVal false
  else if magLog num 1 e ≥ 24 then .fin false 1 1 4000
  else
    let x := toFix sfuP neg num e
    let k := x / 2 ^ sfuP
    let f := x % 2 ^ sfuP
    let k := min k 4000
    if f = 0 then .fin false 1 1 k else fixVal false (expFix (fmulFix f ln2Fix)) k

/-- The series of 2 arctanh z divided by 2: z + z^3/3 + … -/
def atanhSeries (z2 : Int) : Nat → Nat → Int → Int → Int
  | 0, _, _, acc => acc
  | fuel + 1, n, t, acc => atanhSeries z2 fuel (n + 2) (fmulFix t z2) (acc + t / n)

/-- log2 of a positive value num × 2^e. -/
def log2Val (num : Nat) (e : Int) : Val :=
  let l := num.log2
  let k : Int := (l : Int) + e
  if num = 2 ^ l then Val.ofInt k
  else
    -- m = num / 2^l in (1, 2); above 3/2 it is halved
    let half := decide (3 * 2 ^ l < 2 * num)
    let den : Nat := if half then 2 ^ (l + 1) else 2 ^ l
    let k := if half then k + 1 else k
    let z : Int := ((num : Int) - den) * 2 ^ sfuP / ((num : Int) + den)
    let ln := 2 * atanhSeries (fmulFix z z) 450 1 z 0
    -- log2 = k + ln / ln2, as an exact fraction
    let n : Int := k * ln2Fix + ln
    .fin (decide (n < 0)) n.natAbs ln2Fix.natAbs 0

/-- e^(−a) for a positive a = num × 2^e below 2^12: a fixed-point mantissa and a power of two. -/
def expNeg (num : Nat) (e : Int) : Int × Int :=
  let y := toFix sfuP true num e
  let k := y / ln2Fix
  (expFix (y - k * ln2Fix), k)

/-- tanh of a nonzero finite value: (1 − t) / (1 + t) with t = e^(−2a). -/
def tanhVal (neg : Bool) (num : Nat) (e : Int) : Val :=
  if magLog num 1 e ≥ 7 then nearOne neg
  else
    let (m, k) := expNeg num (e + 1)
    -- t = m × 2^(k − P), k ≤ 0
    let one : Int := 2 ^ (sfuP + (-k).toNat)
    .fin neg (one - m).natAbs (one + m).natAbs 0

/-- 1 / (1 + e^(−x)). -/
def sigmVal (neg : Bool) (num : Nat) (e : Int) : Val :=
  if num = 0 then .fin false 1 1 (-1)
  else if magLog num 1 e ≥ 11 then (if neg then tinyVal false else nearOne false)
  else if !neg && decide (magLog num 1 e ≥ 8) then nearOne false
  else
    let (m, k) := expNeg num e
    let one : Int := 2 ^ (sfuP + (-k).toNat)
    if neg then .fin false m.natAbs (one + m).natAbs 0 else .fin false one.natAbs (one + m).natAbs 0

/-- The sine or cosine series of r: terms by r² / (n (n + 1)). -/
def sinSeries (r2 : Int) : Nat → Nat → Int → Int → Int
  | 0, _, _, acc => acc
  | fuel + 1, n, t, acc => sinSeries r2 fuel (n + 2) (-(fmulFix t r2) / ((n : Int) * (n + 1))) (acc + t)

/-- sin x or cos x for a nonzero finite x. -/
def sinVal (isCos neg : Bool) (num : Nat) (e : Int) : Val :=
  let pi := piFix sfuBig
  let half := pi / 2
  let y := toFix sfuBig neg num e
  let k := (y + half / 2) / half
  let r := (y - k * half) / 2 ^ (sfuBig - sfuP)
  let q := ((k + (if isCos then 1 else 0)) % 4).toNat
  let r2 := fmulFix r r
  let v := if q % 2 = 0 then sinSeries r2 150 2 r 0 else sinSeries r2 150 1 (2 ^ sfuP) 0
  let v := if 2 ≤ q then -v else v
  .fin (decide (v < 0)) v.natAbs 1 (-(sfuP : Int))

/-- 1 / √x for a positive x = num × 2^e: the root of 2^(2s) / x, with a sticky half bit when inexact. -/
def rsqVal (num : Nat) (e : Int) : Val :=
  let (n, e) := if e % 2 = 0 then (num, e) else (2 * num, e - 1)
  let s : Nat := 300
  let r := Nat.sqrt (4 ^ s / n)
  if r * r * n = 4 ^ s then .fin false r 1 (-(s : Int) - e / 2)
  else .fin false (2 * r + 1) 1 (-(s : Int) - 1 - e / 2)

/-- The exact value of function fn (R143). zn is the sign of the zero that tanh and sin give for −0, which the
spec does not state (Config.sfuZero). -/
def sfuVal (fn : Nat) (zn : Bool) : Val → Val
  | .nan => .nan
  | .inf neg =>
    match fn with
    | 0 => .zero neg
    | 1 => if neg then .nan else .zero false
    | 2 => if neg then .zero false else .inf false
    | 3 => if neg then .nan else .inf false
    | 4 => .fin neg 1 1 0
    | 5 => if neg then .zero false else .fin false 1 1 0
    | _ => .nan
  | .fin neg num _ e =>
    if num = 0 then
      match fn with
      | 0 => .inf neg
      | 1 => .inf neg
      | 2 => .fin false 1 1 0
      | 3 => .inf true
      | 4 => .zero (neg && zn)
      | 5 => .fin false 1 1 (-1)
      | 6 => .zero (neg && zn)
      | _ => .fin false 1 1 0
    else
      match fn with
      | 0 => .fin neg 1 num (-e)
      | 1 => if neg then .nan else rsqVal num e
      | 2 => exp2Val neg num e
      | 3 => if neg then .nan else log2Val num e
      | 4 => tanhVal neg num e
      | 5 => sigmVal neg num e
      | 6 => sinVal false neg num e
      | _ => sinVal true neg num e

/-- One element of VSFU: .f32 rounds once under rm; .bf16 and .f16 round to FP32 first (R143). -/
def sfuElem (t fn rm rb : Nat) (zn : Bool) (x : Nat) : Nat :=
  let v := sfuVal fn zn (elemVal t x)
  let v := if t = 0 then v else f32Val (roundF32 v)
  (floatFmt t).conv rm false rb v

def execVsfu (h : Hdr) (f : VT) (s : State) :=
  let sh := tShape f.d
  let t := f.ty.toNat
  let w := typeWidth f.ty
  let rm := f.rm.toNat
  vrun (.vsfu h f) h s ⟨[f.d, f.a], [], sh, [f.a], rm = 4, 8, 2⟩ (fun s u =>
    let a := s.source f.a sh (some t) false
    u.writeDest f.d .sfu 12 (destCells f.d (fun k i j =>
      let x := a.at sh k i j
      (buildSlots w (fun n =>
        sfuElem t f.fn.toNat rm (s.rbits rm i j n) (Config.sfuZero f.fn.toNat t rm) (slot w n x.1)), x.2))))

end Sys2Proof.Machine
end

