-- ==== Sys2Proof/Machine/VectorNet.lean ====
section
/-! DEFINITION. Lane movement, reductions and the multi-register vector forms (R144 to R149). -/

namespace Sys2Proof.Machine

open Sys2Proof

/-- The place of position k within its view: row and column for whole, column for a row, row otherwise. -/
def relPos (shape k : Nat) : Nat × Nat := if shape = 0 then (k / 64, k % 64) else if shape = 1 then (0, k) else (k, 0)

/-- A source of the destination's shape read at a place of the view. -/
def Src.rel (x : Src) (shape i j : Nat) : W32 × Bool :=
  x.at shape (if shape = 0 then 64 * i + j else if shape = 1 then j else i) i j

/-! ### Rotations and broadcasts (R144) -/

/-- A move whose destination place (i, j) takes the source place that src gives for the amount. -/
def vLane (i : Instr) (h : Hdr) (f : VT) (s : State) (u : VUnit) (lat : Nat) (src : Nat → Nat → Nat → Nat × Nat) :=
  let sh := tShape f.d
  vMove i h f s u lat (fun a n k _ _ =>
    let p := relPos sh k
    let q := src n p.1 p.2
    a.rel sh q.1 q.2)

def execVrotr (h : Hdr) (f : VT) (s : State) :=
  vLane (.vrotr h f) h f s .net 10 (fun n i j => (i, (j + 64 - n % 64) % 64))
def execVrotc (h : Hdr) (f : VT) (s : State) :=
  vLane (.vrotc h f) h f s .alu 8 (fun n i j => ((i + 16 - n % 16) % 16, j))
def execVbcr (h : Hdr) (f : VT) (s : State) := vLane (.vbcr h f) h f s .net 10 (fun n i _ => (i, n % 64))
def execVbcc (h : Hdr) (f : VT) (s : State) := vLane (.vbcc h f) h f s .alu 8 (fun n _ j => (n % 16, j))

/-! ### VPERM (R145) -/

def execVperm (h : Hdr) (f : VT) (s : State) :=
  let sh := tShape f.d
  vrun (.vperm h f) h s ⟨[f.d, f.a, f.b], [], sh, [f.a, f.b], false, 4, 1⟩ (fun s t =>
    let a := s.source f.a sh none false
    let b := s.sourceB f.a f.b sh none
    t.writeDest f.d .net 10 (destCells f.d (fun k _ _ =>
      let p := relPos sh k
      let y := b.rel sh p.1 p.2
      let x := a.rel sh p.1 (y.1.toNat % 64)
      (x.1, x.2 || y.2))))

/-! ### Reductions (R146) -/

/-- Reduces the containers of a row or column under a type and operation, for one destination place. A sum of zero
is −0 only when every term is −0, whatever rm (R56, R146). -/
def reduce (t fn rm : Nat) (sat : Bool) (rb : Nat) (xs : List W32) : W32 :=
  if t = 0 then
    let vs := xs.map (fun x => f32Val x.toNat)
    let v :=
      match fn with
      | 0 => sumVals 0 vs
      | 1 => vs.foldl minVal (.inf false)
      | _ => vs.foldl maxVal (.inf true)
    BitVec.ofNat 32 ((floatFmt 0).conv (if fn = 0 then rm else 0) false rb v)
  else
    let sg := t = 0x1C
    let vs := xs.map (fun x => intVal 32 sg x.toNat)
    match fn with
    | 0 => BitVec.ofNat 32 (intStore 32 sg sat vs.sum)
    | 1 => BitVec.ofNat 32 (wrapInt 32 (vs.foldl Min.min (intMax 32 sg)))
    | 2 => BitVec.ofNat 32 (wrapInt 32 (vs.foldl Max.max (intMin 32 sg)))
    | 3 => xs.foldl (· &&& ·) (BitVec.allOnes 32)
    | 4 => xs.foldl (· ||| ·) 0
    | _ => xs.foldl (· ^^^ ·) 0

/-- A reduction: group g's containers are those at places (row, column) that mem lists; a destination position
takes the group that grp gives. A source at the special level takes the whole shape of d (R130). -/
def vReduce (i : Instr) (h : Hdr) (f : VT) (s : State) (u : VUnit) (lat : Nat) (groups : Nat)
    (mem : Nat → List Nat) (grp : Nat → Nat → Nat) :=
  let rm := f.rm.toNat
  vrun i h s ⟨[f.d, f.a], [], tShape f.d, [f.a], rm = 4, 4, 1⟩ (fun s t =>
    let a := s.source f.a (tShape f.d) (some f.ty.toNat) false
    let gs := ((List.range groups).map (fun g => (mem g).map (fun k => a.at 0 k (k / 64) (k % 64)))).toArray
    -- without .rs the result is the same at every place of a group
    let rs := (gs.map (fun g => reduce f.ty.toNat f.fn.toNat rm (f.sat = 1) 0 (g.map (fun x => x.1))))
    t.writeDest f.d u lat (destCells f.d (fun _ i j =>
      let g := gs.getD (grp i j) []
      (if rm = 4 then reduce f.ty.toNat f.fn.toNat rm (f.sat = 1) (s.rbits rm i j 0) (g.map (fun x => x.1))
       else rs.getD (grp i j) 0, g.any (fun x => x.2)))))

def execVredr (h : Hdr) (f : VT) (s : State) :=
  vReduce (.vredr h f) h f s .net 10 16 (fun g => (List.range 64).map (fun j => 64 * g + j)) (fun i _ => i)
def execVredc (h : Hdr) (f : VT) (s : State) :=
  vReduce (.vredc h f) h f s .alu 8 64 (fun g => (List.range 16).map (fun i => 64 * i + g)) (fun _ j => j)

/-! ### VTRN, ZIPn, UNZIPn (R147 to R149) -/

/-- A form over n whole registers each way: output register q, container c takes container c' of source register
r, where src q c gives (r, c'). A rotated range that would pass v767 raises RESERVED_FIELD as an unrotated one.
The operand-file copy of R29, like the latch (R149), takes the last destination register (log entry 129). -/
def vMulti (i : Instr) (h : Hdr) (f : VT) (s : State) (n lat occ : Nat) (src : Nat → Nat → Nat × Nat) :
    Host.Outcome State Fault Refusal :=
  runWord i h s (fun s =>
    let a := s.regOf f.a
    let d := s.regOf f.d
    if 768 < a + n ∨ 768 < d + n then .trap Code.reservedField none
    else withBanks s ((List.range n).map (fun q => a + q) ++ (List.range n).map (fun q => d + q))
      (let xs := ((List.range n).map (fun q => (s.regRead 0 (a + q) false).toArray)).toArray
       let marks := ((List.range n).map (fun q => ((List.range 16).map (fun r => s.arch.rowMark 0 (a + q) r)).toArray)).toArray
       let out (q : Nat) : List Cell := (List.range 1024).map (fun c =>
         let p := src q c
         ⟨c / 64, c % 64, (xs.getD p.1 #[]).getD p.2 0, (marks.getD p.1 #[]).getD (p.2 / 64) false⟩)
       let c := (List.range n).foldl (fun (k : Core) q => k.writeReg 0 (d + q) (s.cycle + lat + 2) s.cycle s.cur.th (out q)) s.here
       let c := if 16 ≤ tIdx f.d then c.writeReg 1 (tIdx f.d % 16) (s.cycle + lat + 1) s.cycle s.cur.th (out (n - 1)) else c
       let c := c.writeLatch .net (s.cycle + lat) s.cycle s.cur.th s.eng.noLatch (out (n - 1))
       .done ((s.setCore s.cur.core c).modEng (fun e => { e with busy := s.cycle + occ })).bumpFree))

def execVtrn (h : Hdr) (f : VT) (s : State) :=
  vMulti (.vtrn h f) h f s 4 20 16 (fun q c => (c % 64 / 16, 64 * (c % 64 % 16) + 16 * q + c / 64))

/-- The output register q, container c of ZIPn: sequence element m = 1024 q + c comes from register m mod n. -/
def zipSrc (n q c : Nat) : Nat × Nat := ((1024 * q + c) % n, (1024 * q + c) / n)
def unzipSrc (n q c : Nat) : Nat × Nat := ((n * c + q) / 1024, (n * c + q) % 1024)

def execZip2 (h : Hdr) (f : VT) (s : State) := vMulti (.zip2 h f) h f s 2 16 8 (zipSrc 2)
def execZip3 (h : Hdr) (f : VT) (s : State) := vMulti (.zip3 h f) h f s 3 20 12 (zipSrc 3)
def execZip4 (h : Hdr) (f : VT) (s : State) := vMulti (.zip4 h f) h f s 4 24 16 (zipSrc 4)
def execUnzip2 (h : Hdr) (f : VT) (s : State) := vMulti (.unzip2 h f) h f s 2 16 8 (unzipSrc 2)
def execUnzip3 (h : Hdr) (f : VT) (s : State) := vMulti (.unzip3 h f) h f s 3 20 12 (unzipSrc 3)
def execUnzip4 (h : Hdr) (f : VT) (s : State) := vMulti (.unzip4 h f) h f s 4 24 16 (unzipSrc 4)

end Sys2Proof.Machine
end

