-- ==== Sys2Proof/Machine/Objects.lean ====
section
/-! DEFINITION. The synchronisation objects of a core: allocation (R241, R260), semaphores (R241 to R246),
barriers (R247 to R253) and rings (R260 to R266), the rules of the wait instructions (R245), and the arbitration of shared
resources (R295). -/

namespace Sys2Proof.Machine

open Sys2Proof

/-! ### Allocation (R241) -/

/-- The running context's allocation names the object; the Chaperone belongs to no context and is not limited
(log entry 21). -/
def State.semOk (s : State) (n : Nat) : Bool :=
  s.cur.th = .chap || (s.dev.ctx s.here.ctx).sema.getLsbD n
def State.barOk (s : State) (n : Nat) : Bool :=
  s.cur.th = .chap || (s.dev.ctx s.here.ctx).bara.getLsbD n
def State.ringOk (s : State) (n : Nat) : Bool :=
  s.cur.th = .chap || (s.dev.ctx s.here.ctx).ringa.getLsbD n

/-- PRIVILEGE at check 4 for an object outside the allocation. -/
def owned (ok : Bool) (r : Res) : Res := if ok then r else .trap Code.privilege none

/-! ### Semaphores -/

def Arch.sem (a : Arch) (n : Nat) : W32 := a.sems[n % 256]'(Nat.mod_lt n (by decide))
def Arch.setSem (a : Arch) (n : Nat) (v : W32) : Arch :=
  { a with sems := a.sems.set (n % 256) v (Nat.mod_lt n (by decide)) }
def Arch.addSem (a : Arch) (n : Nat) (v : W32) : Arch := a.setSem n (a.sem n + v)

/-- R242. -/
def semMet (count thr : W32) : Bool := decide ((count - thr).toNat < 2 ^ 31)

/-- An increment by a writer class (R243, R246). -/
def Core.semAdd (c : Core) (w : Writer) (n : Nat) (v : W32) : Core :=
  match w, c.real with
  | .outside, some r =>
    let k : Fin 256 := ⟨n % 256, Nat.mod_lt n (by decide)⟩
    { c with real := some { r with sems := r.sems.set k (r.sems[k] + v) } }
  | _, _ => c.alter w (fun a => a.addSem n v)

/-- The object of a condition: semaphore n as n, barrier n as 256 + n, ring n as 320 + n. -/
def WaitCond.obj : WaitCond → Nat
  | .sem n _ => n
  | .bar n | .tile n _ => 256 + n
  | .filled n _ | .free n _ => 320 + n

/-- An SSET, BARM or BRST has acted on an object: stalled waits on it take note (R245). -/
def Core.hitWaits (c : Core) (obj : Nat) : Core :=
  let f : Eng → Eng := fun e =>
    { e with wait := e.wait.map (fun (w : WaitSt) => if w.cond.obj = obj then { w with hit := true } else w) }
  c.modArch (fun a => { a with engC := f a.engC, engA := f a.engA, engV := f a.engV, engM := f a.engM, chap := f a.chap })

/-! ### Commit points that the program does not place (R215) -/

/-- A wait field that has not been found met, as the count of its semaphore stands. -/
def Arch.waitHeld (a : Arch) (we met : Bool) (ws wt : Nat) : Bool := we && !met && !semMet (a.sem ws) (BitVec.ofNat 32 wt)

/-- The first queued command, held by its wait field. -/
def Core.headHeld (c : Core) : Bool :=
  match c.xq.find? (fun x => x.st = .queued) with
  | some x => c.arch.waitHeld x.sig.we x.met x.sig.ws x.sig.wt
  | none => false

/-- A loop with RB = 1 is active on the core. -/
def Core.rbActive (c : Core) : Bool := c.arch.loops.toList.any (fun l => l.active && l.rb)

/-- While a wait instruction is stalled or the head of the X queue is held, held effects that no commit point
covers, taken or requested, make the core request one. So do those of a tile task whose four TASKENDs have retired,
which otherwise could not be sealed (R293, log entry 69). -/
def Core.autoCp (c : Core) : Core :=
  let stalled := (kernelThreads ++ [Thread.chap]).any (fun t => (c.arch.eng t).wait.isSome)
  let sealing := match c.task with | some t => decide (t.st = .sealing) | none => false
  if (stalled || c.headHeld || sealing) && c.hold.any (fun h => h.cover.isNone) && c.cpReq.isEmpty && !c.rbActive &&
      (c.region = .active || c.region = .recovery) then c.requestCp .word
  else c

/-! ### Rings -/

def Ring.filled (r : Ring) : Nat := r.pub - r.cons
def Ring.free (r : Ring) : Nat := r.nslot - (r.clm - r.cons) - r.resv

/-- The address of the slot with sequence number q. -/
def Ring.slotAddr (r : Ring) (q : Nat) : Nat := r.base + q % r.nslot * r.slot

/-- Publication of k slots by a producer other than L: CLM and PUB rise together (R260). -/
def Ring.publish (r : Ring) (k : Nat) : Ring := { r with pub := r.pub + k, clm := r.clm + k }

/-- A stream produces into ring n: one that is DONE or FAULTED produces no more (R194, R262). -/
def Arch.ringStream (a : Arch) (n : Nat) : Bool :=
  a.streams.toList.any (fun t => (t.st = .running || t.st = .parked) && t.kind = 2 && t.ring = n)

/-! ### Barriers -/

def Arch.bar (a : Arch) (n : Nat) : Bar := a.bars[n % 64]'(Nat.mod_lt n (by decide))
def Arch.modBar (a : Arch) (n : Nat) (f : Bar → Bar) : Arch :=
  { a with bars := a.bars.set (n % 64) (f (a.bar n)) (Nat.mod_lt n (by decide)) }

/-- Chunks of a barrier (R247). -/
def Bar.chunks (b : Bar) : Nat := (b.exp + 511) / 512
def Bar.chunkLen (b : Bar) (c : Nat) : Nat := min 512 (b.exp - 512 * c)
def Bar.tileBytes (b : Bar) : Nat := if b.tiled then b.trows * b.tbytes else 512
/-- Tiles of a barrier; without TILED a tile is a chunk (R248). -/
def Bar.tiles (b : Bar) : Nat := if b.tiled then b.exp / b.tileBytes else b.chunks

/-- The address of a logical byte (R248). -/
def Bar.addr (b : Bar) (l : Nat) : Nat :=
  if !b.tiled then b.base + l
  else
    let tb := b.tileBytes
    let t := l / tb
    b.base + t / b.tw * b.trs + t % b.tw * b.tcs + l % tb / b.tbytes * b.pitch + l % b.tbytes

def Bar.waiting (b : Bar) : Bool := b.st = .armed || b.st = .filling
def Bar.finished (b : Bar) : Bool := b.st = .complete || b.st = .partialSt

/-- The mark of chunk c. -/
def Arch.marked (a : Arch) (b : Bar) (c : Nat) : Bool := (Store.get 0 a.barMem (b.bmo + c / 8)).getLsbD (c % 8)

def Arch.setMark (a : Arch) (b : Bar) (c : Nat) : Arch :=
  let k := b.bmo + c / 8
  { a with barMem := Store.set 0 a.barMem k (Store.get 0 a.barMem k ||| ((1 : Byte) <<< (c % 8))) }

def Arch.clearMarks (a : Arch) (b : Bar) : Arch :=
  let bs : List Byte := (List.range ((b.chunks + 7) / 8)).map (fun k =>
    if 8 * k + 8 ≤ b.chunks then 0
    else Store.get 0 a.barMem (b.bmo + k) &&& ~~~(BitVec.ofNat 8 (2 ^ (b.chunks % 8) - 1)))
  { a with barMem := Store.put 0 a.barMem b.bmo bs }

/-- Tile t is complete (R248): the barrier is COMPLETE or PARTIAL, or every chunk of the tile is marked. -/
def Arch.tileDone (a : Arch) (b : Bar) (t : Nat) : Bool :=
  b.finished ||
    (let first := t * b.tileBytes / 512
     let last := (min b.exp ((t + 1) * b.tileBytes) - 1) / 512
     b.st ≠ .idle && (List.range (last + 1 - first)).all (fun j => a.marked b (first + j)))

def satInc (n : Nat) : Nat := min (2 ^ 32 - 1) (n + 1)

/-- The mark of chunk c is set and ARR rises; COMPLETE when ARR reaches EXP (R249, R251). -/
def Arch.credit (a : Arch) (n c : Nat) : Arch :=
  let b := a.bar n
  let arr := b.arr + b.chunkLen c
  (a.setMark b c).modBar n (fun b => { b with arr := arr, st := if arr = b.exp then .complete else .filling })

/-- The semaphores and barriers of a core that belong to its contexts, whatever a replay uses. -/
def Core.realArch (c : Core) : Arch :=
  match c.real with
  | some r => { c.arch with sems := r.sems, bars := r.bars, barMem := r.barMem }
  | none => c.arch

/-- The first command that is not popped has been found met. -/
def meetHead : List TCmd → List TCmd
  | [] => []
  | x :: xs => if x.popped then x :: meetHead xs else { x with met := true } :: xs

/-- The wait fields of the heads of the core's X and T queues are evaluated in a cycle; one found met stays met (R244). -/
def Core.evalHeads (c : Core) : Core :=
  let c := match c.xq.find? (fun x => x.st = .queued) with
    | some x =>
      if !x.met && !c.arch.waitHeld x.sig.we false x.sig.ws x.sig.wt then
        { c with xq := c.xq.map (fun (y : XCmd) => if y.id = x.id then { y with met := true } else y) }
      else c
    | none => c
  match c.arch.seq.cmdq.find? (fun x => !x.popped) with
  | some x =>
    if !x.met && !c.realArch.waitHeld x.we false x.ws x.wt then
      c.modArch (fun a => { a with seq := { a.seq with cmdq := meetHead a.seq.cmdq } })
    else c
  | none => c

/-- The core's state as a writer class sees its semaphores and barriers (R360). -/
def Core.archFor (c : Core) (w : Writer) : Arch :=
  match w with
  | .outside => c.realArch
  | _ => c.arch

/-- A change of barrier state: an agent outside the core acts on the barriers that a replay has put aside
(R360). -/
def Core.alterBars (c : Core) (w : Writer) (f : Arch → Arch) : Core :=
  match w, c.real with
  | .outside, some r =>
    let a := f { c.arch with bars := r.bars, barMem := r.barMem }
    { c with real := some { r with bars := a.bars, barMem := a.barMem } }
  | _, _ => c.alter w f

/-- A credited deposit's mark, by a writer class: barrier memory is shadowed, and a BARM or BRST that it follows
can no longer be undone (R253, R351). -/
def Core.creditBar (c : Core) (w : Writer) (n chunk : Nat) : Core :=
  let b := (c.archFor w).bar n
  let c := c.shadeRun .bar w 512 (b.bmo + chunk / 8) 1
  let c := if w = .own then c else c.spoil .barWord n
  c.alterBars w (fun a => a.credit n chunk)

/-- Counters and state of a barrier changed by a deposit. -/
def Core.modBarAs (c : Core) (w : Writer) (n : Nat) (f : Bar → Bar) : Core := c.alterBars w (fun a => a.modBar n f)

/-- The contiguous runs of chunk c: its offset within the chunk, address and length. -/
def Bar.runs (b : Bar) (c : Nat) : List (Nat × Nat × Nat) :=
  if !b.tiled then [(0, b.base + 512 * c, b.chunkLen c)]
  else
    ((List.range (b.chunkLen c / 4)).map (fun k => (4 * k, b.addr (512 * c + 4 * k), 4)))

/-- A placement held back by a lease names the chunk. -/
def Core.chunkHeld (c : Core) (n chunk : Nat) : Bool := c.heldPlace.any (fun p => p.bar = n && p.chunk = chunk)

/-- What keeps a placement from being credited, and the counter it adds to: no such chunk, the barrier's state, or a
chunk already marked or named by a held placement (R249). -/
def Core.depositCount (c : Core) (n chunk : Nat) (named : Bool) : Option (Bar → Bar) :=
  let a := c.realArch
  let b := a.bar n
  if b.chunks ≤ chunk then some (fun b => { b with stray := satInc b.stray })
  else
    match b.st with
    | .idle | .faulted => some (fun b => { b with stray := satInc b.stray })
    | .complete => some (fun b => { b with dup := satInc b.dup })
    | .partialSt => some (fun b => { b with late := satInc b.late })
    | .armed | .filling => if a.marked b chunk || named then some (fun b => { b with dup := satInc b.dup }) else none

/-- A write of a core's own machinery: a lease holds it back (R172). A token stands for the release that covers it. -/
def Core.scrOrHold (c : Core) (w : Writer) (addr : Nat) (bs : List Byte) (tok : Option Nat) (poison : Bool := false) : Core :=
  if c.arch.leased addr bs.length then { c with heldScr := c.heldScr ++ [⟨w, addr, bs, tok, poison⟩] }
  else
    let c := c.scrWrite w .t addr bs poison
    match tok with
    | some k => c.alter w (fun a => a.orderNewest 1 k)
    | none => c

/-- Those whose lease has ended are made, in their order. -/
def Core.scrDrain (c : Core) : Core :=
  if c.heldScr.isEmpty then c
  else c.heldScr.foldl (fun (c : Core) h => c.scrOrHold h.w h.addr h.bytes h.tok h.poison) { c with heldScr := [] }

/-- Writes a chunk's bytes of barrier n at their scratchpad addresses, by a path; its mark will cover them (R233). -/
def Core.placeScr (c : Core) (w : Writer) (p : Via) (n : Nat) (b : Bar) (chunk : Nat) (bs : List Byte) (poison : Bool) : Core :=
  let rs := b.runs chunk
  (rs.foldl (fun c r => c.scrWrite w p r.2.1 ((bs.drop r.1).take r.2.2) poison) c).alter w
    (fun a => a.orderNewest rs.length (chunkTok n b.gen chunk))

/-- What the marks of chunks lo to hi of a barrier cover becomes ordered before a reader that has found them (R233). -/
def State.chunkAcquire (s : State) (core : CoreId) (r n lo hi : Nat) : State :=
  let g := ((s.core core).arch.bar n).gen
  let in_ (k : Nat) : Bool := decide (chunkTok n g lo ≤ k) && decide (k ≤ chunkTok n g hi)
  s.order core r (fun w => w.known.any in_) (fun w => (w.agents core).any in_)

/-- A wait on tile t of a barrier, or on all of it, has been met (R233). -/
def State.tileAcquire (s : State) (core : CoreId) (r n : Nat) (tile : Option Nat) : State :=
  let b := (s.core core).arch.bar n
  match tile with
  | none => s.chunkAcquire core r n 0 (b.chunks - 1)
  | some t =>
    if b.finished then s.chunkAcquire core r n 0 (b.chunks - 1)
    else s.chunkAcquire core r n (t * b.tileBytes / 512) ((min b.exp ((t + 1) * b.tileBytes) - 1) / 512)

/-- Scratchpad bytes of the core lie within a leased range. -/
def Core.placeLeased (c : Core) (b : Bar) (chunk : Nat) : Bool :=
  (b.runs chunk).any (fun r => c.arch.leased r.2.1 r.2.2)

/-- A 32-byte fault record (R329) as bytes. -/
def FaultRec.bytes (r : FaultRec) (seq : Nat) : List Byte :=
  natBytes 8 r.va.toNat ++ natBytes 8 r.pc.toNat ++ natBytes 4 r.tag.toNat ++ natBytes 2 r.ctx ++
    natBytes 1 r.code.toNat ++ natBytes 1 (r.kind + (if r.wr then 8 else 0) + (if r.mal then 16 else 0)) ++
    natBytes 1 (r.core % 64) ++ natBytes 1 r.obj ++ natBytes 2 r.sect ++ natBytes 4 seq

/-- A barrier goes FAULTED with a code; with FREC its record is written there (R249, R251). The record's SEQ has
no ring index and is written as 0. A commit point before the barrier was armed does not learn of the fault (R253). -/
def Core.faultBar (c : Core) (w : Writer) (n : Nat) (code : BitVec 8) (r : FaultRec) : Core :=
  let b := (c.archFor w).bar n
  if !b.waiting then c
  else
    let c := c.modBarAs w n (fun x => if x.waiting ∧ x.gen = b.gen then { x with st := .faulted, code := code } else x)
    if b.frec = 0 then c else c.scrOrHold w b.frec (r.bytes 0) none

/-! ### Wait instructions (R245) -/

/-- Threads of a core that hold a wait slot. -/
def Core.slotsUsed (c : Core) : Nat :=
  ((kernelThreads ++ [Thread.chap]).filter (fun t => match (c.arch.eng t).wait with | some w => w.slot | none => false)).length

/-- What an evaluation of a condition finds (R256, R268): none when it does not hold. A FAULTED barrier raises its code,
a tile index beyond the tiles of an armed barrier RESERVED_FIELD. -/
def Arch.evalCond (a : Arch) : WaitCond → Option WaitOut
  | .sem n thr => if semMet (a.sem n) thr then some .met else none
  | .bar n =>
    let b := a.bar n
    if b.st = .faulted then some (.trap b.code (BitVec.ofNat 64 b.frec)) else if b.finished then some .met else none
  | .tile n t =>
    let b := a.bar n
    if b.st = .faulted then some (.trap b.code (BitVec.ofNat 64 b.frec))
    else if b.st = .idle then none
    else if b.tiles ≤ t then some (.trap Code.reservedField 0)
    else if a.tileDone b t then some .met else none
  | .filled n k => if k ≤ (a.ring n).filled then some .met else none
  | .free n k => if k ≤ (a.ring n).free then some .met else none

/-- A stalled wait in a cycle: one that holds a slot evaluates its condition, one without a slot when its poll is due, and
either when 65,536 cycles have passed since its issue. Unmet then, or by an SSET, BARM or BRST that has acted on its object, it
ends with met = 0; a poll that finds it unmet is followed by one after twice the interval, at most 8,192 cycles. -/
def WaitSt.settle (w : WaitSt) (a : Arch) (now : Nat) : WaitSt :=
  let late := decide (w.since + 65536 ≤ now)
  let poll := !w.slot && decide (w.nextPoll ≤ now)
  if w.out.isSome || !(w.slot || w.hit || late || poll) then w
  else
    match a.evalCond w.cond with
    | some o => { w with out := if w.slot || late || poll then some o else none, hit := false }
    | none =>
      if w.hit || late then { w with out := some .unmet, hit := false }
      else if poll then { w with interval := min 8192 (2 * w.interval), nextPoll := now + min 8192 (2 * w.interval) }
      else w

/-- Every stalled wait of the core is looked at. -/
def Core.settleWaits (c : Core) (now : Nat) : Core :=
  if (kernelThreads ++ [Thread.chap]).all (fun t => (c.arch.eng t).wait.isNone) then c
  else
    let f (e : Eng) : Eng := { e with wait := e.wait.map (fun (w : WaitSt) => w.settle c.arch now) }
    c.modArch (fun a => { a with engC := f a.engC, engA := f a.engA, engV := f a.engV, engM := f a.engM, chap := f a.chap })

/-- The wait retires: met is written, met = 1 acquires (R233), and the next word issues no sooner than 3 cycles later. -/
def State.waitDone (s : State) (gd : BitVec 5) (n : BitVec 6) (met : Bool) (acq : State → State) : State :=
  let t := if met then acq s else s
  (t.setGBit gd n.toNat met).modEng (fun e => { e with busy := s.cycle + 3 })

/-- A wait instruction at its engine's turn. Its first evaluation is at issue; a stalled one retires by what an
evaluation has found since: with a slot those of settleWaits, without one those of WAIT_POLL events. acq is what met = 1
acquires. -/
def State.waitStep (s : State) (k : WaitCond) (gd : BitVec 5) (n : BitVec 6) (acq : State → State) : Res :=
  match (match s.eng.wait with | none => s.arch.evalCond k | some w => w.out) with
  | some .met => .done (s.waitDone gd n true acq)
  | some .unmet => .done (s.waitDone gd n false acq)
  | some (.trap code ea) => .trap code (some ea)
  | none =>
    let s := if s.eng.wait.isSome then s
      else s.modEng (fun e => { e with wait := some ⟨s.cycle, decide (s.here.slotsUsed < 16), s.cycle + 64, 64, k, false, none⟩ })
    .stall (s.modHere Core.autoCp)

/-- The reader that the acquire of the current thread serves. -/
def State.reader (s : State) : Nat := lReader s.cur.th

/-- What an SWAIT that is met orders (R233): with ord acquire what releases to the semaphore cover, relaxed nothing but for a
FENCE to come. -/
def State.semWaited (s : State) (n ord scope : Nat) : State :=
  if ord = 0 then s.semSees s.cur.core s.cur.th n else s.semAcquire s.cur.core s.reader n scope

/-- What an RWAITF that is met orders: what the publications of the ring's slots cover (R233, R263). -/
def State.ringWaited (s : State) (n : Nat) : State := s.inherits s.cur.core s.reader (ringTok n)

/-! ### Arbitration (R295) -/

/-- The class under which a request of a class competes: an EXPRESS one beyond the cap of the window as HIGH. The cap is 1/16
of the grants that the resource can make in a window. -/
def Walker.eff (w : Walker) (cap win cls : Nat) : Nat :=
  if cls = 0 then (if (if w.win = win then w.express else 0) < cap then 0 else 1) else cls

/-- Grants left in the round for a class. -/
def Walker.left (w : Walker) (cls : Nat) : Nat := if cls = 1 then w.high else if cls = 2 then w.normal else w.background

def Walker.newRound (w : Walker) : Walker := { w with high := 8, normal := 4, background := 1 }

def Walker.grant (w : Walker) (win cls : Nat) : Walker :=
  if cls = 0 then { w with win := win, express := (if w.win = win then w.express else 0) + 1 }
  else if cls = 1 then { w with high := w.high - 1 }
  else if cls = 2 then { w with normal := w.normal - 1 }
  else { w with background := w.background - 1 }

/-- The class that a grant goes to, among the classes of the requests, and the arbiter after it: EXPRESS within its cap
first, then the classes of the round in order. -/
def Walker.choose (w : Walker) (cap win : Nat) (cs : List Nat) : Option (Nat × Walker) :=
  let es := cs.map (w.eff cap win)
  if es.contains 0 then some (0, w.grant win 0)
  else
    let has := [1, 2, 3].filter es.contains
    let w := if has.any (fun k => decide (0 < w.left k)) then w else w.newRound
    (has.find? (fun k => decide (0 < w.left k))).map (fun k => (k, w.grant win k))

end Sys2Proof.Machine
end

