-- ==== Sys2Proof/Machine/Transport.lean ====
section
/-! DEFINITION. Flows, their operations and transport events: what the network changes in a core's sequencer
(R385, R386, R396 to R398). Such a change is kept by a rollback, since an operation that has left the core was
sealed. -/

namespace Sys2Proof.Machine

open Sys2Proof

/-! ### Events (R385, R386) -/

/-- A transport event arises for the sequencer of a core; it waits to be posted (R386, R390). A rollback keeps
it. -/
def Core.raise (c : Core) (e : TEvent) : Core :=
  c.keep (fun a => { a with seq := { a.seq with evwaitq := a.seq.evwaitq ++ [e] } })

/-- The 32 bytes of an event record. -/
def TEvent.bytes (e : TEvent) : List Byte :=
  [e.evt, e.code] ++ natBytes 2 (e.flow % 1024) ++ natBytes 2 e.peer ++ [e.port, e.flg] ++ natBytes 4 e.fsn0.toNat ++
    natBytes 4 e.fsn1.toNat ++ natBytes 8 e.arg.toNat ++ natBytes 8 e.time.toNat

/-- An event that names a flow of the core it goes to; the others name no flow of that core (R386). -/
def TEvent.ofFlow (e : TEvent) : Bool :=
  decide (1 ≤ e.evt.toNat) && decide (e.evt.toNat ≤ 6) || e.evt = 0x0C

/-! ### Flows (R396) -/

/-- A flow that is not open. -/
def Flow.closed : Flow :=
  { id := 0, st := .closed, code := 0, ctx := 0, jki := 0, peer := 0, mode := 0, cls := 0, w := 0, wlast := 0
    target := 0, rto := 0, rlim := 0, cred := false, auto := false, credit := 0, nextFsn := 0, unacked := []
    authCount := 0, authMark := 0, seals := 0, retx := 0, job := 0, myrank := 0 }

def Seq.flow (q : Seq) (n : Nat) : Flow := Store.get Flow.closed q.flows n
def Seq.setFlow (q : Seq) (n : Nat) (f : Flow) : Seq := { q with flows := Store.set Flow.closed q.flows n f }

def Core.flow (c : Core) (n : Nat) : Flow := c.arch.seq.flow n
def Core.modSeq (c : Core) (f : Seq → Seq) : Core := c.modArch (fun a => { a with seq := f a.seq })
def Core.setFlow (c : Core) (n : Nat) (f : Flow) : Core := c.modSeq (fun q => q.setFlow n f)
def Core.modFlow (c : Core) (n : Nat) (f : Flow → Flow) : Core := c.setFlow n (f (c.flow n))

/-- The oldest FSN that is not acknowledged; with none it is the next one (the all-gather example shows oldest = next =
128; log entry 70). -/
def Flow.oldest (f : Flow) : Nat := match f.unacked with | u :: _ => u.fsn | [] => f.nextFsn

/-- A flow reserves no reliability state: mode UUD (R369). -/
def Flow.reliable (f : Flow) : Bool := f.mode ≠ 2

/-- The key slot that sealed a flit of a flow (R385). -/
def Flow.kpOf (f : Flow) (fsn : Nat) : Nat := match f.unacked.find? (fun u => u.fsn = fsn) with | some u => u.hdr.kp.toNat | none => 0

/-- An event of flow n; kp: the key slot concerned. -/
def Core.flowEvent (c : Core) (now n : Nat) (evt code : BitVec 8) (peer : Nat) (port : Option Nat) (kp fsn0 fsn1 arg : Nat) : Core :=
  c.raise { evt := evt, code := code, flow := n, peer := peer, port := (port.map (BitVec.ofNat 8)).getD 0xFF, flg := BitVec.ofNat 8 (kp % 2)
            fsn0 := BitVec.ofNat 32 fsn0, fsn1 := BitVec.ofNat 32 fsn1, arg := BitVec.ofNat 64 arg, time := BitVec.ofNat 64 now }

/-! ### Operations (R398) -/

/-- An increment of a semaphore that an operation names. -/
def Core.opSignal (c : Core) (sm : Option Nat) : Core :=
  match sm with
  | none => c
  | some n => (c.semAdd .outside n 1).autoCp

/-- An operation is DONE: local completion, if it still waits, and ASEM are signalled, and its request is settled. -/
def Core.opDone (c : Core) (o : TOp) : Core :=
  let c := c.modSeq (fun q => { q with ops := q.ops.filter (fun p => p ≠ o) })
  let c := c.modFlow o.flow (fun f => if f.id = o.flowId then { f with unacked := f.unacked.filter (fun u => u.op ≠ o.first) } else f)
  (c.opSignal o.lsem).opSignal o.asem

/-- Whether an operation is DONE: a send when no flit of it waits to be sent or acknowledged, a GET when each
chunk of its reply is marked; an ATOM is ended by its read-modify-write (R398). -/
def Core.opMet (c : Core) (o : TOp) : Bool :=
  match o.kind with
  | 4 =>
    let a := c.realArch
    let b := a.bar o.bar
    (b.waiting || b.finished) && (List.range o.chunks).all (fun k => a.marked b (o.chunk0 + k))
  | 5 => false
  | _ => let f := c.flow o.flow; f.id = o.flowId && !f.unacked.any (fun u => u.op = o.first)

def Core.settleOps (c : Core) : Core :=
  c.arch.seq.ops.foldl (fun (c : Core) o => if c.opMet o then c.opDone o else c) c

/-- A flow goes FAULTED with a code, and a barrier that waits for its GET replies faults with it (R251, R396). -/
def Core.flowStops (c : Core) (core n : Nat) (code : BitVec 8) : Core :=
  let c := c.modFlow n (fun f => { f with st := .faulted, code := code })
  let f := c.flow n
  (c.arch.seq.ops.filter (fun o => o.kind = 4 && o.flowId = f.id)).foldl (fun (c : Core) o =>
    c.faultBar .outside o.bar code
      { va := 0, pc := 0, tag := 0, ctx := f.ctx, code := code, kind := 3, wr := true, mal := false, core := core, obj := 0, sect := 0 }) c

/-- The same, with the event that reports it and carries the code (R396). -/
def Core.flowFault (c : Core) (now core n : Nat) (code evt : BitVec 8) (peer : Nat) (port : Option Nat) (fsn0 fsn1 arg : Nat) : Core :=
  (c.flowStops core n code).flowEvent now n evt code peer port ((c.flow n).kpOf fsn0) fsn0 fsn1 arg

/-- A remote atomic of this core has been performed and its old value has come back (R398). -/
def Core.atomDone (c : Core) (o : TOp) (old : List Byte) : Core :=
  let c := c.shadeRun .seqLmem .outside 512 o.ret o.width
  let c := c.keep (fun a => { a with seq := { a.seq with lmem := Store.put 0 a.seq.lmem o.ret (old.take o.width) } })
  c.opDone o

end Sys2Proof.Machine
end

