-- ==== Sys2Proof/Machine/VectorMem.lean ====
section
/-! DEFINITION. The vector forms that reach scratchpad, rings and operand queues, and the poison check: VLDS,
VSTS (R152 to R154), VPOP (R155), CPUSH, CPOP (R151), VPCHK (R157). -/

namespace Sys2Proof.Machine

open Sys2Proof

/-! ### VLDS and VSTS -/

/-- The fields of a VLDS or VSTS word (R152) inside the VT layout: base register, pitch, offset. -/
def ldBase (f : VT) : BitVec 5 := f.a.extractLsb' 15 5
def ldPitch (f : VT) : Nat := (f.a.extractLsb' 0 15).toNat
def ldOff (f : VT) : Nat := f.b.toNat

/-- The rows of a view with the columns of their containers in view order. -/
def viewRows (o : BitVec 20) : List (Nat × List Nat) :=
  match tView o with
  | 0 => (List.range 16).map (fun i => (i, List.range 64))
  | 1 => [(tIdx o % 16, List.range 64)]
  | 2 => (List.range 16).map (fun i => (i, [tIdx o]))
  | _ => (List.range 16).map (fun i => (i, [(i + tIdx o) % 64]))

/-- Bytes of a container in scratchpad: 3 for a 6-bit type. -/
def ldStep (f : VT) : Nat := if f.ty = 0 then 4 else 3

/-- The spans of a word's rows: row, columns, address, bytes. -/
def State.spans (s : State) (f : VT) : List (Nat × List Nat × Nat × Nat) :=
  (viewRows f.d).map (fun r =>
    let e := (s.g (ldBase f) + BitVec.ofNat 64 (8 * ldOff f + 4 * ldPitch f * r.1)).toNat
    (r.1, r.2, e, r.2.length * ldStep f))

/-- The first failing check over spans in order (R152, R303): alignment, 8 MiB, another context's KEEP range. -/
def State.spanFault (s : State) (xs : List (Nat × List Nat × Nat × Nat)) : Option (BitVec 8 × Option W64) :=
  xs.findSome? (fun x =>
    let e := x.2.2.1
    let n := x.2.2.2
    if e % 4 ≠ 0 then some (Code.misaligned, some (BitVec.ofNat 64 e))
    else if Config.scrBytes < e + n then
      some (Code.reservedField, some (BitVec.ofNat 64 (if Config.scrBytes ≤ e then e else Config.scrBytes)))
    else if s.keepHit s.cur.core s.here.ctx e n then some (Code.privilege, none) else none)

/-- Cycles of a group of rows: the most distinct 128-byte lines of one bank, at least 1 (R153). -/
def groupCycles (xs : List (Nat × Nat)) : Nat :=
  let ls := ((xs.map (fun x => (List.range ((x.1 + x.2 - 1) / 128 - x.1 / 128 + 1)).map (fun k => x.1 / 128 + k))).flatten).eraseDups
  (List.range 32).foldl (fun m b => max m (ls.filter (fun l => l % 32 = b)).length) 1

/-- The occupancy of a VLDS or VSTS, without the cycles that other agents' accesses to a bank add. -/
def spanCycles (xs : List (Nat × List Nat × Nat × Nat)) : Nat :=
  ((chunks 4 (xs.length + 1) (xs.map (fun x => (x.2.2.1, x.2.2.2)))).map groupCycles).sum

/-- Three packed bytes spread into four 8-bit slots, and back (R48). -/
def unpack6 (w : Nat) : Nat := (List.range 4).foldl (fun t h => t + w / 2 ^ (6 * h) % 64 * 2 ^ (8 * h)) 0
def pack6 (w : Nat) : Nat := (List.range 4).foldl (fun t h => t + w / 2 ^ (8 * h) % 64 * 2 ^ (6 * h)) 0

def execVlds (h : Hdr) (f : VT) (s : State) :=
  runWord (.vlds h f) h s (fun s =>
    withBanks s (s.mainRegs [f.d])
      (let xs := s.spans f
       match s.spanFault xs with
       | some (code, ea) => .trap code ea
       | none =>
         let a := s.lview 4
         let cells := (xs.map (fun x =>
           let bs := a.scrRead x.2.2.1 x.2.2.2
           let po := a.scrPoisoned x.2.2.1 x.2.2.2
           x.2.1.zipIdx.map (fun c =>
             let w := leAt bs (ldStep f * c.2) (ldStep f)
             (⟨x.1, c.1, BitVec.ofNat 32 (if f.ty = 0 then w else unpack6 w), po⟩ : Cell)))).flatten
         let occ := spanCycles xs
         let t := s.writeDest f.d .none (6 + occ - (xs.length + 3) / 4) cells
         .done (t.modEng (fun e => { e with busy := s.cycle + occ }))))

/-- The granules that spans touch, with the poison of the rows that supply them (R156): poisoned when one of several is. -/
def suppliedBy (xs : List (Nat × Nat × Bool)) : List (Nat × Bool) :=
  let gs (x : Nat × Nat × Bool) : List Nat := if x.2.1 = 0 then [] else (List.range ((x.1 + x.2.1 - 1) / 64 - x.1 / 64 + 1)).map (fun k => x.1 / 64 + k)
  ((xs.map gs).flatten.eraseDups).map (fun g => (g, xs.any (fun x => x.2.2 && (gs x).contains g)))

/-- VSTS. It retires, and its bytes are performed, 2 cycles after its last write cycle, which the model takes to be the
last cycle of its occupancy: R133 does not say when the write cycles begin (DESIGN CHOICE, log entry 149). Its bytes are seen
in aligned 4-byte parts whatever their type (R154), and each granule it touches takes the mark of the rows that supply it
(R156). -/
def execVsts (h : Hdr) (f : VT) (s : State) :=
  runWord (.vsts h f) h s (fun s =>
    if s.latchRead [f.d] then .trap Code.reservedField none
    else withBanks s (s.mainRegs [f.d])
      (let xs := s.spans f
       match s.spanFault xs with
       | some (code, ea) => .trap code ea
       | none =>
         if xs.any (fun x => s.arch.leased x.2.2.1 x.2.2.2) then .stall s
         else
           let src := (s.source f.d (tShape f.d) none false).cells
           let occ := spanCycles xs
           let per := (xs.headD (0, [], 0, 0)).2.1.length
           let c := xs.zipIdx.foldl (fun (c : Core) x =>
             let cs := (List.range per).map (fun k => src.getD (x.2 * per + k) (0, false))
             let bs := (cs.map (fun v => natBytes (ldStep f) (if f.ty = 0 then v.1.toNat else pack6 v.1.toNat))).flatten
             c.scrWrite .own (.l .v) x.1.2.2.1 bs (cs.any (fun v => v.2)) 4 (s.cycle + occ + 2)) s.here
           let gs := suppliedBy (xs.zipIdx.map (fun x =>
             (x.1.2.2.1, x.1.2.2.2, (List.range per).any (fun k => (src.getD (x.2 * per + k) (0, false)).2))))
           let c := c.modArch (fun a => { a with scrP := gs.foldl (fun st g => Store.set false st g.1 g.2) a.scrP })
           .done (((s.setCore s.cur.core c).modEng (fun e =>
             { e with busy := s.cycle + occ, sts := (e.inst, s.cycle + occ + 2) })).bumpFree)))

/-! ### VPOP -/

def execVpop (h : Hdr) (f : VT) (s : State) :=
  let sh := tShape f.d
  vrun (.vpop h f) h s ⟨[f.d], [], sh, [f.a], false, 4, 1⟩ (fun s t =>
    let a := s.source f.a sh none false
    t.writeDest f.d .none 3 (destCells f.d (fun k i j => a.at sh k i j)))

def execVpopSkip (h : Hdr) (f : VT) (s : State) :=
  runWord (.vpopSkip h f) h s (fun s =>
    let n := tPayload f.b
    if (s.queue (tPayload f.a)).length < n then .stall s
    else .done ((s.popQueue (tPayload f.a) n).modEng (fun e => { e with busy := s.cycle + max 1 ((n + 3) / 4) })))

/-! ### Poison checks (R157, R357, R358) -/

def attOf (w : W32) : Nat := bitsOf w.toNat 10 8

/-- The recoveries of an iteration that ATT counts: those of the one recovered last (R358; log entry 150). -/
def Core.attFor (c : Core) (lc i : Nat) : Nat :=
  match c.attLoop with
  | some r => if r.lc = lc ∧ r.iter = i then attOf c.arch.poisonst else 0
  | none => attOf c.arch.poisonst

/-- A poison check that names iteration i of an active loop with RB = 1: it starts iteration recovery, or lowers
the iteration of the one in progress; with ATT = 3 the tile task is FAULTED. -/
def State.poisonLoop (s : State) (core : CoreId) (lc i : Nat) (pc : W64) : State :=
  let c := s.core core
  if c.attFor lc i = 3 then s.fatalOn core Code.rollbackExhausted pc (BitVec.ofNat 64 i)
  else
    match c.recov with
    | some r => if i < r.iter then s.setCore core { c with recov := some ⟨lc, i⟩ } else s
    | none => s.setCore core { c with recov := some ⟨lc, i⟩, region := .recovery }

def State.setPoisonst (s : State) (bit : Nat) : State :=
  s.modArch (fun a => { a with poisonst := a.poisonst ||| BitVec.ofNat 32 (2 ^ bit) })

/-- VPCHK. EADDR names the register that the operand addresses, after the rotation of R121; R157 does not say whether its
number is that or the encoded one (DESIGN CHOICE, log entry 149). -/
def execVpchk (h : Hdr) (f : VT) (s : State) :=
  runWord (.vpchk h f) h s (fun s =>
    if s.latchRead [f.a] then .trap Code.reservedField none
    else withBanks s (s.mainRegs [f.a])
      (let r := s.regOf f.a
       let rows := ((viewRows f.a).map (fun x => x.1)).filter (fun i => s.arch.rowMark (tLvl f.a) r i)
       match rows with
       | [] => .done s
       | i :: _ =>
         if f.fn = 1 then .done (s.setPoisonst 2)
         else
           let t := s.setPoisonst 0
           match s.here.rbLoop s.eng with
           | some (lc, it) =>
             if s.here.attFor lc it = 3 then .gone (t.poisonLoop s.cur.core lc it s.eng.pc)
             else .done (t.poisonLoop s.cur.core lc it s.eng.pc)
           | none =>
             let ea : Option W64 :=
               if tLvl f.a = 0 then some (BitVec.ofNat 64 (r * 16 + i))
               else if tLvl f.a = 1 then some (BitVec.ofNat 64 (0x400 + r * 16 + i)) else none
             .gone (t.trap Code.poisonConsumed ea)))

/-! ### CPUSH and CPOP -/

/-- Containers of a slot of a kind-V ring. -/
def Ring.perSlot (r : Ring) : Nat := max 1 (r.slot / 4)

/-- Writes containers into the slots from sequence position p of the ring on (in containers). -/
def Core.ringFill (c : Core) (r : Ring) (p : Nat) (vs : List (W32 × Bool)) : Core :=
  vs.zipIdx.foldl (fun (c : Core) v =>
    let q := p + v.2
    c.scrWrite .own (.l .v) (r.slotAddr (q / r.perSlot) + 4 * (q % r.perSlot)) (natBytes 4 v.1.1.toNat) v.1.2) c

/-- The scratchpad range of the open slot and those after it that n containers from position p reach is leased. -/
def Core.ringLeased (c : Core) (r : Ring) (p n : Nat) : Bool :=
  (List.range n).any (fun k => c.arch.leased (r.slotAddr ((p + k) / r.perSlot) + 4 * ((p + k) % r.perSlot)) 4)

/-- CPUSH. It belongs to the lane network and has no destination view, so its latch takes an image of 0 (R64, R133,
log entry 130). It waits only for the slots it will publish: containers of an open slot that is not free yet wait in the
ring until a later CPUSH finds it free (log entry 130). -/
def execCpush (h : Hdr) (f : VM) (s : State) :=
  runWord (.cpush h f) h s (fun s =>
    let n := f.ring.toNat
    let r := s.arch.ring n
    let flush := f.fn = 1
    if s.latchRead [f.a] then .trap Code.reservedField none
    else owned (s.ringOk n)
      (if !r.opened ∨ r.prod ≠ 2 then .trap Code.reservedField none
       else withBanks s (f.mreg.toNat :: s.mainRegs [f.a])
        (let x := s.source f.a (tShape f.a) none false
         let m := s.maskAt f
         let vs := ((viewPos f.a).zipIdx.filter (fun p => (m p.1.1 p.1.2).1)).map (fun p => x.cont p.2)
         let total := r.fill / 4 + vs.length
         let pad := if flush && decide (total % r.perSlot ≠ 0) then r.perSlot - total % r.perSlot else 0
         let full := (total + pad) / r.perSlot
         let p := r.pub * r.perSlot + r.fill / 4 - r.rest.length
         let vs := r.rest ++ vs ++ List.replicate pad (0, false)
         let k := if full < r.nslot - r.filled then vs.length else min vs.length ((r.pub + full) * r.perSlot - p)
         if !vs.isEmpty ∧ r.nslot - r.filled < full then .stall s
         else if s.here.ringLeased r p k then .stall s
         else
           let c := (s.here.ringFill r p (vs.take k)).modArch (fun a => a.modRing n (fun r =>
             { (r.publish full) with fill := 4 * ((total + pad) % r.perSlot), rest := vs.drop k }))
           let c := c.writeLatch .net (s.cycle + 10) s.cycle s.cur.th s.eng.noLatch []
           let occ := if tShape f.a = 1 then 1 else 4
           .done (((s.setCore s.cur.core c).modEng (fun e => { e with busy := s.cycle + occ })).bumpFree))))

def execCpop (h : Hdr) (f : VM) (s : State) :=
  runWord (.cpop h f) h s (fun s =>
    let n := f.ring.toNat
    let r := s.arch.ring n
    owned (s.ringOk n)
      (if !r.opened ∨ r.prod ≠ 2 then .trap Code.reservedField none
       else withBanks s (s.mainRegs [f.d])
        (let k := shapeLen (tShape f.d)
         if r.filled * r.perSlot < r.taken + k then .stall s
         else
           let a := s.lview 4
           let at' (j : Nat) : W32 × Bool :=
             let q := r.taken + j
             let e := r.slotAddr (r.cons + q / r.perSlot) + 4 * (q % r.perSlot)
             (leW32 (a.scrRead e 4) 0, a.scrPoisoned e 4)
           let t := s.writeDest f.d .net 10 (destCells f.d (fun j _ _ => at' j))
           let t := t.modArch (fun a => a.modRing n (fun r =>
             { r with cons := r.cons + (r.taken + k) / r.perSlot, taken := (r.taken + k) % r.perSlot }))
           .done (t.modEng (fun e => { e with busy := s.cycle + (if tShape f.d = 1 then 1 else 4) })))))

end Sys2Proof.Machine
end

