-- ==== Sys2Proof/Machine/Matrix.lean ====
section
/-! DEFINITION. The systolic arrays (R158 to R185): shapes of a pass, plane loads and their states, passes and
their sums (R55 to R57), the accumulator forms, leases, ports, and the events of a plane load and of a lease.
Every value of an M word is computed at its issue; times follow R182. -/

namespace Sys2Proof.Machine

open Sys2Proof

/-! ### Shapes (R158, R166) -/

def mKp (f : MX) : Nat :=
  match widerWidth f with | 1 => 1536 | 2 => 768 | 4 => 384 | 8 => 192 | _ => 96

/-- Cycles per streamed row. -/
def mCpr (f : MX) : Nat := if widerWidth f = 32 then 4 else 1

/-- Stored values in a group of 48 positions. -/
def mGroup (f : MX) : Nat := match f.sp.toNat with | 1 => 24 | 2 => 16 | 3 => 12 | _ => 48

/-- Dense positions that a pass covers. -/
def mKps (f : MX) : Nat := mKp f * 48 / mGroup f

/-- Bits of an element in scratchpad and in a plane (R47). -/
def mBits (t : BitVec 5) : Nat := if isSixBit t then 6 else typeWidth t

/-- Containers per accumulator: two for the INT64 pair (R55, R168). -/
def mStride (f : MX) : Nat := if f.ta = 0x14 ∨ f.tb = 0x14 then 2 else 1

/-- The arrays that a word names. -/
def mArrs (f : MX) : List Bool := if f.arr = 0 then [false] else if f.arr = 1 then [true] else [false, true]

def mBoth (f : MX) : Bool := f.arr = 2

def Arch.arr (a : Arch) (x : Bool) : Arr := if x then a.m1 else a.m0
def Arch.modArr (a : Arch) (x : Bool) (g : Arr → Arr) : Arch :=
  if x then { a with m1 := g a.m1 } else { a with m0 := g a.m0 }

/-- The configuration that a word takes its shape from: M0's with m01 (R160). -/
def Arch.mcfgOf (a : Arch) (f : MX) : ArrCfg := (a.arr (f.arr = 1)).cfg

def mSpa (f : MX) : Nat := f.spa.toNat * 128
def mAcc (f : MX) : Nat := f.acc.toNat
def mCount (f : MX) : Nat := (f.tile.toNat + 1) * 1024

/-! ### Planes (R164) -/

def Arr.stationary (r : Arr) : Plane := if r.joined then r.p0 else r.plane r.stat1

/-- A load is still arriving in the shadow plane or the joined pair. -/
def Arr.loading (r : Arr) : Bool := if r.joined then r.p0.st = .loading else r.shadow.st = .loading

/-- A plane agrees with a pass word and is READY (R164). -/
def Plane.serves (p : Plane) (f : MX) : Bool :=
  p.st = .ready && p.ta = f.ta && p.tb = f.tb && p.sp = f.sp && p.mv == (f.mv = 1) && (f.mv = 0 || p.nv = f.nv.toNat)

/-! ### Bits of byte streams (R47) -/

def bitsAt (bs : Array Byte) (o w : Nat) : Nat :=
  (List.range 5).foldl (fun t j => t + (bs.getD (o / 8 + j) 0).toNat * 256 ^ j) 0 / 2 ^ (o % 8) % 2 ^ w

/-- Writes w bits at bit o of a byte store. -/
def putBits (st : Store Byte) (o w x : Nat) : Store Byte :=
  let old := bytesNat (Store.run 0 st (o / 8) 5)
  let m := 2 ^ (o % 8)
  Store.put 0 st (o / 8) (natBytes 5 (old - old / m % 2 ^ w * m + x % 2 ^ w * m))

/-- Bytes of 8-bit slots to the packed layout of a type, when it has 6 bits. -/
def packBytes (t : BitVec 5) (bs : List Byte) : List Byte :=
  if isSixBit t then ((chunks 4 (bs.length + 1) bs).map (fun q => natBytes 3 (pack6 (bytesNat q)))).flatten else bs

/-! ### Scratchpad ranges -/

/-- Rows of an operand: first address, pitch, number of rows, bytes of each. -/
structure MRange where
  first : Nat
  pitch : Nat
  rows : Nat
  len : Nat

def MRange.row (r : MRange) (k : Nat) : Nat := r.first + k * r.pitch
def MRange.last (r : MRange) : Nat := r.row (r.rows - 1) + r.len

/-- Check 4, item 2: the first byte at 8 MiB or beyond; then other contexts' KEEP ranges (R303). -/
def State.mRangeFault (s : State) (rs : List MRange) : Option (BitVec 8 × Option W64) :=
  rs.findSome? (fun r =>
    match (List.range r.rows).find? (fun k => decide (Config.scrBytes < r.row k + r.len)) with
    | some k => some (Code.reservedField, some (BitVec.ofNat 64 (max (r.row k) Config.scrBytes)))
    | none =>
      if (List.range r.rows).any (fun k => s.keepHit s.cur.core s.here.ctx (r.row k) r.len) then
        some (Code.privilege, none)
      else none)

/-- A barrier tile as an operand (R173, R248): its rows in scratchpad. -/
def Bar.tileRange (b : Bar) (t : Nat) : MRange :=
  if b.tiled then ⟨b.base + t / b.tw * b.trs + t % b.tw * b.tcs, b.pitch, b.trows, b.tbytes⟩
  else ⟨b.base + 512 * t, 512, 1, b.chunkLen t⟩

/-- The operand of an MLDW or MSTR: a range of rows × len bytes from spa with the configured pitch, or in a
barrier tile. A stalled word gives none; a bad tile a code. A barrier whose bytes are in virtual memory supplies
no operand (log entry 40). -/
inductive MOperand where
  | range (r : MRange)
  | stall
  | bad (code : BitVec 8)

def State.mOperand (s : State) (f : MX) (pitch rows len : Nat) : MOperand :=
  if f.bt = 0 then .range ⟨mSpa f, pitch, rows, len⟩
  else if !s.barOk f.bar.toNat then .bad Code.privilege
  else
    let b := s.arch.bar f.bar.toNat
    if b.st = .idle then .stall
    else if b.tiles ≤ f.tile.toNat ∨ !b.spb then .bad Code.reservedField
    else
      let r := b.tileRange f.tile.toNat
      if r.rows < rows ∨ r.len < len then .bad Code.reservedField
      else if b.st = .faulted ∨ !s.arch.tileDone b f.tile.toNat then .stall
      else .range ⟨r.first, r.pitch, rows, len⟩

/-! ### Issue of an M word (R171, R181, R182) -/

/-- An M word issues: the flights that have retired go, and its own is added. -/
def State.mIssue (s : State) (arrs : List Bool) (accForm load : Bool) (doneAt : Nat) : State :=
  s.modArch (fun a =>
    { a with mflight := a.mflight.filter (fun m => decide (s.cycle < m.doneAt)) ++
        [⟨a.engM.inst - 1, arrs.contains false, arrs.contains true, accForm, load, doneAt⟩] })

/-- Takes leases of ranges until a cycle; those that are due have been released. -/
def Arch.lease (a : Arch) (rs : List MRange) (doneAt : Nat) : Arch :=
  { a with leases := a.leases ++ rs.map (fun r => ⟨r.first, r.last, doneAt⟩) }

/-- Leases needed are not free. -/
def Arch.leaseLack (a : Arch) (n : Nat) : Bool := decide (16 < a.leases.length + n)

def Arch.portBusy (a : Arch) (xs : List Bool) (now : Nat) (p : Arr → Nat) : Bool :=
  xs.any (fun x => decide (now < p (a.arr x)))

/-! ### MCFG (R163, R176) -/

/-- The configuration of a record, none when a field is out of range or a reserved one is not 0. -/
def mcfgRecord (bs : List Byte) : Option ArrCfg :=
  let mrows := leAt bs 0 2
  let pa := leAt bs 4 4
  let pb := leAt bs 8 4
  let sa := leAt bs 0x0C 4
  let sb := leAt bs 0x10 4
  let mode := leAt bs 0x18 4
  if mrows = 0 ∨ 4096 < mrows ∨ leAt bs 2 2 ≠ 0 ∨ pa % 4 ≠ 0 ∨ 2 ^ 23 ≤ pa ∨ pb % 4 ≠ 0 ∨ 2 ^ 23 ≤ pb ∨ 2 ^ 23 ≤ sa ∨
      2 ^ 23 ≤ sb ∨ 4 ≤ mode ∨ leAt bs 0x1C 36 ≠ 0 then none
  else some ⟨mrows, pa, pb, sa, sb, leW32 bs 0x14, mode % 2 = 1, mode / 2 = 1⟩

def execMcfg (h : Hdr) (f : MX) (s : State) :=
  runWord (.mcfg h f) h s (fun s =>
    match s.mRangeFault [⟨mSpa f, 0, 1, 64⟩] with
    | some (code, ea) => .trap code ea
    | none =>
      if s.arch.scrPoisoned (mSpa f) 64 then .trap Code.poisonConsumed (some (BitVec.ofNat 64 (mSpa f)))
      else
        match mcfgRecord ((s.lview 4).scrRead (mSpa f) 64) with
        | none => .trap Code.reservedField none
        | some c =>
          let t := s.modArch (fun a => (mArrs f).foldl (fun a x => a.modArr x (fun r => { r with cfg := c })) a)
          .done (t.mIssue (mArrs f) false false (s.cycle + 2)))

/-! ### Stationary loads (R164, R167, R177) -/

/-- Shadow records of the granules of a plane's elements and scales (R170, R351). -/
def Core.shadePlane (c : Core) (x k : Bool) (n : Nat) : Core :=
  (List.range (min 96 ((n + 511) / 512))).foldl
    (fun c g => c.shade .plane .own ((if x then 512 else 0) + (if k then 256 else 0) + g)) c

/-- The blocks of scales of a stationary operand. -/
def mBlocks (f : MX) (t : BitVec 5) : Nat := if blockLen t = 0 then 0 else mKps f / blockLen t

/-- Bytes of one plane row of 256 elements. -/
def mRowLen (f : MX) : Nat := 32 * mBits f.ta

/-- Starts a load on array x: the planes that take it are LOADING, with no contents yet; bytes says how much of
each is written. -/
def Core.startLoad (c : Core) (f : MX) (x : Bool) : Core :=
  let r := c.arch.arr x
  let fresh : Plane := ⟨.loading, f.ta, f.tb, f.sp, f.mv = 1, f.nv.toNat, [], [], [], false, none⟩
  if f.ta = 0 then
    let c := (c.shadePlane x false 49152).shadePlane x true 49152
    c.modArch (fun a => a.modArr x (fun r => { r with p0 := fresh, p1 := fresh, joined := true }))
  else
    let c := c.shadePlane x (!r.stat1) (mKp f * mRowLen f + 256 * mBlocks f f.ta)
    if r.joined then
      c.modArch (fun a => a.modArr x (fun r =>
        ({ r with joined := false } : Arr).setPlane r.stat1 Plane.reset |>.setPlane (!r.stat1) fresh))
    else c.modArch (fun a => a.modArr x (fun r => r.setPlane (!r.stat1) fresh))

/-- Changes the planes that a load of array x fills: g takes the plane and whether it is the second of a joined
pair. -/
def Arr.loadInto (r : Arr) (g : Bool → Plane → Plane) : Arr :=
  if r.joined then { r with p0 := g false r.p0, p1 := g true r.p1 } else r.setPlane (!r.stat1) (g false r.shadow)

/-- Bytes of the elements put at an offset of the stationary operand: a joined pair splits after 48 KiB. -/
def Arr.loadBytes (r : Arr) (off : Nat) (bs : List Byte) : Arr :=
  r.loadInto (fun second p =>
    if !r.joined then { p with elems := Store.put 0 p.elems off bs }
    else if second then
      { p with elems := if off + bs.length ≤ 49152 then p.elems
                        else Store.put 0 p.elems (off - 49152) (bs.drop (49152 - off)) }
    else { p with elems := Store.put 0 p.elems off (bs.take (49152 - off)) })

/-- Elements of one column put from row k on (R167). -/
def Arr.loadColumn (r : Arr) (w v k : Nat) (xs : List Nat) : Arr :=
  r.loadInto (fun second p =>
    { p with elems := xs.zipIdx.foldl (fun st e =>
        let row := k + e.2
        if r.joined then
          if (decide (48 ≤ row)) == second then putBits st ((row % 48 * 256 + v) * w) w e.1 else st
        else putBits st ((row * 256 + v) * w) w e.1) p.elems })

def Arr.loadScales (r : Arr) (off : Nat) (bs : List Byte) : Arr :=
  r.loadInto (fun second p => if second then p else { p with scales := Store.put 0 p.scales off bs })

def Arr.loadPoison (r : Arr) (po : Bool) : Arr := r.loadInto (fun _ p => { p with poison := p.poison || po })

def Arr.loadEnds (r : Arr) (at' : Nat) : Arr :=
  ({ r with portLoad := at' } : Arr).loadInto (fun _ p => { p with loadDone := some at' })

/-- What holds a load back at issue: a load still arriving, the port, or for a joined pair passes that still
read (R164, R182). -/
def Arch.loadHeld (a : Arch) (f : MX) (now : Nat) : Bool :=
  (mArrs f).any (fun x =>
    let r := a.arr x
    r.loading || decide (now < r.portLoad) || ((f.ta = 0 || r.joined) && decide (now < r.portStream)))

/-- The rows and the scales of a stationary operand in scratchpad. -/
def mldShape (f : MX) : Nat × Nat :=
  if f.mv = 1 then (f.nv.toNat + 1, mKp f * mBits f.ta / 8)
  else (mKp f, mRowLen f * (if mBoth f then 2 else 1))

/-- Columns of a scale row: 256, or 512 with m01 (R161). -/
def mScaleRow (f : MX) : Nat := if mBoth f then 512 else 256

/-- Fills array x from scratchpad rows and scales, as M sees them in v; with m01 each array takes its half of a row, and
its own half's poison. -/
def Arch.fillFrom (a v : Arch) (f : MX) (r sc : MRange) (x : Bool) : Arch :=
  let w := mBits f.ta
  let side := if mBoth f && x && f.mv = 0 then 1 else 0
  let half := mBoth f && f.mv = 0
  let po := (List.range r.rows).any (fun k =>
      if half then a.scrPoisoned (r.row k + side * mRowLen f) (mRowLen f) else a.scrPoisoned (r.row k) r.len) ||
    (List.range sc.rows).any (fun b =>
      if half then a.scrPoisoned (sc.row b + 256 * side) 256 else a.scrPoisoned (sc.row b) sc.len)
  let fill (m : Arr) : Arr :=
    if f.mv = 1 then
      (List.range r.rows).foldl (fun m q =>
        let bs := (v.scrRead (r.row q) r.len).toArray
        m.loadColumn w q 0 ((List.range (mKp f)).map (fun k => bitsAt bs (k * w) w))) m
    else m.loadBytes 0 (((List.range r.rows).map (fun k => v.scrRead (r.row k + side * mRowLen f) (mRowLen f))).flatten)
  a.modArr x (fun m =>
    let m := fill m
    let m := (List.range sc.rows).foldl (fun m b => m.loadScales (256 * b) (v.scrRead (sc.row b + 256 * side) 256)) m
    m.loadPoison po)

/-- The wait for a barrier tile is an acquire, for what M reads later too (R233). -/
def State.mAcquire (s : State) (f : MX) : State :=
  if f.bt = 1 then s.tileAcquire s.cur.core (lReader .m) f.bar.toNat (some f.tile.toNat) else s

/-- Scratchpad as an M word reads it (R172, R233): with a barrier tile as its operand, what was placed is acquired. -/
def State.mview (s : State) (f : MX) : Arch :=
  (s.mAcquire f).lview 4

def execMldw (h : Hdr) (f : MX) (s : State) :=
  runWord (.mldw h f) h s (fun s =>
    let a := s.arch
    let c := a.mcfgOf f
    let sh := mldShape f
    match s.mOperand f c.pitchA sh.1 sh.2 with
    | .bad code => .trap code none
    | .stall => .stall s
    | .range r =>
      let sc : MRange := ⟨c.sclA, mScaleRow f, mBlocks f f.ta, if f.mv = 1 then f.nv.toNat + 1 else mScaleRow f⟩
      match s.mRangeFault (if sc.rows = 0 then [r] else [r, sc]) with
      | some (code, ea) => .trap code ea
      | none =>
        let rs := if sc.rows = 0 then [r] else [r, sc]
        if a.loadHeld f s.cycle ∨ a.leaseLack rs.length then .stall s
        else
          let n := (sh.1 * sh.2 / (if mBoth f && f.mv = 0 then 2 else 1) + 255) / 256 +
            (sc.rows * (min 256 sc.len) + 255) / 256
          let v := s.mview f
          let t := (s.mAcquire f).modHere (fun c => (mArrs f).foldl (fun c x => c.startLoad f x) c)
          let t := t.modArch (fun b => ((mArrs f).foldl (fun b x =>
            (b.fillFrom v f r sc x).modArr x (fun m => m.loadEnds (s.cycle + n))) b).lease rs (s.cycle + n))
          .done (t.mIssue (mArrs f) false true (s.cycle + n + 4)))

/-- Slot bytes per element row or vector of a queue operand (R162). -/
def mEntries (n w : Nat) : Nat := (n * w / 8 + 255) / 256

/-- The entries that an MLDWQ takes in all: per array its elements then its scale rows; in vector mode one set
for both. A scale row takes one entry of 256 bytes for each array, with m01 too: R162 gives M0's entries before M1's, and
does not say which bytes of a row of C = 512 each array's entries hold (DESIGN CHOICE, log entry 149). -/
def mldqEntries (f : MX) : Nat :=
  if f.mv = 1 then (f.nv.toNat + 1) * mEntries (mKp f) (typeWidth f.ta) + mBlocks f f.ta
  else (mKp f * typeWidth f.ta / 8 + mBlocks f f.ta) * (mArrs f).length

/-- Puts entry i of an MLDWQ where it belongs. -/
def Arch.takeEntry (a : Arch) (f : MX) (i : Nat) (e : OqEnt) : Arch :=
  let sw := typeWidth f.ta
  let w := mBits f.ta
  if f.mv = 1 then
    let per := mEntries (mKp f) sw
    let nv := (f.nv.toNat + 1) * per
    let put (m : Arr) : Arr :=
      if i < nv then
        let k := i % per * (2048 / sw)
        let n := min (2048 / sw) (mKp f - k)
        (m.loadColumn w (i / per) k ((List.range n).map (fun j => bitsAt e.bytes.toArray (j * sw) w))).loadPoison e.poison
      else (m.loadScales (256 * (i - nv)) e.bytes).loadPoison e.poison
    (mArrs f).foldl (fun a x => a.modArr x put) a
  else
    let ne := mKp f * sw / 8
    let per := ne + mBlocks f f.ta
    let x := if mBoth f then decide (per ≤ i) else f.arr = 1
    let j := i % per
    a.modArr x (fun m =>
      (if j < ne then m.loadBytes (j * (256 * w / sw)) (packBytes f.ta e.bytes) else m.loadScales (256 * (j - ne)) e.bytes).loadPoison
        e.poison)

/-- A queue-fed M word takes what its queue holds; with all of it taken the word issues its end. Pops are in
order, and a dry queue stalls the word (R177, R178). step takes entries j on, each of which enters in cost cycles; fin
ends the word, given the cycle by which the last has entered (R182). A pass that has taken a row is issued: it no longer
yields to a stop (R184), while a load's stalled pop does (R177). -/
def State.mDrain (s : State) (q per total cost : Nat) (pass : Bool) (start : State → State)
    (step : State → Nat → List OqEnt → State) (fin : State → Nat → State) : Res :=
  let t := if s.eng.prog = 0 then start s else s
  let n := min ((s.queue q).length / per) (total - s.eng.prog)
  let fed := (if s.eng.prog = 0 then s.cycle else max s.cycle s.eng.fed) + n * cost
  if n = 0 then (if s.eng.issued then .wait s else .stall s)
  else
    let t := (List.range n).foldl (fun t j => step t (s.eng.prog + j) (((s.queue q).drop (j * per)).take per)) t
    let t := t.popQueue q (n * per)
    if s.here.panLacks t.here then .gone s.panStall
    else if s.eng.prog + n = total then .done (fin t fed)
    else
      let t := t.modEng (fun e => { e with prog := e.prog + n, fed := fed, issued := pass, stalled := false })
      if pass then .wait t else .stall t

def execMldwq (h : Hdr) (f : MX) (s : State) :=
  runWord (.mldwq h f) h s (fun s =>
    if s.eng.prog = 0 ∧ s.arch.loadHeld f s.cycle then .stall s
    else
      s.mDrain (f.spa.extractLsb' 0 3).toNat 1 (mldqEntries f) 1 false
        (fun t => t.modHere (fun c => (mArrs f).foldl (fun c x => c.startLoad f x) c))
        (fun t j es => t.modArch (fun a => (es.zipIdx.foldl (fun a e => a.takeEntry f (j + e.2) e.1) a)))
        (fun t fed =>
          (t.modArch (fun a => (mArrs f).foldl (fun a x => a.modArr x (fun m => m.loadEnds fed)) a)).mIssue
            (mArrs f) false true (fed + 4)))

/-! ### MSPM and MSWAP (R165, R166, R177) -/

/-- Bytes of the masks of one array. -/
def mMaskBytes (f : MX) : Nat := 2048 * (mKps f / 48)

def execMspm (h : Hdr) (f : MX) (s : State) :=
  runWord (.mspm h f) h s (fun s =>
    let a := s.arch
    let r : MRange := ⟨mSpa f, 0, 1, mMaskBytes f * (mArrs f).length⟩
    let fits (x : Bool) : Bool :=
      let m := a.arr x
      let p := m.shadow
      !m.joined && (p.st = .loading || p.st = .needmeta) && p.ta = f.ta && p.tb = f.tb && p.sp = f.sp
    match s.mRangeFault [r] with
    | some (code, ea) => .trap code ea
    | none =>
      if !(mArrs f).all fits then .trap Code.reservedField none
      else if (mArrs f).any (fun x => (a.arr x).loading || decide (s.cycle < (a.arr x).portLoad)) ∨ a.leaseLack 1 then .stall s
      else
        let n := (mMaskBytes f + 255) / 256
        let t := s.modHere (fun c => (mArrs f).foldl (fun c x =>
          let k := !(c.arch.arr x).stat1
          (List.range ((mMaskBytes f + 511) / 512)).foldl (fun c g =>
            c.shade .plane .own ((if x then 512 else 0) + (if k then 256 else 0) + 96 + g)) c) c)
        let v := s.lview 4
        let t := t.modArch (fun b => ((mArrs f).foldl (fun b x =>
          let off := mSpa f + (if mBoth f && x then mMaskBytes f else 0)
          b.modArr x (fun m =>
            let p := m.shadow
            ({ m with portLoad := s.cycle + n } : Arr).setPlane (!m.stat1)
              { p with masks := Store.put 0 [] 0 (v.scrRead off (mMaskBytes f)), loadDone := some (s.cycle + n)
                       poison := p.poison || b.scrPoisoned off (mMaskBytes f) })) b).lease [r] (s.cycle + n))
        .done (t.mIssue (mArrs f) false true (s.cycle + n + 4)))

def execMswap (h : Hdr) (f : MX) (s : State) :=
  runWord (.mswap h f) h s (fun s =>
    let a := s.arch
    if (mArrs f).any (fun x => (a.arr x).joined || (a.arr x).shadow.st = .needmeta) then .trap Code.reservedField none
    else if (mArrs f).any (fun x => (a.arr x).loading || decide (s.cycle < (a.arr x).portStream)) then .stall s
    else
      .done (s.modArch (fun a => (mArrs f).foldl (fun a x => a.modArr x (fun r => { r with stat1 := !r.stat1 })) a)))

/-! ### Passes (R55 to R57, R166, R168, R178) -/

/-- A streamed row: its bytes, the width of its elements in them, its scale bytes, its poison. -/
structure MRow where
  bytes : Array Byte
  width : Nat
  scales : Array Byte
  poison : Bool

/-- The value of an element with its block's scale (R49, R50). -/
def mVal (t : BitVec 5) (bits : Nat) (scales : Nat → Nat) (k : Nat) : Val :=
  let v := elemVal t.toNat bits
  if blockLen t = 0 then v else scaled v (scaleVal t.toNat (scales (k / blockLen t)))

/-- A streamed row's value at position k. -/
def MRow.val (r : MRow) (t : BitVec 5) (k : Nat) : Val :=
  mVal t (bitsAt r.bytes (k * r.width) r.width) (fun b => (r.scales.getD b 0).toNat) k

/-- A stationary operand as a pass reads it. -/
structure MStat where
  elems : Array Byte
  scales : Array Byte
  masks : Array Byte
  poison : Bool

def Arr.stat (r : Arr) (f : MX) : MStat :=
  let n := mKp f * mRowLen f
  let p := r.stationary
  { elems := (if r.joined then Store.run 0 r.p0.elems 0 49152 ++ Store.run 0 r.p1.elems 0 49152
              else Store.run 0 p.elems 0 n).toArray
    scales := (Store.run 0 p.scales 0 (256 * mBlocks f f.ta)).toArray
    masks := (if f.sp = 0 then [] else Store.run 0 p.masks 0 (mMaskBytes f)).toArray
    poison := p.poison || (r.joined && r.p1.poison) }

/-- The 1 bits of a mask below bit i. -/
def onesBelow (m i : Nat) : Nat := ((List.range i).filter (fun j => m.testBit j)).length

/-- The stationary value at dense position k of column n; none where the sparse operand has none (R166). -/
def MStat.val (x : MStat) (f : MX) (k n : Nat) : Option Val :=
  let w := mBits f.ta
  let at' (row : Nat) : Val :=
    mVal f.ta (bitsAt x.elems ((row * 256 + n) * w) w) (fun b => (x.scales.getD (256 * b + n) 0).toNat) row
  if f.sp = 0 then some (at' k)
  else
    let g := k / 48
    let m := bytesNat ((List.range 6).map (fun b => x.masks.getD (8 * (n * (mKps f / 48) + g) + b) 0))
    let j := onesBelow m (k % 48)
    if m.testBit (k % 48) && decide (j < mGroup f) then some (at' (g * mGroup f + j)) else none

/-- prod(k): an exact product, +0 where the stationary operand has no value. -/
def mProd (f : MX) (r : MRow) (x : MStat) (n k : Nat) : Val :=
  match x.val f k n with
  | some w => mulVal (r.val f.tb k) w
  | none => .zero false

/-- trunc_toward_zero(p, 2^q) of R56. -/
def truncVal (q : Int) : Val → Val
  | .fin neg n d e =>
    if n = 0 ∨ q ≤ e then .fin neg n d e else .fin neg (n / (d * 2 ^ (q - e).toNat)) 1 q
  | v => v

/-- The terms of a group, truncated when an operand is FP32, BF16 or FP16. -/
def groupTerms (f : MX) (ps : List Val) : List Val :=
  if isVecFloat f.ta || isVecFloat f.tb then
    match ((ps.filter (fun p => p.isFin && !p.isZero)).map (fun p =>
        match p with | .fin _ n d e => magLog n d e | _ => 0)).max? with
    | none => ps
    | some e => ps.map (truncVal (e - 50))
  else ps

/-- A floating container after a pass: groups of 32 in ascending order, one rounding each (R56). -/
def floatPass (f : MX) (prod : Nat → Val) (acc : Nat) : Nat :=
  (List.range (mKps f / 32)).foldl (fun acc g =>
    roundF32 (sumVals 0 (f32Val acc :: groupTerms f ((List.range 32).map (fun j => prod (32 * g + j)))))) acc

/-- The integer a value of an integer, ternary or binary type stands for. -/
def Val.int : Val → Int
  | .fin neg n _ _ => if neg then -(n : Int) else n
  | _ => 0

/-- An integer container after a pass: the exact sum, wrapped or saturated once (R57). -/
def intPass (f : MX) (sat : Bool) (prod : Nat → Val) (acc : Nat) : Nat :=
  let w := 32 * mStride f
  let sum : Int := (List.range (mKps f)).foldl (fun t k => t + (prod k).int) 0
  intStore w true sat (intVal w true acc + sum)

/-- A container's update by a streamed row, from its old contents. -/
def mUpdate (f : MX) (sat : Bool) (r : MRow) (x : MStat) (n acc : Nat) : Nat :=
  if accClass f.ta = some 0 then floatPass f (mProd f r x n) acc else intPass f sat (mProd f r x n) acc

/-- Containers of an accumulator as a number. -/
def Arch.accGet (a : Arch) (k st : Nat) : Nat :=
  (Store.get 0 a.acc k).toNat + (if st = 2 then (Store.get 0 a.acc (k + 1)).toNat * 2 ^ 32 else 0)

/-- Writes containers with the marks and shadow records of their runs and granules (R170, R185). -/
def Core.accPut (c : Core) (k : Nat) (vs : List W32) (poison keepMarks : Bool) : Core :=
  (c.shadeRun .acc .own 128 k vs.length).modArch (fun a =>
    { a with acc := Store.put 0 a.acc k vs
             accP := if keepMarks && !poison then a.accP else markWrite a.accP 256 k vs.length poison })

/-- The outputs that a streamed row feeds: array, column or vector (R160, R167, R168). -/
def mOuts (f : MX) (m : Nat) : List (Bool × Nat) :=
  if f.mv = 1 then
    let x := if mBoth f then m % 2 = 1 else f.arr = 1
    (List.range (f.nv.toNat + 1)).map (fun v => (x, v))
  else ((mArrs f).map (fun x => (List.range 256).map (fun n => (x, n)))).flatten

/-- Accumulators per streamed row. -/
def mPerRow (f : MX) : Nat := if f.mv = 1 then f.nv.toNat + 1 else 256 * (mArrs f).length

/-- Row m of a pass. -/
def Core.passRow (c : Core) (f : MX) (x0 x1 : MStat) (m : Nat) (r : MRow) : Core :=
  let st := mStride f
  let base := mAcc f + st * (m * mPerRow f)
  let a := c.arch
  let outs := mOuts f m
  let vals := (outs.zipIdx.map (fun o =>
    let acc := if f.z = 1 then 0 else a.accGet (base + st * o.2) st
    let v := mUpdate f (a.arr o.1.1).cfg.sat r (if o.1.1 then x1 else x0) o.1.2 acc
    (List.range st).map (fun h => BitVec.ofNat 32 (v / 2 ^ (32 * h))))).flatten
  let c := c.accPut base vals false true
  (mArrs f).foldl (fun c x =>
    let po := r.poison || (if x then x1.poison else x0.poison)
    let lo := (outs.findIdx? (fun o => o.1 = x)).getD 0
    let n := (outs.filter (fun o => o.1 = x)).length
    if po then c.modArch (fun a => { a with accP := markWrite a.accP 256 (base + st * lo) (st * n) true }) else c) c

/-- The checks of a pass after its scratchpad ranges: accumulators, alignment, planes (R175). -/
def State.passFault (s : State) (f : MX) : Option (BitVec 8) :=
  let rows := (s.arch.mcfgOf f).mrows
  if 2 ^ 20 < mAcc f + mStride f * (rows * mPerRow f) then some Code.reservedField
  else if mStride f = 2 ∧ mAcc f % 2 = 1 then some Code.misaligned
  else if !(mArrs f).all (fun x => (s.arch.arr x).stationary.serves f) then some Code.reservedField
  else none

/-- A pass with Z begins on clean containers. -/
def Core.passStart (c : Core) (f : MX) (rows : Nat) : Core :=
  if f.z = 0 then c
  else c.modArch (fun a => { a with accP := markWrite a.accP 256 (mAcc f) (mStride f * (rows * mPerRow f)) false })

/-- The end of a pass, whose last row has entered before cycle fed: its port and its flight. -/
def State.passEnd (s : State) (f : MX) (fed : Nat) : State :=
  (s.modArch (fun a => (mArrs f).foldl (fun a x => a.modArr x (fun r => { r with portStream := fed })) a)).mIssue
    (mArrs f) false false (fed - 1 + 24)

def execMstr (h : Hdr) (f : MX) (s : State) :=
  runWord (.mstr h f) h s (fun s =>
    let a := s.arch
    let c := a.mcfgOf f
    let w := mBits f.tb
    let len := mKps f * w / 8
    if c.mrows = 0 then .trap Code.reservedField none
    else
      match s.mOperand f c.pitchB c.mrows len with
      | .bad code => .trap code none
      | .stall => (match s.passFault f with | some code => .trap code none | none => .stall s)
      | .range r =>
        let nb := mBlocks f f.tb
        let sc : MRange := ⟨c.sclB, nb, c.mrows, nb⟩
        let rs := if nb = 0 then [r] else [r, sc]
        match s.mRangeFault rs with
        | some (code, ea) => .trap code ea
        | none =>
          match s.passFault f with
          | some code => .trap code none
          | none =>
            if a.portBusy (mArrs f) s.cycle (fun m => m.portStream) ∨ a.leaseLack rs.length then .stall s
            else
              let v := s.mview f
              let row (m : Nat) : MRow :=
                { bytes := (v.scrRead (r.row m) len).toArray, width := w
                  scales := (v.scrRead (sc.row m) nb).toArray
                  poison := a.scrPoisoned (r.row m) len || a.scrPoisoned (sc.row m) nb }
              let x0 := a.m0.stat f
              let x1 := a.m1.stat f
              let n := c.mrows * mCpr f
              let t := (s.mAcquire f).modHere (fun k =>
                (List.range c.mrows).foldl (fun k m => k.passRow f x0 x1 m (row m)) (k.passStart f c.mrows))
              .done ((t.modArch (fun a => a.lease rs (s.cycle + n))).passEnd f (s.cycle + n)))

/-- A pass whose rows come from an operand queue (R162, R178). -/
def State.queuePass (s : State) (f : MX) : Res :=
  let a := s.arch
  let c := a.mcfgOf f
  let w := typeWidth f.tb
  let per := mEntries (mKps f) w
  if c.mrows = 0 then .trap Code.reservedField none
  else
    match s.passFault f with
    | some code => .trap code none
    | none =>
      if s.eng.prog = 0 ∧ a.portBusy (mArrs f) s.cycle (fun m => m.portStream) then .stall s
      else
        let x0 := a.m0.stat f
        let x1 := a.m1.stat f
        s.mDrain (f.spa.extractLsb' 0 3).toNat per c.mrows (mCpr f) true
          (fun t => t.modHere (fun k => k.passStart f c.mrows))
          (fun t m es =>
            let bs := (es.map (fun e => e.bytes)).flatten.toArray
            let r : MRow :=
              { bytes := bs, width := w, poison := es.any (fun e => e.poison)
                scales := if blockLen f.tb = 0 then #[] else bs.extract 192 256 }
            t.modHere (fun k => k.passRow f x0 x1 m r))
          (fun t fed => t.passEnd f fed)

def execMstrq (h : Hdr) (f : MX) (s : State) := runWord (.mstrq h f) h s (fun s => s.queuePass f)
def execMmv (h : Hdr) (f : MX) (s : State) := runWord (.mmv h f) h s (fun s => s.queuePass f)

/-! ### Accumulator forms (R179, R180) -/

/-- The shared readout port is busy. -/
def State.accHeld (s : State) : Bool := decide (s.cycle < s.arch.portAcc)

def State.accIssue (s : State) (n : Nat) (late : Nat) : State :=
  (s.modArch (fun a => { a with portAcc := s.cycle + n })).mIssue [] true false (s.cycle + n + late)

def execMacz (h : Hdr) (f : MX) (s : State) :=
  runWord (.macz h f) h s (fun s =>
    if 2 ^ 20 < mAcc f + mCount f then .trap Code.reservedField none
    else if s.accHeld then .stall s
    else
      .done ((s.modHere (fun c => c.accPut (mAcc f) (List.replicate (mCount f) 0) false false)).accIssue
        (f.tile.toNat + 1) 2))

def execMacld (h : Hdr) (f : MX) (s : State) :=
  runWord (.macld h f) h s (fun s =>
    let r : MRange := ⟨mSpa f, 0, 1, 4 * mCount f⟩
    match s.mRangeFault [r] with
    | some (code, ea) => .trap code ea
    | none =>
      if 2 ^ 20 < mAcc f + mCount f then .trap Code.reservedField none
      else if s.accHeld ∨ s.arch.leaseLack 1 then .stall s
      else
        let a := s.arch
        let n := mCount f / 256
        let t := s.modHere (fun c => (chunks 256 (mCount f) ((s.lview 4).scrRead (mSpa f) (4 * mCount f))).zipIdx.foldl (fun c p =>
          c.accPut (mAcc f + 64 * p.2) ((chunks 4 65 p.1).map (fun b => BitVec.ofNat 32 (bytesNat b))) false true) c)
        let t := t.modArch (fun b => (List.range n).foldl (fun b k =>
          { b with accP := markWrite b.accP 256 (mAcc f + 256 * k) 256 (a.scrPoisoned (mSpa f + 1024 * k) 1024) }) b)
        .done ((t.modArch (fun a => a.lease [r] (s.cycle + n))).accIssue n 8))

/-- The containers of one accumulator of a type. -/
def accStride (at' : BitVec 5) : Nat := if at' = 0x1E then 2 else 1

/-- A value read out: scaled if M0's configuration says so, then converted (R180). -/
def Arch.readout (a : Arch) (at' ot : BitVec 5) (k : Nat) : Nat :=
  if at' = 0 then
    let v := f32Val (a.accGet k 1)
    let v := if a.m0.cfg.applySc then f32Val (roundF32 (mulVal v (f32Val a.m0.cfg.tscale.toNat))) else v
    convElem ot.toNat 0 false false 0 v
  else
    let w := 32 * accStride at'
    convElem ot.toNat 0 true true 0 (Val.ofInt (intVal w true (a.accGet k (accStride at'))))

/-- Values of ot per register (R180). -/
def perReg (ot : BitVec 5) : Nat := 1024 * 32 / typeWidth ot

def execMacrd (h : Hdr) (f : MX) (s : State) :=
  runWord (.macrd h f) h s (fun s =>
    let st := accStride f.ta
    let e := perReg f.tb
    let w := typeWidth f.tb
    let regs := (List.range (f.nv.toNat + 1)).map (fun q => s.rotate (f.tile.toNat + q))
    if 2 ^ 20 < mAcc f + st * (e * (f.nv.toNat + 1)) then .trap Code.reservedField none
    else if st = 2 ∧ mAcc f % 2 = 1 then .trap Code.misaligned none
    else withBanks s regs
      (if s.accHeld then .stall s
       else
         let a := s.arch
         let n := 4 * (f.nv.toNat + 1)
         let ready := s.cycle + n + 8
         let cellsOf (q : Nat) : List Cell := (List.range 1024).map (fun k =>
           let first := if w = 64 then q * e + k / 2 else q * e + k * (32 / w)
           let cnt := if w = 64 then 1 else 32 / w
           let v := if w = 64 then a.readout f.ta f.tb (mAcc f + st * first) / 2 ^ (32 * (k % 2))
             else (List.range cnt).foldl (fun t h => t + a.readout f.ta f.tb (mAcc f + st * (first + h)) % 2 ^ w * 2 ^ (w * h)) 0
           ⟨k / 64, k % 64, BitVec.ofNat 32 v, marked a.accP 256 (mAcc f + st * first) (st * cnt)⟩)
         let c := regs.zipIdx.foldl (fun (c : Core) q => c.writeReg 0 q.1 ready s.cycle .m (cellsOf q.2)) s.here
         let c := c.writeReg 2 3 (s.cycle + n + 8) s.cycle .m (cellsOf f.nv.toNat)
         .done ((s.setCore s.cur.core c).accIssue n 8)))

/-- MACST: its bytes are performed at its retirement (R180). -/
def execMacst (h : Hdr) (f : MX) (s : State) :=
  runWord (.macst h f) h s (fun s =>
    let st := accStride f.ta
    let w := typeWidth f.tb
    let n := mCount f / st
    let len := n * w / 8
    match s.mRangeFault [⟨mSpa f, 0, 1, len⟩] with
    | some (code, ea) => .trap code ea
    | none =>
      if 2 ^ 20 < mAcc f + mCount f then .trap Code.reservedField none
      else if st = 2 ∧ mAcc f % 2 = 1 then .trap Code.misaligned none
      else if s.accHeld ∨ s.arch.leased (mSpa f) len then .stall s
      else
        let a := s.arch
        let per := 512 / w
        let c := (List.range (len / 64)).foldl (fun (c : Core) g =>
          let bs := ((List.range per).map (fun j => natBytes (w / 8) (a.readout f.ta f.tb (mAcc f + st * (g * per + j))))).flatten
          c.scrWrite .own (.l .m) (mSpa f + 64 * g) bs (marked a.accP 256 (mAcc f + st * (g * per)) (st * per)) 4
            (s.cycle + mCount f / 256 + 8)) s.here
        .done ((s.setCore s.cur.core c).accIssue (mCount f / 256) 8))

/-! ### MFIN (R181) -/

def execMfin (h : Hdr) (f : MX) (s : State) :=
  runWord (.mfin h f) h s (fun s =>
    if s.arch.mflight.any (fun m => decide (s.cycle < m.doneAt) &&
        (m.accForm || (m.m0 && (mArrs f).contains false) || (m.m1 && (mArrs f).contains true))) then .stall s
    else .done s)

/-! ### Events (R164, R171, R172) -/

def execPlaneLoadDone (core : CoreId) (arr : Nat) (s : State) : Host.Outcome State Fault Refusal :=
  .next (s.modCore core (fun c => c.modArch (fun a => a.modArr (arr = 1) (fun r => r.settle s.cycle))))

/-- Where the count of contributions of a chunk is written (R419). -/
def Bar.countAddr (b : Bar) (chunk : Nat) : Nat := b.lmap + 8 * ((b.chunks + 63) / 64) + 2 * chunk

/-- A lease holds a placement back: its bytes, or the count that is written before its mark. -/
def Core.heldBack (c : Core) (b : Bar) (p : HeldPlace) : Bool :=
  c.placeLeased b p.chunk || (p.count.isSome && b.lmap ≠ 0 && c.arch.leased (b.countAddr p.chunk) 2)

/-- A placement takes effect: the count of a reduced chunk (R419), its bytes, its mark (R249). -/
def Core.land (c : Core) (b : Bar) (p : HeldPlace) : Core :=
  let c := match p.count with
    | some k => if b.lmap = 0 then c else c.scrWrite .outside .t (b.countAddr p.chunk) (natBytes 2 k) false
    | none => c
  ((c.placeScr .outside .t p.bar b p.chunk p.bytes p.poison).creditBar .outside p.bar p.chunk).settleOps

/-- A reduced chunk that its deadline completes: its mark counts as set, whatever lease still holds back its count or its
bytes (R172, R419). -/
def Core.landNow (c : Core) (b : Bar) (p : HeldPlace) : Core :=
  let c := if b.lmap = 0 then c else c.scrOrHold .outside (b.countAddr p.chunk) (natBytes 2 (p.count.getD 0)) none
  let c := (b.runs p.chunk).foldl (fun (c : Core) r =>
    c.scrOrHold .outside r.2.1 ((p.bytes.drop r.1).take r.2.2) (some (chunkTok p.bar b.gen p.chunk)) p.poison) c
  (c.creditBar .outside p.bar p.chunk).settleOps

/-- A held placement takes effect once no lease holds its bytes (R172): it is credited, or dropped and counted as the
barrier then stands (R249). A barrier that has been reset or armed again since counts it as a stray; a reduced chunk is then
freed with its entry (R420). -/
def Core.placeHeld (c : Core) : Core :=
  c.heldPlace.foldl (fun (c : Core) p =>
    let b := c.realArch.bar p.bar
    let gone := b.gen ≠ p.gen ∨ b.st = .idle
    if !gone && c.heldBack b p then c
    else
      let c := { c with heldPlace := c.heldPlace.filter (fun q => q ≠ p) }
      if gone ∧ p.count.isSome then c
      else
        match (if gone then some (fun (b : Bar) => { b with stray := satInc b.stray }) else c.depositCount p.bar p.chunk false) with
        | some f => c.modBarAs .outside p.bar f
        | none => c.land b p) c

/-- What leases have held back is done in its order as they end (R172): placements, then writes of the core's machinery. -/
def Core.leaseEnds (c : Core) : Core := c.placeHeld.scrDrain

end Sys2Proof.Machine
end

