-- ==== Sys2Proof/Machine/Streams.lean ====
section
/-! DEFINITION. Streams (R186 to R203): pattern records and their enumeration, the six ST words, and the event
in which a sector's data arrives and is delivered, staged, parked or handed to the Pan. -/

namespace Sys2Proof.Machine

open Sys2Proof

/-! ### Patterns (R186, R187) -/

def Pattern.runs (p : Pattern) : Nat := p.cnt.foldl (fun t c => t * c) 1
def Pattern.total (p : Pattern) : Nat := p.run * p.runs

/-- The numbers of run r in dimensions 0 to 3, dimension 0 innermost. -/
def Pattern.digits (p : Pattern) (r : Nat) : List Nat :=
  let c (k : Nat) : Nat := p.cnt.getD k 1
  [r % c 0, r / c 0 % c 1, r / (c 0 * c 1) % c 2, r / (c 0 * c 1 * c 2)]

/-- The address of run r (R187); idx holds the indices of dimension 3. -/
def Pattern.runAddr (p : Pattern) (off : Nat) (idx : List Int) (r : Nat) : Nat :=
  let d := p.digits r
  let i3 := d.getD 3 0
  let j : Int := if p.ind then idx.getD i3 0 else i3
  let st (k : Nat) : Int := p.str.getD k 0
  (((p.base : Int) + off + d.getD 0 0 * st 0 + d.getD 1 0 * st 1 + d.getD 2 0 * st 2 + j * st 3) % 2 ^ 56).toNat

/-- A sector (R195): its first position in the byte sequence, its bytes and its virtual address. -/
structure Sector where
  pos : Nat
  len : Nat
  va : Nat

/-- The sector that holds position n of a pattern: the part of its run within one 512-byte block. -/
def Pattern.sector (p : Pattern) (off : Nat) (idx : List Int) (n : Nat) : Sector :=
  let r := n / p.run
  let b := n % p.run
  let va := (p.runAddr off idx r + b) % 2 ^ 56
  let back := min b (va % 512)
  let b0 := b - back
  ⟨r * p.run + b0, min p.run (b + 512 - va % 512) - b0, va - back⟩

def Stream.sector (t : Stream) (n : Nat) : Sector := t.pat.sector t.off t.idx n

/-- Bytes that a position range has on delivery: 4/3 for 6-bit elements (R188). -/
def Pattern.grown (p : Pattern) (n : Nat) : Nat := if p.six then n / 3 * 4 else n

/-- Reads a record of 64 bytes (R186). -/
def patternOf (bs : List Byte) : Pattern :=
  let fl := leAt bs 0x0C 2
  { base := leAt bs 0 8, run := leAt bs 8 4, ind := fl.testBit 0, iw := fl.testBit 1, ra := fl.testBit 2, six := fl.testBit 3
    cnt := [leAt bs 0x10 4, leAt bs 0x14 4, leAt bs 0x18 4, leAt bs 0x1C 4]
    str := [0x20, 0x26, 0x2C, 0x32].map (fun o => (BitVec.ofNat 48 (leAt bs o 6)).toInt), ibase := leAt bs 0x38 4 }

/-- Check 2 of R189: reserved fields and the limits of R186 and R188. -/
def patternOk (bs : List Byte) : Bool :=
  let p := patternOf bs
  decide (p.base < 2 ^ 56) && p.run % 4 = 0 && decide (4 ≤ p.run) && decide (p.run ≤ 65536) &&
    decide (leAt bs 0x0C 2 < 16) && leAt bs 0x0E 2 = 0 && p.cnt.all (fun c => decide (1 ≤ c) && decide (c ≤ 2 ^ 24)) &&
    (if p.ind then decide (p.ibase < 2 ^ 23) else p.ibase = 0) && leAt bs 0x3C 4 = 0 && decide (p.total ≤ 2 ^ 48) &&
    (!p.six || p.run % 3 = 0)

/-- Bytes of the index array. -/
def Pattern.idxBytes (p : Pattern) : Nat := if p.ind then p.cnt.getD 3 1 * (if p.iw then 8 else 4) else 0

/-- The indices as scratchpad holds them (R187). -/
def Arch.indices (a : Arch) (p : Pattern) : List Int :=
  if !p.ind then []
  else (List.range (p.cnt.getD 3 1)).map (fun k =>
    if p.iw then (leW64 (a.scrRead (p.ibase + 8 * k) 8) 0).toInt else (leW32 (a.scrRead (p.ibase + 4 * k) 4) 0).toInt)

/-! ### Streams of a core -/

def Arch.stream (a : Arch) (n : Nat) : Stream := a.streams[n % 16]'(Nat.mod_lt n (by decide))
def Arch.modStream (a : Arch) (n : Nat) (f : Stream → Stream) : Arch :=
  { a with streams := a.streams.set (n % 16) (f (a.stream n)) (Nat.mod_lt n (by decide)) }

def Stream.live (t : Stream) : Bool := t.st = .running || t.st = .parked

/-- An open .q stream or an unfinished SFEED feeds a queue (R189, R200). -/
def Arch.queueStream (a : Arch) (q : Nat) : Bool :=
  a.streams.toList.any (fun t => t.st ≠ .closed && t.kind = 0 && t.oq = q)
def Arch.queueFed (a : Arch) (q : Nat) : Bool :=
  a.queueStream q || (match a.sfeed with | some f => f.oq = q | none => false)

/-- The bytes of an atomicity code. -/
def atmBytes (at' : BitVec 2) : Nat := if at' = 1 then 8 else if at' = 2 then 16 else 4

/-- A range check of a scratchpad operand of a record or block: the first byte beyond 8 MiB, or PRIVILEGE in
another context's KEEP range (R303). -/
def State.recRange (s : State) (core : CoreId) (ctx addr n : Nat) : Option (BitVec 8 × Option W64) :=
  if n = 0 then none
  else if Config.scrBytes < addr + n then some (Code.reservedField, some (BitVec.ofNat 64 (max addr Config.scrBytes)))
  else if s.keepHit core ctx addr n then some (Code.privilege, none) else none

/-- The first granule of n scratchpad bytes that is poisoned (R355). -/
def Arch.firstPoison (a : Arch) (addr n : Nat) : Option Nat :=
  ((List.range ((addr % 64 + n + 63) / 64)).map (fun k => addr / 64 * 64 + 64 * k)).find? (fun g => a.scrPoisoned g 64)

/-- The checks of R189 for a record at rec with offset o; dest holds g[gd]. -/
def State.sopenFault (s : State) (f : ST) (bs : List Byte) : Option (BitVec 8 × Option W64) :=
  let a := s.arch
  let p := patternOf bs
  let rec' : Nat := f.recb.toNat * 64
  let ctx := s.here.ctx
  let at' := atmBytes f.atm
  let first := BitVec.ofNat 64 p.base + s.g f.ga
  if (a.stream f.str.toNat).st ≠ .closed then some (Code.reservedField, some 0)
  else if !patternOk bs then some (Code.reservedField, some (BitVec.ofNat 64 rec'))
  else if f.dk = 0 ∧ a.queueFed f.oq.toNat then some (Code.reservedField, some 0)
  else if f.dk = 2 ∧ !s.ringOk f.imm.toNat then some (Code.privilege, none)
  else if f.dk = 2 ∧ (!(a.ring f.imm.toNat).opened ∨ (a.ring f.imm.toNat).prod ≠ 1 ∨ a.ringStream f.imm.toNat) then
    some (Code.reservedField, some 0)
  else
    let d := (s.g f.gd).toNat
    let c5 :=
      if f.dk = 1 ∨ f.dk = 3 then
        if d % 4 ≠ 0 then some (Code.reservedField, none) else s.recRange s.cur.core ctx d (p.grown p.total)
      else none
    match c5 with
    | some x => some x
    | none =>
      match s.recRange s.cur.core ctx p.ibase p.idxBytes with
      | some x => some x
      | none =>
        if first.toNat % at' ≠ 0 ∨ p.run % at' ≠ 0 ∨
            (p.cnt.zip p.str).any (fun q => decide (1 < q.1) && q.2 % (at' : Int) ≠ 0) then
          some (Code.misaligned, some first)
        else none

/-- The record of an ST word, with its poison check. -/
def State.withRecord (s : State) (f : ST) (k : List Byte → Res) : Res :=
  let rec' : Nat := f.recb.toNat * 64
  if s.keepHit s.cur.core s.here.ctx rec' 64 then .trap Code.privilege none
  else if s.arch.scrPoisoned rec' 64 then .trap Code.poisonConsumed (some (BitVec.ofNat 64 rec'))
  else k ((s.lview 8).scrRead rec' 64)

/-- The stream that an SOPEN opens (R194). -/
def State.opened (s : State) (f : ST) (bs : List Byte) : Stream :=
  let p := patternOf bs
  { st := .running, code := 0, kind := f.dk.toNat, oq := f.oq.toNat, ring := f.imm.toNat % 16, pol := f.pol.toNat
    pd := f.pd = 1, pt := f.pt = 1, atm := atmBytes f.atm, pat := p, off := (s.g f.ga).toNat, dst := (s.g f.gd).toNat
    pc := s.eng.pc, loop := s.here.rbLoop s.eng, idx := (s.lview (if p.iw then 8 else 4)).indices p, count := 0, doneSecs := []
    staged := [], parked := [], began := s.dev.wseq, reach := 0, ea := 0 }

/-- What a stream reads in scratchpad is ordered after what A's FENCEs have ordered before its streams (R227, R231). -/
def State.streamHeir (s : State) (n : Nat) : State := s.heir s.cur.core (streamReader n) sHeir

def execSopen (h : Hdr) (f : ST) (s : State) :=
  runWord (.sopen h f) h s (fun s =>
    s.withRecord f (fun bs =>
      match s.sopenFault f bs with
      | some (code, ea) => .trap code ea
      | none => .done ((s.modArch (fun a => a.modStream f.str.toNat (fun _ => s.opened f bs))).streamHeir f.str.toNat)))

/-- The records of an object of a core, in the Pan, waiting or posted, are withdrawn (R194). -/
def Dev.withdraw (d : Dev) (core : CoreId) (o : ObjRef) (ctx : Nat) : Dev :=
  let die := dieOf core
  let r := d.frings[die]
  let mine (q : FaultRec) (p : ObjRef) : Bool := p = o && q.core = core.val && sameOwner o q.ctx ctx
  let keep := r.waiting.filter (fun w => !mine w.1 w.2.1)
  let done := r.posted.map (fun (p : PostedRec) => if mine p.fr p.obj then { p with resolved := true } else p)
  { d with frings := d.frings.set die { r with waiting := keep, posted := done } }

def State.withdraw (s : State) (core : CoreId) (o : ObjRef) : State :=
  (s.modCore core (fun c => { c with hold := c.hold.filter (fun h => match h.eff with | .record _ _ p _ _ => p ≠ o | _ => true) })).modDev
    (fun d => d.withdraw core o (s.core core).ctx)

def execSclose (h : Hdr) (f : ST) (s : State) :=
  runWord (.sclose h f) h s (fun s =>
    if (s.arch.stream f.str.toNat).live then .stall s
    else .done (s.modArch (fun a => a.modStream f.str.toNat (fun t => { t with st := .closed }))))

def execScloseAbort (h : Hdr) (f : ST) (s : State) :=
  runWord (.scloseAbort h f) h s (fun s =>
    let t := s.modArch (fun a => a.modStream f.str.toNat (fun t => { t with st := .closed, staged := [], parked := [] }))
    .done (t.withdraw s.cur.core (.stream f.str.toNat)))

def StreamSt.num : StreamSt → Nat
  | .closed => 0 | .running => 1 | .parked => 2 | .done => 3 | .faulted => 4

def execSstat (h : Hdr) (f : ST) (s : State) :=
  runWord (.sstat h f) h s (fun s =>
    let t := s.arch.stream f.str.toNat
    .done (s.setG f.gd (BitVec.ofNat 64 (t.st.num * 2 ^ 60 + t.code.toNat * 2 ^ 48 + t.count % 2 ^ 48))))

/-- A push into an operand queue: the storage of the entry is shadowed by pairs (R203, R347). -/
def Core.pushQueue (c : Core) (q : Nat) (e : OqEnt) : Core :=
  let q : Fin 8 := ⟨q % 8, Nat.mod_lt q (by decide)⟩
  let k := c.arch.oqIn[q] % 128 / 2 * 2
  (c.shade .oq .own (q.val * 256 + k)).modArch (fun a =>
    { a with oq := a.oq.set q (a.oq[q] ++ [e]), oqIn := a.oqIn.set q (a.oqIn[q] + 1) })

/-- SFEED pushes as many entries as fit; with room for all of them it retires (R200). -/
def execSfeed (h : Hdr) (f : ST) (s : State) :=
  runWord (.sfeed h f) h s (fun s =>
    let q := f.oq.toNat
    let old := match s.arch.sfeed with | some x => if x.pc = s.eng.pc then some x else none | none => none
    let fd : Sfeed := old.getD ⟨s.eng.pc, q, (s.g f.ga).toNat, 0, f.imm.toNat⟩
    let v := s.lview 4
    let go : Res :=
      let n := min (128 - (s.queue q).length) (fd.total - fd.pushed)
      let c := (List.range n).foldl (fun (c : Core) k =>
        let a := fd.src + 256 * (fd.pushed + k)
        c.pushQueue q ⟨v.scrRead a 256, c.arch.scrPoisoned a 256⟩) s.here
      if s.here.panLacks c then .gone s.panStall
      else
        let t := s.setCore s.cur.core c
        if fd.pushed + n = fd.total then .done (t.modArch (fun a => { a with sfeed := none }))
        else .stall (t.modArch (fun a => { a with sfeed := some { fd with pushed := fd.pushed + n } }))
    if old.isSome then go
    else if fd.src % 4 ≠ 0 then .trap Code.misaligned none
    else
      match s.recRange s.cur.core s.here.ctx fd.src (256 * fd.total) with
      | some (code, _) => .trap code none
      | none => if s.arch.queueStream q then .trap Code.reservedField none else go)

/-- The deposits of a stream are drained: a FENCE may now order them before L reads (R190). -/
def Arch.drained (a : Arch) (n : Nat) : Arch :=
  { a with scrLog := a.scrLog.map (fun w => if w.via = .s n then { w with settled := true } else w) }

/-- SDRAIN (R201): on a FAULTED stream it traps with the stream's fault. -/
def execSdrain (h : Hdr) (f : ST) (s : State) :=
  runWord (.sdrain h f) h s (fun s =>
    let t := s.arch.stream f.str.toNat
    if t.live then .stall s
    else if t.st = .faulted then .trap t.code (some t.ea)
    else .done (s.modArch (fun a => a.drained f.str.toNat)))

/-- SPREF: the record is checked; the fills change no value that an agent can observe (R202). -/
def execSpref (h : Hdr) (f : ST) (s : State) :=
  runWord (.spref h f) h s (fun s =>
    s.withRecord f (fun bs =>
      if patternOk bs then .done s
      else .trap Code.reservedField (some (BitVec.ofNat 64 (f.recb.toNat * 64)))))

/-! ### Faults of an object's sectors (R195, R196, R218, R329 to R331) -/

def pageOf (va : Nat) : Nat := va / 65536

/-- A record takes in further sectors of its page: its count rises and its address may fall (R329). -/
def FaultRec.join (a b : FaultRec) : FaultRec :=
  { a with sect := a.sect + b.sect, va := if b.va.toNat < a.va.toNat then b.va else a.va }

/-- The record of a parked sector: one per object and page. While it is in the Pan or waits at the ring, further sectors
of the page join it (R195, R329). -/
def State.parkRecord (s : State) (core : CoreId) (th : Thread) (epoch : Nat) (o : ObjRef) (r : FaultRec) (page : Nat) : State :=
  let fr := s.dev.frings[dieOf core]
  let same (q : FaultRec) (p : ObjRef) (g : Nat) : Bool := p = o && q.core = r.core && q.kind = r.kind && sameOwner o q.ctx r.ctx && g = page
  let held (h : Held) : Bool := match h.eff with | .record _ q p g _ => same q p g | _ => false
  if (s.core core).hold.any held then
    s.modCore core (fun c => { c with hold := c.hold.map (fun (h : Held) =>
      match h.eff with
      | .record d q p g k => if held h then { h with eff := .record d (q.join r) p g k } else h
      | _ => h) })
  else if fr.waiting.any (fun w => same w.1 w.2.1 w.2.2.1) then
    let joined := fr.waiting.map (fun w => if same w.1 w.2.1 w.2.2.1 then (w.1.join r, w.2) else w)
    s.modDev (fun d => { d with frings := d.frings.set (dieOf core) { fr with waiting := joined } })
  else if fr.posted.any (fun p => !p.resolved && same p.fr p.obj p.page) then s
  else (s.recordOut core th epoch r o page).modCore core Core.autoCp

/-- The Pan has room for a fault record. -/
def State.recordRoom (s : State) (core : CoreId) : Bool :=
  decide ((s.core core).holdUsed + s.recordEntries (dieOf core) ≤ 2048)

/-- Whether an access that fails with POOL_REGION_LOST reads a LOST region, whose bytes poison delivery replaces
by zeros (R197, R335). -/
def State.lostRead (s : State) (core : CoreId) (ctx va : Nat) : Bool :=
  match s.xlate core ctx va with
  | .leaf e lvl =>
    let p := leafPlace e lvl va
    leafR e && p.kind = 1 && s.dev.poolState (p.pa - s.dev.pwbase.toNat) = 1
  | _ => false

/-- The bytes that the rest of the world answers a remote load with are not in this device: a free value
(log entry 3). -/
def State.freeBytes (s : State) (n : Nat) : List Byte :=
  (List.range n).map (fun k => (Config.freeWord s.free k).extractLsb' 0 8)

/-- What reading a sector comes to: bytes with the poison of each, or a fault with its malformed flag. -/
inductive SecRead where
  | bytes (bs : List Byte) (poison : List Bool)
  | fault (code : BitVec 8) (mal : Bool)

/-- The poison of n bytes at a place, byte by byte: the mark of each byte's 64-byte granule (R197, R354). -/
def Dev.poisonRun (d : Dev) (p : Place) (n : Nat) : List Bool :=
  if d.placePoison p n then (List.range n).map (fun k => d.placePoison { p with pa := p.pa + k } 1) else List.replicate n false

/-- Reads n bytes of one sector for a core and context (R193, R197, R223), by an object that has been reading since a
number of writes, in atomic units (R229). A remote load may come back, or fail. -/
def State.readSector (s : State) (core : CoreId) (ctx va n : Nat) (pd : Bool) (began : Nat) (unit : Nat := 4) : SecRead :=
  match s.access core ctx va .r with
  | .ok p =>
    if p.kind = 3 then
      match s.remoteFault core ctx p va with
      | some code => .fault code false
      | none => .bytes (s.freeBytes n) (List.replicate n (Config.freeBool (s.free + 1) va))
    else .bytes (s.dev.readSince began unit s.free p n) (s.dev.poisonRun p n)
  | .bad c m =>
    if c = Code.poolRegionLost ∧ pd ∧ s.lostRead core ctx va then .bytes (zeroBytes n) (List.replicate n true) else .fault c m

/-- A page that is not present parks what it covers, unless the fault comes from a remote target. -/
def State.parks (s : State) (core : CoreId) (ctx va : Nat) (n : Need) : Bool :=
  match s.access core ctx va n with
  | .bad c _ => c = Code.pageNotPresent
  | .ok _ => false

/-- The engine's next word takes a code (R196, R218). Of several each takes a word, the oldest first (DESIGN CHOICE, log entry
149). -/
def Core.asyncOn (c : Core) (t : Thread) (code : BitVec 8) (ea : Nat) : Core :=
  c.modArch (fun a => a.modEng t (fun e => { e with async := e.async ++ [(code, BitVec.ofNat 64 ea)] }))

/-- A fault of a command, which a rollback to a point after the command's issue keeps (R218, R220). -/
def Core.asyncKept (c : Core) (epoch : Nat) (t : Thread) (code : BitVec 8) (ea : Nat) : Core :=
  c.keepFrom epoch (fun a => a.modEng t (fun e => { e with async := e.async ++ [(code, BitVec.ofNat 64 ea)] }))

/-- A stream goes FAULTED (R196). -/
def State.faultStream (s : State) (core : CoreId) (n : Nat) (code : BitVec 8) (va : Nat) : State :=
  (s.modCore core (fun c => (c.modArch (fun a => a.modStream n (fun t =>
    { t with st := .faulted, code := code, staged := [], parked := [], ea := BitVec.ofNat 64 va }))).asyncOn .a code va)).withdraw
      core (.stream n)

/-- The fault record of a stream's sector. -/
def Core.streamRec (c : Core) (core : CoreId) (n : Nat) (code : BitVec 8) (mal : Bool) (va : Nat) : FaultRec :=
  let t := c.arch.stream n
  { va := BitVec.ofNat 64 va, pc := t.pc, tag := 0, ctx := c.ctx, code := code, kind := 1, wr := t.kind = 3, mal := mal
    core := core.val, obj := n, sect := 1 }

/-- A sector of a stream meets a fault: it parks, or the stream goes FAULTED (R195, R196). -/
def State.streamFault (s : State) (core : CoreId) (n : Nat) (x : Sector) (code : BitVec 8) (mal park : Bool) : State :=
  if park then
    let t := (s.core core).arch.stream n
    if t.parked.any (fun p => p.pos = x.pos) then s
    else if !s.recordRoom core then s.modCore core (fun c => c.producerStall (panStream n))
    else
      let r := (s.core core).streamRec core n code mal x.va
      let s := s.modCore core (fun c => (c.producerGoes (panStream n)).modArch (fun a => a.modStream n (fun t =>
        { t with st := .parked, code := code, parked := t.parked ++ [⟨x.pos, pageOf x.va⟩] })))
      s.parkRecord core .a (s.core core).cpCount (.stream n) r (pageOf x.va)
  else s.faultStream core n code x.va

/-! ### Delivery (R190) -/

/-- A staged byte at position n. -/
def Stream.stagedByte (t : Stream) (n : Nat) : Option (Byte × Bool) :=
  (t.staged.find? (fun g => decide (g.pos ≤ n) && decide (n < g.pos + g.bytes.length))).map
    (fun g => (g.bytes.getD (n - g.pos) 0, g.poison))

/-- The staged bytes of positions n to n + len − 1, when all have been fetched. -/
def Stream.stagedRun (t : Stream) (n len : Nat) : Option (List Byte × Bool) :=
  let xs := (List.range len).map (fun k => t.stagedByte (n + k))
  if xs.all Option.isSome then some (xs.map (fun x => (x.getD (0, false)).1), xs.any (fun x => (x.getD (0, false)).2))
  else none

/-- The bytes of a delivery: 6-bit elements spread into slots (R188). -/
def Pattern.spread (p : Pattern) (bs : List Byte) : List Byte :=
  if p.six then ((chunks 3 (bs.length + 1) bs).map (fun g => natBytes 4 (unpack6 (bytesNat g)))).flatten else bs

/-- Pushes the entries of a .q stream that are complete, in order, while the queue has room. -/
def Core.deliverQueue (c : Core) (n : Nat) : Nat → Core
  | 0 => c
  | fuel + 1 =>
    let t := c.arch.stream n
    let unit := if t.pat.six then 192 else 256
    let rest := if t.pat.ra then t.pat.run - t.count % t.pat.run else t.pat.total - t.count
    let len := min unit rest
    if t.count = t.pat.total ∨ 128 ≤ (c.arch.oq[t.oq % 8]'(Nat.mod_lt _ (by decide))).length then c
    else
      match t.stagedRun t.count len with
      | none => c
      | some (bs, po) =>
        let c := c.pushQueue t.oq ⟨padTo 256 (t.pat.spread bs), po⟩
        (c.modArch (fun a => a.modStream n (fun t => { t with count := t.count + len }))).deliverQueue n fuel

/-- The k writes of a slot's bytes need no SDRAIN: its publication is their release (R190, R233). -/
def Arch.settleLast (a : Arch) (k : Nat) : Arch :=
  { a with scrLog := (a.scrLog.take k).map (fun (w : ScrWr) => { w with settled := true }) ++ a.scrLog.drop k }

/-- Bytes in runs of equal poison. -/
def poisonRuns : List Byte → List Bool → List (List Byte × Bool)
  | b :: bs, p :: ps =>
    match poisonRuns bs ps with
    | (run, q) :: rest => if p = q then (b :: run, q) :: rest else ([b], p) :: (run, q) :: rest
    | [] => [([b], p)]
  | _, _ => []

/-- The runs with their offsets. -/
def runsAt (o : Nat) : List (List Byte × Bool) → List (Nat × List Byte × Bool)
  | [] => []
  | r :: rest => (o, r.1, r.2) :: runsAt (o + r.1.length) rest

/-- The poison of each byte of a slot, from that of each staged byte (R188, R197). -/
def Pattern.spreadPoison (p : Pattern) (ps : List Bool) : List Bool :=
  if p.six then (chunks 3 (ps.length + 1) ps).flatMap (fun g => List.replicate 4 (g.any id)) else ps

/-- Fills and publishes the slots of a .ring stream that are complete, in order, while the ring has room. -/
def Core.deliverRing (c : Core) (n : Nat) : Nat → Core
  | 0 => c
  | fuel + 1 =>
    let t := c.arch.stream n
    let r := c.arch.ring t.ring
    let unit := if t.pat.six then r.slot / 4 * 3 else r.slot
    let len := min unit (t.pat.total - t.count)
    if t.count = t.pat.total ∨ r.nslot ≤ r.filled ∨ c.arch.leased (r.slotAddr r.pub) r.slot then c
    else
      match t.stagedRun t.count len with
      | none => c
      | some (bs, _) =>
        let ps := t.pat.spreadPoison ((List.range len).map (fun k => (t.stagedByte (t.count + k)).any (fun b => b.2)))
        let rs := runsAt 0 (poisonRuns (padTo r.slot (t.pat.spread bs)) (ps ++ List.replicate r.slot false))
        let c := rs.foldl (fun c q => c.scrWrite .own (.s n) (r.slotAddr r.pub + q.1) q.2.1 q.2.2 t.atm) c
        let c := c.modArch (fun a =>
          (((a.settleLast rs.length).orderNewest rs.length (ringTok t.ring)).modRing t.ring (fun r => r.publish 1)).modStream n
            (fun t => { t with count := t.count + len }))
        c.deliverRing n fuel

/-- Deposits the groups of a .sp stream of 6-bit elements that a newly staged sector completes. -/
def Core.deliverGroups (c : Core) (n : Nat) (x : Sector) : Core :=
  let lo := x.pos / 3
  let hi := (x.pos + x.len - 1) / 3
  (List.range (hi + 1 - lo)).foldl (fun c k =>
    let t := c.arch.stream n
    match t.stagedRun (3 * (lo + k)) 3 with
    | none => c
    | some (bs, po) =>
      (c.scrWrite .own (.s n) (t.dst + 4 * (lo + k)) (t.pat.spread bs) po).modArch (fun a =>
        a.modStream n (fun t => { t with count := t.count + 3 }))) c

/-- A stream whose bytes are all performed is DONE, or stays PARKED while sectors are (R194). -/
def Stream.settle (t : Stream) : Stream :=
  if !t.live then t
  else
    let staged := if t.kind = 0 ∨ t.kind = 2 then t.staged.filter (fun g => decide (t.count < g.pos + g.bytes.length)) else t.staged
    let st := if !t.parked.isEmpty then .parked else if t.count = t.pat.total then .done else .running
    { t with st := st, staged := if st = .done then [] else staged }

/-- The sequence bytes that the next k queue entries of a stream take in from position n on: with RA no entry spans two runs
(R190). -/
def Pattern.entryBytes (p : Pattern) (n k : Nat) : Nat :=
  let unit := if p.six then 192 else 256
  if !p.ra then k * unit
  else
    let rem := p.run - n % p.run
    let k0 := (rem + unit - 1) / unit
    let per := (p.run + unit - 1) / unit
    if k ≤ k0 then min (k * unit) rem else rem + (k - k0) / per * p.run + min ((k - k0) % per * unit) p.run

/-- How far beyond the position of delivery a .q or .ring stream may fetch (R192): what its queue's free entries or its
ring's free slots take in, and 64 KiB. -/
def Core.stageRoom (c : Core) (n : Nat) : Nat :=
  let t := c.arch.stream n
  65536 +
    (if t.kind = 0 then t.pat.entryBytes t.count (128 - (c.arch.oq[t.oq % 8]'(Nat.mod_lt _ (by decide))).length)
     else (c.arch.ring t.ring).free * (if t.pat.six then (c.arch.ring t.ring).slot / 4 * 3 else (c.arch.ring t.ring).slot))

/-- A sector lies beyond what may be fetched ahead. -/
def Core.tooFar (c : Core) (n : Nat) (x : Sector) : Bool :=
  let t := c.arch.stream n
  (t.kind = 0 || t.kind = 2) && decide (t.count + c.stageRoom n < x.pos + x.len)

/-- Delivers the data of a fetched sector according to the kind, with the poison of each granule. -/
def Core.deliver (c : Core) (n : Nat) (x : Sector) (bs : List Byte) (po : List Bool) : Core :=
  let t := c.arch.stream n
  let rs := runsAt 0 (poisonRuns bs po)
  if t.kind = 1 ∧ !t.pat.six then
    (rs.foldl (fun c r => c.scrWrite .own (.s n) (t.dst + x.pos + r.1) r.2.1 r.2.2 t.atm) c).modArch (fun a => a.modStream n (fun t =>
      { t with count := t.count + x.len, doneSecs := x.pos :: t.doneSecs }))
  else
    let c := c.modArch (fun a => a.modStream n (fun t =>
      { t with doneSecs := x.pos :: t.doneSecs, staged := t.staged ++ rs.map (fun r => ⟨x.pos + r.1, r.2.1, r.2.2⟩) }))
    if t.kind = 1 then c.deliverGroups n x else if t.kind = 0 then c.deliverQueue n 129 else c.deliverRing n 65537

/-- The source bytes of a .wr sector (R188, R190), in the stream's view v of scratchpad, with the poison of each. -/
def Arch.wrBytes (a v : Arch) (t : Stream) (x : Sector) : List Byte × List Bool :=
  if t.pat.six then
    let lo := x.pos / 3
    let n := (x.pos + x.len - 1) / 3 + 1 - lo
    let bs := ((List.range n).map (fun k => natBytes 3 (pack6 (bytesNat (v.scrRead (t.dst + 4 * (lo + k)) 4))))).flatten
    ((bs.drop (x.pos % 3)).take x.len, (List.range x.len).map (fun k => a.scrPoisoned (t.dst + 4 * ((x.pos + k) / 3)) 4))
  else (v.scrRead (t.dst + x.pos) x.len, (List.range x.len).map (fun k => a.scrPoisoned (t.dst + x.pos + k) 1))

/-- A lease holds scratchpad bytes that a sector's deposit would write. -/
def Core.sectorLeased (c : Core) (t : Stream) (x : Sector) : Bool :=
  t.kind = 1 &&
    (if t.pat.six then c.arch.leased (t.dst + 4 * (x.pos / 3)) (4 * ((x.pos + x.len - 1) / 3 + 1 - x.pos / 3))
     else c.arch.leased (t.dst + x.pos) x.len)

/-- Poison in a stream with PT = 1: iteration recovery in the loop that opened it, else FAULTED (R197). -/
def State.streamPoison (s : State) (core : CoreId) (n : Nat) (va : Nat) : State :=
  let t := (s.core core).arch.stream n
  match t.loop with
  | some (lc, i) =>
    if (if h : lc < 4 then (s.core core).arch.loops[lc].active else false) then s.poisonLoop core lc i t.pc
    else s.faultStream core n Code.poisonConsumed va
  | none => s.faultStream core n Code.poisonConsumed va

/-- Poisoned data delivered into a core is noted (R356). -/
def Core.noteDelivered (c : Core) (po : Bool) : Core :=
  if po then c.modArch (fun a => { a with poisonst := a.poisonst ||| 2 }) else c

/-- A read sector has come: it is delivered, unless space or a lease holds it back. -/
def State.sectorIn (s : State) (core : CoreId) (n : Nat) (x : Sector) (bs : List Byte) (ps : List Bool) (lost : Bool) : State :=
  let t := (s.core core).arch.stream n
  let po := ps.any id
  if po ∧ t.pt ∧ !lost then s.streamPoison core n x.va
  else
    let c := s.core core
    let d := (c.deliver n x bs ps).noteDelivered po
    if c.panLacks d then s.modCore core (fun c => c.producerStall (panStream n))
    else s.setCore core ((d.producerGoes (panStream n)).modArch (fun a => a.modStream n Stream.settle))

/-- A .wr sector is handed to the Pan (R190, R346). -/
def State.sectorOut (s : State) (core : CoreId) (n : Nat) (x : Sector) (p : Place) : State :=
  let c := s.core core
  let t := c.arch.stream n
  let (bs, ps) := c.arch.wrBytes (c.arch.seen (streamReader n) s.cycle core.val (some s.free) t.atm) t x
  if ps.any id ∧ t.pt then s.streamPoison core n x.va
  else
    let units := unitsTouched x.va x.len
    if 2048 < c.holdUsed + units then s.modCore core (fun c => c.producerStall (panStream n))
    else
      let rs := runsAt 0 (poisonRuns bs ps)
      let pieces := rs.map (fun r => ({ p with pa := p.pa + r.1 }, r.2.1))
      let c := (c.producerGoes (panStream n)).holdEff s.cycle (.write (.stream n) x.pos t.pol pieces (rs.map (fun r => r.2.2))) units .a
        t.pc c.cpCount x.va
      s.setCore core ((c.modArch (fun a => a.modStream n (fun t =>
        ({ t with count := t.count + x.len, doneSecs := x.pos :: t.doneSecs } : Stream).settle))).autoCp)

/-- Streams and commands of a core act while its region is not being restored or faulted. -/
def Core.flows (c : Core) : Bool :=
  c.restart.isNone && (c.region = .active || c.region = .recovery) &&
    (match c.preempt with | some p => (match p.st with | .latched _ => true | _ => false) | none => true)

/-- The stream has enumerated its runs up to a sector: the indices of those runs are fixed (R187). -/
def State.enumerated (s : State) (core : CoreId) (n pos : Nat) : State :=
  s.modCore core (fun c =>
    let t := c.arch.stream n
    let x := t.sector pos
    if !t.live ∨ t.pat.total ≤ pos ∨ x.pos + x.len ≤ t.reach then c
    else c.modArch (fun a => a.modStream n (fun (t : Stream) => { t with reach := x.pos + x.len })))

/-- A sector of a stream is fetched, or for a .wr stream written. pos names any byte of it. -/
def State.sectorStep (s : State) (core : CoreId) (n pos : Nat) : State :=
  let s := if (s.core core).flows then s.enumerated core n pos else s
  let c := s.core core
  let t := c.arch.stream n
  let x := t.sector pos
  if !c.flows ∨ !t.live ∨ t.pat.total ≤ pos ∨ t.parked.any (fun p => p.pos = x.pos) then s
  else if t.doneSecs.contains x.pos then
    if t.kind = 0 ∨ t.kind = 2 then
      let d := if t.kind = 0 then c.deliverQueue n 129 else c.deliverRing n 65537
      if c.panLacks d then s.modCore core (fun c => c.producerStall (panStream n))
      else s.setCore core ((d.producerGoes (panStream n)).modArch (fun a => a.modStream n Stream.settle))
    else s
  else if t.pat.ind ∧ (t.pat.runAddr t.off t.idx (pos / t.pat.run)) % t.atm ≠ 0 then
    s.faultStream core n Code.misaligned (t.pat.runAddr t.off t.idx (pos / t.pat.run))
  else if t.kind = 3 then
    match s.access core c.ctx x.va .w with
    | .ok p =>
      if (p.kind = 3) && (s.binding core c.ctx p.jki).isNone then s.faultStream core n Code.jobKeyAbsent x.va
      else s.sectorOut core n x p
    | .bad code mal => s.streamFault core n x code mal (code = Code.pageNotPresent)
  else if c.sectorLeased t x ∨ c.tooFar n x then s
  else
    match s.readSector core c.ctx x.va x.len t.pd t.began t.atm with
    | .bytes bs po =>
      (s.shareAt core c.ctx x.va x.len t.pol).sectorIn core n x bs po (s.lostRead core c.ctx x.va)
    | .fault code mal => s.streamFault core n x code mal (s.parks core c.ctx x.va .r)

def execStreamSectorArrival (core : CoreId) (str pos : Nat) (s : State) : Host.Outcome State Fault Refusal :=
  .next (s.sectorStep core str pos).bumpFree

end Sys2Proof.Machine
end

