-- ==== Sys2Proof/Machine/Sync.lean ====
section
/-! DEFINITION. FENCE and releases (R230 to R234, R238 to R240), the semaphore and barrier words (R254 to R259),
the ring words (R267 to R271), and the events of waits and deadlines (R245, R250). -/

namespace Sys2Proof.Machine

open Sys2Proof

/-! ### FENCE and releases -/

/-- The letter of a path in pa and pb: bits S, X, T, L, H from bit 4 to bit 0 (R31). -/
def Via.letter : Via → Nat
  | .s _ => 4 | .x => 3 | .t => 2 | .l _ => 1 | .h => 0

/-- A path is one of those that pa names. -/
def inPaths (pa : BitVec 5) (v : Via) : Bool := pa.getLsbD (Via.letter v)

def faL (pa : BitVec 5) : Bool := pa.getLsbD 1

/-- Writes numbered up to n that an interrupt or a record of a core covers (R227, R233): the core's own and those that one of
its threads has acquired. -/
def MemWr.covered (w : MemWr) (core : CoreId) (n : Nat) : Bool :=
  decide (w.seq ≤ n) && (w.au.core = core.val || (w.agents core).any (fun r => decide (r < 8)))

/-- Every logged write that p picks is performed at a scope (R224, R231, R234). -/
def State.performed (s : State) (scope : Nat) (p : MemWr → Bool) : Bool :=
  s.dev.wlog.all (fun w => !p w || s.dev.doneAt s.cycle scope w)

/-- The lowest address of a discarded pool write that p picks (R232, R239, R255). -/
def State.lostFor (s : State) (p : MemWr → Bool) : Option Nat := ((s.dev.discarded.filter p).map (fun w => w.au.va)).min?

/-- A flushing read is issued when host writes that p picks await one and none of this core's is out (R240). -/
def State.askFlush (s : State) (core : CoreId) (scope : Nat) (p : MemWr → Bool) : State :=
  if scope = 4 ∧ (s.core core).flushAsk = none ∧
      s.dev.wlog.any (fun w => w.place.kind = 2 && p w && decide (s.dev.flushed < w.seq)) then
    s.modCore core (fun c => { c with flushAsk := some s.dev.wseq })
  else s

/-- W of a FENCE of a thread among the writes to memory beyond the core, as far as it waits for them (R231): the core's own
that were performed when it issued, and those ordered before it. -/
def fenceWr (core : CoreId) (t : Thread) (pa : BitVec 5) (n : Nat) (w : MemWr) : Bool :=
  inPaths pa w.au.via && ((decide (w.seq ≤ n) && w.au.core = core.val) || w.before core (lReader t))

/-- The rest of W: what others had performed at the scope's point when the FENCE issued. -/
def State.fenceFar (s : State) (pa : BitVec 5) (scope n : Nat) (w : MemWr) : Bool :=
  inPaths pa w.au.via && decide (w.seq ≤ n) && (w.place.kind = 0 || (s.eng.asked.isNone && s.dev.doneAt s.cycle scope w))

/-- A write of W to scratchpad, by a FENCE that issued after n writes: performed at the core by then, and for a stream's
deposit drained (R190, R231); or ordered before the thread's L accesses. -/
def ScrWr.fenced (w : ScrWr) (t : Thread) (pa : BitVec 5) (n now : Nat) : Bool :=
  inPaths pa w.via && decide (w.from_ ≤ now) && ((decide (w.seq < n) && w.settled) || w.beforeL t)

/-- What a thread initiates through the paths of pb, as agents; paths that it cannot initiate have no effect (R231, R232). -/
def fenceHeirs (t : Thread) (pb : BitVec 5) : List Nat :=
  (if pb.getLsbD 1 then [lReader t, lFenced t] else []) ++ (if pb.getLsbD 3 then [xHeir t] else []) ++
    (if pb.getLsbD 2 then [tHeir t] else []) ++ (if pb.getLsbD 4 ∧ t = .a then [sHeir] else [])

/-- The reads in W that may have taken their values from releases, for which the FENCE acts as an acquire at its scope. -/
def fenceSeen (t : Thread) (pa : BitVec 5) (scope : Nat) : List Nat :=
  (if pa.getLsbD 1 then [if scope = 0 then lSeenOwn t else lSeen t] else []) ++
    ([2, 3, 4].filter pa.getLsbD).map pathSeen

/-- Later accesses of the thread through the paths of pb are ordered after W (R231). q holds the writes to memory and to
scratchpad before the FENCE issued. -/
def State.fenced (s : State) (f : SY) (q : Nat × Nat) : State :=
  let core := s.cur.core
  let t := s.cur.th
  let scope := f.scope.toNat
  let seen := fenceSeen t f.pa scope
  let p (w : ScrWr) : Bool := w.fenced t f.pa q.2 s.cycle || seen.any w.before
  let m (w : MemWr) : Bool := fenceWr core t f.pa q.1 w || s.fenceFar f.pa scope q.1 w || seen.any (w.before core)
  (fenceHeirs t f.pb).foldl (fun (s : State) r => s.order core r p m) s

/-- An L write of the thread itself is not performed yet (R154, R180). -/
def Arch.lPending (a : Arch) (t : Thread) (now : Nat) : Bool := a.scrLog.any (fun w => w.via = .l t && decide (now < w.from_))

/-- What had been written when the ordering word at pc issued: now, unless it has stalled since. -/
def State.issuedAt (s : State) : Nat × Nat := s.eng.asked.getD (s.dev.wseq, s.arch.scrSeq)

/-- A FENCE at CORE scope with L in pa retires no sooner than 2 cycles after issue (R232). -/
def execFence (h : Hdr) (f : SY) (s : State) :=
  runWord (.fence h f) h s (fun s =>
    let scope := f.scope.toNat
    let core := s.cur.core
    let q := s.issuedAt
    let p := fenceWr core s.cur.th f.pa q.1
    match s.lostFor p with
    | some va => .trap Code.poolRegionLost (some (BitVec.ofNat 64 va))
    | none =>
      if !s.performed scope p || (faL f.pa && s.arch.lPending s.cur.th s.cycle) then
        .stall ((s.askFlush core scope p).modEng (fun e => { e with asked := some q }))
      else
        let t := s.fenced f q
        .done (if scope = 0 ∧ faL f.pa ∧ s.eng.asked = none then t.modEng (fun e => { e with busy := s.cycle + 2 }) else t))

/-- What a release by an L access of a thread covers among the writes to memory (R227, R233). -/
def releaseWr (core : CoreId) (t : Thread) (w : MemWr) : Bool := w.before core (lReader t)

/-- A release at DEVICE scope or wider waits until all that it covers is performed at its scope (R234). What is still held in
the Pan is not performed, and nothing that is not performed is ordered before an L access (R227, R231). -/
def State.releaseHeld (s : State) (scope : Nat) : Bool := !s.performed scope (releaseWr s.cur.core s.cur.th)

/-- What SSIG and SSET add or set. -/
def State.semVal (s : State) (f : SY) : W32 := (s.g f.ga + f.opnd.zeroExtend 64).extractLsb' 0 32

/-- What an SSIG releases (R231, R233): as a release all that is ordered before it; relaxed what the thread's FENCEs have
ordered before it. -/
def State.semReleased (s : State) (n ord : Nat) : State :=
  if ord = 0 then s.inherits s.cur.core (semTok n) (lFenced s.cur.th) else s.releaseL s.cur.core s.cur.th (semTok n)

def execSsig (h : Hdr) (f : SY) (s : State) :=
  runWord (.ssig h f) h s (fun s =>
    owned (s.semOk f.obj.toNat)
      (let scope := f.scope.toNat
       let p := releaseWr s.cur.core s.cur.th
       match (if f.ord = 0 then none else s.lostFor p) with
       | some va => .trap Code.poolRegionLost (some (BitVec.ofNat 64 va))
       | none =>
         if f.ord ≠ 0 ∧ 1 ≤ scope ∧ s.releaseHeld scope = true then .stall (s.askFlush s.cur.core scope p)
         else .done ((s.semReleased f.obj.toNat f.ord.toNat).modHere (fun c => c.semAdd .own f.obj.toNat (s.semVal f)))))

def execSset (h : Hdr) (f : SY) (s : State) :=
  runWord (.sset h f) h s (fun s =>
    owned (s.semOk f.obj.toNat)
      (.done (s.modHere (fun c => (c.modArch (fun a => a.setSem f.obj.toNat (s.semVal f))).hitWaits f.obj.toNat))))

def execSwait (h : Hdr) (f : SY) (s : State) :=
  runWord (.swait h f) h s (fun s =>
    owned (s.semOk f.obj.toNat)
      (s.waitStep (.sem f.obj.toNat ((s.g f.gb + f.opnd.zeroExtend 64).extractLsb' 0 32)) f.gd f.n
        (fun t => t.semWaited f.obj.toNat f.ord.toNat f.scope.toNat)))

/-! ### Barriers -/

/-- Zeros for the unmarked chunks, the loss map and PARTIAL (R250); a lost chunk of a reduction has a count of 0 (R419). A lease
holds back what it covers (R172). -/
def State.barDeadline (s : State) (core : CoreId) (w : Writer) (n : Nat) : State :=
  let c := s.core core
  let a := c.archFor w
  let b := a.bar n
  if !(b.waiting && b.dl && decide (b.deadline ≤ s.dtime)) then s
  else
    let lost := (List.range b.chunks).filter (fun k => !a.marked b k)
    let c := if w = .own then c else { c with heldPlace := c.heldPlace.filter (fun p => p.bar ≠ n) }
    let c := lost.foldl (fun (c : Core) k =>
      let c := if b.red.isSome ∧ b.lmap ≠ 0 then c.scrOrHold .outside (b.countAddr k) (zeroBytes 2) none else c
      (b.runs k).foldl (fun (c : Core) r => c.scrOrHold .outside r.2.1 (zeroBytes r.2.2) (some (chunkTok n b.gen k))) c) c
    let map : List Byte := (List.range ((b.chunks + 7) / 8)).map (fun j =>
      BitVec.ofNat 8 ((List.range 8).foldl (fun t i => t + (if lost.contains (8 * j + i) then 2 ^ i else 0)) 0))
    let c := if b.lmap = 0 then c else c.scrOrHold .outside b.lmap map (some (chunkTok n b.gen 0))
    let c := c.modBarAs w n (fun x =>
      if x.waiting ∧ x.gen = b.gen then { x with lost := lost.length, st := .partialSt } else x)
    s.setCore core (c.raise
      { evt := 0x0A, code := 0, flow := 0, peer := 0, port := 0xFF, flg := 0, fsn0 := 0, fsn1 := 0
        arg := BitVec.ofNat 64 (n + lost.length * 2 ^ 32), time := BitVec.ofNat 64 s.dtime })

/-- The barrier of a descriptor (R247). -/
def barOf (bs : List Byte) : Bar :=
  let fl := leAt bs 0x10 4
  { Bar.reset with
    base := leAt bs 0 8, exp := leAt bs 8 8, tiled := fl.testBit 0, dl := fl.testBit 1, spb := fl.testBit 2
    bmo := leAt bs 0x14 4, deadline := leAt bs 0x18 8, pitch := leAt bs 0x20 4, trows := leAt bs 0x24 2
    tw := leAt bs 0x26 2, tbytes := leAt bs 0x28 4, trs := leAt bs 0x2C 4, tcs := leAt bs 0x30 4
    frec := leAt bs 0x34 4, lmap := leAt bs 0x38 4 }

/-- The end of a barrier's bytes in scratchpad. -/
def Bar.scrEnd (b : Bar) : Nat :=
  if !b.tiled then b.base + b.exp
  else
    let last := b.tiles - 1
    let at' (q r : Nat) : Nat := b.base + q * b.trs + r * b.tcs + (b.trows - 1) * b.pitch + b.tbytes
    max (at' (last / b.tw) (last % b.tw)) (if b.tw ≤ last then at' (last / b.tw - 1) (b.tw - 1) else 0)

/-- Check 3 of R258: fields and limits of R247, the bitmap's end. -/
def barOk3 (bs : List Byte) : Bool :=
  let b := barOf bs
  b.base % 512 = 0 && decide (b.base < (if b.spb then 2 ^ 23 else 2 ^ 56)) && decide (1 ≤ b.exp) && decide (b.exp ≤ 2 ^ 28) &&
    decide (leAt bs 0x10 4 < 8) && b.bmo % 8 = 0 && (b.dl || b.deadline = 0) && leAt bs 0x3C 4 = 0 && b.frec % 32 = 0 &&
    (!b.dl || b.spb) && decide (b.bmo + (b.chunks + 7) / 8 ≤ 65536) &&
    (if b.tiled then
      b.spb && decide (1 ≤ b.trows) && decide (b.trows ≤ 4096) && decide (1 ≤ b.tw) && decide (b.tw ≤ 1024) &&
        b.tbytes % 4 = 0 && decide (0 < b.tbytes) && decide (b.tbytes ≤ b.pitch) && decide (b.tbytes ≤ b.tcs) &&
        b.exp % (b.trows * b.tbytes) = 0
     else b.pitch = 0 && b.trows = 0 && b.tw = 0 && b.tbytes = 0 && b.trs = 0 && b.tcs = 0)

/-- The scratchpad ranges that a descriptor names. -/
def Bar.ranges (b : Bar) : List (Nat × Nat) :=
  (if b.spb then [(b.base, b.scrEnd - b.base)] else []) ++ (if b.frec = 0 then [] else [(b.frec, 32)]) ++
    (if b.lmap = 0 then [] else [(b.lmap, (b.chunks + 7) / 8)])

def execBarm (h : Hdr) (f : SY) (s : State) :=
  runWord (.barm h f) h s (fun s =>
    let n := f.obj.toNat
    let a := s.arch
    let d := s.g f.ga + f.opnd.zeroExtend 64
    owned (s.barOk n)
      (if d.toNat % 64 ≠ 0 then .trap Code.misaligned (some d)
       else if (a.bar n).st ≠ .idle then .trap Code.reservedField (some d)
       else
         match s.recRange s.cur.core s.here.ctx d.toNat 64 with
         | some (code, _) => .trap code (some d)
         | none =>
           if a.scrPoisoned d.toNat 64 then .trap Code.poisonConsumed (some d)
           else
             let bs := (s.lview 4).scrRead d.toNat 64
             let b := barOf bs
             let bits := (b.chunks + 7) / 8
             if !barOk3 bs then .trap Code.reservedField (some d)
             else
               match b.ranges.findSome? (fun r => s.recRange s.cur.core s.here.ctx r.1 r.2) with
               | some (code, _) => .trap code (some d)
               | none =>
                 if (List.range 64).any (fun m =>
                     let o := a.bar m
                     m ≠ n && o.st ≠ .idle && decide (o.bmo < b.bmo + bits) && decide (b.bmo < o.bmo + (o.chunks + 7) / 8)) then
                   .trap Code.reservedField (some d)
                 else
                   let c := (s.here.shade .barWord .own n).shadeRun .bar .own 512 b.bmo bits
                   let c := c.modArch (fun a => (a.modBar n (fun o => { b with st := .armed, gen := o.gen + 1 })).clearMarks b)
                   let t := s.setCore s.cur.core (c.hitWaits (256 + n))
                   let t := t.modDev (fun d => { d with red := d.red.filter (fun r => !(r.core = s.cur.core.val && r.bar = n && s.here.real.isNone)) })
                   .done ((t.barDeadline s.cur.core (if t.here.real.isSome then .own else .outside) n).modEng (fun e =>
                     { e with busy := s.cycle + 4 + (b.chunks + 4095) / 4096 }))))

/-- BRST. On an IDLE barrier it has no row in R251 and changes nothing. Deposits that a lease still holds back are strays when
they land (R172, R251), and reduced chunks among them are freed (R420). -/
def execBrst (h : Hdr) (f : SY) (s : State) :=
  runWord (.brst h f) h s (fun s =>
    let n := f.obj.toNat
    let b := s.arch.bar n
    owned (s.barOk n)
      (if b.st = .idle then
        .done ((s.modHere (fun c => c.hitWaits (256 + n))).modEng (fun e => { e with busy := s.cycle + 2 }))
       else
       let c := (s.here.shade .barWord .own n).shadeRun .bar .own 512 b.bmo ((b.chunks + 7) / 8)
       let c := c.modArch (fun a => (a.clearMarks b).modBar n (fun b => { b with st := .idle, code := 0, red := none }))
       let t := (s.setCore s.cur.core (c.hitWaits (256 + n))).modDev (fun d =>
         { d with red := d.red.filter (fun r => !(r.core = s.cur.core.val && r.bar = n && s.here.real.isNone)) })
       .done (t.modEng (fun e => { e with busy := s.cycle + 2 + (b.chunks + 4095) / 4096 }))))

/-- A wait on a barrier (R256); met acquires the placed bytes. -/
def State.barWait (s : State) (f : SY) (k : WaitCond) : Res :=
  let tile := match k with | .tile _ t => some t | _ => none
  owned (s.barOk f.obj.toNat) (s.waitStep k f.gd f.n (fun t => t.tileAcquire s.cur.core s.reader f.obj.toNat tile))

def execBwait (h : Hdr) (f : SY) (s : State) :=
  runWord (.bwait h f) h s (fun s => s.barWait f (.bar f.obj.toNat))
def execBwaitTile (h : Hdr) (f : SY) (s : State) :=
  runWord (.bwaitTile h f) h s (fun s =>
    s.barWait f (.tile f.obj.toNat (s.g f.gb + f.opnd.zeroExtend 64).toNat))

def execBtestTile (h : Hdr) (f : SY) (s : State) :=
  runWord (.btestTile h f) h s (fun s =>
    let b := s.arch.bar f.obj.toNat
    let t := (s.g f.gb + f.opnd.zeroExtend 64).toNat
    owned (s.barOk f.obj.toNat)
      (if b.st ≠ .idle ∧ b.tiles ≤ t then .trap Code.reservedField (some 0)
       else if b.st ≠ .idle ∧ s.arch.tileDone b t = true then
         .done ((s.tileAcquire s.cur.core s.reader f.obj.toNat (some t)).setGBit f.gd f.n.toNat true)
       else .done (s.setGBit f.gd f.n.toNat false)))

def BarSt.num : BarSt → Nat
  | .idle => 0 | .armed => 1 | .filling => 2 | .complete => 3 | .partialSt => 4 | .faulted => 5

/-- The three views of R252. -/
def Bar.stat (b : Bar) : W64 :=
  BitVec.ofNat 64 (b.st.num * 2 ^ 60 + (if b.st = .faulted then b.code.toNat else 0) * 2 ^ 48 + b.arr)
def Bar.cnt (b : Bar) : W64 := BitVec.ofNat 64 (b.dup * 2 ^ 32 + b.lost)
def Bar.lateView (b : Bar) : W64 := BitVec.ofNat 64 (b.stray * 2 ^ 32 + b.late)

def execBtestStat (h : Hdr) (f : SY) (s : State) :=
  runWord (.btestStat h f) h s (fun s =>
    owned (s.barOk f.obj.toNat) (.done (s.setG f.gd (s.arch.bar f.obj.toNat).stat)))
def execBtestCnt (h : Hdr) (f : SY) (s : State) :=
  runWord (.btestCnt h f) h s (fun s =>
    owned (s.barOk f.obj.toNat) (.done (s.setG f.gd (s.arch.bar f.obj.toNat).cnt)))
def execBtestLate (h : Hdr) (f : SY) (s : State) :=
  runWord (.btestLate h f) h s (fun s =>
    owned (s.barOk f.obj.toNat) (.done (s.setG f.gd (s.arch.bar f.obj.toNat).lateView)))

/-! ### Rings -/

/-- The count operand of the ring words. -/
def State.ringK (s : State) (f : SY) : Nat := (s.g f.gb + f.opnd.zeroExtend 64).toNat

/-- Check 4 of a ring word: allocation, OPEN, and the kinds that admit it (R260, R261). -/
def State.ringUse (s : State) (f : SY) (kinds : Nat → Bool) (r : Ring → Res) : Res :=
  let q := s.arch.ring f.obj.toNat
  owned (s.ringOk f.obj.toNat) (if !q.opened || !kinds q.prod then .trap Code.reservedField none else r q)

def execRwaitf (h : Hdr) (f : SY) (s : State) :=
  runWord (.rwaitf h f) h s (fun s =>
    s.ringUse f (fun p => p ≠ 2) (fun r =>
      let k := s.ringK f
      if k = 0 ∨ r.nslot < k then .trap Code.reservedField none
      else s.waitStep (.filled f.obj.toNat k) f.gd f.n (fun t => t.ringWaited f.obj.toNat)))

/-- RWAITE acquires reads that RCONS words have released (R263); no read of the model is in progress after its word, so
nothing is left to order. -/
def execRwaite (h : Hdr) (f : SY) (s : State) :=
  runWord (.rwaite h f) h s (fun s =>
    s.ringUse f (fun p => p ≠ 2) (fun r =>
      let k := s.ringK f
      if k = 0 ∨ r.nslot < k then .trap Code.reservedField none
      else s.waitStep (.free f.obj.toNat k) f.gd f.n id))

def execRclaim (h : Hdr) (f : SY) (s : State) :=
  runWord (.rclaim h f) h s (fun s =>
    s.ringUse f (fun p => p = 0) (fun r =>
      let k := s.ringK f
      if k = 0 ∨ r.nslot < k then .trap Code.reservedField none
      else if k ≤ r.nslot - (r.clm - r.cons) then
        .done ((s.setG f.gd (BitVec.ofNat 64 r.clm)).modArch (fun a => a.modRing f.obj.toNat (fun r => { r with clm := r.clm + k })))
      else .done (s.setG f.gd 0xFFFFFFFFFFFFFFFF)))

def execRpub (h : Hdr) (f : SY) (s : State) :=
  runWord (.rpub h f) h s (fun s =>
    s.ringUse f (fun p => p = 0) (fun r =>
      let k := s.ringK f
      if r.clm < r.pub + k then .trap Code.reservedField none
      else
        .done ((s.releaseL s.cur.core s.cur.th (ringTok f.obj.toNat)).modArch (fun a =>
          a.modRing f.obj.toNat (fun r => { r with pub := r.pub + k })))))

/-- The ring of a 16-byte descriptor, when it is within R261. -/
def ringOf (bs : List Byte) : Option Ring :=
  let base := leAt bs 0 4
  let slot := leAt bs 4 4
  let n := leAt bs 8 4
  let p := leAt bs 12 1
  let fl := leAt bs 13 1
  let unit := if p = 2 then 256 else if 3 ≤ p then 64 else 4
  if base % 128 = 0 ∧ 4 ≤ slot ∧ slot ≤ 65536 ∧ slot % unit = 0 ∧ (List.range 17).any (fun k => n = 2 ^ k) ∧ p ≤ 4 ∧
      (fl = 0 ∨ (fl = 1 ∧ p = 3)) ∧ leAt bs 14 2 = 0 then
    some { Ring.reset with opened := true, base := base, slot := slot, nslot := n, prod := p, dropOld := fl = 1 }
  else none

def execRpubInit (h : Hdr) (f : SY) (s : State) :=
  runWord (.rpubInit h f) h s (fun s =>
    let n := f.obj.toNat
    let a := s.arch
    let d := s.g f.ga + f.opnd.zeroExtend 64
    owned (s.ringOk n)
      (if d.toNat % 16 ≠ 0 then .trap Code.misaligned none
       else
         match s.recRange s.cur.core s.here.ctx d.toNat 16 with
         | some (code, _) => .trap code none
         | none =>
           if a.scrPoisoned d.toNat 16 then .trap Code.poisonConsumed (some (BitVec.ofNat 64 (d.toNat / 64 * 64)))
           else if (a.ring n).opened then .trap Code.reservedField none
           else
             match ringOf ((s.lview 4).scrRead d.toNat 16) with
             | none => .trap Code.reservedField none
             | some r =>
               match s.recRange s.cur.core s.here.ctx r.base (r.slot * r.nslot) with
               | some (code, _) => .trap code none
               | none =>
                 .done ((s.modHere (fun c => (c.shade .ringWord .own n).modArch (fun a => a.modRing n (fun _ => r)))).modEng
                   (fun e => { e with busy := s.cycle + 4 }))))

def execRpubClose (h : Hdr) (f : SY) (s : State) :=
  runWord (.rpubClose h f) h s (fun s =>
    let n := f.obj.toNat
    s.ringUse f (fun _ => true) (fun r =>
      if s.arch.ringStream n ∨ r.resv ≠ 0 then .trap Code.reservedField none
      else .done (s.modHere (fun c => (c.shade .ringWord .own n).modArch (fun a => a.modRing n (fun r => { r with opened := false }))))))

def execRcons (h : Hdr) (f : SY) (s : State) :=
  runWord (.rcons h f) h s (fun s =>
    s.ringUse f (fun p => p ≠ 2) (fun r =>
      let k := s.ringK f
      if r.pub < r.cons + k then .trap Code.reservedField none
      else .done (s.modArch (fun a => a.modRing f.obj.toNat (fun r => { r with cons := r.cons + k })))))

def execRconsUpto (h : Hdr) (f : SY) (s : State) :=
  runWord (.rconsUpto h f) h s (fun s =>
    s.ringUse f (fun p => p ≠ 2) (fun r =>
      let v := s.ringK f
      if r.pub < v then .trap Code.reservedField none
      else .done (s.modArch (fun a => a.modRing f.obj.toNat (fun r => { r with cons := max r.cons v })))))

/-- The read codes of RCONS: any kind, any state (R271). -/
def State.ringRead (s : State) (f : SY) (v : Ring → Nat) : Res :=
  owned (s.ringOk f.obj.toNat) (.done (s.setG f.gd (BitVec.ofNat 64 (v (s.arch.ring f.obj.toNat)))))

def execRconsPub (h : Hdr) (f : SY) (s : State) := runWord (.rconsPub h f) h s (fun s => s.ringRead f (fun r => r.pub))
def execRconsCons (h : Hdr) (f : SY) (s : State) := runWord (.rconsCons h f) h s (fun s => s.ringRead f (fun r => r.cons))
def execRconsClm (h : Hdr) (f : SY) (s : State) := runWord (.rconsClm h f) h s (fun s => s.ringRead f (fun r => r.clm))
def execRconsDrops (h : Hdr) (f : SY) (s : State) := runWord (.rconsDrops h f) h s (fun s => s.ringRead f (fun r => r.drops))
def execRconsDropb (h : Hdr) (f : SY) (s : State) := runWord (.rconsDropb h f) h s (fun s => s.ringRead f (fun r => r.dropb))

/-! ### The events of a wait (R245) -/

/-- The wait word at a thread's pc retires or stalls on as w gives, when its fetch succeeds. -/
def State.evalWait (s : State) (w : WaitSt) : State :=
  let t := s.modEng (fun e => { e with wait := some w })
  match s.fetchUnit 12 with
  | .error _ => t
  | .ok bs =>
    let r := match decodeWord (bytesWord bs) with
      | .ok (.swait h f) => execSwait h f t
      | .ok (.bwait h f) => execBwait h f t
      | .ok (.bwaitTile h f) => execBwaitTile h f t
      | .ok (.rwaitf h f) => execRwaitf h f t
      | .ok (.rwaite h f) => execRwaite h f t
      | _ => .next t
    match r with
    | .next u => u
    | _ => t

/-- A thread stalled on a wait word that may act. -/
def State.atWait (s : State) : Option WaitSt :=
  if s.here.mayAct s.cur.th s.cycle && s.eng.stalled && !(s.here.otherInHandler s.cur.th) && s.eng.async.isEmpty then s.eng.wait
  else none

/-- A stalled wait is looked at, and retires when an evaluation has ended it. -/
def State.waitLook (s : State) (w : WaitSt) : State :=
  let v := w.settle s.arch s.cycle
  if v.out.isSome then s.evalWait v else s.modEng (fun e => { e with wait := some v })

/-- A wait without a slot evaluates its condition when its poll is due; while it does not hold, the next poll comes after
twice the interval, at most 8,192 cycles. -/
def execWaitPoll (core : CoreId) (th : Thread) (s : State) : Host.Outcome State Fault Refusal :=
  let t := { s with cur := ⟨core, th⟩ }
  match t.atWait with
  | none => .next s
  | some w => if w.slot then .next s else .next (t.waitLook w)

/-- A wait ends with met = 0 when 65,536 cycles have passed since its issue without its condition holding. -/
def execWaitTimeout (core : CoreId) (th : Thread) (s : State) : Host.Outcome State Fault Refusal :=
  let t := { s with cur := ⟨core, th⟩ }
  match t.atWait with
  | none => .next s
  | some w => if s.cycle < w.since + 65536 then .next s else .next (t.waitLook w)

end Sys2Proof.Machine
end

