-- ==== Sys2Proof/Machine/Copy.lean ====
section
/-! DEFINITION. The copy engine (R204 to R220): command blocks and their checks, the nine CM words, sectors and
their translation, barrier credits of copies (R249), read-modify-writes, maintenance, completion and faults, and
the events of the X queue and of translation. -/

namespace Sys2Proof.Machine

open Sys2Proof

/-! ### Command blocks (R35, R206 to R208) -/

/-- The common doubleword of a block agrees with the issuing form: the block's kind, and its FORM, which must be
given when need holds and is otherwise 0 or the word's own form. The result is the form to perform. -/
def blkForm (bs : List Byte) (kind own : Nat) (need : Bool) : Option Nat :=
  let w := leAt bs 0 8
  let form := bitsOf w 27 24
  if bitsOf w 31 28 ≠ 0 ∨ bitsOf w 23 22 ≠ 0 ∨ bitsOf w 15 9 ≠ 0 ∨ bitsOf w 7 0 ≠ kind then none
  else if need then (if 1 ≤ form ∧ form ≤ 9 then some form else none)
  else if form = 0 ∨ form = own then some own else none

/-- The core that takes a block's signal. -/
def blkSigCore (bs : List Byte) (me : CoreId) : Nat :=
  let w := leAt bs 0 8
  if w.testBit 8 then bitsOf w 21 16 else me.val

def waitSig (f : CM) (bs : List Byte) (me : CoreId) : WaitSig :=
  ⟨f.we = 1, f.ws.toNat, f.wt.toNat, f.se = 1, f.ss.toNat, f.si.toNat, blkSigCore bs me⟩

/-- Width in bytes of an XACC element type, none for a type that XACC refuses. -/
def accWidth (et : Nat) : Option Nat :=
  if et = 0 ∨ et = 0x1C ∨ et = 0x1D then some 4 else if et = 1 ∨ et = 2 then some 2 else if et = 0x1E then some 8 else none

/-- The fields of a copy block. -/
def copyFields (bs : List Byte) (form : Nat) : CopyBlk :=
  let ctl := leAt bs 0x20 4
  let idx := form = 6 ∨ form = 7
  { tag := leW32 bs 4, form := form, src := leAt bs 8 8, dst := leAt bs 0x10 8
    len := if idx then 0 else leAt bs 0x18 8
    elem := if idx then leAt bs 0x18 4 else 0, cnt := if idx then leAt bs 0x1C 3 else 0
    op := bitsOf ctl 3 0, et := BitVec.ofNat 5 (bitsOf ctl 8 4), sat := ctl.testBit 9, ssp := ctl.testBit 10
    dsp := ctl.testBit 11, unit := 4 * 2 ^ bitsOf ctl 13 12, spol := bitsOf ctl 15 14, dpol := bitsOf ctl 17 16
    scope := bitsOf ctl 20 18, ord := bitsOf ctl 22 21, pd := ctl.testBit 23, be := bitsOf (leAt bs 0x24 1) 6 6 = 1
    bar := bitsOf (leAt bs 0x24 1) 5 0, opa := leW64 bs 0x28, opb := leW64 bs 0x30, ret := leAt bs 0x38 4 }

def CopyBlk.acq (b : CopyBlk) : Bool := b.ord = 1 || b.ord = 3
def CopyBlk.rel (b : CopyBlk) : Bool := b.ord = 2 || b.ord = 3

/-- Bytes that a command moves. -/
def CopyBlk.total (b : CopyBlk) : Nat := if b.form = 6 ∨ b.form = 7 then b.elem * b.cnt else b.len

/-- A form has these fields; the others must be 0: source, operation, element type, OPA, OPB, RET, barrier,
source policy and poison delivery, destination policy. -/
def CopyBlk.unused (b : CopyBlk) (src op et opa opb ret bar far dpol : Bool) : Bool :=
  (src || (b.src = 0 && !b.ssp)) && (op || b.op = 0) && (et || (b.et = 0 && !b.sat)) && (opa || b.opa = 0) &&
    (opb || b.opb = 0) && (ret || b.ret = 0) && (bar || (!b.be && b.bar = 0)) && (far || (b.spol = 0 && !b.pd)) &&
    (dpol || b.dpol = 0)

/-- Check 1 of R208 without the scratchpad ranges. -/
def CopyBlk.ok1 (b : CopyBlk) (bs : List Byte) : Bool :=
  let ctl := leAt bs 0x20 4
  let lim (sp : Bool) (a : Nat) : Bool := decide (a < (if sp then 2 ^ 23 else 2 ^ 56))
  decide (ctl < 2 ^ 24) && bitsOf ctl 13 12 ≠ 3 && b.spol ≠ 3 && b.dpol ≠ 3 && decide (b.scope ≤ 4) &&
    bitsOf (leAt bs 0x24 1) 7 7 = 0 && (b.be || b.bar = 0) && leAt bs 0x25 3 = 0 && leAt bs 0x3C 4 = 0 &&
    decide (b.ret < 2 ^ 23) && lim b.ssp b.src && lim b.dsp b.dst &&
    (match b.form with
     | 1 => decide (1 ≤ b.len) && decide (b.len < 2 ^ 48) && b.unused true false false false false false true true true
     | 2 => decide (1 ≤ b.len) && decide (b.len < 2 ^ 48) &&
        b.unused false false false true (b.unit = 16) false true false true
     | 3 =>
       (match accWidth b.et.toNat with
        | none => false
        | some w =>
          decide (1 ≤ b.len) && decide (b.len < 2 ^ 48) && b.len % w = 0 && b.unit = 4 && decide (b.op ≤ 5) &&
            (!decide (b.et.toNat ≤ 2) || (decide (b.op ≤ 2) && !b.sat))) &&
         b.unused true true true false false false true true true
     | 4 => b.len = 0 && decide (b.op ≤ 8) && b.unit ≠ 16 && !b.dsp && b.unused false true false true false true false false true
     | 5 => b.len = 0 && !b.dsp && b.unused false false false (b.unit ≠ 16) (b.unit ≠ 16) true false false true
     | 6 | 7 =>
       decide (4 ≤ b.elem) && decide (b.elem ≤ 65536) && decide (1 ≤ b.cnt) && leAt bs 0x1F 1 = 0 &&
         b.unused true false false true false true true true true
     | 8 => decide (1 ≤ b.len) && decide (b.len < 2 ^ 48) && decide (b.op ≤ 2) && !b.dsp &&
        b.unused false true false false false false false false false
     | _ => b.len = 0 && b.dst = 0 && !b.dsp && b.unit = 4 && b.unused false false false false false false false false false)

/-- The scratchpad ranges of a command that are known at issue. -/
def CopyBlk.ranges (b : CopyBlk) : List (Nat × Nat) :=
  (if b.ssp && b.form ≠ 6 then [(b.src, b.total)] else []) ++ (if b.dsp && b.form ≠ 7 then [(b.dst, b.total)] else []) ++
    (match b.form with
     | 4 => [(b.ret, b.unit)]
     | 5 => [(b.ret, if b.unit = 16 then 32 else b.unit)]
     | 6 | 7 => [(b.ret, 4 * b.cnt)]
     | _ => [])

/-- Check 3 of R208. -/
def CopyBlk.aligned (b : CopyBlk) : Bool :=
  b.src % b.unit = 0 && b.dst % b.unit = 0 &&
    (match b.form with
     | 1 | 2 | 3 | 8 => b.len % b.unit = 0
     | 4 | 5 => b.ret % b.unit = 0
     | 6 | 7 => b.elem % b.unit = 0 && b.opa.toInt % (b.unit : Int) = 0 && b.ret % 4 = 0
     | _ => true)

/-- The checks of a copy block for a target core: its command, or the code of the first check that fails. -/
def State.copyCheck (s : State) (core : CoreId) (ctx : Nat) (bs : List Byte) (kind own : Nat) (need sup : Bool) :
    Except (BitVec 8) CopyBlk :=
  match blkForm bs kind own need with
  | none => .error Code.reservedField
  | some form =>
    let b := copyFields bs form
    if !b.ok1 bs then .error Code.reservedField
    else
      match b.ranges.findSome? (fun r => s.recRange core ctx r.1 r.2) with
      | some (code, _) => .error code
      | none =>
        if b.form = 8 ∧ b.op = 1 ∧ !sup then .error Code.privilege
        else if !b.aligned then .error Code.misaligned else .ok b

/-! ### The X queue (R205) -/

def Core.queuedX (c : Core) : Nat := (c.xq.filter (fun x => x.st = .queued)).length

/-- Entries of a core's queue q (0 X, 1 T, 2 Chaperone) that held entries of other cores have reserved (R274). -/
def State.reserved (s : State) (core : CoreId) (q : Nat) : Nat :=
  (s.cores.toList.map (fun c => (c.hold.filter (fun h =>
    match h.eff with | .qentry k q' _ _ _ _ => k = core.val && q' = q | _ => false)).length)).sum

/-- Puts a command into a core's X queue. What an acquire command of the queue has read, and what a FENCE of the issuing
engine has ordered before its X accesses, is ordered before the command's reads; the latter is covered by what the command
releases too, and for a release command so is what its engine has done on the L path (R212, R227, R231). -/
def State.pushX (s : State) (core : CoreId) (b : CopyBlk) (sg : WaitSig) (fromCore : Nat) (th : Thread) (pc : W64) (ctx epoch : Nat)
    (asked : Nat × Nat) (bundle : Option Nat) (heir : Option Thread) : State :=
  let id := (s.core core).nextCmd
  let s := s.modCore core (fun c => { c with nextCmd := id + 1, xq := c.xq ++
      [{ id := id, blk := b, sig := sg, st := .queued, fromCore := fromCore, fromTh := th, pc := pc, ctx := ctx
         epoch := epoch, idx := [], doneSecs := [], heldSecs := [], parked := [], rmw := none, reply := none, began := 0
         asked := asked, met := false, fate := none, bundle := bundle }] })
  let s := s.inherits core (cmdReader id) xQueue
  match heir with
  | none => s
  | some t =>
    let s := (s.inherits core (cmdReader id) (xHeir t)).inherits core (cmdCover id) (xHeir t)
    if b.rel then s.releaseL core t (cmdCover id) else s

/-- Reads the block of a CM word: another context's KEEP range, poison, else its bytes. -/
def State.withBlock (s : State) (f : CM) (k : List Byte → Res) : Res :=
  let a : Nat := f.blk.toNat * 64
  if (f.we = 1 ∧ !s.semOk f.ws.toNat) ∨ (f.se = 1 ∧ !s.semOk f.ss.toNat) then .trap Code.privilege none
  else if s.keepHit s.cur.core s.here.ctx a 64 then .trap Code.privilege (some (BitVec.ofNat 64 a))
  else if s.arch.scrPoisoned a 64 then .trap Code.poisonConsumed (some (BitVec.ofNat 64 a))
  else k ((s.lview 8).scrRead a 64)

/-- An X word (R205). -/
def xWord (i : Instr) (h : Hdr) (f : CM) (form : Nat) (s : State) :=
  runWord i h s (fun s =>
    s.withBlock f (fun bs =>
      match s.copyCheck s.cur.core s.here.ctx bs 1 form false (statusPriv s.eng.status) with
      | .error code => .trap code (some (BitVec.ofNat 64 (f.blk.toNat * 64)))
      | .ok b =>
        if s.inReplay ∧ 3 ≤ form ∧ form ≤ 5 then .gone (s.abandonAudit s.cur.core)
        else if b.be ∧ !s.barOk b.bar then .trap Code.privilege (some (BitVec.ofNat 64 (f.blk.toNat * 64)))
        else if 64 ≤ s.here.queuedX + s.reserved s.cur.core 0 then .stall s
        else
          .done ((s.pushX s.cur.core b (waitSig f bs s.cur.core) s.cur.core.val s.cur.th s.eng.pc s.here.ctx s.here.cpCount
            (s.dev.wseq, s.here.nextHold) none (some s.cur.th)).modHere Core.autoCp)))

def execXcopy (h : Hdr) (f : CM) (s : State) := xWord (.xcopy h f) h f 1 s
def execXfill (h : Hdr) (f : CM) (s : State) := xWord (.xfill h f) h f 2 s
def execXacc (h : Hdr) (f : CM) (s : State) := xWord (.xacc h f) h f 3 s
def execXfao (h : Hdr) (f : CM) (s : State) := xWord (.xfao h f) h f 4 s
def execXcas (h : Hdr) (f : CM) (s : State) := xWord (.xcas h f) h f 5 s
def execXgath (h : Hdr) (f : CM) (s : State) := xWord (.xgath h f) h f 6 s
def execXscat (h : Hdr) (f : CM) (s : State) := xWord (.xscat h f) h f 7 s
def execXcmo (h : Hdr) (f : CM) (s : State) := xWord (.xcmo h f) h f 8 s
def execXsig (h : Hdr) (f : CM) (s : State) := xWord (.xsig h f) h f 9 s

/-! ### Completion (R205, R212, R275) -/

def Core.modCmd (c : Core) (id : Nat) (f : XCmd → XCmd) : Core :=
  { c with xq := c.xq.map (fun x => if x.id = id then f x else x) }

/-- Sectors of a command. -/
def XCmd.sectors (x : XCmd) : Nat := (x.blk.total + 511) / 512

/-- A signal: on the core itself it is applied by the command's class; to another core it is an outward effect; a
disabled core's is dropped, and counted at the core that issued the command (R35, R235, R246, R275). p and q pick the writes that
it releases (R233). -/
def State.signal (s : State) (core issuer : CoreId) (w : Writer) (sg : WaitSig) (th : Thread) (pc : W64) (epoch : Nat)
    (p : ScrWr → Bool) (q : MemWr → Bool) : State :=
  if !sg.se then s
  else if sg.sigCore = core.val then
    (s.order core (semTok sg.ss) p q).modCore core (fun c => (c.semAdd w sg.ss (BitVec.ofNat 32 sg.si)).autoCp)
  else if !s.dev.cemask.getLsbD sg.sigCore then
    s.modCore issuer (fun c => { c with sigdrop := if c.sigdrop = 0xFFFFFFFF then c.sigdrop else c.sigdrop + 1 })
  else
    (s.signalCovers core (s.core core).nextHold p q).modCore core (fun c =>
      (c.holdEff s.cycle (.signal sg.sigCore sg.ss sg.si) 1 th pc epoch 0).autoCp)

/-- A copy block of a bundle's list has ended: with a nonzero code the bundle fails (R287, R292). -/
def State.bundleCopyEnd (s : State) (core : CoreId) (x : XCmd) (code : BitVec 8) : State :=
  match x.bundle with
  | none => s
  | some b => s.modDev (fun d => d.modBundle b (fun b =>
      let b := if code = 0 then b else b.fail code
      { b with copies := b.copies.filter (fun p => !(p.1 = core.val && p.2 = x.id)) }))

/-- Commands of the queue before x that have not ended. -/
def Core.earlierX (c : Core) (id : Nat) : Bool := c.xq.any (fun y => decide (y.id < id))

/-- Every sector, or the one unit, of a command is performed. -/
def Core.allDone (c : Core) (x : XCmd) : Bool :=
  x.st = .running &&
    (match x.blk.form with
     | 9 => !c.earlierX x.id && (!x.blk.rel || !c.hold.any (fun h => decide (h.id < x.asked.2) && h.fromTh = x.fromTh))
     | 4 | 5 => !x.doneSecs.isEmpty
     | _ => decide (x.sectors ≤ x.doneSecs.length))

/-- A write by a command of this core's X queue before x. -/
def XCmd.before (x : XCmd) (core : CoreId) (w : MemWr) : Bool := w.au.core = core.val && w.au.via = .x && decide (w.au.cmd < x.id)

/-- What a release command covers of the writes beyond the core: its engine's before its CM word, those of the commands before
it, and those ordered before it (R212, R233). -/
def XCmd.after (x : XCmd) (core : CoreId) (w : MemWr) : Bool :=
  (w.au.core = core.val && w.au.th = x.fromTh && decide (w.au.held < x.asked.2) && !(w.au.via = .x && decide (x.id ≤ w.au.cmd))) ||
    x.before core w || w.before core (cmdCover x.id)

/-- The writes beyond the core that a command's completion covers: its own, those ordered before it, those that ORD release
orders before it, and for XSIG those of the commands before it, which have completed (R212, R219, R233). -/
def XCmd.covers (x : XCmd) (core : CoreId) (w : MemWr) : Bool :=
  (w.au.core = core.val && w.au.via = .x && w.au.cmd = x.id) || w.before core (cmdReader x.id) || w.before core (cmdCover x.id) ||
    (x.blk.rel && x.after core w) || (x.blk.form = 9 && x.before core w)

/-- The same among the writes to the core's scratchpad. -/
def XCmd.coversScr (x : XCmd) (w : ScrWr) : Bool :=
  w.before (cmdWrote x.id) || w.before (cmdReader x.id) || w.before (cmdCover x.id) ||
    ((x.blk.rel || x.blk.form = 9) && w.known.any (fun k => decide (cmdWrote 0 ≤ k) && decide (k < cmdWrote x.id) && k % 4 = 1))

/-- The scope that a completion waits for: the signal's, else the place that the policy gives (R212, R225). -/
def XCmd.endScope (x : XCmd) : Nat := if x.sig.se then max 1 x.blk.scope else 1

/-- The signal of a command goes to another core, and waits for an entry of the hold queue (R346, R348). -/
def State.sigStalls (s : State) (core : CoreId) (x : XCmd) : Bool :=
  x.sig.se && x.sig.sigCore ≠ core.val && s.dev.cemask.getLsbD x.sig.sigCore && decide (2048 < (s.core core).holdUsed + 1)

/-- A command that has done all its reads and writes, and is performed at the scope of its signal (R212). -/
def State.cmdEnds (s : State) (core : CoreId) (x : XCmd) : Bool :=
  (s.core core).allDone x && s.performed x.endScope (x.covers core) && !s.sigStalls core x

/-! ### Faults of a command (R217, R218) -/

/-- The X queue position of a command: how many commands stand before it (log entry 143). -/
def Core.xPos (c : Core) (x : XCmd) : Nat := c.xq.findIdx (fun y => y.id = x.id) % 64

/-- Its kind-2 record (R329): wr when the failing access writes; sect counts its parked sectors on the page. -/
def XCmd.record (x : XCmd) (core : CoreId) (pos : Nat) (code : BitVec 8) (mal wr : Bool) (va sect : Nat) : FaultRec :=
  { va := BitVec.ofNat 64 va, pc := x.pc, tag := x.blk.tag, ctx := x.ctx, code := code, kind := 2
    wr := wr, mal := mal, core := core.val, obj := pos, sect := sect }

/-- A command goes FAULTED: its unperformed sectors are cancelled and its barrier faults. -/
def State.cancelCmd (s : State) (core : CoreId) (x : XCmd) (code : BitVec 8) (va : Nat) (wr mal : Bool) : State :=
  let r := x.record core ((s.core core).xPos x) code mal wr va (x.parked.filter (fun p => p.page = pageOf va)).length
  let s := s.modCore core (fun c =>
    let hold := c.hold.filter (fun h =>
      match h.eff with
      | .write (.command k) _ _ _ _ => k ≠ x.id
      | .rmw k _ _ _ => k ≠ x.id
      | .cmo k _ _ => k ≠ x.id
      | _ => true)
    let c := { c with hold := hold, xq := c.xq.map (fun (y : XCmd) =>
      if y.id = x.id then { y with st := .faulted, heldSecs := [], rmw := none, reply := none, fate := some (code, va, wr, mal) } else y) }
    if x.blk.be then c.faultBar (.command x.epoch) x.blk.bar code r else c)
  s.withdraw core (.command x.id)

/-- The record of a FAULTED command enters the Pan, and the issuing engine takes the fault. -/
def State.faultOut (s : State) (core : CoreId) (x : XCmd) (code : BitVec 8) (va : Nat) (wr mal : Bool) : State :=
  let r := x.record core ((s.core core).xPos x) code mal wr va (x.parked.filter (fun p => p.page = pageOf va)).length
  let s := s.modCore core (fun c => ({ c with xq := c.xq.filter (fun y => y.id ≠ x.id) }).producerGoes (panCmd x.id))
  let s := (s.recordOut core x.fromTh x.epoch r (.command x.id) (pageOf va)).modCore core Core.autoCp
  let s := s.bundleCopyEnd core x code
  if x.bundle.isSome then s else s.modCore (coreId x.fromCore) (fun c => c.asyncKept x.epoch x.fromTh code va)

/-- A FAULTED command posts its record once the Pan has room for it, and stalls until then (R218, R348). -/
def State.faultEnds (s : State) (core : CoreId) (x : XCmd) : Option State :=
  match x.fate with
  | some (code, va, wr, mal) => if s.recordRoom core then some (s.faultOut core x code va wr mal) else none
  | none => none

/-- A command faults. -/
def State.faultCmdOnly (s : State) (core : CoreId) (x : XCmd) (code : BitVec 8) (va : Nat) (wr : Bool) (mal : Bool := false) : State :=
  let s := s.cancelCmd core x code va wr mal
  if s.recordRoom core then s.faultOut core x code va wr mal else s.modCore core (fun c => c.producerStall (panCmd x.id))

/-- Completes the first command of a core whose effects are all performed at the scope of its signal (R212). One whose
release covers a discarded pool write faults instead, its signal withheld (R239). -/
def State.settleOne (s : State) (core : CoreId) : Option State :=
  match (s.core core).xq.findSome? (s.faultEnds core) with
  | some t => some t
  | none =>
    ((s.core core).xq.find? (s.cmdEnds core)).map (fun x =>
      match (if x.sig.se then s.lostFor (x.covers core) else none) with
      | some va => s.faultCmdOnly core x Code.poolRegionLost va true
      | none =>
        let s := s.modCore core (fun c => ({ c with xq := c.xq.filter (fun y => y.id ≠ x.id) }).producerGoes (panCmd x.id))
        (s.bundleCopyEnd core x 0).signal core (coreId x.fromCore) (.command x.epoch) x.sig x.fromTh x.pc x.epoch x.coversScr
          (x.covers core))

def State.settleFuel : Nat → CoreId → State → State
  | 0, _, s => s
  | fuel + 1, core, s =>
    match s.settleOne core with
    | none => s
    | some t => State.settleFuel fuel core t

/-- The k scratchpad writes made last are a command's own (R233). -/
def Core.cmdWrites (c : Core) (x : XCmd) (k : Nat) : Core :=
  c.alter (.command x.epoch) (fun a => a.orderNewest k (cmdWrote x.id))

/-- A read-modify-write's old value reaches RET, and its unit is done. -/
def State.finishReply (s : State) (core : CoreId) (x : XCmd) (old : List Byte) (po : Bool) : State :=
  s.modCore core (fun c =>
    (((c.scrWrite (.command x.epoch) .x x.blk.ret old po x.blk.unit).cmdWrites x 1).noteDelivered po).modCmd x.id (fun y =>
      { y with doneSecs := [0], heldSecs := [], rmw := none, reply := none }))

/-- Old values that no lease holds back any longer are deposited (R172, R211). -/
def State.replies (s : State) (core : CoreId) : State :=
  (s.core core).xq.foldl (fun (s : State) x =>
    match x.reply with
    | some (old, po) => if (s.core core).arch.leased x.blk.ret x.blk.unit then s else s.finishReply core x old po
    | none => s) s

/-- Completes what can complete, issues the flushing read that what is left waits for (R240), and notes a command whose
signal waits for the Pan (R348). -/
def State.settle (s : State) (core : CoreId) : State :=
  let s := s.replies core
  let s := State.settleFuel 130 core s
  (s.core core).xq.foldl (fun (s : State) x =>
    if (s.core core).allDone x then
      let s := s.askFlush core x.endScope (x.covers core)
      if s.sigStalls core x then s.modCore core (fun c => c.producerStall (panCmd x.id)) else s
    else s) s

/-- What has become performed may complete commands of any core. -/
def State.settleAll (s : State) : State :=
  (List.range 64).foldl (fun (s : State) k => if (s.core (coreId k)).xq.isEmpty then s else s.settle (coreId k)) s

/-- A command faults, and commands that waited for it go on. -/
def State.faultCmd (s : State) (core : CoreId) (x : XCmd) (code : BitVec 8) (va : Nat) (wr : Bool) (mal : Bool := false) : State :=
  (s.faultCmdOnly core x code va wr mal).settle core

/-! ### Sectors (R209, R216) -/

/-- The index of element e. -/
def XCmd.index (x : XCmd) (e : Nat) : Int := x.idx.getD e 0

/-- Source and destination of the unit at byte b of the transfer. Scratchpad addresses that are indexed may be
negative. -/
def XCmd.ends (x : XCmd) (b : Nat) : Int × Int :=
  let k := x.blk
  match k.form with
  | 6 =>
    let e := b / k.elem
    let o := b % k.elem
    (k.src + x.index e * k.opa.toInt + o, k.dst + b)
  | 7 =>
    let e := b / k.elem
    let o := b % k.elem
    (k.src + b, k.dst + x.index e * k.opa.toInt + o)
  | _ => (k.src + b, k.dst + b)

/-- An end as an address: virtual ones wrap modulo 2^56. -/
def endAddr (sp : Bool) (a : Int) : Nat := if sp then a.toNat else (a % 2 ^ 56).toNat

/-- An indexed scratchpad element that leaves 0 to 8 MiB: its first address (R209). -/
def XCmd.strays (x : XCmd) (b : Nat) : Option Int :=
  let k := x.blk
  let out (a : Int) : Option Int := if a < 0 ∨ (Config.scrBytes : Int) < a + k.elem then some a else none
  let e := b / max 1 k.elem
  if k.form = 6 ∧ k.ssp then out (k.src + x.index e * k.opa.toInt)
  else if k.form = 7 ∧ k.dsp then out (k.dst + x.index e * k.opa.toInt)
  else none

/-- Byte offsets of the units of a sector. -/
def XCmd.units (x : XCmd) (sec : Nat) : List Nat :=
  let u := min x.blk.unit 16
  let n := min 512 (x.blk.total - 512 * sec)
  (List.range ((n + u - 1) / u)).map (fun k => 512 * sec + u * k)

/-- The first address on a page that a sector uses at its source, or at its destination (wr). -/
def XCmd.onPage (x : XCmd) (wr : Bool) (page sec : Nat) : Option Nat :=
  ((x.units sec).filterMap (fun b =>
    let a := if wr then endAddr x.blk.dsp (x.ends b).2 else endAddr x.blk.ssp (x.ends b).1
    if pageOf a = page then some a else none)).min?

/-- A sector is still to be performed: neither done nor in the Pan nor parked. -/
def XCmd.toDo (x : XCmd) (sec : Nat) : Bool :=
  !x.doneSecs.contains sec && !x.heldSecs.contains sec && !x.parked.any (fun p => p.pos = sec)

/-- A sector meets a fault (R217). A page that is not present parks every sector of the command that is still to be
performed and lies on that page at that end, behind one record (R448). -/
def State.cmdFault (s : State) (core : CoreId) (x : XCmd) (code : BitVec 8) (mal park : Bool) (va : Nat) (wr : Bool) : State :=
  if park ∧ s.recordRoom core = false then s.modCore core (fun c => c.producerStall (panCmd x.id))
  else if park then
    let s := s.modCore core (fun c => c.producerGoes (panCmd x.id))
    let page := pageOf va
    let secs := (List.range x.sectors).filterMap (fun j => if x.toDo j then (x.onPage wr page j).map (fun a => (j, a)) else none)
    let low := ((secs.map (fun p => p.2)).min?).getD va
    let s := s.modCore core (fun c => c.modCmd x.id (fun y =>
      { y with st := .parked, parked := y.parked ++ secs.map (fun p => ⟨p.1, page⟩) }))
    s.parkRecord core x.fromTh x.epoch (.command x.id) (x.record core ((s.core core).xPos x) code mal wr low secs.length) page
  else s.faultCmd core x code va wr mal

/-- What one unit of a sector comes to before anything is written: its bytes, their poison and where they go. -/
inductive UnitRes where
  | ok (bs : List Byte) (poison : Bool) (dst : Nat) (place : Option Place)
  | fault (code : BitVec 8) (mal park : Bool) (va : Nat) (wr : Bool)

/-- The bytes of XFILL's pattern. -/
def CopyBlk.pattern (b : CopyBlk) : List Byte := (natBytes 8 b.opa.toNat ++ natBytes 8 b.opb.toNat).take b.unit

/-- Scratchpad as a command reads it (R222, R228). -/
def State.cmdView (s : State) (core : CoreId) (x : XCmd) : Arch :=
  (s.core core).arch.seen (cmdReader x.id) s.cycle core.val (some s.free) x.blk.unit

/-- Translates one unit at both ends and reads its source, in scratchpad through the command's view v. dead: a host read
that got no completion (R193). -/
def State.unitOf (s : State) (core : CoreId) (x : XCmd) (v : Arch) (dead : Bool) (b : Nat) : UnitRes :=
  let k := x.blk
  let n := min k.unit (k.total - b)
  let (sa, da) := x.ends b
  match x.strays b with
  | some a => .fault Code.reservedField false false (BitVec.ofInt 64 a).toNat false
  | none =>
    let src := endAddr k.ssp sa
    let dst := endAddr k.dsp da
    let a := (s.core core).arch
    let need : Need := if k.form = 3 then .rw else .w
    let got : SecRead :=
      if k.form = 2 then .bytes (k.pattern.take n) []
      else if k.form = 8 then .bytes [] []
      else if k.ssp then .bytes (v.scrRead src n) [a.scrPoisoned src n]
      else
        match s.readSector core x.ctx src n k.pd x.began k.unit with
        | .bytes bs po =>
          (match s.access core x.ctx src .r with
           | .ok p => if dead && p.kind = 2 then .bytes (zeroBytes n) [true] else .bytes bs po
           | _ => .bytes bs po)
        | r => r
    match got with
    | .fault code mal => .fault code mal (s.parks core x.ctx src .r) src false
    | .bytes bs ps =>
      let po := ps.any id
      if k.dsp then .ok bs po dst none
      else
        match s.access core x.ctx dst need with
        | .bad code mal => .fault code mal (code = Code.pageNotPresent) dst true
        | .ok p =>
          if k.form = 3 ∧ p.kind = 2 then .fault Code.hostAtomicUnsupported false false dst true
          else .ok bs po dst (some p)

/-- The chunk of a barrier that a sector's destinations are, in order, part by part of 4 bytes (R249). -/
def Bar.chunkAt (b : Bar) (dsts : List Nat) (unit len : Nat) (lastSec : Bool) : Option Nat :=
  (List.range b.chunks).find? (fun c =>
    b.chunkLen c = len && (len = 512 || (lastSec && c + 1 = b.chunks)) &&
      dsts.zipIdx.all (fun d => (List.range ((unit + 3) / 4)).all (fun j =>
        decide (len ≤ unit * d.2 + 4 * j) || decide (b.addr (512 * c + unit * d.2 + 4 * j) = d.1 + 4 * j))))

/-- What a sector with BE = 1 does to its barrier (R249). -/
inductive Credit where
  | none                        -- BE = 0
  | drop                        -- not written, counted
  | stray                       -- written, counted
  | bad                         -- written, the barrier faults
  | chunk (c : Nat)             -- written and credited

def Core.creditOf (c : Core) (x : XCmd) (sec : Nat) (dsts : List Nat) : Credit :=
  if !x.blk.be then .none
  else
    let b := c.arch.bar x.blk.bar
    match b.st with
    | .idle | .faulted => .stray
    | .complete | .partialSt => .drop
    | _ =>
      if b.spb ≠ x.blk.dsp then .bad
      else
        match b.chunkAt dsts (min x.blk.unit 16) (min 512 (x.blk.total - 512 * sec)) (sec + 1 = x.sectors) with
        | some k => if c.arch.marked b k then .drop else .chunk k
        | Option.none => .bad

/-- The counters, marks and state of the barrier after a sector. -/
def Core.applyCredit (c : Core) (core : CoreId) (x : XCmd) (va : Nat) : Credit → Core
  | .none => c
  | .stray => c.modBarAs (.command x.epoch) x.blk.bar (fun b => { b with stray := satInc b.stray })
  | .drop =>
    c.modBarAs (.command x.epoch) x.blk.bar (fun b =>
      if b.st = .partialSt then { b with late := satInc b.late } else { b with dup := satInc b.dup })
  | .bad => c.faultBar (.command x.epoch) x.blk.bar Code.reservedField (x.record core (c.xPos x) Code.reservedField false true va 0)
  | .chunk k => c.creditBar (.command x.epoch) x.blk.bar k

def Credit.written : Credit → Bool
  | .drop => false
  | _ => true

/-- The bits of an XACC result (R210). -/
def accOp (b : CopyBlk) (d s : Nat) : Nat :=
  let t := b.et.toNat
  if t ≤ 2 then
    let x := elemVal t d
    let y := elemVal t s
    (floatFmt t).conv 0 false 0 (if b.op = 0 then addVal 0 x y else if b.op = 1 then minVal x y else maxVal x y)
  else
    let w := 8 * (accWidth t).getD 4
    let sg := t ≠ 0x1D
    let x := intVal w sg d
    let y := intVal w sg s
    match b.op with
    | 0 => intStore w sg b.sat (x + y)
    | 1 => wrapInt w (min x y)
    | 2 => wrapInt w (max x y)
    | 3 => d &&& s
    | 4 => d ||| s
    | _ => d ^^^ s

/-- How many units of a sector hold one element: an element of .int64p has two of 4 bytes, which need not lie on one page
(R210). -/
def CopyBlk.perElem (b : CopyBlk) : Nat := max 1 ((accWidth b.et.toNat).getD 4 / b.unit)

/-- Combines source bytes into destination bytes, element by element. -/
def accBytes (b : CopyBlk) (old new : List Byte) : List Byte :=
  let w := (accWidth b.et.toNat).getD 4
  ((chunks w (old.length + 1) old).zip (chunks w (new.length + 1) new)).map
    (fun p => natBytes w (accOp b (bytesNat p.1) (bytesNat p.2))) |>.flatten

/-- The distinct 64-byte units that destination addresses touch. -/
def unitsOf (dsts : List Nat) (n : Nat) : Nat :=
  ((dsts.map (fun d => [d / 64, (d + n - 1) / 64])).flatten.eraseDups).length

/-- The reads of a command have all been done; those of an XACC at a destination beyond the core are read-modify-writes, done
when they are performed (R212). -/
def XCmd.readAll (y : XCmd) : Bool :=
  y.blk.form = 9 || (if y.blk.form = 4 ∨ y.blk.form = 5 then !y.doneSecs.isEmpty
    else decide (y.sectors ≤ y.doneSecs.length + (if y.blk.form = 3 then 0 else y.heldSecs.length)))

/-- A command may read: no earlier acquire command still has reads to perform, and a release waits for every
earlier command and for its engine's effects before its CM word, sealed and performed at its scope, which is at least DEVICE for
a place outside the core (R212, R225, R234). -/
def State.mayMove (s : State) (core : CoreId) (x : XCmd) : Bool :=
  let c := s.core core
  !c.xq.any (fun y => decide (y.id < x.id) && y.blk.acq && !y.readAll) &&
    (!x.blk.rel || (!c.earlierX x.id && !c.hold.any (fun h => decide (h.id < x.asked.2) && h.fromTh = x.fromTh) &&
      s.performed (max 1 x.blk.scope) (x.after core)))

/-- A command has read n bytes at a place, and may have taken them from a release (R225): what that covers is ordered before
what a FENCE with X in pa orders, and after an acquire command also before its own signal and the later commands of the
queue. A release that the read may have missed counts as not read. -/
def State.cmdRead (s : State) (core : CoreId) (x : XCmd) (p : Place) (n upto : Nat) : State :=
  if s.dev.rels.isEmpty then s
  else
    let later := ((s.core core).xq.filter (fun y => decide (x.id < y.id))).map (fun y => cmdReader y.id)
    s.readRelease core (pathSeen 3 :: (if x.blk.acq then xQueue :: cmdReader x.id :: later else [])) p n upto

/-- Once an acquire command has read, the reads of later commands begin (R212). -/
def State.afterAcq (s : State) (core : CoreId) (id : Nat) : State :=
  match (s.core core).cmd id with
  | none => s
  | some x =>
    if x.blk.acq ∧ x.readAll then
      s.modCore core (fun c => { c with xq := c.xq.map (fun (y : XCmd) => if x.id < y.id then { y with began := s.dev.wseq } else y) })
    else s

/-- A unit of XSCAT that an element of a higher number has already written (R209). -/
def XCmd.beaten (x : XCmd) (b : Nat) : Bool :=
  x.blk.form = 7 &&
    (let e := b / x.blk.elem
     let d := (x.ends b).2
     (List.range (x.blk.cnt - (e + 1))).any (fun k =>
       let f := e + 1 + k
       let o := d - (x.ends (f * x.blk.elem)).2
       let o := if x.blk.dsp then o else o % 2 ^ 56
       decide (0 ≤ o) && decide (o < x.blk.elem) && x.doneSecs.contains ((f * x.blk.elem + o.toNat) / 512)))

/-- A sector written within the core. -/
def State.sectorLocal (s : State) (core : CoreId) (x : XCmd) (sec : Nat) (us : List (Nat × List Byte × Bool)) : State :=
  let c := s.core core
  let dsts := us.map (fun u => u.1)
  if us.any (fun u => c.arch.leased u.1 u.2.1.length) then s
  else
    let cr := c.creditOf x sec dsts
    let w : Writer := .command x.epoch
    let c :=
      if !cr.written then c
      else if x.blk.form = 3 then
        (chunks x.blk.perElem (us.length + 1) us).foldl (fun (c : Core) g =>
          let a := (g.headD (0, [], false)).1
          let new := (g.map (fun u => u.2.1)).flatten
          let old := c.arch.scrRead a new.length
          c.scrWrite w .x a (accBytes x.blk old new) (g.any (fun u => u.2.2) || c.arch.scrPoisoned a old.length) x.blk.unit) c
      else (us.zip (x.units sec)).foldl (fun c u => if x.beaten u.2 then c else c.scrWrite w .x u.1.1 u.1.2.1 u.1.2.2 x.blk.unit) c
    let k := c.arch.scrLog.length - (s.core core).arch.scrLog.length
    let c := c.cmdWrites x k
    let c := match cr with
      | .chunk n => c.alter w (fun a => a.orderNewest k (chunkTok x.blk.bar (a.bar x.blk.bar).gen n))
      | _ => c
    let c := c.applyCredit core x (dsts.headD 0) cr
    let c := c.noteDelivered (us.any (fun u => u.2.2))
    let c := c.modCmd x.id (fun y => { y with doneSecs := sec :: y.doneSecs })
    if (s.core core).panLacks c then s.modCore core (fun c => c.producerStall (panCmd x.id))
    else (s.setCore core (c.producerGoes (panCmd x.id))).settle core

/-- A sector handed to the Pan. -/
def State.sectorHeld (s : State) (core : CoreId) (x : XCmd) (sec : Nat) (us : List (Nat × List Byte × Bool × Place)) : State :=
  let c := s.core core
  let dsts := us.map (fun u => u.1)
  let po := us.map (fun u => u.2.2.1)
  let pieces := us.map (fun u => (u.2.2.2, u.2.1))
  let n := min 512 (x.blk.total - 512 * sec)
  let (eff, entries) : Eff × Nat :=
    match x.blk.form with
    | 3 => (.rmw x.id sec pieces po, n / (accWidth x.blk.et.toNat).getD 4)
    | 8 => (.cmo x.id sec (pieces.map (fun p => p.1)), if sec % 128 = 0 then 1 else 0)
    | _ => (.write (.command x.id) sec x.blk.dpol pieces po, unitsOf dsts x.blk.unit)
  if 2048 < c.holdUsed + entries then s.modCore core (fun c => c.producerStall (panCmd x.id))
  else
    let c := (c.producerGoes (panCmd x.id)).holdEff s.cycle eff entries x.fromTh x.pc x.epoch (dsts.headD 0) x.blk.unit
    s.setCore core ((c.modCmd x.id (fun y => { y with heldSecs := sec :: y.heldSecs })).autoCp)

/-- A release command whose covered writes include a discarded one faults (R239). -/
def State.releaseLost (s : State) (core : CoreId) (x : XCmd) : State :=
  s.faultCmd core x Code.poolRegionLost ((s.lostFor (x.after core)).getD 0) true

/-- The places in memory that a sector reads, unit by unit (R225). -/
def State.sectorReads (s : State) (core : CoreId) (x : XCmd) (sec : Nat) : List Place :=
  if x.blk.ssp ∨ x.blk.form = 2 ∨ x.blk.form = 8 then []
  else (x.units sec).filterMap (fun b =>
    match s.access core x.ctx (endAddr false (x.ends b).1) .r with
    | .ok p => if p.kind = 3 then none else some p
    | .bad _ _ => none)

/-- What reading a sector leaves behind: lines of the pool in the LLC (R237), and what releases that it has read order (R225). -/
def State.sectorRead (s : State) (core : CoreId) (x : XCmd) (sec : Nat) : State :=
  (s.sectorReads core x sec).foldl (fun (s : State) p =>
    let s := if p.kind = 1 ∧ x.blk.spol = 0 then s.modDev (fun d => d.sharePool (p.pa - d.pwbase.toNat) x.blk.unit) else s
    s.cmdRead core x p x.blk.unit x.began) s

/-- A sector of a running or parked command. -/
def State.copySector (s : State) (core : CoreId) (id sec : Nat) (dead : Bool) : State :=
  let c := s.core core
  match c.cmd id with
  | none => s
  | some x =>
    if c.restart.isSome ∨ !(x.st = .running ∨ x.st = .parked) ∨ x.blk.form = 4 ∨ x.blk.form = 5 ∨ x.blk.form = 9 ∨
        x.sectors ≤ sec ∨ !x.toDo sec then s
    else if !s.mayMove core x then (if x.blk.rel then s.askFlush core (max 1 x.blk.scope) (x.after core) else s)
    else if (x.blk.rel && (s.lostFor (x.after core)).isSome) = true then s.releaseLost core x
    else
      let v := s.cmdView core x
      let rs := (x.units sec).map (fun b => s.unitOf core x v dead b)
      match rs.findSome? (fun r => match r with | .fault a b c d e => some (a, b, c, d, e) | _ => none) with
      | some (code, mal, park, va, wr) => s.cmdFault core x code mal park va wr
      | none =>
        let s := s.sectorRead core x sec
        if x.blk.dsp then
          (s.sectorLocal core x sec (rs.filterMap (fun r => match r with | .ok bs po d _ => some (d, bs, po) | _ => none))).afterAcq
            core id
        else
          (s.sectorHeld core x sec (rs.filterMap (fun r =>
            match r with | .ok bs po d (some p) => some (d, bs, po, p) | _ => none))).afterAcq core id

def execCopySectorDone (core : CoreId) (cmd sector : Nat) (s : State) : Host.Outcome State Fault Refusal :=
  .next (s.copySector core cmd sector false).bumpFree

/-! ### Performing held sectors (R213, R216, R219, R346) -/

/-- Performs the writes of pieces, each with its poison, at virtual addresses vas; a piece may be left out. -/
def Dev.writePieces (d : Dev) (pol : Nat) (po : List Bool) (ps : List (Place × List Byte)) (au : Author := Author.other)
    (vas : List Nat := []) (leave : List Bool := []) : Dev :=
  ps.zipIdx.foldl (fun d p =>
    if leave.getD p.2 false then d
    else d.writePlace p.1.1 pol p.1.2 (po.getD p.2 false) { au with va := vas.getD p.2 au.va }) d

/-- The author of a command's writes at a cycle, as held effect number held. -/
def XCmd.author (x : XCmd) (core : CoreId) (held va now : Nat) : Author :=
  ⟨core.val, x.fromTh, .x, x.id, held, va, if x.blk.form = 3 then (accWidth x.blk.et.toNat).getD 4 else x.blk.unit, now + 1⟩

/-- A write of a command at a place releases what the command covers but for its own writes (R212, R231, R233). -/
def State.cmdReleases (s : State) (core : CoreId) (x : XCmd) (p : Place) (n : Nat) : State :=
  let own (w : ScrWr) : Bool := w.before (cmdCover x.id) || (x.blk.rel && x.coversScr w)
  let far (w : MemWr) : Bool := w.before core (cmdCover x.id) || (x.blk.rel && x.after core w)
  if x.blk.rel || (s.core core).arch.scrLog.any own || s.dev.wlog.any far then s.releaseAt core p n own far else s

/-- The fault of a held sector at its target (R193, R213, R380). -/
def State.remoteFails (s : State) (core : CoreId) (ctx : Nat) (ps : List Place) : Option (BitVec 8) :=
  ps.findSome? (fun p => s.remoteFault core ctx p 0)

/-- Performs a held write: of a stream, or of a copy sector with its credit. -/
def State.performWrite (s : State) (core : CoreId) (h : Held) (obj : ObjRef) (pos pol : Nat) (ps : List (Place × List Byte))
    (po : List Bool) : State :=
  let va := h.va
  let au (v : Via) (id : Nat) : Author := ⟨core.val, h.fromTh, v, id, h.id, va, h.unit, s.cycle + 1⟩
  match obj with
  | .command id =>
    match (s.core core).cmd id with
    | none => s.modDev (fun d => d.writePieces pol po ps (au .x id))
    | some x =>
      if ps.any (fun p => s.dev.lostPlace p.1) then s.faultCmd core x Code.poolRegionLost va true
      else
        match s.remoteFails core x.ctx (ps.map (fun p => p.1)) with
        | some code => s.faultCmd core x code va true
        | none =>
          let c := s.core core
          let vas := (x.units pos).map (fun b => endAddr false (x.ends b).2)
          let cr := c.creditOf x pos vas
          let from_ := s.dev.wseq
          let s := if cr.written then
            ps.foldl (fun (s : State) p => s.cmdReleases core x p.1 p.2.length)
              (s.modDev (fun d => d.writePieces pol po ps (x.author core h.id va s.cycle) vas ((x.units pos).map x.beaten))) else s
          let s := match cr with
            | .chunk k => s.modDev (fun d =>
                d.order [memAgent core (chunkTok x.blk.bar (c.arch.bar x.blk.bar).gen k)] (fun w => decide (from_ < w.seq)))
            | _ => s
          let s := s.modCore core (fun c => (c.applyCredit core x va cr).modCmd id (fun y =>
            { y with doneSecs := pos :: y.doneSecs, heldSecs := y.heldSecs.filter (· ≠ pos) }))
          s.settle core
  | .stream n =>
    let own (w : ScrWr) : Bool := w.before (streamReader n)
    let far (w : MemWr) : Bool := w.before core (streamReader n)
    let s := s.modDev (fun d => d.writePieces pol po ps (au (.s n) 0))
    if (s.core core).arch.scrLog.any own || s.dev.wlog.any far then
      ps.foldl (fun (s : State) p => s.releaseAt core p.1 p.2.length own far) s
    else s
  | .flow _ | .other => s.modDev (fun d => d.writePieces pol po ps (au .x 0))

/-- Performs the read-modify-writes of an XACC sector at its destination (R210, R213): those of one sector one after the other
in ascending order, none of another command between them (DESIGN CHOICE: R214 leaves their order open, log entry 149). -/
def State.performAcc (s : State) (core : CoreId) (h : Held) (x : XCmd) (sec : Nat) (ps : List (Place × List Byte)) (po : List Bool) :
    State :=
  let va := h.va
  if ps.any (fun p => s.dev.lostPlace p.1) then s.faultCmd core x Code.poolRegionLost va true
  else
    match s.remoteFails core x.ctx (ps.map (fun p => p.1)) with
    | some code => s.faultCmd core x code va true
    | none =>
      let c := s.core core
      let vas := (x.units sec).map (fun b => endAddr false (x.ends b).2)
      let cr := c.creditOf x sec vas
      let pol := if ps.any (fun p => p.1.kind = 1) then 1 else x.blk.dpol
      let one (d : Dev) (g : List ((Place × List Byte) × Nat)) : Dev :=
        let old := (g.map (fun p => d.readPlace p.1.1 p.1.2.length)).flatten
        let new := accBytes x.blk old (g.map (fun p => p.1.2)).flatten
        let bad := g.any (fun p => po.getD p.2 false || d.placePoison p.1.1 p.1.2.length)
        (g.foldl (fun (r : Dev × List Byte) p =>
          (r.1.writePlace p.1.1 pol (r.2.take p.1.2.length) bad (x.author core h.id (vas.getD p.2 va) s.cycle), r.2.drop p.1.2.length))
          (d, new)).1
      let s := ps.foldl (fun (s : State) p => s.cmdRead core x p.1 p.2.length s.dev.wseq) s
      let from_ := s.dev.wseq
      let s := if cr.written then
        ps.foldl (fun (s : State) p => s.cmdReleases core x p.1 p.2.length)
          (s.modDev (fun d => (chunks x.blk.perElem (ps.length + 1) ps.zipIdx).foldl one d)) else s
      let s := match cr with
        | .chunk k => s.modDev (fun d =>
            d.order [memAgent core (chunkTok x.blk.bar (c.arch.bar x.blk.bar).gen k)] (fun w => decide (from_ < w.seq)))
        | _ => s
      let s := s.modCore core (fun c => (c.applyCredit core x va cr).modCmd x.id (fun y =>
        { y with doneSecs := sec :: y.doneSecs, heldSecs := y.heldSecs.filter (· ≠ sec) }))
      (s.settle core).afterAcq core x.id

/-- A held read-modify-write leaves the Pan: XACC is performed, XFAO and XCAS go to their home. -/
def State.performRmw (s : State) (core : CoreId) (h : Held) (id sec : Nat) (ps : List (Place × List Byte)) (po : List Bool) : State :=
  match (s.core core).cmd id with
  | none => s
  | some x =>
    if x.blk.form = 3 then s.performAcc core h x sec ps po
    else s.modCore core (fun c => c.modCmd id (fun y => { y with rmw := ps.head?.map (fun p => p.1) }))

/-- Maintenance of the LLC lines of a sector (R219). -/
def State.performCmo (s : State) (core : CoreId) (id sec : Nat) (ps : List Place) (va : Nat) : State :=
  match (s.core core).cmd id with
  | none => s
  | some x =>
    if ps.any s.dev.lostPlace then s.faultCmd core x Code.poolRegionLost va true
    else
      let ls := ((ps.filter (fun p => p.kind = 1)).map (fun p => (p.pa - s.dev.pwbase.toNat) / 64)).eraseDups
      let own := ((ps.filter (fun p => p.kind = 0)).map (fun p => p.pa / 64)).eraseDups
      let s := s.modDev (fun d => ls.foldl (fun (d : Dev) l =>
        if x.blk.op = 0 then d.cleanLine l
        else if x.blk.op = 1 then d.dropLine l
        else (d.cleanLine l).dropLine l) d)
      let s := s.modDev (fun d => if x.blk.op = 1 then own.foldl Dev.llcDrop d else d.llcClean own)
      let s := s.modCore core (fun c => c.modCmd id (fun y =>
        { y with doneSecs := sec :: y.doneSecs, heldSecs := y.heldSecs.filter (· ≠ sec) }))
      s.settle core

/-! ### Starting (R205, R211, R217) -/

/-- What XFAO and XCAS store, from the old value (R211). -/
def rmwNew (a : Arch) (b : CopyBlk) (old : Nat) : Nat :=
  let w := 8 * b.unit
  let x := b.opa.toNat % 2 ^ w
  if b.form = 5 then
    let (cmp, swp) :=
      if b.unit = 16 then (bytesNat (a.scrRead b.ret 16), bytesNat (a.scrRead (b.ret + 16) 16))
      else (x, b.opb.toNat % 2 ^ w)
    if old = cmp then swp else old
  else
    match b.op with
    | 0 => (old + x) % 2 ^ w
    | 1 => if intVal w true old ≤ intVal w true x then old else x
    | 2 => if intVal w true x ≤ intVal w true old then old else x
    | 3 => old &&& x
    | 4 => old ||| x
    | 5 => old ^^^ x
    | 6 => min old x
    | 7 => max old x
    | _ => x

/-- The AtomicOp of a host read-modify-write: 1 FetchAdd, 2 Swap, 3 CAS; none for the others (R213). -/
def hostOp (b : CopyBlk) : Option Nat :=
  if b.form = 5 then some 3 else if b.op = 0 then some 1 else if b.op = 8 then some 2 else none

/-- An XFAO or XCAS translates and enters the Pan, or faults; it never parks (R217). -/
def State.startRmw (s : State) (core : CoreId) (x : XCmd) : State :=
  let va := x.blk.dst
  match s.access core x.ctx va .rw with
  | .bad code mal => s.faultCmd core x code va true mal
  | .ok p =>
    if p.kind = 2 ∧ (hostOp x.blk).isNone then s.faultCmd core x Code.hostAtomicUnsupported va true
    else s.modCore core (fun c =>
      (((c.producerGoes (panCmd x.id)).holdEff s.cycle (.rmw x.id 0 [(p, [])] []) 1 x.fromTh x.pc x.epoch va x.blk.unit).modCmd x.id
        (fun y => { y with heldSecs := [0] })).autoCp)

/-- A read-modify-write in progress that a strike has taken out of the Pan, and that now continues (R220). -/
def Core.rmwLost (c : Core) : Option XCmd :=
  c.xq.find? (fun x => x.st = .running && (x.blk.form = 4 || x.blk.form = 5) && x.heldSecs.isEmpty && x.rmw.isNone &&
    x.doneSecs.isEmpty && x.reply.isNone)

/-- The index array of a command as it starts: read over the L path (R209), which sees the issuing engine's own writes, and
what the acquire of its wait field orders before the command. -/
def State.startIdx (s : State) (core : CoreId) (x : XCmd) : List Int :=
  if x.blk.form = 6 ∨ x.blk.form = 7 then
    let r := if x.fromCore = core.val ∧ x.bundle.isNone then lReader x.fromTh else cmdReader x.id
    let v := ((s.core core).arch.order r (fun w => w.before (cmdReader x.id))).seen r s.cycle core.val (some s.free) 4
    (List.range x.blk.cnt).map (fun e => leInt32 (v.scrRead (x.blk.ret + 4 * e) 4) 0)
  else []

/-- A command becomes RUNNING; a wait field that is met is an acquire for it (R217, R233). -/
def State.beginCmd (s : State) (core : CoreId) (x : XCmd) : State :=
  let s := if x.sig.we then s.semAcquire core (cmdReader x.id) x.sig.ws x.blk.scope else s
  let idx := s.startIdx core x
  s.modCore core (fun c => (c.modCmd x.id (fun y => { y with st := .running, idx := idx, began := s.dev.wseq })).autoCp)

/-- The X engine starts a command: the head of its queue, once its wait has been found met (R244) and fewer than 8 are in progress. One that
reads as it starts, an index array or a read-modify-write, waits for what ORD holds it back from (R205, R212). -/
def State.xStart (s : State) (core : CoreId) : State :=
  let c := s.core core
  match c.rmwLost with
  | some x =>
    if c.restart.isSome ∨ !s.mayMove core x then s
    else if 2048 < c.holdUsed + 1 then s.modCore core (fun c => c.producerStall (panCmd x.id))
    else if (x.blk.rel && (s.lostFor (x.after core)).isSome) = true then s.releaseLost core x
    else s.startRmw core x
  | none =>
    match c.xq.find? (fun x => x.st = .queued) with
    | none => s
    | some x =>
      let early := x.blk.form = 4 || x.blk.form = 5 || x.blk.form = 6 || x.blk.form = 7
      let rmw := x.blk.form = 4 || x.blk.form = 5
      if !c.flows && !(c.region = .idle && c.restart.isNone) ∨ (x.sig.we && !x.met) ∨
          8 ≤ (c.xq.filter (fun y => y.st = .running || y.st = .parked)).length then s
      else if early && !s.mayMove core x then (if x.blk.rel then s.askFlush core (max 1 x.blk.scope) (x.after core) else s)
      else if rmw ∧ 2048 < c.holdUsed + 1 then s.modCore core (fun c => c.producerStall (panCmd x.id))
      else if (rmw && x.blk.rel && (s.lostFor (x.after core)).isSome) = true then s.releaseLost core x
      else
        let s := s.beginCmd core x
        if rmw then s.startRmw core { x with st := .running } else s.settle core

def execXCommandStart (core : CoreId) (s : State) : Host.Outcome State Fault Refusal := .next (s.xStart core).bumpFree

/-! ### Read-modify-writes at their home (R211, R213) -/

/-- The old value comes: it reaches RET, once no lease holds those bytes, and the command's unit is done (R172). -/
def State.rmwFinish (s : State) (core : CoreId) (x : XCmd) (old : List Byte) (po : Bool) : State :=
  ((s.modCore core (fun c => c.modCmd x.id (fun y => { y with reply := some (old, po) }))).settle core).afterAcq core x.id

/-- The command of an XFAO or XCAS that has left the Pan, with its place. -/
def Core.rmwOf (c : Core) (id : Nat) : Option (XCmd × Place) :=
  match c.cmd id with
  | some x => x.rmw.map (fun p => (x, p))
  | none => none

def State.rmwHome (s : State) (core : CoreId) (id : Nat) : State :=
  let c := s.core core
  match c.rmwOf id with
  | none => s
  | some (x, p) =>
    if c.restart.isSome ∨ p.kind = 2 ∨ x.reply.isSome then s
    else if s.dev.lostPlace p then s.faultCmd core x Code.poolRegionLost x.blk.dst true
    else if p.kind = 3 then
      match s.remoteFault core x.ctx p 0 with
      | some code => s.faultCmd core x code x.blk.dst true
      | none => s.rmwFinish core x (s.freeBytes x.blk.unit) false
    else
      let old := s.dev.readPlace p x.blk.unit
      let po := s.dev.placePoison p x.blk.unit
      let new := natBytes x.blk.unit (rmwNew (s.cmdView core x) x.blk (bytesNat old))
      let s := s.cmdRead core x p x.blk.unit s.dev.wseq
      let s := s.modDev (fun d => d.writePlace p (if p.kind = 1 then 1 else x.blk.dpol) new po (x.author core 0 x.blk.dst s.cycle))
      (s.cmdReleases core x p x.blk.unit).rmwFinish core x old po

/-- The reply to a remote atomic whose request has been sent: op is its flow and first FSN, as flow × 2^32 + FSN. The
target's memory is not in this machine, so the old value is free (log entry 3). -/
def State.remoteAtomDone (s : State) (core : CoreId) (op : Nat) : State :=
  let c := s.core core
  match c.arch.seq.ops.find? (fun o => o.kind = 5 && decide (o.flow * 2 ^ 32 + o.first = op)) with
  | none => s
  | some o =>
    if c.restart.isSome ∨ !(c.flow o.flow).unacked.any (fun u => u.op = o.first && u.sent) then s
    else s.setCore core (c.atomDone o (s.freeBytes o.width))

/-- unit 0: command cmd of the X queue; unit 1: the remote atomic cmd. -/
def execReadModifyWriteDone (core : CoreId) (cmd unit : Nat) (s : State) : Host.Outcome State Fault Refusal :=
  .next (if unit = 0 then (s.rmwHome core cmd).bumpFree
    else if unit = 1 then (s.remoteAtomDone core cmd).bumpFree else s)

/-- The completer performs the operation on host memory, whose old value it reports. -/
def State.hostPerform (s : State) (core : CoreId) (x : XCmd) (p : Place) (old : Nat) : State :=
  let new := natBytes x.blk.unit (rmwNew (s.cmdView core x) x.blk (old % 2 ^ (8 * x.blk.unit)))
  let s := s.cmdRead core x p x.blk.unit s.dev.wseq
  (s.modDev (fun d => d.writePlace p 0 new false (x.author core 0 x.blk.dst s.cycle))).cmdReleases core x p x.blk.unit

/-- Posts a request to the proxy ring (R428, R429): its record is written to host memory, PROD rises, VEC is
raised. -/
def State.proxyPost (s : State) (core : CoreId) (x : XCmd) (p : Place) : State :=
  let d := s.dev
  let n := 2 ^ d.pxlogn
  let a := d.pxbase.toNat + d.pxprod % n * 128
  let arch := s.cmdView core x
  let (opnd, swp) :=
    if x.blk.unit = 16 then (bytesNat (arch.scrRead x.blk.ret 16), bytesNat (arch.scrRead (x.blk.ret + 16) 16))
    else (x.blk.opa.toNat, x.blk.opb.toNat)
  let bs := natBytes 8 d.pxprod ++ natBytes 8 p.pa ++ natBytes 1 ((hostOp x.blk).getD 0) ++ natBytes 1 x.blk.unit ++
    natBytes 1 core.val ++ natBytes 1 0 ++ natBytes 4 x.blk.tag.toNat ++ natBytes 16 opnd ++ natBytes 16 swp ++
    zeroBytes 56
  let d := { d with host := Store.put 0 d.host a bs, pxprod := d.pxprod + 1
                    pxreqs := d.pxreqs ++ [⟨d.pxprod, core.val, x.id, s.dtime, false⟩] }
  ({ s with dev := d }).irq d.pxvec

/-- An AtomicOp completion (R213). -/
def State.atomicCpl (s : State) (core : CoreId) (id : Nat) (r : AtomicCpl) : State :=
  match (s.core core).rmwOf id with
  | none => s
  | some (x, p) =>
    if p.kind ≠ 2 ∨ x.reply.isSome ∨ s.dev.pxreqs.any (fun q => q.core = core.val && q.cmd = id) then s
    else
      match r with
      | .success old po => (s.hostPerform core x p old.toNat).rmwFinish core x (natBytes x.blk.unit old.toNat) po
      | .completerAbort => s.faultCmd core x Code.hostAtomicUnsupported x.blk.dst true
      | .unsupportedRequest =>
        if s.dev.pxen then s.proxyPost core x p else s.faultCmd core x Code.hostProxyDisabled x.blk.dst true

def execHostAtomicCompletion (core : CoreId) (cmd : Nat) (r : AtomicCpl) (s : State) : Host.Outcome State Fault Refusal :=
  .next (s.atomicCpl core cmd r)

def execAtomicCompletionTimeout (core : CoreId) (cmd : Nat) (performed : Bool) (s : State) :
    Host.Outcome State Fault Refusal :=
  .next (match (s.core core).rmwOf cmd with
    | none => s
    | some (x, p) =>
      if p.kind ≠ 2 ∨ x.reply.isSome ∨ s.dev.pxreqs.any (fun q => q.core = core.val && q.cmd = cmd) then s
      else
        let old := bytesNat (s.dev.readPlace p x.blk.unit)
        (if performed then s.hostPerform core x p old else s).faultCmd core x Code.hostCompletionTimeout x.blk.dst true)

/-! ### The proxy ring (R429) -/

/-- Drops a request. -/
def Dev.dropPx (d : Dev) (n : Nat) : Dev := { d with pxreqs := d.pxreqs.filter (fun q => q.seq ≠ n) }

/-- A claim: granted while the request is unclaimed and its time has not run out. -/
def execPxclaim (seq : BitVec 64) (s : State) : Host.Outcome State Fault Refusal :=
  let n := seq.toNat % 2 ^ 63
  let ok := s.dev.pxreqs.any (fun q => q.seq = n && !q.claimed && decide (s.dtime < q.postedAt + 1000 * s.dev.pxtmo))
  .next (if !s.ready then s else s.modDev (fun d =>
    { d with pxok := ok, pxseq := BitVec.ofNat 64 n
             pxreqs := if ok then d.pxreqs.map (fun (q : ProxyReq) => if q.seq = n then { q with claimed := true } else q) else d.pxreqs }))

/-- A claimed request is answered: the device reads OLD from the record and completes the command. -/
def execPxdone (seq : BitVec 64) (s : State) : Host.Outcome State Fault Refusal :=
  let n := seq.toNat % 2 ^ 63
  .next (match s.dev.pxreqs.find? (fun q => s.ready && q.seq = n && q.claimed) with
    | none => s
    | some q =>
      let t := s.modDev (fun d => d.dropPx n)
      match (t.core (coreId q.core)).rmwOf q.cmd with
      | none => t
      | some (x, _) =>
        let a := s.dev.pxbase.toNat + n % 2 ^ s.dev.pxlogn * 128 + 0x38
        t.rmwFinish (coreId q.core) x (Store.run 0 s.dev.host a x.blk.unit) false)

def execProxyClaimTimeout (seq : BitVec 64) (s : State) : Host.Outcome State Fault Refusal :=
  .next (match s.dev.pxreqs.find? (fun q => q.seq = seq.toNat && !q.claimed && decide (q.postedAt + 1000 * s.dev.pxtmo ≤ s.dtime)) with
    | none => s
    | some q =>
      let t := s.modDev (fun d => d.dropPx seq.toNat)
      match (t.core (coreId q.core)).rmwOf q.cmd with
      | none => t
      | some (x, _) => t.faultCmd (coreId q.core) x Code.hostCompletionTimeout x.blk.dst true)

/-! ### Translation and host reads (R193, R326, R327) -/

/-- The core's cache takes the leaf that an access translates with, of a second-level hit or a completed walk; a completed walk
fills the die's cache, with the tables too (R327). Entries that are not present or malformed are never cached. -/
def State.fillCaches (s : State) (core : CoreId) (ctx va : Nat) : State :=
  let x := s.dev.ctx ctx
  match s.xlate core ctx va with
  | .leaf e lvl =>
    let t : TlbEnt := ⟨x.asid, lvl, va / 2 ^ pageBits lvl, e⟩
    let s := s.modCore core (fun c => { c with tlb := fillTlb 512 c.tlb t })
    if s.dev.walk x va ≠ .leaf e lvl then s
    else
      let die := dieOf core
      s.modDev (fun d => { d with tlb := d.tlb.set die ((d.walkEnts x.asid va 4 x.root 0).foldl (fillTlb 16384) d.tlb[die]) })
  | _ => s

/-- The first sector of a stream that holds a byte at va and is not yet done or parked. -/
def Stream.sectorAt (t : Stream) (va : Nat) : Option Nat :=
  (List.range t.pat.runs).findSome? (fun r =>
    let a := t.pat.runAddr t.off t.idx r
    let o := (va + 2 ^ 56 - a) % 2 ^ 56
    let x := t.sector (r * t.pat.run + o)
    if o < t.pat.run ∧ !t.doneSecs.contains x.pos ∧ !t.parked.any (fun p => p.pos = x.pos) then some x.pos else none)

/-- A completed translation fills the caches; one that meets a fault parks or faults the sector that waited
for it. -/
def execTranslationDone (core : CoreId) (obj : ObjRef) (va : BitVec 64) (s : State) : Host.Outcome State Fault Refusal :=
  let v := va.toNat % 2 ^ 56
  .next (match obj with
    | .flow _ | .other => s.fillCaches core (s.core core).ctx v
    | .stream n =>
      let s := s.fillCaches core (s.core core).ctx v
      let t := (s.core core).arch.stream n
      if !t.live ∨ !(s.core core).flows then s
      else
        match s.access core (s.core core).ctx v (if t.kind = 3 then .w else .r), t.sectorAt v with
        | .bad code mal, some pos =>
          if code = Code.poolRegionLost ∨ (s.core core).tooFar n (t.sector pos) then s else s.streamFault core n (t.sector pos) code mal (code = Code.pageNotPresent)
        | _, _ => s
    | .command id =>
      match (s.core core).cmd id with
      | none => s
      | some x => s.fillCaches core x.ctx v)

/-- A host read that gets no completion: its bytes are zeros carrying poison (R193). -/
def execHostReadTimeout (core : CoreId) (obj : ObjRef) (pos : Nat) (s : State) : Host.Outcome State Fault Refusal :=
  .next (match obj with
    | .flow _ | .other => s
    | .command id => (s.copySector core id pos true).bumpFree
    | .stream n =>
      let c := s.core core
      let t := c.arch.stream n
      let x := t.sector pos
      if !c.flows ∨ !t.live ∨ t.kind = 3 ∨ t.pat.total ≤ pos ∨ t.doneSecs.contains x.pos ∨ t.parked.any (fun p => p.pos = x.pos) ∨
          c.sectorLeased t x ∨ c.tooFar n x then s
      else if t.pat.ind ∧ (t.pat.runAddr t.off t.idx (pos / t.pat.run)) % t.atm ≠ 0 then
        s.faultStream core n Code.misaligned (t.pat.runAddr t.off t.idx (pos / t.pat.run))
      else
        match s.access core c.ctx x.va .r with
        | .ok p => if p.kind = 2 then s.sectorIn core n x (zeroBytes x.len) (List.replicate x.len true) false else s
        | _ => s)

end Sys2Proof.Machine
end

