-- ==== Sys2Proof/Machine/Queue.lean ====
section
/-! DEFINITION. The engine command queues (R272 to R276): QPUSH, QPOLL and TQPUSH, the reservation of entries,
and the delivery of an entry to its target. -/

namespace Sys2Proof.Machine

open Sys2Proof

/-! ### Targets and room -/

/-- A target queue of a core by number: 0 X, 1 T, 2 Chaperone, 3 + n ring n. -/
def queueOf (qsel : Nat) (bs : List Byte) : Nat := if qsel = 3 then 3 + leAt bs 8 1 % 16 else qsel

/-- An entry of the target queue, or a slot of the target ring, is free (R260, R272). -/
def State.queueRoom (s : State) (k : CoreId) (q : Nat) : Bool :=
  let c := s.core k
  if q = 0 then decide (c.queuedX + s.reserved k 0 < 64)
  else if q = 1 then decide (c.arch.seq.cmdq.length + s.reserved k 1 < 64)
  else if q = 2 then decide (c.chq.length + s.reserved k 2 < 32)
  else decide (1 ≤ (c.arch.ring (q - 3)).free)

/-- Cores with a word stalled on the target. -/
def State.pushers (s : State) (k : CoreId) (q : Nat) : List Nat :=
  (List.range 64).filter (fun n =>
    let a := (s.core (coreId n)).arch
    a.engC.pushTo = some (k.val, q) || a.chap.pushTo = some (k.val, q))

/-- The core that a freed entry goes to: the first stalled one after the core served last (R274). -/
def State.nextPusher (s : State) (k : CoreId) (q : Nat) : Option Nat :=
  let ws := s.pushers k q
  let last := Store.get 63 (s.core k).pushTurn q
  ((List.range 64).map (fun j => (last + 1 + j) % 64)).find? (fun n => ws.contains n)

/-- The word being executed may take an entry: one is free, and no stalled word of another core comes first. -/
def State.mayPush (s : State) (k : CoreId) (q : Nat) : Bool :=
  s.queueRoom k q &&
    (match s.nextPusher k q with
     | none => true
     | some n => n = s.cur.core.val && s.eng.pushTo = some (k.val, q))

/-! ### Delivery (R273, R274) -/

/-- The entry of a T queue. -/
def tcmdOf (bs : List Byte) (sg : WaitSig) (ctx src : Nat) : TCmd :=
  { bytes := bs, we := sg.we, ws := sg.ws, wt := sg.wt, se := sg.se, ss := sg.ss, si := sg.si, sigCore := sg.sigCore
    popped := false, handle := 0, ctx := ctx, fromCore := src, met := false }

/-- A signal whose effect is sealed: it is applied where it is addressed, or dropped and counted at its issuing
core when that core is disabled (R275). -/
def State.signalSealed (s : State) (src : CoreId) (sg : WaitSig) : State :=
  if !sg.se then s
  else if !s.dev.cemask.getLsbD sg.sigCore then
    s.modCore src (fun c => { c with sigdrop := if c.sigdrop = 0xFFFFFFFF then c.sigdrop else c.sigdrop + 1 })
  else s.modCore (coreId sg.sigCore) (fun c => (c.semAdd .outside sg.ss (BitVec.ofNat 32 sg.si)).autoCp)

/-- Writes a ring slot and publishes it, which releases its bytes: the block, then zeros (R263, R273). -/
def Core.fillSlot (c : Core) (w : Writer) (n : Nat) (bs : List Byte) : Core :=
  let r := c.arch.ring n
  let c := (c.scrWrite w .t (r.slotAddr r.pub) (padTo r.slot bs) false).shade .ringWord .outside n
  c.alter w (fun a => (a.orderNewest 1 (ringTok n)).modRing n (fun r => r.publish 1))

/-- Gives an entry to its target core. own: the target is the issuing core, whose rollback undoes an X or T entry;
entries of other cores belong to their target (R276), and a rollback keeps every Q publication (R266). -/
def State.deliver (s : State) (src k : CoreId) (q : Nat) (bs : List Byte) (sg : WaitSig) (cls ctx : Nat) (th : Thread)
    (pc : W64) (own : Bool) : State :=
  let c := s.core k
  if q = 0 then
    let b := copyFields bs (bitsOf (leAt bs 0 8) 27 24)
    let ep := if own then c.cpCount else 0
    (s.pushX k b sg src.val th pc ctx ep (s.dev.wseq, if own then c.nextHold else 0) none
      (if own then some th else none)).modCore k Core.autoCp
  else if q = 1 then
    s.setCore k (c.alter (if own then .own else .outside) (fun a =>
      { a with seq := { a.seq with cmdq := a.seq.cmdq ++ [tcmdOf bs sg ctx src.val] } }))
  else if q = 2 then
    s.setCore k { c with chq := c.chq ++ [⟨bs, ctx, cls, sg, src.val⟩] }
  else s.setCore k (c.fillSlot .outside (q - 3) bs)

/-- The class of an entry's source: the effective class of the bundle whose tile task issues the word (R284). -/
def State.sourceClass (s : State) : Nat :=
  match s.here.task with
  | none => 0
  | some t => match s.dev.bundle t.bundle with | some b => b.cls | none => 0

/-- A deposit into a ring of the issuing core is held: its next slot is leased (R172), or an earlier entry of the core to the
ring is held still, behind which it arrives (R274). -/
def State.slotLeased (s : State) (k : CoreId) (q : Nat) : Bool :=
  decide (3 ≤ q) && k = s.cur.core &&
    (let r := (s.core k).arch.ring (q - 3)
     (s.core k).arch.leased (r.slotAddr r.pub) r.slot ||
      (s.core k).hold.any (fun h => match h.eff with | .qentry k' q' n _ _ _ => k' = k.val && q' = 3 && n = q - 3 | _ => false))

/-- Takes an entry for the word being executed. An entry to another core, or to a Chaperone, waits in the Pan
with its reservation, and so does one whose slot of the own core a lease holds; any other to the issuing core's own queue
is there at once. -/
def State.enqueue (s : State) (k : CoreId) (q : Nat) (bs : List Byte) (sg : WaitSig) : State :=
  let me := s.cur.core
  let s := s.modCore k (fun c => { c with pushTurn := Store.set 63 c.pushTurn q me.val })
  if k = me ∧ q ≠ 2 ∧ s.slotLeased k q = false then
    let s := if q = 1 then s.inherits me tReader (tHeir s.cur.th) else s
    let s := s.deliver me k q bs sg s.sourceClass s.here.ctx s.cur.th s.eng.pc true
    if 3 ≤ q then
      s.signal me me .own sg s.cur.th s.eng.pc s.here.cpCount (fun w => w.before (ringTok (q - 3))) (fun _ => false)
    else s
  else
    let e : Eff := .qentry k.val (min q 3) (q - 3) bs sg s.sourceClass
    let s := s.modHere (fun c => (c.holdEff s.cycle e 1 s.cur.th s.eng.pc c.cpCount 0).autoCp)
    if 3 ≤ q then s.modCore k (fun c => c.keep (fun a => a.modRing (q - 3) (fun r => { r with resv := r.resv + 1 }))) else s

/-! ### The checks (R273) -/

/-- The checks of an entry for core g[gt]. R35 has KIND, FORM and the reserved bits of the block checked at issue, and R273 does
not place that check among its own: the model makes it first, with the block's address in EADDR (DESIGN CHOICE, log entry
149). -/
def State.pushCheck (s : State) (f : CM) (bs : List Byte) (kind : Nat) : Option (BitVec 8 × Option W64) :=
  let at' : Option W64 := some (BitVec.ofNat 64 (f.blk.toNat * 64))
  let g := s.g f.gt
  let q := f.qsel.toNat
  let r := leAt bs 8 1
  let k := coreId g.toNat
  if (blkForm bs kind 0 (q = 0)).isNone then some (Code.reservedField, at')
  else if 63 < g.toNat then some (Code.reservedField, some g)
  else if !s.dev.cemask.getLsbD g.toNat then some (Code.reservedField, some g)
  else if q = 0 then
    match s.copyCheck k s.here.ctx bs kind 0 true (statusPriv s.eng.status) with
    | .error code => some (code, at')
    | .ok b => if b.be ∧ !s.barOk b.bar then some (Code.privilege, at') else none
  else if q = 3 ∧ 16 ≤ r then some (Code.reservedField, at')
  else if q = 3 ∧ !s.ringOk r then some (Code.privilege, at')
  else if q = 3 ∧ (!((s.core k).arch.ring r).opened ∨ ((s.core k).arch.ring r).prod ≠ 4) then
    some (Code.reservedField, at')
  else if (q = 2 ∨ q = 3) ∧ f.we = 1 then some (Code.reservedField, at')
  else none

/-- The word finds no entry and stalls. -/
def State.pushStall (s : State) (k : CoreId) (q : Nat) : Res :=
  .stall (s.modEng (fun e => { e with pushTo := some (k.val, q) }))

def execQpush (h : Hdr) (f : CM) (s : State) :=
  runWord (.qpush h f) h s (fun s =>
    s.withBlock f (fun bs =>
      match s.pushCheck f bs 2 with
      | some (code, ea) => .trap code ea
      | none =>
        let k := coreId (s.g f.gt).toNat
        let q := queueOf f.qsel.toNat bs
        if s.inReplay then .gone (s.abandonAudit s.cur.core)
        else if !s.mayPush k q then s.pushStall k q
        else .done (s.enqueue k q bs (waitSig f bs s.cur.core))))

def execQpoll (h : Hdr) (f : CM) (s : State) :=
  runWord (.qpoll h f) h s (fun s =>
    s.withBlock f (fun bs =>
      match s.pushCheck f bs 2 with
      | some (code, ea) => .trap code ea
      | none =>
        let k := coreId (s.g f.gt).toNat
        let q := queueOf f.qsel.toNat bs
        if s.inReplay then .gone (s.abandonAudit s.cur.core)
        else if !s.queueRoom k q || !(s.pushers k q).isEmpty then .done (s.setG f.gp 0)
        else .done ((s.enqueue k q bs (waitSig f bs s.cur.core)).setG f.gp 1)))

def execTqpush (h : Hdr) (f : CM) (s : State) :=
  runWord (.tqpush h f) h s (fun s =>
    s.withBlock f (fun bs =>
      let k := s.cur.core
      if (blkForm bs 3 0 false).isNone then .trap Code.reservedField (some (BitVec.ofNat 64 (f.blk.toNat * 64)))
      else if s.inReplay then .gone (s.abandonAudit k)
      else if !s.mayPush k 1 then s.pushStall k 1
      else .done (s.enqueue k 1 bs (waitSig f bs k))))

end Sys2Proof.Machine
end

