-- ==== Sys2Proof/Machine/Flags.lean ====
section
/-! DEFINITION. The condition codes of R84, which CMP, the sequencer's CMP and the guards use: Skoiq has no
flag register, a condition is one bit of a general register. -/

namespace Sys2Proof.Machine

open Sys2Proof

/-- The condition codes of R84 on two 64-bit values; codes 0xC to 0xF are refused before use. -/
def condHolds (cc : BitVec 4) (a b : W64) : Bool :=
  match cc.toNat with
  | 0x0 => a == b
  | 0x1 => a != b
  | 0x2 => a.slt b
  | 0x3 => b.sle a
  | 0x4 => a.ult b
  | 0x5 => b.ule a
  | 0x6 => b.slt a
  | 0x7 => a.sle b
  | 0x8 => b.ult a
  | 0x9 => a.ule b
  | 0xA => a &&& b != 0
  | 0xB => a &&& b == 0
  | _ => false

end Sys2Proof.Machine
end

