-- ==== Sys2Proof/Machine/Scalar.lean ====
section
/-! DEFINITION. The scalar forms (R80 to R96), the spill store, parameter windows, scalar scratchpad access
and the cross-engine queues. -/

namespace Sys2Proof.Machine

open Sys2Proof

/-! ### Operands (R81) -/

/-- The second operand: g[b], or the n field zero-extended when I = 1. -/
def State.op2 (s : State) (f : S3) : W64 := if f.i = 1 then f.n.zeroExtend 64 else s.g f.b

/-- CMP's second operand: g[b], or sext(imm32) when I = 1. -/
def State.cmpOp2 (s : State) (f : S3) : W64 := if f.i = 1 then f.imm.signExtend 64 else s.g f.b

/-- idx: the low six bits of the second operand. -/
def State.idx (s : State) (f : S3) : Nat := ((s.op2 f).extractLsb' 0 6).toNat

/-- A form that writes d with a function of a and the second operand. -/
def alu (i : Instr) (h : Hdr) (f : S3) (s : State) (op : W64 → W64 → W64) : Host.Outcome State Fault Refusal :=
  runWord i h s (fun s => .done (s.setG f.d (op (s.g f.a) (s.op2 f))))

/-- A form that writes d with a function of a and idx. -/
def aluIdx (i : Instr) (h : Hdr) (f : S3) (s : State) (op : W64 → Nat → W64) : Host.Outcome State Fault Refusal :=
  runWord i h s (fun s => .done (s.setG f.d (op (s.g f.a) (s.idx f))))

/-! ### Arithmetic, logic and shifts (R82, R83) -/

def mulHigh (a b : W64) : W64 := (a.signExtend 128 * b.signExtend 128).extractLsb' 64 64
def mulHighU (a b : W64) : W64 := (a.zeroExtend 128 * b.zeroExtend 128).extractLsb' 64 64

/-- Signed division toward zero with the boundary cases of R83. -/
def divS (a b : W64) : W64 := if b = 0 then 0xFFFFFFFFFFFFFFFF else a.sdiv b
def divU (a b : W64) : W64 := if b = 0 then 0xFFFFFFFFFFFFFFFF else a.udiv b
def remS (a b : W64) : W64 := if b = 0 then a else a.srem b
def remU (a b : W64) : W64 := if b = 0 then a else a.umod b

/-- A division word: the engine's divider is busy for 36 cycles (R83, R99). -/
def division (i : Instr) (h : Hdr) (f : S3) (s : State) (op : W64 → W64 → W64) : Host.Outcome State Fault Refusal :=
  runWord i h s (fun s =>
    if s.cycle < s.eng.divBusy then .wait s
    else .done ((s.setG f.d (op (s.g f.a) (s.g f.b))).modEng (fun e => { e with divBusy := s.cycle + 36 })))

def execAdd (h : Hdr) (f : S3) (s : State) := alu (.add h f) h f s (· + ·)
def execSub (h : Hdr) (f : S3) (s : State) := alu (.sub h f) h f s (· - ·)

def execAddi (h : Hdr) (f : SI) (s : State) :=
  runWord (.addi h f) h s (fun s => .done (s.setG f.d (s.g f.a + f.imm.signExtend 64)))

def execMul (h : Hdr) (f : S3) (s : State) := alu (.mul h f) h f s (· * ·)
def execMulh (h : Hdr) (f : S3) (s : State) := alu (.mulh h f) h f s mulHigh
def execMulhu (h : Hdr) (f : S3) (s : State) := alu (.mulhu h f) h f s mulHighU
def execDiv (h : Hdr) (f : S3) (s : State) := division (.div h f) h f s divS
def execDivu (h : Hdr) (f : S3) (s : State) := division (.divu h f) h f s divU
def execRem (h : Hdr) (f : S3) (s : State) := division (.rem h f) h f s remS
def execRemu (h : Hdr) (f : S3) (s : State) := division (.remu h f) h f s remU
def execAnd (h : Hdr) (f : S3) (s : State) := alu (.and h f) h f s (· &&& ·)
def execOr (h : Hdr) (f : S3) (s : State) := alu (.or h f) h f s (· ||| ·)
def execXor (h : Hdr) (f : S3) (s : State) := alu (.xor h f) h f s (· ^^^ ·)
def execAndn (h : Hdr) (f : S3) (s : State) := alu (.andn h f) h f s (fun a b => a &&& ~~~b)
def execOrn (h : Hdr) (f : S3) (s : State) := alu (.orn h f) h f s (fun a b => a ||| ~~~b)
def execShl (h : Hdr) (f : S3) (s : State) := aluIdx (.shl h f) h f s (fun a n => a <<< n)
def execShr (h : Hdr) (f : S3) (s : State) := aluIdx (.shr h f) h f s (fun a n => a >>> n)
def execSar (h : Hdr) (f : S3) (s : State) := aluIdx (.sar h f) h f s (fun a n => a.sshiftRight n)
def execRotl (h : Hdr) (f : S3) (s : State) := aluIdx (.rotl h f) h f s (fun a n => a.rotateLeft n)
def execMin (h : Hdr) (f : S3) (s : State) := alu (.min h f) h f s (fun a b => if b.slt a then b else a)
def execMax (h : Hdr) (f : S3) (s : State) := alu (.max h f) h f s (fun a b => if a.slt b then b else a)
def execMinu (h : Hdr) (f : S3) (s : State) := alu (.minu h f) h f s (fun a b => if b.ult a then b else a)
def execMaxu (h : Hdr) (f : S3) (s : State) := alu (.maxu h f) h f s (fun a b => if a.ult b then b else a)

/-! ### Compare, select, immediates, addresses (R84 to R87) -/

def execCmp (h : Hdr) (f : S3) (s : State) :=
  runWord (.cmp h f) h s (fun s => .done (s.setGBit f.d f.n.toNat (condHolds f.cond (s.g f.a) (s.cmpOp2 f))))

def execSel (h : Hdr) (f : S3) (s : State) :=
  runWord (.sel h f) h s (fun s =>
    .done (s.setG f.d (if (s.g f.c).getLsbD f.n.toNat then s.g f.a else s.g f.b)))

def execMovi (h : Hdr) (f : SI) (s : State) :=
  runWord (.movi h f) h s (fun s => .done (s.setG f.d (f.imm.signExtend 64)))
def execMoviZ (h : Hdr) (f : SI) (s : State) :=
  runWord (.moviZ h f) h s (fun s => .done (s.setG f.d (f.imm.zeroExtend 64)))
def execMoviHi (h : Hdr) (f : SI) (s : State) :=
  runWord (.moviHi h f) h s (fun s => .done (s.setG f.d (f.imm ++ (s.g f.d).extractLsb' 0 32)))
def execMovw (h : Hdr) (f : SW) (s : State) :=
  runWord (.movw h f) h s (fun s => .done (s.setG f.d (f.imm.signExtend 64)))
def execMovwZ (h : Hdr) (f : SW) (s : State) :=
  runWord (.movwZ h f) h s (fun s => .done (s.setG f.d (f.imm.zeroExtend 64)))
def execLea (h : Hdr) (f : S3) (s : State) :=
  runWord (.lea h f) h s (fun s =>
    .done (s.setG f.d (s.g f.a + (s.g f.b <<< f.n.toNat) + f.imm.signExtend 64)))

/-! ### Bit counts and single bits (R88) -/

/-- The number of leading zero bits among the low n bits. -/
def leadZeros (w : W64) : Nat → Nat
  | 0 => 0
  | n + 1 => if w.getLsbD n then 0 else leadZeros w n + 1

/-- The number of trailing zero bits from bit k on, among n bits. -/
def trailZeros (w : W64) (k : Nat) : Nat → Nat
  | 0 => 0
  | n + 1 => if w.getLsbD k then 0 else trailZeros w (k + 1) n + 1

/-- The number of one bits among the low n bits. -/
def oneBits (w : W64) : Nat → Nat
  | 0 => 0
  | n + 1 => oneBits w n + (if w.getLsbD n then 1 else 0)

def count (i : Instr) (h : Hdr) (f : S3) (s : State) (op : W64 → Nat) : Host.Outcome State Fault Refusal :=
  runWord i h s (fun s => .done (s.setG f.d (BitVec.ofNat 64 (op (s.g f.a)))))

def execClz (h : Hdr) (f : S3) (s : State) := count (.clz h f) h f s (fun w => leadZeros w 64)
def execCtz (h : Hdr) (f : S3) (s : State) := count (.ctz h f) h f s (fun w => trailZeros w 0 64)
def execPopc (h : Hdr) (f : S3) (s : State) := count (.popc h f) h f s (fun w => oneBits w 64)
def execBext (h : Hdr) (f : S3) (s : State) := aluIdx (.bext h f) h f s (fun a n => if a.getLsbD n then 1 else 0)
def execBins (h : Hdr) (f : S3) (s : State) :=
  runWord (.bins h f) h s (fun s => .done (s.setG f.d (setBit (s.g f.a) (s.idx f) ((s.g f.c).getLsbD 0))))
def execBset (h : Hdr) (f : S3) (s : State) := aluIdx (.bset h f) h f s (fun a n => setBit a n true)
def execBclr (h : Hdr) (f : S3) (s : State) := aluIdx (.bclr h f) h f s (fun a n => setBit a n false)

/-! ### Special registers (R70 to R73, R76, R89) -/

def execMfs (h : Hdr) (f : SI) (s : State) :=
  runWord (.mfs h f) h s (fun s => .done (s.setG f.d (s.readSpr f.imm.toNat)))

/-- The state of bank b, in [2b + 1 : 2b] of VBANKPWR: 0 OFF, 1 ON, 2 RETENTION (R70). -/
def bankState (w : W32) (b : Nat) : Nat := bitsOf w.toNat (2 * b + 1) (2 * b)

/-- VBANKPWR as a write makes it: the read-only fields keep their values (R70). -/
def bankPwrWrite (old : W32) (v : W64) : W32 := (v.zeroExtend 32 &&& 0x00FFFFF0) ||| (old &&& 0xFF00000F)

/-- Drops what a bank holds: registers 64b to 64b + 63 and their marks. -/
def Arch.dropBank (a : Arch) (b : Nat) : Arch :=
  { a with
    tiles := a.tiles.restrict (fun k => decide (k / 65536 ≠ b))
    tileP := a.tileP.restrict (fun k => decide (k / 1024 ≠ b))
    pend := a.pend.filter (fun p => !(p.lvl = 0 && p.key / 65536 = b)) }

/-- A change of one bank's state (R71): contents are lost on the way to OFF and read 0 on the way out of it;
turning ON takes 40 cycles. -/
def Arch.bankChange (now : Nat) (old new : W32) (a : Arch) (b : Nat) : Arch :=
  let o := bankState old b
  let n := bankState new b
  if o = n then a
  else
    let a := if o = 0 ∨ n = 0 then a.dropBank b else a
    { a with bankWake := Store.set 0 a.bankWake b (if n = 1 then now + 40 else 0) }

/-- VBANKPWR takes a new value (R71). -/
def Arch.setBankPwr (now : Nat) (new : W32) (a : Arch) : Arch :=
  { (List.range 12).foldl (Arch.bankChange now a.bankPwr new) a with bankPwr := new }

/-- A write moves some bank to OFF (R73). -/
def turnsOff (old new : W32) : Bool :=
  (List.range 12).any (fun b => bankState old b ≠ 0 && bankState new b = 0)

/-- Special-register writes other than VBANKPWR, at retirement; read-only bits keep their values (R75, R306). -/
def State.writeSpr (s : State) (n : Nat) (v : W64) : State :=
  match n with
  | 0x000 => s.modEng (fun e => { e with status := (e.status &&& ~~~(0x14 : W64)) ||| (v &&& 0x14) })
  | 0x001 => s.modEng (fun e => { e with cause := v })
  | 0x002 => s.modEng (fun e => { e with epc := v })
  | 0x003 => s.modEng (fun e => { e with eaddr := v })
  | 0x004 => s.modEng (fun e => { e with tvec := v })
  | 0x010 => s.modArch (fun a => { a with slipw := v.zeroExtend 32 })
  | 0x012 => s.modHere (fun c =>
      { (c.modArch (fun a => { a with chshare := v.zeroExtend 32 &&& 0xFF00 })) with chcred := c.credits s.cycle, chEarn := s.cycle })
  | 0x013 => s.modEng (fun e => { e with stallcnt := v })
  | 0x015 => s.modArch (fun a => { a with poisonst := a.poisonst &&& ~~~(v.zeroExtend 32 &&& 0x1F) })
  | 0x016 => s.modArch (fun a => { a with pwstat := a.pwstat &&& ~~~(v.zeroExtend 32 &&& 0xFF) })
  | 0x024 => s.modArch (fun a => { a with srseed := v })
  | 0x025 => s.modArch (fun a => { a with srcnt := v })
  | 0x030 => s.modArch (fun a => { a with klim := v })
  | 0x031 => s.modArch (fun a => { a with kwarn := v })
  | 0x032 => s.modArch (fun a => { a with authmax := v.zeroExtend 32 })
  | _ => s

/-- A word that waits for the commit point it requests: the first turn requests it, later ones wait until it
has been taken, and when it must be sealed until it is sealed (R73, R317, R364). -/
inductive Asked where
  | pending (s : State)
  | open_
  | ready

def Core.cpSealed (c : Core) (n : Nat) : Bool :=
  decide (n ≤ c.cpCount) && !c.ckpts.any (fun k => decide (k.num ≤ n) && !k.sealedNow)

def State.askCp (s : State) (mustSeal : Bool) : Asked :=
  match s.eng.ask with
  | none =>
    let n := s.here.cpCount + s.here.cpReq.length + 1
    .pending ((s.modEng (fun e => { e with ask := some n })).modHere (fun c => c.requestCp .word))
  | some n =>
    if s.here.cpCount < n ∨ (mustSeal ∧ !s.here.cpSealed n) then .open_ else .ready

/-- A word that has issued and not retired names a bank whose state a write changes, as a source or a destination, or has
still to write a result there (R72). -/
def Arch.bankInUse (a : Arch) (now : Nat) (new : W32) : Bool :=
  let changed (b : Nat) : Bool := decide (bankState a.bankPwr b ≠ bankState new b)
  a.pend.any (fun p => p.lvl = 0 && decide (now < p.ready) && changed (p.key / 65536)) ||
    a.named.any (fun n => decide (now < n.2.2) && (List.range 12).any (fun b => n.2.1.testBit b && changed b))

/-- MTS to VBANKPWR (R72, R73): it waits for the issued words that name an affected bank, of which those are left that
have not produced their results, and for its commit point when a bank goes OFF. -/
def mtsBanks (v : W64) (s : State) : Res :=
  let new := bankPwrWrite s.arch.bankPwr v
  let off := (List.range 12).filter (fun b => bankState s.arch.bankPwr b ≠ 0 && bankState new b = 0)
  let go := s.modHere (fun c =>
    (off.foldl (fun (c : Core) b => c.keep (fun a => a.dropBank b)) c).modArch (fun a => a.setBankPwr s.cycle new))
  if s.arch.bankInUse s.cycle new then .wait s
  else if turnsOff s.arch.bankPwr new then
    match s.askCp true with
    | .pending t => .wait t
    | .open_ => .wait s
    | .ready => .done go
  else .done go

def execMts (h : Hdr) (f : SI) (s : State) :=
  runWord (.mts h f) h s (fun s =>
    let n := f.imm.toNat
    let v := s.g f.a
    if !sprRange n v then .trap Code.reservedField none
    else if n = 0x011 then mtsBanks v s
    else .done (s.writeSpr n v))

/-! ### Widths (R90) -/

/-- Extends loaded bytes as the sub code says. -/
def extend (sub : BitVec 4) (bs : List Byte) : W64 :=
  let w : W64 := BitVec.ofNat 64 (bytesNat bs)
  match sub.toNat with
  | 4 => (w.extractLsb' 0 8).signExtend 64
  | 5 => (w.extractLsb' 0 16).signExtend 64
  | 6 => (w.extractLsb' 0 32).signExtend 64
  | _ => w

/-- The bytes a store writes: the low bytes of the register. -/
def storeBytes (sub : BitVec 4) (v : W64) : List Byte := natBytes (subBytes sub) v.toNat

/-- Notes that a scalar read returned poisoned bytes (R355, R356). -/
def State.notePoison (s : State) (p : Bool) : State :=
  if p then s.modArch (fun a => { a with poisonst := a.poisonst ||| 8 }) else s

/-- MISALIGNED at check 4 with EADDR the address (R90). -/
def misalign (addr n : Nat) (r : Res) : Res :=
  if addr % n ≠ 0 then .trap Code.misaligned (some (BitVec.ofNat 64 addr)) else r

def execSpld (h : Hdr) (f : SI) (s : State) :=
  runWord (.spld h f) h s (fun s =>
    let o := f.imm.toNat
    misalign o (subBytes f.sub)
      (.done ((s.setG f.d (extend f.sub (s.eng.spillRead o (subBytes f.sub)))).notePoison
        (marked s.eng.spillP 64 o (subBytes f.sub)))))

def execSpst (h : Hdr) (f : SI) (s : State) :=
  runWord (.spst h f) h s (fun s =>
    let o := f.imm.toNat
    misalign o (subBytes f.sub)
      (.done (s.modHere (fun c => c.spillWrite s.cur.th o (storeBytes f.sub (s.g f.d)) false))))

/-! ### Parameter windows (R92, R93) -/

/-- A byte of a window within its bound. Where the memory has changed since activation, each aligned 4-byte
part holds either contents (R93): log entry 3. -/
def State.windowByte (s : State) (w : Window) (k : Nat) : Byte :=
  let old := w.bytes.getD k 0
  match s.access s.cur.core s.here.ctx (w.va + k) .r with
  | .ok p =>
    let new := (s.dev.readPlace p 1).getD 0 0
    if new = old then old else if Config.freeBool s.free ((w.va + k) / 4) then new else old
  | .bad _ _ => old

/-- PLD's bytes: beyond the bound they read 0. -/
def State.windowBytes (s : State) (w : Window) (o n : Nat) : List Byte :=
  (List.range n).map (fun j => if o + j < w.size then s.windowByte w (o + j) else 0)

/-- Whether the memory of a window under the bytes read is poisoned (R355). -/
def State.windowPoison (s : State) (w : Window) (o n : Nat) : Bool :=
  (List.range n).any (fun j => decide (o + j < w.size) &&
    (match s.access s.cur.core s.here.ctx (w.va + o + j) .r with
     | .ok p => s.dev.placePoison p 1
     | .bad _ _ => false))

def execPld (h : Hdr) (f : SI) (s : State) :=
  runWord (.pld h f) h s (fun s =>
    let o := (s.g f.a + f.imm.signExtend 64).toNat
    let n := subBytes f.sub
    match s.arch.wins[(f.n.extractLsb' 0 3).toNat] with
    | none => .trap Code.paramUnbound (some (BitVec.ofNat 64 o))
    | some w =>
      misalign o n
        (let v := extend f.sub (s.windowBytes w o n)
         let t := (s.setG f.d v).notePoison (s.windowPoison w o n)
         let t := if w.size < o + n then
             t.modArch (fun a => { a with pwstat := a.pwstat ||| ((1 : W32) <<< (f.n.extractLsb' 0 3).toNat) })
           else t
         .done t.bumpFree))

/-! ### Scalar scratchpad access (R94) -/

/-- The checks of SLD and SST: range, alignment, KEEP (R303), EADDR the address. No rule orders them; the model takes
them in this order (log entry 135). -/
def State.scrChecks (s : State) (e n : Nat) (r : Res) : Res :=
  if Config.scrBytes ≤ e then .trap Code.reservedField (some (BitVec.ofNat 64 e))
  else misalign e n
    (if s.keepHit s.cur.core s.here.ctx e n then .trap Code.privilege none else r)

def State.scrAddr (s : State) (f : SI) : Nat := (s.g f.a + f.imm.signExtend 64).toNat

def execSld (h : Hdr) (f : SI) (s : State) :=
  runWord (.sld h f) h s (fun s =>
    let e := s.scrAddr f
    let n := subBytes f.sub
    s.scrChecks e n
      (.done ((s.setG f.d (extend f.sub ((s.lview n).scrRead e n))).notePoison (s.arch.scrPoisoned e n))))

def execSst (h : Hdr) (f : SI) (s : State) :=
  runWord (.sst h f) h s (fun s =>
    let e := s.scrAddr f
    let n := subBytes f.sub
    s.scrChecks e n
      (if s.arch.leased e n then .wait s
       else .done (s.modHere (fun c => c.scrWrite .own (.l s.cur.th) e (storeBytes f.sub (s.g f.d)) false n))))

/-! ### Cross-engine queues (R96 to R98) -/

/-- The queue from engine code i to engine code j. -/
def qIndex (i j : BitVec 2) : Fin 16 := ⟨4 * i.toNat + j.toNat, by have := i.isLt; have := j.isLt; omega⟩

/-- The writes that a push orders before the matching GETX (R97, R227): the L-path writes that the pushing engine has made,
and those ordered before what it has done so far; scratchpad writes by even numbers, writes to memory by odd ones. -/
def State.pushed (s : State) : List Nat :=
  (s.arch.scrLog.filter (fun w => w.beforeL s.cur.th)).map (fun w => 2 * w.seq) ++
    ((s.dev.wlog ++ s.dev.discarded).filter (fun w => w.before s.cur.core (lReader s.cur.th))).map (fun w => 2 * w.seq + 1)

def execPutx (h : Hdr) (f : S3) (s : State) :=
  runWord (.putx h f) h s (fun s =>
    let q := qIndex s.cur.th.code (f.n.extractLsb' 0 2)
    let l := s.arch.putx[q]
    if (s.arch.eng (Thread.ofCode (f.n.extractLsb' 0 2))).done then .done s
    else if 8 ≤ l.length then .stall s
    else .done (s.modArch (fun a => { a with putx := a.putx.set q (l ++ [s.g f.a]),
                                              putxSeq := a.putxSeq.set q (a.putxSeq[q] ++ [s.pushed]) })))

/-- Popping an entry of a queue orders what its push ordered before the engine that pops (R97). -/
def State.popped (s : State) (q : Fin 16) (l : List W64) : State :=
  let ws := (s.arch.putxSeq[q]).headD []
  (s.order s.cur.core (lReader s.cur.th) (fun w => ws.contains (2 * w.seq)) (fun w => ws.contains (2 * w.seq + 1))).modArch
    (fun a => { a with putx := a.putx.set q l, putxSeq := a.putxSeq.set q ((a.putxSeq[q]).drop 1) })

def execGetx (h : Hdr) (f : S3) (s : State) :=
  runWord (.getx h f) h s (fun s =>
    let q := qIndex (f.n.extractLsb' 0 2) s.cur.th.code
    match s.arch.putx[q] with
    | [] => .stall s
    | v :: l => .done ((s.popped q l).setG f.d v))

end Sys2Proof.Machine
end

