-- ==== Sys2Proof/Machine/Region.lean ====
section
/-! DEFINITION. The containment region (R340 to R358, R364, R365): commit points and what a rollback to one
restores, seals, strikes, rollback and its conflicts, iteration recovery, uncorrectable errors, and the words
SEAL, PMARK and PCLR. -/

namespace Sys2Proof.Machine

open Sys2Proof

/-! ### What a checkpoint holds (R123, R343, R344) -/

/-- An engine as it re-enters kernel text at a header: in user mode, with nothing under way. -/
def Eng.reenter (e : Eng) (pc : Nat) (inst : Nat) (ls : List LoopAt) : Eng :=
  { e with
    pc := BitVec.ofNat 64 pc, left := 0, inst := inst, loops := ls, run := .run, done := false
    status := e.status &&& ~~~(3 : W64), delay := none, wait := none, busy := 0, stalled := false, panSince := none
    ask := none, arrived := true, came := none, own := true, asked := none, pushTo := none, prog := 0, fed := 0, issued := false }

/-- The engine of a loop that is furthest behind. -/
def Arch.slowest (a : Arch) (lp : Loop) : Eng :=
  match ((kernelThreads.filter (fun t => lp.joinedBy.contains t)).map a.eng).filter (fun e => !e.done) with
  | [] => a.engC
  | e :: es => es.foldl (fun m x => if x.inst < m.inst then x else m) e

/-- SRCNT at an instance: the value with which V entered it, or the current one when V has not (R54). -/
def Arch.srcntAt (a : Arch) (inst : Nat) : W64 := if inst < a.engV.inst then a.srAt[inst]?.getD a.srcnt else a.srcnt

/-- A loop around the one that a rollback returns to, as engines that had run ahead in it, or had left it, stand in it
again at an instance, in a pass (R122, R123). -/
def Loop.inside (l : Loop) (back : List Thread) (inst pass : Nat) : Loop :=
  { l with
    active := true, leftBy := l.leftBy.filter (fun t => !back.contains t), passInst := l.passInst.filter (fun k => decide (k < inst))
    exitInst := l.exitInst.filter (fun x => decide (x < inst)), entered := l.entered.map (fun i => min i pass) }

/-- Every engine of the loop stands at a header with the common instance number, inside the loops around it; SIDs from it
on are erased, and loops that only engines further ahead have started are not active (R123). SRCNT has its value there
(R54). -/
def Arch.reenterAll (a : Arch) (lp : Loop) (pc inst : Nat) (ls : List LoopAt) : Arch :=
  let a := { a with srcnt := if lp.joinedBy.contains .v then a.srcntAt inst else a.srcnt }
  let a := kernelThreads.foldl (fun (a : Arch) t =>
    if lp.joinedBy.contains t then a.modEng t (fun e => e.reenter pc inst ls) else a) a
  let a := [0, 1, 2, 3].foldl (fun (a : Arch) k =>
    match ls.find? (fun l => l.lc = k) with
    | some l => a.modLoop k (fun o => o.inside lp.joinedBy inst l.pass)
    | none => a.modLoop k (fun l => { l with active := false })) a
  { a with sids := a.sids.take inst, sfeed := none }

/-- The entry of a loop in a list, and the entries of the loops around it. -/
def fromLoop (lc pass : Nat) (ls : List LoopAt) : List LoopAt :=
  match ls.dropWhile (fun l => l.lc ≠ lc) with
  | [] => []
  | _ :: rest => ⟨lc, pass⟩ :: rest

def Arch.loopNo (a : Arch) (lc : Nat) : Loop := if h : lc < 4 then a.loops[lc] else Loop.reset

/-- The state that a checkpoint of a kind holds. After the last COMMIT stage of a loop no pass is left: with r = N′ the
engines go on after LAST (R120). -/
def Arch.forPoint (a : Arch) : CpKind → Arch
  | .loopEntry lc =>
    let lp := a.loopNo lc
    (a.reenterAll lp lp.head lp.headInst (fromLoop lc 0 (a.slowest lp).loops)).modLoop lc (fun l =>
      { l with active := true, r := 0, passInst := [], entered := none, leftBy := [], exitInst := none })
  | .loopStage lc i =>
    let lp := a.loopNo lc
    let e := a.slowest lp
    if lp.n ≤ i + 1 then (a.reenterAll lp lp.after e.inst e.loops).modLoop lc (fun l => { l with r := i + 1 })
    else
      (a.reenterAll lp lp.head e.inst (fromLoop lc (i + 1) e.loops)).modLoop lc (fun l =>
        { l with active := true, r := i + 1, passInst := [], entered := some i, leftBy := [], exitInst := none })
  | .loopExit lc =>
    let lp := a.loopNo lc
    let e := a.slowest lp
    a.reenterAll lp lp.after e.inst e.loops
  | _ => a

/-! ### Taking a commit point (R344) -/

/-- Every issued word has retired, a VSTS among them, and fewer than 16 checkpoints are unsealed. -/
def Core.canTake (c : Core) (now : Nat) : Bool :=
  (c.region = .active || c.region = .recovery) && c.restart.isNone && c.arch.mflight.all (fun f => decide (f.doneAt ≤ now)) &&
    kernelThreads.all (fun t => decide ((c.arch.eng t).busy ≤ now) && decide ((c.arch.eng t).sts.2 ≤ now)) &&
    c.arch.pend.all (fun p => decide (p.ready ≤ now)) && !c.arch.engM.issued && decide (c.arch.seq.busy ≤ now) && decide (c.openCps < 16)

/-- The common instance number of the engines that wait at a SEAL section. -/
def Arch.sealInst (a : Arch) : Nat :=
  ((kernelThreads.map a.eng).filter (fun e => !e.done)).foldl (fun m e => min m e.inst) (2 ^ 64)

/-- Takes a commit point: it is numbered, its checkpoint written, and it covers the effects that entered the hold queue before
this cycle (R346). -/
def Core.take (c : Core) (k : CpKind) (now : Nat) : Core :=
  let n := c.cpCount + 1
  let c := if k = .sealSection then c.modArch (fun a => { a with sealPass := some a.sealInst }) else c
  { c with
    cpCount := n
    ckpts := c.ckpts ++ [⟨n, k, now, false, c.arch.forPoint k⟩]
    hold := c.hold.map (fun (h : Held) => if h.cover.isNone ∧ h.since < now then { h with cover := some n } else h) }

/-! ### Sealing (R345) -/

/-- A checkpoint that a strike during a drain or refill returns to (R312, R314): the drain entry until the task is
PREEMPTED, the start of a refill until the commit point of the fourth CREST.end has sealed. -/
def Core.retains (c : Core) (k : Ckpt) : Bool :=
  match k.kind with
  | .drainEntry =>
    (match c.preempt with | some p => (match p.st with | .draining _ | .saving _ => true | _ => false) | none => false)
  | .refill _ => !c.ckpts.any (fun j => j.kind = .crestEnd && j.sealedNow && decide (k.num < j.num))
  | _ => false

/-- ATT of POISONST takes a value. -/
def setAtt (w : W32) (n : Nat) : W32 := (w &&& ~~~(0x700 : W32)) ||| BitVec.ofNat 32 (n % 8 * 256)

/-- The commit point follows the COMMIT stage of the iteration whose recoveries ATT counts, or of a later one (R358). -/
def Core.endsAtt (c : Core) : CpKind → Bool
  | .loopStage lc i => match c.attLoop with | some r => r.lc = lc && decide (r.iter ≤ i) | none => true
  | _ => false

/-- The seal of a commit point: what is older is freed; after the COMMIT stage of the iteration that ATT counts, ATT returns
to 0, which every rollback keeps (R341, R358). -/
def Core.sealPoint (c : Core) (k : Ckpt) : Core :=
  let c := { c with ckpts := c.ckpts.map (fun (j : Ckpt) => if j.num = k.num then { j with sealedNow := true } else j) }
  let ks := c.ckpts.filter (fun j => decide (k.num ≤ j.num) || c.retains j)
  let low := ks.foldl (fun m j => min m j.num) k.num
  let c := { c with ckpts := ks, shadows := c.shadows.filter (fun h => decide (low ≤ h.win)) }
  if c.endsAtt k.kind then ({ c with attLoop := none } : Core).keep (fun a => { a with poisonst := setAtt a.poisonst 0 }) else c

/-- Seals the oldest unsealed commit point when its time has come; none seals while a rollback is under way. -/
def Core.sealDue (c : Core) (now : Nat) : Core :=
  if c.restart.isSome then c
  else
    match c.ckpts.find? (fun k => !k.sealedNow) with
    | some k => if k.takenAt + Config.sealDelay ≤ now then c.sealPoint k else c
    | none => c

/-- Seals every commit point whose time has come: at most 16. -/
def Core.sealAllDue (c : Core) (now : Nat) : Core := (List.range 16).foldl (fun (c : Core) _ => c.sealDue now) c

def execCommitPointSealed (core : CoreId) (s : State) : Host.Outcome State Fault Refusal :=
  .next (s.modCore core (fun c => c.sealDue s.cycle))

/-! ### Rollback (R350, R351) -/

/-- The checkpoint that a strike rolls back to: the one of a drain or refill, the drain entry even before it has sealed
(R312; log entry 139), and otherwise the last sealed one. -/
def Core.target (c : Core) : Option Ckpt :=
  match (c.ckpts.filter (fun k => c.retains k)).getLast? with
  | some k => some k
  | none => (c.ckpts.filter (fun k => k.sealedNow)).getLast?

/-- A held effect that no sealed commit point covers. -/
def Core.unsealed (c : Core) (h : Held) : Bool :=
  match h.cover with
  | none => true
  | some n => !c.cpSealed n

/-- A held effect that neither a sealed commit point nor the one returned to covers. -/
def Core.undone (c : Core) (n : Nat) (h : Held) : Bool :=
  match h.cover with
  | none => true
  | some m => decide (n < m) && !c.cpSealed m

/-- Shadow copies that a rollback to commit point n restores: one granule of one window each (R347). -/
def Core.restores (c : Core) (n : Nat) : Nat :=
  (copiesOf (c.shadows.filter (fun h => decide (n ≤ h.win) && decide (n ≤ h.epoch)))).length

/-- The rollback to a checkpoint begins: engines stop, passes are cancelled, effects not sealed are discarded. -/
def State.rollTo (s : State) (core : CoreId) (k : Ckpt) (st : RegionSt) : State :=
  let c := s.core core
  let s := s.discard core (c.undone k.num)
  s.modCore core (fun c =>
    { (c.modArch (fun a => { a with mflight := [], leases := [] })).leaseEnds with
      region := st, cpReq := [], panWait := [], restart := some (k.num, s.cycle + 24 + c.restores k.num) })

/-- The lowest granule that a rollback to commit point n cannot restore, by store and place (R351). -/
def Core.conflict (c : Core) (n : Nat) : Option (Nat × Nat) :=
  let hs := c.shadows.filter (fun h => decide (n ≤ h.win))
  let bad := hs.filter (fun h => h.bad ||
    (decide (n ≤ h.epoch) && hs.any (fun j => j.store = h.store && j.gran = h.gran && decide (j.epoch < n))))
  bad.foldl (fun (m : Option (Nat × Nat)) h =>
    match m with
    | none => some (h.store, h.gran)
    | some p => if h.store < p.1 ∨ (h.store = p.1 ∧ h.gran < p.2) then some (h.store, h.gran) else m) none

/-- The registers, queues and stores as the checkpoint gives them; latches read 0; ATT keeps its value (R341); HM is clear
(R309). A word stalled at issue is issued again. -/
def Arch.restored (save live : Arch) (n : Nat) : Arch :=
  let f (e : Eng) : Eng :=
    { e with
      status := e.status &&& ~~~(2 : W64), wait := none, stalled := false, panSince := none, asked := none, busy := 0
      ask := e.ask.filter (fun m => decide (m ≤ n)) }
  { save with
    engC := f save.engC, engA := f save.engA, engV := f save.engV, engM := f save.engM, chap := f save.chap
    latches := [], latchP := [], pend := [], mflight := [], leases := []
    seq := save.seq.restored live.seq
    poisonst := (save.poisonst &&& ~~~(0x700 : W32)) ||| (live.poisonst &&& 0x700) }

/-- A pre-emption after a rollback: stubs run again, from the start of the refill with any request latched since; a
request that is only latched chooses its instance again (R312, R314, R352). -/
def preemptAfter (k : CpKind) (p : Option Preempt) : Option Preempt :=
  match k, p with
  | .refill r, p => some { r with next := p.bind (fun p => p.latched) }
  | .drainEntry, some p =>
    some (match p.st with
      | .draining n | .saving n => { p with st := .draining n, ended := [] }
      | _ => { p with st := .latched none, low := 0, ended := [] })
  | _, some p => some { p with st := .latched none, low := 0, ended := [] }
  | _, none => none

/-- The core as the restored checkpoint leaves it. After a recovery REC is set and ATT counts it: 1 for an iteration that
has not been recovered before (R357, R358; log entry 150). -/
def Core.restoreTo (c : Core) (k : Ckpt) : Core :=
  let n := k.num
  let arch := k.save.restored c.arch n
  let arch := match c.recov with
    | some r => { arch with poisonst := setAtt (arch.poisonst ||| 0x10) (c.attFor r.lc r.iter + 1) }
    | none => arch
  let ks := (c.ckpts.filter (fun (j : Ckpt) => decide (j.num ≤ n))).map (fun (j : Ckpt) =>
    if j.num = n then { j with save := arch } else j)
  let keptShadows := (c.shadows.filter (fun h => decide (h.win < n) || decide (h.epoch < n))).map (fun (h : Shadow) =>
    { h with win := min h.win n })
  let rec' := c.recov.isSome
  ({ c with
    arch := arch, ckpts := ks, cpCount := n, cpReq := [], shadows := keptShadows, region := .active, recov := none, restart := none
    attLoop := if rec' then c.recov else c.attLoop, panWait := []
    xq := c.xq.filter (fun x => decide (x.epoch < n))
    rgroll := c.rgroll + 1, rgrec := if rec' then c.rgrec + 1 else c.rgrec
    task := c.task.map (fun (t : Task) => { t with st := if kernelThreads.all (fun u => (arch.eng u).done) then .sealing else .running })
    preempt := preemptAfter k.kind c.preempt } : Core).leaseEnds

/-- Routines that a rollback has returned to the sequencer are not halted; one whose bundle is over is dropped
(R389, R404). -/
def State.reviveRoutines (s : State) (core : CoreId) : State :=
  let q := (s.core core).arch.seq
  let known (r : Routine) : Bool := (s.dev.bundle r.bundle).isSome
  let live := (q.startq ++ q.routine.toList).filter known
  let s := live.foldl (fun (s : State) r => s.modDev (fun d => d.modBundle r.bundle (fun b => { b with routineLive := true }))) s
  let q := { q with startq := q.startq.filter known, routine := q.routine.filter known
                    running := q.running && (q.routine.filter known).isSome }
  s.modCore core (fun c => c.modArch (fun a => { a with seq := q }))

/-- A fault record for the object and page waits: it is held, is not posted yet, or is not resolved. -/
def State.recordLives (s : State) (core : CoreId) (o : ObjRef) (page : Nat) : Bool :=
  let fr := s.dev.frings[dieOf core]
  let same (q : FaultRec) (p : ObjRef) (g : Nat) : Bool := p = o && q.core = core.val && sameOwner o q.ctx (s.core core).ctx && g = page
  (s.core core).hold.any (fun h => match h.eff with | .record _ r p g _ => same r p g | _ => false) ||
    fr.waiting.any (fun w => same w.1 w.2.1 w.2.2.1) || fr.posted.any (fun p => !p.resolved && same p.fr p.obj p.page)

/-- A stream that the commit point gives back PARKED is PARKED as it stood there (R194, R203); sectors of a page whose record
has been resolved since are not parked in the checkpoint either. Where the record has been withdrawn since, by SCLOSE.abort or
a fault, the sectors post a new one, so that system software can resolve it (log entry 151). -/
def State.reparkStream (s : State) (core : CoreId) (n : Nat) : State :=
  let t := (s.core core).arch.stream n
  if t.st ≠ .parked then s
  else t.parked.foldl (fun (s : State) p =>
    if s.recordLives core (.stream n) p.page then s
    else
      let same := t.parked.filter (fun q => q.page = p.page)
      let va := same.foldl (fun m q => min m (t.sector q.pos).va) (t.sector p.pos).va
      let r := { (s.core core).streamRec core n t.code false va with sect := same.length }
      s.recordOut core .a (s.core core).cpCount r (.stream n) p.page) s

def State.repark (s : State) (core : CoreId) : State :=
  (List.range 16).foldl (fun (s : State) n => s.reparkStream core n) s

/-- The rollback ends: the checkpoint and the granules are restored, or a conflict is fatal. -/
def State.rollDone (s : State) (core : CoreId) : State :=
  let c := s.core core
  match c.restart with
  | none => s
  | some (n, due) =>
    if s.cycle < due then s
    else
      match c.conflict n with
      | some (st, g) =>
        let s := s.modCore core (fun c =>
          { c with ckpts := c.ckpts.filter (fun k => decide (k.num ≤ n)), cpCount := n })
        let (pc, s) := s.given none
        let (ea, s) := s.given (if st < 9 then some (BitVec.ofNat 64 (st * 2 ^ 56 + g)) else none)
        s.fatalOn core Code.shadowConflict pc ea
      | none =>
        match c.ckpts.find? (fun k => k.num = n) with
        | none => s
        | some k => ((s.setCore core (c.restoreTo k)).reviveRoutines core).repark core

def execRollbackComplete (core : CoreId) (s : State) : Host.Outcome State Fault Refusal := .next (s.rollDone core)

/-! ### Strikes (R341, R342) -/

/-- A strike near one to four cores of a cluster is to be reported to each; one outside every core is counted. -/
def execStrike (cores : List CoreId) (s : State) : Host.Outcome State Fault Refusal :=
  .next (match cores with
    | [] => s.modDev (fun d => { d with dstrk := d.dstrk + 1 })
    | k :: _ =>
      if 4 < cores.length ∨ cores.any (fun j => j.val / 8 ≠ k.val / 8) then s
      else cores.eraseDups.foldl (fun (s : State) j => s.modCore j (fun c => { c with strikes := c.strikes ++ [s.cycle] })) s)

/-- The oldest report reaches a region: seals due by now come first (R345, R352). -/
def State.strikeReport (s : State) (core : CoreId) : State :=
  if (s.core core).strikes.isEmpty then s
  else
    let s := s.modCore core (fun c =>
      let c := if c.region = .rollback then c else c.sealAllDue s.cycle
      { c with strikes := c.strikes.drop 1, rgstrk := c.rgstrk + 1 })
    let c := s.core core
    match c.region with
    | .idle | .faulted => s
    | _ =>
      match c.target with
      | none => s
      | some k => (s.modCore core (fun c => { c with recov := none })).rollTo core k .rollback

def execStrikeReport (core : CoreId) (s : State) : Host.Outcome State Fault Refusal := .next (s.strikeReport core)

/-! ### Iteration recovery (R357) -/

/-- The checkpoint that a recovery waits for: the latest loop commit point, of the loop or of one inside it, at which its
iteration is the restart one. -/
def Core.recoveryPoint (c : Core) (r : Recov) : Option Ckpt :=
  (c.ckpts.filter (fun k =>
    (match k.kind with | .loopEntry _ | .loopStage _ _ => true | .loopExit lc => lc ≠ r.lc | _ => false) &&
      (k.save.loopNo r.lc).active && (k.save.loopNo r.lc).r = r.iter)).getLast?

/-- The region of a recovery rolls back once that commit point has sealed. -/
def State.recoverNow (s : State) (core : CoreId) : State :=
  let c := s.core core
  match c.recov with
  | none => s
  | some r =>
    if c.region ≠ .recovery ∨ c.restart.isSome then s
    else
      match c.recoveryPoint r with
      | none => s
      | some k => if k.sealedNow then s.rollTo core k .recovery else s

def execIterationRecoveryRollback (core : CoreId) (s : State) : Host.Outcome State Fault Refusal := .next (s.recoverNow core)

/-! ### Uncorrectable errors (R340, R354) -/

/-- A stored cell goes bad, in the state and in each checkpoint whose granule no copy holds apart. -/
def Core.strikeCell (c : Core) (st : StoreId) (gran : Nat) (f : Arch → Arch) : Core :=
  { c with
    arch := f c.arch
    ckpts := c.ckpts.map (fun (k : Ckpt) =>
      if c.shadows.any (fun h => h.store = st.code && h.gran = gran && decide (k.num ≤ h.win)) then k
      else { k with save := f k.save }) }

/-- Marks one row of a register or entry. -/
def Arch.poisonRow (a : Arch) (lvl reg row : Nat) : Arch := a.setMarks lvl (Store.set false (a.marks lvl) (reg * 16 + row) true)

/-- Pieces of a held write cut at the 64-byte units of the places that they go to, each with its poison. -/
def cutUnits : List (Place × List Byte) → List Bool → List ((Place × List Byte) × Bool)
  | [], _ => []
  | (p, bs) :: rest, ps =>
    let o := p.pa % 64
    (List.range ((o + bs.length + 63) / 64)).map (fun k =>
        let lo := if k = 0 then 0 else 64 * k - o
        (({ p with pa := p.pa + lo }, (bs.drop lo).take (64 * (k + 1) - o - lo)), ps.headD false)) ++ cutUnits rest (ps.drop 1)

/-- Marks the data of the k-th 64-byte unit of a held write or read-modify-write. What poison does to another held effect is
nowhere said, and the model lets it be (DESIGN CHOICE, log entry 152). -/
def Held.strike (h : Held) (k : Nat) : Held :=
  match h.eff with
  | .write o pos pol xs ps =>
    let cut : List ((Place × List Byte) × Bool) := match o with
      | .command _ => xs.zipIdx.map (fun x => (x.1, ps.getD x.2 false))
      | _ => cutUnits xs ps
    let ends (p : Place × List Byte) : List (Nat × Nat) := [(p.1.kind, p.1.pa / 64), (p.1.kind, (p.1.pa + p.2.length - 1) / 64)]
    let units := (cut.flatMap (fun x => ends x.1)).eraseDups
    { h with eff := .write o pos pol (cut.map (fun x => x.1)) (cut.map (fun x => x.2 || (ends x.1).any (fun u => units[k]? = some u))) }
  | .rmw id sec xs ps =>
    { h with eff := .rmw id sec xs ((List.range xs.length).map (fun j => ps.getD j false || decide (j = k))) }
  | _ => h

/-- Marks an entry of an operand queue. -/
def Arch.poisonEntry (a : Arch) (q e : Nat) : Arch :=
  let q : Fin 8 := ⟨q % 8, Nat.mod_lt q (by decide)⟩
  { a with oq := a.oq.set q (a.oq[q].zipIdx.map (fun (x : OqEnt × Nat) => if x.2 = e then { x.1 with poison := true } else x.1)) }

/-- Marks a plane. -/
def Arch.poisonPlane (a : Arch) (x p : Nat) : Arch :=
  let f (r : Arr) : Arr := if p % 2 = 0 then { r with p0 := { r.p0 with poison := true } } else { r with p1 := { r.p1 with poison := true } }
  if x % 2 = 0 then { a with m0 := f a.m0 } else { a with m1 := f a.m1 }

def execUncorrectableError (place : ErrPlace) (s : State) : Host.Outcome State Fault Refusal :=
  .next (match place with
    | .tile core r i =>
      if 768 ≤ r ∨ 16 ≤ i then s else s.modCore core (fun c => c.strikeCell .tile (r * 16 + i / 2) (fun a => a.poisonRow 0 r i))
    | .wfile core r i =>
      if 16 ≤ r ∨ 16 ≤ i then s else s.modCore core (fun c => c.strikeCell .wfile (r * 16 + i / 2) (fun a => a.poisonRow 1 r i))
    | .scratch core addr =>
      if Config.scrBytes ≤ addr then s
      else s.modCore core (fun c => c.strikeCell .scratch (addr / 512 * 512) (fun a =>
        { a with scrP := Store.set false a.scrP (addr / 64) true }))
    | .acc core k =>
      if 2 ^ 20 ≤ k then s
      else s.modCore core (fun c => c.strikeCell .acc (k / 128 * 128) (fun a =>
        { a with accP := Store.set false a.accP (k / 256) true }))
    | .queue core q e =>
      s.modCore core (fun c =>
        let q' : Fin 8 := ⟨q % 8, Nat.mod_lt q (by decide)⟩
        let slot := (c.arch.oqIn[q'] + e - c.arch.oq[q'].length) % 128
        c.strikeCell .oq (q % 8 * 256 + slot / 2 * 2) (fun a => a.poisonEntry q e))
    | .plane core x p => s.modCore core (fun c => c.strikeCell .plane (x % 2 * 512 + p % 2 * 256) (fun a => a.poisonPlane x p))
    | .spill core t off =>
      if 16384 ≤ off then s
      else s.modCore core (fun c => c.strikeCell .spill (t.code.toNat * 16384 + off / 512 * 512) (fun a =>
        a.modEng t (fun e => { e with spillP := Store.set false e.spillP (off / 64) true })))
    | .shadow core st g =>
      s.modCore core (fun c => { c with shadows := c.shadows.map (fun (h : Shadow) =>
        if h.store = st ∧ h.gran = g ∧ h.epoch ≠ 0 then { h with bad := true } else h) })
    | .hbm addr =>
      if Config.hbmBytes ≤ addr then s else s.modDev (fun d => { d with hbmP := Store.set false d.hbmP (addr / 64) true })
    | .pool l => if s.dev.poolSize ≤ 64 * l then s else s.modDev (fun d => { d with poolP := Store.set false d.poolP (d.homeOf (64 * l) / 64) true })
    | .llc l =>
      match s.dev.findLine l with
      | none => s
      | some p => s.modDev (fun d => if p.dirty.any id then d.putLine { p with poison := true } else d.dropLine l)
    | .barMem core off =>
      if 65536 ≤ off then s
      else s.modCore core (fun c => c.strikeCell .bar (off / 512 * 512) (fun a => { a with barP := Store.set false a.barP (off / 64) true }))
    | .hold core id unit =>
      s.modCore core (fun c => { c with hold := c.hold.map (fun (h : Held) => if h.id = id then h.strike unit else h) })
    | .host addr => s.modDev (fun d => { d with hostP := Store.set false d.hostP (addr / 64) true })
    | .llcLocal l =>
      if s.dev.llc.any (fun x => x.line = l) then s.modDev (fun d => { d with hbmP := Store.set false d.hbmP l true }) else s)

/-! ### Bank wakes (R71) -/

/-- The bank's field of VBANKPWR reads ON since the wake began; with its end the bank may be named. -/
def execBankWakeDone (core : CoreId) (bank : Nat) (s : State) : Host.Outcome State Fault Refusal :=
  .next (s.modCore core (fun c => c.modArch (fun a =>
    if Store.get 0 a.bankWake bank ≤ s.cycle then { a with bankWake := Store.set 0 a.bankWake bank 0 } else a)))

/-! ### SEAL, PMARK and PCLR (R364, R365) -/

def execSealWord (h : Hdr) (f : SY) (s : State) :=
  runWord (.sealWord h f) h s (fun s =>
    checked (s.placeOk true false) none
      (if (s.here.rbLoop s.eng).isSome then .trap Code.reservedField none
       else
         match s.askCp false with
         | .pending t => .wait t
         | .open_ => .wait s
         | .ready => .done s))

/-- With .wait, C stalls from the taking of the commit point until its seal; that stall yields to a stop. -/
def execSealWait (h : Hdr) (f : SY) (s : State) :=
  runWord (.sealWait h f) h s (fun s =>
    checked (s.placeOk true false) none
      (if (s.here.rbLoop s.eng).isSome then .trap Code.reservedField none
       else
         match s.askCp false with
         | .pending t => .wait t
         | .open_ => .wait s
         | .ready =>
           match s.askCp true with
           | .ready => .done s
           | _ => .stall s))

/-- Marks or clears the rows of a view, as a region-internal write. -/
def markRows (o : BitVec 20) (m : Bool) (s : State) : Res :=
  withBanks s (s.mainRegs [o])
    (let r := s.regOf o
     let lvl := tLvl o
     let c := (List.range 8).foldl (fun (c : Core) g => c.shade (if lvl = 0 then .tile else .wfile) .own (r * 16 + g)) s.here
     let c := c.modArch (fun a => a.setMarks lvl ((viewRows o).foldl (fun st x => Store.set false st (r * 16 + x.1) m) (a.marks lvl)))
     .done ((s.setCore s.cur.core c).modEng (fun e => { e with busy := s.cycle + 2 })))

/-- Marks or clears the granules of a scratchpad range. -/
def markScratch (f : SY) (m : Bool) (s : State) : Res :=
  let e := (s.g f.ga + f.opnd.zeroExtend 64).toNat
  let n := (s.g f.gb).toNat
  if e % 64 ≠ 0 ∨ n % 64 ≠ 0 then .trap Code.misaligned none
  else if n = 0 ∨ Config.scrBytes < e + n then .trap Code.reservedField none
  else if s.keepHit s.cur.core s.here.ctx e n then .trap Code.privilege none
  else if s.arch.leased e n then .wait s
  else
    let c := (s.here.shadeRun .scratch .own 512 e n).modArch (fun a =>
      { a with scrP := Store.put false a.scrP (e / 64) (List.replicate (n / 64) m) })
    .done ((s.setCore s.cur.core c).modEng (fun x => { x with busy := s.cycle + 1 + (n + 4095) / 4096 }))

def execPmarkV (h : Hdr) (f : SY) (s : State) := runWord (.pmarkV h f) h s (fun s => markRows f.opnd true s)
def execPmarkA (h : Hdr) (f : SY) (s : State) := runWord (.pmarkA h f) h s (fun s => markScratch f true s)
def execPclrV (h : Hdr) (f : SY) (s : State) := runWord (.pclrV h f) h s (fun s => markRows f.opnd false s)
def execPclrA (h : Hdr) (f : SY) (s : State) := runWord (.pclrA h f) h s (fun s => markScratch f false s)

end Sys2Proof.Machine
end

