-- ==== Sys2Proof/Machine/Tasks.lean ====
section
/-! DEFINITION. Images and their registration (R100 to R105), host submission rings and completions (R277 to
R282), bundles (R283 to R289, R292), the walkers (R290, R291, R294 to R296), the binding and the retirement of
tile tasks (R74, R289, R293, R303), and the Assay unit's audits (R359, R360, R362). -/

namespace Sys2Proof.Machine

open Sys2Proof

/-! ### Completions (R278) -/

/-- Writes a completion record to host memory and raises the ring's vector when it is asked for. -/
def State.completeAs (s : State) (c : CplTo) (code : BitVec 8) : State :=
  match Store.get none (s.dev.hrings.map (fun p => (p.1, some p.2))) (16 * c.ctx + c.ring) with
  | none => s
  | some (r : HostRing) =>
    let base := leAt r.recd 0x10 8
    let bs := natBytes 8 c.seq.toNat ++ natBytes 4 c.tag.toNat ++ natBytes 1 code.toNat ++ natBytes 1 (c.prod % 64) ++ zeroBytes 2
    let s := s.modDev (fun d => { d with host := Store.put 0 d.host (base + 16 * c.slot) bs })
    if c.irq then s.irq (leAt r.recd 0x0C 2) else s

def State.complete (s : State) (c : Option CplTo) (code : BitVec 8) : State :=
  match c with
  | some c => s.completeAs c code
  | none => s

/-! ### Host rings (R277 to R282) -/

def HostRing.off : HostRing := ⟨.disabled, zeroBytes 64, [], 0, false⟩
def Dev.hring (d : Dev) (ctx ring : Nat) : HostRing := Store.get HostRing.off d.hrings (16 * ctx + ring)
def Dev.setHring (d : Dev) (ctx ring : Nat) (r : HostRing) : Dev :=
  { d with hrings := Store.set HostRing.off d.hrings (16 * ctx + ring) r }

def HostRing.n (r : HostRing) : Nat := 2 ^ leAt r.recd 8 1
def HostRing.indexMode (r : HostRing) : Bool := leAt r.recd 9 1 % 2 = 1
def HostRing.producers (r : HostRing) : Nat := if r.indexMode then 1 else 2 ^ leAt r.recd 0x0A 1

/-- Entries that one producer owns: N, or N/P. -/
def HostRing.each (r : HostRing) : Nat := r.n / r.producers

/-- The record is valid (R277). -/
def HostRing.valid (r : HostRing) : Bool :=
  let b := r.recd
  let logn := leAt b 8 1
  let logp := leAt b 0x0A 1
  leAt b 0 8 % 4096 = 0 && decide (4 ≤ logn) && decide (logn ≤ 20) && decide (leAt b 9 1 ≤ 1) && decide (leAt b 0x0B 1 ≤ 3) &&
    decide (leAt b 0x0C 2 ≤ 2047) && leAt b 0x0E 2 = 0 && leAt b 0x10 8 % 4096 = 0 && decide (leAt b 0x28 4 ≤ 1) &&
    leAt b 0x2C 20 = 0 &&
    (if r.indexMode then logp = 0 else decide (logp ≤ 6) && decide (2 ^ logp ≤ 2 ^ logn / 4))

/-- CTL.EN of the record. -/
def HostRing.setEn (r : HostRing) (b : Bool) : HostRing :=
  let o : Byte := BitVec.ofNat 8 (leAt r.recd 0x28 1)
  { r with recd := overlay r.recd 0x28 [if b then o ||| 1 else o &&& 0xFE] }

/-- Writes an 8-byte word to host memory. -/
def Dev.hostWord (d : Dev) (a v : Nat) : Dev := { d with host := Store.put 0 d.host a (natBytes 8 v) }

def execHostRingEnable (ctx ring : Nat) (s : State) : Host.Outcome State Fault Refusal :=
  .next (let r := s.dev.hring ctx ring
    if 1024 ≤ ctx ∨ 16 ≤ ring ∨ r.st ≠ .disabled then s
    else if !(r.setEn true).valid then s.modDev (fun d => d.setHring ctx ring (r.setEn false))
    else
      let start := leAt r.recd 0x20 8
      let r := { r.setEn true with st := .enabled, expect := List.replicate r.producers start, turn := 0, bell := false }
      let s := s.modDev (fun d => d.setHring ctx ring r)
      if r.indexMode then s
      else s.modDev (fun d => (List.range r.producers).foldl (fun (d : Dev) p =>
        d.hostWord (leAt r.recd 0x18 8 + 8 * p) r.each) d))

def execHostRingDisable (ctx ring : Nat) (s : State) : Host.Outcome State Fault Refusal :=
  .next (let r := s.dev.hring ctx ring
    if r.st = .disabled then s
    else s.modDev (fun d => d.setHring ctx ring { r.setEn false with st := .disabled, expect := [], turn := 0, bell := false }))

/-- The ring index of the entry with sequence number q of producer p. -/
def HostRing.slotOf (r : HostRing) (p q : Nat) : Nat := p * r.each + q % r.each

def CplTo.of (ctx ring : Nat) (r : HostRing) (p q : Nat) (tag : W32) (irq : Bool) : CplTo :=
  ⟨ctx, ring, p, r.slotOf p q, BitVec.ofNat 64 q, tag, irq⟩

/-- Consumes the entry of producer p with the expected number (R278 to R281). -/
def State.consume (s : State) (ctx ring p : Nat) : State :=
  let r := s.dev.hring ctx ring
  let q := r.expect.getD p 0
  let bs := Store.run 0 s.dev.host (leAt r.recd 0 8 + 128 * r.slotOf p q) 128
  let q' := (q + 1) % 2 ^ 64
  let r' := { r with expect := r.expect.set p q', turn := (p + 1) % r.producers }
  let aux := leAt r.recd 0x18 8
  let s := s.modDev (fun d =>
    let d := d.setHring ctx ring r'
    if r.indexMode then d.hostWord aux q'
    else d.hostWord (aux + 8 * p) ((q' + 2 ^ 64 - leAt r.recd 0x20 8) % 2 ^ 64 + r.each))
  let op := leAt bs 8 2
  let flg := leAt bs 0x0A 1
  let size := leAt bs 0x18 8
  let bad := op = 0 ∨ 3 < op ∨ 1 < flg ∨ leAt bs 0x0B 1 ≠ 0 ∨ (bs.drop 0x20).any (· ≠ 0) ∨ (op ≠ 2 ∧ size ≠ 0)
  let c := CplTo.of ctx ring r p q (leW32 bs 0x0C) (flg % 2 = 1)
  if bad then s.completeAs c Code.reservedField
  else
    s.modDev (fun d => { d with hcmds := d.hcmds ++
      [⟨ctx, ring, op, flg % 2 = 1, leW32 bs 0x0C, leAt bs 0x10 8, size, BitVec.ofNat 64 q, r.slotOf p q, p, false⟩] })

/-- What reading the SEQ of producer p's next entry finds (R281). -/
inductive SeqFound where
  | ready | overrun | none

def State.seqFound (s : State) (ctx ring p : Nat) : SeqFound :=
  let r := s.dev.hring ctx ring
  let q := r.expect.getD p 0
  let v := bytesNat (Store.run 0 s.dev.host (leAt r.recd 0 8 + 128 * r.slotOf p q) 8)
  let d := (v + 2 ^ 64 - q % 2 ^ 64) % 2 ^ 64
  if d = 0 then .ready else if d < 2 ^ 63 ∧ d % r.each = 0 then .overrun else .none

/-- The producer whose next entry is read: in turn, of those whose SEQ finds an entry or an overrun (R280, R281). -/
def State.ringNext (s : State) (ctx ring : Nat) : Option Nat :=
  let r := s.dev.hring ctx ring
  if r.st ≠ .enabled ∨ !r.bell then none
  else ((List.range r.producers).map (fun k => (r.turn + k) % r.producers)).find? (fun p =>
    match s.seqFound ctx ring p with | .none => false | _ => true)

/-- Reads one entry of a ring, or finds an overrun. -/
def State.readEntry (s : State) (ctx ring p : Nat) : State :=
  match s.seqFound ctx ring p with
  | .ready => s.consume ctx ring p
  | _ =>
    let r := s.dev.hring ctx ring
    let q := r.expect.getD p 0
    let (tag, s) := s.given none
    let s := s.modDev (fun d => d.setHring ctx ring { r with st := .faulted, bell := false })
    s.completeAs (CplTo.of ctx ring r p q (tag.extractLsb' 0 32) false) Code.queueOverrun

/-- EXPRESS grants of a window that have strict priority: 1/16 of those that a resource makes which makes at most one in an
uncore cycle, as a walker and the ring reader do (log entry 153). -/
def expressCap : Nat := 256

/-- One grant of the ring reader: of the rings with an entry, the class that R295 gives, then the rings in turn. -/
def State.grantRing (s : State) : Option State :=
  let ks := s.dev.hrings.filterMap (fun p => (s.ringNext (p.1 / 16) (p.1 % 16)).map (fun n => (p.1, leAt p.2.recd 0x0B 1, n)))
  let w := s.dev.ringArb
  match w.choose expressCap (s.uncore / 4096) (ks.map (fun k => k.2.1)) with
  | none => none
  | some (c, v) =>
    let of := ks.filter (fun k => w.eff expressCap (s.uncore / 4096) k.2.1 = c)
    ((of.find? (fun k => decide (w.lastBind ≤ k.1))).or of.head?).map (fun k =>
      (s.modDev (fun d => { d with ringArb := { v with lastBind := k.1 + 1 } })).readEntry (k.1 / 16) (k.1 % 16) k.2.2)

/-- The device reads the rings whose doorbells have been written until none has an entry left; then it waits for the next
doorbells (R281). -/
def State.serveRings : Nat → State → State
  | 0, s => s
  | fuel + 1, s =>
    match s.grantRing with
    | some t => State.serveRings fuel t
    | none => s.modDev (fun d => { d with hrings := d.hrings.map (fun p => (p.1, { p.2 with bell := false })) })

/-- What the doorbells written ask for, at the next core cycle. -/
def State.readRings (s : State) : State :=
  if s.dev.hrings.any (fun p => p.2.bell) then State.serveRings ((s.dev.hrings.map (fun p => p.2.n)).sum + 1) s else s

def execDoorbellWrite (ctx ring : Nat) (s : State) : Host.Outcome State Fault Refusal :=
  .next (let r := s.dev.hring ctx ring
    if s.ready ∧ r.st = .enabled then s.modDev (fun d => d.setHring ctx ring { r with bell := true }) else s)

/-- The first consumed command of a ring with an operation code. -/
def Dev.hostCmd (d : Dev) (ctx ring op : Nat) : Option HostCmd :=
  match d.hcmds.find? (fun c => c.ctx = ctx && c.ring = ring) with
  | some c => if c.op = op then some c else none
  | none => none

def Dev.dropCmd (d : Dev) (c : HostCmd) : Dev := { d with hcmds := d.hcmds.erase c }

def HostCmd.cpl (c : HostCmd) : CplTo := ⟨c.ctx, c.ring, c.prod, c.slot, c.seq, c.tag, c.irq⟩

/-! ### Images (R100 to R105) -/

/-- CRC-32 of IEEE 802.3: reflected, initial value and final exclusive OR all ones. -/
def crcBit (c : W32) : W32 := if c.getLsbD 0 then (c >>> 1) ^^^ 0xEDB88320 else c >>> 1
def crcByte (c : W32) (b : Byte) : W32 :=
  crcBit (crcBit (crcBit (crcBit (crcBit (crcBit (crcBit (crcBit (c ^^^ b.zeroExtend 32))))))))
def crc32 (bs : List Byte) : W32 := bs.foldl crcByte 0xFFFFFFFF ^^^ 0xFFFFFFFF

/-- Two regions (offset, bytes) share a byte. -/
def regionsMeet (a b : Nat × Nat) : Bool :=
  decide (0 < a.2) && decide (0 < b.2) && decide (a.1 < b.1 + b.2) && decide (b.1 < a.1 + a.2)

def pairwiseApart : List (Nat × Nat) → Bool
  | [] => true
  | r :: rs => !rs.any (regionsMeet r) && pairwiseApart rs

/-- The six regions of an image (R104, check 3). -/
def imageRegions (b : List Byte) : List (Nat × Nat) :=
  [(0, 128), (leAt b 8 4, leAt b 0x0C 4), (leAt b 0x10 4, leAt b 0x14 4), (leAt b 0x40 4, 16 * leAt b 0x19 1),
   (leAt b 0x44 4, 16 * leAt b 0x1A 1), (leAt b 0x48 4, 2 * leAt b 0x4C 2)]

/-- Check 3 of R104. -/
def imageFieldsOk (b : List Byte) (size : Nat) : Bool :=
  decide (leAt b 6 2 ≤ 1) && leAt b 8 4 % 4 = 0 && decide (leAt b 0x0C 4 ≤ 2 ^ 26) && decide (1 ≤ leAt b 0x18 1) &&
    decide (leAt b 0x18 1 ≤ 64) && leAt b 0x1B 1 = 0 && decide (leAt b 0x1C 4 < 2 ^ 20) &&
    (List.range 10).all (fun k => bitsOf (leAt b 0x1C 4) (2 * k + 1) (2 * k) ≠ 3) &&
    (List.range 8).all (fun k => decide (leAt b (0x20 + 4 * k) 4 ≤ 65536)) && leAt b 0x40 4 % 16 = 0 && leAt b 0x44 4 % 16 = 0 &&
    leAt b 0x48 4 % 2 = 0 && leAt b 0x4E 2 = 0 && (imageRegions b).all (fun r => decide (r.1 + r.2 ≤ size)) &&
    pairwiseApart (imageRegions b)

/-- A header of the text: its parcel offset from TEXTOFF, its fields. -/
structure TextHdr where
  off : Nat
  hdr : SecHdr

/-- Follows the headers of a text through LEN; the code of the first that fails R22, or SECTION_FORMAT when they
do not end exactly at the text's end (check 5). -/
def walkHeaders : Nat → List Byte → Nat → Except (BitVec 8) (List TextHdr)
  | 0, text, _ => if text.isEmpty then .ok [] else .error Code.sectionFormat
  | fuel + 1, text, off =>
    if text.isEmpty then .ok []
    else if text.length < 8 then .error Code.sectionFormat
    else
      let h := decodeHdr (bytesHdr (text.take 8))
      match headerFault h with
      | some code => .error code
      | none =>
        let n := 8 + 12 * h.len.toNat
        if text.length < n then .error Code.sectionFormat
        else
          match walkHeaders fuel (text.drop n) (off + n / 4) with
          | .error c => .error c
          | .ok hs => .ok (⟨off, h⟩ :: hs)

/-- Loop descriptors in parcels (R101): HEAD, LAST, LC, SM1, RB, ZT, VB. -/
structure RawLoop where
  head : Nat
  last : Nat
  lc : Nat
  sm1 : Nat
  rb : Bool
  zt : Nat
  vb : Nat

def rawLoop (bs : List Byte) : RawLoop :=
  let w := leAt bs 0 16
  ⟨bitsOf w 127 104, bitsOf w 103 80, bitsOf w 79 78, bitsOf w 77 75, w.testBit 74, bitsOf w 73 64, bitsOf w 63 54⟩

/-- Drain entries in parcels (R102): FIRST, LAST, DRAIN, REFILL. -/
def rawDrain (bs : List Byte) : Nat × Nat × Nat × Nat :=
  let w := leAt bs 0 16
  (bitsOf w 127 96, bitsOf w 95 64, bitsOf w 63 32, bitsOf w 31 0)

/-- Bodies nest or are disjoint. -/
def nestOk (a b : RawLoop) : Bool :=
  decide (a.last < b.head) || decide (b.last < a.head) || (decide (a.head ≤ b.head) && decide (b.last ≤ a.last)) ||
    (decide (b.head ≤ a.head) && decide (a.last ≤ b.last))

def allPairs {α : Type} (f : α → α → Bool) : List α → Bool
  | [] => true
  | x :: xs => xs.all (f x) && allPairs f xs

/-- Check 6 of R104. -/
def tablesOk (hs : List TextHdr) (ls : List RawLoop) (ds : List (Nat × Nat × Nat × Nat)) : Bool :=
  let isHdr (o : Nat) : Bool := hs.any (fun h => h.off = o)
  let body (l : RawLoop) : List TextHdr := hs.filter (fun h => decide (l.head ≤ h.off) && decide (h.off ≤ l.last))
  ls.all (fun l => isHdr l.head && isHdr l.last && decide (l.head ≤ l.last) && decide (l.vb + (l.sm1 + 1) * l.zt ≤ 768) &&
    (l.sm1 = 0 || ((body l).length = l.sm1 + 1 && (body l).zipIdx.all (fun p => p.1.hdr.stage.toNat = p.2)))) &&
    allPairs nestOk ls &&
    hs.all (fun h => (h.hdr.loophead = 1) == ls.any (fun l => l.head = h.off) && ((h.hdr.commit = 1) == ls.any (fun l => l.last = h.off))) &&
    ds.all (fun d => isHdr d.1 && isHdr d.2.1 && isHdr d.2.2.1 && isHdr d.2.2.2 && decide (d.1 ≤ d.2.1)) &&
    allPairs (fun a b => decide (a.2.1 < b.1) || decide (b.2.1 < a.1)) ds

/-- Check 7 of R104: edges whose source no edge reaches are removed until none is left. -/
def acyclic : Nat → List (Nat × Nat) → Bool
  | 0, es => es.isEmpty
  | fuel + 1, es => es.isEmpty || acyclic fuel (es.filter (fun e => es.any (fun f => f.2 = e.1)))

/-- Checks 2 to 7 of R104 on the image at addr with size bytes, whose first 128 bytes are b. part reads other bytes of
it, at an offset: the text at check 4, the tables at check 6, the edges at check 7, and nothing else. -/
def imageOf (addr size : Nat) (b : List Byte) (part : Nat → Nat → Except (BitVec 8) (List Byte)) : Except (BitVec 8) Image :=
  if leAt b 0 4 ≠ 0x53514B31 ∨ leAt b 4 2 ≠ 1 then .error Code.sectionFormat
  else if !imageFieldsOk b size then .error Code.reservedField
  else
    let t := leAt b 8 4
    match part t (leAt b 0x0C 4) with
    | .error c => .error c
    | .ok text =>
      if crc32 (overlay b 0x7C (zeroBytes 4) ++ text) ≠ leW32 b 0x7C then .error Code.sectionFormat
      else
        match walkHeaders text.length text 0 with
        | .error c => .error c
        | .ok hs =>
          match part (leAt b 0x40 4) (16 * leAt b 0x19 1), part (leAt b 0x44 4) (16 * leAt b 0x1A 1) with
          | .error c, _ => .error c
          | _, .error c => .error c
          | .ok lt, .ok dt =>
            let ls := (List.range (leAt b 0x19 1)).map (fun k => rawLoop ((lt.drop (16 * k)).take 16))
            let ds := (List.range (leAt b 0x1A 1)).map (fun k => rawDrain ((dt.drop (16 * k)).take 16))
            if !tablesOk hs ls ds then .error Code.sectionFormat
            else
              match part (leAt b 0x48 4) (2 * leAt b 0x4C 2) with
              | .error c => .error c
              | .ok et =>
                if !acyclic 256 ((List.range (leAt b 0x4C 2)).map (fun k => (leAt et (2 * k) 1, leAt et (2 * k + 1) 1))) then
                  .error Code.waitGraphCycle
                else
                  let len (o : Nat) : Nat := match hs.find? (fun h => h.off = o) with | some h => 8 + 12 * h.hdr.len.toNat | none => 0
                  .ok
                    { addr := addr, size := size, textOff := t, textLen := leAt b 0x0C 4, slipw0 := leAt b 0x18 1
                      banks := leW32 b 0x1C, pwin := (List.range 8).map (fun k => leAt b (0x20 + 4 * k) 4)
                      loops := ls.map (fun l =>
                        ⟨t + 4 * l.head, t + 4 * l.last, t + 4 * l.last + len l.last, l.lc, l.sm1, l.rb, l.zt, l.vb⟩)
                      drains := ds.map (fun d => ⟨t + 4 * d.1, t + 4 * d.2.1, t + 4 * d.2.2.1, t + 4 * d.2.2.2⟩)
                      audit := leAt b 6 2 = 1, use := 0, unload := [], text := [] }

/-- A context that holds images and allocations. -/
def Ctx.alive (x : Ctx) : Bool := x.st ≠ .free && x.st ≠ .tornDown

/-- The core whose Chaperone does what is asked of a die, and whose caches its reads use: the lowest enabled one (R327, log
entry 154). -/
def Dev.chapCore (d : Dev) (die : Nat) : CoreId :=
  coreId (((List.range 32).map (fun k => 32 * (die % 2) + k)).find? (fun n => d.cemask.getLsbD n) |>.getD (32 * (die % 2)))

/-- The translations of n bytes fill the caches of the core that has read them (R327). -/
def State.fillRun (s : State) (core : CoreId) (ctx va n : Nat) : State :=
  if n = 0 then s
  else (List.range ((va % 65536 + n + 65535) / 65536)).foldl (fun (s : State) k => s.fillCaches core ctx (va / 65536 * 65536 + 65536 * k)) s

/-- The bytes of an image at an offset, read in the context by a core. -/
def State.imagePart (s : State) (core : CoreId) (ctx addr off n : Nat) : Except (BitVec 8) (List Byte) :=
  if n = 0 then .ok []
  else
    match s.readVa core ctx .r (addr + off) n with
    | .error (code, _) => .error code
    | .ok (bs, _) => .ok bs

/-- A load command (R104, R105), which a Chaperone of die 0 carries out (log entry 154). -/
def State.load (s : State) (c : HostCmd) : State :=
  let x := s.dev.ctx c.ctx
  let k := s.dev.chapCore 0
  if !x.alive ∨ (x.image c.addr).isSome then s.completeAs c.cpl Code.reservedField
  else if c.addr % 64 ≠ 0 then s.completeAs c.cpl Code.misaligned
  else
    match s.imagePart k c.ctx c.addr 0 128 with
    | .error code => s.completeAs c.cpl code
    | .ok hd =>
      let t := s.fillRun k c.ctx c.addr (max 128 c.size)
      match imageOf c.addr c.size hd (s.imagePart k c.ctx c.addr) with
      | .error code => t.completeAs c.cpl code
      | .ok i => (t.modDev (fun d => d.setCtx c.ctx { x with images := x.images ++ [i] })).completeAs c.cpl 0

def execLoadImage (src : CmdSrc) (s : State) : Host.Outcome State Fault Refusal :=
  .next (match src with
    | .queue _ => s
    | .host ctx ring =>
      match s.dev.hostCmd ctx ring 2 with
      | none => s
      | some c => (s.modDev (fun d => d.dropCmd c)).load c)

def Ctx.setImage (x : Ctx) (addr : Nat) (f : Image → Image) : Ctx :=
  { x with images := x.images.map (fun i => if i.addr = addr then f i else i) }

/-- An unload command (R105): pending while the image is in use. -/
def State.unload (s : State) (c : HostCmd) : State :=
  let x := s.dev.ctx c.ctx
  match x.image c.addr with
  | none => s.completeAs c.cpl Code.reservedField
  | some i =>
    if i.use = 0 then
      (s.modDev (fun d => d.setCtx c.ctx { x with images := x.images.filter (fun j => j.addr ≠ c.addr) })).completeAs c.cpl 0
    else s.modDev (fun d => d.setCtx c.ctx (x.setImage c.addr (fun i => { i with unload := i.unload ++ [c.cpl] })))

def execUnloadImage (src : CmdSrc) (s : State) : Host.Outcome State Fault Refusal :=
  .next (match src with
    | .queue _ => s
    | .host ctx ring =>
      match s.dev.hostCmd ctx ring 3 with
      | none => s
      | some c => (s.modDev (fun d => d.dropCmd c)).unload c)

/-- A bundle that used an image is over: its use count falls, and with the last one a pending unload happens. -/
def State.releaseImage (s : State) (ctx addr : Nat) : State :=
  let x := s.dev.ctx ctx
  match x.image addr with
  | none => s
  | some i =>
    if i.use ≤ 1 ∧ !i.unload.isEmpty then
      i.unload.foldl (fun (s : State) c => s.completeAs c 0)
        (s.modDev (fun d => d.setCtx ctx { x with images := x.images.filter (fun j => j.addr ≠ addr) }))
    else s.modDev (fun d => d.setCtx ctx (x.setImage addr (fun i => { i with use := i.use - 1 })))

/-! ### Bundles: the record (R283) -/

/-- An enabled core where a context is resident (R2, R302). -/
def Dev.usable (d : Dev) (ctx : Nat) (n : Nat) : Bool :=
  decide (n < 64) && d.cemask.getLsbD n && (d.ctx ctx).residentOn (coreId n)

/-- A core that the walker may use for a context: one that is not suspect either (R359). -/
def Dev.walks (d : Dev) (ctx : Nat) (n : Nat) : Bool := d.usable ctx n && !d.suspect.getLsbD n

/-- The enabled cores of a set, in ascending order. -/
def Dev.coresOf (d : Dev) (ctx : Nat) (set : W64) : List Nat :=
  (List.range 64).filter (fun n => set.getLsbD n && d.usable ctx n)

/-- Check 2 of R285. -/
def recordOk (b : List Byte) : Bool :=
  let fl := leAt b 3 1
  let ndim := leAt b 0x50 1
  let ord := leAt b 0x51 1
  let tsh := leAt b 0x52 1
  let sig := leAt b 0x80 8
  leAt b 0 2 = 1 && decide (leAt b 2 1 ≤ 3) && decide (fl < 16) && leAt b 4 4 = 0 && decide (1 ≤ ndim) && decide (ndim ≤ 4) &&
    (List.range 4).all (fun k => let n := leAt b (0x20 + 4 * k) 4
      decide (1 ≤ n) && decide (n ≤ 65536) && (decide (k < ndim) || n = 1)) &&
    decide (ord ≤ 2) && (if ord = 2 then decide (2 ≤ ndim) && decide (1 ≤ tsh) && decide (tsh ≤ 6) else tsh = 0) &&
    leAt b 0x53 5 = 0 && (fl.testBit 0 || (leAt b 0x58 8 = 0 && !fl.testBit 1)) &&
    (List.range 4).all (fun k => let d := leAt b (0x60 + 8 * k) 8
      bitsOf d 61 54 = 0 && bitsOf d 39 32 = 0 && (!d.testBit 62 || (bitsOf d 31 0 = 0 && decide (bitsOf d 47 40 < 64)))) &&
    bitsOf sig 62 54 = 0 && bitsOf sig 39 8 = 0 &&
    (if fl.testBit 2 then leAt b 0x88 8 % 64 = 0 && decide (leAt b 0x88 8 < 2 ^ 56) && decide (1 ≤ leAt b 0x90 4) && decide (leAt b 0x90 4 ≤ 4096)
     else leAt b 0x88 8 = 0 && leAt b 0x90 4 = 0) && leAt b 0x94 4 = 0 &&
    (if fl.testBit 3 then leAt b 0xA0 4 % 8 = 0 && decide (leAt b 0xA0 4 ≤ 262144) && decide (leAt b 0x98 8 < 2 ^ 56)
     else leAt b 0x98 8 = 0 && leAt b 0xA0 4 = 0) && leAt b 0xA4 28 = 0 &&
    (List.range 8).all (fun k => decide (leAt b (0xC0 + 16 * k + 8) 4 ≤ 65536) && leAt b (0xC0 + 16 * k + 12) 4 = 0 &&
      decide (leAt b (0xC0 + 16 * k) 8 < 2 ^ 56))

/-- The bundle of a record. -/
def bundleOf (b : List Byte) (id ctx addr cls die since : Nat) (cpl : Option CplTo) : Bundle :=
  let fl := leAt b 3 1
  { id := id, ctx := ctx, addr := addr, cls := cls, st := .waiting, code := 0, img := leAt b 8 8, cores := leW64 b 0x10
    seed := leW64 b 0x18, bnd := (List.range 4).map (fun k => leAt b (0x20 + 4 * k) 4)
    org := (List.range 4).map (fun k => leInt32 b (0x30 + 4 * k)), step := (List.range 4).map (fun k => leInt32 b (0x40 + 4 * k))
    ndim := leAt b 0x50 1, order := leAt b 0x51 1, tsh := leAt b 0x52 1, ind := fl.testBit 0, iw8 := fl.testBit 1
    icnt := leAt b 0x58 8, deps := (List.range 4).map (fun k => leW64 b (0x60 + 8 * k)), seen := [], sig := leW64 b 0x80
    xl := fl.testBit 2, xlist := leAt b 0x88 8, xcnt := leAt b 0x90 4, tr := fl.testBit 3, trout := leAt b 0x98 8
    tlen := leAt b 0xA0 4, pw := (List.range 8).map (fun k => (leAt b (0xC0 + 16 * k) 8, leAt b (0xC0 + 16 * k + 8) 4))
    wins := [], total := 0, next := 0, live := 0, copies := [], routineLive := false, die := die, since := since, promoted := 0
    actSeq := 0, met := none, cpl := cpl }

/-- The dependences and the signal of a record: valid, barrier, core, object. -/
def depCore (d : W64) : Nat := bitsOf d.toNat 53 48
def depObj (d : W64) : Nat := bitsOf d.toNat 47 40

/-- Check 6 of R285 for one named object. -/
def Dev.objAllowed (d : Dev) (ctx : Nat) (bar : Bool) (w : W64) : Bool :=
  let x := d.ctx ctx
  !w.getLsbD 63 || (d.usable ctx (depCore w) && (if bar then x.bara.getLsbD (depObj w) else x.sema.getLsbD (depObj w)))

/-- Pages of a window that lack read permission: the first code (check 7). -/
def State.windowFault (s : State) (core : CoreId) (ctx va size : Nat) : Option (BitVec 8) :=
  if size = 0 then none
  else
    ((List.range ((va % 65536 + size + 65535) / 65536)).map (fun k => max va (va / 65536 * 65536 + 65536 * k))).findSome? (fun a =>
      match s.access core ctx a .r with
      | .bad code _ => some code
      | .ok _ => none)

/-- The checks of R285 on a bundle record at addr, by the Chaperone of a core; the bundle when all pass. -/
def State.acceptCheck (s : State) (core : CoreId) (ctx addr : Nat) (src : Nat) (die : Option Nat) (cpl : Option CplTo) :
    Except (BitVec 8) Bundle :=
  let d := s.dev
  let x := d.ctx ctx
  if !x.alive then .error Code.reservedField
  else if addr % 64 ≠ 0 then .error Code.misaligned
  else
    match s.readVa core ctx .r addr 320 with
    | .error (code, _) => .error code
    | .ok (r, _) =>
      if !recordOk r then .error Code.reservedField
      else
        let cores := d.coresOf ctx (leW64 r 0x10)
        let b := bundleOf r d.nextBundle ctx addr (max (leAt r 2 1) src) (die.getD (cores.headD 0 / 32)) s.uncore cpl
        match x.image b.img with
        | none => .error Code.reservedField
        | some i =>
          if cores.isEmpty then .error Code.reservedField
          else if b.pw.zipIdx.any (fun p => p.1.2 ≠ 0 && decide (i.pwin.getD p.2 0 < p.1.2)) then .error Code.reservedField
          else if b.deps.any (fun w => !d.objAllowed ctx (w.getLsbD 62) w) || !d.objAllowed ctx false b.sig then .error Code.privilege
          else
            match b.pw.findSome? (fun p => s.windowFault core ctx p.1 p.2) with
            | some code => .error code
            | none => .ok b

/-- A bundle is submitted: accepted to wait, or ended with the failing code (R285, R292). -/
def State.submit (s : State) (core : CoreId) (ctx addr src : Nat) (die : Option Nat) (cpl : Option CplTo) : State × Bool :=
  match s.acceptCheck core ctx addr src die cpl with
  | .error code => (s.complete cpl code, false)
  | .ok b =>
    let t := b.pw.foldl (fun (s : State) p => s.fillRun core ctx p.1 p.2) (s.fillRun core ctx addr 320)
    (t.modDev (fun d => { d with bundles := d.bundles ++ [b], nextBundle := d.nextBundle + 1 }), true)

def execLaunchBundle (src : CmdSrc) (s : State) : Host.Outcome State Fault Refusal :=
  .next (match src with
    | .host ctx ring =>
      match s.dev.hostCmd ctx ring 1 with
      | none => s
      | some c => ((s.modDev (fun d => d.dropCmd c)).submit (s.dev.chapCore 0) ctx c.addr (leAt (s.dev.hring ctx ring).recd 0x0B 1) none (some c.cpl)).1
    | .queue core =>
      match (s.core core).chq with
      | [] => s
      | q :: rest =>
        let s := s.modCore core (fun c => { c with chq := rest })
        if (q.bytes.drop 16).any (· ≠ 0) then s
        else
          let (s, ok) := s.submit core q.ctx (leAt q.bytes 8 8) q.cls (some (core.val / 32)) none
          if ok then s.signalSealed (coreId q.fromCore) q.sig else s)

/-! ### Dependences and activation (R286, R287) -/

/-- A dependence is met. -/
def State.depMet (s : State) (w : W64) : Bool :=
  let a := (s.core (coreId (depCore w))).realArch
  !w.getLsbD 63 || (if w.getLsbD 62 then (a.bar (depObj w)).finished else semMet (a.sem (depObj w)) (w.extractLsb' 0 32))

/-- What the object of a dependence holds now. -/
def State.depNow (s : State) (w : W64) : Nat :=
  let a := (s.core (coreId (depCore w))).realArch
  if !w.getLsbD 63 then 0 else if w.getLsbD 62 then (a.bar (depObj w)).st.num + 1 else (a.sem (depObj w)).toNat

/-- The code of a dependence barrier that is FAULTED. -/
def State.depFault (s : State) (b : Bundle) : Option (BitVec 8) :=
  b.deps.findSome? (fun w =>
    let x := (s.core (coreId (depCore w))).realArch.bar (depObj w)
    if w.getLsbD 63 ∧ w.getLsbD 62 ∧ x.st = .faulted then some x.code else none)

/-- A bundle ends before it is active: its completion is written and nothing else happens. -/
def State.endWaiting (s : State) (b : Bundle) (code : BitVec 8) : State :=
  (s.modDev (fun d => { d with bundles := d.bundles.filter (fun x => x.id ≠ b.id) })).complete b.cpl code

/-- Active records of a class on a walker (R294). -/
def Dev.activeOn (d : Dev) (die cls : Nat) : Nat :=
  (d.bundles.filter (fun b => b.st = .active && b.die = die && b.cls = cls)).length

/-- The windows as activation finds them (R93): contents as of this moment, zeros where a page is gone. -/
def State.windowsOf (s : State) (b : Bundle) : List (Option Window) :=
  b.pw.map (fun p =>
    if p.2 = 0 then none
    else
      some ⟨p.1, p.2, (match s.readVa (s.dev.chapCore b.die) b.ctx .r p.1 p.2 with | .ok (bs, _) => bs | .error _ => s.freeBytes p.2)⟩)

/-- The tile tasks of a bundle, or the fault of its count word (R287, steps 1 and 2). -/
def State.taskCount (s : State) (b : Bundle) : Except (BitVec 8) Nat :=
  let n := b.bnd.foldl (fun t k => t * k) 1
  if !b.ind then .ok n
  else
    let w := if b.iw8 then 8 else 4
    if b.icnt % w ≠ 0 then .error Code.misaligned
    else
      match s.readVa (s.dev.chapCore b.die) b.ctx .r b.icnt w with
      | .error (code, _) => .error code
      | .ok (bs, _) => .ok (min n (bytesNat bs))

/-- The copy list, each block with its target core, or the code of the first that fails (R287, step 4; a poisoned one, R355). -/
def State.copyList (s : State) (b : Bundle) (cores : List Nat) : Except (BitVec 8) (List (Nat × CopyBlk × List Byte)) :=
  if !b.xl then .ok []
  else
    (List.range b.xcnt).foldl (fun (r : Except (BitVec 8) (List (Nat × CopyBlk × List Byte))) e =>
      match r, s.readVa (s.dev.chapCore b.die) b.ctx .r (b.xlist + 64 * e) 64 with
      | .error c, _ => .error c
      | _, .error (code, _) => .error code
      | .ok l, .ok (blk, po) =>
        if po then .error Code.poisonConsumed
        else
          let k := cores.getD (e % max 1 cores.length) 0
          match s.copyCheck (coreId k) b.ctx blk 1 0 true false with
          | .error c => .error c
          | .ok f => .ok (l ++ [(k, f, blk)])) (.ok [])

/-- Pushes one copy block of a bundle into its core's X queue. -/
def State.pushCopy (s : State) (b : Nat) (ctx : Nat) (p : Nat × CopyBlk × List Byte) : State :=
  let k := coreId p.1
  let id := (s.core k).nextCmd
  let sg : WaitSig := ⟨false, 0, 0, false, 0, 0, k.val⟩
  let s := (s.pushX k p.2.1 sg k.val .c 0 ctx 0 (s.dev.wseq, 0) (some b) none).modCore k Core.autoCp
  s.modDev (fun d => d.modBundle b (fun x => { x with copies := x.copies ++ [(k.val, id)] }))

/-- Activation (R287): all of it in one step. -/
def State.activate (s : State) (b : Bundle) : State :=
  let d := s.dev
  let x := d.ctx b.ctx
  let cores := d.coresOf b.ctx b.cores
  if (x.image b.img).isNone ∨ cores.isEmpty then s.endWaiting b Code.reservedField
  else
    match s.taskCount b, s.copyList b cores with
    | .error code, _ => s.endWaiting b code
    | _, .error code => s.endWaiting b code
    | .ok n, .ok blks =>
      let k := coreId (cores.headD 0)
      let text (i : Image) : List Byte := ((s.imagePart (d.chapCore b.die) b.ctx i.addr i.textOff i.textLen).toOption).getD []
      let b' := { b with st := if n = 0 then .draining else .active, total := n, wins := s.windowsOf b, since := s.uncore, actSeq := d.nextAct
                         routineLive := b.tr }
      let s := s.modDev (fun d =>
        let d := d.setCtx b.ctx (x.setImage b.img (fun i => { i with use := i.use + 1, text := if i.use = 0 then text i else i.text }))
        { (d.modBundle b.id (fun _ => b')) with nextAct := d.nextAct + 1 })
      let s := blks.foldl (fun (s : State) p => s.pushCopy b.id b.ctx p) s
      if !b.tr then s
      else s.modCore k (fun c => c.keep (fun a => { a with seq := { a.seq with
        startq := a.seq.startq ++ [⟨b.trout, b.tlen, b.id, b.addr, b.ctx⟩] } }))

/-- The start queue that a bundle's routine needs has a free entry (R286). -/
def State.startFree (s : State) (b : Bundle) : Bool :=
  !b.tr || decide ((s.core (coreId ((s.dev.coresOf b.ctx b.cores).headD 0))).arch.seq.startq.length < 4)

/-- Bundles whose dependences were met before and that take a free slot of the same class first (R294); those met in
one uncore cycle go in the order of acceptance (log entry 137). -/
def State.earlierMet (s : State) (b : Bundle) (at' : Nat) : Nat :=
  (s.dev.bundles.filter (fun o => o.id ≠ b.id && o.st = .waiting && o.die = b.die && o.cls = b.cls && s.startFree o &&
    (match o.met with | some m => decide (m < at') || (m = at' && decide (o.id < b.id)) | none => false))).length

/-- A waiting bundle's dependences have come to be met, or are so no longer. -/
def State.depsMoved (s : State) (b : Bundle) : Bool := b.st = .waiting && b.met.isSome ≠ b.deps.all s.depMet

/-- When a waiting bundle's dependences were met (R286, R294). -/
def State.evalDeps (s : State) (b : Bundle) : Bundle :=
  if s.depsMoved b then { b with met := if b.met.isSome then none else some s.uncore } else b

def State.evalWaiting (s : State) : State :=
  if s.dev.bundles.any s.depsMoved then s.modDev (fun d => { d with bundles := d.bundles.map s.evalDeps }) else s

def State.tryActivate (s : State) (b : Bundle) : State :=
  match s.depFault b with
  | some code => s.endWaiting b code
  | none =>
    if !b.deps.all s.depMet then s.modDev (fun d => d.modBundle b.id (fun x => { x with seen := b.deps.map s.depNow, met := none }))
    else
      let at' := b.met.getD s.uncore
      if 16 ≤ s.dev.activeOn b.die b.cls + s.earlierMet b at' ∨ !s.startFree b then
        s.modDev (fun d => d.modBundle b.id (fun x => { x with seen := b.deps.map s.depNow, met := some at' }))
      else s.activate b

def execBundleActivate (bundle : Nat) (s : State) : Host.Outcome State Fault Refusal :=
  .next (match s.dev.bundle bundle with
    | none => s
    | some b => if b.st = .waiting then (s.tryActivate b).bumpFree else s)

/-! ### Walking order (R288) -/

/-- One position of the Hilbert walk, low bits of d first. -/
def hilbert : Nat → Nat → Nat → Nat → Nat → Nat × Nat
  | 0, _, _, x, y => (x, y)
  | k + 1, q, t, x, y =>
    let rx := t / 2 % 2
    let ry := (t + rx) % 2
    let (x, y) :=
      if ry = 0 then
        let (x, y) := if rx = 1 then (q - 1 - x, q - 1 - y) else (x, y)
        (y, x)
      else (x, y)
    hilbert k (q * 2) (t / 4) (x + q * rx) (y + q * ry)

/-- The place in the plane of position m of the tiled walk. -/
def tiledPos (tsh b0 b1 m : Nat) : Nat × Nat :=
  let s := 2 ^ tsh
  let br := m / (s * b0)
  let h := min s (b1 - br * s)
  let r := m - br * s * b0
  let bc := r / (s * h)
  let w := min s (b0 - bc * s)
  let offs := ((List.range (s * s)).map (fun d => hilbert tsh 1 d 0 0)).filter (fun p => decide (p.1 < w) && decide (p.2 < h))
  let p := offs.getD (r - bc * s * h) (0, 0)
  (bc * s + p.1, br * s + p.2)

/-- The index vector of an ordinal. -/
def Bundle.index (b : Bundle) (n : Nat) : List Nat :=
  let B (k : Nat) : Nat := max 1 (b.bnd.getD k 1)
  if b.order = 1 then
    let ds := (List.range b.ndim).reverse
    let vs := (ds.foldl (fun (p : Nat × List (Nat × Nat)) d => (p.1 / B d, (d, p.1 % B d) :: p.2)) (n, [])).2
    (List.range 4).map (fun d => match vs.find? (fun v => v.1 = d) with | some v => v.2 | none => 0)
  else
    let plane := B 0 * B 1
    let p := if b.order = 2 then tiledPos b.tsh (B 0) (B 1) (n % plane) else (n % B 0, n / B 0 % B 1)
    [p.1, p.2, n / plane % B 2, n / plane / B 2]

/-! ### Binding (R74, R289, R303, R341) -/

/-- Register, plane and scratchpad contents of another context are cleared, so that no data passes from one to the next; keep
says which scratchpad bytes lie in a KEEP range (R74, R170, R303). -/
def Arch.clearFor (a : Arch) (keep : Nat → Bool) : Arch :=
  let f (e : Eng) : Eng := { e with spill := [], spillP := [], cause := 0, epc := 0, eaddr := 0 }
  { a with engC := f a.engC, engA := f a.engA, engV := f a.engV, engM := f a.engM, tiles := [], wfile := [], latches := []
           tileP := [], wfileP := [], latchP := [], pend := [], acc := [], accP := []
           scr := a.scr.restrict keep, scrP := a.scrP.restrict (fun g => keep (64 * g))
           scrLog := a.scrLog.filter (fun w => keep w.addr && keep (w.addr + w.new.length - 1)) }

/-- An engine at the kernel entry. -/
def Eng.bound (e : Eng) (pc : Nat) (g : List W64) (tvec : W64) (busy : Nat) : Eng :=
  { Eng.reset false with
    g := Vector.ofFn (fun (k : Fin 32) => if 1 ≤ k.val ∧ k.val ≤ 4 then g.getD (k.val - 1) 0 else 0)
    pc := BitVec.ofNat 64 pc, run := .run, arrived := true, tvec := tvec, busy := busy, spill := e.spill, spillP := e.spillP
    cause := e.cause, epc := e.epc, eaddr := e.eaddr }

/-- The state that binding sets. -/
def Arch.bound (a : Arch) (b : Bundle) (ord : Nat) (x : Ctx) (i : Image) (now busy : Nat) : Arch :=
  let idx := b.index ord
  let g := (List.range 4).map (fun d =>
    if d < b.ndim then BitVec.ofInt 64 (b.org.getD d 0 + (idx.getD d 0 : Int) * b.step.getD d 0) else 0)
  let f (e : Eng) : Eng := e.bound (i.addr + i.textOff) g x.tvec busy
  let a := Arch.setBankPwr now (BitVec.ofNat 32 (i.banks.toNat * 16 + 5)) a
  { a with engC := f a.engC, engA := f a.engA, engV := f a.engV, engM := f a.engM, bankWake := [], pend := []
           m0 := Arr.reset, m1 := Arr.reset
           oq := Vector.replicate 8 [], putx := Vector.replicate 16 [], bout := Vector.replicate 16 []
           loops := Vector.replicate 4 Loop.reset, sids := [], sealPass := none, slipw := BitVec.ofNat 32 i.slipw0
           poisonst := 0, pwstat := 0, ctxid := BitVec.ofNat 32 b.ctx
           iter := BitVec.ofNat 64 ((List.range 4).foldl (fun t d => t + idx.getD d 0 % 65536 * 2 ^ (16 * d)) 0)
           srseed := b.seed + BitVec.ofNat 64 ord, srcnt := 0
           wins := Vector.ofFn (fun (k : Fin 8) => b.wins.getD k.val none), streams := Vector.replicate 16 Stream.reset, sfeed := none
           leases := [], mflight := [] }

/-- The checkpoint of binding or of a refill counts as sealed at once (R341). -/
def Core.takeSealed (c : Core) (k : CpKind) (now : Nat) : Core :=
  let c := c.take k now
  { c with ckpts := (c.ckpts.filter (fun j => j.num = c.cpCount)).map (fun (j : Ckpt) => { j with sealedNow := true }), shadows := [] }

/-- Clears what another context left on a core, when the last one that ran there was another. -/
def State.clearCore (s : State) (core : CoreId) (ctx : Nat) : State :=
  if (s.core core).lastCtx = some ctx then s
  else s.modCore core (fun c => { c.modArch (fun a => a.clearFor (s.inKeep core)) with lastCtx := some ctx })

/-- The context's state as its tile tasks make it (R302). -/
def State.settleCtx (s : State) (ctx : Nat) : State :=
  let x := s.dev.ctx ctx
  if !(x.st = .resident || x.st = .running || x.st = .preempted) then s
  else
    let runs := s.cores.toList.any (fun c => match c.task with
      | some t => t.ctx = ctx && (t.st = .running || t.st = .sealing) | none => false)
    let waits := s.cores.toList.any (fun c => c.saved.any (fun v => v.task.ctx = ctx))
    s.modDev (fun d => d.setCtx ctx { x with st := if runs then .running else if waits then .preempted else .resident })

/-- Puts a tile task on a core: ordinal ord of a bundle, or a replay of it. delay: uncore cycles before its first
word may issue. -/
def State.bindTask (s : State) (core : CoreId) (b : Bundle) (ord delay : Nat) (i : Image) (replay : Option Audit) (audited : Bool) : State :=
  let x := s.dev.ctx b.ctx
  let s := s.clearCore core b.ctx
  let busy := if delay = 0 then s.cycle
    else ((s.uncore + delay) * Config.ticksPerUncore + Config.ticksPerCycle - 1) / Config.ticksPerCycle
  let s := s.modCore core (fun c =>
    let c := { c with real := replay.map (fun _ => ⟨c.arch.sems, c.arch.bars, c.arch.barMem⟩) }
    let a := match replay with
      | some r => { c.arch with sems := Vector.ofFn (fun (k : Fin 256) => r.sems.getD k.val 0), bars := Vector.replicate 64 Bar.reset, barMem := [] }
      | none => c.arch
    let t : Task := { bundle := b.id, ord := ord, ctx := b.ctx, img := i.addr, st := .running, replay := replay.isSome, audited := audited
                      sems := if audited then c.arch.sems.toList else [], sig := 0, extents := [], unmet := [] }
    ({ c with arch := a.bound b ord x i s.cycle busy, task := some t, region := .active, recov := none, restart := none, cpReq := []
              svcs := [], preempt := none } : Core).takeSealed .binding s.cycle)
  s.settleCtx b.ctx

/-! ### The walkers (R290, R291, R294 to R296) -/

/-- A record that a core may be given a tile task of (R290, R295, R302). -/
def Dev.eligible (d : Dev) (b : Bundle) (n : Nat) : Bool :=
  b.st = .active && decide (b.next < b.total) && b.cores.getLsbD n && d.walks b.ctx n && (d.ctx b.ctx).st ≠ .faulted

/-- No tile task is bound to the core, and none that was pre-empted waits on it. -/
def Core.isFree (c : Core) : Bool := c.task.isNone && c.saved.isEmpty

/-- The oldest record of some, ties by lower context number. -/
def oldest (bs : List Bundle) : Option Bundle :=
  bs.foldl (fun (m : Option Bundle) b =>
    match m with
    | none => some b
    | some o => if b.actSeq < o.actSeq ∨ (b.actSeq = o.actSeq ∧ b.ctx < o.ctx) then some b else m) none

/-- The class under which a record competes (R295, R296). -/
def Walker.classOf (w : Walker) (win : Nat) (b : Bundle) : Nat := w.eff expressCap win (if b.cls = 0 then 0 else max 1 (b.cls - b.promoted))

/-- The choice among records and the walker after it: within the class, the oldest. The replays that wait for the core compete
as BACKGROUND tasks (R360). -/
def Walker.pick (w : Walker) (win : Nat) (bs : List Bundle) (rs : List Audit) : Option ((Bundle ⊕ Audit) × Walker) :=
  let replays := rs.map (fun a => { a.b with cls := 3, promoted := 0 })
  match w.choose expressCap win ((bs ++ replays).map (fun b => if b.cls = 0 then 0 else max 1 (b.cls - b.promoted))) with
  | none => none
  | some (k, v) =>
    let fit := bs.filter (fun b => w.classOf win b = k)
    match oldest (fit ++ (if k = 3 then replays else [])) with
    | none => none
    | some b =>
      match fit.find? (fun x => x.id = b.id), rs.find? (fun a => a.b.id = b.id) with
      | some x, _ => some (.inl x, v)
      | none, some a => some (.inr a, v)
      | none, none => none

/-- The replays that a core other than those used may be given, of bundles whose image is still loaded (R360). -/
def Dev.replayFor (d : Dev) (n : Nat) : List Audit :=
  d.audits.filter (fun a => a.toBind && a.orig ≠ n && ((d.ctx a.b.ctx).image a.b.img).isSome && !a.replays.any (fun r => r.1 = n) && d.walks a.b.ctx n && (d.ctx a.b.ctx).st ≠ .faulted)

/-- What a core's walker gives it: for a core that holds pre-empted tasks, the beneficiary's next ordinal (R314). -/
def State.candidates (s : State) (n : Nat) : List Bundle :=
  let c := s.core (coreId n)
  match c.saved.getLast? with
  | some v =>
    if c.task.isSome ∨ v.served then []
    else s.dev.bundles.filter (fun b => b.id = v.pre.beneficiary && s.dev.eligible b n)
  | none => if c.isFree then s.dev.bundles.filter (fun b => s.dev.eligible b n) else []

/-- Records one binding of an image whose AUDIT flag is set (R359). -/
def Dev.sample (d : Dev) (audit : Bool) : Dev × Bool :=
  if !audit then (d, false)
  else
    let hit := d.asyEn && decide (d.audseq.toNat % 2 ^ d.asyK = 0)
    ({ d with audseq := d.audseq + 1, samp := if hit then d.samp + 1 else d.samp }, hit)

/-- Binds the next ordinal of a record to a core. -/
def State.bindNext (s : State) (die n : Nat) (b : Bundle) : State :=
  match (s.dev.ctx b.ctx).image b.img with
  | none => s
  | some i =>
    let ord := b.next
    let (d, hit) := s.dev.sample i.audit
    let d := d.modBundle b.id (fun x =>
      { x with next := ord + 1, live := x.live + 1, since := s.uncore, promoted := 0, st := if ord + 1 = x.total then .draining else x.st })
    let s := { s with dev := d }
    let s := s.modCore (coreId n) (fun c => { c with saved := c.saved.map (fun (v : Saved) =>
      if v.pre.beneficiary = b.id then { v with served := true } else v) })
    s.bindTask (coreId n) b ord (if die = b.die then 0 else 40) i none hit

/-- Binds a replay to a core. -/
def State.bindReplay (s : State) (n : Nat) (a : Audit) : State :=
  match (s.dev.ctx a.b.ctx).image a.b.img with
  | none => s
  | some i =>
    let s := s.modDev (fun d => { d with audits := d.audits.map (fun (x : Audit) =>
      if x.b.id = a.b.id ∧ x.ord = a.ord then { x with toBind := false } else x) })
    s.bindTask (coreId n) a.b a.ord 0 i (some a) false

/-- One binding of a walker: the lowest-numbered free core that some record fits (R291). -/
def State.walk (s : State) (die : Fin 2) : State :=
  let w := s.dev.walkers[die]
  if s.uncore < w.lastBind then s
  else
    let ns := (List.range 32).map (fun k => 32 * die.val + k)
    match ns.find? (fun n => !(s.candidates n).isEmpty || ((s.core (coreId n)).isFree && !(s.dev.replayFor n).isEmpty)) with
    | none => s
    | some n =>
      let win := s.uncore / 4096
      let stamp (s : State) (w : Walker) : State := s.modDev (fun d =>
        { d with walkers := d.walkers.set die { w with lastBind := s.uncore + 1 } })
      match w.pick win (s.candidates n) (if (s.core (coreId n)).isFree then s.dev.replayFor n else []) with
      | some (.inl b, w) => (stamp s w).bindNext die.val n b
      | some (.inr a, w) => (stamp s w).bindReplay n a
      | none => s

def execWalkerBind (die : Nat) (s : State) : Host.Outcome State Fault Refusal :=
  .next (s.walk ⟨die % 2, Nat.mod_lt die (by decide)⟩)

/-- Promotion by one class for each 4,096 uncore cycles without a binding, never into EXPRESS. -/
def execRecordPromotion (bundle : Nat) (s : State) : Host.Outcome State Fault Refusal :=
  .next (s.modDev (fun d => d.modBundle bundle (fun b =>
    if b.st = .active ∧ b.next < b.total ∧ 2 ≤ b.cls - b.promoted ∧ b.since + 4096 * (b.promoted + 1) ≤ s.uncore then
      { b with promoted := b.promoted + 1 }
    else b)))

def execExpressWindow (die : Nat) (s : State) : Host.Outcome State Fault Refusal :=
  .next (let k : Fin 2 := ⟨die % 2, Nat.mod_lt die (by decide)⟩
    s.modDev (fun d =>
      let w := d.walkers[k]
      if w.win = s.uncore / 4096 then d
      else { d with walkers := d.walkers.set k { w with win := s.uncore / 4096, express := 0 } }))

/-! ### Retirement (R293, R292) -/

/-- The fourth TASKEND's commit point has sealed, nothing of the core is still to be done, and no transport command that the
tile task has pushed is still held (R293, R395). -/
def State.mayRetire (s : State) (core : CoreId) : Bool :=
  let c := s.core core
  (match c.task with | some t => t.st = .sealing | none => false) && c.region = .active && c.restart.isNone && c.cpReq.isEmpty &&
    c.openCps = 0 && c.hold.isEmpty && c.xq.isEmpty &&
    s.cores.toList.all (fun k => k.arch.seq.cmdq.all (fun x => x.fromCore ≠ core.val || x.ctx ≠ c.ctx))

/-- The Assay unit takes up a sampled task that has retired. -/
def Dev.openAudit (d : Dev) (core : CoreId) (t : Task) : Dev :=
  match d.bundle t.bundle with
  | some b =>
    if !t.audited then d
    else { d with audits := d.audits ++ [⟨b, t.ord, core.val, t.sems, t.sig, t.extents, [], true⟩] }
  | none => d

def execTileTaskRetire (core : CoreId) (s : State) : Host.Outcome State Fault Refusal :=
  .next (let c := s.core core
    match c.task with
    | none => s
    | some t =>
      if !s.mayRetire core ∨ t.replay then s
      else
        let s := s.modDev (fun d => (d.openAudit core t).modBundle t.bundle (fun b => { b with live := b.live - 1 }))
        ((s.modCore core Core.vacate).modDev (fun d => d.taskOver core)).settleCtx t.ctx)

/-- A draining bundle whose parts have all ended is done: the image is released, SIG applied, the completion
written (R292). -/
def execBundleDone (bundle : Nat) (s : State) : Host.Outcome State Fault Refusal :=
  .next (match s.dev.bundle bundle with
    | none => s
    | some b =>
      if !(b.st = .draining || b.st = .faulting) ∨ b.live ≠ 0 ∨ !b.copies.isEmpty ∨ b.routineLive then s
      else
        let s := s.modDev (fun d => { d with bundles := d.bundles.filter (fun x => x.id ≠ b.id) })
        let s := s.releaseImage b.ctx b.img
        let s := if b.sig.getLsbD 63 then
            s.signalSealed (coreId (depCore b.sig)) ⟨false, 0, 0, true, depObj b.sig, bitsOf b.sig.toNat 7 0, depCore b.sig⟩
          else s
        s.complete b.cpl b.code)

/-! ### Audits (R362) -/

/-- Poisons the logged extents on LOCAL and POOL pages. -/
def Dev.poisonExtents (d : Dev) (xs : List (Nat × Place × Nat)) : Dev :=
  xs.foldl (fun (d : Dev) x =>
    if x.2.1.kind = 0 then { d with hbmP := markWrite d.hbmP 64 x.2.1.pa x.2.2 true }
    else if x.2.1.kind = 1 then
      (List.range (unitsTouched (x.2.1.pa - d.pwbase.toNat) x.2.2)).foldl (fun (d : Dev) k =>
        let l := (x.2.1.pa - d.pwbase.toNat) / 64 + k
        match d.findLine l with
        | some p => d.putLine { p with poison := true }
        | none => { d with poolP := Store.set false d.poolP (d.homeOf (64 * l) / 64) true }) d
    else d) d

/-- The record of a mismatch. -/
def State.auditRecord (s : State) (a : Audit) (core : Nat) (majority : Bool) (poisoned : Nat) : State :=
  s.report 0 { va := BitVec.ofNat 64 ((a.extents.headD (0, ⟨0, 0, 0, 0⟩, 0)).1), pc := 0, tag := 0, ctx := a.b.ctx, code := Code.auditMismatch
               kind := 6, wr := false, mal := false, core := core, obj := if majority then 0 else 1, sect := poisoned } .other 0

/-- The comparison when a replay has ended with a signature. -/
def State.compare (s : State) (a : Audit) (core : Nat) (sig : W64) : State :=
  let drop (s : State) : State := s.modDev (fun d => { d with audits := d.audits.filter (fun x => !(x.b.id = a.b.id && x.ord = a.ord)) })
  match a.replays with
  | [] =>
    if sig = a.sig then drop (s.modDev (fun d => { d with mtch := d.mtch + 1 }))
    else s.modDev (fun d => { d with audits := d.audits.map (fun (x : Audit) =>
      if x.b.id = a.b.id ∧ x.ord = a.ord then { x with replays := [(core, sig)], toBind := true } else x) })
  | r :: _ =>
    let s := drop (s.modDev (fun d => { d with mism := d.mism + 1 }))
    let n := (a.extents.filter (fun x => decide (x.2.1.kind ≤ 1))).length
    if sig = a.sig then
      (s.modDev (fun d => { d with suspect := setBit d.suspect r.1 true })).auditRecord a r.1 true 0
    else if sig = r.2 then
      (s.modDev (fun d => { (d.poisonExtents a.extents) with suspect := setBit d.suspect a.orig true })).auditRecord a a.orig true n
    else (s.modDev (fun d => d.poisonExtents a.extents)).auditRecord a a.orig false n

def execAuditReplayDone (core : CoreId) (s : State) : Host.Outcome State Fault Refusal :=
  .next (let c := s.core core
    match c.task with
    | none => s
    | some t =>
      if !s.mayRetire core ∨ !t.replay then s
      else
        match s.dev.audits.find? (fun a => a.b.id = t.bundle && a.ord = t.ord) with
        | none => (s.modCore core Core.vacate).settleCtx t.ctx
        | some a => ((s.modCore core Core.vacate).settleCtx t.ctx).compare a core.val t.sig)

/-- The waits and dependences of a core that are unmet: an engine's word that waits or stalls at issue, or its section's wait,
by the engine's code; 4 for the head of the X queue, 5 for the head of the transport command queue (R360). -/
def Core.unmetNow (c : Core) (now : Nat) : List Nat :=
  (kernelThreads.filter (fun t =>
      let e := c.arch.eng t
      !e.done && (e.wait.isSome || e.stalled || (e.run = .run && e.left ≠ 0 && !e.own && !c.arch.waitMet t now)))).map (fun t => t.code.toNat) ++
    (if c.headHeld then [4] else []) ++
    (match c.arch.seq.cmdq.find? (fun x => !x.popped) with
     | some x => if c.arch.waitHeld x.we x.met x.ws x.wt then [5] else []
     | none => [])

/-- A replay notes since when each of them is unmet. -/
def Core.noteUnmet (c : Core) (now : Nat) : Core :=
  match c.task with
  | some t =>
    if !t.replay then c
    else
      { c with task := some { t with unmet := (c.unmetNow now).map (fun n => (n, ((t.unmet.find? (fun u => u.1 = n)).map (fun u => u.2)).getD now)) } }
  | none => c

/-- Some wait or dependence of the replay has been unmet for 2^20 cycles. -/
def Core.waitsLong (c : Core) (now : Nat) : Bool :=
  match c.task with
  | some t => t.unmet.any (fun u => decide (u.2 + 2 ^ 20 ≤ now)) && t.replay
  | none => false

def execAuditReplayAbandon (core : CoreId) (s : State) : Host.Outcome State Fault Refusal :=
  .next (let c := s.core core
    match c.task with
    | none => s
    | some t => if t.replay ∧ (c.noteUnmet s.cycle).waitsLong s.cycle then (s.abandonAudit core).settleCtx t.ctx else s)

end Sys2Proof.Machine
end

