-- ==== Sys2Proof/Machine/Context.lean ====
section
/-! DEFINITION. Traps by instruction, service requests and returning from a trap (R316 to R318), pre-emption
requests, the drain, saving, refilling and their commit points (R311 to R314, R319, R320, R344), and the
Chaperone's IDLE (R321). -/

namespace Sys2Proof.Machine

open Sys2Proof

/-! ### TRAP, SVC, RETT (R316 to R318) -/

def execTrap (h : Hdr) (f : SY) (s : State) :=
  runWord (.trap h f) h s (fun s => .gone (s.trapNx true Code.trapInsn (some (f.code.zeroExtend 64))))

/-- A request whose commit point has sealed is delivered; an answered one is taken back (R317). -/
def State.svcAsk (s : State) (f : SY) : Res :=
  let th := s.cur.th
  match s.askCp true with
  | .pending t => .wait t
  | .open_ => .wait s
  | .ready =>
    let cp := s.eng.ask.getD 0
    match s.here.svcs.find? (fun r => r.th = th && r.cp = cp) with
    | none =>
      let r : SvcReq := ⟨th, s.here.ctx, f.code, s.g f.ga, s.eng.pc, cp, none⟩
      .wait (s.modHere (fun c => { c with svcs := c.svcs.filter (fun q => q.th ≠ th) ++ [r] }))
    | some r =>
      match r.answer with
      | none => .wait s
      | some (status, value) =>
        let s := s.modHere (fun c => { c with svcs := c.svcs.filter (fun q => q.th ≠ th) })
        if status = 0 then .done (s.setG f.gd value)
        else if decide (status.toNat < 256) && Code.all.contains (status.extractLsb' 0 8) then .gone (s.trapNx true (status.extractLsb' 0 8) none)
        else .gone (s.trapNx true Code.reservedField (some status))

def execSvc (h : Hdr) (f : SY) (s : State) :=
  runWord (.svc h f) h s (fun s =>
    if (s.here.rbLoop s.eng).isSome then .trap Code.reservedField none
    else if s.inReplay then .gone (s.abandonAudit s.cur.core)
    else s.svcAsk f)

/-- The Chaperone's firmware answers a request that has been delivered. -/
def execSvcAnswer (core : CoreId) (th : Thread) (status value : W64) (s : State) : Host.Outcome State Fault Refusal :=
  .next (s.modCore core (fun c => { c with svcs := c.svcs.map (fun (r : SvcReq) =>
    if r.th = th ∧ r.answer.isNone then { r with answer := some (status, value) } else r) }))

/-- RETT outside handler mode at user privilege (R318). -/
def Eng.mayReturn (e : Eng) : Bool := statusPriv e.status || e.inHandler

def execRett (h : Hdr) (f : SY) (s : State) :=
  runWord (.rett h f) h s (fun s =>
    if !s.eng.mayReturn then .trap Code.reservedField none else .gone (s.modEng (fun e => e.ret s.cycle)))

/-- The code that RETT.abort carries: CAUSE.CODE when R305 has it. -/
def abortCode (cause : W64) : BitVec 8 :=
  let k := cause.extractLsb' 0 8
  if Code.all.contains k then k else Code.reservedField

def execRettAbort (h : Hdr) (f : SY) (s : State) :=
  runWord (.rettAbort h f) h s (fun s =>
    let e := s.eng
    if !e.mayReturn then .trap Code.reservedField none
    else
      let t := s.fatalOn s.cur.core (abortCode e.cause) e.epc e.eaddr
      .gone (if s.cur.th = .chap then (t.modHere (fun c => c.slotUsed .chap s.cycle)).modEng (fun e => e.ret s.cycle) else t))

/-! ### Requests (R311, R319) -/

/-- A request as it is latched. -/
def Preempt.ask (b : Nat) : Preempt :=
  { beneficiary := b, st := .latched none, hdr := 0, drain := 0, refill := 0, low := 0, since := 0, ended := [], next := none }

/-- A stalled word is abandoned and issued again. -/
def Eng.reissue (e : Eng) : Eng := if e.stalled then { e with wait := none, asked := none, ask := none, pushTo := none } else e

/-- Latches a request for a beneficiary, or refuses it: one is latched, no tile task runs, or it is of the same
context. While a task refills none is latched: the request waits for the end of the refill (R311). A replay makes way by its abandonment: its Hamper writes would be lost (R360). -/
def State.latch (s : State) (core : CoreId) (b : Bundle) : State × Bool :=
  let c := s.core core
  match c.task with
  | none => (s, false)
  | some t =>
    let busy := match c.preempt with | some p => p.latched.isSome | none => false
    if busy = true ∨ t.ctx = b.ctx ∨ t.st ≠ .running then (s, false)
    else if c.preempt.isSome then (s.modCore core (fun c => { c with preempt := c.preempt.map (fun p => { p with next := some b.id }) }), true)
    else if t.replay then (s.abandonAudit core, true)
    else
      (s.modCore core (fun c =>
        { (c.modArch (fun a => { a with engC := a.engC.reissue, engA := a.engA.reissue, engV := a.engV.reissue, engM := a.engM.reissue })) with
          preempt := some (Preempt.ask b.id) }),
        true)

/-- The record that YIELD would give way to: the highest class, then the oldest. -/
def State.yieldTo (s : State) : Option Bundle :=
  match s.here.task with
  | none => none
  | some t =>
    match s.dev.bundle t.bundle with
    | none => none
    | some run =>
      let bs := s.dev.bundles.filter (fun b => s.dev.eligible b s.cur.core.val && b.ctx ≠ t.ctx && decide (b.cls ≤ run.cls))
      let top := bs.foldl (fun m b => min m b.cls) 3
      oldest (bs.filter (fun b => b.cls = top))

def execYield (h : Hdr) (f : SY) (s : State) :=
  runWord (.yield h f) h s (fun s =>
    checked (s.placeOk true false) none
      (let slow (s : State) : State := s.modEng (fun e => { e with busy := s.cycle + 2 })
       match s.yieldTo with
       | none => .done (slow (s.setGBit f.gd f.n.toNat false))
       | some b =>
         let (t, ok) := s.latch s.cur.core b
         if ok ∧ t.here.task.isNone then .gone t else .done (slow (t.setGBit f.gd f.n.toNat ok))))

/-- An EXPRESS record that no core has taken for 4,096 uncore cycles asks the lowest-numbered core of its set
that runs a NORMAL or BACKGROUND task. -/
def State.expressAsks (s : State) (b : Bundle) : State :=
  let fits (n : Nat) : Bool :=
    let c := s.core (coreId n)
    match c.task with
    | some t => t.st = .running && !c.saved.any (fun v => v.task.ctx = t.ctx) &&
        (match s.dev.bundle t.bundle with | some r => decide (2 ≤ r.cls) | none => false)
    | none => false
  if b.st = .active ∧ b.next < b.total ∧ b.cls = 0 ∧ b.since + 4096 ≤ s.uncore then
    match (s.dev.coresOf b.ctx b.cores).find? (fun n => s.dev.walks b.ctx n && fits n) with
    | some n => (s.latch (coreId n) b).1
    | none => s
  else s

def execWalkerPreemptRequest (bundle : Nat) (s : State) : Host.Outcome State Fault Refusal :=
  .next (match s.dev.bundle bundle with
    | some b => s.expressAsks b
    | none => s)

/-! ### The drain (R312) -/

/-- Kernel engines that have not retired TASKEND. -/
def Arch.running (a : Arch) : List Thread := kernelThreads.filter (fun t => !(a.eng t).done)

/-- An engine waits at the header of instance n. -/
def Eng.waitsAt (e : Eng) (n : Nat) : Bool := e.inst = n && e.left = 0 && e.arrived && e.run = .run && e.delay.isNone

/-- An engine starts a stub. -/
def Eng.toStub (e : Eng) (pc : Nat) : Eng :=
  { e with run := .stub, pc := BitVec.ofNat 64 pc, left := 0, arrived := true, came := none, delay := none, wait := none
           stalled := false, ask := none, asked := none, pushTo := none, prog := 0, issued := false }

def Arch.toStub (a : Arch) (pc : Nat) : Arch := a.running.foldl (fun (a : Arch) t => a.modEng t (fun e => e.toStub pc)) a

/-- The drain entry, once every engine that has not retired TASKEND waits at the header of instance n. -/
def State.drainEntry (s : State) (core : CoreId) : State :=
  let c := s.core core
  match c.preempt with
  | some p =>
    match p.st with
    | .latched (some n) =>
      if c.arch.running.all (fun t => (c.arch.eng t).waitsAt n) ∧ c.canTake s.cycle ∧ c.cpReq.isEmpty ∧ c.region = .active then
        s.modCore core (fun c =>
          ({ (c.modArch (fun a => a.toStub p.drain)) with preempt := some { p with st := .draining n, ended := [] } } : Core).take
            .drainEntry s.cycle)
      else s
    | _ => s
  | none => s

def execPreemptDrainEntry (core : CoreId) (s : State) : Host.Outcome State Fault Refusal := .next (s.drainEntry core)

/-- Every engine short of n has been stalled, on words that yield to a stop, for 64 cycles: those at n enter it,
and n is chosen again. -/
def execPreemptStallTimeout (core : CoreId) (s : State) : Host.Outcome State Fault Refusal :=
  .next (let c := s.core core
    match c.preempt with
    | some p =>
      match p.st with
      | .latched (some n) =>
        let short := c.arch.running.filter (fun t => !(c.arch.eng t).waitsAt n)
        if p.since + 64 ≤ s.cycle ∧ !short.isEmpty ∧
            short.all (fun t => (c.arch.eng t).stalled && decide ((c.arch.eng t).busy + 64 ≤ s.cycle)) then
          s.modCore core (fun c => { c with preempt := some { p with st := .latched none, low := n + 1 } })
        else s
      | _ => s
    | none => s)

/-! ### Images in the Hamper (R320) -/

/-- What a CSAVE or CREST moves: its first register, byte or container, the bytes of its image, and whether
a count header of 64 bytes comes first. -/
structure SaveRange where
  first : Nat
  bytes : Nat
  hdr : Bool

/-- Units of 256 bytes of an image; a header is one of its own. -/
def SaveRange.units (r : SaveRange) : Nat := if r.hdr then 1 + (r.bytes - 64) / 256 else (r.bytes + 255) / 256
def SaveRange.unitAt (r : SaveRange) (k : Nat) : Nat × Nat :=
  if r.hdr then (if k = 0 then (0, 64) else (64 + 256 * (k - 1), 256)) else (256 * k, min 256 (r.bytes - 256 * k))

/-- The Hamper slot of a core. -/
def Ctx.slot (x : Ctx) (core : CoreId) : Nat := x.hamper + core.val * x.hsize

/-- The operands of a kind within their limits; entries is the number of entries of an operand queue. -/
def State.saveRange (s : State) (f : SY) (entries : Nat) : Option SaveRange :=
  let a := (s.g f.ga).toNat
  let n := (s.g f.gb).toNat
  let ok (b : Bool) (r : SaveRange) : Option SaveRange := if b then some r else none
  match f.code.toNat with
  | 0 => some ⟨0, 320, false⟩
  | 1 => ok (a % 64 = 0 && n % 64 = 0 && decide (a + n ≤ 16384)) ⟨a, n, false⟩
  | 2 => ok (decide (1 ≤ n) && decide (a + n ≤ 768)) ⟨a, 4096 * n, false⟩
  | 3 => ok (decide (a + n ≤ 16)) ⟨a, 4096 * n, false⟩
  | 4 => ok (a % 1024 = 0 && n % 1024 = 0 && decide (a + n ≤ 2 ^ 20)) ⟨a, 4 * n, false⟩
  | 5 => ok (decide (a < 4)) ⟨a, 131072, false⟩
  | 6 => ok (a % 128 = 0 && n % 128 = 0 && decide (a + n ≤ Config.scrBytes) &&
      !s.dev.ctxs.any (fun p => p.2.residentOn s.cur.core && decide (0 < p.2.ksize) && decide (p.2.kbase * 65536 < a + n) && decide (a < (p.2.kbase + p.2.ksize) * 65536)))
      ⟨a, n, false⟩
  | _ => ok (decide (a < 8)) ⟨a, 64 + 256 * entries, true⟩

/-- The virtual address of an image of a word; none when it ends beyond the slot. -/
def State.imageVa (s : State) (f : SY) (r : SaveRange) : Option Nat :=
  let x := s.dev.ctx s.here.ctx
  let o := 8192 + 64 * f.opnd.toNat
  if x.hsize < o + r.bytes then none else some (x.slot s.cur.core + o)

/-- The banks that a word names through its operands: those of .tile. -/
def saveRegs (f : SY) (r : SaveRange) : List Nat :=
  if f.code = 2 then (List.range 12).map (fun b => 64 * b) |>.filter (fun v => decide (r.first < v + 64) && decide (v < r.first + r.bytes / 4096))
  else []

def wordBytes (ws : List W32) : List Byte := (ws.map (fun w => natBytes 4 w.toNat)).flatten
def bytesWords (bs : List Byte) : List W32 := (List.range (bs.length / 4)).map (fun k => leW32 bs (4 * k))

/-- Bytes of a plane's image: elements, scales from 48 KiB on, metadata from 64 KiB on. -/
def Plane.image (p : Plane) (o n : Nat) : List Byte :=
  if o < 49152 then Store.run 0 p.elems o n
  else if o < 65536 then Store.run 0 p.scales (o - 49152) n
  else Store.run 0 p.masks (o - 65536) n

/-- The plane that a CSAVE.plane names: physical plane k of array x. -/
def Arch.planeNo (a : Arch) (v : Nat) : Bool × Bool :=
  let x := v % 2 = 1
  (x, if v / 2 % 2 = 0 then (a.arr x).stat1 else !(a.arr x).stat1)

/-- The bytes of an image from offset o on, and the poison of each 64-byte granule. -/
def State.saveBytes (s : State) (f : SY) (r : SaveRange) (o n : Nat) : List Byte × (Nat → Bool) :=
  let a := s.arch
  let e := s.eng
  let clean : Nat → Bool := fun _ => false
  match f.code.toNat with
  | 0 =>
    let ws := (0 : W64) :: (e.g.toList.drop 1 ++ e.t.toList)
    ((((ws.map (fun w => natBytes 8 w.toNat)).flatten).drop o).take n, clean)
  | 1 => (e.spillRead (r.first + o) n, fun j => Store.get false e.spillP ((r.first + o) / 64 + j))
  | 2 => (wordBytes (Store.run 0 a.tiles (r.first * 1024 + o / 4) (n / 4)), fun _ => Store.get false a.tileP (r.first * 16 + o / 256))
  | 3 => (wordBytes (Store.run 0 a.wfile (r.first * 1024 + o / 4) (n / 4)), fun _ => Store.get false a.wfileP (r.first * 16 + o / 256))
  | 4 => (wordBytes (Store.run 0 a.acc (r.first + o / 4) (n / 4)), fun _ => Store.get false a.accP ((r.first + o / 4) / 256))
  | 5 => let (x, k) := a.planeNo r.first; (((a.arr x).plane k).image o n, fun _ => ((a.arr x).plane k).poison)
  | 6 => ((s.lview 4).scrRead (r.first + o) n, fun j => Store.get false a.scrP ((r.first + o) / 64 + j))
  | _ =>
    if o = 0 then (padTo 64 (natBytes 8 (s.queue r.first).length), clean)
    else
      match (s.queue r.first)[(o - 64) / 256]? with
      | some q => (q.bytes, fun _ => q.poison)
      | none => (zeroBytes n, clean)

/-- Writes a piece of an image into the state of its engine. -/
def State.restoreBytes (s : State) (f : SY) (r : SaveRange) (o : Nat) (gs : List (List Byte × Bool)) : State :=
  let bs := (gs.map (fun g => g.1)).flatten
  let po := gs.any (fun g => g.2)
  let ws := bytesWords bs
  let tile (lvl : Nat) (s : State) : State :=
    let reg := r.first + o / 4096
    let row := o / 256 % 16
    s.modHere (fun c =>
      (c.shade (if lvl = 0 then .tile else .wfile) .own (reg * 16 + row / 2)).modArch (fun a =>
        (a.setTileStore lvl (Store.put 0 (a.tileStore lvl) (reg * 1024 + 64 * row) ws)).setMarks lvl
          (Store.set false (a.marks lvl) (reg * 16 + row) po)))
  match f.code.toNat with
  | 0 =>
    let s := s.notePoison po
    if o = 0 then
      s.modEng (fun e => { e with g := Vector.ofFn (fun (k : Fin 32) => if k.val = 0 then 0 else leW64 bs (8 * k.val)) })
    else s.modEng (fun e => { e with t := Vector.ofFn (fun (k : Fin 8) => leW64 bs (8 * k.val) &&& ~~~(3 : W64)) })
  | 1 =>
    s.modHere (fun c => (gs.zipIdx.foldl (fun (c : Core) g => c.spillWrite s.cur.th (r.first + o + 64 * g.2) g.1.1 g.1.2) c))
  | 2 => tile 0 s
  | 3 => tile 1 s
  | 4 =>
    let k := r.first + o / 4
    s.modHere (fun c =>
      let m := po || (k % 256 ≠ 0 && Store.get false c.arch.accP (k / 256))
      (c.accPut k ws false true).modArch (fun a => { a with accP := Store.set false a.accP (k / 256) m }))
  | 5 =>
    let (x, k) := s.arch.planeNo r.first
    let g := if o < 65536 then min 95 (o / 512) else min 223 (96 + (o - 65536) / 512)
    s.modHere (fun c =>
      (c.shade .plane .own ((if x then 512 else 0) + (if k then 256 else 0) + g)).modArch (fun a => a.modArr x (fun q =>
        let p := q.plane k
        let p := { p with poison := po || (o ≠ 0 && p.poison) }
        q.setPlane k
          (if o < 49152 then { p with elems := Store.put 0 p.elems o bs }
           else if o < 65536 then { p with scales := Store.put 0 p.scales (o - 49152) bs }
           else { p with masks := Store.put 0 p.masks (o - 65536) bs }))))
  | 6 => s.modHere (fun c => (gs.zipIdx.foldl (fun (c : Core) g => c.scrWrite .own (.l .a) (r.first + o + 64 * g.2) g.1.1 g.1.2) c))
  | _ =>
    if o = 0 then
      let q : Fin 8 := ⟨r.first % 8, Nat.mod_lt _ (by decide)⟩
      s.modArch (fun a => { a with oq := a.oq.set q [] })
    else s.modHere (fun c => c.pushQueue r.first ⟨bs, po⟩)

/-- The Hamper can be reached for n bytes, in granules of 64: the places, or the trap. -/
def State.hamperPlaces (s : State) (va n : Nat) (need : Need) : Except (BitVec 8 × Nat) (List (Nat × Place)) :=
  (List.range ((n + 63) / 64)).foldr (fun j (r : Except (BitVec 8 × Nat) (List (Nat × Place))) =>
    match s.access s.cur.core s.here.ctx (va + 64 * j) need with
    | .bad code _ => .error (code, va + 64 * j)
    | .ok p =>
      match r with
      | .error e => .error e
      | .ok l => .ok ((j, p) :: l)) (.ok [])

/-- One unit of an image has moved: the word ends with the last, and otherwise goes on at its next turn. -/
def State.unitMoved (s t : State) (r : SaveRange) : Res :=
  if s.here.panLacks t.here then .gone s.panStall
  else if s.eng.prog + 1 = r.units then .done t
  else
    .gone (t.modEng (fun e =>
      { e with prog := e.prog + 1, busy := s.cycle + 1, panSince := none
               stallcnt := match e.panSince with | some c0 => e.stallcnt + BitVec.ofNat 64 (s.cycle - c0) | none => e.stallcnt }))

/-- Every earlier word of the engine has produced its result. -/
def State.settledHere (s : State) : Bool :=
  (s.arch.pend.filter (fun p => p.th = s.cur.th)).all (fun p => decide (p.ready ≤ s.cycle)) &&
    (s.cur.th ≠ .m || s.arch.mflight.all (fun f => decide (f.doneAt ≤ s.cycle)))

def State.saveUnit (s : State) (f : SY) (r : SaveRange) (va : Nat) : Res :=
  let u := r.unitAt s.eng.prog
  match s.hamperPlaces (va + u.1) u.2 .w with
  | .error (code, a) => .trap code (some (BitVec.ofNat 64 a))
  | .ok ps =>
    let (bs, po) := s.saveBytes f r u.1 u.2
    let c := ps.foldl (fun (c : Core) p =>
      c.holdEff s.cycle (.write .other 0 0 [(p.2, (bs.drop (64 * p.1)).take 64)] [po p.1]) 1 s.cur.th s.eng.pc c.cpCount (va + u.1 + 64 * p.1)) s.here
    s.unitMoved (s.setCore s.cur.core c) r

/-- The stub in which the engine runs, if the pre-emption is at that stage. -/
def State.inStub (s : State) (refill : Bool) : Bool :=
  s.eng.run = .stub && (match s.here.preempt with
    | some p => (match p.st with | .draining _ => !refill | .refilling _ => refill | _ => false)
    | none => false)

def execCsave (h : Hdr) (f : SY) (s : State) :=
  runWord (.csave h f) h s (fun s =>
    if !s.inStub false then .trap Code.reservedField none
    else
      match s.saveRange f (s.queue (s.g f.ga).toNat).length with
      | none => .trap Code.reservedField none
      | some r =>
        match s.imageVa f r with
        | none => .trap Code.reservedField none
        | some va =>
          withBanks s (saveRegs f r)
            (if !s.settledHere then .wait s else if r.units = 0 then .done s else s.saveUnit f r va))

/-- The entries that a saved queue's header counts. -/
def State.savedEntries (s : State) (f : SY) : Nat :=
  if f.code ≠ 7 then 0
  else
    let va := (s.dev.ctx s.here.ctx).slot s.cur.core + 8192 + 64 * f.opnd.toNat
    match s.readVa s.cur.core s.here.ctx .r va 8 with
    | .ok (bs, _) => min 128 (bytesNat bs)
    | .error _ => 0

def State.restoreUnit (s : State) (f : SY) (r : SaveRange) (va : Nat) : Res :=
  let u := r.unitAt s.eng.prog
  match s.hamperPlaces (va + u.1) u.2 .r with
  | .error (code, a) => .trap code (some (BitVec.ofNat 64 a))
  | .ok ps =>
    if f.code = 6 ∧ s.arch.leased (r.first + u.1) u.2 then .wait s
    else
      let gs := ps.map (fun p => let n := min 64 (u.2 - 64 * p.1); (s.dev.readPlace p.2 n, s.dev.placePoison p.2 n))
      s.unitMoved (s.restoreBytes f r u.1 gs) r

def execCrest (h : Hdr) (f : SY) (s : State) :=
  runWord (.crest h f) h s (fun s =>
    if !s.inStub true then .trap Code.reservedField none
    else
      match s.saveRange f (s.savedEntries f) with
      | none => .trap Code.reservedField none
      | some r =>
        match s.imageVa f r with
        | none => .trap Code.reservedField none
        | some va =>
          withBanks s (saveRegs f r)
            (if !s.settledHere then .wait s else if r.units = 0 then .done s else s.restoreUnit f r va))

/-- An engine ends its stub and waits; with the fourth, the commit point of its kind is requested. -/
def State.stubEnds (s : State) (k : CpKind) : State :=
  let t := (s.retire s.eng.delay).modEng (fun e => { e with run := .atN })
  t.modHere (fun c =>
    match c.preempt with
    | none => c
    | some p =>
      let p := { p with ended := p.ended ++ [s.cur.th] }
      let c := { c with preempt := some p }
      if c.arch.running.all (fun u => p.ended.contains u) then c.requestCp k else c)

def execCsaveEnd (h : Hdr) (f : SY) (s : State) :=
  runWord (.csaveEnd h f) h s (fun s =>
    if !s.inStub false then .trap Code.reservedField none
    else if !s.settledHere then .wait s else .gone (s.stubEnds .csaveEnd))

def execCrestEnd (h : Hdr) (f : SY) (s : State) :=
  runWord (.crestEnd h f) h s (fun s =>
    if !s.inStub true then .trap Code.reservedField none
    else if !s.settledHere then .wait s else .gone (s.stubEnds .crestEnd))

/-! ### Taking a requested commit point (R343, R344) -/

/-- What taking a commit point of a kind changes besides: after the fourth CSAVE.end the core goes on to its
block, after the fourth CREST.end the engines stand at the header of instance n (R312, R314). -/
def Core.atPoint (c : Core) (k : CpKind) : Core :=
  match k, c.preempt with
  | .csaveEnd, some p =>
    match p.st with
    | .draining n => { c with preempt := some { p with st := .saving n } }
    | _ => c
  | .crestEnd, some p =>
    match p.st with
    | .refilling n =>
      { (c.modArch (fun a => a.running.foldl (fun (a : Arch) t => a.modEng t (fun e =>
          let e := e.toStub p.hdr
          { e with run := .run, inst := n })) a)) with preempt := p.next.map Preempt.ask }
    | _ => c
  | _, _ => c

def State.takePoint (s : State) (core : CoreId) : State :=
  let c := s.core core
  match c.cpReq with
  | [] => s
  | k :: rest => if c.canTake s.cycle then s.setCore core ((({ c with cpReq := rest } : Core).atPoint k).take k s.cycle) else s

def execCommitPointTaken (core : CoreId) (s : State) : Host.Outcome State Fault Refusal := .next (s.takePoint core)

/-! ### PREEMPTED, and the refill (R312 to R314) -/

/-- A stream as its core block keeps it: what a .q or .ring stream has fetched and not delivered is fetched again (R203). -/
def Stream.abandoned (t : Stream) : Stream :=
  if t.kind = 0 ∨ t.kind = 2 then
    { t with staged := [], doneSecs := t.doneSecs.filter (fun p => decide ((t.sector p).pos + (t.sector p).len ≤ t.count)) }
  else t

/-- What the core keeps of a pre-empted tile task (R313). -/
def Core.saveTask (c : Core) (t : Task) (p : Preempt) (order : Nat) : Saved :=
  let a := c.arch
  { task := { t with st := .preempted }, pre := { p with ended := [] }, order := order, loops := a.loops, putx := a.putx, bout := a.bout
    streams := a.streams.map Stream.abandoned, m0 := a.m0, m1 := a.m1, slipw := a.slipw, bankPwr := a.bankPwr, srseed := a.srseed, srcnt := a.srcnt
    stall := kernelThreads.map (fun t => (a.eng t).stallcnt), pwstat := a.pwstat, poisonst := a.poisonst
    doneSet := kernelThreads.filter (fun t => (a.eng t).done), engLoops := kernelThreads.map (fun t => (a.eng t).loops)
    sids := a.sids, wins := a.wins, iter := a.iter, xq := c.xq.filter (fun x => x.st = .queued), async := kernelThreads.flatMap (fun t => (a.eng t).async.map (fun f => (t, f))), served := false }

/-- The twelve ordered pairs of engines, as the queues are indexed. -/
def pairs : List Nat := [1, 2, 3, 4, 6, 7, 8, 9, 11, 12, 13, 14]

/-! The parts of the core block beyond its first 1 KiB; the order of the fields within each is the model's (log entry 75). -/

def StreamSt.ofNum : Nat → StreamSt
  | 1 => .running | 2 => .parked | 3 => .done | 4 => .faulted | _ => .closed

def PlaneSt.num : PlaneSt → Nat
  | .empty => 0 | .loading => 1 | .ready => 2 | .needmeta => 3

def PlaneSt.ofNum : Nat → PlaneSt
  | 1 => .loading | 2 => .ready | 3 => .needmeta | _ => .empty

def flagNat (b : Bool) (n : Nat) : Nat := if b then 2 ^ n else 0

/-- A pattern as its record holds it (R186). -/
def Pattern.image (p : Pattern) : List Byte :=
  natBytes 8 p.base ++ natBytes 4 p.run ++ natBytes 2 (flagNat p.ind 0 + flagNat p.iw 1 + flagNat p.ra 2 + flagNat p.six 3) ++
    zeroBytes 2 ++ ((List.range 4).map (fun k => natBytes 4 (p.cnt.getD k 1))).flatten ++
    ((List.range 4).map (fun k => natBytes 6 (BitVec.ofInt 48 (p.str.getD k 0)).toNat)).flatten ++ natBytes 4 p.ibase ++ zeroBytes 4

/-- A stream record of 128 bytes: state and latched operands, position, pattern. -/
def Stream.image (t : Stream) : List Byte :=
  natBytes 1 t.st.num ++ natBytes 1 t.code.toNat ++ natBytes 1 t.kind ++ natBytes 1 t.oq ++ natBytes 1 t.ring ++ natBytes 1 t.pol ++
    natBytes 1 (flagNat t.pd 0 + flagNat t.pt 1) ++ natBytes 1 t.atm ++ natBytes 8 t.off ++ natBytes 8 t.dst ++ natBytes 8 t.pc.toNat ++
    natBytes 8 t.count ++ natBytes 8 t.ea.toNat ++ natBytes 8 t.reach ++
    (match t.loop with | some (lc, i) => natBytes 1 (1 + lc) ++ natBytes 7 i | none => zeroBytes 8) ++ t.pat.image

/-- A stream as its record gives it back. Which sectors of it are done or parked, and the indices fixed so far, the core keeps
beside the record. -/
def Stream.ofImage (t : Stream) (bs : List Byte) : Stream :=
  { t with
    st := StreamSt.ofNum (leAt bs 0 1), code := BitVec.ofNat 8 (leAt bs 1 1), kind := leAt bs 2 1, oq := leAt bs 3 1, ring := leAt bs 4 1
    pol := leAt bs 5 1, pd := (leAt bs 6 1).testBit 0, pt := (leAt bs 6 1).testBit 1, atm := leAt bs 7 1, off := leAt bs 8 8
    dst := leAt bs 16 8, pc := leW64 bs 24, count := leAt bs 32 8, ea := leW64 bs 40, reach := leAt bs 48 8
    loop := if leAt bs 56 1 = 0 then none else some (leAt bs 56 1 - 1, leAt bs 57 7)
    pat := patternOf (bs.drop 64) }

def Plane.roles (p : Plane) : List Byte :=
  natBytes 1 p.st.num ++ natBytes 1 p.ta.toNat ++ natBytes 1 p.tb.toNat ++ natBytes 1 p.sp.toNat ++ natBytes 4 (flagNat p.mv 0) ++
    natBytes 8 p.nv

def Plane.ofRoles (p : Plane) (bs : List Byte) : Plane :=
  { p with st := PlaneSt.ofNum (leAt bs 0 1), ta := BitVec.ofNat 5 (leAt bs 1 1), tb := BitVec.ofNat 5 (leAt bs 2 1)
           sp := BitVec.ofNat 2 (leAt bs 3 1), mv := (leAt bs 4 4).testBit 0, nv := leAt bs 8 8 }

/-- An array's configuration, with its plane roles, states, recorded types and modes: 128 bytes. -/
def Arr.image (r : Arr) : List Byte :=
  padTo 128 (natBytes 4 r.cfg.mrows ++ natBytes 4 r.cfg.pitchA ++ natBytes 4 r.cfg.pitchB ++ natBytes 4 r.cfg.sclA ++ natBytes 4 r.cfg.sclB ++
    natBytes 4 r.cfg.tscale.toNat ++
    natBytes 8 (flagNat r.cfg.sat 0 + flagNat r.cfg.applySc 1 + flagNat r.stat1 2 + flagNat r.joined 3) ++ r.p0.roles ++ r.p1.roles)

def Arr.ofImage (r : Arr) (bs : List Byte) : Arr :=
  let f (k : Nat) : Bool := (leAt bs 24 8).testBit k
  { r with
    cfg := { mrows := leAt bs 0 4, pitchA := leAt bs 4 4, pitchB := leAt bs 8 4, sclA := leAt bs 12 4, sclB := leAt bs 16 4
             tscale := leW32 bs 20, sat := f 0, applySc := f 1 }
    stat1 := f 2, joined := f 3, p0 := r.p0.ofRoles (bs.drop 32), p1 := r.p1.ofRoles (bs.drop 48) }

/-- A command that has not started, as its block (R35, R206, R207). -/
def CopyBlk.image (b : CopyBlk) : List Byte :=
  natBytes 4 (1 + b.form * 2 ^ 24) ++ natBytes 4 b.tag.toNat ++ natBytes 8 b.src ++ natBytes 8 b.dst ++
    (if b.form = 6 ∨ b.form = 7 then natBytes 4 b.elem ++ natBytes 4 b.cnt else natBytes 8 b.len) ++
    natBytes 4 (b.op + b.et.toNat * 2 ^ 4 + flagNat b.sat 9 + flagNat b.ssp 10 + flagNat b.dsp 11 + b.unit / 8 * 2 ^ 12 + b.spol * 2 ^ 14 +
      b.dpol * 2 ^ 16 + b.scope * 2 ^ 18 + b.ord * 2 ^ 21 + flagNat b.pd 23) ++
    natBytes 4 (b.bar + flagNat b.be 6) ++ natBytes 8 b.opa.toNat ++ natBytes 8 b.opb.toNat ++ natBytes 4 b.ret ++ zeroBytes 4

/-- The core block beyond its first 1 KiB (R313). -/
def Saved.blockRest (v : Saved) : List Byte :=
  (v.streams.toList.map Stream.image).flatten ++ v.m0.image ++ v.m1.image ++ zeroBytes 768 ++
    padTo 4096 ((v.xq.take 64).map (fun x => x.blk.image)).flatten

/-- What the core keeps of a pre-empted task, with those parts as they are in the block. -/
def Saved.ofRest (v : Saved) (bs : List Byte) : Saved :=
  { v with
    streams := Vector.ofFn (fun k : Fin 16 => v.streams[k].ofImage ((bs.drop (128 * k.val)).take 128))
    m0 := v.m0.ofImage ((bs.drop 2048).take 128), m1 := v.m1.ofImage ((bs.drop 2176).take 128)
    xq := v.xq.zipIdx.map (fun x =>
      if x.2 < 64 then
        let blk := (bs.drop (3072 + 64 * x.2)).take 64
        { x.1 with blk := copyFields blk (bitsOf (leAt blk 0 4) 27 24) }
      else x.1) }

/-- The first 1 KiB of the core block (R313). The order within each of its four parts is the model's (log entry 75). -/
def Saved.block (v : Saved) (n : Nat) : List Byte :=
  let engs := (kernelThreads.zipIdx.map (fun t => if v.doneSet.contains t.1 then 2 ^ t.2 else 0)).sum
  let pass (k : Nat) : Nat := ((v.engLoops.flatten.find? (fun l => l.lc = k)).map (fun l => l.pass)).getD 0
  let loop (l : Loop) (k : Nat) : List Byte :=
    natBytes 4 l.n ++ natBytes 4 l.r ++ natBytes 4 (pass k) ++ [BitVec.ofNat 8 k, BitVec.ofNat 8 l.s, if l.rb then 1 else 0, if l.active then 1 else 0]
  natBytes 4 1 ++ natBytes 4 engs ++ natBytes 8 n ++ natBytes 8 v.pre.hdr ++ natBytes 8 v.task.ord ++ natBytes 8 v.task.ctx ++ zeroBytes 24 ++
    natBytes 8 v.srseed.toNat ++ natBytes 8 v.srcnt.toNat ++ natBytes 4 v.slipw.toNat ++ natBytes 4 v.bankPwr.toNat ++
    (v.stall.map (fun w => natBytes 8 w.toNat)).flatten ++ natBytes 4 v.pwstat.toNat ++ natBytes 4 v.poisonst.toNat ++
    (v.loops.toList.zipIdx.map (fun l => loop l.1 l.2)).flatten ++
    (pairs.map (fun k => padTo 64 ((v.putx.toList.getD k []).map (fun w => natBytes 8 w.toNat)).flatten)).flatten ++
    padTo 64 (pairs.map (fun k =>
      [BitVec.ofNat 8 (v.putx.toList.getD k []).length, BitVec.ofNat 8 (v.bout.toList.getD k []).length] ++
        natBytes 2 ((v.bout.toList.getD k []).zipIdx.map (fun b => if b.1 then 2 ^ b.2 else 0)).sum)).flatten

/-- What the core keeps of a pre-empted task, with the parts that the first 1 KiB of its block holds as they are there. -/
def Saved.fromBlock (v : Saved) (bs : List Byte) : Saved :=
  let loopAt (k : Nat) : Nat := 128 + 16 * k
  let cnt (k : Nat) : Nat := 960 + 4 * (pairs.idxOf k)
  { v with
    doneSet := (kernelThreads.zipIdx.filter (fun t => (leAt bs 4 4).testBit t.2)).map (fun t => t.1)
    pre := { v.pre with st := .refilling (leAt bs 8 8), hdr := leAt bs 0x10 8 }
    task := { v.task with ord := leAt bs 0x18 8 }
    srseed := leW64 bs 64, srcnt := leW64 bs 72, slipw := leW32 bs 80, bankPwr := leW32 bs 84
    stall := (List.range 4).map (fun k => leW64 bs (88 + 8 * k)), pwstat := leW32 bs 120, poisonst := leW32 bs 124
    loops := Vector.ofFn (fun k : Fin 4 =>
      { v.loops[k] with
        n := leAt bs (loopAt k.val) 4, r := leAt bs (loopAt k.val + 4) 4, s := leAt bs (loopAt k.val + 13) 1
        rb := leAt bs (loopAt k.val + 14) 1 = 1, active := leAt bs (loopAt k.val + 15) 1 = 1 })
    engLoops := v.engLoops.map (fun ls => ls.map (fun l => { l with pass := leAt bs (loopAt l.lc + 8) 4 }))
    putx := Vector.ofFn (fun k : Fin 16 =>
      if pairs.contains k.val then
        (List.range (min 8 (leAt bs (cnt k.val) 1))).map (fun j => leW64 bs (192 + 64 * (pairs.idxOf k.val) + 8 * j))
      else [])
    bout := Vector.ofFn (fun k : Fin 16 =>
      if pairs.contains k.val then
        (List.range (min 16 (leAt bs (cnt k.val + 1) 1))).map (fun j => (leAt bs (cnt k.val + 2) 2).testBit j)
      else []) }

/-- The pages of the core block as the core may write them. -/
def State.blockPlaces (s : State) (core : CoreId) (ctx n : Nat) : Option (List Place) :=
  let va := (s.dev.ctx ctx).slot core
  (List.range n).foldr (fun j (r : Option (List Place)) =>
    match s.access core ctx (va + 64 * j) .w, r with
    | .ok p, some l => some (p :: l)
    | _, _ => none) (some [])

/-- The core block goes to the Hamper. -/
def State.writeBlock (s : State) (core : CoreId) (v : Saved) (n : Nat) : State :=
  let bs := v.block n ++ v.blockRest
  match s.blockPlaces core v.task.ctx 128 with
  | none => s
  | some ps =>
    (ps.zipIdx.foldl (fun (s : State) p => s.modDev (fun d => d.writePlace p.1 0 ((bs.drop (64 * p.2)).take 64) false)) s)

/-- The core block as the refill finds it. -/
def State.readBlock (s : State) (core : CoreId) (v : Saved) : Saved :=
  match s.blockPlaces core v.task.ctx 128 with
  | none => v
  | some ps =>
    let bs := (ps.map (fun p => s.dev.readPlace p 64)).flatten
    (v.fromBlock (bs.take 1024)).ofRest (bs.drop 1024)

/-- Everything that the fourth CSAVE.end leaves to be done is done. -/
def Core.drained (c : Core) : Bool :=
  c.openCps = 0 && c.cpReq.isEmpty && c.restart.isNone && c.hold.isEmpty &&
    !c.xq.any (fun x => x.st = .running || x.st = .parked)

def execPreemptComplete (core : CoreId) (s : State) : Host.Outcome State Fault Refusal :=
  .next (let c := s.core core
    match c.preempt, c.task with
    | some p, some t =>
      match p.st with
      | .saving n =>
        if !c.drained then s
        else
          let v := c.saveTask t { p with st := .refilling n } s.now
          let s := s.writeBlock core v n
          (s.modCore core (fun c => { c.vacate with saved := c.saved ++ [v], xq := [] })).settleCtx t.ctx
      | _ => s
    | _, _ => s)

/-- The pre-empted task that the core refills: highest effective class, then pre-empted earliest; none while the
last beneficiary has still to be served. -/
def State.refillOf (s : State) (core : CoreId) : Option Saved :=
  let c := s.core core
  let cls (v : Saved) : Nat := match s.dev.bundle v.task.bundle with | some b => b.cls | none => 3
  match c.saved.getLast? with
  | none => none
  | some w =>
    let due := w.served || (match s.dev.bundle w.pre.beneficiary with
      | some b => !(b.st = .active && decide (b.next < b.total))
      | none => true)
    if c.task.isSome ∨ !due then none
    else
      c.saved.foldl (fun (m : Option Saved) v =>
        match m with
        | none => some v
        | some u => if cls v < cls u ∨ (cls v = cls u ∧ v.order < u.order) then some v else m) none

/-- An array's configuration, roles and plane states as saved; the contents are those the core has. -/
def Arr.withRoles (now saved : Arr) : Arr :=
  let f (p q : Plane) : Plane := { p with st := q.st, ta := q.ta, tb := q.tb, sp := q.sp, mv := q.mv, nv := q.nv, loadDone := q.loadDone }
  { saved with p0 := f now.p0 saved.p0, p1 := f now.p1 saved.p1 }

/-- The state that the core block restores. The PUTX queues' entries order nothing more, since every write before the drain is
visible; SRCNT as V entered the instances before n is needed no more (R54, R97). -/
def Arch.refilled (a : Arch) (v : Saved) (n : Nat) (tvec : W64) (now : Nat) : Arch :=
  let a := Arch.setBankPwr now v.bankPwr a
  let eng (t : Thread) (k : Nat) (e : Eng) : Eng :=
    let e' : Eng := { Eng.reset false with spill := e.spill, spillP := e.spillP, cause := e.cause, epc := e.epc, eaddr := e.eaddr, tvec := tvec
                                           async := (v.async.filter (fun f => f.1 = t)).map (fun f => f.2)
                                           stallcnt := v.stall.getD k 0, loops := v.engLoops.getD k [], inst := n, busy := now }
    if v.doneSet.contains t then { e' with done := true, run := .run } else e'.toStub v.pre.refill
  { a with engC := eng .c 0 a.engC, engA := eng .a 1 a.engA, engV := eng .v 2 a.engV, engM := eng .m 3 a.engM, bankWake := [], pend := []
           m0 := a.m0.withRoles v.m0, m1 := a.m1.withRoles v.m1, oq := Vector.replicate 8 [], putx := v.putx, bout := v.bout, loops := v.loops
           putxSeq := v.putx.map (fun q => q.map (fun _ => []))
           sids := v.sids, srAt := List.replicate n 0, sealPass := none, slipw := v.slipw, poisonst := v.poisonst, pwstat := v.pwstat
           ctxid := BitVec.ofNat 32 v.task.ctx, iter := v.iter, srseed := v.srseed, srcnt := v.srcnt, wins := v.wins, streams := v.streams
           latches := [], latchP := [], sfeed := none, leases := [], mflight := [] }

def execRefillStart (core : CoreId) (s : State) : Host.Outcome State Fault Refusal :=
  .next (match (s.refillOf core).map (s.readBlock core) with
    | none => s
    | some v =>
      match v.pre.st with
      | .refilling n =>
        let s := s.clearCore core v.task.ctx
        let tvec := (s.dev.ctx v.task.ctx).tvec
        let s := s.modCore core (fun c =>
          ({ (c.modArch (fun a => a.refilled v n tvec s.cycle)) with
              task := some { v.task with st := .running }, region := .active, recov := none, restart := none, cpReq := [], svcs := []
              preempt := some { v.pre with ended := [] }, saved := c.saved.filter (fun u => u.order ≠ v.order)
              xq := c.xq ++ v.xq.map (fun (x : XCmd) => { x with epoch := 0 }) } : Core).takeSealed (.refill { v.pre with ended := [] }) s.cycle)
        s.settleCtx v.task.ctx
      | _ => s)

/-! ### IDLE (R321) -/

/-- The condition bits that IDLE watches. -/
def State.idleBits (s : State) : W64 :=
  let c := s.here
  let b0 := !c.chq.isEmpty
  let b1 := c.svcs.any (fun r => r.answer.isNone)
  let b2 := s.dev.hrings.any (fun p => p.2.bell)
  let b3 := (s.dev.frings[dieOf s.cur.core]).waiting.any (fun w => w.1.kind = 4 && w.1.core = s.cur.core.val) ||
    c.hold.any Held.fatal
  let b4 := s.dev.bundles.any (fun b => b.st = .waiting && b.deps.map s.depNow ≠ b.seen)
  let b5 := match s.dev.cmdBusy with | some (op, _) => op ≠ 6 | none => false
  setBit (setBit (setBit (setBit (setBit (setBit 0 0 b0) 1 b1) 2 b2) 3 b3) 4 b4) 5 b5

def execIdle (h : Hdr) (f : SY) (s : State) :=
  runWord (.idle h f) h s (fun s =>
    checked (s.placeOk true false) none
      (if s.cur.th ≠ .chap ∨ (s.g f.ga).extractLsb' 0 6 = (0 : BitVec 6) then .trap Code.reservedField none
       else
         let e := s.idleBits
         if e &&& s.g f.ga = 0 then .wait s else .done (s.setG f.gd e)))

end Sys2Proof.Machine
end

