-- ==== Sys2Proof/Machine/Paging.lean ====
section
/-! DEFINITION. Invalidating and probing translations (R337 to R339), posting and resolving fault records (R330,
R331), the losses and links of pool regions (R334, R336), snoops, write acknowledgements and flushing reads
(R237, R238, R240). -/

namespace Sys2Proof.Machine

open Sys2Proof

/-! ### TLBINV (R338) -/

/-- The pages that a TLBINV names: all address spaces or one, and all pages or a range of 64 KiB pages. -/
structure InvSet where
  asid : Option Nat
  range : Option (Nat × Nat)

/-- A cached entry maps a page of the set, whole or in part. -/
def InvSet.hits (v : InvSet) (t : TlbEnt) : Bool :=
  (match v.asid with | some a => t.asid = a | none => true) &&
    (match v.range with
     | some (p, n) =>
       let k := 2 ^ (pageBits t.lvl - 16)
       decide (t.vpn * k < p + n) && decide (p < (t.vpn + 1) * k)
     | none => true)

/-- An address may have been translated through a leaf that maps a page of the set: it lies with one in the same GiB, which is
what the largest leaf maps (R323). -/
def InvSet.near (v : InvSet) (va : Nat) : Bool :=
  match v.range with
  | some (p, n) => decide (p / 2 ^ 14 ≤ va / 2 ^ 30) && decide (va / 2 ^ 30 ≤ (p + n - 1) / 2 ^ 14) && decide (0 < n)
  | none => true

/-- An effect whose addresses may have been translated through a removed entry. -/
def State.mayUse (s : State) (v : InvSet) (h : Held) : Bool :=
  let mine := match v.asid with | some a => (s.dev.ctx h.ctx).asid = a | none => true
  match h.eff with
  | .write (.command _) _ _ _ _ | .rmw _ _ _ _ | .cmo _ _ _ => mine
  | .write _ _ _ _ _ => mine && v.near h.va
  | _ => false

/-- Removes translations; effects that used them are noted. -/
def State.invalidate (s : State) (v : InvSet) : State :=
  { s with
    cores := s.cores.map (fun (c : Core) =>
      { c with tlb := c.tlb.filter (fun t => !v.hits t)
               hold := c.hold.map (fun (h : Held) => if s.mayUse v h then { h with stale := true } else h) })
    dev := { s.dev with tlb := s.dev.tlb.map (fun l => l.filter (fun t => !v.hits t)) } }

/-- No access that used a removed translation is still to be performed, a write on its way to a REMOTE target among them; upTo is
the number of writes made when the translations were removed. -/
def State.invDone (s : State) (v : InvSet) (upTo : Nat) : Bool :=
  s.dev.wlog.all (fun w => w.place.kind ≠ 3 || decide (upTo < w.seq) || !v.near w.au.va || s.dev.doneAt s.cycle 1 w) &&
  s.cores.toList.all (fun c => c.hold.all (fun h => !h.stale) &&
    c.xq.all (fun x => x.rmw.isNone || (match v.asid with | some a => (s.dev.ctx x.ctx).asid ≠ a | none => false)))

/-- An invalidation command of the mailbox completes once the accesses are over (R423, R424). -/
def State.finishInval (s : State) : State :=
  match s.dev.cmdBusy with
  | some (op, n) =>
    if op = 6 ∧ s.invDone ⟨if n < 65536 then some n else none, none⟩ s.dev.wseq then
      (s.modDev (fun d => { d with cmdBusy := none, cmdCode := 0 })).irq s.dev.cmdvec
    else s
  | none => s

/-- A TLBINV: it removes once, then stalls until the accesses are over. -/
def State.tlbinv (s : State) (v : InvSet) : Res :=
  let t := if s.eng.asked.isSome then s else (s.invalidate v).modEng (fun e => { e with asked := some (s.dev.wseq, 0) })
  if t.invDone v (t.eng.asked.getD (0, 0)).1 then .done t else .stall t

def execTlbinvPage (h : Hdr) (f : SY) (s : State) :=
  runWord (.tlbinvPage h f) h s (fun s =>
    s.tlbinv ⟨some ((s.g f.gb).extractLsb' 0 16).toNat, some (bitsOf (s.g f.ga).toNat 55 16, f.opnd.toNat)⟩)
def execTlbinvAsid (h : Hdr) (f : SY) (s : State) :=
  runWord (.tlbinvAsid h f) h s (fun s => s.tlbinv ⟨some ((s.g f.gb).extractLsb' 0 16).toNat, none⟩)
def execTlbinvAll (h : Hdr) (f : SY) (s : State) := runWord (.tlbinvAll h f) h s (fun s => s.tlbinv ⟨none, none⟩)

/-! ### TLBPROBE (R339) -/

/-- What TLBPROBE reports of a translation. -/
def State.probe (s : State) (sup : Bool) : Xlat → W64
  | .absent lvl mal => BitVec.ofNat 64 (lvl * 2 ^ 52 + (if mal then 2 ^ 13 else 0))
  | .poisoned lvl => BitVec.ofNat 64 (2 ^ 55 + lvl * 2 ^ 52)
  | .leaf e lvl =>
    let k := leafKind e
    let rwx := (if leafR e then 4 else 0) + (if leafW e then 2 else 0) + (if leafX e then 1 else 0)
    let a := if sup ∨ k = 3 then bitsOf e.toNat 51 16 else 0
    let rst := if k = 1 then s.dev.poolState (leafPA e - s.dev.pwbase.toNat) else 0
    BitVec.ofNat 64 (2 ^ 63 + (3 - lvl) * 2 ^ 61 + k * 2 ^ 59 + rwx * 2 ^ 56 + lvl * 2 ^ 52 + a * 2 ^ 16 + rst * 2 ^ 14)

def execTlbprobe (h : Hdr) (f : SY) (s : State) :=
  runWord (.tlbprobe h f) h s (fun s =>
    let va := (s.g f.ga).toNat
    let ctx := s.here.ctx
    let x := if 2 ^ 56 ≤ va then .absent 0 false else s.xlate s.cur.core ctx va
    let t := if 2 ^ 56 ≤ va then s else s.fillCaches s.cur.core ctx va
    .done ((t.setG f.gd (s.probe (statusPriv s.eng.status) x)).bumpFree))

/-! ### The fault rings (R330, R331) -/

/-- Where a ring's record of index n goes: host memory for a ring that the driver owns, device memory for one that
the Chaperone polls. -/
def Dev.ringPlace (d : Dev) (r : FaultRing) (n : Nat) : Place :=
  let a := r.base.toNat + n % 2 ^ (8 + r.logn) * 32
  if r.own then d.physPlace a else ⟨2, a, 0, 0⟩

/-- A core whose context has been cleared is free once its fatal record is posted (R302, R330). -/
def State.freeCleared (s : State) (core : CoreId) (r : FaultRec) : State :=
  match (s.core core).task with
  | none => s
  | some t =>
    if r.kind = 4 ∧ t.st = .faulted ∧ (s.dev.ctx t.ctx).st ≠ .faulted then
      (s.clearTask core).settleCtx t.ctx
    else s

/-- A record that was detected before another of its die is still held in a core's Pan (R330). -/
def State.recordBefore (s : State) (die : Fin 2) (det : Nat) : Bool :=
  s.cores.toList.any (fun c => c.hold.any (fun h => match h.eff with | .record d _ _ _ k => d = die && decide (k < det) | _ => false))

/-- The pages of late writes, as their records are numbered. -/
def latePage (p : Nat) : Nat := 2 ^ 60 + p

/-- A write to a page of a lost region that no command awaits is still held. -/
def State.lateHeld (s : State) (page : Nat) : Bool :=
  s.cores.toList.any (fun c => c.hold.any (fun h =>
    match h.eff with
    | .write o _ _ ps _ =>
      (match o with | .command id => (c.cmd id).isNone | _ => true) &&
        ps.any (fun p => s.dev.lostPlace p.1 && latePage ((p.1.pa - s.dev.pwbase.toNat) / 65536) = page)
    | _ => false))

/-- Posts the oldest waiting record of a die, once none detected before it is held back; it is written past the LLC, so that it
is performed at SYSTEM scope. -/
def State.postRecord (s : State) (die : Fin 2) : State :=
  let r := s.dev.frings[die]
  match r.waiting with
  | [] => s
  | (fr, o, page, det) :: rest =>
    if !r.en ∨ (r.prod + 2 ^ 64 - r.cons) % 2 ^ 64 = 2 ^ (8 + r.logn) ∨ s.recordBefore die det ∨ s.lateHeld page then s
    else
      let p : PostedRec := ⟨r.prod % 2 ^ 32, fr, o, page, decide (3 < fr.kind)⟩
      let r' := { r with prod := r.prod + 1, waiting := rest, posted := r.posted ++ [p] }
      let s := s.modDev (fun d =>
        { (d.writePlace (d.ringPlace r r.prod) 1 (fr.bytes (r.prod % 2 ^ 32)) false) with frings := d.frings.set die r' })
      (if r.own then s else s.irq r.vec).freeCleared (coreId fr.core) fr

def execFaultRecordPost (die : Nat) (s : State) : Host.Outcome State Fault Refusal :=
  .next (s.postRecord ⟨die % 2, Nat.mod_lt die (by decide)⟩)

/-- The unresolved record of kinds 1 to 3 that a RESOLVE names: the last one posted under its number. -/
def Dev.toResolve (d : Dev) (die : Fin 2) (seq : BitVec 32) : Option PostedRec :=
  if d.boot ≠ 3 then none else
  match (d.frings[die].posted.filter (fun p => p.seq = seq.toNat)).getLast? with
  | some p => if p.resolved then none else some p
  | none => none

def Dev.setResolved (d : Dev) (die : Fin 2) (q : PostedRec) : Dev :=
  let r := d.frings[die]
  { d with frings := d.frings.set die { r with posted := r.posted.map (fun (p : PostedRec) => if p = q then { p with resolved := true } else p) } }

/-- The parked sectors of a stream on a page are to be performed again; with none left it runs on. -/
def Stream.unpark (t : Stream) (page : Nat) : Stream :=
  let left := t.parked.filter (fun p => p.page ≠ page)
  if t.st = .parked then ({ t with parked := left, st := if left.isEmpty then .running else .parked } : Stream).settle else t

/-- A change of a stream of the tile task that a pre-emption has saved on the core for a context (R194, R313). -/
def Core.modSaved (c : Core) (ctx : Nat) (f : Saved → Saved) : Core :=
  { c with saved := c.saved.map (fun (v : Saved) => if v.task.ctx = ctx then f v else v) }

def Saved.modStream (v : Saved) (n : Nat) (f : Stream → Stream) : Saved :=
  { v with streams := v.streams.set (n % 16) (f (v.streams[n % 16]'(Nat.mod_lt n (by decide)))) (Nat.mod_lt n (by decide)) }

/-- A parked stream of a pre-empted task goes FAULTED: A takes the code after the refill (R196, R331). -/
def Saved.failStream (v : Saved) (n : Nat) (code : BitVec 8) (va : W64) : Saved :=
  if (v.streams[n % 16]'(Nat.mod_lt n (by decide))).st = .parked then
    { v.modStream n (fun t => { t with st := .faulted, code := code, staged := [], parked := [], ea := va }) with
      async := v.async ++ [(.a, code, va)] }
  else v

/-- The parked sectors of an object on a page are to be performed again; with none left it runs on. A stream is the running
task's, or that of a pre-empted task of the record's context. Flits of a send read their source when they are next transmitted. -/
def State.unpark (s : State) (core : CoreId) (ctx : Nat) (o : ObjRef) (page : Nat) : State :=
  match o with
  | .stream n =>
    s.modCore core (fun c =>
      if c.ctx = ctx ∧ c.task.isSome then c.keep (fun a => a.modStream n (fun t => t.unpark page))
      else c.modSaved ctx (fun v => v.modStream n (fun t => t.unpark page)))
  | .command id =>
    (s.modCore core (fun c => c.modCmd id (fun (x : XCmd) =>
      let left := x.parked.filter (fun p => p.page ≠ page)
      { x with parked := left, st := if x.st = .parked ∧ left.isEmpty then .running else x.st }))).settle core
  | .flow _ | .other => s

def execResolveReplay (die : Nat) (seq : BitVec 32) (s : State) : Host.Outcome State Fault Refusal :=
  let k : Fin 2 := ⟨die % 2, Nat.mod_lt die (by decide)⟩
  .next (match s.dev.toResolve k seq with
    | none => s
    | some p => (s.modDev (fun d => d.setResolved k p)).unpark (coreId p.fr.core) p.fr.ctx p.obj p.page)

def execResolveFail (die : Nat) (seq : BitVec 32) (act : BitVec 8) (s : State) : Host.Outcome State Fault Refusal :=
  let k : Fin 2 := ⟨die % 2, Nat.mod_lt die (by decide)⟩
  .next (match s.dev.toResolve k seq with
    | none => s
    | some p =>
      if act.toNat < 0x10 ∨ 0x13 < act.toNat then s
      else
        let s := s.modDev (fun d => d.setResolved k p)
        let core := coreId p.fr.core
        match p.obj with
        | .stream n =>
          if (s.core core).ctx = p.fr.ctx ∧ (s.core core).task.isSome then
            (if ((s.core core).arch.stream n).st = .parked then s.faultStream core n act p.fr.va.toNat else s)
          else (s.modCore core (fun c => c.modSaved p.fr.ctx (fun v => v.failStream n act p.fr.va))).modDev
            (fun d => d.withdraw core (.stream n) p.fr.ctx)
        | .command id =>
          match (s.core core).cmd id with
          | some x => s.faultCmd core x act p.fr.va.toNat p.fr.wr
          | none => s
        | .flow id =>
          match (s.core core).arch.seq.flows.find? (fun f => f.2.id = id && f.2.st = .opened) with
          | some (n, f) => s.modCore core (fun c => c.flowFault s.dtime core.val n act 0x04 f.peer none f.oldest 0 0)
          | none => s
        | .other => s)

/-! ### Pool regions (R334, R336) -/

/-- The record of pool lines discarded on a 64 KiB page of the window. -/
def Dev.lossRecord (d : Dev) (page n : Nat) : FaultRec :=
  { va := BitVec.ofNat 64 (d.pwbase.toNat + page * 65536), pc := 0, tag := 0, ctx := 0, code := Code.poolRegionLost, kind := 5
    wr := false, mal := false, core := 0, obj := 0, sect := n }

/-- Held writes that reach a region after its loss, when nothing awaits them, are reported: one record per page, which waits at
the ring until no further such write to the page is held (R336). -/
def State.reportLate (s : State) (ls : List Nat) : State :=
  (ls.map (fun l => l / 1024)).eraseDups.foldl (fun (s : State) p =>
    let n := (ls.filter (fun l => l / 1024 = p)).length
    let fr := s.dev.frings[(0 : Fin 2)]
    if fr.waiting.any (fun w => w.1.kind = 5 && w.2.2.1 = latePage p) then
      s.modDev (fun d => { d with frings := d.frings.set 0 { fr with waiting := fr.waiting.map (fun w =>
        if w.1.kind = 5 ∧ w.2.2.1 = latePage p then ({ w.1 with sect := w.1.sect + n }, w.2) else w) } })
    else s.report 0 (s.dev.lossRecord p n) .other (latePage p)) s

/-- One record per page of discarded lines. -/
def State.reportLoss (s : State) (ls : List Nat) : State :=
  (ls.map (fun l => l / 1024)).eraseDups.foldl (fun (s : State) p =>
    s.report 0 (s.dev.lossRecord p (ls.filter (fun l => l / 1024 = p)).length) .other p) s

/-- Read-modify-writes in progress at the home in a region: each faults, and the home holds what was there before
or after (a free choice). -/
def State.faultRmws (s : State) (region : Nat) : State :=
  (List.range 64).foldl (fun (s : State) k =>
    let core := coreId k
    (s.core core).xq.foldl (fun (s : State) x =>
      match x.rmw with
      | none => s
      | some p =>
        let off := p.pa - s.dev.pwbase.toNat
        if p.kind = 1 ∧ off / 2 ^ 30 = region then
          let old := bytesNat (Store.run 0 s.dev.pool (s.dev.homeOf off) x.blk.unit)
          let new := natBytes x.blk.unit (rmwNew (s.cmdView core x) x.blk old)
          let s := if Config.freeBool s.free off then s.modDev (fun d => { d with pool := Store.put 0 d.pool (d.homeOf off) new }) else s
          s.bumpFree.faultCmd core x Code.poolRegionLost x.blk.dst true
        else s) s) s

/-- A region goes LOST. -/
def State.loseRegion (s : State) (n : Nat) : State :=
  let r := s.dev.region n
  if r.st ≠ 0 then s
  else
    let mine (p : PoolLine) : Bool := decide (p.line / 2 ^ 24 = n)
    let gone := s.dev.lines.filter (fun p => mine p && p.dirty.any id)
    let s := s.faultRmws n
    let s := s.modDev (fun d =>
      { d with lines := d.lines.filter (fun p => !mine p), regions := Store.set regionDefault d.regions n { r with st := 1 }
               discarded := d.discarded ++ s.dev.wlog.filter (fun w =>
                 w.place.kind = 1 && decide ((w.place.pa - d.pwbase.toNat) / 2 ^ 30 = n) && !s.dev.atHome w) })
    s.reportLoss (gone.map (fun p => p.line))

def execPoolLinkDown (cxl : Nat) (s : State) : Host.Outcome State Fault Refusal :=
  .next (if h : cxl < 4 then
      let ns := (s.dev.regions.filter (fun p => p.2.port = cxl && p.2.st = 0)).map (fun p => p.1)
      let s := s.modDev (fun d => { d with cxlUp := d.cxlUp.set cxl false })
      ns.foldl (fun (s : State) n => s.loseRegion n) s
    else s)

def execPoolLinkUp (cxl : Nat) (s : State) : Host.Outcome State Fault Refusal :=
  .next (if h : cxl < 4 then s.modDev (fun d => { d with cxlUp := d.cxlUp.set cxl true }) else s)

def execRegionFailureReport (region : Nat) (s : State) : Host.Outcome State Fault Refusal :=
  .next (if region < 4096 then s.loseRegion region else s)

/-! ### Pool lines and host memory (R237, R238, R240) -/

/-- A read-modify-write is in progress on a pool line. -/
def State.lineBusy (s : State) (line : Nat) : Bool :=
  s.cores.toList.any (fun c => c.xq.any (fun x =>
    match x.rmw with | some p => p.kind = 1 && decide ((p.pa - s.dev.pwbase.toNat) / 64 = line) | none => false))

/-- A line that another agent of the pool holds now: it may have written anything there (log entry 140). -/
def State.takenAway (s : State) (line : Nat) : State :=
  let a := s.dev.homeOf (64 * line)
  (s.modDev (fun d =>
    { (d.dropLine line) with
      pool := Store.put 0 d.pool a (s.freeBytes 64), poolP := Store.set false d.poolP (a / 64) (Config.freeBool s.free (2 ^ 100)) })).bumpFree

/-- A snoop recalls a line (R237). One that asks for more than a Shared copy leaves it to the other agent; a line of
which the LLC holds no more than a clean copy is not listed. -/
def execBiSnoop (line : Nat) (toShared : Bool) (s : State) : Host.Outcome State Fault Refusal :=
  .next (if s.lineBusy line ∨ s.dev.poolState (64 * line) ≠ 0 then s
    else
      match s.dev.findLine line with
      | none => if toShared then s else s.takenAway line
      | some p =>
        let s := if p.excl then s.modDev (fun d => d.cleanLine line) else s
        let t := if !toShared then s.takenAway line
          else if p.excl then s.modDev (fun d => match d.findLine line with | some p => d.putLine { p with excl := false } | none => d)
          else s.modDev (fun d => d.dropLine line)
        t.settleAll)

def execPoolWriteAck (line : Nat) (s : State) : Host.Outcome State Fault Refusal :=
  .next (if s.dev.poolState (64 * line) = 0 then (s.modDev (fun d => d.cleanLine line)).settleAll else s)

/-- The zero-length read that a core has out completes: host writes that preceded its issue are in host memory (R240). -/
def execFlushReadCompletion (core : CoreId) (s : State) : Host.Outcome State Fault Refusal :=
  .next (match (s.core core).flushAsk with
    | none => s
    | some n =>
      ((s.modCore core (fun c => { c with flushAsk := none })).modDev (fun d => { d with flushed := max d.flushed n })).settleAll)

end Sys2Proof.Machine
end

