-- ==== Sys2Proof/Machine/Gcm.lean ====
section
/-! DEFINITION. AES-256-GCM (NIST SP 800-38D, FIPS 197) as R374 uses it: sealing and opening with a 96-bit IV and a
128-bit tag. Bytes are in wire order. -/

namespace Sys2Proof.Machine

open Sys2Proof

/-! ### AES-256 (FIPS 197) -/

/-- Multiplication by x in GF(2^8), modulo x^8 + x^4 + x^3 + x + 1. -/
def gfTwice (b : Byte) : Byte := (b <<< 1) ^^^ (if b.getLsbD 7 then 0x1B else 0)

/-- Multiplication in GF(2^8) by the n low bits of b, lowest first. -/
def gfMul : Nat → Byte → Byte → Byte
  | 0, _, _ => 0
  | n + 1, a, b => (if b.getLsbD 0 then a else 0) ^^^ gfMul n (gfTwice a) (b >>> 1)

/-- The inverse, as the 254th power: (a^2)(a^4)...(a^128). -/
def gfInv (a : Byte) : Byte :=
  let sq (x : Byte) : Byte := gfMul 8 x x
  let p := sq a
  let q := sq p
  let r := sq q
  let s := sq r
  let t := sq s
  let u := sq t
  let v := sq u
  gfMul 8 p (gfMul 8 q (gfMul 8 r (gfMul 8 s (gfMul 8 t (gfMul 8 u v)))))

/-- SubBytes on one byte. -/
def aesSub (b : Byte) : Byte :=
  let i := gfInv b
  i ^^^ i.rotateLeft 1 ^^^ i.rotateLeft 2 ^^^ i.rotateLeft 3 ^^^ i.rotateLeft 4 ^^^ 0x63

def gcmXor (a b : List Byte) : List Byte := List.zipWith (fun x y => x ^^^ y) a b

/-- The key schedule: n further words after those of ws, latest first; k counts words from 8. -/
def aesExpand : Nat → Nat → Byte → List (List Byte) → List (List Byte)
  | 0, _, _, ws => ws
  | n + 1, k, rc, ws =>
    let w := ws.headD []
    let w' := if k % 8 = 0 then
        gcmXor ((w.drop 1 ++ w.take 1).map aesSub) [rc, 0, 0, 0]
      else if k % 8 = 4 then w.map aesSub else w
    let new := gcmXor (ws.getD 7 []) w'
    aesExpand n (k + 1) (if k % 8 = 0 then gfTwice rc else rc) (new :: ws)

/-- The 15 round keys of a 32-byte key. -/
def aesKeys (key : List Byte) : List (List Byte) :=
  let ws := (aesExpand 52 8 1 (chunks 4 8 key).reverse).reverse
  (chunks 4 15 ws).map List.flatten

/-- ShiftRows on 16 bytes in column order. -/
def aesShift (b : List Byte) : List Byte := (List.range 16).map (fun k => b.getD ((k + 4 * (k % 4)) % 16) 0)

/-- MixColumns. -/
def aesMix (b : List Byte) : List Byte :=
  (chunks 4 4 b).flatMap (fun c =>
    (List.range 4).map (fun k =>
      let x (j : Nat) : Byte := c.getD ((k + j) % 4) 0
      gfTwice (x 0) ^^^ (gfTwice (x 1) ^^^ x 1) ^^^ x 2 ^^^ x 3))

/-- Encrypts one block under round keys. -/
def aesBlock (ks : List (List Byte)) (b : List Byte) : List Byte :=
  let b := gcmXor b (ks.getD 0 [])
  let b := (List.range 13).foldl (fun b r => gcmXor (aesMix (aesShift (b.map aesSub))) (ks.getD (r + 1) [])) b
  gcmXor (aesShift (b.map aesSub)) (ks.getD 14 [])

/-! ### GCM (SP 800-38D) -/

/-- A block of 16 bytes as a number, first byte highest. -/
def blockBits (b : List Byte) : BitVec 128 :=
  (padTo 16 b).foldl (fun (v : BitVec 128) x => (v <<< 8) ||| x.zeroExtend 128) 0

def bitsBlock (v : BitVec 128) : List Byte := (List.range 16).map (fun k => v.extractLsb' (120 - 8 * k) 8)

/-- Multiplication in GF(2^128) with the bit order of GCM: bit 127 is the constant term. -/
def ghashMul : Nat → BitVec 128 → BitVec 128 → BitVec 128 → BitVec 128
  | 0, _, _, z => z
  | n + 1, x, v, z =>
    ghashMul n (x <<< 1) ((v >>> 1) ^^^ (if v.getLsbD 0 then 0xE1000000000000000000000000000000 else 0))
      (if x.getLsbD 127 then z ^^^ v else z)

/-- GHASH over the blocks of a byte string, continued from y. -/
def ghash (h y : BitVec 128) (bs : List Byte) : BitVec 128 :=
  (chunks 16 ((bs.length + 15) / 16) bs).foldl (fun y b => ghashMul 128 (y ^^^ blockBits b) h 0) y

/-- The counter block of a 96-bit IV. -/
def gcmBlock (iv : List Byte) (k : Nat) : List Byte := iv ++ (natBytes 4 k).reverse

/-- Encryption and decryption: the key stream from counter 2 on. -/
def gcmStream (ks : List (List Byte)) (iv bs : List Byte) : List Byte :=
  ((chunks 16 ((bs.length + 15) / 16) bs).zipIdx.map (fun p => gcmXor p.1 (aesBlock ks (gcmBlock iv (p.2 + 2))))).flatten

/-- The tag over additional data and ciphertext. -/
def gcmTag (ks : List (List Byte)) (iv aad ct : List Byte) : BitVec 128 :=
  let h := blockBits (aesBlock ks (zeroBytes 16))
  let len := (natBytes 8 (8 * aad.length)).reverse ++ (natBytes 8 (8 * ct.length)).reverse
  let y := ghash h (ghash h (ghash h 0 aad) ct) len
  y ^^^ blockBits (aesBlock ks (gcmBlock iv 1))

/-- Seals a plaintext: ciphertext and tag. -/
def gcmSeal (key iv aad pt : List Byte) : List Byte × BitVec 128 :=
  let ks := aesKeys key
  let ct := gcmStream ks iv pt
  (ct, gcmTag ks iv aad ct)

/-- Opens a ciphertext, when its tag holds. -/
def gcmOpen (key iv aad ct : List Byte) (tag : BitVec 128) : Option (List Byte) :=
  let ks := aesKeys key
  if gcmTag ks iv aad ct = tag then some (gcmStream ks iv ct) else none

end Sys2Proof.Machine
end

