-- ==== Sys2Proof/Machine/Seq.lean ====
section
/-! DEFINITION. The transport sequencer: its scalar and control words (R394, R402), events, commands, semaphores and
time (R395), and the events that start a routine, post a waiting event and end a stall (R389, R390, R395). -/

namespace Sys2Proof.Machine

open Sys2Proof

/-! ### Scalar words (R394) -/

/-- A word that writes register a and retires. -/
def seqSet (w : SeqW) (s : State) (v : Seq → W64) : SeqRes := .done (s.modSeq (fun q => q.setX w.a (v q)))

/-- A word that writes x[a] from x[b] and y. -/
def seqAlu (w : SeqW) (s : State) (f : W64 → W64 → W64) : Host.Outcome State Fault Refusal :=
  runSeq s (fun s => seqSet w s (fun q => f (q.getX w.b) (q.y w)))

def execMov (f : SeqW) (s : State) := runSeq s (fun s => seqSet f s (fun q => q.getX f.b))
def execSeqMovi (f : SeqW) (s : State) := runSeq s (fun s => seqSet f s (fun _ => f.lo.signExtend 64))
def execSeqAdd (f : SeqW) (s : State) := seqAlu f s (fun a b => a + b)
def execSeqSub (f : SeqW) (s : State) := seqAlu f s (fun a b => a - b)
def execSeqAnd (f : SeqW) (s : State) := seqAlu f s (fun a b => a &&& b)
def execSeqOr (f : SeqW) (s : State) := seqAlu f s (fun a b => a ||| b)
def execSeqXor (f : SeqW) (s : State) := seqAlu f s (fun a b => a ^^^ b)
def execSeqShl (f : SeqW) (s : State) := seqAlu f s (fun a b => a <<< (b.toNat % 64))
def execSeqShr (f : SeqW) (s : State) := seqAlu f s (fun a b => a >>> (b.toNat % 64))
def execSeqCmp (f : SeqW) (s : State) := seqAlu f s (fun a b => if condHolds f.f a b then 1 else 0)

/-! ### Control words (R394) -/

/-- A taken branch costs one more cycle. -/
def State.seqJump (s : State) (pc : W64) : SeqRes :=
  .gone (s.modSeq (fun q => { q with pc := pc, stallSince := none, busy := s.cycle + 2 }))

/-- The target of BR, BRC and CALL. -/
def Seq.target (q : Seq) (w : SeqW) : W64 := q.pc + 8 * w.imm.signExtend 64

def execSeqBr (f : SeqW) (s : State) := runSeq s (fun s => s.seqJump (s.seq.target f))
def execBrcNz (f : SeqW) (s : State) :=
  runSeq s (fun s => if s.seq.getX f.a ≠ 0 then s.seqJump (s.seq.target f) else .done s)
def execBrcZ (f : SeqW) (s : State) :=
  runSeq s (fun s => if s.seq.getX f.a = 0 then s.seqJump (s.seq.target f) else .done s)
def execCall (f : SeqW) (s : State) :=
  runSeq s (fun s => (s.modSeq (fun q => q.setX f.a (q.pc + 8))).seqJump (s.seq.target f))
def execRet (f : SeqW) (s : State) := runSeq s (fun s => s.seqJump (s.seq.getX f.b))

/-- HALT n: a nonzero n is a code of R305 (R402). -/
def execHalt (f : SeqW) (s : State) :=
  runSeq s (fun s =>
    let n := f.imm.toNat
    if n = 0 then .gone (s.seqEnd 0)
    else if 255 < n ∨ !Code.all.contains (BitVec.ofNat 8 n) then .fault Code.reservedField
    else .gone (s.seqEnd (BitVec.ofNat 8 n)))

/-! ### Local memory -/

/-- The address ea of an access of n bytes aligned to n: MISALIGNED, then RESERVED_FIELD at 2^18 (R394). -/
def Seq.place (q : Seq) (w : SeqW) (n : Nat) : Except (BitVec 8) Nat :=
  let a := (q.ea w).toNat
  if a % n ≠ 0 then .error Code.misaligned else if 2 ^ 18 < a + n then .error Code.reservedField else .ok a

/-- Runs an effect at ea. -/
def State.seqAt (s : State) (w : SeqW) (n : Nat) (k : Nat → SeqRes) : SeqRes :=
  match s.seq.place w n with
  | .error code => .fault code
  | .ok a => k a

def execLdx (f : SeqW) (s : State) :=
  runSeq s (fun s =>
    let n := 2 ^ f.f.toNat
    s.seqAt f n (fun a =>
      let t := s.modSeq (fun q => { q with ldx := (f.a.toNat, s.cycle + 2) })
      seqSet f t (fun q => BitVec.ofNat 64 (bytesNat (q.lread a n)))))

def execStx (f : SeqW) (s : State) :=
  runSeq s (fun s =>
    let n := 2 ^ f.f.toNat
    s.seqAt f n (fun a => .done (s.lwrite a (natBytes n (s.seq.getX f.a).toNat))))

/-! ### Events and time (R395) -/

/-- EVWAIT retires with the number of records queued. -/
def State.evwaitDone (s : State) (w : SeqW) : SeqRes := seqSet w s (fun q => BitVec.ofNat 64 q.evq.length)

/-- EVWAIT's limit of y cycles has passed. -/
def State.evwaitOver (s : State) (w : SeqW) : Bool :=
  match s.seq.stallSince with
  | none => false
  | some t => s.seq.y w ≠ 0 && decide (t + (s.seq.y w).toNat ≤ s.cycle)

def execEvwait (f : SeqW) (s : State) :=
  runSeq s (fun s =>
    if s.seq.evq ≠ [] ∨ s.evwaitOver f then s.evwaitDone f
    else .stall (s.modSeq (fun q => { q with stallSince := some (q.stallSince.getD s.cycle) })))

def execEvpop (f : SeqW) (s : State) :=
  runSeq s (fun s =>
    s.seqAt f 32 (fun a =>
      match s.seq.evq with
      | [] => seqSet f s (fun _ => 0)
      | e :: es =>
        let s := (s.lwrite a e.bytes).modSeq (fun q => { q with evq := es })
        seqSet f s (fun _ => e.evt.zeroExtend 64)))

def execDline (f : SeqW) (s : State) :=
  runSeq s (fun s =>
    if (s.seq.ea f).toNat ≤ s.dtime ∨ s.seq.evq ≠ [] then seqSet f s (fun _ => BitVec.ofNat 64 s.dtime)
    else .stall s)

/-! ### Commands (R274, R395) -/

/-- The context of the routine that runs. -/
def Seq.ctx (q : Seq) : Nat := match q.routine with | some r => r.ctx | none => 0

/-- The command that CMDPOP may take: the first that is not popped, of the routine's context, with its wait met on
this core, now or when it was evaluated (R244, R274, R389). -/
def State.seqHead (s : State) : Option TCmd :=
  match s.seq.cmdq.find? (fun x => !x.popped) with
  | none => none
  | some x =>
    if x.ctx = s.seq.ctx ∧ !s.here.realArch.waitHeld x.we x.met x.ws x.wt then some x else none

/-- A wait of the sequencer that semaphore n meets is an acquire of the T path, at DEVICE scope (R233, R395). -/
def State.seqAcquired (s : State) (n : Nat) : State := s.semAcquire s.cur.core tReader n 1

/-- What a release of the sequencer covers on the scratchpad: what it has acquired, and the placements of its operations that
are DONE: none of a GET whose last chunk is still to come (R233, R395). -/
def Arch.tCovers (a : Arch) (w : ScrWr) : Bool :=
  w.before tReader ||
    (w.via = .t && !a.seq.ops.any (fun o => o.kind = 4 && w.known.any (fun k =>
      decide (chunkTok o.bar (a.bar o.bar).gen o.chunk0 ≤ k) && decide (k < chunkTok o.bar (a.bar o.bar).gen o.chunk0 + o.chunks))))

def MemWr.tCovers (w : MemWr) (core : CoreId) : Bool := w.before core tReader

/-- The lowest handle not in use. -/
def Seq.freeHandle (q : Seq) : Nat :=
  (((List.range 64).map (fun k => k + 1)).find? (fun h => !q.cmdq.any (fun x => x.popped && x.handle = h))).getD 64

/-- The head is marked popped under a handle. -/
def popHead (h : Nat) : List TCmd → List TCmd
  | [] => []
  | x :: xs => if x.popped then x :: popHead h xs else { x with popped := true, handle := h } :: xs

def execCmdpop (f : SeqW) (s : State) :=
  runSeq s (fun s =>
    s.seqAt f 64 (fun a =>
      match s.seqHead with
      | none => seqSet f s (fun _ => 0)
      | some x =>
        let h := s.seq.freeHandle
        let s := ((if x.we then s.seqAcquired x.ws else s).lwrite a (padTo 64 x.bytes)).modSeq (fun q => { q with cmdq := popHead h q.cmdq })
        seqSet f s (fun _ => BitVec.ofNat 64 h)))

/-- The signal of a command. -/
def TCmd.signalOf (x : TCmd) : WaitSig := ⟨false, 0, 0, x.se, x.ss, x.si, x.sigCore⟩

/-- The writer class of the sequencer's own increments: while a replay has the core's counts, the sequencer acts on
those that were put aside (R360). -/
def Core.seqWriter (c : Core) : Writer := if c.real.isSome then .outside else .own

def execSemsDone (f : SeqW) (s : State) :=
  runSeq s (fun s =>
    match s.seq.cmdq.find? (fun x => x.popped && decide (x.handle = (s.seq.getX f.b).toNat)) with
    | none => .fault Code.reservedField
    | some x =>
      let pc := s.seq.pc
      let s := s.modSeq (fun q => { q with cmdq := q.cmdq.filter (fun y => !(y.popped && y.handle = x.handle)) })
      .done (s.signal s.cur.core (coreId x.fromCore) s.here.seqWriter x.signalOf .c pc s.here.cpCount s.arch.tCovers
        (fun w => w.tCovers s.cur.core)))

/-! ### Semaphores (R395) -/

/-- The checks of sN: reserved bits, then the allocation of the routine's context. -/
def State.seqSem (s : State) (w : SeqW) : Option (BitVec 8) :=
  if 255 < w.imm.toNat then some Code.reservedField
  else if !(s.dev.ctx s.seq.ctx).sema.getLsbD w.imm.toNat then some Code.privilege else none

def execSems (f : SeqW) (s : State) :=
  runSeq s (fun s =>
    match s.seqSem f with
    | some code => .fault code
    | none =>
      let v := (s.seq.getX f.b).extractLsb' 0 32
      .done ((s.order s.cur.core (semTok f.imm.toNat) s.arch.tCovers (fun w => w.tCovers s.cur.core)).modHere (fun c => (c.semAdd c.seqWriter f.imm.toNat v).autoCp)))

def execSemw (f : SeqW) (s : State) :=
  runSeq s (fun s =>
    match s.seqSem f with
    | some code => .fault code
    | none =>
      if semMet (s.here.realArch.sem f.imm.toNat) ((s.seq.getX f.b).extractLsb' 0 32) then .done (s.seqAcquired f.imm.toNat)
      else .stall s)

/-! ### Routines start; waiting events are posted; stalls end -/

/-- No word of the core's region may be executed: a commit point is requested or a rollback runs (R344, R350). -/
def Core.blocked (c : Core) : Bool := !c.cpReq.isEmpty || c.restart.isSome

/-- The next routine starts (R389). One whose bytes cannot be read ends at pc 0 with the translation's code. -/
def State.seqStart (s : State) (r : Routine) (rest : List Routine) : State :=
  let c := s.here
  let other : Bool := c.arch.seq.lastCtx ≠ some r.ctx
  let s := if other then
      (s.modHere (fun c => c.shadeRun .seqLmem .own 512 0 (2 ^ 18))).modSeq (fun q => { q with lmem := [] })
    else s
  let x := ((Vector.replicate 16 (0 : W64)).set 1 (BitVec.ofNat 64 r.bundleVa))
  let s := s.modSeq (fun q =>
    { q with startq := rest, running := true, routine := some r, lastCtx := some r.ctx, x := x, pc := 0
             stallSince := none, busy := s.cycle + 1 })
  match s.readVa s.cur.core r.ctx .r r.trout r.tlen with
  | .error (code, _) => s.seqEnd code
  | .ok (bs, _) => s.lwrite 0 bs

def execSequencerStart (core : CoreId) (s : State) : Host.Outcome State Fault Refusal :=
  let s := { s with cur := ⟨core, .c⟩ }
  .next (match s.seq.startq with
    | [] => s
    | r :: rest => if s.seq.running ∨ s.here.blocked then s else (s.seqStart r rest).bumpFree)

/-- A waiting event enters the event queue, which holds 512 records (R388, R390). -/
def execTransportEventPost (core : CoreId) (s : State) : Host.Outcome State Fault Refusal :=
  .next (match (s.core core).arch.seq.evwaitq with
    | [] => s
    | _ :: _ =>
      if 512 ≤ (s.core core).arch.seq.evq.length then s
      else s.modCore core (fun c => c.keep (fun a =>
        { a with seq := { a.seq with evq := a.seq.evq ++ (a.seq.evwaitq.take 1).map (fun e => { e with time := BitVec.ofNat 64 s.dtime }), evwaitq := a.seq.evwaitq.drop 1 } })))

/-- The limit of the EVWAIT that the sequencer is stalled at has passed. -/
def execEvwaitTimeout (core : CoreId) (s : State) : Host.Outcome State Fault Refusal :=
  let s := { s with cur := ⟨core, .c⟩ }
  match s.seqFetch with
  | .go (.evwait f) t => if t.evwaitOver f then runSeq t (fun t => t.evwaitDone f) else .next s
  | _ => .next s

/-- DTIME has reached the deadline of the DLINE that the sequencer is stalled at. -/
def execDlineDeadline (core : CoreId) (s : State) : Host.Outcome State Fault Refusal :=
  let s := { s with cur := ⟨core, .c⟩ }
  match s.seqFetch with
  | .go (.dline f) t =>
    if (t.seq.ea f).toNat ≤ t.dtime then runSeq t (fun t => seqSet f t (fun _ => BitVec.ofNat 64 t.dtime)) else .next s
  | _ => .next s

end Sys2Proof.Machine
end

