-- ==== Sys2Proof/Machine/Wire.lean ====
section
/-! DEFINITION. What lies between a flow and a port: packet headers (R370), the membership table (R379), key slots
and sealing (R374, R375), the virtual channels a port holds (R368, R377) and the choice of a route (R381 to R383). -/

namespace Sys2Proof.Machine

open Sys2Proof

/-! ### Headers (R370) -/

def hdrZero : FlitHdr :=
  ⟨0, 0, 0, 0, 0, 0, 0, 0, 0, 0, 0, 0, 0, 0, 0, 0, 0, 0, 0, 0, 0, 0, 0, 0⟩

/-- The 256 bits of a header, [255:248] first. -/
def hdrBits (h : FlitHdr) : BitVec 256 :=
  h.ptype ++ h.vc ++ h.mode ++ h.kp ++ h.pz ++ h.trim ++ h.fidx ++ h.fcnt ++ h.rmb ++ h.hops ++ h.ecn ++ h.rsv1 ++
    h.job ++ h.drank ++ h.srank ++ h.igrp ++ h.dcore ++ h.score ++ h.flow ++ h.obj ++ h.rsv2 ++ h.fsn ++ h.chunk ++ h.ivc

/-- The additional data of R374: the header with its mutable fields 0, as 32 bytes with bits [255:248] first
(log entry 60). -/
def hdrAad (h : FlitHdr) : List Byte :=
  (natBytes 32 (hdrBits { h with vc := 0, trim := 0, rmb := 0, hops := 0, ecn := 0, igrp := 0 }).toNat).reverse

/-- The IV of R374: the sender's id, then IVC. -/
def hdrIv (h : FlitHdr) : List Byte := (natBytes 12 (h.srank ++ h.score ++ h.flow ++ h.ivc : BitVec 96).toNat).reverse

/-! ### Counters and membership (R379, R387) -/

def Dev.port (d : Dev) (n : Nat) : Port := if h : n < 79 then d.ports[n] else Port.reset
def Dev.modPort (d : Dev) (n : Nat) (f : Port → Port) : Dev :=
  if h : n < 79 then { d with ports := d.ports.set n (f d.ports[n]) } else d

/-- Counts at a receiving port; a packet of the device itself has none. -/
def State.countAt (s : State) (port : Option Nat) (f : Port → Port) : State :=
  match port with
  | none => s
  | some p => s.modDev (fun d => d.modPort p f)

def Port.malformedUp (p : Port) : Port := { p with pmal := p.pmal + 1 }
def Port.memberUp (p : Port) : Port := { p with pmemb := p.pmemb + 1 }


def memberDx (e : W64) : Bool := e.getLsbD 62
def memberFw (e : W64) : Bool := e.getLsbD 61

/-- Check 3 of R373 where a packet is injected: its key is present, to be delivered here or to leave. -/
def Dev.mayInject (d : Dev) (h : FlitHdr) : Bool :=
  match d.memberOf h.job.toNat with
  | none => false
  | some e => memberDx e || (memberFw e && h.drank.toNat ≠ Config.rank)
def memberCtx (e : W64) : Nat := bitsOf e.toNat 57 48

/-! ### Key slots (R375) -/

def KeySlot.empty : KeySlot := ⟨.empty, [], 0, 0, 0, 0, []⟩

def Dev.jobKey (d : Dev) (job : Nat) : JobKey := (d.keys.find? (fun k => k.job = job)).getD ⟨job, none, .empty, .empty⟩
def Dev.setJobKey (d : Dev) (k : JobKey) : Dev := { d with keys := d.keys.filter (fun j => j.job ≠ k.job) ++ [k] }

def JobKey.slot (k : JobKey) (n : Nat) : KeySlot := if n % 2 = 0 then k.s0 else k.s1
def JobKey.setSlot (k : JobKey) (n : Nat) (x : KeySlot) : JobKey := if n % 2 = 0 then { k with s0 := x } else { k with s1 := x }
def Dev.modSlot (d : Dev) (job n : Nat) (f : KeySlot → KeySlot) : Dev :=
  let k := d.jobKey job
  d.setJobKey (k.setSlot n (f (k.slot n)))

/-- How many more sealings a slot gives (R375). -/
def KeySlot.left (x : KeySlot) : Nat := if x.st = .current ∨ x.st = .next then x.klim - x.ivc else 0

/-- The slot that seals n flits or packets: the one that the last KEYSW or MARKER has named, while it lasts (R375). -/
def JobKey.sealing (k : JobKey) (n : Nat) : Option Nat := k.use.filter (fun i => decide (n ≤ (k.slot i).left))

/-- What cannot be sealed waits: the other slot is LOADED or NEXT (R375). -/
def JobKey.mayWait (k : JobKey) : Bool :=
  let waits (x : KeySlot) : Bool := x.st = .loaded || x.st = .next
  match k.use with
  | some i => waits (k.slot (i + 1))
  | none => waits k.s0 || waits k.s1

/-- A slot goes CURRENT and seals from now on; the other one as given. -/
def JobKey.switch (k : JobKey) (n : Nat) (retires : SlotSt → Bool) : JobKey :=
  let o := k.slot (n + 1)
  let k := (k.setSlot n { (k.slot n) with st := .current, await := [] }).setSlot (n + 1)
    (if retires o.st then { o with st := .retired, await := [] } else o)
  { k with use := some (n % 2) }

/-- An event about a key slot goes to the core that loaded it. -/
def State.keyEvent (s : State) (h : FlitHdr) (x : KeySlot) (slot : Nat) (evt : BitVec 8) (ivc : Nat) : State :=
  s.modCore (coreId x.loader) (fun c => c.raise
    { evt := evt, code := 0, flow := h.flow.toNat, peer := h.drank.toNat, port := 0xFF, flg := BitVec.ofNat 8 slot, fsn0 := 0
      fsn1 := 0, arg := BitVec.ofNat 64 ivc, time := BitVec.ofNat 64 s.dtime })

/-- Seals one flit or control packet under a slot of its job key: IVC rises, and reaching KWARN or KLIM posts its
event (R374, R375). -/
def State.sealUnder (s : State) (slot : Nat) (h : FlitHdr) (pt : List Byte) : Sent × State :=
  let job := h.job.toNat
  let x := (s.dev.jobKey job).slot slot
  let h := { h with kp := BitVec.ofNat 1 slot, ivc := BitVec.ofNat 64 x.ivc }
  let (ct, tag) := gcmSeal x.key (hdrIv h) (hdrAad h) pt
  let n := x.ivc + 1
  let s := s.modDev (fun d => d.modSlot job slot (fun y => { y with ivc := n, st := if y.klim ≤ n then .exhausted else y.st }))
  let s := if n = x.kwarn then s.keyEvent h x slot 0x07 n else s
  let s := if n = x.klim then s.keyEvent h x slot 0x08 n else s
  (⟨0, h, ct, tag⟩, s)

/-- Check 5 of R373: the tag holds under the slot that KP names, whatever its state but EMPTY. -/
def Dev.openPacket (d : Dev) (h : FlitHdr) (ct : List Byte) (tag : BitVec 128) : Option (List Byte) :=
  let x := (d.jobKey h.job.toNat).slot h.kp.toNat
  if x.st = .empty then none else gcmOpen x.key (hdrIv h) (hdrAad h) ct tag

/-! ### Virtual channels (R368, R377) -/

/-- Lanes or wavelengths of a port at full width (R366). -/
def portFull (n : Nat) : Nat := if n < 31 then 8 else 32

/-- Blocks in service. -/
def Port.blocks (p : Port) : Nat := 64 - p.retired

/-- n of R368. -/
def Port.dataVcs (p : Port) (num : Nat) : Nat := min (6 * p.active / portFull num) (min 6 ((p.blocks - 4) / 6))

/-- The port takes packets of a channel. -/
def Port.holds (p : Port) (num vc : Nat) : Bool := (p.st = .up || p.st = .degraded) && decide (vc ≤ 1 + p.dataVcs num)

/-- The channel of a data flit by class and mode (R377). -/
def dataVc (cls mode : Nat) : Nat :=
  match cls with
  | 0 => 2
  | 1 => 3
  | 2 => if mode = 2 then 5 else 4
  | _ => if mode = 2 then 7 else 6

/-- The channel of a control packet: VC0 for EXPRESS flows, VC1 for others and for ROD. -/
def controlVc (express : Bool) : BitVec 3 := if express then 0 else 1

/-! ### Receive buffers (R366, R368, R378) -/

/-- Flits of a packet. -/
def hdrFlits (h : FlitHdr) : Nat := if h.ptype = 0x01 then 1 else h.fcnt.toNat + 1

/-- What a port's receive buffer holds: the flits and control packets that entered there and wait to leave, each
once, by channel, hops and sealing. Trimmed flits take no slot (log entry 155). -/
def Dev.buffered (d : Dev) (num : Nat) : List (Nat × Nat × Nat) :=
  ((d.ports.toList.flatMap (fun p => p.outq.filter (fun o => o.inp = some num && o.x.hdr.trim = 0))).map (fun o =>
    let h := o.x.hdr
    (h.vc.toNat, h.hops.toNat - 1, (h.srank ++ h.score ++ h.flow ++ h.ivc : BitVec 96).toNat))).eraseDups

/-- Slots of 560 bytes that a channel reserves, in blocks of 14: 2 blocks of VC0 and VC1, 6 of a data VC held. -/
def Port.reserve (p : Port) (num vc : Nat) : Nat := if vc < 2 then 28 else if vc ≤ 1 + p.dataVcs num then 84 else 0

/-- Slots that a channel takes of the shared blocks: one slot of its reserve belongs to each hop level 0–4. -/
def Port.spill (p : Port) (num vc : Nat) (xs : List (Nat × Nat × Nat)) : Nat :=
  let mine := xs.filter (fun x => x.1 = vc)
  let r := p.reserve num vc
  let at_ (l : Nat) : Nat := (mine.filter (fun x => x.2.1 = l)).length
  let past := mine.length - (if r = 0 then 0 else ((List.range 5).map (fun l => min 1 (at_ l))).sum)
  past - (r - 5)

/-- The receive buffer takes a flit of a channel with a count of hops: into its level's slot, or into the shared space
(R368). -/
def Dev.fits (d : Dev) (num : Nat) (h : FlitHdr) : Bool :=
  let p := d.port num
  let xs := (h.vc.toNat, h.hops.toNat, 2 ^ 96) :: d.buffered num
  let shared := 14 * p.blocks - ((List.range 8).map (p.reserve num)).sum
  h.trim = 1 || decide (p.spill num h.vc.toNat xs ≤ p.spill num h.vc.toNat xs.tail) ||
    decide (((List.range 8).map (fun v => p.spill num v xs)).sum ≤ shared)

/-- A channel holds more than half of its allotment (R378). -/
def Dev.crowded (d : Dev) (num vc : Nat) : Bool :=
  decide ((d.port num).reserve num vc < 2 * ((d.buffered num).filter (fun x => x.1 = vc)).length)

/-! ### Routes (R381 to R383) -/

/-- This device's group and member. -/
def myGroup : Nat := Config.rank / 32
def myMember : Nat := Config.rank % 32

/-- Ports to another member of this group: R381's wiring, or the member entry of the route tables once any of them
has been written (R421, log entry 61). -/
def Dev.memberPorts (d : Dev) (m : Nat) : List Nat :=
  if d.routes = [] then (let p := (m + 63 - myMember) % 32; if p < 31 then [p] else [])
  else (List.range 79).filter (fun p => (Store.get 0 d.routes (24592 + 16 * m + p / 8)).getLsbD (p % 8))

/-- Members of this group and their ports with a link to another group; only an optical port takes the global role
(R8). -/
def Dev.globalLinks (d : Dev) (g : Nat) : List (Nat × Nat) :=
  if d.routes = [] then (let k := (g + 2 * 1537 - myGroup - 1) % 1537; if k < 1536 then [(k / 48, 31 + k % 48)] else [])
  else ((List.range 8).map (fun j =>
      ((Store.get 0 d.routes (16 * g + 2 * j)).toNat, (Store.get 0 d.routes (16 * g + 2 * j + 1)).toNat))).filter
    (fun p => decide (p.1 < 32) && decide (31 ≤ p.2) && decide (p.2 < 79))

/-- First ports of the minimal routes to a group. -/
def Dev.portsToGroup (d : Dev) (g : Nat) : List Nat :=
  let ls := d.globalLinks g
  let mine := ls.filter (fun l => l.1 = myMember)
  if mine ≠ [] then mine.map (fun l => l.2) else ls.flatMap (fun l => d.memberPorts l.1)

/-- First ports of the minimal routes to a rank. -/
def Dev.portsTo (d : Dev) (r : Nat) : List Nat :=
  if r / 32 = myGroup then d.memberPorts (r % 32) else d.portsToGroup (r / 32)

/-- Ramble routes from here that do not use the ports given, with a port that holds the channel: the intermediate
group and the first port. taken is how many hops the packet has taken; a ramble route has at most 5 (R382). -/
def Dev.rambles (d : Dev) (r vc taken : Nat) (avoid : List Nat) : List (Nat × Nat) :=
  let okp (p : Nat) : Bool := !avoid.contains p && (d.port p).holds p vc
  if r / 32 = myGroup then
    if 3 < taken then []
    else (List.range 32).flatMap (fun m =>
      if m = myMember ∨ m = r % 32 then [] else ((d.memberPorts m).filter okp).map (fun p => (myGroup, p)))
  else if 1 < taken then []
  else (List.range 1537).flatMap (fun g =>
    if g = myGroup ∨ g = r / 32 then []
    else
      let ps := if taken = 0 then d.portsToGroup g
        else ((d.globalLinks g).filter (fun l => l.1 = myMember)).map (fun l => l.2)
      (ps.filter okp).map (fun p => (g, p)))

/-- Where a packet goes: a port, with the fields that the choice changes; or it is shed at a port; or no port leads
on. -/
inductive Way where
  | out (p : Nat) (vc : BitVec 3) (rmb : BitVec 1) (igrp : BitVec 11)
  | shed (p : Nat)
  | nowhere
  deriving DecidableEq, Repr

/-- A free choice among several. -/
def State.pick {α : Type} (s : State) (k : Nat) (xs : List α) : Option α := xs[(Config.freeWord s.free k).toNat % xs.length]?

/-- The flow that a packet belongs to, at its sender. -/
def hdrSender (h : FlitHdr) : Nat := (h.srank ++ h.score ++ h.flow : BitVec 32).toNat

/-- Whether OBJ of a UUD flit is a ring or a barrier: no field says so, and the choice is free, one for each sender
and object (log entry 63). -/
def toRing (h : FlitHdr) : Bool := h.mode = 2 && Config.freeBool (hdrSender h) (h.dcore.toNat * 64 + h.obj.toNat)

/-- Whether a single-flit packet is a contribution, of REDC, which no field says: free, one for each sender, object and
chunk (log entry 63). -/
def isRedc (h : FlitHdr) : Bool :=
  h.ptype = 0x01 && h.fcnt = 0 && h.mode ≠ 3 && !toRing h && Config.freeBool (hdrSender h) (2 ^ 70 + (h.dcore ++ h.obj ++ h.chunk : BitVec 44).toNat)

/-- Whether a packet is of an EXPRESS flow, as far as its channel shows: HIGH data may have been moved to VC2 (R377), so
of VC2 it is free, one for each sender (log entry 156). -/
def isExpress (h : FlitHdr) : Bool := h.vc = 0 || (h.vc = 2 && Config.freeBool (hdrSender h) (2 ^ 71))

/-- What tells one packet from another where a path is chosen: all flits of a packet take the same one (R383), and so do
the flits of an aligned packet (R415). -/
def pathKey (h : FlitHdr) : Nat :=
  if isRedc h then 2 ^ 100 + (h.job ++ h.drank ++ h.dcore ++ h.obj ++ h.chunk ++ h.vc : BitVec 87).toNat
  else 2 ^ 64 * (hdrSender h) + 2 ^ 99 + (h.fsn - h.fidx.zeroExtend 32).toNat

/-- The choice among several for a packet: free, and the same for each flit of it. -/
def pickFor {α : Type} (h : FlitHdr) (k : Nat) (xs : List α) : Option α := xs[(Config.freeWord (pathKey h) k).toNat % xs.length]?

/-- The highest data channel below a packet's own that some of the ports holds (R377). -/
def Dev.lowerVc (d : Dev) (ps : List Nat) (vc : Nat) : Option Nat :=
  ((List.range 8).filter (fun v => decide (2 ≤ v) && decide (v < vc) && ps.any (fun p => (d.port p).holds p v))).getLast?

/-- Flits in a port's output queue (R383). -/
def Port.queued (p : Port) : Nat := (p.outq.map (fun o => hdrFlits o.x.hdr)).sum

/-- A choice among the ports that hold a packet's channel; ROD keeps to one of them (R383). -/
def Dev.portFor (d : Dev) (h : FlitHdr) (ps : List Nat) : Option Nat :=
  let ok := ps.filter (fun p => (d.port p).holds p h.vc.toNat)
  if h.mode = 3 then ok.head? else pickFor h 1 ok

/-- The choice among minimal ports, or with them shed. -/
def Dev.wayAmong (d : Dev) (h : FlitHdr) (ps : List Nat) (rambles : List (Nat × Nat)) : Way :=
  let vc := h.vc.toNat
  match d.portFor h ps with
  | some p => .out p h.vc h.rmb h.igrp
  | none =>
    match pickFor h 2 rambles with
    | some (g, p) => .out p h.vc 1 (BitVec.ofNat 11 g)
    | none =>
      let up := ps.filter (fun p => (d.port p).holds p 0)
      match up with
      | [] => .nowhere
      | p0 :: _ =>
        if vc < 2 then .nowhere
        else
          match d.lowerVc up vc with
          | some v => match pickFor h 3 (up.filter (fun p => (d.port p).holds p v)) with
            | some p => .out p (BitVec.ofNat 3 v) h.rmb h.igrp
            | none => .shed p0
          | none => .shed p0

/-- The way of a packet to its destination rank, over the minimal route or, at injection, over the ramble route when the
queue of the minimal route's port exceeds twice the ramble route's plus 16 flits (R383). taken: hops taken so far, 0 at
injection. -/
def State.way (s : State) (h : FlitHdr) (express : Bool) (taken : Nat) : Way :=
  let d := s.dev
  let r := h.drank.toNat
  let viaGroup := h.rmb = 1 && h.igrp.toNat ≠ myGroup && r / 32 ≠ myGroup
  let ps := if viaGroup then d.portsToGroup h.igrp.toNat else d.portsTo r
  let rs := if express || h.mode = 3 || h.rmb = 1 then [] else d.rambles r h.vc.toNat taken ps
  match d.portFor h ps, pickFor h 5 rs with
  | some m, some (g, p) =>
    if taken = 0 ∧ 2 * (d.port p).queued + 16 < (d.port m).queued then .out p h.vc 1 (BitVec.ofNat 11 g)
    else .out m h.vc h.rmb h.igrp
  | _, _ => d.wayAmong h ps rs

/-- A sealed flit or packet joins a port's output queue; inp is the port where it came in, none at injection. -/
def State.emit (s : State) (p : Nat) (inp : Option Nat) (x : Sent) : State :=
  s.modDev (fun d => d.modPort p (fun q => { q with outq := q.outq ++ [⟨{ x with port := p }, inp, none⟩] }))

/-- The header as a way changes it. -/
def Way.apply (w : Way) (h : FlitHdr) : FlitHdr :=
  match w with
  | .out _ vc rmb igrp => { h with vc := vc, rmb := rmb, igrp := igrp }
  | _ => h

/-- Sends a sealed flit on a way; a shed one is dropped and counted (R377). -/
def State.sendOn (s : State) (w : Way) (inp : Option Nat) (x : Sent) : State :=
  match w with
  | .out p _ _ _ => s.emit p inp { x with hdr := w.apply x.hdr }
  | .shed p => s.modDev (fun d => d.modPort p (fun q => { q with pshed := q.pshed + BitVec.ofNat 64 (hdrFlits x.hdr) }))
  | .nowhere => s

/-! ### Control packets that this device originates -/

/-- Check 3 has failed at injection: the core learns of it (R373, R386). -/
def State.membershipDrop (s : State) (core : CoreId) (h : FlitHdr) : State :=
  s.modCore core (fun c => c.raise
    { evt := 0x0C, code := 0, flow := h.flow.toNat, peer := h.drank.toNat, port := 0xFF, flg := 0, fsn0 := h.fsn, fsn1 := h.fsn
      arg := h.job.zeroExtend 64, time := BitVec.ofNat 64 s.dtime })

/-- Seals a control packet and sends it (R373 to R375). While no slot may seal it, it waits, or is dropped where none
will; with no port to send it on, it is not sent. -/
def State.sendControl (s : State) (h : FlitHdr) (pt : List Byte) : State :=
  if !s.dev.mayInject h then s.membershipDrop (coreId h.score.toNat) h
  else
    let k := s.dev.jobKey h.job.toNat
    match k.sealing 1 with
    | none => if k.mayWait then s.modDev (fun d => { d with ctlq := d.ctlq ++ [(h, pt)] }) else s
    | some n =>
      let body := padTo (32 * ((pt.length + 31) / 32)) pt
      let h := { h with fcnt := BitVec.ofNat 3 (body.length / 32) }
      let (x, s) := s.sealUnder n h body
      s.sendOn (s.way x.hdr (x.hdr.vc = 0) 0) none x

/-- The control packets of a job key that waited for a slot. -/
def State.pumpControl (s : State) (job : Nat) : State :=
  let (mine, rest) := s.dev.ctlq.partition (fun x => x.1.job.toNat = job)
  mine.foldl (fun (s : State) x => s.sendControl x.1 x.2) (s.modDev (fun d => { d with ctlq := rest }))

end Sys2Proof.Machine
end

