-- ==== Sys2Proof/Machine/Place.lean ====
section
/-! DEFINITION. Groups as coordinates (R405, R406, R413), the placement of a chunk that the network names (R249, R470),
the reduction unit (R416 to R420) and the deadline of a barrier (R250). -/

namespace Sys2Proof.Machine

open Sys2Proof

/-! ### Groups (R405, R406, R413) -/

def Group.none : Group := ⟨.dissolved, 0, 0, 0, [1, 1, 1, 1], 0, 0⟩
def Dev.group (d : Dev) (n : Nat) : Group := Store.get Group.none d.groups n
def Dev.setGroup (d : Dev) (n : Nat) (g : Group) : Dev := { d with groups := Store.set Group.none d.groups n g }

def Group.axis (g : Group) (a : Nat) : Nat := g.size.getD a 1
/-- Members, N. -/
def Group.count (g : Group) : Nat := g.axis 0 * g.axis 1 * g.axis 2 * g.axis 3

/-- The step in group rank of one along an axis. -/
def Group.stride (g : Group) (a : Nat) : Nat := ((List.range a).map g.axis).foldl (fun x y => x * y) 1
/-- The coordinate of group rank k on an axis. -/
def Group.coord (g : Group) (k a : Nat) : Nat := k / g.stride a % g.axis a

/-- The device rank of group rank k: its entry in the rank table (R405). -/
def Dev.rankOf (d : Dev) (g : Group) (k : Nat) : Nat := bytesNat (Store.run 0 d.hbm (g.rtab + 2 * k) 2)

/-- The group rank whose table entry is a device rank. -/
def Dev.groupRank (d : Dev) (g : Group) (r : Nat) : Option Nat := (List.range g.count).find? (fun k => d.rankOf g k = r)

/-- The M-group of group rank k: those that agree with it on every axis outside M (R406). -/
def Group.members (g : Group) (k m : Nat) : List Nat :=
  (List.range g.count).filter (fun j => (List.range 4).all (fun a => m.testBit a || g.coord j a = g.coord k a))

/-- The multicast address of (GID, M), and what one names (R413). -/
def mcastAddr (gid m : Nat) : Nat := 0xE000 + 16 * gid + m
def isMcast (r : Nat) : Bool := decide (0xE000 ≤ r) && decide (r < 0xF000)

/-! ### Placement of a chunk (R249, R470) -/

/-- What a placement comes to: it is acknowledged, or not, or answered as a trimmed flit is. -/
inductive Placed where
  | ack | silent | trimmed
  deriving DecidableEq, Repr

/-- Splits a run at page boundaries: offset in the run, address, length. fuel bounds the pages. -/
def pageRuns : Nat → Nat → Nat → Nat → List (Nat × Nat × Nat)
  | 0, _, _, _ => []
  | fuel + 1, o, va, n =>
    if n = 0 then []
    else
      let k := min n (65536 - va % 65536)
      (o, va, k) :: pageRuns fuel (o + k) (va + k) (n - k)

/-- The outcome of translating the bytes of a chunk for a write. -/
inductive Placing where
  | pieces (ps : List (Place × List Byte))
  | bad (code : BitVec 8) (mal : Bool) (va : Nat)

/-- The runs of a chunk of a barrier in virtual memory, within pages. -/
def Bar.pageRuns (b : Bar) (chunk : Nat) : List (Nat × Nat × Nat) :=
  (b.runs chunk).flatMap (fun r => Sys2Proof.Machine.pageRuns 10 r.1 r.2.1 r.2.2)

/-- Translates each run of a chunk of a barrier in virtual memory. -/
def State.placing (s : State) (core : CoreId) (ctx : Nat) (b : Bar) (chunk : Nat) (bs : List Byte) : Placing :=
  (b.pageRuns chunk).foldl (fun (acc : Placing) r =>
    match acc with
    | .bad c m v => .bad c m v
    | .pieces ps =>
      match s.access core ctx r.2.1 .w with
      | .bad c m => .bad c m r.2.1
      | .ok p =>
        if p.kind = 2 ∨ p.kind = 3 then .bad Code.pagePermission false r.2.1
        else .pieces (ps ++ [(p, (bs.drop r.1).take r.2.2)])) (.pieces [])

/-- The record of a network placement (R470). -/
def placeRecord (core : CoreId) (ctx n va : Nat) (code : BitVec 8) (mal : Bool) : FaultRec :=
  { va := BitVec.ofNat 64 va, pc := 0, tag := 0, ctx := ctx, code := code, kind := 3, wr := true, mal := mal, core := core.val
    obj := n, sect := 0 }

/-- A record of this kind for the barrier's page is already waiting or posted and not resolved. -/
def State.placeReported (s : State) (core : CoreId) (n va : Nat) : Bool :=
  let f := s.dev.frings[dieOf core]
  let same (r : FaultRec) : Bool := r.kind = 3 && r.code = Code.pageNotPresent && r.core = core.val && r.obj = n &&
    pageOf r.va.toNat = pageOf va
  f.waiting.any (fun w => same w.1) || f.posted.any (fun p => !p.resolved && same p.fr)

/-- Places a chunk that is not marked, of a barrier that waits; count: of a reduced chunk, its contributions (R419). -/
def State.placeChunk (s : State) (core : CoreId) (ctx n chunk : Nat) (count : Option Nat) (bs : List Byte) (poison : Bool) :
    Placed × State :=
  let c := s.core core
  let b := c.realArch.bar n
  let p : HeldPlace := ⟨n, chunk, b.gen, count, bs.take (b.chunkLen chunk), poison⟩
  if b.spb then
    (.ack, s.setCore core (if c.heldBack b p then { c with heldPlace := c.heldPlace ++ [p] } else c.land b p))
  else
    match s.placing core ctx b chunk p.bytes with
    | .pieces ps =>
      let from_ := s.dev.wseq
      let s := s.modDev (fun d =>
        (d.writePieces 0 (ps.map (fun _ => poison)) ps ⟨64, .c, .t, 0, 0, 0, 4, s.cycle + 1⟩ ((b.pageRuns chunk).map (fun r => r.2.1))).order
          [memAgent core (chunkTok n b.gen chunk)] (fun w => decide (from_ < w.seq)))
      (.ack, s.modCore core (fun c => (c.creditBar .outside n chunk).settleOps))
    | .bad code mal va =>
      if code = Code.pageNotPresent then
        let r := placeRecord core ctx n va code mal
        (.silent, if s.placeReported core n va then s else s.report (dieOf core) r .other (pageOf va))
      else
        (.ack, s.modCore core (fun c => c.faultBar .outside n code (placeRecord core ctx n va code mal)))

/-- What keeps a placement that arrives from being credited; one held back by a lease has named its chunk already. -/
def Core.placeCount (c : Core) (n chunk : Nat) : Option (Bar → Bar) := c.depositCount n chunk (c.chunkHeld n chunk)

/-- A chunk arrives for a barrier with no reduction. -/
def State.placeNet (s : State) (core : CoreId) (ctx n chunk : Nat) (bs : List Byte) (poison : Bool) : Placed × State :=
  match (s.core core).placeCount n chunk with
  | some f => (.ack, s.modCore core (fun c => c.modBarAs .outside n f))
  | none => s.placeChunk core ctx n chunk none bs poison

/-! ### The reduction unit (R416 to R419) -/

/-- Width in bytes of the element types that a plan may name (R409). -/
def redWidth (et : Nat) : Option Nat :=
  match et with
  | 0x00 | 0x1C => some 4
  | 0x01 | 0x02 | 0x14 => some 2
  | 0x15 => some 1
  | _ => none

/-- One element of the result, from the contributions in ascending order of index (R418). -/
def redElem (et op : Nat) (xs : List Nat) : Nat :=
  match xs with
  | [] => 0
  | x :: rest =>
    if et ≤ 2 then
      let step (a : Val) (y : Nat) : Val :=
        match op with
        | 0 => f32Val (roundF32 (addVal 0 a (elemVal et y)))
        | 1 => minVal a (elemVal et y)
        | _ => maxVal a (elemVal et y)
      convElem et 0 false false 0 (rest.foldl step (elemVal et x))
    else
      let w := 8 * (redWidth et).getD 1
      let step (a : Int) (y : Nat) : Int :=
        match op with
        | 0 => a + intVal w true y
        | 1 => min a (intVal w true y)
        | _ => max a (intVal w true y)
      intStore w true true (rest.foldl step (intVal w true x))

/-- The reduced bytes of a chunk of n bytes. -/
def redBytes (r : RedBind) (parts : List (Nat × List Byte × Bool)) (n : Nat) : List Byte :=
  let w := (redWidth r.et.toNat).getD 1
  let xs := ((List.range r.s).filterMap (fun k => parts.find? (fun p => p.1 = k))).map (fun p => p.2.1)
  ((List.range (n / w)).map (fun e => natBytes w (redElem r.et.toNat r.op (xs.map (fun b => leAt b (w * e) w))))).flatten

/-- Contribution slots in use: S for each open entry and for each reduced chunk that a lease keeps from being placed
(R417). -/
def State.redUsed (s : State) : Nat :=
  let size (core n : Nat) : Nat := match ((s.core (coreId core)).realArch.bar n).red with | some r => r.s | none => 0
  (s.dev.red.map (fun e => size e.core e.bar)).sum +
    ((List.finRange 64).map (fun (k : CoreId) =>
      (((s.core k).heldPlace.filter (fun p => p.count.isSome)).map (fun p => size k.val p.bar)).sum)).sum

def Dev.dropRed (d : Dev) (core n chunk : Nat) : Dev :=
  { d with red := d.red.filter (fun e => !(e.core = core && e.bar = n && e.chunk = chunk)) }

/-- The reduced chunk of an entry, from the contributions that it holds (R418). -/
def RedEnt.chunkOf (e : RedEnt) (b : Bar) (r : RedBind) : HeldPlace :=
  ⟨e.bar, e.chunk, b.gen, some e.parts.length, redBytes r e.parts (b.chunkLen e.chunk), e.parts.any (fun p => p.2.2)⟩

/-- An entry with all its contributions is completed: its count, then the chunk (R418, R419). A binding names a barrier in
scratchpad (R412). -/
def State.redPlace (s : State) (core : CoreId) (ctx : Nat) (e : RedEnt) : State :=
  let b := (s.core core).realArch.bar e.bar
  match b.red with
  | none => s
  | some r =>
    let p := e.chunkOf b r
    ((s.modDev (fun d => d.dropRed core.val e.bar e.chunk)).placeChunk core ctx e.bar e.chunk p.count p.bytes p.poison).2

/-- A contribution to a barrier bound to a reduction (R416, R417). -/
def State.contribute (s : State) (core : CoreId) (ctx n chunk : Nat) (r : RedBind) (srank : Nat) (bs : List Byte)
    (poison reliable : Bool) : Placed × State :=
  let g := s.dev.group r.gid
  let mine := (g.members g.myidx (2 ^ r.axis)).find? (fun k => s.dev.rankOf g k = srank)
  let stray (s : State) : State := s.modCore core (fun c => c.modBarAs .outside n (fun b => { b with stray := satInc b.stray }))
  match (s.core core).placeCount n chunk with
  | some f =>
    if ((s.core core).realArch.bar n).waiting ∧ mine.isNone then (.ack, stray s)
    else (.ack, s.modCore core (fun c => c.modBarAs .outside n f))
  | none =>
    match mine with
    | none => (.ack, stray s)
    | some m =>
      let k := g.coord m r.axis
      match s.dev.red.find? (fun e => e.core = core.val && e.bar = n && e.chunk = chunk) with
      | some e =>
        if e.parts.any (fun p => p.1 = k) then
          (.ack, s.modCore core (fun c => c.modBarAs .outside n (fun b => { b with dup := satInc b.dup })))
        else
          let e := { e with parts := e.parts ++ [(k, bs, poison)] }
          let s := s.modDev (fun d => { (d.dropRed core.val n chunk) with red := (d.dropRed core.val n chunk).red ++ [e] })
          (.ack, if e.parts.length = r.s then s.redPlace core ctx e else s)
      | none =>
        if 65536 < s.redUsed + r.s then (if reliable then .trimmed else .ack, s)
        else
          let e : RedEnt := ⟨core.val, n, chunk, [(k, bs, poison)]⟩
          let s := s.modDev (fun d => { d with red := d.red ++ [e] })
          (.ack, if r.s = 1 then s.redPlace core ctx e else s)

/-! ### Deadlines (R250, R419) -/

/-- Entries of a bound barrier at its deadline: each open one is completed from what it holds, and what a lease has held
back since its completion is placed with them (R419). -/
def State.redDeadline (s : State) (core : CoreId) (n : Nat) : State :=
  let b := (s.core core).realArch.bar n
  match b.red with
  | none => s
  | some r =>
    let mine (e : RedEnt) : Bool := e.core = core.val && e.bar = n
    let late (p : HeldPlace) : Bool := p.bar = n && p.count.isSome && p.gen = b.gen
    let c := s.core core
    let ps := c.heldPlace.filter late ++ (s.dev.red.filter mine).map (fun e => e.chunkOf b r)
    let c := ps.foldl (fun (c : Core) p => c.landNow b p) { c with heldPlace := c.heldPlace.filter (fun p => !late p) }
    (s.setCore core c).modDev (fun d => { d with red := d.red.filter (fun e => !mine e) })

/-- The deadline of a barrier: its reduction's entries first (R250, R419). A replay's barrier of the same number has a
deadline of its own. -/
def State.deadline (s : State) (core : CoreId) (n : Nat) : State :=
  let b := (s.core core).realArch.bar n
  let s := if b.waiting && b.dl && decide (b.deadline ≤ s.dtime) then s.redDeadline core n else s
  let s := s.barDeadline core .outside n
  if (s.core core).real.isSome then s.barDeadline core .own n else s

def execBarrierDeadline (core : CoreId) (bar : Nat) (s : State) : Host.Outcome State Fault Refusal :=
  .next (s.deadline core (bar % 64))

end Sys2Proof.Machine
end

