-- ==== Sys2Proof/Machine/Receive.lean ====
section
/-! DEFINITION. Packets that arrive: the checks of R373, forwarding (R383, R414, R415), delivery to barriers and
rings (R264, R470), and what acknowledgements, reports, markers and requests do (R372, R375, R376, R378). -/

namespace Sys2Proof.Machine

open Sys2Proof

/-! ### Words of control payloads (R371; their layout is log entry 62) -/

def payWord (pt : List Byte) (k : Nat) : Nat := leAt pt (4 * k) 4

/-- A list of FSNs with its length in front: at most 7. -/
def payFsns (pt : List Byte) : List Nat := (List.range (min 7 (payWord pt 0))).map (fun k => payWord pt (k + 1))

/-- FSN a is at or after b, modulo 2^32. -/
def fsnGe (a b : Nat) : Bool := decide ((a + 2 ^ 32 - b) % 2 ^ 32 < 2 ^ 31)

/-! ### What a sender learns (R372, R376, R378, R386) -/

/-- The window after an acknowledgement of n flits, m of them ECN-marked (R378). -/
def Flow.window (f : Flow) (n m : Nat) (inTime : Bool) : Nat :=
  let w := if m = 0 ∧ inTime then f.w + n * 512 * 512 / f.w else f.w - (m + 1) * 256
  max 512 (min (16 * 2 ^ 20) w)

/-- The window update of R378 with its CONGESTION event. -/
def Core.congest (c : Core) (now k n m : Nat) (inTime : Bool) : Core :=
  let f := c.flow k
  let w := f.window n m inTime
  let c := c.setFlow k { f with w := w }
  if 2 * w < f.wlast then
    (c.modFlow k (fun f => { f with wlast := w })).flowEvent now k 0x05 0 f.peer none 0 0 0 w
  else c

/-- Flits again to be sent: R397's retry limit first, whose TIMEOUT names the oldest unacknowledged flit (R386). -/
def Core.sendAgain (c : Core) (now core k : Nat) (fsns : List Nat) : Core :=
  fsns.foldl (fun (c : Core) n =>
    let f := c.flow k
    match f.unacked.find? (fun u => u.fsn = n && u.sent && !u.again) with
    | none => c
    | some u =>
      if f.st ≠ .opened then c
      else if f.rlim ≤ u.tries then c.flowFault now core k Code.deliveryTimeout 0x04 f.peer none f.oldest u.tries 0
      else c.setFlow k { f with
        retx := (f.retx + 1) % 2 ^ 64
        unacked := f.unacked.map (fun (v : Unacked) => if v.fsn = n then { v with again := true, tries := v.tries + 1 } else v) }) c

/-- Maximal runs of FSNs in the order given. -/
def fsnRuns : List Nat → List (Nat × Nat)
  | [] => []
  | n :: ns =>
    match fsnRuns ns with
    | (a, b) :: rs => if (n + 1) % 2 ^ 32 = a then (n, b) :: rs else (n, n) :: (a, b) :: rs
    | [] => [(n, n)]

/-- Acknowledges flits of flow k for one destination: which are so for the first time, and the core. A flit of a
multicast waits for every destination (R414). -/
def Core.acknowledge (c : Core) (k peer : Nat) (hit : Nat → Bool) : List Nat × Core :=
  let f := c.flow k
  let fresh (u : Unacked) : Bool := u.sent && hit u.fsn && u.need.contains peer && !u.acks.contains peer
  let new := f.unacked.filter fresh
  let us := (f.unacked.map (fun (u : Unacked) => if fresh u then { u with acks := peer :: u.acks } else u)).filter
    (fun u => !u.need.all (fun r => u.acks.contains r))
  let auth := if new.any (fun u => decide (f.authMark < u.sealNo)) then 0 else f.authCount
  (new.map (fun u => u.fsn), (c.setFlow k { f with unacked := us, authCount := auth }).settleOps)

/-- The flow of this device that a control packet is about: open, and of its job. -/
def Core.flowFor (c : Core) (h : FlitHdr) : Option Flow :=
  let f := c.flow h.flow.toNat
  if f.st = .opened ∧ f.job = h.job.toNat then some f else none

/-- The count of ECN-marked flits among n that an acknowledgement reports: the packet has no place for it, so it is
free (log entry 3). -/
def State.ecnOf (s : State) (n : Nat) : Nat := (Config.freeWord s.free 6).toNat % (n + 1)

/-- An ACK of FSNs lo to hi with the send time that it echoes. -/
def State.onAck (s : State) (port : Option Nat) (h : FlitHdr) (pt : List Byte) : State :=
  let core := coreId h.dcore.toNat
  let c := s.core core
  let k := h.flow.toNat
  match c.flowFor h with
  | none => s
  | some f =>
    let lo := payWord pt 0
    let hi := payWord pt 1
    let rtt := (s.dtime + 2 ^ 64 - leAt pt 8 8) % 2 ^ 64
    let (new, c) := c.acknowledge k h.srank.toNat (fun n => fsnGe n lo && fsnGe hi n)
    if new = [] then s
    else
      let c := c.flowEvent s.dtime k 0x01 0 h.srank.toNat port (f.kpOf lo) lo hi rtt
      let m := s.ecnOf new.length
      (s.setCore core (c.congest s.dtime k new.length m (decide (rtt ≤ f.target)))).bumpFree

/-- A SACK: everything up to its base and each marked flit are acknowledged; a flit is missing when at least 3 later
ones have arrived. It echoes no time, so it leaves W as it is and its RTT is free. -/
def State.onSack (s : State) (port : Option Nat) (h : FlitHdr) (pt : List Byte) : State :=
  let core := coreId h.dcore.toNat
  let c := s.core core
  let k := h.flow.toNat
  match c.flowFor h with
  | none => s
  | some f =>
    let base := payWord pt 0
    let got := (List.range 224).filter (fun i => (pt.getD (4 + i / 8) 0).getLsbD (i % 8))
    let fsn (i : Nat) : Nat := (base + 1 + i) % 2 ^ 32
    let gots := got.map fsn
    let (new, c) := c.acknowledge k h.srank.toNat (fun n => fsnGe base n || gots.contains n)
    let rtt := (Config.freeWord s.free 7).toNat
    let c := (fsnRuns new).foldl (fun (c : Core) r => c.flowEvent s.dtime k 0x01 0 h.srank.toNat port (f.kpOf r.1) r.1 r.2 rtt) c
    let miss := (List.range 224).filter (fun i =>
      !got.contains i && decide (3 ≤ (got.filter (fun j => decide (i < j))).length) &&
        f.unacked.any (fun u => u.fsn = fsn i && u.sent))
    let c := match miss with
      | [] => c
      | i0 :: _ =>
        let map := (miss.map (fun i => if i - i0 < 64 then 2 ^ (i - i0) else 0)).sum
        let c := c.flowEvent s.dtime k 0x02 0 h.srank.toNat port (f.kpOf (fsn i0)) (fsn i0) (fsn (miss.getLast?.getD i0)) map
        if f.auto then c.sendAgain s.dtime core.val k (miss.map fsn) else c
    (s.setCore core c).bumpFree

def State.onTrimn (s : State) (port : Option Nat) (h : FlitHdr) (pt : List Byte) : State :=
  let core := coreId h.dcore.toNat
  let k := h.flow.toNat
  match (s.core core).flowFor h with
  | none => s
  | some f =>
    s.modCore core (fun c => (payFsns pt).foldl (fun (c : Core) n =>
      let c := c.flowEvent s.dtime k 0x03 0 h.srank.toNat port (f.kpOf n) n n 0
      if f.auto then c.sendAgain s.dtime core.val k [n] else c) c)

/-- Each flit that an AUTHN names is one report (R376). -/
def State.onAuthn (s : State) (port : Option Nat) (h : FlitHdr) (pt : List Byte) : State :=
  let core := coreId h.dcore.toNat
  let k := h.flow.toNat
  s.modCore core (fun c => (payFsns pt).foldl (fun (c : Core) n =>
    match c.flowFor h with
    | none => c
    | some f =>
      let a := f.authCount + 1
      let c := c.setFlow k { f with authCount := a, authMark := f.seals }
      if c.arch.authmax.toNat ≤ a then
        c.flowFault s.dtime core.val k Code.linkAuthExhausted 0x06 h.srank.toNat port n n a
      else
        let c := c.flowEvent s.dtime k 0x06 0 h.srank.toNat port (f.kpOf n) n n a
        if f.auto then c.sendAgain s.dtime core.val k [n] else c) c)

def State.onCredit (s : State) (_port : Option Nat) (h : FlitHdr) (pt : List Byte) : State :=
  let core := coreId h.dcore.toNat
  match (s.core core).flowFor h with
  | none => s
  | some f => s.modCore core (fun c => c.setFlow h.flow.toNat { f with credit := f.credit + 512 * payWord pt 0 })

/-! ### Markers (R375) -/

/-- A MARKACK of phase n from a peer: once every peer has answered, the slot goes CURRENT and the old CURRENT one
RETIRED. -/
def State.onMarkack (s : State) (_port : Option Nat) (h : FlitHdr) (pt : List Byte) : State :=
  s.modDev (fun d =>
    let k := d.jobKey h.job.toNat
    let n := (pt.headD 0).toNat % 2
    let x := k.slot n
    if x.st ≠ .next then d
    else
      let rest := x.await.filter (fun r => r.rank ≠ h.srank.toNat)
      d.setJobKey (if rest = [] then k.switch n (· = .current) else k.setSlot n { x with await := rest }))

/-- The header of an answer to a packet. -/
def answerHdr (h : FlitHdr) (ptype : BitVec 8) : FlitHdr :=
  { hdrZero with ptype := ptype, vc := controlVc (isExpress h), mode := h.mode, job := h.job, drank := h.srank
                 srank := BitVec.ofNat 16 Config.rank, dcore := h.score, score := h.dcore, flow := h.flow }

/-- A MARKER of phase n: a LOADED or NEXT slot goes CURRENT, and the other one RETIRED unless it is EMPTY; a slot that is
CURRENT already is acknowledged again (log entry 67). -/
def State.onMarker (s : State) (_port : Option Nat) (h : FlitHdr) (pt : List Byte) : State :=
  let k := s.dev.jobKey h.job.toNat
  let n := (pt.headD 0).toNat % 2
  let st := (k.slot n).st
  if st = .loaded ∨ st = .next ∨ st = .current then
    let s := if st = .current then s else s.modDev (fun d => d.setJobKey (k.switch n (· ≠ .empty)))
    let s := s.pumpControl h.job.toNat
    s.sendControl { (answerHdr h 0x15) with vc := 1 } (BitVec.ofNat 8 n :: zeroBytes 3 ++ natBytes 4 h.job.toNat)
  else s

/-! ### Acknowledging (R371, R372) -/

def Core.rxFlow (c : Core) (h : FlitHdr) : RxFlow :=
  (c.rx.find? (fun r => r.srank = h.srank.toNat && r.score = h.score.toNat && r.flow = h.flow.toNat)).getD
    ⟨h.srank.toNat, h.score.toNat, h.flow.toNat, 0, []⟩

def Core.setRx (c : Core) (r : RxFlow) : Core :=
  { c with rx := c.rx.filter (fun q => !(q.srank = r.srank && q.score = r.score && q.flow = r.flow)) ++ [r] }

/-- Advances the base over FSNs that have arrived. -/
def RxFlow.advance : Nat → RxFlow → RxFlow
  | 0, r => r
  | n + 1, r =>
    if r.above.contains r.base then
      RxFlow.advance n { r with base := (r.base + 1) % 2 ^ 32, above := r.above.filter (fun x => x ≠ r.base) }
    else r

/-- Notes an FSN that has arrived. -/
def RxFlow.note (r : RxFlow) (fsn : Nat) : RxFlow :=
  if fsnGe fsn r.base && !r.above.contains fsn then RxFlow.advance (r.above.length + 1) { r with above := fsn :: r.above } else r

/-- The SACK of what has arrived. -/
def RxFlow.sack (r : RxFlow) : List Byte :=
  natBytes 4 ((r.base + 2 ^ 32 - 1) % 2 ^ 32) ++ (List.range 28).map (fun j =>
    BitVec.ofNat 8 (((List.range 8).map (fun i => if r.above.contains ((r.base + 8 * j + i) % 2 ^ 32) then 2 ^ i else 0)).sum))

/-- Sends an answer to a data flit, or gives it to this device's own sender. -/
def State.answer (s : State) (h : FlitHdr) (ptype : BitVec 8) (pt : List Byte) : State :=
  let a := answerHdr h ptype
  if h.srank.toNat = Config.rank then
    match ptype.toNat with
    | 0x10 => s.onAck none a pt
    | 0x11 => s.onSack none a pt
    | 0x12 => s.onTrimn none a pt
    | _ => s.onAuthn none a pt
  else s.sendControl a pt

/-- A flit has arrived and is acknowledged: by an ACK of it, or by a SACK, as the receiver chooses. No field of the
flit holds its send time, so the time echoed is free (log entry 3). -/
def State.ackFlit (s : State) (h : FlitHdr) : State :=
  let core := coreId h.dcore.toNat
  let r := ((s.core core).rxFlow h).note h.fsn.toNat
  let s := s.modCore core (fun c => c.setRx r)
  let echo := Config.freeWord s.free 8
  let bySack := Config.freeBool s.free 9
  let s := s.bumpFree
  if bySack then s.answer h 0x11 r.sack
  else s.answer h 0x10 (natBytes 4 h.fsn.toNat ++ natBytes 4 h.fsn.toNat ++ natBytes 8 echo.toNat)

/-! ### Rings (R264) -/

/-- The flits of the packet that a flit belongs to, in order. -/
def Core.ringPacket (c : Core) (p : RingPart) : List RingPart :=
  (List.range 8).filterMap (fun k => c.ringIn.find? (fun q =>
    q.srank = p.srank && q.score = p.score && q.flow = p.flow && q.first = p.first && q.fidx = k))

/-- A packet dropped by ring n (R264). -/
def Ring.dropped (bytes : Nat) (r : Ring) : Ring := { r with drops := (r.drops + 1) % 2 ^ 64, dropb := (r.dropb + bytes) % 2 ^ 64 }

/-- First flits of the packets that have arrived whole for ring n and wait for their slot's lease to end, oldest first. -/
def Core.ringHeld (c : Core) (n : Nat) : List RingPart :=
  c.ringIn.filter (fun p => p.ring = n && p.fidx = 0 && decide ((c.ringPacket p).length = p.flits))

def Core.ringForget (c : Core) (ps : List RingPart) : Core := { c with ringIn := c.ringIn.filter (fun q => !ps.contains q) }

/-- DROPOLD: the packet of slot CONS is dropped; one that still waits for its slot gives the slot up (R264). -/
def Core.ringDropOldest (c : Core) (n : Nat) : Core :=
  let r := c.arch.ring n
  if r.cons < r.pub then
    let old := bytesNat (c.arch.scrRead (r.slotAddr r.cons + 8) 4)
    c.keep (fun a => a.modRing n (fun r => { (r.dropped old) with cons := r.cons + 1 }))
  else
    match c.ringHeld n with
    | [] => c
    | p :: _ =>
      (c.ringForget (c.ringPacket p)).keep (fun a => a.modRing n (fun r => { ((r.dropped p.len).publish 1) with cons := r.cons + 1 }))

/-- A packet that has arrived whole is admitted or dropped, and a full ring that drops old packets gives up its oldest one
(R264). Publications and drops are kept by a rollback (R266). -/
def Core.ringAdmit (c : Core) (p : RingPart) : Core :=
  let r := c.arch.ring p.ring
  let ps := c.ringPacket p
  let out := c.ringForget ps
  if !r.opened ∨ r.prod ≠ 3 then out
  else if r.slot < p.len + 16 then out.keep (fun a => a.modRing p.ring (Ring.dropped p.len))
  else
    let c : Core := { out with ringIn := out.ringIn ++ ps }
    if r.pub + (out.ringHeld p.ring).length - r.cons < r.nslot then c
    else if r.dropOld then c.ringDropOldest p.ring
    else out.keep (fun a => a.modRing p.ring (Ring.dropped p.len))

/-- An admitted packet goes into slot PUB, as one write, and is published (R264, R265). -/
def Core.ringDeliver (c : Core) (p : RingPart) : Core :=
  let n := p.ring
  let ps := c.ringPacket p
  let r := c.arch.ring n
  let a0 := r.slotAddr r.pub
  let bs := (ps.map (fun q => q.bytes)).flatten.take p.len
  let c := (c.shade .ringWord .outside n).scrWrite .outside .t a0 (natBytes 8 r.pub ++ natBytes 4 p.len ++ zeroBytes 4 ++ bs) false 0
  let c := c.alter .outside (fun a => ps.foldl (fun (a : Arch) q =>
    if q.poison then { a with scrP := markWrite a.scrP 64 (a0 + 16 + 512 * q.fidx) (min 512 (p.len - 512 * q.fidx)) true } else a)
    (a.orderNewest 1 (ringTok n)))
  (c.keep (fun a => a.modRing n (fun r => r.publish 1))).ringForget ps

/-- The admitted packets of a ring in the order of their arrival: each goes into its slot once no lease covers that (R172). -/
def Core.ringPlace (c : Core) (n : Nat) : Nat → Core
  | 0 => c
  | fuel + 1 =>
    match c.ringHeld n with
    | [] => c
    | p :: _ =>
      let r := c.arch.ring n
      if !r.opened ∨ r.prod ≠ 3 then (c.ringForget (c.ringPacket p)).ringPlace n fuel
      else if c.arch.leased (r.slotAddr r.pub) (p.len + 16) then c
      else (c.ringDeliver p).ringPlace n fuel

/-- Held packets are placed as leases end. -/
def Core.ringDrain (c : Core) : Core :=
  ((c.ringIn.map (fun p => p.ring)).eraseDups).foldl (fun (c : Core) n => c.ringPlace n (c.ringIn.length + 1)) c

/-- A flit of a ring packet arrives. -/
def Core.ringFlit (c : Core) (h : FlitHdr) (bs : List Byte) (poison : Bool) : Core :=
  let p : RingPart := { srank := h.srank.toNat, score := h.score.toNat, flow := h.flow.toNat
                        first := (h.fsn.toNat + 2 ^ 32 - h.fidx.toNat) % 2 ^ 32, fidx := h.fidx.toNat
                        flits := h.fcnt.toNat + 1, len := bitsOf h.chunk.toNat 15 0, ring := h.obj.toNat, bytes := bs, poison := poison }
  let old (q : RingPart) : Bool := q.srank = p.srank && q.score = p.score && q.flow = p.flow && q.first = p.first && q.fidx = p.fidx
  let c : Core := { c with ringIn := c.ringIn.filter (fun q => !old q) ++ [p] }
  if (c.ringPacket p).length = p.flits then (c.ringAdmit { p with fidx := 0 }).ringPlace p.ring (c.ringIn.length + 1) else c

/-! ### Data flits at their destination -/

/-- The flit is a reply to a GET of this core: its request stands for its acknowledgement. -/
def Core.isReply (c : Core) (h : FlitHdr) : Bool :=
  c.arch.seq.ops.any (fun o => o.kind = 4 && o.flow = h.flow.toNat && o.first = h.fsn.toNat && o.bar = h.obj.toNat &&
    (c.flow o.flow).peer = h.srank.toNat)

/-- Check 6: a data flit whose tag holds is placed in the context of its job key, and acknowledged. FIDX counts its chunk
from the packet's CHUNK (R371, log entry 91). -/
def State.arriveData (s : State) (port : Option Nat) (e : W64) (ring : Bool) (h : FlitHdr) (bs : List Byte) : State :=
  let core := coreId h.dcore.toNat
  let ctx := memberCtx e
  let x := s.dev.ctx ctx
  let n := h.obj.toNat
  let poison := h.pz = 1
  let reliable := h.mode ≠ 2
  let c := s.core core
  if ring then
    let r := c.arch.ring n
    if !(x.cores.getLsbD core.val && x.ringa.getLsbD n) then s.countAt port Port.memberUp
    else if 16 ≤ n ∨ !r.opened ∨ r.prod ≠ 3 then s.countAt port Port.malformedUp
    else s.modCore core (fun c => c.ringFlit h bs poison)
  else if !(x.cores.getLsbD core.val && x.bara.getLsbD n) then s.countAt port Port.memberUp
  else
    let s := s.deadline core n
    let reply := (s.core core).isReply h
    let chunk := h.chunk.toNat + h.fidx.toNat
    let (out, s) := match ((s.core core).realArch.bar n).red with
      | some r => s.contribute core ctx n chunk r h.srank.toNat bs poison reliable
      | none => s.placeNet core ctx n chunk bs poison
    if !reliable ∨ reply then s
    else
      match out with
      | .ack => s.ackFlit h
      | .silent => s
      | .trimmed => (s.countAt port (fun p => { p with ptrim := p.ptrim + 1 })).answer h 0x12 (natBytes 4 1 ++ natBytes 4 h.fsn.toNat)

/-- A trimmed flit has no payload to check or place; it is answered with a TRIMN (R378). -/
def State.arriveTrimmed (s : State) (h : FlitHdr) : State :=
  if h.mode = 2 then s else s.answer h 0x12 (natBytes 4 1 ++ natBytes 4 h.fsn.toNat)

/-- A sequencer message is accepted in order and posts DELIVERED at the receiving core (R371, R383). Its ARG is not
given and is free (log entry 3). -/
def State.onSeqmsg (s : State) (port : Option Nat) (h : FlitHdr) (_pt : List Byte) : State :=
  let core := coreId h.dcore.toNat
  let r := (s.core core).rxFlow h
  if h.fsn.toNat = r.base then
    let s := s.modCore core (fun c => c.flowEvent s.dtime h.flow.toNat 0x0B 0 h.srank.toNat port h.kp.toNat h.fsn.toNat h.fsn.toNat
      (Config.freeWord s.free 10).toNat)
    s.ackFlit h
  else if fsnGe h.fsn.toNat r.base then s
  else s.ackFlit h

/-! ### Data flits and requests that this device sends as a target -/

/-- Seals one data flit for another rank and sends it, or gives it to this device. -/
def State.sendData (s : State) (h : FlitHdr) (bs : List Byte) : State :=
  if !s.dev.mayInject h then s.membershipDrop (coreId h.score.toNat) h
  else if h.drank.toNat = Config.rank then
    match s.dev.memberOf h.job.toNat with
    | some e => s.arriveData none e false h bs
    | none => s
  else
    match (s.dev.jobKey h.job.toNat).sealing 1 with
    | none => s
    | some k =>
      let (x, s) := s.sealUnder k h bs
      s.sendOn (s.way x.hdr (isExpress x.hdr) 0) none x

/-- Why a source cannot be read: the code, the address, whether the entry is malformed, and whether the page is REMOTE,
where nothing is replayed (R193). -/
structure SourceErr where
  code : BitVec 8
  va : Nat
  mal : Bool
  remote : Bool
  deriving DecidableEq, Repr

/-- Reads n bytes of a context for a transport operation. A REMOTE page needs its binding, and what it holds is free
(R380; log entry 3). -/
def State.sourceVa (s : State) (core : CoreId) (ctx va n : Nat) : Except SourceErr (List Byte × Bool) :=
  (pageRuns (n / 65536 + 2) 0 va n).foldl (fun acc r =>
    match acc with
    | .error e => .error e
    | .ok (bs, po) =>
      match s.access core ctx r.2.1 .r with
      | .bad code mal => .error ⟨code, r.2.1, mal, false⟩
      | .ok p =>
        if p.kind = 3 then
          match s.remoteFault core ctx p r.2.1 with
          | some code => .error ⟨code, r.2.1, false, true⟩
          | none => .ok (bs ++ s.freeBytes r.2.2, po)
        else .ok (bs ++ s.dev.readPlace p r.2.2, po || s.dev.placePoison p r.2.2)) (.ok ([], false))

/-- The channel of the data of a reply: its flow's class, which the request shows only where it is EXPRESS (log
entry 156). -/
def replyVc (h : FlitHdr) : BitVec 3 :=
  if h.vc = 0 then 2 else if Config.freeBool (hdrSender h) (2 ^ 72) then 4 else if Config.freeBool (hdrSender h) (2 ^ 73) then 3 else 6

/-- A remote load: the bytes are read in the context of the job key and sent as data flits to the barrier that the
request names (R193, R398). A request that does not translate is not answered. -/
def State.onRload (s : State) (_port : Option Nat) (e : W64) (h : FlitHdr) (pt : List Byte) : State :=
  let core := coreId h.dcore.toNat
  let va := leAt pt 0 8
  let n := leAt pt 8 4
  let chunk0 := leAt pt 12 4
  let bar := leAt pt 16 1
  match s.sourceVa core (memberCtx e) va n with
  | .error _ => s
  | .ok (bs, _) =>
    (List.range ((n + 511) / 512)).foldl (fun (s : State) k =>
      let part := (bs.drop (512 * k)).take 512
      let po := match s.sourceVa core (memberCtx e) (va + 512 * k) part.length with | .ok (_, p) => p | .error _ => false
      let f : FlitHdr := { hdrZero with
        ptype := 0x01, vc := replyVc h, mode := 0, pz := if po then 1 else 0, job := h.job
        drank := h.srank, srank := BitVec.ofNat 16 Config.rank, dcore := h.score, score := h.dcore, flow := h.flow
        obj := BitVec.ofNat 6 bar, fsn := h.fsn, chunk := BitVec.ofNat 32 (chunk0 + k) }
      s.sendData f (padTo 512 part)) s

/-- The read-modify-write of a remote atomic on an old value (R211): op 15 is compare and swap. -/
def atomNew (op w old opa opb : Nat) : Nat :=
  let b := 8 * w
  let x := old % 2 ^ b
  let y := opa % 2 ^ b
  match op with
  | 0 => (x + y) % 2 ^ b
  | 1 => wrapInt b (min (intVal b true x) (intVal b true y))
  | 2 => wrapInt b (max (intVal b true x) (intVal b true y))
  | 3 => x &&& y
  | 4 => x ||| y
  | 5 => x ^^^ y
  | 6 => min x y
  | 7 => max x y
  | 8 => y
  | _ => if x = y then opb % 2 ^ b else x

/-- Whether a PCIe AtomicOp performs an operation on a HOST page (R213). -/
def hostAtom (op w : Nat) : Bool := if op = 15 then true else (op = 0 || op = 8) && w ≠ 16

/-- A remote atomic is performed once for each FSN at its home in the context of the job key, and its old value is
found (R211, R213, R398). On a HOST page the completer may refuse the AtomicOp: a free choice; on a REMOTE page its home
is not in this machine, and the old value is free. -/
def State.ratomPerform (s : State) (e : W64) (h : FlitHdr) (pt : List Byte) : Option (List Byte) × State :=
  let core := coreId h.dcore.toNat
  let r := (s.core core).rxFlow h
  let va := leAt pt 0 8
  let w := leAt pt 8 1
  let op := leAt pt 9 1
  if !fsnGe h.fsn.toNat r.base || r.above.contains h.fsn.toNat || !(w = 4 || w = 8 || w = 16) || va % w ≠ 0 then (none, s)
  else
    match s.access core (memberCtx e) va .rw with
    | .bad _ _ => (none, s)
    | .ok p =>
      let s' := s.modCore core (fun c => c.setRx (r.note h.fsn.toNat))
      if p.kind = 3 then
        (if (s.remoteFault core (memberCtx e) p va).isSome then (none, s) else (some (s.freeBytes w), s'))
      else if p.kind = 2 ∧ (!hostAtom op w ∨ Config.freeBool s.free 15) then (none, s)
      else
        let old := s.dev.readPlace p w
        let new := natBytes w (atomNew op w (bytesNat old) (leAt pt 16 8) (leAt pt 24 8))
        (some old, s'.modDev (fun d => d.writePlace p (if p.kind = 1 then 1 else 0) new (s.dev.placePoison p w)
          ⟨64, .c, .t, 0, 0, va, w, s.cycle + 1⟩))

/-- How the old value travels back to another device is not given: READ_MODIFY_WRITE_DONE ends the operation at its
issuer. -/
def State.onRatom (s : State) (_port : Option Nat) (e : W64) (h : FlitHdr) (pt : List Byte) : State := (s.ratomPerform e h pt).2

/-! ### Forwarding (R373, R378, R383, R414, R415) -/

/-- A forwarding port marks a data flit whose channel holds more than half of its allotment, and trims one that finds its
channel full (R378). A control packet that finds no room is lost (log entry 155). -/
def State.forwardMarks (s : State) (port : Nat) (x : Sent) : Option (Sent × State) :=
  let fits := s.dev.fits port x.hdr
  if x.hdr.ptype ≠ 0x01 then (if fits then some (x, s) else none)
  else
    let x := if s.dev.crowded port x.hdr.vc.toNat then { x with hdr := { x.hdr with ecn := 1 } } else x
    if fits then some (x, s)
    else some ({ x with hdr := { x.hdr with trim := 1 }, payload := [] }, s.countAt (some port) (fun p => { p with ptrim := p.ptrim + 1 }))

/-- Flits that may be aligned into one packet: they also wait at one port, their next hop (R415). -/
def sameRed (a b : FlitHdr) : Bool :=
  a.job = b.job && a.drank = b.drank && a.dcore = b.dcore && a.obj = b.obj && a.chunk = b.chunk && a.vc = b.vc

/-- Held flits that match a header leave as one packet: they wait no longer. -/
def Port.unhold (p : Port) (h : FlitHdr) : Port :=
  { p with outq := p.outq.map (fun o => if o.held.isSome && sameRed o.x.hdr h then { o with held := none } else o) }

/-- A flit joins an output queue. A single-flit contribution may be held there for others of its chunk, but not on VC2
(R415): whether it is, is free. -/
def State.enqueueOn (s : State) (p : Nat) (inp : Option Nat) (x : Sent) : State :=
  let held := isRedc x.hdr && x.hdr.trim = 0 && x.hdr.vc ≠ 2 && Config.freeBool s.free 13
  s.modDev (fun d => d.modPort p (fun q =>
    let q := { q with outq := q.outq ++ [⟨{ x with port := p }, inp, if held then some s.dtime else none⟩] }
    if held && decide (8 ≤ (q.outq.filter (fun o => o.held.isSome && sameRed o.x.hdr x.hdr)).length) then q.unhold x.hdr else q))

/-- Forwards a flit or packet from its port one hop further. -/
def State.forward (s : State) (x : Sent) : State :=
  match s.forwardMarks x.port x with
  | none => s
  | some (y, s) =>
    let h := { y.hdr with hops := y.hdr.hops + 1 }
    let w := s.way h (isExpress h) h.hops.toNat
    match w with
    | .out p _ _ _ => s.enqueueOn p (some x.port) { y with hdr := w.apply h }
    | _ => s.sendOn w (some x.port) { y with hdr := h }

/-- A port leads to a member of this group. -/
def Dev.localPort (d : Dev) (p : Nat) : Bool := (List.range 32).any (fun m => m ≠ myMember && (d.memberPorts m).contains p)

/-- Ports toward a destination of a multicast: the first member of the table that holds the link, always. -/
def Dev.mcastPorts (d : Dev) (r : Nat) : List Nat :=
  if r / 32 = myGroup then d.memberPorts (r % 32)
  else
    match d.globalLinks (r / 32) with
    | [] => []
    | l :: ls => if l.1 = myMember then ((l :: ls).filter (fun k => k.1 = myMember)).map (fun k => k.2) else d.memberPorts l.1

/-- Destinations of a multicast that lie beyond this device, on minimal routes from the sender (R414). -/
def Dev.beyond (d : Dev) (src : Nat) (port : Option Nat) (dests : List Nat) : List Nat :=
  let ds := dests.filter (fun r => r ≠ Config.rank)
  if src = Config.rank then ds
  else if src / 32 = myGroup then
    ds.filter (fun r => r / 32 ≠ myGroup && (match d.globalLinks (r / 32) with | l :: _ => l.1 = myMember | [] => false))
  else
    match port with
    | some p => if d.localPort p then [] else ds.filter (fun r => r / 32 = myGroup)
    | none => []

/-- One copy to each distinct next hop, the header unchanged but for its hop count. A shed channel is handled without the
ramble step (R377, R414). -/
def State.copyOn (s : State) (inp : Option Nat) (x : Sent) (dests : List Nat) : State :=
  let hops := (dests.map (fun r => s.dev.mcastPorts r)).eraseDups
  hops.foldl (fun (s : State) ps => s.sendOn (s.dev.wayAmong x.hdr ps []) inp x) s

/-- A forwarded multicast flit is marked or trimmed as any other, and its copies leave (R378, R414). -/
def State.copyForward (s : State) (x : Sent) (dests : List Nat) : State :=
  match s.forwardMarks x.port x with
  | none => s
  | some (y, s) => s.copyOn (some x.port) { y with hdr := { y.hdr with hops := y.hdr.hops + 1 } } dests

/-- The destination set of a multicast address in this device's group table: the group, and the ranks of the
M-group of the sender. -/
def State.mcastSet (s : State) (drank srank : Nat) : Option (Group × List Nat) :=
  let g := s.dev.group ((drank - 0xE000) / 16)
  if g.st = .dissolved then none
  else (s.dev.groupRank g srank).map (fun k => (g, (g.members k (drank % 16)).map (s.dev.rankOf g)))

/-! ### The checks of R373 -/

/-- A port that carries packets. -/
def Dev.carries (d : Dev) (port : Nat) : Bool :=
  decide (port < 79) && (let st := (d.port port).st; st = .up || st = .degraded || st = .draining)

/-- Check 1: what the link's FEC cannot correct is counted. With link-level retry the link brings it again at once;
otherwise it is lost (R369, R373; log entry 155). -/
def State.fecLost (s : State) (port : Nat) : State := s.modDev (fun d => d.modPort port (fun p => { p with plerr := p.plerr + 1 }))

/-- What arrives at a port that carries packets passes check 1 and goes on to the other checks. Under flow control of the
link the neighbour sends nothing that the buffer cannot take (R369). -/
def State.linkIn (s : State) (port : Nat) (h : FlitHdr) (fecOk : Bool) (checks : State → State) : State :=
  let p := s.dev.port port
  if !s.dev.carries port || (p.lfc && !s.dev.fits port h) then s
  else if fecOk then checks s
  else if p.llr then checks (s.fecLost port) else s.fecLost port

/-- Check 3 and 4 for a packet to one rank: delivered, forwarded or dropped. -/
def State.routeIn (s : State) (port : Nat) (x : Sent) (arrive : W64 → State → State) : State :=
  match s.dev.memberOf x.hdr.job.toNat with
  | none => s.countAt (some port) Port.memberUp
  | some e =>
    if x.hdr.drank.toNat = Config.rank then
      if memberDx e then arrive e s else s.countAt (some port) Port.memberUp
    else if memberFw e then s.forward x
    else s.countAt (some port) Port.memberUp

/-- Check 5 of a data flit and what follows. -/
def State.deliverFlit (s : State) (port : Nat) (f : Flit) (e : W64) : State :=
  if f.hdr.trim = 1 then s.arriveTrimmed f.hdr
  else
    match s.dev.openPacket f.hdr f.payload f.tag with
    | none =>
      let s := s.modDev (fun d => d.modPort port (fun p => { p with pauth := p.pauth + 1 }))
      if f.hdr.mode = 2 then s else s.answer f.hdr 0x13 (natBytes 4 1 ++ natBytes 4 f.hdr.fsn.toNat)
    | some bs => s.arriveData (some port) e (toRing f.hdr) f.hdr bs

/-- Check 2 of a data flit (R371): type, reserved bits, a mode other than ROD, and its payload. -/
def dataFormed (f : Flit) : Bool :=
  f.hdr.ptype = 0x01 && f.hdr.rsv1 = 0 && f.hdr.rsv2 = 0 && f.hdr.mode ≠ 3 &&
    f.payload.length = (if f.hdr.trim = 1 then 0 else 512)

/-- Checks 2 to 6 of a data flit. A multicast is accepted here once its group is JOINED (R407; log entry 144). -/
def State.checkFlit (s : State) (port : Nat) (f : Flit) : State :=
  let x : Sent := ⟨port, f.hdr, f.payload, f.tag⟩
  let r := f.hdr.drank.toNat
  if !dataFormed f then s.countAt (some port) Port.malformedUp
  else if isMcast r then
    match s.dev.memberOf f.hdr.job.toNat, s.mcastSet r f.hdr.srank.toNat with
    | some e, some (g, ds) =>
      let out := s.dev.beyond f.hdr.srank.toNat (some port) ds
      let s := if out ≠ [] then
          if memberFw e then s.copyForward x out else s.countAt (some port) Port.memberUp
        else s
      if ds.contains Config.rank ∧ f.hdr.srank.toNat ≠ Config.rank then
        if memberDx e ∧ g.st ≠ .defined then s.deliverFlit port f e else s.countAt (some port) Port.memberUp
      else s
    | _, _ => s.countAt (some port) Port.memberUp
  else s.routeIn port x (fun e s => s.deliverFlit port f e)

/-- A data flit at a port. -/
def State.receiveFlit (s : State) (port : Nat) (f : Flit) : State :=
  s.linkIn port f.hdr f.fecOk (fun s => s.checkFlit port f)

def execData (port : Nat) (f : Flit) (s : State) : Host.Outcome State Fault Refusal := .next (s.receiveFlit port f).bumpFree

/-- Check 2 of a control packet: its type, reserved bits, flits and a mode that its type allows. -/
def controlFormed (p : Packet) (ptype : BitVec 8) (modes : List Nat) : Bool :=
  p.hdr.ptype = ptype && p.hdr.rsv1 = 0 && p.hdr.rsv2 = 0 && p.hdr.fidx = 0 && p.payload.length = 32 * p.hdr.fcnt.toNat && modes.contains p.hdr.mode.toNat

/-- Checks 2 to 5 of a control packet, then what it does here. One of a reliable mode that fails its tag is answered by an
AUTHN, which names no FSN where the packet's type has none (log entry 62). -/
def State.checkControl (s : State) (port : Nat) (p : Packet) (ptype : BitVec 8) (modes : List Nat)
    (act : W64 → State → List Byte → State) : State :=
  if !controlFormed p ptype modes then s.countAt (some port) Port.malformedUp
  else s.routeIn port ⟨port, p.hdr, p.payload, p.tag⟩ (fun e s =>
    match s.dev.openPacket p.hdr p.payload p.tag with
    | none =>
      let s := s.countAt (some port) (fun q => { q with pauth := q.pauth + 1 })
      if p.hdr.mode = 2 then s
      else if ptype = 0x16 ∨ ptype = 0x17 ∨ ptype = 0x19 then s.answer p.hdr 0x13 (natBytes 4 1 ++ natBytes 4 p.hdr.fsn.toNat)
      else s.answer p.hdr 0x13 (natBytes 4 0)
    | some pt => act e s pt)

/-- A control packet at a port. -/
def State.receiveControl (s : State) (port : Nat) (p : Packet) (ptype : BitVec 8) (modes : List Nat)
    (act : W64 → State → List Byte → State) : State :=
  s.linkIn port p.hdr p.fecOk (fun s => s.checkControl port p ptype modes act)

def execAck (port : Nat) (p : Packet) (s : State) : Host.Outcome State Fault Refusal :=
  .next (s.receiveControl port p 0x10 [0, 1, 3] (fun _ s pt => s.onAck (some port) p.hdr pt)).bumpFree
def execSack (port : Nat) (p : Packet) (s : State) : Host.Outcome State Fault Refusal :=
  .next (s.receiveControl port p 0x11 [0, 1, 3] (fun _ s pt => s.onSack (some port) p.hdr pt)).bumpFree
def execTrimn (port : Nat) (p : Packet) (s : State) : Host.Outcome State Fault Refusal :=
  .next (s.receiveControl port p 0x12 [0, 1, 3] (fun _ s pt => s.onTrimn (some port) p.hdr pt)).bumpFree
def execAuthn (port : Nat) (p : Packet) (s : State) : Host.Outcome State Fault Refusal :=
  .next (s.receiveControl port p 0x13 [0, 1, 3] (fun _ s pt => s.onAuthn (some port) p.hdr pt)).bumpFree
def execMarker (port : Nat) (p : Packet) (s : State) : Host.Outcome State Fault Refusal :=
  .next (s.receiveControl port p 0x14 [0, 1, 2, 3] (fun _ s pt => s.onMarker (some port) p.hdr pt)).bumpFree
def execMarkack (port : Nat) (p : Packet) (s : State) : Host.Outcome State Fault Refusal :=
  .next (s.receiveControl port p 0x15 [0, 1, 2, 3] (fun _ s pt => s.onMarkack (some port) p.hdr pt)).bumpFree
def execRload (port : Nat) (p : Packet) (s : State) : Host.Outcome State Fault Refusal :=
  .next (s.receiveControl port p 0x16 [0] (fun e s pt => s.onRload (some port) e p.hdr pt)).bumpFree
def execRatom (port : Nat) (p : Packet) (s : State) : Host.Outcome State Fault Refusal :=
  .next (s.receiveControl port p 0x17 [0] (fun e s pt => s.onRatom (some port) e p.hdr pt)).bumpFree
def execCredit (port : Nat) (p : Packet) (s : State) : Host.Outcome State Fault Refusal :=
  .next (s.receiveControl port p 0x18 [0, 1, 3] (fun _ s pt => s.onCredit (some port) p.hdr pt)).bumpFree
def execSeqmsg (port : Nat) (p : Packet) (s : State) : Host.Outcome State Fault Refusal :=
  .next (s.receiveControl port p 0x19 [3] (fun _ s pt => s.onSeqmsg (some port) p.hdr pt)).bumpFree

/-- An M word has read the last byte of a leased range: what the lease held back takes effect (R171, R172). -/
def execLeaseRelease (core : CoreId) (s : State) : Host.Outcome State Fault Refusal :=
  .next (s.modCore core (fun c =>
    (c.modArch (fun a => { a with leases := a.leases.filter (fun l => decide (s.cycle < l.doneAt)) })).leaseEnds.ringDrain))

/-- The oldest held flit of a port has waited 256 ns: its packet is sent (R415). -/
def execAlignmentTimeout (port : Nat) (s : State) : Host.Outcome State Fault Refusal :=
  .next (match (s.dev.port port).outq.find? (fun o => o.held.isSome) with
    | none => s
    | some o => if o.held.getD 0 + 256 ≤ s.dtime then s.modDev (fun d => d.modPort port (fun p => p.unhold o.x.hdr)) else s)

end Sys2Proof.Machine
end

