-- ==== Sys2Proof/Machine/Sends.lean ====
section
/-! DEFINITION. Flows and sends of the transport sequencer: FLOW (R396), PUT, PUTM, REDC, GET, ATOM and XSTEP (R384,
R398, R399), RETX (R400), KEYLD and KEYSW (R401), and the events that seal and transmit flits and expire timers
(R372, R384, R397). -/

namespace Sys2Proof.Machine

open Sys2Proof

/-! ### FLOW (R396) -/

/-- The flow of an open descriptor, none when a field is out of range. -/
def flowOf (bs : List Byte) : Option (Nat × Flow) :=
  let fl := leAt bs 0x16 1
  let peer := leAt bs 4 2
  if 1023 < leAt bs 0 2 ∨ !(decide (peer < 49184) || isMcast peer) ∨ 3 < leAt bs 6 1 ∨ 3 < leAt bs 7 1 ∨ leAt bs 8 4 < 512 ∨ 16 * 2 ^ 20 < leAt bs 8 4 ∨
      leAt bs 0x10 4 < 1000 ∨ leAt bs 0x14 2 < 1 ∨ 255 < leAt bs 0x14 2 ∨ 3 < fl ∨ leAt bs 0x17 1 ≠ 0 ∨ leAt bs 0x18 8 ≠ 0 then none
  else some (leAt bs 0 2, { Flow.closed with
    st := .opened, jki := leAt bs 2 2, peer := leAt bs 4 2, mode := leAt bs 6 1, cls := leAt bs 7 1, w := leAt bs 8 4
    wlast := leAt bs 8 4, target := leAt bs 0xC 4, rto := leAt bs 0x10 4, rlim := leAt bs 0x14 2, cred := fl.testBit 0
    auto := fl.testBit 1 })

def execFlowOpen (f : SeqW) (s : State) :=
  runSeq s (fun s =>
    s.seqAt f 32 (fun a =>
      let q := s.seq
      match flowOf (q.lread a 32) with
      | none => .fault Code.reservedField
      | some (n, x) =>
        if (q.flow n).st ≠ .closed then .fault Code.reservedField
        else
          match s.binding s.cur.core q.ctx x.jki with
          | none => .fault Code.jobKeyAbsent
          | some (job, me) =>
            let s := s.modSeq (fun q =>
              { (q.setFlow n { x with id := q.opens + 1, ctx := q.ctx, job := job, myrank := me }) with opens := q.opens + 1 })
            .done s.bumpFree))

/-- A flow is freed: its operations end and its flits are discarded. -/
def Core.closeFlow (c : Core) (n : Nat) : Core :=
  let f := c.flow n
  let c := { c with hold := c.hold.filter (fun h => match h.eff with | .flit k _ => decide (k ≠ n) | _ => true) }
  c.modSeq (fun q => { (q.setFlow n Flow.closed) with ops := q.ops.filter (fun o => o.flowId ≠ f.id) })

def execFlowClose (f : SeqW) (s : State) :=
  runSeq s (fun s => .done (s.modHere (fun c => c.closeFlow ((c.arch.seq.getX f.a).toNat % 1024))))

/-- The status of a flow. The fields of a closed flow but its state are not given: free (log entry 3). -/
def State.flowStatus (s : State) (f : Flow) : List Byte :=
  if f.st = .closed then natBytes 2 0 ++ s.freeBytes 30
  else
    natBytes 2 (if f.st = .opened then 1 else 2) ++ natBytes 2 f.code.toNat ++ natBytes 2 f.authCount ++ natBytes 1 f.mode ++
      natBytes 1 0 ++ natBytes 4 f.w ++ natBytes 4 f.nextFsn ++ natBytes 4 f.oldest ++ zeroBytes 4 ++ natBytes 8 f.retx

def execFlowStat (f : SeqW) (s : State) :=
  runSeq s (fun s =>
    s.seqAt f 32 (fun a =>
      .done (s.lwrite a (s.flowStatus (s.seq.flow ((s.seq.getX f.a).toNat % 1024)))).bumpFree))

/-! ### Descriptors (R398, R413) -/

structure Desc where
  kind : Nat                   -- 1 PUT, 2 PUTM, 3 REDC, 4 GET, 5 ATOM
  addr : Nat
  len : Nat
  flow : Nat
  dcore : Nat
  obj : Nat
  chunk0 : Nat
  flags : Nat
  lsem : Nat
  asem : Nat
  ret : Nat
  opa : Nat
  opb : Nat
  grp : List Byte
  deriving DecidableEq, Repr

def descOf (kind : Nat) (bs : List Byte) : Desc :=
  { kind := kind, addr := leAt bs 0 8, len := leAt bs 8 4, flow := leAt bs 0xC 2, dcore := leAt bs 0xE 1, obj := leAt bs 0xF 1
    chunk0 := leAt bs 0x10 4, flags := leAt bs 0x14 4, lsem := leAt bs 0x18 2, asem := leAt bs 0x1A 2, ret := leAt bs 0x1C 4
    opa := leAt bs 0x20 8, opb := leAt bs 0x28 8, grp := bs.drop 0x30 }

def Desc.ssp (d : Desc) : Bool := d.flags.testBit 0
def Desc.ring (d : Desc) : Bool := d.flags.testBit 1
def Desc.op (d : Desc) : Nat := bitsOf d.flags 5 2
def Desc.gid (d : Desc) : Nat := leAt d.grp 0 2
def Desc.axes (d : Desc) : Nat := leAt d.grp 2 1

/-- The semaphore of LSEM or ASEM. -/
def semOf (w : Nat) : Option Nat := if w.testBit 15 then some (w % 256) else none

/-- The bytes of a message of a ROD flow and of a flit of another flow (log entry 65). -/
def Flow.unit (f : Flow) : Nat := if f.mode = 3 then 224 else 512

/-- Fields that make a send RESERVED_FIELD (R398, R407, R413). -/
def State.descBad (s : State) (d : Desc) (f : Flow) : Bool :=
  let g := s.dev.group d.gid
  f.st ≠ .opened || ((d.kind = 4 || d.kind = 5) && f.mode ≠ 0) || (d.ring && f.mode ≠ 2) || decide (2 ^ 56 ≤ d.addr) ||
    decide (64 ≤ d.flags) || (d.op ≠ 0 && d.kind ≠ 5) || bitsOf d.lsem 14 8 ≠ 0 || bitsOf d.asem 14 8 ≠ 0 ||
    decide (63 < d.dcore) || decide (63 < d.obj) || ((d.kind = 2 || d.kind = 3) && f.mode = 3) ||
    (if d.kind = 5 then
      !(d.len = 4 || d.len = 8 || (d.len = 16 && d.op = 15)) || (decide (8 < d.op) && d.op ≠ 15) || d.obj ≠ 0 ||
        decide (2 ^ 18 < d.ret + d.len)
     else d.len = 0 || decide (2 ^ 24 < d.len)) ||
    (if d.kind = 2 ∨ d.kind = 3 then
      decide (255 < d.gid) || g.st ≠ .active || g.myidx = 0xFFFF || decide (15 < d.axes) || decide (1 < leAt d.grp 3 1) ||
        d.grp.drop 4 ≠ zeroBytes 12 ||
        (if d.kind = 2 then d.axes = 0
         else !(d.axes = 1 || d.axes = 2 || d.axes = 4 || d.axes = 8) || leAt d.grp 3 1 ≠ 0)
     else d.grp ≠ zeroBytes 16)

/-- The checks of a send, in the order of R398; a scratchpad source and the semaphores are checked as those of any
form are (R94, R241). -/
def State.sendCheck (s : State) (d : Desc) (f : Flow) : Option (BitVec 8) :=
  let ctx := s.seq.ctx
  let semBad (w : Nat) : Bool := match semOf w with | some n => !(s.dev.ctx ctx).sema.getLsbD n | none => false
  if 1023 < d.flow ∨ s.descBad d f then some Code.reservedField
  else if d.kind = 5 ∧ (d.addr % d.len ≠ 0 ∨ d.ret % d.len ≠ 0) then some Code.misaligned
  else if (s.binding s.cur.core ctx f.jki).isNone then some Code.jobKeyAbsent
  else if semBad d.lsem ∨ semBad d.asem then some Code.privilege
  else if d.kind ≤ 3 ∧ d.ssp then s.scrRange s.cur.core ctx d.addr d.len
  else none

/-! ### Staging (R384) -/

/-- Bytes of a core's flits in staging. -/
def Core.staged (c : Core) : Nat :=
  (c.arch.seq.flows.map (fun p => 512 * (p.2.unacked.filter (fun u => u.src.isNone && u.hdr.ptype = 0x01)).length)).sum

/-- The 64 MiB store has room for n bytes of a core: within the 512 KiB that it is assured, or beyond what all cores
are assured or use. -/
def State.stagingRoom (s : State) (core : CoreId) (n : Nat) : Bool :=
  let mine := (s.core core).staged
  decide (mine + n ≤ 524288) ||
    decide ((s.cores.toList.map (fun c => max 524288 c.staged)).sum - max 524288 mine + (mine + n) ≤ 64 * 2 ^ 20)

/-- Reads a flit's source; of the own scratchpad as the T path sees it (R228). -/
def State.sourceOf (s : State) (core : CoreId) (ctx : Nat) (ssp : Bool) (a n : Nat) : Except SourceErr (List Byte × Bool) :=
  if ssp then
    .ok (((s.core core).arch.seen tReader s.cycle core.val (some s.free) 4).scrRead a n, (s.core core).arch.scrPoisoned a n)
  else s.sourceVa core ctx a n

/-- Flits that have not entered the hold queue do so while it has room (R346, R348). -/
def Core.pump (now : Nat) (c : Core) : Core :=
  let held := c.hold.filterMap (fun h => match h.eff with | .flit k n => some (k, n) | _ => none)
  let want := c.arch.seq.flows.flatMap (fun p =>
    (p.2.unacked.filter (fun u => !u.released && !held.contains (p.1, u.fsn))).map (fun u => (p.1, u.fsn)))
  let room := 2048 - c.holdUsed
  let c := (want.take room).foldl (fun (c : Core) x => c.holdEff now (.flit x.1 x.2) 1 .c c.arch.seq.pc c.cpCount 0) c
  (if room < want.length then c.producerStall panSeq else if want = [] then c else c.producerGoes panSeq).autoCp

/-- One flit of a send, staged where its source can be read and late is false. -/
def State.flitOf (s : State) (core : CoreId) (ctx : Nat) (d : Desc) (f : Flow) (need : List Nat) (drank : Nat) (late : Bool)
    (k : Nat) : Unacked × Option SourceErr :=
  let u := f.unit
  let n := min u (d.len - u * k)
  let a := d.addr + u * k
  let ringLen := min 4096 (d.len - 4096 * (k / 8))
  let h : FlitHdr := { hdrZero with
    ptype := if f.mode = 3 then 0x19 else 0x01, vc := if f.mode = 3 then 1 else BitVec.ofNat 3 (dataVc f.cls f.mode)
    mode := BitVec.ofNat 2 f.mode, job := BitVec.ofNat 24 f.job, drank := BitVec.ofNat 16 drank
    srank := BitVec.ofNat 16 f.myrank, dcore := BitVec.ofNat 6 d.dcore, score := BitVec.ofNat 6 core.val
    flow := BitVec.ofNat 10 d.flow, obj := BitVec.ofNat 6 d.obj, fsn := BitVec.ofNat 32 (f.nextFsn + k)
    fidx := if d.ring then BitVec.ofNat 3 (k % 8) else 0, fcnt := if d.ring then BitVec.ofNat 3 ((ringLen + 511) / 512 - 1) else 0
    chunk := if f.mode = 3 then 0 else if d.ring then BitVec.ofNat 32 ringLen else BitVec.ofNat 32 (d.chunk0 + k) }
  let x : Unacked := { fsn := (f.nextFsn + k) % 2 ^ 32, op := f.nextFsn, hdr := h, payload := [], src := some (d.ssp, a, n)
                       need := need, acks := [], released := false, sent := false, again := false, tries := 0, sentAt := 0, sealNo := 0, ring := d.ring }
  if late then (x, none)
  else
    match s.sourceOf core ctx d.ssp a n with
    | .error e => (x, some e)
    | .ok (bs, po) => ({ x with payload := padTo u bs, src := none, hdr := { h with pz := if po then 1 else 0 } }, none)

/-- The record of a flit whose source page does not translate; no SOPEN or CM word started it and no block gave it a TAG
(R329). -/
def sourceRecord (core : CoreId) (ctx : Nat) (e : SourceErr) : FaultRec :=
  { va := BitVec.ofNat 64 e.va, pc := 0, tag := 0, ctx := ctx, code := e.code, kind := 3, wr := false, mal := e.mal, core := core.val
    obj := 0, sect := 1 }

/-- A flit is parked: its source page does not translate (R328 to R331; log entry 66). -/
def State.parkFlit (s : State) (core : CoreId) (ctx id : Nat) (e : SourceErr) : State :=
  s.parkRecord core .c (s.core core).cpCount (.flow id) (sourceRecord core ctx e) (pageOf e.va)

/-- PUT, PUTM and REDC (R384, R398). Flits whose source does not translate are parked, with a kind-3 record for each such
page; once it is resolved they are read when they are transmitted, as with staging full (log entry 66). A source on a REMOTE
page that cannot be read faults the word (R193, R380). -/
def State.sendFlits (s : State) (w : SeqW) (d : Desc) (f : Flow) (need : List Nat) (drank : Nat) : SeqRes :=
  let core := s.cur.core
  let ctx := s.seq.ctx
  let u := f.unit
  let count := (d.len + u - 1) / u
  let late := !s.stagingRoom core (512 * count)
  let rs := (List.range count).map (fun k => ({ s with free := s.free + k } : State).flitOf core ctx d f need drank late k)
  let us := rs.map (fun r => r.1)
  let bad := rs.filterMap (fun r => r.2)
  match bad.find? (fun e => e.remote) with
  | some e => .fault e.code
  | none =>
  let staged := us.all (fun x => x.src.isNone)
  let op : TOp := { kind := d.kind, flow := d.flow, flowId := f.id, first := f.nextFsn, count := count
                    lsem := if staged then none else semOf d.lsem, asem := semOf d.asem, ret := 0, width := 0, bar := 0, chunk0 := 0, chunks := 0 }
  let s := s.modSeq (fun q =>
    let q := q.setFlow d.flow { f with nextFsn := (f.nextFsn + count) % 2 ^ 32, unacked := f.unacked ++ us }
    ({ q with ops := q.ops ++ [op] } : Seq).setX w.a (BitVec.ofNat 64 f.nextFsn))
  let s := if staged then s.modHere (fun c => match semOf d.lsem with | some n => (c.semAdd c.seqWriter n 1).autoCp | none => c) else s
  let s := bad.foldl (fun (s : State) e => s.parkFlit core ctx f.id e) s
  .done { (s.modHere (Core.pump s.cycle)) with free := s.free + count }

/-- GET and ATOM: one request (R398). -/
def State.sendRequest (s : State) (w : SeqW) (d : Desc) (f : Flow) : SeqRes :=
  let core := s.cur.core
  let h : FlitHdr := { hdrZero with
    ptype := if d.kind = 4 then 0x16 else 0x17, vc := controlVc (f.cls = 0), mode := 0, job := BitVec.ofNat 24 f.job
    drank := BitVec.ofNat 16 f.peer, srank := BitVec.ofNat 16 f.myrank, dcore := BitVec.ofNat 6 d.dcore
    score := BitVec.ofNat 6 core.val, flow := BitVec.ofNat 10 d.flow, fsn := BitVec.ofNat 32 f.nextFsn }
  let pt := if d.kind = 4 then natBytes 8 d.addr ++ natBytes 4 d.len ++ natBytes 4 d.chunk0 ++ natBytes 1 d.obj ++ zeroBytes 15
    else natBytes 8 d.addr ++ natBytes 1 d.len ++ natBytes 1 d.op ++ zeroBytes 6 ++ natBytes 8 d.opa ++ natBytes 8 d.opb
  let x : Unacked := { fsn := f.nextFsn, op := f.nextFsn, hdr := h, payload := pt, src := none, need := [f.peer], acks := []
                       released := false, sent := false, again := false, tries := 0, sentAt := 0, sealNo := 0, ring := false }
  let op : TOp := { kind := d.kind, flow := d.flow, flowId := f.id, first := f.nextFsn, count := 1, lsem := none
                    asem := semOf d.asem, ret := d.ret, width := d.len, bar := d.obj, chunk0 := d.chunk0, chunks := (d.len + 511) / 512 }
  let s := s.modSeq (fun q =>
    let q := q.setFlow d.flow { f with nextFsn := (f.nextFsn + 1) % 2 ^ 32, unacked := f.unacked ++ [x] }
    ({ q with ops := q.ops ++ [op] } : Seq).setX w.a (BitVec.ofNat 64 f.nextFsn))
  let s := s.modHere (fun c => match semOf d.lsem with | some n => (c.semAdd c.seqWriter n 1).autoCp | none => c)
  .done (s.modHere (Core.pump s.cycle))

/-- An operation of R398. -/
def State.operate (s : State) (w : SeqW) (d : Desc) : SeqRes :=
  let f := s.seq.flow d.flow
  match s.sendCheck d f with
  | some code => .fault code
  | none =>
    if 4 ≤ d.kind then s.sendRequest w d f
    else if d.kind = 2 then
      let g := s.dev.group d.gid
      let ks := g.members g.myidx d.axes
      let ks := if leAt d.grp 3 1 = 1 then ks.filter (fun k => k ≠ g.myidx) else ks
      s.sendFlits w d f (ks.map (s.dev.rankOf g)) (mcastAddr d.gid d.axes)
    else s.sendFlits w d f [f.peer] f.peer

/-- A form whose descriptor stands at ea. -/
def sendForm (kind : Nat) (f : SeqW) (s : State) : Host.Outcome State Fault Refusal :=
  runSeq s (fun s => s.seqAt f 64 (fun a => s.operate f (descOf kind (s.seq.lread a 64))))

def execPut (f : SeqW) (s : State) := sendForm 1 f s
def execPutm (f : SeqW) (s : State) := sendForm 2 f s
def execRedc (f : SeqW) (s : State) := sendForm 3 f s
def execGet (f : SeqW) (s : State) := sendForm 4 f s
def execAtom (f : SeqW) (s : State) := sendForm 5 f s

/-- A step record's F[7:6] names the form (R399). -/
def execXstep (f : SeqW) (s : State) :=
  runSeq s (fun s => s.seqAt f 64 (fun a =>
    let bs := s.seq.lread a 64
    let k := bitsOf (leAt bs 0x14 4) 7 6
    if k = 0 then .fault Code.reservedField
    else
      let d := descOf k bs
      s.operate f { d with flags := d.flags - 64 * k }))

/-! ### RETX (R400) -/

def execRetx (f : SeqW) (s : State) :=
  runSeq s (fun s =>
    let q := s.seq
    let n := (q.getX f.a).toNat % 1024
    let base := (q.getX f.b).toNat % 2 ^ 32
    let y := q.y f
    if (q.flow n).st ≠ .opened then .fault Code.reservedField
    else
      let fsns := ((List.range 64).filter (fun i => y.getLsbD i)).map (fun i => (base + i) % 2 ^ 32)
      .done (s.modHere (fun c => c.sendAgain s.dtime s.cur.core.val n fsns)))

/-! ### Keys (R375, R401) -/

/-- Runs a form on the job key that binding x[a] names. -/
def State.withJob (s : State) (w : SeqW) (k : Nat → Nat → SeqRes) : SeqRes :=
  match s.binding s.cur.core s.seq.ctx (s.seq.getX w.a).toNat with
  | none => .fault Code.jobKeyAbsent
  | some (job, me) => k job me

def execKeyld (f : SeqW) (s : State) :=
  runSeq s (fun s =>
    s.seqAt f 32 (fun a =>
      s.withJob f (fun job _ =>
        let n := f.f.toNat % 2
        let x := (s.dev.jobKey job).slot n
        if x.st = .loaded ∨ x.st = .current ∨ x.st = .next then .done (s.modSeq (fun q => q.setX f.c 0))
        else
          let y : KeySlot := { st := .loaded, key := s.seq.lread a 32, ivc := 0, klim := s.arch.klim.toNat
                               kwarn := s.arch.kwarn.toNat, loader := s.cur.core.val, await := [] }
          let s := s.modDev (fun d =>
            let d := d.modSlot job n (fun _ => y)
            let k := d.jobKey job
            d.setJobKey (if k.use = some n then { k with use := none } else k))
          .done ((s.modSeq (fun q => q.setX f.c 1)).bumpFree))))

/-- Peer devices with an open flow of a job key, each with the lowest such flow: the flow that its MARKER goes on (R375). A
multicast address is no peer device (log entry 67). -/
def State.jobPeers (s : State) (job : Nat) : List MarkWait :=
  let all : List MarkWait := (List.finRange 64).flatMap (fun (k : CoreId) =>
    ((s.core k).arch.seq.flows.filter (fun p => p.2.st = .opened && p.2.job = job && !isMcast p.2.peer &&
      p.2.peer ≠ Config.rank)).map (fun p => ⟨p.2.peer, k.val, p.1, 0, 0⟩))
  all.foldl (fun ws w => if ws.any (fun v => v.rank = w.rank) then ws else ws ++ [w]) []

/-- A MARKER of phase n, sealed under the CURRENT slot; with none, under the slot that it names (log entry 67). None when
neither may seal. -/
def State.sealMarker (s : State) (job me n : Nat) (w : MarkWait) : Option Sent × State :=
  let k := s.dev.jobKey job
  let o := (n + 1) % 2
  let slot := if (k.slot o).st = .current then o else n
  if (k.slot slot).left = 0 then (none, s)
  else
    let h : FlitHdr := { hdrZero with
      ptype := 0x14, vc := 1, mode := BitVec.ofNat 2 ((s.core (coreId w.core)).flow w.flow).mode, fcnt := 1, job := BitVec.ofNat 24 job
      drank := BitVec.ofNat 16 w.rank, srank := BitVec.ofNat 16 me, score := BitVec.ofNat 6 w.core, flow := BitVec.ofNat 10 w.flow }
    let (x, s) := s.sealUnder slot h (padTo 32 (natBytes 4 n ++ natBytes 4 job))
    (some x, s)

/-- MARKERs leave, and wait for their MARKACKs from now on. -/
def State.sendMarkers (s : State) (job n : Nat) (xs : List Sent) : State :=
  let s := xs.foldl (fun (s : State) x =>
    if s.dev.mayInject x.hdr then s.sendOn (s.way x.hdr false 0) none x else s.membershipDrop (coreId x.hdr.score.toNat) x.hdr) s
  s.modDev (fun d => d.modSlot job n (fun x => { x with await := x.await.map (fun w => { w with sentAt := s.dtime }) }))

/-- A LOADED slot goes NEXT and seals every later flit, and a MARKER goes to every peer; the MARKERs wait in the Pan as sends do
(R10, R235; log entry 141). With no peer every MARKACK has been received. -/
def State.keySwitch (s : State) (job me n : Nat) : State :=
  let peers := s.jobPeers job
  if peers = [] then (s.modDev (fun d => d.setJobKey ((d.jobKey job).switch n (· = .current)))).pumpControl job
  else
    let s := s.modDev (fun d =>
      let d := d.modSlot job n (fun x => { x with st := .next, await := peers })
      d.setJobKey { (d.jobKey job) with use := some n })
    let out := peers.foldl (fun (acc : List Sent × State) w =>
      let (x, s) := acc.2.sealMarker job me n w
      (acc.1 ++ x.toList, s)) ([], s)
    (out.2.modHere (fun c => (c.holdEff s.cycle (.keySwitch job n out.1) 1 .c c.arch.seq.pc c.cpCount 0).autoCp)).pumpControl job

def execKeysw (f : SeqW) (s : State) :=
  runSeq s (fun s =>
    s.withJob f (fun job me =>
      let n := f.f.toNat % 2
      if ((s.dev.jobKey job).slot n).st ≠ .loaded then .done (s.modSeq (fun q => q.setX f.c 0))
      else .done ((s.keySwitch job me n).modSeq (fun q => q.setX f.c 1))))

/-! ### Transmission (R372, R378, R384, R397) -/

/-- Payload bytes of a flit, message or request. -/
def Unacked.size (u : Unacked) : Nat := if u.hdr.ptype = 0x01 then 512 else if u.src.isSome then 224 else u.payload.length

/-- Bytes of a flow that are sent and not acknowledged. -/
def Flow.outstanding (f : Flow) : Nat := ((f.unacked.filter (fun u => u.sent)).map Unacked.size).sum

/-- New bytes that the window and the credit allow (R378). -/
def Flow.room (f : Flow) : Nat :=
  if f.mode = 2 then 4096
  else
    let w := f.w - f.outstanding
    if f.cred then min w f.credit else w

/-- The leading flits of a list that make one packet: consecutive ones of one operation, at most 8, whose headers differ only in
FIDX and FSN (R371). -/
def onePacket (us : List Unacked) : List Unacked :=
  match us with
  | [] => []
  | u :: _ =>
    if u.hdr.ptype ≠ 0x01 then [u]
    else if u.ring then us.take (u.hdr.fcnt.toNat + 1)
    else ((us.zipIdx.takeWhile (fun v => v.1.op = u.op && v.1.fsn = (u.fsn + v.2) % 2 ^ 32)).map (fun v => v.1)).take 8

/-- The packet that a flow would send next: flits to be sent again come first, then new ones in order once their
commit point has sealed and within the window. -/
def Flow.nextPacket (f : Flow) : List Unacked :=
  let again := f.unacked.filter (fun u => u.again)
  if again ≠ [] then onePacket again
  else
    let new := (f.unacked.filter (fun u => !u.sent)).takeWhile (fun u => u.released)
    match onePacket new with
    | [] => []
    | u :: us =>
      if u.ring then (if us.length = u.hdr.fcnt.toNat then u :: us else [])
      else if u.hdr.ptype ≠ 0x01 then (if f.mode = 2 ∨ u.size ≤ f.room then [u] else [])
      else (u :: us).take (f.room / 512)

/-- A flow of a core with a packet to send, and no event of it waiting at its port (R390). -/
def Core.canSend (c : Core) (n : Nat) (f : Flow) : Bool :=
  f.st = .opened && f.nextPacket ≠ [] && !c.arch.seq.evwaitq.any (fun e => e.ofFlow && e.flow = n)

/-- The payload of a flit: its staging copy, or its source as it stands (R384); none while a record of its page is not
resolved (R331), and none when the page does not translate. -/
def State.payloadOf (s : State) (core : CoreId) (f : Flow) (u : Unacked) : Option (FlitHdr × List Byte) :=
  match u.src with
  | none => some (u.hdr, u.payload)
  | some (ssp, a, n) =>
    if !ssp && [a, a + n - 1].any (fun b => s.recordLives core (.flow f.id) (pageOf b)) then none
    else
      match s.sourceOf core f.ctx ssp a n with
      | .error _ => none
      | .ok (bs, po) => some ({ u.hdr with pz := if po then 1 else 0 }, padTo f.unit bs)

/-- The flits of one packet with their payloads: as many of those given as can be read, and for a barrier as share PZ; a ring's
packet carries poison if any flit of it does (R354, R371). -/
def State.packetOf (s : State) (core : CoreId) (f : Flow) (us : List Unacked) : List (Unacked × FlitHdr × List Byte) :=
  let ps := (us.zipIdx.map (fun u =>
    (({ s with free := s.free + u.2 } : State).payloadOf core f u.1).map (fun p => (u.1, p.1, p.2)))).takeWhile (fun p => p.isSome)
  match ps.filterMap id with
  | [] => []
  | (u, h, b) :: ps =>
    if u.ring then
      let all := (u, h, b) :: ps
      if ps.length = h.fcnt.toNat then
        let pz : BitVec 1 := if all.any (fun p => p.2.1.pz = 1) then 1 else 0
        all.map (fun p => (p.1, { p.2.1 with pz := pz }, p.2.2))
      else []
    else (u, h, b) :: ps.takeWhile (fun p => p.2.1.pz = h.pz)

/-- Headers of the flits of one packet: to a barrier, each has the first one's CHUNK, and its FIDX (R371). -/
def packetHdrs (hs : List (FlitHdr × List Byte)) (ring : Bool) : List (FlitHdr × List Byte) :=
  match hs with
  | [] => []
  | (h0, _) :: _ =>
    hs.zipIdx.map (fun (p : (FlitHdr × List Byte) × Nat) =>
      let h := p.1.1
      if h.ptype ≠ 0x01 then ({ h with fcnt := BitVec.ofNat 3 (p.1.2.length / 32) }, p.1.2)
      else if ring then p.1
      else ({ h with fidx := BitVec.ofNat 3 p.2, fcnt := BitVec.ofNat 3 (hs.length - 1), chunk := h0.chunk }, p.1.2))

/-- Marks flits as sealed under a slot and sent; a flit of an unreliable flow is then done with. -/
def Core.markSent (c : Core) (now n slot : Nat) (fsns : List Nat) (fresh : Bool) : Core :=
  let f := c.flow n
  let mine (u : Unacked) : Bool := fsns.contains u.fsn
  let us := f.unacked.map (fun (u : Unacked) =>
    if mine u then { u with sent := true, again := false, sentAt := now, sealNo := f.seals + 1, hdr := { u.hdr with kp := BitVec.ofNat 1 slot } }
    else u)
  let us := if f.mode = 2 then us.filter (fun u => !u.sent) else us
  let used := if fresh then ((f.unacked.filter mine).map Unacked.size).sum else 0
  (c.setFlow n { f with unacked := us, seals := f.seals + 1, credit := f.credit - used }).settleOps

/-- A packet of this device to itself: its data reach the barrier or ring, its message or request is answered here, and the old
value of its atomic comes back at once (R398). -/
def State.arriveLocal (s : State) (u : Unacked) (h : FlitHdr) (bs : List Byte) : State :=
  match s.dev.memberOf h.job.toNat with
  | none => s
  | some e =>
    if !memberDx e then s
    else
      match h.ptype.toNat with
      | 0x01 => s.arriveData none e u.ring h bs
      | 0x16 => s.onRload none e h bs
      | 0x17 =>
        let core := coreId h.score.toNat
        match s.ratomPerform e h bs, (s.core core).arch.seq.ops.find? (fun o => o.kind = 5 && o.flow = h.flow.toNat && o.first = h.fsn.toNat) with
        | (some old, s), some o => s.modCore core (fun c => c.atomDone o old)
        | (_, s), _ => s
      | _ => s.onSeqmsg none h bs

/-- A multicast packet at the port that injects it (R414): a copy to each next hop, and the loopback to this device, which is
accepted once the group is JOINED (R407). An entry that is DISSOLVED drops it. -/
def State.sendCopies (s : State) (slot : Nat) (ps : List (Unacked × FlitHdr × List Byte)) : State :=
  ps.foldl (fun (s : State) p =>
    let (x, s) := s.sealUnder slot p.2.1 p.2.2
    let drop (s : State) : State := s.countAt ((p.1.need.filter (· ≠ Config.rank)).head?.bind (fun r => (s.dev.mcastPorts r).head?)) Port.memberUp
    match s.mcastSet p.2.1.drank.toNat Config.rank with
    | none => drop s
    | some (g, ds) =>
      let s := s.copyOn none x (s.dev.beyond Config.rank none ds)
      if !p.1.need.contains Config.rank then s else if g.st = .defined then drop s else s.arriveLocal p.1 p.2.1 p.2.2) s

/-- Seals the flits of a packet under one slot and sends them on one way; a packet to this device arrives at once. -/
def State.sendPacket (s : State) (slot : Nat) (express : Bool) (ps : List (Unacked × FlitHdr × List Byte)) : State :=
  match ps with
  | [] => s
  | (_, h0, _) :: _ =>
    if isMcast h0.drank.toNat then s.sendCopies slot ps
    else if h0.drank.toNat = Config.rank then
      ps.foldl (fun (s : State) p => ((s.sealUnder slot p.2.1 p.2.2).2).arriveLocal p.1 p.2.1 p.2.2) s
    else
      let way := s.way h0 express 0
      ps.foldl (fun (s : State) p =>
        let (x, s) := s.sealUnder slot p.2.1 p.2.2
        s.sendOn way none x) s

/-- A flit that cannot be read now is parked, unless it is so already; one whose source lies on a REMOTE page that cannot be
read faults the flow (R193, R380). -/
def State.parkLate (s : State) (core : CoreId) (n : Nat) (us : List Unacked) : State :=
  let f := (s.core core).flow n
  match us with
  | [] => s
  | u :: _ =>
    match u.src with
    | none => s
    | some (ssp, a, k) =>
      match s.sourceOf core f.ctx ssp a k with
      | .ok _ => s
      | .error e =>
        if e.remote then s.modCore core (fun c => c.flowFault s.dtime core.val n e.code 0x04 f.peer none f.oldest 0 0)
        else s.parkFlit core f.ctx f.id e

/-- No slot can seal a flow's packet, and none will: its command faults, which KEY_LIMIT reports to the core that loaded the
key (R375, R386). -/
def State.keyExhausted (s : State) (core : CoreId) (n : Nat) (key : JobKey) : State :=
  let i := key.use.getD 0
  let x := key.slot i
  let f := (s.core core).flow n
  let to_ := if x.st = .empty then core else coreId x.loader
  (s.modCore core (fun c => c.flowStops core.val n Code.keyExhausted)).modCore to_ (fun c =>
    c.flowEvent s.dtime n 0x08 Code.keyExhausted f.peer none i 0 0 x.ivc)

/-- Seals the next packet of flow n of a core and hands it to its port (R372, R384, R397). -/
def State.transmit (s : State) (core : CoreId) (n : Nat) : State :=
  let c := s.core core
  let f := c.flow n
  let us := f.nextPacket
  let fresh := us.all (fun u => !u.again)
  match s.packetOf core f us with
  | [] => s.parkLate core n us
  | (u0, h0, b0) :: rest =>
    let ps := (u0, h0, b0) :: rest
    if !s.dev.mayInject h0 then (s.setCore core (c.markSent s.dtime n 0 (us.map (fun u => u.fsn)) fresh)).membershipDrop core h0
    else
      let key := s.dev.jobKey f.job
      match key.sealing (if u0.ring then ps.length else 1) with
      | none => if key.mayWait then s else s.keyExhausted core n key
      | some slot =>
        let ps := ps.take (key.slot slot).left
        let express := f.cls = 0
        if h0.drank.toNat ≠ Config.rank ∧ !isMcast h0.drank.toNat ∧ s.way h0 express 0 = .nowhere then s
        else
          let hs := packetHdrs (ps.map (fun p => p.2)) u0.ring
          let s := s.setCore core (c.markSent s.dtime n slot (ps.map (fun p => p.1.fsn)) fresh)
          s.sendPacket slot express ((ps.zip hs).map (fun p => (p.1.1, p.2)))

/-! ### What a port transmits (R295, R377) -/

/-- The class that a channel stands for; control packets that are not EXPRESS compete as HIGH (log entry 156). -/
def vcClass (vc : Nat) : Nat := if vc = 0 ∨ vc = 2 then 0 else if vc = 1 ∨ vc = 3 then 1 else if vc ≤ 5 then 2 else 3

/-- EXPRESS grants of a port in a window of 4,096 uncore cycles: a sixteenth of the flits of 560 bytes that its lanes or
wavelengths carry in it (R13, R295; log entry 153). -/
def Port.cap (p : Port) (num : Nat) : Nat := p.active * (if num < 31 then 25 else 8) * 4096 * 260 / (533 * 560 * 16)

/-- The next flit or control packet that a port grants, and the port after the grant: first those on a channel that it has
shed (R367), then the oldest of the class that R295 gives. A control packet takes a grant for each of its flits. -/
def Port.next (p : Port) (num win : Nat) : Option (OutFlit × Port) :=
  let ready := p.outq.filter (fun o => o.held.isNone)
  let take (o : OutFlit) (w : Walker) : OutFlit × Port := (o, { p with outq := p.outq.erase o, arb := w })
  match ready.find? (fun o => !decide (o.x.hdr.vc.toNat ≤ 1 + p.dataVcs num)) with
  | some o => some (take o p.arb)
  | none =>
    let cls (o : OutFlit) : Nat := vcClass o.x.hdr.vc.toNat
    match p.arb.choose (p.cap num) win (ready.map cls) with
    | none => none
    | some (k, w) =>
      (ready.find? (fun o => p.arb.eff (p.cap num) win (cls o) = k)).map (fun o =>
        take o ((List.range (hdrFlits o.x.hdr - 1)).foldl (fun (w : Walker) _ => w.grant win k) w))

/-- A port that carries packets transmits its next flit (R295). -/
def State.portSend (s : State) (num : Nat) : State :=
  if !s.dev.carries num then s
  else
    match (s.dev.port num).next num (s.uncore / 4096) with
    | none => s
    | some (o, p) => { (s.modDev (fun d => d.modPort num (fun _ => p))) with wire := s.wire ++ [o.x] }

/-- A core's next packet is sealed and handed to its port, of the flows that have one freely chosen; or a port transmits the
next flit that waits there (R295, R384). -/
def execFlitTransmit (src : TxSrc) (s : State) : Host.Outcome State Fault Refusal :=
  .next (match src with
    | .port p => s.portSend p
    | .core core =>
      let c := s.core core
      match s.pick 14 ((c.arch.seq.flows.filter (fun p => c.canSend p.1 p.2)).map (fun p => p.1)) with
      | none => s
      | some n => { (s.transmit core n) with free := s.free + 8 })

/-! ### Timeouts (R372, R375, R397) -/

/-- A MARKER that a flow has sent has no MARKACK when its timeout expires: TIMEOUT is posted and, with AUTO, the MARKER is sealed
and sent again, up to the flow's retry limit (R375, R397). -/
def State.markerTimeout (s : State) (core : CoreId) (n : Nat) : State :=
  let f := (s.core core).flow n
  let held (job i : Nat) : Bool := s.cores.toList.any (fun c => c.hold.any (fun h => match h.eff with | .keySwitch j k _ => j = job && k = i | _ => false))
  let one (s : State) (i : Nat) (x : KeySlot) : State :=
    match x.await.find? (fun w => w.core = core.val && w.flow = n && decide (w.sentAt + f.rto ≤ s.dtime)) with
    | none => s
    | some w =>
      if x.st ≠ .next ∨ held f.job i ∨ ((s.core core).flow n).st ≠ .opened then s
      else if f.auto ∧ f.rlim ≤ w.tries then
        s.modCore core (fun c => c.flowFault s.dtime core.val n Code.deliveryTimeout 0x04 f.peer none f.oldest w.tries 0)
      else
        let again (v : MarkWait) : MarkWait := if v = w then { v with sentAt := s.dtime, tries := if f.auto then v.tries + 1 else v.tries } else v
        let s := s.modDev (fun d => d.modSlot f.job i (fun y => { y with await := y.await.map again }))
        let s := s.modCore core (fun c => c.flowEvent s.dtime n 0x04 0 w.rank none (f.kpOf f.oldest) f.oldest w.tries 0)
        if !f.auto then s
        else
          match s.sealMarker f.job f.myrank i w with
          | (some y, s) => s.sendOn (s.way y.hdr false 0) none y
          | (none, s) => s
  let k := s.dev.jobKey f.job
  one (one s 0 k.s0) 1 k.s1

/-- The timeout of a reliable flow's oldest unacknowledged flit expires, or that of its MARKER (R372, R397). -/
def execRetransmitTimeout (core : CoreId) (flow fsn : Nat) (s : State) : Host.Outcome State Fault Refusal :=
  let c := s.core core
  let n := flow % 1024
  let f := c.flow n
  let late (u : Unacked) : Bool :=
    f.st = .opened && f.mode ≠ 2 && u.fsn = fsn && decide (u.sentAt + f.rto ≤ s.dtime) && !u.again
  .next (match (f.unacked.find? (fun u => u.sent)).filter late with
    | none => s.markerTimeout core n
    | some u =>
      if f.auto ∧ f.rlim ≤ u.tries then s.setCore core (c.sendAgain s.dtime core.val n [u.fsn])
      else
        let c := c.setFlow n { f with unacked := f.unacked.map (fun (v : Unacked) => if v.fsn = u.fsn then { v with sentAt := s.dtime } else v) }
        let c := c.flowEvent s.dtime n 0x04 0 f.peer none u.hdr.kp.toNat u.fsn u.tries 0
        s.setCore core (if f.auto then c.sendAgain s.dtime core.val n [u.fsn] else c))

end Sys2Proof.Machine
end

