-- ==== Sys2Proof/Machine/Ports.lean ====
section
/-! DEFINITION. Link states of the ports (R366 to R368, R386): losses, training and draining. -/

namespace Sys2Proof.Machine

open Sys2Proof

/-- State codes of R386; TRAINING is 1, UP 2. -/
def LinkSt.code : LinkSt → Nat
  | .down => 0 | .training => 1 | .up => 2 | .degraded => 3 | .draining => 4 | .failed => 5

/-- The width that a count of good lanes or wavelengths gives, 0 below the minimum (R366). -/
def portWidth (num good : Nat) : Nat :=
  if num < 31 then (if 8 ≤ good then 8 else if 4 ≤ good then 4 else if 2 ≤ good then 2 else 0)
  else if 4 ≤ good then min 32 good else 0

/-- The LINK_STATE event of a port, to each core of its mask (R386). -/
def State.linkEvent (s : State) (num : Nat) (old : LinkSt) : State :=
  let p := s.dev.port num
  let n := if p.blocks < 4 then 0 else p.dataVcs num
  (List.range 64).foldl (fun (s : State) k =>
    if p.evmask.getLsbD k then
      s.modCore (coreId k) (fun c => c.raise
        { evt := 0x09, code := 0, flow := 0, peer := 0, port := BitVec.ofNat 8 num, flg := 0, fsn0 := 0, fsn1 := 0
          arg := BitVec.ofNat 64 (p.st.code + 2 ^ 8 * old.code + 2 ^ 16 * p.active + 2 ^ 24 * n), time := BitVec.ofNat 64 s.dtime })
    else s) s

/-- Replaces a port; a change of state, or of width or n of a DEGRADED port, sends LINK_STATE (R367). -/
def State.setPort (s : State) (num : Nat) (q : Port) : State :=
  let p := s.dev.port num
  let s := s.modDev (fun d => d.modPort num (fun _ => q))
  if 79 ≤ num then s
  else if p.st ≠ q.st ∨ (q.st = .degraded ∧ (p.active ≠ q.active ∨ p.dataVcs num ≠ q.dataVcs num)) then s.linkEvent num p.st
  else s

/-- The state of a working port of a width with its blocks in service (R367, R368). -/
def workingState (num width : Nat) (p : Port) : LinkSt :=
  if width = 0 ∨ p.blocks < 4 then .failed
  else if width = portFull num ∧ p.retired = 0 then .up else .degraded

def execLaneLoss (port lost : Nat) (s : State) : Host.Outcome State Fault Refusal :=
  .next (let p := s.dev.port port
    if lost = 0 ∨ !(p.st = .up ∨ p.st = .degraded) then s
    else
      let good := p.active - lost
      let w := portWidth port good
      s.setPort port { p with active := if w = 0 then good else w, st := workingState port w p })

/-- A block is retired until device reset, whatever the state of the link (R366). -/
def execBlockRetire (port : Nat) (s : State) : Host.Outcome State Fault Refusal :=
  .next (let p := s.dev.port port
    let q := { p with retired := min 64 (p.retired + 1) }
    if p.st = .up ∨ p.st = .degraded then s.setPort port { q with st := workingState port q.active q }
    else s.setPort port q)

/-- Training takes the widest width whose lanes or wavelengths all pass. Whether both ends have negotiated link-level retry and
flow control of the link is free (R369; log entry 155). -/
def execTrainingDone (port passing : Nat) (s : State) : Host.Outcome State Fault Refusal :=
  .next (let p := s.dev.port port
    if p.st ≠ .training then s
    else
      let w := portWidth port passing
      (s.setPort port { p with active := if w = 0 then min passing (portFull port) else w, st := workingState port w p
                               llr := Config.freeBool s.free 16, lfc := Config.freeBool s.free 17 }).bumpFree)

def execTrainingTimeout (port : Nat) (s : State) : Host.Outcome State Fault Refusal :=
  .next (let p := s.dev.port port
    if p.st = .training ∧ p.since + 10000000 ≤ s.dtime then s.setPort port { p with st := .failed } else s)

/-- Nothing is buffered at a port in either direction: nothing waits to leave there, and nothing that came in there waits to
leave elsewhere. -/
def Dev.emptied (d : Dev) (port : Nat) : Bool :=
  (d.port port).outq.isEmpty && d.ports.toList.all (fun p => p.outq.all (fun o => o.inp ≠ some port))

/-- Drops what is buffered at a port in both directions, counted there (R367). -/
def Dev.dropBuffered (d : Dev) (port : Nat) : Dev :=
  let mine (num : Nat) (o : OutFlit) : Bool := num = port || o.inp = some port
  let gone := d.ports.toList.zipIdx.flatMap (fun p => p.1.outq.filter (mine p.2))
  let n := ((gone.map (fun o => hdrFlits o.x.hdr)).sum : Nat)
  let ps := d.ports.mapIdx (fun k p => { p with outq := p.outq.filter (fun o => !mine k o) })
  ({ d with ports := ps } : Dev).modPort port (fun p => { p with pshed := p.pshed + BitVec.ofNat 64 n })

def execLinkDrainDone (port : Nat) (s : State) : Host.Outcome State Fault Refusal :=
  .next (let p := s.dev.port port
    if p.st = .draining ∧ s.dev.emptied port then s.setPort port { p with st := .down } else s)

end Sys2Proof.Machine
end

