-- ==== Sys2Proof/Machine/Release.lean ====
section
/-! DEFINITION. Sealed effects leave the Pan and are performed (R235, R274, R336, R346), and what the Assay unit
logs of them (R359 to R361). -/

namespace Sys2Proof.Machine

open Sys2Proof

/-! ### Signatures (R361) -/

/-- The addresses, places and bytes of a held write: of a copy sector, each unit's; otherwise one run. -/
def State.writeRuns (s : State) (core : CoreId) (h : Held) : List (Nat × Place × List Byte) :=
  match h.eff with
  | .write (.command id) sec _ ps _ =>
    match (s.core core).cmd id with
    | some x => ((x.units sec).map (fun b => endAddr false (x.ends b).2)).zip ps
    | none => []
  | .write _ _ _ ps _ =>
    (ps.foldl (fun (r : Nat × List (Nat × Place × List Byte)) p => (r.1 + p.2.length, r.2 ++ [(r.1, p)])) (h.va, [])).2
  | _ => []

/-- One entry of a signature: its address, 64 bytes and mask. -/
def sigEntry (a : W64) (bs : List Byte) (mask : W64) : W64 :=
  mix64 ((List.range 8).foldl (fun (h : W64) q => mix64 (h ^^^ leW64 bs (8 * q))) a ^^^ mask)

/-- The entries of written runs, one per 64-byte unit. -/
def sigWrites (rs : List (Nat × List Byte)) : W64 :=
  let bytes : List (Nat × Byte) := rs.flatMap (fun r => r.2.zipIdx.map (fun b => (r.1 + b.2, b.1)))
  (bytes.map (fun b => b.1 / 64)).eraseDups.foldl (fun (t : W64) u =>
    let mine := bytes.filter (fun b => b.1 / 64 = u)
    let bs := mine.foldl (fun (l : List Byte) b => overlay l (b.1 % 64) [b.2]) (zeroBytes 64)
    let mask := mine.foldl (fun (m : W64) b => setBit m (b.1 % 64) true) 0
    t + sigEntry (BitVec.ofNat 64 (64 * u)) bs mask) 0

/-- The target and value of another effect, as bytes. -/
def Eff.image : Eff → List Byte
  | .signal k m n => natBytes 1 k ++ natBytes 1 m ++ natBytes 4 n
  | .qentry k q r bs _ _ => natBytes 1 k ++ natBytes 1 q ++ natBytes 1 r ++ bs
  | .cmo _ sec ps => natBytes 8 sec ++ ps.flatMap (fun p => natBytes 1 p.kind ++ natBytes 8 p.pa)
  | .rmw _ sec ps _ => natBytes 8 sec ++ ps.flatMap (fun p => natBytes 1 p.1.kind ++ natBytes 8 p.1.pa ++ p.2)
  | .flit n fsn => natBytes 4 n ++ natBytes 4 fsn
  | .record _ r _ _ _ => r.bytes 0
  | .keySwitch job n _ => natBytes 4 job ++ natBytes 1 n
  | .write _ _ _ _ _ => []

/-- What a sealed effect adds to a signature. -/
def State.sigOf (s : State) (core : CoreId) (h : Held) : W64 :=
  match h.eff with
  | .write _ _ _ _ _ => sigWrites ((s.writeRuns core h).map (fun r => (r.1, r.2.2)))
  | e => sigEntry 0 (natBytes 8 (Config.effWord e.image).toNat ++ zeroBytes 56) 0xFF

/-- Adds a run to a log of extents, joined to the last one where it continues it. -/
def addExtent (xs : List (Nat × Place × Nat)) (r : Nat × Place × List Byte) : List (Nat × Place × Nat) :=
  match xs.getLast? with
  | some (va, p, n) =>
    if va + n = r.1 ∧ p.kind = r.2.1.kind ∧ p.kind ≠ 3 ∧ p.pa + n = r.2.1.pa then xs.dropLast ++ [(va, p, n + r.2.2.length)]
    else xs ++ [(r.1, r.2.1, r.2.2.length)]
  | none => [(r.1, r.2.1, r.2.2.length)]

/-- The Assay unit notes a sealed effect of a task that it logs; a log of more than 4,096 extents ends the audit. -/
def State.logEffect (s : State) (core : CoreId) (h : Held) : State :=
  match (s.core core).task with
  | none => s
  | some t =>
    if !(t.audited || t.replay) || !(s.core core).madeHere core h then s
    else
      let t' := { t with sig := t.sig + s.sigOf core h, extents := if t.audited then (s.writeRuns core h).foldl addExtent t.extents else [] }
      let s := s.modCore core (fun c => { c with task := some t' })
      if 4096 < t'.extents.length then s.abandonAudit core else s

/-! ### Performing an effect -/

/-- A record with its interrupt is a release at SYSTEM scope of all that the core has performed or acquired (R233). -/
def State.irqHeld (s : State) (core : CoreId) (d : Fin 2) : Bool :=
  !s.dev.frings[d].own && !s.performed 4 (fun w => w.covered core s.dev.wseq)

/-- The head of the hold queue may leave: the commit point that covers it has sealed, or nothing of the core can be
rolled back; an entry of a ring waits while its slot is leased, and an interrupt for what it releases. -/
def State.mayLeave (s : State) (core : CoreId) (h : Held) : Bool :=
  let c := s.core core
  c.restart.isNone && (c.region = .idle || (match h.cover with | some n => c.cpSealed n | none => false)) &&
    (match h.eff with
     | .qentry k q r _ _ _ =>
       let t := (s.core (coreId k)).arch
       q ≠ 3 || !t.leased ((t.ring r).slotAddr (t.ring r).pub) (t.ring r).slot
     | .record d _ _ _ _ => !s.irqHeld core d
     | _ => true)

/-- Pool lines of a write to a region that is not ONLINE. -/
def Dev.lostLines (d : Dev) (ps : List (Place × List Byte)) : List Nat :=
  ((ps.filter (fun p => d.lostPlace p.1)).flatMap (fun p =>
    let off := p.1.pa - d.pwbase.toNat
    (List.range (unitsTouched off p.2.length)).map (fun k => off / 64 + k))).eraseDups

/-- A sealed queue entry reaches its target (R274). A ring slot is published, its reservation ends, and the entry's
signal follows. -/
def State.deliverHeld (s : State) (core : CoreId) (h : Held) (k q ring : Nat) (bs : List Byte) (sg : WaitSig) (cls : Nat) : State :=
  let s := s.deliver core (coreId k) (if q = 3 then 3 + ring else q) bs sg cls h.ctx h.fromTh h.pc false
  if q = 3 then (s.unreserve k q ring).signalSealed core sg else s

/-- Performs a sealed effect. A write that reaches a lost region when no command awaits it is discarded and reported (R336). -/
def State.performEffect (s : State) (core : CoreId) (h : Held) : State :=
  match h.eff with
  | .write o pos pol ps po =>
    let awaited := match o with | .command id => ((s.core core).cmd id).isSome | _ => false
    (if awaited then s else s.reportLate (s.dev.lostLines ps)).performWrite core h o pos pol ps po
  | .rmw id sec ps po => s.performRmw core h id sec ps po
  | .cmo id sec ps => s.performCmo core id sec ps h.va
  | .flit n fsn => s.modCore core (fun c => c.modFlow n (fun f =>
      { f with unacked := f.unacked.map (fun (u : Unacked) => if u.fsn = fsn then { u with released := true } else u) }))
  | .record d r o page det => s.reportAs d r o page det
  | .keySwitch job n xs => s.sendMarkers job n xs
  | .signal k m n =>
    (s.signalArrives core h.id k m).modCore (coreId k) (fun c => (c.semAdd .outside m (BitVec.ofNat 32 n)).autoCp)
  | .qentry k q r bs sg cls => s.deliverHeld core h k q r bs sg cls

/-- An effect of a replay is discarded without being performed; its command goes on (R360). -/
def State.skipEffect (s : State) (core : CoreId) (h : Held) : State :=
  let past (id sec : Nat) (credit : Bool) : State :=
    match (s.core core).cmd id with
    | none => s
    | some x =>
      let dsts := (x.units sec).map (fun b => endAddr false (x.ends b).2)
      (s.modCore core (fun c => ((if credit then c.applyCredit core x h.va (c.creditOf x sec dsts) else c).modCmd id (fun y =>
        { y with doneSecs := sec :: y.doneSecs, heldSecs := y.heldSecs.filter (· ≠ sec) })))).settle core
  match h.eff with
  | .write (.command id) sec _ _ _ => past id sec true
  | .cmo id sec _ => past id sec false
  | .qentry k q r _ _ _ => s.unreserve k q r
  | _ => s

/-- The effect at the head of the hold queue leaves when it may; flits that wait for room in the queue enter it. -/
def State.releaseHead (s : State) (core : CoreId) : State :=
  let s :=
    match (s.core core).hold with
    | [] => s
    | h :: rest =>
      if !s.mayLeave core h then
        (match h.eff with | .record d _ _ _ _ => if s.irqHeld core d then s.askFlush core 4 (fun w => w.covered core s.dev.wseq) else s | _ => s)
      else
        let skip := (match (s.core core).task with | some t => t.replay | none => false) && (s.core core).madeHere core h && !h.fatal
        let s := s.logEffect core h
        let s := s.modCore core (fun c => { c with hold := rest })
        if skip then s.skipEffect core h else s.performEffect core h
  s.modCore core (Core.pump s.cycle)

def execHeldEffectRelease (core : CoreId) (s : State) : Host.Outcome State Fault Refusal := .next (s.releaseHead core).finishInval.bumpFree

end Sys2Proof.Machine
end

