-- ==== Sys2Proof/Machine/Mailbox.lean ====
section
/-! DEFINITION. The command mailbox (R423, R424) and its commands: contexts (R301, R302), pre-emption (R311),
invalidation (R338), links (R367), pool regions (R334), groups (R407) and attestation (R433). -/

namespace Sys2Proof.Machine

open Sys2Proof

/-! ### The mailbox (R423) -/

/-- A command completes. -/
def State.cmdDone (s : State) (code : BitVec 8) : State :=
  (s.modDev (fun d => { d with cmdBusy := none, cmdCode := code })).irq s.dev.cmdvec

/-- A write of CMD: ignored and counted as LOST while a command is pending. A command that completes at once answers
with its code; another answers none and leaves the mailbox BUSY. -/
def State.command (s : State) (c : Cmd) (eff : State → Option (BitVec 8) × State) : State :=
  let s := s.modDev (fun d => { d with cmdarg := c.arg })
  if s.dev.cmdBusy.isSome then s.modDev (fun d => { d with cmdLost := true })
  else
    match eff s with
    | (some code, t) => t.cmdDone code
    | (none, t) => t

/-- A command with a target number below a limit. -/
def withTgt (c : Cmd) (n : Nat) (eff : Nat → State → BitVec 8 × State) (s : State) : Option (BitVec 8) × State :=
  if n ≤ c.tgt.toNat then (some Code.reservedField, s)
  else let (code, t) := eff c.tgt.toNat s; (some code, t)

/-! ### Contexts (R301, R302) -/

/-- The context of a record, when the record is valid. -/
def ctxOf (b : List Byte) : Option Ctx :=
  let root := leAt b 0 8
  let keep := leAt b 0x24 4
  let kb := bitsOf keep 6 0
  let ks := bitsOf keep 14 8
  let hsize := leAt b 0x20 4
  if root % 2 ^ 16 = 0 ∧ root < 2 ^ 52 ∧ leAt b 0x0A 2 ≤ 1023 ∧ leAt b 0x0C 4 = 0 ∧ leAt b 0x18 8 % 2 ^ 16 = 0 ∧ hsize % 4096 = 0 ∧
      8192 ≤ hsize ∧ keep < 2 ^ 15 ∧ keep.testBit 7 = false ∧ kb + ks ≤ 128 ∧ leAt b 0x5A 6 = 0 ∧ leAt b 0x68 4 ≤ 1024 ∧
      leAt b 0x6C 20 = 0 then
    some
      { Ctx.free with
        st := .built, root := root, asid := leAt b 8 2, tvec := leW64 b 0x10, hamper := leAt b 0x18 8, hsize := hsize
        kbase := kb, ksize := ks, cores := leW64 b 0x28, sema := BitVec.ofNat 256 (leAt b 0x30 32), bara := leW64 b 0x50
        ringa := BitVec.ofNat 16 (leAt b 0x58 2), jktab := leAt b 0x60 8, njk := leAt b 0x68 4 }
  else none

/-- BUILD: the record at ARG in HBM names the context. -/
def State.build (s : State) (arg : Nat) : BitVec 8 × State :=
  if arg % 64 ≠ 0 ∨ Config.hbmBytes < arg + 128 then (Code.reservedField, s)
  else
    let b := Store.run 0 s.dev.hbm arg 128
    let n := leAt b 0x0A 2
    match ctxOf b with
    | none => (Code.reservedField, s)
    | some x => if (s.dev.ctx n).st ≠ .free then (Code.reservedField, s) else (0, s.modDev (fun d => d.setCtx n x))

/-- Two contexts claim an object or a KEEP byte in common. -/
def Ctx.clash (x y : Ctx) : Bool :=
  x.sema &&& y.sema ≠ 0 || x.bara &&& y.bara ≠ 0 || x.ringa &&& y.ringa ≠ 0 ||
    (decide (0 < x.ksize) && decide (0 < y.ksize) && decide (x.kbase < y.kbase + y.ksize) && decide (y.kbase < x.kbase + x.ksize))

/-- Every enabled core of the set has room for the context (R302). -/
def Dev.roomFor (d : Dev) (n : Nat) (x : Ctx) : Bool :=
  (List.range 64).all (fun k =>
    !(x.cores.getLsbD k && d.cemask.getLsbD k) ||
      (let there := (d.ctxs.filter (fun p => p.1 ≠ n && p.2.residentOn (coreId k))).map (fun p => p.2)
       decide (there.length < 8) && !there.any x.clash))

/-- Semaphores with zero counts, barriers IDLE, rings CLOSED, where a context has them (R241, R302). -/
def freshSems (x : Ctx) (v : Vector W32 256) : Vector W32 256 :=
  Vector.ofFn (fun (k : Fin 256) => if x.sema.getLsbD k.val then 0 else v[k])
def freshBars (x : Ctx) (v : Vector Bar 64) : Vector Bar 64 :=
  Vector.ofFn (fun (k : Fin 64) => if x.bara.getLsbD k.val then Bar.reset else v[k])
def freshRings (x : Ctx) (v : Vector Ring 16) : Vector Ring 16 :=
  Vector.ofFn (fun (k : Fin 16) => if x.ringa.getLsbD k.val then Ring.reset else v[k])

/-- A context takes or gives up its objects on a core. -/
def Core.freshObjects (c : Core) (x : Ctx) : Core :=
  let c := { c with heldPlace := c.heldPlace.filter (fun p => !x.bara.getLsbD p.bar), ringIn := c.ringIn.filter (fun p => !x.ringa.getLsbD p.ring) }
  match c.real with
  | some r =>
    ({ c with real := some { r with sems := freshSems x r.sems, bars := freshBars x r.bars } } : Core).keep
      (fun a => { a with rings := freshRings x a.rings })
  | none => c.keep (fun a => { a with sems := freshSems x a.sems, bars := freshBars x a.bars, rings := freshRings x a.rings })

/-- On every core where a context is resident its objects become fresh. -/
def State.freshObjects (s : State) (x : Ctx) : State :=
  (List.range 64).foldl (fun (s : State) k =>
    if x.cores.getLsbD k ∧ s.dev.cemask.getLsbD k then
      (s.modCore (coreId k) (fun c => c.freshObjects x)).modDev (fun d =>
        { d with red := d.red.filter (fun e => !(e.core = k && x.bara.getLsbD e.bar)) })
    else s) s

def State.reside (s : State) (n : Nat) : BitVec 8 × State :=
  let x := s.dev.ctx n
  if x.st ≠ .built ∨ !s.dev.roomFor n x then (Code.reservedField, s)
  else (0, (s.freshObjects x).modDev (fun d => d.setCtx n { x with st := .resident }))

/-- CLEAR: cores of faulted tile tasks become free, those whose fatal record still waits when it is posted (R330). -/
def State.clearCtx (s : State) (n : Nat) : BitVec 8 × State :=
  let x := s.dev.ctx n
  if x.st ≠ .faulted then (Code.reservedField, s)
  else
    let waits (k : CoreId) : Bool := (s.dev.frings[dieOf k]).waiting.any (fun w => w.1.kind = 4 && w.1.core = k.val) ||
      (s.core k).hold.any Held.fatal
    let s := s.modDev (fun d => d.setCtx n { x with st := .resident })
    let s := (List.range 64).foldl (fun (s : State) j =>
      let k := coreId j
      match (s.core k).task with
      | some t => if t.ctx = n ∧ t.st = .faulted ∧ !waits k then s.clearTask k else s
      | none => s) s
    (0, s.settleCtx n)

/-! ### Teardown (R302) -/

/-- Performs what the core holds sealed, in order. -/
def State.flushSealed (core : CoreId) : Nat → State → State
  | 0, s => s
  | fuel + 1, s =>
    match (s.core core).hold with
    | [] => s
    | h :: _ => if s.mayLeave core h then State.flushSealed core fuel (s.releaseHead core) else s

/-- The read-modify-writes of a context's commands that have left the Pan are performed. -/
def State.flushRmws (s : State) (core : CoreId) (ctx : Nat) : State :=
  ((s.core core).xq.filter (fun x => x.ctx = ctx && x.rmw.isSome)).foldl (fun (s : State) x => (s.rmwHome core x.id).bumpFree) s

/-- The sequencer without the routine, entries and flows of a context. The next routine, whatever its context,
finds every byte beyond its own cleared (R389). -/
def Seq.without (q : Seq) (ctx : Nat) : Seq :=
  let ends := match q.routine with | some r => r.ctx = ctx | none => false
  { q with
    startq := q.startq.filter (fun r => r.ctx ≠ ctx), cmdq := q.cmdq.filter (fun t => t.ctx ≠ ctx)
    flows := q.flows.filter (fun p => p.2.ctx ≠ ctx), routine := if ends then none else q.routine
    running := q.running && !ends, stallSince := if ends then none else q.stallSince
    lastCtx := if q.lastCtx = some ctx then none else q.lastCtx }

/-- Whether a held effect belongs to a context: to its tile task on the core, or to one of its commands. -/
def Core.heldBy (c : Core) (core : CoreId) (ctx : Nat) (h : Held) : Bool :=
  let cmd (id : Nat) : Bool := match c.cmd id with | some x => x.ctx = ctx | none => false
  (c.task.isSome && c.ctx = ctx && c.madeHere core h) ||
    (match h.eff with
     | .write (.command id) _ _ _ _ => cmd id
     | .rmw id _ _ _ => cmd id
     | .cmo id _ _ => cmd id
     | .keySwitch _ _ _ => h.ctx = ctx
     | _ => false)

/-- A core without a context: its tile tasks, commands, routine and flows. An AtomicOp on the host bus is let
finish, without its signal. -/
def Core.without (c : Core) (ctx : Nat) : Core :=
  let c := (c.arch.seq.flows.filter (fun p => p.2.ctx = ctx)).foldl (fun (c : Core) p => c.closeFlow p.1) c
  let c := c.keep (fun a => { a with seq := a.seq.without ctx })
  let left (x : XCmd) : Bool := x.ctx ≠ ctx || (match x.rmw with | some p => p.kind = 2 | none => false)
  let xq := (c.xq.filter left).map (fun (x : XCmd) => if x.ctx = ctx then { x with sig := { x.sig with se := false }, bundle := none } else x)
  let c : Core := { c with xq := xq, saved := c.saved.filter (fun v => v.task.ctx ≠ ctx), lastCtx := if c.lastCtx = some ctx then none else c.lastCtx }
  if c.task.isSome ∧ c.ctx = ctx then c.vacate else c

/-- One core gives up a context. -/
def State.leaveCore (s : State) (core : CoreId) (ctx : Nat) : State :=
  let c := s.core core
  let s := if c.hold.any (c.heldBy core ctx) then State.flushSealed core 2049 s else s
  let s := s.flushRmws core ctx
  let c := s.core core
  let s := s.discard core (fun h => c.unsealed h && c.heldBy core ctx h)
  s.modCore core (fun c => c.without ctx)

/-- A group is dissolved: its bindings and open entries go (R407). -/
def State.dissolve (s : State) (gid : Nat) : State :=
  let bound (b : Bar) : Bool := match b.red with | some r => r.gid = gid | none => false
  let loose (v : Vector Bar 64) : Vector Bar 64 := v.map (fun (b : Bar) => if bound b then { b with red := none } else b)
  let red := s.dev.red.filter (fun e => !bound ((s.core (coreId e.core)).realArch.bar e.bar))
  { s with
    dev := { (s.dev.setGroup gid Group.none) with red := red }
    cores := s.cores.map (fun (c : Core) =>
      ({ c with real := c.real.map (fun (r : SyncFile) => { r with bars := loose r.bars }) } : Core).keep (fun a => { a with bars := loose a.bars })) }

/-- Job keys of a context: those that a membership entry gives to it (R375, R379). -/
def Dev.keysOf (d : Dev) (ctx : Nat) (k : JobKey) : Bool :=
  match d.memberOf k.job with | some e => memberCtx e = ctx | none => false

/-- The device's tables without a context. -/
def Dev.without (d : Dev) (ctx : Nat) : Dev :=
  let d := (List.range 16).foldl (fun (d : Dev) r =>
    let q := d.hring ctx r
    d.setHring ctx r { q.setEn false with st := .disabled, expect := [], turn := 0, bell := false }) d
  { d with bundles := d.bundles.filter (fun b => b.ctx ≠ ctx), audits := d.audits.filter (fun a => a.b.ctx ≠ ctx)
           keys := d.keys.filter (fun k => !d.keysOf ctx k)
           ctlq := d.ctlq.filter (fun x => !d.keysOf ctx (d.jobKey x.1.job.toNat)) }

def State.teardown (s : State) (n : Nat) : Option (BitVec 8) × State :=
  let x := s.dev.ctx n
  if x.st = .free ∨ x.st = .tornDown then (some Code.reservedField, s)
  else
    let s := (List.range 64).foldl (fun (s : State) k => s.leaveCore (coreId k) n) s
    let s := if x.st = .built then s else s.freshObjects x
    let s := (s.dev.groups.filter (fun p => p.2.ctx = n)).foldl (fun (s : State) p => s.dissolve p.1) s
    let s := s.modDev (fun d => { ((d.without n).setCtx n { Ctx.free with st := .tornDown, root := x.root, asid := x.asid }) with
      cmdBusy := some (0x04, n) })
    (none, s.invalidate ⟨some x.asid, none⟩)

def execBuild (c : Cmd) (s : State) : Host.Outcome State Fault Refusal :=
  .next (s.command c (fun s => let (code, t) := s.build c.arg.toNat; (some code, t)))
def execReside (c : Cmd) (s : State) : Host.Outcome State Fault Refusal :=
  .next (s.command c (fun s => let (code, t) := s.reside c.ctx.toNat; (some code, t)))
def execClear (c : Cmd) (s : State) : Host.Outcome State Fault Refusal :=
  .next (s.command c (fun s => let (code, t) := s.clearCtx c.ctx.toNat; (some code, t)))
def execTeardown (c : Cmd) (s : State) : Host.Outcome State Fault Refusal :=
  .next (s.command c (fun s => s.teardown c.ctx.toNat))

/-- The invalidation that a teardown started retires: the context is FREE and the command completes (R302, R424). -/
def execTeardownComplete (ctx : Nat) (s : State) : Host.Outcome State Fault Refusal :=
  .next (let x := s.dev.ctx ctx
    if x.st = .tornDown ∧ s.dev.cmdBusy = some (0x04, ctx) ∧ s.invDone ⟨some x.asid, none⟩ s.dev.wseq then
      (s.modDev (fun d => d.setCtx ctx Ctx.free)).cmdDone 0
    else s)

/-! ### Pre-emption and invalidation (R311, R424) -/

/-- PREEMPT: the beneficiary is the bundle of context CTX whose record is at ARG. -/
def State.preemptCmd (s : State) (c : Cmd) (n : Nat) : BitVec 8 × State :=
  match s.dev.bundles.find? (fun b => b.ctx = c.ctx.toNat && b.addr = c.arg.toNat) with
  | none => (Code.reservedField, s)
  | some b =>
    let (t, ok) := s.latch (coreId n) b
    if ok then (0, t) else (Code.reservedField, s)

def execPreempt (c : Cmd) (s : State) : Host.Outcome State Fault Refusal :=
  .next (s.command c (withTgt c 64 (fun n s => s.preemptCmd c n)))

/-- INVAL: it completes when no access uses a removed translation any more. -/
def State.inval (s : State) (c : Cmd) : Option (BitVec 8) × State :=
  let n := if c.arg.getLsbD 0 then 65536 else c.tgt.toNat
  let v : InvSet := ⟨if n < 65536 then some n else none, none⟩
  let t := s.invalidate v
  if t.invDone v t.dev.wseq then (some 0, t) else (none, t.modDev (fun d => { d with cmdBusy := some (0x06, n) }))

def execInval (c : Cmd) (s : State) : Host.Outcome State Fault Refusal := .next (s.command c (fun s => s.inval c))

/-! ### Links (R367) -/

def State.linkEnable (n : Nat) (s : State) : BitVec 8 × State :=
  let p := s.dev.port n
  (0, if p.st = .down then s.setPort n { p with st := .training, since := s.dtime } else s)

def State.linkDrain (n : Nat) (s : State) : BitVec 8 × State :=
  let p := s.dev.port n
  (0, if p.st = .up ∨ p.st = .degraded then s.setPort n { p with st := .draining } else s)

/-- A retrain restores full width or not, as the lanes do; with no retired block the port is then UP. -/
def State.linkRetrain (n : Nat) (s : State) : BitVec 8 × State :=
  let p := s.dev.port n
  (0, if p.st = .degraded ∧ p.retired = 0 ∧ Config.freeBool s.free n then
        (s.setPort n { p with st := .up, active := portFull n }).bumpFree
      else s.bumpFree)

def State.linkDisable (n : Nat) (s : State) : BitVec 8 × State :=
  let p := s.dev.port n
  (0, if p.st = .down then s
      else
        let s := s.modDev (fun d => d.dropBuffered n)
        s.setPort n { (s.dev.port n) with st := .down })

def execLinkEnable (c : Cmd) (s : State) : Host.Outcome State Fault Refusal := .next (s.command c (withTgt c 79 State.linkEnable))
def execLinkDrain (c : Cmd) (s : State) : Host.Outcome State Fault Refusal := .next (s.command c (withTgt c 79 State.linkDrain))
def execLinkRetrain (c : Cmd) (s : State) : Host.Outcome State Fault Refusal := .next (s.command c (withTgt c 79 State.linkRetrain))
def execLinkDisable (c : Cmd) (s : State) : Host.Outcome State Fault Refusal := .next (s.command c (withTgt c 79 State.linkDisable))

/-! ### Pool regions (R334, R430) -/

/-- FENCE: dirty lines go home and no line of the region stays. -/
def State.regionFence (n : Nat) (s : State) : BitVec 8 × State :=
  let r := s.dev.region n
  if r.st = 2 then (0, s)
  else
    let mine := (s.dev.lines.filter (fun p => p.line / 2 ^ 24 = n)).map (fun p => p.line)
    (0, s.modDev (fun d =>
      let d := mine.foldl (fun (d : Dev) l => (d.cleanLine l).dropLine l) d
      { d with regions := Store.set regionDefault d.regions n { r with st := 2 } }))

/-- ONLINE: from FENCED, with the link of its port up and an HDM-DB decoder behind it. -/
def State.regionOnline (n : Nat) (s : State) : BitVec 8 × State :=
  let r := s.dev.region n
  let up := s.dev.cxlUp[r.port % 4]'(Nat.mod_lt r.port (by decide))
  if r.st = 0 then (0, s)
  else if r.st = 2 ∧ up ∧ Config.hdmDb n then
    (0, s.modDev (fun d => { d with regions := Store.set regionDefault d.regions n { r with st := 0 } }))
  else (Code.poolRegionLost, s)

def execRegionFence (c : Cmd) (s : State) : Host.Outcome State Fault Refusal := .next (s.command c (withTgt c 4096 State.regionFence))
def execRegionOnline (c : Cmd) (s : State) : Host.Outcome State Fault Refusal := .next (s.command c (withTgt c 4096 State.regionOnline))

/-! ### Groups (R405, R407) -/

/-- The entry of a DEFINE, when it is valid. -/
def groupOf (b : List Byte) : Option Group :=
  let g : Group :=
    { st := .defined, nax := leAt b 1 1, myidx := leAt b 2 2, job := leAt b 4 4, size := (List.range 4).map (fun a => leAt b (8 + 2 * a) 2)
      rtab := leAt b 0x10 8, ctx := leAt b 0x18 2 }
  if 1 ≤ g.nax ∧ g.nax ≤ 4 ∧ g.job < 2 ^ 24 ∧
      (List.range 4).all (fun a => decide (1 ≤ g.axis a) && decide (g.axis a ≤ 256) && (decide (a < g.nax) || g.axis a = 1)) ∧
      g.count ≤ 49184 ∧ (g.myidx < g.count ∨ g.myidx = 0xFFFF) ∧ g.rtab % 64 = 0 ∧ g.rtab + 2 * g.count ≤ Config.hbmBytes ∧
      g.ctx ≤ 1023 ∧ leAt b 0x1A 6 = 0 then some g
  else none

def State.groupDefine (arg n : Nat) (s : State) : BitVec 8 × State :=
  if (s.dev.group n).st ≠ .dissolved then (0, s)
  else if Config.hbmBytes < arg + 32 then (Code.reservedField, s)
  else
    match groupOf (Store.run 0 s.dev.hbm arg 32) with
    | none => (Code.reservedField, s)
    | some g => (0, s.modDev (fun d => d.setGroup n g))

def State.setGroupSt (s : State) (n : Nat) (st : GroupSt) : State := s.modDev (fun d => d.setGroup n { d.group n with st := st })

def State.groupJoin (n : Nat) (s : State) : BitVec 8 × State :=
  let g := s.dev.group n
  if g.st ≠ .defined then (0, s)
  else
    match s.dev.memberOf g.job with
    | some e => if memberDx e then (0, s.setGroupSt n .joined) else (Code.jobKeyAbsent, s)
    | none => (Code.jobKeyAbsent, s)

/-- ACTIVATE and RESUME. -/
def State.groupActivate (n : Nat) (s : State) : BitVec 8 × State :=
  let g := s.dev.group n
  (0, if g.st = .joined ∨ g.st = .suspended then s.setGroupSt n .active else s)

def State.groupSuspend (n : Nat) (s : State) : BitVec 8 × State :=
  (0, if (s.dev.group n).st = .active then s.setGroupSt n .suspended else s)

def State.groupDissolve (n : Nat) (s : State) : BitVec 8 × State :=
  (0, if (s.dev.group n).st = .dissolved then s else s.dissolve n)

def execGroupDefine (c : Cmd) (s : State) : Host.Outcome State Fault Refusal :=
  .next (s.command c (withTgt c 256 (State.groupDefine c.arg.toNat)))
def execGroupJoin (c : Cmd) (s : State) : Host.Outcome State Fault Refusal := .next (s.command c (withTgt c 256 State.groupJoin))
def execGroupActivate (c : Cmd) (s : State) : Host.Outcome State Fault Refusal := .next (s.command c (withTgt c 256 State.groupActivate))
def execGroupResume (c : Cmd) (s : State) : Host.Outcome State Fault Refusal :=
  .next (s.command c (withTgt c 256 (fun n s => s.groupActivate n)))
def execGroupSuspend (c : Cmd) (s : State) : Host.Outcome State Fault Refusal := .next (s.command c (withTgt c 256 State.groupSuspend))
def execGroupDissolve (c : Cmd) (s : State) : Host.Outcome State Fault Refusal := .next (s.command c (withTgt c 256 State.groupDissolve))

/-! ### Attestation (R433) -/

/-- The 168 signed bytes of a report. -/
def Dev.attestBody (d : Dev) (nonce : List Byte) : List Byte :=
  natBytes 4 1 ++ natBytes 4 (if Config.skoiq56 then 56 else 64) ++ (List.range 16).map (Config.attestByte []) ++ nonce ++
    natBytes 8 d.cemask.toNat ++ [d.clusterPass] ++ zeroBytes 7 ++ (List.range 96).map (fun k => Config.attestByte [] (16 + k))

def State.attest (s : State) (arg : Nat) : BitVec 8 × State :=
  if Config.hbmBytes < arg + 2988 then (Code.reservedField, s)
  else if s.dev.sigsLeft = 0 then (Code.keyExhausted, s)
  else
    let body := s.dev.attestBody (Store.run 0 s.dev.hbm arg 32)
    let sig := (List.range 2820).map (Config.attestByte (body ++ natBytes 4 s.dev.sigsLeft))
    (0, s.modDev (fun d => { (d.writePlace ⟨0, arg, 0, 0⟩ 0 (body ++ sig) false) with sigsLeft := d.sigsLeft - 1 }))

def execAttest (c : Cmd) (s : State) : Host.Outcome State Fault Refusal :=
  .next (s.command c (fun s => let (code, t) := s.attest c.arg.toNat; (some code, t)))

end Sys2Proof.Machine
end

