-- ==== Sys2Proof/Machine/Host.lean ====
section
/-! DEFINITION. What the host does to the device: BAR registers (R421, R422), BAR4 (R426), monitors (R435), freeze
and read-out (R434), resets and boot (R432), throttling (R11, R436). -/

namespace Sys2Proof.Machine

open Sys2Proof

/-! ### Outcomes as states -/

/-- The state after an event that cannot stop. -/
def afterEvent (s : State) : Host.Outcome State Fault Refusal → State
  | .next t => t
  | _ => s

/-! ### Monitors (R435) -/

def Dev.monitor (d : Dev) (m : Nat) : Monitor := if h : m < 32 then d.monitors[m] else Monitor.reset
def Dev.modMonitor (d : Dev) (m : Nat) (f : Monitor → Monitor) : Dev :=
  if h : m < 32 then { d with monitors := d.monitors.set m (f d.monitors[m]) } else d

def Monitor.cleared (m : Monitor) : Monitor := { m with mn := 0xFFFFFFFF, mx := 0, bins := [] }

/-- The bin of a sample. -/
def sampleBin (v : Nat) : Nat := if v = 0 then 0 else min 31 (Nat.log2 v + 1)

def Monitor.take (m : Monitor) (v : Nat) : Monitor :=
  let w := BitVec.ofNat 32 (min v 0xFFFFFFFF)
  let k := sampleBin v
  { m with mn := if w.toNat < m.mn.toNat then w else m.mn, mx := if m.mx.toNat < w.toNat then w else m.mx
           bins := Store.set 0 m.bins k (min (2 ^ 32 - 1) (Store.get 0 m.bins k + 1)) }

/-- What a monitor samples: the level of a unit, every 1,024 uncore cycles, or the latency in ns that the unit has
measured; none for a source or unit that counts nothing. -/
def State.sampleOf (s : State) (mon latency : Nat) : Option Nat :=
  let m := s.dev.monitor mon
  let c := s.core (coreId (mon / 16 * 32 + m.unit % 32))
  let due := decide (m.unit < 32) && decide (s.uncore % 1024 = 0)
  match m.src with
  | 1 | 2 => if m.unit < 32 then some latency else none
  | 3 => if m.unit < 79 then some latency else none
  | 4 => if due then some c.queuedX else none
  | 5 => if due then some c.holdUsed else none
  | 6 => if due then some c.shadUsed else none
  | 7 => if m.unit < 6 then some latency else none
  | _ => none

def execMonitorSample (mon value : Nat) (s : State) : Host.Outcome State Fault Refusal :=
  .next (if !(s.dev.monitor mon).en then s
    else
      match s.sampleOf mon value with
      | none => s
      | some v => s.modDev (fun d => d.modMonitor mon (fun m => m.take v)))

def execMonitorClear (mon : Nat) (s : State) : Host.Outcome State Fault Refusal :=
  .next (if s.ready then s.modDev (fun d => d.modMonitor mon Monitor.cleared) else s)

/-! ### BAR4 (R426) -/

/-- The n bytes at an offset of BAR4 lie in the window and in HBM, and the device answers. -/
def State.window (s : State) (off n : Nat) : Bool :=
  s.ready && decide (off + n ≤ 2 ^ 36) && decide (s.dev.hwin.toNat + off + n ≤ Config.hbmBytes)

/-- The atomic unit of an H access: all of a naturally aligned one of up to 16 bytes, 16 bytes of a longer one, else a byte
(R229). -/
def hUnit (a n : Nat) : Nat :=
  if 16 ≤ n then (if a % 16 = 0 then 16 else 1) else if (n = 1 ∨ n = 2 ∨ n = 4 ∨ n = 8) ∧ a % n = 0 then 16 else 1

def execBar4Write (off : Nat) (bytes : List Byte) (s : State) : Host.Outcome State Fault Refusal :=
  .next (if s.window off bytes.length then
      s.modDev (fun d => d.writePlace ⟨0, d.hwin.toNat + off, 0, 0⟩ 0 bytes false
        { Author.other with unit := hUnit (d.hwin.toNat + off) bytes.length, at_ := s.cycle + 1 })
    else s)

/-- What the parts of an H read find: of the writes of the read's own cycle, each part sees some (R229). -/
def State.hRead (s : State) (a n : Nat) : List Byte :=
  let p : Place := ⟨0, a, 0, 0⟩
  let ws := s.dev.wlog.filter (fun w => w.au.at_ = s.cycle + 1 && w.meets p n)
  if ws.isEmpty then s.dev.readPlace p n
  else (s.dev.readPlace p n).zipIdx.map (fun b => missed s.free (hUnit a n) (a + b.2) ws b.1)

/-- A read of device memory answers its bytes, with the marks of poison (R355). -/
def execBar4Read (off len : Nat) (s : State) : Host.Outcome State Fault Refusal :=
  let a := s.dev.hwin.toNat + off
  .next ({ s with resp := s.resp ++
    [if s.window off len then some (s.hRead a len, s.dev.placePoison ⟨0, a, 0, 0⟩ len) else none] } : State).bumpFree

/-! ### Freeze and read-out (R434) -/

def State.freeze (s : State) : State := s.modDev (fun d => { d with frozen := true })

def execFrz (s : State) : Host.Outcome State Fault Refusal := .next s.freeze
def execFreezeN (s : State) : Host.Outcome State Fault Refusal := .next s.freeze

/-- A read of n bytes of SCANDATA from byte o on: of the word, and on to the next. -/
def State.scanRead (s : State) (o n : Nat) : State :=
  let d := s.dev
  { s with dev := { d with scanWord := (d.scanWord + 1) % 2 ^ 48 }
           resp := s.resp ++ [some (((natBytes 8 (Config.scanWord d.scanChain d.scanWord s.free).toNat).drop o).take n, false)] }

def execScandata (s : State) : Host.Outcome State Fault Refusal := .next (if s.dev.frozen || s.ready then s.scanRead 0 8 else s)

/-! ### Resets and boot (R432) -/

/-- The device after a reset: as after power-on, in self-test. What lies outside the device stays: host memory and
the memory devices behind the CXL ports; so do the signatures that are left (R433), and the model's own records. -/
def State.restart (s : State) : State :=
  { State.reset with
    agenda := s.agenda, free := s.free, irqs := s.irqs, wire := s.wire, resp := s.resp
    dev := { Dev.reset with boot := 1, host := s.dev.host, pool := s.dev.pool, poolP := s.dev.poolP, cxlUp := s.dev.cxlUp
                            sigsLeft := s.dev.sigsLeft, cemask := s.dev.cemask, clusterPass := s.dev.clusterPass } }

def execPowerOn (s : State) : Host.Outcome State Fault Refusal := .next s.restart
def execFundamentalReset (s : State) : Host.Outcome State Fault Refusal := .next s.restart
def execWarmResetRequest (s : State) : Host.Outcome State Fault Refusal := .next s.restart
def execWrstN (s : State) : Host.Outcome State Fault Refusal := .next s.restart
def execHotReset (s : State) : Host.Outcome State Fault Refusal := .next s.restart
def execSecondaryBusReset (s : State) : Host.Outcome State Fault Refusal := .next s.restart

/-- Self-test has ended with a pass bit per cluster; the cores of a failed cluster are not enabled (R363). -/
def execBootWaitfw (pass : BitVec 8) (s : State) : Host.Outcome State Fault Refusal :=
  .next (if 2 ≤ s.dev.boot then s
    else
      let mask : W64 := (List.range 64).foldl (fun (m : W64) k => setBit m k (Config.cemask.getLsbD k && pass.getLsbD (k / 8))) 0
      s.modDev (fun d => { d with boot := 2, clusterPass := pass, cemask := mask }))

/-- The firmware checks and the Chaperones of the enabled cores start at its address, or the device has FAILED. -/
def execFirmwareCheck (ok : Bool) (s : State) : Host.Outcome State Fault Refusal :=
  .next (if s.dev.boot ≠ 2 then s
    else if !ok then s.modDev (fun d => { d with boot := 4 })
    else
      let s := s.modDev (fun d => { d with boot := 3 })
      (List.range 64).foldl (fun (s : State) k =>
        if s.dev.cemask.getLsbD k then
          s.modCore (coreId k) (fun c => c.keep (fun a =>
            { a with chap := { Eng.reset true with pc := s.dev.fwAddr, run := .run, arrived := true } }))
        else s) s)

def execThrottling (on : Bool) (s : State) : Host.Outcome State Fault Refusal := .next (s.modDev (fun d => { d with throttled := on }))

/-! ### BAR0 registers (R421) -/

def wordOf (b : Bool) (n : Nat) : Nat := if b then 2 ^ n else 0

/-- The identity page. -/
def State.idRead (s : State) (o : Nat) : W64 :=
  let d := s.dev
  match o with
  | 0x08 => d.cemask
  | 0x10 => d.dstrk
  | 0x18 => BitVec.ofNat 64 d.boot
  | 0x20 => d.hwin
  | 0x30 => d.fwAddr
  | 0x38 => d.fwLen
  | 0x40 => if d.frozen then 1 else 0
  | 0x80 => d.pwrlim
  | 0x88 => Config.powerReading s.free
  | 0x90 => Config.powerReading (s.free + 1)
  | _ => 0

/-- The mailbox. -/
def Dev.cmdRead (d : Dev) (o : Nat) : W64 :=
  match o with
  | 0x00 => d.cmdarg
  | 0x10 => BitVec.ofNat 64 (wordOf d.cmdBusy.isSome 63 + wordOf d.cmdLost 62 + d.cmdCode.toNat)
  | 0x18 => BitVec.ofNat 64 d.cmdvec
  | _ => 0

def FaultRing.read (r : FaultRing) (o : Nat) : W64 :=
  match o with
  | 0x00 => r.base
  | 0x08 => BitVec.ofNat 64 (r.logn * 2 ^ 20 + wordOf r.own 17 + wordOf r.en 16 + r.vec)
  | 0x10 => BitVec.ofNat 64 r.prod
  | 0x18 => BitVec.ofNat 64 r.cons
  | _ => 0

def Dev.assayRead (d : Dev) (o : Nat) : W64 :=
  match o with
  | 0x00 => BitVec.ofNat 64 (wordOf d.asyEn 8 + d.asyK)
  | 0x08 => d.audseq
  | 0x10 => d.samp ++ d.mtch ++ d.mism ++ d.aban
  | 0x18 => d.suspect
  | _ => 0

def Dev.proxyRead (d : Dev) (o : Nat) : W64 :=
  match o with
  | 0x00 => d.pxbase
  | 0x08 => BitVec.ofNat 64 (wordOf d.pxen 31 + d.pxlogn * 2 ^ 11 + d.pxvec)
  | 0x10 => BitVec.ofNat 64 d.pxtmo
  | 0x18 => BitVec.ofNat 64 d.pxprod
  | 0x20 => BitVec.ofNat 64 (wordOf d.pxok 63 + d.pxseq.toNat)
  | _ => 0

def Core.regRead (c : Core) (o : Nat) : W64 :=
  match o with
  | 0x00 => c.rgroll ++ c.rgstrk
  | 0x08 => c.rgdisc ++ c.rgrec
  | 0x10 => c.sigdrop.zeroExtend 64
  | _ => 0

/-- PSTATE, PEVMASK and the counters of a port. -/
def Port.read (p : Port) (num o : Nat) : W64 :=
  match o with
  | 0x00 => BitVec.ofNat 64 (p.st.code + p.active * 2 ^ 8 + (if p.blocks < 4 then 0 else p.dataVcs num) * 2 ^ 16)
  | 0x08 => p.evmask
  | 0x10 => p.plerr
  | 0x18 => p.pauth
  | 0x20 => p.pmemb
  | 0x28 => p.pmal
  | 0x30 => p.ptrim
  | 0x38 => p.pshed
  | _ => 0

def GroupSt.code : GroupSt → Nat
  | .dissolved => 0 | .defined => 1 | .joined => 2 | .active => 3 | .suspended => 4

/-- The 32 bytes of a group entry (R405). -/
def Group.bytes (g : Group) : List Byte :=
  natBytes 1 g.st.code ++ natBytes 1 g.nax ++ natBytes 2 g.myidx ++ natBytes 4 g.job ++ (g.size.flatMap (natBytes 2)) ++
    natBytes 8 g.rtab ++ natBytes 2 g.ctx ++ zeroBytes 6

def Region.word (r : Region) : W64 := BitVec.ofNat 64 (r.dpa * 2 ^ 30 + r.st * 4 + r.port)

def Monitor.read (m : Monitor) (o : Nat) : W64 :=
  match o with
  | 0x00 => BitVec.ofNat 64 (wordOf m.en 31 + m.unit * 2 ^ 8 + m.src)
  | 0x08 => m.mx ++ m.mn
  | _ =>
    let k := (o - 0x10) / 4
    if 0x10 ≤ o ∧ k < 32 then BitVec.ofNat 64 (Store.get 0 m.bins k + Store.get 0 m.bins (k + 1) * 2 ^ 32) else 0

/-- The 8 bytes at an aligned offset of BAR0; offsets that R421 does not list read 0. -/
def State.bar0 (s : State) (o : Nat) : W64 :=
  let d := s.dev
  let bytes (st : Store Byte) (k : Nat) : W64 := BitVec.ofNat 64 (bytesNat (Store.run 0 st k 8))
  if o < 0x1000 then s.idRead o
  else if o < 0x2000 then d.cmdRead (o - 0x1000)
  else if o < 0x2040 then d.frings[0].read (o - 0x2000)
  else if o < 0x2080 then d.frings[1].read (o - 0x2040)
  else if o < 0x3000 then 0
  else if o < 0x3100 then d.assayRead (o - 0x3000)
  else if o < 0x3200 then d.proxyRead (o - 0x3100)
  else if o = 0x3200 then d.pwbase
  else if o = 0x3208 then BitVec.ofNat 64 d.pwcnt
  else if o < 0x4000 then 0
  else if o < 0x5000 then (s.core (coreId ((o - 0x4000) / 64))).regRead (o % 64)
  else if o < 0x10000 then 0
  else if o < 0x14F00 then (d.port ((o - 0x10000) / 256)).read ((o - 0x10000) / 256) (o % 256)
  else if o < 0x20000 then 0
  else if o < 0x22000 then Store.get 0 d.member ((o - 0x20000) / 8)
  else if o < 0x24000 then BitVec.ofNat 64 (leAt (d.group ((o - 0x22000) / 32)).bytes (o % 32) 8)
  else if o < 0x2C000 then (d.region ((o - 0x24000) / 8)).word
  else if o < 0x30000 then 0
  else if o < 0x32000 then (d.monitor ((o - 0x30000) / 256)).read (o % 256)
  else if o < 0x40000 then 0
  else if o < 0x46210 then bytes d.routes (o - 0x40000)
  else if o < 0x80000 then 0
  else if o < 0x88100 then bytes d.msix (o - 0x80000)
  else if o = 0x100000 then BitVec.ofNat 64 (d.scanWord * 2 ^ 16 + d.scanChain * 2 ^ 8)
  else 0

/-! ### Writes of BAR0 registers -/

/-- A CMD write with an operation code (R424). -/
def State.cmdWrite (s : State) (v : W64) : State :=
  let c : Cmd := ⟨s.dev.cmdarg, v.extractLsb' 24 16, v.extractLsb' 8 10⟩
  afterEvent s (match (v.extractLsb' 0 8).toNat with
    | 0x01 => execBuild c s
    | 0x02 => execReside c s
    | 0x03 => execClear c s
    | 0x04 => execTeardown c s
    | 0x05 => execPreempt c s
    | 0x06 => execInval c s
    | 0x10 => execLinkEnable c s
    | 0x11 => execLinkDrain c s
    | 0x12 => execLinkRetrain c s
    | 0x13 => execLinkDisable c s
    | 0x20 => execRegionFence c s
    | 0x21 => execRegionOnline c s
    | 0x30 => execGroupDefine c s
    | 0x31 => execGroupJoin c s
    | 0x32 => execGroupActivate c s
    | 0x33 => execGroupResume c s
    | 0x34 => execGroupSuspend c s
    | 0x35 => execGroupDissolve c s
    | 0x40 => execAttest c s
    | _ => .next (s.command c (fun s => (some Code.reservedField, s))))

/-- A write of the identity page: v holds the bits written as 1, w the register as the write leaves it. -/
def State.idWrite (s : State) (o : Nat) (v w : W64) : State :=
  match o with
  | 0x20 => s.modDev (fun d => { d with hwin := w &&& ~~~(0x3FFFFFFF : W64) })
  | 0x28 => if v.getLsbD 0 then s.restart else s
  | 0x30 => s.modDev (fun d => { d with fwAddr := w })
  | 0x38 => s.modDev (fun d => { d with fwLen := w })
  | 0x40 => if v.getLsbD 0 then s.freeze else s
  | 0x80 => if 1000 ≤ w.toNat ∧ w.toNat ≤ 3800 then s.modDev (fun d => { d with pwrlim := w }) else s
  | _ => s

def State.mailWrite (s : State) (o : Nat) (v w : W64) : State :=
  match o with
  | 0x00 => s.modDev (fun d => { d with cmdarg := w })
  | 0x08 => s.cmdWrite v
  | 0x10 => if v.getLsbD 62 then s.modDev (fun d => { d with cmdLost := false }) else s
  | 0x18 => s.modDev (fun d => { d with cmdvec := w.toNat % 2048 })
  | _ => s

def State.fringWrite (s : State) (die : Fin 2) (o : Nat) (v w : W64) : State :=
  let set (f : FaultRing → FaultRing) : State := s.modDev (fun d => { d with frings := d.frings.set die (f d.frings[die]) })
  match o with
  | 0x00 => set (fun r => { r with base := w &&& ~~~(0xFFF : W64) })
  | 0x08 =>
    let n := bitsOf w.toNat 23 20
    set (fun r => { r with logn := if n < 8 then n else r.logn, own := w.getLsbD 17, en := w.getLsbD 16, vec := bitsOf w.toNat 10 0 })
  | 0x18 => set (fun r => { r with cons := w.toNat })
  | 0x20 =>
    let act := v.extractLsb' 32 8
    let seq := v.extractLsb' 0 32
    afterEvent s (if act = 0 then execResolveReplay die.val seq s else execResolveFail die.val seq act s)
  | _ => s

def State.assayWrite (s : State) (o : Nat) (v w : W64) : State :=
  match o with
  | 0x00 =>
    let k := bitsOf w.toNat 4 0
    s.modDev (fun d => { d with asyEn := w.getLsbD 8, asyK := if k ≤ 16 then k else d.asyK })
  | 0x18 => s.modDev (fun d => { d with suspect := d.suspect &&& ~~~v })
  | _ => s

def State.proxyWrite (s : State) (o : Nat) (v w : W64) : State :=
  match o with
  | 0x00 => s.modDev (fun d => { d with pxbase := w &&& ~~~(0xFFF : W64) })
  | 0x08 =>
    let n := bitsOf w.toNat 14 11
    s.modDev (fun d => { d with pxen := w.getLsbD 31, pxlogn := if 4 ≤ n ∧ n ≤ 12 then n else d.pxlogn, pxvec := bitsOf w.toNat 10 0 })
  | 0x10 =>
    let n := bitsOf w.toNat 31 0
    if 1 ≤ n ∧ n ≤ 1000000 then s.modDev (fun d => { d with pxtmo := n }) else s
  | 0x20 => afterEvent s (execPxclaim v s)
  | 0x28 => afterEvent s (execPxdone v s)
  | _ => s

/-- PWBASE and PWCNT take a write only while every region is FENCED (R333, R431). -/
def State.poolWindowWrite (s : State) (o : Nat) (w : W64) : State :=
  if s.dev.regions.any (fun p => p.2.st ≠ 2) then s
  else if o = 0x3200 then
    let b := w &&& ~~~(0x3FFFFFFF : W64)
    if b.toNat < 0x8640000000 then s else s.modDev (fun d => { d with pwbase := b })
  else if 1 ≤ w.toNat ∧ w.toNat ≤ 4096 then s.modDev (fun d => { d with pwcnt := w.toNat }) else s

/-- A membership entry (R379); key slots of a job that no entry names any more are EMPTY (R375). -/
def State.memberWrite (s : State) (n : Nat) (w : W64) : State :=
  s.modDev (fun d =>
    let e := { d with member := Store.set 0 d.member n (w &&& 0xE3FF000000FFFFFF) }
    let gone (j : Nat) : Bool := (d.memberOf j).isSome && (e.memberOf j).isNone
    { e with keys := e.keys.filter (fun k => !gone k.job), ctlq := e.ctlq.filter (fun x => !gone x.1.job.toNat) })

def State.regionWrite (s : State) (n : Nat) (w : W64) : State :=
  let r := s.dev.region n
  if r.st ≠ 2 then s
  else s.modDev (fun d => { d with regions := Store.set regionDefault d.regions n { r with dpa := bitsOf w.toNat 51 30, port := bitsOf w.toNat 1 0 } })

def State.monWrite (s : State) (m o : Nat) (w : W64) : State :=
  if o ≠ 0 then s
  else
    s.modDev (fun d => d.modMonitor m (fun x =>
      let x := { x with en := w.getLsbD 31, unit := bitsOf w.toNat 14 8, src := bitsOf w.toNat 7 0 }
      if w.getLsbD 30 then x.cleared else x))

/-- A write of the MSI-X table: a vector that is pending and no longer masked sends its message (R421, R427; log entry 147). -/
def State.msixWrite (s : State) (o : Nat) (w : W64) : State :=
  let s := s.modDev (fun d => { d with msix := Store.put 0 d.msix o (natBytes 8 w.toNat) })
  let n := o / 16
  if !s.dev.vecMasked n && (Store.get 0 s.dev.msix (32768 + n / 8)).getLsbD (n % 8) then
    { (s.modDev (fun d => d.setPending n false)) with irqs := s.irqs ++ [n] }
  else s

/-- A write of the 8-byte word at an offset of BAR0: v holds the bits written as 1, w the word as the write leaves
it. Registers that are read only, and offsets that R421 does not list, ignore it. -/
def State.bar0Write (s : State) (o : Nat) (v w : W64) : State :=
  if o < 0x1000 then s.idWrite o v w
  else if o < 0x2000 then s.mailWrite (o - 0x1000) v w
  else if !s.ready then s
  else if o < 0x2040 then s.fringWrite 0 (o - 0x2000) v w
  else if o < 0x2080 then s.fringWrite 1 (o - 0x2040) v w
  else if o < 0x3000 then s
  else if o < 0x3100 then s.assayWrite (o - 0x3000) v w
  else if o < 0x3200 then s.proxyWrite (o - 0x3100) v w
  else if o = 0x3200 ∨ o = 0x3208 then s.poolWindowWrite o w
  else if o < 0x10000 then s
  else if o < 0x14F00 then
    if o % 256 = 8 then s.modDev (fun d => d.modPort ((o - 0x10000) / 256) (fun p => { p with evmask := w })) else s
  else if o < 0x20000 then s
  else if o < 0x22000 then s.memberWrite ((o - 0x20000) / 8) w
  else if o < 0x24000 then s
  else if o < 0x2C000 then s.regionWrite ((o - 0x24000) / 8) w
  else if o < 0x30000 then s
  else if o < 0x32000 then s.monWrite ((o - 0x30000) / 256) (o % 256) w
  else if o < 0x40000 then s
  else if o < 0x46210 then s.modDev (fun d => { d with routes := Store.put 0 d.routes (o - 0x40000) (natBytes 8 w.toNat) })
  else if o < 0x80000 then s
  else if o < 0x88000 then s.msixWrite (o - 0x80000) w
  else if o = 0x100000 then s.modDev (fun d => { d with scanChain := bitsOf w.toNat 15 8, scanWord := bitsOf w.toNat 63 16 })
  else if 0x200000 ≤ o ∧ o < 0x600000 ∧ o % 4096 < 128 then
    afterEvent s (execDoorbellWrite ((o - 0x200000) / 4096) (o % 4096 / 8) s)
  else s

/-! ### BAR2 (R277) -/

/-- A write to the control record of a ring: its bytes, then CTL.EN as R282 gives. The other fields of an ENABLED ring are
read as they then stand (log entry 149). -/
def State.bar2Write (s : State) (off size : Nat) (v : W64) : State :=
  let ctx := off / 1024
  let ring := off / 64 % 16
  let r := s.dev.hring ctx ring
  let o := off % 64
  let r' := { r with recd := overlay r.recd o (natBytes size v.toNat) }
  if o ≤ 0x28 ∧ 0x28 < o + size then
    if (leAt r'.recd 0x28 1).testBit 0 then
      if r.st = .disabled then afterEvent s (execHostRingEnable ctx ring (s.modDev (fun d => d.setHring ctx ring r')))
      else s.modDev (fun d => d.setHring ctx ring r')
    else afterEvent s (execHostRingDisable ctx ring (s.modDev (fun d => d.setHring ctx ring r')))
  else s.modDev (fun d => d.setHring ctx ring r')

/-! ### Register accesses (R421, R422) -/

/-- The register access is naturally aligned, 4 or 8 bytes wide, and answered: a frozen device answers only SCANADDR and SCANDATA
(R434), and only the identity page, BAR2 and the mailbox respond before READY (R432). -/
def State.answers (s : State) (bar off size : Nat) : Bool :=
  (size = 4 || size = 8) && decide (off % size = 0) &&
    (if bar = 2 then !s.dev.frozen && decide (off < 2 ^ 20)
     else bar = 0 && decide (off < 2 ^ 26) &&
      (if s.dev.frozen then decide (off / 16 = 0x10000) else s.ready || decide (off < 0x2000)))

/-- A register read: its bytes go back to the host; a read of SCANDATA advances the word. -/
def State.registerRead (s : State) (bar off size : Nat) : State :=
  if bar = 2 then
    { s with resp := s.resp ++ [some (((s.dev.hring (off / 1024) (off / 64 % 16)).recd.drop (off % 64)).take size, false)] }
  else if off / 8 = 0x20001 then s.scanRead (off % 8) size
  else { s with resp := s.resp ++ [some (((natBytes 8 (s.bar0 (off / 8 * 8)).toNat).drop (off % 8)).take size, false)] }

/-- A register write of 4 or 8 bytes. A frozen device takes only one of SCANADDR. -/
def State.registerWrite (s : State) (bar off size : Nat) (value : W64) : State :=
  if bar = 2 then s.bar2Write off size value
  else
    let o := off / 8 * 8
    let sh := 8 * (off % 8)
    let m : W64 := (if size = 4 then (0xFFFFFFFF : W64) else 0xFFFFFFFFFFFFFFFF) <<< sh
    let v := (value <<< sh) &&& m
    let w := (s.bar0 o &&& ~~~m) ||| v
    if s.dev.frozen then
      (if o = 0x100000 then s.modDev (fun d => { d with scanChain := bitsOf w.toNat 15 8, scanWord := bitsOf w.toNat 63 16 }) else s)
    else s.bar0Write o v w

/-- A register access of the host: a write of a value, or a read. One that is misaligned, of another size, or not answered
completes with Unsupported Request and has no effect. -/
def execRegisterWrite (bar off size : Nat) (value : Option (BitVec 64)) (s : State) : Host.Outcome State Fault Refusal :=
  .next (if !s.answers bar off size then { s with resp := s.resp ++ [none] }
    else
      match value with
      | some v => s.registerWrite bar off size v
      | none => s.registerRead bar off size)

end Sys2Proof.Machine
end

