-- ==== Sys2Proof/Machine/Plan.lean ====
section
/-! DEFINITION. XPLAN: sharding layouts, the exchange that two of them give, its runs and its step list (R408 to R412). -/

namespace Sys2Proof.Machine

open Sys2Proof

/-! ### Layouts (R408) -/

/-- A byte of a layout: dimension, kind (1 split, 2 partial) and axis; replicated dimensions are left out. -/
structure Shard where
  dim : Nat
  kind : Nat
  ax : Nat
  deriving DecidableEq, Repr

/-- The shards of a layout, none when a byte is not valid for the tensor and the mesh. -/
def layoutOf (g : Group) (ndim : Nat) (dims : List Nat) (bs : List Byte) : Option (List Shard) :=
  (List.range 4).foldr (fun k (acc : Option (List Shard)) =>
    match acc with
    | none => none
    | some l =>
      let b := leAt bs k 1
      let kind := b / 64
      let ax := b % 4
      if ndim ≤ k then (if b = 0 then some l else none)
      else if bitsOf b 5 2 ≠ 0 ∨ kind = 3 then none
      else if kind = 0 then (if ax = 0 then some l else none)
      else if g.nax ≤ ax ∨ l.any (fun h => h.ax = ax) ∨ dims.getD k 1 % g.axis ax ≠ 0 then none
      else some (⟨k, kind, ax⟩ :: l)) (some [])

/-- The shard over an axis. -/
def shardOn (l : List Shard) (a : Nat) : Option Shard := l.find? (fun h => h.ax = a)

/-- Local extents of a layout: a split dimension is divided by its axis size. -/
def extents (g : Group) (ndim : Nat) (dims : List Nat) (l : List Shard) : List Nat :=
  (List.range ndim).map (fun k =>
    match l.find? (fun h => h.dim = k && h.kind = 1) with
    | some h => dims.getD k 1 / g.axis h.ax
    | none => dims.getD k 1)

/-! ### Exchanges (R410) -/

/-- One transfer: the form (1 PUT, 2 PUTM, 3 REDC), whether it is of phase 2 and reads the barrier, its flow, the
extents of the block, and its origin in the source and in the destination. -/
structure Move where
  kind : Nat
  phase2 : Bool
  flow : Nat
  blk : List Nat
  src : List Nat
  dst : List Nat
  deriving DecidableEq, Repr

/-- An origin that is zero but along one dimension. -/
def originAt (ndim d v : Nat) : List Nat := (List.range ndim).map (fun k => if k = d then v else 0)

/-- A plan: its moves and, for an exchange, its axis. -/
structure Exchange where
  moves : List Move
  axis : Nat
  red : Bool
  deriving DecidableEq, Repr

/-- The exchange between two valid layouts for the member with these coordinates; flows are counted from the first of
the plan. The target of a permute is reached on the flow of its coordinate on a (log entry 68). -/
def exchangeOf (g : Group) (ndim : Nat) (es ed : List Nat) (src dst : List Shard) (me : Nat → Nat) : Option Exchange :=
  let diff := (List.range 4).filter (fun a => decide (shardOn src a ≠ shardOn dst a))
  let zero := originAt ndim ndim 0
  match diff with
  | [] => some ⟨[], 0, false⟩
  | [a] =>
    let size := g.axis a
    let i := me a
    match shardOn src a, shardOn dst a with
    | some h, none =>
      let d := h.dim
      if h.kind = 1 then some ⟨[⟨2, false, size, es, zero, originAt ndim d (i * es.getD d 1)⟩], a, false⟩
      else
        let part := es.getD d 1 / size
        let blk := es.set d part
        some ⟨(List.range size).map (fun j =>
            ⟨3, false, j, blk, originAt ndim d (j * part), originAt ndim d (j * part)⟩) ++
          [⟨2, true, size, blk, originAt ndim d (i * part), originAt ndim d (i * part)⟩], a, true⟩
    | some h, some k =>
      let d := h.dim
      if h.kind = 2 ∧ k.kind = 1 ∧ k.dim = d then
        let part := es.getD d 1 / size
        some ⟨(List.range size).map (fun j => ⟨3, false, j, es.set d part, originAt ndim d (j * part), zero⟩), a, true⟩
      else if h.kind = 1 ∧ k.kind = 1 ∧ k.dim ≠ d then
        let e := k.dim
        let part := ed.getD e 1
        some ⟨(List.range size).map (fun j =>
          ⟨1, false, j, es.set e part, originAt ndim e (j * part), originAt ndim d (i * es.getD d 1)⟩), a, false⟩
      else none
    | _, _ => none
  | [a, b] =>
    let perm (a b : Nat) : Option Exchange :=
      match shardOn src a, shardOn src b, shardOn dst a, shardOn dst b with
      | some h, none, none, some k =>
        if h.kind = 1 ∧ k.kind = 1 ∧ h.dim = k.dim ∧ g.axis a = g.axis b then
          some ⟨[⟨1, false, me b, es, zero, zero⟩], a, false⟩
        else none
      | _, _, _, _ => none
    match perm a b with
    | some x => some x
    | none => perm b a
  | _ => none

/-! ### Runs (R411) -/

/-- Row-major offset of a position. -/
def rowMajor (ext pos : List Nat) : Nat := (ext.zip pos).foldl (fun acc p => acc * p.1 + p.2) 0

/-- How many trailing dimensions a run spans: one more than those that the block fills in both tensors. -/
def runDims (blk es ed : List Nat) : Nat :=
  let full := ((blk.zip (es.zip ed)).reverse.takeWhile (fun p => p.1 = p.2.1 && p.1 = p.2.2)).length
  min blk.length (full + 1)

/-- Every position of a box, row-major. -/
def positions : List Nat → List (List Nat)
  | [] => [[]]
  | n :: ns => (List.range n).flatMap (fun i => (positions ns).map (fun p => i :: p))

/-- The runs of a block: source offset, destination offset, length, in elements. -/
def runsOf (m : Move) (es ed : List Nat) : List (Nat × Nat × Nat) :=
  let k := runDims m.blk es ed
  let outer := m.blk.length - k
  let len := (m.blk.drop outer).foldl (fun x y => x * y) 1
  (positions (m.blk.take outer)).map (fun p =>
    let at' (org : List Nat) : List Nat := (org.zip (p ++ List.replicate k 0)).map (fun q => q.1 + q.2)
    (rowMajor es (at' m.src), rowMajor ed (at' m.dst), len))

/-! ### The plan (R409, R411, R412) -/

/-- A step record (R399, R413). -/
def stepRecord (addr len flow dcore obj chunk flags kind : Nat) (sems : List Byte) (gid ax xs : Nat) : List Byte :=
  natBytes 8 addr ++ natBytes 4 len ++ natBytes 2 flow ++ natBytes 1 dcore ++ natBytes 1 obj ++ natBytes 4 chunk ++
    natBytes 4 (flags + 64 * kind) ++ sems ++ zeroBytes 4 ++ zeroBytes 16 ++
    (if kind = 1 then zeroBytes 16 else natBytes 2 gid ++ natBytes 1 (2 ^ ax) ++ natBytes 1 xs ++ zeroBytes 12)

/-- What XPLAN comes to: the step records and the index of the first step of phase 2, and the binding. -/
structure Planned where
  steps : List (List Byte)
  p2 : Nat
  bind : Option RedBind
  deriving DecidableEq, Repr

/-- The plan of a request, none when it raises RESERVED_FIELD. -/
def State.plan (s : State) (bs : List Byte) : Option Planned :=
  let gid := leAt bs 0 2
  let ndim := leAt bs 2 1
  let et := leAt bs 3 1
  let op := leAt bs 0xC 1
  let dims := (List.range 4).map (fun k => leAt bs (0x10 + 4 * k) 4)
  let dcore := leAt bs 0x28 1
  let obj := leAt bs 0x29 1
  let flg := leAt bs 0x2A 1
  let src := leAt bs 0x20 8
  let flow := leAt bs 0xE 2
  let g := s.dev.group gid
  if 255 < gid ∨ g.st ≠ .active ∨ g.myidx = 0xFFFF ∨ ndim < 1 ∨ 4 < ndim ∨ (redWidth et).isNone ∨ 2 < op ∨ leAt bs 0xD 1 ≠ 0 ∨
      1 < flg ∨ leAt bs 0x2B 1 ≠ 0 ∨ leAt bs 0x38 8 ≠ 0 ∨ 63 < obj ∨
      !(List.range 4).all (fun k => let x := dims.getD k 0; decide (1 ≤ x) && decide (x ≤ 2 ^ 24) && (decide (k < ndim) || x = 1)) then none
  else
    match layoutOf g ndim dims ((bs.drop 4).take 4), layoutOf g ndim dims ((bs.drop 8).take 4) with
    | some sl, some dl =>
      if 1 < (sl.filter (fun h => h.kind = 2)).length ∨ dl.any (fun h => h.kind = 2) then none
      else
        let es := extents g ndim dims sl
        let ed := extents g ndim dims dl
        match exchangeOf g ndim es ed sl dl (g.coord g.myidx) with
        | none => none
        | some x =>
          let w := (redWidth et).getD 1
          let b := s.here.realArch.bar obj
          let redBad := x.red && (dcore ≠ s.cur.core.val || b.st = .idle || !b.spb ||
            (b.lmap ≠ 0 && decide (Config.scrBytes < b.lmap + 8 * ((b.chunks + 63) / 64) + 2 * b.chunks)))
          let runs := x.moves.flatMap (fun m => (runsOf m (if m.phase2 then ed else es) ed).map (fun r => (m, r)))
          if redBad ∨ runs.any (fun p => decide (p.2.2.1 * w % 512 ≠ 0) || decide (p.2.2.2 * w % 512 ≠ 0)) then none
          else
            let steps := runs.map (fun p =>
              let m := p.1
              let addr := if m.phase2 then b.addr (p.2.1 * w) else src + p.2.1 * w
              stepRecord addr (p.2.2.2 * w) (flow + m.flow) dcore obj (p.2.2.1 * w / 512) (if m.phase2 then 1 else flg) m.kind
                ((bs.drop 0x34).take 4) gid x.axis (if m.phase2 then 1 else 0))
            if leAt bs 0x30 2 < steps.length ∨ 2 ^ 18 < leAt bs 0x2C 4 + 64 * steps.length then none
            else some ⟨steps, (runs.filter (fun p => !p.1.phase2)).length,
              if x.red then some ⟨gid, x.axis, g.axis x.axis, BitVec.ofNat 5 et, op⟩ else none⟩
    | _, _ => none

/-- XPLAN writes the step list, then P2, and binds the barrier of a reduction (R412). -/
def execXplan (f : SeqW) (s : State) :=
  runSeq s (fun s => s.seqAt f 64 (fun a =>
    let bs := s.seq.lread a 64
    let list := leAt bs 0x2C 4
    match s.plan bs with
    | none => .fault Code.reservedField
    | some p =>
      if list % 64 ≠ 0 then .fault Code.misaligned
      else
        let s := (s.lwrite list p.steps.flatten).lwrite (a + 0x32) (natBytes 2 p.p2)
        let s := match p.bind with
          | none => s
          | some r => s.modHere (fun c => c.modBarAs c.seqWriter (leAt bs 0x29 1) (fun b => { b with red := some r }))
        .done (s.modSeq (fun q =>
          { (q.setX f.a (BitVec.ofNat 64 p.steps.length)) with busy := s.cycle + 4 + 2 * p.steps.length }))))

end Sys2Proof.Machine
end

