-- ==== Sys2Proof/Machine/Dispatch.lean ====
section
/-! DEFINITION. The dispatch: one arm per constructor of Instr, each one direct call of its meaning. -/

namespace Sys2Proof.Machine

open Sys2Proof

def exec (i : Instr) (s : State) : Host.Outcome State Fault Refusal :=
  match i with
  | .add h f => Sys2Proof.Machine.execAdd h f s
  | .sub h f => Sys2Proof.Machine.execSub h f s
  | .addi h f => Sys2Proof.Machine.execAddi h f s
  | .mul h f => Sys2Proof.Machine.execMul h f s
  | .mulh h f => Sys2Proof.Machine.execMulh h f s
  | .mulhu h f => Sys2Proof.Machine.execMulhu h f s
  | .div h f => Sys2Proof.Machine.execDiv h f s
  | .divu h f => Sys2Proof.Machine.execDivu h f s
  | .rem h f => Sys2Proof.Machine.execRem h f s
  | .remu h f => Sys2Proof.Machine.execRemu h f s
  | .and h f => Sys2Proof.Machine.execAnd h f s
  | .or h f => Sys2Proof.Machine.execOr h f s
  | .xor h f => Sys2Proof.Machine.execXor h f s
  | .andn h f => Sys2Proof.Machine.execAndn h f s
  | .orn h f => Sys2Proof.Machine.execOrn h f s
  | .shl h f => Sys2Proof.Machine.execShl h f s
  | .shr h f => Sys2Proof.Machine.execShr h f s
  | .sar h f => Sys2Proof.Machine.execSar h f s
  | .rotl h f => Sys2Proof.Machine.execRotl h f s
  | .min h f => Sys2Proof.Machine.execMin h f s
  | .max h f => Sys2Proof.Machine.execMax h f s
  | .minu h f => Sys2Proof.Machine.execMinu h f s
  | .maxu h f => Sys2Proof.Machine.execMaxu h f s
  | .cmp h f => Sys2Proof.Machine.execCmp h f s
  | .sel h f => Sys2Proof.Machine.execSel h f s
  | .movi h f => Sys2Proof.Machine.execMovi h f s
  | .moviZ h f => Sys2Proof.Machine.execMoviZ h f s
  | .moviHi h f => Sys2Proof.Machine.execMoviHi h f s
  | .movw h f => Sys2Proof.Machine.execMovw h f s
  | .movwZ h f => Sys2Proof.Machine.execMovwZ h f s
  | .lea h f => Sys2Proof.Machine.execLea h f s
  | .clz h f => Sys2Proof.Machine.execClz h f s
  | .ctz h f => Sys2Proof.Machine.execCtz h f s
  | .popc h f => Sys2Proof.Machine.execPopc h f s
  | .bext h f => Sys2Proof.Machine.execBext h f s
  | .bins h f => Sys2Proof.Machine.execBins h f s
  | .bset h f => Sys2Proof.Machine.execBset h f s
  | .bclr h f => Sys2Proof.Machine.execBclr h f s
  | .mfs h f => Sys2Proof.Machine.execMfs h f s
  | .mts h f => Sys2Proof.Machine.execMts h f s
  | .spld h f => Sys2Proof.Machine.execSpld h f s
  | .spst h f => Sys2Proof.Machine.execSpst h f s
  | .pld h f => Sys2Proof.Machine.execPld h f s
  | .sld h f => Sys2Proof.Machine.execSld h f s
  | .sst h f => Sys2Proof.Machine.execSst h f s
  | .putx h f => Sys2Proof.Machine.execPutx h f s
  | .getx h f => Sys2Proof.Machine.execGetx h f s
  | .pbr h f => Sys2Proof.Machine.execPbr h f s
  | .br h f => Sys2Proof.Machine.execBr h f s
  | .bro h f => Sys2Proof.Machine.execBro h f s
  | .jmpl h f => Sys2Proof.Machine.execJmpl h f s
  | .loop h f => Sys2Proof.Machine.execLoop h f s
  | .loopj h f => Sys2Proof.Machine.execLoopj h f s
  | .lbrk h f => Sys2Proof.Machine.execLbrk h f s
  | .nop h f => Sys2Proof.Machine.execNop h f s
  | .taskend h f => Sys2Proof.Machine.execTaskend h f s
  | .sopen h f => Sys2Proof.Machine.execSopen h f s
  | .sclose h f => Sys2Proof.Machine.execSclose h f s
  | .scloseAbort h f => Sys2Proof.Machine.execScloseAbort h f s
  | .sstat h f => Sys2Proof.Machine.execSstat h f s
  | .sfeed h f => Sys2Proof.Machine.execSfeed h f s
  | .sdrain h f => Sys2Proof.Machine.execSdrain h f s
  | .spref h f => Sys2Proof.Machine.execSpref h f s
  | .xcopy h f => Sys2Proof.Machine.execXcopy h f s
  | .xfill h f => Sys2Proof.Machine.execXfill h f s
  | .xacc h f => Sys2Proof.Machine.execXacc h f s
  | .xfao h f => Sys2Proof.Machine.execXfao h f s
  | .xcas h f => Sys2Proof.Machine.execXcas h f s
  | .xgath h f => Sys2Proof.Machine.execXgath h f s
  | .xscat h f => Sys2Proof.Machine.execXscat h f s
  | .xcmo h f => Sys2Proof.Machine.execXcmo h f s
  | .xsig h f => Sys2Proof.Machine.execXsig h f s
  | .fence h f => Sys2Proof.Machine.execFence h f s
  | .ssig h f => Sys2Proof.Machine.execSsig h f s
  | .swait h f => Sys2Proof.Machine.execSwait h f s
  | .sset h f => Sys2Proof.Machine.execSset h f s
  | .barm h f => Sys2Proof.Machine.execBarm h f s
  | .bwait h f => Sys2Proof.Machine.execBwait h f s
  | .bwaitTile h f => Sys2Proof.Machine.execBwaitTile h f s
  | .btestTile h f => Sys2Proof.Machine.execBtestTile h f s
  | .btestStat h f => Sys2Proof.Machine.execBtestStat h f s
  | .btestCnt h f => Sys2Proof.Machine.execBtestCnt h f s
  | .btestLate h f => Sys2Proof.Machine.execBtestLate h f s
  | .brst h f => Sys2Proof.Machine.execBrst h f s
  | .rwaitf h f => Sys2Proof.Machine.execRwaitf h f s
  | .rwaite h f => Sys2Proof.Machine.execRwaite h f s
  | .rclaim h f => Sys2Proof.Machine.execRclaim h f s
  | .rpub h f => Sys2Proof.Machine.execRpub h f s
  | .rpubInit h f => Sys2Proof.Machine.execRpubInit h f s
  | .rpubClose h f => Sys2Proof.Machine.execRpubClose h f s
  | .rcons h f => Sys2Proof.Machine.execRcons h f s
  | .rconsUpto h f => Sys2Proof.Machine.execRconsUpto h f s
  | .rconsPub h f => Sys2Proof.Machine.execRconsPub h f s
  | .rconsCons h f => Sys2Proof.Machine.execRconsCons h f s
  | .rconsClm h f => Sys2Proof.Machine.execRconsClm h f s
  | .rconsDrops h f => Sys2Proof.Machine.execRconsDrops h f s
  | .rconsDropb h f => Sys2Proof.Machine.execRconsDropb h f s
  | .qpush h f => Sys2Proof.Machine.execQpush h f s
  | .qpoll h f => Sys2Proof.Machine.execQpoll h f s
  | .tqpush h f => Sys2Proof.Machine.execTqpush h f s
  | .trap h f => Sys2Proof.Machine.execTrap h f s
  | .svc h f => Sys2Proof.Machine.execSvc h f s
  | .rett h f => Sys2Proof.Machine.execRett h f s
  | .rettAbort h f => Sys2Proof.Machine.execRettAbort h f s
  | .yield h f => Sys2Proof.Machine.execYield h f s
  | .csave h f => Sys2Proof.Machine.execCsave h f s
  | .csaveEnd h f => Sys2Proof.Machine.execCsaveEnd h f s
  | .crest h f => Sys2Proof.Machine.execCrest h f s
  | .crestEnd h f => Sys2Proof.Machine.execCrestEnd h f s
  | .idle h f => Sys2Proof.Machine.execIdle h f s
  | .tlbinvPage h f => Sys2Proof.Machine.execTlbinvPage h f s
  | .tlbinvAsid h f => Sys2Proof.Machine.execTlbinvAsid h f s
  | .tlbinvAll h f => Sys2Proof.Machine.execTlbinvAll h f s
  | .tlbprobe h f => Sys2Proof.Machine.execTlbprobe h f s
  | .sealWord h f => Sys2Proof.Machine.execSealWord h f s
  | .sealWait h f => Sys2Proof.Machine.execSealWait h f s
  | .pmarkV h f => Sys2Proof.Machine.execPmarkV h f s
  | .pmarkA h f => Sys2Proof.Machine.execPmarkA h f s
  | .pclrV h f => Sys2Proof.Machine.execPclrV h f s
  | .pclrA h f => Sys2Proof.Machine.execPclrA h f s
  | .vadd h f => Sys2Proof.Machine.execVadd h f s
  | .vsub h f => Sys2Proof.Machine.execVsub h f s
  | .vmul h f => Sys2Proof.Machine.execVmul h f s
  | .vfma h f => Sys2Proof.Machine.execVfma h f s
  | .vfms h f => Sys2Proof.Machine.execVfms h f s
  | .vmin h f => Sys2Proof.Machine.execVmin h f s
  | .vmax h f => Sys2Proof.Machine.execVmax h f s
  | .vabs h f => Sys2Proof.Machine.execVabs h f s
  | .vneg h f => Sys2Proof.Machine.execVneg h f s
  | .vand h f => Sys2Proof.Machine.execVand h f s
  | .vor h f => Sys2Proof.Machine.execVor h f s
  | .vxor h f => Sys2Proof.Machine.execVxor h f s
  | .vnot h f => Sys2Proof.Machine.execVnot h f s
  | .vshl h f => Sys2Proof.Machine.execVshl h f s
  | .vshr h f => Sys2Proof.Machine.execVshr h f s
  | .vsar h f => Sys2Proof.Machine.execVsar h f s
  | .vcmp h f => Sys2Proof.Machine.execVcmp h f s
  | .vsel h f => Sys2Proof.Machine.execVsel h f s
  | .vmov h f => Sys2Proof.Machine.execVmov h f s
  | .vcvt h f => Sys2Proof.Machine.execVcvt h f s
  | .vrqs h f => Sys2Proof.Machine.execVrqs h f s
  | .vmaci h f => Sys2Proof.Machine.execVmaci h f s
  | .vdot4 h f => Sys2Proof.Machine.execVdot4 h f s
  | .vsfu h f => Sys2Proof.Machine.execVsfu h f s
  | .vrotr h f => Sys2Proof.Machine.execVrotr h f s
  | .vrotc h f => Sys2Proof.Machine.execVrotc h f s
  | .vbcr h f => Sys2Proof.Machine.execVbcr h f s
  | .vbcc h f => Sys2Proof.Machine.execVbcc h f s
  | .vredr h f => Sys2Proof.Machine.execVredr h f s
  | .vredc h f => Sys2Proof.Machine.execVredc h f s
  | .vtrn h f => Sys2Proof.Machine.execVtrn h f s
  | .vperm h f => Sys2Proof.Machine.execVperm h f s
  | .zip2 h f => Sys2Proof.Machine.execZip2 h f s
  | .zip3 h f => Sys2Proof.Machine.execZip3 h f s
  | .zip4 h f => Sys2Proof.Machine.execZip4 h f s
  | .unzip2 h f => Sys2Proof.Machine.execUnzip2 h f s
  | .unzip3 h f => Sys2Proof.Machine.execUnzip3 h f s
  | .unzip4 h f => Sys2Proof.Machine.execUnzip4 h f s
  | .cpush h f => Sys2Proof.Machine.execCpush h f s
  | .cpop h f => Sys2Proof.Machine.execCpop h f s
  | .vlds h f => Sys2Proof.Machine.execVlds h f s
  | .vsts h f => Sys2Proof.Machine.execVsts h f s
  | .vpop h f => Sys2Proof.Machine.execVpop h f s
  | .vpopSkip h f => Sys2Proof.Machine.execVpopSkip h f s
  | .vpchk h f => Sys2Proof.Machine.execVpchk h f s
  | .viota h f => Sys2Proof.Machine.execViota h f s
  | .vsplat h f => Sys2Proof.Machine.execVsplat h f s
  | .mcfg h f => Sys2Proof.Machine.execMcfg h f s
  | .mldw h f => Sys2Proof.Machine.execMldw h f s
  | .mldwq h f => Sys2Proof.Machine.execMldwq h f s
  | .mswap h f => Sys2Proof.Machine.execMswap h f s
  | .mstr h f => Sys2Proof.Machine.execMstr h f s
  | .mstrq h f => Sys2Proof.Machine.execMstrq h f s
  | .mmv h f => Sys2Proof.Machine.execMmv h f s
  | .mspm h f => Sys2Proof.Machine.execMspm h f s
  | .macz h f => Sys2Proof.Machine.execMacz h f s
  | .macrd h f => Sys2Proof.Machine.execMacrd h f s
  | .macst h f => Sys2Proof.Machine.execMacst h f s
  | .macld h f => Sys2Proof.Machine.execMacld h f s
  | .mfin h f => Sys2Proof.Machine.execMfin h f s
  | .halt f => Sys2Proof.Machine.execHalt f s
  | .mov f => Sys2Proof.Machine.execMov f s
  | .seqMovi f => Sys2Proof.Machine.execSeqMovi f s
  | .seqAdd f => Sys2Proof.Machine.execSeqAdd f s
  | .seqSub f => Sys2Proof.Machine.execSeqSub f s
  | .seqAnd f => Sys2Proof.Machine.execSeqAnd f s
  | .seqOr f => Sys2Proof.Machine.execSeqOr f s
  | .seqXor f => Sys2Proof.Machine.execSeqXor f s
  | .seqShl f => Sys2Proof.Machine.execSeqShl f s
  | .seqShr f => Sys2Proof.Machine.execSeqShr f s
  | .seqCmp f => Sys2Proof.Machine.execSeqCmp f s
  | .seqBr f => Sys2Proof.Machine.execSeqBr f s
  | .brcNz f => Sys2Proof.Machine.execBrcNz f s
  | .brcZ f => Sys2Proof.Machine.execBrcZ f s
  | .call f => Sys2Proof.Machine.execCall f s
  | .ret f => Sys2Proof.Machine.execRet f s
  | .ldx f => Sys2Proof.Machine.execLdx f s
  | .stx f => Sys2Proof.Machine.execStx f s
  | .evwait f => Sys2Proof.Machine.execEvwait f s
  | .evpop f => Sys2Proof.Machine.execEvpop f s
  | .cmdpop f => Sys2Proof.Machine.execCmdpop f s
  | .sems f => Sys2Proof.Machine.execSems f s
  | .semsDone f => Sys2Proof.Machine.execSemsDone f s
  | .semw f => Sys2Proof.Machine.execSemw f s
  | .dline f => Sys2Proof.Machine.execDline f s
  | .flowOpen f => Sys2Proof.Machine.execFlowOpen f s
  | .flowClose f => Sys2Proof.Machine.execFlowClose f s
  | .flowStat f => Sys2Proof.Machine.execFlowStat f s
  | .put f => Sys2Proof.Machine.execPut f s
  | .putm f => Sys2Proof.Machine.execPutm f s
  | .get f => Sys2Proof.Machine.execGet f s
  | .atom f => Sys2Proof.Machine.execAtom f s
  | .redc f => Sys2Proof.Machine.execRedc f s
  | .retx f => Sys2Proof.Machine.execRetx f s
  | .xplan f => Sys2Proof.Machine.execXplan f s
  | .xstep f => Sys2Proof.Machine.execXstep f s
  | .keyld f => Sys2Proof.Machine.execKeyld f s
  | .keysw f => Sys2Proof.Machine.execKeysw f s
  | .sectionHeader f => Sys2Proof.Machine.execSectionHeader f s
  | .bankWakeDone core bank => Sys2Proof.Machine.execBankWakeDone core bank s
  | .commitPointTaken core => Sys2Proof.Machine.execCommitPointTaken core s
  | .commitPointSealed core => Sys2Proof.Machine.execCommitPointSealed core s
  | .heldEffectRelease core => Sys2Proof.Machine.execHeldEffectRelease core s
  | .strike cores => Sys2Proof.Machine.execStrike cores s
  | .strikeReport core => Sys2Proof.Machine.execStrikeReport core s
  | .rollbackComplete core => Sys2Proof.Machine.execRollbackComplete core s
  | .iterationRecoveryRollback core => Sys2Proof.Machine.execIterationRecoveryRollback core s
  | .doorbellWrite ctx ring => Sys2Proof.Machine.execDoorbellWrite ctx ring s
  | .launchBundle src => Sys2Proof.Machine.execLaunchBundle src s
  | .loadImage src => Sys2Proof.Machine.execLoadImage src s
  | .unloadImage src => Sys2Proof.Machine.execUnloadImage src s
  | .bundleActivate bundle => Sys2Proof.Machine.execBundleActivate bundle s
  | .walkerBind die => Sys2Proof.Machine.execWalkerBind die s
  | .tileTaskRetire core => Sys2Proof.Machine.execTileTaskRetire core s
  | .bundleDone bundle => Sys2Proof.Machine.execBundleDone bundle s
  | .recordPromotion bundle => Sys2Proof.Machine.execRecordPromotion bundle s
  | .expressWindow die => Sys2Proof.Machine.execExpressWindow die s
  | .auditReplayDone core => Sys2Proof.Machine.execAuditReplayDone core s
  | .auditReplayAbandon core => Sys2Proof.Machine.execAuditReplayAbandon core s
  | .walkerPreemptRequest bundle => Sys2Proof.Machine.execWalkerPreemptRequest bundle s
  | .preemptDrainEntry core => Sys2Proof.Machine.execPreemptDrainEntry core s
  | .preemptStallTimeout core => Sys2Proof.Machine.execPreemptStallTimeout core s
  | .preemptComplete core => Sys2Proof.Machine.execPreemptComplete core s
  | .refillStart core => Sys2Proof.Machine.execRefillStart core s
  | .svcAnswer core th status value => Sys2Proof.Machine.execSvcAnswer core th status value s
  | .translationDone core obj va => Sys2Proof.Machine.execTranslationDone core obj va s
  | .streamSectorArrival core str pos => Sys2Proof.Machine.execStreamSectorArrival core str pos s
  | .xCommandStart core => Sys2Proof.Machine.execXCommandStart core s
  | .copySectorDone core cmd sector => Sys2Proof.Machine.execCopySectorDone core cmd sector s
  | .waitPoll core th => Sys2Proof.Machine.execWaitPoll core th s
  | .waitTimeout core th => Sys2Proof.Machine.execWaitTimeout core th s
  | .barrierDeadline core bar => Sys2Proof.Machine.execBarrierDeadline core bar s
  | .data port f => Sys2Proof.Machine.execData port f s
  | .ack port p => Sys2Proof.Machine.execAck port p s
  | .sack port p => Sys2Proof.Machine.execSack port p s
  | .trimn port p => Sys2Proof.Machine.execTrimn port p s
  | .authn port p => Sys2Proof.Machine.execAuthn port p s
  | .marker port p => Sys2Proof.Machine.execMarker port p s
  | .markack port p => Sys2Proof.Machine.execMarkack port p s
  | .rload port p => Sys2Proof.Machine.execRload port p s
  | .ratom port p => Sys2Proof.Machine.execRatom port p s
  | .credit port p => Sys2Proof.Machine.execCredit port p s
  | .seqmsg port p => Sys2Proof.Machine.execSeqmsg port p s
  | .flitTransmit core => Sys2Proof.Machine.execFlitTransmit core s
  | .retransmitTimeout core flow fsn => Sys2Proof.Machine.execRetransmitTimeout core flow fsn s
  | .alignmentTimeout port => Sys2Proof.Machine.execAlignmentTimeout port s
  | .transportEventPost core => Sys2Proof.Machine.execTransportEventPost core s
  | .sequencerStart core => Sys2Proof.Machine.execSequencerStart core s
  | .evwaitTimeout core => Sys2Proof.Machine.execEvwaitTimeout core s
  | .dlineDeadline core => Sys2Proof.Machine.execDlineDeadline core s
  | .laneLoss port lost => Sys2Proof.Machine.execLaneLoss port lost s
  | .blockRetire port => Sys2Proof.Machine.execBlockRetire port s
  | .trainingDone port passing => Sys2Proof.Machine.execTrainingDone port passing s
  | .trainingTimeout port => Sys2Proof.Machine.execTrainingTimeout port s
  | .linkDrainDone port => Sys2Proof.Machine.execLinkDrainDone port s
  | .faultRecordPost die => Sys2Proof.Machine.execFaultRecordPost die s
  | .resolveReplay die seq => Sys2Proof.Machine.execResolveReplay die seq s
  | .resolveFail die seq act => Sys2Proof.Machine.execResolveFail die seq act s
  | .poolLinkDown cxl => Sys2Proof.Machine.execPoolLinkDown cxl s
  | .regionFailureReport region => Sys2Proof.Machine.execRegionFailureReport region s
  | .biSnoop line toShared => Sys2Proof.Machine.execBiSnoop line toShared s
  | .hostAtomicCompletion core cmd c => Sys2Proof.Machine.execHostAtomicCompletion core cmd c s
  | .atomicCompletionTimeout core cmd performed => Sys2Proof.Machine.execAtomicCompletionTimeout core cmd performed s
  | .pxclaim seq => Sys2Proof.Machine.execPxclaim seq s
  | .pxdone seq => Sys2Proof.Machine.execPxdone seq s
  | .proxyClaimTimeout seq => Sys2Proof.Machine.execProxyClaimTimeout seq s
  | .bar4Write off bytes => Sys2Proof.Machine.execBar4Write off bytes s
  | .bar4Read off len => Sys2Proof.Machine.execBar4Read off len s
  | .registerWrite bar off size value => Sys2Proof.Machine.execRegisterWrite bar off size value s
  | .build c => Sys2Proof.Machine.execBuild c s
  | .reside c => Sys2Proof.Machine.execReside c s
  | .clear c => Sys2Proof.Machine.execClear c s
  | .teardown c => Sys2Proof.Machine.execTeardown c s
  | .teardownComplete ctx => Sys2Proof.Machine.execTeardownComplete ctx s
  | .preempt c => Sys2Proof.Machine.execPreempt c s
  | .inval c => Sys2Proof.Machine.execInval c s
  | .linkEnable c => Sys2Proof.Machine.execLinkEnable c s
  | .linkDrain c => Sys2Proof.Machine.execLinkDrain c s
  | .linkRetrain c => Sys2Proof.Machine.execLinkRetrain c s
  | .linkDisable c => Sys2Proof.Machine.execLinkDisable c s
  | .regionFence c => Sys2Proof.Machine.execRegionFence c s
  | .regionOnline c => Sys2Proof.Machine.execRegionOnline c s
  | .groupDefine c => Sys2Proof.Machine.execGroupDefine c s
  | .groupJoin c => Sys2Proof.Machine.execGroupJoin c s
  | .groupActivate c => Sys2Proof.Machine.execGroupActivate c s
  | .groupResume c => Sys2Proof.Machine.execGroupResume c s
  | .groupSuspend c => Sys2Proof.Machine.execGroupSuspend c s
  | .groupDissolve c => Sys2Proof.Machine.execGroupDissolve c s
  | .attest c => Sys2Proof.Machine.execAttest c s
  | .hostRingEnable ctx ring => Sys2Proof.Machine.execHostRingEnable ctx ring s
  | .hostRingDisable ctx ring => Sys2Proof.Machine.execHostRingDisable ctx ring s
  | .monitorClear mon => Sys2Proof.Machine.execMonitorClear mon s
  | .monitorSample mon value => Sys2Proof.Machine.execMonitorSample mon value s
  | .frz => Sys2Proof.Machine.execFrz s
  | .freezeN => Sys2Proof.Machine.execFreezeN s
  | .scandata => Sys2Proof.Machine.execScandata s
  | .warmResetRequest => Sys2Proof.Machine.execWarmResetRequest s
  | .wrstN => Sys2Proof.Machine.execWrstN s
  | .hotReset => Sys2Proof.Machine.execHotReset s
  | .secondaryBusReset => Sys2Proof.Machine.execSecondaryBusReset s
  | .fundamentalReset => Sys2Proof.Machine.execFundamentalReset s
  | .powerOn => Sys2Proof.Machine.execPowerOn s
  | .bootWaitfw pass => Sys2Proof.Machine.execBootWaitfw pass s
  | .firmwareCheck ok => Sys2Proof.Machine.execFirmwareCheck ok s
  | .poolLinkUp cxl => Sys2Proof.Machine.execPoolLinkUp cxl s
  | .hostReadTimeout core obj pos => Sys2Proof.Machine.execHostReadTimeout core obj pos s
  | .uncorrectableError place => Sys2Proof.Machine.execUncorrectableError place s
  | .throttling on => Sys2Proof.Machine.execThrottling on s
  | .planeLoadDone core arr => Sys2Proof.Machine.execPlaneLoadDone core arr s
  | .leaseRelease core => Sys2Proof.Machine.execLeaseRelease core s
  | .readModifyWriteDone core cmd unit => Sys2Proof.Machine.execReadModifyWriteDone core cmd unit s
  | .poolWriteAck line => Sys2Proof.Machine.execPoolWriteAck line s
  | .flushReadCompletion core => Sys2Proof.Machine.execFlushReadCompletion core s

end Sys2Proof.Machine
end

