-- ==== Sys2Proof/Machine/Tick.lean ====
section
/-! DEFINITION. When an action of the agenda happens: the edges of the two clocks (R11, R12), the order of the actions
of one core cycle (R76, R243, R251, R263, R309, R352), and what the device does of its own at the edges of its clocks
(R13, R171, R244, R245, R250, R281, R286, R344, R345, R350). Log entries 1 and 142. -/

namespace Sys2Proof.Machine

open Sys2Proof

/-! ### The order within a core cycle -/

/-- The place of a word among those of its core cycle: waits evaluate before the cycle's changes (R243, R263); writes of
per-core registers, sets of semaphores, of barriers and of rings go in engine-code order (R76, R243, R251); RCONS
and CPOP come before RCLAIM, RPUB and CPUSH; increments and enqueues come after the sets. Other words have no place of their
own among the words; a report of a strike comes before them all (R309, R352). -/
def wordRank (i : Instr) (t : Thread) : Nat :=
  match i with
  | .swait _ _ | .bwait _ _ | .bwaitTile _ _ | .rwaitf _ _ | .rwaite _ _ => 20
  | .mts _ _ | .sset _ _ | .barm _ _ | .brst _ _ | .rpubInit _ _ | .rpubClose _ _ => 30 + t.code.toNat
  | .rcons _ _ | .rconsUpto _ _ | .cpop _ _ => 40 + t.code.toNat
  | .rclaim _ _ | .rpub _ _ | .cpush _ _ => 50 + t.code.toNat
  | .ssig _ _ | .qpush _ _ | .qpoll _ _ | .sems _ | .semsDone _ => 60
  | _ => 2

/-- The place of an event: ends of rollbacks, seals, strike reports and ends of work inside the core come first,
waits' evaluations with the wait words, deposits and what comes from beyond the core after every word, pre-emption
requests last (R243, R251, R263, R309, R345, R352). -/
def eventRank : Instr → Nat
  | .rollbackComplete _ | .commitPointSealed _ | .strikeReport _ | .strike _ | .bankWakeDone _ _ | .planeLoadDone _ _ => 1
  | .waitPoll _ _ | .waitTimeout _ _ => 20
  | .walkerPreemptRequest _ | .preempt _ => 95
  | _ => 70

/-- Events of the core clock: what a core's engines, its region and its sequencer come to. All others happen beyond the
cores (R11, R12). -/
def inCore : Instr → Bool
  | .bankWakeDone _ _ | .planeLoadDone _ _ | .leaseRelease _ | .commitPointTaken _ | .commitPointSealed _ | .strikeReport _
  | .rollbackComplete _ | .iterationRecoveryRollback _ | .preemptDrainEntry _ | .preemptStallTimeout _ | .xCommandStart _
  | .waitPoll _ _ | .waitTimeout _ _ | .barrierDeadline _ _ | .evwaitTimeout _ | .dlineDeadline _ => true
  | _ => false

/-- The highest place taken so far in the core cycle. -/
def State.rankNow (s : State) : Nat := if s.phase.cycle = s.cycle then s.phase.rank else 0

/-- A core cycle in which a word of this place comes too late: what must follow it has happened. -/
def State.late (s : State) (r : Nat) : Bool := decide (2 < r) && decide (r < s.rankNow)

/-- An action of this place has happened; word says that a core made it. What it changes is looked at at the next edges. -/
def State.stamp (s : State) (r : Nat) (word : Bool) : State :=
  { s with phase := { cycle := s.cycle, rank := max r s.rankNow, coreAct := if word then s.uncore + 1 else s.phase.coreAct
                      edges := 3, cross := true } }

/-- The next edges of the clocks. -/
def nextCore (n : Nat) : Nat := (n / Config.ticksPerCycle + 1) * Config.ticksPerCycle
def nextUncore (n : Nat) : Nat := (n / Config.ticksPerUncore + 1) * Config.ticksPerUncore

/-- The moment of an action that the agenda puts n ticks after device start. What happens beyond the cores waits for the uncore
edge after what a core last did. A core sees at its next edge what came from beyond it in this cycle, and what comes too late
for this cycle happens in the next (R12). -/
def State.moment (s : State) (n : Nat) (t : Turn) : Nat :=
  let after (n r : Nat) : Nat := if s.phase.cycle = n / Config.ticksPerCycle ∧ r < s.phase.rank then nextCore n else n
  match t with
  | .event i =>
    after (if !inCore i ∧ s.phase.coreAct = n / Config.ticksPerUncore + 1 then nextUncore n else n) (eventRank i)
  | _ => after n 69

/-! ### What happens at each core cycle -/

/-- Strikes that must be reported by now: 150 cycles have passed (R13, R342). -/
def Core.overdue (c : Core) (now : Nat) : Nat := (c.strikes.filter (fun t => decide (t + 150 ≤ now))).length

/-- The core's barriers whose deadline has come act (R250). -/
def State.dueBars (s : State) (k : CoreId) : State :=
  let due (b : Bar) : Bool := b.waiting && b.dl && decide (b.deadline ≤ s.dtime)
  let c := s.core k
  if !(c.arch.bars.any due || c.realArch.bars.any due) then s
  else (List.range 64).foldl (fun (s : State) n => s.deadline k n) s

/-- One core at the start of a cycle: seals, the end of a rollback and reports that are due come first (R345, R350, R352); no
lease outlasts its word (R171); waits and heads see every change before this cycle (R244, R245); then the commit points that can
be taken are (R215, R344), and what waits for one goes on (R312, R357). -/
def State.cycleStart (s : State) (k : CoreId) : State :=
  let s := s.modCore k (fun c => c.sealAllDue s.cycle)
  let s := match (s.core k).restart with
    | some r => if r.2 ≤ s.cycle then s.rollDone k else s
    | none => s
  let s := (List.range ((s.core k).overdue s.cycle)).foldl (fun (s : State) _ => s.strikeReport k) s
  let s := s.modCore k (fun c => ((c.modArch (fun a => a.purgeLeases s.cycle)).settleWaits s.cycle).evalHeads.autoCp)
  let s := ((s.takePoint k).drainEntry k).recoverNow k
  s.modCore k (fun c => c.noteUnmet s.cycle)

/-- One core at the end of a cycle, after its words: what leases have held back is deposited (R171, R263), then barriers whose
deadline the cycle has reached act (R250, R251). -/
def State.cycleEnd (s : State) (k : CoreId) : State := (s.modCore k (fun c => c.leaseEnds.ringDrain)).dueBars k

/-- The writes that some read in progress may still miss began before this many. -/
def State.oldestRead (s : State) : Nat :=
  s.cores.toList.foldl (fun m c =>
    (c.xq.filter (fun x => x.st = .running || x.st = .parked)).foldl (fun m x => min m x.began)
      ((c.arch.streams.toList.filter Stream.live).foldl (fun m t => min m t.began) m)) s.dev.wseq

/-- The logs keep what reads in progress may miss, what is not performed everywhere, and the releases that cover any of it. -/
def State.pruneLogs (s : State) : State :=
  let s := if s.dev.wlog.isEmpty then s else s.modDev (fun d => d.prune s.cycle s.oldestRead)
  if s.dev.rels.isEmpty then s
  else
    let used (m : RelMark) : Bool :=
      (s.dev.wlog ++ s.dev.discarded).any (fun w => w.known.contains (relTok m.seq)) ||
        s.cores.toList.any (fun c => c.arch.scrLog.any (fun w => w.known.contains (relTok m.seq)))
    s.modDev (fun d => { d with rels := d.rels.filter used })

/-- The end of one core cycle, whose sets come before its command signals (R243), and the start of the next. -/
def State.coreEdge (s : State) (m : Nat) : State :=
  let s := ({ s with now := m - 1 } : State).settleAll
  let s := (List.range 64).foldl (fun (s : State) k => s.cycleEnd (coreId k)) s
  let s := { s.pruneLogs with now := m }
  (List.range 64).foldl (fun (s : State) k => s.cycleStart (coreId k)) s

/-- Beyond the cores: dependences, rings whose doorbells have been written, and an invalidation command. -/
def State.uncoreEdge (s : State) : State := s.evalWaiting.readRings.finishInval

/-! ### Time -/

def minOpt (a b : Option Nat) : Option Nat :=
  match a, b with
  | some x, some y => some (min x y)
  | some x, none => some x
  | none, y => y

def earliest (xs : List Nat) : Option Nat := xs.foldl (fun m x => minOpt m (some x)) none

/-- The cycle by which every word that a core's engines have issued has retired (R344). -/
def Core.quietAt (c : Core) : Nat :=
  let m := kernelThreads.foldl (fun m t => max m (max (c.arch.eng t).busy (c.arch.eng t).sts.2)) c.arch.seq.busy
  c.arch.pend.foldl (fun m p => max m p.ready) (c.arch.mflight.foldl (fun m f => max m f.doneAt) m)

/-- The core cycle that DTIME reaches a time in, plus 1. -/
def cycleOfTime (t : Nat) : Nat := t * Config.ticksPerNs / Config.ticksPerCycle + 1

/-- The next cycle in which something is due on a core: a seal, the end of a rollback, a report; a poll or the end of a wait; the
end of a lease, a deadline; a commit point that waits for words to retire. -/
def Core.dueAt (c : Core) (now : Nat) : Option Nat :=
  let ts :=
    (match c.restart with
     | some r => [r.2]
     | none => ((c.ckpts.find? (fun k => !k.sealedNow)).map (fun k => k.takenAt + Config.sealDelay)).toList : List Nat) ++
    c.strikes.map (fun t => t + 150) ++
    ((kernelThreads ++ [Thread.chap]).flatMap (fun t => match (c.arch.eng t).wait with
      | some w => if w.out.isSome then [] else (w.since + 65536) :: (if w.slot then [] else [w.nextPoll])
      | none => [])) ++
    c.arch.leases.map (fun l => l.doneAt) ++
    (c.arch.bars.toList ++ (match c.real with | some r => r.bars.toList | none => [])).filterMap (fun b =>
      if b.waiting && b.dl then some (cycleOfTime b.deadline) else none) ++
    (if c.cpReq.isEmpty ∧ c.preempt.isNone then [] else [c.quietAt])
  earliest (ts.filter (fun t => decide (now < t)))

/-- The same on every core. -/
def State.dueAt (s : State) : Option Nat := s.cores.toList.foldl (fun m c => minOpt m (c.dueAt s.cycle)) none

/-- The next edge that matters, up to a moment n: of the core clock while changes are still looked at or when something is due; of
the uncore clock after a change. -/
def State.nextEdge (s : State) (n : Nat) : Option Nat :=
  let core := if s.phase.edges ≠ 0 then some (nextCore s.now) else s.dueAt.map (fun c => c * Config.ticksPerCycle)
  (minOpt core (if s.phase.cross then some (nextUncore s.now) else none)).filter (fun m => decide (m ≤ n))

/-- An edge of either clock or of both, the core's first (R12). Where something was due, the edges after it are looked at
again. -/
def State.edge (s : State) (m : Nat) : State :=
  let due := s.dueAt = some (m / Config.ticksPerCycle)
  let s := if m % Config.ticksPerCycle = 0 then
      let t := s.coreEdge m
      { t with phase := { t.phase with edges := if due then 3 else t.phase.edges - 1, cross := true } }
    else { s with now := m }
  if m % Config.ticksPerUncore = 0 then { s.uncoreEdge with phase := { s.phase with cross := false } } else s

/-- Time passes to n, edge by edge. -/
def State.runTo : Nat → Nat → State → State
  | 0, n, s => { s with now := n }
  | fuel + 1, n, s =>
    match s.nextEdge n with
    | none => { s with now := n }
    | some m => State.runTo fuel n (s.edge m)

/-- Time passes to n; a frozen device stands still (R434). -/
def State.passTo (s : State) (n : Nat) : State := if s.dev.frozen then { s with now := n } else State.runTo (n - s.now) n s

end Sys2Proof.Machine
end

