-- ==== Sys2Proof/Machine/Step.lean ====
section
/-! DEFINITION. One step of the device: the head of the agenda moves (assumption log entry 1). Its thread runs
one header or word, its sequencer one word, or an event happens. With an empty agenda only time passes. -/

namespace Sys2Proof.Machine

open Sys2Proof

/-- The instruction is an event: it has no word. -/
def isEvent (i : Instr) : Bool :=
  (hdrOf i).isNone && (seqOpOf i).isNone && (match i with | .sectionHeader _ => false | _ => true)

/-- A turn, once its time has come. A word that comes too late for this core cycle loses its turn (R12). -/
def turnStep (t : Turn) (s : State) : Host.Outcome State Fault Refusal :=
  match t with
  | .thread w =>
    match State.fetch { s with cur := w } with
    | .go i u => if s.late (wordRank i w.th) then .next { s with cur := w } else exec i (u.stamp (wordRank i w.th) true)
    | .stop u => .next (u.stamp 2 true)
  | .seq c =>
    match State.seqFetch { s with cur := ⟨c, .c⟩ } with
    | .go i u => exec i (u.stamp (wordRank i .c) true)
    | .stop u => .next (u.stamp 2 true)
  | .event i => if isEvent i && (!s.dev.frozen || thaws i) then exec i (s.stamp (eventRank i) false) else .next s

def step (s : State) : Host.Outcome State Fault Refusal :=
  match s.agenda with
  | [] => .next (s.passTo (s.now + Config.ticksPerCycle))
  | a :: rest => turnStep a.turn (State.passTo { s with agenda := rest } (s.moment (s.now + a.dt) a.turn))

/-! ### Placing one instruction where the next step runs it -/

/-- The bytes of the two page-table entries that map the first GiB of addresses to the first GiB of HBM, for
reads, writes and text. -/
def mapEntries (st : Store Byte) : Store Byte :=
  Store.put 0 (Store.put 0 st 0 (natBytes 8 0x100001)) 0x100000 (natBytes 8 0xE5)

/-- Text of one section at 0x200000: a header of one word, then the bytes of the instruction. -/
def placeText (st : Store Byte) (bs : List Byte) : Store Byte :=
  Store.put 0 (mapEntries st) 0x200008 bs

/-- The header that placed words stand under: one word, no waits, no flags. -/
def placeHdr : SecHdr := { SecHdr.zero with mark := 0xE5, len := 1 }

def placeCtx : Ctx := { Ctx.free with st := .running, cores := 1 }

/-- Core 0 with a tile task of context 0 whose engine t stands at the word at 0x200008, or at the header at
0x200000. -/
def placeCore (c : Core) (t : Thread) (hdr : Bool) : Core :=
  { c with
    region := .active
    task := some ⟨0, 0, 0, 0x100000, .running, false, false, [], 0, [], []⟩
    arch := c.arch.modEng t (fun e =>
      if hdr then { e with run := .run, pc := 0x200000, left := 0, arrived := true }
      else { e with run := .run, pc := 0x200008, left := 1, sec := placeHdr, secAddr := 0x200000, inst := 1 }) }

/-- The state with one instruction stored where the next step fetches it: a kernel word (more than 64 bits) or
a section header as text of core 0, its engine made to stand there with a tile task of context 0 and a page
table; any other unit of 64 bits as the next word of core 0's sequencer (log entry 1). -/
def State.withFetchWord (s : State) (nbits w : Nat) : State :=
  let x : BitVec 64 := BitVec.ofNat 64 w
  if 64 < nbits then
    let t := Thread.ofCode (wTag (BitVec.ofNat 96 w))
    { (s.modCore 0 (fun c => placeCore c t false)) with
      agenda := [⟨0, .thread ⟨0, t⟩⟩]
      dev := { s.dev.setCtx 0 placeCtx with hbm := placeText s.dev.hbm (natBytes 12 w) } }
  else if x.extractLsb' 56 8 = (0xE5 : BitVec 8) then
    { (s.modCore 0 (fun c => placeCore c .c true)) with
      agenda := [⟨0, .thread ⟨0, .c⟩⟩]
      dev := { s.dev.setCtx 0 placeCtx with hbm := Store.put 0 (mapEntries s.dev.hbm) 0x200000 (natBytes 8 w) } }
  else
    { (s.modCore 0 (fun c => c.modArch (fun a =>
        { a with seq := { a.seq with running := true, pc := 0, lmem := Store.put 0 a.seq.lmem 0 (natBytes 8 w) } }))) with
      agenda := [⟨0, .seq 0⟩] }

end Sys2Proof.Machine
end

