-- ==== Sys2Proof/Safety.lean ====
section
/-! DEFINITION. The terms in which claims about runs are made: a run that goes on, the canonical form of every
memory, what two states have in common, and a kernel word that runs with its own effect. -/

namespace Sys2Proof.Machine

open Sys2Proof

/-- The machine goes on from here: no fault and no refusal. -/
def State.goesOn (s : State) : Prop := ∃ t, step s = .next t

/-- A state that some number of steps reaches. -/
inductive Reaches : State → State → Prop where
  | here (s : State) : Reaches s s
  | step {s t u : State} (h : Reaches s t) (e : Machine.step t = .next u) : Reaches s u

/-- A run from s is safe: whatever it reaches goes on. -/
def State.safe (s : State) : Prop := ∀ t, Reaches s t → t.goesOn

/-- Every memory of the device outside its cores has the canonical form. -/
def Dev.memWf (d : Dev) : Bool :=
  Store.wf 0 d.hbm && Store.wf false d.hbmP && Store.wf 0 d.host && Store.wf 0 d.pool && Store.wf false d.poolP

/-- So has every memory of a core. -/
def Arch.memWf (a : Arch) : Bool :=
  Store.wf 0 a.tiles && Store.wf 0 a.wfile && Store.wf 0 a.latches && Store.wf 0 a.scr && Store.wf 0 a.acc &&
    Store.wf 0 a.barMem && Store.wf 0 a.seq.lmem && Store.wf 0 a.engC.spill && Store.wf 0 a.engA.spill &&
    Store.wf 0 a.engV.spill && Store.wf 0 a.engM.spill

/-- Every memory of the machine reads the same: HBM, host memory, the pool, and every core's scratchpad. -/
def State.sameMemory (s t : State) : Prop :=
  (∀ a, Store.get 0 t.dev.hbm a = Store.get 0 s.dev.hbm a) ∧ (∀ a, Store.get 0 t.dev.host a = Store.get 0 s.dev.host a) ∧
    (∀ o, t.dev.poolByte o = s.dev.poolByte o) ∧
    ∀ c a, Store.get 0 (t.core c).arch.scr a = Store.get 0 (s.core c).arch.scr a

/-- Two states have all in common but the core of the current thread (and the model's count of free values). -/
def State.sameOutside (s t : State) : Prop :=
  t.now = s.now ∧ t.agenda = s.agenda ∧ t.phase = s.phase ∧ t.cur = s.cur ∧ t.irqs = s.irqs ∧ t.wire = s.wire ∧ t.resp = s.resp ∧
    t.dev = s.dev ∧ ∀ c, c ≠ s.cur.core → t.core c = s.core c

/-- Two cores differ at most in their restorable state. -/
def Core.sameButArch (c d : Core) : Prop := d = { c with arch := d.arch }

/-- Two states have all in common but what is ordered before what: the notes on the writes in the device's log, on those it
has discarded and in the current core's restorable state (R227). -/
def State.sameButOrder (s t : State) : Prop :=
  t.now = s.now ∧ t.agenda = s.agenda ∧ t.phase = s.phase ∧ t.cur = s.cur ∧ t.irqs = s.irqs ∧ t.wire = s.wire ∧ t.resp = s.resp ∧
    t.dev = { s.dev with wlog := t.dev.wlog, discarded := t.dev.discarded } ∧ (∀ c, c ≠ s.cur.core → t.core c = s.core c) ∧
    s.here.sameButArch t.here

/-- Two restorable states differ at most in one engine. -/
def Arch.sameButEng (a b : Arch) (t : Thread) : Prop := b = a.setEng t (b.eng t)

/-- Two engines agree on their target registers, their saved state and their spill store. -/
def Eng.sameSaved (a b : Eng) : Prop :=
  b.t = a.t ∧ b.status = a.status ∧ b.cause = a.cause ∧ b.epc = a.epc ∧ b.eaddr = a.eaddr ∧ b.tvec = a.tvec ∧
    b.spill = a.spill ∧ b.spillP = a.spillP

/-- The register that a scalar word writes, for the words that write nothing else (R82 to R89). -/
def scalarDest : Instr → Option (BitVec 5)
  | .add _ f | .sub _ f | .mul _ f | .mulh _ f | .mulhu _ f | .div _ f | .divu _ f | .rem _ f | .remu _ f | .and _ f
  | .or _ f | .xor _ f | .andn _ f | .orn _ f | .shl _ f | .shr _ f | .sar _ f | .rotl _ f | .min _ f | .max _ f
  | .minu _ f | .maxu _ f | .cmp _ f | .sel _ f | .lea _ f | .clz _ f | .ctz _ f | .popc _ f | .bext _ f | .bins _ f
  | .bset _ f | .bclr _ f => some f.d
  | .addi _ f | .movi _ f | .moviZ _ f | .moviHi _ f | .mfs _ f => some f.d
  | .movw _ f | .movwZ _ f => some f.d
  | _ => none

/-- A kernel word passes check 2 of R27, its guard holds and its stage is active (R25, R120): it runs. -/
def runs (i : Instr) (h : Hdr) (s : State) : Prop := check2 i s.eng = none ∧ s.live h = true

/-- The banks of main registers are ON and none of them still wakes (R71, R72). -/
def State.banksOn (s : State) (regs : List Nat) : Prop :=
  ∀ b ∈ banksOf regs, bitsOf s.arch.bankPwr.toNat (2 * b + 1) (2 * b) = 1 ∧ Store.get 0 s.arch.bankWake b ≤ s.cycle

/-- A V word of this form may run: it reads no latch in a handler, its banks are on, the queue entries it pops are
there, t being the state after the pops, and the shadow pool has room for a register and its copy (R69, R79, R130). -/
def State.vectorReady (s : State) (v : VForm) (t : State) : Prop :=
  s.latchRead v.named = false ∧ s.banksOn (s.mainRegs v.named ++ v.regs) ∧
    s.popSources v.pops v.shape = some t ∧ s.here.shadUsed + 16 ≤ 2048

/-- From s to u the destination d received the containers of cells; of the main file nothing else changed (R29), and
neither did the engine's general registers, scratchpad, accumulators or any memory. -/
def State.wrote (s u : State) (d : BitVec 20) (cells : List Cell) : Prop :=
  (∀ x ∈ cells, Store.get 0 (u.arch.tileStore (tLvl d)) (s.regOf d * 1024 + 64 * x.row + x.col) = x.val) ∧
    (∀ k, (tLvl d = 0 → ∀ x ∈ cells, k ≠ s.regOf d * 1024 + 64 * x.row + x.col) →
      Store.get 0 u.arch.tiles k = Store.get 0 s.arch.tiles k) ∧
    u.eng.g = s.eng.g ∧ u.arch.scr = s.arch.scr ∧ u.arch.acc = s.arch.acc ∧ s.sameMemory u

/-- A sequencer word that began in s has come about as t: a stall on the Pan is over, and the next word follows, one cycle later
at the earliest. -/
def State.seqDone (s t : State) : State := (t.modHere (fun c => c.producerGoes panSeq)).modSeq (fun q => { q.next with busy := max q.busy (s.cycle + 1) })

/-- The same for a word that writes register r of the sequencer and nothing else. -/
def State.seqWrites (s : State) (r : BitVec 4) (v : W64) : State := s.seqDone (s.modSeq (fun q => q.setX r v))

/-- The state after a taken branch of the sequencer to pc (R394). -/
def State.seqAtPc (s : State) (pc : W64) : State :=
  s.modSeq (fun q => { q with pc := pc, stallSince := none, busy := s.cycle + 2 })

/-- The Pan has room for what a word has put into the hold queue and the shadow pool (R346, R347). -/
def panRoom (s t : State) : Prop := s.here.panLacks t.here = false

end Sys2Proof.Machine
end

