-- ==== Sys2Proof/Certificates/Slice0/Obligations.lean ====
section
/-! DEFINITION. The statements for the provers. A statement of the form exec i s = .next t gives the whole next
state; State.wordDone s t is t with the word that began in s retired. -/

open Sys2Proof Sys2Proof.Machine

/-! ### Scalar words (05_scalar) -/

/-- R82: the results of the additions and the products. -/
def Obligations.ArithmeticResults : Prop := ∀ (h : Hdr) (s : State),
  (∀ f : S3, runs (.add h f) h s → exec (.add h f) s = .next (s.wordDone (s.setG f.d (s.g f.a + s.op2 f)))) ∧
  (∀ f : S3, runs (.sub h f) h s → exec (.sub h f) s = .next (s.wordDone (s.setG f.d (s.g f.a - s.op2 f)))) ∧
  (∀ f : SI, runs (.addi h f) h s →
    exec (.addi h f) s = .next (s.wordDone (s.setG f.d (s.g f.a + f.imm.signExtend 64)))) ∧
  (∀ f : S3, runs (.mul h f) h s →
    exec (.mul h f) s = .next (s.wordDone (s.setG f.d (BitVec.ofNat 64 ((s.g f.a).toNat * (s.op2 f).toNat))))) ∧
  (∀ f : S3, runs (.mulh h f) h s →
    exec (.mulh h f) s =
      .next (s.wordDone (s.setG f.d (BitVec.ofInt 64 ((s.g f.a).toInt * (s.op2 f).toInt / 2 ^ 64))))) ∧
  (∀ f : S3, runs (.mulhu h f) h s →
    exec (.mulhu h f) s =
      .next (s.wordDone (s.setG f.d (BitVec.ofNat 64 ((s.g f.a).toNat * (s.op2 f).toNat / 2 ^ 64)))))

/-- R83 (and R82): a division word writes the quotient rounded toward zero, or the remainder, and keeps its engine's one
divider for 36 cycles (R99); while the divider is busy the word stalls at issue. -/
def Obligations.DivisionResults : Prop := ∀ (h : Hdr) (f : S3) (s : State),
  (∀ t : State, s.cycle < s.eng.divBusy → t = (if s.cur.th = .chap then s.stalledNow else s) →
    (runs (.div h f) h s → exec (.div h f) s = .next t) ∧ (runs (.divu h f) h s → exec (.divu h f) s = .next t) ∧
    (runs (.rem h f) h s → exec (.rem h f) s = .next t) ∧ (runs (.remu h f) h s → exec (.remu h f) s = .next t)) ∧
  (s.eng.divBusy ≤ s.cycle →
    (runs (.div h f) h s → exec (.div h f) s = .next (s.wordDone ((s.setG f.d
      (if s.g f.b = 0 then 0xFFFFFFFFFFFFFFFF else BitVec.ofInt 64 ((s.g f.a).toInt.tdiv (s.g f.b).toInt))).modEng
        (fun e => { e with divBusy := s.cycle + 36 })))) ∧
    (runs (.divu h f) h s → exec (.divu h f) s = .next (s.wordDone ((s.setG f.d
      (if s.g f.b = 0 then 0xFFFFFFFFFFFFFFFF else BitVec.ofNat 64 ((s.g f.a).toNat / (s.g f.b).toNat))).modEng
        (fun e => { e with divBusy := s.cycle + 36 })))) ∧
    (runs (.rem h f) h s → exec (.rem h f) s = .next (s.wordDone ((s.setG f.d
      (if s.g f.b = 0 then s.g f.a else BitVec.ofInt 64 ((s.g f.a).toInt.tmod (s.g f.b).toInt))).modEng
        (fun e => { e with divBusy := s.cycle + 36 })))) ∧
    (runs (.remu h f) h s → exec (.remu h f) s = .next (s.wordDone ((s.setG f.d
      (if s.g f.b = 0 then s.g f.a else BitVec.ofNat 64 ((s.g f.a).toNat % (s.g f.b).toNat))).modEng
        (fun e => { e with divBusy := s.cycle + 36 })))))

/-- R82: bit n of the result of a logic form is the function of the operands' bits n; shifts and rotations move bit n of a
by idx places, filling with zeros, with the sign, or with the bits that leave. -/
def Obligations.LogicAndShiftResults : Prop := ∀ (h : Hdr) (f : S3) (s : State),
  (runs (.and h f) h s → ∃ v : W64, exec (.and h f) s = .next (s.wordDone (s.setG f.d v)) ∧
    ∀ n, n < 64 → v.getLsbD n = ((s.g f.a).getLsbD n && (s.op2 f).getLsbD n)) ∧
  (runs (.or h f) h s → ∃ v : W64, exec (.or h f) s = .next (s.wordDone (s.setG f.d v)) ∧
    ∀ n, n < 64 → v.getLsbD n = ((s.g f.a).getLsbD n || (s.op2 f).getLsbD n)) ∧
  (runs (.xor h f) h s → ∃ v : W64, exec (.xor h f) s = .next (s.wordDone (s.setG f.d v)) ∧
    ∀ n, n < 64 → v.getLsbD n = ((s.g f.a).getLsbD n ^^ (s.op2 f).getLsbD n)) ∧
  (runs (.andn h f) h s → ∃ v : W64, exec (.andn h f) s = .next (s.wordDone (s.setG f.d v)) ∧
    ∀ n, n < 64 → v.getLsbD n = ((s.g f.a).getLsbD n && !(s.op2 f).getLsbD n)) ∧
  (runs (.orn h f) h s → ∃ v : W64, exec (.orn h f) s = .next (s.wordDone (s.setG f.d v)) ∧
    ∀ n, n < 64 → v.getLsbD n = ((s.g f.a).getLsbD n || !(s.op2 f).getLsbD n)) ∧
  (runs (.shl h f) h s → ∃ v : W64, exec (.shl h f) s = .next (s.wordDone (s.setG f.d v)) ∧
    ∀ n, n < 64 → v.getLsbD n = (decide (s.idx f ≤ n) && (s.g f.a).getLsbD (n - s.idx f))) ∧
  (runs (.shr h f) h s → ∃ v : W64, exec (.shr h f) s = .next (s.wordDone (s.setG f.d v)) ∧
    ∀ n, n < 64 → v.getLsbD n = (s.g f.a).getLsbD (n + s.idx f)) ∧
  (runs (.sar h f) h s → ∃ v : W64, exec (.sar h f) s = .next (s.wordDone (s.setG f.d v)) ∧
    ∀ n, n < 64 → v.getLsbD n = (s.g f.a).getLsbD (min 63 (n + s.idx f))) ∧
  (runs (.rotl h f) h s → ∃ v : W64, exec (.rotl h f) s = .next (s.wordDone (s.setG f.d v)) ∧
    ∀ n, n < 64 → v.getLsbD ((n + s.idx f) % 64) = (s.g f.a).getLsbD n)

/-- R82, R84, R85: the minima and maxima; the condition codes in one bit of gd; the choice by a bit of g[c]. -/
def Obligations.CompareAndSelectResults : Prop := ∀ (h : Hdr) (f : S3) (s : State),
  (runs (.min h f) h s → ∃ v : W64, exec (.min h f) s = .next (s.wordDone (s.setG f.d v)) ∧
    v.toInt = min (s.g f.a).toInt (s.op2 f).toInt) ∧
  (runs (.max h f) h s → ∃ v : W64, exec (.max h f) s = .next (s.wordDone (s.setG f.d v)) ∧
    v.toInt = max (s.g f.a).toInt (s.op2 f).toInt) ∧
  (runs (.minu h f) h s → ∃ v : W64, exec (.minu h f) s = .next (s.wordDone (s.setG f.d v)) ∧
    v.toNat = min (s.g f.a).toNat (s.op2 f).toNat) ∧
  (runs (.maxu h f) h s → ∃ v : W64, exec (.maxu h f) s = .next (s.wordDone (s.setG f.d v)) ∧
    v.toNat = max (s.g f.a).toNat (s.op2 f).toNat) ∧
  (runs (.cmp h f) h s → ∃ b : Bool,
    exec (.cmp h f) s = .next (s.wordDone (s.setG f.d (setBit (s.g f.d) f.n.toNat b))) ∧
    (f.cond = 0x0 → (b = true ↔ s.g f.a = s.cmpOp2 f)) ∧ (f.cond = 0x1 → (b = true ↔ s.g f.a ≠ s.cmpOp2 f)) ∧
    (f.cond = 0x2 → (b = true ↔ (s.g f.a).toInt < (s.cmpOp2 f).toInt)) ∧
    (f.cond = 0x3 → (b = true ↔ (s.cmpOp2 f).toInt ≤ (s.g f.a).toInt)) ∧
    (f.cond = 0x4 → (b = true ↔ (s.g f.a).toNat < (s.cmpOp2 f).toNat)) ∧
    (f.cond = 0x5 → (b = true ↔ (s.cmpOp2 f).toNat ≤ (s.g f.a).toNat)) ∧
    (f.cond = 0x6 → (b = true ↔ (s.cmpOp2 f).toInt < (s.g f.a).toInt)) ∧
    (f.cond = 0x7 → (b = true ↔ (s.g f.a).toInt ≤ (s.cmpOp2 f).toInt)) ∧
    (f.cond = 0x8 → (b = true ↔ (s.cmpOp2 f).toNat < (s.g f.a).toNat)) ∧
    (f.cond = 0x9 → (b = true ↔ (s.g f.a).toNat ≤ (s.cmpOp2 f).toNat)) ∧
    (f.cond = 0xA → (b = true ↔ s.g f.a &&& s.cmpOp2 f ≠ 0)) ∧
    (f.cond = 0xB → (b = true ↔ s.g f.a &&& s.cmpOp2 f = 0))) ∧
  (runs (.sel h f) h s → exec (.sel h f) s =
    .next (s.wordDone (s.setG f.d (if (s.g f.c).getLsbD f.n.toNat then s.g f.a else s.g f.b))))

/-- R86, R87: immediates and address sums. R88: counts and single bits. -/
def Obligations.ConstantAndBitResults : Prop :=
  (∀ (h : Hdr) (s : State),
  (∀ f : SI, runs (.movi h f) h s →
    exec (.movi h f) s = .next (s.wordDone (s.setG f.d (BitVec.ofInt 64 f.imm.toInt)))) ∧
  (∀ f : SI, runs (.moviZ h f) h s →
    exec (.moviZ h f) s = .next (s.wordDone (s.setG f.d (BitVec.ofNat 64 f.imm.toNat)))) ∧
  (∀ f : SI, runs (.moviHi h f) h s → exec (.moviHi h f) s = .next (s.wordDone (s.setG f.d
    (BitVec.ofNat 64 (f.imm.toNat * 2 ^ 32 + (s.g f.d).toNat % 2 ^ 32))))) ∧
  (∀ f : SW, runs (.movw h f) h s →
    exec (.movw h f) s = .next (s.wordDone (s.setG f.d (BitVec.ofInt 64 f.imm.toInt)))) ∧
  (∀ f : SW, runs (.movwZ h f) h s →
    exec (.movwZ h f) s = .next (s.wordDone (s.setG f.d (BitVec.ofNat 64 f.imm.toNat)))) ∧
  (∀ f : S3, runs (.lea h f) h s → exec (.lea h f) s = .next (s.wordDone (s.setG f.d
    (BitVec.ofInt 64 ((s.g f.a).toNat + (s.g f.b).toNat * 2 ^ f.n.toNat + f.imm.toInt)))))) ∧
  (∀ (h : Hdr) (f : S3) (s : State),
  (runs (.clz h f) h s → ∃ n : Nat, exec (.clz h f) s = .next (s.wordDone (s.setG f.d (BitVec.ofNat 64 n))) ∧
    n ≤ 64 ∧ (∀ k, k < n → (s.g f.a).getLsbD (63 - k) = false) ∧ (n < 64 → (s.g f.a).getLsbD (63 - n) = true)) ∧
  (runs (.ctz h f) h s → ∃ n : Nat, exec (.ctz h f) s = .next (s.wordDone (s.setG f.d (BitVec.ofNat 64 n))) ∧
    n ≤ 64 ∧ (∀ k, k < n → (s.g f.a).getLsbD k = false) ∧ (n < 64 → (s.g f.a).getLsbD n = true)) ∧
  (runs (.popc h f) h s → exec (.popc h f) s = .next (s.wordDone (s.setG f.d (BitVec.ofNat 64
    ((List.range 64).countP (fun n => (s.g f.a).getLsbD n)))))) ∧
  (runs (.bext h f) h s → exec (.bext h f) s =
    .next (s.wordDone (s.setG f.d (if (s.g f.a).getLsbD (s.idx f) then 1 else 0)))) ∧
  (runs (.bins h f) h s → ∃ v : W64, exec (.bins h f) s = .next (s.wordDone (s.setG f.d v)) ∧
    ∀ n, n < 64 → v.getLsbD n = if n = s.idx f then (s.g f.c).getLsbD 0 else (s.g f.a).getLsbD n) ∧
  (runs (.bset h f) h s → ∃ v : W64, exec (.bset h f) s = .next (s.wordDone (s.setG f.d v)) ∧
    ∀ n, n < 64 → v.getLsbD n = if n = s.idx f then true else (s.g f.a).getLsbD n) ∧
  (runs (.bclr h f) h s → ∃ v : W64, exec (.bclr h f) s = .next (s.wordDone (s.setG f.d v)) ∧
    ∀ n, n < 64 → v.getLsbD n = if n = s.idx f then false else (s.g f.a).getLsbD n))

/-! ### Encodings -/

/-- R17, R23, R31, R36: decoding the encoder's word of a well-formed kernel form gives the form, with every operand at
every value its encoding admits. -/
def Obligations.KernelWordRoundTrip : Prop := ∀ (i : Instr) (h : Hdr) (c : BitVec 10),
  hdrOf i = some h → opcOf i = some c → WellFormed i = true → h.tag.toNat ∈ enginesOf c.toNat →
    ∃ w, encodeWord i = some w ∧ decodeWord w = .ok i

/-! ### Special registers, spill store, windows, scratchpad, cross-engine queues -/

/-- R89, R75, R76: MFS writes d with the register; MTS writes the register, which then reads as the value where it holds
all of it. An access without the right takes PRIVILEGE, a value out of range RESERVED_FIELD. R70 to R73: a write of
VBANKPWR that turns no bank OFF takes effect when it retires, the read-only fields kept; one that turns a bank OFF
first requests a commit point and waits until that is sealed. -/
def Obligations.SpecialRegisterWords : Prop :=
  (∀ (h : Hdr) (f : SI) (s : State),
  (runs (.mfs h f) h s → exec (.mfs h f) s = .next (s.wordDone (s.setG f.d (s.readSpr f.imm.toNat)))) ∧
  (runs (.mts h f) h s → sprRange f.imm.toNat (s.g f.a) = true → f.imm.toNat ≠ 0x011 →
    exec (.mts h f) s = .next (s.wordDone (s.writeSpr f.imm.toNat (s.g f.a))) ∧
    (f.imm.toNat ∈ [0x001, 0x002, 0x003, 0x004, 0x010, 0x013, 0x024, 0x025, 0x030, 0x031, 0x032] →
      (s.writeSpr f.imm.toNat (s.g f.a)).readSpr f.imm.toNat = s.g f.a) ∧
    (f.imm.toNat = 0x012 → (s.writeSpr 0x012 (s.g f.a)).readSpr 0x012 = s.g f.a &&& 0xFF00)) ∧
  (runs (.mts h f) h s → sprRange f.imm.toNat (s.g f.a) = false →
    exec (.mts h f) s = .next (s.trap Code.reservedField none)) ∧
  (sprAssigned f.imm = true → sprAccess f.imm.toNat (statusPriv s.eng.status) false = false →
    exec (.mfs h f) s = .next (s.trap Code.privilege none)) ∧
  (sprAssigned f.imm = true → sprAccess f.imm.toNat (statusPriv s.eng.status) true = false →
    exec (.mts h f) s = .next (s.trap Code.privilege none))) ∧
  (∀ (h : Hdr) (f : SI) (s : State), runs (.mts h f) h s →
  f.imm.toNat = 0x011 → sprRange 0x011 (s.g f.a) = true →
  s.arch.bankInUse s.cycle (bankPwrWrite s.arch.bankPwr (s.g f.a)) = false →
  (turnsOff s.arch.bankPwr (bankPwrWrite s.arch.bankPwr (s.g f.a)) = false → ∃ t : State,
    exec (.mts h f) s = .next (s.wordDone t) ∧
    (∀ n, 4 ≤ n → n < 24 → t.arch.bankPwr.getLsbD n = (s.g f.a).getLsbD n) ∧
    (∀ n, n < 4 ∨ 24 ≤ n → t.arch.bankPwr.getLsbD n = s.arch.bankPwr.getLsbD n)) ∧
  (turnsOff s.arch.bankPwr (bankPwrWrite s.arch.bankPwr (s.g f.a)) = true → s.eng.ask = none → ∃ t : State,
    exec (.mts h f) s = .next t ∧ t.here.cpReq = s.here.cpReq ++ [.word] ∧ t.arch.bankPwr = s.arch.bankPwr ∧
      t.eng.pc = s.eng.pc))

/-- R90 to R93: loads from the spill store and from a bound window, and the store, with their bytes. A window's bytes
beyond its bound read 0 and set OOB; an unbound window raises PARAM_UNBOUND. R94, R95: SLD reads the bytes at g[a] +
sext(imm32); SST writes the low bytes of its register there, and every other byte of scratchpad stays. Beyond 8 MiB
RESERVED_FIELD is raised, off alignment MISALIGNED. -/
def Obligations.SpillWindowAndScratchWords : Prop :=
  (∀ (h : Hdr) (f : SI) (s : State),
  (runs (.spld h f) h s → f.imm.toNat % subBytes f.sub = 0 → exec (.spld h f) s = .next (s.wordDone
    ((s.setG f.d (extend f.sub (Store.run 0 s.eng.spill f.imm.toNat (subBytes f.sub)))).notePoison
      (marked s.eng.spillP 64 f.imm.toNat (subBytes f.sub))))) ∧
  (runs (.spst h f) h s → f.imm.toNat % subBytes f.sub = 0 → s.here.shadUsed < 2048 → ∃ t : State,
    exec (.spst h f) s = .next (s.wordDone t) ∧ t.eng.g = s.eng.g ∧
    ∀ a, Store.get 0 t.eng.spill a = if f.imm.toNat ≤ a ∧ a < f.imm.toNat + subBytes f.sub
      then BitVec.ofNat 8 ((s.g f.d).toNat / 256 ^ (a - f.imm.toNat)) else Store.get 0 s.eng.spill a) ∧
  (∀ w : Window, runs (.pld h f) h s → s.arch.wins[(f.n.extractLsb' 0 3).toNat] = some w →
    (s.g f.a + f.imm.signExtend 64).toNat % subBytes f.sub = 0 → ∃ t : State,
    exec (.pld h f) s = .next (s.wordDone t) ∧
    (f.d ≠ 0 → t.g f.d = extend f.sub (s.windowBytes w (s.g f.a + f.imm.signExtend 64).toNat (subBytes f.sub))) ∧
    (∀ k, k < subBytes f.sub → w.size ≤ (s.g f.a + f.imm.signExtend 64).toNat + k →
      (s.windowBytes w (s.g f.a + f.imm.signExtend 64).toNat (subBytes f.sub)).getD k 1 = 0) ∧
    t.arch.pwstat = if w.size < (s.g f.a + f.imm.signExtend 64).toNat + subBytes f.sub
      then s.arch.pwstat ||| ((1 : W32) <<< (f.n.extractLsb' 0 3).toNat) else s.arch.pwstat) ∧
  (runs (.pld h f) h s → s.arch.wins[(f.n.extractLsb' 0 3).toNat] = none →
    exec (.pld h f) s = .next (s.trap Code.paramUnbound (some (s.g f.a + f.imm.signExtend 64))))) ∧
  (∀ (h : Hdr) (f : SI) (s : State),
  (runs (.sld h f) h s → s.scrAddr f < 8388608 → s.scrAddr f % subBytes f.sub = 0 →
    s.keepHit s.cur.core s.here.ctx (s.scrAddr f) (subBytes f.sub) = false →
    exec (.sld h f) s = .next (s.wordDone
      ((s.setG f.d (extend f.sub ((s.lview (subBytes f.sub)).scrRead (s.scrAddr f) (subBytes f.sub)))).notePoison
        (s.arch.scrPoisoned (s.scrAddr f) (subBytes f.sub))))) ∧
  (runs (.sst h f) h s → s.scrAddr f < 8388608 → s.scrAddr f % subBytes f.sub = 0 →
    s.keepHit s.cur.core s.here.ctx (s.scrAddr f) (subBytes f.sub) = false →
    s.arch.leased (s.scrAddr f) (subBytes f.sub) = false → s.here.shadUsed < 2048 → ∃ t : State,
    exec (.sst h f) s = .next (s.wordDone t) ∧ t.eng = s.eng ∧
    ∀ a, Store.get 0 t.arch.scr a = if s.scrAddr f ≤ a ∧ a < s.scrAddr f + subBytes f.sub
      then BitVec.ofNat 8 ((s.g f.d).toNat / 256 ^ (a - s.scrAddr f)) else Store.get 0 s.arch.scr a) ∧
  (runs (.sld h f) h s → 8388608 ≤ s.scrAddr f →
    exec (.sld h f) s = .next (s.trap Code.reservedField (some (s.g f.a + f.imm.signExtend 64)))) ∧
  (runs (.sst h f) h s → 8388608 ≤ s.scrAddr f →
    exec (.sst h f) s = .next (s.trap Code.reservedField (some (s.g f.a + f.imm.signExtend 64)))) ∧
  (runs (.sst h f) h s → s.scrAddr f < 8388608 → s.scrAddr f % subBytes f.sub ≠ 0 →
    exec (.sst h f) s = .next (s.trap Code.misaligned (some (s.g f.a + f.imm.signExtend 64)))))

/-- R96, R97: PUTX appends g[a] to the queue toward the named engine, or discards it when that engine has retired TASKEND;
with 8 entries it stalls. GETX takes the oldest entry, and stalls on an empty queue. Of the queues no other changes,
and of registers d alone. -/
def Obligations.CrossQueueWords : Prop := ∀ (h : Hdr) (f : S3) (s : State) (q : Fin 16),
  (runs (.putx h f) h s → q = qIndex s.cur.th.code (f.n.extractLsb' 0 2) →
    (s.arch.eng (Thread.ofCode (f.n.extractLsb' 0 2))).done = false → s.arch.putx[q].length < 8 →
    ∃ t : State, exec (.putx h f) s = .next (s.wordDone t) ∧ t.arch.putx[q] = s.arch.putx[q] ++ [s.g f.a] ∧
    (∀ p : Fin 16, p ≠ q → t.arch.putx[p] = s.arch.putx[p]) ∧ t.arch.scr = s.arch.scr ∧ t.eng = s.eng ∧
    s.sameOutside t ∧ s.here.sameButArch t.here ∧ s.sameMemory t) ∧
  (runs (.putx h f) h s → (s.arch.eng (Thread.ofCode (f.n.extractLsb' 0 2))).done = true →
    exec (.putx h f) s = .next (s.wordDone s)) ∧
  (runs (.putx h f) h s → q = qIndex s.cur.th.code (f.n.extractLsb' 0 2) →
    (s.arch.eng (Thread.ofCode (f.n.extractLsb' 0 2))).done = false → 8 ≤ s.arch.putx[q].length →
    exec (.putx h f) s = .next s.stalledNow) ∧
  (∀ (v : W64) (l : List W64), runs (.getx h f) h s → q = qIndex (f.n.extractLsb' 0 2) s.cur.th.code →
    s.arch.putx[q] = v :: l →
    ∃ t : State, exec (.getx h f) s = .next (s.wordDone (t.setG f.d v)) ∧ t.arch.putx[q] = l ∧
    (∀ p : Fin 16, p ≠ q → t.arch.putx[p] = s.arch.putx[p]) ∧ t.arch.scr = s.arch.scr ∧ t.eng = s.eng ∧
    s.sameButOrder t ∧ s.sameMemory t) ∧
  (runs (.getx h f) h s → q = qIndex (f.n.extractLsb' 0 2) s.cur.th.code → s.arch.putx[q] = [] →
    exec (.getx h f) s = .next s.stalledNow)

/-- The frame of the scalar words that write a register only: of the whole machine they change the executing engine, and
in it, of registers and saved state, d alone (g0 stays 0). -/
def Obligations.ScalarFrame : Prop := ∀ (i : Instr) (d : BitVec 5) (s u : State), scalarDest i = some d →
  check2 i s.eng = none → exec i s = .next u →
  s.sameOutside u ∧
    (∃ c : Core, (c = s.here ∨ (s.cur.th = .chap ∧ c = s.here.slotUsed .chap s.cycle)) ∧ c.sameButArch u.here ∧
      c.arch.sameButEng u.arch s.cur.th) ∧ s.eng.sameSaved u.eng ∧
    (∀ r, r ≠ d → u.g r = s.g r) ∧ u.g 0 = 0 ∧ s.sameMemory u

/-- R85 and R87, whole: SEL and LEA with their results; no form of SEL with I or cond other than 0, and none of LEA with
I, c or cond other than 0, is well-formed. -/
def Obligations.SelectAndAddressRules : Prop := ∀ (h : Hdr) (f : S3) (s : State),
  (runs (.sel h f) h s → ∃ t : State, exec (.sel h f) s = .next (s.wordDone t) ∧
    (f.d ≠ 0 → t.g f.d = if (s.g f.c).getLsbD f.n.toNat = true then s.g f.a else s.g f.b) ∧
    ∀ r, r ≠ f.d → t.g r = s.g r) ∧
  (runs (.lea h f) h s → ∃ t : State, exec (.lea h f) s = .next (s.wordDone t) ∧
    (f.d ≠ 0 → t.g f.d = BitVec.ofInt 64 ((s.g f.a).toNat + (s.g f.b).toNat * 2 ^ f.n.toNat + f.imm.toInt)) ∧
    ∀ r, r ≠ f.d → t.g r = s.g r) ∧
  (WellFormed (.sel h f) = true → f.i = 0 ∧ f.cond = 0) ∧
  (WellFormed (.lea h f) = true → f.i = 0 ∧ f.c = 0 ∧ f.cond = 0)

/-! ### Branches, loops, the end of the task -/

/-- R111, R112, R115 to R118: PBR loads a target register; a transfer word decides and its delay word comes next; JMPL
saves the address of the header that follows. A transfer word in a delay slot raises DELAY_SLOT_BRANCH. R113, R116:
with room in the queues toward the engines that have not retired TASKEND, a branch outcome is appended to each of them
and to no other queue. R111, with no delay word pending: a decided transfer leaves its word with the branch pending;
when the next word retires, a taken branch redirects to its target and an untaken one goes on. -/
def Obligations.BranchWords : Prop :=
  (∀ (h : Hdr) (f : BrF) (s : State),
  (runs (.pbr h f) h s → exec (.pbr h f) s = .next (s.wordDone
    (s.modEng (fun e => e.setT f.t (BitVec.ofInt 64 (s.eng.pc.toNat + 4 * f.imm.toInt)))))) ∧
  (f.pusho = 0 → s.eng.delay = none → exec (.br h f) s = .next (s.wordDone
    (if s.live h then s.branchTo true (s.eng.getT f.t) else s.branchTo false 0))) ∧
  (∀ a : Arch, f.pusho = 1 → s.here.suppressed s.eng = false → s.eng.delay = none →
    s.arch.pushOutcome s.cur.th (s.eng.guard h) = some a → exec (.br h f) s = .next (s.wordDone
      ((s.modArch (fun _ => a)).branchTo (s.eng.guard h) (s.eng.getT f.t)))) ∧
  (∀ (q : Fin 16) (b : Bool) (l : List Bool), runs (.bro h f) h s → s.eng.delay = none →
    q = qIndex f.q s.cur.th.code → s.arch.bout[q] = b :: l → exec (.bro h f) s = .next (s.wordDone
      ((s.modArch (fun a => { a with bout := a.bout.set q l })).branchTo b (s.eng.getT f.t)))) ∧
  (s.live h = true → s.eng.delay = none → exec (.jmpl h f) s = .next (s.wordDone
    ((s.modEng (fun e => e.setT f.tl (e.secAddr + 8 + BitVec.ofNat 64 (12 * e.sec.len.toNat)))).branchTo true
      (BitVec.ofInt 64 (s.eng.pc.toNat + 4 * f.imm.toInt))))) ∧
  (s.live h = true → s.eng.delay ≠ none →
    exec (.br h f) s = .next (s.trap Code.delaySlotBranch none) ∧
    exec (.bro h f) s = .next (s.trap Code.delaySlotBranch none) ∧
    exec (.jmpl h f) s = .next (s.trap Code.delaySlotBranch none))) ∧
  (∀ (a : Arch) (t : Thread) (b : Bool),
  (∀ u ∈ kernelThreads, u.code ≠ t.code → (a.eng u).done = false → (a.bout[qIndex t.code u.code]).length < 16) →
  ∃ a' : Arch, a.pushOutcome t b = some a' ∧ a' = { a with bout := a'.bout } ∧
    ∀ x y : BitVec 2, a'.bout[qIndex x y] =
      if x = t.code ∧ y ≠ t.code ∧ (a.eng (Thread.ofCode y)).done = false then a.bout[qIndex x y] ++ [b]
      else a.bout[qIndex x y]) ∧
  (∀ (e : Eng) (tgt : W64) (now : Nat),
  (e.retire (some (true, tgt)) now).pc = tgt ∧ (e.retire (some (true, tgt)) now).left = 0 ∧
  (e.retire (some (true, tgt)) now).delay = none ∧
  (e.retire (some (false, tgt)) now).pc = e.pc + 12 ∧ (e.retire (some (false, tgt)) now).left = e.left - 1 ∧
  (e.retire (some (false, tgt)) now).delay = none ∧
  (e.retire none now).delay = e.delay ∧ (e.retire none now).pc = e.pc + 12)

/-- R120 to R126: LOOP starts its descriptor's loop with the count of the word, LOOPJ joins an active one, LBRK cuts the
trip count and the word retires. -/
def Obligations.LoopWords : Prop := ∀ (h : Hdr) (f : BrF) (s : State), s.placeOk false false = none →
  (∀ (i : Image) (d : LoopDesc), runs (.loop h f) h s → s.descHere = some (i, d) → descAgrees d f = true →
    s.arch.loops[f.lc.toNat].active = false → ∃ t : State, exec (.loop h f) s = .next (s.wordDone t) ∧
    t.eng.loops = ⟨f.lc.toNat, 0⟩ :: s.eng.loops ∧
    t.arch.loops[f.lc.toNat].n = (if f.cr = 1 then (s.g f.gc).toNat % 2 ^ 32 else f.imm.toNat) ∧
    t.arch.loops[f.lc.toNat].active = true ∧ t.arch.loops[f.lc.toNat].r = 0 ∧
    t.arch.loops[f.lc.toNat].s = d.sm1 + 1 ∧ t.arch.loops[f.lc.toNat].rb = d.rb ∧
    t.arch.loops[f.lc.toNat].head = i.addr + d.head ∧ t.arch.loops[f.lc.toNat].last = i.addr + d.last ∧
    t.arch.loops[f.lc.toNat].joinedBy = [.c] ∧
    ∀ n : Fin 4, n.val ≠ f.lc.toNat → t.arch.loops[n] = s.arch.loops[n]) ∧
  (∀ (i : Image) (d : LoopDesc), runs (.loopj h f) h s → s.descHere = some (i, d) → descAgrees d f = true →
    s.eng.loops.any (fun l => l.lc = f.lc.toNat) = false → s.arch.loops[f.lc.toNat].active = true →
    s.cur.th ∉ s.arch.loops[f.lc.toNat].joinedBy → s.arch.loops[f.lc.toNat].s = f.s.toNat + 1 →
    s.arch.loops[f.lc.toNat].rb = f.r.getLsbD 0 → exec (.loopj h f) s = .next (s.wordDone
      ((s.modArch (fun a => a.modLoop f.lc.toNat (fun l => { l with joinedBy := l.joinedBy ++ [s.cur.th] }))).modEng
        (fun e => { e with loops := ⟨f.lc.toNat, 0⟩ :: e.loops })))) ∧
  (runs (.loopj h f) h s → s.descHere.isSome = true → s.eng.loops = [] →
    (∀ p ∈ s.descHere, descAgrees p.2 f = true) → s.arch.loops[f.lc.toNat].active = false →
    exec (.loopj h f) s = .next s.stalledNow) ∧
  (runs (.lbrk h f) h s → s.arch.loops[f.lc.toNat].active = true → ∃ t : State, exec (.lbrk h f) s = .next t ∧
    t.arch.loops[f.lc.toNat].n =
      min s.arch.loops[f.lc.toNat].n (lbrkCut s.eng s.arch.loops[f.lc.toNat] f.lc.toNat)) ∧
  (runs (.loop h f) h s → s.descHere = none → exec (.loop h f) s = .next (s.trap Code.reservedField none))

/-- R126, whole: every field of LBRK but lc is 0 in a well-formed form, a false guard leaves no effect, and on a counter
without an active loop it raises RESERVED_FIELD. -/
def Obligations.LoopBreakRule : Prop := ∀ (h : Hdr) (f : BrF) (s : State),
  (WellFormed (.lbrk h f) = true → f = ⟨0, f.lc, 0, 0, 0, 0, 0, 0, 0, 0⟩) ∧
  (s.eng.guard h = false → exec (.lbrk h f) s = .next (s.retire s.eng.delay)) ∧
  (runs (.lbrk h f) h s → s.placeOk false false = none → s.arch.loops[f.lc.toNat].active = false →
    exec (.lbrk h f) s = .next (s.trap Code.reservedField none))

/-- R128: NOP has no effect; TASKEND retires the engine's part once its M words, or its streams, have ended, and the
fourth TASKEND requests a commit point and seals the task. A TASKEND inside a loop raises SECTION_FORMAT. -/
def Obligations.NopAndTaskend : Prop := ∀ (h : Hdr) (f : SY) (s : State),
  (runs (.nop h f) h s → exec (.nop h f) s = .next (s.wordDone s)) ∧
  (runs (.taskend h f) h s → s.placeOk false false = none → s.eng.loops = [] →
    (s.cur.th = .m → ∀ m ∈ s.arch.mflight, m.doneAt ≤ s.cycle) →
    (s.cur.th = .a → ∀ n : Fin 16, s.arch.streams[n].st ≠ .running ∧ s.arch.streams[n].st ≠ .parked) → ∃ t : State,
    exec (.taskend h f) s = .next (s.wordDone t) ∧ t.eng.done = true ∧ t.here.hold = s.here.hold ∧
    (∀ u ∈ kernelThreads, u ≠ s.cur.th → t.arch.eng u = s.arch.eng u) ∧
    ((∀ u ∈ kernelThreads, (t.arch.eng u).done = true) → CpKind.taskend ∈ t.here.cpReq ∧
      t.here.task = s.here.task.map (fun k => { k with st := .sealing }))) ∧
  (runs (.taskend h f) h s → s.placeOk false false = none → s.eng.loops ≠ [] →
    exec (.taskend h f) s = .next (s.trap Code.sectionFormat none))

/-! ### Traps, returns, pre-emption, containment words -/

/-- R78, R308: a precise trap of a kernel engine saves its place, cause and address, saves PRIV in PPRIV, enters
supervisor handler mode at TVEC, leaves no result of its own pending, and keeps every other register. -/
def Obligations.TrapEntry : Prop := ∀ (s : State) (nx : Bool) (code : BitVec 8) (ea : W64), s.cur.th ≠ .chap →
  s.eng.trapFatal code = false → ∃ u : State, s.trapNx nx code (some ea) = u ∧
  u.eng.epc = s.eng.pc ∧ u.eng.eaddr = ea ∧ u.eng.pc = s.eng.tvec ∧ u.eng.left = 0 ∧ u.eng.run = .handler ∧
  u.eng.cause.extractLsb' 0 8 = code ∧ u.eng.cause.getLsbD 8 = s.eng.delay.isSome ∧
  u.eng.cause.getLsbD 9 = (s.eng.delay.map Prod.fst).getD false ∧
  u.eng.cause.extractLsb' 10 54 =
    (match s.eng.delay with | some (true, tgt) => tgt.extractLsb' 2 54 | _ => (0 : BitVec 54)) ∧
  (∀ n, u.eng.status.getLsbD n = if n = 4 then s.eng.status.getLsbD 0 else if n = 0 ∨ n = 1 then true
    else if n = 2 then nx else s.eng.status.getLsbD n) ∧
  u.eng.g = s.eng.g ∧ u.eng.t = s.eng.t ∧ u.eng.tvec = s.eng.tvec ∧ u.eng.stallcnt = s.eng.stallcnt ∧
  u.eng.spill = s.eng.spill ∧ u.eng.loops = s.eng.loops ∧
  u.arch.pend = s.arch.pend.filter (fun p => p.th ≠ s.cur.th) ∧
  (∀ t, t ≠ s.cur.th → u.arch.eng t = s.arch.eng t) ∧ s.sameOutside u ∧ s.sameMemory u

/-- R305: a fatal fault of a tile task that is no replay stops its four engines, drops the held effects that no taken
commit point covers and keeps the others; its bundle has one running task less and fails with the code, its context
goes FAULTED, and a kind-4 record with the code, the place and the address follows the effects that commit points
cover. -/
def Obligations.FatalFault : Prop := ∀ (s : State) (core : CoreId) (code : BitVec 8) (pc ea : W64) (t : Task),
  (s.core core).task = some t → t.replay = false → ∃ u : State, s.fatalOn core code pc ea = u ∧
  (u.core core).task = some { t with st := .faulted } ∧ (u.core core).region = .faulted ∧
  (∀ e ∈ kernelThreads, ((u.core core).arch.eng e).run = .dead) ∧
  (∃ (e : Held) (r : FaultRec) (n : Nat),
    (u.core core).hold = (s.core core).hold.filter (fun h => h.cover.isSome) ++ [e] ∧
    e.eff = .record (dieOf core) r .other 0 n ∧ e.cover = some (s.core core).cpCount ∧
    r.kind = 4 ∧ r.code = code ∧ r.pc = pc ∧ r.va = ea ∧ r.ctx = t.ctx ∧ r.core = core.val) ∧
  (∀ b, s.dev.bundle t.bundle = some b → u.dev.bundle t.bundle = some { b.fail code with live := b.live - 1 }) ∧
  (u.dev.ctx t.ctx).st = (if (s.dev.ctx t.ctx).st = .resident ∨ (s.dev.ctx t.ctx).st = .running ∨
    (s.dev.ctx t.ctx).st = .preempted then .faulted else (s.dev.ctx t.ctx).st) ∧ s.sameMemory u

/-- R318: RETT restores the privilege and leaves handler mode; the word at EPC is fetched again, or passed over when NX is
set; for a delay word the branch is not executed again but its saved decision holds. -/
def Obligations.ReturnFromTrap : Prop := ∀ (h : Hdr) (f : SY) (s : State), runs (.rett h f) h s →
  (s.eng.mayReturn = true → ∃ u : State, exec (.rett h f) s = .next u ∧
    (∀ n, u.eng.status.getLsbD n = if n = 0 then s.eng.status.getLsbD 4 else if n = 1 then false
      else s.eng.status.getLsbD n) ∧ u.eng.run = s.eng.retRun ∧
    (s.eng.cause.getLsbD 8 = false → u.eng.delay = none ∧
      u.eng.pc = if s.eng.status.getLsbD 2 then s.eng.epc + 12 else s.eng.epc) ∧
    (s.eng.cause.getLsbD 8 = true → s.eng.status.getLsbD 2 = false → u.eng.pc = s.eng.epc ∧
      u.eng.delay = some (s.eng.cause.getLsbD 9, (s.eng.cause.extractLsb' 10 54).zeroExtend 64 <<< 2)) ∧
    (s.eng.cause.getLsbD 8 = true → s.eng.status.getLsbD 2 = true → u.eng.delay = none ∧
      u.eng.pc = if s.eng.cause.getLsbD 9 then (s.eng.cause.extractLsb' 10 54).zeroExtend 64 <<< 2
        else s.eng.epc + 12) ∧
    u.eng.g = s.eng.g ∧ u.eng.t = s.eng.t ∧ u.eng.epc = s.eng.epc ∧ u.eng.cause = s.eng.cause ∧
    s.sameOutside u ∧ s.sameMemory u) ∧
  (s.eng.mayReturn = false → exec (.rett h f) s = .next (s.trap Code.reservedField none))

/-- R316 to R318: TRAP takes TRAP_INSN with NX set and its number in EADDR; an answered SVC continues with the answer's
value, and one answered with a code traps with it; RETT.abort ends the task with the code of CAUSE. R319: YIELD
outside handlers writes 0 when no record is due, and else latches a pre-emption for the record and writes whether it
was latched. -/
def Obligations.TrapAndServiceWords : Prop :=
  (∀ (h : Hdr) (f : SY) (s : State), s.cur.th ≠ .chap →
  (runs (.trap h f) h s → s.eng.trapFatal Code.trapInsn = false →
    exec (.trap h f) s = .next (s.trapNx true 0x0A (some (f.code.zeroExtend 64)))) ∧
  (∀ (n : Nat) (r : SvcReq) (v : W64), runs (.svc h f) h s → s.here.rbLoop s.eng = none → s.inReplay = false →
    s.eng.ask = some n → s.here.cpSealed n = true →
    s.here.svcs.find? (fun r => r.th = s.cur.th && r.cp = n) = some r → r.answer = some (0, v) →
    exec (.svc h f) s = .next (s.wordDone ((s.modHere (fun c =>
      { c with svcs := c.svcs.filter (fun q => q.th ≠ s.cur.th) })).setG f.gd v))) ∧
  (runs (.svc h f) h s → s.here.rbLoop s.eng = none → s.inReplay = false → s.eng.ask = none → ∃ u : State,
    exec (.svc h f) s = .next u ∧ u.here.cpReq = s.here.cpReq ++ [.word] ∧ u.eng.pc = s.eng.pc ∧
      u.here.svcs = s.here.svcs) ∧
  (runs (.rettAbort h f) h s → s.eng.mayReturn = true → exec (.rettAbort h f) s = .next (s.fatalOn s.cur.core
    (if Code.all.contains (s.eng.cause.extractLsb' 0 8) then s.eng.cause.extractLsb' 0 8 else Code.reservedField)
    s.eng.epc s.eng.eaddr))) ∧
  (∀ (h : Hdr) (f : SY) (s : State), runs (.yield h f) h s →
  s.placeOk true false = none →
  (s.yieldTo = none → exec (.yield h f) s = .next (s.wordDone
    ((s.setGBit f.gd f.n.toNat false).modEng (fun e => { e with busy := s.cycle + 2 })))) ∧
  (∀ (b : Bundle) (t : Task), s.yieldTo = some b → s.here.task = some t → t.replay = false → t.st = .running →
    t.ctx ≠ b.ctx → s.here.preempt = none → ∃ u : State, exec (.yield h f) s = .next (s.wordDone u) ∧
    (f.gd ≠ 0 → u.g f.gd = setBit (s.g f.gd) f.n.toNat true) ∧
    ∃ p : Preempt, u.here.preempt = some p ∧ p.beneficiary = b.id ∧ p.st = .latched none))

/-- R320, R321: in its stub, an engine whose earlier words have produced their results saves or restores an image one unit
at a turn, and ends the word with the last; CSAVE.end and CREST.end end its stub; IDLE returns the conditions that are
met. Outside the stubs RESERVED_FIELD is raised. -/
def Obligations.SaveAndRestoreWords : Prop := ∀ (h : Hdr) (f : SY) (s : State),
  (∀ (r : SaveRange) (va : Nat) (ps : List (Nat × Place)) (u : State), runs (.csave h f) h s → s.inStub false = true →
    s.saveRange f (s.queue (s.g f.ga).toNat).length = some r → s.imageVa f r = some va →
    s.banksOn (saveRegs f r) → s.settledHere = true → s.eng.prog + 1 = r.units →
    s.hamperPlaces (va + (r.unitAt s.eng.prog).1) (r.unitAt s.eng.prog).2 .w = .ok ps →
    u = s.setCore s.cur.core (ps.foldl (fun (c : Core) p => c.holdEff s.cycle (.write .other 0 0
      [(p.2, ((s.saveBytes f r (r.unitAt s.eng.prog).1 (r.unitAt s.eng.prog).2).1.drop (64 * p.1)).take 64)]
      [(s.saveBytes f r (r.unitAt s.eng.prog).1 (r.unitAt s.eng.prog).2).2 p.1]) 1 s.cur.th s.eng.pc c.cpCount
      (va + (r.unitAt s.eng.prog).1 + 64 * p.1)) s.here) → panRoom s u →
    exec (.csave h f) s = .next (s.wordDone (s.nameBanks (banksOf (saveRegs f r)) u))) ∧
  (∀ (r : SaveRange) (va : Nat) (ps : List (Nat × Place)), runs (.csave h f) h s → s.inStub false = true →
    s.saveRange f (s.queue (s.g f.ga).toNat).length = some r → s.imageVa f r = some va →
    s.banksOn (saveRegs f r) → s.settledHere = true → s.eng.prog + 1 < r.units →
    s.hamperPlaces (va + (r.unitAt s.eng.prog).1) (r.unitAt s.eng.prog).2 .w = .ok ps →
    s.here.holdUsed + ps.length ≤ 2048 → ∃ u : State, exec (.csave h f) s = .next u ∧ u.eng.pc = s.eng.pc ∧
    u.eng.prog = s.eng.prog + 1 ∧ u.here.hold.length = s.here.hold.length + ps.length) ∧
  (∀ (r : SaveRange) (va : Nat) (ps : List (Nat × Place)) (u : State), runs (.crest h f) h s → s.inStub true = true →
    s.saveRange f (s.savedEntries f) = some r → s.imageVa f r = some va →
    s.banksOn (saveRegs f r) →
    (f.code = 6 → s.arch.leased (r.first + (r.unitAt s.eng.prog).1) (r.unitAt s.eng.prog).2 = false) → s.settledHere = true → s.eng.prog + 1 = r.units →
    s.hamperPlaces (va + (r.unitAt s.eng.prog).1) (r.unitAt s.eng.prog).2 .r = .ok ps →
    u = s.restoreBytes f r (r.unitAt s.eng.prog).1 (ps.map (fun p =>
      (s.dev.readPlace p.2 (min 64 ((r.unitAt s.eng.prog).2 - 64 * p.1)),
        s.dev.placePoison p.2 (min 64 ((r.unitAt s.eng.prog).2 - 64 * p.1))))) → panRoom s u →
    exec (.crest h f) s = .next (s.wordDone (s.nameBanks (banksOf (saveRegs f r)) u))) ∧
  (runs (.csaveEnd h f) h s → s.inStub false = true → s.settledHere = true → ∃ u : State,
    exec (.csaveEnd h f) s = .next u ∧ u.eng.run = .atN ∧ u.eng.g = s.eng.g ∧ u.here.hold = s.here.hold) ∧
  (runs (.crestEnd h f) h s → s.inStub true = true → s.settledHere = true → ∃ u : State,
    exec (.crestEnd h f) s = .next u ∧ u.eng.run = .atN ∧ u.eng.g = s.eng.g ∧ u.here.hold = s.here.hold) ∧
  (runs (.idle h f) h s → s.cur.th = .chap → s.placeOk true false = none →
    (s.g f.ga).extractLsb' 0 6 ≠ (0 : BitVec 6) → s.idleBits &&& s.g f.ga ≠ 0 →
    exec (.idle h f) s = .next (s.wordDone (s.setG f.gd s.idleBits))) ∧
  (runs (.csave h f) h s → s.inStub false = false → exec (.csave h f) s = .next (s.trap Code.reservedField none)) ∧
  (runs (.crest h f) h s → s.inStub true = false → exec (.crest h f) s = .next (s.trap Code.reservedField none)) ∧
  (statusPriv s.eng.status = false → exec (.idle h f) s = .next (s.trap Code.privilege none))

/-- R337 to R339: a TLBINV removes the translations it names, from every core's and both dies' caches, and retires when no
access that may have used one is left; in user mode it takes PRIVILEGE. TLBPROBE reports the walk. R364, R365: SEAL
requests a commit point and retires when it is taken, with .wait when it has sealed; PMARK and PCLR set and clear the
marks of the rows of a view or of the granules of a scratchpad range, and nothing of the data. -/
def Obligations.TranslationAndSealWords : Prop :=
  (∀ (h : Hdr) (f : SY) (s : State),
  (∀ v : InvSet, s.eng.asked = none →
    (s.invalidate v).invDone v s.dev.wseq = true →
    (runs (.tlbinvAll h f) h s → v = ⟨none, none⟩ → ∃ u : State, exec (.tlbinvAll h f) s = .next (s.wordDone u) ∧
      (∀ c : CoreId, (u.core c).tlb = []) ∧ ∀ d : Fin 2, u.dev.tlb[d] = []) ∧
    (runs (.tlbinvAsid h f) h s → v = ⟨some ((s.g f.gb).toNat % 2 ^ 16), none⟩ → ∃ u : State,
      exec (.tlbinvAsid h f) s = .next (s.wordDone u) ∧
      (∀ c : CoreId, (u.core c).tlb = (s.core c).tlb.filter (fun t => t.asid ≠ (s.g f.gb).toNat % 2 ^ 16)) ∧
      ∀ d : Fin 2, u.dev.tlb[d] = (s.dev.tlb[d]).filter (fun t => t.asid ≠ (s.g f.gb).toNat % 2 ^ 16)) ∧
    (runs (.tlbinvPage h f) h s →
      v = ⟨some ((s.g f.gb).toNat % 2 ^ 16), some ((s.g f.ga).toNat / 2 ^ 16 % 2 ^ 40, f.opnd.toNat)⟩ → ∃ u : State,
      exec (.tlbinvPage h f) s = .next (s.wordDone u) ∧
      (∀ c : CoreId, (u.core c).tlb = (s.core c).tlb.filter (fun t => !v.hits t)) ∧
      ∀ d : Fin 2, u.dev.tlb[d] = (s.dev.tlb[d]).filter (fun t => !v.hits t))) ∧
  (statusPriv s.eng.status = false →
    exec (.tlbinvAll h f) s = .next (s.trap Code.privilege none) ∧
    exec (.tlbinvAsid h f) s = .next (s.trap Code.privilege none) ∧
    exec (.tlbinvPage h f) s = .next (s.trap Code.privilege none)) ∧
  (runs (.tlbprobe h f) h s → (s.g f.ga).toNat < 2 ^ 56 → ∃ u : State, exec (.tlbprobe h f) s = .next (s.wordDone u) ∧
    (f.gd ≠ 0 → u.g f.gd = s.probe (statusPriv s.eng.status) (s.xlate s.cur.core s.here.ctx (s.g f.ga).toNat)) ∧
    s.sameMemory u)) ∧
  (∀ (h : Hdr) (f : SY) (s : State), s.placeOk true false = none →
  (∀ i : Instr, i = .sealWord h f ∨ i = .sealWait h f → runs i h s → s.here.rbLoop s.eng = none →
    (s.eng.ask = none → ∃ u : State, exec i s = .next u ∧ u.here.cpReq = s.here.cpReq ++ [.word] ∧
      u.eng.pc = s.eng.pc) ∧
    (∀ n, s.eng.ask = some n → s.here.cpSealed n = true → exec i s = .next (s.wordDone s)) ∧
    (∀ n, s.eng.ask = some n → n ≤ s.here.cpCount → i = .sealWord h f → exec i s = .next (s.wordDone s))) ∧
  (∀ m : Bool, runs (if m then .pmarkV h f else .pclrV h f) h s → (∀ o ∈ s.mainRegs [f.opnd], o / 64 < 2) →
    s.arch.bankPwr.extractLsb' 0 4 = (5 : BitVec 4) → Store.get 0 s.arch.bankWake 0 = 0 →
    Store.get 0 s.arch.bankWake 1 = 0 → s.here.shadUsed + 8 ≤ 2048 → ∃ u : State,
    exec (if m then .pmarkV h f else .pclrV h f) s = .next (s.wordDone u) ∧ u.arch.tiles = s.arch.tiles ∧
    u.arch.wfile = s.arch.wfile ∧
    ∀ k, Store.get false (u.arch.marks (tLvl f.opnd)) k =
      if k / 16 = s.regOf f.opnd ∧ (viewRows f.opnd).any (fun x => decide (x.1 = k % 16)) then m
      else Store.get false (s.arch.marks (tLvl f.opnd)) k) ∧
  (∀ (m : Bool) (e n : Nat), runs (if m then .pmarkA h f else .pclrA h f) h s →
    e = (s.g f.ga + f.opnd.zeroExtend 64).toNat → n = (s.g f.gb).toNat → e % 64 = 0 → n % 64 = 0 → 0 < n →
    e + n ≤ 8388608 → s.keepHit s.cur.core s.here.ctx e n = false → s.arch.leased e n = false →
    s.here.shadUsed + (n / 512 + 2) ≤ 2048 → ∃ u : State,
    exec (if m then .pmarkA h f else .pclrA h f) s = .next (s.wordDone u) ∧ u.arch.scr = s.arch.scr ∧
    ∀ k, Store.get false u.arch.scrP k = if e / 64 ≤ k ∧ k < (e + n) / 64 then m else Store.get false s.arch.scrP k))

/-! ### Fences, semaphores, barriers, rings -/

/-- R230 to R234: FENCE retires once the named paths' writes are performed at its scope, and raises POOL_REGION_LOST with
the lowest lost address when a covered write was discarded; it stalls while they are not. SSIG adds g[ga] + sext to a
semaphore of the allocation, with a release at DEVICE scope or wider once the effects that it covers are performed,
and with the same trap where a lost write is among them; SSET sets it. A semaphore outside the allocation raises
PRIVILEGE. -/
def Obligations.FenceAndSemaphoreWords : Prop := ∀ (h : Hdr) (f : SY) (s : State),
  (runs (.fence h f) h s → s.lostFor (fenceWr s.cur.core s.cur.th f.pa s.issuedAt.1) = none →
    s.performed f.scope.toNat (fenceWr s.cur.core s.cur.th f.pa s.issuedAt.1) = true →
    (f.pa.getLsbD 1 = true → s.arch.lPending s.cur.th s.cycle = false) →
    ∃ u : State, exec (.fence h f) s = .next (s.wordDone u) ∧ u.eng.g = s.eng.g ∧ u.arch.sems = s.arch.sems ∧
      u.here.hold = s.here.hold ∧ s.sameMemory u) ∧
  (runs (.fence h f) h s → s.lostFor (fenceWr s.cur.core s.cur.th f.pa s.issuedAt.1) = none →
    s.performed f.scope.toNat (fenceWr s.cur.core s.cur.th f.pa s.issuedAt.1) = false → ∃ u : State, exec (.fence h f) s = .next u ∧
      u.eng.pc = s.eng.pc ∧ u.eng.stalled = true ∧ u.eng.asked = some s.issuedAt) ∧
  (∀ va : Nat, runs (.fence h f) h s → s.lostFor (fenceWr s.cur.core s.cur.th f.pa s.issuedAt.1) = some va →
    exec (.fence h f) s = .next (s.trap Code.poolRegionLost (some (BitVec.ofNat 64 va)))) ∧
  (runs (.ssig h f) h s → s.semOk f.obj.toNat = true →
    (f.ord = 0 ∨ (f.scope = 0 ∧ s.lostFor (releaseWr s.cur.core s.cur.th) = none)) →
    ∃ u : State, exec (.ssig h f) s = .next (s.wordDone u) ∧
      u.arch.sem f.obj.toNat = s.arch.sem f.obj.toNat +
        BitVec.ofNat 32 ((s.g f.ga).toNat + f.opnd.toNat) ∧
      (∀ n : Nat, n % 256 ≠ f.obj.toNat → u.arch.sem n = s.arch.sem n) ∧ u.eng.g = s.eng.g) ∧
  (runs (.ssig h f) h s → s.semOk f.obj.toNat = true → f.ord ≠ 0 → 1 ≤ f.scope.toNat →
    s.lostFor (releaseWr s.cur.core s.cur.th) = none → s.releaseHeld f.scope.toNat = false →
    ∃ u : State, exec (.ssig h f) s = .next (s.wordDone u) ∧
      u.arch.sem f.obj.toNat = s.arch.sem f.obj.toNat + BitVec.ofNat 32 ((s.g f.ga).toNat + f.opnd.toNat)) ∧
  (runs (.ssig h f) h s → s.semOk f.obj.toNat = true → f.ord ≠ 0 → 1 ≤ f.scope.toNat →
    s.lostFor (releaseWr s.cur.core s.cur.th) = none → s.releaseHeld f.scope.toNat = true →
    ∃ u : State, exec (.ssig h f) s = .next u ∧ u.arch.sems = s.arch.sems ∧ u.eng.pc = s.eng.pc ∧ u.eng.stalled = true) ∧
  (∀ va : Nat, runs (.ssig h f) h s → s.semOk f.obj.toNat = true → f.ord ≠ 0 →
    s.lostFor (releaseWr s.cur.core s.cur.th) = some va →
    exec (.ssig h f) s = .next (s.trap Code.poolRegionLost (some (BitVec.ofNat 64 va)))) ∧
  (runs (.sset h f) h s → s.semOk f.obj.toNat = true → ∃ u : State, exec (.sset h f) s = .next (s.wordDone u) ∧
      u.arch.sem f.obj.toNat = BitVec.ofNat 32 ((s.g f.ga).toNat + f.opnd.toNat) ∧
      ∀ n : Nat, n % 256 ≠ f.obj.toNat → u.arch.sem n = s.arch.sem n) ∧
  (∀ i : Instr, i = .ssig h f ∨ i = .sset h f ∨ i = .swait h f → runs i h s → s.semOk f.obj.toNat = false →
    exec i s = .next (s.trap Code.privilege none))

/-- R242, R245, R254 to R256: SWAIT on a met condition writes 1 and goes on; on an unmet one it stalls and its engine
takes a wait slot. So do BWAIT on a finished barrier and BWAIT.tile on a finished tile. A stalled wait whose outcome
is settled ends with met = 1 or 0 as it was settled. WAIT_POLL on a wait without a slot evaluates its condition when
its poll is due: the word goes on with the outcome, or the interval doubles up to 8,192 cycles. WAIT_TIMEOUT ends,
with met = 0 where the condition does not hold, a wait issued 65,536 cycles ago. -/
def Obligations.WaitWords : Prop := (∀ (h : Hdr) (f : SY) (s : State), s.eng.wait = none →
  (runs (.swait h f) h s → s.semOk f.obj.toNat = true →
    ((s.arch.sem f.obj.toNat - BitVec.ofNat 32 ((s.g f.gb).toNat + f.opnd.toNat)).toNat < 2 ^ 31 →
      exec (.swait h f) s = .next (s.wordDone (s.waitDone f.gd f.n true (fun t => t.semWaited f.obj.toNat f.ord.toNat f.scope.toNat)))) ∧
    (2 ^ 31 ≤ (s.arch.sem f.obj.toNat - BitVec.ofNat 32 ((s.g f.gb).toNat + f.opnd.toNat)).toNat → ∃ u : State,
      exec (.swait h f) s = .next u ∧ u.eng.pc = s.eng.pc ∧ u.eng.g = s.eng.g ∧ u.eng.stalled = true ∧
      ∃ w : WaitSt, u.eng.wait = some w ∧ w.cond.obj = f.obj.toNat ∧ w.since = s.cycle ∧ w.out = none ∧
        (s.here.slotsUsed < 16 → w.slot = true))) ∧
  (runs (.bwait h f) h s → s.barOk f.obj.toNat = true →
    ((s.arch.bar f.obj.toNat).st = .complete ∨ (s.arch.bar f.obj.toNat).st = .partialSt →
      exec (.bwait h f) s = .next (s.wordDone
        (s.waitDone f.gd f.n true (fun t => t.tileAcquire s.cur.core s.reader f.obj.toNat none)))) ∧
    ((s.arch.bar f.obj.toNat).st = .faulted → exec (.bwait h f) s = .next (s.trap (s.arch.bar f.obj.toNat).code
      (some (BitVec.ofNat 64 (s.arch.bar f.obj.toNat).frec))))) ∧
  (runs (.bwaitTile h f) h s → s.barOk f.obj.toNat = true → (s.arch.bar f.obj.toNat).st ≠ .faulted →
    (s.arch.bar f.obj.toNat).st ≠ .idle → (s.g f.gb + f.opnd.zeroExtend 64).toNat < (s.arch.bar f.obj.toNat).tiles →
    s.arch.tileDone (s.arch.bar f.obj.toNat) (s.g f.gb + f.opnd.zeroExtend 64).toNat = true →
    exec (.bwaitTile h f) s = .next (s.wordDone
      (s.waitDone f.gd f.n true (fun t => t.tileAcquire s.cur.core s.reader f.obj.toNat
        (some (s.g f.gb + f.opnd.zeroExtend 64).toNat)))))) ∧
  (∀ (h : Hdr) (f : SY) (s : State) (w : WaitSt), s.eng.wait = some w →
  (runs (.swait h f) h s → s.semOk f.obj.toNat = true →
    (w.out = some .met → exec (.swait h f) s = .next (s.wordDone
      (s.waitDone f.gd f.n true (fun t => t.semWaited f.obj.toNat f.ord.toNat f.scope.toNat)))) ∧
    (w.out = some .unmet → exec (.swait h f) s = .next (s.wordDone ((s.setGBit f.gd f.n.toNat false).modEng
      (fun e => { e with busy := s.cycle + 3 }))))) ∧
  (∀ i : Instr, i = .bwait h f ∨ i = .bwaitTile h f → runs i h s → s.barOk f.obj.toNat = true → w.out = some .unmet →
    exec i s = .next (s.wordDone ((s.setGBit f.gd f.n.toNat false).modEng (fun e => { e with busy := s.cycle + 3 }))))) ∧
  (∀ (core : CoreId) (th : Thread) (s t u : State) (w : WaitSt), t = { s with cur := ⟨core, th⟩ } →
  t.atWait = some w → w.out = none →
  (w.slot = false → w.nextPoll ≤ s.cycle →
    (∀ x : WaitSt, t.arch.evalCond w.cond = none → w.hit = false → s.cycle < w.since + 65536 →
      x = { w with interval := min 8192 (2 * w.interval), nextPoll := s.cycle + min 8192 (2 * w.interval) } →
      exec (.waitPoll core th) s = .next (t.modEng (fun e => { e with wait := some x }))) ∧
    (∀ (o : WaitOut) (bs : List Byte) (i : Instr) (h : Hdr) (f : SY), t.arch.evalCond w.cond = some o →
      u = t.modEng (fun e => { e with wait := some { w with out := some o, hit := false } }) → t.fetchUnit 12 = .ok bs →
      decodeWord (bytesWord bs) = .ok i →
      i ∈ [.swait h f, .bwait h f, .bwaitTile h f, .rwaitf h f, .rwaite h f] → ∃ v : State,
      exec (.waitPoll core th) s = .next v ∧ exec i u = .next v)) ∧
  (s.cycle < w.since + 65536 → exec (.waitTimeout core th) s = .next s) ∧
  (∀ (bs : List Byte) (i : Instr) (h : Hdr) (f : SY), w.since + 65536 ≤ s.cycle → t.arch.evalCond w.cond = none →
    u = t.modEng (fun e => { e with wait := some { w with out := some .unmet, hit := false } }) → t.fetchUnit 12 = .ok bs →
    decodeWord (bytesWord bs) = .ok i →
    i ∈ [.swait h f, .bwait h f, .bwaitTile h f, .rwaitf h f, .rwaite h f] → ∃ v : State,
    exec (.waitTimeout core th) s = .next v ∧ exec i u = .next v))

/-- R252, R256, R257: the tests of a barrier return its tile's completion, its state and code with ARR, and its counters;
they change nothing else. R247, R254, R258, R259: BARM arms an IDLE barrier with its descriptor when every check of
R258 passes; BRST makes a barrier IDLE, and changes nothing of one that is. -/
def Obligations.BarrierWords : Prop :=
  (∀ (h : Hdr) (f : SY) (s : State), s.barOk f.obj.toNat = true →
  (runs (.btestTile h f) h s → (s.arch.bar f.obj.toNat).st ≠ .idle →
    (s.g f.gb + f.opnd.zeroExtend 64).toNat < (s.arch.bar f.obj.toNat).tiles →
    (s.arch.tileDone (s.arch.bar f.obj.toNat) (s.g f.gb + f.opnd.zeroExtend 64).toNat = false →
      exec (.btestTile h f) s = .next (s.wordDone (s.setG f.gd (setBit (s.g f.gd) f.n.toNat false)))) ∧
    (s.arch.tileDone (s.arch.bar f.obj.toNat) (s.g f.gb + f.opnd.zeroExtend 64).toNat = true → ∃ t : State,
      exec (.btestTile h f) s = .next (s.wordDone (t.setG f.gd (setBit (s.g f.gd) f.n.toNat true))) ∧ t.eng = s.eng ∧
      t.arch.scr = s.arch.scr ∧ t.arch.bars = s.arch.bars ∧ s.sameButOrder t)) ∧
  (runs (.btestTile h f) h s → (s.arch.bar f.obj.toNat).st = .idle → exec (.btestTile h f) s =
    .next (s.wordDone (s.setG f.gd (setBit (s.g f.gd) f.n.toNat false)))) ∧
  (runs (.btestStat h f) h s → exec (.btestStat h f) s = .next (s.wordDone (s.setG f.gd (BitVec.ofNat 64
    ((s.arch.bar f.obj.toNat).st.num * 2 ^ 60 +
      (if (s.arch.bar f.obj.toNat).st = .faulted then (s.arch.bar f.obj.toNat).code.toNat else 0) * 2 ^ 48 +
      (s.arch.bar f.obj.toNat).arr))))) ∧
  (runs (.btestCnt h f) h s → exec (.btestCnt h f) s = .next (s.wordDone (s.setG f.gd (BitVec.ofNat 64
    ((s.arch.bar f.obj.toNat).dup * 2 ^ 32 + (s.arch.bar f.obj.toNat).lost))))) ∧
  (runs (.btestLate h f) h s → exec (.btestLate h f) s = .next (s.wordDone (s.setG f.gd (BitVec.ofNat 64
    ((s.arch.bar f.obj.toNat).stray * 2 ^ 32 + (s.arch.bar f.obj.toNat).late)))))) ∧
  (∀ (h : Hdr) (f : SY) (s : State) (b : Bar) (d n : Nat),
  d = (s.g f.ga + f.opnd.zeroExtend 64).toNat → n = f.obj.toNat → n < 64 → s.barOk n = true →
  (runs (.barm h f) h s → d % 64 = 0 → (s.arch.bar n).st = .idle →
    s.recRange s.cur.core s.here.ctx d 64 = none → s.arch.scrPoisoned d 64 = false →
    barOk3 ((s.lview 4).scrRead d 64) = true → b = barOf ((s.lview 4).scrRead d 64) →
    (b.dl = true → s.dtime < b.deadline) →
    (∀ r ∈ b.ranges, s.recRange s.cur.core s.here.ctx r.1 r.2 = none) →
    (∀ m, m < 64 → m ≠ n → (s.arch.bar m).st = .idle ∨ (s.arch.bar m).bmo + ((s.arch.bar m).chunks + 7) / 8 ≤ b.bmo ∨
      b.bmo + (b.chunks + 7) / 8 ≤ (s.arch.bar m).bmo) → s.here.shadUsed + 130 ≤ 2048 → ∃ u : State,
    exec (.barm h f) s = .next (s.wordDone u) ∧ u.arch.bar n = { b with st := .armed, gen := (s.arch.bar n).gen + 1 } ∧
    ∀ k, k < b.chunks → u.arch.marked b k = false) ∧
  (runs (.brst h f) h s → (s.arch.bar n).st ≠ .idle → s.here.shadUsed + ((s.arch.bar n).chunks / 4096 + 4) ≤ 2048 → ∃ u : State,
    exec (.brst h f) s = .next (s.wordDone u) ∧ (u.arch.bar n).st = .idle ∧ (u.arch.bar n).code = 0 ∧
    (u.arch.bar n).red = none ∧ ∀ m, m < 64 → m ≠ n → u.arch.bar m = s.arch.bar m) ∧
  (runs (.brst h f) h s → (s.arch.bar n).st = .idle → ∃ u : State, exec (.brst h f) s = .next (s.wordDone u) ∧
    u.arch.bars = s.arch.bars ∧ u.arch.barMem = s.arch.barMem) ∧
  (runs (.barm h f) h s → d % 64 = 0 → (s.arch.bar n).st ≠ .idle →
    exec (.barm h f) s = .next (s.trap Code.reservedField (some (s.g f.ga + f.opnd.zeroExtend 64)))))

/-- R260 to R271: the ring words, on a ring of the allocation, with their counts: claiming, publishing, consuming, waiting
for filled or free slots, opening, closing and reading. -/
def Obligations.RingWords : Prop := ∀ (h : Hdr) (f : SY) (s : State) (r : Ring) (n : Nat),
  n = f.obj.toNat → n < 16 → s.ringOk n = true → r = s.arch.ring n →
  (r.opened = true → r.prod = 0 →
    (runs (.rclaim h f) h s → 0 < s.ringK f → s.ringK f ≤ r.nslot → s.ringK f ≤ r.nslot - (r.clm - r.cons) →
      exec (.rclaim h f) s = .next (s.wordDone ((s.setG f.gd (BitVec.ofNat 64 r.clm)).modArch
        (fun a => a.modRing n (fun r => { r with clm := r.clm + s.ringK f }))))) ∧
    (runs (.rclaim h f) h s → 0 < s.ringK f → s.ringK f ≤ r.nslot → r.nslot - (r.clm - r.cons) < s.ringK f →
      exec (.rclaim h f) s = .next (s.wordDone (s.setG f.gd 0xFFFFFFFFFFFFFFFF))) ∧
    (runs (.rpub h f) h s → r.pub + s.ringK f ≤ r.clm → exec (.rpub h f) s = .next (s.wordDone
      ((s.releaseL s.cur.core s.cur.th (ringTok n)).modArch (fun a => a.modRing n (fun r => { r with pub := r.pub + s.ringK f })))))) ∧
  (r.opened = true → r.prod ≠ 2 →
    (runs (.rwaitf h f) h s → s.eng.wait = none → 0 < s.ringK f → s.ringK f ≤ r.nslot → s.ringK f ≤ r.pub - r.cons →
      exec (.rwaitf h f) s = .next (s.wordDone (s.waitDone f.gd f.n true (fun t => t.ringWaited n)))) ∧
    (runs (.rwaite h f) h s → s.eng.wait = none → 0 < s.ringK f → s.ringK f ≤ r.nslot →
      s.ringK f ≤ r.nslot - (r.clm - r.cons) - r.resv →
      exec (.rwaite h f) s = .next (s.wordDone (s.waitDone f.gd f.n true id))) ∧
    (runs (.rcons h f) h s → r.cons + s.ringK f ≤ r.pub → exec (.rcons h f) s = .next (s.wordDone
      (s.modArch (fun a => a.modRing n (fun r => { r with cons := r.cons + s.ringK f }))))) ∧
    (runs (.rconsUpto h f) h s → s.ringK f ≤ r.pub → exec (.rconsUpto h f) s = .next (s.wordDone
      (s.modArch (fun a => a.modRing n (fun r => { r with cons := max r.cons (s.ringK f) })))))) ∧
  (runs (.rpubInit h f) h s → r.opened = false → (s.g f.ga + f.opnd.zeroExtend 64).toNat % 16 = 0 →
    s.recRange s.cur.core s.here.ctx (s.g f.ga + f.opnd.zeroExtend 64).toNat 16 = none →
    s.arch.scrPoisoned (s.g f.ga + f.opnd.zeroExtend 64).toNat 16 = false → s.here.shadUsed < 2048 →
    ∀ q : Ring, ringOf ((s.lview 4).scrRead (s.g f.ga + f.opnd.zeroExtend 64).toNat 16) = some q →
    s.recRange s.cur.core s.here.ctx q.base (q.slot * q.nslot) = none → ∃ u : State,
    exec (.rpubInit h f) s = .next (s.wordDone u) ∧ u.arch.ring n = q ∧ q.opened = true ∧ q.pub = 0 ∧ q.cons = 0 ∧
      q.clm = 0) ∧
  (runs (.rpubClose h f) h s → r.opened = true → s.arch.ringStream n = false → r.resv = 0 → ∃ u : State,
    exec (.rpubClose h f) s = .next (s.wordDone u) ∧ u.arch.ring n = { r with opened := false }) ∧
  (runs (.rconsPub h f) h s →
    exec (.rconsPub h f) s = .next (s.wordDone (s.setG f.gd (BitVec.ofNat 64 r.pub)))) ∧
  (runs (.rconsCons h f) h s →
    exec (.rconsCons h f) s = .next (s.wordDone (s.setG f.gd (BitVec.ofNat 64 r.cons)))) ∧
  (runs (.rconsClm h f) h s →
    exec (.rconsClm h f) s = .next (s.wordDone (s.setG f.gd (BitVec.ofNat 64 r.clm)))) ∧
  (runs (.rconsDrops h f) h s →
    exec (.rconsDrops h f) s = .next (s.wordDone (s.setG f.gd (BitVec.ofNat 64 r.drops)))) ∧
  (runs (.rconsDropb h f) h s →
    exec (.rconsDropb h f) s = .next (s.wordDone (s.setG f.gd (BitVec.ofNat 64 r.dropb)))) ∧
  (∀ i : Instr, i ∈ [.rclaim h f, .rpub h f, .rwaitf h f, .rwaite h f, .rcons h f, .rconsUpto h f, .rpubClose h f] →
    runs i h s → r.opened = false → exec i s = .next (s.trap Code.reservedField none))

/-! ### Streams, commands, queues -/

/-- R189, R194, R199 to R202: the stream words. SOPEN of a record that passes every check opens a CLOSED stream on the
record's pattern, with the word's operands; SCLOSE closes a stream that has ended, SCLOSE.abort any, and withdraws its
fault records; SSTAT reads state, code and count; SFEED pushes scratchpad bytes as queue entries, and goes on where it
stopped; SDRAIN goes on once the stream has ended, and traps with the fault of a FAULTED one; SPREF changes nothing.
SCLOSE and SDRAIN of a stream still running stall, and SOPEN of a stream not CLOSED raises RESERVED_FIELD. -/
def Obligations.StreamWords : Prop := ∀ (h : Hdr) (f : ST) (s : State),
  (∀ bs : List Byte, runs (.sopen h f) h s → (∀ k, s.withRecord f k = k bs) → s.sopenFault f bs = none → ∃ u : State,
    exec (.sopen h f) s = .next (s.wordDone u) ∧ u.arch.stream f.str.toNat = s.opened f bs ∧
    (s.opened f bs).st = .running ∧ (s.opened f bs).count = 0 ∧ (s.opened f bs).kind = f.dk.toNat ∧
    (s.opened f bs).pat.base = leAt bs 0 8 ∧ (s.opened f bs).pat.run = leAt bs 8 4 ∧
    (s.opened f bs).off = (s.g f.ga).toNat ∧ (s.opened f bs).dst = (s.g f.gd).toNat ∧
    (∀ n : Nat, n % 16 ≠ f.str.toNat → u.arch.stream n = s.arch.stream n) ∧ u.eng = s.eng ∧ s.sameMemory u) ∧
  (runs (.sclose h f) h s → (s.arch.stream f.str.toNat).live = false → ∃ u : State,
    exec (.sclose h f) s = .next (s.wordDone u) ∧
    u.arch.stream f.str.toNat = { s.arch.stream f.str.toNat with st := .closed } ∧
    (∀ n : Nat, n % 16 ≠ f.str.toNat → u.arch.stream n = s.arch.stream n) ∧ u.eng = s.eng ∧ s.sameMemory u) ∧
  (∀ i : Instr, i = .sclose h f ∨ i = .sdrain h f → runs i h s → (s.arch.stream f.str.toNat).live = true →
    exec i s = .next s.stalledNow) ∧
  (runs (.scloseAbort h f) h s → ∃ u : State, exec (.scloseAbort h f) s = .next (s.wordDone u) ∧
    (u.arch.stream f.str.toNat).st = .closed ∧ (u.arch.stream f.str.toNat).parked = [] ∧
    (∀ w ∈ (u.dev.frings[dieOf s.cur.core]).waiting, ¬ (w.2.1 = .stream f.str.toNat ∧ w.1.core = s.cur.core.val)) ∧
    (∀ n : Nat, n % 16 ≠ f.str.toNat → u.arch.stream n = s.arch.stream n) ∧ u.eng = s.eng ∧ s.sameMemory u) ∧
  (runs (.sstat h f) h s → exec (.sstat h f) s = .next (s.wordDone (s.setG f.gd (BitVec.ofNat 64
    ((s.arch.stream f.str.toNat).st.num * 2 ^ 60 + (s.arch.stream f.str.toNat).code.toNat * 2 ^ 48 +
      (s.arch.stream f.str.toNat).count % 2 ^ 48))))) ∧
  (runs (.sfeed h f) h s → (∀ x : Sfeed, s.arch.sfeed = some x → x.pc ≠ s.eng.pc) → (s.g f.ga).toNat % 4 = 0 →
    s.recRange s.cur.core s.here.ctx (s.g f.ga).toNat (256 * f.imm.toNat) = none →
    s.arch.queueStream f.oq.toNat = false → (s.queue f.oq.toNat).length + f.imm.toNat ≤ 128 →
    s.here.shadUsed + f.imm.toNat ≤ 2048 → ∃ u : State, exec (.sfeed h f) s = .next (s.wordDone u) ∧
    u.arch.sfeed = none ∧ u.eng = s.eng ∧ s.sameMemory u ∧
    u.queue f.oq.toNat = s.queue f.oq.toNat ++ (List.range f.imm.toNat).map (fun k =>
      (⟨(s.lview 4).scrRead ((s.g f.ga).toNat + 256 * k) 256, s.arch.scrPoisoned ((s.g f.ga).toNat + 256 * k) 256⟩ : OqEnt))) ∧
  (∀ x : Sfeed, runs (.sfeed h f) h s → s.arch.sfeed = some x → x.pc = s.eng.pc → x.pushed ≤ x.total →
    (s.queue f.oq.toNat).length + (x.total - x.pushed) ≤ 128 → s.here.shadUsed + (x.total - x.pushed) ≤ 2048 →
    ∃ u : State, exec (.sfeed h f) s = .next (s.wordDone u) ∧ u.arch.sfeed = none ∧
    u.queue f.oq.toNat = s.queue f.oq.toNat ++ (List.range (x.total - x.pushed)).map (fun k =>
      (⟨(s.lview 4).scrRead (x.src + 256 * (x.pushed + k)) 256, s.arch.scrPoisoned (x.src + 256 * (x.pushed + k)) 256⟩ : OqEnt))) ∧
  (runs (.sdrain h f) h s → (s.arch.stream f.str.toNat).live = false → (s.arch.stream f.str.toNat).st ≠ .faulted →
    ∃ u : State, exec (.sdrain h f) s = .next (s.wordDone u) ∧ u.arch.streams = s.arch.streams ∧ u.eng = s.eng ∧
    s.sameMemory u) ∧
  (runs (.sdrain h f) h s → (s.arch.stream f.str.toNat).st = .faulted → exec (.sdrain h f) s =
    .next (s.trap (s.arch.stream f.str.toNat).code (some (s.arch.stream f.str.toNat).ea))) ∧
  (∀ bs : List Byte, runs (.spref h f) h s → (∀ k, s.withRecord f k = k bs) → patternOk bs = true →
    exec (.spref h f) s = .next (s.wordDone s)) ∧
  (∀ bs : List Byte, runs (.sopen h f) h s → (∀ k, s.withRecord f k = k bs) →
    (s.arch.stream f.str.toNat).st ≠ .closed → exec (.sopen h f) s = .next (s.trap Code.reservedField (some 0)))

/-- R34, R205, R208: an X word whose block passes every check puts its command at the end of its core's X queue, with the
block's fields as they stand and the word's wait and signal; a failed check traps with EADDR the block's address; with
64 commands queued the word stalls. -/
def Obligations.CommandWords : Prop := ∀ (h : Hdr) (f : CM) (s : State) (bs : List Byte) (i : Instr) (n : Nat),
  (i, n) ∈ [(Instr.xcopy h f, 1), (.xfill h f, 2), (.xacc h f, 3), (.xfao h f, 4), (.xcas h f, 5), (.xgath h f, 6),
    (.xscat h f, 7), (.xcmo h f, 8), (.xsig h f, 9)] → runs i h s → (∀ k, s.withBlock f k = k bs) →
  ¬ (s.inReplay = true ∧ 3 ≤ n ∧ n ≤ 5) →
  (∀ b : CopyBlk, s.copyCheck s.cur.core s.here.ctx bs 1 n false (statusPriv s.eng.status) = .ok b →
    (b.be = true → s.barOk b.bar = true) → s.here.queuedX + s.reserved s.cur.core 0 < 64 → ∃ (u : State) (x : XCmd),
    exec i s = .next (s.wordDone u) ∧ u.here.xq = s.here.xq ++ [x] ∧ x.st = .queued ∧ x.blk = b ∧
    x.sig = waitSig f bs s.cur.core ∧ x.id = s.here.nextCmd ∧ x.pc = s.eng.pc ∧ x.ctx = s.here.ctx ∧
    x.bundle = none ∧ u.eng = s.eng ∧ u.arch.streams = s.arch.streams ∧ u.here.hold = s.here.hold ∧ s.sameMemory u) ∧
  (∀ b : CopyBlk, s.copyCheck s.cur.core s.here.ctx bs 1 n false (statusPriv s.eng.status) = .ok b →
    (b.be = true → s.barOk b.bar = true) → 64 ≤ s.here.queuedX + s.reserved s.cur.core 0 →
    exec i s = .next s.stalledNow) ∧
  (∀ code : BitVec 8, s.copyCheck s.cur.core s.here.ctx bs 1 n false (statusPriv s.eng.status) = .error code →
    exec i s = .next (s.trap code (some (BitVec.ofNat 64 (f.blk.toNat * 64)))))

/-- R272 to R276: QPUSH, QPOLL and TQPUSH give an entry to a queue that has room and serves this core; QPOLL writes 1, or
0 when it finds no room; an entry of the core's own T queue is there at once, one for another core waits in the Pan. -/
def Obligations.QueueWords : Prop := ∀ (h : Hdr) (f : CM) (s : State) (bs : List Byte) (k : CoreId) (q : Nat),
  (∀ c, s.withBlock f c = c bs) → s.inReplay = false →
  (s.pushCheck f bs 2 = none → k = coreId (s.g f.gt).toNat → q = queueOf f.qsel.toNat bs →
    panRoom s (s.enqueue k q bs (waitSig f bs s.cur.core)) →
    (runs (.qpush h f) h s → s.mayPush k q = true →
      exec (.qpush h f) s = .next (s.wordDone (s.enqueue k q bs (waitSig f bs s.cur.core)))) ∧
    (runs (.qpush h f) h s → s.mayPush k q = false → ∃ u : State, exec (.qpush h f) s = .next u ∧
      u.eng.pc = s.eng.pc ∧ u.eng.stalled = true ∧ u.eng.pushTo = some (k.val, q)) ∧
    (runs (.qpoll h f) h s → s.queueRoom k q = true → s.pushers k q = [] →
      exec (.qpoll h f) s = .next (s.wordDone ((s.enqueue k q bs (waitSig f bs s.cur.core)).setG f.gp 1))) ∧
    (runs (.qpoll h f) h s → s.queueRoom k q = false →
      exec (.qpoll h f) s = .next (s.wordDone (s.setG f.gp 0)))) ∧
  (runs (.tqpush h f) h s → (blkForm bs 3 0 false).isSome = true → s.mayPush s.cur.core 1 = true → ∃ u : State,
    exec (.tqpush h f) s = .next (s.wordDone u) ∧
    u.arch.seq.cmdq = s.arch.seq.cmdq ++ [tcmdOf bs (waitSig f bs s.cur.core) s.here.ctx s.cur.core.val] ∧
    u.here.hold = s.here.hold) ∧
  (∀ (sg : WaitSig), k ≠ s.cur.core → q < 3 → ∃ e : Held,
    (s.enqueue k q bs sg).here.hold = s.here.hold ++ [e] ∧ e.eff = .qentry k.val q (q - 3) bs sg s.sourceClass ∧
      e.entries = 1 ∧ ∀ c, ((s.enqueue k q bs sg).core c).arch = (s.core c).arch)

/-! ### Vector words -/

/-- R129 to R138: the element-wise words. When the word is ready, each container of its destination view becomes what the
form makes of the containers that R129 pairs with it, queue sources have popped, and nothing else of the main file
changes. R131, R132, R136, R137: the elements of the element-wise integer forms on types of at most 32 bits: each slot
holds the exact result of the slots of its operands, wrapped, or under .sat clamped to the type's range; a shift by
the width or more gives 0, and an arithmetic one the sign. -/
def Obligations.ElementwiseWords : Prop :=
  (∀ (h : Hdr) (f : VT) (s t : State) (i : Instr) (two acc rs : Bool)
    (ty : Option Nat) (cell : State → Src → Src → Src → Nat → Nat → Nat → W32 × Bool),
  (i, two, acc, rs, ty, cell) ∈
    (let ar (j : Instr) (two acc : Bool) (o : ElemOp) :
        Instr × Bool × Bool × Bool × Option Nat × (State → Src → Src → Src → Nat → Nat → Nat → W32 × Bool) :=
      (j, two, acc, decide (f.rm.toNat = 4), some f.ty.toNat,
        fun s a b d => s.elemCell o f.ty.toNat f.rm.toNat (f.sat = 1) (tShape f.d) a b d)
     let lo (j : Instr) (two : Bool) (op : W32 → W32 → W32) :
        Instr × Bool × Bool × Bool × Option Nat × (State → Src → Src → Src → Nat → Nat → Nat → W32 × Bool) :=
      (j, two, false, false, none, fun _ a b _ k i j =>
        (op (a.at (tShape f.d) k i j).1 (b.at (tShape f.d) k i j).1,
          (a.at (tShape f.d) k i j).2 || (b.at (tShape f.d) k i j).2))
     let bi (j : Instr) (op : Nat → Nat → Nat → Nat) :
        Instr × Bool × Bool × Bool × Option Nat × (State → Src → Src → Src → Nat → Nat → Nat → W32 × Bool) :=
      (j, true, false, false, some f.ty.toNat, fun _ a b _ k i j =>
        (buildSlots (typeWidth f.ty) (fun n => op (typeWidth f.ty) (slot (typeWidth f.ty) n (a.at (tShape f.d) k i j).1)
          (slot (typeWidth f.ty) n (b.at (tShape f.d) k i j).1)),
          (a.at (tShape f.d) k i j).2 || (b.at (tShape f.d) k i j).2))
     [ar (.vadd h f) true false ⟨fun rm a b _ => addVal rm a b, fun a b _ => a + b⟩,
      ar (.vsub h f) true false ⟨fun rm a b _ => addVal rm a (negVal b), fun a b _ => a - b⟩,
      ar (.vmul h f) true false ⟨fun _ a b _ => mulVal a b, fun a b _ => a * b⟩,
      ar (.vfma h f) true true ⟨fun rm a b d => addVal rm (mulVal a b) d, fun a b d => a * b + d⟩,
      ar (.vfms h f) true true ⟨fun rm a b d => addVal rm d (negVal (mulVal a b)), fun a b d => d - a * b⟩,
      ar (.vmin h f) true false ⟨fun _ a b _ => minVal a b, fun a b _ => min a b⟩,
      ar (.vmax h f) true false ⟨fun _ a b _ => maxVal a b, fun a b _ => max a b⟩,
      ar (.vabs h f) false false ⟨fun _ a _ _ => absVal a, fun a _ _ => |a|⟩,
      ar (.vneg h f) false false ⟨fun _ a _ _ => negVal a, fun a _ _ => -a⟩,
      lo (.vand h f) true (fun a b => a &&& b), lo (.vor h f) true (fun a b => a ||| b),
      lo (.vxor h f) true (fun a b => a ^^^ b), lo (.vnot h f) false (fun a _ => ~~~a),
      bi (.vshl h f) (shlElem f.ty.toNat (f.sat = 1)), bi (.vshr h f) shrElem, bi (.vsar h f) sarElem,
      bi (.vcmp h f) (cmpElem f.ty.toNat f.fn.toNat),
      (.vmov h f, false, false, false, none, fun _ a _ _ k i j => movCell f.d f.a a k i j)]) →
  runs i h s → tLvl f.d ≤ 1 →
  s.vectorReady ⟨f.d :: (if two then [f.a, f.b] else [f.a]), [], tShape f.d, if two then [f.a, f.b] else [f.a], rs, 4, 1⟩ t →
  ∃ u : State, exec i s = .next (s.wordDone u) ∧ u.arch.oq = t.arch.oq ∧
    u.arch.srcnt = s.arch.srcnt + (if rs then 1 else 0) ∧
    s.wrote u f.d (destCells f.d (cell s (s.source f.a (tShape f.d) ty false)
      (if two then s.sourceB f.a f.b (tShape f.d) ty else Src.none)
      (if acc then s.source f.d (tShape f.d) none true else Src.none)))) ∧
  (∀ (s : State) (o : ElemOp) (t w : Nat) (sg sat : Bool) (rm sh k i j n : Nat)
    (a b d : Src), intFmt t = some (w, sg) → t ≠ 0x1E → typeWidth (BitVec.ofNat 5 t) = w → 3 ≤ t → n < 32 / w →
  (slot w n (s.elemCell o t rm sat sh a b d k i j).1 =
    let x := o.int (intVal w sg (slot w n (a.at sh k i j).1)) (intVal w sg (slot w n (b.at sh k i j).1))
      (intVal w sg (slot w n (d.at sh k i j).1))
    let lo : Int := if sg then -2 ^ (w - 1) else 0
    let hi : Int := if sg then 2 ^ (w - 1) - 1 else 2 ^ w - 1
    ((if sat then max lo (min hi x) else x) % 2 ^ w).toNat) ∧
  (∀ x m : Nat, x < 2 ^ w → shlElem t false w x m % 2 ^ w = (if w ≤ m then 0 else x * 2 ^ m % 2 ^ w)) ∧
  (∀ x m : Nat, x < 2 ^ w → shrElem w x m = (if w ≤ m then 0 else x / 2 ^ m)) ∧
  (∀ x m : Nat, x < 2 ^ w → sarElem w x m % 2 ^ w = ((intVal w true x / 2 ^ m) % 2 ^ w).toNat))

/-- R138, R144 to R146, R150, R155: the words whose unit moves or reduces lanes, with the container that each place of the
destination takes. -/
def Obligations.LaneWords : Prop := ∀ (h : Hdr) (f : VT) (s t : State) (i : Instr) (v : VForm) (cells : List Cell),
  (i, v, cells) ∈
    (let sh := tShape f.d
     let one : VForm := ⟨[f.d, f.a], [], sh, [f.a], false, 4, 1⟩
     let a := s.source f.a sh none false
     let n := s.amount f.b
     let lane (src : Nat → Nat → Nat × Nat) : List Cell := destCells f.d (fun k _ _ =>
       a.rel sh (src (relPos sh k).1 (relPos sh k).2).1 (src (relPos sh k).1 (relPos sh k).2).2)
     let red (per groups : Nat) (mem : Nat → Nat → Nat) (g : Nat → Nat → Nat) : List Cell :=
       destCells f.d (fun _ i j =>
         let x := s.source f.a sh (some f.ty.toNat) false
         let xs := (List.range per).map (fun k =>
           x.at 0 (mem (g i j % groups) k) (mem (g i j % groups) k / 64) (mem (g i j % groups) k % 64))
         (reduce f.ty.toNat f.fn.toNat f.rm.toNat (f.sat = 1) (s.rbits f.rm.toNat i j 0) (xs.map Prod.fst),
           xs.any Prod.snd))
     [(Instr.vsplat h f, one, destCells f.d (fun _ _ _ => a.cells.getD (n % max 1 a.cells.size) (0, false))),
      (.vrotr h f, one, lane (fun i j => (i, (j + 64 - n % 64) % 64))),
      (.vrotc h f, one, lane (fun i j => ((i + 16 - n % 16) % 16, j))),
      (.vbcr h f, one, lane (fun i _ => (i, n % 64))),
      (.vbcc h f, one, lane (fun _ j => (n % 16, j))),
      (.vperm h f, ⟨[f.d, f.a, f.b], [], sh, [f.a, f.b], false, 4, 1⟩, destCells f.d (fun k _ _ =>
        let y := (s.sourceB f.a f.b sh none).rel sh (relPos sh k).1 (relPos sh k).2
        let x := a.rel sh (relPos sh k).1 (y.1.toNat % 64)
        (x.1, x.2 || y.2))),
      (.vredr h f, ⟨[f.d, f.a], [], sh, [f.a], decide (f.rm.toNat = 4), 4, 1⟩,
        red 64 16 (fun g k => 64 * g + k) (fun i _ => i)),
      (.vredc h f, ⟨[f.d, f.a], [], sh, [f.a], decide (f.rm.toNat = 4), 4, 1⟩,
        red 16 64 (fun g k => 64 * k + g) (fun _ j => j)),
      (.vpop h f, ⟨[f.d], [], sh, [f.a], false, 4, 1⟩, destCells f.d (fun k i j => a.at sh k i j))]) →
  runs i h s → tLvl f.d ≤ 1 → s.vectorReady v t →
  ∃ u : State, exec i s = .next (s.wordDone u) ∧ u.arch.oq = t.arch.oq ∧ s.wrote u f.d cells

/-- R139 to R143: conversions, requantisation, the 8-bit products and the special functions, element by element. -/
def Obligations.ConversionWords : Prop := ∀ (h : Hdr) (f : VT) (s t : State), tLvl f.d ≤ 1 →
  (∀ (q : Part) (vs : List (Val × Bool)) (out : List Nat × List (Nat × Bool)), runs (.vcvt h f) h s →
    s.vectorReady ⟨[f.d, f.a], [], tShape f.d, [f.a], decide (f.rm.toNat = 4), 4, 1⟩ t → s.here.shadUsed + 24 ≤ 2048 →
    q = partOf (typeWidth f.ty) (typeWidth (f.b.extractLsb' 0 5)) (shapeLen (tShape f.d)) (viewLen f.d f.a) f.fn.toNat →
    vs = s.cvtVals (f.b.extractLsb' 0 5).toNat f.fn.toNat q
      (s.source f.a (tShape f.d) (some (f.b.extractLsb' 0 5).toNat) false) (f.b.extractLsb' 5 4).toNat →
    out = cvtOut (f.b.extractLsb' 0 5).toNat f.ty.toNat f.rm.toNat (f.sat = 1)
      (fun n => s.rbits f.rm.toNat (elemPlace f.d (typeWidth f.ty) (q.dst + n)).1
        (elemPlace f.d (typeWidth f.ty) (q.dst + n)).2.1 (elemPlace f.d (typeWidth f.ty) (q.dst + n)).2.2) vs →
    (tLvl f.d = 1 → out.2 ≠ [] → tReg f.d ≠ (f.b.extractLsb' 5 4).toNat) → ∃ u : State,
    exec (.vcvt h f) s = .next (s.wordDone u) ∧ s.wrote u f.d
      (partCells f.d (typeWidth f.ty) q out.1.toArray
        (blockMarks f.ty.toNat (vs.map Prod.snd)).toArray)) ∧
  (∀ (q : Part) (es : List (Nat × Bool)), runs (.vrqs h f) h s →
    s.vectorReady ⟨[f.d, f.a], [], tShape f.d, [f.a], false, 4, 1⟩ t →
    q = partOf (typeWidth f.ty) 32 (shapeLen (tShape f.d)) (viewLen f.d f.a) (f.fn.toNat % 4) →
    es = (List.range q.len).map (fun n => (s.source f.a (tShape f.d) (some 0x1C) false).elem 32 (q.src + n)) →
    ∃ u : State, exec (.vrqs h f) s = .next (s.wordDone u) ∧ s.wrote u f.d (partCells f.d (typeWidth f.ty) q
      (es.map (fun e => requant f.ty.toNat ((s.g (f.b.extractLsb' 0 5)).extractLsb' 0 32).toInt
        ((s.g (f.b.extractLsb' 0 5)).extractLsb' 32 32).toInt (f.rm.toNat * 4 + f.sat.toNat * 2 + f.fn.toNat / 4)
        (intVal 32 true e.1))).toArray (es.map Prod.snd).toArray)) ∧
  (s.vectorReady ⟨[f.d, f.a, f.b], [], tShape f.d, [f.a, f.b], false, 4, 1⟩ t → ∀ (a b d : Src),
    a = s.source f.a (tShape f.d) (some f.ty.toNat) false → b = s.sourceB f.a f.b (tShape f.d) (some (mixType f)) →
    d = s.source f.d (tShape f.d) none true →
    (runs (.vmaci h f) h s → ∃ u : State, exec (.vmaci h f) s = .next (s.wordDone u) ∧
      s.wrote u f.d (destCells f.d (fun k i j =>
        let x := a.elem 8 (f.fn.toNat % 4 * shapeLen (tShape f.d) + k)
        let y := b.elem 8 (f.fn.toNat % 4 * shapeLen (tShape f.d) + k)
        let z := d.at (tShape f.d) k i j
        (BitVec.ofNat 32 (intStore 32 true (f.sat = 1)
          (z.1.toInt + intVal 8 (mixSigns f).1 x.1 * intVal 8 (mixSigns f).2 y.1)), x.2 || y.2 || z.2)))) ∧
    (runs (.vdot4 h f) h s → ∃ u : State, exec (.vdot4 h f) s = .next (s.wordDone u) ∧
      s.wrote u f.d (destCells f.d (fun k i j =>
        let x := a.at (tShape f.d) k i j
        let y := b.at (tShape f.d) k i j
        let z := d.at (tShape f.d) k i j
        let p (n : Nat) : Int := intVal 8 (mixSigns f).1 (slot 8 n x.1) * intVal 8 (mixSigns f).2 (slot 8 n y.1)
        (BitVec.ofNat 32 (intStore 32 true (f.sat = 1) (z.1.toInt + (p 0 + p 1 + p 2 + p 3))), x.2 || y.2 || z.2))))) ∧
  (runs (.vsfu h f) h s → s.vectorReady ⟨[f.d, f.a], [], tShape f.d, [f.a], decide (f.rm.toNat = 4), 8, 2⟩ t →
    ∃ u : State, exec (.vsfu h f) s = .next (s.wordDone u) ∧ s.wrote u f.d (destCells f.d (fun k i j =>
      let x := (s.source f.a (tShape f.d) (some f.ty.toNat) false).at (tShape f.d) k i j
      (buildSlots (typeWidth f.ty) (fun n => sfuElem f.ty.toNat f.fn.toNat f.rm.toNat (s.rbits f.rm.toNat i j n)
        (Config.sfuZero f.fn.toNat f.ty.toNat f.rm.toNat) (slot (typeWidth f.ty) n x.1)), x.2))))

/-- R147 to R149: VTRN, ZIPn and UNZIPn over n consecutive registers each way: every container of the output registers
comes from the register and container that the rule gives. -/
def Obligations.MultiRegisterWords : Prop := ∀ (h : Hdr) (f : VT) (s : State) (i : Instr) (n : Nat)
    (src : Nat → Nat → Nat × Nat),
  (i, n, src) ∈ [(Instr.vtrn h f, 4, fun q c => (c % 64 / 16, 64 * (c % 64 % 16) + 16 * q + c / 64)),
    (.zip2 h f, 2, fun q c => ((1024 * q + c) % 2, (1024 * q + c) / 2)),
    (.zip3 h f, 3, fun q c => ((1024 * q + c) % 3, (1024 * q + c) / 3)),
    (.zip4 h f, 4, fun q c => ((1024 * q + c) % 4, (1024 * q + c) / 4)),
    (.unzip2 h f, 2, fun q c => ((2 * c + q) / 1024, (2 * c + q) % 1024)),
    (.unzip3 h f, 3, fun q c => ((3 * c + q) / 1024, (3 * c + q) % 1024)),
    (.unzip4 h f, 4, fun q c => ((4 * c + q) / 1024, (4 * c + q) % 1024))] →
  runs i h s → s.regOf f.a + n ≤ 768 → s.regOf f.d + n ≤ 768 →
  s.banksOn ((List.range n).map (fun q => s.regOf f.a + q) ++
    (List.range n).map (fun q => s.regOf f.d + q)) → s.here.shadUsed + 8 * n + 8 ≤ 2048 →
  ∃ u : State, exec i s = .next (s.wordDone u) ∧
    (∀ q c, q < n → c < 1024 → Store.get 0 u.arch.tiles ((s.regOf f.d + q) * 1024 + c) =
      (s.regRead 0 (s.regOf f.a + (src q c).1) false).getD (src q c).2 0) ∧
    (∀ k, k / 1024 < s.regOf f.d ∨ s.regOf f.d + n ≤ k / 1024 →
      Store.get 0 u.arch.tiles k = Store.get 0 s.arch.tiles k) ∧ u.eng.g = s.eng.g ∧ u.arch.scr = s.arch.scr

/-- R150: the masked words. -/
def Obligations.MaskedWords : Prop := ∀ (h : Hdr) (f : VM) (s t : State), tLvl f.d ≤ 1 →
  s.vectorReady ⟨[f.d, f.a], [f.mreg.toNat], tShape f.d, [f.a], false, 4, 1⟩ t →
  (runs (.vsel h f) h s → ∃ u : State, exec (.vsel h f) s = .next (s.wordDone u) ∧
    s.wrote u f.d (destCells f.d (fun k i j =>
      let x := if (s.maskAt f i j).1 then (s.source f.a (tShape f.d) none false).at (tShape f.d) k i j
        else s.destNow f.d i j
      (x.1, x.2 || (s.maskAt f i j).2)))) ∧
  (runs (.viota h f) h s → ∃ u : State, exec (.viota h f) s = .next (s.wordDone u) ∧
    s.wrote u f.d (destCells f.d (fun k i j =>
      (((s.source f.a (tShape f.d) (some 0x1C) false).at (tShape f.d) k i j).1 + BitVec.ofNat 32
        (((viewPos f.d).take k).countP (fun p => (s.maskAt f p.1 p.2).1)),
        ((s.source f.a (tShape f.d) (some 0x1C) false).at (tShape f.d) k i j).2 ||
          ((viewPos f.d).take k).any (fun p => (s.maskAt f p.1 p.2).2)))))

/-- R151 to R157: vector loads and stores of scratchpad, discarding queue entries, the poison check, and the ring words
CPUSH and CPOP. -/
def Obligations.VectorMemoryWords : Prop := ∀ (h : Hdr) (f : VT) (g : VM) (s : State),
  (runs (.vlds h f) h s → tLvl f.d ≤ 1 → s.banksOn (s.mainRegs [f.d]) →
    s.spanFault (s.spans f) = none → s.here.shadUsed + 16 ≤ 2048 → ∃ u : State,
    exec (.vlds h f) s = .next (s.wordDone u) ∧ s.wrote u f.d ((s.spans f).map (fun x => x.2.1.zipIdx.map (fun c =>
      (⟨x.1, c.1, BitVec.ofNat 32 (if f.ty = 0 then leAt ((s.lview 4).scrRead x.2.2.1 x.2.2.2) (4 * c.2) 4
        else unpack6 (leAt ((s.lview 4).scrRead x.2.2.1 x.2.2.2) (3 * c.2) 3)),
        s.arch.scrPoisoned x.2.2.1 x.2.2.2⟩ : Cell)))).flatten) ∧
  (runs (.vsts h f) h s → s.latchRead [f.d] = false → s.banksOn (s.mainRegs [f.d]) →
    s.spanFault (s.spans f) = none → (∀ x ∈ s.spans f, s.arch.leased x.2.2.1 x.2.2.2 = false) →
    s.here.shadUsed + 32 ≤ 2048 → ∃ u : State, exec (.vsts h f) s = .next (s.wordDone u) ∧
    (∀ a, (∀ x ∈ s.spans f, a < x.2.2.1 ∨ x.2.2.1 + x.2.2.2 ≤ a) →
      Store.get 0 u.arch.scr a = Store.get 0 s.arch.scr a) ∧
    (∀ k x, (s.spans f)[k]? = some x → ∀ a, x.2.2.1 ≤ a → a < x.2.2.1 + x.2.2.2 →
      (∀ m y, k < m → (s.spans f)[m]? = some y → a < y.2.2.1 ∨ y.2.2.1 + y.2.2.2 ≤ a) →
      Store.get 0 u.arch.scr a = ((List.range x.2.1.length).map (fun j =>
        let v := ((s.source f.d (tShape f.d) none false).cells.getD (k * x.2.1.length + j) (0, false)).1.toNat
        if f.ty = 0 then natBytes 4 v else natBytes 3 (pack6 v))).flatten.getD (a - x.2.2.1) 0) ∧
    u.arch.tiles = s.arch.tiles ∧ u.eng.g = s.eng.g) ∧
  (runs (.vpopSkip h f) h s → tPayload f.b ≤ (s.queue (tPayload f.a)).length → ∃ u : State,
    exec (.vpopSkip h f) s = .next (s.wordDone u) ∧
    u.queue (tPayload f.a) = (s.queue (tPayload f.a)).drop (tPayload f.b) ∧ u.arch.tiles = s.arch.tiles) ∧
  (runs (.vpchk h f) h s → s.latchRead [f.a] = false → s.banksOn (s.mainRegs [f.a]) →
    ((∀ r ∈ viewRows f.a, s.arch.rowMark (tLvl f.a) (s.regOf f.a) r.1 = false) →
      exec (.vpchk h f) s = .next (s.wordDone (s.nameBanks (banksOf (s.mainRegs [f.a])) s))) ∧
    ((∃ r ∈ viewRows f.a, s.arch.rowMark (tLvl f.a) (s.regOf f.a) r.1 = true) → f.fn = 1 → ∃ u : State,
      exec (.vpchk h f) s = .next (s.wordDone u) ∧ u.arch.poisonst = s.arch.poisonst ||| 4)) ∧
  (∀ (r : Ring) (xs ws : List (W32 × Bool)) (pad full p k : Nat), runs (.cpush h g) h s → s.latchRead [g.a] = false →
    r = s.arch.ring g.ring.toNat → s.ringOk g.ring.toNat = true → r.opened = true → r.prod = 2 →
    s.banksOn (g.mreg.toNat :: s.mainRegs [g.a]) →
    xs = ((viewPos g.a).zipIdx.filter (fun p => (s.maskAt g p.1.1 p.1.2).1)).map
      (fun p => (s.source g.a (tShape g.a) none false).cont p.2) →
    pad = (if g.fn = 1 ∧ (r.fill / 4 + xs.length) % r.perSlot ≠ 0
      then r.perSlot - (r.fill / 4 + xs.length) % r.perSlot else 0) →
    full = (r.fill / 4 + xs.length + pad) / r.perSlot → p = r.pub * r.perSlot + r.fill / 4 - r.rest.length →
    ws = r.rest ++ xs ++ List.replicate pad (0, false) → full ≤ r.nslot - r.filled →
    k = (if full < r.nslot - r.filled then ws.length else min ws.length ((r.pub + full) * r.perSlot - p)) →
    s.here.ringLeased r p k = false →
    panRoom s (s.setCore s.cur.core (s.here.ringFill r p (ws.take k))) → ∃ u : State,
    exec (.cpush h g) s = .next (s.wordDone u) ∧
    (u.arch.ring g.ring.toNat).pub = r.pub + full ∧ (u.arch.ring g.ring.toNat).rest = ws.drop k ∧
    (u.arch.ring g.ring.toNat).fill = 4 * ((r.fill / 4 + xs.length + pad) % r.perSlot) ∧
    u.arch.scr = (s.here.ringFill r p (ws.take k)).arch.scr) ∧
  (∀ r : Ring, runs (.cpop h g) h s → tLvl g.d ≤ 1 → r = s.arch.ring g.ring.toNat → s.ringOk g.ring.toNat = true →
    r.opened = true → r.prod = 2 → s.banksOn (s.mainRegs [g.d]) →
    r.taken + shapeLen (tShape g.d) ≤ r.filled * r.perSlot → s.here.shadUsed + 16 ≤ 2048 → ∃ u : State,
    exec (.cpop h g) s = .next (s.wordDone u) ∧
    s.wrote u g.d (destCells g.d (fun j _ _ =>
      (leW32 ((s.lview 4).scrRead (r.slotAddr (r.cons + (r.taken + j) / r.perSlot) + 4 * ((r.taken + j) % r.perSlot)) 4) 0,
        s.arch.scrPoisoned (r.slotAddr (r.cons + (r.taken + j) / r.perSlot) + 4 * ((r.taken + j) % r.perSlot)) 4))) ∧
    (u.arch.ring g.ring.toNat).cons = r.cons + (r.taken + shapeLen (tShape g.d)) / r.perSlot ∧
    (u.arch.ring g.ring.toNat).taken = (r.taken + shapeLen (tShape g.d)) % r.perSlot)

/-! ### Matrix words -/

/-- R163, R176: MCFG gives every named array the configuration of its record, or raises RESERVED_FIELD for a bad one;
R165: MSWAP exchanges the planes of the arrays; R181: MFIN waits for the words in flight that it names. -/
def Obligations.ArrayControlWords : Prop := ∀ (h : Hdr) (f : MX) (s : State),
  (∀ c : ArrCfg, runs (.mcfg h f) h s → s.mRangeFault [⟨mSpa f, 0, 1, 64⟩] = none →
    s.arch.scrPoisoned (mSpa f) 64 = false → mcfgRecord ((s.lview 4).scrRead (mSpa f) 64) = some c → ∃ u : State,
    exec (.mcfg h f) s = .next (s.wordDone u) ∧ (∀ x ∈ mArrs f, (u.arch.arr x).cfg = c) ∧
    (∀ x, x ∉ mArrs f → u.arch.arr x = s.arch.arr x) ∧ u.arch.acc = s.arch.acc ∧ u.arch.scr = s.arch.scr) ∧
  (runs (.mcfg h f) h s → s.mRangeFault [⟨mSpa f, 0, 1, 64⟩] = none → s.arch.scrPoisoned (mSpa f) 64 = false →
    mcfgRecord ((s.lview 4).scrRead (mSpa f) 64) = none → exec (.mcfg h f) s = .next (s.trap Code.reservedField none)) ∧
  (runs (.mswap h f) h s → (∀ x ∈ mArrs f, (s.arch.arr x).joined = false ∧ (s.arch.arr x).shadow.st ≠ .needmeta ∧
      (s.arch.arr x).loading = false ∧ (s.arch.arr x).portStream ≤ s.cycle) → ∃ u : State,
    exec (.mswap h f) s = .next (s.wordDone u) ∧
    (∀ x ∈ mArrs f, (u.arch.arr x).stationary = (s.arch.arr x).shadow ∧
      (u.arch.arr x).shadow = (s.arch.arr x).stationary) ∧ u.arch.acc = s.arch.acc ∧ u.arch.scr = s.arch.scr) ∧
  (runs (.mfin h f) h s → (∀ m ∈ s.arch.mflight, m.doneAt ≤ s.cycle) →
    exec (.mfin h f) s = .next (s.wordDone s)) ∧
  (runs (.mfin h f) h s → (∃ m ∈ s.arch.mflight, s.cycle < m.doneAt ∧ m.accForm = true) →
    exec (.mfin h f) s = .next s.stalledNow) ∧
  (∀ i : Instr, i ∈ [.mcfg h f, .mldw h f, .mldwq h f, .mswap h f, .mstr h f, .mstrq h f, .mmv h f, .mspm h f,
    .macz h f, .macrd h f, .macst h f, .macld h f, .mfin h f] → s.eng.inHandler = true →
    exec i s = .next (s.trap Code.matrixInHandler none))

/-- R164, R166, R167, R173, R177: a stationary load from scratchpad leaves the plane that takes it LOADING with the word's
types and, in the dense matrix form, the operand's rows in order; a load from a queue takes its entries; MSPM puts the
masks of a sparse plane. None of them changes accumulators or scratchpad. -/
def Obligations.StationaryLoads : Prop := ∀ (h : Hdr) (f : MX) (s : State),
  (∀ (r sc : MRange) (rs : List MRange), runs (.mldw h f) h s → WellFormed (.mldw h f) = true →
    s.mOperand f (s.arch.mcfgOf f).pitchA (mldShape f).1 (mldShape f).2 = .range r →
    sc = ⟨(s.arch.mcfgOf f).sclA, mScaleRow f, mBlocks f f.ta, if f.mv = 1 then f.nv.toNat + 1 else mScaleRow f⟩ →
    rs = (if sc.rows = 0 then [r] else [r, sc]) → s.mRangeFault rs = none → s.arch.loadHeld f s.cycle = false →
    s.arch.leaseLack rs.length = false → s.here.shadUsed + 400 ≤ 2048 → ∃ u : State,
    exec (.mldw h f) s = .next (s.wordDone u) ∧ u.arch.acc = s.arch.acc ∧ u.arch.scr = s.arch.scr ∧
    (∀ x ∈ mArrs f, (u.arch.arr x).loading = true ∧ (f.ta = 0 → (u.arch.arr x).joined = true) ∧
      (f.ta ≠ 0 → (u.arch.arr x).shadow.ta = f.ta ∧ (u.arch.arr x).shadow.tb = f.tb ∧
        (u.arch.arr x).shadow.sp = f.sp)) ∧
    (f.ta ≠ 0 → f.mv = 0 → ∀ x ∈ mArrs f, ∀ k j, k < mKp f → j < mRowLen f →
      Store.get 0 (u.arch.arr x).shadow.elems (k * mRowLen f + j) =
        Store.get 0 (s.mview f).scr (r.row k + (if f.arr = 2 ∧ x = true then mRowLen f else 0) + j))) ∧
  (runs (.mldwq h f) h s → WellFormed (.mldwq h f) = true → s.eng.prog = 0 → s.arch.loadHeld f s.cycle = false → 0 < mldqEntries f →
    mldqEntries f ≤ (s.queue (f.spa.extractLsb' 0 3).toNat).length → s.here.shadUsed + 400 ≤ 2048 → ∃ u : State,
    exec (.mldwq h f) s = .next (s.wordDone u) ∧ u.queue (f.spa.extractLsb' 0 3).toNat =
      (s.queue (f.spa.extractLsb' 0 3).toNat).drop (mldqEntries f) ∧ u.arch.acc = s.arch.acc ∧
    u.arch.scr = s.arch.scr ∧ ∀ x ∈ mArrs f, (u.arch.arr x).loading = true) ∧
  (runs (.mspm h f) h s → WellFormed (.mspm h f) = true → s.mRangeFault [⟨mSpa f, 0, 1, mMaskBytes f * (mArrs f).length⟩] = none →
    (∀ x ∈ mArrs f, (s.arch.arr x).joined = false ∧ (s.arch.arr x).shadow.st = .needmeta ∧
      (s.arch.arr x).shadow.ta = f.ta ∧ (s.arch.arr x).shadow.tb = f.tb ∧ (s.arch.arr x).shadow.sp = f.sp ∧
      (s.arch.arr x).portLoad ≤ s.cycle) → s.arch.leaseLack 1 = false → s.here.shadUsed + 520 ≤ 2048 → ∃ u : State,
    exec (.mspm h f) s = .next (s.wordDone u) ∧ u.arch.acc = s.arch.acc ∧ u.arch.scr = s.arch.scr ∧
    ∀ x ∈ mArrs f, ∀ j, j < mMaskBytes f → Store.get 0 (u.arch.arr x).shadow.masks j =
      Store.get 0 (s.lview 4).scr (mSpa f + (if f.arr = 2 ∧ x = true then mMaskBytes f else 0) + j))

/-- R166, R168, R175, R178: a pass whose operand, planes and accumulators pass the checks applies its streamed rows in
order, from scratchpad for MSTR and from a queue for MSTRQ and MMV, when the Pan has room for the containers it
writes. R55 to R57, R168: one streamed row changes exactly the containers of its accumulators: each becomes the update
of its old value (or of 0 with Z) by the products of the row and its column; an integer update is the old value plus
the exact sum of the products, wrapped. -/
def Obligations.PassWords : Prop :=
  (∀ (h : Hdr) (f : MX) (s : State),
  (∀ (r sc : MRange) (rs : List MRange) (row : Nat → MRow) (c : Core) (n nb len : Nat), runs (.mstr h f) h s →
    n = (s.arch.mcfgOf f).mrows → n ≠ 0 → len = mKps f * mBits f.tb / 8 → nb = mBlocks f f.tb →
    s.mOperand f (s.arch.mcfgOf f).pitchB n len = .range r → sc = ⟨(s.arch.mcfgOf f).sclB, nb, n, nb⟩ →
    rs = (if nb = 0 then [r] else [r, sc]) → s.mRangeFault rs = none → s.passFault f = none →
    s.arch.portBusy (mArrs f) s.cycle (fun m => m.portStream) = false → s.arch.leaseLack rs.length = false →
    (∀ m, row m = ⟨((s.mview f).scrRead (r.row m) len).toArray, mBits f.tb, ((s.mview f).scrRead (sc.row m) nb).toArray,
      s.arch.scrPoisoned (r.row m) len || s.arch.scrPoisoned (sc.row m) nb⟩) →
    c = (List.range n).foldl (fun k m => k.passRow f (s.arch.m0.stat f) (s.arch.m1.stat f) m (row m))
      (s.here.passStart f n) → s.here.panLacks c = false → ∃ u : State, exec (.mstr h f) s = .next (s.wordDone u) ∧
    u.arch.acc = c.arch.acc ∧ u.arch.accP = c.arch.accP ∧ u.arch.scr = s.arch.scr ∧ u.arch.tiles = s.arch.tiles ∧
    u.arch.leases = s.arch.leases ++ rs.map (fun q => ⟨q.first, q.last, s.cycle + n * mCpr f⟩)) ∧
  (∀ (i : Instr) (row : Nat → MRow) (c : Core) (n per q : Nat), i = .mstrq h f ∨ i = .mmv h f → runs i h s →
    n = (s.arch.mcfgOf f).mrows → n ≠ 0 → per = mEntries (mKps f) (typeWidth f.tb) → 0 < per →
    q = (f.spa.extractLsb' 0 3).toNat → s.passFault f = none → s.eng.prog = 0 →
    s.arch.portBusy (mArrs f) s.cycle (fun m => m.portStream) = false → n * per ≤ (s.queue q).length →
    (∀ m, row m =
      let es := ((s.queue q).drop (m * per)).take per
      let bs := (es.map (fun e => e.bytes)).flatten.toArray
      ⟨bs, typeWidth f.tb, if blockLen f.tb = 0 then #[] else bs.extract 192 256, es.any (fun e => e.poison)⟩) →
    c = (List.range n).foldl (fun k m => k.passRow f (s.arch.m0.stat f) (s.arch.m1.stat f) m (row m))
      (s.here.passStart f n) → s.here.panLacks c = false → ∃ u : State, exec i s = .next (s.wordDone u) ∧
    u.arch.acc = c.arch.acc ∧ u.arch.accP = c.arch.accP ∧ u.arch.scr = s.arch.scr ∧ u.arch.tiles = s.arch.tiles ∧
    u.queue q = (s.queue q).drop (n * per))) ∧
  (∀ (f : MX) (c : Core) (x0 x1 : MStat) (m : Nat) (r : MRow),
  (mStride f = 1 → ∀ k, k < mPerRow f → (Store.get 0 (c.passRow f x0 x1 m r).arch.acc (mAcc f + m * mPerRow f + k)) =
    let o := (mOuts f m).getD k (false, 0)
    BitVec.ofNat 32 (mUpdate f (c.arch.arr o.1).cfg.sat r (if o.1 then x1 else x0) o.2
      (if f.z = 1 then 0 else (Store.get 0 c.arch.acc (mAcc f + m * mPerRow f + k)).toNat))) ∧
  (∀ k, k < mAcc f + mStride f * (m * mPerRow f) ∨ mAcc f + mStride f * ((m + 1) * mPerRow f) ≤ k →
    Store.get 0 (c.passRow f x0 x1 m r).arch.acc k = Store.get 0 c.arch.acc k) ∧
  (∀ (x : MStat) (n acc : Nat), accClass f.ta ≠ some 0 → mUpdate f false r x n acc =
    ((intVal (32 * mStride f) true acc +
      ((List.range (mKps f)).map (fun k => (mProd f r x n k).int)).sum) % 2 ^ (32 * mStride f)).toNat))

/-- R179, R180: the accumulator words. MACZ clears its containers, MACLD fills them from scratchpad, MACRD writes tile
registers with the values read out, MACST stores those values; each waits for the readout port. -/
def Obligations.AccumulatorWords : Prop := ∀ (h : Hdr) (f : MX) (s : State), s.accHeld = false →
  (runs (.macz h f) h s → mAcc f + mCount f ≤ 2 ^ 20 → panRoom s (s.modHere (fun c =>
      c.accPut (mAcc f) (List.replicate (mCount f) 0) false false)) → ∃ u : State,
    exec (.macz h f) s = .next (s.wordDone u) ∧ u.arch.scr = s.arch.scr ∧
    ∀ k, Store.get 0 u.arch.acc k = if mAcc f ≤ k ∧ k < mAcc f + mCount f then 0 else Store.get 0 s.arch.acc k) ∧
  (∀ c : Core, runs (.macld h f) h s → mAcc f + mCount f ≤ 2 ^ 20 →
    s.mRangeFault [⟨mSpa f, 0, 1, 4 * mCount f⟩] = none → s.arch.leaseLack 1 = false →
    c = (chunks 256 (mCount f) ((s.lview 4).scrRead (mSpa f) (4 * mCount f))).zipIdx.foldl (fun (c : Core) p =>
      c.accPut (mAcc f + 64 * p.2) ((chunks 4 65 p.1).map (fun b => BitVec.ofNat 32 (bytesNat b))) false true) s.here →
    s.here.panLacks c = false → ∃ u : State, exec (.macld h f) s = .next (s.wordDone u) ∧ u.arch.scr = s.arch.scr ∧
    ∀ k, k < mCount f → Store.get 0 u.arch.acc (mAcc f + k) =
      BitVec.ofNat 32 (bytesNat ((s.lview 4).scrRead (mSpa f + 4 * k) 4))) ∧
  (∀ regs : List Nat, runs (.macrd h f) h s → WellFormed (.macrd h f) = true →
    regs = (List.range (f.nv.toNat + 1)).map (fun q => s.rotate (f.tile.toNat + q)) → regs.Nodup →
    s.banksOn regs →
    mAcc f + accStride f.ta * (perReg f.tb * (f.nv.toNat + 1)) ≤ 2 ^ 20 → (f.ta = 0x1E → mAcc f % 2 = 0) →
    s.here.shadUsed + 64 ≤ 2048 → ∃ u : State, exec (.macrd h f) s = .next (s.wordDone u) ∧
    u.arch.acc = s.arch.acc ∧ u.arch.scr = s.arch.scr ∧
    (typeWidth f.tb ≤ 32 → ∀ q r, regs[q]? = some r → ∀ k, k < 1024 → ∀ j, j < 32 / typeWidth f.tb →
      slot (typeWidth f.tb) j (Store.get 0 u.arch.tiles (r * 1024 + k)) =
        s.arch.readout f.ta f.tb (mAcc f + accStride f.ta * (q * perReg f.tb + k * (32 / typeWidth f.tb) + j)) %
          2 ^ typeWidth f.tb) ∧
    (f.tb = 0x1E → ∀ q r, regs[q]? = some r → ∀ k, k < 512 →
      (Store.get 0 u.arch.tiles (r * 1024 + 2 * k)).toNat + (Store.get 0 u.arch.tiles (r * 1024 + 2 * k + 1)).toNat * 2 ^ 32 =
        s.arch.readout f.ta f.tb (mAcc f + accStride f.ta * (q * 512 + k)) % 2 ^ 64) ∧
    ∀ k, k / 1024 ∉ regs → Store.get 0 u.arch.tiles k = Store.get 0 s.arch.tiles k) ∧
  (∀ (n w st : Nat), runs (.macst h f) h s → WellFormed (.macst h f) = true → st = accStride f.ta → w = typeWidth f.tb →
    n = mCount f / st * w / 8 → s.mRangeFault [⟨mSpa f, 0, 1, n⟩] = none → mAcc f + mCount f ≤ 2 ^ 20 →
    (f.ta = 0x1E → mAcc f % 2 = 0) → s.arch.leased (mSpa f) n = false →
    panRoom s (s.setCore s.cur.core ((List.range (n / 64)).foldl (fun (c : Core) g => c.scrWrite .own (.l .m) (mSpa f + 64 * g)
      (((List.range (512 / w)).map (fun j => natBytes (w / 8)
        (s.arch.readout f.ta f.tb (mAcc f + st * (g * (512 / w) + j))))).flatten)
      (marked s.arch.accP 256 (mAcc f + st * (g * (512 / w))) (st * (512 / w))) 4 (s.cycle + mCount f / 256 + 8)) s.here)) → ∃ u : State,
    exec (.macst h f) s = .next (s.wordDone u) ∧ u.arch.acc = s.arch.acc ∧
    (∀ j b, j < mCount f / st → b < w / 8 → Store.get 0 u.arch.scr (mSpa f + j * (w / 8) + b) =
      BitVec.ofNat 8 (s.arch.readout f.ta f.tb (mAcc f + st * j) / 256 ^ b)) ∧
    ∀ a, a < mSpa f ∨ mSpa f + n ≤ a → Store.get 0 u.arch.scr a = Store.get 0 s.arch.scr a)

/-! ### The transport sequencer (19_sequencer) -/

/-- R388, R391, R394: the scalar words of the sequencer write x[a] and nothing else; x0 reads 0. -/
def Obligations.SequencerScalarWords : Prop := ∀ (f : SeqW) (s : State),
  exec (.mov f) s = .next (s.seqWrites f.a (s.seq.getX f.b)) ∧
  exec (.seqMovi f) s = .next (s.seqWrites f.a (BitVec.ofInt 64 f.lo.toInt)) ∧
  exec (.seqAdd f) s = .next (s.seqWrites f.a (s.seq.getX f.b + s.seq.y f)) ∧
  exec (.seqSub f) s = .next (s.seqWrites f.a (s.seq.getX f.b - s.seq.y f)) ∧
  (∃ v, exec (.seqAnd f) s = .next (s.seqWrites f.a v) ∧
    ∀ n, n < 64 → v.getLsbD n = ((s.seq.getX f.b).getLsbD n && (s.seq.y f).getLsbD n)) ∧
  (∃ v, exec (.seqOr f) s = .next (s.seqWrites f.a v) ∧
    ∀ n, n < 64 → v.getLsbD n = ((s.seq.getX f.b).getLsbD n || (s.seq.y f).getLsbD n)) ∧
  (∃ v, exec (.seqXor f) s = .next (s.seqWrites f.a v) ∧
    ∀ n, n < 64 → v.getLsbD n = ((s.seq.getX f.b).getLsbD n ^^ (s.seq.y f).getLsbD n)) ∧
  (∃ v, exec (.seqShl f) s = .next (s.seqWrites f.a v) ∧ ∀ n, n < 64 → v.getLsbD n =
    (decide ((s.seq.y f).toNat % 64 ≤ n) && (s.seq.getX f.b).getLsbD (n - (s.seq.y f).toNat % 64))) ∧
  (∃ v, exec (.seqShr f) s = .next (s.seqWrites f.a v) ∧ ∀ n, n < 64 → v.getLsbD n =
    (s.seq.getX f.b).getLsbD (n + (s.seq.y f).toNat % 64)) ∧
  (∃ b : Bool, exec (.seqCmp f) s = .next (s.seqWrites f.a (if b then 1 else 0)) ∧
    (f.f = 0x0 → (b = true ↔ s.seq.getX f.b = s.seq.y f)) ∧ (f.f = 0x1 → (b = true ↔ s.seq.getX f.b ≠ s.seq.y f)) ∧
    (f.f = 0x2 → (b = true ↔ (s.seq.getX f.b).toInt < (s.seq.y f).toInt)) ∧
    (f.f = 0x3 → (b = true ↔ (s.seq.y f).toInt ≤ (s.seq.getX f.b).toInt)) ∧
    (f.f = 0x4 → (b = true ↔ (s.seq.getX f.b).toNat < (s.seq.y f).toNat)) ∧
    (f.f = 0x5 → (b = true ↔ (s.seq.y f).toNat ≤ (s.seq.getX f.b).toNat)) ∧
    (f.f = 0x6 → (b = true ↔ (s.seq.y f).toInt < (s.seq.getX f.b).toInt)) ∧
    (f.f = 0x7 → (b = true ↔ (s.seq.getX f.b).toInt ≤ (s.seq.y f).toInt)) ∧
    (f.f = 0x8 → (b = true ↔ (s.seq.y f).toNat < (s.seq.getX f.b).toNat)) ∧
    (f.f = 0x9 → (b = true ↔ (s.seq.getX f.b).toNat ≤ (s.seq.y f).toNat)) ∧
    (f.f = 0xA → (b = true ↔ s.seq.getX f.b &&& s.seq.y f ≠ 0)) ∧
    (f.f = 0xB → (b = true ↔ s.seq.getX f.b &&& s.seq.y f = 0))) ∧
  (f.a = 0 → s.seqWrites f.a 1 = s.seqDone s) ∧ s.seq.getX 0 = 0

/-- R394, R402: branches, calls and returns of the sequencer set pc, a branch not taken goes on; HALT ends the routine,
with a code of R305 it fails the bundle, and a number above 255 raises RESERVED_FIELD. LDX reads its bytes of local
memory zero-extended, STX writes the low bytes of x[a]; both raise MISALIGNED off alignment, and RESERVED_FIELD where
they reach 2^18. -/
def Obligations.SequencerControlAndMemoryWords : Prop := ∀ (f : SeqW) (s : State),
  exec (.seqBr f) s = .next (s.seqAtPc (s.seq.pc + 8 * f.imm.signExtend 64)) ∧
  (s.seq.getX f.a ≠ 0 → exec (.brcNz f) s = .next (s.seqAtPc (s.seq.pc + 8 * f.imm.signExtend 64)) ∧
    exec (.brcZ f) s = .next (s.seqDone s)) ∧
  (s.seq.getX f.a = 0 → exec (.brcZ f) s = .next (s.seqAtPc (s.seq.pc + 8 * f.imm.signExtend 64)) ∧
    exec (.brcNz f) s = .next (s.seqDone s)) ∧
  exec (.call f) s = .next ((s.modSeq (fun q => q.setX f.a (s.seq.pc + 8))).seqAtPc
    (s.seq.pc + 8 * f.imm.signExtend 64)) ∧
  exec (.ret f) s = .next (s.seqAtPc (s.seq.getX f.b)) ∧
  (∀ r : Routine, s.seq.routine = some r →
    (f.imm = 0 → ∃ t, exec (.halt f) s = .next t ∧ t.seq.running = false ∧ t.seq.routine = none ∧
      t.dev = s.dev.modBundle r.bundle (fun b => { b with routineLive := false })) ∧
    (∀ c : BitVec 8, c ∈ Code.all → c ≠ 0 → f.imm = c.zeroExtend 32 → ∃ t, exec (.halt f) s = .next t ∧
      t.seq.running = false ∧ t.seq.routine = none ∧
      t.dev.bundles = (s.dev.modBundle r.bundle (fun b => { b.fail c with routineLive := false })).bundles)) ∧
  (255 < f.imm.toNat → exec (.halt f) s = .next (s.seqEnd Code.reservedField)) ∧
  let n := 2 ^ f.f.toNat
  let a := (s.seq.ea f).toNat
  (a % n = 0 → a + n ≤ 2 ^ 18 → exec (.ldx f) s = .next (s.seqDone (s.modSeq (fun q =>
    ({ q with ldx := (f.a.toNat, s.cycle + 2) } : Seq).setX f.a (BitVec.ofNat 64 (bytesNat (Store.run 0 s.seq.lmem a n))))))) ∧
  (n ≤ 8 → a % n = 0 → a + n ≤ 2 ^ 18 → s.here.shadUsed < 2048 → ∃ t : State, exec (.stx f) s = .next (s.seqDone t) ∧
    (∀ b, Store.get 0 t.seq.lmem b = if a ≤ b ∧ b < a + n then (s.seq.getX f.a).extractLsb' (8 * (b - a)) 8
      else Store.get 0 s.seq.lmem b) ∧ t.seq.x = s.seq.x ∧ s.sameMemory t) ∧
  (∀ i : Instr, i = .ldx f ∨ i = .stx f →
    (a % n ≠ 0 → exec i s = .next (s.seqEnd Code.misaligned)) ∧
    (a % n = 0 → 2 ^ 18 < a + n → exec i s = .next (s.seqEnd Code.reservedField)))

/-- R390, R395: EVWAIT goes on with the count of records and, with no limit, stalls while there is none; EVPOP takes the
oldest record; DLINE goes on at its deadline or an event with DTIME. R274: CMDPOP hands over the head command of the
routine's context whose wait is met; SEMS.done ends one and signals; SEMS adds to a semaphore; SEMW goes on when its
condition is met. -/
def Obligations.SequencerEventAndCommandWords : Prop := ∀ (f : SeqW) (s : State),
  (s.seq.evq ≠ [] → exec (.evwait f) s = .next (s.seqWrites f.a (BitVec.ofNat 64 s.seq.evq.length))) ∧
  (s.seq.evq = [] → s.seq.y f = 0 → ∃ t, exec (.evwait f) s = .next t ∧ t.seq.pc = s.seq.pc ∧ t.seq.x = s.seq.x ∧
    t.dev = s.dev) ∧
  ((s.seq.ea f).toNat % 32 = 0 → (s.seq.ea f).toNat + 32 ≤ 2 ^ 18 →
    (s.seq.evq = [] → exec (.evpop f) s = .next (s.seqWrites f.a 0)) ∧
    (∀ e es, s.seq.evq = e :: es → s.here.shadUsed < 2048 → ∃ t, exec (.evpop f) s = .next (s.seqDone t) ∧
      t.seq.evq = es ∧ (f.a ≠ 0 → t.seq.getX f.a = e.evt.zeroExtend 64) ∧
      ∀ k, k < 32 → Store.get 0 t.seq.lmem ((s.seq.ea f).toNat + k) = e.bytes.getD k 0)) ∧
  ((s.seq.ea f).toNat ≤ s.dtime ∨ s.seq.evq ≠ [] →
    exec (.dline f) s = .next (s.seqWrites f.a (BitVec.ofNat 64 s.dtime))) ∧
  (s.dtime < (s.seq.ea f).toNat → s.seq.evq = [] → exec (.dline f) s = .next s) ∧
  ((s.seq.ea f).toNat % 64 = 0 → (s.seq.ea f).toNat + 64 ≤ 2 ^ 18 →
    (s.seqHead = none → exec (.cmdpop f) s = .next (s.seqWrites f.a 0)) ∧
    (∀ x, s.seqHead = some x → s.here.shadUsed < 2048 → ∃ t, exec (.cmdpop f) s = .next (s.seqDone t) ∧
      (f.a ≠ 0 → t.seq.getX f.a = BitVec.ofNat 64 s.seq.freeHandle) ∧ t.seq.cmdq.length = s.seq.cmdq.length ∧
      (∃ y ∈ t.seq.cmdq, y = { x with popped := true, handle := s.seq.freeHandle }) ∧
      ∀ k, k < 64 → Store.get 0 t.seq.lmem ((s.seq.ea f).toNat + k) = x.bytes.getD k 0)) ∧
  ((∀ x ∈ s.seq.cmdq, ¬(x.popped = true ∧ x.handle = (s.seq.getX f.b).toNat)) →
    exec (.semsDone f) s = .next (s.seqEnd Code.reservedField)) ∧
  (∀ x, s.seq.cmdq.find? (fun x => x.popped && decide (x.handle = (s.seq.getX f.b).toNat)) = some x → s.here.real = none →
    (x.se = false ∨ x.sigCore = s.cur.core.val) → ∃ t : State, exec (.semsDone f) s = .next (s.seqDone t) ∧
      (∀ y ∈ t.seq.cmdq, ¬(y.popped = true ∧ y.handle = (s.seq.getX f.b).toNat)) ∧
      (x.se = true → t.arch.sem x.ss = s.arch.sem x.ss + BitVec.ofNat 32 x.si) ∧
      (x.se = false → ∀ n, t.arch.sem n = s.arch.sem n)) ∧
  (f.imm.toNat < 256 → (s.dev.ctx s.seq.ctx).sema.getLsbD f.imm.toNat = true →
    (s.here.real = none → ∃ t : State, exec (.sems f) s = .next (s.seqDone t) ∧
      t.arch.sem f.imm.toNat = s.arch.sem f.imm.toNat + (s.seq.getX f.b).setWidth 32 ∧
      ∀ n, n < 256 → n ≠ f.imm.toNat → t.arch.sem n = s.arch.sem n) ∧
    ((s.here.realArch.sem f.imm.toNat - (s.seq.getX f.b).setWidth 32).toNat < 2 ^ 31 →
      exec (.semw f) s = .next (s.seqDone (s.seqAcquired f.imm.toNat))) ∧
    (2 ^ 31 ≤ (s.here.realArch.sem f.imm.toNat - (s.seq.getX f.b).setWidth 32).toNat →
      exec (.semw f) s = .next s)) ∧
  (∀ i : Instr, i = .sems f ∨ i = .semw f →
    (256 ≤ f.imm.toNat → exec i s = .next (s.seqEnd Code.reservedField)) ∧
    (f.imm.toNat < 256 → (s.dev.ctx s.seq.ctx).sema.getLsbD f.imm.toNat = false →
      exec i s = .next (s.seqEnd Code.privilege)))

/-- R396, R398, R399, R404: FLOW.open opens a closed flow from its descriptor, FLOW.close frees one, FLOW.stat writes its
status; a send or request that passes its checks takes the flow's next FSNs, which x[a] receives, and records its
flits and its operation; one that does not ends the routine with the code. -/
def Obligations.SequencerFlowWords : Prop := ∀ (f : SeqW) (s : State),
  (∀ a n x job me, s.seq.place f 32 = .ok a → flowOf (s.seq.lread a 32) = some (n, x) → (s.seq.flow n).st = .closed →
    s.binding s.cur.core s.seq.ctx x.jki = some (job, me) → ∃ t : State, exec (.flowOpen f) s = .next (s.seqDone t) ∧
      t.seq.flow n = { x with id := s.seq.opens + 1, ctx := s.seq.ctx, job := job, myrank := me } ∧
      (t.seq.flow n).st = .opened ∧ ∀ m, m ≠ n → t.seq.flow m = s.seq.flow m) ∧
  (∀ a, s.seq.place f 32 = .ok a → flowOf (s.seq.lread a 32) = none →
    exec (.flowOpen f) s = .next (s.seqEnd Code.reservedField)) ∧
  (∀ n, n = (s.seq.getX f.a).toNat % 1024 → panRoom s (s.modHere (fun c => c.closeFlow n)) → ∃ t : State,
    exec (.flowClose f) s = .next (s.seqDone t) ∧ t.seq.flow n = Flow.closed ∧
      (∀ m, m ≠ n → t.seq.flow m = s.seq.flow m) ∧ ∀ o ∈ t.seq.ops, o.flowId ≠ (s.seq.flow n).id) ∧
  (∀ a, s.seq.place f 32 = .ok a → s.here.shadUsed < 2048 → ∃ t : State, exec (.flowStat f) s = .next (s.seqDone t) ∧
    ∀ k, k < 32 → Store.get 0 t.seq.lmem (a + k) =
      (s.flowStatus (s.seq.flow ((s.seq.getX f.a).toNat % 1024))).getD k 0) ∧
  (∀ (i : Instr) (k a : Nat), (k, i) ∈ [(1, Instr.put f), (2, .putm f), (3, .redc f), (4, .get f), (5, .atom f)] →
    s.seq.place f 64 = .ok a →
    let d := descOf k (s.seq.lread a 64)
    let fl := s.seq.flow d.flow
    (∀ code, s.sendCheck d fl = some code → exec i s = .next (s.seqEnd code)) ∧
    (∀ t, s.sendCheck d fl = none → s.operate f d = .done t → panRoom s t → exec i s = .next (s.seqDone t))) ∧
  (∀ d : Desc, 1 ≤ d.kind → d.kind ≤ 5 → s.sendCheck d (s.seq.flow d.flow) = none →
    let fl := s.seq.flow d.flow
    (d.kind ≤ 3 → ∀ k e, ({ s with free := s.free + k } : State).sourceOf s.cur.core s.seq.ctx d.ssp (d.addr + fl.unit * k)
      (min fl.unit (d.len - fl.unit * k)) = .error e → e.remote = false) →
    ∃ t : State, s.operate f d = .done t ∧ (f.a ≠ 0 → t.seq.getX f.a = BitVec.ofNat 64 fl.nextFsn) ∧
      (∀ m, m ≠ d.flow → t.seq.flow m = s.seq.flow m) ∧
      (t.seq.flow d.flow).nextFsn = (fl.nextFsn +
        (if 4 ≤ d.kind then 1 else (d.len + fl.unit - 1) / fl.unit)) % 2 ^ 32 ∧
      ∃ o ∈ t.seq.ops, o.kind = d.kind ∧ o.first = fl.nextFsn ∧ o.asem = semOf d.asem) ∧
  (∀ a, s.seq.place f 64 = .ok a →
    let k := bitsOf (leAt (s.seq.lread a 64) 0x14 4) 7 6
    let d := descOf k (s.seq.lread a 64)
    let d' : Desc := { d with flags := d.flags - 64 * k }
    (k = 0 → exec (.xstep f) s = .next (s.seqEnd Code.reservedField)) ∧
    (∀ t, k ≠ 0 → s.operate f d' = .done t → panRoom s t → exec (.xstep f) s = .next (s.seqDone t)))

/-- R375, R400, R401, R412: RETX marks the flits that y names to be sent again; KEYLD fills a slot that is EMPTY, RETIRED
or EXHAUSTED and gives 1, and gives 0 for another; KEYSW moves a LOADED slot on; XPLAN writes the step list and the
number of its steps. -/
def Obligations.SequencerKeyAndPlanWords : Prop := ∀ (f : SeqW) (s : State),
  ((s.seq.flow ((s.seq.getX f.a).toNat % 1024)).st ≠ .opened → exec (.retx f) s = .next (s.seqEnd Code.reservedField)) ∧
  (∀ u fl, fl = s.seq.flow ((s.seq.getX f.a).toNat % 1024) → fl.st = .opened → s.seq.y f = 1 → fl.unacked = [u] →
    u.fsn = (s.seq.getX f.b).toNat % 2 ^ 32 → u.sent = true → u.again = false → u.tries < fl.rlim → ∃ t : State,
      exec (.retx f) s = .next (s.seqDone t) ∧ t.seq.flow ((s.seq.getX f.a).toNat % 1024) =
        { fl with retx := (fl.retx + 1) % 2 ^ 64, unacked := [{ u with again := true, tries := u.tries + 1 }] }) ∧
  (∀ a job me, s.seq.place f 32 = .ok a → s.binding s.cur.core s.seq.ctx (s.seq.getX f.a).toNat = some (job, me) →
    let k := s.dev.jobKey job
    let n := f.f.toNat % 2
    ((k.slot n).st = .empty ∨ (k.slot n).st = .retired ∨ (k.slot n).st = .exhausted → ∃ t : State,
      exec (.keyld f) s = .next (s.seqDone t) ∧ (f.c ≠ 0 → t.seq.getX f.c = 1) ∧
      ((t.dev.jobKey job).slot n).st = .loaded ∧ ((t.dev.jobKey job).slot n).key = s.seq.lread a 32 ∧
      ((t.dev.jobKey job).slot n).ivc = 0 ∧ ((t.dev.jobKey job).slot n).klim = s.arch.klim.toNat ∧
      (t.dev.jobKey job).slot (n + 1) = k.slot (n + 1)) ∧
    ((k.slot n).st = .loaded ∨ (k.slot n).st = .current ∨ (k.slot n).st = .next →
      exec (.keyld f) s = .next (s.seqWrites f.c 0))) ∧
  (∀ job me, s.binding s.cur.core s.seq.ctx (s.seq.getX f.a).toNat = some (job, me) →
    let k := s.dev.jobKey job
    let n := f.f.toNat % 2
    ((k.slot n).st ≠ .loaded → exec (.keysw f) s = .next (s.seqWrites f.c 0)) ∧
    ((k.slot n).st = .loaded → s.jobPeers job = [] → (∀ x ∈ s.dev.ctlq, x.1.job.toNat ≠ job) → ∃ t : State, exec (.keysw f) s = .next (s.seqDone t) ∧
      (f.c ≠ 0 → t.seq.getX f.c = 1) ∧ ((t.dev.jobKey job).slot n).st = .current ∧
      (((k.slot (n + 1)).st = .current → ((t.dev.jobKey job).slot (n + 1)).st = .retired))) ∧
    (∀ t, (k.slot n).st = .loaded → t = (s.keySwitch job me n).modSeq (fun q => q.setX f.c 1) → panRoom s t →
      exec (.keysw f) s = .next (s.seqDone t))) ∧
  (∀ i : Instr, i = .keyld f ∧ s.seq.place f 32 = .ok (s.seq.ea f).toNat ∨ i = .keysw f →
    s.binding s.cur.core s.seq.ctx (s.seq.getX f.a).toNat = none → exec i s = .next (s.seqEnd Code.jobKeyAbsent)) ∧
  (∀ a, s.seq.place f 64 = .ok a →
    (s.plan (s.seq.lread a 64) = none → exec (.xplan f) s = .next (s.seqEnd Code.reservedField)) ∧
    (∀ p, s.plan (s.seq.lread a 64) = some p → p.bind = none → leAt (s.seq.lread a 64) 0x2C 4 % 64 = 0 →
      panRoom s ((s.lwrite (leAt (s.seq.lread a 64) 0x2C 4) p.steps.flatten).lwrite (a + 0x32) (natBytes 2 p.p2)) →
      ∃ t : State, exec (.xplan f) s = .next (s.seqDone t) ∧
      (f.a ≠ 0 → t.seq.getX f.a = BitVec.ofNat 64 p.steps.length) ∧
      ∀ k, k < 2 → Store.get 0 t.seq.lmem (a + 0x32 + k) = (natBytes 2 p.p2).getD k 0))

/-! ### Section headers and the containment region (06_kernel, 17_region) -/

/-- R22, R106, R109, R310: a header of kernel text is entered when its checks pass: the instance is numbered, its SID
noted, and its words follow. SLIPW holds an engine back; a header that R22, R106 or R110 refuse raises SECTION_FORMAT
or RESERVED_FIELD. A header of a handler or stub is entered uncounted, and must carry no waits or flags. -/
def Obligations.SectionHeaders : Prop := ∀ (f : SecHdr) (s : State),
  (f.mark ≠ 0xE5 → headerFault f = some Code.sectionFormat) ∧
  (f.mark = 0xE5 → xorBytes (encodeHdr f) = 0 → f.len = 0 → headerFault f = some Code.sectionFormat) ∧
  (xorBytes (encodeHdr f) ≠ 0 → headerFault f = some Code.sectionFormat) ∧
  (headerFault f = none → f.mark = 0xE5 ∧ f.len ≠ 0 ∧ f.rsv = 0 ∧ xorBytes (encodeHdr f) = 0) ∧
  (s.eng.run = .run → s.cur.th ≠ .chap → s.here.recov = none → s.here.preempt = none →
    (s.arch.slipOk s.cur.th = false → exec (.sectionHeader f) s = .next s) ∧
    (s.arch.slipOk s.cur.th = true →
      (∀ code, headerFault f = some code → exec (.sectionHeader f) s = .next (s.trap code none)) ∧
      (headerFault f = none →
        (s.eng.inst < s.arch.sids.length → s.arch.sids.getD s.eng.inst 0 ≠ f.sid →
          exec (.sectionHeader f) s = .next (s.trap Code.sectionFormat none)) ∧
        ((s.arch.sids.length ≤ s.eng.inst ∨ s.arch.sids.getD s.eng.inst 0 = f.sid) → s.branchFault s.eng = false →
          s.bodyFault s.eng = false → f.sealf = 0 ∨ s.arch.sealPass = some s.eng.inst → ∃ t : State,
          exec (.sectionHeader f) s = .next t ∧ t.eng.inst = s.eng.inst + 1 ∧ t.eng.pc = s.eng.pc + 8 ∧
            t.eng.left = f.len.toNat ∧ t.eng.sec = f ∧ t.eng.secAddr = s.eng.pc ∧ t.eng.g = s.eng.g ∧
            t.eng.status = s.eng.status ∧ s.sameMemory t ∧
            t.arch.sids = if s.arch.sids.length = s.eng.inst then s.arch.sids ++ [f.sid] else s.arch.sids)))) ∧
  (s.eng.run = .handler → (∀ code, headerFault f = some code → exec (.sectionHeader f) s = .next (s.trap code none)) ∧
    (headerFault f = none → handlerHdrBad f = true → exec (.sectionHeader f) s = .next (s.trap Code.sectionFormat none)) ∧
    (headerFault f = none → handlerHdrBad f = false →
      exec (.sectionHeader f) s = .next (s.modEng (fun e => e.enter f))))

/-- R71, R341 to R345, R350, R351, R357: a commit point that may be taken is numbered, checkpointed and covers what is
held; it seals after 160 cycles and frees what is older. A strike report rolls an active region back to its last
sealed commit point, discards what no commit point covers and counts; the end of the rollback restores the
checkpoint's engines, or raises SHADOW_CONFLICT. (The delays are those of log entry 2; the sample of effects is a
write to HBM and a signal.) -/
def Obligations.RegionEvents : Prop := ∀ (core : CoreId) (s : State),
  (∀ bank, Store.get 0 (s.core core).arch.bankWake bank ≤ s.cycle → ∃ t : State,
    exec (.bankWakeDone core bank) s = .next t ∧ Store.get 0 (t.core core).arch.bankWake bank = 0 ∧
      ∀ b, b ≠ bank → Store.get 0 (t.core core).arch.bankWake b = Store.get 0 (s.core core).arch.bankWake b) ∧
  (∀ k rest, (s.core core).cpReq = k :: rest → (s.core core).preempt = none →
    ((s.core core).canTake s.cycle = true → ∃ (t : State) (cp : Ckpt), exec (.commitPointTaken core) s = .next t ∧
      (t.core core).cpReq = rest ∧ (t.core core).cpCount = (s.core core).cpCount + 1 ∧
      (t.core core).ckpts = (s.core core).ckpts ++ [cp] ∧ cp.num = (s.core core).cpCount + 1 ∧ cp.kind = k ∧
      cp.takenAt = s.cycle ∧ cp.sealedNow = false ∧ ∀ h ∈ (t.core core).hold, h.since < s.cycle → h.cover ≠ none) ∧
    ((s.core core).canTake s.cycle = false → exec (.commitPointTaken core) s = .next s)) ∧
  (∀ k, (s.core core).restart = none → (s.core core).preempt = none →
    (∀ j ∈ (s.core core).ckpts, ∀ p, j.kind ≠ .refill p) →
    (s.core core).ckpts.find? (fun k => !k.sealedNow) = some k → k.takenAt + 160 ≤ s.cycle → ∃ t : State,
      exec (.commitPointSealed core) s = .next t ∧ (∃ j ∈ (t.core core).ckpts, j.num = k.num) ∧
      ∀ j ∈ (t.core core).ckpts, k.num ≤ j.num ∧ (j.num = k.num → j.sealedNow = true)) ∧
  (∀ (h : Held) (rest : List Held), (s.core core).hold = h :: rest →
    (s.mayLeave core h = false → ∃ t : State, exec (.heldEffectRelease core) s = .next t ∧ t.dev.hbm = s.dev.hbm ∧
      t.dev.host = s.dev.host) ∧
    (∀ tk, s.mayLeave core h = true → (s.core core).task = some tk → tk.replay = false → tk.audited = false →
      (∀ pos pol p bs po, h.eff = .write .other pos pol [(p, bs)] po → p.kind = 0 → p.pa + bs.length ≤ 576000000000 →
        (∀ w ∈ s.dev.wlog, w.au.core ≠ core.val → w.au.at_ ≠ s.cycle + 1) → ∃ t : State,
        exec (.heldEffectRelease core) s = .next t ∧ ∀ a, Store.get 0 t.dev.hbm a =
          if p.pa ≤ a ∧ a < p.pa + bs.length then bs.getD (a - p.pa) 0 else Store.get 0 s.dev.hbm a) ∧
      (∀ k m n, h.eff = .signal k m n → (s.core (coreId k)).real = none → ∃ t : State,
        exec (.heldEffectRelease core) s = .next t ∧
          (t.core (coreId k)).arch.sem m = (s.core (coreId k)).arch.sem m + BitVec.ofNat 32 n))) ∧
  (∃ t : State, exec (.strike []) s = .next t ∧ t.dev.dstrk = s.dev.dstrk + 1) ∧
  (∃ t : State, exec (.strike [core]) s = .next t ∧ (t.core core).strikes = (s.core core).strikes ++ [s.cycle] ∧
    t.dev.dstrk = s.dev.dstrk) ∧
  ((s.core core).strikes ≠ [] → (s.core core).region = .active → (s.core core).preempt = none →
    (∀ j ∈ (s.core core).ckpts, ∀ p, j.kind ≠ .refill p) → (∃ k ∈ (s.core core).ckpts, k.sealedNow = true) →
    ∃ (t : State) (n : Nat), exec (.strikeReport core) s = .next t ∧ (t.core core).region = .rollback ∧
      (t.core core).rgstrk = (s.core core).rgstrk + 1 ∧ (t.core core).strikes = (s.core core).strikes.drop 1 ∧
      (t.core core).restart = some (n, s.cycle + 24 + ((s.core core).sealAllDue s.cycle).restores n) ∧
      (∃ j ∈ (t.core core).ckpts, j.num = n ∧ j.sealedNow = true) ∧ (t.core core).cpReq = [] ∧
      (t.core core).arch.mflight = [] ∧ ∀ h ∈ (t.core core).hold, h.cover ≠ none) ∧
  ((s.core core).strikes ≠ [] → (s.core core).region = .idle → ∃ t : State, exec (.strikeReport core) s = .next t ∧
    (t.core core).region = .idle ∧ (t.core core).rgstrk = (s.core core).rgstrk + 1) ∧
  (∀ n due, (s.core core).restart = some (n, due) →
    (s.cycle < due → exec (.rollbackComplete core) s = .next s) ∧
    (∀ k, due ≤ s.cycle → (s.core core).conflict n = none → (s.core core).recov = none →
      (s.core core).ckpts.find? (fun k => k.num = n) = some k → ∃ t : State, exec (.rollbackComplete core) s = .next t ∧
        (t.core core).region = .active ∧ (t.core core).restart = none ∧
        (t.core core).rgroll = (s.core core).rgroll + 1 ∧ (t.core core).cpCount = n ∧
        ∀ th, ((t.core core).arch.eng th).g = (k.save.eng th).g ∧ ((t.core core).arch.eng th).t = (k.save.eng th).t ∧
          ((t.core core).arch.eng th).pc = (k.save.eng th).pc ∧ ((t.core core).arch.eng th).inst = (k.save.eng th).inst) ∧
    (∀ st g tk, due ≤ s.cycle → (s.core core).conflict n = some (st, g) → (s.core core).task = some tk →
      tk.replay = false → ∃ t : State, exec (.rollbackComplete core) s = .next t ∧ (t.core core).region = .faulted ∧
        ∃ (e : Held) (r : FaultRec) (m : Nat), e ∈ (t.core core).hold ∧ e.eff = .record (dieOf core) r .other 0 m ∧
          r.code = Code.shadowConflict ∧ r.kind = 4 ∧ r.core = core.val)) ∧
  (∀ r k, (s.core core).recov = some r → (s.core core).region = .recovery → (s.core core).restart = none →
    (s.core core).recoveryPoint r = some k → k.sealedNow = true → ∃ t : State,
      exec (.iterationRecoveryRollback core) s = .next t ∧ (t.core core).region = .recovery ∧
      ∃ due, (t.core core).restart = some (k.num, due)) ∧
  (∀ r i, r < 768 → i < 16 → ∃ t : State, exec (.uncorrectableError (.tile core r i)) s = .next t ∧
    Store.get false (t.core core).arch.tileP (r * 16 + i) = true ∧ (t.core core).arch.tiles = (s.core core).arch.tiles) ∧
  (∀ a, a < 8388608 → ∃ t : State, exec (.uncorrectableError (.scratch core a)) s = .next t ∧
    Store.get false (t.core core).arch.scrP (a / 64) = true ∧ (t.core core).arch.scr = (s.core core).arch.scr) ∧
  (∀ a, a < 65536 → ∃ t : State, exec (.uncorrectableError (.barMem core a)) s = .next t ∧
    Store.get false (t.core core).arch.barP (a / 64) = true ∧ (t.core core).arch.barMem = (s.core core).arch.barMem) ∧
  (∀ a, a < 576000000000 → ∃ t : State, exec (.uncorrectableError (.hbm a)) s = .next t ∧
    Store.get false t.dev.hbmP (a / 64) = true ∧ t.dev.hbm = s.dev.hbm)

/-! ### Launching and tile tasks (13_queue, 14_task, 15_context) -/

/-- R104, R105, R277 to R287, R292, R294, R296: rings are enabled and disabled; a doorbell asks for a reading of its ring;
the reading takes the entry whose number it expects and steps the number, or finds an overrun; load, unload and launch
commands register, remove and accept; a waiting bundle is activated when its dependences are met, and one whose parts
have ended is done. -/
def Obligations.LaunchEvents : Prop := ∀ (ctx ring : Nat) (s : State), ctx < 1024 → ring < 16 →
  let r := s.dev.hring ctx ring
  (r.st = .disabled → (r.setEn true).valid = true → ∃ t : State, exec (.hostRingEnable ctx ring) s = .next t ∧
    (t.dev.hring ctx ring).st = .enabled ∧
    (t.dev.hring ctx ring).expect = List.replicate r.producers (leAt r.recd 0x20 8)) ∧
  (r.st = .disabled → (r.setEn true).valid = false → ∃ t : State, exec (.hostRingEnable ctx ring) s = .next t ∧
    (t.dev.hring ctx ring).st = .disabled) ∧
  (r.st ≠ .disabled → ∃ t : State, exec (.hostRingDisable ctx ring) s = .next t ∧
    (t.dev.hring ctx ring).st = .disabled) ∧
  (s.ready = true → r.st ≠ .enabled → exec (.doorbellWrite ctx ring) s = .next s) ∧
  (s.ready = true → r.st = .enabled → ∃ t : State, exec (.doorbellWrite ctx ring) s = .next t ∧
    t.dev.hring ctx ring = { r with bell := true }) ∧
  (s.grantRing = none → ∀ n, ∃ t : State, State.serveRings (n + 1) s = t ∧ (t.dev.hring ctx ring).bell = false ∧
    (t.dev.hring ctx ring).expect = r.expect) ∧
  (∀ p, p < r.producers → p < r.expect.length →
    (s.seqFound ctx ring p = .ready → ((s.readEntry ctx ring p).dev.hring ctx ring).st = r.st ∧
      ((s.readEntry ctx ring p).dev.hring ctx ring).expect = r.expect.set p ((r.expect.getD p 0 + 1) % 2 ^ 64) ∧
      ((s.readEntry ctx ring p).dev.hring ctx ring).turn = (p + 1) % r.producers) ∧
    (s.seqFound ctx ring p = .overrun → ((s.readEntry ctx ring p).dev.hring ctx ring).st = .faulted ∧
      (s.readEntry ctx ring p).dev.hcmds = s.dev.hcmds)) ∧
  (∀ c, s.dev.hostCmd ctx ring 2 = some c → c.ctx = ctx → (s.dev.ctx ctx).alive = true → (s.dev.ctx ctx).image c.addr = none →
    c.addr % 64 = 0 → ∀ hd i, (s.modDev (fun d => d.dropCmd c)).imagePart (s.dev.chapCore 0) ctx c.addr 0 128 = .ok hd →
    imageOf c.addr c.size hd ((s.modDev (fun d => d.dropCmd c)).imagePart (s.dev.chapCore 0) ctx c.addr) = .ok i → ∃ t : State,
      exec (.loadImage (.host ctx ring)) s = .next t ∧ (t.dev.ctx ctx).images = (s.dev.ctx ctx).images ++ [i]) ∧
  (∀ c i, s.dev.hostCmd ctx ring 3 = some c → c.ctx = ctx → (s.dev.ctx ctx).image c.addr = some i → i.use = 0 → ∃ t : State,
    exec (.unloadImage (.host ctx ring)) s = .next t ∧ (t.dev.ctx ctx).image c.addr = none) ∧
  (∀ c b, s.dev.hostCmd ctx ring 1 = some c →
    (s.modDev (fun d => d.dropCmd c)).acceptCheck (s.dev.chapCore 0) ctx c.addr (leAt r.recd 0x0B 1) none (some c.cpl) = .ok b → ∃ t : State,
      exec (.launchBundle (.host ctx ring)) s = .next t ∧ t.dev.bundles = s.dev.bundles ++ [b] ∧
      t.dev.nextBundle = s.dev.nextBundle + 1) ∧
  (∀ (b : Bundle) n i, s.dev.bundle b.id = some b → b.st = .waiting →
    (s.depFault b = none → b.deps.all s.depMet = false → ∃ (t : State) (b' : Bundle), exec (.bundleActivate b.id) s = .next t ∧
      t.dev.bundle b.id = some b' ∧ b'.st = .waiting) ∧
    (s.depFault b = none → b.deps.all s.depMet = true →
      s.dev.activeOn b.die b.cls + s.earlierMet b (b.met.getD s.uncore) < 16 → b.tr = false →
      (s.dev.ctx b.ctx).image b.img = some i →
      s.dev.coresOf b.ctx b.cores ≠ [] → s.taskCount b = .ok n → b.xl = false → ∃ (t : State) (b' : Bundle),
      exec (.bundleActivate b.id) s = .next t ∧ t.dev.bundle b.id = some b' ∧ b'.total = n ∧
      b'.st = (if n = 0 then .draining else .active) ∧ b'.wins = s.windowsOf b ∧ b'.next = b.next) ∧
    (s.depFault b = none → b.deps.all s.depMet = true →
      16 ≤ s.dev.activeOn b.die b.cls + s.earlierMet b (b.met.getD s.uncore) ∨ s.startFree b = false → ∃ (t : State) (b' : Bundle),
      exec (.bundleActivate b.id) s = .next t ∧ t.dev.bundle b.id = some b' ∧ b'.st = .waiting ∧
      b'.met = some (b.met.getD s.uncore)) ∧
    (∀ code, s.depFault b = some code → ∃ t : State, exec (.bundleActivate b.id) s = .next t ∧
      t.dev.bundle b.id = none)) ∧
  (∀ b : Bundle, s.dev.bundle b.id = some b → b.st = .draining → b.live = 0 → b.copies = [] → b.routineLive = false →
    ∃ t : State, exec (.bundleDone b.id) s = .next t ∧ t.dev.bundle b.id = none) ∧
  (∀ b : Bundle, s.dev.bundle b.id = some b → b.st = .active → b.next < b.total → 2 ≤ b.cls - b.promoted →
    b.since + 4096 * (b.promoted + 1) ≤ s.uncore → ∃ t : State, exec (.recordPromotion b.id) s = .next t ∧
      t.dev.bundle b.id = some { b with promoted := b.promoted + 1 }) ∧
  (∀ die : Fin 2, s.dev.walkers[die].win ≠ s.uncore / 4096 → ∃ t : State, exec (.expressWindow die.val) s = .next t ∧
    t.dev.walkers[die].express = 0 ∧ t.dev.walkers[die].win = s.uncore / 4096)

/-- R74, R289 to R293, R311 to R314, R317, R359 to R362: a walker binds the next ordinal of the record that it picks to a
free core, whose engines stand at the kernel entry in user mode; a task whose end has sealed retires; an audit
compares signatures; a pre-empted task drains at its stub, is saved and is refilled; service requests are answered. -/
def Obligations.TileTaskEvents : Prop := ∀ (core : CoreId) (s : State),
  (∀ (die : Fin 2) (n : Nat) (b : Bundle) (w : Walker) (i : Image), n < 64 → s.dev.walkers[die].lastBind ≤ s.uncore →
    ((List.range 32).map (fun k => 32 * die.val + k)).find? (fun n => !(s.candidates n).isEmpty ||
      ((s.core (coreId n)).isFree && !(s.dev.replayFor n).isEmpty)) = some n →
    s.dev.walkers[die].pick (s.uncore / 4096) (s.candidates n) (if (s.core (coreId n)).isFree then s.dev.replayFor n else []) =
      some (.inl b, w) →
    (s.dev.ctx b.ctx).image b.img = some i → ∃ (t : State) (tk : Task), exec (.walkerBind die.val) s = .next t ∧
      (t.core (coreId n)).task = some tk ∧ tk.bundle = b.id ∧ tk.ord = b.next ∧ tk.ctx = b.ctx ∧ tk.st = .running ∧
      (t.core (coreId n)).region = .active ∧
      ∀ th ∈ kernelThreads, ((t.core (coreId n)).arch.eng th).pc = BitVec.ofNat 64 (i.addr + i.textOff) ∧
        ((t.core (coreId n)).arch.eng th).run = .run ∧ ((t.core (coreId n)).arch.eng th).status = 0 ∧
        ((t.core (coreId n)).arch.eng th).inst = 0 ∧ ((t.core (coreId n)).arch.eng th).tvec = (s.dev.ctx b.ctx).tvec) ∧
  (∀ tk, (s.core core).task = some tk → tk.replay = false → s.mayRetire core = true → ∃ t : State,
    exec (.tileTaskRetire core) s = .next t ∧ (t.core core).task = none ∧ (t.core core).region = .idle ∧
      (t.core core).arch.scr = (s.core core).arch.scr) ∧
  (s.mayRetire core = false → exec (.tileTaskRetire core) s = .next s) ∧
  (∀ tk a, (s.core core).task = some tk → tk.replay = true → s.mayRetire core = true →
    s.dev.audits.find? (fun a => a.b.id = tk.bundle && a.ord = tk.ord) = some a → a.replays = [] →
    (tk.sig = a.sig → ∃ t : State, exec (.auditReplayDone core) s = .next t ∧ t.dev.mtch = s.dev.mtch + 1 ∧
      (t.core core).task = none ∧ ∀ x ∈ t.dev.audits, ¬(x.b.id = a.b.id ∧ x.ord = a.ord)) ∧
    (tk.sig ≠ a.sig → ∃ t : State, exec (.auditReplayDone core) s = .next t ∧ t.dev.mism = s.dev.mism ∧
      ∃ x ∈ t.dev.audits, x.b.id = a.b.id ∧ x.ord = a.ord ∧ x.replays = [(core.val, tk.sig)] ∧ x.toBind = true)) ∧
  (∀ tk, (s.core core).task = some tk → tk.replay = true → ((s.core core).noteUnmet s.cycle).waitsLong s.cycle = true → ∃ t : State,
    exec (.auditReplayAbandon core) s = .next t ∧ t.dev.aban = s.dev.aban + 1 ∧ (t.core core).task = none) ∧
  (∀ (b : Bundle) (tk : Task) (r : Bundle), s.dev.bundle b.id = some b → b.st = .active → b.next < b.total → b.cls = 0 →
    b.since + 4096 ≤ s.uncore → s.dev.coresOf b.ctx b.cores = [core.val] → (s.core core).task = some tk →
    tk.st = .running → tk.replay = false → tk.ctx ≠ b.ctx → (s.core core).saved = [] → s.dev.bundle tk.bundle = some r →
    2 ≤ r.cls → s.dev.walks b.ctx core.val = true → (s.core core).preempt = none → ∃ (t : State) (p : Preempt),
      exec (.walkerPreemptRequest b.id) s = .next t ∧ (t.core core).preempt = some p ∧ p.beneficiary = b.id ∧
      p.st = .latched none) ∧
  (∀ p n, (s.core core).preempt = some p → p.st = .latched (some n) →
    ((s.core core).arch.running.all (fun th => ((s.core core).arch.eng th).waitsAt n) = true →
      (s.core core).canTake s.cycle = true → (s.core core).cpReq = [] → (s.core core).region = .active → ∃ t : State,
      exec (.preemptDrainEntry core) s = .next t ∧
      (t.core core).preempt = some { p with st := .draining n, ended := [] } ∧
      (t.core core).cpCount = (s.core core).cpCount + 1 ∧
      ∀ th ∈ (s.core core).arch.running, ((t.core core).arch.eng th).run = .stub ∧
        ((t.core core).arch.eng th).pc = BitVec.ofNat 64 p.drain) ∧
    (p.since + 64 ≤ s.cycle → (s.core core).arch.running.filter (fun th => !((s.core core).arch.eng th).waitsAt n) ≠ [] →
      (∀ th ∈ (s.core core).arch.running, ((s.core core).arch.eng th).waitsAt n = false →
        ((s.core core).arch.eng th).stalled = true ∧ ((s.core core).arch.eng th).busy + 64 ≤ s.cycle) → ∃ t : State,
      exec (.preemptStallTimeout core) s = .next t ∧
      (t.core core).preempt = some { p with st := .latched none, low := n + 1 })) ∧
  (∀ p n tk, (s.core core).preempt = some p → p.st = .saving n → (s.core core).task = some tk →
    ((s.core core).drained = true → ∃ (t : State) (v : Saved), exec (.preemptComplete core) s = .next t ∧
      (t.core core).task = none ∧ (t.core core).region = .idle ∧ (t.core core).saved = (s.core core).saved ++ [v] ∧
      v.task = { tk with st := .preempted } ∧ v.pre.st = .refilling n ∧ v.slipw = (s.core core).arch.slipw ∧
      v.loops = (s.core core).arch.loops ∧ v.sids = (s.core core).arch.sids) ∧
    ((s.core core).drained = false → exec (.preemptComplete core) s = .next s)) ∧
  (∀ v n, (s.refillOf core).map (s.readBlock core) = some v → v.pre.st = .refilling n → ∃ t : State, exec (.refillStart core) s = .next t ∧
    (t.core core).task = some { v.task with st := .running } ∧ (t.core core).region = .active ∧
    (t.core core).preempt = some { v.pre with ended := [] } ∧ (t.core core).arch.slipw = v.slipw ∧
    (t.core core).arch.loops = v.loops ∧ (t.core core).arch.sids = v.sids ∧
    ∀ th ∈ kernelThreads, th ∉ v.doneSet → ((t.core core).arch.eng th).run = .stub ∧
      ((t.core core).arch.eng th).pc = BitVec.ofNat 64 v.pre.refill) ∧
  (∀ th status value, ∃ t : State, exec (.svcAnswer core th status value) s = .next t ∧
    (t.core core).svcs = (s.core core).svcs.map (fun (r : SvcReq) =>
      if r.th = th ∧ r.answer = none then { r with answer := some (status, value) } else r))

/-! ### Memory agents: translations, sectors, commands, waits (08_array to 16_page) -/

/-- R164, R171, R193, R195, R205, R209, R211, R216, R245, R250, R327: a completed walk fills both caches; a sector of a
stream or a copy brings its bytes; a queued command starts; a read-modify-write stores its result at its home and the
old value at RET; a wait neither polls before its interval is over nor gives up before 65,536 cycles; a barrier's
deadline makes it PARTIAL; a plane's load ends; leases end. -/
def Obligations.MemoryEvents : Prop := ∀ (core : CoreId) (s : State),
  (∀ (va : BitVec 64), let v := va.toNat % 2 ^ 56
    let x := s.dev.ctx (s.core core).ctx
    (∀ e lvl, s.xlate core (s.core core).ctx v = .leaf e lvl → ∃ t : State, exec (.translationDone core .other va) s = .next t ∧
      (t.core core).tlb.head? = some ⟨x.asid, lvl, v / 2 ^ pageBits lvl, e⟩ ∧
      (s.dev.walk x v = .leaf e lvl → t.dev.tlb[dieOf core].head? = some ⟨x.asid, lvl, v / 2 ^ pageBits lvl, e⟩) ∧
      (t.core core).arch = (s.core core).arch ∧ s.sameMemory t) ∧
    (s.cached core x v = [] → s.xlate core (s.core core).ctx v = s.dev.walk x v) ∧
    ((∀ e lvl, s.xlate core (s.core core).ctx v ≠ .leaf e lvl) → exec (.translationDone core .other va) s = .next s)) ∧
  (∀ (n pos : Nat) (bs : List Byte), let t := (s.core core).arch.stream n
    let x := t.sector pos
    (s.core core).flows = true → t.live = true → pos < t.pat.total → t.parked = [] → x.pos ∉ t.doneSecs →
    t.pat.ind = false → t.kind = 1 → t.pat.six = false → (s.core core).arch.leases = [] → bs.length = x.len → x.len ≤ 512 →
    (s.core core).shadUsed + 2 ≤ 2048 →
    (∀ po, s.readSector core (s.core core).ctx x.va x.len t.pd t.began t.atm = .bytes bs po → po.length = bs.length →
      po.any id = false → ∃ u : State,
      exec (.streamSectorArrival core n pos) s = .next u ∧ ((u.core core).arch.stream n).count = t.count + x.len ∧
      ((u.core core).arch.stream n).doneSecs = x.pos :: t.doneSecs ∧
      ∀ k (h : k < bs.length), Store.get 0 (u.core core).arch.scr (t.dst + x.pos + k) = bs[k]) ∧
    (∀ p, s.access core (s.core core).ctx x.va .r = .ok p → p.kind = 2 → t.pt = false → ∃ u : State,
      exec (.hostReadTimeout core (.stream n) pos) s = .next u ∧ (u.core core).arch.poisonst.getLsbD 1 = true ∧
      ∀ k, k < x.len → Store.get 0 (u.core core).arch.scr (t.dst + x.pos + k) = 0)) ∧
  (exec (.hostReadTimeout core .other 0) s = .next s) ∧
  (∀ x : XCmd, (s.core core).xq = [x] → x.sig.se = false → x.bundle = none → x.reply = none → x.fate = none →
    (x.st = .queued → (x.sig.we = true → x.met = true) → 1 ≤ x.blk.total → x.doneSecs = [] → x.blk.form ∉ [4, 5, 6, 7, 9] → (s.core core).flows = true →
      ∃ t : State, exec (.xCommandStart core) s = .next t ∧
      (t.core core).xq = [{ x with st := .running, idx := [], began := s.dev.wseq }]) ∧
    (x.st = .queued → x.sig.we = true → x.met = false → exec (.xCommandStart core) s = .next s.bumpFree) ∧
    (x.st = .running → x.blk.form = 1 → x.blk.be = false → x.blk.ord = 0 → x.sectors = 1 →
      x.toDo 0 = true → x.doneSecs = [] → (s.core core).restart = none → ∀ b, x.units 0 = [b] →
      (∀ bs po d, x.blk.dsp = true → s.unitOf core x (s.cmdView core x) false b = .ok bs po d none → bs.length ≤ 512 →
        s.performed 1 (fun _ => true) = true → (s.core core).arch.leases = [] → (s.core core).shadUsed + 2 ≤ 2048 → ∃ t : State,
        exec (.copySectorDone core x.id 0) s = .next t ∧ (t.core core).xq = [] ∧
        ∀ k (h : k < bs.length), Store.get 0 (t.core core).arch.scr (d + k) = bs[k]) ∧
      (∀ bs po d p, x.blk.dsp = false → s.unitOf core x (s.cmdView core x) false b = .ok bs po d (some p) →
        (s.core core).holdUsed + 2 ≤ 2048 → s.dev.llc.length + s.dev.lines.length + 2 ≤ llcLines →
        ∃ (t : State) (h : Held), exec (.copySectorDone core x.id 0) s = .next t ∧ (t.core core).hold = (s.core core).hold ++ [h] ∧
        h.eff = .write (.command x.id) 0 x.blk.dpol [(p, bs)] [po] ∧ s.sameMemory t)) ∧
    (∀ p, x.rmw = some p → p.kind = 0 → p.pa + x.blk.unit ≤ 576000000000 →
      (∀ w ∈ s.dev.wlog, w.au.core ≠ core.val → w.au.at_ ≠ s.cycle + 1) → x.st = .running → x.blk.form ∈ [4, 5] → x.doneSecs = [] →
      (s.core core).restart = none → (s.core core).arch.leases = [] → x.blk.unit ≤ 16 → s.performed 1 (fun _ => true) = true →
      Store.wf 0 s.dev.hbm = true → ∃ t : State,
      exec (.readModifyWriteDone core x.id 0) s = .next t ∧ (t.core core).xq = [] ∧
      (∀ k, k < x.blk.unit → Store.get 0 t.dev.hbm (p.pa + k) =
        (natBytes x.blk.unit (rmwNew (s.cmdView core x) x.blk (bytesNat (s.dev.readPlace p x.blk.unit)))).getD k 0) ∧
      ∀ k, k < x.blk.unit → Store.get 0 (t.core core).arch.scr (x.blk.ret + k) = Store.get 0 s.dev.hbm (p.pa + k))) ∧
  (∀ (th : Thread) (w : WaitSt), let t : State := { s with cur := ⟨core, th⟩ }
    t.atWait = some w →
    (w.slot = true → exec (.waitPoll core th) s = .next s) ∧
    (w.slot = false → w.out = none → w.hit = false → s.cycle < w.since + 65536 →
      (s.cycle < w.nextPoll → ∃ u : State, exec (.waitPoll core th) s = .next u ∧ u.eng = t.eng ∧ u.dev = s.dev) ∧
      (w.nextPoll ≤ s.cycle → t.arch.evalCond w.cond = none → ∃ u : State, exec (.waitPoll core th) s = .next u ∧ u.dev = s.dev ∧
        u.eng.wait = some { w with interval := min 8192 (2 * w.interval), nextPoll := s.cycle + min 8192 (2 * w.interval) })) ∧
    (s.cycle < w.since + 65536 → exec (.waitTimeout core th) s = .next s) ∧
    (w.since + 65536 ≤ s.cycle → w.out = none → t.arch.evalCond w.cond = none →
      exec (.waitTimeout core th) s = .next (t.evalWait { w with out := some .unmet, hit := false }))) ∧
  (∀ n, n < 64 → (s.core core).restart = none → (s.core core).real = none →
    let b := (s.core core).arch.bar n
    (b.waiting = true → b.dl = true → b.deadline ≤ s.dtime → b.red = none → ∃ t : State,
      exec (.barrierDeadline core n) s = .next t ∧ ((t.core core).arch.bar n).st = .partialSt ∧
      ((t.core core).arch.bar n).lost =
        ((List.range b.chunks).filter (fun k => !(s.core core).arch.marked b k)).length) ∧
    (b.waiting = false ∨ b.dl = false ∨ s.dtime < b.deadline → exec (.barrierDeadline core n) s = .next s)) ∧
  (∀ (r : Arr) (at' : Nat), (s.core core).arch.m0 = r → r.joined = false → r.shadow.st = .loading →
    r.shadow.loadDone = some at' → at' ≤ s.cycle → ∃ t : State, exec (.planeLoadDone core 0) s = .next t ∧
    (t.core core).arch.m0.shadow.st = (if r.shadow.sp = 0 then .ready else .needmeta)) ∧
  (∃ t : State, exec (.leaseRelease core) s = .next t ∧ ∀ l ∈ (t.core core).arch.leases, s.cycle < l.doneAt)

/-! ### Faults, the pool and the host (10_copy, 11_memory, 16_page, 21_host) -/

/-- R213, R237, R238, R240, R329 to R331, R334 to R336, R428, R429: a fault record is written to its ring, and its object
is replayed or fails when it is resolved; a region whose link goes down or that reports failure is LOST with the lines
of the LLC that it holds; a snoop takes a line away or leaves it clean, and an acknowledged write is at home; a
flushing read that completes covers the host writes before it; a host AtomicOp completes, fails or goes to the proxy
ring, whose requests are claimed and answered. -/
def Obligations.FaultAndPoolEvents : Prop := ∀ (core : CoreId) (s : State),
  (∀ die : Fin 2, let r := s.dev.frings[die]
    let a := r.base.toNat + r.prod % 2 ^ (8 + r.logn) * 32
    (r.en = false ∨ r.waiting = [] ∨ (r.prod + 2 ^ 64 - r.cons) % 2 ^ 64 = 2 ^ (8 + r.logn) → exec (.faultRecordPost die.val) s = .next s) ∧
    (∀ fr o page det rest, r.waiting = (fr, o, page, det) :: rest → s.recordBefore die det = true ∨ s.lateHeld page = true →
      exec (.faultRecordPost die.val) s = .next s) ∧
    (∀ fr o page det rest, r.en = true → r.waiting = (fr, o, page, det) :: rest →
      (r.prod + 2 ^ 64 - r.cons) % 2 ^ 64 ≠ 2 ^ (8 + r.logn) → s.recordBefore die det = false → s.lateHeld page = false →
      fr.kind ≤ 3 → ∃ t : State, exec (.faultRecordPost die.val) s = .next t ∧ t.dev.frings[die].prod = r.prod + 1 ∧
      t.dev.frings[die].waiting = rest ∧ (∃ p, t.dev.frings[die].posted = r.posted ++ [p] ∧ p.seq = r.prod % 2 ^ 32 ∧
        p.fr = fr ∧ p.obj = o ∧ p.resolved = false) ∧
      (r.own = false → t.irqs = (if s.dev.vecMasked r.vec then s.irqs else s.irqs ++ [r.vec]) ∧
        ∀ k, k < 32 → Store.get 0 t.dev.host (a + k) = (fr.bytes (r.prod % 2 ^ 32)).getD k 0) ∧
      (r.own = true → a < s.dev.pwbase.toNat → a + 32 ≤ 576000000000 → t.irqs = s.irqs ∧
        ∀ k, k < 32 → Store.get 0 t.dev.hbm (a + k) = (fr.bytes (r.prod % 2 ^ 32)).getD k 0))) ∧
  (∀ (die : Fin 2) (seq : BitVec 32) (act : BitVec 8),
    (s.dev.toResolve die seq = none → exec (.resolveReplay die.val seq) s = .next s ∧
      exec (.resolveFail die.val seq act) s = .next s) ∧
    (∀ p, s.dev.toResolve die seq = some p →
      (∀ x : XCmd, p.obj = .command x.id → (s.core (coreId p.fr.core)).xq = [x] → x.st = .parked → x.doneSecs = [] → x.reply = none → x.fate = none →
        x.blk.form ∉ [4, 5, 9] → 1 ≤ x.blk.total → (∀ q ∈ x.parked, q.page = p.page) → ∃ t : State,
        exec (.resolveReplay die.val seq) s = .next t ∧
        (t.core (coreId p.fr.core)).xq = [{ x with st := .running, parked := [] }]) ∧
      (∀ n, p.obj = .stream n → (s.core (coreId p.fr.core)).ctx = p.fr.ctx → (s.core (coreId p.fr.core)).task.isSome = true →
        ((s.core (coreId p.fr.core)).arch.stream n).st = .parked →
        (∀ q ∈ ((s.core (coreId p.fr.core)).arch.stream n).parked, q.page = p.page) →
        ((s.core (coreId p.fr.core)).arch.stream n).count ≠ ((s.core (coreId p.fr.core)).arch.stream n).pat.total →
        (∃ t : State, exec (.resolveReplay die.val seq) s = .next t ∧
          ((t.core (coreId p.fr.core)).arch.stream n).st = .running ∧
          ((t.core (coreId p.fr.core)).arch.stream n).parked = []) ∧
        (0x10 ≤ act.toNat → act.toNat ≤ 0x13 → ∃ t : State, exec (.resolveFail die.val seq act) s = .next t ∧
          ((t.core (coreId p.fr.core)).arch.stream n).st = .faulted ∧
          ((t.core (coreId p.fr.core)).arch.stream n).code = act ∧
          (t.core (coreId p.fr.core)).arch.engA.async =
            (s.core (coreId p.fr.core)).arch.engA.async ++ [(act, BitVec.ofNat 64 p.fr.va.toNat)])) ∧
      (act.toNat < 0x10 ∨ 0x13 < act.toNat → exec (.resolveFail die.val seq act) s = .next s))) ∧
  (∀ cxl (h : cxl < 4),
    (∃ t : State, exec (.poolLinkDown cxl) s = .next t ∧ t.dev.cxlUp[cxl] = false ∧
      ∀ n, (s.dev.region n).st = 0 → (s.dev.region n).port = cxl → (t.dev.region n).st = 1) ∧
    exec (.poolLinkUp cxl) s = .next (s.modDev (fun d => { d with cxlUp := d.cxlUp.set cxl true }))) ∧
  (∀ n, n < 4096 → ((s.dev.region n).st = 0 → ∃ t : State, exec (.regionFailureReport n) s = .next t ∧
      t.dev.region n = { s.dev.region n with st := 1 } ∧ (∀ m, m ≠ n → t.dev.region m = s.dev.region m) ∧
      ∀ l ∈ t.dev.lines, l.line / 2 ^ 24 ≠ n) ∧
    ((s.dev.region n).st ≠ 0 → exec (.regionFailureReport n) s = .next s)) ∧
  (∀ (line : Nat) (p : PoolLine), s.dev.findLine line = some p → p.dirty.any id = true → p.bytes.length = 64 →
    let home := s.dev.homeOf (64 * line)
    (s.lineBusy line = false → s.dev.poolState (64 * line) = 0 → p.excl = true →
      (∃ t : State, exec (.biSnoop line false) s = .next t ∧ t.dev.findLine line = none ∧
        ∀ a, a < home ∨ home + 64 ≤ a → Store.get 0 t.dev.pool a = Store.get 0 s.dev.pool a) ∧
      (∃ (t : State) (q : PoolLine), exec (.biSnoop line true) s = .next t ∧ t.dev.findLine line = some q ∧
        q.excl = false ∧ q.bytes = p.bytes ∧ q.dirty.any id = false ∧
        ∀ k, k < 64 → Store.get 0 t.dev.pool (home + k) = p.bytes.getD k 0)) ∧
    (s.dev.poolState (64 * line) = 0 → ∃ (t : State) (q : PoolLine), exec (.poolWriteAck line) s = .next t ∧
      t.dev.findLine line = some q ∧ q.bytes = p.bytes ∧ q.dirty.any id = false ∧
      ∀ k, k < 64 → Store.get 0 t.dev.pool (home + k) = p.bytes.getD k 0)) ∧
  ((s.core core).flushAsk = none → exec (.flushReadCompletion core) s = .next s) ∧
  (∀ n, (s.core core).flushAsk = some n → ∃ t : State, exec (.flushReadCompletion core) s = .next t ∧
    t.dev.flushed = max s.dev.flushed n ∧ t.dev.host = s.dev.host) ∧
  (∀ (x : XCmd) (p : Place), let cut (code : BitVec 8) (t : State) : Prop := (t.core core).xq = [] ∧
      ((t.core (coreId x.fromCore)).arch.eng x.fromTh).async =
        ((s.core (coreId x.fromCore)).arch.eng x.fromTh).async ++ [(code, BitVec.ofNat 64 x.blk.dst)]
    (s.core core).xq = [x] → x.fate = none → (s.core core).holdUsed + 2 ≤ 2048 →
    (∀ w ∈ s.dev.wlog, w.au.core ≠ core.val → w.au.at_ ≠ s.cycle + 1) → x.rmw = some p → p.kind = 2 → x.sig.se = false → x.bundle = none → x.blk.be = false →
    x.blk.form ∈ [4, 5] → x.st = .running → x.reply = none → (s.core core).arch.leases = [] →
    s.performed 1 (fun _ => true) = true →
    ((∀ q ∈ s.dev.pxreqs, ¬(q.core = core.val ∧ q.cmd = x.id)) →
      (∀ old po, ∃ t : State, exec (.hostAtomicCompletion core x.id (.success old po)) s = .next t ∧ (t.core core).xq = [] ∧
        (∀ k, k < x.blk.unit → Store.get 0 (t.core core).arch.scr (x.blk.ret + k) =
          (natBytes x.blk.unit old.toNat).getD k 0) ∧
        ∀ k, k < x.blk.unit → Store.get 0 t.dev.host (p.pa + k) = (natBytes x.blk.unit
          (rmwNew (s.cmdView core x) x.blk (old.toNat % 2 ^ (8 * x.blk.unit)))).getD k 0) ∧
      (∃ t : State, exec (.hostAtomicCompletion core x.id .completerAbort) s = .next t ∧
        cut Code.hostAtomicUnsupported t) ∧
      (s.dev.pxen = false → ∃ t : State, exec (.hostAtomicCompletion core x.id .unsupportedRequest) s = .next t ∧
        cut Code.hostProxyDisabled t) ∧
      (s.dev.pxen = true → ∃ t : State, exec (.hostAtomicCompletion core x.id .unsupportedRequest) s = .next t ∧
        t.dev.pxprod = s.dev.pxprod + 1 ∧ t.irqs = (if s.dev.vecMasked s.dev.pxvec then s.irqs else s.irqs ++ [s.dev.pxvec]) ∧
        t.dev.pxreqs = s.dev.pxreqs ++ [⟨s.dev.pxprod, core.val, x.id, s.dtime, false⟩] ∧
        ∀ k, k < 8 → Store.get 0 t.dev.host (s.dev.pxbase.toNat + s.dev.pxprod % 2 ^ s.dev.pxlogn * 128 + k) =
          (natBytes 8 s.dev.pxprod).getD k 0) ∧
      ∀ performed, ∃ t : State, exec (.atomicCompletionTimeout core x.id performed) s = .next t ∧
        cut Code.hostCompletionTimeout t) ∧
    (∀ q : ProxyReq, s.dev.pxreqs = [q] → q.core = core.val → q.cmd = x.id → q.seq < 2 ^ 63 →
      (s.ready = true → q.claimed = true → ∃ t : State, exec (.pxdone (BitVec.ofNat 64 q.seq)) s = .next t ∧
        t.dev.pxreqs = [] ∧ (t.core core).xq = []) ∧
      (q.claimed = false → q.postedAt + 1000 * s.dev.pxtmo ≤ s.dtime → ∃ t : State,
        exec (.proxyClaimTimeout (BitVec.ofNat 64 q.seq)) s = .next t ∧ t.dev.pxreqs = [] ∧
        cut Code.hostCompletionTimeout t))) ∧
  (∀ seq : BitVec 64, let n := seq.toNat % 2 ^ 63
    (s.ready = false → exec (.pxclaim seq) s = .next s) ∧
    (s.ready = true → ∃ t : State, exec (.pxclaim seq) s = .next t ∧ t.dev.pxseq = BitVec.ofNat 64 n ∧
      (t.dev.pxok = true ↔ ∃ q ∈ s.dev.pxreqs, q.seq = n ∧ q.claimed = false ∧ s.dtime < q.postedAt + 1000 * s.dev.pxtmo) ∧
      (t.dev.pxok = true → ∀ q ∈ t.dev.pxreqs, q.seq = n → q.claimed = true)))

/-! ### Packets that arrive (18_link to 20_group) -/

/-- R193, R249, R264, R371 to R373, R375, R376, R378, R379, R398: a packet that the port takes passes the six checks in
their order, each failure with its counter (with link-level retry a flit that FEC could not correct is counted and
arrives); a data flit is placed and credited; acknowledgements, reports, markers, credits, requests and messages do
what their type says. How words lie in a control payload is log entry 62. -/
def Obligations.PacketEvents : Prop := ∀ (port : Nat) (s : State), port < 79 →
  let up (n : Port → W64) (i : Instr) : Prop := ∃ t : State, exec i s = .next t ∧
    n (t.dev.port port) = n (s.dev.port port) + 1
  let takes (u : State) (h : FlitHdr) : Prop := u.dev.carries port = true ∧ ((u.dev.port port).lfc = false ∨ u.dev.fits port h = true)
  let quiet (core : Nat) : Prop := ∀ w ∈ s.dev.wlog, w.au.core ≠ core → w.au.at_ ≠ s.cycle + 1
  (∀ f : Flit, let h := f.hdr
    (s.dev.carries port = false ∨ ((s.dev.port port).lfc = true ∧ s.dev.fits port h = false) →
      exec (.data port f) s = .next s.bumpFree) ∧
    (takes s h →
      (f.fecOk = false → (s.dev.port port).llr = false → up (fun q => q.plerr) (.data port f)) ∧
      (f.fecOk = false → (s.dev.port port).llr = true → takes (s.fecLost port) h →
        exec (.data port f) s = exec (.data port { f with fecOk := true }) (s.fecLost port)) ∧
      (f.fecOk = true → dataFormed f = false → up (fun q => q.pmal) (.data port f)) ∧
      (f.fecOk = true → dataFormed f = true → isMcast h.drank.toNat = false →
        (s.dev.memberOf h.job.toNat = none → up (fun q => q.pmemb) (.data port f)) ∧
        (∀ e, s.dev.memberOf h.job.toNat = some e →
          (h.drank.toNat = Config.rank → memberDx e = false → up (fun q => q.pmemb) (.data port f)) ∧
          (h.drank.toNat ≠ Config.rank → memberFw e = false → up (fun q => q.pmemb) (.data port f)) ∧
          (h.drank.toNat ≠ Config.rank → memberFw e = true →
            exec (.data port f) s = .next (s.forward ⟨port, h, f.payload, f.tag⟩).bumpFree) ∧
          (h.drank.toNat = Config.rank → memberDx e = true → h.trim = 0 →
            (s.dev.openPacket h f.payload f.tag = none → h.mode = 2 → up (fun q => q.pauth) (.data port f)) ∧
            (∀ bs, s.dev.openPacket h f.payload f.tag = some bs → bs.length = 512 → h.srank.toNat ≠ Config.rank →
              toRing h = false → let core := coreId h.dcore.toNat
              let n := h.chunk.toNat + h.fidx.toNat
              let a := (s.core core).arch
              let b := a.bar h.obj.toNat
              let x := s.dev.ctx (memberCtx e)
              (x.cores.getLsbD core.val && x.bara.getLsbD h.obj.toNat) = true → (s.core core).real = none →
              a.seq.ops = [] → (s.core core).heldPlace = [] → a.leases = [] → b.red = none → b.dl = false → b.spb = true →
              b.tiled = false → b.waiting = true → n < b.chunks → a.marked b n = false → ∃ t : State,
              exec (.data port f) s = .next t ∧ (t.core core).arch.marked b n = true ∧
              ((t.core core).arch.bar h.obj.toNat).arr = b.arr + b.chunkLen n ∧
              ∀ k, k < b.chunkLen n → Store.get 0 (t.core core).arch.scr (b.base + 512 * n + k) = bs.getD k 0))))) ∧
  (∀ (p : Packet), let h := p.hdr
    let core := coreId h.dcore.toNat
    let ctl : List ((Packet → Instr) × BitVec 8 × List Nat) :=
      [(.ack port, 0x10, [0, 1, 3]), (.sack port, 0x11, [0, 1, 3]), (.trimn port, 0x12, [0, 1, 3]),
       (.authn port, 0x13, [0, 1, 3]), (.marker port, 0x14, [0, 1, 2, 3]), (.markack port, 0x15, [0, 1, 2, 3]),
       (.rload port, 0x16, [0]), (.ratom port, 0x17, [0]), (.credit port, 0x18, [0, 1, 3]), (.seqmsg port, 0x19, [3])]
    (∀ c ∈ ctl, (s.dev.carries port = false ∨ ((s.dev.port port).lfc = true ∧ s.dev.fits port h = false) →
        exec (c.1 p) s = .next s.bumpFree) ∧
      (takes s h → (p.fecOk = false → (s.dev.port port).llr = false → up (fun q => q.plerr) (c.1 p)) ∧
        (p.fecOk = false → (s.dev.port port).llr = true → takes (s.fecLost port) h →
          exec (c.1 p) s = exec (c.1 { p with fecOk := true }) (s.fecLost port)) ∧
        (p.fecOk = true → controlFormed p c.2.1 c.2.2 = false → up (fun q => q.pmal) (c.1 p)) ∧
        (p.fecOk = true → controlFormed p c.2.1 c.2.2 = true →
          (s.dev.memberOf h.job.toNat = none → up (fun q => q.pmemb) (c.1 p)) ∧
          (∀ e, s.dev.memberOf h.job.toNat = some e → h.drank.toNat = Config.rank →
            (memberDx e = false → up (fun q => q.pmemb) (c.1 p)) ∧
            (memberDx e = true → s.dev.openPacket h p.payload p.tag = none → h.srank.toNat ≠ Config.rank →
              up (fun q => q.pauth) (c.1 p)))))) ∧
    (∀ e pt, takes s h → p.fecOk = true → s.dev.memberOf h.job.toNat = some e → h.drank.toNat = Config.rank →
      memberDx e = true → s.dev.openPacket h p.payload p.tag = some pt →
      (∀ f, (s.core core).flowFor h = some f →
        let gone (hit : Nat → Bool) (t : State) : Prop := ∀ u ∈ ((t.core core).flow h.flow.toNat).unacked,
          ¬(u.sent = true ∧ hit u.fsn = true ∧ u.need = [h.srank.toNat] ∧ u.acks = [])
        (controlFormed p 0x10 [0, 1, 3] = true → ∃ t : State, exec (.ack port p) s = .next t ∧
          gone (fun n => fsnGe n (payWord pt 0) && fsnGe (payWord pt 1) n) t) ∧
        (controlFormed p 0x11 [0, 1, 3] = true → ∃ t : State, exec (.sack port p) s = .next t ∧
          gone (fun n => fsnGe (payWord pt 0) n) t) ∧
        (controlFormed p 0x12 [0, 1, 3] = true → ∃ t : State, exec (.trimn port p) s = .next t ∧
          ∀ n ∈ payFsns pt, ∃ v ∈ (t.core core).arch.seq.evwaitq, v.evt = 0x03 ∧ v.fsn0 = BitVec.ofNat 32 n) ∧
        (controlFormed p 0x13 [0, 1, 3] = true → ∀ n, payFsns pt = [n] → f.auto = false →
          (f.authCount + 1 < (s.core core).arch.authmax.toNat → ∃ t : State, exec (.authn port p) s = .next t ∧
            ((t.core core).flow h.flow.toNat).authCount = f.authCount + 1 ∧
            ((t.core core).flow h.flow.toNat).st = .opened) ∧
          ((s.core core).arch.authmax.toNat ≤ f.authCount + 1 → ∃ t : State, exec (.authn port p) s = .next t ∧
            ((t.core core).flow h.flow.toNat).st = .faulted ∧
            ((t.core core).flow h.flow.toNat).code = Code.linkAuthExhausted)) ∧
        (controlFormed p 0x18 [0, 1, 3] = true → ∃ t : State, exec (.credit port p) s = .next t ∧
          (t.core core).flow h.flow.toNat = { f with credit := f.credit + 512 * payWord pt 0 })) ∧
      (let n := (pt.headD 0).toNat % 2
       let k := s.dev.jobKey h.job.toNat
       (controlFormed p 0x14 [0, 1, 2, 3] = true →
         ((k.slot n).st = .loaded ∨ (k.slot n).st = .next → (k.slot n).ivc + 1 < (k.slot n).klim →
           (∀ x ∈ s.dev.ctlq, x.1.job.toNat ≠ h.job.toNat) → ∃ t : State,
           exec (.marker port p) s = .next t ∧ ((t.dev.jobKey h.job.toNat).slot n).st = .current ∧
           ((k.slot (n + 1)).st ≠ .empty → ((t.dev.jobKey h.job.toNat).slot (n + 1)).st = .retired)) ∧
         ((k.slot n).st ∈ [.empty, .retired, .exhausted] → exec (.marker port p) s = .next s.bumpFree)) ∧
       (controlFormed p 0x15 [0, 1, 2, 3] = true → (k.slot n).st = .next →
         ((k.slot n).await.filter (fun r => r.rank ≠ h.srank.toNat) = [] → ∃ t : State, exec (.markack port p) s = .next t ∧
           ((t.dev.jobKey h.job.toNat).slot n).st = .current) ∧
         ((k.slot n).await.filter (fun r => r.rank ≠ h.srank.toNat) ≠ [] → ∃ t : State, exec (.markack port p) s = .next t ∧
           (t.dev.jobKey h.job.toNat).slot n =
             { k.slot n with await := (k.slot n).await.filter (fun r => r.rank ≠ h.srank.toNat) }))) ∧
      (controlFormed p 0x16 [0] = true → let va := leAt pt 0 8
        (∀ x, s.sourceVa core (memberCtx e) va (leAt pt 8 4) = .error x → exec (.rload port p) s = .next s.bumpFree) ∧
        (∀ bs po k, 1 ≤ leAt pt 8 4 → leAt pt 8 4 ≤ 512 → s.sourceVa core (memberCtx e) va (leAt pt 8 4) = .ok (bs, po) →
          h.srank.toNat ≠ Config.rank → (s.dev.jobKey h.job.toNat).sealing 1 = some k → ∃ t : State,
          exec (.rload port p) s = .next t ∧ t.wire = s.wire ∧
          ((∀ n, (t.dev.port n).outq = (s.dev.port n).outq) ∨
            ∃ n x, (t.dev.port n).outq = (s.dev.port n).outq ++ [⟨x, none, none⟩] ∧ x.hdr.ptype = 1 ∧
              x.hdr.drank = h.srank ∧ x.hdr.obj = BitVec.ofNat 6 (leAt pt 16 1) ∧ x.hdr.fsn = h.fsn) ∧
          ((t.dev.jobKey h.job.toNat).slot k).ivc = ((s.dev.jobKey h.job.toNat).slot k).ivc + 1)) ∧
      (controlFormed p 0x17 [0] = true → let r := (s.core core).rxFlow h
        let va := leAt pt 0 8
        let w := leAt pt 8 1
        ((fsnGe h.fsn.toNat r.base = false ∨ r.above.contains h.fsn.toNat = true) →
          exec (.ratom port p) s = .next s.bumpFree) ∧
        (∀ q, fsnGe h.fsn.toNat r.base = true → r.above.contains h.fsn.toNat = false → w ∈ [4, 8, 16] → va % w = 0 →
          s.access core (memberCtx e) va .rw = .ok q → q.kind = 0 → q.pa + w ≤ Config.hbmBytes → quiet 64 → ∃ t : State,
          exec (.ratom port p) s = .next t ∧
          ∀ j, j < w → Store.get 0 t.dev.hbm (q.pa + j) = (natBytes w
            (atomNew (leAt pt 9 1) w (bytesNat (s.dev.readPlace q w)) (leAt pt 16 8) (leAt pt 24 8))).getD j 0)) ∧
      (controlFormed p 0x19 [3] = true → h.srank.toNat ≠ Config.rank → let r := (s.core core).rxFlow h
        (h.fsn.toNat = r.base → r.above = [] → ∃ t : State, exec (.seqmsg port p) s = .next t ∧
          ((t.core core).rxFlow h).base = (r.base + 1) % 2 ^ 32 ∧
          ∃ v ∈ (t.core core).arch.seq.evwaitq, v.evt = 0x0B ∧ v.fsn0 = h.fsn ∧ v.peer = h.srank.toNat) ∧
        (h.fsn.toNat ≠ r.base → fsnGe h.fsn.toNat r.base = true → exec (.seqmsg port p) s = .next s.bumpFree)))))

/-! ### Sending, timers and links (18_link to 20_group) -/

/-- R295, R366, R367, R370, R372, R374, R375, R384, R389, R390, R395, R397, R415: the next flit of a flow is sealed under
the slot that seals and joins the queue of the port on its way, from which the port sends; a timeout posts TIMEOUT; a
held packet leaves after 256 ns; routines start and waiting events are posted; stalled EVWAIT and DLINE words retire
at their limits; links lose lanes and blocks, train and drain. -/
def Obligations.TransportEvents : Prop := ∀ (core : CoreId) (s : State),
  (let c := s.core core
   let flits := c.arch.seq.flows.filter (fun p => c.canSend p.1 p.2)
   (flits = [] → exec (.flitTransmit (.core core)) s = .next s) ∧
   (∀ n f u, flits = [(n, f)] → c.flow n = f → f.nextPacket = [u] → u.src = none → u.again = false → u.ring = false →
     f.unacked = [u] → u.hdr.ptype = 1 → u.hdr.mode = 0 → u.hdr.job.toNat = f.job → u.hdr.fidx = 0 → u.hdr.fcnt = 0 → f.mode = 0 →
     c.arch.seq.ops = [] → let key := s.dev.jobKey f.job
     (s.dev.mayInject u.hdr = false → ∃ (t : State) (v : TEvent), exec (.flitTransmit (.core core)) s = .next t ∧
       (t.core core).arch.seq.evwaitq = c.arch.seq.evwaitq ++ [v] ∧ v.evt = 0x0C ∧ v.flow = u.hdr.flow.toNat ∧ t.wire = s.wire) ∧
     (s.dev.mayInject u.hdr = true →
       (key.sealing 1 = none → key.mayWait = false → ∃ t : State, exec (.flitTransmit (.core core)) s = .next t ∧
         ((t.core core).flow n).st = .faulted ∧ ((t.core core).flow n).code = Code.keyExhausted ∧ t.wire = s.wire) ∧
       (∀ slot p vc rmb igrp, p < 79 → key.sealing 1 = some slot → u.hdr.drank.toNat ≠ Config.rank →
         isMcast u.hdr.drank.toNat = false → s.way u.hdr (decide (f.cls = 0)) 0 = .out p vc rmb igrp →
         let x := key.slot slot
         let h : FlitHdr := { u.hdr with kp := BitVec.ofNat 1 slot, ivc := BitVec.ofNat 64 x.ivc }
         let y := gcmSeal x.key (hdrIv h) (hdrAad h) u.payload
         ∃ t : State, exec (.flitTransmit (.core core)) s = .next t ∧ t.wire = s.wire ∧
           (t.dev.port p).outq = (s.dev.port p).outq ++
             [⟨⟨p, { h with vc := vc, rmb := rmb, igrp := igrp }, y.1, y.2⟩, none, none⟩] ∧
           ((t.dev.jobKey f.job).slot slot).ivc = x.ivc + 1 ∧
           ∃ w, ((t.core core).flow n).unacked = [w] ∧ w.fsn = u.fsn ∧ w.sent = true ∧ w.sentAt = s.dtime)))) ∧
  (∀ port, port < 79 →
    (s.dev.carries port = false ∨ (s.dev.port port).outq = [] → exec (.flitTransmit (.port port)) s = .next s) ∧
    (∀ o, s.dev.carries port = true → (s.dev.port port).outq = [o] → o.held = none → ∃ t : State,
      exec (.flitTransmit (.port port)) s = .next t ∧ t.wire = s.wire ++ [o.x] ∧ (t.dev.port port).outq = [] ∧
      t.cores = s.cores)) ∧
  (∀ n u, n < 1024 → let f := (s.core core).flow n
    f.unacked.find? (fun u => u.sent) = some u →
    (f.st ≠ .opened ∨ f.mode = 2 ∨ s.dtime < u.sentAt + f.rto ∨ u.again = true →
      (∀ i, i < 2 → ((s.dev.jobKey f.job).slot i).await = []) → exec (.retransmitTimeout core n u.fsn) s = .next s) ∧
    (f.st = .opened → f.mode ≠ 2 → u.sentAt + f.rto ≤ s.dtime → u.again = false → f.auto = false →
      ∃ (t : State) (v : TEvent), exec (.retransmitTimeout core n u.fsn) s = .next t ∧
      (t.core core).arch.seq.evwaitq = (s.core core).arch.seq.evwaitq ++ [v] ∧ v.evt = 0x04 ∧ v.flow = n ∧
      v.fsn0 = BitVec.ofNat 32 u.fsn ∧ v.peer = f.peer ∧ ((t.core core).flow n).st = .opened) ∧
    (f.st = .opened → f.mode ≠ 2 → u.sentAt + f.rto ≤ s.dtime → u.again = false → f.auto = true → f.rlim ≤ u.tries →
      f.unacked = [u] → ∃ t : State, exec (.retransmitTimeout core n u.fsn) s = .next t ∧
      ((t.core core).flow n).st = .faulted ∧ ((t.core core).flow n).code = Code.deliveryTimeout)) ∧
  (∀ (port : Nat) (o : OutFlit) (at' : Nat), port < 79 → (s.dev.port port).outq = [o] → o.held = some at' →
    (at' + 256 ≤ s.dtime → ∃ t : State, exec (.alignmentTimeout port) s = .next t ∧
      (t.dev.port port).outq = [{ o with held := none }] ∧ t.cores = s.cores) ∧
    (s.dtime < at' + 256 → exec (.alignmentTimeout port) s = .next s)) ∧
  (let q := (s.core core).arch.seq
   (∀ e es, q.evwaitq = e :: es →
     (q.evq.length < 512 → ∃ t : State, exec (.transportEventPost core) s = .next t ∧
       (t.core core).arch.seq.evq = q.evq ++ [{ e with time := BitVec.ofNat 64 s.dtime }] ∧ (t.core core).arch.seq.evwaitq = es) ∧
     (512 ≤ q.evq.length → exec (.transportEventPost core) s = .next s)) ∧
   (q.evwaitq = [] → exec (.transportEventPost core) s = .next s) ∧
   (∀ r rest bs po, q.startq = r :: rest → q.running = false → (s.core core).blocked = false → q.lastCtx = none →
     s.readVa core r.ctx .r r.trout r.tlen = .ok (bs, po) → ∃ t : State, exec (.sequencerStart core) s = .next t ∧
     (t.core core).arch.seq.running = true ∧ (t.core core).arch.seq.pc = 0 ∧ (t.core core).arch.seq.startq = rest ∧
     (t.core core).arch.seq.routine = some r ∧ (t.core core).arch.seq.getX 1 = BitVec.ofNat 64 r.bundleVa ∧
     ∀ k (h : k < bs.length), Store.get 0 (t.core core).arch.seq.lmem k = bs[k]) ∧
   (let c : State := { s with cur := ⟨core, .c⟩ }
    ∀ f, (c.seqFetch = .go (.evwait f) c → (c.evwaitOver f = true → exec (.evwaitTimeout core) s =
        .next (c.seqWrites f.a (BitVec.ofNat 64 q.evq.length))) ∧
        (c.evwaitOver f = false → exec (.evwaitTimeout core) s = .next c)) ∧
      (c.seqFetch = .go (.dline f) c → ((q.ea f).toNat ≤ s.dtime → exec (.dlineDeadline core) s =
        .next (c.seqWrites f.a (BitVec.ofNat 64 s.dtime))) ∧
        (s.dtime < (q.ea f).toNat → exec (.dlineDeadline core) s = .next c)))) ∧
  (∀ port, port < 79 → let p := s.dev.port port
    let full := if p.retired = 0 then LinkSt.up else LinkSt.degraded
    (∀ lost, 0 < lost → (p.st = .up ∨ p.st = .degraded) → let w := portWidth port (p.active - lost)
      (w ≠ 0 → w < portFull port → 4 ≤ p.blocks → ∃ t : State, exec (.laneLoss port lost) s = .next t ∧
        t.dev.port port = { p with st := .degraded, active := w }) ∧
      (w = 0 → ∃ t : State, exec (.laneLoss port lost) s = .next t ∧ (t.dev.port port).st = .failed)) ∧
    (p.st = .down → p.retired < 64 → exec (.blockRetire port) s =
      .next (s.modDev (fun d => d.modPort port (fun q => { q with retired := q.retired + 1 })))) ∧
    (p.st = .up → p.retired < 60 → 0 < p.active → ∃ t : State, exec (.blockRetire port) s = .next t ∧
      t.dev.port port = { p with st := .degraded, retired := p.retired + 1 }) ∧
    (p.st = .training →
      (∀ passing, portWidth port passing = portFull port → 4 ≤ p.blocks → ∃ t : State,
        exec (.trainingDone port passing) s = .next t ∧ ∃ llr lfc, t.dev.port port =
          { p with st := full, active := portFull port, llr := llr, lfc := lfc }) ∧
      (∀ passing, portWidth port passing = 0 → ∃ t : State, exec (.trainingDone port passing) s = .next t ∧
        (t.dev.port port).st = .failed) ∧
      (p.since + 10000000 ≤ s.dtime → ∃ t : State, exec (.trainingTimeout port) s = .next t ∧
        t.dev.port port = { p with st := .failed }) ∧
      (s.dtime < p.since + 10000000 → exec (.trainingTimeout port) s = .next s)) ∧
    (p.st ≠ .training → (∀ passing, exec (.trainingDone port passing) s = .next s) ∧
      exec (.trainingTimeout port) s = .next s) ∧
    (p.st = .draining → s.dev.emptied port = false → exec (.linkDrainDone port) s = .next s) ∧
    (p.st = .draining → s.dev.emptied port = true → ∃ t : State, exec (.linkDrainDone port) s = .next t ∧
      t.dev.port port = { p with st := .down }))

/-! ### What the host does to the device (21_host) -/

/-- R11, R363, R421, R422, R426, R432 to R436: BAR4 reads and writes HBM through its window; registers take reads and
writes of 4 or 8 aligned bytes as their rows say, and other accesses are Unsupported Requests; monitors take samples;
a frozen device answers only its read-out registers; a reset leaves the device in self-test; the boot steps follow;
the throttle state is set. That HBM reads 0 after a reset is log entry 6, where the Chaperone starts is log entry 11. -/
def Obligations.HostAccessEvents : Prop := ∀ s : State,
  (∀ (off : Nat) (bs : List Byte),
    (s.window off bs.length = true → ∃ t : State, exec (.bar4Write off bs) s = .next t ∧
      ((∀ w ∈ s.dev.wlog, w.au.core ≠ 64 → w.au.at_ ≠ s.cycle + 1) → ∀ k (h : k < bs.length),
        Store.get 0 t.dev.hbm (s.dev.hwin.toNat + off + k) = bs[k]) ∧
      ∀ a, (∀ k, k < bs.length → a ≠ s.dev.hwin.toNat + off + k) → Store.get 0 t.dev.hbm a = Store.get 0 s.dev.hbm a) ∧
    (s.window off bs.length = false → exec (.bar4Write off bs) s = .next s)) ∧
  (∀ off len, let a := s.dev.hwin.toNat + off
    let answers (r : Option (List Byte × Bool)) : Prop :=
      exec (.bar4Read off len) s = .next (State.bumpFree { s with resp := s.resp ++ [r] })
    (s.window off len = false → answers none) ∧
    (s.window off len = true → answers (some (s.hRead a len, s.dev.placePoison ⟨0, a, 0, 0⟩ len)) ∧
      ((∀ w ∈ s.dev.wlog, w.au.at_ ≠ s.cycle + 1) → s.hRead a len = Store.run 0 s.dev.hbm a len))) ∧
  (∀ bar off size v, (size ≠ 4 ∧ size ≠ 8) ∨ off % size ≠ 0 →
    exec (.registerWrite bar off size v) s = .next { s with resp := s.resp ++ [none] }) ∧
  (s.ready = true → s.dev.frozen = false → ∀ off, off % 8 = 0 → off < 2 ^ 26 → off ≠ 0x100008 →
    exec (.registerWrite 0 off 8 none) s = .next { s with resp := s.resp ++ [some (natBytes 8 (s.bar0 off).toNat, false)] }) ∧
  (s.bar0 0x08 = s.dev.cemask ∧ s.bar0 0x18 = BitVec.ofNat 64 s.dev.boot ∧ s.bar0 0x20 = s.dev.hwin ∧ s.bar0 0x80 = s.dev.pwrlim ∧
    s.bar0 0x1000 = s.dev.cmdarg ∧ s.bar0 0x2010 = BitVec.ofNat 64 s.dev.frings[0].prod ∧ s.bar0 0x3018 = s.dev.suspect ∧
    s.bar0 0x3200 = s.dev.pwbase ∧ (∀ p, p < 79 → s.bar0 (0x10000 + 256 * p + 0x20) = (s.dev.port p).pmemb) ∧
    (∀ c, c < 64 → s.bar0 (0x4000 + 64 * c + 0x10) = (s.core (coreId c)).sigdrop.zeroExtend 64) ∧
    ∀ n, n < 1024 → s.bar0 (0x20000 + 8 * n) = Store.get 0 s.dev.member n) ∧
  (s.dev.frozen = false → ∀ v : W64,
    exec (.registerWrite 0 0x20 8 (some v)) s = .next (s.modDev (fun d => { d with hwin := v &&& ~~~(0x3FFFFFFF : W64) })) ∧
    exec (.registerWrite 0 0x30 8 (some v)) s = .next (s.modDev (fun d => { d with fwAddr := v })) ∧
    (∃ t : State, exec (.registerWrite 0 0x34 4 (some v)) s = .next t ∧
      t.dev.fwAddr = v.extractLsb' 0 32 ++ s.dev.fwAddr.extractLsb' 0 32) ∧
    (v.toNat < 1000 ∨ 3800 < v.toNat → exec (.registerWrite 0 0x80 8 (some v)) s = .next s) ∧
    (1000 ≤ v.toNat → v.toNat ≤ 3800 →
      exec (.registerWrite 0 0x80 8 (some v)) s = .next (s.modDev (fun d => { d with pwrlim := v }))) ∧
    (v.getLsbD 0 = true → exec (.registerWrite 0 0x28 8 (some v)) s = .next s.restart) ∧
    exec (.registerWrite 0 0x1000 8 (some v)) s = .next (s.modDev (fun d => { d with cmdarg := v })) ∧
    (s.ready = false → ∀ off, 0x2000 ≤ off → off < 2 ^ 26 → off % 8 = 0 →
      exec (.registerWrite 0 off 8 (some v)) s = .next { s with resp := s.resp ++ [none] }) ∧
    (s.ready = true →
      exec (.registerWrite 0 0x2000 8 (some v)) s = .next (s.modDev (fun d =>
        { d with frings := d.frings.set 0 { d.frings[0] with base := v &&& ~~~(0xFFF : W64) } })) ∧
      (∀ p, p < 79 → exec (.registerWrite 0 (0x10000 + 256 * p + 8) 8 (some v)) s =
        .next (s.modDev (fun d => d.modPort p (fun q => { q with evmask := v })))) ∧
      (∀ n, n < 4096 → (s.dev.region n).st = 2 → ∃ t : State, exec (.registerWrite 0 (0x24000 + 8 * n) 8 (some v)) s = .next t ∧
        t.dev.region n = ⟨bitsOf v.toNat 51 30, bitsOf v.toNat 1 0, 2⟩) ∧
      (∀ n, n < 4096 → (s.dev.region n).st ≠ 2 → exec (.registerWrite 0 (0x24000 + 8 * n) 8 (some v)) s = .next s) ∧
      (∀ n, n < 1024 → ∃ t : State, exec (.registerWrite 0 (0x20000 + 8 * n) 8 (some v)) s = .next t ∧
        Store.get 0 t.dev.member n = v &&& 0xE3FF000000FFFFFF))) ∧
  (s.dev.frozen = true → ∀ v : W64,
    (∀ bar off size x, bar ≠ 0 ∨ off / 16 ≠ 0x10000 →
      exec (.registerWrite bar off size x) s = .next { s with resp := s.resp ++ [none] }) ∧
    exec (.registerWrite 0 0x100008 8 (some v)) s = .next s ∧
    ∃ t : State, exec (.registerWrite 0 0x100000 8 (some v)) s = .next t ∧ t.dev.scanChain = bitsOf v.toNat 15 8 ∧
      t.dev.scanWord = bitsOf v.toNat 63 16) ∧
  (∀ i ∈ [Instr.frz, Instr.freezeN], exec i s = .next (s.modDev (fun d => { d with frozen := true }))) ∧
  ((s.dev.frozen = true ∨ s.ready = true) → ∃ (t : State) (w : W64), exec .scandata s = .next t ∧
    t.resp = s.resp ++ [some (natBytes 8 w.toNat, false)] ∧ t.dev.scanWord = (s.dev.scanWord + 1) % 2 ^ 48) ∧
  (∀ i ∈ [Instr.powerOn, Instr.fundamentalReset, Instr.warmResetRequest, Instr.wrstN, Instr.hotReset,
      Instr.secondaryBusReset], ∃ t : State, exec i s = .next t ∧ t.cores = State.reset.cores ∧ t.dev.boot = 1 ∧
    t.dev.frozen = false ∧ t.dev.ctxs = [] ∧ t.dev.bundles = [] ∧ t.dev.keys = [] ∧ t.dev.ports = Dev.reset.ports ∧
    t.dev.hbm = [] ∧ t.dev.host = s.dev.host ∧ t.dev.pool = s.dev.pool) ∧
  (∀ pass, (s.dev.boot < 2 → ∃ t : State, exec (.bootWaitfw pass) s = .next t ∧ t.dev.boot = 2 ∧ t.dev.clusterPass = pass ∧
      ∀ k, k < 64 → t.dev.cemask.getLsbD k = (Config.cemask.getLsbD k && pass.getLsbD (k / 8))) ∧
    (2 ≤ s.dev.boot → exec (.bootWaitfw pass) s = .next s)) ∧
  (s.dev.boot = 2 →
    exec (.firmwareCheck false) s = .next (s.modDev (fun d => { d with boot := 4 })) ∧
    ∃ t : State, exec (.firmwareCheck true) s = .next t ∧ t.dev.boot = 3 ∧ ∀ c : CoreId,
      (s.dev.cemask.getLsbD c.val = true → (t.core c).arch.chap.pc = s.dev.fwAddr ∧ (t.core c).arch.chap.run = .run ∧
        (t.core c).arch.chap.status = 1) ∧
      (s.dev.cemask.getLsbD c.val = false → t.core c = s.core c)) ∧
  (s.dev.boot ≠ 2 → ∀ ok, exec (.firmwareCheck ok) s = .next s) ∧
  (∀ on, exec (.throttling on) s = .next (s.modDev (fun d => { d with throttled := on }))) ∧
  (∀ m (h : m < 32), let x := s.dev.monitors[m]
    (s.ready = true → ∃ t : State, exec (.monitorClear m) s = .next t ∧ t.dev.monitors[m].mn = 0xFFFFFFFF ∧
      t.dev.monitors[m].mx = 0 ∧ ∀ k, Store.get 0 t.dev.monitors[m].bins k = 0) ∧
    (s.ready = false → exec (.monitorClear m) s = .next s) ∧
    (∀ v, x.en = false → exec (.monitorSample m v) s = .next s) ∧
    (∀ v, x.en = true → v < 2 ^ 32 → x.src = 3 → x.unit < 79 → ∃ t : State, exec (.monitorSample m v) s = .next t ∧
      t.dev.monitors[m].mx.toNat = max x.mx.toNat v ∧ t.dev.monitors[m].mn.toNat = min x.mn.toNat v ∧
      Store.get 0 t.dev.monitors[m].bins (sampleBin v) = min (2 ^ 32 - 1) (Store.get 0 x.bins (sampleBin v) + 1)))

/-! ### The command mailbox (21_host) -/

/-- R301, R302, R311, R334, R338, R367, R405, R407, R423, R424, R433: a command is counted as lost while another is
pending; else it acts as its row says, completes with its code and raises the interrupt of CMDVEC unless that is
masked. -/
def Obligations.MailboxCommands : Prop := ∀ (c : Cmd) (s : State),
  let n := c.tgt.toNat
  let k := c.ctx.toNat
  let ended (i : Instr) (code : BitVec 8) (t : State) : Prop := exec i s = .next t ∧ t.dev.cmdBusy = none ∧
    t.dev.cmdCode = code ∧ t.dev.cmdarg = c.arg ∧ t.irqs = (if s.dev.vecMasked s.dev.cmdvec then s.irqs else s.irqs ++ [s.dev.cmdvec])
  let bad (i : Instr) : Prop := ∃ t, ended i Code.reservedField t
  (s.dev.cmdBusy.isSome = true →
    ∀ i ∈ [Instr.build c, .reside c, .clear c, .teardown c, .preempt c, .inval c, .linkEnable c, .linkDrain c, .linkRetrain c,
      .linkDisable c, .regionFence c, .regionOnline c, .groupDefine c, .groupJoin c, .groupActivate c, .groupResume c,
      .groupSuspend c, .groupDissolve c, .attest c],
    exec i s = .next (s.modDev (fun d => { d with cmdarg := c.arg, cmdLost := true }))) ∧
  (s.dev.cmdBusy = none →
    (79 ≤ n → ∀ i ∈ [Instr.linkEnable c, .linkDrain c, .linkRetrain c, .linkDisable c], bad i) ∧
    (4096 ≤ n → bad (.regionFence c) ∧ bad (.regionOnline c)) ∧
    (256 ≤ n → ∀ i ∈ [Instr.groupDefine c, .groupJoin c, .groupActivate c, .groupResume c, .groupSuspend c,
      .groupDissolve c], bad i) ∧
    (let rcd := Store.run 0 s.dev.hbm c.arg.toNat 128
     (c.arg.toNat % 64 ≠ 0 ∨ Config.hbmBytes < c.arg.toNat + 128 ∨ ctxOf rcd = none ∨
       (s.dev.ctx (leAt rcd 0x0A 2)).st ≠ .free → bad (.build c)) ∧
     (∀ x, c.arg.toNat % 64 = 0 → c.arg.toNat + 128 ≤ Config.hbmBytes → ctxOf rcd = some x →
       (s.dev.ctx (leAt rcd 0x0A 2)).st = .free → ∃ t, ended (.build c) 0 t ∧ t.dev.ctx (leAt rcd 0x0A 2) = x ∧ x.st = .built)) ∧
    (let x := s.dev.ctx k
     (x.st ≠ .built ∨ s.dev.roomFor k x = false → bad (.reside c)) ∧
     (x.st = .built → s.dev.roomFor k x = true → ∃ t, ended (.reside c) 0 t ∧ t.dev.ctx k = { x with st := .resident } ∧
       ∀ core : CoreId, x.cores.getLsbD core.val = true → s.dev.cemask.getLsbD core.val = true → (s.core core).real = none →
         (∀ j : Fin 256, x.sema.getLsbD j.val = true → (t.core core).arch.sems[j] = 0) ∧
         (∀ j : Fin 64, x.bara.getLsbD j.val = true → (t.core core).arch.bars[j].st = .idle) ∧
         ∀ j : Fin 16, x.ringa.getLsbD j.val = true → (t.core core).arch.rings[j].opened = false) ∧
     (x.st ≠ .faulted → bad (.clear c)) ∧
     (x.st = .faulted → (∀ d : Fin 2, s.dev.frings[d].waiting = []) →
       (∀ core t, (s.core core).task = some t → t.ctx = k → t.st = .faulted) →
       (∀ core, (s.core core).saved = [] ∧ (s.core core).hold = []) → ∃ t, ended (.clear c) 0 t ∧ t.dev.ctx k = { x with st := .resident } ∧
       ∀ core y, (s.core core).task = some y → y.ctx = k → (t.core core).task = none ∧ (t.core core).region = .idle) ∧
     (x.st = .free ∨ x.st = .tornDown → bad (.teardown c)) ∧
     (x.st ≠ .free → x.st ≠ .tornDown → ∃ t, exec (.teardown c) s = .next t ∧ (t.dev.ctx k).st = .tornDown ∧
       t.dev.cmdBusy = some (0x04, k) ∧ (∀ b ∈ t.dev.bundles, b.ctx ≠ k) ∧
       ∀ core : CoreId, ∀ e ∈ (t.core core).tlb, e.asid ≠ x.asid)) ∧
    (∀ core : CoreId, core.val = n →
      (s.dev.bundles.find? (fun b => b.ctx = k && b.addr = c.arg.toNat) = none → bad (.preempt c)) ∧
      (∀ b t, s.dev.bundles.find? (fun b => b.ctx = k && b.addr = c.arg.toNat) = some b → (s.core core).task = some t →
        (t.ctx = b.ctx → bad (.preempt c)) ∧
        (t.ctx ≠ b.ctx → t.st = .running → t.replay = false → (s.core core).preempt = none → ∃ u p, ended (.preempt c) 0 u ∧
          (u.core core).preempt = some p ∧ p.beneficiary = b.id ∧ p.st = .latched none))) ∧
    (64 ≤ n → bad (.preempt c)) ∧
    (c.arg.getLsbD 0 = false → (∀ core, (s.core core).hold = [] ∧ (s.core core).xq = []) →
      (∀ w ∈ s.dev.wlog, w.place.kind ≠ 3) → ∃ t, ended (.inval c) 0 t ∧
      (∀ core : CoreId, ∀ e ∈ (t.core core).tlb, e.asid ≠ n) ∧ ∀ d : Fin 2, ∀ e ∈ t.dev.tlb[d], e.asid ≠ n) ∧
    (c.arg.getLsbD 0 = true → (∀ core, (s.core core).hold = [] ∧ (s.core core).xq = []) →
      (∀ w ∈ s.dev.wlog, w.place.kind ≠ 3) → ∃ t, ended (.inval c) 0 t ∧
      (∀ core : CoreId, (t.core core).tlb = []) ∧ ∀ d : Fin 2, t.dev.tlb[d] = []) ∧
    (n < 79 → let p := s.dev.port n
      (p.st = .down → ∃ t, ended (.linkEnable c) 0 t ∧ t.dev.port n = { p with st := .training, since := s.dtime }) ∧
      (p.st = .up ∨ p.st = .degraded → ∃ t, ended (.linkDrain c) 0 t ∧ t.dev.port n = { p with st := .draining }) ∧
      (p.st = .degraded → ∃ t, ended (.linkRetrain c) 0 t ∧ (t.dev.port n = p ∨
        (p.retired = 0 ∧ t.dev.port n = { p with st := .up, active := portFull n }))) ∧
      (p.st ≠ .down → ∃ t, ended (.linkDisable c) 0 t ∧ (t.dev.port n).st = .down ∧ (t.dev.port n).outq = [])) ∧
    (n < 4096 → let r := s.dev.region n
      (r.st ≠ 2 → ∃ t, ended (.regionFence c) 0 t ∧ t.dev.region n = { r with st := 2 } ∧
        ∀ l ∈ t.dev.lines, l.line / 2 ^ 24 ≠ n) ∧
      (r.st = 1 → ∃ t, ended (.regionOnline c) Code.poolRegionLost t ∧ t.dev.region n = r) ∧
      (r.st = 2 → s.dev.cxlUp[r.port % 4]'(Nat.mod_lt r.port (by decide)) = false →
        ∃ t, ended (.regionOnline c) Code.poolRegionLost t ∧ t.dev.region n = r) ∧
      (r.st = 2 → s.dev.cxlUp[r.port % 4]'(Nat.mod_lt r.port (by decide)) = true →
        ∃ code t, ended (.regionOnline c) code t ∧ ((code = 0 ∧ t.dev.region n = { r with st := 0 }) ∨
          (code = Code.poolRegionLost ∧ t.dev.region n = r)))) ∧
    (n < 256 → let g := s.dev.group n
      (∀ x, g.st = .dissolved → c.arg.toNat + 32 ≤ Config.hbmBytes → groupOf (Store.run 0 s.dev.hbm c.arg.toNat 32) = some x →
        ∃ t, ended (.groupDefine c) 0 t ∧ t.dev.group n = x) ∧
      (g.st = .dissolved → groupOf (Store.run 0 s.dev.hbm c.arg.toNat 32) = none → bad (.groupDefine c)) ∧
      (∀ e, g.st = .defined → s.dev.memberOf g.job = some e →
        (memberDx e = true → ∃ t, ended (.groupJoin c) 0 t ∧ t.dev.group n = { g with st := .joined }) ∧
        (memberDx e = false → ∃ t, ended (.groupJoin c) Code.jobKeyAbsent t ∧ t.dev.group n = g)) ∧
      (g.st = .joined → ∃ t, ended (.groupActivate c) 0 t ∧ t.dev.group n = { g with st := .active }) ∧
      (g.st = .active → ∃ t, ended (.groupSuspend c) 0 t ∧ t.dev.group n = { g with st := .suspended }) ∧
      (g.st = .suspended → ∃ t, ended (.groupResume c) 0 t ∧ t.dev.group n = { g with st := .active }) ∧
      (g.st ≠ .dissolved → ∃ t, ended (.groupDissolve c) 0 t ∧ (t.dev.group n).st = .dissolved)) ∧
    (let a := c.arg.toNat
     (Config.hbmBytes < a + 2988 → bad (.attest c)) ∧
     (a + 2988 ≤ Config.hbmBytes → s.dev.sigsLeft = 0 → ∃ t, ended (.attest c) Code.keyExhausted t) ∧
     (a + 2988 ≤ Config.hbmBytes → s.dev.sigsLeft ≠ 0 → ∃ t, ended (.attest c) 0 t ∧ t.dev.sigsLeft = s.dev.sigsLeft - 1 ∧
       Store.get 0 t.dev.hbm a = 1 ∧ (∀ j, j < 32 → Store.get 0 t.dev.hbm (a + 24 + j) =
         (Store.run 0 s.dev.hbm a 32).getD j 0) ∧
       ∀ j, j < 8 → Store.get 0 t.dev.hbm (a + 56 + j) = (natBytes 8 s.dev.cemask.toNat).getD j 0))) ∧
  (∀ ctx, (s.dev.ctx ctx).st = .tornDown → s.dev.cmdBusy = some (0x04, ctx) →
    (s.invDone ⟨some (s.dev.ctx ctx).asid, none⟩ s.dev.wseq = true → ∃ t : State, exec (.teardownComplete ctx) s = .next t ∧
      (t.dev.ctx ctx).st = .free ∧ t.dev.cmdBusy = none ∧ t.irqs = (if s.dev.vecMasked s.dev.cmdvec then s.irqs else s.irqs ++ [s.dev.cmdvec])) ∧
    (s.invDone ⟨some (s.dev.ctx ctx).asid, none⟩ s.dev.wseq = false → exec (.teardownComplete ctx) s = .next s))

/-! ### A step, the decoders, reset and memory -/

/-- R11, R12, R17, R18, R21, R24, R27, R106, R298, R299, R389, R394: a step gives the turn to the head of the agenda (log
entry 1) at the moment that the clocks and the order of the core cycle give it (log entry 142). A thread that may act
runs what the word or header at its pc decodes to, a sequencer its next word, an event happens; with an empty agenda
one core cycle passes. -/
def Obligations.StepRunsDecodedInstruction : Prop := ∀ (s : State),
  (s.agenda = [] → step s = .next (s.passTo (s.now + 410))) ∧
  (∀ n, s.dev.frozen = true ∨ (n / 410 = s.cycle ∧ s.phase.cross = false) → s.passTo n = { s with now := n }) ∧
  (∀ (w : Who) dt rest, s.agenda = ⟨dt, .thread w⟩ :: rest →
    let u : State := State.passTo { s with agenda := rest } (s.moment (s.now + dt) (.thread w))
    let t : State := { u with cur := w }
    (t.here.mayAct w.th t.cycle = false ∨ u.dev.frozen = true → step s = .next (t.stamp 2 true)) ∧
    (t.here.mayAct w.th t.cycle = true → u.dev.frozen = false →
      (∀ bs, t.eng.left ≠ 0 → t.fetchUnit 12 = .ok bs → wTag (bytesWord bs) = w.th.code →
        t.arch.waitMet w.th t.cycle = true → t.withheld = false → t.here.otherInHandler w.th = false → t.eng.async = [] →
        (w.th = .chap → (t.here.chapSlot t.cycle).isSome = true) →
        let v := (t.modArch (fun a => (a.settlePlanes w.th t.cycle).modEng w.th (fun e =>
          if e.run = .run then { e with own := true } else e))).waitOrder
        (∀ i, decodeWord (bytesWord bs) = .ok i →
          (u.late (wordRank i w.th) = false → step s = exec i (v.stamp (wordRank i w.th) true)) ∧
          (u.late (wordRank i w.th) = true → step s = .next t)) ∧
        (decodeWord (bytesWord bs) = .error .illegal → step s = .next ((v.trap Code.illegalWord none).stamp 2 true)) ∧
        (∀ i, decodeWord (bytesWord bs) = .error (.reserved i) → check2 i t.eng = none →
          step s = .next ((v.trap Code.reservedField none).stamp 2 true))) ∧
      (t.eng.left ≠ 0 → ∀ y, t.fetchUnit 12 = .error y → step s = .next (y.stamp 2 true)) ∧
      (∀ bs, t.eng.left = 0 → t.eng.arrived = true → t.eng.delay = none → t.here.cpReq = [] →
        t.here.otherInHandler w.th = false → t.textEnd ≠ some t.eng.pc.toNat → t.fetchUnit 8 = .ok bs →
        step s = exec (.sectionHeader (decodeHdr (bytesHdr bs))) (t.stamp 2 true)))) ∧
  (∀ c dt rest, s.agenda = ⟨dt, .seq c⟩ :: rest →
    let u : State := State.passTo { s with agenda := rest } (s.moment (s.now + dt) (.seq c))
    let t : State := { u with cur := ⟨c, .c⟩ }
    t.seq.running = true → t.seq.busy ≤ t.cycle → t.here.cpReq = [] → t.here.restart = none → u.dev.frozen = false →
    t.seq.pc.toNat % 8 = 0 → t.seq.pc.toNat < 2 ^ 18 →
    (∀ i, decodeSeq (bytesHdr (t.seq.lread t.seq.pc.toNat 8)) = .ok i →
      ¬(t.cycle < t.seq.ldx.2 ∧ (seqRegs i).contains t.seq.ldx.1 = true) → step s = exec i (t.stamp (wordRank i .c) true)) ∧
    (decodeSeq (bytesHdr (t.seq.lread t.seq.pc.toNat 8)) = .error .illegal →
      step s = .next ((t.seqEnd Code.illegalWord).stamp 2 true))) ∧
  (∀ i dt rest, s.agenda = ⟨dt, .event i⟩ :: rest →
    let u : State := State.passTo { s with agenda := rest } (s.moment (s.now + dt) (.event i))
    (isEvent i = true → u.dev.frozen = false ∨ thaws i = true → step s = exec i (u.stamp (eventRank i) false)) ∧
    (u.dev.frozen = true → thaws i = false → step s = .next u))

/-- R434: while the device is frozen a step leaves every core and the device as they are, but for the read-out position; a
reset alone ends it. -/
def Obligations.FrozenDeviceWaitsForReset : Prop := ∀ s t : State, s.dev.frozen = true → step s = .next t →
  (t.cores = s.cores ∧ t.dev = { s.dev with scanChain := t.dev.scanChain, scanWord := t.dev.scanWord } ∧
    t.wire = s.wire ∧ t.irqs = s.irqs) ∨
  (t.cores = State.reset.cores ∧ t.dev.frozen = false ∧ t.dev.boot = 1)

/-- R305, R308: whatever a state holds, a step of it answers a next state: every fault that the spec names is taken as it
says, and none stops the device. -/
def Obligations.NoStepStops : Prop := ∀ s : State, s.safe

/-- Words that the spec shows encoded (the worked encodings of 02_words, 05_scalar to 10_copy, 17_region, 19 to 27) are
what this decoder reads. -/
def Obligations.WorkedEncodings : Prop := (∃ f : S3, decodeWord 0x400081299200000000000000 = .ok (.add ⟨1, 1, 0, 1⟩ f) ∧ f.d = 5 ∧ f.a = 6 ∧ f.b = 9 ∧ f.i = 0) ∧
  (∃ f : S3, decodeWord 0x817000394C00C40000000000 = .ok (.cmp ⟨2, 0, 0, 0⟩ f) ∧ f.d = 7 ∧ f.n = 3 ∧ f.a = 5 ∧ f.b = 6 ∧
    f.cond = 2) ∧
  (∃ f : BrF, decodeWord 0x044000004000000000000003 = .ok (.loop ⟨0, 0, 0, 0⟩ f) ∧ f.lc = 0 ∧ f.s = 1 ∧ f.imm = 3) ∧
  (∃ f : VT, decodeWord 0x91400000A4000A00F0005A84 = .ok (.vrqs ⟨2, 0, 0, 0⟩ f) ∧ f.d = 0x00A40 ∧ f.a = 0x00A00 ∧
    f.b = 0xF0005 ∧ f.ty = 0x15) ∧
  (∃ f : MX, decodeWord 0xE04000021000012020800001 = .ok (.mstr ⟨3, 0, 0, 0⟩ f) ∧ f.ta = 1 ∧ f.tb = 1 ∧ f.bar = 4 ∧
    f.bt = 1 ∧ f.tile = 4 ∧ f.acc = 0x10000 ∧ f.z = 1) ∧
  (∃ f : CM, decodeWord 0x093000000000030100608100 = .ok (.xfao ⟨0, 0, 0, 0⟩ f) ∧ f.ss = 3 ∧ f.si = 1 ∧ f.se = 1 ∧ f.we = 0) ∧
  (∃ f : SY, decodeWord 0x0A9000282A00184000000000 = .ok (.swait ⟨0, 0, 0, 0⟩ f) ∧ f.gd = 5 ∧ f.gb = 21 ∧ f.obj = 3 ∧
    f.ord = 1) ∧
  (∃ f : SeqW, decodeSeq 0x35A70C0000000000 = .ok (.retx f) ∧ f.a = 10 ∧ f.b = 7 ∧ f.c = 12) ∧
  decodeHdr 0xE5012004000722E5 = ⟨0xE5, 18, 4, 0, 0, 0, 7, 0, 2, 0, 0, 1, 0, 0xE5⟩

/-- R17, R27, R36, R391: a word that a decoder accepts is well formed, is assigned on the engine of its tag, and is the
one word of its instruction; headers and well-formed sequencer words decode to what they encode. -/
def Obligations.DecodersAreExact : Prop := (∀ w i, decodeWord w = .ok i → WellFormed i = true ∧ encodeWord i = some w ∧
    (∃ h, hdrOf i = some h ∧ h.tag = wTag w) ∧ (wTag w).toNat ∈ enginesOf (wOpc w).toNat) ∧
  (∀ w v i, decodeWord w = .ok i → decodeWord v = .ok i → w = v) ∧
  (∀ w, (wTag w).toNat ∉ enginesOf (wOpc w).toNat → decodeWord w = .error .illegal) ∧
  (∀ f, decodeHdr (encodeHdr f) = f) ∧ (∀ x, encodeHdr (decodeHdr x) = x) ∧
  (∀ i x, encodeSeq i = some x → WellFormed i = true → decodeSeq x = .ok i) ∧
  (∀ x i, decodeSeq x = .ok i → WellFormed i = true ∧ encodeSeq i = some x)

/-- R70, R109, R241, R252, R260, R306, R307, R334, R353, R356, R367, R375, R397, R428, R432, R435, R436: what the spec
says stands in the registers and objects after reset. Registers whose reset value it does not give are log entry 5. -/
def Obligations.ResetValues : Prop := let s := State.reset
  (∀ c : CoreId, let a := (s.core c).arch
    a.bankPwr = 5 ∧ a.klim = 2 ^ 36 ∧ a.kwarn = 2 ^ 36 - 2 ^ 32 ∧ a.authmax = 8 ∧ a.poisonst = 0 ∧ a.pwstat = 0 ∧
    (∀ t, (a.eng t).status = (if t = .chap then 1 else 0) ∧ (a.eng t).cause = 0) ∧
    (∀ n, (a.bar n).st = .idle ∧ (a.bar n).arr = 0) ∧ (∀ n, (a.ring n).opened = false) ∧ (∀ n, (a.stream n).st = .closed) ∧
    (∀ n, ((s.core c).flow n).st = .closed) ∧ a.seq.running = false ∧ a.seq.startq = [] ∧ a.seq.cmdq = [] ∧ a.seq.evq = [] ∧
    (s.core c).region = .idle ∧ (s.core c).rgstrk = 0 ∧ (s.core c).rgroll = 0 ∧ (s.core c).rgrec = 0 ∧
    (s.core c).rgdisc = 0 ∧ (s.core c).task = none) ∧
  s.dev.boot = 0 ∧ s.dev.frozen = false ∧ s.dev.pwrlim = 3800 ∧ s.dev.pxtmo = 1000 ∧ s.dev.pxen = false ∧
  (∀ n, (s.dev.region n).st = 2) ∧ (∀ n, (s.dev.port n).st = .down ∧ (s.dev.port n).plerr = 0) ∧
  (∀ n, (s.dev.ctx n).st = .free) ∧ (∀ n, (s.dev.group n).st = .dissolved) ∧ (∀ n, s.dev.memberOf n = none) ∧
  (∀ n k, ((s.dev.jobKey n).slot k).st = .empty) ∧ (∀ n, (s.dev.hring n 0).st = .disabled) ∧
  (∀ m, (s.dev.monitor m).mn = 0xFFFFFFFF ∧ (s.dev.monitor m).mx = 0 ∧ (s.dev.monitor m).en = false)

/-- R4, R9, R68, R221 to R224, R237, R388: what a write puts into a memory is what is read there afterwards, and every
other byte reads as before (of the pool while the LLC has room for the write): HBM, host memory, a line of the pool,
the scratchpad, spill stores and local memory. -/
def Obligations.MemoryReadsBack : Prop := ∀ (bs : List Byte) (po : Bool),
  (∀ (d : Dev) (p : Place) pol, let e := d.writePlace p pol bs po
    let fits := d.llc.length + d.lines.length + bs.length + 2 ≤ llcLines
    (p.kind = 0 → (∀ a, Store.get 0 e.hbm a =
        if h : p.pa ≤ a ∧ a - p.pa < bs.length ∧ a < Config.hbmBytes then bs[a - p.pa]'h.2.1 else Store.get 0 d.hbm a) ∧
      e.host = d.host ∧ (fits → ∀ o, e.poolByte o = d.poolByte o)) ∧
    (p.kind = 2 → (∀ a, Store.get 0 e.host a = if h : p.pa ≤ a ∧ a - p.pa < bs.length then bs[a - p.pa]'h.2 else Store.get 0 d.host a) ∧
      e.hbm = d.hbm ∧ (fits → ∀ o, e.poolByte o = d.poolByte o)) ∧
    (p.kind = 1 → let off := p.pa - d.pwbase.toNat
      e.hbm = d.hbm ∧ e.host = d.host ∧
      (d.poolState off ≠ 0 → ∀ o, e.poolByte o = d.poolByte o) ∧
      (d.poolState off = 0 → off % 64 + bs.length ≤ 64 → (∀ l ∈ d.lines, l.bytes.length = 64) → fits →
        (∀ k (h : k < bs.length), e.poolByte (off + k) = bs[k]) ∧
        (pol ≠ 1 → d.memWf = true → ∀ o, (∀ k, k < bs.length → o ≠ off + k) → e.poolByte o = d.poolByte o)))) ∧
  (∀ (c : Core) (w : Writer) (v : Via) unit at' addr, let e := c.scrWrite w v addr bs po unit at'
    ∀ a, Store.get 0 e.arch.scr a =
      if h : addr ≤ a ∧ a - addr < bs.length then bs[a - addr]'h.2 else Store.get 0 c.arch.scr a) ∧
  (∀ (c : Core) t off, let e := c.spillWrite t off bs po
    ∀ a, Store.get 0 (e.arch.eng t).spill a =
      if h : off ≤ a ∧ a - off < bs.length then bs[a - off]'h.2 else Store.get 0 (c.arch.eng t).spill a) ∧
  (∀ (s : State) addr a, Store.get 0 (s.lwrite addr bs).seq.lmem a =
    if h : addr ≤ a ∧ a - addr < bs.length then bs[a - addr]'h.2 else Store.get 0 s.seq.lmem a)
end

