-- ==== Sys2Proof/Laws/Gcm.lean ====
section
/-! SUPPORT. What is sealed opens again: the key stream is its own inverse, and a packet sealed under a slot's key
opens under that slot (R374). -/

namespace Sys2Proof.Laws

open Sys2Proof Sys2Proof.Machine

theorem gcmXor_length {a b : List Byte} (h : a.length ≤ b.length) : (gcmXor a b).length = a.length := by
  simp [gcmXor, h]

theorem gcmXor_twice : ∀ {a b : List Byte}, a.length ≤ b.length → gcmXor (gcmXor a b) b = a
  | [], _, _ => by simp [gcmXor]
  | x :: a, [], h => by simp at h
  | x :: a, y :: b, h => by
    have ih := gcmXor_twice (a := a) (b := b) (by simpa using h)
    have e : x ^^^ y ^^^ y = x := by simp
    simpa [gcmXor, e] using ih

/-- One block of the cipher has 16 bytes when the last round key has. -/
theorem aesBlock_length {ks : List (List Byte)} (h : (ks.getD 14 []).length = 16) (b : List Byte) :
    (aesBlock ks b).length = 16 := by
  simp only [aesBlock]
  rw [gcmXor_length (by rw [h]; simp [aesShift])]
  simp [aesShift]

/-- A piecewise XOR with pads of 16 bytes, from pad k on. -/
def padded (pad : Nat → List Byte) : Nat → Nat → List Byte → List Byte
  | 0, _, _ => []
  | n + 1, k, xs => if xs.isEmpty then [] else gcmXor (xs.take 16) (pad k) ++ padded pad n (k + 1) (xs.drop 16)

theorem padded_length {pad : Nat → List Byte} (hp : ∀ k, (pad k).length = 16) :
    ∀ n k xs, xs.length ≤ 16 * n → (padded pad n k xs).length = xs.length
  | 0, _, xs, h => by
    have : xs.length = 0 := by omega
    simp [padded, this]
  | n + 1, k, xs, h => by
    unfold padded
    split
    · simp_all
    · rw [List.length_append, gcmXor_length (by simp [hp]), padded_length hp n (k + 1) _ (by simp; omega)]
      simp
      omega

theorem padded_twice {pad : Nat → List Byte} (hp : ∀ k, (pad k).length = 16) :
    ∀ n k xs, xs.length ≤ 16 * n → padded pad n k (padded pad n k xs) = xs
  | 0, _, xs, h => by
    have : xs = [] := List.eq_nil_of_length_eq_zero (by omega)
    simp [padded, this]
  | n + 1, k, xs, h => by
    by_cases hx : xs.isEmpty
    · simp_all [padded]
    · have hl : (padded pad (n + 1) k xs).length = xs.length := padded_length hp _ _ _ h
      have hne : (padded pad (n + 1) k xs).isEmpty = false := by
        rw [List.isEmpty_eq_false_iff, ← List.length_pos_iff, hl, List.length_pos_iff]
        simpa using hx
      have e : padded pad (n + 1) k xs = gcmXor (xs.take 16) (pad k) ++ padded pad n (k + 1) (xs.drop 16) := by
        simp [padded, hx]
      rw [padded, if_neg (by simp [hne])]
      have htk : (xs.take 16).length ≤ (pad k).length := by simp [hp]
      have hg : (gcmXor (xs.take 16) (pad k)).length = (xs.take 16).length := gcmXor_length htk
      by_cases h16 : xs.length ≤ 16
      · have hd : xs.drop 16 = [] := by simp [h16]
        have hn : padded pad n (k + 1) [] = [] := by cases n <;> simp [padded]
        rw [e, hd, hn, List.append_nil, List.take_of_length_le (by rw [hg]; simp), gcmXor_twice htk,
          List.drop_of_length_le (by rw [hg]; simp), hn, List.append_nil, List.take_of_length_le h16]
      · have hg16 : (gcmXor (xs.take 16) (pad k)).length = 16 := by rw [hg]; simp; omega
        rw [e, List.take_append_of_le_length (by omega), List.take_of_length_le (by omega), gcmXor_twice htk,
          List.drop_append_of_le_length (by omega), List.drop_of_length_le (by omega), List.nil_append,
          padded_twice hp n (k + 1) _ (by simp; omega), List.take_append_drop]

theorem gcmStream_eq (ks : List (List Byte)) (iv bs : List Byte) :
    gcmStream ks iv bs = padded (fun k => aesBlock ks (gcmBlock iv (k + 2))) ((bs.length + 15) / 16) 0 bs := by
  have h : ∀ n k xs, (((chunks 16 n xs).zipIdx k).map (fun p => gcmXor p.1 (aesBlock ks (gcmBlock iv (p.2 + 2))))).flatten
      = padded (fun k => aesBlock ks (gcmBlock iv (k + 2))) n k xs := by
    intro n
    induction n with
    | zero => intro k xs; simp [chunks, padded]
    | succ n ih =>
      intro k xs
      by_cases hx : xs.isEmpty
      · simp [chunks, padded, hx]
      · simp [chunks, padded, hx, List.zipIdx_cons, ih]
  exact h _ _ _

theorem gcmStream_length {ks : List (List Byte)} (h : (ks.getD 14 []).length = 16) (iv bs : List Byte) :
    (gcmStream ks iv bs).length = bs.length := by
  rw [gcmStream_eq, padded_length (fun k => aesBlock_length h _)]
  omega

theorem gcmStream_twice {ks : List (List Byte)} (h : (ks.getD 14 []).length = 16) (iv bs : List Byte) :
    gcmStream ks iv (gcmStream ks iv bs) = bs := by
  rw [gcmStream_eq ks iv (gcmStream ks iv bs), gcmStream_length h, gcmStream_eq,
    padded_twice (fun k => aesBlock_length h _) _ _ _ (by omega)]

/-- What a key seals opens under that key, with the same IV and additional data. -/
theorem gcmOpen_gcmSeal {key : List Byte} (h : ((aesKeys key).getD 14 []).length = 16) (iv aad pt : List Byte) :
    gcmOpen key iv aad (gcmSeal key iv aad pt).1 (gcmSeal key iv aad pt).2 = some pt := by
  simp [gcmOpen, gcmSeal, gcmStream_twice h]

/-- A changed tag does not open. -/
theorem gcmOpen_other_tag {key iv aad ct : List Byte} {tag : BitVec 128} (h : tag ≠ gcmTag (aesKeys key) iv aad ct) :
    gcmOpen key iv aad ct tag = none := by
  simp [gcmOpen, h.symm]

/-- A packet sealed under the key of the slot that it names opens, unless that slot is EMPTY. -/
theorem openPacket_seal {d : Dev} {h : FlitHdr} {x : KeySlot} (hx : (d.jobKey h.job.toNat).slot h.kp.toNat = x)
    (hs : x.st ≠ .empty) (hk : ((aesKeys x.key).getD 14 []).length = 16) (pt : List Byte) :
    d.openPacket h (gcmSeal x.key (hdrIv h) (hdrAad h) pt).1 (gcmSeal x.key (hdrIv h) (hdrAad h) pt).2 = some pt := by
  simp [Dev.openPacket, hx, hs, gcmOpen_gcmSeal hk]

end Sys2Proof.Laws
end

