-- ==== Sys2Proof/Laws/Words.lean ====
section
/-! SUPPORT. Fields of packed words: what was put into a field of a kernel word, of a format class, of a section
header or of a sequencer word is read back. -/

namespace Sys2Proof.Laws

open Sys2Proof

/-! ### Concatenations -/

theorem extract_append_high {n m : Nat} (x : BitVec n) (y : BitVec m) (s k : Nat) (h : m ≤ s) :
    (x ++ y).extractLsb' s k = x.extractLsb' (s - m) k := by
  apply BitVec.eq_of_getLsbD_eq
  intro i _
  rw [BitVec.getLsbD_extractLsb', BitVec.getLsbD_extractLsb', BitVec.getLsbD_append, if_neg (by omega)]
  congr 2
  omega

theorem extract_append_low {n m : Nat} (x : BitVec n) (y : BitVec m) (s k : Nat) (h : s + k ≤ m) :
    (x ++ y).extractLsb' s k = y.extractLsb' s k := by
  apply BitVec.eq_of_getLsbD_eq
  intro i _
  rw [BitVec.getLsbD_extractLsb', BitVec.getLsbD_extractLsb', BitVec.getLsbD_append, if_pos (by omega)]

theorem extract_whole {n : Nat} (x : BitVec n) (s : Nat) (h : s = 0) : x.extractLsb' s n = x := by
  subst h
  apply BitVec.eq_of_getLsbD_eq
  intro i hi
  simp [hi]

/-! ### The fields of a kernel word (R23) -/

theorem wArea_packWord (h : Hdr) (c : BitVec 10) (a : BitVec 72) : wArea (packWord h c a) = a := by
  simp (disch := omega) only [wArea, packWord, extract_append_low, extract_whole]

theorem wOpc_packWord (h : Hdr) (c : BitVec 10) (a : BitVec 72) : wOpc (packWord h c a) = c := by
  simp (disch := omega) only [wOpc, packWord, extract_append_high, extract_append_low, extract_whole]

theorem wTag_packWord (h : Hdr) (c : BitVec 10) (a : BitVec 72) : wTag (packWord h c a) = h.tag := by
  simp (disch := omega) only [wTag, packWord, extract_append_high, extract_whole]

theorem wHdr_packWord (h : Hdr) (c : BitVec 10) (a : BitVec 72) : wHdr (packWord h c a) = h := by
  simp (disch := omega) only [wHdr, wTag, packWord, extract_append_high, extract_append_low, extract_whole]

/-! ### The format classes (R31) -/

theorem decBrF_encBrF (f : BrF) : decBrF (encBrF f) = f := by
  simp (disch := omega) only [decBrF, encBrF, extract_append_high, extract_append_low, extract_whole]

theorem decS3_encS3 (f : S3) : decS3 (encS3 f) = f := by
  simp (disch := omega) only [decS3, encS3, extract_append_high, extract_append_low, extract_whole]

theorem decSI_encSI (f : SI) : decSI (encSI f) = f := by
  simp (disch := omega) only [decSI, encSI, extract_append_high, extract_append_low, extract_whole]

theorem decSW_encSW (f : SW) : decSW (encSW f) = f := by
  simp (disch := omega) only [decSW, encSW, extract_append_high, extract_append_low, extract_whole]

theorem decVT_encVT (f : VT) : decVT (encVT f) = f := by
  simp (disch := omega) only [decVT, encVT, extract_append_high, extract_append_low, extract_whole]

theorem decVM_encVM (f : VM) : decVM (encVM f) = f := by
  simp (disch := omega) only [decVM, encVM, extract_append_high, extract_append_low, extract_whole]

theorem decMX_encMX (f : MX) : decMX (encMX f) = f := by
  simp (disch := omega) only [decMX, encMX, extract_append_high, extract_append_low, extract_whole]

theorem decST_encST (f : ST) : decST (encST f) = f := by
  simp (disch := omega) only [decST, encST, extract_append_high, extract_append_low, extract_whole]

theorem decCM_encCM (f : CM) : decCM (encCM f) = f := by
  simp (disch := omega) only [decCM, encCM, extract_append_high, extract_append_low, extract_whole]

theorem decSY_encSY (f : SY) : decSY (encSY f) = f := by
  simp (disch := omega) only [decSY, encSY, extract_append_high, extract_append_low, extract_whole]

/-! ### Every kernel form -/

/-- The encoder's word of a form holds the form's opcode, header and operand area. -/
theorem encodeWord_fields (i : Instr) (w : BitVec 96) (e : encodeWord i = some w) :
    some (wOpc w) = opcOf i ∧ some (wHdr w) = hdrOf i ∧ wArea w = areaOf i := by
  unfold encodeWord at e
  split at e
  · next h c hh hc =>
    simp only [Option.some.injEq] at e
    subst e
    exact ⟨by rw [wOpc_packWord, hc], by rw [wHdr_packWord, hh], wArea_packWord _ _ _⟩
  · cases e

end Sys2Proof.Laws
end

