-- ==== Sys2Proof/Laws/PerInstr.lean ====
section
/-! SUPPORT. The statements made once per instruction. EncodeArea: the word that the encoder gives a kernel form
holds the form's opcode, guard and operand area, whatever their values. -/

namespace Sys2Proof.Laws

open Sys2Proof

/-- The fields of R23 of an instruction's word are the instruction's own. -/
def EncodeArea.Statement (i : Instr) : Prop :=
  ∀ w, encodeWord i = some w → some (wOpc w) = opcOf i ∧ some (wHdr w) = hdrOf i ∧ wArea w = areaOf i

theorem EncodeArea.add (h : Hdr) (f : S3) : EncodeArea.Statement (.add h f) := encodeWord_fields _
theorem EncodeArea.sub (h : Hdr) (f : S3) : EncodeArea.Statement (.sub h f) := encodeWord_fields _
theorem EncodeArea.addi (h : Hdr) (f : SI) : EncodeArea.Statement (.addi h f) := encodeWord_fields _
theorem EncodeArea.mul (h : Hdr) (f : S3) : EncodeArea.Statement (.mul h f) := encodeWord_fields _
theorem EncodeArea.mulh (h : Hdr) (f : S3) : EncodeArea.Statement (.mulh h f) := encodeWord_fields _
theorem EncodeArea.mulhu (h : Hdr) (f : S3) : EncodeArea.Statement (.mulhu h f) := encodeWord_fields _
theorem EncodeArea.div (h : Hdr) (f : S3) : EncodeArea.Statement (.div h f) := encodeWord_fields _
theorem EncodeArea.divu (h : Hdr) (f : S3) : EncodeArea.Statement (.divu h f) := encodeWord_fields _
theorem EncodeArea.rem (h : Hdr) (f : S3) : EncodeArea.Statement (.rem h f) := encodeWord_fields _
theorem EncodeArea.remu (h : Hdr) (f : S3) : EncodeArea.Statement (.remu h f) := encodeWord_fields _
theorem EncodeArea.and (h : Hdr) (f : S3) : EncodeArea.Statement (.and h f) := encodeWord_fields _
theorem EncodeArea.or (h : Hdr) (f : S3) : EncodeArea.Statement (.or h f) := encodeWord_fields _
theorem EncodeArea.xor (h : Hdr) (f : S3) : EncodeArea.Statement (.xor h f) := encodeWord_fields _
theorem EncodeArea.andn (h : Hdr) (f : S3) : EncodeArea.Statement (.andn h f) := encodeWord_fields _
theorem EncodeArea.orn (h : Hdr) (f : S3) : EncodeArea.Statement (.orn h f) := encodeWord_fields _
theorem EncodeArea.shl (h : Hdr) (f : S3) : EncodeArea.Statement (.shl h f) := encodeWord_fields _
theorem EncodeArea.shr (h : Hdr) (f : S3) : EncodeArea.Statement (.shr h f) := encodeWord_fields _
theorem EncodeArea.sar (h : Hdr) (f : S3) : EncodeArea.Statement (.sar h f) := encodeWord_fields _
theorem EncodeArea.rotl (h : Hdr) (f : S3) : EncodeArea.Statement (.rotl h f) := encodeWord_fields _
theorem EncodeArea.min (h : Hdr) (f : S3) : EncodeArea.Statement (.min h f) := encodeWord_fields _
theorem EncodeArea.max (h : Hdr) (f : S3) : EncodeArea.Statement (.max h f) := encodeWord_fields _
theorem EncodeArea.minu (h : Hdr) (f : S3) : EncodeArea.Statement (.minu h f) := encodeWord_fields _
theorem EncodeArea.maxu (h : Hdr) (f : S3) : EncodeArea.Statement (.maxu h f) := encodeWord_fields _
theorem EncodeArea.cmp (h : Hdr) (f : S3) : EncodeArea.Statement (.cmp h f) := encodeWord_fields _
theorem EncodeArea.sel (h : Hdr) (f : S3) : EncodeArea.Statement (.sel h f) := encodeWord_fields _
theorem EncodeArea.movi (h : Hdr) (f : SI) : EncodeArea.Statement (.movi h f) := encodeWord_fields _
theorem EncodeArea.moviZ (h : Hdr) (f : SI) : EncodeArea.Statement (.moviZ h f) := encodeWord_fields _
theorem EncodeArea.moviHi (h : Hdr) (f : SI) : EncodeArea.Statement (.moviHi h f) := encodeWord_fields _
theorem EncodeArea.movw (h : Hdr) (f : SW) : EncodeArea.Statement (.movw h f) := encodeWord_fields _
theorem EncodeArea.movwZ (h : Hdr) (f : SW) : EncodeArea.Statement (.movwZ h f) := encodeWord_fields _
theorem EncodeArea.lea (h : Hdr) (f : S3) : EncodeArea.Statement (.lea h f) := encodeWord_fields _
theorem EncodeArea.clz (h : Hdr) (f : S3) : EncodeArea.Statement (.clz h f) := encodeWord_fields _
theorem EncodeArea.ctz (h : Hdr) (f : S3) : EncodeArea.Statement (.ctz h f) := encodeWord_fields _
theorem EncodeArea.popc (h : Hdr) (f : S3) : EncodeArea.Statement (.popc h f) := encodeWord_fields _
theorem EncodeArea.bext (h : Hdr) (f : S3) : EncodeArea.Statement (.bext h f) := encodeWord_fields _
theorem EncodeArea.bins (h : Hdr) (f : S3) : EncodeArea.Statement (.bins h f) := encodeWord_fields _
theorem EncodeArea.bset (h : Hdr) (f : S3) : EncodeArea.Statement (.bset h f) := encodeWord_fields _
theorem EncodeArea.bclr (h : Hdr) (f : S3) : EncodeArea.Statement (.bclr h f) := encodeWord_fields _
theorem EncodeArea.mfs (h : Hdr) (f : SI) : EncodeArea.Statement (.mfs h f) := encodeWord_fields _
theorem EncodeArea.mts (h : Hdr) (f : SI) : EncodeArea.Statement (.mts h f) := encodeWord_fields _
theorem EncodeArea.spld (h : Hdr) (f : SI) : EncodeArea.Statement (.spld h f) := encodeWord_fields _
theorem EncodeArea.spst (h : Hdr) (f : SI) : EncodeArea.Statement (.spst h f) := encodeWord_fields _
theorem EncodeArea.pld (h : Hdr) (f : SI) : EncodeArea.Statement (.pld h f) := encodeWord_fields _
theorem EncodeArea.sld (h : Hdr) (f : SI) : EncodeArea.Statement (.sld h f) := encodeWord_fields _
theorem EncodeArea.sst (h : Hdr) (f : SI) : EncodeArea.Statement (.sst h f) := encodeWord_fields _
theorem EncodeArea.putx (h : Hdr) (f : S3) : EncodeArea.Statement (.putx h f) := encodeWord_fields _
theorem EncodeArea.getx (h : Hdr) (f : S3) : EncodeArea.Statement (.getx h f) := encodeWord_fields _
theorem EncodeArea.pbr (h : Hdr) (f : BrF) : EncodeArea.Statement (.pbr h f) := encodeWord_fields _
theorem EncodeArea.br (h : Hdr) (f : BrF) : EncodeArea.Statement (.br h f) := encodeWord_fields _
theorem EncodeArea.bro (h : Hdr) (f : BrF) : EncodeArea.Statement (.bro h f) := encodeWord_fields _
theorem EncodeArea.jmpl (h : Hdr) (f : BrF) : EncodeArea.Statement (.jmpl h f) := encodeWord_fields _
theorem EncodeArea.loop (h : Hdr) (f : BrF) : EncodeArea.Statement (.loop h f) := encodeWord_fields _
theorem EncodeArea.loopj (h : Hdr) (f : BrF) : EncodeArea.Statement (.loopj h f) := encodeWord_fields _
theorem EncodeArea.lbrk (h : Hdr) (f : BrF) : EncodeArea.Statement (.lbrk h f) := encodeWord_fields _
theorem EncodeArea.nop (h : Hdr) (f : SY) : EncodeArea.Statement (.nop h f) := encodeWord_fields _
theorem EncodeArea.taskend (h : Hdr) (f : SY) : EncodeArea.Statement (.taskend h f) := encodeWord_fields _
theorem EncodeArea.sopen (h : Hdr) (f : ST) : EncodeArea.Statement (.sopen h f) := encodeWord_fields _
theorem EncodeArea.sclose (h : Hdr) (f : ST) : EncodeArea.Statement (.sclose h f) := encodeWord_fields _
theorem EncodeArea.scloseAbort (h : Hdr) (f : ST) : EncodeArea.Statement (.scloseAbort h f) := encodeWord_fields _
theorem EncodeArea.sstat (h : Hdr) (f : ST) : EncodeArea.Statement (.sstat h f) := encodeWord_fields _
theorem EncodeArea.sfeed (h : Hdr) (f : ST) : EncodeArea.Statement (.sfeed h f) := encodeWord_fields _
theorem EncodeArea.sdrain (h : Hdr) (f : ST) : EncodeArea.Statement (.sdrain h f) := encodeWord_fields _
theorem EncodeArea.spref (h : Hdr) (f : ST) : EncodeArea.Statement (.spref h f) := encodeWord_fields _
theorem EncodeArea.xcopy (h : Hdr) (f : CM) : EncodeArea.Statement (.xcopy h f) := encodeWord_fields _
theorem EncodeArea.xfill (h : Hdr) (f : CM) : EncodeArea.Statement (.xfill h f) := encodeWord_fields _
theorem EncodeArea.xacc (h : Hdr) (f : CM) : EncodeArea.Statement (.xacc h f) := encodeWord_fields _
theorem EncodeArea.xfao (h : Hdr) (f : CM) : EncodeArea.Statement (.xfao h f) := encodeWord_fields _
theorem EncodeArea.xcas (h : Hdr) (f : CM) : EncodeArea.Statement (.xcas h f) := encodeWord_fields _
theorem EncodeArea.xgath (h : Hdr) (f : CM) : EncodeArea.Statement (.xgath h f) := encodeWord_fields _
theorem EncodeArea.xscat (h : Hdr) (f : CM) : EncodeArea.Statement (.xscat h f) := encodeWord_fields _
theorem EncodeArea.xcmo (h : Hdr) (f : CM) : EncodeArea.Statement (.xcmo h f) := encodeWord_fields _
theorem EncodeArea.xsig (h : Hdr) (f : CM) : EncodeArea.Statement (.xsig h f) := encodeWord_fields _
theorem EncodeArea.fence (h : Hdr) (f : SY) : EncodeArea.Statement (.fence h f) := encodeWord_fields _
theorem EncodeArea.ssig (h : Hdr) (f : SY) : EncodeArea.Statement (.ssig h f) := encodeWord_fields _
theorem EncodeArea.swait (h : Hdr) (f : SY) : EncodeArea.Statement (.swait h f) := encodeWord_fields _
theorem EncodeArea.sset (h : Hdr) (f : SY) : EncodeArea.Statement (.sset h f) := encodeWord_fields _
theorem EncodeArea.barm (h : Hdr) (f : SY) : EncodeArea.Statement (.barm h f) := encodeWord_fields _
theorem EncodeArea.bwait (h : Hdr) (f : SY) : EncodeArea.Statement (.bwait h f) := encodeWord_fields _
theorem EncodeArea.bwaitTile (h : Hdr) (f : SY) : EncodeArea.Statement (.bwaitTile h f) := encodeWord_fields _
theorem EncodeArea.btestTile (h : Hdr) (f : SY) : EncodeArea.Statement (.btestTile h f) := encodeWord_fields _
theorem EncodeArea.btestStat (h : Hdr) (f : SY) : EncodeArea.Statement (.btestStat h f) := encodeWord_fields _
theorem EncodeArea.btestCnt (h : Hdr) (f : SY) : EncodeArea.Statement (.btestCnt h f) := encodeWord_fields _
theorem EncodeArea.btestLate (h : Hdr) (f : SY) : EncodeArea.Statement (.btestLate h f) := encodeWord_fields _
theorem EncodeArea.brst (h : Hdr) (f : SY) : EncodeArea.Statement (.brst h f) := encodeWord_fields _
theorem EncodeArea.rwaitf (h : Hdr) (f : SY) : EncodeArea.Statement (.rwaitf h f) := encodeWord_fields _
theorem EncodeArea.rwaite (h : Hdr) (f : SY) : EncodeArea.Statement (.rwaite h f) := encodeWord_fields _
theorem EncodeArea.rclaim (h : Hdr) (f : SY) : EncodeArea.Statement (.rclaim h f) := encodeWord_fields _
theorem EncodeArea.rpub (h : Hdr) (f : SY) : EncodeArea.Statement (.rpub h f) := encodeWord_fields _
theorem EncodeArea.rpubInit (h : Hdr) (f : SY) : EncodeArea.Statement (.rpubInit h f) := encodeWord_fields _
theorem EncodeArea.rpubClose (h : Hdr) (f : SY) : EncodeArea.Statement (.rpubClose h f) := encodeWord_fields _
theorem EncodeArea.rcons (h : Hdr) (f : SY) : EncodeArea.Statement (.rcons h f) := encodeWord_fields _
theorem EncodeArea.rconsUpto (h : Hdr) (f : SY) : EncodeArea.Statement (.rconsUpto h f) := encodeWord_fields _
theorem EncodeArea.rconsPub (h : Hdr) (f : SY) : EncodeArea.Statement (.rconsPub h f) := encodeWord_fields _
theorem EncodeArea.rconsCons (h : Hdr) (f : SY) : EncodeArea.Statement (.rconsCons h f) := encodeWord_fields _
theorem EncodeArea.rconsClm (h : Hdr) (f : SY) : EncodeArea.Statement (.rconsClm h f) := encodeWord_fields _
theorem EncodeArea.rconsDrops (h : Hdr) (f : SY) : EncodeArea.Statement (.rconsDrops h f) := encodeWord_fields _
theorem EncodeArea.rconsDropb (h : Hdr) (f : SY) : EncodeArea.Statement (.rconsDropb h f) := encodeWord_fields _
theorem EncodeArea.qpush (h : Hdr) (f : CM) : EncodeArea.Statement (.qpush h f) := encodeWord_fields _
theorem EncodeArea.qpoll (h : Hdr) (f : CM) : EncodeArea.Statement (.qpoll h f) := encodeWord_fields _
theorem EncodeArea.tqpush (h : Hdr) (f : CM) : EncodeArea.Statement (.tqpush h f) := encodeWord_fields _
theorem EncodeArea.trap (h : Hdr) (f : SY) : EncodeArea.Statement (.trap h f) := encodeWord_fields _
theorem EncodeArea.svc (h : Hdr) (f : SY) : EncodeArea.Statement (.svc h f) := encodeWord_fields _
theorem EncodeArea.rett (h : Hdr) (f : SY) : EncodeArea.Statement (.rett h f) := encodeWord_fields _
theorem EncodeArea.rettAbort (h : Hdr) (f : SY) : EncodeArea.Statement (.rettAbort h f) := encodeWord_fields _
theorem EncodeArea.yield (h : Hdr) (f : SY) : EncodeArea.Statement (.yield h f) := encodeWord_fields _
theorem EncodeArea.csave (h : Hdr) (f : SY) : EncodeArea.Statement (.csave h f) := encodeWord_fields _
theorem EncodeArea.csaveEnd (h : Hdr) (f : SY) : EncodeArea.Statement (.csaveEnd h f) := encodeWord_fields _
theorem EncodeArea.crest (h : Hdr) (f : SY) : EncodeArea.Statement (.crest h f) := encodeWord_fields _
theorem EncodeArea.crestEnd (h : Hdr) (f : SY) : EncodeArea.Statement (.crestEnd h f) := encodeWord_fields _
theorem EncodeArea.idle (h : Hdr) (f : SY) : EncodeArea.Statement (.idle h f) := encodeWord_fields _
theorem EncodeArea.tlbinvPage (h : Hdr) (f : SY) : EncodeArea.Statement (.tlbinvPage h f) := encodeWord_fields _
theorem EncodeArea.tlbinvAsid (h : Hdr) (f : SY) : EncodeArea.Statement (.tlbinvAsid h f) := encodeWord_fields _
theorem EncodeArea.tlbinvAll (h : Hdr) (f : SY) : EncodeArea.Statement (.tlbinvAll h f) := encodeWord_fields _
theorem EncodeArea.tlbprobe (h : Hdr) (f : SY) : EncodeArea.Statement (.tlbprobe h f) := encodeWord_fields _
theorem EncodeArea.sealWord (h : Hdr) (f : SY) : EncodeArea.Statement (.sealWord h f) := encodeWord_fields _
theorem EncodeArea.sealWait (h : Hdr) (f : SY) : EncodeArea.Statement (.sealWait h f) := encodeWord_fields _
theorem EncodeArea.pmarkV (h : Hdr) (f : SY) : EncodeArea.Statement (.pmarkV h f) := encodeWord_fields _
theorem EncodeArea.pmarkA (h : Hdr) (f : SY) : EncodeArea.Statement (.pmarkA h f) := encodeWord_fields _
theorem EncodeArea.pclrV (h : Hdr) (f : SY) : EncodeArea.Statement (.pclrV h f) := encodeWord_fields _
theorem EncodeArea.pclrA (h : Hdr) (f : SY) : EncodeArea.Statement (.pclrA h f) := encodeWord_fields _
theorem EncodeArea.vadd (h : Hdr) (f : VT) : EncodeArea.Statement (.vadd h f) := encodeWord_fields _
theorem EncodeArea.vsub (h : Hdr) (f : VT) : EncodeArea.Statement (.vsub h f) := encodeWord_fields _
theorem EncodeArea.vmul (h : Hdr) (f : VT) : EncodeArea.Statement (.vmul h f) := encodeWord_fields _
theorem EncodeArea.vfma (h : Hdr) (f : VT) : EncodeArea.Statement (.vfma h f) := encodeWord_fields _
theorem EncodeArea.vfms (h : Hdr) (f : VT) : EncodeArea.Statement (.vfms h f) := encodeWord_fields _
theorem EncodeArea.vmin (h : Hdr) (f : VT) : EncodeArea.Statement (.vmin h f) := encodeWord_fields _
theorem EncodeArea.vmax (h : Hdr) (f : VT) : EncodeArea.Statement (.vmax h f) := encodeWord_fields _
theorem EncodeArea.vabs (h : Hdr) (f : VT) : EncodeArea.Statement (.vabs h f) := encodeWord_fields _
theorem EncodeArea.vneg (h : Hdr) (f : VT) : EncodeArea.Statement (.vneg h f) := encodeWord_fields _
theorem EncodeArea.vand (h : Hdr) (f : VT) : EncodeArea.Statement (.vand h f) := encodeWord_fields _
theorem EncodeArea.vor (h : Hdr) (f : VT) : EncodeArea.Statement (.vor h f) := encodeWord_fields _
theorem EncodeArea.vxor (h : Hdr) (f : VT) : EncodeArea.Statement (.vxor h f) := encodeWord_fields _
theorem EncodeArea.vnot (h : Hdr) (f : VT) : EncodeArea.Statement (.vnot h f) := encodeWord_fields _
theorem EncodeArea.vshl (h : Hdr) (f : VT) : EncodeArea.Statement (.vshl h f) := encodeWord_fields _
theorem EncodeArea.vshr (h : Hdr) (f : VT) : EncodeArea.Statement (.vshr h f) := encodeWord_fields _
theorem EncodeArea.vsar (h : Hdr) (f : VT) : EncodeArea.Statement (.vsar h f) := encodeWord_fields _
theorem EncodeArea.vcmp (h : Hdr) (f : VT) : EncodeArea.Statement (.vcmp h f) := encodeWord_fields _
theorem EncodeArea.vsel (h : Hdr) (f : VM) : EncodeArea.Statement (.vsel h f) := encodeWord_fields _
theorem EncodeArea.vmov (h : Hdr) (f : VT) : EncodeArea.Statement (.vmov h f) := encodeWord_fields _
theorem EncodeArea.vcvt (h : Hdr) (f : VT) : EncodeArea.Statement (.vcvt h f) := encodeWord_fields _
theorem EncodeArea.vrqs (h : Hdr) (f : VT) : EncodeArea.Statement (.vrqs h f) := encodeWord_fields _
theorem EncodeArea.vmaci (h : Hdr) (f : VT) : EncodeArea.Statement (.vmaci h f) := encodeWord_fields _
theorem EncodeArea.vdot4 (h : Hdr) (f : VT) : EncodeArea.Statement (.vdot4 h f) := encodeWord_fields _
theorem EncodeArea.vsfu (h : Hdr) (f : VT) : EncodeArea.Statement (.vsfu h f) := encodeWord_fields _
theorem EncodeArea.vrotr (h : Hdr) (f : VT) : EncodeArea.Statement (.vrotr h f) := encodeWord_fields _
theorem EncodeArea.vrotc (h : Hdr) (f : VT) : EncodeArea.Statement (.vrotc h f) := encodeWord_fields _
theorem EncodeArea.vbcr (h : Hdr) (f : VT) : EncodeArea.Statement (.vbcr h f) := encodeWord_fields _
theorem EncodeArea.vbcc (h : Hdr) (f : VT) : EncodeArea.Statement (.vbcc h f) := encodeWord_fields _
theorem EncodeArea.vredr (h : Hdr) (f : VT) : EncodeArea.Statement (.vredr h f) := encodeWord_fields _
theorem EncodeArea.vredc (h : Hdr) (f : VT) : EncodeArea.Statement (.vredc h f) := encodeWord_fields _
theorem EncodeArea.vtrn (h : Hdr) (f : VT) : EncodeArea.Statement (.vtrn h f) := encodeWord_fields _
theorem EncodeArea.vperm (h : Hdr) (f : VT) : EncodeArea.Statement (.vperm h f) := encodeWord_fields _
theorem EncodeArea.zip2 (h : Hdr) (f : VT) : EncodeArea.Statement (.zip2 h f) := encodeWord_fields _
theorem EncodeArea.zip3 (h : Hdr) (f : VT) : EncodeArea.Statement (.zip3 h f) := encodeWord_fields _
theorem EncodeArea.zip4 (h : Hdr) (f : VT) : EncodeArea.Statement (.zip4 h f) := encodeWord_fields _
theorem EncodeArea.unzip2 (h : Hdr) (f : VT) : EncodeArea.Statement (.unzip2 h f) := encodeWord_fields _
theorem EncodeArea.unzip3 (h : Hdr) (f : VT) : EncodeArea.Statement (.unzip3 h f) := encodeWord_fields _
theorem EncodeArea.unzip4 (h : Hdr) (f : VT) : EncodeArea.Statement (.unzip4 h f) := encodeWord_fields _
theorem EncodeArea.cpush (h : Hdr) (f : VM) : EncodeArea.Statement (.cpush h f) := encodeWord_fields _
theorem EncodeArea.cpop (h : Hdr) (f : VM) : EncodeArea.Statement (.cpop h f) := encodeWord_fields _
theorem EncodeArea.vlds (h : Hdr) (f : VT) : EncodeArea.Statement (.vlds h f) := encodeWord_fields _
theorem EncodeArea.vsts (h : Hdr) (f : VT) : EncodeArea.Statement (.vsts h f) := encodeWord_fields _
theorem EncodeArea.vpop (h : Hdr) (f : VT) : EncodeArea.Statement (.vpop h f) := encodeWord_fields _
theorem EncodeArea.vpopSkip (h : Hdr) (f : VT) : EncodeArea.Statement (.vpopSkip h f) := encodeWord_fields _
theorem EncodeArea.vpchk (h : Hdr) (f : VT) : EncodeArea.Statement (.vpchk h f) := encodeWord_fields _
theorem EncodeArea.viota (h : Hdr) (f : VM) : EncodeArea.Statement (.viota h f) := encodeWord_fields _
theorem EncodeArea.vsplat (h : Hdr) (f : VT) : EncodeArea.Statement (.vsplat h f) := encodeWord_fields _
theorem EncodeArea.mcfg (h : Hdr) (f : MX) : EncodeArea.Statement (.mcfg h f) := encodeWord_fields _
theorem EncodeArea.mldw (h : Hdr) (f : MX) : EncodeArea.Statement (.mldw h f) := encodeWord_fields _
theorem EncodeArea.mldwq (h : Hdr) (f : MX) : EncodeArea.Statement (.mldwq h f) := encodeWord_fields _
theorem EncodeArea.mswap (h : Hdr) (f : MX) : EncodeArea.Statement (.mswap h f) := encodeWord_fields _
theorem EncodeArea.mstr (h : Hdr) (f : MX) : EncodeArea.Statement (.mstr h f) := encodeWord_fields _
theorem EncodeArea.mstrq (h : Hdr) (f : MX) : EncodeArea.Statement (.mstrq h f) := encodeWord_fields _
theorem EncodeArea.mmv (h : Hdr) (f : MX) : EncodeArea.Statement (.mmv h f) := encodeWord_fields _
theorem EncodeArea.mspm (h : Hdr) (f : MX) : EncodeArea.Statement (.mspm h f) := encodeWord_fields _
theorem EncodeArea.macz (h : Hdr) (f : MX) : EncodeArea.Statement (.macz h f) := encodeWord_fields _
theorem EncodeArea.macrd (h : Hdr) (f : MX) : EncodeArea.Statement (.macrd h f) := encodeWord_fields _
theorem EncodeArea.macst (h : Hdr) (f : MX) : EncodeArea.Statement (.macst h f) := encodeWord_fields _
theorem EncodeArea.macld (h : Hdr) (f : MX) : EncodeArea.Statement (.macld h f) := encodeWord_fields _
theorem EncodeArea.mfin (h : Hdr) (f : MX) : EncodeArea.Statement (.mfin h f) := encodeWord_fields _
theorem EncodeArea.halt (f : SeqW) : EncodeArea.Statement (.halt f) := encodeWord_fields _
theorem EncodeArea.mov (f : SeqW) : EncodeArea.Statement (.mov f) := encodeWord_fields _
theorem EncodeArea.seqMovi (f : SeqW) : EncodeArea.Statement (.seqMovi f) := encodeWord_fields _
theorem EncodeArea.seqAdd (f : SeqW) : EncodeArea.Statement (.seqAdd f) := encodeWord_fields _
theorem EncodeArea.seqSub (f : SeqW) : EncodeArea.Statement (.seqSub f) := encodeWord_fields _
theorem EncodeArea.seqAnd (f : SeqW) : EncodeArea.Statement (.seqAnd f) := encodeWord_fields _
theorem EncodeArea.seqOr (f : SeqW) : EncodeArea.Statement (.seqOr f) := encodeWord_fields _
theorem EncodeArea.seqXor (f : SeqW) : EncodeArea.Statement (.seqXor f) := encodeWord_fields _
theorem EncodeArea.seqShl (f : SeqW) : EncodeArea.Statement (.seqShl f) := encodeWord_fields _
theorem EncodeArea.seqShr (f : SeqW) : EncodeArea.Statement (.seqShr f) := encodeWord_fields _
theorem EncodeArea.seqCmp (f : SeqW) : EncodeArea.Statement (.seqCmp f) := encodeWord_fields _
theorem EncodeArea.seqBr (f : SeqW) : EncodeArea.Statement (.seqBr f) := encodeWord_fields _
theorem EncodeArea.brcNz (f : SeqW) : EncodeArea.Statement (.brcNz f) := encodeWord_fields _
theorem EncodeArea.brcZ (f : SeqW) : EncodeArea.Statement (.brcZ f) := encodeWord_fields _
theorem EncodeArea.call (f : SeqW) : EncodeArea.Statement (.call f) := encodeWord_fields _
theorem EncodeArea.ret (f : SeqW) : EncodeArea.Statement (.ret f) := encodeWord_fields _
theorem EncodeArea.ldx (f : SeqW) : EncodeArea.Statement (.ldx f) := encodeWord_fields _
theorem EncodeArea.stx (f : SeqW) : EncodeArea.Statement (.stx f) := encodeWord_fields _
theorem EncodeArea.evwait (f : SeqW) : EncodeArea.Statement (.evwait f) := encodeWord_fields _
theorem EncodeArea.evpop (f : SeqW) : EncodeArea.Statement (.evpop f) := encodeWord_fields _
theorem EncodeArea.cmdpop (f : SeqW) : EncodeArea.Statement (.cmdpop f) := encodeWord_fields _
theorem EncodeArea.sems (f : SeqW) : EncodeArea.Statement (.sems f) := encodeWord_fields _
theorem EncodeArea.semsDone (f : SeqW) : EncodeArea.Statement (.semsDone f) := encodeWord_fields _
theorem EncodeArea.semw (f : SeqW) : EncodeArea.Statement (.semw f) := encodeWord_fields _
theorem EncodeArea.dline (f : SeqW) : EncodeArea.Statement (.dline f) := encodeWord_fields _
theorem EncodeArea.flowOpen (f : SeqW) : EncodeArea.Statement (.flowOpen f) := encodeWord_fields _
theorem EncodeArea.flowClose (f : SeqW) : EncodeArea.Statement (.flowClose f) := encodeWord_fields _
theorem EncodeArea.flowStat (f : SeqW) : EncodeArea.Statement (.flowStat f) := encodeWord_fields _
theorem EncodeArea.put (f : SeqW) : EncodeArea.Statement (.put f) := encodeWord_fields _
theorem EncodeArea.putm (f : SeqW) : EncodeArea.Statement (.putm f) := encodeWord_fields _
theorem EncodeArea.get (f : SeqW) : EncodeArea.Statement (.get f) := encodeWord_fields _
theorem EncodeArea.atom (f : SeqW) : EncodeArea.Statement (.atom f) := encodeWord_fields _
theorem EncodeArea.redc (f : SeqW) : EncodeArea.Statement (.redc f) := encodeWord_fields _
theorem EncodeArea.retx (f : SeqW) : EncodeArea.Statement (.retx f) := encodeWord_fields _
theorem EncodeArea.xplan (f : SeqW) : EncodeArea.Statement (.xplan f) := encodeWord_fields _
theorem EncodeArea.xstep (f : SeqW) : EncodeArea.Statement (.xstep f) := encodeWord_fields _
theorem EncodeArea.keyld (f : SeqW) : EncodeArea.Statement (.keyld f) := encodeWord_fields _
theorem EncodeArea.keysw (f : SeqW) : EncodeArea.Statement (.keysw f) := encodeWord_fields _
theorem EncodeArea.sectionHeader (f : SecHdr) : EncodeArea.Statement (.sectionHeader f) := encodeWord_fields _
theorem EncodeArea.bankWakeDone (core : CoreId) (bank : Nat) : EncodeArea.Statement (.bankWakeDone core bank) := encodeWord_fields _
theorem EncodeArea.commitPointTaken (core : CoreId) : EncodeArea.Statement (.commitPointTaken core) := encodeWord_fields _
theorem EncodeArea.commitPointSealed (core : CoreId) : EncodeArea.Statement (.commitPointSealed core) := encodeWord_fields _
theorem EncodeArea.heldEffectRelease (core : CoreId) : EncodeArea.Statement (.heldEffectRelease core) := encodeWord_fields _
theorem EncodeArea.strike (cores : List CoreId) : EncodeArea.Statement (.strike cores) := encodeWord_fields _
theorem EncodeArea.strikeReport (core : CoreId) : EncodeArea.Statement (.strikeReport core) := encodeWord_fields _
theorem EncodeArea.rollbackComplete (core : CoreId) : EncodeArea.Statement (.rollbackComplete core) := encodeWord_fields _
theorem EncodeArea.iterationRecoveryRollback (core : CoreId) : EncodeArea.Statement (.iterationRecoveryRollback core) := encodeWord_fields _
theorem EncodeArea.doorbellWrite (ctx ring : Nat) : EncodeArea.Statement (.doorbellWrite ctx ring) := encodeWord_fields _
theorem EncodeArea.launchBundle (src : CmdSrc) : EncodeArea.Statement (.launchBundle src) := encodeWord_fields _
theorem EncodeArea.loadImage (src : CmdSrc) : EncodeArea.Statement (.loadImage src) := encodeWord_fields _
theorem EncodeArea.unloadImage (src : CmdSrc) : EncodeArea.Statement (.unloadImage src) := encodeWord_fields _
theorem EncodeArea.bundleActivate (bundle : Nat) : EncodeArea.Statement (.bundleActivate bundle) := encodeWord_fields _
theorem EncodeArea.walkerBind (die : Nat) : EncodeArea.Statement (.walkerBind die) := encodeWord_fields _
theorem EncodeArea.tileTaskRetire (core : CoreId) : EncodeArea.Statement (.tileTaskRetire core) := encodeWord_fields _
theorem EncodeArea.bundleDone (bundle : Nat) : EncodeArea.Statement (.bundleDone bundle) := encodeWord_fields _
theorem EncodeArea.recordPromotion (bundle : Nat) : EncodeArea.Statement (.recordPromotion bundle) := encodeWord_fields _
theorem EncodeArea.expressWindow (die : Nat) : EncodeArea.Statement (.expressWindow die) := encodeWord_fields _
theorem EncodeArea.auditReplayDone (core : CoreId) : EncodeArea.Statement (.auditReplayDone core) := encodeWord_fields _
theorem EncodeArea.auditReplayAbandon (core : CoreId) : EncodeArea.Statement (.auditReplayAbandon core) := encodeWord_fields _
theorem EncodeArea.walkerPreemptRequest (bundle : Nat) : EncodeArea.Statement (.walkerPreemptRequest bundle) := encodeWord_fields _
theorem EncodeArea.preemptDrainEntry (core : CoreId) : EncodeArea.Statement (.preemptDrainEntry core) := encodeWord_fields _
theorem EncodeArea.preemptStallTimeout (core : CoreId) : EncodeArea.Statement (.preemptStallTimeout core) := encodeWord_fields _
theorem EncodeArea.preemptComplete (core : CoreId) : EncodeArea.Statement (.preemptComplete core) := encodeWord_fields _
theorem EncodeArea.refillStart (core : CoreId) : EncodeArea.Statement (.refillStart core) := encodeWord_fields _
theorem EncodeArea.svcAnswer (core : CoreId) (th : Thread) (status value : BitVec 64) : EncodeArea.Statement (.svcAnswer core th status value) := encodeWord_fields _
theorem EncodeArea.translationDone (core : CoreId) (obj : ObjRef) (va : BitVec 64) : EncodeArea.Statement (.translationDone core obj va) := encodeWord_fields _
theorem EncodeArea.streamSectorArrival (core : CoreId) (str pos : Nat) : EncodeArea.Statement (.streamSectorArrival core str pos) := encodeWord_fields _
theorem EncodeArea.xCommandStart (core : CoreId) : EncodeArea.Statement (.xCommandStart core) := encodeWord_fields _
theorem EncodeArea.copySectorDone (core : CoreId) (cmd sector : Nat) : EncodeArea.Statement (.copySectorDone core cmd sector) := encodeWord_fields _
theorem EncodeArea.waitPoll (core : CoreId) (th : Thread) : EncodeArea.Statement (.waitPoll core th) := encodeWord_fields _
theorem EncodeArea.waitTimeout (core : CoreId) (th : Thread) : EncodeArea.Statement (.waitTimeout core th) := encodeWord_fields _
theorem EncodeArea.barrierDeadline (core : CoreId) (bar : Nat) : EncodeArea.Statement (.barrierDeadline core bar) := encodeWord_fields _
theorem EncodeArea.data (port : Nat) (f : Flit) : EncodeArea.Statement (.data port f) := encodeWord_fields _
theorem EncodeArea.ack (port : Nat) (p : Packet) : EncodeArea.Statement (.ack port p) := encodeWord_fields _
theorem EncodeArea.sack (port : Nat) (p : Packet) : EncodeArea.Statement (.sack port p) := encodeWord_fields _
theorem EncodeArea.trimn (port : Nat) (p : Packet) : EncodeArea.Statement (.trimn port p) := encodeWord_fields _
theorem EncodeArea.authn (port : Nat) (p : Packet) : EncodeArea.Statement (.authn port p) := encodeWord_fields _
theorem EncodeArea.marker (port : Nat) (p : Packet) : EncodeArea.Statement (.marker port p) := encodeWord_fields _
theorem EncodeArea.markack (port : Nat) (p : Packet) : EncodeArea.Statement (.markack port p) := encodeWord_fields _
theorem EncodeArea.rload (port : Nat) (p : Packet) : EncodeArea.Statement (.rload port p) := encodeWord_fields _
theorem EncodeArea.ratom (port : Nat) (p : Packet) : EncodeArea.Statement (.ratom port p) := encodeWord_fields _
theorem EncodeArea.credit (port : Nat) (p : Packet) : EncodeArea.Statement (.credit port p) := encodeWord_fields _
theorem EncodeArea.seqmsg (port : Nat) (p : Packet) : EncodeArea.Statement (.seqmsg port p) := encodeWord_fields _
theorem EncodeArea.flitTransmit (src : TxSrc) : EncodeArea.Statement (.flitTransmit src) := encodeWord_fields _
theorem EncodeArea.retransmitTimeout (core : CoreId) (flow fsn : Nat) : EncodeArea.Statement (.retransmitTimeout core flow fsn) := encodeWord_fields _
theorem EncodeArea.alignmentTimeout (port : Nat) : EncodeArea.Statement (.alignmentTimeout port) := encodeWord_fields _
theorem EncodeArea.transportEventPost (core : CoreId) : EncodeArea.Statement (.transportEventPost core) := encodeWord_fields _
theorem EncodeArea.sequencerStart (core : CoreId) : EncodeArea.Statement (.sequencerStart core) := encodeWord_fields _
theorem EncodeArea.evwaitTimeout (core : CoreId) : EncodeArea.Statement (.evwaitTimeout core) := encodeWord_fields _
theorem EncodeArea.dlineDeadline (core : CoreId) : EncodeArea.Statement (.dlineDeadline core) := encodeWord_fields _
theorem EncodeArea.laneLoss (port lost : Nat) : EncodeArea.Statement (.laneLoss port lost) := encodeWord_fields _
theorem EncodeArea.blockRetire (port : Nat) : EncodeArea.Statement (.blockRetire port) := encodeWord_fields _
theorem EncodeArea.trainingDone (port passing : Nat) : EncodeArea.Statement (.trainingDone port passing) := encodeWord_fields _
theorem EncodeArea.trainingTimeout (port : Nat) : EncodeArea.Statement (.trainingTimeout port) := encodeWord_fields _
theorem EncodeArea.linkDrainDone (port : Nat) : EncodeArea.Statement (.linkDrainDone port) := encodeWord_fields _
theorem EncodeArea.faultRecordPost (die : Nat) : EncodeArea.Statement (.faultRecordPost die) := encodeWord_fields _
theorem EncodeArea.resolveReplay (die : Nat) (seq : BitVec 32) : EncodeArea.Statement (.resolveReplay die seq) := encodeWord_fields _
theorem EncodeArea.resolveFail (die : Nat) (seq : BitVec 32) (act : BitVec 8) : EncodeArea.Statement (.resolveFail die seq act) := encodeWord_fields _
theorem EncodeArea.poolLinkDown (cxl : Nat) : EncodeArea.Statement (.poolLinkDown cxl) := encodeWord_fields _
theorem EncodeArea.regionFailureReport (region : Nat) : EncodeArea.Statement (.regionFailureReport region) := encodeWord_fields _
theorem EncodeArea.biSnoop (line : Nat) (toShared : Bool) : EncodeArea.Statement (.biSnoop line toShared) := encodeWord_fields _
theorem EncodeArea.hostAtomicCompletion (core : CoreId) (cmd : Nat) (c : AtomicCpl) : EncodeArea.Statement (.hostAtomicCompletion core cmd c) := encodeWord_fields _
theorem EncodeArea.atomicCompletionTimeout (core : CoreId) (cmd : Nat) (performed : Bool) : EncodeArea.Statement (.atomicCompletionTimeout core cmd performed) := encodeWord_fields _
theorem EncodeArea.pxclaim (seq : BitVec 64) : EncodeArea.Statement (.pxclaim seq) := encodeWord_fields _
theorem EncodeArea.pxdone (seq : BitVec 64) : EncodeArea.Statement (.pxdone seq) := encodeWord_fields _
theorem EncodeArea.proxyClaimTimeout (seq : BitVec 64) : EncodeArea.Statement (.proxyClaimTimeout seq) := encodeWord_fields _
theorem EncodeArea.bar4Write (off : Nat) (bytes : List Byte) : EncodeArea.Statement (.bar4Write off bytes) := encodeWord_fields _
theorem EncodeArea.bar4Read (off len : Nat) : EncodeArea.Statement (.bar4Read off len) := encodeWord_fields _
theorem EncodeArea.registerWrite (bar off size : Nat) (value : BitVec 64) : EncodeArea.Statement (.registerWrite bar off size value) := encodeWord_fields _
theorem EncodeArea.build (c : Cmd) : EncodeArea.Statement (.build c) := encodeWord_fields _
theorem EncodeArea.reside (c : Cmd) : EncodeArea.Statement (.reside c) := encodeWord_fields _
theorem EncodeArea.clear (c : Cmd) : EncodeArea.Statement (.clear c) := encodeWord_fields _
theorem EncodeArea.teardown (c : Cmd) : EncodeArea.Statement (.teardown c) := encodeWord_fields _
theorem EncodeArea.teardownComplete (ctx : Nat) : EncodeArea.Statement (.teardownComplete ctx) := encodeWord_fields _
theorem EncodeArea.preempt (c : Cmd) : EncodeArea.Statement (.preempt c) := encodeWord_fields _
theorem EncodeArea.inval (c : Cmd) : EncodeArea.Statement (.inval c) := encodeWord_fields _
theorem EncodeArea.linkEnable (c : Cmd) : EncodeArea.Statement (.linkEnable c) := encodeWord_fields _
theorem EncodeArea.linkDrain (c : Cmd) : EncodeArea.Statement (.linkDrain c) := encodeWord_fields _
theorem EncodeArea.linkRetrain (c : Cmd) : EncodeArea.Statement (.linkRetrain c) := encodeWord_fields _
theorem EncodeArea.linkDisable (c : Cmd) : EncodeArea.Statement (.linkDisable c) := encodeWord_fields _
theorem EncodeArea.regionFence (c : Cmd) : EncodeArea.Statement (.regionFence c) := encodeWord_fields _
theorem EncodeArea.regionOnline (c : Cmd) : EncodeArea.Statement (.regionOnline c) := encodeWord_fields _
theorem EncodeArea.groupDefine (c : Cmd) : EncodeArea.Statement (.groupDefine c) := encodeWord_fields _
theorem EncodeArea.groupJoin (c : Cmd) : EncodeArea.Statement (.groupJoin c) := encodeWord_fields _
theorem EncodeArea.groupActivate (c : Cmd) : EncodeArea.Statement (.groupActivate c) := encodeWord_fields _
theorem EncodeArea.groupResume (c : Cmd) : EncodeArea.Statement (.groupResume c) := encodeWord_fields _
theorem EncodeArea.groupSuspend (c : Cmd) : EncodeArea.Statement (.groupSuspend c) := encodeWord_fields _
theorem EncodeArea.groupDissolve (c : Cmd) : EncodeArea.Statement (.groupDissolve c) := encodeWord_fields _
theorem EncodeArea.attest (c : Cmd) : EncodeArea.Statement (.attest c) := encodeWord_fields _
theorem EncodeArea.hostRingEnable (ctx ring : Nat) : EncodeArea.Statement (.hostRingEnable ctx ring) := encodeWord_fields _
theorem EncodeArea.hostRingDisable (ctx ring : Nat) : EncodeArea.Statement (.hostRingDisable ctx ring) := encodeWord_fields _
theorem EncodeArea.monitorClear (mon : Nat) : EncodeArea.Statement (.monitorClear mon) := encodeWord_fields _
theorem EncodeArea.monitorSample (mon value : Nat) : EncodeArea.Statement (.monitorSample mon value) := encodeWord_fields _
theorem EncodeArea.frz : EncodeArea.Statement (.frz) := encodeWord_fields _
theorem EncodeArea.freezeN : EncodeArea.Statement (.freezeN) := encodeWord_fields _
theorem EncodeArea.scandata : EncodeArea.Statement (.scandata) := encodeWord_fields _
theorem EncodeArea.warmResetRequest : EncodeArea.Statement (.warmResetRequest) := encodeWord_fields _
theorem EncodeArea.wrstN : EncodeArea.Statement (.wrstN) := encodeWord_fields _
theorem EncodeArea.hotReset : EncodeArea.Statement (.hotReset) := encodeWord_fields _
theorem EncodeArea.secondaryBusReset : EncodeArea.Statement (.secondaryBusReset) := encodeWord_fields _
theorem EncodeArea.fundamentalReset : EncodeArea.Statement (.fundamentalReset) := encodeWord_fields _
theorem EncodeArea.powerOn : EncodeArea.Statement (.powerOn) := encodeWord_fields _
theorem EncodeArea.bootWaitfw (pass : BitVec 8) : EncodeArea.Statement (.bootWaitfw pass) := encodeWord_fields _
theorem EncodeArea.firmwareCheck (ok : Bool) : EncodeArea.Statement (.firmwareCheck ok) := encodeWord_fields _
theorem EncodeArea.poolLinkUp (cxl : Nat) : EncodeArea.Statement (.poolLinkUp cxl) := encodeWord_fields _
theorem EncodeArea.hostReadTimeout (core : CoreId) (obj : ObjRef) (pos : Nat) : EncodeArea.Statement (.hostReadTimeout core obj pos) := encodeWord_fields _
theorem EncodeArea.uncorrectableError (place : ErrPlace) : EncodeArea.Statement (.uncorrectableError place) := encodeWord_fields _
theorem EncodeArea.throttling (on : Bool) : EncodeArea.Statement (.throttling on) := encodeWord_fields _
theorem EncodeArea.planeLoadDone (core : CoreId) (arr : Nat) : EncodeArea.Statement (.planeLoadDone core arr) := encodeWord_fields _
theorem EncodeArea.leaseRelease (core : CoreId) : EncodeArea.Statement (.leaseRelease core) := encodeWord_fields _
theorem EncodeArea.readModifyWriteDone (core : CoreId) (cmd unit : Nat) : EncodeArea.Statement (.readModifyWriteDone core cmd unit) := encodeWord_fields _
theorem EncodeArea.poolWriteAck (line : Nat) : EncodeArea.Statement (.poolWriteAck line) := encodeWord_fields _
theorem EncodeArea.flushReadCompletion (core : CoreId) : EncodeArea.Statement (.flushReadCompletion core) := encodeWord_fields _

end Sys2Proof.Laws
end

