-- ==== Sys2Proof/Laws/State.lean ====
section
/-! SUPPORT. What each update of the state leaves of each field: one lemma per field and update. -/

namespace Sys2Proof.Laws

open Sys2Proof Sys2Proof.Machine

variable (s : State) (c : Core) (a : Arch) (e : Eng) (k : CoreId) (t u : Thread)

/-! ### The whole state -/

@[simp] theorem bumpFree_now : s.bumpFree.now = s.now := rfl
@[simp] theorem bumpFree_agenda : s.bumpFree.agenda = s.agenda := rfl
@[simp] theorem bumpFree_cur : s.bumpFree.cur = s.cur := rfl
@[simp] theorem bumpFree_phase : s.bumpFree.phase = s.phase := rfl
@[simp] theorem bumpFree_free : s.bumpFree.free = s.free + 1 := rfl
@[simp] theorem bumpFree_irqs : s.bumpFree.irqs = s.irqs := rfl
@[simp] theorem bumpFree_wire : s.bumpFree.wire = s.wire := rfl
@[simp] theorem bumpFree_resp : s.bumpFree.resp = s.resp := rfl
@[simp] theorem bumpFree_dev : s.bumpFree.dev = s.dev := rfl
@[simp] theorem bumpFree_cores : s.bumpFree.cores = s.cores := rfl

@[simp] theorem modDev_now (f : Dev → Dev) : (s.modDev f).now = s.now := rfl
@[simp] theorem modDev_agenda (f : Dev → Dev) : (s.modDev f).agenda = s.agenda := rfl
@[simp] theorem modDev_cur (f : Dev → Dev) : (s.modDev f).cur = s.cur := rfl
@[simp] theorem modDev_phase (f : Dev → Dev) : (s.modDev f).phase = s.phase := rfl
@[simp] theorem modDev_free (f : Dev → Dev) : (s.modDev f).free = s.free := rfl
@[simp] theorem modDev_irqs (f : Dev → Dev) : (s.modDev f).irqs = s.irqs := rfl
@[simp] theorem modDev_wire (f : Dev → Dev) : (s.modDev f).wire = s.wire := rfl
@[simp] theorem modDev_resp (f : Dev → Dev) : (s.modDev f).resp = s.resp := rfl
@[simp] theorem modDev_dev (f : Dev → Dev) : (s.modDev f).dev = f s.dev := rfl
@[simp] theorem modDev_cores (f : Dev → Dev) : (s.modDev f).cores = s.cores := rfl

@[simp] theorem setCore_now : (s.setCore k c).now = s.now := rfl
@[simp] theorem setCore_agenda : (s.setCore k c).agenda = s.agenda := rfl
@[simp] theorem setCore_cur : (s.setCore k c).cur = s.cur := rfl
@[simp] theorem setCore_phase : (s.setCore k c).phase = s.phase := rfl
@[simp] theorem setCore_free : (s.setCore k c).free = s.free := rfl
@[simp] theorem setCore_irqs : (s.setCore k c).irqs = s.irqs := rfl
@[simp] theorem setCore_wire : (s.setCore k c).wire = s.wire := rfl
@[simp] theorem setCore_resp : (s.setCore k c).resp = s.resp := rfl
@[simp] theorem setCore_dev : (s.setCore k c).dev = s.dev := rfl
@[simp] theorem setCore_cores : (s.setCore k c).cores = s.cores.set k c := rfl

@[simp] theorem modCore_now (f : Core → Core) : (s.modCore k f).now = s.now := rfl
@[simp] theorem modCore_agenda (f : Core → Core) : (s.modCore k f).agenda = s.agenda := rfl
@[simp] theorem modCore_cur (f : Core → Core) : (s.modCore k f).cur = s.cur := rfl
@[simp] theorem modCore_phase (f : Core → Core) : (s.modCore k f).phase = s.phase := rfl
@[simp] theorem modCore_free (f : Core → Core) : (s.modCore k f).free = s.free := rfl
@[simp] theorem modCore_irqs (f : Core → Core) : (s.modCore k f).irqs = s.irqs := rfl
@[simp] theorem modCore_wire (f : Core → Core) : (s.modCore k f).wire = s.wire := rfl
@[simp] theorem modCore_resp (f : Core → Core) : (s.modCore k f).resp = s.resp := rfl
@[simp] theorem modCore_dev (f : Core → Core) : (s.modCore k f).dev = s.dev := rfl

@[simp] theorem modHere_now (f : Core → Core) : (s.modHere f).now = s.now := rfl
@[simp] theorem modHere_agenda (f : Core → Core) : (s.modHere f).agenda = s.agenda := rfl
@[simp] theorem modHere_cur (f : Core → Core) : (s.modHere f).cur = s.cur := rfl
@[simp] theorem modHere_phase (f : Core → Core) : (s.modHere f).phase = s.phase := rfl
@[simp] theorem modHere_free (f : Core → Core) : (s.modHere f).free = s.free := rfl
@[simp] theorem modHere_irqs (f : Core → Core) : (s.modHere f).irqs = s.irqs := rfl
@[simp] theorem modHere_wire (f : Core → Core) : (s.modHere f).wire = s.wire := rfl
@[simp] theorem modHere_resp (f : Core → Core) : (s.modHere f).resp = s.resp := rfl
@[simp] theorem modHere_dev (f : Core → Core) : (s.modHere f).dev = s.dev := rfl

@[simp] theorem modArch_now (f : Arch → Arch) : (s.modArch f).now = s.now := rfl
@[simp] theorem modArch_agenda (f : Arch → Arch) : (s.modArch f).agenda = s.agenda := rfl
@[simp] theorem modArch_cur (f : Arch → Arch) : (s.modArch f).cur = s.cur := rfl
@[simp] theorem modArch_phase (f : Arch → Arch) : (s.modArch f).phase = s.phase := rfl
@[simp] theorem modArch_free (f : Arch → Arch) : (s.modArch f).free = s.free := rfl
@[simp] theorem modArch_irqs (f : Arch → Arch) : (s.modArch f).irqs = s.irqs := rfl
@[simp] theorem modArch_wire (f : Arch → Arch) : (s.modArch f).wire = s.wire := rfl
@[simp] theorem modArch_resp (f : Arch → Arch) : (s.modArch f).resp = s.resp := rfl
@[simp] theorem modArch_dev (f : Arch → Arch) : (s.modArch f).dev = s.dev := rfl

@[simp] theorem modEng_now (f : Eng → Eng) : (s.modEng f).now = s.now := rfl
@[simp] theorem modEng_agenda (f : Eng → Eng) : (s.modEng f).agenda = s.agenda := rfl
@[simp] theorem modEng_cur (f : Eng → Eng) : (s.modEng f).cur = s.cur := rfl
@[simp] theorem modEng_phase (f : Eng → Eng) : (s.modEng f).phase = s.phase := rfl
@[simp] theorem modEng_free (f : Eng → Eng) : (s.modEng f).free = s.free := rfl
@[simp] theorem modEng_irqs (f : Eng → Eng) : (s.modEng f).irqs = s.irqs := rfl
@[simp] theorem modEng_wire (f : Eng → Eng) : (s.modEng f).wire = s.wire := rfl
@[simp] theorem modEng_resp (f : Eng → Eng) : (s.modEng f).resp = s.resp := rfl
@[simp] theorem modEng_dev (f : Eng → Eng) : (s.modEng f).dev = s.dev := rfl

@[simp] theorem setG_now (r : BitVec 5) (v : W64) : (s.setG r v).now = s.now := rfl
@[simp] theorem setG_agenda (r : BitVec 5) (v : W64) : (s.setG r v).agenda = s.agenda := rfl
@[simp] theorem setG_cur (r : BitVec 5) (v : W64) : (s.setG r v).cur = s.cur := rfl
@[simp] theorem setG_phase (r : BitVec 5) (v : W64) : (s.setG r v).phase = s.phase := rfl
@[simp] theorem setG_free (r : BitVec 5) (v : W64) : (s.setG r v).free = s.free := rfl
@[simp] theorem setG_irqs (r : BitVec 5) (v : W64) : (s.setG r v).irqs = s.irqs := rfl
@[simp] theorem setG_wire (r : BitVec 5) (v : W64) : (s.setG r v).wire = s.wire := rfl
@[simp] theorem setG_resp (r : BitVec 5) (v : W64) : (s.setG r v).resp = s.resp := rfl
@[simp] theorem setG_dev (r : BitVec 5) (v : W64) : (s.setG r v).dev = s.dev := rfl

/-! ### Cores -/

@[simp] theorem core_setCore_self : (s.setCore k c).core k = c := by simp [State.core, State.setCore]

theorem core_setCore_ne (j : CoreId) (h : j ≠ k) : (s.setCore k c).core j = s.core j := by
  simp only [State.core, State.setCore, Fin.getElem_fin]
  exact Vector.getElem_set_ne _ _ (fun q => h (Fin.ext q.symm))

@[simp] theorem core_modCore_self (f : Core → Core) : (s.modCore k f).core k = f (s.core k) := core_setCore_self _ _ _

theorem core_modCore_ne (f : Core → Core) (j : CoreId) (h : j ≠ k) : (s.modCore k f).core j = s.core j :=
  core_setCore_ne _ _ _ _ h

@[simp] theorem core_modDev (f : Dev → Dev) : (s.modDev f).core k = s.core k := rfl
@[simp] theorem core_bumpFree : s.bumpFree.core k = s.core k := rfl

@[simp] theorem here_modHere (f : Core → Core) : (s.modHere f).here = f s.here := core_modCore_self _ _ _
@[simp] theorem here_modArch (f : Arch → Arch) : (s.modArch f).here = s.here.modArch f := core_modCore_self _ _ _
@[simp] theorem here_modDev (f : Dev → Dev) : (s.modDev f).here = s.here := rfl
@[simp] theorem here_bumpFree : s.bumpFree.here = s.here := rfl
@[simp] theorem arch_modArch (f : Arch → Arch) : (s.modArch f).arch = f s.arch := by simp [State.arch, Core.modArch]
@[simp] theorem arch_modDev (f : Dev → Dev) : (s.modDev f).arch = s.arch := rfl
@[simp] theorem eng_modDev (f : Dev → Dev) : (s.modDev f).eng = s.eng := rfl

theorem core_modHere_ne (f : Core → Core) (j : CoreId) (h : j ≠ s.cur.core) : (s.modHere f).core j = s.core j :=
  core_modCore_ne _ _ _ _ h
theorem core_modArch_ne (f : Arch → Arch) (j : CoreId) (h : j ≠ s.cur.core) : (s.modArch f).core j = s.core j :=
  core_modHere_ne _ _ _ h
theorem core_modEng_ne (f : Eng → Eng) (j : CoreId) (h : j ≠ s.cur.core) : (s.modEng f).core j = s.core j :=
  core_modArch_ne _ _ _ h

@[simp] theorem coreModArch_arch (f : Arch → Arch) : (c.modArch f).arch = f c.arch := rfl
@[simp] theorem coreModArch_xq (f : Arch → Arch) : (c.modArch f).xq = c.xq := rfl
@[simp] theorem coreModArch_nextCmd (f : Arch → Arch) : (c.modArch f).nextCmd = c.nextCmd := rfl
@[simp] theorem coreModArch_hold (f : Arch → Arch) : (c.modArch f).hold = c.hold := rfl
@[simp] theorem coreModArch_nextHold (f : Arch → Arch) : (c.modArch f).nextHold = c.nextHold := rfl
@[simp] theorem coreModArch_ckpts (f : Arch → Arch) : (c.modArch f).ckpts = c.ckpts := rfl
@[simp] theorem coreModArch_cpCount (f : Arch → Arch) : (c.modArch f).cpCount = c.cpCount := rfl
@[simp] theorem coreModArch_cpReq (f : Arch → Arch) : (c.modArch f).cpReq = c.cpReq := rfl
@[simp] theorem coreModArch_panWait (f : Arch → Arch) : (c.modArch f).panWait = c.panWait := rfl
@[simp] theorem coreModArch_shadows (f : Arch → Arch) : (c.modArch f).shadows = c.shadows := rfl
@[simp] theorem coreModArch_region (f : Arch → Arch) : (c.modArch f).region = c.region := rfl
@[simp] theorem coreModArch_recov (f : Arch → Arch) : (c.modArch f).recov = c.recov := rfl
@[simp] theorem coreModArch_attLoop (f : Arch → Arch) : (c.modArch f).attLoop = c.attLoop := rfl
@[simp] theorem coreModArch_restart (f : Arch → Arch) : (c.modArch f).restart = c.restart := rfl
@[simp] theorem coreModArch_strikes (f : Arch → Arch) : (c.modArch f).strikes = c.strikes := rfl
@[simp] theorem coreModArch_rgstrk (f : Arch → Arch) : (c.modArch f).rgstrk = c.rgstrk := rfl
@[simp] theorem coreModArch_rgroll (f : Arch → Arch) : (c.modArch f).rgroll = c.rgroll := rfl
@[simp] theorem coreModArch_rgrec (f : Arch → Arch) : (c.modArch f).rgrec = c.rgrec := rfl
@[simp] theorem coreModArch_rgdisc (f : Arch → Arch) : (c.modArch f).rgdisc = c.rgdisc := rfl
@[simp] theorem coreModArch_sigdrop (f : Arch → Arch) : (c.modArch f).sigdrop = c.sigdrop := rfl
@[simp] theorem coreModArch_task (f : Arch → Arch) : (c.modArch f).task = c.task := rfl
@[simp] theorem coreModArch_real (f : Arch → Arch) : (c.modArch f).real = c.real := rfl
@[simp] theorem coreModArch_lastCtx (f : Arch → Arch) : (c.modArch f).lastCtx = c.lastCtx := rfl
@[simp] theorem coreModArch_saved (f : Arch → Arch) : (c.modArch f).saved = c.saved := rfl
@[simp] theorem coreModArch_preempt (f : Arch → Arch) : (c.modArch f).preempt = c.preempt := rfl
@[simp] theorem coreModArch_svcs (f : Arch → Arch) : (c.modArch f).svcs = c.svcs := rfl
@[simp] theorem coreModArch_chq (f : Arch → Arch) : (c.modArch f).chq = c.chq := rfl
@[simp] theorem coreModArch_pushTurn (f : Arch → Arch) : (c.modArch f).pushTurn = c.pushTurn := rfl
@[simp] theorem coreModArch_chcred (f : Arch → Arch) : (c.modArch f).chcred = c.chcred := rfl
@[simp] theorem coreModArch_tlb (f : Arch → Arch) : (c.modArch f).tlb = c.tlb := rfl
@[simp] theorem coreModArch_heldPlace (f : Arch → Arch) : (c.modArch f).heldPlace = c.heldPlace := rfl
@[simp] theorem coreModArch_heldScr (f : Arch → Arch) : (c.modArch f).heldScr = c.heldScr := rfl
@[simp] theorem coreModArch_flushAsk (f : Arch → Arch) : (c.modArch f).flushAsk = c.flushAsk := rfl
@[simp] theorem coreModArch_chEarn (f : Arch → Arch) : (c.modArch f).chEarn = c.chEarn := rfl
@[simp] theorem coreModArch_rx (f : Arch → Arch) : (c.modArch f).rx = c.rx := rfl
@[simp] theorem coreModArch_ringIn (f : Arch → Arch) : (c.modArch f).ringIn = c.ringIn := rfl

@[simp] theorem requestCp_arch (q : CpKind) : (c.requestCp q).arch = c.arch := rfl
@[simp] theorem requestCp_xq (q : CpKind) : (c.requestCp q).xq = c.xq := rfl
@[simp] theorem requestCp_nextCmd (q : CpKind) : (c.requestCp q).nextCmd = c.nextCmd := rfl
@[simp] theorem requestCp_hold (q : CpKind) : (c.requestCp q).hold = c.hold := rfl
@[simp] theorem requestCp_nextHold (q : CpKind) : (c.requestCp q).nextHold = c.nextHold := rfl
@[simp] theorem requestCp_ckpts (q : CpKind) : (c.requestCp q).ckpts = c.ckpts := rfl
@[simp] theorem requestCp_cpCount (q : CpKind) : (c.requestCp q).cpCount = c.cpCount := rfl
@[simp] theorem requestCp_cpReq (q : CpKind) : (c.requestCp q).cpReq = c.cpReq ++ [q] := rfl
@[simp] theorem requestCp_panWait (q : CpKind) : (c.requestCp q).panWait = c.panWait := rfl
@[simp] theorem requestCp_shadows (q : CpKind) : (c.requestCp q).shadows = c.shadows := rfl
@[simp] theorem requestCp_region (q : CpKind) : (c.requestCp q).region = c.region := rfl
@[simp] theorem requestCp_recov (q : CpKind) : (c.requestCp q).recov = c.recov := rfl
@[simp] theorem requestCp_attLoop (q : CpKind) : (c.requestCp q).attLoop = c.attLoop := rfl
@[simp] theorem requestCp_restart (q : CpKind) : (c.requestCp q).restart = c.restart := rfl
@[simp] theorem requestCp_strikes (q : CpKind) : (c.requestCp q).strikes = c.strikes := rfl
@[simp] theorem requestCp_rgstrk (q : CpKind) : (c.requestCp q).rgstrk = c.rgstrk := rfl
@[simp] theorem requestCp_rgroll (q : CpKind) : (c.requestCp q).rgroll = c.rgroll := rfl
@[simp] theorem requestCp_rgrec (q : CpKind) : (c.requestCp q).rgrec = c.rgrec := rfl
@[simp] theorem requestCp_rgdisc (q : CpKind) : (c.requestCp q).rgdisc = c.rgdisc := rfl
@[simp] theorem requestCp_sigdrop (q : CpKind) : (c.requestCp q).sigdrop = c.sigdrop := rfl
@[simp] theorem requestCp_task (q : CpKind) : (c.requestCp q).task = c.task := rfl
@[simp] theorem requestCp_real (q : CpKind) : (c.requestCp q).real = c.real := rfl
@[simp] theorem requestCp_lastCtx (q : CpKind) : (c.requestCp q).lastCtx = c.lastCtx := rfl
@[simp] theorem requestCp_saved (q : CpKind) : (c.requestCp q).saved = c.saved := rfl
@[simp] theorem requestCp_preempt (q : CpKind) : (c.requestCp q).preempt = c.preempt := rfl
@[simp] theorem requestCp_svcs (q : CpKind) : (c.requestCp q).svcs = c.svcs := rfl
@[simp] theorem requestCp_chq (q : CpKind) : (c.requestCp q).chq = c.chq := rfl
@[simp] theorem requestCp_pushTurn (q : CpKind) : (c.requestCp q).pushTurn = c.pushTurn := rfl
@[simp] theorem requestCp_chcred (q : CpKind) : (c.requestCp q).chcred = c.chcred := rfl
@[simp] theorem requestCp_tlb (q : CpKind) : (c.requestCp q).tlb = c.tlb := rfl
@[simp] theorem requestCp_heldPlace (q : CpKind) : (c.requestCp q).heldPlace = c.heldPlace := rfl
@[simp] theorem requestCp_heldScr (q : CpKind) : (c.requestCp q).heldScr = c.heldScr := rfl
@[simp] theorem requestCp_flushAsk (q : CpKind) : (c.requestCp q).flushAsk = c.flushAsk := rfl
@[simp] theorem requestCp_chEarn (q : CpKind) : (c.requestCp q).chEarn = c.chEarn := rfl
@[simp] theorem requestCp_rx (q : CpKind) : (c.requestCp q).rx = c.rx := rfl
@[simp] theorem requestCp_ringIn (q : CpKind) : (c.requestCp q).ringIn = c.ringIn := rfl

/-! ### Engines -/

@[simp] theorem eng_setEng_self : (a.setEng t e).eng t = e := by cases t <;> rfl

theorem eng_setEng_ne (h : u ≠ t) : (a.setEng t e).eng u = a.eng u := by
  cases t <;> cases u <;> first | rfl | exact absurd rfl h

@[simp] theorem eng_modEng_self (f : Eng → Eng) : (a.modEng t f).eng t = f (a.eng t) := eng_setEng_self _ _ _

theorem eng_modEng_ne (f : Eng → Eng) (h : u ≠ t) : (a.modEng t f).eng u = a.eng u := eng_setEng_ne _ _ _ _ h

@[simp] theorem eng_of_modEng (f : Eng → Eng) : (s.modEng f).eng = f s.eng := by
  unfold State.eng State.modEng
  rw [arch_modArch]
  exact eng_modEng_self _ _ _

@[simp] theorem here_modEng (f : Eng → Eng) : (s.modEng f).here = s.here.modArch (fun a => a.modEng s.cur.th f) :=
  here_modArch _ _

@[simp] theorem setEng_tiles : (a.setEng t e).tiles = a.tiles := by cases t <;> rfl
@[simp] theorem setEng_wfile : (a.setEng t e).wfile = a.wfile := by cases t <;> rfl
@[simp] theorem setEng_latches : (a.setEng t e).latches = a.latches := by cases t <;> rfl
@[simp] theorem setEng_tileP : (a.setEng t e).tileP = a.tileP := by cases t <;> rfl
@[simp] theorem setEng_wfileP : (a.setEng t e).wfileP = a.wfileP := by cases t <;> rfl
@[simp] theorem setEng_latchP : (a.setEng t e).latchP = a.latchP := by cases t <;> rfl
@[simp] theorem setEng_pend : (a.setEng t e).pend = a.pend := by cases t <;> rfl
@[simp] theorem setEng_bankPwr : (a.setEng t e).bankPwr = a.bankPwr := by cases t <;> rfl
@[simp] theorem setEng_bankWake : (a.setEng t e).bankWake = a.bankWake := by cases t <;> rfl
@[simp] theorem setEng_named : (a.setEng t e).named = a.named := by cases t <;> rfl
@[simp] theorem setEng_scr : (a.setEng t e).scr = a.scr := by cases t <;> rfl
@[simp] theorem setEng_scrP : (a.setEng t e).scrP = a.scrP := by cases t <;> rfl
@[simp] theorem setEng_scrLog : (a.setEng t e).scrLog = a.scrLog := by cases t <;> rfl
@[simp] theorem setEng_scrSeq : (a.setEng t e).scrSeq = a.scrSeq := by cases t <;> rfl
@[simp] theorem setEng_acc : (a.setEng t e).acc = a.acc := by cases t <;> rfl
@[simp] theorem setEng_accP : (a.setEng t e).accP = a.accP := by cases t <;> rfl
@[simp] theorem setEng_m0 : (a.setEng t e).m0 = a.m0 := by cases t <;> rfl
@[simp] theorem setEng_m1 : (a.setEng t e).m1 = a.m1 := by cases t <;> rfl
@[simp] theorem setEng_portAcc : (a.setEng t e).portAcc = a.portAcc := by cases t <;> rfl
@[simp] theorem setEng_leases : (a.setEng t e).leases = a.leases := by cases t <;> rfl
@[simp] theorem setEng_mflight : (a.setEng t e).mflight = a.mflight := by cases t <;> rfl
@[simp] theorem setEng_oq : (a.setEng t e).oq = a.oq := by cases t <;> rfl
@[simp] theorem setEng_oqIn : (a.setEng t e).oqIn = a.oqIn := by cases t <;> rfl
@[simp] theorem setEng_putx : (a.setEng t e).putx = a.putx := by cases t <;> rfl
@[simp] theorem setEng_putxSeq : (a.setEng t e).putxSeq = a.putxSeq := by cases t <;> rfl
@[simp] theorem setEng_bout : (a.setEng t e).bout = a.bout := by cases t <;> rfl
@[simp] theorem setEng_loops : (a.setEng t e).loops = a.loops := by cases t <;> rfl
@[simp] theorem setEng_sids : (a.setEng t e).sids = a.sids := by cases t <;> rfl
@[simp] theorem setEng_srAt : (a.setEng t e).srAt = a.srAt := by cases t <;> rfl
@[simp] theorem setEng_sealPass : (a.setEng t e).sealPass = a.sealPass := by cases t <;> rfl
@[simp] theorem setEng_slipw : (a.setEng t e).slipw = a.slipw := by cases t <;> rfl
@[simp] theorem setEng_chshare : (a.setEng t e).chshare = a.chshare := by cases t <;> rfl
@[simp] theorem setEng_poisonst : (a.setEng t e).poisonst = a.poisonst := by cases t <;> rfl
@[simp] theorem setEng_pwstat : (a.setEng t e).pwstat = a.pwstat := by cases t <;> rfl
@[simp] theorem setEng_ctxid : (a.setEng t e).ctxid = a.ctxid := by cases t <;> rfl
@[simp] theorem setEng_iter : (a.setEng t e).iter = a.iter := by cases t <;> rfl
@[simp] theorem setEng_srseed : (a.setEng t e).srseed = a.srseed := by cases t <;> rfl
@[simp] theorem setEng_srcnt : (a.setEng t e).srcnt = a.srcnt := by cases t <;> rfl
@[simp] theorem setEng_klim : (a.setEng t e).klim = a.klim := by cases t <;> rfl
@[simp] theorem setEng_kwarn : (a.setEng t e).kwarn = a.kwarn := by cases t <;> rfl
@[simp] theorem setEng_authmax : (a.setEng t e).authmax = a.authmax := by cases t <;> rfl
@[simp] theorem setEng_wins : (a.setEng t e).wins = a.wins := by cases t <;> rfl
@[simp] theorem setEng_sems : (a.setEng t e).sems = a.sems := by cases t <;> rfl
@[simp] theorem setEng_bars : (a.setEng t e).bars = a.bars := by cases t <;> rfl
@[simp] theorem setEng_barMem : (a.setEng t e).barMem = a.barMem := by cases t <;> rfl
@[simp] theorem setEng_barP : (a.setEng t e).barP = a.barP := by cases t <;> rfl
@[simp] theorem setEng_rings : (a.setEng t e).rings = a.rings := by cases t <;> rfl
@[simp] theorem setEng_streams : (a.setEng t e).streams = a.streams := by cases t <;> rfl
@[simp] theorem setEng_sfeed : (a.setEng t e).sfeed = a.sfeed := by cases t <;> rfl
@[simp] theorem setEng_seq : (a.setEng t e).seq = a.seq := by cases t <;> rfl

@[simp] theorem archModEng_tiles (f : Eng → Eng) : (a.modEng t f).tiles = a.tiles := by cases t <;> rfl
@[simp] theorem archModEng_wfile (f : Eng → Eng) : (a.modEng t f).wfile = a.wfile := by cases t <;> rfl
@[simp] theorem archModEng_latches (f : Eng → Eng) : (a.modEng t f).latches = a.latches := by cases t <;> rfl
@[simp] theorem archModEng_tileP (f : Eng → Eng) : (a.modEng t f).tileP = a.tileP := by cases t <;> rfl
@[simp] theorem archModEng_wfileP (f : Eng → Eng) : (a.modEng t f).wfileP = a.wfileP := by cases t <;> rfl
@[simp] theorem archModEng_latchP (f : Eng → Eng) : (a.modEng t f).latchP = a.latchP := by cases t <;> rfl
@[simp] theorem archModEng_pend (f : Eng → Eng) : (a.modEng t f).pend = a.pend := by cases t <;> rfl
@[simp] theorem archModEng_bankPwr (f : Eng → Eng) : (a.modEng t f).bankPwr = a.bankPwr := by cases t <;> rfl
@[simp] theorem archModEng_bankWake (f : Eng → Eng) : (a.modEng t f).bankWake = a.bankWake := by cases t <;> rfl
@[simp] theorem archModEng_named (f : Eng → Eng) : (a.modEng t f).named = a.named := by cases t <;> rfl
@[simp] theorem archModEng_scr (f : Eng → Eng) : (a.modEng t f).scr = a.scr := by cases t <;> rfl
@[simp] theorem archModEng_scrP (f : Eng → Eng) : (a.modEng t f).scrP = a.scrP := by cases t <;> rfl
@[simp] theorem archModEng_scrLog (f : Eng → Eng) : (a.modEng t f).scrLog = a.scrLog := by cases t <;> rfl
@[simp] theorem archModEng_scrSeq (f : Eng → Eng) : (a.modEng t f).scrSeq = a.scrSeq := by cases t <;> rfl
@[simp] theorem archModEng_acc (f : Eng → Eng) : (a.modEng t f).acc = a.acc := by cases t <;> rfl
@[simp] theorem archModEng_accP (f : Eng → Eng) : (a.modEng t f).accP = a.accP := by cases t <;> rfl
@[simp] theorem archModEng_m0 (f : Eng → Eng) : (a.modEng t f).m0 = a.m0 := by cases t <;> rfl
@[simp] theorem archModEng_m1 (f : Eng → Eng) : (a.modEng t f).m1 = a.m1 := by cases t <;> rfl
@[simp] theorem archModEng_portAcc (f : Eng → Eng) : (a.modEng t f).portAcc = a.portAcc := by cases t <;> rfl
@[simp] theorem archModEng_leases (f : Eng → Eng) : (a.modEng t f).leases = a.leases := by cases t <;> rfl
@[simp] theorem archModEng_mflight (f : Eng → Eng) : (a.modEng t f).mflight = a.mflight := by cases t <;> rfl
@[simp] theorem archModEng_oq (f : Eng → Eng) : (a.modEng t f).oq = a.oq := by cases t <;> rfl
@[simp] theorem archModEng_oqIn (f : Eng → Eng) : (a.modEng t f).oqIn = a.oqIn := by cases t <;> rfl
@[simp] theorem archModEng_putx (f : Eng → Eng) : (a.modEng t f).putx = a.putx := by cases t <;> rfl
@[simp] theorem archModEng_putxSeq (f : Eng → Eng) : (a.modEng t f).putxSeq = a.putxSeq := by cases t <;> rfl
@[simp] theorem archModEng_bout (f : Eng → Eng) : (a.modEng t f).bout = a.bout := by cases t <;> rfl
@[simp] theorem archModEng_loops (f : Eng → Eng) : (a.modEng t f).loops = a.loops := by cases t <;> rfl
@[simp] theorem archModEng_sids (f : Eng → Eng) : (a.modEng t f).sids = a.sids := by cases t <;> rfl
@[simp] theorem archModEng_srAt (f : Eng → Eng) : (a.modEng t f).srAt = a.srAt := by cases t <;> rfl
@[simp] theorem archModEng_sealPass (f : Eng → Eng) : (a.modEng t f).sealPass = a.sealPass := by cases t <;> rfl
@[simp] theorem archModEng_slipw (f : Eng → Eng) : (a.modEng t f).slipw = a.slipw := by cases t <;> rfl
@[simp] theorem archModEng_chshare (f : Eng → Eng) : (a.modEng t f).chshare = a.chshare := by cases t <;> rfl
@[simp] theorem archModEng_poisonst (f : Eng → Eng) : (a.modEng t f).poisonst = a.poisonst := by cases t <;> rfl
@[simp] theorem archModEng_pwstat (f : Eng → Eng) : (a.modEng t f).pwstat = a.pwstat := by cases t <;> rfl
@[simp] theorem archModEng_ctxid (f : Eng → Eng) : (a.modEng t f).ctxid = a.ctxid := by cases t <;> rfl
@[simp] theorem archModEng_iter (f : Eng → Eng) : (a.modEng t f).iter = a.iter := by cases t <;> rfl
@[simp] theorem archModEng_srseed (f : Eng → Eng) : (a.modEng t f).srseed = a.srseed := by cases t <;> rfl
@[simp] theorem archModEng_srcnt (f : Eng → Eng) : (a.modEng t f).srcnt = a.srcnt := by cases t <;> rfl
@[simp] theorem archModEng_klim (f : Eng → Eng) : (a.modEng t f).klim = a.klim := by cases t <;> rfl
@[simp] theorem archModEng_kwarn (f : Eng → Eng) : (a.modEng t f).kwarn = a.kwarn := by cases t <;> rfl
@[simp] theorem archModEng_authmax (f : Eng → Eng) : (a.modEng t f).authmax = a.authmax := by cases t <;> rfl
@[simp] theorem archModEng_wins (f : Eng → Eng) : (a.modEng t f).wins = a.wins := by cases t <;> rfl
@[simp] theorem archModEng_sems (f : Eng → Eng) : (a.modEng t f).sems = a.sems := by cases t <;> rfl
@[simp] theorem archModEng_bars (f : Eng → Eng) : (a.modEng t f).bars = a.bars := by cases t <;> rfl
@[simp] theorem archModEng_barMem (f : Eng → Eng) : (a.modEng t f).barMem = a.barMem := by cases t <;> rfl
@[simp] theorem archModEng_barP (f : Eng → Eng) : (a.modEng t f).barP = a.barP := by cases t <;> rfl
@[simp] theorem archModEng_rings (f : Eng → Eng) : (a.modEng t f).rings = a.rings := by cases t <;> rfl
@[simp] theorem archModEng_streams (f : Eng → Eng) : (a.modEng t f).streams = a.streams := by cases t <;> rfl
@[simp] theorem archModEng_sfeed (f : Eng → Eng) : (a.modEng t f).sfeed = a.sfeed := by cases t <;> rfl
@[simp] theorem archModEng_seq (f : Eng → Eng) : (a.modEng t f).seq = a.seq := by cases t <;> rfl

/-! ### General and branch-target registers (R60, R61) -/

@[simp] theorem engSetG_t (r : BitVec 5) (v : W64) : (e.setG r v).t = e.t := by
  unfold Eng.setG; split <;> rfl
@[simp] theorem engSetG_pc (r : BitVec 5) (v : W64) : (e.setG r v).pc = e.pc := by
  unfold Eng.setG; split <;> rfl
@[simp] theorem engSetG_left (r : BitVec 5) (v : W64) : (e.setG r v).left = e.left := by
  unfold Eng.setG; split <;> rfl
@[simp] theorem engSetG_sec (r : BitVec 5) (v : W64) : (e.setG r v).sec = e.sec := by
  unfold Eng.setG; split <;> rfl
@[simp] theorem engSetG_secAddr (r : BitVec 5) (v : W64) : (e.setG r v).secAddr = e.secAddr := by
  unfold Eng.setG; split <;> rfl
@[simp] theorem engSetG_inst (r : BitVec 5) (v : W64) : (e.setG r v).inst = e.inst := by
  unfold Eng.setG; split <;> rfl
@[simp] theorem engSetG_done (r : BitVec 5) (v : W64) : (e.setG r v).done = e.done := by
  unfold Eng.setG; split <;> rfl
@[simp] theorem engSetG_run (r : BitVec 5) (v : W64) : (e.setG r v).run = e.run := by
  unfold Eng.setG; split <;> rfl
@[simp] theorem engSetG_delay (r : BitVec 5) (v : W64) : (e.setG r v).delay = e.delay := by
  unfold Eng.setG; split <;> rfl
@[simp] theorem engSetG_status (r : BitVec 5) (v : W64) : (e.setG r v).status = e.status := by
  unfold Eng.setG; split <;> rfl
@[simp] theorem engSetG_cause (r : BitVec 5) (v : W64) : (e.setG r v).cause = e.cause := by
  unfold Eng.setG; split <;> rfl
@[simp] theorem engSetG_epc (r : BitVec 5) (v : W64) : (e.setG r v).epc = e.epc := by
  unfold Eng.setG; split <;> rfl
@[simp] theorem engSetG_eaddr (r : BitVec 5) (v : W64) : (e.setG r v).eaddr = e.eaddr := by
  unfold Eng.setG; split <;> rfl
@[simp] theorem engSetG_tvec (r : BitVec 5) (v : W64) : (e.setG r v).tvec = e.tvec := by
  unfold Eng.setG; split <;> rfl
@[simp] theorem engSetG_stallcnt (r : BitVec 5) (v : W64) : (e.setG r v).stallcnt = e.stallcnt := by
  unfold Eng.setG; split <;> rfl
@[simp] theorem engSetG_spill (r : BitVec 5) (v : W64) : (e.setG r v).spill = e.spill := by
  unfold Eng.setG; split <;> rfl
@[simp] theorem engSetG_spillP (r : BitVec 5) (v : W64) : (e.setG r v).spillP = e.spillP := by
  unfold Eng.setG; split <;> rfl
@[simp] theorem engSetG_loops (r : BitVec 5) (v : W64) : (e.setG r v).loops = e.loops := by
  unfold Eng.setG; split <;> rfl
@[simp] theorem engSetG_wait (r : BitVec 5) (v : W64) : (e.setG r v).wait = e.wait := by
  unfold Eng.setG; split <;> rfl
@[simp] theorem engSetG_divBusy (r : BitVec 5) (v : W64) : (e.setG r v).divBusy = e.divBusy := by
  unfold Eng.setG; split <;> rfl
@[simp] theorem engSetG_busy (r : BitVec 5) (v : W64) : (e.setG r v).busy = e.busy := by
  unfold Eng.setG; split <;> rfl
@[simp] theorem engSetG_stalled (r : BitVec 5) (v : W64) : (e.setG r v).stalled = e.stalled := by
  unfold Eng.setG; split <;> rfl
@[simp] theorem engSetG_panSince (r : BitVec 5) (v : W64) : (e.setG r v).panSince = e.panSince := by
  unfold Eng.setG; split <;> rfl
@[simp] theorem engSetG_ask (r : BitVec 5) (v : W64) : (e.setG r v).ask = e.ask := by
  unfold Eng.setG; split <;> rfl
@[simp] theorem engSetG_arrived (r : BitVec 5) (v : W64) : (e.setG r v).arrived = e.arrived := by
  unfold Eng.setG; split <;> rfl
@[simp] theorem engSetG_came (r : BitVec 5) (v : W64) : (e.setG r v).came = e.came := by
  unfold Eng.setG; split <;> rfl
@[simp] theorem engSetG_own (r : BitVec 5) (v : W64) : (e.setG r v).own = e.own := by
  unfold Eng.setG; split <;> rfl
@[simp] theorem engSetG_sts (r : BitVec 5) (v : W64) : (e.setG r v).sts = e.sts := by
  unfold Eng.setG; split <;> rfl
@[simp] theorem engSetG_asked (r : BitVec 5) (v : W64) : (e.setG r v).asked = e.asked := by
  unfold Eng.setG; split <;> rfl
@[simp] theorem engSetG_pushTo (r : BitVec 5) (v : W64) : (e.setG r v).pushTo = e.pushTo := by
  unfold Eng.setG; split <;> rfl
@[simp] theorem engSetG_prog (r : BitVec 5) (v : W64) : (e.setG r v).prog = e.prog := by
  unfold Eng.setG; split <;> rfl
@[simp] theorem engSetG_fed (r : BitVec 5) (v : W64) : (e.setG r v).fed = e.fed := by
  unfold Eng.setG; split <;> rfl
@[simp] theorem engSetG_issued (r : BitVec 5) (v : W64) : (e.setG r v).issued = e.issued := by
  unfold Eng.setG; split <;> rfl
@[simp] theorem engSetG_async (r : BitVec 5) (v : W64) : (e.setG r v).async = e.async := by
  unfold Eng.setG; split <;> rfl
@[simp] theorem engSetG_retSec (r : BitVec 5) (v : W64) : (e.setG r v).retSec = e.retSec := by
  unfold Eng.setG; split <;> rfl
@[simp] theorem engSetG_retAddr (r : BitVec 5) (v : W64) : (e.setG r v).retAddr = e.retAddr := by
  unfold Eng.setG; split <;> rfl
@[simp] theorem engSetG_retRun (r : BitVec 5) (v : W64) : (e.setG r v).retRun = e.retRun := by
  unfold Eng.setG; split <;> rfl
@[simp] theorem engSetG_retHdr (r : BitVec 5) (v : W64) : (e.setG r v).retHdr = e.retHdr := by
  unfold Eng.setG; split <;> rfl
@[simp] theorem engSetG_retCame (r : BitVec 5) (v : W64) : (e.setG r v).retCame = e.retCame := by
  unfold Eng.setG; split <;> rfl
@[simp] theorem engSetG_retVoid (r : BitVec 5) (v : W64) : (e.setG r v).retVoid = e.retVoid := by
  unfold Eng.setG; split <;> rfl

@[simp] theorem engSetT_g (r : BitVec 3) (v : W64) : (e.setT r v).g = e.g := rfl
@[simp] theorem engSetT_t (r : BitVec 3) (v : W64) : (e.setT r v).t = e.t.set r.toNat v := rfl
@[simp] theorem engSetT_pc (r : BitVec 3) (v : W64) : (e.setT r v).pc = e.pc := rfl
@[simp] theorem engSetT_left (r : BitVec 3) (v : W64) : (e.setT r v).left = e.left := rfl
@[simp] theorem engSetT_sec (r : BitVec 3) (v : W64) : (e.setT r v).sec = e.sec := rfl
@[simp] theorem engSetT_secAddr (r : BitVec 3) (v : W64) : (e.setT r v).secAddr = e.secAddr := rfl
@[simp] theorem engSetT_inst (r : BitVec 3) (v : W64) : (e.setT r v).inst = e.inst := rfl
@[simp] theorem engSetT_done (r : BitVec 3) (v : W64) : (e.setT r v).done = e.done := rfl
@[simp] theorem engSetT_run (r : BitVec 3) (v : W64) : (e.setT r v).run = e.run := rfl
@[simp] theorem engSetT_delay (r : BitVec 3) (v : W64) : (e.setT r v).delay = e.delay := rfl
@[simp] theorem engSetT_status (r : BitVec 3) (v : W64) : (e.setT r v).status = e.status := rfl
@[simp] theorem engSetT_cause (r : BitVec 3) (v : W64) : (e.setT r v).cause = e.cause := rfl
@[simp] theorem engSetT_epc (r : BitVec 3) (v : W64) : (e.setT r v).epc = e.epc := rfl
@[simp] theorem engSetT_eaddr (r : BitVec 3) (v : W64) : (e.setT r v).eaddr = e.eaddr := rfl
@[simp] theorem engSetT_tvec (r : BitVec 3) (v : W64) : (e.setT r v).tvec = e.tvec := rfl
@[simp] theorem engSetT_stallcnt (r : BitVec 3) (v : W64) : (e.setT r v).stallcnt = e.stallcnt := rfl
@[simp] theorem engSetT_spill (r : BitVec 3) (v : W64) : (e.setT r v).spill = e.spill := rfl
@[simp] theorem engSetT_spillP (r : BitVec 3) (v : W64) : (e.setT r v).spillP = e.spillP := rfl
@[simp] theorem engSetT_loops (r : BitVec 3) (v : W64) : (e.setT r v).loops = e.loops := rfl
@[simp] theorem engSetT_wait (r : BitVec 3) (v : W64) : (e.setT r v).wait = e.wait := rfl
@[simp] theorem engSetT_divBusy (r : BitVec 3) (v : W64) : (e.setT r v).divBusy = e.divBusy := rfl
@[simp] theorem engSetT_busy (r : BitVec 3) (v : W64) : (e.setT r v).busy = e.busy := rfl
@[simp] theorem engSetT_stalled (r : BitVec 3) (v : W64) : (e.setT r v).stalled = e.stalled := rfl
@[simp] theorem engSetT_panSince (r : BitVec 3) (v : W64) : (e.setT r v).panSince = e.panSince := rfl
@[simp] theorem engSetT_ask (r : BitVec 3) (v : W64) : (e.setT r v).ask = e.ask := rfl
@[simp] theorem engSetT_arrived (r : BitVec 3) (v : W64) : (e.setT r v).arrived = e.arrived := rfl
@[simp] theorem engSetT_came (r : BitVec 3) (v : W64) : (e.setT r v).came = e.came := rfl
@[simp] theorem engSetT_own (r : BitVec 3) (v : W64) : (e.setT r v).own = e.own := rfl
@[simp] theorem engSetT_sts (r : BitVec 3) (v : W64) : (e.setT r v).sts = e.sts := rfl
@[simp] theorem engSetT_asked (r : BitVec 3) (v : W64) : (e.setT r v).asked = e.asked := rfl
@[simp] theorem engSetT_pushTo (r : BitVec 3) (v : W64) : (e.setT r v).pushTo = e.pushTo := rfl
@[simp] theorem engSetT_prog (r : BitVec 3) (v : W64) : (e.setT r v).prog = e.prog := rfl
@[simp] theorem engSetT_fed (r : BitVec 3) (v : W64) : (e.setT r v).fed = e.fed := rfl
@[simp] theorem engSetT_issued (r : BitVec 3) (v : W64) : (e.setT r v).issued = e.issued := rfl
@[simp] theorem engSetT_async (r : BitVec 3) (v : W64) : (e.setT r v).async = e.async := rfl
@[simp] theorem engSetT_retSec (r : BitVec 3) (v : W64) : (e.setT r v).retSec = e.retSec := rfl
@[simp] theorem engSetT_retAddr (r : BitVec 3) (v : W64) : (e.setT r v).retAddr = e.retAddr := rfl
@[simp] theorem engSetT_retRun (r : BitVec 3) (v : W64) : (e.setT r v).retRun = e.retRun := rfl
@[simp] theorem engSetT_retHdr (r : BitVec 3) (v : W64) : (e.setT r v).retHdr = e.retHdr := rfl
@[simp] theorem engSetT_retCame (r : BitVec 3) (v : W64) : (e.setT r v).retCame = e.retCame := rfl
@[simp] theorem engSetT_retVoid (r : BitVec 3) (v : W64) : (e.setT r v).retVoid = e.retVoid := rfl

@[simp] theorem getG_zero : e.getG 0 = 0 := rfl

/-- A write to g0 is discarded (R61). -/
@[simp] theorem setG_zero (v : W64) : e.setG 0 v = e := rfl

theorem getG_setG (r q : BitVec 5) (v : W64) :
    (e.setG r v).getG q = if q = r ∧ r ≠ 0 then v else e.getG q := by
  unfold Eng.setG Eng.getG
  by_cases hr : r = 0
  · simp [hr]
  · by_cases hq : q = 0
    · subst hq
      rw [if_pos rfl, if_pos rfl, if_neg (fun x => hr x.1.symm)]
    · simp only [hr, hq, ↓reduceIte, ne_eq, not_false_eq_true, and_true]
      by_cases h : q = r
      · subst h
        simp
      · rw [if_neg h, Vector.getElem_set_ne]
        exact fun q' => h (BitVec.eq_of_toNat_eq q'.symm)

theorem getT_setT (r q : BitVec 3) (v : W64) : (e.setT r v).getT q = if q = r then v else e.getT q := by
  unfold Eng.setT Eng.getT
  by_cases h : q = r
  · subst h
    simp
  · rw [if_neg h, Vector.getElem_set_ne]
    exact fun q' => h (BitVec.eq_of_toNat_eq q'.symm)

end Sys2Proof.Laws
end

