-- ==== Sys2Proof/Laws/Run.lean ====
section
/-! SUPPORT. The frame of a kernel word, said once: everything that running a word can do, and what its
retirement leaves of every field. -/

namespace Sys2Proof.Laws

open Sys2Proof Sys2Proof.Machine

/-! ### How a word ends -/

/-- Everything that a kernel word can do: it takes the trap of check 2, it retires without effect, or its effect
decides (R25, R27, R120). -/
theorem runWord_cases (i : Instr) (h : Hdr) (s : State) (eff : State → Res) :
    (∃ code, check2 i s.eng = some code ∧ runWord i h s eff = .next (s.trap code none)) ∨
      (check2 i s.eng = none ∧ s.live h = false ∧ runWord i h s eff = .next (s.retire s.eng.delay)) ∨
      (runs i h s ∧ runWord i h s eff = .next (s.finish (eff s))) := by
  unfold runWord runs State.live
  cases hc : check2 i s.eng with
  | some code => exact .inl ⟨code, rfl, rfl⟩
  | none =>
    cases hs : s.here.suppressed s.eng <;> cases hg : s.eng.guard h <;> simp

theorem runWord_runs {i : Instr} {h : Hdr} {s : State} (hr : runs i h s) (eff : State → Res) :
    runWord i h s eff = .next (s.finish (eff s)) := by
  rcases runWord_cases i h s eff with ⟨code, hc, _⟩ | ⟨_, hl, _⟩ | ⟨_, he⟩
  · rw [hr.1] at hc
    cases hc
  · rw [hr.2] at hl
    cases hl
  · exact he

/-- No kernel word stops the machine. -/
theorem runWord_next (i : Instr) (h : Hdr) (s : State) (eff : State → Res) : ∃ t, runWord i h s eff = .next t := by
  rcases runWord_cases i h s eff with ⟨_, _, e⟩ | ⟨_, _, e⟩ | ⟨_, e⟩ <;> exact ⟨_, e⟩

/-! ### Room in the Pan -/

theorem panRoom_of_same {s t : State} (hh : t.here.hold = s.here.hold) (hs : t.here.shadows = s.here.shadows) :
    panRoom s t := by
  simp [panRoom, Core.panLacks, Core.shadUsed, Core.holdUsed, hh, hs]

theorem finish_done {s t : State} (hr : panRoom s t) : s.finish (.done t) = s.wordDone t := by
  have h : s.here.panLacks t.here = false := hr
  simp [State.finish, h]

/-- A word whose effect has come about and fits into the Pan retires. -/
theorem runWord_done {i : Instr} {h : Hdr} {s t : State} {eff : State → Res} (hr : runs i h s) (he : eff s = .done t)
    (hp : panRoom s t) : runWord i h s eff = .next (s.wordDone t) := by
  rw [runWord_runs hr, he, finish_done hp]

/-! ### Retirement -/

variable (s t : State) (c : Core) (e : Eng) (w : Option (Bool × W64)) (n : Nat)

@[simp] theorem retire_now : (s.retire w).now = s.now := rfl
@[simp] theorem retire_agenda : (s.retire w).agenda = s.agenda := rfl
@[simp] theorem retire_cur : (s.retire w).cur = s.cur := rfl
@[simp] theorem retire_free : (s.retire w).free = s.free := rfl
@[simp] theorem retire_irqs : (s.retire w).irqs = s.irqs := rfl
@[simp] theorem retire_wire : (s.retire w).wire = s.wire := rfl
@[simp] theorem retire_resp : (s.retire w).resp = s.resp := rfl
@[simp] theorem retire_dev : (s.retire w).dev = s.dev := rfl
@[simp] theorem wordDone_now : (s.wordDone t).now = t.now := rfl
@[simp] theorem wordDone_agenda : (s.wordDone t).agenda = t.agenda := rfl
@[simp] theorem wordDone_cur : (s.wordDone t).cur = t.cur := rfl
@[simp] theorem wordDone_free : (s.wordDone t).free = t.free := rfl
@[simp] theorem wordDone_irqs : (s.wordDone t).irqs = t.irqs := rfl
@[simp] theorem wordDone_wire : (s.wordDone t).wire = t.wire := rfl
@[simp] theorem wordDone_resp : (s.wordDone t).resp = t.resp := rfl
@[simp] theorem wordDone_dev : (s.wordDone t).dev = t.dev := rfl

theorem core_wordDone_ne (j : CoreId) (h : j ≠ t.cur.core) : (s.wordDone t).core j = t.core j := by
  unfold State.wordDone State.retire
  rw [core_modEng_ne _ _ _ (by simpa using h), core_modHere_ne _ _ _ (by simpa using h), core_modEng_ne _ _ _ h]

/-- Retirement leaves registers, saved state, spill store and loops of the engine alone, whatever was its delay
slot. -/
theorem retire_keeps :
    (e.retire w n).g = e.g ∧ (e.retire w n).t = e.t ∧ (e.retire w n).status = e.status ∧
      (e.retire w n).cause = e.cause ∧ (e.retire w n).epc = e.epc ∧ (e.retire w n).eaddr = e.eaddr ∧
      (e.retire w n).tvec = e.tvec ∧ (e.retire w n).stallcnt = e.stallcnt ∧ (e.retire w n).spill = e.spill ∧
      (e.retire w n).loops = e.loops ∧ (e.retire w n).run = e.run ∧ (e.retire w n).inst = e.inst ∧
      (e.retire w n).done = e.done := by
  cases w with
  | none => exact ⟨rfl, rfl, rfl, rfl, rfl, rfl, rfl, rfl, rfl, rfl, rfl, rfl, rfl⟩
  | some p =>
    obtain ⟨tk, tgt⟩ := p
    cases tk <;> exact ⟨rfl, rfl, rfl, rfl, rfl, rfl, rfl, rfl, rfl, rfl, rfl, rfl, rfl⟩

/-- A word outside a delay slot: the next word of the section follows. -/
theorem retire_none_pc : (e.retire none n).pc = e.pc + 12 ∧ (e.retire none n).left = e.left - 1 := ⟨rfl, rfl⟩

/-- A delay word of a taken branch: the target follows (R111). -/
theorem retire_taken_pc (tgt : W64) : (e.retire (some (true, tgt)) n).pc = tgt ∧ (e.retire (some (true, tgt)) n).left = 0 :=
  ⟨rfl, rfl⟩

end Sys2Proof.Laws
end

