-- ==== Sys2Proof/Laws/Store.lean ====
section
/-! SUPPORT. Sparse storage: every operation keeps the canonical form; a read after a write gives the values
written and leaves every other place alone. -/

namespace Sys2Proof.Laws

open Sys2Proof Sys2Proof.Machine

variable {α : Type}

/-! ### The canonical form -/

/-- The canonical form says that places rise strictly and no listed value is the default. -/
theorem wf_iff [DecidableEq α] (d : α) (st : Store α) :
    Store.wf d st = true ↔ st.Pairwise (fun p q => p.1 < q.1) ∧ ∀ p ∈ st, p.2 ≠ d := by
  induction st with
  | nil => simp [Store.wf]
  | cons p st ih =>
    cases st with
    | nil => simp [Store.wf]
    | cons q st =>
      simp only [Store.wf, Bool.and_eq_true, ih, List.pairwise_cons, List.mem_cons, Bool.not_eq_true',
        decide_eq_false_iff_not, decide_eq_true_eq, forall_eq_or_imp]
      constructor
      · rintro ⟨⟨hp, hpq⟩, ⟨hq, hs⟩, hd⟩
        exact ⟨⟨⟨hpq, fun r hr => lt_trans hpq (hq r hr)⟩, hq, hs⟩, hp, hd⟩
      · rintro ⟨⟨⟨hpq, _⟩, hq, hs⟩, hp, hd⟩
        exact ⟨⟨hp, hpq⟩, ⟨hq, hs⟩, hd⟩

theorem mem_pairs [DecidableEq α] (d : α) (vs : List α) (k : Nat) (p : Nat × α) :
    p ∈ Store.pairs d k vs → k ≤ p.1 ∧ p.1 < k + vs.length ∧ p.2 ≠ d := by
  induction vs generalizing k with
  | nil => simp [Store.pairs]
  | cons v vs ih =>
    simp only [Store.pairs]
    split
    · intro h
      have := ih (k + 1) h
      simp only [List.length_cons]
      exact ⟨by omega, by omega, this.2.2⟩
    · rename_i hv
      intro h
      rcases List.mem_cons.1 h with rfl | h
      · simp only [List.length_cons]
        exact ⟨le_refl _, by omega, hv⟩
      · have := ih (k + 1) h
        simp only [List.length_cons]
        exact ⟨by omega, by omega, this.2.2⟩

theorem pairs_rising [DecidableEq α] (d : α) (vs : List α) (k : Nat) :
    (Store.pairs d k vs).Pairwise (fun p q => p.1 < q.1) := by
  induction vs generalizing k with
  | nil => simp [Store.pairs]
  | cons v vs ih =>
    simp only [Store.pairs]
    split
    · exact ih (k + 1)
    · refine List.pairwise_cons.2 ⟨fun q hq => ?_, ih (k + 1)⟩
      have := mem_pairs d vs (k + 1) q hq
      simp only
      omega

theorem wf_filter [DecidableEq α] (d : α) (st : Store α) (keep : Nat × α → Bool) (h : Store.wf d st = true) :
    Store.wf d (st.filter keep) = true := by
  rw [wf_iff] at h ⊢
  exact ⟨h.1.filter _, fun p hp => h.2 p (List.mem_of_mem_filter hp)⟩

/-- A write keeps the canonical form. -/
theorem wf_put [DecidableEq α] (d : α) (st : Store α) (k : Nat) (vs : List α) (h : Store.wf d st = true) :
    Store.wf d (Store.put d st k vs) = true := by
  rw [wf_iff] at h ⊢
  obtain ⟨hs, hd⟩ := h
  refine ⟨?_, ?_⟩
  · simp only [Store.put, List.pairwise_append, List.mem_append]
    refine ⟨hs.filter _, ⟨pairs_rising d vs k, hs.filter _, fun p hp q hq => ?_⟩, fun p hp q hq => ?_⟩
    · have := mem_pairs d vs k p hp
      have := (List.mem_filter.1 hq).2
      simp only [decide_eq_true_eq] at this
      omega
    · have hp := (List.mem_filter.1 hp).2
      simp only [decide_eq_true_eq] at hp
      rcases hq with hq | hq
      · have := mem_pairs d vs k q hq
        omega
      · have := (List.mem_filter.1 hq).2
        simp only [decide_eq_true_eq] at this
        omega
  · intro p hp
    simp only [Store.put, List.mem_append] at hp
    rcases hp with hp | hp | hp
    · exact hd p (List.mem_of_mem_filter hp)
    · exact (mem_pairs d vs k p hp).2.2
    · exact hd p (List.mem_of_mem_filter hp)

theorem wf_set [DecidableEq α] (d : α) (st : Store α) (k : Nat) (v : α) (h : Store.wf d st = true) :
    Store.wf d (Store.set d st k v) = true := wf_put d st k [v] h

theorem wf_restrict [DecidableEq α] (d : α) (st : Store α) (keep : Nat → Bool) (h : Store.wf d st = true) :
    Store.wf d (st.restrict keep) = true := wf_filter d st _ h

/-- The memories of the machine after reset have the form. -/
theorem wf_reset :
    Store.wf 0 State.reset.dev.hbm = true ∧ Store.wf 0 State.reset.dev.host = true ∧
      Store.wf 0 State.reset.dev.pool = true ∧ ∀ c : CoreId, Store.wf 0 State.reset.cores[c].arch.scr = true := by
  refine ⟨rfl, rfl, rfl, fun c => ?_⟩
  simp [State.reset, Core.reset, Arch.reset, Store.wf]

/-! ### Reading one place -/

theorem get_append (d : α) (st su : Store α) (k : Nat) :
    Store.get d (st ++ su) k = if ∃ p ∈ st, p.1 = k then Store.get d st k else Store.get d su k := by
  induction st with
  | nil => simp
  | cons p st ih =>
    by_cases h : p.1 = k
    · simp [Store.get, h]
    · simp only [List.cons_append, Store.get, h, ↓reduceIte, ih, List.mem_cons, exists_eq_or_imp, false_or]

theorem get_absent (d : α) (st : Store α) (k : Nat) (h : ∀ p ∈ st, p.1 ≠ k) : Store.get d st k = d := by
  induction st with
  | nil => rfl
  | cons p st ih =>
    simp only [Store.get, if_neg (h p (List.mem_cons_self ..))]
    exact ih fun q hq => h q (List.mem_cons_of_mem _ hq)

theorem get_filter (d : α) (st : Store α) (keep : Nat → Bool) (k : Nat) :
    Store.get d (st.filter (fun p => keep p.1)) k = if keep k then Store.get d st k else d := by
  induction st with
  | nil => simp [Store.get]
  | cons p st ih =>
    by_cases hk : keep p.1
    · rw [List.filter_cons_of_pos (p := fun p : Nat × α => keep p.1) hk]
      by_cases h : p.1 = k
      · subst h
        simp [Store.get, hk]
      · simp only [Store.get, if_neg h, ih]
    · rw [List.filter_cons_of_neg (p := fun p : Nat × α => keep p.1) hk, ih]
      by_cases h : p.1 = k
      · subst h
        simp [hk]
      · simp only [Store.get, if_neg h]

theorem get_pairs [DecidableEq α] (d : α) (vs : List α) (k j : Nat) :
    Store.get d (Store.pairs d k vs) j = if k ≤ j then vs.getD (j - k) d else d := by
  induction vs generalizing k with
  | nil => simp [Store.pairs, Store.get]
  | cons v vs ih =>
    simp only [Store.pairs]
    by_cases hj : j = k
    · subst hj
      split
      · rename_i hv
        rw [ih]
        simp [hv]
      · simp [Store.get]
    · have e : (if k + 1 ≤ j then vs.getD (j - (k + 1)) d else d) = if k ≤ j then (v :: vs).getD (j - k) d else d := by
        by_cases hk : k ≤ j
        · obtain ⟨n, rfl⟩ : ∃ n, j = k + 1 + n := ⟨j - (k + 1), by omega⟩
          rw [if_pos (by omega), if_pos (by omega), show k + 1 + n - (k + 1) = n by omega,
            show k + 1 + n - k = n + 1 by omega, List.getD_cons_succ]
        · rw [if_neg (by omega), if_neg hk]
      split
      · rw [ih, e]
      · simp only [Store.get, if_neg (Ne.symm hj), ih, e]

/-- A read after a write: the values written, and every other place as before. -/
theorem get_put [DecidableEq α] (d : α) (st : Store α) (k : Nat) (vs : List α) (j : Nat) :
    Store.get d (Store.put d st k vs) j =
      if k ≤ j ∧ j < k + vs.length then vs.getD (j - k) d else Store.get d st j := by
  unfold Store.put
  rw [get_append, get_append]
  have f1 := get_filter d st (fun n => decide (n < k)) j
  have f2 := get_filter d st (fun n => decide (k + vs.length ≤ n)) j
  simp only [decide_eq_true_eq] at f1 f2
  rw [f1, f2]
  by_cases h1 : j < k
  · rw [if_neg (show ¬(k ≤ j ∧ j < k + vs.length) by omega), if_pos h1]
    split
    · rfl
    · rename_i hn
      have hs : Store.get d st j = d := get_absent d st j fun p hp e => hn
        ⟨p, List.mem_filter.2 ⟨hp, by simp only [decide_eq_true_eq]; omega⟩, e⟩
      rw [hs]
      have hp : Store.get d (Store.pairs d k vs) j = d := by rw [get_pairs, if_neg (by omega)]
      split
      · exact hp
      · rw [if_neg (by omega)]
  · rw [if_neg (show ¬∃ p ∈ List.filter (fun p => decide (p.1 < k)) st, p.1 = j from ?_)]
    · by_cases h2 : j < k + vs.length
      · rw [if_pos (show k ≤ j ∧ j < k + vs.length by omega)]
        have hg := get_pairs d vs k j
        rw [if_pos (show k ≤ j by omega)] at hg
        split
        · exact hg
        · rename_i hn
          rw [if_neg (by omega), ← hg]
          exact (get_absent d _ j fun p hp e => hn ⟨p, hp, e⟩).symm
      · rw [if_neg (show ¬(k ≤ j ∧ j < k + vs.length) by omega),
          if_neg (show ¬∃ p ∈ Store.pairs d k vs, p.1 = j from ?_), if_pos (by omega)]
        rintro ⟨p, hp, rfl⟩
        have := mem_pairs d vs k p hp
        omega
    · rintro ⟨p, hp, rfl⟩
      have := (List.mem_filter.1 hp).2
      simp only [decide_eq_true_eq] at this
      omega

/-- Reading a run reads its places one by one. -/
theorem expand_get [DecidableEq α] (d : α) (st : Store α) (k n : Nat) (hs : st.Pairwise (fun p q => p.1 < q.1))
    (hk : ∀ p ∈ st, k ≤ p.1) :
    Store.expand d st k n = (List.range n).map (fun j => Store.get d st (k + j)) := by
  induction n generalizing st k with
  | zero => simp [Store.expand]
  | succ n ih =>
    rw [List.range_succ_eq_map, List.map_cons, List.map_map]
    cases st with
    | nil =>
      simp only [Store.expand, Store.get]
      rw [ih [] (k + 1) List.Pairwise.nil (by simp)]
      simp [Store.get, Function.comp_def]
    | cons p st =>
      have hs' := List.pairwise_cons.1 hs
      simp only [Store.expand, Nat.add_zero]
      split
      · rename_i hp
        have hk' : ∀ q ∈ st, k + 1 ≤ q.1 := fun q hq => by have := hs'.1 q hq; omega
        rw [ih st (k + 1) hs'.2 hk']
        refine List.cons_eq_cons.2 ⟨by simp [Store.get, hp], List.map_congr_left fun j _ => ?_⟩
        simp only [Function.comp_apply, Store.get]
        rw [if_neg (by omega)]
        congr 1
        omega
      · rename_i hp
        have hp' : k + 1 ≤ p.1 := by have := hk p (List.mem_cons_self ..); omega
        have hk' : ∀ q ∈ p :: st, k + 1 ≤ q.1 := fun q hq => by
          rcases List.mem_cons.1 hq with rfl | hq
          · exact hp'
          · have := hs'.1 q hq; omega
        rw [ih (p :: st) (k + 1) hs hk']
        refine List.cons_eq_cons.2 ⟨?_, List.map_congr_left fun j _ => ?_⟩
        · exact (get_absent d _ k fun q hq => by have := hk' q hq; omega).symm
        · simp only [Function.comp_apply]
          congr 1
          omega

theorem run_get [DecidableEq α] (d : α) (st : Store α) (k n : Nat) (h : Store.wf d st = true) :
    Store.run d st k n = (List.range n).map (fun j => Store.get d st (k + j)) := by
  unfold Store.run
  rw [expand_get]
  · refine List.map_congr_left fun j hj => ?_
    have := get_filter d st (fun m => decide (k ≤ m) && decide (m < k + n)) (k + j)
    rw [this, if_pos]
    have := List.mem_range.1 hj
    simp only [Bool.and_eq_true, decide_eq_true_eq]
    omega
  · exact ((wf_iff d st).1 h).1.filter _
  · intro p hp
    have := (List.mem_filter.1 hp).2
    simp only [Bool.and_eq_true, decide_eq_true_eq] at this
    exact this.1

/-! ### A store of one value per place that is read after one write -/

theorem get_set [DecidableEq α] (d : α) (st : Store α) (k : Nat) (v : α) (j : Nat) :
    Store.get d (Store.set d st k v) j = if j = k then v else Store.get d st j := by
  unfold Store.set
  rw [get_put]
  by_cases h : j = k
  · subst h
    simp
  · rw [if_neg (by simp; omega), if_neg h]

end Sys2Proof.Laws
end

