-- ==== Sys2Proof/Tests/Slice0.lean ====
section
/-! SUPPORT. The model's own tests. Expected results come from the spec's words and worked examples. Decoding is tested
on words that the spec writes out; a theorem witness_<Name> shows states and operands that meet the hypotheses of
Obligations.<Name>. -/

namespace Sys2Proof.Tests

set_option Elab.async false

open Sys2Proof Sys2Proof.Machine

/-! ### States and operands -/

/-- The machine after reset, as a module with every core enabled. -/
def full : State := State.reset.modDev (fun d => { d with cemask := ~~~(0 : W64) })

/-- Core 0 in a tile task of context 0, its thread t at a word of its section; f sets more of the core, d more of the
device. -/
def at' (t : Thread) (f : Core → Core := id) (d : Dev → Dev := id) : State :=
  { (full.setCore 0 (f (placeCore (full.core 0) t false))) with
    cur := ⟨0, t⟩, dev := d (full.dev.setCtx 0
      { placeCtx with sema := ~~~(0 : BitVec 256), bara := ~~~(0 : BitVec 64), ringa := ~~~(0 : BitVec 16) }) }

/-- The same with a change to the thread. -/
def atE (t : Thread) (e : Eng → Eng) : State := at' t (fun c => c.modArch (fun a => a.modEng t e))

/-- The same with a change to the core's restorable state. -/
def atA (t : Thread) (g : Arch → Arch) : State := at' t (fun c => c.modArch g)

/-- In supervisor mode. -/
def atSup (t : Thread) : State := atE t (fun e => { e with status := 1 })

/-- General registers set. -/
def withG (l : List (Nat × Nat)) (e : Eng) : Eng :=
  l.foldl (fun e p => e.setG (BitVec.ofNat 5 p.1) (BitVec.ofNat 64 p.2)) e

def h0 : Hdr := ⟨0, 0, 0, 0⟩
def s3 : S3 := ⟨1, 2, 3, 0, 0, 0, 0, 0⟩
def si : SI := ⟨1, 2, 0, 0, 0⟩
def br : BrF := ⟨0, 0, 0, 0, 0, 0, 0, 0, 0, 0⟩
def vt : VT := ⟨0, 0x00040, 0x00080, 0x1C, 0, 0, 0⟩
def vm : VM := ⟨0, 0x00040, 2, 0, 1, 0, 0, 0, 0, 0⟩
def mx : MX := ⟨0, 0, 0, 0, 0, 0, 0, 0, 0, 0, 0, 0⟩
def stw : ST := ⟨0, 0, 0, 0, 0, 0, 0, 2, 1, 0, 0⟩
def cm : CM := ⟨0, 0, 0, 0, 0, 0, 0, 0, 0, 0⟩
def sy : SY := ⟨1, 2, 3, 0, 0, 0, 0, 0, 0, 0, 0⟩

/-- Each of these words runs in s (a check by evaluation). -/
def allRun (l : List Instr) (s : State) : Bool := l.all (fun i => (check2 i s.eng).isNone && s.live h0)

theorem allRun_spec {l : List Instr} {s : State} (e : allRun l s = true) : ∀ i ∈ l, runs i h0 s := by
  intro i hi
  have := List.all_eq_true.mp e i hi
  simp only [Bool.and_eq_true, Option.isNone_iff_eq_none] at this
  exact this

/-! ### Decoding: words that the spec writes out -/

/-- Each word of a list decodes to the instruction beside it. -/
def reads (l : List (BitVec 96 × Instr)) : Bool :=
  l.all (fun p => match decodeWord p.1 with | .ok i => decide (i = p.2) | .error _ => false)

def readsSeq (l : List (BitVec 64 × Instr)) : Bool :=
  l.all (fun p => match decodeSeq p.1 with | .ok i => decide (i = p.2) | .error _ => false)

/-- Encodings of scalar words (05_scalar) by R23, R31 and R36, part 1. -/
theorem test_decode_scalar1 : reads [
    (0x000081299200000000000000, .add ⟨0, 1, 0, 1⟩ ⟨5, 6, 9, 0, 0, 0, 0, 0⟩),
    (0x40108129800FE00000000000, .sub ⟨1, 1, 0, 1⟩ ⟨5, 6, 0, 0, 0x3f, 1, 0, 0⟩),
    (0x8020812980000000FFFFFFFF, .addi ⟨2, 1, 0, 1⟩ ⟨5, 6, 0, 0, 0xffffffff⟩),
    (0xC0308129800FE00000000000, .mul ⟨3, 1, 0, 1⟩ ⟨5, 6, 0, 0, 0x3f, 1, 0, 0⟩),
    (0x004081FC0200000000000000, .mulh ⟨0, 1, 0, 1⟩ ⟨0x1f, 0x10, 1, 0, 0, 0, 0, 0⟩),
    (0x405081FC0200000000000000, .mulhu ⟨1, 1, 0, 1⟩ ⟨0x1f, 0x10, 1, 0, 0, 0, 0, 0⟩),
    (0x806081FC0200000000000000, .div ⟨2, 1, 0, 1⟩ ⟨0x1f, 0x10, 1, 0, 0, 0, 0, 0⟩),
    (0xC07081FC0200000000000000, .divu ⟨3, 1, 0, 1⟩ ⟨0x1f, 0x10, 1, 0, 0, 0, 0, 0⟩),
    (0x008081FC0200000000000000, .rem ⟨0, 1, 0, 1⟩ ⟨0x1f, 0x10, 1, 0, 0, 0, 0, 0⟩),
    (0x409081FC0200000000000000, .remu ⟨1, 1, 0, 1⟩ ⟨0x1f, 0x10, 1, 0, 0, 0, 0, 0⟩),
    (0x80A081299200000000000000, .and ⟨2, 1, 0, 1⟩ ⟨5, 6, 9, 0, 0, 0, 0, 0⟩),
    (0xC0B08129800FE00000000000, .or ⟨3, 1, 0, 1⟩ ⟨5, 6, 0, 0, 0x3f, 1, 0, 0⟩),
    (0x00C081299200000000000000, .xor ⟨0, 1, 0, 1⟩ ⟨5, 6, 9, 0, 0, 0, 0, 0⟩),
    (0x40D08129800FE00000000000, .andn ⟨1, 1, 0, 1⟩ ⟨5, 6, 0, 0, 0x3f, 1, 0, 0⟩),
    (0x80E081299200000000000000, .orn ⟨2, 1, 0, 1⟩ ⟨5, 6, 9, 0, 0, 0, 0, 0⟩),
    (0xC0F08129800FE00000000000, .shl ⟨3, 1, 0, 1⟩ ⟨5, 6, 0, 0, 0x3f, 1, 0, 0⟩),
    (0x010081299200000000000000, .shr ⟨0, 1, 0, 1⟩ ⟨5, 6, 9, 0, 0, 0, 0, 0⟩),
    (0x41108129800FE00000000000, .sar ⟨1, 1, 0, 1⟩ ⟨5, 6, 0, 0, 0x3f, 1, 0, 0⟩),
    (0x812081299200000000000000, .rotl ⟨2, 1, 0, 1⟩ ⟨5, 6, 9, 0, 0, 0, 0, 0⟩),
    (0xC1308129800FE00000000000, .min ⟨3, 1, 0, 1⟩ ⟨5, 6, 0, 0, 0x3f, 1, 0, 0⟩),
    (0x014081299200000000000000, .max ⟨0, 1, 0, 1⟩ ⟨5, 6, 9, 0, 0, 0, 0, 0⟩),
    (0x41508129800FE00000000000, .minu ⟨1, 1, 0, 1⟩ ⟨5, 6, 0, 0, 0x3f, 1, 0, 0⟩),
    (0x816081299200000000000000, .maxu ⟨2, 1, 0, 1⟩ ⟨5, 6, 9, 0, 0, 0, 0, 0⟩),
    (0xC17081394000F60080000000, .cmp ⟨3, 1, 0, 1⟩ ⟨7, 5, 0, 0, 3, 1, 0xb, 0x80000000⟩)] = true := by decide +kernel

/-- Encodings of scalar words (05_scalar) by R23, R31 and R36, part 2. -/
theorem test_decode_scalar2 : reads [
    (0x018081394C88400000000000, .sel ⟨0, 1, 0, 1⟩ ⟨7, 5, 6, 8, 0x21, 0, 0, 0⟩),
    (0x419081380000000012345678, .movi ⟨1, 1, 0, 1⟩ ⟨7, 0, 0, 0, 0x12345678⟩),
    (0x419081380010000012345678, .moviZ ⟨1, 1, 0, 1⟩ ⟨7, 0, 0, 1, 0x12345678⟩),
    (0x419081380020000012345678, .moviHi ⟨1, 1, 0, 1⟩ ⟨7, 0, 0, 2, 0x12345678⟩),
    (0x81A081380000923456789ABC, .movw ⟨2, 1, 0, 1⟩ ⟨7, 0, 0x923456789abc⟩),
    (0x81A081390000923456789ABC, .movwZ ⟨2, 1, 0, 1⟩ ⟨7, 1, 0x923456789abc⟩),
    (0xC1B081394C084000FFFFFFF0, .lea ⟨3, 1, 0, 1⟩ ⟨7, 5, 6, 0, 0x21, 0, 0, 0xfffffff0⟩),
    (0x01C081394000000000000000, .clz ⟨0, 1, 0, 1⟩ ⟨7, 5, 0, 0, 0, 0, 0, 0⟩),
    (0x41D081394000000000000000, .ctz ⟨1, 1, 0, 1⟩ ⟨7, 5, 0, 0, 0, 0, 0, 0⟩),
    (0x81E081394000000000000000, .popc ⟨2, 1, 0, 1⟩ ⟨7, 5, 0, 0, 0, 0, 0, 0⟩),
    (0xC1F08129800FE00000000000, .bext ⟨3, 1, 0, 1⟩ ⟨5, 6, 0, 0, 0x3f, 1, 0, 0⟩),
    (0x02008139409A200000000000, .bins ⟨0, 1, 0, 1⟩ ⟨7, 5, 0, 9, 0x28, 1, 0, 0⟩),
    (0x42108129800FE00000000000, .bset ⟨1, 1, 0, 1⟩ ⟨5, 6, 0, 0, 0x3f, 1, 0, 0⟩),
    (0x822081299200000000000000, .bclr ⟨2, 1, 0, 1⟩ ⟨5, 6, 9, 0, 0, 0, 0, 0⟩),
    (0xC23081380000000000000020, .mfs ⟨3, 1, 0, 1⟩ ⟨7, 0, 0, 0, 0x20⟩),
    (0x02408101C000000000000024, .mts ⟨0, 1, 0, 1⟩ ⟨0, 7, 0, 0, 0x24⟩),
    (0x425081380060000000003FFC, .spld ⟨1, 1, 0, 1⟩ ⟨7, 0, 0, 6, 0x3ffc⟩),
    (0x826081380020000000003FFC, .spst ⟨2, 1, 0, 1⟩ ⟨7, 0, 0, 2, 0x3ffc⟩),
    (0xC270813A4750000000000008, .pld ⟨3, 1, 0, 1⟩ ⟨7, 9, 7, 5, 8⟩),
    (0x0280813A4040000000000008, .sld ⟨0, 1, 0, 1⟩ ⟨7, 9, 0, 4, 8⟩),
    (0x4290813A4030000000000008, .sst ⟨1, 1, 0, 1⟩ ⟨7, 9, 0, 3, 8⟩),
    (0x02A081014000400000000000, .putx ⟨0, 1, 0, 1⟩ ⟨0, 5, 0, 0, 1, 0, 0, 0⟩),
    (0x82B081280000C00000000000, .getx ⟨2, 1, 0, 1⟩ ⟨5, 0, 0, 0, 3, 0, 0, 0⟩)] = true := by decide +kernel

/-- Encodings of words of the four program counters (06_kernel) by R23, R31 and R36. -/
theorem test_decode_control : reads [
    (0x440081A000000000FFFFFFFD, .pbr ⟨1, 1, 0, 1⟩ ⟨5, 0, 0, 0, 0, 0, 0, 0, 0, 0xfffffffd⟩),
    (0x041081240000000000000000, .br ⟨0, 1, 0, 1⟩ ⟨1, 0, 1, 0, 0, 0, 0, 0, 0, 0⟩),
    (0x842000E03000000000000000, .bro ⟨2, 0, 0, 0⟩ ⟨7, 0, 0, 0, 0, 3, 0, 0, 0, 0⟩),
    (0xC4308100003000000000000C, .jmpl ⟨3, 1, 0, 1⟩ ⟨0, 0, 0, 0, 0, 0, 0, 0, 6, 0xc⟩),
    (0x0440001BCF40000000000000, .loop ⟨0, 0, 0, 0⟩ ⟨0, 3, 0, 1, 7, 0, 0x1e, 1, 0, 0⟩),
    (0x845000104040000000000000, .loopj ⟨2, 0, 0, 0⟩ ⟨0, 2, 0, 0, 1, 0, 0, 1, 0, 0⟩),
    (0xC46081080000000000000000, .lbrk ⟨3, 1, 0, 1⟩ ⟨0, 1, 0, 0, 0, 0, 0, 0, 0, 0⟩),
    (0x847081000000000000000000, .nop ⟨2, 1, 0, 1⟩ ⟨0, 0, 0, 0, 0, 0, 0, 0, 0, 0, 0⟩),
    (0xC48081000000000000000000, .taskend ⟨3, 1, 0, 1⟩ ⟨0, 0, 0, 0, 0, 0, 0, 0, 0, 0, 0⟩)] = true := by decide +kernel

/-- Encodings of stream words (09_streams) by R23, R31 and R36. -/
theorem test_decode_stream : reads [
    (0x480081241E283FFFE000000F, .sopen ⟨1, 1, 0, 1⟩ ⟨2, 2, 0, 1, 1, 1, 2, 5, 0, 0x1ffff, 0xf⟩),
    (0x481081F00000000000000000, .sclose ⟨1, 1, 0, 1⟩ ⟨0xf, 0, 0, 0, 0, 0, 0, 0, 0, 0, 0⟩),
    (0x481081F00000000000000001, .scloseAbort ⟨1, 1, 0, 1⟩ ⟨0xf, 0, 0, 0, 0, 0, 0, 0, 0, 0, 1⟩),
    (0x482081900007C00000000000, .sstat ⟨1, 1, 0, 1⟩ ⟨9, 0, 0, 0, 0, 0, 0, 0, 0x1f, 0, 0⟩),
    (0x48308101C020000000000080, .sfeed ⟨1, 1, 0, 1⟩ ⟨0, 0, 7, 0, 0, 0, 0, 4, 0, 0, 0x80⟩),
    (0x484081100000000000000000, .sdrain ⟨1, 1, 0, 1⟩ ⟨1, 0, 0, 0, 0, 0, 0, 0, 0, 0, 0⟩),
    (0x4850810020180000A0000000, .spref ⟨1, 1, 0, 1⟩ ⟨0, 0, 0, 2, 0, 0, 0, 3, 0, 5, 0⟩)] = true := by decide +kernel

/-- Encodings of command words (10_copy, 13_queue) by R23, R31 and R36. -/
theorem test_decode_command : reads [
    (0x09008103FFFFFF8080000300, .xcopy ⟨0, 1, 0, 1⟩ ⟨3, 0xffff, 0xff, 0x80, 0x10000, 0, 1, 1, 0, 0⟩),
    (0x49108103FFFFFF8080008300, .xfill ⟨1, 1, 0, 1⟩ ⟨3, 0xffff, 0xff, 0x80, 0x10001, 0, 1, 1, 0, 0⟩),
    (0x09208103FFFFFF8080010300, .xacc ⟨0, 1, 0, 1⟩ ⟨3, 0xffff, 0xff, 0x80, 0x10002, 0, 1, 1, 0, 0⟩),
    (0x49308103FFFFFF8080018300, .xfao ⟨1, 1, 0, 1⟩ ⟨3, 0xffff, 0xff, 0x80, 0x10003, 0, 1, 1, 0, 0⟩),
    (0x09408103FFFFFF8080020300, .xcas ⟨0, 1, 0, 1⟩ ⟨3, 0xffff, 0xff, 0x80, 0x10004, 0, 1, 1, 0, 0⟩),
    (0x49508103FFFFFF8080028300, .xgath ⟨1, 1, 0, 1⟩ ⟨3, 0xffff, 0xff, 0x80, 0x10005, 0, 1, 1, 0, 0⟩),
    (0x09608103FFFFFF8080030300, .xscat ⟨0, 1, 0, 1⟩ ⟨3, 0xffff, 0xff, 0x80, 0x10006, 0, 1, 1, 0, 0⟩),
    (0x49708103FFFFFF8080038300, .xcmo ⟨1, 1, 0, 1⟩ ⟨3, 0xffff, 0xff, 0x80, 0x10007, 0, 1, 1, 0, 0⟩),
    (0x09808103FFFFFF8080040300, .xsig ⟨0, 1, 0, 1⟩ ⟨3, 0xffff, 0xff, 0x80, 0x10008, 0, 1, 1, 0, 0⟩),
    (0x0B508100000000000003C460, .qpush ⟨0, 1, 0, 1⟩ ⟨0, 0, 0, 0, 7, 0x11, 0, 0, 3, 0⟩),
    (0x0B608100000000000003C45E, .qpoll ⟨0, 1, 0, 1⟩ ⟨0, 0, 0, 0, 7, 0x11, 0, 0, 2, 0x1e⟩),
    (0x0B7081010002000000038200, .tqpush ⟨0, 1, 0, 1⟩ ⟨1, 2, 0, 0, 7, 0, 1, 0, 0, 0⟩)] = true := by decide +kernel

/-- Encodings of system words (11_memory to 17_region) by R23, R31 and R36, part 1. -/
theorem test_decode_system1 : reads [
    (0x8A0081000000042020000000, .fence ⟨2, 1, 0, 1⟩ ⟨0, 0, 0, 0, 0, 4, 0, 0x10, 2, 0, 0⟩),
    (0xCA808100C007F980000FFFFF, .ssig ⟨3, 1, 0, 1⟩ ⟨0, 3, 0, 0, 0xff, 1, 2, 0, 0, 0, 0xfffff⟩),
    (0x0A9081282BF8194000000004, .swait ⟨0, 1, 0, 1⟩ ⟨5, 0, 0x15, 0x3f, 3, 1, 1, 0, 0, 0, 4⟩),
    (0x4AA08100C004000000000001, .sset ⟨1, 1, 0, 1⟩ ⟨0, 3, 0, 0, 0x80, 0, 0, 0, 0, 0, 1⟩),
    (0x0AB08107C001F80000003040, .barm ⟨0, 1, 0, 1⟩ ⟨0, 0x1f, 0, 0, 0x3f, 0, 0, 0, 0, 0, 0x3040⟩),
    (0x0AC081280010180000000000, .bwait ⟨0, 1, 0, 1⟩ ⟨5, 0, 0, 2, 3, 0, 0, 0, 0, 0, 0⟩),
    (0xCAC081280C10180000100007, .bwaitTile ⟨3, 1, 0, 1⟩ ⟨5, 0, 6, 2, 3, 0, 0, 0, 0, 1, 7⟩),
    (0x8AD081280C10180000000007, .btestTile ⟨2, 1, 0, 1⟩ ⟨5, 0, 6, 2, 3, 0, 0, 0, 0, 0, 7⟩),
    (0x4AD081280000180000100000, .btestStat ⟨1, 1, 0, 1⟩ ⟨5, 0, 0, 0, 3, 0, 0, 0, 0, 1, 0⟩),
    (0x4AD081280000180000200000, .btestCnt ⟨1, 1, 0, 1⟩ ⟨5, 0, 0, 0, 3, 0, 0, 0, 0, 2, 0⟩),
    (0x4AD081280000180000300000, .btestLate ⟨1, 1, 0, 1⟩ ⟨5, 0, 0, 0, 3, 0, 0, 0, 0, 3, 0⟩),
    (0x0AE081000001F00000000000, .brst ⟨0, 1, 0, 1⟩ ⟨0, 0, 0, 0, 0x3e, 0, 0, 0, 0, 0, 0⟩),
    (0x4B0081280008100000000004, .rwaitf ⟨1, 1, 0, 1⟩ ⟨5, 0, 0, 1, 2, 0, 0, 0, 0, 0, 4⟩),
    (0x0B10812813F8780000000004, .rwaite ⟨0, 1, 0, 1⟩ ⟨5, 0, 9, 0x3f, 0xf, 0, 0, 0, 0, 0, 4⟩),
    (0x0B2081281200780000000004, .rclaim ⟨0, 1, 0, 1⟩ ⟨5, 0, 9, 0, 0xf, 0, 0, 0, 0, 0, 4⟩),
    (0x4B3081001200780000000004, .rpub ⟨1, 1, 0, 1⟩ ⟨0, 0, 9, 0, 0xf, 0, 0, 0, 0, 0, 4⟩),
    (0x4B3081024000780000100004, .rpubInit ⟨1, 1, 0, 1⟩ ⟨0, 9, 0, 0, 0xf, 0, 0, 0, 0, 1, 4⟩),
    (0x0B3081000000780000200000, .rpubClose ⟨0, 1, 0, 1⟩ ⟨0, 0, 0, 0, 0xf, 0, 0, 0, 0, 2, 0⟩),
    (0x0B4081001200780000000004, .rcons ⟨0, 1, 0, 1⟩ ⟨0, 0, 9, 0, 0xf, 0, 0, 0, 0, 0, 4⟩),
    (0x0B4081001200780000100004, .rconsUpto ⟨0, 1, 0, 1⟩ ⟨0, 0, 9, 0, 0xf, 0, 0, 0, 0, 1, 4⟩),
    (0x4B4081480000700000200000, .rconsPub ⟨1, 1, 0, 1⟩ ⟨9, 0, 0, 0, 0xe, 0, 0, 0, 0, 2, 0⟩),
    (0x4B4081480000700000300000, .rconsCons ⟨1, 1, 0, 1⟩ ⟨9, 0, 0, 0, 0xe, 0, 0, 0, 0, 3, 0⟩),
    (0x4B4081480000700000400000, .rconsClm ⟨1, 1, 0, 1⟩ ⟨9, 0, 0, 0, 0xe, 0, 0, 0, 0, 4, 0⟩),
    (0x4B4081480000700000500000, .rconsDrops ⟨1, 1, 0, 1⟩ ⟨9, 0, 0, 0, 0xe, 0, 0, 0, 0, 5, 0⟩)] = true := by decide +kernel

/-- Encodings of system words (11_memory to 17_region) by R23, R31 and R36, part 2. -/
theorem test_decode_system2 : reads [
    (0x4B4081480000700000600000, .rconsDropb ⟨1, 1, 0, 1⟩ ⟨9, 0, 0, 0, 0xe, 0, 0, 0, 0, 6, 0⟩),
    (0x4C0081000000000000700000, .trap ⟨1, 1, 0, 1⟩ ⟨0, 0, 0, 0, 0, 0, 0, 0, 0, 7, 0⟩),
    (0xCC108129800000000FF00000, .svc ⟨3, 1, 0, 1⟩ ⟨5, 6, 0, 0, 0, 0, 0, 0, 0, 0xff, 0⟩),
    (0x8C2081000000000000000000, .rett ⟨2, 1, 0, 1⟩ ⟨0, 0, 0, 0, 0, 0, 0, 0, 0, 0, 0⟩),
    (0x0C2081000000000000100000, .rettAbort ⟨0, 1, 0, 1⟩ ⟨0, 0, 0, 0, 0, 0, 0, 0, 0, 1, 0⟩),
    (0x0C3081280048000000000000, .yield ⟨0, 1, 0, 1⟩ ⟨5, 0, 0, 9, 0, 0, 0, 0, 0, 0, 0⟩),
    (0x8C4081014C00000000200002, .csave ⟨2, 1, 0, 1⟩ ⟨0, 5, 6, 0, 0, 0, 0, 0, 0, 2, 2⟩),
    (0x4C4081000000000000F00000, .csaveEnd ⟨1, 1, 0, 1⟩ ⟨0, 0, 0, 0, 0, 0, 0, 0, 0, 0xf, 0⟩),
    (0x0C5081000000000000000002, .crest ⟨0, 1, 0, 1⟩ ⟨0, 0, 0, 0, 0, 0, 0, 0, 0, 0, 2⟩),
    (0xCC5081000000000000F00000, .crestEnd ⟨3, 1, 0, 1⟩ ⟨0, 0, 0, 0, 0, 0, 0, 0, 0, 0xf, 0⟩),
    (0x0C6081298000000000000000, .idle ⟨0, 1, 0, 1⟩ ⟨5, 6, 0, 0, 0, 0, 0, 0, 0, 0, 0⟩),
    (0x0C8081014C00000000000010, .tlbinvPage ⟨0, 1, 0, 1⟩ ⟨0, 5, 6, 0, 0, 0, 0, 0, 0, 0, 0x10⟩),
    (0x0C8081000C00000000100000, .tlbinvAsid ⟨0, 1, 0, 1⟩ ⟨0, 0, 6, 0, 0, 0, 0, 0, 0, 1, 0⟩),
    (0x0C8081000000000000200000, .tlbinvAll ⟨0, 1, 0, 1⟩ ⟨0, 0, 0, 0, 0, 0, 0, 0, 0, 2, 0⟩),
    (0x0C9081298000000000000000, .tlbprobe ⟨0, 1, 0, 1⟩ ⟨5, 6, 0, 0, 0, 0, 0, 0, 0, 0, 0⟩),
    (0x0D0081000000000000000000, .sealWord ⟨0, 1, 0, 1⟩ ⟨0, 0, 0, 0, 0, 0, 0, 0, 0, 0, 0⟩),
    (0x0D0081000000000000100000, .sealWait ⟨0, 1, 0, 1⟩ ⟨0, 0, 0, 0, 0, 0, 0, 0, 0, 1, 0⟩),
    (0x8D1081000000000000010305, .pmarkV ⟨2, 1, 0, 1⟩ ⟨0, 0, 0, 0, 0, 0, 0, 0, 0, 0, 0x10305⟩),
    (0x4D1081014C00000000000009, .pmarkA ⟨1, 1, 0, 1⟩ ⟨0, 5, 6, 0, 0, 0, 0, 0, 0, 0, 9⟩),
    (0x8D2081000000000000010305, .pclrV ⟨2, 1, 0, 1⟩ ⟨0, 0, 0, 0, 0, 0, 0, 0, 0, 0, 0x10305⟩),
    (0x4D2081014C00000000000009, .pclrA ⟨1, 1, 0, 1⟩ ⟨0, 5, 6, 0, 0, 0, 0, 0, 0, 0, 9⟩)] = true := by decide +kernel

/-- Encodings of vector words (07_tiles) by R23, R31 and R36, part 1. -/
theorem test_decode_vector1 : reads [
    (0x9000810005400080503CF0C0, .vadd ⟨2, 1, 0, 1⟩ ⟨0x54, 0x80, 0x503cf, 1, 4, 0, 0⟩),
    (0x9010810005400080503CF0C0, .vsub ⟨2, 1, 0, 1⟩ ⟨0x54, 0x80, 0x503cf, 1, 4, 0, 0⟩),
    (0x9020810005400080503CF0C0, .vmul ⟨2, 1, 0, 1⟩ ⟨0x54, 0x80, 0x503cf, 1, 4, 0, 0⟩),
    (0x9030810005400080503CF0C0, .vfma ⟨2, 1, 0, 1⟩ ⟨0x54, 0x80, 0x503cf, 1, 4, 0, 0⟩),
    (0x9040810005400080503CF0C0, .vfms ⟨2, 1, 0, 1⟩ ⟨0x54, 0x80, 0x503cf, 1, 4, 0, 0⟩),
    (0x9050810004000080800C0E80, .vmin ⟨2, 1, 0, 1⟩ ⟨0x40, 0x80, 0x800c0, 0x1d, 0, 0, 0⟩),
    (0x9060810004000080800C0E80, .vmax ⟨2, 1, 0, 1⟩ ⟨0x40, 0x80, 0x800c0, 0x1d, 0, 0, 0⟩),
    (0x907081000400008000000A08, .vabs ⟨2, 1, 0, 1⟩ ⟨0x40, 0x80, 0, 0x14, 0, 1, 0⟩),
    (0x908081000400008000000A08, .vneg ⟨2, 1, 0, 1⟩ ⟨0x40, 0x80, 0, 0x14, 0, 1, 0⟩),
    (0x9090811004F10080DFFFF000, .vand ⟨2, 1, 0, 1⟩ ⟨0x1004f, 0x10080, 0xdffff, 0, 0, 0, 0⟩),
    (0x90A0811004F10080DFFFF000, .vor ⟨2, 1, 0, 1⟩ ⟨0x1004f, 0x10080, 0xdffff, 0, 0, 0, 0⟩),
    (0x90B0811004F10080DFFFF000, .vxor ⟨2, 1, 0, 1⟩ ⟨0x1004f, 0x10080, 0xdffff, 0, 0, 0, 0⟩),
    (0x90C0812007F300BF00000000, .vnot ⟨2, 1, 0, 1⟩ ⟨0x2007f, 0x300bf, 0, 0, 0, 0, 0⟩),
    (0x90D0810004000080D0003A88, .vshl ⟨2, 1, 0, 1⟩ ⟨0x40, 0x80, 0xd0003, 0x15, 0, 1, 0⟩),
    (0x90E08100040000800BFC0B00, .vshr ⟨2, 1, 0, 1⟩ ⟨0x40, 0x80, 0xbfc0, 0x16, 0, 0, 0⟩),
    (0x90F0810004000080F001FE00, .vsar ⟨2, 1, 0, 1⟩ ⟨0x40, 0x80, 0xf001f, 0x1c, 0, 0, 0⟩),
    (0x91008100040000800BFC0105, .vcmp ⟨2, 1, 0, 1⟩ ⟨0x40, 0x80, 0xbfc0, 2, 0, 0, 5⟩),
    (0x9110810004000080BFFF0000, .vsel ⟨2, 1, 0, 1⟩ ⟨0x40, 0x80, 0x2ff, 0x1f, 1, 0, 0, 0, 0, 0⟩),
    (0x91208100040E000300000000, .vmov ⟨2, 1, 0, 1⟩ ⟨0x40, 0xe0003, 0, 0, 0, 0, 0⟩),
    (0x913081000400008000001039, .vcvt ⟨2, 1, 0, 1⟩ ⟨0x40, 0x80, 1, 0, 3, 1, 1⟩),
    (0x9140810004000080F0005A8B, .vrqs ⟨2, 1, 0, 1⟩ ⟨0x40, 0x80, 0xf0005, 0x15, 0, 1, 3⟩),
    (0x91508100040000800BFC0B0B, .vmaci ⟨2, 1, 0, 1⟩ ⟨0x40, 0x80, 0xbfc0, 0x16, 0, 1, 3⟩),
    (0x91608100040000800BFC0A88, .vdot4 ⟨2, 1, 0, 1⟩ ⟨0x40, 0x80, 0xbfc0, 0x15, 0, 1, 0⟩),
    (0x917081000400008000000017, .vsfu ⟨2, 1, 0, 1⟩ ⟨0x40, 0x80, 0, 0, 1, 0, 7⟩)] = true := by decide +kernel

/-- Encodings of vector words (07_tiles) by R23, R31 and R36, part 2. -/
theorem test_decode_vector2 : reads [
    (0x9180810004000080D000F000, .vrotr ⟨2, 1, 0, 1⟩ ⟨0x40, 0x80, 0xd000f, 0, 0, 0, 0⟩),
    (0x9190810004000080F0009000, .vrotc ⟨2, 1, 0, 1⟩ ⟨0x40, 0x80, 0xf0009, 0, 0, 0, 0⟩),
    (0x91A0810004000080D000F000, .vbcr ⟨2, 1, 0, 1⟩ ⟨0x40, 0x80, 0xd000f, 0, 0, 0, 0⟩),
    (0x91B0810004000080D003F000, .vbcc ⟨2, 1, 0, 1⟩ ⟨0x40, 0x80, 0xd003f, 0, 0, 0, 0⟩),
    (0x91C081200450008000000020, .vredr ⟨2, 1, 0, 1⟩ ⟨0x20045, 0x80, 0, 0, 2, 0, 0⟩),
    (0x91D081100450008000000E05, .vredc ⟨2, 1, 0, 1⟩ ⟨0x10045, 0x80, 0, 0x1c, 0, 0, 5⟩),
    (0x91E081000400BF0000000000, .vtrn ⟨2, 1, 0, 1⟩ ⟨0x40, 0xbf00, 0, 0, 0, 0, 0⟩),
    (0x91F08100040000800BFC0000, .vperm ⟨2, 1, 0, 1⟩ ⟨0x40, 0x80, 0xbfc0, 0, 0, 0, 0⟩),
    (0x920081000400BF8000000000, .zip2 ⟨2, 1, 0, 1⟩ ⟨0x40, 0xbf80, 0, 0, 0, 0, 0⟩),
    (0x921081000400BF4000000000, .zip3 ⟨2, 1, 0, 1⟩ ⟨0x40, 0xbf40, 0, 0, 0, 0, 0⟩),
    (0x922081000400BF0000000000, .zip4 ⟨2, 1, 0, 1⟩ ⟨0x40, 0xbf00, 0, 0, 0, 0, 0⟩),
    (0x9230810BF800004000000000, .unzip2 ⟨2, 1, 0, 1⟩ ⟨0xbf80, 0x40, 0, 0, 0, 0, 0⟩),
    (0x9240810BF400004000000000, .unzip3 ⟨2, 1, 0, 1⟩ ⟨0xbf40, 0x40, 0, 0, 0, 0, 0⟩),
    (0x9250810BF000004000000000, .unzip4 ⟨2, 1, 0, 1⟩ ⟨0xbf00, 0x40, 0, 0, 0, 0, 0⟩),
    (0x9260810000000080024F001F, .cpush ⟨2, 1, 0, 1⟩ ⟨0, 0x80, 9, 7, 1, 0, 0, 0, 1, 0xf⟩),
    (0x92708100080000000000000E, .cpop ⟨2, 1, 0, 1⟩ ⟨0x80, 0, 0, 0, 0, 0, 0, 0, 0, 0xe⟩),
    (0x9280810004012345ABCDE300, .vlds ⟨2, 1, 0, 1⟩ ⟨0x40, 0x12345, 0xabcde, 6, 0, 0, 0⟩),
    (0x9290810004012345ABCDE000, .vsts ⟨2, 1, 0, 1⟩ ⟨0x40, 0x12345, 0xabcde, 0, 0, 0, 0⟩),
    (0x92A08100040C000700000000, .vpop ⟨2, 1, 0, 1⟩ ⟨0x40, 0xc0007, 0, 0, 0, 0, 0⟩),
    (0x92A08100000C0003D0080001, .vpopSkip ⟨2, 1, 0, 1⟩ ⟨0, 0xc0003, 0xd0080, 0, 0, 0, 1⟩),
    (0x92B081000000004000000001, .vpchk ⟨2, 1, 0, 1⟩ ⟨0, 0x40, 0, 0, 0, 0, 1⟩),
    (0x92C08100040000800146E000, .viota ⟨2, 1, 0, 1⟩ ⟨0x40, 0x80, 5, 3, 0, 0x1c, 0, 0, 0, 0⟩),
    (0x92D0810004000080D03FF000, .vsplat ⟨2, 1, 0, 1⟩ ⟨0x40, 0x80, 0xd03ff, 0, 0, 0, 0⟩)] = true := by decide +kernel

/-- Encodings of matrix words (08_array) by R23, R31 and R36. -/
theorem test_decode_matrix : reads [
    (0xE00081800FFFF00000000000, .mcfg ⟨3, 1, 0, 1⟩ ⟨2, 0, 0, 0xffff, 0, 0, 0, 0, 0, 0, 0, 0⟩),
    (0xE010816B6123400000000040, .mldw ⟨3, 1, 0, 1⟩ ⟨1, 0x15, 0x16, 0x1234, 0, 0, 0, 0, 2, 0, 0, 0⟩),
    (0xE0208102200070000000001E, .mldwq ⟨3, 1, 0, 1⟩ ⟨0, 1, 2, 7, 0, 0, 0, 0, 0, 1, 7, 0⟩),
    (0xE03081800000000000000000, .mswap ⟨3, 1, 0, 1⟩ ⟨2, 0, 0, 0, 0, 0, 0, 0, 0, 0, 0, 0⟩),
    (0xE040810210000FFFFFFFFF81, .mstr ⟨3, 1, 0, 1⟩ ⟨0, 1, 1, 0, 0x3f, 1, 0x3ff, 0xfffff, 0, 0, 0, 1⟩),
    (0xE0508177B000500000000480, .mstrq ⟨3, 1, 0, 1⟩ ⟨1, 0x1b, 0x1b, 5, 0, 0, 0, 9, 0, 0, 0, 0⟩),
    (0xE06081483000200000020017, .mmv ⟨3, 1, 0, 1⟩ ⟨1, 4, 3, 2, 0, 0, 0, 0x400, 0, 1, 3, 1⟩),
    (0xE070812F5800000000000060, .mspm ⟨3, 1, 0, 1⟩ ⟨0, 0x17, 0x15, 0x8000, 0, 0, 0, 0, 3, 0, 0, 0⟩),
    (0xE08081000000001FF891A280, .macz ⟨3, 1, 0, 1⟩ ⟨0, 0, 0, 0, 0, 0, 0x3ff, 0x12345, 0, 0, 0, 0⟩),
    (0xE090813940000017C200000E, .macrd ⟨3, 1, 0, 1⟩ ⟨0, 0x1c, 0x14, 0, 0, 0, 0x2f8, 0x40000, 0, 0, 7, 0⟩),
    (0xE0A0810040100001F8000180, .macst ⟨3, 1, 0, 1⟩ ⟨0, 0, 4, 0x100, 0, 0, 0x3f, 3, 0, 0, 0, 0⟩),
    (0xE0B0810000100001F8000180, .macld ⟨3, 1, 0, 1⟩ ⟨0, 0, 0, 0x100, 0, 0, 0x3f, 3, 0, 0, 0, 0⟩),
    (0xE0C081400000000000000000, .mfin ⟨3, 1, 0, 1⟩ ⟨1, 0, 0, 0, 0, 0, 0, 0, 0, 0, 0, 0⟩)] = true := by decide +kernel

/-- Encodings of sequencer words by R391 and R392, part 1. -/
theorem test_decode_seq1 : readsSeq [
    (0x00000000000000FF, .halt ⟨0, 0, 0xFF⟩),
    (0x0112000000000000, .mov ⟨1, 2, 0x0⟩),
    (0x0250800000000001, .seqMovi ⟨5, 0, 0x800000000001⟩),
    (0x03120300FFFFFFFF, .seqAdd ⟨1, 2, 0x300FFFFFFFF⟩),
    (0x04120300FFFFFFFE, .seqSub ⟨1, 2, 0x300FFFFFFFE⟩),
    (0x05120300FFFFFFFD, .seqAnd ⟨1, 2, 0x300FFFFFFFD⟩),
    (0x06120300FFFFFFFC, .seqOr ⟨1, 2, 0x300FFFFFFFC⟩),
    (0x07120300FFFFFFFB, .seqXor ⟨1, 2, 0x300FFFFFFFB⟩),
    (0x08120300FFFFFFFA, .seqShl ⟨1, 2, 0x300FFFFFFFA⟩),
    (0x09120300FFFFFFF9, .seqShr ⟨1, 2, 0x300FFFFFFF9⟩),
    (0x0A12B30000000007, .seqCmp ⟨1, 2, 0xB30000000007⟩),
    (0x10000000FFFFFFFE, .seqBr ⟨0, 0, 0xFFFFFFFE⟩),
    (0x1140000000000005, .brcNz ⟨4, 0, 0x5⟩),
    (0x1140100000000005, .brcZ ⟨4, 0, 0x100000000005⟩),
    (0x12F0000000000009, .call ⟨15, 0, 0x9⟩),
    (0x130E000000000000, .ret ⟨0, 14, 0x0⟩),
    (0x1812300000000008, .ldx ⟨1, 2, 0x300000000008⟩),
    (0x1912200000000008, .stx ⟨1, 2, 0x200000000008⟩),
    (0x2010020000000064, .evwait ⟨1, 0, 0x20000000064⟩),
    (0x2112000000000020, .evpop ⟨1, 2, 0x20⟩),
    (0x2212000000000040, .cmdpop ⟨1, 2, 0x40⟩),
    (0x23020000000000FF, .sems ⟨0, 2, 0xFF⟩),
    (0x2302100000000000, .semsDone ⟨0, 2, 0x100000000000⟩),
    (0x2402000000000007, .semw ⟨0, 2, 0x7⟩)] = true := by decide +kernel

/-- Encodings of sequencer words by R391 and R392, part 2. -/
theorem test_decode_seq2 : readsSeq [
    (0x2512000000000064, .dline ⟨1, 2, 0x64⟩),
    (0x3012000000000000, .put ⟨1, 2, 0x0⟩),
    (0x3112000000000040, .putm ⟨1, 2, 0x40⟩),
    (0x3212000000000080, .get ⟨1, 2, 0x80⟩),
    (0x33120000000000C0, .atom ⟨1, 2, 0xC0⟩),
    (0x3412000000000100, .redc ⟨1, 2, 0x100⟩),
    (0x35A70C0000000000, .retx ⟨10, 7, 0xC0000000000⟩),
    (0x3612000000000020, .flowOpen ⟨1, 2, 0x20⟩),
    (0x3610100000000000, .flowClose ⟨1, 0, 0x100000000000⟩),
    (0x3612200000000020, .flowStat ⟨1, 2, 0x200000000020⟩),
    (0x3832000000000000, .xplan ⟨3, 2, 0x0⟩),
    (0x3950000000001000, .xstep ⟨5, 0, 0x1000⟩),
    (0x3C12130000000040, .keyld ⟨1, 2, 0x130000000040⟩),
    (0x3D40150000000000, .keysw ⟨4, 0, 0x150000000000⟩)] = true := by decide +kernel

/-! ### Worked headers and words -/

/-- The header of s_last (02_words), of s_kw (22), of s_w1 (25) and of s_s2 (27). -/
theorem test_decode_headers :
    decodeHdr 0xE5004005005008F8 = ⟨0xE5, 4, 5, 0, 0, 5, 0, 0, 0, 1, 0, 0, 0, 0xF8⟩ ∧
    decodeHdr 0xE500B005000082D2 = ⟨0xE5, 11, 5, 0, 0, 0, 0, 1, 0, 0, 0, 1, 0, 0xD2⟩ ∧
    decodeHdr 0xE5002004000000C1 = ⟨0xE5, 2, 4, 0, 0, 0, 0, 0, 0, 0, 0, 0, 0, 0xC1⟩ ∧
    decodeHdr 0xE5012004000722E5 = ⟨0xE5, 18, 4, 0, 0, 0, 7, 0, 2, 0, 0, 1, 0, 0xE5⟩ := by decide +kernel

/-- The worked words of 02, 05 to 13: ADD, CMP, LOOP, BR, VRQS, MSTR, SOPEN, XCOPY, FENCE, BWAIT, RWAITF. -/
theorem test_decode_worked1 : reads [
    (0x400081299200000000000000, .add ⟨1, 1, 0, 1⟩ ⟨5, 6, 9, 0, 0, 0, 0, 0⟩),
    (0x817000394C00C40000000000, .cmp ⟨2, 0, 0, 0⟩ ⟨7, 5, 6, 0, 3, 0, 2, 0⟩),
    (0x044000004000000000000003, .loop ⟨0, 0, 0, 0⟩ ⟨0, 0, 0, 0, 1, 0, 0, 0, 0, 3⟩),
    (0x041401240000000000000000, .br ⟨0, 8, 0, 1⟩ ⟨1, 0, 1, 0, 0, 0, 0, 0, 0, 0⟩),
    (0x91400000A4000A00F0005A84, .vrqs ⟨2, 0, 0, 0⟩ ⟨0x00A40, 0x00A00, 0xF0005, 0x15, 0, 0, 4⟩),
    (0x490000030010040100600300, .xcopy ⟨1, 0, 0, 0⟩ ⟨3, 16, 4, 1, 0xC0, 0, 1, 1, 0, 0⟩),
    (0x0A0000000000000480000000, .fence ⟨0, 0, 0, 0⟩ ⟨0, 0, 0, 0, 0, 0, 0, 0b00010, 0b01000, 0, 0⟩),
    (0x0AC000280010180000000000, .bwait ⟨0, 0, 0, 0⟩ ⟨5, 0, 0, 2, 3, 0, 0, 0, 0, 0, 0⟩),
    (0x4B0000280008100000000004, .rwaitf ⟨1, 0, 0, 0⟩ ⟨5, 0, 0, 1, 2, 0, 0, 0, 0, 0, 4⟩)] = true := by decide +kernel

/-- The worked words of 15 to 17 and 20 to 27. -/
theorem test_decode_worked2 : reads [
    (0x4C0000000000000000700000, .trap ⟨1, 0, 0, 0⟩ ⟨0, 0, 0, 0, 0, 0, 0, 0, 0, 7, 0⟩),
    (0x8C2000000000000000000000, .rett ⟨2, 0, 0, 0⟩ ⟨0, 0, 0, 0, 0, 0, 0, 0, 0, 0, 0⟩),
    (0x8C4000014C00000000200002, .csave ⟨2, 0, 0, 0⟩ ⟨0, 5, 6, 0, 0, 0, 0, 0, 0, 2, 2⟩),
    (0x0C8000014C00000000000010, .tlbinvPage ⟨0, 0, 0, 0⟩ ⟨0, 5, 6, 0, 0, 0, 0, 0, 0, 0, 16⟩),
    (0x0D0000000000000000000000, .sealWord ⟨0, 0, 0, 0⟩ ⟨0, 0, 0, 0, 0, 0, 0, 0, 0, 0, 0⟩),
    (0x0D0000000000000000100000, .sealWait ⟨0, 0, 0, 0⟩ ⟨0, 0, 0, 0, 0, 0, 0, 0, 0, 1, 0⟩),
    (0x4D1000014C00000000000000, .pmarkA ⟨1, 0, 0, 0⟩ ⟨0, 5, 6, 0, 0, 0, 0, 0, 0, 0, 0⟩),
    (0x8D1000000000000000010305, .pmarkV ⟨2, 0, 0, 0⟩ ⟨0, 0, 0, 0, 0, 0, 0, 0, 0, 0, 0x10305⟩),
    (0x0AB000000000280000003040, .barm ⟨0, 0, 0, 0⟩ ⟨0, 0, 0, 0, 5, 0, 0, 0, 0, 0, 0x3040⟩),
    (0x0AC000680000280000000000, .bwait ⟨0, 0, 0, 0⟩ ⟨13, 0, 0, 0, 5, 0, 0, 0, 0, 0, 0⟩),
    (0x090000000000060100600100, .xcopy ⟨0, 0, 0, 0⟩ ⟨0, 0, 6, 1, 0xC0, 0, 0, 1, 0, 0⟩),
    (0x093000000000030100608100, .xfao ⟨0, 0, 0, 0⟩ ⟨0, 0, 3, 1, 0xC1, 0, 0, 1, 0, 0⟩)] = true ∧
    readsSeq [(0x3832000000000000, .xplan ⟨3, 2, 0⟩), (0x3950000000001000, .xstep ⟨5, 0, 0x1000⟩),
      (0x35A70C0000000000, .retx ⟨10, 7, 0x0C0000000000⟩)] = true := by decide +kernel

/-! ### What WellFormed refuses: a term for each check -/

def refused (l : List Instr) : Bool := l.all (fun i => !WellFormed i)

def zv : VT := ⟨0, 0x40, 0x80, 0, 0, 0, 0⟩
def zm : VM := ⟨0, 0x40, 0, 0, 0, 0, 0, 0, 0, 0⟩
def zx : MX := ⟨0, 0, 0, 0, 0, 0, 0, 0, 0, 0, 0, 0⟩
def zt : ST := ⟨0, 0, 0, 0, 0, 0, 0, 0, 0, 0, 0⟩
def zc : CM := ⟨0, 0, 0, 0, 0, 0, 0, 0, 0, 0⟩
def zy : SY := ⟨0, 0, 0, 0, 0, 0, 0, 0, 0, 0, 0⟩

theorem test_refused_scalar : refused [
    .add h0 { s3 with c := 1 }, .sub h0 { s3 with n := 1 }, .mul h0 { s3 with i := 1 }, .and h0 { s3 with cond := 1 },
    .mulh h0 { s3 with i := 1, b := 0 }, .div h0 { s3 with n := 1 }, .addi h0 { si with sub := 1 }, .addi h0 { si with n := 1 },
    .cmp h0 { s3 with cond := 12 }, .cmp h0 { s3 with imm := 1 }, .cmp h0 { s3 with c := 1 }, .cmp h0 { s3 with i := 1 },
    .sel h0 { s3 with i := 1 }, .sel h0 { s3 with imm := 1 }, .movi h0 si, .moviZ h0 { si with a := 0 }, .moviHi h0 { si with a := 0, n := 1, sub := 2 },
    .movw h0 ⟨1, 1, 0⟩, .movwZ h0 ⟨1, 2, 0⟩, .lea h0 { s3 with c := 1 }, .clz h0 s3, .popc h0 { s3 with b := 0, n := 1 },
    .bins h0 { s3 with imm := 1 }, .bins h0 { s3 with i := 1 }, .mfs h0 { si with a := 0, imm := 0x005 }, .mfs h0 si,
    .mts h0 { si with d := 0, imm := 0x017 }, .mts h0 si, .spld h0 { si with a := 0, imm := 16384 }, .spld h0 { si with a := 0, sub := 7 },
    .spst h0 { si with a := 0, sub := 4 }, .spst h0 { si with a := 0, sub := 3, imm := 16377 }, .pld h0 { si with n := 8 },
    .sld h0 { si with n := 1 }, .sst h0 { si with sub := 4 }, .putx h0 ⟨0, 2, 0, 0, 0, 0, 0, 0⟩, .putx h0 ⟨0, 2, 0, 0, 5, 0, 0, 0⟩,
    .getx h0 ⟨1, 2, 0, 0, 1, 0, 0, 0⟩] = true := by decide +kernel

theorem test_refused_control : refused [
    .pbr h0 { br with lc := 1 }, .br h0 { br with imm := 1 }, .bro h0 { br with q := 0 }, .bro ⟨0, 1, 0, 0⟩ { br with q := 1 },
    .jmpl h0 { br with t := 1 }, .loop ⟨0, 0, 0, 1⟩ br, .loop h0 { br with gc := 1 }, .loop h0 { br with cr := 1, imm := 1 },
    .loopj h0 { br with imm := 1 }, .lbrk h0 { br with s := 1 }, .nop h0 { zy with gd := 1 }, .taskend h0 { zy with opnd := 1 }] = true := by
  decide +kernel

theorem test_refused_stream : refused [
    .sopen h0 { zt with dk := 4 }, .sopen h0 { zt with pol := 3 }, .sopen h0 { zt with atm := 3 }, .sopen h0 { zt with dk := 1, oq := 1 },
    .sopen h0 { zt with dk := 2, imm := 16 }, .sopen h0 { zt with imm := 1 }, .sopen h0 { zt with gd := 1 }, .sclose h0 { zt with imm := 2 },
    .scloseAbort h0 zt, .sclose h0 { zt with pd := 1 }, .sstat h0 { zt with ga := 1 }, .sfeed h0 zt, .sfeed h0 { zt with imm := 129 },
    .sfeed h0 { zt with imm := 1, str := 1 }, .sdrain h0 { zt with gd := 1 }, .spref h0 { zt with pol := 1 }, .spref h0 { zt with oq := 1 },
    .xcopy h0 { zc with ws := 1 }, .xfill h0 { zc with wt := 1 }, .xacc h0 { zc with ss := 1 }, .xfao h0 { zc with si := 1 },
    .xcas h0 { zc with gt := 1 }, .xgath h0 { zc with qsel := 1 }, .xsig h0 { zc with gp := 1 }, .qpush h0 { zc with qsel := 4 },
    .qpush h0 { zc with gp := 1 }, .qpoll h0 { zc with qsel := 7 }, .tqpush h0 { zc with qsel := 1 }] = true := by decide +kernel

theorem test_refused_system : refused [
    .fence h0 zy, .fence h0 { zy with pa := 1 }, .fence h0 { zy with pa := 1, pb := 1 }, .fence h0 { zy with pa := 1, pb := 2, scope := 5 },
    .ssig h0 { zy with ord := 1 }, .ssig h0 { zy with scope := 5 }, .swait h0 { zy with ord := 2 }, .swait h0 { zy with ga := 1 },
    .sset h0 { zy with scope := 1 }, .barm h0 { zy with obj := 64 }, .bwait h0 { zy with code := 2 }, .bwaitTile h0 zy, .btestStat h0 { zy with code := 1, n := 1 },
    .btestTile h0 { zy with obj := 64 }, .brst h0 { zy with ga := 1 }, .rwaitf h0 { zy with obj := 16 }, .rwaite h0 { zy with ga := 1 }, .rclaim h0 { zy with n := 1 },
    .rpub h0 { zy with code := 3 }, .rpubInit h0 zy, .rpubClose h0 { zy with code := 2, opnd := 1 }, .rcons h0 { zy with gd := 1 }, .rconsPub h0 { zy with code := 7 },
    .trap h0 { zy with ga := 1 }, .svc h0 { zy with n := 1 }, .rett h0 { zy with code := 2 }, .yield h0 { zy with code := 1 }, .csave h0 { zy with code := 2 },
    .csave ⟨2, 0, 0, 0⟩ { zy with code := 4 }, .crest ⟨3, 0, 0, 0⟩ { zy with code := 8 }, .csave h0 { zy with ga := 1 }, .csaveEnd h0 { zy with code := 14 },
    .idle h0 { zy with gb := 1 }, .tlbinvPage h0 zy, .tlbinvAsid h0 { zy with code := 1, ga := 1 }, .tlbinvAll h0 { zy with code := 3 }, .tlbprobe h0 { zy with gb := 1 },
    .sealWord h0 { zy with code := 2 }, .sealWait h0 { zy with code := 1, gd := 1 }, .pmarkV h0 { zy with opnd := 0x80000 }, .pmarkV h0 { zy with ga := 1 },
    .pclrA h0 { zy with gd := 1 }] = true := by decide +kernel

theorem test_refused_vector : refused [
    .vadd h0 { zv with ty := 3 }, .vadd h0 { zv with rm := 5 }, .vadd h0 { zv with sat := 1 }, .vadd h0 { zv with d := 768 * 64 }, .vadd h0 { zv with d := 0x80000 },
    .vadd h0 { zv with d := 0x20 }, .vadd h0 { zv with a := 0x1001F }, .vadd h0 { zv with d := 0x10000 }, .vadd h0 { zv with b := 0x44000 },
    .vadd h0 { zv with b := 0xC0008 }, .vadd h0 { zv with b := 0xE0004 }, .vadd h0 { zv with b := 0xF0020 }, .vadd h0 { zv with ty := 0x1E, d := 0x20000, a := 0x20000, b := 0x20000 },
    .vmul h0 { zv with ty := 0x1E }, .vmin h0 { zv with rm := 1 }, .vabs h0 zv, .vneg h0 { zv with b := 0, sat := 1 }, .vand h0 { zv with ty := 1 },
    .vnot h0 zv, .vshl h0 zv, .vshr h0 { zv with ty := 0x1C, sat := 1 }, .vcmp h0 { zv with fn := 6 }, .vsel h0 { zm with mreg := 768 }, .vsel h0 { zm with ty := 1 },
    .vmov h0 zv, .vmov h0 { zv with d := 0x20000, a := 0xC0000, b := 0 }, .vcvt h0 { zv with b := 0x1F }, .vcvt h0 { zv with b := 0x20 }, .vcvt h0 { zv with b := 0x0D, ty := 0x09 },
    .vcvt h0 { zv with b := 0, fn := 1 }, .vrqs h0 { zv with ty := 0x15 }, .vrqs h0 { zv with b := 0xF0000, ty := 0x1C }, .vmaci h0 { zv with ty := 0x14 },
    .vdot4 h0 { zv with ty := 0x15, fn := 1 }, .vdot4 h0 { zv with ty := 0x15, a := 0x10000 }, .vsfu h0 { zv with b := 0, ty := 3 }, .vrotr h0 zv, .vrotr h0 { zv with d := 0x20000, a := 0x20000, b := 0xD0001 },
    .vrotc h0 { zv with d := 0x30000, a := 0x20000, b := 0xD0001 }, .vbcr h0 { zv with d := 0x10000, a := 0x10000, b := 0xD0001 }, .vredr h0 { zv with d := 0x10000, b := 0 },
    .vredc h0 { zv with b := 0, fn := 3 }, .vredc h0 { zv with b := 0, ty := 0x1C, fn := 6 }, .vtrn h0 { zv with a := 765 * 64, b := 0 }, .vperm h0 { zv with d := 0x20000, a := 0x20000 },
    .zip2 h0 { zv with d := 767 * 64, b := 0 }, .unzip4 h0 { zv with d := 1, b := 0 }, .cpush h0 { zm with d := 1 }, .cpush h0 { zm with fn := 2 }, .cpop h0 zm,
    .vlds h0 { zv with ty := 1 }, .vsts h0 { zv with d := 0xC0000 }, .vpop h0 { zv with b := 0 }, .vpopSkip h0 { zv with d := 0, a := 0xC0000, b := 0xD0081, fn := 1 },
    .vpchk h0 { zv with d := 0, b := 0, fn := 2 }, .viota h0 zm, .vsplat h0 zv] = true := by decide +kernel

theorem test_refused_matrix : refused [
    .mcfg h0 { zx with arr := 3 }, .mcfg h0 { zx with ta := 1 }, .mldw h0 { zx with tb := 0x15 }, .mldw h0 { zx with sp := 1 }, .mldw h0 { zx with nv := 1 },
    .mldw h0 { zx with acc := 1 }, .mldw h0 { zx with bar := 1 }, .mldw h0 { zx with bt := 1, spa := 1 }, .mldw h0 { zx with ta := 0x1F, tb := 0x1F }, .mldwq h0 { zx with spa := 8 },
    .mswap h0 { zx with spa := 1 }, .mstr h0 { zx with mv := 1 }, .mstr h0 { zx with tb := 9, ta := 9, bt := 1 }, .mstrq h0 { zx with tile := 1 }, .mmv h0 zx,
    .mmv h0 { zx with mv := 1, sp := 1 }, .mspm h0 zx, .mspm h0 { zx with ta := 0x15, tb := 0x15, sp := 1, z := 1 }, .macz h0 { zx with arr := 1 }, .macz h0 { zx with z := 1 },
    .macrd h0 { zx with tb := 5 }, .macrd h0 { zx with tile := 767, nv := 1 }, .macst h0 { zx with bt := 1 }, .macst h0 { zx with ta := 0x1C }, .macld h0 { zx with tb := 1 },
    .mfin h0 { zx with acc := 1 }] = true := by decide +kernel

theorem test_refused_seq : let w (a b f c imm : Nat) : SeqW := ⟨BitVec.ofNat 4 a, BitVec.ofNat 4 b, BitVec.ofNat 48 (f * 2 ^ 44 + c * 2 ^ 40 + imm)⟩
    refused [.halt (w 0 0 0 0 256), .halt (w 1 0 0 0 0), .mov (w 1 2 0 0 1), .seqAdd (w 1 2 1 3 0), .seqCmp (w 1 2 12 3 0), .seqBr (w 1 0 0 0 0),
      .brcNz (w 1 1 0 0 0), .brcZ (w 1 0 0 0 0), .call (w 1 1 0 0 0), .ret (w 1 1 0 0 0), .ldx (w 1 2 4 0 0), .stx (w 1 2 0 1 0), .evwait (w 1 1 0 0 0),
      .evpop (w 1 2 0 1 0), .sems (w 0 1 0 0 256), .semsDone (w 0 1 1 0 1), .semw (w 1 1 0 0 0), .dline (w 1 1 1 0 0), .put (w 1 2 0 1 0), .flowOpen (w 1 2 1 0 0),
      .flowClose (w 1 1 1 0 0), .flowStat (w 1 1 0 0 0), .retx (w 1 2 1 3 0), .keyld (w 1 2 2 3 0), .keysw (w 1 1 0 2 0), .keysw (w 1 0 0 2 1),
      .seqAdd ⟨1, 2, 0x000100000000⟩] = true := by decide +kernel
/-! ### Scalar words -/

theorem witness_ArithmeticResults : ∀ i ∈ [Instr.add h0 s3, .sub h0 s3, .addi h0 si, .mul h0 s3, .mulh h0 s3, .mulhu h0 s3],
    runs i h0 (at' .c) := allRun_spec (by decide +kernel)

theorem witness_DivisionResults_free : (∀ i ∈ [Instr.div h0 s3, .divu h0 s3, .rem h0 s3, .remu h0 s3], runs i h0 (at' .c)) ∧
    (at' .c).eng.divBusy ≤ (at' .c).cycle := ⟨allRun_spec (by decide +kernel), by decide +kernel⟩

/-- A divider that gives its result in the next cycle is still busy. -/
theorem witness_DivisionResults_busy : let s := atE .c (fun e => { e with divBusy := 1 })
    (∀ i ∈ [Instr.div h0 s3, .divu h0 s3, .rem h0 s3, .remu h0 s3], runs i h0 s) ∧ s.cycle < s.eng.divBusy :=
  ⟨allRun_spec (by decide +kernel), by decide +kernel⟩

theorem witness_LogicAndShiftResults : ∀ i ∈ [Instr.and h0 s3, .or h0 s3, .xor h0 s3, .andn h0 s3, .orn h0 s3, .shl h0 s3,
    .shr h0 s3, .sar h0 s3, .rotl h0 s3], runs i h0 (at' .v) := allRun_spec (by decide +kernel)

theorem witness_CompareAndSelectResults : ∀ i ∈ [Instr.min h0 s3, .max h0 s3, .minu h0 s3, .maxu h0 s3, .cmp h0 s3,
    .cmp h0 { s3 with cond := 0xB }, .sel h0 s3], runs i h0 (at' .m) := allRun_spec (by decide +kernel)

theorem witness_ConstantAndBitResults : ∀ i ∈ [Instr.movi h0 si, .moviZ h0 si, .moviHi h0 si, .movw h0 ⟨1, 0, 0⟩,
    .movwZ h0 ⟨1, 0, 0⟩, .lea h0 s3, .clz h0 s3, .ctz h0 s3, .popc h0 s3, .bext h0 s3, .bins h0 s3, .bset h0 s3,
    .bclr h0 s3], runs i h0 (at' .a) := allRun_spec (by decide +kernel)

theorem witness_SelectAndAddressRules : ∀ i ∈ [Instr.sel h0 s3, .lea h0 s3],
    runs i h0 (at' .c) ∧ WellFormed i = true := fun i hi => ⟨allRun_spec (by decide +kernel) i hi, by
  revert i; decide⟩

theorem witness_ScalarFrame : ∃ u, exec (.add h0 s3) (at' .c) = .next u ∧ scalarDest (.add h0 s3) = some 1 ∧
    check2 (.add h0 s3) (at' .c).eng = none := ⟨_, rfl, rfl, by decide +kernel⟩

theorem witness_KernelWordRoundTrip : let i := Instr.add ⟨1, 1, 0, 1⟩ s3
    hdrOf i = some ⟨1, 1, 0, 1⟩ ∧ opcOf i = some 0x000 ∧ WellFormed i = true ∧ (1 : Nat) ∈ enginesOf 0x000 := by
  decide

/-- KLIM's upper half and the word select of R75; the last number that MTS can write. -/
theorem witness_SpecialRegisterWords : let f : SI := { si with imm := 0x004 }
    (∀ i ∈ [Instr.mfs h0 f, .mts h0 f], runs i h0 (atSup .c)) ∧ sprRange f.imm.toNat ((atSup .c).g f.a) = true := by
  refine ⟨allRun_spec (by decide +kernel), by decide +kernel⟩
/-- Clauses of MTS: SLIPW at the ends of its range; a value above it; registers that user mode may not touch. -/
theorem witness_SpecialRegisterWords_range : let f : SI := { si with imm := 0x010 }
    let s (v : Nat) := atE .c (withG [(2, v)])
    (∀ v ∈ [1, 64], allRun [.mts h0 f] (s v) = true ∧ sprRange 0x010 ((s v).g f.a) = true) ∧
      (∀ v ∈ [0, 65], allRun [.mts h0 f] (s v) = true ∧ sprRange 0x010 ((s v).g f.a) = false) ∧
      sprAssigned (0x030 : BitVec 32) = true ∧ sprAccess 0x030 (statusPriv (at' .c).eng.status) false = false ∧
      sprAccess 0x030 (statusPriv (at' .c).eng.status) true = false := by decide +kernel

/-- VBANKPWR: bank 2 is turned on, and a bank that is on is turned off. -/
theorem witness_SpecialRegisterWords_banks : let f : SI := { si with imm := 0x011 }
    let on := atE .c (withG [(2, 0x15)])
    let off := atA .c (fun a => { (a.modEng .c (withG [(2, 5)])) with bankPwr := 0x15 })
    allRun [.mts h0 f] on = true ∧ sprRange 0x011 (on.g f.a) = true ∧ on.arch.bankInUse on.cycle (bankPwrWrite on.arch.bankPwr (on.g f.a)) = false ∧
      turnsOff on.arch.bankPwr (bankPwrWrite on.arch.bankPwr (on.g f.a)) = false ∧
      allRun [.mts h0 f] off = true ∧ sprRange 0x011 (off.g f.a) = true ∧
      off.arch.bankInUse off.cycle (bankPwrWrite off.arch.bankPwr (off.g f.a)) = false ∧
      turnsOff off.arch.bankPwr (bankPwrWrite off.arch.bankPwr (off.g f.a)) = true ∧ off.eng.ask = none := by decide +kernel

/-- The last 8 bytes of the spill store; window 7, read across its bound, and an unbound window. -/
theorem witness_SpillWindowAndScratchWords : let f : SI := { si with sub := 3, imm := 16376 }
    let w : Window := ⟨0x1000, 12, List.replicate 12 1⟩
    let s := atA .c (fun a => { a with wins := a.wins.set 7 (some w) })
    let p : SI := { si with n := 7, sub := 3, imm := 8 }
    allRun [.spld h0 f, .spst h0 f, .pld h0 p, .pld h0 { p with n := 6 }] s = true ∧ f.imm.toNat % subBytes f.sub = 0 ∧
      s.here.shadUsed < 2048 ∧ s.arch.wins[(p.n.extractLsb' 0 3).toNat] = some w ∧
      (s.g p.a + p.imm.signExtend 64).toNat % subBytes p.sub = 0 ∧
      w.size < (s.g p.a + p.imm.signExtend 64).toNat + subBytes p.sub ∧ s.arch.wins[6] = none := by decide +kernel

/-- The last 8 bytes of scratchpad; the first address beyond it; an address off alignment. -/
theorem witness_SpillWindowAndScratchWords_scratch : let s (a : Nat) := atE .c (withG [(2, a)])
    let f : SI := { si with sub := 3, imm := 0xFFFFFFF8 }
    (allRun [.sld h0 f, .sst h0 f] (s 8388608) = true ∧ (s 8388608).scrAddr f = 8388600 ∧
      (s 8388608).scrAddr f % subBytes f.sub = 0 ∧ (s 8388608).keepHit 0 (s 8388608).here.ctx 8388600 8 = false ∧
      (s 8388608).arch.leased 8388600 8 = false ∧ (s 8388608).here.shadUsed < 2048) ∧
    (allRun [.sld h0 f, .sst h0 f] (s 8388616) = true ∧ 8388608 ≤ (s 8388616).scrAddr f) ∧
    (s 8388604).scrAddr f < 8388608 ∧ (s 8388604).scrAddr f % subBytes f.sub ≠ 0 := by decide +kernel

/-- Queues of 7 and of 8 entries, of one and of none, and an engine that has retired TASKEND. -/
theorem witness_CrossQueueWords : let f : S3 := { s3 with n := 1 }
    let q : Fin 16 := qIndex (Thread.code .c) (f.n.extractLsb' 0 2)
    let r : Fin 16 := qIndex (f.n.extractLsb' 0 2) (Thread.code .c)
    let s (n : Nat) := atA .c (fun a => { a with putx := a.putx.set q (List.replicate n 5) })
    let t (n : Nat) := atA .c (fun a => { a with putx := a.putx.set r (List.replicate n 5) })
    let d := atA .c (fun a => a.modEng .a (fun e => { e with done := true }))
    (∀ n ∈ [0, 7, 8], allRun [.putx h0 f] (s n) = true) ∧
      ((s 0).arch.eng (Thread.ofCode (f.n.extractLsb' 0 2))).done = false ∧ (s 7).arch.putx[q].length < 8 ∧
      8 ≤ (s 8).arch.putx[q].length ∧ (d.arch.eng (Thread.ofCode (f.n.extractLsb' 0 2))).done = true ∧
      allRun [.putx h0 f] d = true ∧ allRun [.getx h0 f] (t 1) = true ∧ (t 1).arch.putx[r] = 5 :: [] ∧
      allRun [.getx h0 f] (t 0) = true ∧ (t 0).arch.putx[r] = [] := by decide +kernel

/-! ### Branches, loops, the end of the task -/

/-- Outcome queues with 15 entries still take one; a delay word raises the fault. -/
theorem witness_BranchWords : let s := at' .c
    let q : Fin 16 := qIndex (0 : BitVec 2) (Thread.code .c)
    let b := atA .c (fun a => { a with bout := a.bout.set q [true] })
    let f15 := atA .c (fun a => { a with bout := Vector.replicate 16 (List.replicate 15 false) })
    let d := atE .c (fun e => { e with delay := some (true, 0x200000) })
    allRun [.pbr h0 br, .br h0 br, .jmpl h0 br] s = true ∧ s.eng.delay = none ∧ s.here.suppressed s.eng = false ∧
      (f15.arch.pushOutcome .c true).isSome = true ∧ allRun [.bro h0 br] b = true ∧ b.eng.delay = none ∧
      b.arch.bout[q] = true :: [] ∧ d.live h0 = true ∧ d.eng.delay ≠ none := by decide +kernel

/-- A loop descriptor at the next header, of two stages on counter 1, in a registered image. -/
def loopState (act : Bool) (t : Thread) : State :=
  at' t (fun c => c.modArch (fun a =>
    if act then a.modLoop 1 (fun l =>
      { l with active := true, n := 5, s := 2, head := 0x200014, last := 0x200020, joinedBy := [.c] }) else a))
    (fun d => d.setCtx 0 { placeCtx with images := [⟨0x100000, 0x200000, 0x100000, 0x40, 64, 0, [],
      [⟨0x100014, 0x100020, 0x10002C, 1, 1, false, 0, 0⟩], [], false, 0, [], []⟩] })
/-- LOOP on an idle counter, LOOPJ and LBRK on an active one, LOOPJ before it is active, LOOP without a descriptor. -/
theorem witness_LoopWords : let f : BrF := { br with lc := 1, s := 1, imm := 5 }
    let s := loopState false .c
    let j := loopState true .a
    let n := at' .c
    (s.placeOk false false = none ∧ allRun [.loop h0 f] s = true ∧ (∀ p ∈ s.descHere, descAgrees p.2 f = true) ∧
      s.descHere.isSome = true ∧ s.arch.loops[f.lc.toNat].active = false) ∧
    (j.placeOk false false = none ∧ allRun [.loopj h0 f] j = true ∧ (∀ p ∈ j.descHere, descAgrees p.2 f = true) ∧
      j.descHere.isSome = true ∧ j.eng.loops = [] ∧ j.arch.loops[f.lc.toNat].active = true ∧
      j.cur.th ∉ j.arch.loops[f.lc.toNat].joinedBy ∧ j.arch.loops[f.lc.toNat].s = f.s.toNat + 1 ∧
      j.arch.loops[f.lc.toNat].rb = f.r.getLsbD 0) ∧
    (allRun [.loopj h0 f] (loopState false .a) = true ∧ (loopState false .a).descHere.isSome = true ∧
      (loopState false .a).arch.loops[f.lc.toNat].active = false) ∧
    (allRun [.lbrk h0 { br with lc := 1 }] j = true) ∧
    n.placeOk false false = none ∧ allRun [.loop h0 f] n = true ∧ n.descHere = none := by decide +kernel

theorem witness_LoopBreakRule : let f : BrF := { br with lc := 3 }
    WellFormed (.lbrk h0 f) = true ∧ (at' .v).eng.guard { h0 with gsense := 1 } = false ∧
      allRun [.lbrk h0 f] (at' .v) = true ∧ (at' .v).placeOk false false = none ∧
      (at' .v).arch.loops[f.lc.toNat].active = false := by decide +kernel

/-- The three other engines have retired TASKEND, so this one is the fourth. -/
theorem witness_NopAndTaskend : let s := atA .c (fun a =>
      (a.modEng .a (fun e => { e with done := true })).modEng .v (fun e => { e with done := true }) |>.modEng .m
        (fun e => { e with done := true }))
    allRun [.nop h0 sy, .taskend h0 sy] s = true ∧ s.placeOk false false = none ∧ s.eng.loops = [] ∧ s.cur.th ≠ .m ∧
      s.cur.th ≠ .a ∧
    (let m := atA .m (fun a => { a with mflight := [⟨0, true, false, false, false, 0⟩] })
     allRun [.taskend h0 sy] m = true ∧ m.placeOk false false = none ∧ ∀ x ∈ m.arch.mflight, x.doneAt ≤ m.cycle) ∧
    (let a := at' .a
     allRun [.taskend h0 sy] a = true ∧ ∀ n : Fin 16, a.arch.streams[n].st ≠ .running ∧ a.arch.streams[n].st ≠ .parked) ∧
    (let l := atE .c (fun e => { e with loops := [⟨1, 0⟩] })
     allRun [.taskend h0 sy] l = true ∧ l.placeOk false false = none ∧ l.eng.loops ≠ []) := by decide +kernel

/-! ### Traps, returns, pre-emption, containment words -/

/-- A thread outside handlers, with a trap vector. -/
def trapState : State := atE .c (fun e => { e with tvec := 0x300000 })

theorem witness_TrapEntry : trapState.cur.th ≠ .chap ∧ trapState.eng.trapFatal Code.illegalWord = false := by
  decide +kernel

/-- An engine in a handler whose trap met a delay word, one whose trap did not, and one outside handlers. -/
theorem witness_ReturnFromTrap : let s (cause status : Nat) := atE .c (fun e => { e with
      run := .handler, status := BitVec.ofNat 64 status, cause := BitVec.ofNat 64 cause })
    (∀ p ∈ [(0x00A, 3), (0x10A, 3), (0x30A, 7), (0x00A, 7)],
      allRun [.rett h0 sy] (s p.1 p.2) = true ∧ (s p.1 p.2).eng.mayReturn = true) ∧
    allRun [.rett h0 sy] (at' .c) = true ∧ (at' .c).eng.mayReturn = false := by decide +kernel

/-- An answered service request of engine C, and one not yet asked. -/
def svcState : State :=
  at' .c (fun c => { c with
    cpCount := 2, ckpts := [⟨2, .word, 0, true, c.arch⟩]
    svcs := [⟨.c, 0, 7, 0, 0x200008, 2, some (0, 9)⟩]
    arch := c.arch.modEng .c (fun e => { e with ask := some 2 }) })

theorem witness_TrapAndServiceWords : let s := svcState
    let n := at' .c
    let h := atE .c (fun e => { e with run := .handler, status := 3 })
    s.cur.th ≠ .chap ∧ allRun [.trap h0 sy] trapState = true ∧ trapState.eng.trapFatal Code.trapInsn = false ∧
    (allRun [.svc h0 sy] s = true ∧ s.here.rbLoop s.eng = none ∧ s.inReplay = false ∧ s.eng.ask = some 2 ∧
      s.here.cpSealed 2 = true ∧
      (s.here.svcs.find? (fun r => r.th = s.cur.th && r.cp = 2)).bind (fun r => r.answer) = some (0, 9)) ∧
    (allRun [.svc h0 sy] n = true ∧ n.here.rbLoop n.eng = none ∧ n.inReplay = false ∧ n.eng.ask = none) ∧
    (allRun [.rettAbort h0 sy] h = true ∧ h.eng.mayReturn = true) ∧
    (allRun [.yield h0 sy] n = true ∧ n.placeOk true false = none ∧ n.yieldTo = none) := by decide +kernel
/-- Every bank of these registers is ON, and none is waking (a check by evaluation). -/
def banksOn (s : State) (regs : List Nat) : Bool :=
  (banksOf regs).all (fun b => decide (bitsOf s.arch.bankPwr.toNat (2 * b + 1) (2 * b) = 1 ∧ Store.get 0 s.arch.bankWake b ≤ s.cycle))

theorem banksOn_spec {s : State} {regs : List Nat} (e : banksOn s regs = true) : s.banksOn regs := fun b hb =>
  of_decide_eq_true (List.all_eq_true.mp e b hb)

/-- A record that waits in context 1 for core 0, of class EXPRESS. -/
def bnd (id ctx : Nat) : Bundle :=
  { id := id, ctx := ctx, addr := 0x700000, cls := 0, st := .active, code := 0, img := 0x100000, cores := 1, seed := 0,
    bnd := [1, 1, 1], org := [0, 0, 0], step := [1, 1, 1], ndim := 1, order := 0, tsh := 0, ind := false, iw8 := false,
    icnt := 0, deps := [], seen := [], sig := 0, xl := false, xlist := 0, xcnt := 0, tr := false, trout := 0, tlen := 0,
    pw := [], wins := [], total := 2, next := 0, live := 0, copies := [], routineLive := false, die := 0, since := 0,
    promoted := 0, actSeq := 0, met := none, cpl := none }

/-- The drain stub of an image, and the record for which YIELD gives way. -/
def yieldState : State :=
  at' .c (f := id) (d := fun d => { (d.setCtx 0 { placeCtx with images := [⟨0x100000, 0x200000, 0x100000, 0x40, 64, 0, [], [],
    [⟨0x100000, 0x100000, 0x100100, 0x100200⟩], false, 0, [], []⟩] }).setCtx 1 placeCtx with
    cemask := 1, bundles := [{ bnd 0 0 with cls := 2 }, bnd 1 1] })

/-- A task with its bundle, in a context that is running and in one that is FAULTED already. -/
theorem witness_FatalFault : let s := yieldState
    let u : State := s.modDev (fun d => d.setCtx 0 { d.ctx 0 with st := .faulted })
    (∀ v ∈ [s, u], (v.core 0).task.map (fun t => (t.replay, t.bundle, t.ctx)) = some (false, 0, 0) ∧
      (v.dev.bundle 0).isSome = true) ∧
    (s.dev.ctx 0).st ∈ [.resident, .running] ∧ (u.dev.ctx 0).st = .faulted := by decide +kernel

theorem witness_TrapAndServiceWords_yield : let s := yieldState
    allRun [.yield h0 sy] s = true ∧ s.placeOk true false = none ∧ s.yieldTo = some (bnd 1 1) ∧
      s.here.task.map (fun t => (t.replay, t.st, t.ctx)) = some (false, .running, 0) ∧ (bnd 1 1).ctx ≠ 0 ∧
      s.here.preempt = none := by decide +kernel

/-- Engine C in a drain or refill stub, at the unit n of its word. -/
def stubState (st : PreSt) (n : Nat) : State :=
  at' .c (fun c => { c with
    preempt := some ⟨1, st, 0x200000, 0x200100, 0x200200, 0, 0, [], none⟩
    arch := c.arch.modEng .c (fun e => { e with run := .stub, prog := n }) })
    (fun d => { d.setCtx 0 { placeCtx with hamper := 0x400000, hsize := 0x100000 } with hbm := mapEntries [] })

/-- CSAVE.regs takes two units of its engine's 320 bytes; the first and the last. -/
theorem witness_SaveAndRestoreWords : let r : SaveRange := ⟨0, 320, false⟩
    let shape (r : SaveRange) := (r.first, r.bytes, r.hdr)
    let f : SY := { sy with code := 0, opnd := 0 }
    let s := stubState (.draining 0)
    let t := stubState (.refilling 0)
    (∀ n ∈ [0, 1], allRun [.csave h0 f, .csaveEnd h0 f] (s n) = true ∧ (s n).inStub false = true ∧
      ((s n).saveRange f ((s n).queue ((s n).g f.ga).toNat).length |>.map shape) = some (0, 320, false) ∧
      (s n).imageVa f r = some 0x402000 ∧ saveRegs f r = [] ∧ (s n).settledHere = true ∧
      ((s n).hamperPlaces (0x402000 + (r.unitAt n).1) (r.unitAt n).2 .w).toOption.isSome = true ∧
      (s n).here.holdUsed + 4 ≤ 2048) ∧ r.units = 2 ∧
    (allRun [.crest h0 f, .crestEnd h0 f] (t 1) = true ∧ (t 1).inStub true = true ∧
      ((t 1).saveRange f ((t 1).savedEntries f)).map shape = some (0, 320, false) ∧ (t 1).imageVa f r = some 0x402000 ∧
      (t 1).settledHere = true ∧
      ((t 1).hamperPlaces (0x402000 + (r.unitAt 1).1) (r.unitAt 1).2 .r).toOption.isSome = true) ∧
    (allRun [.csave h0 f, .crest h0 f] (at' .c) = true ∧ (at' .c).inStub false = false ∧
      (at' .c).inStub true = false ∧ statusPriv (at' .c).eng.status = false) := by decide +kernel

/-- The Chaperone with a launch request in its queue and the bit of that condition in its mask. -/
theorem witness_SaveAndRestoreWords_idle : let s : State := { at' .c (fun c => { c with
        chq := [⟨[], 0, 0, ⟨false, 0, 0, false, 0, 0, 0⟩, 0⟩]
        arch := c.arch.modEng .chap (fun e => withG [(2, 1)] { e with run := .run }) }) with cur := ⟨0, .chap⟩ }
    allRun [.idle h0 sy] s = true ∧ s.cur.th = .chap ∧ s.placeOk true false = none ∧
      (s.g sy.ga).extractLsb' 0 6 ≠ (0 : BitVec 6) ∧ s.idleBits &&& s.g sy.ga ≠ 0 := by decide +kernel

theorem witness_TranslationAndSealWords : let s := atE .c (fun e => withG [(2, 0x10000), (3, 5)] { e with status := 1 })
    let v (k : Nat) : InvSet := if k = 0 then ⟨none, none⟩ else if k = 1 then ⟨some 5, none⟩ else ⟨some 5, some (1, 0)⟩
    allRun [.tlbinvAll h0 sy, .tlbinvAsid h0 sy, .tlbinvPage h0 sy, .tlbprobe h0 sy] s = true ∧ s.eng.asked = none ∧
      (∀ k ∈ [0, 1, 2], (s.invalidate (v k)).invDone (v k) s.dev.wseq = true) ∧ (s.g sy.gb).toNat % 2 ^ 16 = 5 ∧
      (s.g sy.ga).toNat / 2 ^ 16 % 2 ^ 40 = 1 ∧ (s.g sy.ga).toNat < 2 ^ 56 ∧
      statusPriv (at' .c).eng.status = false := by decide +kernel

/-- A SEAL word that has asked for no commit point, one whose commit point is taken, and one whose has sealed. -/
theorem witness_TranslationAndSealWords_seal : let s (n : Option Nat) (z : Bool) := at' .c (fun c => { c with
      cpCount := 1, ckpts := [⟨1, .word, 0, z, c.arch⟩], arch := c.arch.modEng .c (fun e => { e with ask := n }) })
    allRun [.sealWord h0 sy, .sealWait h0 sy] (s none false) = true ∧ (s none false).placeOk true false = none ∧
      (s none false).here.rbLoop (s none false).eng = none ∧ (s none false).eng.ask = none ∧
      (s (some 1) true).eng.ask = some 1 ∧ (s (some 1) true).here.cpSealed 1 = true ∧
      1 ≤ (s (some 1) false).here.cpCount := by decide +kernel

/-- Marks of one row of v12, and of the last two granules of scratchpad. -/
theorem witness_TranslationAndSealWords_marks : let f : SY := { sy with opnd := 0x10305 }
    let g : SY := { sy with opnd := 0 }
    let s := atE .a (withG [(2, 8388480), (3, 128)])
    (∀ m : Bool, allRun [if m then .pmarkV h0 f else .pclrV h0 f] (at' .v) = true) ∧
      (∀ o ∈ (at' .v).mainRegs [f.opnd], o / 64 < 2) ∧ (at' .v).arch.bankPwr.extractLsb' 0 4 = (5 : BitVec 4) ∧
      (at' .v).placeOk true false = none ∧ (at' .v).here.shadUsed + 8 ≤ 2048 ∧
    (∀ m : Bool, allRun [if m then .pmarkA h0 g else .pclrA h0 g] s = true) ∧ s.placeOk true false = none ∧
      (s.g g.ga + g.opnd.zeroExtend 64).toNat = 8388480 ∧ (s.g g.gb).toNat = 128 ∧
      s.keepHit 0 s.here.ctx 8388480 128 = false ∧ s.arch.leased 8388480 128 = false ∧
      s.here.shadUsed + (128 / 512 + 2) ≤ 2048 := by decide +kernel
/-! ### Fences, semaphores, barriers, rings -/

/-- The writes a FENCE waits for, of a word with paths pa. -/
def fenced (s : State) (f : SY) : MemWr → Bool := fenceWr s.cur.core s.cur.th f.pa s.issuedAt.1

/-- A pool write by a command of core 0 to the virtual address va, which a region loss discarded. -/
def lostWr (va : Nat) : MemWr := ⟨0, ⟨0, .c, .x, 0, 0, va, 0, 0⟩, ⟨1, 0, 0, 0⟩, [], [], [memAgent 0 0]⟩

/-- A write of engine C of core 0 to host memory, of which no completion is known. -/
def hostWr : MemWr := ⟨1, ⟨0, .c, .x, 0, 0, 0, 0, 1⟩, ⟨2, 0, 0, 0⟩, [0], [1], [memAgent 0 0]⟩

theorem witness_FenceAndSemaphoreWords : let s := at' .c
    let l := at' .c (fun c => c) (fun d => { d with discarded := [lostWr 0x2000, lostWr 0x1000] })
    let n := at' .c (fun c => c) (fun d => { d with wlog := [hostWr] })
    let f : SY := { sy with obj := 255 }
    let g : SY := { f with ord := 1, scope := 1 }
    let u := at' .c (fun c => c) (fun d => d.setCtx 0 placeCtx)
    allRun [.fence h0 { sy with pa := 2 }, .fence h0 { sy with pa := 31, scope := 4 }, .ssig h0 f, .sset h0 f, .ssig h0 g] s = true ∧
      s.semOk f.obj.toNat = true ∧ f.ord = 0 ∧ g.ord ≠ 0 ∧ 1 ≤ g.scope.toNat ∧
      s.lostFor (releaseWr 0 .c) = none ∧ s.releaseHeld g.scope.toNat = false ∧
      (∀ f ∈ [{ sy with pa := 2 }, { sy with pa := 31, scope := 4 }], s.lostFor (fenced s f) = none ∧
        s.performed f.scope.toNat (fenced s f) = true) ∧ s.arch.lPending .c s.cycle = false ∧
    (allRun [.fence h0 { sy with pa := 8 }, .ssig h0 g] l = true ∧ l.lostFor (fenced l { sy with pa := 8 }) = some 0x1000 ∧
      l.lostFor (releaseWr 0 .c) = some 0x1000 ∧ l.semOk g.obj.toNat = true) ∧
    (let g : SY := { g with scope := 4 }
     allRun [.ssig h0 g, .fence h0 { sy with pa := 31, scope := 4 }] n = true ∧ n.semOk g.obj.toNat = true ∧ n.lostFor (releaseWr 0 .c) = none ∧
      n.releaseHeld g.scope.toNat = true ∧ n.lostFor (fenced n { sy with pa := 31, scope := 4 }) = none ∧
      n.performed 4 (fenced n { sy with pa := 31, scope := 4 }) = false) ∧
    allRun [.ssig h0 f, .sset h0 f, .swait h0 f] u = true ∧ u.semOk f.obj.toNat = false := by decide +kernel

/-- A barrier of one tile of 512 bytes, with state st, ARR arr and code code. -/
def bar1 (st : BarSt) (arr : Nat) (code : BitVec 8) : Bar :=
  { Bar.reset with st := st, base := 0x1000, exp := 512, spb := true, arr := arr, code := code }

/-- Core 0 with this barrier as ba3, and the mark of its one chunk. -/
def barState (b : Bar) (m : Nat) : State :=
  atA .c (fun a => { a with bars := a.bars.set 3 b, barMem := Store.put 0 [] 0 [BitVec.ofNat 8 m] })

/-- A count 2^31 − 1 above its threshold meets a wait, one more does not (R242). -/
theorem witness_WaitWords : let f : SY := { sy with obj := 7 }
    let b : SY := { sy with obj := 3 }
    let s (v : Nat) := atA .c (fun a => a.setSem 7 (BitVec.ofNat 32 v))
    (∀ v ∈ [2 ^ 31 - 1, 2 ^ 31], allRun [.swait h0 f] (s v) = true ∧ (s v).eng.wait = none ∧
      (s v).semOk f.obj.toNat = true) ∧
    ((s (2 ^ 31 - 1)).arch.sem 7 - BitVec.ofNat 32 (((s 0).g f.gb).toNat + f.opnd.toNat)).toNat < 2 ^ 31 ∧
    2 ^ 31 ≤ ((s (2 ^ 31)).arch.sem 7 - BitVec.ofNat 32 (((s 0).g f.gb).toNat + f.opnd.toNat)).toNat ∧
    (∀ st ∈ [BarSt.complete, .partialSt, .faulted], let t := barState (bar1 st 512 0x22) 1
      allRun [.bwait h0 b] t = true ∧ t.barOk 3 = true ∧ (t.arch.bar 3).st = st ∧ t.eng.wait = none) ∧
    (let t := barState (bar1 .filling 512 0) 1
     allRun [.bwaitTile h0 b] t = true ∧ t.barOk 3 = true ∧ (t.arch.bar 3).st = .filling ∧ t.eng.wait = none ∧
      (t.g b.gb + b.opnd.zeroExtend 64).toNat < (t.arch.bar 3).tiles ∧
      t.arch.tileDone (t.arch.bar 3) (t.g b.gb + b.opnd.zeroExtend 64).toNat = true) ∧
    (s 0).here.slotsUsed < 16 ∧
    (∀ o ∈ [WaitOut.met, .unmet], let t := atE .c (fun e => { e with wait := some ⟨0, true, 0, 16, .sem 7 0, false, some o⟩ })
      allRun [.swait h0 f, .bwait h0 b, .bwaitTile h0 b] t = true ∧ t.semOk 7 = true ∧ t.barOk 3 = true ∧
        t.eng.wait.map (·.out) = some (some o)) ∧
    (let w : WaitSt := ⟨0, false, 16, 16, .sem 7 1, false, none⟩
     let z (v n : Nat) : State :=
       { (atA .c (fun a => (a.setSem 7 (BitVec.ofNat 32 v)).modEng .c (fun e => { e with stalled := true, wait := some w }))) with now := n * 410 }
     (∀ v ∈ [0, 1], (z v 16).atWait = some w ∧ w.nextPoll ≤ (z v 16).cycle ∧ (z v 16).cycle < w.since + 65536) ∧
      (z 0 16).arch.evalCond w.cond = none ∧ (z 1 16).arch.evalCond w.cond = some .met ∧
      w.since + 65536 ≤ (z 0 65536).cycle ∧ (z 0 65536).atWait = some w) := by decide +kernel

/-- A descriptor of an untiled barrier of 513 bytes, in two chunks, with a deadline of 5 ns, at 0x40. -/
def barDesc : List Byte :=
  natBytes 8 0x1000 ++ natBytes 8 513 ++ natBytes 4 6 ++ natBytes 4 0 ++ natBytes 8 5 ++ natBytes 32 0

def descState (bs : List Byte) : State :=
  atA .c (fun a => { a.modEng .c (fun e => withG [(2, 0x40)] e) with scr := Store.put 0 [] 0x40 bs })

theorem witness_BarrierWords : let f : SY := { sy with obj := 3 }
    (∀ st ∈ [BarSt.idle, .filling, .faulted], ∀ m ∈ [0, 1], let t := barState (bar1 st 0 0x22) m
      allRun [.btestTile h0 f, .btestStat h0 f, .btestCnt h0 f, .btestLate h0 f, .barm h0 f, .brst h0 f] t = true ∧
        t.barOk 3 = true ∧ (t.arch.bar 3).st = st ∧ (st ≠ .idle → t.arch.tileDone (t.arch.bar 3) 0 = (m == 1)) ∧ (t.g f.gb + f.opnd.zeroExtend 64).toNat < (t.arch.bar 3).tiles ∧
        (t.g f.ga + f.opnd.zeroExtend 64).toNat % 64 = 0 ∧
        t.here.shadUsed + ((t.arch.bar 3).chunks / 4096 + 4) ≤ 2048) ∧
    (let s := descState barDesc
     let b := barOf ((s.lview 4).scrRead 0x40 64)
     allRun [.barm h0 f] s = true ∧ (s.g f.ga + f.opnd.zeroExtend 64).toNat = 0x40 ∧ s.barOk 3 = true ∧
       (s.arch.bar 3).st = .idle ∧ s.recRange 0 s.here.ctx 0x40 64 = none ∧ s.arch.scrPoisoned 0x40 64 = false ∧
       barOk3 ((s.lview 4).scrRead 0x40 64) = true ∧ b.chunks = 2 ∧ b.dl = true ∧ s.dtime < b.deadline ∧
       (∀ r ∈ b.ranges, s.recRange 0 s.here.ctx r.1 r.2 = none) ∧ (∀ m, m < 64 → m ≠ 3 → (s.arch.bar m).st = .idle) ∧
       s.here.shadUsed + 130 ≤ 2048) := by decide +kernel

/-- A ring of kind L with four slots, of which clm − cons are claimed. -/
def ring1 (prod clm pub cons : Nat) : Ring :=
  { Ring.reset with opened := true, base := 0x1000, slot := 64, nslot := 4, prod := prod, clm := clm, pub := pub, cons := cons }

def ringState (r : Ring) : State :=
  atA .c (fun a => { a.modEng .c (fun e => withG [(2, 0x40)] e) with
    rings := a.rings.set 15 r
    scr := Store.put 0 [] 0x40 (natBytes 4 0x1000 ++ natBytes 4 64 ++ natBytes 4 4 ++ natBytes 4 0) })

/-- ring15, each word at the last value of k that it admits, and one beyond. -/
theorem witness_RingWords : let f (k : Nat) : SY := { sy with obj := 15, opnd := BitVec.ofNat 20 k }
    let s := ringState (ring1 0 3 2 1)
    let z := ringState (ring1 0 0 0 0)
    let c := ringState Ring.reset
    let i (k : Nat) := [Instr.rclaim h0 (f k), .rpub h0 (f k), .rwaitf h0 (f k), .rwaite h0 (f k), .rcons h0 (f k),
      .rconsUpto h0 (f k), .rconsPub h0 (f k), .rconsCons h0 (f k), .rconsClm h0 (f k), .rconsDrops h0 (f k),
      .rconsDropb h0 (f k), .rpubClose h0 (f k)]
    let r := s.arch.ring 15
    (∀ k ∈ [1, 2, 3], allRun (i k) s = true ∧ s.ringK (f k) = k) ∧ s.ringOk 15 = true ∧ r.opened = true ∧ r.prod = 0 ∧
      2 ≤ r.nslot - (r.clm - r.cons) ∧ r.nslot - (r.clm - r.cons) < 3 ∧ r.pub + 1 ≤ r.clm ∧ 1 ≤ r.pub - r.cons ∧
      2 ≤ r.nslot - (r.clm - r.cons) - r.resv ∧ r.cons + 1 ≤ r.pub ∧ 2 ≤ r.pub ∧ s.eng.wait = none ∧
      s.arch.ringStream 15 = false ∧ r.resv = 0 ∧
    (allRun (i 1) z = true ∧ (z.arch.ring 15).opened = true) ∧
    (allRun (.rpubInit h0 (f 0) :: i 1) c = true ∧ (c.arch.ring 15).opened = false ∧
      (c.g (f 0).ga + (f 0).opnd.zeroExtend 64).toNat = 0x40 ∧ c.recRange 0 c.here.ctx 0x40 16 = none ∧
      c.arch.scrPoisoned 0x40 16 = false ∧ c.here.shadUsed < 2048 ∧
      (match ringOf ((c.lview 4).scrRead 0x40 16) with
       | some q => (c.recRange 0 c.here.ctx q.base (q.slot * q.nslot)).isNone | none => false) = true) := by decide +kernel

/-! ### Streams, commands, queues -/

theorem withRecord_of {s : State} {f : ST} (h : s.keepHit s.cur.core s.here.ctx (f.recb.toNat * 64) 64 = false)
    (p : s.arch.scrPoisoned (f.recb.toNat * 64) 64 = false) :
    ∀ k, s.withRecord f k = k ((s.lview 8).scrRead (f.recb.toNat * 64) 64) := fun k => by simp [State.withRecord, h, p]

theorem withBlock_of {s : State} {f : CM} (w : f.we = 0) (e : f.se = 0)
    (h : s.keepHit s.cur.core s.here.ctx (f.blk.toNat * 64) 64 = false)
    (p : s.arch.scrPoisoned (f.blk.toNat * 64) 64 = false) :
    ∀ k, s.withBlock f k = k ((s.lview 8).scrRead (f.blk.toNat * 64) 64) := fun k => by simp [State.withBlock, w, e, h, p]

/-- A pattern of one run of 512 bytes from 0x200000, as record 1; streams with state st. -/
def streamState (st : StreamSt) : State :=
  atA .a (fun a => { a with
    streams := a.streams.set 15 { Stream.reset with st := st, pat := { Pattern.zero with run := 512, cnt := [1, 1, 1, 1] } }
    scr := Store.put 0 [] 64 (natBytes 8 0x200000 ++ natBytes 4 512 ++ natBytes 4 0 ++ natBytes 4 1 ++ natBytes 4 1 ++
      natBytes 4 1 ++ natBytes 4 1 ++ natBytes 32 0) })

theorem witness_StreamWords : let f : ST := { stw with str := 15, dk := 1, recb := 1 }
    let c := streamState .closed
    let bs := (c.lview 8).scrRead 64 64
    (allRun [.sopen h0 f, .sclose h0 f, .scloseAbort h0 f, .sstat h0 f, .sdrain h0 f, .spref h0 f] c = true ∧
      (∀ k, c.withRecord f k = k bs) ∧ c.sopenFault f bs = none ∧ patternOk bs = true ∧
      (c.arch.stream 15).live = false) ∧
    (let r := streamState .running
     allRun [.sopen h0 f, .sclose h0 f, .scloseAbort h0 f, .sstat h0 f, .sdrain h0 f] r = true ∧
      (r.arch.stream 15).live = true ∧ (r.arch.stream 15).st ≠ .closed) ∧
    (let e := streamState .faulted
     allRun [.sclose h0 f, .scloseAbort h0 f, .sstat h0 f, .sdrain h0 f] e = true ∧ (e.arch.stream 15).st = .faulted ∧
      (e.arch.stream 15).live = false ∧ ((streamState .done).arch.stream 15).st ≠ .faulted ∧
      ((streamState .done).arch.stream 15).live = false) ∧
    (let g : ST := { stw with oq := 7, imm := 128 }
     let x : Sfeed := ⟨0x200008, 7, 0x1000, 1, 128⟩
     let w := atA .a (fun a => { a with sfeed := some x })
     allRun [.sfeed h0 g] w = true ∧ w.arch.sfeed = some x ∧ x.pc = w.eng.pc ∧ x.pushed ≤ x.total ∧
      (w.queue 7).length + (x.total - x.pushed) ≤ 128 ∧ w.here.shadUsed + (x.total - x.pushed) ≤ 2048) ∧
    (let g : ST := { stw with oq := 7, imm := 128 }
     allRun [.sfeed h0 g] c = true ∧ c.arch.sfeed = none ∧ (c.g g.ga).toNat % 4 = 0 ∧
      c.recRange 0 c.here.ctx (c.g g.ga).toNat (256 * 128) = none ∧ c.arch.queueStream 7 = false ∧
      (c.queue 7).length + 128 ≤ 128 ∧ c.here.shadUsed + 128 ≤ 2048) := by
  refine ⟨⟨by decide +kernel, withRecord_of (by decide +kernel) (by decide +kernel), by decide +kernel⟩, by decide +kernel⟩

/-- A command block of a form at 0x40. -/
def blk (kind form src dst len ctl ret : Nat) : List Byte :=
  natBytes 8 (kind + form * 2 ^ 24) ++ natBytes 8 src ++ natBytes 8 dst ++ natBytes 8 len ++ natBytes 8 ctl ++ natBytes 16 0 ++
    natBytes 8 ret

def blocks : List (List Byte) :=
  [blk 1 1 0x200000 0x1000 512 0x800 0, blk 1 2 0 0x1000 4 0x800 0, blk 1 3 0x200000 0x300000 4 0x1C0 0,
   blk 1 4 0 0x300000 0 0 0x80, blk 1 5 0 0x300000 0 0 0x80, blk 1 6 0x200000 0x1000 0x100000004 0x800 0x80,
   blk 1 7 0x200000 0x300000 0x100000004 0 0x80, blk 1 8 0 0x300000 512 0 0, blk 1 9 0 0 0 0 0]

def blkState (bs : List Byte) : State := atA .c (fun a => { a with scr := Store.put 0 [] 0x40 bs })

/-- Every form with a block that passes its checks, and one with a reserved field. -/
theorem witness_CommandWords : let f : CM := { cm with blk := 1 }
    let i : List Instr := [.xcopy h0 f, .xfill h0 f, .xacc h0 f, .xfao h0 f, .xcas h0 f, .xgath h0 f, .xscat h0 f, .xcmo h0 f,
      .xsig h0 f]
    (∀ p ∈ blocks.zipIdx, let s := blkState p.1
      allRun i s = true ∧ s.inReplay = false ∧ s.arch.scrRead 0x40 64 = p.1 ∧ s.here.queuedX + s.reserved 0 0 < 64 ∧
      (match s.copyCheck 0 s.here.ctx p.1 1 (p.2 + 1) false false with
       | .ok b => !b.be | .error _ => false) = true) ∧
    (let s := blkState (blk 1 0 0 0 0 0 0)
     (match s.copyCheck 0 s.here.ctx (blk 1 0 0 0 0 0 0) 1 1 false false with
      | .ok _ => false | .error code => code = Code.reservedField) = true) := by decide +kernel

theorem witness_CommandWords_block : let f : CM := { cm with blk := 1 }
    ∀ b ∈ blocks, ∀ k, (blkState b).withBlock f k = k ((blkState b).arch.scrRead 64 64) := by
  intro f b hb
  have h : ∀ b ∈ blocks, (blkState b).keepHit (blkState b).cur.core (blkState b).here.ctx (f.blk.toNat * 64) 64 = false ∧
      (blkState b).arch.scrPoisoned (f.blk.toNat * 64) 64 = false := by decide +kernel
  exact withBlock_of rfl rfl (h b hb).1 (h b hb).2

/-- A block for a T queue: core 1's, core 0's own, and a queue without room. -/
theorem witness_QueueWords : let f : CM := { cm with blk := 1, qsel := 1, gt := 2 }
    let g : CM := { cm with blk := 1 }
    let bs := natBytes 64 2
    let s := atA .c (fun a => { a.modEng .c (fun e => withG [(2, 1)] e) with scr := Store.put 0 [] 0x40 bs })
    let t := blkState (natBytes 64 3)
    let n : State := s.modCore 1 (fun c => c.modArch (fun a => { a with
      seq := { a.seq with cmdq := List.replicate 64 (tcmdOf [] ⟨false, 0, 0, false, 0, 0, 0⟩ 0 0) } }))
    (∀ u ∈ [s, n], allRun [.qpush h0 f, .qpoll h0 f] u = true ∧ u.inReplay = false ∧ u.pushCheck f bs 2 = none ∧
      coreId (u.g f.gt).toNat = 1 ∧ queueOf f.qsel.toNat bs = 1 ∧ u.slotLeased 1 1 = false) ∧
    s.mayPush 1 1 = true ∧ s.queueRoom 1 1 = true ∧ s.pushers 1 1 = [] ∧
    s.here.panLacks (s.enqueue 1 1 bs (waitSig f bs 0)).here = false ∧ n.mayPush 1 1 = false ∧ n.queueRoom 1 1 = false ∧
    allRun [.tqpush h0 g] t = true ∧ t.inReplay = false ∧ (blkForm (t.arch.scrRead 64 64) 3 0 false).isSome = true ∧
    t.mayPush 0 1 = true := by decide +kernel
/-! ### Vector words -/

/-- The conditions of State.vectorReady, for a form whose banks are checked apart. -/
def vReady (s : State) (v : VForm) : Bool :=
  !s.latchRead v.named && banksOn s (s.mainRegs v.named ++ v.regs) && (s.popSources v.pops v.shape).isSome &&
    decide (s.here.shadUsed + 16 ≤ 2048)

theorem vReady_spec {s : State} {v : VForm} (e : vReady s v = true) : ∃ t, s.vectorReady v t := by
  simp only [vReady, Bool.and_eq_true, Bool.not_eq_true', decide_eq_true_eq, Option.isSome_iff_exists] at e
  obtain ⟨⟨⟨a, b⟩, t, c⟩, d⟩ := e
  exact ⟨t, a, banksOn_spec b, c, d⟩

/-- Operand queue 0 with n entries. -/
def oqState (n : Nat) : State :=
  atA .v (fun a => { a with oq := a.oq.set 0 (List.replicate n ⟨List.replicate 256 1, false⟩) })

/-- A source at the special level that pops queue 0 (R30). -/
def popQ : BitVec 20 := 0xC0000

def ewWords (f : VT) : List Instr := [.vadd h0 f, .vsub h0 f, .vmul h0 f, .vfma h0 f, .vfms h0 f, .vmin h0 f, .vmax h0 f,
  .vabs h0 f, .vneg h0 f, .vand h0 f, .vor h0 f, .vxor h0 f, .vnot h0 f, .vshl h0 f, .vshr h0 f, .vsar h0 f, .vcmp h0 f,
  .vmov h0 f]

/-- v0 from v1 and v2, with saturation and stochastic rounding; and from a queue that holds just its 16 rows. -/
theorem witness_ElementwiseWords : let f : VT := { vt with rm := 4, sat := 1 }
    let g : VT := { f with a := popQ }
    (∀ i ∈ ewWords f, runs i h0 (at' .v)) ∧ (∀ i ∈ ewWords g, runs i h0 (oqState 16)) ∧ tLvl f.d ≤ 1 ∧ isQueue popQ = true ∧
    (∀ two : Bool, ∃ t, (at' .v).vectorReady ⟨f.d :: (if two then [f.a, f.b] else [f.a]), [], tShape f.d,
      if two then [f.a, f.b] else [f.a], true, 4, 1⟩ t) ∧
    (∃ t, (oqState 16).vectorReady ⟨[g.d, g.a, g.b], [], tShape g.d, [g.a, g.b], true, 4, 1⟩ t) := by
  refine ⟨allRun_spec (by decide +kernel), allRun_spec (by decide +kernel), by decide +kernel, by decide +kernel, ?_, ?_⟩
  · intro two
    cases two <;> exact vReady_spec (by decide +kernel)
  · exact vReady_spec (by decide +kernel)

/-- The integer formats of at most 32 bits, and their last slot. -/
theorem witness_ElementwiseWords_integers : ∀ p ∈ [(0x15, 8, true), (0x16, 8, false), (0x1C, 32, true), (0x1D, 32, false)],
    intFmt p.1 = some (p.2.1, p.2.2) ∧ p.1 ≠ 0x1E ∧ typeWidth (BitVec.ofNat 5 p.1) = p.2.1 ∧ 3 ≤ p.1 ∧
      32 / p.2.1 - 1 < 32 / p.2.1 := by decide +kernel

/-- VPERM reads its row's containers; VPOP takes 16 entries. -/
theorem witness_LaneWords : let f : VT := { vt with ty := 0 }
    let g : VT := { vt with a := popQ, b := 0 }
    (∀ i ∈ [Instr.vsplat h0 f, .vrotr h0 f, .vrotc h0 f, .vbcr h0 f, .vbcc h0 f, .vperm h0 f, .vredr h0 f, .vredc h0 f],
      runs i h0 (at' .v)) ∧ runs (.vpop h0 g) h0 (oqState 16) ∧ tLvl f.d ≤ 1 ∧
    (∃ t, (at' .v).vectorReady ⟨[f.d, f.a], [], tShape f.d, [f.a], false, 4, 1⟩ t) ∧
    (∃ t, (at' .v).vectorReady ⟨[f.d, f.a, f.b], [], tShape f.d, [f.a, f.b], false, 4, 1⟩ t) ∧
    (∃ t, (at' .v).vectorReady ⟨[f.d, f.a], [], tShape f.d, [], false, 4, 1⟩ t) ∧
    ∃ t, (oqState 16).vectorReady ⟨[g.d], [], tShape g.d, [g.a], false, 4, 1⟩ t :=
  ⟨allRun_spec (by decide +kernel), allRun_spec (l := [Instr.vpop h0 { vt with a := popQ, b := 0 }]) (by decide +kernel) _ (by simp),
    by decide, vReady_spec (by decide +kernel), vReady_spec (by decide +kernel), vReady_spec (by decide +kernel),
    vReady_spec (by decide +kernel)⟩

theorem witness_ConversionWords : let f : VT := { vt with ty := 0x15 }
    (∀ i ∈ [Instr.vcvt h0 f, .vrqs h0 f, .vmaci h0 f, .vdot4 h0 f, .vsfu h0 { f with ty := 0 }], runs i h0 (at' .v)) ∧
    tLvl f.d = 0 ∧ (at' .v).here.shadUsed + 24 ≤ 2048 ∧
    (∃ t, (at' .v).vectorReady ⟨[f.d, f.a], [], tShape f.d, [f.a], false, 4, 1⟩ t) ∧
    (∃ t, (at' .v).vectorReady ⟨[f.d, f.a, f.b], [], tShape f.d, [f.a, f.b], false, 4, 1⟩ t) ∧
    ∃ t, (at' .v).vectorReady ⟨[f.d, f.a], [], tShape f.d, [f.a], false, 8, 2⟩ t :=
  ⟨allRun_spec (by decide +kernel), by decide, by decide +kernel, vReady_spec (by decide +kernel),
    vReady_spec (by decide +kernel), vReady_spec (by decide +kernel)⟩

/-- Ranges that end with v767 need the last bank, which is turned on here. -/
theorem witness_MultiRegisterWords : let f : VT := { vt with d := 0xBF00, a := 0x0000 }
    let s := atA .v (fun a => { a with bankPwr := 0x400005 })
    (∀ i ∈ [Instr.vtrn h0 f, .zip2 h0 f, .zip3 h0 f, .zip4 h0 f, .unzip2 h0 f, .unzip3 h0 f, .unzip4 h0 f], runs i h0 s) ∧
    (∀ n ∈ [2, 3, 4], s.regOf f.a + n ≤ 768 ∧ s.regOf f.d + n ≤ 768 ∧ s.here.shadUsed + 8 * n + 8 ≤ 2048 ∧
      s.banksOn ((List.range n).map (fun q => s.regOf f.a + q) ++ (List.range n).map (fun q => s.regOf f.d + q))) ∧ s.regOf f.d = 764 := by
  have h : ∀ n ∈ [2, 3, 4], let f : VT := { vt with d := 0xBF00, a := 0x0000 }
      let s := atA .v (fun a => { a with bankPwr := 0x400005 })
      (s.regOf f.a + n ≤ 768 ∧ s.regOf f.d + n ≤ 768 ∧ s.here.shadUsed + 8 * n + 8 ≤ 2048) ∧
      banksOn s ((List.range n).map (fun q => s.regOf f.a + q) ++ (List.range n).map (fun q => s.regOf f.d + q)) = true := by
    decide +kernel
  exact ⟨allRun_spec (by decide +kernel), fun n hn => ⟨(h n hn).1.1, (h n hn).1.2.1, (h n hn).1.2.2, banksOn_spec (h n hn).2⟩,
    by decide +kernel⟩

theorem witness_MaskedWords : (∀ i ∈ [Instr.vsel h0 vm, .viota h0 vm], runs i h0 (at' .v)) ∧ tLvl vm.d ≤ 1 ∧
    ∃ t, (at' .v).vectorReady ⟨[vm.d, vm.a], [vm.mreg.toNat], tShape vm.d, [vm.a], false, 4, 1⟩ t :=
  ⟨allRun_spec (by decide +kernel), by decide, vReady_spec (by decide +kernel)⟩

/-- A row whose bytes end with the last byte of scratchpad. -/
theorem witness_VectorMemoryWords : let f : VT := { vt with d := 0x10300, a := 0x10000, b := 0, ty := 0 }
    let s := atE .v (withG [(2, 8388352)])
    (∀ i ∈ [Instr.vlds h0 f, .vsts h0 f], runs i h0 s) ∧ tLvl f.d ≤ 1 ∧ s.latchRead [f.d] = false ∧
    s.banksOn (s.mainRegs [f.d]) ∧ (s.spans f).map (fun x => x.2.2) = [(8388352, 256)] ∧
    s.spanFault (s.spans f) = none ∧ (∀ x ∈ s.spans f, s.arch.leased x.2.2.1 x.2.2.2 = false) ∧
    s.here.shadUsed + 32 ≤ 2048 :=
  ⟨allRun_spec (by decide +kernel), by decide, by decide +kernel, banksOn_spec (by decide +kernel), by decide +kernel,
    by decide +kernel, by decide +kernel, by decide +kernel⟩

/-- VPOP.skip of all 128 entries; VPCHK on a clean and on a poisoned row. -/
theorem witness_VectorMemoryWords_queue : let f : VT := { vt with d := 0, a := popQ, b := 0xD0080 }
    let g : VT := { vt with d := 0, a := 0x40, b := 0, fn := 1 }
    let p := atA .v (fun a => { a with tileP := [(16, true)] })
    allRun [.vpopSkip h0 f] (oqState 128) = true ∧ tPayload f.b ≤ ((oqState 128).queue (tPayload f.a)).length ∧
      tPayload f.b = 128 ∧
    (∀ s ∈ [at' .v, p], allRun [.vpchk h0 g] s = true ∧ s.latchRead [g.a] = false ∧ banksOn s (s.mainRegs [g.a]) = true) ∧
    (∀ r ∈ viewRows g.a, (at' .v).arch.rowMark (tLvl g.a) ((at' .v).regOf g.a) r.1 = false) ∧
    ∃ r ∈ viewRows g.a, p.arch.rowMark (tLvl g.a) (p.regOf g.a) r.1 = true := by decide +kernel

/-- Rings of kind V with 64 containers in their slots, of which 63 are filled: with slots free, with one free, and with
the 63 still held back; one selected container fills them. And a ring with one slot filled, from which a row is taken. -/
theorem witness_VectorMemoryWords_ring : let r1 : Ring := { ring1 2 0 0 0 with slot := 256, fill := 252 }
    let r2 : Ring := { ring1 2 0 3 0 with slot := 256, fill := 252 }
    let r3 : Ring := { ring1 2 0 4 1 with slot := 256, fill := 252, rest := List.replicate 63 (7, false) }
    let g : VM := { vm with d := 0, a := 0x10040, ring := 15 }
    (∀ q ∈ [(r1, 63, 1), (r2, 255, 1), (r3, 256, 64)], let r : Ring := q.1
      let p : Nat := q.2.1
      let s := atA .v (fun a => { a with rings := a.rings.set 15 r, tiles := [(2048, 1)] })
      let xs := ((viewPos g.a).zipIdx.filter (fun q => (s.maskAt g q.1.1 q.1.2).1)).map
        (fun q => (s.source g.a (tShape g.a) none false).cont q.2)
      let ws := r.rest ++ xs
      let k : Nat := if 1 < r.nslot - r.filled then ws.length else min ws.length ((r.pub + 1) * r.perSlot - p)
      allRun [.cpush h0 g] s = true ∧ s.latchRead [g.a] = false ∧ s.arch.ring 15 = r ∧ s.ringOk 15 = true ∧
        r.opened = true ∧ r.prod = 2 ∧ banksOn s (g.mreg.toNat :: s.mainRegs [g.a]) = true ∧ xs.length = 1 ∧
        (r.fill / 4 + 1) / r.perSlot = 1 ∧ (r.fill / 4 + 1) % r.perSlot = 0 ∧ p = r.pub * r.perSlot + r.fill / 4 - r.rest.length ∧
        1 ≤ r.nslot - r.filled ∧ k = q.2.2 ∧ s.here.ringLeased r p k = false ∧
        s.here.panLacks (s.here.ringFill r p (ws.take k)) = false) ∧
    (let z := { ring1 2 1 1 0 with slot := 256 }
     let t := atA .v (fun a => { a with rings := a.rings.set 15 z })
     let p : VM := { vm with d := 0x10000, a := 0, mreg := 0, msense := 0, ring := 15 }
     allRun [.cpop h0 p] t = true ∧ tLvl p.d ≤ 1 ∧ t.arch.ring 15 = z ∧ t.ringOk 15 = true ∧
      banksOn t (t.mainRegs [p.d]) = true ∧ z.taken + shapeLen (tShape p.d) ≤ z.filled * z.perSlot ∧
      t.here.shadUsed + 16 ≤ 2048) := by decide +kernel
/-! ### Matrix words -/

/-- An array with a configuration of n streamed rows and plane p stationary and shadow. -/
def arrOf (n : Nat) (p : Plane) : Arr :=
  { Arr.reset with cfg := ⟨n, 256, 256, 0, 0, 0, false, false⟩, p0 := p, p1 := p }

def mState (n : Nat) (p : Plane) : State := atA .m (fun a => { a with m0 := arrOf n p, m1 := arrOf n p })

/-- A READY plane of INT8 operands. -/
def int8Plane : Plane := { Plane.reset with st := .ready, ta := 0x15, tb := 0x15 }

/-- A pass of INT8 operands on M0, with Z. -/
def pass8 : MX := { mx with ta := 0x15, tb := 0x15, z := 1 }

theorem witness_ArrayControlWords : let s := atA .m (fun a => { a with scr := Store.put 0 [] 8388480 (natBytes 4 4096) })
    let f : MX := { mx with arr := 2, spa := 0xFFFF }
    (allRun [.mcfg h0 f, .mswap h0 f, .mfin h0 f] s = true ∧ s.mRangeFault [⟨mSpa f, 0, 1, 64⟩] = none ∧
      s.arch.scrPoisoned (mSpa f) 64 = false ∧
      mcfgRecord (s.arch.scrRead (mSpa f) 64) = some ⟨4096, 0, 0, 0, 0, 0, false, false⟩) ∧
    mcfgRecord ((at' .m).arch.scrRead (mSpa f) 64) = none ∧
    (∀ x ∈ mArrs f, (s.arch.arr x).joined = false ∧ (s.arch.arr x).shadow.st ≠ .needmeta ∧ (s.arch.arr x).loading = false ∧
      (s.arch.arr x).portStream ≤ s.cycle) ∧ (∀ m ∈ s.arch.mflight, m.doneAt ≤ s.cycle) ∧
    (let t := atA .m (fun a => { a with mflight := [⟨0, false, false, true, false, 1⟩] })
     allRun [.mfin h0 f] t = true ∧ ∃ m ∈ t.arch.mflight, t.cycle < m.doneAt ∧ m.accForm = true) ∧
    (atE .m (fun e => { e with run := .handler, status := 3 })).eng.inHandler = true := by decide +kernel

/-- Both arrays, INT8; a sparse plane that waits for its masks; a queue that holds just what is taken. -/
theorem witness_StationaryLoads : let f : MX := { mx with arr := 2, ta := 0x15, tb := 0x15 }
    let s := mState 1 Plane.reset
    let r : MRange := ⟨0, 256, (mldShape f).1, (mldShape f).2⟩
    (allRun [.mldw h0 f] s = true ∧ WellFormed (.mldw h0 f) = true ∧ f.bt = 0 ∧ mSpa f = 0 ∧
      (s.arch.mcfgOf f).pitchA = 256 ∧ mBlocks f f.ta = 0 ∧ s.mRangeFault [r] = none ∧ s.arch.loadHeld f s.cycle = false ∧
      s.arch.leaseLack 1 = false ∧ s.here.shadUsed + 400 ≤ 2048) ∧
    (let g : MX := { f with arr := 0, mv := 1, nv := 7 }
     let t := atA .m (fun a => { a with oq := a.oq.set 0 (List.replicate (mldqEntries g) ⟨List.replicate 256 1, false⟩) })
     allRun [.mldwq h0 g] t = true ∧ WellFormed (.mldwq h0 g) = true ∧ t.eng.prog = 0 ∧ t.arch.loadHeld g t.cycle = false ∧
      mldqEntries g = 8 ∧ (t.queue (g.spa.extractLsb' 0 3).toNat).length = 8 ∧ t.here.shadUsed + 400 ≤ 2048) ∧
    (let g : MX := { f with arr := 0, sp := 1 }
     let t := mState 1 { int8Plane with st := .needmeta, sp := 1 }
     allRun [.mspm h0 g] t = true ∧ WellFormed (.mspm h0 g) = true ∧
      t.mRangeFault [⟨mSpa g, 0, 1, mMaskBytes g * (mArrs g).length⟩] = none ∧
      (∀ x ∈ mArrs g, (t.arch.arr x).joined = false ∧ (t.arch.arr x).shadow.st = .needmeta ∧
        (t.arch.arr x).shadow.ta = g.ta ∧ (t.arch.arr x).shadow.tb = g.tb ∧ (t.arch.arr x).shadow.sp = g.sp ∧
        (t.arch.arr x).portLoad ≤ t.cycle) ∧ t.arch.leaseLack 1 = false ∧ t.here.shadUsed + 520 ≤ 2048) := by
  decide +kernel

theorem mOperand_flat {s : State} {f : MX} (h : f.bt = 0) (p n l : Nat) :
    s.mOperand f p n l = .range ⟨mSpa f, p, n, l⟩ := by simp [State.mOperand, h]

/-- The operands of a pass of one row; the row takes the containers of one half of a granule. -/
theorem witness_PassWords : let s := mState 1 int8Plane
    let f := pass8
    let r : MRange := ⟨mSpa f, 256, 1, 192⟩
    (allRun [.mstr h0 f] s = true ∧ (s.arch.mcfgOf f).mrows = 1 ∧ mKps f * mBits f.tb / 8 = 192 ∧ mBlocks f f.tb = 0 ∧
      s.mRangeFault [r] = none ∧ s.passFault f = none ∧
      s.arch.portBusy (mArrs f) s.cycle (fun m => m.portStream) = false ∧ s.arch.leaseLack 1 = false) ∧
    s.mOperand f 256 1 192 = .range r := by
  refine ⟨by decide +kernel, mOperand_flat (by decide) _ _ _⟩

theorem witness_PassWords_room : let s := mState 1 int8Plane
    s.here.panLacks ((s.here.passStart pass8 1).passRow pass8 (s.arch.m0.stat pass8) (s.arch.m1.stat pass8) 0
      ⟨#[], 8, #[], false⟩) = false := by decide +kernel

/-- Queue operands: one entry per row, and the planes of MMV with one vector. -/
theorem witness_PassWords_queue : let q := List.replicate 1 (⟨List.replicate 256 1, false⟩ : OqEnt)
    let s (p : Plane) := atA .m (fun a => { a with m0 := arrOf 1 p, oq := a.oq.set 0 q })
    (∀ p ∈ [(Instr.mstrq h0 pass8, pass8, int8Plane),
        (.mmv h0 { pass8 with mv := 1 }, { pass8 with mv := 1 }, { int8Plane with mv := true })],
      allRun [p.1] (s p.2.2) = true ∧ ((s p.2.2).arch.mcfgOf p.2.1).mrows = 1 ∧ mEntries (mKps p.2.1) (typeWidth p.2.1.tb) = 1 ∧
      (s p.2.2).passFault p.2.1 = none ∧ (s p.2.2).eng.prog = 0 ∧
      (s p.2.2).arch.portBusy (mArrs p.2.1) (s p.2.2).cycle (fun m => m.portStream) = false ∧
      ((s p.2.2).queue (p.2.1.spa.extractLsb' 0 3).toNat).length = 1) := by decide +kernel

/-- The forms of one row: an accumulator is one container, and an integer one. -/
theorem witness_PassWords_row : mStride pass8 = 1 ∧ accClass pass8.ta ≠ some 0 ∧ 0 < mPerRow pass8 := by decide +kernel

/-- The last 1,024 accumulators; v0 with FP32 and with the pair type; the last 4 KiB of scratchpad. -/
theorem witness_AccumulatorWords : let s := at' .m
    let z : MX := { mx with acc := 0xFFC00 }
    let l : MX := { z with spa := 0xFFE0 }
    (s.accHeld = false ∧ allRun [.macz h0 z] s = true ∧ mAcc z + mCount z = 2 ^ 20) ∧
    (allRun [.macld h0 l] s = true ∧ s.mRangeFault [⟨mSpa l, 0, 1, 4 * mCount l⟩] = none ∧ s.arch.leaseLack 1 = false ∧
      mSpa l + 4 * mCount l = 8388608) ∧
    (∀ p ∈ [(0x00, 0xFFC00), (0x1E, 0xFFC00)], let f : MX := { mx with ta := BitVec.ofNat 5 p.1, tb := BitVec.ofNat 5 p.1, acc := BitVec.ofNat 20 p.2 }
      allRun [.macrd h0 f] s = true ∧ WellFormed (.macrd h0 f) = true ∧
      (let regs := (List.range (f.nv.toNat + 1)).map (fun q => s.rotate (f.tile.toNat + q))
       regs.Nodup ∧ banksOn s regs = true) ∧
      mAcc f + accStride f.ta * (perReg f.tb * (f.nv.toNat + 1)) ≤ 2 ^ 20 ∧ (f.ta = 0x1E → mAcc f % 2 = 0)) ∧
    s.here.shadUsed + 64 ≤ 2048 ∧
    (let f : MX := { l with ta := 0, tb := 0 }
     allRun [.macst h0 f] s = true ∧ WellFormed (.macst h0 f) = true ∧
      s.mRangeFault [⟨mSpa f, 0, 1, 4096⟩] = none ∧ mCount f / accStride f.ta * typeWidth f.tb / 8 = 4096 ∧
      s.arch.leased (mSpa f) 4096 = false) := by decide +kernel

theorem witness_AccumulatorWords_room : let s := at' .m
    s.here.panLacks (s.modHere (fun c => c.accPut 0xFFC00 (List.replicate 1024 0) false false)).here = false ∧
    s.here.panLacks ((chunks 256 1024 ((s.lview 4).scrRead 8384512 4096)).zipIdx.foldl (fun (c : Core) p =>
      c.accPut (0xFFC00 + 64 * p.2) ((chunks 4 65 p.1).map (fun b => BitVec.ofNat 32 (bytesNat b))) false true) s.here) =
      false ∧
    s.here.panLacks ((List.range 64).foldl (fun (c : Core) g => c.scrWrite .own (.l .m) (8384512 + 64 * g)
      (((List.range 16).map (fun j => natBytes 4 (s.arch.readout 0 0 (0xFFC00 + (g * 16 + j))))).flatten) false 4 (s.cycle + 12))
        s.here) = false := by decide +kernel
/-! ### The transport sequencer -/

/-- Core 0's sequencer in a routine of context 0, whose job-key binding 0 names job 7, rank 1; bytes of local memory, and
more of the sequencer and of the device. -/
def seqState (l : List (Nat × List Byte)) (f : Seq → Seq := id) (d : Dev → Dev := id) : State :=
  at' .c (fun c => c.modArch (fun a => { a with seq := f { a.seq with
      running := true, routine := some ⟨0, 0, 0, 0, 0⟩, lmem := l.foldl (fun m p => Store.put 0 m p.1 p.2) [] } }))
    (fun x => d { x.setCtx 0 { placeCtx with sema := ~~~(0 : BitVec 256), jktab := 0x300000, njk := 1 } with
      hbm := Store.put 0 (mapEntries []) 0x300000 (natBytes 8 0x8000000700010000)
      member := [(0, 0xE000000000000007)] })

def sw (a b f c imm : Nat) : SeqW :=
  ⟨BitVec.ofNat 4 a, BitVec.ofNat 4 b, BitVec.ofNat 48 (f * 2 ^ 44 + c * 2 ^ 40 + imm)⟩

theorem witness_SequencerControlAndMemoryWords : let s := seqState [] (fun q => q.setX 3 1)
    s.seq.getX 3 ≠ 0 ∧ s.seq.getX 4 = 0 ∧ s.seq.routine.isSome = true ∧ (sw 0 0 0 0 0).imm = 0 ∧
      Code.reservedField ∈ Code.all ∧ Code.reservedField ≠ 0 ∧ 255 < (sw 0 0 0 0 256).imm.toNat ∧
      2 ^ (sw 1 0 3 0 0x3FFF8).f.toNat = 8 ∧ (s.seq.ea (sw 1 0 3 0 0x3FFF8)).toNat + 8 = 2 ^ 18 ∧
      (s.seq.ea (sw 1 0 3 0 0x3FFFC)).toNat % 8 ≠ 0 ∧ 2 ^ 18 < (s.seq.ea (sw 1 0 3 0 0x40000)).toNat + 8 ∧
      s.here.shadUsed < 2048 := by decide +kernel

/-- An event record; a command whose wait is met, popped under handle 1 or not. -/
def ev1 : TEvent := ⟨0x04, 0, 0, 0, 0, 0, 0, 0, 0, 0⟩
def cmd1 (popped : Bool) : TCmd := ⟨[], true, 255, 0, true, 255, 3, 0, popped, if popped then 1 else 0, 0, 0, false⟩

theorem witness_SequencerEventAndCommandWords : let n := seqState []
    let e := seqState [] (fun q => { q with evq := [ev1], cmdq := [cmd1 false] })
    let p := seqState [] (fun q => { q with cmdq := [cmd1 true] }.setX 2 1)
    let u := at' .c (d := fun d => d.setCtx 0 placeCtx)
    e.seq.evq ≠ [] ∧ n.seq.evq = [] ∧ n.seq.y (sw 1 0 0 0 0) = 0 ∧ (n.seq.ea (sw 1 0 0 0 0x3FFE0)).toNat + 32 = 2 ^ 18 ∧
    (n.seq.ea (sw 1 0 0 0 0)).toNat ≤ n.dtime ∧ n.dtime < (n.seq.ea (sw 1 0 0 0 1)).toNat ∧
    (n.seq.ea (sw 1 0 0 0 0x3FFC0)).toNat + 64 = 2 ^ 18 ∧ n.seqHead = none ∧ e.seqHead = some (cmd1 false) ∧
    e.here.shadUsed < 2048 ∧ (∀ x ∈ n.seq.cmdq, ¬(x.popped = true ∧ x.handle = (n.seq.getX 2).toNat)) ∧
    p.seq.cmdq.find? (fun x => x.popped && decide (x.handle = (p.seq.getX 2).toNat)) = some (cmd1 true) ∧
    p.here.real = none ∧ (cmd1 true).sigCore = p.cur.core.val ∧
    (sw 0 0 0 0 255).imm.toNat < 256 ∧ (n.dev.ctx n.seq.ctx).sema.getLsbD 255 = true ∧
    (n.here.realArch.sem 255 - (n.seq.getX 0).setWidth 32).toNat < 2 ^ 31 ∧
    2 ^ 31 ≤ (p.here.realArch.sem 255 - (p.seq.getX 2).setWidth 32).toNat ∧ 256 ≤ (sw 0 0 0 0 256).imm.toNat ∧
    (u.dev.ctx u.seq.ctx).sema.getLsbD 255 = false := by decide +kernel

/-- An open descriptor of flow 1023 with the largest window. -/
def openDesc : List Byte :=
  natBytes 2 1023 ++ natBytes 2 0 ++ natBytes 2 1030 ++ natBytes 1 0 ++ natBytes 1 1 ++ natBytes 4 (16 * 2 ^ 20) ++
    natBytes 4 0 ++ natBytes 4 1000 ++ natBytes 2 255 ++ natBytes 1 3 ++ natBytes 9 0

def flow1 : Flow :=
  { Flow.closed with id := 1, st := .opened, peer := 1030, cls := 1, w := 4096, rto := 1000, rlim := 1, nextFsn := 0xFFFFFFFF, job := 7 }

def withFlow (f : Flow) (q : Seq) : Seq := q.setFlow 3 f

/-- A descriptor of a send or request on flow 3. -/
def sendDesc (len flags obj gid axes : Nat) : List Byte :=
  natBytes 8 0x200000 ++ natBytes 4 len ++ natBytes 2 3 ++ natBytes 1 7 ++ natBytes 1 obj ++ natBytes 4 0 ++ natBytes 4 flags ++
    natBytes 4 0 ++ natBytes 4 64 ++ natBytes 16 0 ++ natBytes 2 gid ++ natBytes 1 axes ++ natBytes 13 0

/-- A group of two ranks along one axis, this device being the first. -/
def group2 : Group := ⟨.active, 1, 0, 7, [2, 1, 1, 1], 0x340000, 0⟩

def done (r : SeqRes) : Bool := match r with | .done _ => true | _ => false

/-- FLOW.open of a closed flow and of a bad descriptor; the five sends and requests, and one of length 0. -/
theorem witness_SequencerFlowWords : let o := seqState [(0x100, openDesc)]
    let w := sw 1 0 0 0 0x100
    (o.seq.place w 32).toOption = some 0x100 ∧ (flowOf (o.seq.lread 0x100 32)).map Prod.fst = some 1023 ∧
    (o.seq.flow 1023).st = .closed ∧ o.binding 0 o.seq.ctx 0 = some (7, 1) ∧
    flowOf ((seqState []).seq.lread 0x100 32) = none ∧ o.here.shadUsed < 2048 ∧
    o.here.panLacks (o.modHere (fun c => c.closeFlow 0)).here = false ∧
    (∀ p ∈ [(1, sendDesc 4 0 2 0 0), (2, sendDesc 4 0 2 0 1), (3, sendDesc 4 0 2 0 1), (4, sendDesc (2 ^ 24) 0 63 0 0),
        (5, sendDesc 8 0 0 0 0)],
      let s := seqState [(0x100, p.2)] (withFlow flow1) (fun d => d.setGroup 0 group2)
      let d := descOf p.1 (s.seq.lread 0x100 64)
      (s.seq.place w 64).toOption = some 0x100 ∧ s.sendCheck d (s.seq.flow d.flow) = none ∧ done (s.operate w d) = true) ∧
    (let s := seqState [(0x100, sendDesc 0 0 2 0 0)] (withFlow flow1)
     let d := descOf 1 (s.seq.lread 0x100 64)
     s.sendCheck d (s.seq.flow d.flow) = some Code.reservedField) := by decide +kernel

/-- XSTEP of a step record that names PUT, and of one that names none. -/
theorem witness_SequencerFlowWords_step : let w := sw 1 0 0 0 0x100
    let s := seqState [(0x100, sendDesc 4 64 2 0 0)] (withFlow flow1)
    let k := bitsOf (leAt (s.seq.lread 0x100 64) 0x14 4) 7 6
    let d := descOf k (s.seq.lread 0x100 64)
    k = 1 ∧ done (s.operate w { d with flags := d.flags - 64 * k }) = true ∧
      bitsOf (leAt ((seqState []).seq.lread 0x100 64) 0x14 4) 7 6 = 0 := by decide +kernel

/-- A flit that was sent and is not acknowledged. -/
def sent1 : Unacked := ⟨5, 5, hdrZero, [], none, [1030], [], true, true, false, 0, 0, 1, false⟩

/-- A gather over two members: a plan request at 0x100 whose steps go to 0x200. -/
def planReq : List Byte :=
  natBytes 2 0 ++ natBytes 1 1 ++ natBytes 1 0 ++ natBytes 4 0x40 ++ natBytes 4 0 ++ natBytes 2 0 ++ natBytes 2 3 ++
    natBytes 4 256 ++ natBytes 4 1 ++ natBytes 4 1 ++ natBytes 4 1 ++ natBytes 8 0x200000 ++ natBytes 4 0 ++
    natBytes 4 0x200 ++ natBytes 4 1 ++ natBytes 12 0

theorem witness_SequencerKeyAndPlanWords : let w := sw 1 2 0 4 0x100
    let s := seqState [] (fun q => (withFlow { flow1 with unacked := [sent1] } (q.setX 1 3)).setX 2 5)
    let b := seqState []
    let slot (st : SlotSt) := seqState [] id (fun d => d.setJobKey ⟨7, none, ⟨st, [], 0, 0, 0, 0, []⟩, .empty⟩)
    let no := at' .c
    (b.seq.flow ((b.seq.getX 1).toNat % 1024)).st ≠ .opened ∧
    ((s.seq.flow ((s.seq.getX 1).toNat % 1024)).st = .opened ∧ s.seq.y (sw 1 2 0 0 1) = 1 ∧
      (s.seq.flow 3).unacked = [sent1] ∧ sent1.fsn = (s.seq.getX 2).toNat % 2 ^ 32 ∧ sent1.tries < flow1.rlim) ∧
    (b.seq.place (sw 1 0 0 4 0x100) 32).toOption = some 0x100 ∧ b.binding 0 b.seq.ctx (b.seq.getX 1).toNat = some (7, 1) ∧
    (∀ st ∈ [SlotSt.empty, .retired, .exhausted, .loaded, .current, .next],
      (((slot st).dev.jobKey 7).slot (w.f.toNat % 2)).st = st) ∧ (slot .loaded).jobPeers 7 = [] ∧ (slot .loaded).dev.ctlq = [] ∧
    (slot .loaded).here.panLacks ((slot .loaded).keySwitch 7 1 0).here = false ∧
    no.binding 0 no.seq.ctx 0 = none := by decide +kernel

theorem witness_SequencerKeyAndPlanWords_plan : let w := sw 1 0 0 0 0x100
    let s := seqState [(0x100, planReq)] id (fun d => d.setGroup 0 group2)
    let p := s.plan (s.seq.lread 0x100 64)
    (s.seq.place w 64).toOption = some 0x100 ∧ (seqState []).plan ((seqState []).seq.lread 0x100 64) = none ∧
    p.map (fun p => (p.steps.length, p.bind)) = some (1, none) ∧ leAt (s.seq.lread 0x100 64) 0x2C 4 % 64 = 0 ∧
    s.here.panLacks ((s.lwrite 0x200 (zeroBytes 64)).lwrite 0x132 (natBytes 2 1)).here = false := by decide +kernel
/-! ### Section headers and the containment region -/

/-- The header that R22's first worked example writes out. -/
def goodHdr : SecHdr := decodeHdr 0xE5004005005008F8

/-- Core 0's C engine at a header, n instances entered. -/
def atHdr (n : Nat) (f : Core → Core := id) : State :=
  { (State.reset.setCore 0 (f ((placeCore (State.reset.core 0) .c true).modArch (fun a =>
      a.modEng .c (fun e => { e with inst := n }))))) with
    cur := ⟨0, .c⟩, dev := State.reset.dev.setCtx 0 placeCtx }

/-- A header that is refused for each reason, one held back by SLIPW, one with another SID, one entered; a handler's. -/
theorem witness_SectionHeaders : let s := atHdr 63
    let slip := atHdr 64
    let old := atHdr 0 (fun c => c.modArch (fun a => { a with sids := [0xFFF] }))
    let hdl := (atHdr 0).modEng (fun e => { e with run := .handler })
    (decodeHdr 0x0000000000000000).mark ≠ 0xE5 ∧
    ((decodeHdr 0xE5000000000000E5).mark = 0xE5 ∧ xorBytes (encodeHdr (decodeHdr 0xE5000000000000E5)) = 0 ∧
      (decodeHdr 0xE5000000000000E5).len = 0) ∧
    xorBytes (encodeHdr (decodeHdr 0xE5004005005008F9)) ≠ 0 ∧ headerFault goodHdr = none ∧
    (s.eng.run = .run ∧ s.cur.th ≠ .chap ∧ s.here.recov = none ∧ s.here.preempt = none) ∧
    slip.arch.slipOk .c = false ∧ s.arch.slipOk .c = true ∧
    headerFault (decodeHdr 0xE5004005005008F9) = some Code.sectionFormat ∧
    (old.eng.inst < old.arch.sids.length ∧ old.arch.sids.getD old.eng.inst 0 ≠ goodHdr.sid) ∧
    (s.arch.sids.length ≤ s.eng.inst ∧ s.branchFault s.eng = false ∧ s.bodyFault s.eng = false ∧ goodHdr.sealf ≠ 0 ∧
      (decodeHdr 0xE5001000000000F5).sealf = 0) ∧
    (hdl.eng.run = .handler ∧ handlerHdrBad goodHdr = true ∧ handlerHdrBad (decodeHdr 0xE5001000000000F5) = false ∧
      headerFault (decodeHdr 0xE5001000000000F5) = none ∧ xorBytes (encodeHdr goodHdr) = 0) := by decide +kernel

/-- Core 0 in an ACTIVE region with commit point 1 sealed; f sets more. -/
def inRegion (f : Core → Core := id) : State :=
  at' .c (fun c => f { c with cpCount := 1, ckpts := [⟨1, .binding, 0, true, c.arch⟩] })

/-- A held write of 64 bytes at the top of HBM; a held signal of semaphore 255. -/
def heldWrite : Held := ⟨0, 0, .write .other 0 0 [(⟨0, Config.hbmBytes - 64, 0, 0⟩, List.replicate 64 7)] [false], 1, some 1, 0, .c, 0, 0, 0, 0, 16, false⟩
def heldSignal : Held := { heldWrite with eff := .signal 63 255 1 }

theorem witness_RegionEvents : let s := inRegion
    let rq := inRegion (fun c => { c with cpReq := [.word] })
    let fl := inRegion (fun c => { c with cpReq := [.word], ckpts := List.replicate 16 ⟨1, .binding, 0, false, c.arch⟩ })
    let un : State := { (inRegion (fun c => { c with ckpts := [⟨1, .binding, 0, false, c.arch⟩] })) with now := 160 * 410 }
    Store.get 0 (s.core 0).arch.bankWake 11 ≤ s.cycle ∧
    ((rq.core 0).cpReq = [.word] ∧ (rq.core 0).preempt = none ∧ (rq.core 0).canTake rq.cycle = true) ∧
    (fl.core 0).canTake fl.cycle = false ∧
    ((un.core 0).preempt = none ∧ (un.core 0).ckpts.all (fun j => match j.kind with | .refill _ => false | _ => true) = true ∧
      (un.core 0).region ≠ .rollback ∧ ((un.core 0).ckpts.find? (fun k => !k.sealedNow)).map (·.num) = some 1 ∧
      0 + 160 ≤ un.cycle) ∧
    (∀ h ∈ [heldWrite, heldSignal], let w := inRegion (fun c => { c with hold := [h] })
      (w.core 0).hold = [h] ∧ w.mayLeave 0 h = true) ∧
    (inRegion (fun c => { c with hold := [{ heldWrite with cover := none }] })).mayLeave 0 { heldWrite with cover := none } = false ∧
    (s.core 0).task.map (fun t => (t.replay, t.audited)) = some (false, false) ∧ (s.core (coreId 63)).real = none := by
  decide +kernel

theorem witness_RegionEvents_rollback : let st := inRegion (fun c => { c with strikes := [0] })
    let idle := at' .c (fun c => { c with strikes := [0], region := .idle })
    let rb (now : Nat) : State := { (inRegion (fun c => { c with region := .rollback, restart := some (1, 24) })) with now := now * 410 }
    let bad : State := { (inRegion (fun c => { c with region := .rollback, restart := some (1, 24), shadows := [⟨0, 5, 1, 1, true⟩] })) with now := 24 * 410 }
    let rc := inRegion (fun c => { c with
        region := .recovery, recov := some ⟨0, 0⟩, ckpts := c.ckpts ++ [⟨2, .loopEntry 0, 0, true, c.arch.modLoop 0 (fun l => { l with active := true })⟩] })
    ((st.core 0).preempt = none ∧ (st.core 0).ckpts.all (fun j => match j.kind with | .refill _ => false | _ => true) = true) ∧
    ((st.core 0).strikes ≠ [] ∧ (st.core 0).region = .active ∧ (st.core 0).ckpts.any (·.sealedNow) = true) ∧
    ((idle.core 0).strikes ≠ [] ∧ (idle.core 0).region = .idle) ∧
    (((rb 23).core 0).restart = some (1, 24) ∧ (rb 23).cycle < 24 ∧ 24 ≤ (rb 24).cycle ∧ ((rb 24).core 0).conflict 1 = none ∧
      ((rb 24).core 0).recov = none ∧ (((rb 24).core 0).ckpts.find? (fun k => k.num = 1)).isSome = true) ∧
    ((bad.core 0).conflict 1 = some (0, 5) ∧ 24 ≤ bad.cycle ∧ (bad.core 0).task.map (·.replay) = some false) ∧
    ((rc.core 0).recov = some ⟨0, 0⟩ ∧ (rc.core 0).region = .recovery ∧ (rc.core 0).restart = none ∧
      ((rc.core 0).recoveryPoint ⟨0, 0⟩).map (fun k => (k.num, k.sealedNow)) = some (2, true)) := by decide +kernel

/-! ### Launching -/

/-- A control record of a ring at 0x10000 of host memory: 16 entries, one producer. -/
def ringRec : List Byte := natBytes 8 0x10000 ++ natBytes 8 4 ++ natBytes 24 0 ++ natBytes 24 1
def hostRing1 (st : RingHostSt) (q : Nat) : HostRing := ⟨st, ringRec, [q], 0, false⟩

/-- The bytes of a command: SEQ, operation, block address, size. -/
def entry (seq op addr size : Nat) : List Byte :=
  natBytes 8 seq ++ natBytes 8 op ++ natBytes 8 addr ++ natBytes 8 size ++ natBytes 96 0

/-- A device that is ready, ring 15 of context 1023 in this state, this entry in the slot of q. -/
def hostRingState (st : RingHostSt) (q : Nat) (e : List Byte) : State :=
  { full with dev := { full.dev.setHring 1023 15 (hostRing1 st q) with boot := 3, host := Store.put 0 (Store.put 0 [] 0x10000 [1]) (0x10000 + 128 * (q % 16)) e } }

theorem witness_LaunchEvents_rings : let off := hostRingState .disabled 0 []
    let bad := off.dev.setHring 1023 15 ⟨.disabled, zeroBytes 64, [], 0, false⟩
    let s (e : List Byte) := hostRingState .enabled (2 ^ 64 - 1) e
    let q := s (entry (2 ^ 64 - 1) 1 0 0)
    (off.dev.hring 1023 15).st = .disabled ∧ ((off.dev.hring 1023 15).setEn true).valid = true ∧
    ((bad.hring 1023 15).setEn true).valid = false ∧ off.ready = true ∧ (off.dev.hring 1023 15).st ≠ .enabled ∧
    ((s []).dev.hring 1023 15).producers = 1 ∧ ((s []).dev.hring 1023 15).expect = [2 ^ 64 - 1] ∧
    (q.seqFound 1023 15 0 matches .ready) = true ∧ ((s (entry 15 1 0 0)).seqFound 1023 15 0 matches .overrun) = true ∧
    ((s []).dev.hring 1023 15).st = .enabled ∧ (s []).ready = true ∧
    (∀ b ∈ [false, true], let t := { (s []) with dev := (s []).dev.setHring 1023 15 { hostRing1 .enabled (2 ^ 64 - 1) with bell := b } }
      t.grantRing.isNone = true) := by decide +kernel

/-- An image of one section of one word. -/
def imgText : List Byte := natBytes 8 0xE5001000000000F5 ++ natBytes 12 0
def imgHead (crc : Nat) : List Byte :=
  natBytes 4 0x53514B31 ++ natBytes 2 1 ++ natBytes 2 0 ++ natBytes 4 128 ++ natBytes 4 20 ++ natBytes 4 148 ++ natBytes 4 0 ++
    natBytes 4 1 ++ natBytes 4 0 ++ natBytes 32 0 ++ natBytes 4 160 ++ natBytes 4 160 ++ natBytes 4 160 ++ natBytes 48 0 ++ natBytes 4 crc
def imgBytes : List Byte := imgHead 515631865 ++ imgText ++ zeroBytes 12

/-- A launch record: every core, one tile task, the image at 0x40000. -/
def launchRec : List Byte :=
  natBytes 8 1 ++ natBytes 8 0x40000 ++ natBytes 8 (2 ^ 64 - 1) ++ natBytes 8 0 ++ natBytes 16 (1 + 2 ^ 32 + 2 ^ 64 + 2 ^ 96) ++
    natBytes 32 0 ++ natBytes 8 1 ++ natBytes 232 0

def image1 : Image := ⟨0x40000, 160, 128, 20, 1, 0, List.replicate 8 0, [], [], false, 0, [], []⟩

/-- Context 0 resident on every core, with this command consumed from its ring 0 and these images. -/
def cmdState (op addr size : Nat) (is : List Image) : State :=
  { full with dev := { full.dev.setCtx 0 { placeCtx with st := .resident, cores := ~~~(0 : W64), images := is } with
      boot := 3, hcmds := [⟨0, 0, op, false, 0, addr, size, 0, 0, 0, false⟩]
      hbm := Store.put 0 (Store.put 0 (mapEntries []) 0x40000 imgBytes) 0x50000 launchRec } }

theorem crc1 : List.foldl crcByte 0xFFFFFFFF ((imgHead 0 ++ imgText).take 37) = 2922063683 := by decide +kernel
theorem crc2 : List.foldl crcByte 2922063683 (((imgHead 0 ++ imgText).drop 37).take 37) = 356551491 := by decide +kernel
theorem crc3 : List.foldl crcByte 356551491 (((imgHead 0 ++ imgText).drop 74).take 37) = 231444929 := by decide +kernel
theorem crc4 : List.foldl crcByte 231444929 ((imgHead 0 ++ imgText).drop 111) = 3779335430 := by decide +kernel

theorem imgCrc : crc32 (imgHead 0 ++ imgText) = 515631865 := by
  have e : imgHead 0 ++ imgText = (imgHead 0 ++ imgText).take 37 ++ (((imgHead 0 ++ imgText).drop 37).take 37 ++
      (((imgHead 0 ++ imgText).drop 74).take 37 ++ (imgHead 0 ++ imgText).drop 111)) := by decide +kernel
  rw [crc32, e, List.foldl_append, List.foldl_append, List.foldl_append, crc1, crc2, crc3, crc4]
  rfl

theorem witness_LaunchEvents_image : let s := cmdState 2 0x40000 160 []
    ((s.dev.hostCmd 0 0 2).map (fun c => (c.ctx, c.addr, c.size)) = some (0, 0x40000, 160)) ∧ (s.dev.ctx 0).alive = true ∧
    (s.dev.ctx 0).image 0x40000 = none ∧
    0x40000 % 64 = 0 ∧ (s.imagePart 0 0 0x40000 0 128).toOption = some (imgBytes.take 128) := by decide +kernel

theorem witness_LaunchEvents_imageOf :
    imageOf 0x40000 160 (imgBytes.take 128) ((cmdState 2 0x40000 160 []).imagePart 0 0 0x40000) = .ok image1 := by
  have e : (cmdState 2 0x40000 160 []).imagePart 0 0 0x40000 (leAt (imgBytes.take 128) 8 4) (leAt (imgBytes.take 128) 0x0C 4) =
      .ok imgText := by decide +kernel
  have g : overlay (imgBytes.take 128) 0x7C (zeroBytes 4) = imgHead 0 := by decide +kernel
  simp only [imageOf]
  rw [e]
  simp only []
  rw [g, imgCrc]
  decide +kernel

theorem witness_LaunchEvents_launch : let u := cmdState 3 0x40000 0 [image1]
    let l := cmdState 1 0x50000 0 [image1]
    ((u.dev.hostCmd 0 0 3).map (·.ctx) = some 0 ∧ (u.dev.ctx 0).image 0x40000 = some image1 ∧ image1.use = 0) ∧
    ((l.dev.hostCmd 0 0 1).map (·.addr) = some 0x50000 ∧
      (((l.modDev (fun d => d.dropCmd ⟨0, 0, 1, false, 0, 0x50000, 0, 0, 0, 0, false⟩)).acceptCheck 0 0 0x50000 0 none none).toOption.map (·.img)) = some 0x40000) := by decide +kernel

/-- The bundle of that record, accepted under id 1; more of it is set by f. -/
def bundle1 (f : Bundle → Bundle := id) : Bundle := f (bundleOf launchRec 1 0 0x50000 0 0 0 none)
def bundleState (b : Bundle) : State :=
  let s := cmdState 1 0x50000 0 [image1]
  { s with now := 4096 * 4 * 625, dev := { s.dev with bundles := [b] } }

/-- A wait on semaphore 0 of core 0 for 1; on barrier 63 of core 0. -/
def waitSem (b : Bundle) : Bundle := { b with deps := [0x8000000000000001] }
def waitBar (b : Bundle) : Bundle := { b with deps := [0xC0003F0000000000] }

theorem witness_LaunchEvents_bundle : let b := bundle1
    let s := bundleState b
    let w := bundle1 waitSem
    let f := bundle1 waitBar
    let fs := (bundleState f).modCore 0 (fun c => c.modArch (fun a => { a with bars := a.bars.set 63 { Bar.reset with st := .faulted, code := 0x10 } }))
    let e := bundle1 (fun b => { b with st := .draining })
    let p := bundle1 (fun b => { b with st := .active, total := 1, cls := 2 })
    s.dev.bundle b.id = some b ∧ b.st = .waiting ∧ s.depFault b = none ∧ b.deps.all s.depMet = true ∧
    ((bundleState w).depFault w = none ∧ w.deps.all (bundleState w).depMet = false) ∧
    s.dev.activeOn b.die b.cls + s.earlierMet b (b.met.getD s.uncore) < 16 ∧ b.tr = false ∧
    (let a := (List.range 16).map (fun k => { b with id := 2 + k, st := .active })
     let x := { s with dev := { s.dev with bundles := b :: a } }
     x.depFault b = none ∧ b.deps.all x.depMet = true ∧ 16 ≤ x.dev.activeOn b.die b.cls + x.earlierMet b (b.met.getD x.uncore)) ∧
    (s.dev.ctx b.ctx).image b.img = some image1 ∧ s.dev.coresOf b.ctx b.cores ≠ [] ∧ (s.taskCount b).toOption = some 1 ∧
    b.xl = false ∧ fs.depFault f = some 0x10 ∧
    (e.st = .draining ∧ e.live = 0 ∧ e.copies = [] ∧ e.routineLive = false) ∧
    (p.st = .active ∧ p.next < p.total ∧ 2 ≤ p.cls - p.promoted ∧ p.since + 4096 * (p.promoted + 1) ≤ (bundleState p).uncore) ∧
    s.dev.walkers[0].win ≠ s.uncore / 4096 ∧ s.grantRing = none := by decide +kernel

/-! ### Tile tasks -/

/-- The bundle is active with one tile task left, on core 63 alone. -/
def onCore63 (b : Bundle) : Bundle := { b with st := .active, total := 1, cores := 0x8000000000000000, die := 1 }

theorem witness_TileTaskEvents_bind : let b := bundle1 onCore63
    let s := bundleState b
    s.dev.walkers[1].lastBind ≤ s.uncore ∧
    ((List.range 32).map (fun k => 32 * 1 + k)).find? (fun n => !(s.candidates n).isEmpty ||
      ((s.core (coreId n)).isFree && !(s.dev.replayFor n).isEmpty)) = some 63 ∧
    (s.dev.walkers[1].pick (s.uncore / 4096) (s.candidates 63) []).map (·.1) = some (.inl b) ∧
    s.dev.replayFor 63 = [] ∧
    (s.dev.ctx b.ctx).image b.img = some image1 := by decide +kernel

/-- Core 63 with this tile task; f sets more of the core. -/
def on63 (t : Task) (f : Core → Core := id) : State :=
  { full.setCore 63 (f { (placeCore (full.core 63) .c true) with task := some t }) with dev := (bundleState bundle1).dev, now := 2 ^ 20 * 410 }

def task1 (st : TaskSt) (replay : Bool) : Task := ⟨1, 0, 0, 0x40000, st, replay, replay, [], 5, [], []⟩
def audit1 (sig : W64) : Audit := ⟨bundle1, 0, 0, [], sig, [], [], false⟩
def longWait : WaitSt := ⟨0, true, 0, 16, .sem 0 1, false, none⟩

theorem witness_TileTaskEvents_end : let r := on63 (task1 .sealing false)
    let p := on63 (task1 .sealing true)
    let w := on63 (task1 .running true) (fun c => (c.modArch (fun a => a.modEng .m (fun e => { e with wait := some longWait }))).noteUnmet 0)
    ((r.core 63).task = some (task1 .sealing false) ∧ r.mayRetire 63 = true) ∧
    (on63 (task1 .running false)).mayRetire 63 = false ∧
    ((p.core 63).task = some (task1 .sealing true) ∧ p.mayRetire 63 = true) ∧
    ((task1 .sealing true).sig = (audit1 5).sig ∧ (task1 .sealing true).sig ≠ (audit1 6).sig ∧ (audit1 5).replays = [] ∧
      (audit1 5).b.id = (task1 .sealing true).bundle ∧ (audit1 5).ord = (task1 .sealing true).ord) ∧
    ((w.core 63).task.map (·.replay) = some true ∧ ((w.core 63).noteUnmet w.cycle).waitsLong w.cycle = true) := by decide +kernel

/-- A pre-emption of core 63's task for bundle 1, at instance 0. -/
def pre1 (st : PreSt) : Preempt := ⟨1, st, 0x40080, 0x40080, 0x40080, 0, 0, [], none⟩

/-- The task of bundle 1 that a pre-emption has put aside. -/
def saved1 (a : Arch) : Saved :=
  ⟨{ (task1 .preempted false) with ctx := 1 }, pre1 (.refilling 0), 0, a.loops, a.putx, a.bout, a.streams, a.m0, a.m1, a.slipw, a.bankPwr, 0, 0, [0, 0, 0, 0], 0, 0,
    [], [[], [], [], []], [], a.wins, 0, [], [], true⟩

/-- Every engine waits at the header of instance 0. -/
def atHeaders (a : Arch) : Arch :=
  kernelThreads.foldl (fun a t => a.modEng t (fun e => { e with run := .run, left := 0, arrived := true })) a

theorem witness_TileTaskEvents_preempt : let b := bundle1 (fun b => { b with
        st := .active, total := 1, cores := 0x8000000000000000, die := 1, cls := 0 })
    let r := bundle1 (fun b => { b with id := 2, ctx := 1, cls := 2, st := .active, total := 1 })
    let s : State := { (on63 { (task1 .running false) with bundle := 2, ctx := 1 }) with dev := { (bundleState b).dev with bundles := [b, r] } }
    let d := on63 (task1 .running false) (fun c => { c with preempt := some (pre1 (.latched (some 0))) }.modArch atHeaders)
    let st := on63 (task1 .running false) (fun c => { c with preempt := some (pre1 (.latched (some 0))) }.modArch (fun a =>
      (atHeaders a).modEng .m (fun e => { e with stalled := true, left := 1 })))
    let sv := on63 (task1 .running false) (fun c => { c with preempt := some (pre1 (.saving 0)) })
    let hd := on63 (task1 .running false) (fun c => { c with preempt := some (pre1 (.saving 0)), hold := [heldWrite] })
    let rf := on63 (task1 .running false) (fun c => { c with saved := [saved1 c.arch], task := none })
    (s.dev.bundle b.id = some b ∧ b.st = .active ∧ b.next < b.total ∧ b.cls = 0 ∧ b.since + 4096 ≤ s.uncore ∧
      s.dev.coresOf b.ctx b.cores = [63] ∧ (s.core 63).task.map (fun t => (t.st, t.replay, t.ctx, t.bundle)) = some (.running, false, 1, 2) ∧
      (s.core 63).saved = [] ∧ s.dev.bundle 2 = some r ∧ 2 ≤ r.cls ∧ s.dev.walks b.ctx 63 = true ∧ (s.core 63).preempt = none) ∧
    ((d.core 63).preempt = some (pre1 (.latched (some 0))) ∧
      (d.core 63).arch.running.all (fun th => ((d.core 63).arch.eng th).waitsAt 0) = true ∧ (d.core 63).canTake d.cycle = true ∧
      (d.core 63).cpReq = [] ∧ (d.core 63).region = .active) ∧
    ((pre1 (.latched (some 0))).since + 64 ≤ st.cycle ∧
      (st.core 63).arch.running.filter (fun th => !((st.core 63).arch.eng th).waitsAt 0) = [.m] ∧
      ((st.core 63).arch.eng .m).stalled = true ∧ ((st.core 63).arch.eng .m).busy + 64 ≤ st.cycle) ∧
    ((sv.core 63).preempt = some (pre1 (.saving 0)) ∧ (sv.core 63).drained = true ∧ (hd.core 63).drained = false) ∧
    ((rf.refillOf 63).map (fun v => (rf.readBlock 63 v).pre.st) = some (.refilling 0)) := by decide +kernel

/-! ### Memory agents -/

/-- Core 0 in context 0 with the first GiB of addresses mapped to HBM and the second to host memory. -/
def mapped (f : Core → Core := id) (d : Dev → Dev := id) : State :=
  at' .c f (fun x => d { x with hbm := Store.put 0 (mapEntries []) 0x100008 (natBytes 8 0x400000F5) })

theorem witness_MemoryEvents_walk : let s := mapped
    let x := s.dev.ctx (s.core 0).ctx
    s.dev.walk x 0x3FFFFFFF = .leaf 0xE5 1 ∧ s.dev.walk x (2 ^ 56 - 1) = .absent 0 false ∧
    s.cached 0 x 0x3FFFFFFF = [] ∧ s.cached 0 x (2 ^ 56 - 1) = [] := by decide +kernel

/-- A stream of kind 1 over one run of 512 bytes that ends with the first or second GiB. -/
def stream1 (base : Nat) : Stream :=
  { Stream.reset with st := .running, kind := 1, pat := ⟨base, 512, false, false, false, false, [1, 1, 1, 1], [0, 0, 0, 0], 0⟩, dst := 0x1000 }

def streaming (base : Nat) : State := mapped (fun c => c.modArch (fun a => a.modStream 15 (fun _ => stream1 base)))

theorem witness_MemoryEvents_stream : let s := streaming 0x3FFFFE00
    let t := (s.core 0).arch.stream 15
    let x := t.sector 511
    let h := streaming 0x7FFFFE00
    (s.core 0).flows = true ∧ t.live = true ∧ 511 < t.pat.total ∧ t.parked = [] ∧ x.pos ∉ t.doneSecs ∧ t.pat.ind = false ∧
    t.kind = 1 ∧ t.pat.six = false ∧ (s.core 0).arch.leases = [] ∧ x.len = 512 ∧ (s.core 0).shadUsed + 2 ≤ 2048 ∧
    (match s.readSector 0 (s.core 0).ctx x.va x.len t.pd t.began t.atm with
     | .bytes bs po => bs.length == 512 && po.length == 512 && !po.any id
     | .fault .. => false) = true ∧ t.pt = false ∧
    (h.access 0 (h.core 0).ctx (((h.core 0).arch.stream 15).sector 0).va .r = .ok ⟨2, 0x7FFFFE00, 0, 0⟩) := by decide +kernel

/-- A copy block of this form between HBM (or the scratchpad) and HBM (or the scratchpad). -/
def blk1 (form len unit : Nat) (dsp : Bool) : CopyBlk :=
  ⟨0, form, 0x10000, 0x20000, len, 0, 0, 0, 0, false, false, dsp, unit, 0, 0, 0, 0, false, false, 0, 0, 0, 0x800⟩

def sig1 (we : Bool) : WaitSig := ⟨we, 255, 1, false, 0, 0, 0⟩

def xcmd1 (st : CmdSt) (b : CopyBlk) (we : Bool) (r : Option Place) : XCmd :=
  ⟨0, b, sig1 we, st, 0, .c, 0, 0, 0, [], [], [], [], r, none, 0, (0, 0), true, none, none⟩

def queued (x : XCmd) : State := mapped (fun c => { c with xq := [x] })

theorem witness_MemoryEvents_command : let q := xcmd1 .queued (blk1 1 512 16 true) false none
    let w := { xcmd1 .queued (blk1 1 512 16 true) true none with met := false }
    let d (dsp : Bool) := xcmd1 .running (blk1 1 16 16 dsp) false none
    let a := xcmd1 .running { (blk1 4 16 16 true) with op := 8 } false (some ⟨0, 0x20000, 0, 0⟩)
    (q.sig.se = false ∧ q.bundle = none ∧ q.st = .queued ∧ 1 ≤ q.blk.total ∧ q.doneSecs = [] ∧ q.blk.form ∉ [4, 5, 6, 7, 9] ∧
      ((queued q).core 0).flows = true ∧ q.fate = none) ∧ (w.sig.we = true ∧ w.met = false) ∧
    (∀ dsp ∈ [true, false], (d dsp).blk.form = 1 ∧ (d dsp).blk.ord = 0 ∧ (d dsp).sectors = 1 ∧
      (d dsp).toDo 0 = true ∧ ((queued (d dsp)).core 0).restart = none ∧ (d dsp).units 0 = [0]) ∧
    ((queued (d true)).unitOf 0 (d true) ((queued (d true)).cmdView 0 (d true)) false 0 matches .ok _ _ _ none) = true ∧
    ((queued (d false)).unitOf 0 (d false) ((queued (d false)).cmdView 0 (d false)) false 0 matches .ok _ _ _ (some _)) = true ∧
    (∀ x ∈ [q, w, d true, a], x.reply = none ∧ (queued x).performed 1 (fun _ => true) = true ∧
      ((queued x).core 0).arch.leases = [] ∧ ((queued x).core 0).shadUsed + 2 ≤ 2048) ∧ q.blk.be = false ∧
    ((queued (d false)).core 0).holdUsed + 2 ≤ 2048 ∧
    (queued (d false)).dev.llc.length + (queued (d false)).dev.lines.length + 2 ≤ llcLines ∧
    (a.rmw = some ⟨0, 0x20000, 0, 0⟩ ∧ a.st = .running ∧ a.blk.form ∈ [4, 5] ∧ 0x20000 + a.blk.unit ≤ 576000000000 ∧ (queued a).dev.wlog = [] ∧ a.doneSecs = [] ∧
      a.blk.unit ≤ 16 ∧ Store.wf 0 (queued a).dev.hbm = true) := by decide +kernel

/-- Core 0 stalled at the worked SWAIT word, with this wait; the cycle is 65,536 - early. -/
def waiting (w : WaitSt) (early : Nat) : State :=
  let s := (State.reset.withFetchWord 96 0x0A9000282A00184000000000).modCore 0 (fun c => c.modArch (fun a =>
    a.modEng .c (fun e => { e with stalled := true, wait := some w })))
  { s with now := (65536 - early) * 410, cur := ⟨0, .c⟩ }

/-- The word at the pc is an SWAIT. -/
def atSwait (s : State) : Bool :=
  match s.fetchUnit 12 with
  | .ok bs => match decodeWord (bytesWord bs) with | .ok (.swait ..) => true | _ => false
  | .error _ => false

/-- A count of 0 meets the threshold 0 and not 1; a poll is due at cycle 65,535, a timeout at 65,536. -/
theorem witness_WaitWords_poll : let w (thr : W32) (np : Nat) : WaitSt := ⟨0, false, np, 4096, .sem 3 thr, false, none⟩
    let s (thr : W32) := waiting (w thr 65535) 1
    let t := waiting (w 1 65537) 0
    let u (s : State) (x : WaitSt) : State := s.modEng (fun e => { e with wait := some x })
    (s 0).atWait = some (w 0 65535) ∧ (s 1).atWait = some (w 1 65535) ∧ 65535 ≤ (s 0).cycle ∧ (s 0).cycle < 0 + 65536 ∧
    (s 1).arch.evalCond (.sem 3 1) = none ∧ (s 0).arch.evalCond (.sem 3 0) = some .met ∧
    atSwait (u (s 0) { w 0 65535 with out := some .met }) = true ∧
    t.atWait = some (w 1 65537) ∧ 0 + 65536 ≤ t.cycle ∧ t.arch.evalCond (.sem 3 1) = none ∧
    atSwait (u t { w 1 65537 with out := some .unmet }) = true := by decide +kernel

theorem witness_MemoryEvents_wait :
    (waiting ⟨0, true, 0, 8192, .sem 3 1, false, none⟩ 1).atWait.map (·.slot) = some true ∧
    (waiting ⟨0, false, 0, 8192, .sem 3 1, false, some .met⟩ 1).atWait.map (·.out) = some (some .met) ∧
    (let s := waiting ⟨0, false, 65536, 4096, .sem 3 1, false, none⟩ 1
     s.atWait.map (·.nextPoll) = some 65536 ∧ s.cycle < 65536) := by decide +kernel

theorem witness_MemoryEvents_rest : let b (ns : Nat) : State :=
      { (at' .c (fun c => c.modArch (fun a => { a with
        bars := a.bars.set 63 { Bar.reset with st := .armed, exp := 512, dl := true, deadline := 100 } }))) with now := ns * Config.ticksPerNs }
    let p : State := { (at' .c (fun c => c.modArch (fun a => { a with
        m0 := { a.m0 with p1 := { Plane.reset with st := .loading, loadDone := some 64 } } }))) with now := 64 * 410 }
    (((b 100).core 0).restart = none ∧ ((b 100).core 0).real = none ∧ (((b 100).core 0).arch.bar 63).waiting = true ∧
      (((b 100).core 0).arch.bar 63).dl = true ∧ (((b 100).core 0).arch.bar 63).deadline ≤ (b 100).dtime ∧
      (((b 100).core 0).arch.bar 63).red = none ∧ (b 99).dtime < (((b 99).core 0).arch.bar 63).deadline) ∧
    ((p.core 0).arch.m0.joined = false ∧ (p.core 0).arch.m0.shadow.st = .loading ∧ (p.core 0).arch.m0.shadow.loadDone = some 64 ∧
      64 ≤ p.cycle) := by decide +kernel

/-! ### Faults, the pool and the host -/

/-- A record of a page that is not present, of the object o on core 63. -/
def rec1 : FaultRec := ⟨0x40000, 0, 0, 0, 0x10, 1, false, false, 63, 0, 0⟩

/-- Die 1's fault ring of 256 records, index at its wrap, full but for one place. -/
def fring1 (own : Bool) (cons : Nat) : FaultRing :=
  ⟨0x10000, 0, own, true, 7, 2 ^ 32 - 1, cons, [(rec1, .other, 4, 0)], []⟩

def withRing (r : FaultRing) (f : Core → Core := id) : State :=
  { State.reset.setCore 63 (f (State.reset.core 63)) with dev := { State.reset.dev with boot := 3, frings := State.reset.dev.frings.set 1 r } }

theorem witness_FaultAndPoolEvents_ring : let r (own : Bool) := fring1 own (2 ^ 32 - 256)
    let s (own : Bool) := withRing (r own)
    (∀ own ∈ [true, false], (s own).dev.frings[1] = r own ∧ ((r own).prod + 2 ^ 64 - (r own).cons) % 2 ^ 64 ≠ 2 ^ (8 + (r own).logn) ∧ rec1.kind ≤ 3 ∧
      (r own).base.toNat + (r own).prod % 2 ^ (8 + (r own).logn) * 32 < (s own).dev.pwbase.toNat) ∧
    ((fring1 true (2 ^ 32 - 257)).prod + 2 ^ 64 - (fring1 true (2 ^ 32 - 257)).cons) % 2 ^ 64 = 2 ^ (8 + (fring1 true (2 ^ 32 - 257)).logn) ∧
    (s true).recordBefore 1 0 = false ∧ (s true).lateHeld 4 = false ∧ (s true).dev.vecMasked 7 = false ∧
    (let h : Held := { heldSignal with eff := .record 1 rec1 .other 4 0 }
     ((s true).modCore 5 (fun c => { c with hold := [h] })).recordBefore 1 1 = true) ∧
    State.reset.dev.frings[1].en = false := by decide +kernel

def posted1 (o : ObjRef) : FaultRing := { fring1 false 0 with posted := [⟨2 ^ 32 - 1, rec1, o, 4, false⟩] }

theorem witness_FaultAndPoolEvents_resolve : let x := { xcmd1 .parked (blk1 1 512 16 true) false none with parked := [⟨0, 4⟩] }
    let c := withRing (posted1 (.command 0)) (fun c => { c with xq := [x] })
    let t := { stream1 0x40000 with st := .parked, parked := [⟨0, 4⟩] }
    let z := withRing (posted1 (.stream 15)) (fun c => { (c.modArch (fun a => a.modStream 15 (fun _ => t))) with task := some (task1 .running false) })
    (c.dev.toResolve 1 0xFFFFFFFF).map (fun p => (p.obj, p.page)) = some (.command 0, 4) ∧ c.dev.toResolve 1 0 = none ∧
    ((c.core (coreId 63)).xq = [x] ∧ x.st = .parked ∧ x.doneSecs = [] ∧ x.reply = none ∧ x.fate = none ∧ x.blk.form ∉ [4, 5, 9] ∧ 1 ≤ x.blk.total ∧ ∀ q ∈ x.parked, q.page = 4) ∧
    (z.dev.toResolve 1 0xFFFFFFFF).map (fun p => (p.obj, p.page)) = some (.stream 15, 4) ∧
    ((z.core (coreId 63)).ctx = rec1.ctx ∧ (z.core (coreId 63)).task.isSome = true ∧ ((z.core (coreId 63)).arch.stream 15).st = .parked ∧ (∀ q ∈ ((z.core (coreId 63)).arch.stream 15).parked, q.page = 4) ∧
      ((z.core (coreId 63)).arch.stream 15).count ≠ ((z.core (coreId 63)).arch.stream 15).pat.total) := by decide +kernel

/-- Region 4095 behind CXL port 3 in this state, with a dirty line of it in the LLC. -/
def line1 : PoolLine := ⟨4095 * 2 ^ 24, true, List.replicate 64 9, List.replicate 64 true, false, 0⟩
def pooled (st : Nat) : State := State.reset.modDev (fun d => { d with
  regions := Store.set ⟨0, 0, 2⟩ [] 4095 ⟨1, 3, st⟩, pwcnt := 4096, lines := [line1], cxlUp := Vector.replicate 4 true })

theorem witness_FaultAndPoolEvents_pool : let s := pooled 0
    (s.dev.region 4095).st = 0 ∧ (s.dev.region 4095).port = 3 ∧ ((pooled 2).dev.region 4095).st ≠ 0 ∧
    s.dev.findLine (4095 * 2 ^ 24) = some line1 ∧ line1.dirty.any id = true ∧ line1.bytes.length = 64 ∧
    (s.core 0).flushAsk = none ∧ ((s.modCore 0 (fun c => { c with flushAsk := some 5 })).core 0).flushAsk = some 5 ∧
    s.lineBusy (4095 * 2 ^ 24) = false ∧ line1.excl = true ∧ s.dev.poolState (64 * (4095 * 2 ^ 24)) = 0 := by decide +kernel

/-- A host AtomicOp of core 0 that has left the Pan; the proxy off or on; a request of the proxy ring. -/
def atom1 : XCmd := { xcmd1 .running { (blk1 4 16 16 true) with op := 8 } false (some ⟨2, 0x20000, 0, 0⟩) with fromTh := .m }
def proxied (en : Bool) (rs : List ProxyReq) (ns : Nat) : State :=
  { (at' .c (fun c => { c with xq := [atom1] }) (fun d => { d with boot := 3, pxen := en, pxreqs := rs })) with now := ns * Config.ticksPerNs }
def preq (claimed : Bool) : ProxyReq := ⟨2 ^ 63 - 1, 0, 0, 5, claimed⟩

theorem witness_FaultAndPoolEvents_atomic : let s := proxied false [] 0
    let e := proxied true [] 0
    let c := proxied true [preq true] 0
    let q := proxied true [preq false] (5 + 1000 * 1000)
    let ok := proxied true [preq false] (4 + 1000 * 1000)
    ((s.core 0).xq = [atom1] ∧ atom1.rmw = some ⟨2, 0x20000, 0, 0⟩ ∧ atom1.sig.se = false ∧ atom1.bundle = none ∧
      atom1.blk.be = false ∧ atom1.blk.form ∈ [4, 5] ∧ atom1.reply = none ∧ atom1.fate = none ∧ (s.core 0).holdUsed + 2 ≤ 2048 ∧ s.dev.wlog = [] ∧ (s.core 0).arch.leases = [] ∧ s.performed 1 (fun _ => true) = true ∧ atom1.st = .running ∧ s.dev.pxreqs = [] ∧
      s.dev.pxen = false ∧ e.dev.pxen = true) ∧
    (c.dev.pxreqs = [preq true] ∧ (preq true).core = 0 ∧ (preq true).cmd = atom1.id ∧ (preq true).seq < 2 ^ 63 ∧ c.ready = true) ∧
    ((preq false).claimed = false ∧ (preq false).postedAt + 1000 * q.dev.pxtmo ≤ q.dtime) ∧
    (ok.ready = true ∧ ok.dtime < (preq false).postedAt + 1000 * ok.dev.pxtmo) ∧ State.reset.ready = false := by decide +kernel

/-! ### Packets that arrive -/

/-- The device's own address as a header holds it. -/
def rank16 : BitVec 16 := BitVec.ofNat 16 Config.rank

theorem rank16_toNat : rank16.toNat = Config.rank := by
  simp only [rank16, Config.rank, BitVec.toNat_ofNat]
  omega

/-- A header of job 7 from another device to core 63 of this one. -/
def pktHdr (ptype : BitVec 8) (mode : BitVec 2) : FlitHdr :=
  { hdrZero with
    ptype := ptype, mode := mode, fcnt := 1, kp := 1, job := 7, drank := rank16, srank := 0xEFFF, dcore := 63, flow := 1023
    obj := 63, chunk := 1 }

def zeroKey : List Byte := zeroBytes 32

def slotOf' (st : SlotSt) (await : List Nat) : KeySlot := ⟨st, zeroKey, 0, 2 ^ 36, 2 ^ 36 - 2 ^ 32, 0, await.map (fun r => ⟨r, 0, 0, 0, 0⟩)⟩

/-- A packet of that header, sealed under a key of zeros. -/
def sealedPkt (ptype : BitVec 8) (mode : BitVec 2) (pt : List Byte) : Packet :=
  let h := pktHdr ptype mode
  let y := gcmSeal zeroKey (hdrIv h) (hdrAad h) pt
  ⟨h, y.1, y.2, true⟩

/-- Port 78 up; job 7 belongs to context 0 here, its slot 1 CURRENT under that key and slot 0 as given. -/
def pktState (s0 : KeySlot) (f : Core → Core := id) : State :=
  { (State.reset.setCore 63 (f (State.reset.core 63))) with
    dev := { State.reset.dev.setCtx 0 { placeCtx with cores := ~~~(0 : W64), bara := ~~~(0 : W64) } with
      hbm := mapEntries [], ports := State.reset.dev.ports.set 78 { Port.reset with st := .up, active := 4 }
      member := [(0, 0xE000000000000007), (1, 0x8000000000000008)], keys := [⟨7, some 1, s0, slotOf' .current []⟩] } }

theorem zeroKey_rounds : ((aesKeys zeroKey).getD 14 []).length = 16 := by decide +kernel

theorem sealedPkt_opens (ptype : BitVec 8) (mode : BitVec 2) (pt : List Byte) (s0 : KeySlot) (f : Core → Core) :
    (pktState s0 f).dev.openPacket (pktHdr ptype mode) (sealedPkt ptype mode pt).payload (sealedPkt ptype mode pt).tag = some pt :=
  Laws.openPacket_seal (x := slotOf' .current []) rfl (by decide) zeroKey_rounds pt

theorem sealedPkt_length (ptype : BitVec 8) (mode : BitVec 2) (pt : List Byte) :
    (sealedPkt ptype mode pt).payload.length = pt.length := Laws.gcmStream_length zeroKey_rounds _ _

theorem sealedPkt_formed {ptype : BitVec 8} {mode : BitVec 2} {pt : List Byte} {modes : List Nat} (hl : pt.length = 32)
    (hm : modes.contains mode.toNat = true) : controlFormed (sealedPkt ptype mode pt) ptype modes = true := by
  have h := sealedPkt_length ptype mode pt
  have hh : (sealedPkt ptype mode pt).hdr = pktHdr ptype mode := rfl
  simp only [controlFormed, hh, h, hl]
  simp [pktHdr, hdrZero] at hm ⊢
  exact hm

/-- What a port, a packet's form and the membership table refuse, and what they let pass. -/
theorem witness_PacketEvents_checks : let s := pktState .empty
    let f (h : FlitHdr) (ok : Bool) : Flit := ⟨h, List.replicate 512 0, 0, ok⟩
    State.reset.dev.carries 78 = false ∧ s.dev.carries 78 = true ∧ (s.dev.port 78).lfc = false ∧ (s.dev.port 78).llr = false ∧
    (f hdrZero false).fecOk = false ∧
    (let r := s.modDev (fun d => d.modPort 78 (fun q => { q with llr := true, lfc := true }))
     (r.dev.port 78).llr = true ∧ r.dev.carries 78 = true ∧ r.dev.fits 78 hdrZero = true ∧ (r.fecLost 78).dev.carries 78 = true ∧
      (r.fecLost 78).dev.fits 78 hdrZero = true) ∧
    (let full := (List.range 64).map (fun k => (⟨⟨0, { hdrZero with ivc := BitVec.ofNat 64 k }, [], 0⟩, some 78, none⟩ : OutFlit))
     let r := (s.modDev (fun d => d.modPort 78 (fun q => { q with lfc := true, retired := 60 }))).modDev (fun d => d.modPort 0 (fun q => { q with outq := full }))
     r.dev.carries 78 = true ∧ (r.dev.port 78).lfc = true ∧ r.dev.fits 78 hdrZero = false) ∧
    dataFormed (f hdrZero true) = false ∧ dataFormed (f (pktHdr 1 0) true) = true ∧
    s.dev.memberOf 9 = none ∧ s.dev.memberOf 7 = some 0xE000000000000007 ∧ memberDx 0xE000000000000007 = true ∧
    memberFw 0xE000000000000007 = true ∧ s.dev.memberOf 8 = some 0x8000000000000008 ∧ memberDx 0x8000000000000008 = false ∧
    memberFw 0x8000000000000008 = false ∧
    s.dev.openPacket { hdrZero with job := 8 } [] 0 = none ∧
    (∀ p ∈ [(0x10, 0), (0x16, 0), (0x19, 0)], controlFormed ⟨hdrZero, [], 0, true⟩ (BitVec.ofNat 8 p.1) [p.2] = false) := by
  decide +kernel

theorem witness_PacketEvents_rank : (pktHdr 1 0).drank.toNat = Config.rank ∧ isMcast (pktHdr 1 0).drank.toNat = false ∧
    (pktHdr 1 0).srank.toNat ≠ Config.rank ∧ (0xDFFF : BitVec 16).toNat ≠ Config.rank ∧ toRing (pktHdr 1 0) = false := by
  have h : (pktHdr 1 0).drank.toNat = Config.rank := rank16_toNat
  have l : Config.rank < 49184 := Nat.mod_lt _ (by decide)
  refine ⟨h, ?_, ?_, ?_, rfl⟩
  · rw [isMcast, h]
    simp
    omega
  · show 0xEFFF ≠ Config.rank
    omega
  · show 0xDFFF ≠ Config.rank
    omega

/-- Barrier 63 of core 63 with its last chunk of two open. -/
def bar63 : Core → Core := fun c => c.modArch (fun a => { a with
  bars := a.bars.set 63 { Bar.reset with st := .filling, exp := 520, spb := true, base := 0x1000, bmo := 0 } })

theorem witness_PacketEvents_data : let s := pktState .empty bar63
    let h := pktHdr 1 0
    let a := (s.core (coreId h.dcore.toNat)).arch
    let b := a.bar h.obj.toNat
    let x := s.dev.ctx (memberCtx 0xE000000000000007)
    (x.cores.getLsbD (coreId h.dcore.toNat).val && x.bara.getLsbD h.obj.toNat) = true ∧ (s.core (coreId h.dcore.toNat)).real = none ∧
    a.seq.ops = [] ∧ (s.core (coreId h.dcore.toNat)).heldPlace = [] ∧ a.leases = [] ∧ b.red = none ∧ b.dl = false ∧ b.spb = true ∧
    b.tiled = false ∧ b.waiting = true ∧ h.chunk.toNat < b.chunks ∧ a.marked b h.chunk.toNat = false ∧ b.chunkLen h.chunk.toNat = 8 ∧
    h.trim = 0 := by decide +kernel

theorem witness_PacketEvents_opens : let p := sealedPkt 1 0 (zeroBytes 512)
    (pktState .empty bar63).dev.openPacket p.hdr p.payload p.tag = some (zeroBytes 512) ∧
      dataFormed ⟨p.hdr, p.payload, p.tag, true⟩ = true :=
  ⟨sealedPkt_opens _ _ _ _ _, by
    have h := sealedPkt_length 1 0 (zeroBytes 512)
    have z : (zeroBytes 512).length = 512 := by decide +kernel
    have hh : (sealedPkt 1 0 (zeroBytes 512)).hdr = pktHdr 1 0 := rfl
    simp only [dataFormed, hh, h, z]
    decide⟩

/-- A flow 1023 of core 63, this many AUTHN counted. -/
def flow63 (auth : Nat) : Core → Core := fun c => c.setFlow 1023 { flow1 with authCount := auth }

/-- A payload that names packet FSN 5. -/
def oneFsn : List Byte := natBytes 4 1 ++ natBytes 28 5

theorem witness_PacketEvents_control : let p (t : BitVec 8) (m : BitVec 2) (pt : List Byte) := sealedPkt t m pt
    (∀ c ∈ [((0x10 : BitVec 8), [0, 1, 3]), (0x11, [0, 1, 3]), (0x12, [0, 1, 3]), (0x13, [0, 1, 3]), (0x14, [0, 1, 2, 3]), (0x15, [0, 1, 2, 3]),
        (0x16, [0]), (0x17, [0]), (0x18, [0, 1, 3])], controlFormed (p c.1 0 oneFsn) c.1 c.2 = true) ∧
    controlFormed (p 0x19 3 oneFsn) 0x19 [3] = true ∧
    ∀ t m pt s0 f, (pktState s0 f).dev.openPacket (p t m pt).hdr (p t m pt).payload (p t m pt).tag = some pt := by
  have l : oneFsn.length = 32 := by decide +kernel
  refine ⟨?_, sealedPkt_formed l (by decide), fun t m pt s0 f => sealedPkt_opens t m pt s0 f⟩
  intro c hc
  refine sealedPkt_formed l ?_
  revert c
  decide

theorem witness_PacketEvents_acks : let s (n : Nat) := pktState .empty (flow63 n)
    (∀ n ∈ [0, 7], ((s n).core (coreId 63)).flowFor { hdrZero with job := 7, flow := 1023 } = some { flow1 with authCount := n }) ∧
    payFsns oneFsn = [5] ∧ flow1.auto = false ∧ 0 + 1 < ((s 0).core (coreId 63)).arch.authmax.toNat ∧
    ((s 7).core (coreId 63)).arch.authmax.toNat ≤ 7 + 1 := by decide +kernel

/-- Payloads of the request for bytes at an address and of an atomic. -/
def loadAt (va len : Nat) : List Byte := natBytes 8 va ++ natBytes 24 len
def atomAt (va w : Nat) : List Byte := natBytes 8 va ++ natBytes 24 w

theorem witness_PacketEvents_requests : let s := pktState .empty
    let k (st : SlotSt) (aw : List Nat) := pktState (slotOf' st aw)
    let j (s : State) := s.dev.jobKey 7
    (∀ st ∈ [SlotSt.loaded, .next, .empty, .retired, .exhausted], ((j (k st [])).slot 0).st = st) ∧
    ((j (k .loaded [])).slot 0).ivc + 1 < ((j (k .loaded [])).slot 0).klim ∧ ((j s).slot 1).st ≠ .empty ∧
    ((oneFsn.drop 4).headD 0).toNat % 2 = 1 ∧ ((zeroBytes 32).headD 0).toNat % 2 = 0 ∧
    ((j (k .next [0xEFFF])).slot 0).await.filter (fun r => r.rank ≠ 0xEFFF) = [] ∧
    ((j (k .next [0xEFFF, 3])).slot 0).await.filter (fun r => r.rank ≠ 0xEFFF) ≠ [] ∧ s.dev.ctlq = [] ∧
    (s.sourceVa (coreId 63) 0 (2 ^ 56 - 1) 1 matches .error _) = true ∧ leAt (loadAt 0x40000 512) 8 4 = 512 ∧
    (s.sourceVa (coreId 63) 0 0x40000 512 matches .ok _) = true ∧ (j s).sealing 1 = some 1 ∧
    leAt (atomAt 0x40000 16) 8 1 ∈ [4, 8, 16] ∧ leAt (atomAt 0x40000 16) 0 8 % 16 = 0 ∧
    s.access (coreId 63) 0 0x40000 .rw = .ok ⟨0, 0x40000, 0, 0⟩ ∧ 0x40000 + 16 ≤ Config.hbmBytes ∧ s.dev.wlog = [] ∧
    fsnGe 0 0 = true ∧ fsnGe (2 ^ 32 - 1) 0 = false := by decide +kernel

theorem witness_PacketEvents_order : let h : FlitHdr := pktHdr 0x19 3
    let r := ((pktState .empty).core (coreId h.dcore.toNat)).rxFlow h
    h.fsn.toNat = r.base ∧ r.above = [] ∧ r.above.contains h.fsn.toNat = false ∧ fsnGe h.fsn.toNat r.base = true ∧
      (1 : Nat) ≠ r.base ∧ fsnGe 1 r.base = true := by decide +kernel

/-! ### Sending, timers and links -/

/-- The next member of this device's group. -/
def nextRank : BitVec 16 := BitVec.ofNat 16 (32 * myGroup + (myMember + 1) % 32)

/-- Route tables in which port 78 leads to every member of the group. -/
def routes78 : Store Byte := (List.range 32).foldl (fun t m => Store.put 0 t (24592 + 16 * m + 9) [0x40]) []

def wayState : State := State.reset.modDev (fun d => { d with
  routes := routes78, ports := d.ports.set 78 { Port.reset with st := .up, active := 32 } })

theorem routes78_all : ∀ m < 32, (List.range 79).filter (fun p => (Store.get 0 routes78 (24592 + 16 * m + p / 8)).getLsbD (p % 8)) = [78] := by
  decide +kernel

theorem nextRank_toNat : nextRank.toNat = 32 * myGroup + (myMember + 1) % 32 := by
  have l : Config.rank < 49184 := Nat.mod_lt _ (by decide)
  simp only [nextRank, BitVec.toNat_ofNat, myGroup, myMember]
  omega

/-- A flit to that member has a way, on channel 0. -/
def sendHdr : FlitHdr := { hdrZero with ptype := 1, vc := 0, job := 7, drank := nextRank }

theorem wayState_ports : wayState.dev.portsTo nextRank.toNat = [78] := by
  have h := nextRank_toNat
  have g : nextRank.toNat / 32 = myGroup := by omega
  have m : nextRank.toNat % 32 < 32 := Nat.mod_lt _ (by decide)
  have hr : wayState.dev.routes = routes78 := rfl
  have hne : routes78 ≠ [] := by decide +kernel
  simp only [Dev.portsTo, if_pos g, Dev.memberPorts, hr, if_neg hne]
  exact routes78_all _ m

theorem nextRank_apart : nextRank.toNat ≠ Config.rank ∧ isMcast nextRank.toNat = false := by
  have h := nextRank_toNat
  have l : Config.rank < 49184 := Nat.mod_lt _ (by decide)
  constructor
  · rw [h]
    simp only [myGroup, myMember]
    omega
  · have : nextRank.toNat < 49184 + 32 := by
      rw [h]
      simp only [myGroup, myMember]
      omega
    simp [isMcast]
    omega

/-- A flit of flow 1023 to that member, which has left the hold queue, and its flow. -/
def unsent : Unacked := { sent1 with hdr := { sendHdr with job := 7 }, sent := false, sentAt := 0 }
def flowS : Flow := { flow1 with cls := 0, unacked := [unsent] }

/-- Core 63 has it to send. -/
def sending (k : List JobKey) (mem : Bool) : State :=
  (wayState.modDev (fun d => { d with keys := k, member := if mem then [(0, 0xE000000000000007)] else [] })).modCore 63
    (fun c => c.setFlow 1023 flowS)

theorem sending_way (k : List JobKey) (mem : Bool) : (sending k mem).way unsent.hdr (decide (flowS.cls = 0)) 0 = .out 78 0 0 0 := by
  have hold : ((sending k mem).dev.port 78).holds 78 0 = true := by
    have : (sending k mem).dev.port 78 = wayState.dev.port 78 := rfl
    rw [this]
    decide +kernel
  have ps : (sending k mem).dev.portsTo nextRank.toNat = [78] := wayState_ports
  have hd : unsent.hdr.drank = nextRank := rfl
  have hv : unsent.hdr.vc = 0 := rfl
  have hm : unsent.hdr.rmb = 0 := rfl
  have hi : unsent.hdr.igrp = 0 := rfl
  have hmd : unsent.hdr.mode = 0 := rfl
  have hc : flowS.cls = 0 := rfl
  simp [State.way, Dev.wayAmong, Dev.portFor, pickFor, hd, hv, hm, hi, hmd, hc, ps, hold, Nat.mod_one]

theorem witness_TransportEvents_send (k : List JobKey) (mem : Bool) : let s := sending k mem
    let c := s.core 63
    c.arch.seq.flows.filter (fun p => c.canSend p.1 p.2) = [(1023, flowS)] ∧ c.flow 1023 = flowS ∧ flowS.nextPacket = [unsent] ∧
    unsent.src = none ∧ unsent.again = false ∧ unsent.ring = false ∧ unsent.hdr.fidx = 0 ∧ unsent.hdr.fcnt = 0 ∧ flowS.unacked = [unsent] ∧ unsent.hdr.ptype = 1 ∧ unsent.hdr.mode = 0 ∧
    flowS.mode = 0 ∧ c.arch.seq.ops = [] ∧ unsent.hdr.job.toNat = flowS.job ∧ unsent.hdr.drank.toNat ≠ Config.rank ∧
    isMcast unsent.hdr.drank.toNat = false :=
  ⟨rfl, rfl, rfl, rfl, rfl, rfl, rfl, rfl, rfl, rfl, rfl, rfl, rfl, rfl, nextRank_apart⟩

theorem witness_TransportEvents_keys : let s (k : List JobKey) (m : Bool) := sending k m
    (s [] false).dev.mayInject unsent.hdr = false ∧ (s [] true).dev.mayInject unsent.hdr = true ∧
    ((s [] true).dev.jobKey 7).sealing 1 = none ∧ ((s [] true).dev.jobKey 7).mayWait = false ∧
    (let t := s [⟨7, some 1, slotOf' .retired [], slotOf' .current []⟩] true
     t.dev.mayInject unsent.hdr = true ∧ (t.dev.jobKey 7).sealing 1 = some 1) ∧
    (let e := State.reset.core 63; e.arch.seq.flows.filter (fun p => e.canSend p.1 p.2)) = [] := by decide +kernel

theorem witness_TransportEvents_timeout : let f (auto : Bool) := { flow1 with unacked := [sent1], auto := auto, rlim := if auto then 0 else 1 }
    let s (auto : Bool) (ns : Nat) : State := { (State.reset.modCore 63 (fun c => c.setFlow 1023 (f auto))) with now := ns * Config.ticksPerNs }
    (∀ auto ∈ [true, false], ((s auto 1000).core 63).flow 1023 = f auto ∧ (f auto).unacked.find? (fun u => u.sent) = some sent1 ∧
      (f auto).st = .opened ∧ (f auto).mode ≠ 2 ∧ sent1.sentAt + (f auto).rto ≤ (s auto 1000).dtime ∧ sent1.again = false) ∧
    (∀ i, i < 2 → (((s false 0).dev.jobKey flow1.job).slot i).await = []) ∧ (s false 999).dtime < sent1.sentAt + (f false).rto ∧ (f true).rlim ≤ sent1.tries := by decide +kernel

/-- Port 78, up, with one flit that waits to leave, held for alignment since 1 ns or not held. -/
def flitOut (held : Option Nat) : OutFlit := ⟨⟨78, hdrZero, [], 0⟩, some 77, held⟩
def holding (held : Option Nat) (ns : Nat) : State :=
  { (State.reset.modDev (fun d => { d with
      ports := d.ports.set 78 { Port.reset with st := .up, active := 32, outq := [flitOut held] } })) with now := ns * Config.ticksPerNs }

theorem witness_TransportEvents_ports : let s := holding none 0
    (s.dev.carries 78 = true ∧ (s.dev.port 78).outq = [flitOut none] ∧ State.reset.dev.carries 78 = false) ∧
    ((holding (some 1) 257).dev.port 78).outq = [flitOut (some 1)] ∧ 1 + 256 ≤ (holding (some 1) 257).dtime ∧
    (holding (some 1) 256).dtime < 1 + 256 := by decide +kernel

/-- Core 63's sequencer with events that wait and posted ones, with a routine to start, or at an EVWAIT or DLINE word. -/
def sequencing (f : Seq → Seq) (ns : Nat := 0) : State :=
  { ((bundleState bundle1).modCore 63 (fun c => c.modSeq f)) with now := ns * Config.ticksPerNs }

theorem witness_TransportEvents_queue : let e (n : Nat) := sequencing (fun q => { q with evwaitq := [ev1], evq := List.replicate n ev1 })
    let r := sequencing (fun q => { q with startq := [⟨0x40000, 8, 1, 0x50000, 0⟩] })
    ((e 511).core 63).arch.seq.evwaitq = [ev1] ∧ ((e 511).core 63).arch.seq.evq.length < 512 ∧
    512 ≤ ((e 512).core 63).arch.seq.evq.length ∧ (r.core 63).arch.seq.evwaitq = [] ∧
    ((r.core 63).arch.seq.startq = [⟨0x40000, 8, 1, 0x50000, 0⟩] ∧ (r.core 63).arch.seq.running = false ∧
      (r.core 63).blocked = false ∧ (r.core 63).arch.seq.lastCtx = none ∧ (r.readVa 63 0 .r 0x40000 8 matches .ok _) = true) := by
  decide +kernel

/-- Core 63's sequencer at this word, in cycle n. -/
def atSeqWord (i : Instr) (n : Nat) : State :=
  let s := (sequencing (fun q => { q with
    running := true, stallSince := some 0, lmem := Store.put 0 [] 0 (natBytes 8 ((encodeSeq i).getD 0).toNat) }))
  { s with now := n * 410, cur := ⟨63, .c⟩ }

theorem witness_TransportEvents_stalls : let w (n : Nat) := atSeqWord (.evwait (sw 1 0 0 0 2)) n
    let d (n : Nat) := atSeqWord (.dline (sw 1 0 0 0 1)) n
    ((w 2).seqFetch matches .go (.evwait _) _) = true ∧ (w 2).evwaitOver (sw 1 0 0 0 2) = true ∧ (w 1).evwaitOver (sw 1 0 0 0 2) = false ∧
    ((d 4).seqFetch matches .go (.dline _) _) = true ∧ ((d 4).seq.ea (sw 1 0 0 0 1)).toNat ≤ (d 4).dtime ∧
    (d 0).dtime < ((d 0).seq.ea (sw 1 0 0 0 1)).toNat := by decide +kernel

theorem witness_TransportEvents_links : let p : Port := { Port.reset with st := .up, active := 32 }
    let t : Port := { Port.reset with st := .training, since := 5 }
    let s (q : Port) (ns : Nat) : State := { (State.reset.modDev (fun d => { d with ports := d.ports.set 78 q })) with now := ns * Config.ticksPerNs }
    ((s p 0).dev.port 78 = p ∧ portWidth 78 (p.active - 1) = 31 ∧ 31 < portFull 78 ∧ 4 ≤ p.blocks ∧ portWidth 78 (p.active - 29) = 0) ∧
    (Port.reset.st = .down ∧ Port.reset.retired < 64 ∧ p.retired < 60 ∧ 0 < p.active) ∧
    ((s t 0).dev.port 78 = t ∧ portWidth 78 32 = portFull 78 ∧ 4 ≤ t.blocks ∧ portWidth 78 3 = 0 ∧
      t.since + 10000000 ≤ (s t 10000005).dtime ∧ (s t 10000004).dtime < t.since + 10000000 ∧ p.st ≠ .training) ∧
    (∀ q ∈ [[], [flitOut none]], let d : Port := { p with st := .draining, outq := q }
      ((s d 0).dev.port 78).st = .draining ∧ (s d 0).dev.emptied 78 = q.isEmpty) := by decide +kernel

/-! ### The host -/

/-- A ready device whose BAR4 window starts at the last GiB of HBM that holds a whole one. -/
def hostState (f : Dev → Dev := id) : State := full.modDev (fun d => f { d with boot := 3, hwin := 0x8600000000 })

theorem witness_HostAccessEvents : let s := hostState
    let x : Monitor := { Monitor.reset with en := true, src := 3, unit := 78 }
    let m := hostState (fun d => { d with monitors := d.monitors.set 31 x })
    s.window (Config.hbmBytes - 0x8600000000 - 4) 4 = true ∧ s.window (Config.hbmBytes - 0x8600000000 - 3) 4 = false ∧
    s.dev.frozen = false ∧ (999 : W64).toNat < 1000 ∧ 3800 < (3801 : W64).toNat ∧ 1000 ≤ (1000 : W64).toNat ∧ (3800 : W64).toNat ≤ 3800 ∧
    (1 : W64).getLsbD 0 = true ∧ State.reset.ready = false ∧ s.ready = true ∧ (s.dev.region 4095).st = 2 ∧
    ((pooled 0).dev.region 4095).st ≠ 2 ∧ (hostState (fun d => { d with frozen := true })).dev.frozen = true ∧
    State.reset.dev.boot < 2 ∧ 2 ≤ s.dev.boot ∧ (hostState (fun d => { d with boot := 2 })).dev.boot = 2 ∧ s.dev.boot ≠ 2 ∧
    s.dev.cemask.getLsbD 63 = true ∧ (hostState (fun d => { d with cemask := 1 })).dev.cemask.getLsbD 63 = false ∧
    s.dev.monitors[31].en = false ∧ (m.dev.monitors[31] = x ∧ x.src = 3 ∧ x.unit < 79) := by decide +kernel

def cmd0 (arg tgt ctx : Nat) : Cmd := ⟨BitVec.ofNat 64 arg, BitVec.ofNat 16 tgt, BitVec.ofNat 10 ctx⟩

/-- A context record at the top of HBM: context 1023 with every core and object. -/
def ctxRec : List Byte :=
  natBytes 8 0x10000 ++ natBytes 8 0x03FF0001 ++ natBytes 16 0 ++ natBytes 4 8192 ++ natBytes 4 0x4040 ++ natBytes 8 (2 ^ 64 - 1) ++
    natBytes 32 (2 ^ 256 - 1) ++ natBytes 8 (2 ^ 64 - 1) ++ natBytes 8 0xFFFF ++ natBytes 32 0

def mailState (f : Dev → Dev := id) (g : Core → Core := id) : State :=
  { full.setCore 63 (g (full.core 63)) with
    dev := f { full.dev with boot := 3, hbm := Store.put 0 [] (Config.hbmBytes - 128) ctxRec } }

def ctxIn (st : CtxSt) : Ctx := { placeCtx with st := st, cores := ~~~(0 : W64), sema := ~~~(0 : BitVec 256), bara := ~~~(0 : BitVec 64), ringa := ~~~(0 : BitVec 16) }

theorem witness_MailboxCommands_context : let s := mailState
    let a := Config.hbmBytes - 128
    let x (st : CtxSt) := mailState (fun d => d.setCtx 1023 (ctxIn st))
    (mailState (fun d => { d with cmdBusy := some (1, 0) })).dev.cmdBusy.isSome = true ∧ s.dev.cmdBusy = none ∧
    79 ≤ (cmd0 0 79 0).tgt.toNat ∧ 4096 ≤ (cmd0 0 4096 0).tgt.toNat ∧ 256 ≤ (cmd0 0 256 0).tgt.toNat ∧ 64 ≤ (cmd0 0 64 0).tgt.toNat ∧
    (cmd0 (a + 1) 0 0).arg.toNat % 64 ≠ 0 ∧ Config.hbmBytes < (cmd0 (a + 64) 0 0).arg.toNat + 128 ∧
    ctxOf (Store.run 0 s.dev.hbm 0 128) = none ∧
    ((cmd0 a 0 0).arg.toNat % 64 = 0 ∧ (cmd0 a 0 0).arg.toNat + 128 ≤ Config.hbmBytes ∧
      (ctxOf (Store.run 0 s.dev.hbm a 128)).isSome = true ∧ leAt (Store.run 0 s.dev.hbm a 128) 0x0A 2 = 1023 ∧
      (s.dev.ctx 1023).st = .free ∧ ((x .built).dev.ctx 1023).st ≠ .free) ∧
    ((x .built).dev.roomFor 1023 (ctxIn .built) = true ∧ (x .built).dev.ctx 1023 = ctxIn .built ∧
      (mailState (fun d => (d.setCtx 1023 (ctxIn .built)).setCtx 1 (ctxIn .resident))).dev.roomFor 1023 (ctxIn .built) = false) ∧
    (ctxIn .built).sema.getLsbD 255 = true ∧ (ctxIn .built).bara.getLsbD 63 = true ∧ (ctxIn .built).ringa.getLsbD 15 = true ∧
    ((x .faulted).dev.ctx 1023).st = .faulted ∧ (s.dev.frings[0].waiting = [] ∧ s.dev.frings[1].waiting = []) ∧
    (s.core 63).saved = [] ∧ (s.core 63).task = none := by decide +kernel

theorem witness_MailboxCommands_task : let b := bundle1 (fun b => { b with ctx := 1 })
    let s := mailState (fun d => { d with bundles := [b] }) (fun c => { c with task := some (task1 .running false) })
    (s.dev.bundles.find? (fun b => b.ctx = 1 && b.addr = (cmd0 0x50000 63 1).arg.toNat)).map (·.id) = some 1 ∧
    s.dev.bundles.find? (fun b => b.ctx = 0 && b.addr = (cmd0 0x50000 63 0).arg.toNat) = none ∧
    (s.core 63).task.map (fun t => (t.ctx, t.st, t.replay)) = some (0, .running, false) ∧ (s.core 63).preempt = none ∧
    (bundle1 id).ctx = 0 ∧ (cmd0 0 0 0).arg.getLsbD 0 = false ∧ (cmd0 1 0 0).arg.getLsbD 0 = true ∧ (s.core 63).hold = [] ∧ (s.core 63).xq = [] := by
  decide +kernel

/-- A group descriptor at 0x1000. -/
def groupRec : List Byte := natBytes 4 0x00000100 ++ natBytes 4 7 ++ natBytes 8 0x0001000100010002 ++ natBytes 16 0

theorem witness_MailboxCommands_rest : let s := mailState
    let p (st : LinkSt) := (mailState (fun d => d.modPort 78 (fun q => { q with st := st }))).dev.port 78
    let g (st : GroupSt) (mem : Bool) := mailState (fun d => { d.setGroup 255 { group2 with st := st } with
      member := if mem then [(0, 0xE000000000000007)] else [(0, 0x8000000000000007)], hbm := Store.put 0 [] 0x1000 groupRec })
    (s.dev.port 78).st = .down ∧ (∀ st ∈ [LinkSt.up, .degraded, .draining], (p st).st = st) ∧ (p .up).retired = 0 ∧
    ((s.dev.region 4095).st = 2 ∧ ((pooled 0).dev.region 4095).st ≠ 2 ∧ ((pooled 1).dev.region 4095).st = 1 ∧
      s.dev.cxlUp[(s.dev.region 4095).port % 4]'(Nat.mod_lt _ (by decide)) = false ∧
      (pooled 2).dev.cxlUp[((pooled 2).dev.region 4095).port % 4]'(Nat.mod_lt _ (by decide)) = true) ∧
    ((s.dev.group 255).st = .dissolved ∧ (groupOf (Store.run 0 (g .defined true).dev.hbm 0x1000 32)).isSome = true ∧
      groupOf (Store.run 0 s.dev.hbm 0x1000 32) = none) ∧
    (∀ st ∈ [GroupSt.defined, .joined, .active, .suspended], ((g st true).dev.group 255).st = st) ∧
    ((g .defined true).dev.memberOf 7 = some 0xE000000000000007 ∧ memberDx 0xE000000000000007 = true ∧
      (g .defined false).dev.memberOf 7 = some 0x8000000000000007 ∧ memberDx 0x8000000000000007 = false) ∧
    (Config.hbmBytes < (Config.hbmBytes - 2987) + 2988 ∧ (Config.hbmBytes - 2988) + 2988 ≤ Config.hbmBytes ∧
      s.dev.sigsLeft ≠ 0 ∧ (mailState (fun d => { d with sigsLeft := 0 })).dev.sigsLeft = 0) ∧
    (let t := mailState (fun d => { d.setCtx 1023 (ctxIn .tornDown) with cmdBusy := some (4, 1023) })
     let h := mailState (fun d => { d.setCtx 1023 (ctxIn .tornDown) with cmdBusy := some (4, 1023) }) (fun c => { c with hold := [{ heldWrite with stale := true }] })
     (t.dev.ctx 1023).st = .tornDown ∧ t.dev.cmdBusy = some (0x04, 1023) ∧
      t.invDone ⟨some (t.dev.ctx 1023).asid, none⟩ t.dev.wseq = true ∧
      h.invDone ⟨some (h.dev.ctx 1023).asid, none⟩ h.dev.wseq = false) := by decide +kernel

/-! ### A step, the decoders and memory -/

def hasOk {α β : Type} (x : Except α β) : Bool := match x with | .ok _ => true | .error _ => false

/-- 0: the word is accepted; 1: illegal; 2: a reserved field of an instruction that the thread may run. -/
def wordKind (s : State) (w : BitVec 96) : Nat :=
  match decodeWord w with
  | .ok _ => 0
  | .error .illegal => 1
  | .error (.reserved i) => if (check2 i s.eng).isNone then 2 else 3

def seqKind (x : BitVec 64) : Nat :=
  match decodeSeq x with
  | .ok _ => 0
  | .error .illegal => 1
  | .error (.reserved _) => 2

/-- The moment of the first turn of the agenda, which is w's. -/
def atTurn (s : State) (w : Who) (t : Turn) : State :=
  { (State.passTo { s with agenda := [] } (State.moment { s with agenda := [] } (s.now + 0) t)) with cur := w }

/-- A word that runs, an illegal word, a word with a reserved field, a header, a thread that may not act, a word that
comes too late in its cycle; of the Chaperone a word in a slot of C; of a sequencer a word and an illegal word. -/
theorem witness_StepRunsDecodedInstruction : let c : Who := ⟨0, .c⟩
    let k (w : Nat) : State := atTurn (State.reset.withFetchWord 96 w) c (.thread c)
    let h : State := atTurn (State.reset.withFetchWord 64 0xE5001000000000F5) c (.thread c)
    let q (w : Nat) : State := atTurn (State.reset.withFetchWord 64 w) c (.seq 0)
    (State.reset.withFetchWord 96 0).agenda = [⟨0, .thread c⟩] ∧ (State.reset.withFetchWord 64 0).agenda = [⟨0, .seq 0⟩] ∧
    State.reset.agenda = [] ∧ State.reset.here.mayAct .c 0 = false ∧
    (∀ p ∈ [(0, 0), (0x0F0000000000000000000000, 1), (1, 2)], let t := k p.1
      t.here.mayAct .c t.cycle = true ∧ t.dev.frozen = false ∧ t.eng.left ≠ 0 ∧
      (t.fetchUnit 12).toOption = some (natBytes 12 p.1) ∧ wTag (bytesWord (natBytes 12 p.1)) = Thread.c.code ∧
      t.arch.waitMet .c t.cycle = true ∧ t.withheld = false ∧ t.here.otherInHandler .c = false ∧ t.eng.async = [] ∧
      t.late 2 = false ∧ wordKind t (bytesWord (natBytes 12 p.1)) = p.2) ∧
    { (k 0) with phase := ⟨0, 61, 0, 0, false⟩ }.late 20 = true ∧
    hasOk ({ (k 0) with dev := { (k 0).dev with hbm := [] } }.fetchUnit 12) = false ∧
    (h.eng.left = 0 ∧ h.eng.arrived = true ∧ h.eng.delay = none ∧ h.here.cpReq = [] ∧ h.textEnd ≠ some h.eng.pc.toNat ∧
      hasOk (h.fetchUnit 8) = true) ∧
    (∀ p ∈ [(0x35A70C0000000000, 0), (0xFF00000000000000, 1)], let t := q p.1
      t.seq.running = true ∧ t.seq.busy ≤ t.cycle ∧ t.here.cpReq = [] ∧ t.here.restart = none ∧ t.seq.pc.toNat % 8 = 0 ∧
      t.seq.pc.toNat < 2 ^ 18 ∧ seqKind (bytesHdr (t.seq.lread t.seq.pc.toNat 8)) = p.2) ∧
    (State.reset.here.chapSlot 0).isSome = true ∧
    (isEvent (.strike []) = true ∧ thaws (.strike []) = false ∧ thaws .powerOn = true) := by
  decide +kernel

theorem witness_FrozenDeviceWaitsForReset : let s : State := { State.reset with dev := { State.reset.dev with frozen := true } }
    s.dev.frozen = true ∧ (step s matches .next _) = true := by decide +kernel

theorem witness_DecodersAreExact : hasOk (decodeWord 0x400081299200000000000000) = true ∧
    (wTag 0x400000000000000000000000).toNat ∉ enginesOf (wOpc 0x0F0000000000000000000000).toNat ∧
    hasOk (decodeSeq 0x35A70C0000000000) = true ∧ WellFormed (.retx ⟨10, 7, 0x0C0000000000⟩) = true ∧
    (encodeSeq (.retx ⟨10, 7, 0x0C0000000000⟩)).isSome = true := by decide +kernel

theorem witness_MemoryReadsBack : let s := pooled 0
    let off := 4095 * 2 ^ 30
    s.dev.poolState off = 0 ∧ off % 64 + 64 ≤ 64 ∧ (∀ l ∈ s.dev.lines, l.bytes.length = 64) ∧ s.dev.memWf = true ∧
      s.dev.llc.length + s.dev.lines.length + 64 + 2 ≤ llcLines ∧ (pooled 1).dev.poolState off ≠ 0 ∧ (Place.mk 1 (s.dev.pwbase.toNat + off) 0 0).pa - s.dev.pwbase.toNat = off := by decide +kernel

end Sys2Proof.Tests
end

section
/-! Memory reads back (O60): what a write puts into a memory is read there, and every other byte reads as before. A write
reaches the device's memories through the LLC, so the facts are: what the LLC's bookkeeping leaves alone, what a write to
one pool line does to the pool's bytes, and the three ways in which a write at a place can end. -/

namespace Sys2Proof.Proofs

open Sys2Proof Sys2Proof.Machine Sys2Proof.Laws

/-! ### Byte lists and sparse storage -/

/-- `get_put` with the value written as an element of the list. -/
theorem get_put_getElem {α : Type} [DecidableEq α] (d : α) (st : Store α) (k : Nat) (vs : List α) (j : Nat) :
    Store.get d (Store.put d st k vs) j = if h : k ≤ j ∧ j - k < vs.length then vs[j - k]'h.2 else Store.get d st j := by
  rw [get_put]
  by_cases h : k ≤ j ∧ j - k < vs.length
  · rw [dif_pos h, if_pos (by omega), List.getD_eq_getElem _ _ h.2]
  · rw [dif_neg h, if_neg (by omega)]

theorem expand_length {α : Type} (d : α) (st : Store α) (k n : Nat) : (Store.expand d st k n).length = n := by
  induction n generalizing st k with
  | zero => simp [Store.expand]
  | succ n ih =>
    cases st with
    | nil => simp [Store.expand, ih]
    | cons p st =>
      simp only [Store.expand]
      split <;> simp [ih]

theorem run_length {α : Type} (d : α) (st : Store α) (k n : Nat) : (Store.run d st k n).length = n := expand_length ..

theorem getD_overlay (bs : List Byte) (o : Nat) (new : List Byte) (h : o + new.length ≤ bs.length) (j : Nat) :
    (overlay bs o new).getD j 0 = if o ≤ j ∧ j < o + new.length then new.getD (j - o) 0 else bs.getD j 0 := by
  have hl : (bs.take o ++ new ++ bs.drop (o + new.length)).length = bs.length := by simp; omega
  have ho : (bs.take o).length = o := by simp; omega
  unfold overlay
  rw [List.take_of_length_le hl.le]
  simp only [List.getD_eq_getElem?_getD]
  by_cases hj : j < o
  · rw [if_neg (by omega), List.append_assoc, List.getElem?_append_left (by omega), List.getElem?_take_of_lt hj]
  · by_cases hn : j < o + new.length
    · rw [if_pos ⟨by omega, hn⟩, List.append_assoc, List.getElem?_append_right (by omega),
        List.getElem?_append_left (by omega), ho]
    · rw [if_neg (by omega), List.getElem?_append_right (by simp; omega), List.getElem?_drop, List.length_append, ho,
        Nat.add_sub_cancel' (by omega)]

/-! ### The bytes of the device's memories -/

/-- Two devices hold the same bytes: HBM, host memory, the LLC's pool lines, and the pool's homes under the same regions. -/
structure SameBytes (d e : Dev) : Prop where
  hbm : e.hbm = d.hbm
  host : e.host = d.host
  lines : e.lines = d.lines
  pool : e.pool = d.pool
  regions : e.regions = d.regions

theorem homeOf_congr {d e : Dev} (h : e.regions = d.regions) (o : Nat) : e.homeOf o = d.homeOf o := by
  simp only [Dev.homeOf, Dev.region, h]

theorem poolByte_congr {d e : Dev} (hl : e.lines = d.lines) (hp : e.pool = d.pool) (hr : e.regions = d.regions) (o : Nat) :
    e.poolByte o = d.poolByte o := by
  simp only [Dev.poolByte, Dev.findLine, hl, hp, homeOf_congr hr]

theorem SameBytes.poolByte {d e : Dev} (h : SameBytes d e) (o : Nat) : e.poolByte o = d.poolByte o :=
  poolByte_congr h.lines h.pool h.regions o

/-- A region's bytes lie at its home in their order, so those of a line stand next to each other. -/
theorem homeOf_line_add (d : Dev) (o : Nat) : d.homeOf (64 * (o / 64)) + o % 64 = d.homeOf o := by
  have h : 64 * (o / 64) / 2 ^ 30 = o / 2 ^ 30 := by omega
  simp only [Dev.homeOf, h]
  omega

theorem homeOf_add (d : Dev) (off k : Nat) (h : off % 64 + k < 64) : d.homeOf (off + k) = d.homeOf off + k := by
  have hl : (off + k) / 64 = off / 64 := by omega
  rw [← homeOf_line_add d (off + k), ← homeOf_line_add d off, hl]
  omega

/-! ### What the LLC's own traffic leaves alone -/

@[simp] theorem cleanLine_hbm_host_llc (d : Dev) (l : Nat) :
    (d.cleanLine l).hbm = d.hbm ∧ (d.cleanLine l).host = d.host ∧ (d.cleanLine l).llc = d.llc := by
  unfold Dev.cleanLine
  split
  · exact ⟨rfl, rfl, rfl⟩
  · split <;> exact ⟨rfl, rfl, rfl⟩

@[simp] theorem dropLine_hbm (d : Dev) (l : Nat) : (d.dropLine l).hbm = d.hbm := rfl
@[simp] theorem dropLine_host (d : Dev) (l : Nat) : (d.dropLine l).host = d.host := rfl
@[simp] theorem dropLine_llc (d : Dev) (l : Nat) : (d.dropLine l).llc = d.llc := rfl

theorem putLine_lines_length_le (d : Dev) (p : PoolLine) : (d.putLine p).lines.length ≤ d.lines.length + 1 := by
  simp [Dev.putLine, List.length_filter_le]

theorem dropLine_lines_length_le (d : Dev) (l : Nat) : (d.dropLine l).lines.length ≤ d.lines.length :=
  List.length_filter_le ..

theorem cleanLine_lines_length_le (d : Dev) (l : Nat) : (d.cleanLine l).lines.length ≤ d.lines.length + 1 := by
  unfold Dev.cleanLine
  split
  · exact Nat.le_succ _
  · split
    · exact putLine_lines_length_le _ _
    · exact Nat.le_succ _

theorem foldl_clean_drop_hbm_host (ls : List PoolLine) (d : Dev) :
    (ls.foldl (fun (e : Dev) p => (e.cleanLine p.line).dropLine p.line) d).hbm = d.hbm ∧
      (ls.foldl (fun (e : Dev) p => (e.cleanLine p.line).dropLine p.line) d).host = d.host := by
  induction ls generalizing d with
  | nil => exact ⟨rfl, rfl⟩
  | cons p ls ih => simpa using ih ((d.cleanLine p.line).dropLine p.line)

/-- Which lines of device memory are dirty in the LLC says nothing of what they read as. -/
theorem sameBytes_setLlc (d : Dev) (ls : List LlcLine) : SameBytes d { d with llc := ls } := ⟨rfl, rfl, rfl, rfl, rfl⟩

/-- Making room in the LLC moves pool lines home; it touches neither HBM nor host memory. -/
theorem fitLlc_hbm_host (d : Dev) : d.fitLlc.hbm = d.hbm ∧ d.fitLlc.host = d.host := by
  unfold Dev.fitLlc
  simp only
  split
  · exact ⟨rfl, rfl⟩
  · obtain ⟨hhbm, hhost⟩ :=
      foldl_clean_drop_hbm_host (d.lines.take (d.llc.length + d.lines.length - llcLines - d.llc.length)) d
    exact ⟨(sameBytes_setLlc _ _).hbm.trans hhbm, (sameBytes_setLlc _ _).host.trans hhost⟩

@[simp] theorem fitLlc_hbm (d : Dev) : d.fitLlc.hbm = d.hbm := (fitLlc_hbm_host d).1
@[simp] theorem fitLlc_host (d : Dev) : d.fitLlc.host = d.host := (fitLlc_hbm_host d).2

/-- An LLC that has room keeps every line. -/
theorem fitLlc_of_room {d : Dev} (h : d.llc.length + d.lines.length ≤ llcLines) : d.fitLlc = d := by
  unfold Dev.fitLlc
  exact if_pos (Nat.sub_eq_zero_of_le h)

theorem sameBytes_llcTouch (d : Dev) (l : Nat) : SameBytes d (d.llcTouch l) := sameBytes_setLlc d _

theorem SameBytes.trans {d e f : Dev} (h : SameBytes d e) (g : SameBytes e f) : SameBytes d f :=
  ⟨g.hbm.trans h.hbm, g.host.trans h.host, g.lines.trans h.lines, g.pool.trans h.pool, g.regions.trans h.regions⟩

theorem llcTouch_llc_length_le (d : Dev) (l : Nat) : (d.llcTouch l).llc.length ≤ d.llc.length + 1 := by
  simp [Dev.llcTouch, List.length_filter_le]

/-- Touched lines take at most one place each in the LLC, and no byte changes. -/
theorem foldl_llcTouch (ls : List Nat) (d : Dev) :
    SameBytes d (ls.foldl Dev.llcTouch d) ∧ (ls.foldl Dev.llcTouch d).llc.length ≤ d.llc.length + ls.length := by
  induction ls generalizing d with
  | nil => exact ⟨⟨rfl, rfl, rfl, rfl, rfl⟩, le_refl _⟩
  | cons l ls ih =>
    obtain ⟨hs, hl⟩ := ih (d.llcTouch l)
    have := llcTouch_llc_length_le d l
    exact ⟨(sameBytes_llcTouch d l).trans hs, by simp only [List.foldl_cons, List.length_cons]; omega⟩

theorem linesOf_length_le (pa n : Nat) : (linesOf pa n).length ≤ n + 1 := by
  unfold linesOf
  split
  · simp
  · simp only [List.length_map, List.length_range]
    omega

/-! ### A write to one line of the pool (R224, R237) -/

theorem findLine_dropLine_self (d : Dev) (l : Nat) : (d.dropLine l).findLine l = none := by
  simp [Dev.findLine, Dev.dropLine]

theorem findLine_dropLine_ne (d : Dev) {l m : Nat} (h : l ≠ m) : (d.dropLine m).findLine l = d.findLine l := by
  have he : ∀ q : PoolLine, (¬q.line = m ∧ q.line = l) ↔ q.line = l := fun q =>
    ⟨fun hq => hq.2, fun hq => ⟨fun hp => h (hq.symm.trans hp), hq⟩⟩
  simp [Dev.findLine, Dev.dropLine, List.find?_filter, he]

theorem findLine_putLine (d : Dev) (p : PoolLine) (l : Nat) :
    (d.putLine p).findLine l = if l = p.line then some p else d.findLine l := by
  have ha : (d.putLine p).findLine l = ((d.dropLine p.line).findLine l).or ([p].find? (fun q => q.line = l)) :=
    List.find?_append
  rw [ha]
  by_cases h : l = p.line
  · rw [if_pos h, h, findLine_dropLine_self]
    simp
  · rw [if_neg h, findLine_dropLine_ne d h]
    simp [Ne.symm h]

@[simp] theorem fillLine_line (d : Dev) (l : Nat) : (d.fillLine l).line = l := by
  unfold Dev.fillLine
  split
  next p hp => simpa [Dev.findLine] using List.find?_some hp
  next => rfl

theorem fillLine_bytes_length {d : Dev} (h : ∀ l ∈ d.lines, l.bytes.length = 64) (l : Nat) :
    (d.fillLine l).bytes.length = 64 := by
  unfold Dev.fillLine
  split
  next p hp => exact h p (List.mem_of_find?_eq_some hp)
  next => exact run_length ..

/-- A line as the LLC fills it holds the pool's bytes. -/
theorem getD_fillLine_bytes {d : Dev} (h : Store.wf 0 d.pool = true) (o : Nat) :
    (d.fillLine (o / 64)).bytes.getD (o % 64) 0 = d.poolByte o := by
  unfold Dev.fillLine Dev.poolByte
  cases d.findLine (o / 64) with
  | some p => rfl
  | none =>
    have hlt : o % 64 < 64 := Nat.mod_lt _ (by decide)
    change (Store.run 0 d.pool (d.homeOf (64 * (o / 64))) 64).getD (o % 64) 0 = Store.get 0 d.pool (d.homeOf o)
    rw [run_get _ _ _ _ h, List.getD_eq_getElem _ _ (by simpa using hlt), List.getElem_map, List.getElem_range,
      homeOf_line_add]

theorem poolWriteLine_hbm_host_llc (d : Dev) (pol off : Nat) (bs : List Byte) (po : Bool) :
    (d.poolWriteLine pol off bs po).hbm = d.hbm ∧ (d.poolWriteLine pol off bs po).host = d.host ∧
      (d.poolWriteLine pol off bs po).llc = d.llc := by
  by_cases h : pol = 1 <;> simp [Dev.poolWriteLine, h, Dev.putLine]

theorem poolWriteLine_lines_length_le (d : Dev) (pol off : Nat) (bs : List Byte) (po : Bool) :
    (d.poolWriteLine pol off bs po).lines.length ≤ d.lines.length + 1 := by
  by_cases h : pol = 1
  · simp only [Dev.poolWriteLine, h, if_true]
    exact (dropLine_lines_length_le _ _).trans (cleanLine_lines_length_le _ _)
  · simp only [Dev.poolWriteLine, h, if_false]
    exact putLine_lines_length_le _ _

/-- What BYPASS leaves in the home: the bytes written, from the home of the first one on. -/
theorem poolWriteLine_bypass_pool (d : Dev) (off : Nat) (bs : List Byte) (po : Bool) :
    (d.poolWriteLine 1 off bs po).pool =
      Store.put 0 (d.cleanLine (off / 64)).pool ((d.poolWriteLine 1 off bs po).homeOf off) bs := rfl

/-- Under BYPASS the line leaves the LLC, and its home holds what was written. -/
theorem poolByte_poolWriteLine_bypass (d : Dev) (off : Nat) (bs : List Byte) (po : Bool) (h : off % 64 + bs.length ≤ 64)
    (k : Nat) (hk : k < bs.length) : (d.poolWriteLine 1 off bs po).poolByte (off + k) = bs[k] := by
  have hl : (off + k) / 64 = off / 64 := by omega
  have hnone : (d.poolWriteLine 1 off bs po).findLine ((off + k) / 64) = none := by
    rw [hl]
    exact findLine_dropLine_self (d.cleanLine _) _
  unfold Dev.poolByte
  rw [hnone]
  simp only
  rw [poolWriteLine_bypass_pool, get_put_getElem, homeOf_add _ _ _ (by omega), dif_pos ⟨by omega, by omega⟩]
  simp

/-- Under the other policies the LLC's line holds the old bytes with the new ones laid over, and no other line changes. -/
theorem poolByte_poolWriteLine_llc {d : Dev} {pol : Nat} (hpol : pol ≠ 1) (off : Nat) (bs : List Byte) (po : Bool) (o : Nat) :
    (d.poolWriteLine pol off bs po).poolByte o =
      if o / 64 = off / 64 then (overlay (d.fillLine (off / 64)).bytes (off % 64) bs).getD (o % 64) 0 else d.poolByte o := by
  simp only [Dev.poolWriteLine, hpol, if_false]
  unfold Dev.poolByte
  rw [findLine_putLine, fillLine_line]
  by_cases ho : o / 64 = off / 64
  · simp only [if_pos ho]
  · simp only [if_neg ho]
    rfl

/-- A write to one line under policies 0 and 2 is read back. -/
theorem poolByte_poolWriteLine_llc_written {d : Dev} {pol : Nat} (hpol : pol ≠ 1) {off : Nat} {bs : List Byte} (po : Bool)
    (h : off % 64 + bs.length ≤ 64) (hlines : ∀ l ∈ d.lines, l.bytes.length = 64) (k : Nat) (hk : k < bs.length) :
    (d.poolWriteLine pol off bs po).poolByte (off + k) = bs[k] := by
  have hl : (off + k) / 64 = off / 64 := by omega
  have hm : (off + k) % 64 = off % 64 + k := by omega
  rw [poolByte_poolWriteLine_llc hpol, if_pos hl, getD_overlay _ _ _ (by rw [fillLine_bytes_length hlines]; exact h), hm,
    if_pos (by omega), Nat.add_sub_cancel_left, List.getD_eq_getElem _ _ hk]

/-- A write to one line under policies 0 and 2 leaves every byte outside it as it was. -/
theorem poolByte_poolWriteLine_llc_other {d : Dev} {pol : Nat} (hpol : pol ≠ 1) {off : Nat} {bs : List Byte} (po : Bool)
    (h : off % 64 + bs.length ≤ 64) (hlines : ∀ l ∈ d.lines, l.bytes.length = 64) (hwf : Store.wf 0 d.pool = true) (o : Nat)
    (ho : ∀ k, k < bs.length → o ≠ off + k) : (d.poolWriteLine pol off bs po).poolByte o = d.poolByte o := by
  rw [poolByte_poolWriteLine_llc hpol]
  split
  next hl =>
    have hout : ¬(off % 64 ≤ o % 64 ∧ o % 64 < off % 64 + bs.length) := fun hin =>
      ho (o % 64 - off % 64) (by omega) (by omega)
    rw [getD_overlay _ _ _ (by rw [fillLine_bytes_length hlines]; exact h), if_neg hout, ← hl, getD_fillLine_bytes hwf]
  next => rfl

/-! ### Writes to a run of the pool -/

theorem poolWrite_nil (pol : Nat) (po : Bool) (fuel : Nat) (d : Dev) (off : Nat) : Dev.poolWrite pol po fuel d off [] = d := by
  cases fuel <;> rfl

/-- A write that lies within one line is one write to that line. -/
theorem poolWrite_one_line (pol : Nat) (po : Bool) (fuel : Nat) (d : Dev) {off : Nat} {bs : List Byte} (hne : bs ≠ [])
    (h : off % 64 + bs.length ≤ 64) : Dev.poolWrite pol po (fuel + 1) d off bs = d.poolWriteLine pol off bs po := by
  have hn : min (64 - off % 64) bs.length = bs.length := by omega
  simp [Dev.poolWrite, hne, hn, poolWrite_nil]

theorem poolWrite_hbm_host (pol : Nat) (po : Bool) (fuel : Nat) (d : Dev) (off : Nat) (bs : List Byte) :
    (Dev.poolWrite pol po fuel d off bs).hbm = d.hbm ∧ (Dev.poolWrite pol po fuel d off bs).host = d.host := by
  induction fuel generalizing d off bs with
  | zero => exact ⟨rfl, rfl⟩
  | succ fuel ih =>
    rw [Dev.poolWrite]
    split
    · exact ⟨rfl, rfl⟩
    · obtain ⟨hhbm, hhost, _⟩ := poolWriteLine_hbm_host_llc d pol off (bs.take (min (64 - off % 64) bs.length)) po
      obtain ⟨ihbm, ihost⟩ := ih (d.poolWriteLine pol off (bs.take (min (64 - off % 64) bs.length)) po)
        (off + min (64 - off % 64) bs.length) (bs.drop (min (64 - off % 64) bs.length))
      exact ⟨ihbm.trans hhbm, ihost.trans hhost⟩

section Places

/-! ### What a write leaves at a place, by the kind of place -/

variable {d : Dev} {p : Place}

/-- The clean-up of the LLC before a write to HBM changes no byte. -/
theorem storePlace_device (h : p.kind = 0) (pol : Nat) (bs : List Byte) (po : Bool) :
    (d.storePlace p pol bs po).hbm = Store.put 0 d.hbm p.pa (bs.take (inHbm p.pa bs.length)) ∧
      SameBytes { d with hbm := (d.storePlace p pol bs po).hbm } (d.storePlace p pol bs po) ∧
      (d.storePlace p pol bs po).llc.length ≤ d.llc.length + bs.length + 1 := by
  simp only [Dev.storePlace, h, if_true]
  by_cases hp : pol = 1
  · have := List.length_filter_le
      (fun x : LlcLine => !(linesOf p.pa (bs.take (inHbm p.pa bs.length)).length).contains x.line) d.llc
    simp only [hp, if_true]
    exact ⟨rfl, ⟨rfl, rfl, rfl, rfl, rfl⟩, by simp only [Dev.llcClean]; omega⟩
  · obtain ⟨hs, hl⟩ := foldl_llcTouch (linesOf p.pa (bs.take (inHbm p.pa bs.length)).length) d
    have hn := linesOf_length_le p.pa (bs.take (inHbm p.pa bs.length)).length
    have ht := List.length_take_le' (inHbm p.pa bs.length) bs
    simp only [hp, if_false]
    exact ⟨by rw [hs.hbm], ⟨rfl, hs.host, hs.lines, hs.pool, hs.regions⟩, by omega⟩

theorem storePlace_host (h : p.kind = 2) (pol : Nat) (bs : List Byte) (po : Bool) :
    (d.storePlace p pol bs po).host = Store.put 0 d.host p.pa bs ∧
      SameBytes { d with host := (d.storePlace p pol bs po).host } (d.storePlace p pol bs po) ∧
      (d.storePlace p pol bs po).llc = d.llc := by
  simp only [Dev.storePlace, h]
  exact ⟨rfl, ⟨rfl, rfl, rfl, rfl, rfl⟩, rfl⟩

theorem storePlace_pool (h : p.kind = 1) (pol : Nat) (bs : List Byte) (po : Bool) :
    d.storePlace p pol bs po = Dev.poolWrite pol po (bs.length + 1) d (p.pa - d.pwbase.toNat) bs := by
  simp [Dev.storePlace, h]

/-! ### How a write ends -/

/-- Nothing else writes in the same cycle as an agent that notes no cycle: its bytes are what it leaves. -/
theorem mixed_other (d : Dev) (p : Place) (bs : List Byte) : d.mixed p bs .other = bs := by
  simp [Dev.mixed, Author.other]

theorem lostPlace_iff : d.lostPlace p = true ↔ p.kind = 1 ∧ d.poolState (p.pa - d.pwbase.toNat) ≠ 0 := by
  simp [Dev.lostPlace]

/-- The notes on a write are no memory. -/
theorem sameBytes_note (d : Dev) (n : Nat) (log lost : List MemWr) :
    SameBytes d { d with wseq := n, wlog := log, discarded := lost } := ⟨rfl, rfl, rfl, rfl, rfl⟩

/-- Everything that a write can do to the memories: nothing, for it has no byte or meets a region that is not ONLINE; or it
stores its bytes and makes room in the LLC. -/
theorem writePlace_cases (d : Dev) (p : Place) (pol : Nat) (bs : List Byte) (po : Bool) :
    ((bs = [] ∨ d.lostPlace p = true) ∧ SameBytes d (d.writePlace p pol bs po)) ∨
      (bs ≠ [] ∧ d.lostPlace p = false ∧ SameBytes (d.storePlace p pol bs po).fitLlc (d.writePlace p pol bs po)) := by
  unfold Dev.writePlace
  simp only [mixed_other, List.isEmpty_iff]
  by_cases hb : bs = []
  · rw [if_pos hb]
    exact .inl ⟨.inl hb, sameBytes_note d d.wseq d.wlog d.discarded⟩
  · rw [if_neg hb]
    cases hl : d.lostPlace p
    · rw [if_neg Bool.false_ne_true]
      exact .inr ⟨hb, rfl, sameBytes_note _ _ _ _⟩
    · rw [if_pos rfl]
      exact .inl ⟨.inr rfl, sameBytes_note _ _ _ _⟩

/-- A write whose store leaves the pool's bytes alone, and the LLC with room, leaves them alone. -/
theorem writePlace_poolByte_of_store {pol : Nat} {bs : List Byte} {po : Bool}
    (hroom : (d.storePlace p pol bs po).llc.length + (d.storePlace p pol bs po).lines.length ≤ llcLines)
    (hkeep : ∀ o, (d.storePlace p pol bs po).poolByte o = d.poolByte o) (o : Nat) :
    (d.writePlace p pol bs po).poolByte o = d.poolByte o := by
  rcases writePlace_cases d p pol bs po with ⟨_, hsame⟩ | ⟨_, _, hsame⟩
  · exact hsame.poolByte o
  · rw [hsame.poolByte, fitLlc_of_room hroom, hkeep]

theorem lostPlace_of_kind_ne (h : p.kind ≠ 1) : d.lostPlace p = false := by
  simp [Dev.lostPlace, h]

/-! ### HBM (R222, R322) -/

/-- HBM takes the bytes of a write that lie before its end. -/
theorem get_put_inHbm (st : Store Byte) (pa : Nat) (bs : List Byte) (a : Nat) :
    Store.get 0 (Store.put 0 st pa (bs.take (inHbm pa bs.length))) a =
      if h : pa ≤ a ∧ a - pa < bs.length ∧ a < Config.hbmBytes then bs[a - pa]'h.2.1 else Store.get 0 st a := by
  have hlen : (bs.take (inHbm pa bs.length)).length = min bs.length (Config.hbmBytes - pa) := by simp [inHbm]
  rw [get_put_getElem]
  by_cases h : pa ≤ a ∧ a - pa < bs.length ∧ a < Config.hbmBytes
  · rw [dif_pos h, dif_pos (by omega), List.getElem_take]
  · rw [dif_neg h, dif_neg (by omega)]

theorem writePlace_device_hbm (h : p.kind = 0) (pol : Nat) (bs : List Byte) (po : Bool) (a : Nat) :
    Store.get 0 (d.writePlace p pol bs po).hbm a =
      if h : p.pa ≤ a ∧ a - p.pa < bs.length ∧ a < Config.hbmBytes then bs[a - p.pa]'h.2.1 else Store.get 0 d.hbm a := by
  have hlost : d.lostPlace p = false := lostPlace_of_kind_ne (by omega)
  rcases writePlace_cases d p pol bs po with ⟨hnot, hsame⟩ | ⟨_, _, hsame⟩
  · have hb : bs = [] := by simpa [hlost] using hnot
    rw [hsame.hbm]
    simp [hb]
  · obtain ⟨hhbm, _, _⟩ := storePlace_device (d := d) h pol bs po
    rw [hsame.hbm, fitLlc_hbm, hhbm, get_put_inHbm]

theorem writePlace_device_host (h : p.kind = 0) (pol : Nat) (bs : List Byte) (po : Bool) :
    (d.writePlace p pol bs po).host = d.host := by
  rcases writePlace_cases d p pol bs po with ⟨_, hsame⟩ | ⟨_, _, hsame⟩
  · exact hsame.host
  · obtain ⟨_, hstore, _⟩ := storePlace_device (d := d) h pol bs po
    rw [hsame.host, fitLlc_host, hstore.host]

theorem writePlace_device_poolByte (h : p.kind = 0) (pol : Nat) (bs : List Byte) (po : Bool)
    (hfits : d.llc.length + d.lines.length + bs.length + 2 ≤ llcLines) (o : Nat) :
    (d.writePlace p pol bs po).poolByte o = d.poolByte o := by
  obtain ⟨_, hstore, hllc⟩ := storePlace_device (d := d) h pol bs po
  have hlines : (d.storePlace p pol bs po).lines = d.lines := hstore.lines
  exact writePlace_poolByte_of_store (by rw [hlines]; omega) hstore.poolByte o

/-! ### Host memory (R221) -/

theorem writePlace_host_host (h : p.kind = 2) (pol : Nat) (bs : List Byte) (po : Bool) (a : Nat) :
    Store.get 0 (d.writePlace p pol bs po).host a =
      if h : p.pa ≤ a ∧ a - p.pa < bs.length then bs[a - p.pa]'h.2 else Store.get 0 d.host a := by
  have hlost : d.lostPlace p = false := lostPlace_of_kind_ne (by omega)
  rcases writePlace_cases d p pol bs po with ⟨hnot, hsame⟩ | ⟨_, _, hsame⟩
  · have hb : bs = [] := by simpa [hlost] using hnot
    rw [hsame.host]
    simp [hb]
  · obtain ⟨hhost, _, _⟩ := storePlace_host (d := d) h pol bs po
    rw [hsame.host, fitLlc_host, hhost, get_put_getElem]

theorem writePlace_host_hbm (h : p.kind = 2) (pol : Nat) (bs : List Byte) (po : Bool) :
    (d.writePlace p pol bs po).hbm = d.hbm := by
  rcases writePlace_cases d p pol bs po with ⟨_, hsame⟩ | ⟨_, _, hsame⟩
  · exact hsame.hbm
  · obtain ⟨_, hstore, _⟩ := storePlace_host (d := d) h pol bs po
    rw [hsame.hbm, fitLlc_hbm, hstore.hbm]

theorem writePlace_host_poolByte (h : p.kind = 2) (pol : Nat) (bs : List Byte) (po : Bool)
    (hfits : d.llc.length + d.lines.length + bs.length + 2 ≤ llcLines) (o : Nat) :
    (d.writePlace p pol bs po).poolByte o = d.poolByte o := by
  obtain ⟨_, hstore, hllc⟩ := storePlace_host (d := d) h pol bs po
  have hlines : (d.storePlace p pol bs po).lines = d.lines := hstore.lines
  exact writePlace_poolByte_of_store (by rw [hllc, hlines]; omega) hstore.poolByte o

/-! ### The pool (R237, R336) -/

theorem writePlace_pool_hbm_host (h : p.kind = 1) (pol : Nat) (bs : List Byte) (po : Bool) :
    (d.writePlace p pol bs po).hbm = d.hbm ∧ (d.writePlace p pol bs po).host = d.host := by
  rcases writePlace_cases d p pol bs po with ⟨_, hsame⟩ | ⟨_, _, hsame⟩
  · exact ⟨hsame.hbm, hsame.host⟩
  · rw [hsame.hbm, hsame.host, fitLlc_hbm, fitLlc_host, storePlace_pool h]
    exact poolWrite_hbm_host _ _ _ _ _ _

/-- A write to a region that is not ONLINE leaves the pool alone. -/
theorem writePlace_lost_poolByte (h : p.kind = 1) (pol : Nat) (bs : List Byte) (po : Bool)
    (hlost : d.poolState (p.pa - d.pwbase.toNat) ≠ 0) (o : Nat) : (d.writePlace p pol bs po).poolByte o = d.poolByte o := by
  rcases writePlace_cases d p pol bs po with ⟨_, hsame⟩ | ⟨_, honline, _⟩
  · exact hsame.poolByte o
  · rw [lostPlace_iff.2 ⟨h, hlost⟩] at honline
    cases honline

/-- A write within one line of an ONLINE region is the write to that line, while the LLC has room. -/
theorem writePlace_online_poolByte (h : p.kind = 1) (pol : Nat) {bs : List Byte} (po : Bool) (hne : bs ≠ [])
    (honline : d.poolState (p.pa - d.pwbase.toNat) = 0) (hline : (p.pa - d.pwbase.toNat) % 64 + bs.length ≤ 64)
    (hfits : d.llc.length + d.lines.length + bs.length + 2 ≤ llcLines) (o : Nat) :
    (d.writePlace p pol bs po).poolByte o = (d.poolWriteLine pol (p.pa - d.pwbase.toNat) bs po).poolByte o := by
  rcases writePlace_cases d p pol bs po with ⟨hnot, _⟩ | ⟨_, _, hsame⟩
  · rcases hnot with hb | hlost
    · exact absurd hb hne
    · exact absurd honline (lostPlace_iff.1 hlost).2
  · have hroom : (d.poolWriteLine pol (p.pa - d.pwbase.toNat) bs po).llc.length +
        (d.poolWriteLine pol (p.pa - d.pwbase.toNat) bs po).lines.length ≤ llcLines := by
      have := poolWriteLine_lines_length_le d pol (p.pa - d.pwbase.toNat) bs po
      obtain ⟨_, _, hllc⟩ := poolWriteLine_hbm_host_llc d pol (p.pa - d.pwbase.toNat) bs po
      rw [hllc]
      omega
    rw [hsame.poolByte, storePlace_pool h, poolWrite_one_line _ _ _ _ hne hline, fitLlc_of_room hroom]

theorem writePlace_pool_written (h : p.kind = 1) (pol : Nat) {bs : List Byte} (po : Bool)
    (honline : d.poolState (p.pa - d.pwbase.toNat) = 0) (hline : (p.pa - d.pwbase.toNat) % 64 + bs.length ≤ 64)
    (hlines : ∀ l ∈ d.lines, l.bytes.length = 64) (hfits : d.llc.length + d.lines.length + bs.length + 2 ≤ llcLines)
    (k : Nat) (hk : k < bs.length) :
    (d.writePlace p pol bs po).poolByte (p.pa - d.pwbase.toNat + k) = bs[k] := by
  have hne : bs ≠ [] := List.ne_nil_of_length_pos (Nat.zero_lt_of_lt hk)
  rw [writePlace_online_poolByte h pol po hne honline hline hfits]
  by_cases hpol : pol = 1
  · subst hpol
    exact poolByte_poolWriteLine_bypass d _ bs po hline k hk
  · exact poolByte_poolWriteLine_llc_written hpol po hline hlines k hk

theorem writePlace_pool_other (h : p.kind = 1) {pol : Nat} (hpol : pol ≠ 1) {bs : List Byte} (po : Bool)
    (honline : d.poolState (p.pa - d.pwbase.toNat) = 0) (hline : (p.pa - d.pwbase.toNat) % 64 + bs.length ≤ 64)
    (hlines : ∀ l ∈ d.lines, l.bytes.length = 64) (hfits : d.llc.length + d.lines.length + bs.length + 2 ≤ llcLines)
    (hwf : Store.wf 0 d.pool = true) (o : Nat) (ho : ∀ k, k < bs.length → o ≠ p.pa - d.pwbase.toNat + k) :
    (d.writePlace p pol bs po).poolByte o = d.poolByte o := by
  by_cases hne : bs = []
  · rcases writePlace_cases d p pol bs po with ⟨_, hsame⟩ | ⟨hb, _⟩
    · exact hsame.poolByte o
    · exact absurd hne hb
  · rw [writePlace_online_poolByte h pol po hne honline hline hfits]
    exact poolByte_poolWriteLine_llc_other hpol po hline hlines hwf o ho

end Places

theorem poolWf_of_memWf {d : Dev} (h : d.memWf = true) : Store.wf 0 d.pool = true := by
  simp only [Dev.memWf, Bool.and_eq_true] at h
  exact h.1.2

/-! ### The memories of a core (R9, R68, R388) -/

@[simp] theorem shade_arch (c : Core) (st : StoreId) (w : Writer) (gran : Nat) : (c.shade st w gran).arch = c.arch := by
  unfold Core.shade
  simp only
  split <;> rfl

/-- The Pan's notes on a run are no part of the restorable state. -/
@[simp] theorem shadeRun_arch (c : Core) (st : StoreId) (w : Writer) (gran first n : Nat) :
    (c.shadeRun st w gran first n).arch = c.arch := by
  unfold Core.shadeRun
  split
  · rfl
  · exact List.foldlRecOn (motive := fun e : Core => e.arch = c.arch) _ _ rfl fun e he _ _ => by simpa using he

@[simp] theorem alter_arch (c : Core) (w : Writer) (f : Arch → Arch) : (c.alter w f).arch = f c.arch := by
  cases w <;> rfl

theorem scrWrite_scr (c : Core) (w : Writer) (v : Via) (addr : Nat) (bs : List Byte) (po : Bool) (unit at_ : Nat) :
    (c.scrWrite w v addr bs po unit at_).arch.scr = Store.put 0 c.arch.scr addr bs := by
  simp [Core.scrWrite, Arch.scrPut]

theorem spillWrite_spill (c : Core) (t : Thread) (off : Nat) (bs : List Byte) (po : Bool) :
    ((c.spillWrite t off bs po).arch.eng t).spill = Store.put 0 (c.arch.eng t).spill off bs := by
  simp [Core.spillWrite]

theorem lwrite_lmem (s : State) (addr : Nat) (bs : List Byte) :
    (s.lwrite addr bs).seq.lmem = Store.put 0 s.seq.lmem addr bs := by
  simp [State.lwrite, State.modSeq, State.seq, State.arch]

/-! ### The obligation -/

/-- Settles O60: a write at a place ends in one of the ways of `writePlace_cases`, and in each memory what is stored is one
`Store.put` (`get_put`) or, in the LLC, one line with the new bytes laid over it (`getD_overlay`). -/
theorem memoryReadsBack : Obligations.MemoryReadsBack := by
  unfold Obligations.MemoryReadsBack
  intro bs po
  refine ⟨fun d p pol => ⟨fun h => ?_, fun h => ?_, fun h => ?_⟩, ?_, ?_, ?_⟩
  · exact ⟨writePlace_device_hbm h pol bs po, writePlace_device_host h pol bs po, writePlace_device_poolByte h pol bs po⟩
  · exact ⟨writePlace_host_host h pol bs po, writePlace_host_hbm h pol bs po, writePlace_host_poolByte h pol bs po⟩
  · obtain ⟨hhbm, hhost⟩ := writePlace_pool_hbm_host (d := d) h pol bs po
    exact ⟨hhbm, hhost, writePlace_lost_poolByte h pol bs po, fun honline hline hlines hfits =>
      ⟨writePlace_pool_written h pol po honline hline hlines hfits, fun hpol hwf =>
        writePlace_pool_other h hpol po honline hline hlines hfits (poolWf_of_memWf hwf)⟩⟩
  · intro c w v unit at' addr e a
    rw [scrWrite_scr, get_put_getElem]
  · intro c t off e a
    rw [spillWrite_spill, get_put_getElem]
  · intro s addr a
    rw [lwrite_lmem, get_put_getElem]

end Sys2Proof.Proofs
end

section
/-! A step gives the turn to the head of the agenda (O54). The facts are: no edge lies between now and a moment of the same
core cycle, so time passes to it at once; and fetching, said once for each way in which it ends. -/

namespace Sys2Proof.Proofs

open Sys2Proof Sys2Proof.Machine Sys2Proof.Laws

/-! ### Time passes within a core cycle (R11, R12) -/

/-- What is due is due after k: so is the earlier of two such times. -/
theorem lt_minOpt {k : Nat} {a b : Option Nat} (ha : ∀ c ∈ a, k < c) (hb : ∀ c ∈ b, k < c) : ∀ c ∈ minOpt a b, k < c := by
  cases a with
  | none => exact hb
  | some x =>
    cases b with
    | none => exact ha
    | some y =>
      have hx := ha x rfl
      have hy := hb y rfl
      intro c hc
      obtain rfl : min x y = c := by simpa [minOpt] using hc
      exact lt_min hx hy

theorem lt_foldl_minOpt {α : Type} {k : Nat} (f : α → Option Nat) (xs : List α) (h : ∀ x ∈ xs, ∀ c ∈ f x, k < c) :
    ∀ c ∈ xs.foldl (fun m x => minOpt m (f x)) none, k < c :=
  List.foldlRecOn (motive := fun m : Option Nat => ∀ c ∈ m, k < c) xs _ (by simp) fun _ hm x hx => lt_minOpt hm (h x hx)

/-- A core names no time as due that has passed. -/
theorem lt_core_dueAt (c : Core) (now : Nat) : ∀ t ∈ c.dueAt now, now < t := by
  unfold Core.dueAt earliest
  refine lt_foldl_minOpt some _ fun x hx t ht => ?_
  obtain rfl : x = t := by simpa using ht
  simpa using (List.mem_filter.1 hx).2

theorem lt_state_dueAt (s : State) : ∀ t ∈ s.dueAt, s.cycle < t :=
  lt_foldl_minOpt (fun c : Core => c.dueAt s.cycle) _ fun c _ => lt_core_dueAt c s.cycle

/-- No edge that matters comes before the end of the core cycle while no change waits for the uncore clock. -/
theorem nextEdge_same_cycle {s : State} {n : Nat} (hn : n / 410 = s.cycle) (hx : s.phase.cross = false) :
    s.nextEdge n = none := by
  have hlate : ∀ m, s.cycle < m → n < m * 410 := fun m hm => by omega
  have hcore : ∀ m ∈ (if s.phase.edges ≠ 0 then some (nextCore s.now) else s.dueAt.map (fun c => c * Config.ticksPerCycle)),
      n < m := by
    split
    · intro m hm
      obtain rfl : nextCore s.now = m := by simpa using hm
      exact hlate _ (Nat.lt_succ_self _)
    · intro m hm
      obtain ⟨t, ht, rfl⟩ := Option.mem_map.1 hm
      exact hlate t (lt_state_dueAt s t ht)
  simp only [State.nextEdge, hx, Bool.false_eq_true, if_false]
  refine Option.filter_eq_none_iff.2 fun m hm => ?_
  simpa using lt_minOpt hcore (by simp) m hm

theorem runTo_of_no_edge {s : State} {n : Nat} (h : s.nextEdge n = none) (fuel : Nat) :
    State.runTo fuel n s = { s with now := n } := by
  cases fuel with
  | zero => rfl
  | succ fuel => simp only [State.runTo, h]

theorem passTo_frozen {s : State} (h : s.dev.frozen = true) (n : Nat) : s.passTo n = { s with now := n } := if_pos h

theorem passTo_same_cycle {s : State} {n : Nat} (hn : n / 410 = s.cycle) (hx : s.phase.cross = false) :
    s.passTo n = { s with now := n } := by
  unfold State.passTo
  split
  · rfl
  · exact runTo_of_no_edge (nextEdge_same_cycle hn hx) _

/-! ### The head of the agenda -/

theorem step_idle {s : State} (h : s.agenda = []) : step s = .next (s.passTo (s.now + 410)) := by
  simp only [step, h]
  rfl

theorem step_turn {s : State} {dt : Nat} {t : Turn} {rest : List Machine.Action} (h : s.agenda = ⟨dt, t⟩ :: rest) :
    step s = turnStep t (State.passTo { s with agenda := rest } (s.moment (s.now + dt) t)) := by
  simp only [step, h]

/-! ### Fetching a kernel word (R17, R18, R21, R24, R27) -/

theorem fetch_stop {s : State} (h : s.here.mayAct s.cur.th s.cycle = false ∨ s.dev.frozen = true) : s.fetch = .stop s := by
  have hc : (!s.here.mayAct s.cur.th s.cycle || s.dev.frozen) = true := by simpa using h
  rw [State.fetch, if_pos hc]

/-- Within a section an engine stands at its own word when the tag says so. -/
theorem seek_own {s : State} {bs : List Byte} (hl : s.eng.left ≠ 0) (hf : s.fetchUnit 12 = .ok bs)
    (ht : wTag (bytesWord bs) = s.cur.th.code) : State.seek s.eng.left s = .ok (some (bytesWord bs), s) := by
  obtain ⟨n, hn⟩ := Nat.exists_eq_succ_of_ne_zero hl
  rw [hn, State.seek, if_neg hl, hf]
  exact if_pos ht

theorem seek_fault {s y : State} (hl : s.eng.left ≠ 0) (hf : s.fetchUnit 12 = .error y) : State.seek s.eng.left s = .error y := by
  obtain ⟨n, hn⟩ := Nat.exists_eq_succ_of_ne_zero hl
  rw [hn, State.seek, if_neg hl, hf]

theorem modCore_eq_self (s : State) (k : CoreId) (f : Core → Core) (h : f (s.core k) = s.core k) : s.modCore k f = s := by
  rw [State.modCore, h]
  simp [State.setCore, State.core]

/-- A change of the engine that changes nothing. -/
theorem modEng_eq_self {s : State} {f : Eng → Eng} (h : f s.eng = s.eng) : s.modEng f = s := by
  have ha : s.arch.modEng s.cur.th f = s.arch := by
    have hf : f (s.arch.eng s.cur.th) = s.arch.eng s.cur.th := h
    rw [Arch.modEng, hf]
    cases s.cur.th <;> rfl
  exact modCore_eq_self s s.cur.core (fun c => c.modArch (fun a => a.modEng s.cur.th f))
    (congrArg (fun a => { s.here with arch := a }) ha)

theorem seek_end {s : State} (hl : s.eng.left = 0) : State.seek s.eng.left s = .ok (none, s) := by
  have hs : s.modEng (fun e => { e with left := 0 }) = s := modEng_eq_self (by rw [← hl])
  rw [hl, State.seek, hs]

section Acts

/-! #### A thread that may act -/

variable {s : State} (hact : s.here.mayAct s.cur.th s.cycle = true) (hfr : s.dev.frozen = false)

include hact hfr

theorem not_held_back : ¬(!s.here.mayAct s.cur.th s.cycle || s.dev.frozen) = true := by simp [hact, hfr]

theorem fetch_own {bs : List Byte} (hl : s.eng.left ≠ 0) (hf : s.fetchUnit 12 = .ok bs)
    (ht : wTag (bytesWord bs) = s.cur.th.code) : s.fetch = s.fetchWord (bytesWord bs) := by
  rw [State.fetch, if_neg (not_held_back hact hfr), seek_own hl hf ht]

theorem fetch_fault {y : State} (hl : s.eng.left ≠ 0) (hf : s.fetchUnit 12 = .error y) : s.fetch = .stop y := by
  rw [State.fetch, if_neg (not_held_back hact hfr), seek_fault hl hf]

theorem fetch_end (hl : s.eng.left = 0) : s.fetch = s.fetchHeader := by
  rw [State.fetch, if_neg (not_held_back hact hfr), seek_end hl]

end Acts

/-- The state in which a word is decoded: the wait of its section has been passed, and an M word finds its planes. -/
def wordState (s : State) : State :=
  (s.modArch (fun a => (a.settlePlanes s.cur.th s.cycle).modEng s.cur.th (fun e =>
    if e.run = .run then { e with own := true } else e))).waitOrder

section Unheld

/-! #### A word that nothing holds back is decoded, or traps -/

variable {s : State} (w : BitVec 96) (hchap : s.cur.th = .chap → (s.here.chapSlot s.cycle).isSome = true)
  (hwait : s.arch.waitMet s.cur.th s.cycle = true) (hheld : s.withheld = false)
  (hother : s.here.otherInHandler s.cur.th = false) (hasync : s.eng.async = [])

include hchap in
theorem chap_has_slot : ¬(s.cur.th = .chap ∧ (s.here.chapSlot s.cycle).isNone = true) := fun ⟨hth, hnone⟩ => by
  simp [Option.isNone_iff_eq_none.1 hnone] at hchap
  exact hchap hth

include hchap hwait hheld hother hasync

theorem fetchWord_decoded {i : Instr} (hi : decodeWord w = .ok i) : s.fetchWord w = .go i (wordState s) := by
  simp only [State.fetchWord, if_neg (chap_has_slot hchap), hwait, hheld, hother, hasync, hi, Bool.not_true,
    Bool.false_eq_true, and_false, if_false, wordState]

theorem fetchWord_illegal (hi : decodeWord w = .error .illegal) :
    s.fetchWord w = .stop ((wordState s).trap Code.illegalWord none) := by
  simp only [State.fetchWord, if_neg (chap_has_slot hchap), hwait, hheld, hother, hasync, hi, Bool.not_true,
    Bool.false_eq_true, and_false, if_false, wordState]

theorem fetchWord_reserved {i : Instr} (hi : decodeWord w = .error (.reserved i)) :
    s.fetchWord w = .stop ((wordState s).trap ((check2 i s.eng).getD Code.reservedField) none) := by
  simp only [State.fetchWord, if_neg (chap_has_slot hchap), hwait, hheld, hother, hasync, hi, Bool.not_true,
    Bool.false_eq_true, and_false, if_false, wordState]

end Unheld

/-- At a section's end that the engine has come to, the header at its pc is the next unit (R106, R108, R309). -/
theorem fetchHeader_arrived {s : State} {bs : List Byte} (harr : s.eng.arrived = true) (hdelay : s.eng.delay = none)
    (hcp : s.here.cpReq = []) (hother : s.here.otherInHandler s.cur.th = false) (hend : s.textEnd ≠ some s.eng.pc.toNat)
    (hf : s.fetchUnit 8 = .ok bs) : s.fetchHeader = .go (.sectionHeader (decodeHdr (bytesHdr bs))) s := by
  have ha : s.arrive = s := by simp only [State.arrive, hdelay, harr, if_true]
  simp [State.fetchHeader, ha, hcp, hother, hend, hf]

/-! ### A thread's turn -/

theorem turn_thread_go {s t : State} {w : Who} {i : Instr} (h : State.fetch { s with cur := w } = .go i t) :
    turnStep (.thread w) s =
      if s.late (wordRank i w.th) then .next { s with cur := w } else exec i (t.stamp (wordRank i w.th) true) := by
  simp only [turnStep, h]

theorem turn_thread_stop {s t : State} {w : Who} (h : State.fetch { s with cur := w } = .stop t) :
    turnStep (.thread w) s = .next (t.stamp 2 true) := by
  simp only [turnStep, h]

/-- A header has no place of its own among the words of its cycle. -/
theorem late_sectionHeader (s : State) (h : SecHdr) (t : Thread) : s.late (wordRank (.sectionHeader h) t) = false := rfl

/-! ### A sequencer's turn (R389, R394) -/

section Runs

variable {s : State} (hrun : s.seq.running = true) (hbusy : s.seq.busy ≤ s.cycle) (hcp : s.here.cpReq = [])
  (hre : s.here.restart = none) (hfr : s.dev.frozen = false) (hal : s.seq.pc.toNat % 8 = 0)
  (hlt : s.seq.pc.toNat < 2 ^ 18)

include hrun hbusy hcp hre hfr in
theorem seq_not_held_back : ¬(!s.seq.running || decide (s.cycle < s.seq.busy) || !s.here.cpReq.isEmpty ||
    s.here.restart.isSome || s.dev.frozen) = true := by
  simp [hrun, hbusy, hcp, hre, hfr]

include hrun hbusy hcp hre hfr hal hlt

theorem seqFetch_decoded {i : Instr} (hi : decodeSeq (bytesHdr (s.seq.lread s.seq.pc.toNat 8)) = .ok i)
    (hldx : ¬(s.cycle < s.seq.ldx.2 ∧ (seqRegs i).contains s.seq.ldx.1 = true)) : s.seqFetch = .go i s := by
  simp only [State.seqFetch, if_neg (seq_not_held_back hrun hbusy hcp hre hfr), if_neg (not_not.2 hal),
    if_neg (Nat.not_le.2 hlt), hi, if_neg hldx]

theorem seqFetch_illegal (hi : decodeSeq (bytesHdr (s.seq.lread s.seq.pc.toNat 8)) = .error .illegal) :
    s.seqFetch = .stop (s.seqEnd Code.illegalWord) := by
  simp only [State.seqFetch, if_neg (seq_not_held_back hrun hbusy hcp hre hfr), if_neg (not_not.2 hal),
    if_neg (Nat.not_le.2 hlt), hi]

end Runs

theorem turn_seq_go {s t : State} {c : CoreId} {i : Instr} (h : State.seqFetch { s with cur := ⟨c, .c⟩ } = .go i t) :
    turnStep (.seq c) s = exec i (t.stamp (wordRank i .c) true) := by
  simp only [turnStep, h]

theorem turn_seq_stop {s t : State} {c : CoreId} (h : State.seqFetch { s with cur := ⟨c, .c⟩ } = .stop t) :
    turnStep (.seq c) s = .next (t.stamp 2 true) := by
  simp only [turnStep, h]

/-! ### An event's turn (R434) -/

theorem turn_event {s : State} {i : Instr} (he : isEvent i = true) (h : s.dev.frozen = false ∨ thaws i = true) :
    turnStep (.event i) s = exec i (s.stamp (eventRank i) false) := by
  have hc : (isEvent i && (!s.dev.frozen || thaws i)) = true := by simpa [he] using h
  simp only [turnStep, hc, if_true]

theorem turn_event_frozen {s : State} {i : Instr} (hf : s.dev.frozen = true) (ht : thaws i = false) :
    turnStep (.event i) s = .next s := by
  simp [turnStep, hf, ht]

/-! ### The obligation -/

/-- Settles O54: `step_turn` gives the turn to the head of the agenda, and for each kind of turn the lemmas above say how
fetching ends under the statement's conditions. -/
theorem stepRunsDecodedInstruction : Obligations.StepRunsDecodedInstruction := by
  unfold Obligations.StepRunsDecodedInstruction
  intro s
  refine ⟨step_idle, fun n h => ?_, fun w dt rest hag => ?_, fun c dt rest hag => ?_, fun i dt rest hag => ?_⟩
  · rcases h with hf | ⟨hn, hx⟩
    · exact passTo_frozen hf n
    · exact passTo_same_cycle hn hx
  · intro u t
    rw [step_turn hag]
    refine ⟨fun h => turn_thread_stop (fetch_stop h), fun hact hfr => ⟨?_, ?_, ?_⟩⟩
    · intro bs hl hf htag hwait hheld hother hasync hchap v
      have hown : t.fetch = t.fetchWord (bytesWord bs) := fetch_own hact hfr hl hf htag
      refine ⟨fun i hi => ?_, fun hi => ?_, fun i hi hc => ?_⟩
      · rw [turn_thread_go (hown.trans (fetchWord_decoded _ hchap hwait hheld hother hasync hi))]
        exact ⟨fun hlate => if_neg (by rw [hlate]; exact Bool.false_ne_true), fun hlate => if_pos hlate⟩
      · exact turn_thread_stop (hown.trans (fetchWord_illegal _ hchap hwait hheld hother hasync hi))
      · rw [turn_thread_stop (hown.trans (fetchWord_reserved _ hchap hwait hheld hother hasync hi)), hc]
        rfl
    · exact fun hl y hf => turn_thread_stop (fetch_fault hact hfr hl hf)
    · intro bs hl harr hdelay hcp hother hend hf
      have hgo : t.fetch = .go (.sectionHeader (decodeHdr (bytesHdr bs))) t :=
        (fetch_end hact hfr hl).trans (fetchHeader_arrived harr hdelay hcp hother hend hf)
      rw [turn_thread_go hgo]
      exact if_neg (by rw [late_sectionHeader]; exact Bool.false_ne_true)
  · intro u t hrun hbusy hcp hre hfr hal hlt
    rw [step_turn hag]
    exact ⟨fun i hi hldx => turn_seq_go (seqFetch_decoded hrun hbusy hcp hre hfr hal hlt hi hldx),
      fun hi => turn_seq_stop (seqFetch_illegal hrun hbusy hcp hre hfr hal hlt hi)⟩
  · intro u
    rw [step_turn hag]
    exact ⟨turn_event, turn_event_frozen⟩

end Sys2Proof.Proofs
end

section
/-! What the host does to the device (O52): writes and reads through BAR4, register accesses, resets, boot and monitors. A
register access is one of two things, unanswered or a read or write of a word of BAR0 (`exec_unanswered`,
`exec_bar0_write`); the rest says what the one word concerned reads or becomes. -/

namespace Sys2Proof.Proofs

open Sys2Proof Sys2Proof.Machine Sys2Proof.Laws

/-! ### Reads of HBM (R222, R322) -/

theorem readPlace_length (d : Dev) (p : Place) (n : Nat) : (d.readPlace p n).length = n := by
  unfold Dev.readPlace
  split
  · simp only [List.length_append, run_length, List.length_map, List.length_range, inHbm]
    omega
  · split
    · simp [Dev.poolRead]
    · split
      · exact run_length ..
      · simp [zeroBytes]

theorem readPlace_device {d : Dev} {p : Place} {n : Nat} (hk : p.kind = 0) (h : p.pa + n ≤ Config.hbmBytes) :
    d.readPlace p n = Store.run 0 d.hbm p.pa n := by
  have hin : inHbm p.pa n = n := Nat.min_eq_left (by omega)
  simp [Dev.readPlace, hk, hin]

/-! ### Writes of an agent that notes its cycle (R229) -/

theorem mixed_length (d : Dev) (p : Place) (bs : List Byte) (au : Author) : (d.mixed p bs au).length = bs.length := by
  unfold Dev.mixed
  simp only
  split
  · rfl
  · simp [readPlace_length]

/-- Where no other agent has written in the same cycle, a write leaves its own bytes. -/
theorem mixed_alone {d : Dev} {au : Author} (h : ∀ w ∈ d.wlog, w.au.core ≠ au.core → w.au.at_ ≠ au.at_) (p : Place)
    (bs : List Byte) : d.mixed p bs au = bs := by
  unfold Dev.mixed
  refine if_pos (List.isEmpty_iff.2 (List.filter_eq_nil_iff.2 fun w hw hc => ?_))
  simp only [Bool.and_eq_true, decide_eq_true_eq] at hc
  obtain ⟨⟨⟨⟨⟨_, hat⟩, hcore⟩, _⟩, _⟩, _⟩ := hc
  exact h w hw hcore hat

/-- Who writes matters only for the bytes that a write leaves. -/
theorem writePlace_sameBytes_mixed (d : Dev) (p : Place) (pol : Nat) (bs : List Byte) (po : Bool) (au : Author) :
    SameBytes (d.writePlace p pol (d.mixed p bs au) po) (d.writePlace p pol bs po au) := by
  unfold Dev.writePlace
  simp only [mixed_other]
  split
  · exact ⟨rfl, rfl, rfl, rfl, rfl⟩
  · split <;> exact ⟨rfl, rfl, rfl, rfl, rfl⟩

/-! ### BAR4 (R426) -/

/-- What the window takes or answers lies in HBM. -/
theorem window_inHbm {s : State} {off n : Nat} (h : s.window off n = true) :
    s.dev.hwin.toNat + off + n ≤ Config.hbmBytes := by
  simp only [State.window, Bool.and_eq_true, decide_eq_true_eq] at h
  exact h.2

/-- The host as the author of an access of n bytes at an address. -/
def hostAuthor (s : State) (a n : Nat) : Author := { Author.other with unit := hUnit a n, at_ := s.cycle + 1 }

/-- The state after a BAR4 write that the device takes. -/
def bar4Written (s : State) (off : Nat) (bs : List Byte) : State :=
  s.modDev (fun d => d.writePlace ⟨0, d.hwin.toNat + off, 0, 0⟩ 0 bs false (hostAuthor s (d.hwin.toNat + off) bs.length))

theorem exec_bar4Write (s : State) (off : Nat) (bs : List Byte) :
    exec (.bar4Write off bs) s = .next (if s.window off bs.length then bar4Written s off bs else s) := rfl

theorem bar4Written_hbm (s : State) (off : Nat) (bs : List Byte) (a : Nat) :
    let p : Place := ⟨0, s.dev.hwin.toNat + off, 0, 0⟩
    let bs' := s.dev.mixed p bs (hostAuthor s p.pa bs.length)
    Store.get 0 (bar4Written s off bs).dev.hbm a =
      if h : p.pa ≤ a ∧ a - p.pa < bs'.length ∧ a < Config.hbmBytes then bs'[a - p.pa]'h.2.1 else Store.get 0 s.dev.hbm a := by
  intro p bs'
  have hsame := writePlace_sameBytes_mixed s.dev p 0 bs false (hostAuthor s p.pa bs.length)
  exact (congrArg (fun m => Store.get 0 m a) hsame.hbm).trans (writePlace_device_hbm rfl 0 bs' false a)

/-- A BAR4 write leaves its bytes at its place unless another agent has written in the same cycle. -/
theorem bar4Written_hbm_written {s : State} {off : Nat} {bs : List Byte} (hw : s.window off bs.length = true)
    (halone : ∀ w ∈ s.dev.wlog, w.au.core ≠ 64 → w.au.at_ ≠ s.cycle + 1) (k : Nat) (hk : k < bs.length) :
    Store.get 0 (bar4Written s off bs).dev.hbm (s.dev.hwin.toNat + off + k) = bs[k] := by
  have hhbm := window_inHbm hw
  have hmix : s.dev.mixed ⟨0, s.dev.hwin.toNat + off, 0, 0⟩ bs (hostAuthor s (s.dev.hwin.toNat + off) bs.length) = bs :=
    mixed_alone halone _ _
  rw [bar4Written_hbm]
  simp only [hmix, Nat.add_sub_cancel_left]
  exact dif_pos ⟨by omega, hk, by omega⟩

/-- Every byte of HBM beside the place of a BAR4 write stays. -/
theorem bar4Written_hbm_other (s : State) (off : Nat) (bs : List Byte) (a : Nat)
    (ha : ∀ k, k < bs.length → a ≠ s.dev.hwin.toNat + off + k) :
    Store.get 0 (bar4Written s off bs).dev.hbm a = Store.get 0 s.dev.hbm a := by
  rw [bar4Written_hbm]
  refine dif_neg fun ⟨hle, hlt, _⟩ => ?_
  rw [mixed_length] at hlt
  exact ha (a - (s.dev.hwin.toNat + off)) hlt (Nat.add_sub_cancel' hle).symm

theorem exec_bar4Read (s : State) (off len : Nat) : exec (.bar4Read off len) s =
    .next (State.bumpFree { s with resp := s.resp ++ [if s.window off len then
      some (s.hRead (s.dev.hwin.toNat + off) len, s.dev.placePoison ⟨0, s.dev.hwin.toNat + off, 0, 0⟩ len) else none] }) := rfl

/-- A read of HBM in whose cycle nothing has been written finds what HBM holds. -/
theorem hRead_quiet {s : State} {a n : Nat} (hend : a + n ≤ Config.hbmBytes)
    (hquiet : ∀ w ∈ s.dev.wlog, w.au.at_ ≠ s.cycle + 1) : s.hRead a n = Store.run 0 s.dev.hbm a n := by
  have hnone : s.dev.wlog.filter (fun w => w.au.at_ = s.cycle + 1 && w.meets ⟨0, a, 0, 0⟩ n) = [] :=
    List.filter_eq_nil_iff.2 fun w hw hc => by
      simp only [Bool.and_eq_true, decide_eq_true_eq] at hc
      exact hquiet w hw hc.1
  simp only [State.hRead, hnone, List.isEmpty_nil, if_true]
  exact readPlace_device rfl hend

/-! ### Which register accesses are answered (R421, R422, R432, R434) -/

theorem exec_registerWrite (s : State) (bar off size : Nat) (x : Option W64) :
    exec (.registerWrite bar off size x) s = execRegisterWrite bar off size x s := rfl

/-- An access that is not answered completes as an Unsupported Request. -/
theorem exec_unanswered {s : State} {bar off size : Nat} (h : s.answers bar off size = false) (x : Option W64) :
    exec (.registerWrite bar off size x) s = .next { s with resp := s.resp ++ [none] } := by
  exact congrArg Host.Outcome.next (if_pos (by rw [h]; rfl))

theorem exec_answered_write {s : State} {bar off size : Nat} (h : s.answers bar off size = true) (v : W64) :
    exec (.registerWrite bar off size (some v)) s = .next (s.registerWrite bar off size v) := by
  rw [exec_registerWrite, execRegisterWrite, h]
  rfl

theorem exec_answered_read {s : State} {bar off size : Nat} (h : s.answers bar off size = true) :
    exec (.registerWrite bar off size none) s = .next (s.registerRead bar off size) := by
  rw [exec_registerWrite, execRegisterWrite, h]
  rfl

theorem answers_bad_shape {s : State} {bar off size : Nat} (h : (size ≠ 4 ∧ size ≠ 8) ∨ off % size ≠ 0) :
    s.answers bar off size = false := by
  rcases h with ⟨h4, h8⟩ | h
  · simp [State.answers, h4, h8]
  · simp [State.answers, h]

/-- A live device answers the aligned words of BAR0, before READY those of the identity page and the mailbox alone. -/
theorem answers_bar0 {s : State} {off size : Nat} (hfr : s.dev.frozen = false) (hsize : size = 4 ∨ size = 8)
    (hal : off % size = 0) (hlt : off < 2 ^ 26) : s.answers 0 off size = (s.ready || decide (off < 0x2000)) := by
  simp only [State.answers, hfr, hal, hlt]
  rcases hsize with rfl | rfl <;> simp

/-- A frozen device answers at SCANADDR and SCANDATA alone. -/
theorem answers_frozen_iff {s : State} (hfr : s.dev.frozen = true) (bar off size : Nat) : s.answers bar off size = true ↔
    (size = 4 ∨ size = 8) ∧ off % size = 0 ∧ bar = 0 ∧ off / 16 = 0x10000 := by
  by_cases hb : bar = 2
  · simp [State.answers, hfr, hb]
  · simp only [State.answers, hfr, hb, Bool.and_eq_true, Bool.or_eq_true, decide_eq_true_eq, if_true, if_false]
    omega

/-! ### Reads of BAR0 (R421) -/

theorem natBytes_length (n w : Nat) : (natBytes n w).length = n := by simp [natBytes]

/-- An aligned read of 8 bytes other than SCANDATA answers the word. -/
theorem exec_bar0_read {s : State} {off : Nat} (hready : s.ready = true) (hfr : s.dev.frozen = false) (hal : off % 8 = 0)
    (hlt : off < 2 ^ 26) (hscan : off ≠ 0x100008) : exec (.registerWrite 0 off 8 none) s =
      .next { s with resp := s.resp ++ [some (natBytes 8 (s.bar0 off).toNat, false)] } := by
  have hans : s.answers 0 off 8 = true := by rw [answers_bar0 hfr (.inr rfl) hal hlt, hready, Bool.true_or]
  have hword : off / 8 * 8 = off := by omega
  have hnot : off / 8 ≠ 0x20001 := by omega
  have htake : (natBytes 8 (s.bar0 off).toNat).take 8 = natBytes 8 (s.bar0 off).toNat :=
    List.take_of_length_le (natBytes_length _ _).le
  rw [exec_answered_read hans]
  simp [State.registerRead, hnot, hword, hal, htake]

theorem bar0_pmemb (s : State) {p : Nat} (hp : p < 79) : s.bar0 (0x10000 + 256 * p + 0x20) = (s.dev.port p).pmemb := by
  have hport : (0x10000 + 256 * p + 0x20 - 0x10000) / 256 = p := by omega
  have hoff : (0x10000 + 256 * p + 0x20) % 256 = 0x20 := by omega
  simp (disch := omega) only [State.bar0, if_neg, if_pos, hport, hoff]
  rfl

theorem bar0_sigdrop (s : State) {c : Nat} (hc : c < 64) :
    s.bar0 (0x4000 + 64 * c + 0x10) = (s.core (coreId c)).sigdrop.zeroExtend 64 := by
  have hcore : (0x4000 + 64 * c + 0x10 - 0x4000) / 64 = c := by omega
  have hoff : (0x4000 + 64 * c + 0x10) % 64 = 0x10 := by omega
  simp (disch := omega) only [State.bar0, if_neg, if_pos, hcore, hoff]
  rfl

theorem bar0_member (s : State) {n : Nat} (hn : n < 1024) : s.bar0 (0x20000 + 8 * n) = Store.get 0 s.dev.member n := by
  have hidx : (0x20000 + 8 * n - 0x20000) / 8 = n := by omega
  simp (disch := omega) only [State.bar0, if_neg, if_pos, hidx]

/-! ### Writes of BAR0 -/

/-- An answered write of 8 bytes writes the whole word. -/
theorem exec_bar0_write {s : State} {off : Nat} (hfr : s.dev.frozen = false) (hal : off % 8 = 0) (hlt : off < 2 ^ 26)
    (hready : s.ready = true ∨ off < 0x2000) (v : W64) :
    exec (.registerWrite 0 off 8 (some v)) s = .next (s.bar0Write off v v) := by
  have hans : s.answers 0 off 8 = true := by rw [answers_bar0 hfr (.inr rfl) hal hlt]; simpa using hready
  have hword : off / 8 * 8 = off := by omega
  have hand : v &&& 0xFFFFFFFFFFFFFFFF#64 = v := BitVec.and_allOnes
  rw [exec_answered_write hans]
  simp [State.registerWrite, hal, hword, hfr, hand]

/-- The identity page and the mailbox take writes before READY too. -/
theorem exec_early_write {s : State} {off : Nat} (hfr : s.dev.frozen = false) (hal : off % 8 = 0) (hlt : off < 0x2000)
    (v : W64) : exec (.registerWrite 0 off 8 (some v)) s = .next (s.bar0Write off v v) :=
  exec_bar0_write hfr hal (by omega) (.inr hlt) v

/-- Before READY the registers beyond them are not answered. -/
theorem exec_late_write_before_ready {s : State} {off : Nat} (hfr : s.dev.frozen = false) (hready : s.ready = false)
    (hge : 0x2000 ≤ off) (hlt : off < 2 ^ 26) (hal : off % 8 = 0) (v : W64) :
    exec (.registerWrite 0 off 8 (some v)) s = .next { s with resp := s.resp ++ [none] } := by
  refine exec_unanswered ?_ (some v)
  rw [answers_bar0 hfr (.inr rfl) hal hlt, hready, Bool.false_or]
  exact decide_eq_false (Nat.not_lt.2 hge)

/-- A write to the upper half of a word keeps the lower half. -/
theorem upper_half_written (x v : W64) :
    (x &&& ~~~((0xFFFFFFFF : W64) <<< 32)) ||| ((v <<< 32) &&& ((0xFFFFFFFF : W64) <<< 32)) =
      v.extractLsb' 0 32 ++ x.extractLsb' 0 32 := by
  have hmask : ∀ i < 64, ((0xFFFFFFFF : W64) <<< 32).getLsbD i = decide (32 ≤ i) := by decide
  apply BitVec.eq_of_getLsbD_eq
  intro i hi
  simp only [BitVec.getLsbD_or, BitVec.getLsbD_and, BitVec.getLsbD_not, BitVec.getLsbD_append, BitVec.getLsbD_shiftLeft,
    BitVec.getLsbD_extractLsb', hmask i hi]
  by_cases h : i < 32
  · simp [h, hi]
  · simp [h, show 32 ≤ i by omega, show i - 32 < 32 by omega, hi]

/-- FWADDR takes a write of its upper half. -/
theorem exec_fwAddr_upper {s : State} (hfr : s.dev.frozen = false) (v : W64) :
    exec (.registerWrite 0 0x34 4 (some v)) s =
      .next (s.modDev (fun d => { d with fwAddr := v.extractLsb' 0 32 ++ s.dev.fwAddr.extractLsb' 0 32 })) := by
  have hans : s.answers 0 0x34 4 = true := by
    rw [answers_bar0 hfr (.inl rfl) (by decide) (by decide)]
    exact Bool.or_true _
  rw [exec_answered_write hans, ← upper_half_written]
  simp only [State.registerWrite, hfr]
  rfl

/-- PWRLIM keeps its value when the one written is out of range (R436). -/
theorem exec_pwrlim_write {s : State} (hfr : s.dev.frozen = false) (v : W64) : exec (.registerWrite 0 0x80 8 (some v)) s =
    .next (if 1000 ≤ v.toNat ∧ v.toNat ≤ 3800 then s.modDev (fun d => { d with pwrlim := v }) else s) :=
  exec_early_write hfr rfl (by decide) v

theorem exec_reset_write {s : State} (hfr : s.dev.frozen = false) (v : W64) : exec (.registerWrite 0 0x28 8 (some v)) s =
    .next (if v.getLsbD 0 then s.restart else s) :=
  exec_early_write hfr rfl (by decide) v

section Ready

variable {s : State} (hfr : s.dev.frozen = false) (hready : s.ready = true) (v : W64)

include hfr hready

theorem exec_frings0_base_write : exec (.registerWrite 0 0x2000 8 (some v)) s = .next (s.modDev (fun d =>
    { d with frings := d.frings.set 0 { d.frings[0] with base := v &&& ~~~(0xFFF : W64) } })) := by
  rw [exec_bar0_write hfr rfl (by decide) (.inl hready)]
  simp only [State.bar0Write, hready]
  rfl

theorem exec_evmask_write {p : Nat} (hp : p < 79) : exec (.registerWrite 0 (0x10000 + 256 * p + 8) 8 (some v)) s =
    .next (s.modDev (fun d => d.modPort p (fun q => { q with evmask := v }))) := by
  have hport : (0x10000 + 256 * p + 8 - 0x10000) / 256 = p := by omega
  rw [exec_bar0_write hfr (by omega) (by omega) (.inl hready)]
  simp (disch := omega) only [State.bar0Write, hready, Bool.not_true, Bool.false_eq_true, if_false, if_neg, if_pos, hport]

theorem exec_region_write {n : Nat} (hn : n < 4096) :
    exec (.registerWrite 0 (0x24000 + 8 * n) 8 (some v)) s = .next (s.regionWrite n v) := by
  have hidx : (0x24000 + 8 * n - 0x24000) / 8 = n := by omega
  rw [exec_bar0_write hfr (by omega) (by omega) (.inl hready)]
  simp (disch := omega) only [State.bar0Write, hready, Bool.not_true, Bool.false_eq_true, if_false, if_neg, if_pos, hidx]

theorem exec_member_write {n : Nat} (hn : n < 1024) :
    exec (.registerWrite 0 (0x20000 + 8 * n) 8 (some v)) s = .next (s.memberWrite n v) := by
  have hidx : (0x20000 + 8 * n - 0x20000) / 8 = n := by omega
  rw [exec_bar0_write hfr (by omega) (by omega) (.inl hready)]
  simp (disch := omega) only [State.bar0Write, hready, Bool.not_true, Bool.false_eq_true, if_false, if_neg, if_pos, hidx]

end Ready

/-- A FENCED region takes its place from the word; it stays FENCED (R334, R431). -/
theorem regionWrite_fenced {s : State} {n : Nat} (h : (s.dev.region n).st = 2) (w : W64) :
    (s.regionWrite n w).dev.region n = ⟨bitsOf w.toNat 51 30, bitsOf w.toNat 1 0, 2⟩ := by
  simp only [State.regionWrite, h, ne_eq, not_true_eq_false, if_false]
  exact (get_set regionDefault s.dev.regions n _ n).trans (if_pos rfl)

theorem regionWrite_not_fenced {s : State} {n : Nat} (h : (s.dev.region n).st ≠ 2) (w : W64) : s.regionWrite n w = s := if_pos h

theorem memberWrite_member (s : State) (n : Nat) (w : W64) :
    Store.get 0 (s.memberWrite n w).dev.member n = w &&& 0xE3FF000000FFFFFF :=
  (get_set 0 s.dev.member n _ n).trans (if_pos rfl)

/-! ### A frozen device (R434) -/

theorem exec_scanaddr_frozen {s : State} (hfr : s.dev.frozen = true) (v : W64) :
    exec (.registerWrite 0 0x100000 8 (some v)) s =
      .next (s.modDev (fun d => { d with scanChain := bitsOf v.toNat 15 8, scanWord := bitsOf v.toNat 63 16 })) := by
  have hans : s.answers 0 0x100000 8 = true := (answers_frozen_iff hfr _ _ _).2 (by decide)
  have hand : v &&& 0xFFFFFFFFFFFFFFFF#64 = v := BitVec.and_allOnes
  rw [exec_answered_write hans]
  simp [State.registerWrite, hfr, hand]

theorem exec_scandata_write_frozen {s : State} (hfr : s.dev.frozen = true) (v : W64) :
    exec (.registerWrite 0 0x100008 8 (some v)) s = .next s := by
  have hans : s.answers 0 0x100008 8 = true := (answers_frozen_iff hfr _ _ _).2 (by decide)
  rw [exec_answered_write hans]
  simp [State.registerWrite, hfr]

/-- A frozen device answers no register beside the two of the read-out. -/
theorem exec_frozen_other {s : State} (hfr : s.dev.frozen = true) {bar off : Nat} (h : bar ≠ 0 ∨ off / 16 ≠ 0x10000)
    (size : Nat) (x : Option W64) : exec (.registerWrite bar off size x) s = .next { s with resp := s.resp ++ [none] } := by
  refine exec_unanswered (Bool.eq_false_iff.2 fun hans => ?_) x
  obtain ⟨_, _, hbar, hoff⟩ := (answers_frozen_iff hfr bar off size).1 hans
  exact h.elim (fun hne => hne hbar) (fun hne => hne hoff)

theorem exec_scandata_answers {s : State} (h : s.dev.frozen = true ∨ s.ready = true) :
    exec .scandata s = .next (s.scanRead 0 8) := by
  have hc : (s.dev.frozen || s.ready) = true := by simpa using h
  exact congrArg Host.Outcome.next (if_pos hc)

theorem scanRead_word_resp (s : State) : (s.scanRead 0 8).resp =
    s.resp ++ [some (natBytes 8 (Config.scanWord s.dev.scanChain s.dev.scanWord s.free).toNat, false)] := by
  have htake := List.take_of_length_le (natBytes_length 8 (Config.scanWord s.dev.scanChain s.dev.scanWord s.free).toNat).le
  simp [State.scanRead, htake]

/-! ### Boot (R363, R432) -/

theorem getLsbD_setBit (w : W64) {n k : Nat} (hn : n < 64) (hk : k < 64) (b : Bool) :
    (setBit w n b).getLsbD k = if k = n then b else w.getLsbD k := by
  have hone : ((1 : W64) <<< n).getLsbD k = decide (k = n) := by
    rw [BitVec.getLsbD_shiftLeft]
    by_cases h : k = n
    · simp [h, hn]
    · by_cases hlt : k < n
      · simp [h, hlt]
      · simp [h, show k - n ≠ 0 by omega]
  cases b with
  | true =>
    simp only [setBit, if_true, BitVec.getLsbD_or, hone]
    by_cases h : k = n <;> simp [h]
  | false =>
    simp only [setBit, Bool.false_eq_true, if_false, BitVec.getLsbD_and, BitVec.getLsbD_not, hone, hk, decide_true,
      Bool.true_and]
    by_cases h : k = n <;> simp [h]

/-- A register built bit by bit. -/
theorem getLsbD_foldl_setBit (f : Nat → Bool) {n k : Nat} (hn : n ≤ 64) (hk : k < 64) :
    ((List.range n).foldl (fun (m : W64) j => setBit m j (f j)) 0).getLsbD k = (decide (k < n) && f k) := by
  induction n with
  | zero => simp
  | succ n ih =>
    rw [List.range_succ, List.foldl_append, List.foldl_cons, List.foldl_nil, getLsbD_setBit _ hn hk, ih (by omega)]
    by_cases h : k = n
    · simp [h]
    · have hiff : k < n + 1 ↔ k < n := by omega
      simp [h, hiff]

/-- The state after self-test. -/
def selfTested (s : State) (pass : BitVec 8) : State :=
  s.modDev (fun d => { d with
    boot := 2, clusterPass := pass
    cemask := (List.range 64).foldl (fun (m : W64) k => setBit m k (Config.cemask.getLsbD k && pass.getLsbD (k / 8))) 0 })

theorem exec_bootWaitfw (s : State) (pass : BitVec 8) :
    exec (.bootWaitfw pass) s = .next (if 2 ≤ s.dev.boot then s else selfTested s pass) := rfl

theorem selfTested_cemask (s : State) (pass : BitVec 8) (k : Nat) (hk : k < 64) :
    (selfTested s pass).dev.cemask.getLsbD k = (Config.cemask.getLsbD k && pass.getLsbD (k / 8)) :=
  (getLsbD_foldl_setBit _ (Nat.le_refl 64) hk).trans (by simp [hk])

/-- The firmware starts the Chaperone of one core. -/
def startChap (fw : W64) (c : Core) : Core :=
  c.keep (fun a => { a with chap := { Eng.reset true with pc := fw, run := .run, arrived := true } })

/-- The firmware comes to a core, enabled or not. -/
def bootCore (s : State) (k : Nat) : State :=
  if s.dev.cemask.getLsbD k then s.modCore (coreId k) (startChap s.dev.fwAddr) else s

theorem coreId_val (c : CoreId) : coreId c.val = c := Fin.ext (Nat.mod_eq_of_lt c.isLt)

theorem foldl_bootCore_dev (n : Nat) (s : State) : ((List.range n).foldl bootCore s).dev = s.dev :=
  List.foldlRecOn (motive := fun t : State => t.dev = s.dev) _ _ rfl fun t ht k _ => by
    unfold bootCore
    split <;> exact ht

/-- The firmware comes to every core once. -/
theorem foldl_bootCore_core (s : State) (c : CoreId) {n : Nat} (hn : n ≤ 64) : ((List.range n).foldl bootCore s).core c =
    if c.val < n ∧ s.dev.cemask.getLsbD c.val = true then startChap s.dev.fwAddr (s.core c) else s.core c := by
  induction n with
  | zero => simp
  | succ n ih =>
    have hdev := foldl_bootCore_dev n s
    have ih := ih (by omega)
    rw [List.range_succ, List.foldl_append, List.foldl_cons, List.foldl_nil]
    generalize (List.range n).foldl bootCore s = t at hdev ih ⊢
    by_cases hc : c.val = n
    · obtain rfl := hc
      rw [if_neg (fun h => Nat.lt_irrefl _ h.1)] at ih
      unfold bootCore
      rw [hdev, coreId_val]
      by_cases he : s.dev.cemask.getLsbD c.val = true
      · rw [if_pos he, if_pos ⟨Nat.lt_succ_self _, he⟩, core_modCore_self, ih]
      · rw [if_neg he, if_neg (fun h => he h.2), ih]
    · have hkeep : (bootCore t n).core c = t.core c := by
        unfold bootCore
        split
        · refine core_modCore_ne _ _ _ _ fun h => hc ?_
          rw [h]
          exact Nat.mod_eq_of_lt hn
        · rfl
      have hiff : c.val < n + 1 ↔ c.val < n := by omega
      simp only [hkeep, ih, hiff]

/-- The state that firmware which passes its check leaves. -/
def firmwareStarted (s : State) : State := (List.range 64).foldl bootCore (s.modDev (fun d => { d with boot := 3 }))

theorem exec_firmwareCheck (s : State) (ok : Bool) : exec (.firmwareCheck ok) s =
    .next (if s.dev.boot ≠ 2 then s else if !ok then s.modDev (fun d => { d with boot := 4 }) else firmwareStarted s) := rfl

theorem exec_firmwareCheck_selfTested {s : State} (h : s.dev.boot = 2) (ok : Bool) : exec (.firmwareCheck ok) s =
    .next (if !ok then s.modDev (fun d => { d with boot := 4 }) else firmwareStarted s) := by
  rw [exec_firmwareCheck, if_neg (not_not.2 h)]

theorem firmwareStarted_boot (s : State) : (firmwareStarted s).dev.boot = 3 :=
  congrArg Dev.boot (foldl_bootCore_dev 64 (s.modDev (fun d => { d with boot := 3 })))

theorem firmwareStarted_core (s : State) (c : CoreId) : (firmwareStarted s).core c =
    if s.dev.cemask.getLsbD c.val = true then startChap s.dev.fwAddr (s.core c) else s.core c := by
  have h := foldl_bootCore_core (s.modDev (fun d => { d with boot := 3 })) c (Nat.le_refl 64)
  simp only [c.isLt, true_and] at h
  exact h

/-! ### Monitors (R435) -/

theorem modMonitor_monitors (d : Dev) {m : Nat} (h : m < 32) (f : Monitor → Monitor) :
    (d.modMonitor m f).monitors[m] = f d.monitors[m] := by
  simp [Dev.modMonitor, h]

theorem exec_monitorClear (s : State) (m : Nat) : exec (.monitorClear m) s =
    .next (if s.ready then s.modDev (fun d => d.modMonitor m Monitor.cleared) else s) := rfl

theorem exec_monitorSample (s : State) (m v : Nat) : exec (.monitorSample m v) s = execMonitorSample m v s := rfl

theorem exec_monitorSample_off {s : State} {m : Nat} (h : m < 32) (hoff : s.dev.monitors[m].en = false) (v : Nat) :
    exec (.monitorSample m v) s = .next s := by
  simp [exec_monitorSample, execMonitorSample, Dev.monitor, h, hoff]

/-- A monitor of a port's latency takes what has been measured. -/
theorem exec_monitorSample_port {s : State} {m : Nat} (h : m < 32) (hen : s.dev.monitors[m].en = true)
    (hsrc : s.dev.monitors[m].src = 3) (hunit : s.dev.monitors[m].unit < 79) (v : Nat) :
    exec (.monitorSample m v) s = .next (s.modDev (fun d => d.modMonitor m (fun x => x.take v))) := by
  have hmon : s.dev.monitor m = s.dev.monitors[m] := dif_pos h
  have hsample : s.sampleOf m v = some v := by simp [State.sampleOf, hmon, hsrc, hunit]
  simp [exec_monitorSample, execMonitorSample, hmon, hen, hsample]

section Take

variable (x : Monitor) {v : Nat} (hv : v < 2 ^ 32)

include hv

/-- A sample of 32 bits is counted as it is. -/
theorem toNat_sample : (BitVec.ofNat 32 (min v 0xFFFFFFFF)).toNat = v := by
  rw [BitVec.toNat_ofNat]
  omega

theorem take_mx : (x.take v).mx.toNat = max x.mx.toNat v := by
  simp only [Monitor.take, toNat_sample hv]
  split
  · rw [toNat_sample hv]
    omega
  · omega

theorem take_mn : (x.take v).mn.toNat = min x.mn.toNat v := by
  simp only [Monitor.take, toNat_sample hv]
  split
  · rw [toNat_sample hv]
    omega
  · omega

end Take

theorem take_bins (x : Monitor) (v : Nat) : Store.get 0 (x.take v).bins (sampleBin v) =
    min (2 ^ 32 - 1) (Store.get 0 x.bins (sampleBin v) + 1) :=
  (get_set 0 x.bins (sampleBin v) _ (sampleBin v)).trans (if_pos rfl)

theorem exec_freeze {i : Instr} (hi : i ∈ [Instr.frz, Instr.freezeN]) (s : State) :
    exec i s = .next (s.modDev (fun d => { d with frozen := true })) := by
  simp only [List.mem_cons, List.not_mem_nil, or_false] at hi
  rcases hi with rfl | rfl <;> rfl

/-- Every reset leaves the same state. -/
theorem exec_reset {i : Instr} (hi : i ∈ [Instr.powerOn, .fundamentalReset, .warmResetRequest, .wrstN, .hotReset,
    .secondaryBusReset]) (s : State) : exec i s = .next s.restart := by
  simp only [List.mem_cons, List.not_mem_nil, or_false] at hi
  rcases hi with rfl | rfl | rfl | rfl | rfl | rfl <;> rfl

/-! ### The obligation -/

/-- Settles O52: each clause is what the lemma named says of its access, word or pin. -/
theorem hostAccessEvents : Obligations.HostAccessEvents := by
  unfold Obligations.HostAccessEvents
  intro s
  refine ⟨fun off bs => ⟨fun hw => ?_, fun hw => ?_⟩, fun off len => ?_,
    fun bar off size v h => exec_unanswered (answers_bad_shape h) v,
    fun hready hfr off hal hlt hscan => exec_bar0_read hready hfr hal hlt hscan,
    ⟨rfl, rfl, rfl, rfl, rfl, rfl, rfl, rfl, fun p => bar0_pmemb s, fun c => bar0_sigdrop s, fun n => bar0_member s⟩,
    fun hfr v => ?_,
    fun hfr v => ⟨fun _ _ size y h => exec_frozen_other hfr h size y, exec_scandata_write_frozen hfr v, _,
      exec_scanaddr_frozen hfr v, rfl, rfl⟩,
    fun i hi => exec_freeze hi s,
    fun h => ⟨s.scanRead 0 8, _, exec_scandata_answers h, scanRead_word_resp s, rfl⟩,
    fun i hi => ⟨s.restart, exec_reset hi s, rfl, rfl, rfl, rfl, rfl, rfl, rfl, rfl, rfl, rfl⟩,
    fun pass => ⟨fun h => ?_, fun h => ?_⟩, fun h => ⟨exec_firmwareCheck_selfTested h false, firmwareStarted s,
      exec_firmwareCheck_selfTested h true, firmwareStarted_boot s, fun c => ⟨fun he => ?_, fun he => ?_⟩⟩,
    fun h ok => ?_, fun on => rfl, fun m hm => ?_⟩
  -- BAR4
  · exact ⟨bar4Written s off bs, by rw [exec_bar4Write, if_pos hw], bar4Written_hbm_written hw, bar4Written_hbm_other s off bs⟩
  · rw [exec_bar4Write, hw]
    rfl
  · intro a answers
    have hread := exec_bar4Read s off len
    refine ⟨fun hw => ?_, fun hw => ⟨?_, hRead_quiet (window_inHbm hw)⟩⟩
    · exact hread.trans (by rw [hw]; rfl)
    · exact hread.trans (by rw [hw]; rfl)
  -- register writes of a live device
  · refine ⟨exec_early_write hfr rfl (by decide) v, exec_early_write hfr rfl (by decide) v, ⟨_, exec_fwAddr_upper hfr v, rfl⟩,
      fun hv => ?_, fun hlo hhi => ?_, fun hv => ?_, exec_early_write hfr rfl (by decide) v,
      fun hready off hge hlt hal => exec_late_write_before_ready hfr hready hge hlt hal v,
      fun hready => ⟨exec_frings0_base_write hfr hready v, fun p => exec_evmask_write hfr hready v,
        fun n hn h => ⟨_, exec_region_write hfr hready v hn, regionWrite_fenced h v⟩, fun n hn h => ?_,
        fun n hn => ⟨_, exec_member_write hfr hready v hn, memberWrite_member s n v⟩⟩⟩
    · rw [exec_pwrlim_write hfr, if_neg (by omega)]
    · rw [exec_pwrlim_write hfr, if_pos ⟨hlo, hhi⟩]
    · rw [exec_reset_write hfr, if_pos hv]
    · rw [exec_region_write hfr hready v hn, regionWrite_not_fenced h]
  -- boot
  · exact ⟨selfTested s pass, by rw [exec_bootWaitfw, if_neg (Nat.not_le.2 h)], rfl, rfl, selfTested_cemask s pass⟩
  · rw [exec_bootWaitfw, if_pos h]
  · rw [firmwareStarted_core, if_pos he]
    exact ⟨rfl, rfl, rfl⟩
  · rw [firmwareStarted_core, he]
    rfl
  · rw [exec_firmwareCheck, if_pos h]
  -- monitors
  · intro x
    refine ⟨fun h => ⟨_, by rw [exec_monitorClear, if_pos h], ?_⟩, fun h => ?_, fun v hoff => exec_monitorSample_off hm hoff v,
      fun v hen hv hsrc hunit => ⟨_, exec_monitorSample_port hm hen hsrc hunit v, ?_⟩⟩
    · simp only [modDev_dev, modMonitor_monitors _ hm]
      exact ⟨rfl, rfl, fun k => rfl⟩
    · rw [exec_monitorClear, h]
      rfl
    · simp only [modDev_dev, modMonitor_monitors _ hm]
      exact ⟨take_mx x hv, take_mn x hv, take_bins x v⟩

end Sys2Proof.Proofs
end

section
/-! Words and their decoders (O6, O57, O58). A kernel word is its opcode, its header and its operand area (R23), and
`rawWord_of_encodeWord` says, row by row of the opcode table, that these give back the form they came from. A decoder
accepts exactly what it reads, finds well formed and encodes to the word again. -/

namespace Sys2Proof.Proofs

open Sys2Proof Sys2Proof.Machine Sys2Proof.Laws

/-! ### What the code field of a well-formed form is (R27)

Where one opcode has several rows, the row's check 3 fixes the field that chooses it. -/

theorem wfSy_code {u : SyUse} {f : SY} {c : Nat} (h : wfSy u f = true) (hu : u.code = some c) :
    f.code = BitVec.ofNat 8 c := by
  have hc : f.code.toNat = c := by
    simp only [wfSy, hu, Bool.and_eq_true, decide_eq_true_eq] at h
    exact h.1.2
  rw [← hc, BitVec.ofNat_toNat, BitVec.setWidth_eq]

/-- No kind of saved state has the code of CSAVE.END and CREST.END. -/
theorem wfSave_code_ne {h : Hdr} {f : SY} (hf : wfSave h f = true) : f.code ≠ 15 := by
  intro hc
  rw [wfSave, hc] at hf
  exact Bool.false_ne_true (Bool.and_eq_true_iff.1 hf).1

theorem wfSclose_imm {imm : BitVec 16} {f : ST} (h : wfSclose imm f = true) : f.imm = imm :=
  of_decide_eq_true (Bool.and_eq_true_iff.1 h).2

theorem vpop_fn {h : Hdr} {f : VT} (hf : WellFormed (.vpop h f) = true) : f.fn = 0 := by
  have hall : (f.plain && dstOk f.d && decide (tShape f.d ≠ 2) && srcOk f.a && isQueue f.a &&
    decide (f.b = 0)) = true := hf
  simp only [Bool.and_eq_true, and_assoc] at hall
  obtain ⟨hplain, -⟩ := hall
  exact of_decide_eq_true (Bool.and_eq_true_iff.1 hplain).2

/-! ### Kernel words (R17, R23, R31, R36) -/

/-- PMARK has a form for V and one for A under one opcode, and so has PCLR (R365). The decoder tells them apart by the TAG,
which check 3 does not read; this says that a form stands under its own TAG. -/
def ownTag : Instr → Prop
  | .pmarkV h _ | .pclrV h _ => h.tag = 2
  | .pmarkA h _ | .pclrA h _ => h.tag ≠ 2
  | _ => True

section Row
variable {F : Type} {k : Hdr → F → Instr} {dec : BitVec 72 → F} {enc : F → BitVec 72}
variable {h : Hdr} {f : F} {w : BitVec 96}

/-- A row that reads header and operands out of the word reads the form that the word holds. -/
theorem rawWord_row (hh : some (wHdr w) = some h) (hdec : ∀ f, dec (enc f) = f) (ha : wArea w = enc f)
    (hrow : rawWord w = some (k (wHdr w) (dec (wArea w)))) : rawWord w = some (k h f) := by
  rw [hrow, ha, hdec, Option.some.inj hh]

/-- `rawWord_row` where the header or a field of the form chooses the row. -/
theorem rawWord_chosen_row {P : Hdr → F → Prop} (hh : some (wHdr w) = some h) (hdec : ∀ f, dec (enc f) = f)
    (ha : wArea w = enc f) (hp : P h f)
    (hrow : P (wHdr w) (dec (wArea w)) → rawWord w = some (k (wHdr w) (dec (wArea w)))) : rawWord w = some (k h f) :=
  rawWord_row hh hdec ha (hrow (by rw [ha, hdec, Option.some.inj hh]; exact hp))

end Row

/-- A form is the one that the opcode of its own word names. -/
theorem rawWord_of_encodeWord {i : Instr} {w : BitVec 96} (he : encodeWord i = some w)
    (ht : (wTag w).toNat ∈ enginesOf (wOpc w).toNat) (hw : WellFormed i = true) (hi : ownTag i) : rawWord w = some i := by
  obtain ⟨ho, hh, ha⟩ := encodeWord_fields i w he
  have hon := List.contains_iff_mem.2 ht
  cases i with
  -- the opcodes of one row, class by class
  | add h f | sub h f | mul h f | mulh h f | mulhu h f | div h f | divu h f | rem h f | remu h f | and h f | or h f
  | xor h f | andn h f | orn h f | shl h f | shr h f | sar h f | rotl h f | min h f | max h f | minu h f | maxu h f
  | cmp h f | sel h f | lea h f | clz h f | ctz h f | popc h f | bext h f | bins h f | bset h f | bclr h f | putx h f
  | getx h f =>
    exact rawWord_row hh decS3_encS3 ha (by rw [rawWord, hon, Option.some.inj ho]; rfl)
  | addi h f | mfs h f | mts h f | spld h f | spst h f | pld h f | sld h f | sst h f =>
    exact rawWord_row hh decSI_encSI ha (by rw [rawWord, hon, Option.some.inj ho]; rfl)
  | pbr h f | br h f | bro h f | jmpl h f | loop h f | loopj h f | lbrk h f =>
    exact rawWord_row hh decBrF_encBrF ha (by rw [rawWord, hon, Option.some.inj ho]; rfl)
  | sopen h f | sstat h f | sfeed h f | sdrain h f | spref h f =>
    exact rawWord_row hh decST_encST ha (by rw [rawWord, hon, Option.some.inj ho]; rfl)
  | xcopy h f | xfill h f | xacc h f | xfao h f | xcas h f | xgath h f | xscat h f | xcmo h f | xsig h f | qpush h f
  | qpoll h f | tqpush h f =>
    exact rawWord_row hh decCM_encCM ha (by rw [rawWord, hon, Option.some.inj ho]; rfl)
  | nop h f | taskend h f | fence h f | ssig h f | swait h f | sset h f | barm h f | brst h f | rwaitf h f | rwaite h f
  | rclaim h f | trap h f | svc h f | yield h f | idle h f | tlbprobe h f =>
    exact rawWord_row hh decSY_encSY ha (by rw [rawWord, hon, Option.some.inj ho]; rfl)
  | vadd h f | vsub h f | vmul h f | vfma h f | vfms h f | vmin h f | vmax h f | vabs h f | vneg h f | vand h f | vor h f
  | vxor h f | vnot h f | vshl h f | vshr h f | vsar h f | vcmp h f | vmov h f | vcvt h f | vrqs h f | vmaci h f
  | vdot4 h f | vsfu h f | vrotr h f | vrotc h f | vbcr h f | vbcc h f | vredr h f | vredc h f | vtrn h f | vperm h f
  | zip2 h f | zip3 h f | zip4 h f | unzip2 h f | unzip3 h f | unzip4 h f | vlds h f | vsts h f | vpchk h f
  | vsplat h f =>
    exact rawWord_row hh decVT_encVT ha (by rw [rawWord, hon, Option.some.inj ho]; rfl)
  | vsel h f | cpush h f | cpop h f | viota h f =>
    exact rawWord_row hh decVM_encVM ha (by rw [rawWord, hon, Option.some.inj ho]; rfl)
  | mcfg h f | mldw h f | mldwq h f | mswap h f | mstr h f | mstrq h f | mmv h f | mspm h f | macz h f | macrd h f
  | macst h f | macld h f | mfin h f =>
    exact rawWord_row hh decMX_encMX ha (by rw [rawWord, hon, Option.some.inj ho]; rfl)
  -- the opcodes whose rows a code field tells apart
  | movi h f | moviZ h f | moviHi h f =>
    exact rawWord_chosen_row (P := fun _ f => f.sub = _) hh decSI_encSI ha
      (of_decide_eq_true (Bool.and_eq_true_iff.1 hw).2) fun hc => by
      rw [rawWord, hon, Option.some.inj ho]
      exact congrArg some (by rw [hc]; rfl)
  | movw h f | movwZ h f =>
    exact rawWord_chosen_row (P := fun _ f => f.mode = _) hh decSW_encSW ha (of_decide_eq_true hw) fun hc => by
      rw [rawWord, hon, Option.some.inj ho]
      exact congrArg some (by rw [hc]; rfl)
  | sclose h f | scloseAbort h f =>
    exact rawWord_chosen_row (P := fun _ f => f.imm = _) hh decST_encST ha (wfSclose_imm hw) fun hc => by
      rw [rawWord, hon, Option.some.inj ho]
      exact congrArg some (by rw [hc]; rfl)
  | bwait h f | bwaitTile h f | btestTile h f | btestStat h f | btestCnt h f | btestLate h f | rpub h f | rpubInit h f
  | rpubClose h f | rcons h f | rconsUpto h f | rconsPub h f | rconsCons h f | rconsClm h f | rconsDrops h f | rconsDropb h f
  | tlbinvPage h f =>
    exact rawWord_chosen_row (P := fun _ f => f.code = _) hh decSY_encSY ha
      (wfSy_code (Bool.and_eq_true_iff.1 hw).2 rfl) fun hc => by
      rw [rawWord, hon, Option.some.inj ho]
      exact congrArg some (by rw [hc]; rfl)
  | rett h f | rettAbort h f | csaveEnd h f | crestEnd h f | tlbinvAsid h f | tlbinvAll h f | sealWord h f | sealWait h f =>
    exact rawWord_chosen_row (P := fun _ f => f.code = _) hh decSY_encSY ha (wfSy_code hw rfl) fun hc => by
      rw [rawWord, hon, Option.some.inj ho]
      exact congrArg some (by rw [hc]; rfl)
  | csave h f | crest h f =>
    exact rawWord_chosen_row (P := fun _ f => f.code ≠ 15) hh decSY_encSY ha (wfSave_code_ne hw) fun hc => by
      rw [rawWord, hon, Option.some.inj ho]
      exact congrArg some (if_neg hc)
  | vpop h f =>
    exact rawWord_chosen_row (P := fun _ f => f.fn = _) hh decVT_encVT ha (vpop_fn hw) fun hc => by
      rw [rawWord, hon, Option.some.inj ho]
      exact congrArg some (by rw [hc]; rfl)
  | vpopSkip h f =>
    exact rawWord_chosen_row (P := fun _ f => f.fn = _) hh decVT_encVT ha
      (of_decide_eq_true (Bool.and_eq_true_iff.1 hw).2) fun hc => by
      rw [rawWord, hon, Option.some.inj ho]
      exact congrArg some (by rw [hc]; rfl)
  -- the opcodes whose rows the TAG tells apart
  | pmarkV h f | pclrV h f =>
    exact rawWord_chosen_row (P := fun h _ => h.tag = 2) hh decSY_encSY ha hi fun hc => by
      rw [rawWord, hon, Option.some.inj ho]
      exact congrArg some (if_pos hc)
  | pmarkA h f | pclrA h f =>
    exact rawWord_chosen_row (P := fun h _ => h.tag ≠ 2) hh decSY_encSY ha hi fun hc => by
      rw [rawWord, hon, Option.some.inj ho]
      exact congrArg some (if_neg hc)
  -- headers, sequencer words and events are no kernel words
  | _ => exact nomatch ho

/-- A form that was read is accepted when it passes its check. -/
theorem check_eq_ok_iff {b : Bool} {i j : Instr} :
    (if b then Except.ok j else Except.error (DecErr.reserved j)) = Except.ok i ↔ j = i ∧ b = true := by
  cases b <;> simp

theorem decodeWord_ok_iff {w : BitVec 96} {i : Instr} :
    decodeWord w = .ok i ↔ rawWord w = some i ∧ WellFormed i = true ∧ encodeWord i = some w := by
  unfold decodeWord
  cases rawWord w with
  | none => simp
  | some j =>
    refine check_eq_ok_iff.trans ?_
    simp only [Bool.and_eq_true, beq_iff_eq, Option.some.injEq]
    exact and_congr_right fun h => by rw [h]

/-- An opcode that is not assigned for the TAG names no form (check 1 of R27). -/
theorem rawWord_unassigned {w : BitVec 96} (h : (wTag w).toNat ∉ enginesOf (wOpc w).toNat) : rawWord w = none := by
  unfold rawWord
  exact if_pos (by simpa using h)

theorem decodeWord_unassigned {w : BitVec 96} (h : (wTag w).toNat ∉ enginesOf (wOpc w).toNat) :
    decodeWord w = .error .illegal := by rw [decodeWord, rawWord_unassigned h]

theorem assigned_of_rawWord {w : BitVec 96} {i : Instr} (h : rawWord w = some i) :
    (wTag w).toNat ∈ enginesOf (wOpc w).toNat :=
  by_contra fun hn => nomatch (rawWord_unassigned hn).symm.trans h

/-- What remains true of O6: the decoder undoes the encoder on every well-formed form that stands under its own TAG. -/
theorem decodeWord_of_encodeWord {i : Instr} {w : BitVec 96} (he : encodeWord i = some w)
    (ht : (wTag w).toNat ∈ enginesOf (wOpc w).toNat) (hw : WellFormed i = true) (hi : ownTag i) : decodeWord w = .ok i :=
  decodeWord_ok_iff.2 ⟨rawWord_of_encodeWord he ht hw hi, hw, he⟩

/-- PMARK's form for V under the TAG of A: its check 3 asks nothing of the TAG, and PMARK is assigned on A. -/
def pmarkVOnA : Instr := .pmarkV ⟨1, 0, 0, 0⟩ ⟨0, 0, 0, 0, 0, 0, 0, 0, 0, 0, 0⟩

theorem encodeWord_pmarkVOnA : encodeWord pmarkVOnA = some 0x4D1000000000000000000000 := rfl

/-- The decoder reads that word as A's form of PMARK. -/
theorem decodeWord_pmarkVOnA : decodeWord 0x4D1000000000000000000000 =
    .ok (.pmarkA ⟨1, 0, 0, 0⟩ ⟨0, 0, 0, 0, 0, 0, 0, 0, 0, 0, 0⟩) := rfl

/-- Refutes O6: under the TAG of A, PMARK's form for V still counts as well formed and its opcode is assigned, but its word
is read as A's form. Only PMARK and PCLR fail so: of every other form `decodeWord_of_encodeWord` says what O6 says. -/
theorem not_kernelWordRoundTrip : ¬ Obligations.KernelWordRoundTrip := by
  unfold Obligations.KernelWordRoundTrip
  intro h
  obtain ⟨w, he, hd⟩ := h pmarkVOnA ⟨1, 0, 0, 0⟩ 0x0D1 rfl rfl (by decide) (by decide)
  obtain rfl : 0x4D1000000000000000000000 = w := Option.some.inj (encodeWord_pmarkVOnA.symm.trans he)
  exact nomatch decodeWord_pmarkVOnA.symm.trans hd

/-! ### Section headers (R19) -/

theorem decodeHdr_encodeHdr (f : SecHdr) : decodeHdr (encodeHdr f) = f := by
  simp (disch := omega) only [decodeHdr, encodeHdr, extract_append_high, extract_append_low, extract_whole]

theorem encodeHdr_decodeHdr (x : BitVec 64) : encodeHdr (decodeHdr x) = x := by
  simp (disch := omega) only [encodeHdr, decodeHdr, BitVec.extractLsb'_append_extractLsb'_eq_extractLsb', extract_whole]

/-! ### Sequencer words (R391, R392) -/

/-- A sequencer word of an opcode and the fields below it. -/
def seqWord (op : BitVec 8) (w : SeqW) : BitVec 64 := op ++ w.a ++ w.b ++ w.lo

/-- The fields below the opcode, as the decoder reads them. -/
def seqFields (x : BitVec 64) : SeqW := ⟨x.extractLsb' 52 4, x.extractLsb' 48 4, x.extractLsb' 0 48⟩

theorem opcode_seqWord (op : BitVec 8) (w : SeqW) : (seqWord op w).extractLsb' 56 8 = op := by
  simp (disch := omega) only [seqWord, extract_append_high, extract_whole]

theorem seqFields_seqWord (op : BitVec 8) (w : SeqW) : seqFields (seqWord op w) = w := by
  simp (disch := omega) only [seqFields, seqWord, extract_append_high, extract_append_low, extract_whole]

/-- The encoder's word of a sequencer form holds the form's opcode and fields. -/
theorem encodeSeq_fields {i : Instr} {x : BitVec 64} (he : encodeSeq i = some x) :
    seqOpOf i = some (x.extractLsb' 56 8, seqFields x) := by
  obtain ⟨⟨op, w⟩, ho, rfl⟩ := Option.map_eq_some_iff.1 he
  change _ = some ((seqWord op w).extractLsb' 56 8, seqFields (seqWord op w))
  rw [ho, opcode_seqWord, seqFields_seqWord]

/-- The f code that a row fixes. -/
theorem wfSeq_f {u : SeqUse} {w : SeqW} {c : Nat} (h : wfSeq u w = true) (hu : u.f = [c]) : w.f = BitVec.ofNat 4 c := by
  have hc : w.f.toNat = c := by
    simp only [wfSeq, hu, Bool.and_eq_true, List.contains_iff_mem, List.mem_singleton] at h
    exact h.2
  rw [← hc, BitVec.ofNat_toNat, BitVec.setWidth_eq]

section Row
variable {k : SeqW → Instr} {op : BitVec 8} {w : SeqW} {x : BitVec 64}

/-- A row reads the fields out of the word that holds them. -/
theorem rawSeq_row (ho : some (op, w) = some (x.extractLsb' 56 8, seqFields x))
    (hrow : x.extractLsb' 56 8 = op → rawSeq x = some (k (seqFields x))) : rawSeq x = some (k w) := by
  obtain ⟨hop, hw⟩ := Prod.mk.inj (Option.some.inj ho)
  rw [hrow hop.symm, hw]

/-- `rawSeq_row` where the f code chooses the row. -/
theorem rawSeq_chosen_row {c : BitVec 4} (ho : some (op, w) = some (x.extractLsb' 56 8, seqFields x)) (hf : w.f = c)
    (hrow : x.extractLsb' 56 8 = op → (seqFields x).f = c → rawSeq x = some (k (seqFields x))) :
    rawSeq x = some (k w) := by
  obtain ⟨hop, hw⟩ := Prod.mk.inj (Option.some.inj ho)
  rw [hrow hop.symm (hw ▸ hf), hw]

end Row

/-- A sequencer form is the one that the opcode of its own word names. -/
theorem rawSeq_of_encodeSeq {i : Instr} {x : BitVec 64} (he : encodeSeq i = some x) (hw : WellFormed i = true) :
    rawSeq x = some i := by
  have ho := encodeSeq_fields he
  cases i with
  -- the opcodes of one row
  | halt w | mov w | seqMovi w | seqAdd w | seqSub w | seqAnd w | seqOr w | seqXor w | seqShl w | seqShr w | seqCmp w
  | seqBr w | call w | ret w | ldx w | stx w | evwait w | evpop w | cmdpop w | semw w | dline w | put w | putm w | get w
  | atom w | redc w | retx w | xplan w | xstep w | keyld w | keysw w =>
    exact rawSeq_row ho fun hop => by rw [rawSeq, hop]; rfl
  -- the opcodes whose rows the f code tells apart
  | brcNz w | brcZ w | semsDone w | flowOpen w | flowClose w | flowStat w =>
    refine rawSeq_chosen_row ho (wfSeq_f hw rfl) fun hop hf => ?_
    rw [seqFields] at hf
    rw [rawSeq, hop]
    exact congrArg some (by rw [hf]; rfl)
  | sems w =>
    refine rawSeq_chosen_row ho (wfSeq_f (Bool.and_eq_true_iff.1 hw).1 rfl) fun hop hf => ?_
    rw [seqFields] at hf
    rw [rawSeq, hop]
    exact congrArg some (by rw [hf]; rfl)
  -- headers, kernel words and events are no sequencer words
  | _ => exact nomatch ho

theorem decodeSeq_ok_iff {x : BitVec 64} {i : Instr} :
    decodeSeq x = .ok i ↔ rawSeq x = some i ∧ WellFormed i = true ∧ encodeSeq i = some x := by
  unfold decodeSeq
  cases rawSeq x with
  | none => simp
  | some j =>
    refine check_eq_ok_iff.trans ?_
    simp only [Bool.and_eq_true, beq_iff_eq, Option.some.injEq]
    exact and_congr_right fun h => by rw [h]

/-! ### The obligations -/

/-- Settles O58: a decoder accepts what it reads, finds well formed and encodes to the word again; a kernel word's fields
give its instruction's TAG, and a sequencer word's opcode and f code its row. -/
theorem decodersAreExact : Obligations.DecodersAreExact := by
  unfold Obligations.DecodersAreExact
  refine ⟨fun w i h => ?_, fun w v i hw hv => ?_, fun w => decodeWord_unassigned, decodeHdr_encodeHdr, encodeHdr_decodeHdr,
    fun i x he hw => decodeSeq_ok_iff.2 ⟨rawSeq_of_encodeSeq he hw, hw, he⟩, fun x i h => (decodeSeq_ok_iff.1 h).2⟩
  · obtain ⟨hr, hwf, he⟩ := decodeWord_ok_iff.1 h
    obtain ⟨-, hh, -⟩ := encodeWord_fields i w he
    exact ⟨hwf, he, ⟨wHdr w, hh.symm, rfl⟩, assigned_of_rawWord hr⟩
  · obtain ⟨-, -, hew⟩ := decodeWord_ok_iff.1 hw
    obtain ⟨-, -, hev⟩ := decodeWord_ok_iff.1 hv
    exact Option.some.inj (hew.symm.trans hev)

/-- Settles O57: the nine words are read one by one. -/
theorem workedEncodings : Obligations.WorkedEncodings := by
  unfold Obligations.WorkedEncodings
  exact ⟨⟨_, rfl, rfl, rfl, rfl, rfl⟩, ⟨_, rfl, rfl, rfl, rfl, rfl, rfl⟩, ⟨_, rfl, rfl, rfl, rfl⟩,
    ⟨_, rfl, rfl, rfl, rfl, rfl⟩, ⟨_, rfl, rfl, rfl, rfl, rfl, rfl, rfl, rfl⟩, ⟨_, rfl, rfl, rfl, rfl, rfl⟩,
    ⟨_, rfl, rfl, rfl, rfl, rfl⟩, ⟨_, rfl, rfl, rfl, rfl⟩, rfl⟩

end Sys2Proof.Proofs
end

section
/-! Section headers (O44). A header is checked, and then either entered or answered with a trap. Entering kernel text
counts the section, notes its SID and enters it; what a loop's HEAD notes beside that touches neither the
engine, nor the SIDs, nor a memory (`SameEntry`). -/

namespace Sys2Proof.Proofs

open Sys2Proof Sys2Proof.Machine Sys2Proof.Laws

/-! ### The checks of a header (R20, R22) -/

theorem headerFault_format {f : SecHdr} (h : f.mark ≠ 0xE5 ∨ xorBytes (encodeHdr f) ≠ 0 ∨ f.len = 0) :
    headerFault f = some Code.sectionFormat := by
  unfold headerFault
  split
  next => rfl
  next hmark =>
    split
    next => rfl
    next hpar => rw [if_pos ((h.resolve_left hmark).resolve_left hpar)]

theorem headerFault_rsv {f : SecHdr} (h : f.rsv ≠ 0) : headerFault f ≠ none := by
  have hbad : (f.rsv ≠ 0 || badNoWait f.wc || badNoWait f.wa || badNoWait f.wv || badNoWait f.wm) = true := by
    simp only [decide_eq_true h, Bool.true_or]
  unfold headerFault
  rw [if_pos hbad]
  repeat' split
  all_goals exact Option.some_ne_none _

theorem of_headerFault_none {f : SecHdr} (h : headerFault f = none) :
    f.mark = 0xE5 ∧ f.len ≠ 0 ∧ f.rsv = 0 ∧ xorBytes (encodeHdr f) = 0 := by
  have hok : ¬(f.mark ≠ 0xE5 ∨ xorBytes (encodeHdr f) ≠ 0 ∨ f.len = 0) := fun hbad =>
    nomatch (headerFault_format hbad).symm.trans h
  simp only [not_or, not_not] at hok
  obtain ⟨hmark, hpar, hlen⟩ := hok
  exact ⟨hmark, hlen, not_not.1 fun hr => headerFault_rsv hr h, hpar⟩

/-! ### Memories -/

theorem sameMemory_refl (s : State) : s.sameMemory s := ⟨fun _ => rfl, fun _ => rfl, fun _ => rfl, fun _ _ => rfl⟩

theorem sameMemory_modHere (s : State) {f : Core → Core} (h : (f s.here).arch.scr = s.here.arch.scr) :
    s.sameMemory (s.modHere f) := by
  refine ⟨fun _ => rfl, fun _ => rfl, fun _ => rfl, fun c a => ?_⟩
  by_cases hc : c = s.cur.core
  · subst hc
    exact congrArg (Store.get 0 · a) ((congrArg (·.arch.scr) (here_modHere s f)).trans h)
  · rw [core_modHere_ne _ _ _ hc]

theorem sameMemory_trans {s t u : State} (h : s.sameMemory t) (g : t.sameMemory u) : s.sameMemory u := by
  obtain ⟨hhbm, hhost, hpool, hscr⟩ := h
  obtain ⟨ghbm, ghost, gpool, gscr⟩ := g
  exact ⟨fun a => (ghbm a).trans (hhbm a), fun a => (ghost a).trans (hhost a), fun o => (gpool o).trans (hpool o),
    fun c a => (gscr c a).trans (hscr c a)⟩

/-! ### What a header's entry leaves alone -/

theorem eng_modArch (s : State) (f : Arch → Arch) : (s.modArch f).eng = (f s.arch).eng s.cur.th := by
  simp [State.eng]

/-- The engine at the header, the SIDs noted and the memories are those of s. -/
structure SameEntry (s t : State) : Prop where
  eng : t.eng = s.eng
  sids : t.arch.sids = s.arch.sids
  memory : s.sameMemory t

theorem SameEntry.refl (s : State) : SameEntry s s := ⟨rfl, rfl, sameMemory_refl s⟩

theorem SameEntry.trans {s t u : State} (h : SameEntry s t) (g : SameEntry t u) : SameEntry s u :=
  ⟨g.eng.trans h.eng, g.sids.trans h.sids, sameMemory_trans h.memory g.memory⟩

theorem sameEntry_modArch (s : State) {f : Arch → Arch} (heng : (f s.arch).eng = s.arch.eng)
    (hsids : (f s.arch).sids = s.arch.sids) (hscr : (f s.arch).scr = s.arch.scr) : SameEntry s (s.modArch f) :=
  ⟨by rw [eng_modArch, heng]; rfl, by rw [arch_modArch, hsids], sameMemory_modHere s hscr⟩

theorem sameEntry_modLoop (s : State) (lc : Nat) (f : Loop → Loop) :
    SameEntry s (s.modArch (fun a => a.modLoop lc f)) := by
  have hloop : (s.arch.modLoop lc f).eng = s.arch.eng ∧ (s.arch.modLoop lc f).sids = s.arch.sids ∧
      (s.arch.modLoop lc f).scr = s.arch.scr := by
    unfold Arch.modLoop
    split
    next => exact ⟨funext fun t => by cases t <;> rfl, rfl, rfl⟩
    next => exact ⟨rfl, rfl, rfl⟩
  obtain ⟨heng, hsids, hscr⟩ := hloop
  exact sameEntry_modArch s heng hsids hscr

theorem sameEntry_requestCp (s : State) (k : CpKind) : SameEntry s (s.modHere (fun c => c.requestCp k)) := by
  have harch : (s.modHere (fun c => c.requestCp k)).arch = s.arch := by simp [State.arch]
  exact ⟨congrArg (fun a : Arch => a.eng s.cur.th) harch, congrArg Arch.sids harch, sameMemory_modHere s rfl⟩

/-! ### The parts of an entry into kernel text -/

/-- The first engine to come notes the section's SID (R106). -/
def sidNoted (s : State) (f : SecHdr) : State :=
  s.modArch (fun a => if a.sids.length = s.eng.inst then { a with sids := a.sids ++ [f.sid] } else a)

/-- V notes the count of SRCNT with which it enters a section (R54). -/
def drawsNoted (s : State) (inst : Nat) : State :=
  if s.cur.th = .v then s.modArch (fun a => { a with srAt := a.srAt.take inst ++ [a.srcnt] }) else s

/-- The section is counted and entered. -/
def counted (s : State) (f : SecHdr) : State :=
  (drawsNoted (sidNoted s f) s.eng.inst).modEng (fun e => { e.enter f with inst := s.eng.inst + 1, own := false })

/-- What an engine's innermost loop notes at its HEAD: the pass, and once the entry's commit point (R122, R123). -/
def headNoted (t : State) (l : LoopAt) (pc inst : Nat) : State :=
  if (t.arch.loopOf l).head = pc then
    let u := t.modArch (fun a => a.modLoop l.lc (fun lp => lp.enterHead l inst))
    if l.pass = (u.arch.loopOf l).r ∧ !(u.arch.loopOf l).entryCp ∧ u.arch.allEntered l.lc then
      (u.modArch (fun a => a.modLoop l.lc (fun lp => { lp with entryCp := true }))).modHere
        (fun c => c.requestCp (.loopEntry l.lc))
    else u
  else t

theorem enterText_eq (s : State) (f : SecHdr) : s.enterText f =
    match s.eng.loops with
    | [] => counted s f
    | l :: _ => headNoted (counted s f) l s.eng.pc.toNat s.eng.inst := rfl

theorem sidNoted_arch (s : State) (f : SecHdr) : (sidNoted s f).arch =
    if s.arch.sids.length = s.eng.inst then { s.arch with sids := s.arch.sids ++ [f.sid] } else s.arch := arch_modArch _ _

theorem sidNoted_eng (s : State) (f : SecHdr) : (sidNoted s f).eng = s.eng := by
  change (sidNoted s f).arch.eng s.cur.th = s.arch.eng s.cur.th
  rw [sidNoted_arch]
  split
  next => cases s.cur.th <;> rfl
  next => rfl

theorem sidNoted_sids (s : State) (f : SecHdr) : (sidNoted s f).arch.sids =
    if s.arch.sids.length = s.eng.inst then s.arch.sids ++ [f.sid] else s.arch.sids := by
  rw [sidNoted_arch, apply_ite Arch.sids]

theorem sidNoted_memory (s : State) (f : SecHdr) : s.sameMemory (sidNoted s f) := by
  refine sameMemory_modHere s ?_
  change Arch.scr (if _ then _ else _) = _
  rw [apply_ite Arch.scr]
  exact ite_self _

theorem sameEntry_drawsNoted (s : State) (inst : Nat) : SameEntry s (drawsNoted s inst) := by
  unfold drawsNoted
  split
  next => exact sameEntry_modArch s (funext fun t => by cases t <;> rfl) rfl rfl
  next => exact .refl s

theorem counted_eng (s : State) (f : SecHdr) :
    (counted s f).eng = { s.eng.enter f with inst := s.eng.inst + 1, own := false } := by
  rw [counted, eng_of_modEng, (sameEntry_drawsNoted _ _).eng, sidNoted_eng]

theorem counted_sids (s : State) (f : SecHdr) : (counted s f).arch.sids =
    if s.arch.sids.length = s.eng.inst then s.arch.sids ++ [f.sid] else s.arch.sids := by
  rw [counted, State.modEng, arch_modArch, archModEng_sids, (sameEntry_drawsNoted _ _).sids, sidNoted_sids]

theorem counted_memory (s : State) (f : SecHdr) : s.sameMemory (counted s f) :=
  sameMemory_trans (sameMemory_trans (sidNoted_memory s f) (sameEntry_drawsNoted _ _).memory)
    (sameMemory_modHere _ (archModEng_scr _ _ _))

theorem sameEntry_headNoted (t : State) (l : LoopAt) (pc inst : Nat) : SameEntry t (headNoted t l pc inst) := by
  unfold headNoted
  split
  next =>
    have hhead := sameEntry_modLoop t l.lc (fun lp => lp.enterHead l inst)
    dsimp only
    split
    next => exact (hhead.trans (sameEntry_modLoop _ _ _)).trans (sameEntry_requestCp _ _)
    next => exact hhead
  next => exact .refl t

/-- An entry counts the section, and beside that only a loop takes note. -/
theorem sameEntry_enterText (s : State) (f : SecHdr) : SameEntry (counted s f) (s.enterText f) := by
  rw [enterText_eq]
  split
  next => exact .refl _
  next => exact sameEntry_headNoted ..

/-! ### Which way a header goes -/

theorem exec_sectionHeader_text {f : SecHdr} {s : State} (hrun : s.eng.run = .run) (hth : s.cur.th ≠ .chap) :
    exec (.sectionHeader f) s = .next (s.textHeader f) := congrArg Host.Outcome.next (if_pos ⟨hrun, hth⟩)

theorem exec_sectionHeader_handler {f : SecHdr} {s : State} (hrun : s.eng.run = .handler) :
    exec (.sectionHeader f) s = .next (s.plainHeader f) :=
  congrArg Host.Outcome.next (if_neg fun h => absurd (hrun.symm.trans h.1) (by decide))

theorem plainHeader_fault {f : SecHdr} {s : State} {code : BitVec 8} (h : headerFault f = some code) :
    s.plainHeader f = s.trap code none := by
  unfold State.plainHeader
  rw [h]

theorem plainHeader_checked {f : SecHdr} {s : State} (h : headerFault f = none) : s.plainHeader f =
    if handlerHdrBad f then s.trap Code.sectionFormat none else s.modEng (fun e => e.enter f) := by
  unfold State.plainHeader
  rw [h]

theorem sealGate_open {f : SecHdr} {s : State} (h : f.sealf = 0 ∨ s.arch.sealPass = some s.eng.inst) :
    s.sealGate f = none := if_pos h

theorem recoveryHolds_none {s : State} (h : s.here.recov = none) : s.recoveryHolds = false := by
  rw [State.recoveryHolds, h]

theorem divert_enter {s : State} (h : s.here.preempt = none) (f : SecHdr) : s.divert f = .enter := by
  simp [State.divert, h]

section Text
variable {f : SecHdr} {s : State} (hrec : s.here.recov = none) (hpre : s.here.preempt = none)
include hrec hpre

/-- Without an iteration recovery and without a pre-emption, SLIPW alone holds an engine back (R109). -/
theorem textHeader_held (hslip : s.arch.slipOk s.cur.th = false) : s.textHeader f = s := by
  rw [State.textHeader, recoveryHolds_none hrec, divert_enter hpre, hslip]
  rfl

theorem textHeader_fault (hslip : s.arch.slipOk s.cur.th = true) {code : BitVec 8} (h : headerFault f = some code) :
    s.textHeader f = s.trap code none := by
  rw [State.textHeader, recoveryHolds_none hrec, divert_enter hpre, hslip, h]
  rfl

/-- After the checks of R22 come the common path (R106), the loops (R127) and the SEAL (R343). -/
theorem textHeader_checked (hslip : s.arch.slipOk s.cur.th = true) (h : headerFault f = none) : s.textHeader f =
    if decide (s.eng.inst < s.arch.sids.length) && s.arch.sids.getD s.eng.inst 0 ≠ f.sid then
      s.trap Code.sectionFormat none
    else if s.branchFault s.eng || s.bodyFault s.eng then s.trap Code.sectionFormat none
    else (s.sealGate f).getD (s.enterText f) := by
  rw [State.textHeader, recoveryHolds_none hrec, divert_enter hpre, hslip, h]
  cases s.sealGate f <;> rfl

theorem textHeader_other_sid (hslip : s.arch.slipOk s.cur.th = true) (h : headerFault f = none)
    (hinst : s.eng.inst < s.arch.sids.length) (hsid : s.arch.sids.getD s.eng.inst 0 ≠ f.sid) :
    s.textHeader f = s.trap Code.sectionFormat none := by
  rw [textHeader_checked hrec hpre hslip h, if_pos]
  exact Bool.and_eq_true_iff.2 ⟨decide_eq_true hinst, decide_eq_true hsid⟩

theorem textHeader_enter (hslip : s.arch.slipOk s.cur.th = true) (h : headerFault f = none)
    (hsid : s.arch.sids.length ≤ s.eng.inst ∨ s.arch.sids.getD s.eng.inst 0 = f.sid) (hbr : s.branchFault s.eng = false)
    (hbody : s.bodyFault s.eng = false) (hseal : s.sealGate f = none) : s.textHeader f = s.enterText f := by
  rw [textHeader_checked hrec hpre hslip h, hbr, hbody, hseal, if_neg]
  · rfl
  · simpa only [Bool.and_eq_true, decide_eq_true_eq, not_and_or, not_lt, not_not] using hsid

end Text

/-! ### The obligation -/

/-- Settles O44: the checks of R22 decide first, then the way a header goes: held, trapped, or entered. -/
theorem sectionHeaders : Obligations.SectionHeaders := by
  unfold Obligations.SectionHeaders
  intro f s
  refine ⟨fun h => headerFault_format (.inl h), fun _ _ h => headerFault_format (.inr (.inr h)),
    fun h => headerFault_format (.inr (.inl h)), of_headerFault_none, fun hrun hth hrec hpre => ?_, fun hrun => ?_⟩
  · rw [exec_sectionHeader_text hrun hth]
    refine ⟨fun hslip => by rw [textHeader_held hrec hpre hslip],
      fun hslip => ⟨fun code h => by rw [textHeader_fault hrec hpre hslip h], fun h =>
        ⟨fun hinst hsid => by rw [textHeader_other_sid hrec hpre hslip h hinst hsid],
          fun hsid hbr hbody hseal => ⟨s.enterText f, ?_, ?_⟩⟩⟩⟩
    · rw [textHeader_enter hrec hpre hslip h hsid hbr hbody (sealGate_open hseal)]
    · have hsame := sameEntry_enterText s f
      rw [hsame.eng, counted_eng, hsame.sids, counted_sids]
      exact ⟨rfl, rfl, rfl, rfl, rfl, rfl, rfl, sameMemory_trans (counted_memory s f) hsame.memory, rfl⟩
  · rw [exec_sectionHeader_handler hrun]
    exact ⟨fun code h => by rw [plainHeader_fault h], fun h hbad => by rw [plainHeader_checked h, if_pos hbad],
      fun h hok => by rw [plainHeader_checked h, hok]; rfl⟩

end Sys2Proof.Proofs
end

section
/-! Passes of the arrays (O37). A streamed row is one write of its accumulators and the poison marks of its arrays
(`passRow_eq`), so it changes only accumulators, their marks and what the Pan notes, and it does not look at the order of
scratchpad writes, which is what waiting for a barrier tile changes. What an accumulator becomes is read off that write. -/

namespace Sys2Proof.Proofs

open Sys2Proof Sys2Proof.Machine Sys2Proof.Laws

/-! ### Integer accumulation (R57) -/

theorem intPass_wraps (f : MX) (prod : Nat → Val) (acc : Nat) : intPass f false prod acc =
    ((intVal (32 * mStride f) true acc + ((List.range (mKps f)).map (fun k => (prod k).int)).sum) %
      2 ^ (32 * mStride f)).toNat := by
  have hsum : (List.range (mKps f)).foldl (fun (t : Int) k => t + (prod k).int) 0 =
      ((List.range (mKps f)).map (fun k => (prod k).int)).sum := by
    rw [List.sum_eq_foldl, List.foldl_map]
  simp only [intPass, intStore, wrapInt, hsum, Bool.false_eq_true, if_false]

theorem mUpdate_integer {f : MX} (h : accClass f.ta ≠ some 0) (sat : Bool) (r : MRow) (x : MStat) (n acc : Nat) :
    mUpdate f sat r x n acc = intPass f sat (mProd f r x n) acc := if_neg h

/-! ### One streamed row (R160, R167, R168) -/

/-- What a streamed row leaves in the accumulator of its output number k, whose column is o. -/
def rowUpdate (f : MX) (a : Arch) (x0 x1 : MStat) (m : Nat) (r : MRow) (o : Bool × Nat) (k : Nat) : Nat :=
  mUpdate f (a.arr o.1).cfg.sat r (if o.1 then x1 else x0) o.2
    (if f.z = 1 then 0 else a.accGet (mAcc f + mStride f * (m * mPerRow f) + mStride f * k) (mStride f))

/-- The containers that a streamed row writes, from its first accumulator on. -/
def rowVals (f : MX) (a : Arch) (x0 x1 : MStat) (m : Nat) (r : MRow) : List W32 :=
  ((mOuts f m).zipIdx.map (fun o => (List.range (mStride f)).map (fun h =>
    BitVec.ofNat 32 (rowUpdate f a x0 x1 m r o.1 o.2 / 2 ^ (32 * h))))).flatten

/-- The row or the array's stationary operand is poisoned (R185). -/
def rowPoisoned (x0 x1 : MStat) (r : MRow) (x : Bool) : Bool := r.poison || (if x then x1.poison else x0.poison)

/-- The poison marks that a streamed row leaves on the accumulators of one array. -/
def markRow (f : MX) (x0 x1 : MStat) (m : Nat) (r : MRow) (c : Core) (x : Bool) : Core :=
  if rowPoisoned x0 x1 r x then
    c.modArch (fun a => { a with
      accP := markWrite a.accP 256
        (mAcc f + mStride f * (m * mPerRow f) + mStride f * ((mOuts f m).findIdx? (fun o => o.1 = x)).getD 0)
        (mStride f * ((mOuts f m).filter (fun o => o.1 = x)).length) true })
  else c

/-- A streamed row is one write of containers, then the marks of each array. -/
theorem passRow_eq (c : Core) (f : MX) (x0 x1 : MStat) (m : Nat) (r : MRow) : c.passRow f x0 x1 m r =
    (mArrs f).foldl (markRow f x0 x1 m r)
      (c.accPut (mAcc f + mStride f * (m * mPerRow f)) (rowVals f c.arch x0 x1 m r) false true) := rfl

theorem mOuts_length (f : MX) (m : Nat) : (mOuts f m).length = mPerRow f := by
  unfold mOuts mPerRow
  split
  · simp
  · simp [List.length_flatten, Function.comp_def, Nat.mul_comm]

theorem rowVals_length (f : MX) (a : Arch) (x0 x1 : MStat) (m : Nat) (r : MRow) :
    (rowVals f a x0 x1 m r).length = mStride f * mPerRow f := by
  simp [rowVals, List.length_flatten, Function.comp_def, mOuts_length, Nat.mul_comm]

/-- With one container to an accumulator, a row writes its outputs one by one. -/
theorem rowVals_getD {f : MX} (hst : mStride f = 1) (a : Arch) (x0 x1 : MStat) (m : Nat) (r : MRow) {k : Nat}
    (hk : k < mPerRow f) : (rowVals f a x0 x1 m r).getD k 0 =
      BitVec.ofNat 32 (rowUpdate f a x0 x1 m r ((mOuts f m).getD k (false, 0)) k) := by
  have hlen : k < (mOuts f m).length := by rwa [mOuts_length]
  have hvals : rowVals f a x0 x1 m r =
      (mOuts f m).zipIdx.map (fun o => BitVec.ofNat 32 (rowUpdate f a x0 x1 m r o.1 o.2)) := by
    simp only [rowVals, hst, List.range_one, List.map_cons, List.map_nil, Nat.mul_zero, Nat.pow_zero, Nat.div_one,
      ← List.flatMap_def, ← List.map_eq_flatMap]
  simp [hvals, hlen]

theorem rowUpdate_one_container {f : MX} (hst : mStride f = 1) (a : Arch) (x0 x1 : MStat) (m : Nat) (r : MRow)
    (o : Bool × Nat) (k : Nat) : rowUpdate f a x0 x1 m r o k =
      mUpdate f (a.arr o.1).cfg.sat r (if o.1 then x1 else x0) o.2
        (if f.z = 1 then 0 else (Store.get 0 a.acc (mAcc f + m * mPerRow f + k)).toNat) := by
  simp [rowUpdate, hst, Arch.accGet]

/-! ### What a row and the start of a pass leave alone -/

/-- Of a core's restorable state only accumulators and their marks have changed. -/
def AccOnly (a b : Arch) : Prop := b = { a with acc := b.acc, accP := b.accP }

theorem AccOnly.trans {a b c : Arch} (h : AccOnly a b) (g : AccOnly b c) : AccOnly a c := by
  unfold AccOnly at h g ⊢
  rw [g, h]

theorem AccOnly.same {a b : Arch} (h : AccOnly a b) :
    b.scr = a.scr ∧ b.tiles = a.tiles ∧ b.leases = a.leases ∧ b.oq = a.oq := by
  unfold AccOnly at h
  rw [h]
  exact ⟨rfl, rfl, rfl, rfl⟩

/-- A change that only reaches accumulators and marks stays one through a fold. -/
theorem accOnly_foldl {β : Type} (g : Core → β → Core) (hg : ∀ c x, AccOnly c.arch (g c x).arch) (xs : List β) (c : Core) :
    AccOnly c.arch (xs.foldl g c).arch :=
  List.foldlRecOn (motive := fun d : Core => AccOnly c.arch d.arch) xs g rfl fun d hd x _ => hd.trans (hg d x)

theorem accPut_acc (c : Core) (k : Nat) (vs : List W32) (po keepMarks : Bool) :
    (c.accPut k vs po keepMarks).arch.acc = Store.put 0 c.arch.acc k vs := by
  simp [Core.accPut]

theorem accPut_accOnly (c : Core) (k : Nat) (vs : List W32) (po keepMarks : Bool) :
    AccOnly c.arch (c.accPut k vs po keepMarks).arch := by
  simp [AccOnly, Core.accPut]

section Row

variable (f : MX) (x0 x1 : MStat) (m : Nat) (r : MRow) (c : Core)

theorem markRow_acc (x : Bool) : (markRow f x0 x1 m r c x).arch.acc = c.arch.acc := by
  unfold markRow
  split <;> rfl

theorem markRow_accOnly (x : Bool) : AccOnly c.arch (markRow f x0 x1 m r c x).arch := by
  unfold markRow
  split <;> rfl

theorem passRow_acc : (c.passRow f x0 x1 m r).arch.acc =
    Store.put 0 c.arch.acc (mAcc f + mStride f * (m * mPerRow f)) (rowVals f c.arch x0 x1 m r) := by
  rw [passRow_eq, ← accPut_acc c _ _ false true]
  exact List.foldlRecOn (motive := fun d : Core => d.arch.acc = _) _ _ rfl fun d hd x _ =>
    (markRow_acc f x0 x1 m r d x).trans hd

theorem passRow_accOnly : AccOnly c.arch (c.passRow f x0 x1 m r).arch :=
  (accPut_accOnly c _ _ false true).trans (accOnly_foldl _ (markRow_accOnly f x0 x1 m r) _ _)

theorem passStart_accOnly (n : Nat) : AccOnly c.arch (c.passStart f n).arch := by
  unfold Core.passStart
  split <;> rfl

/-- Every container beside those of the row's accumulators stays. -/
theorem passRow_acc_outside {k : Nat}
    (hk : k < mAcc f + mStride f * (m * mPerRow f) ∨ mAcc f + mStride f * ((m + 1) * mPerRow f) ≤ k) :
    Store.get 0 (c.passRow f x0 x1 m r).arch.acc k = Store.get 0 c.arch.acc k := by
  have hend : mAcc f + mStride f * ((m + 1) * mPerRow f) =
      mAcc f + mStride f * (m * mPerRow f) + mStride f * mPerRow f := by ring
  rw [passRow_acc, get_put, rowVals_length]
  exact if_neg (by omega)

/-- Each container of a row whose accumulators are one container becomes its column's update. -/
theorem passRow_acc_inside (hst : mStride f = 1) {k : Nat} (hk : k < mPerRow f) :
    Store.get 0 (c.passRow f x0 x1 m r).arch.acc (mAcc f + m * mPerRow f + k) =
      BitVec.ofNat 32 (rowUpdate f c.arch x0 x1 m r ((mOuts f m).getD k (false, 0)) k) := by
  rw [passRow_acc, get_put, rowVals_length, hst, Nat.one_mul, Nat.one_mul, if_pos (by omega), Nat.add_sub_cancel_left,
    rowVals_getD hst _ _ _ _ _ hk]

end Row

/-! ### The order of scratchpad writes is nothing to a row (R228, R233) -/

/-- A core with other notes on the order of its scratchpad writes. -/
def withLog (l : List ScrWr) (c : Core) : Core := c.modArch (fun a => { a with scrLog := l })

/-- What a fold does commutes with a change that each of its steps commutes with. -/
theorem foldl_withLog {β : Type} (l : List ScrWr) (g : Core → β → Core) (hg : ∀ c x, g (withLog l c) x = withLog l (g c x))
    (xs : List β) (c : Core) : xs.foldl g (withLog l c) = withLog l (xs.foldl g c) :=
  List.foldl_hom (withLog l) hg

theorem shade_withLog (l : List ScrWr) (c : Core) (st : StoreId) (w : Writer) (gran : Nat) :
    (withLog l c).shade st w gran = withLog l (c.shade st w gran) := by
  unfold Core.shade
  simp only
  rw [apply_ite (withLog l)]
  rfl

theorem shadeRun_withLog (l : List ScrWr) (c : Core) (st : StoreId) (w : Writer) (gran first n : Nat) :
    (withLog l c).shadeRun st w gran first n = withLog l (c.shadeRun st w gran first n) := by
  unfold Core.shadeRun
  split
  · rfl
  · exact foldl_withLog l _ (fun c _ => shade_withLog l c st w _) _ c

theorem accPut_withLog (l : List ScrWr) (c : Core) (k : Nat) (vs : List W32) (po keepMarks : Bool) :
    (withLog l c).accPut k vs po keepMarks = withLog l (c.accPut k vs po keepMarks) := by
  unfold Core.accPut
  rw [shadeRun_withLog]
  rfl

theorem markRow_withLog (l : List ScrWr) (f : MX) (x0 x1 : MStat) (m : Nat) (r : MRow) (c : Core) (x : Bool) :
    markRow f x0 x1 m r (withLog l c) x = withLog l (markRow f x0 x1 m r c x) := by
  unfold markRow
  split <;> rfl

theorem passRow_withLog (l : List ScrWr) (f : MX) (x0 x1 : MStat) (m : Nat) (r : MRow) (c : Core) :
    (withLog l c).passRow f x0 x1 m r = withLog l (c.passRow f x0 x1 m r) := by
  rw [passRow_eq, passRow_eq, accPut_withLog, foldl_withLog l _ (markRow_withLog l f x0 x1 m r)]
  rfl

theorem passStart_withLog (l : List ScrWr) (f : MX) (n : Nat) (c : Core) :
    (withLog l c).passStart f n = withLog l (c.passStart f n) := by
  unfold Core.passStart
  split <;> rfl

/-! ### All rows of a pass -/

/-- The core after the n streamed rows of a pass. -/
def passRows (f : MX) (x0 x1 : MStat) (row : Nat → MRow) (n : Nat) (c : Core) : Core :=
  (List.range n).foldl (fun k m => k.passRow f x0 x1 m (row m)) (c.passStart f n)

section Rows

variable (f : MX) (x0 x1 : MStat) (row : Nat → MRow) (n : Nat) (c : Core)

theorem passRows_accOnly : AccOnly c.arch (passRows f x0 x1 row n c).arch :=
  (passStart_accOnly f c n).trans (accOnly_foldl _ (fun k m => passRow_accOnly f x0 x1 m (row m) k) _ _)

theorem passRows_withLog (l : List ScrWr) :
    passRows f x0 x1 row n (withLog l c) = withLog l (passRows f x0 x1 row n c) := by
  unfold passRows
  rw [passStart_withLog]
  exact foldl_withLog l _ (fun k m => passRow_withLog l f x0 x1 m (row m) k) _ _

end Rows

/-! ### The wait for a barrier tile (R233) -/

theorem order_here (s : State) (r : Nat) (p : ScrWr → Bool) (q : MemWr → Bool) :
    ∃ l, (s.order s.cur.core r p q).here = withLog l s.here :=
  ⟨(s.arch.order r p).scrLog, core_modCore_self s s.cur.core (fun c => c.modArch (fun a => a.order r p))⟩

/-- Having waited for its tile, M knows more of the order of scratchpad writes; nothing else of its core has changed. -/
theorem mAcquire_here (s : State) (f : MX) : ∃ l, (s.mAcquire f).here = withLog l s.here := by
  unfold State.mAcquire State.tileAcquire State.chunkAcquire
  split
  · simp only
    split <;> exact order_here s _ _ _
  · exact ⟨s.here.arch.scrLog, rfl⟩

/-! ### The end of a pass (R182) -/

/-- Two states of a core hold the same data: accumulators with their marks, scratchpad, main file, leases and queues. -/
structure SameData (a b : Arch) : Prop where
  acc : b.acc = a.acc
  accP : b.accP = a.accP
  scr : b.scr = a.scr
  tiles : b.tiles = a.tiles
  leases : b.leases = a.leases
  oq : b.oq = a.oq

theorem sameData_modArr (a : Arch) (x : Bool) (g : Arr → Arr) : SameData a (a.modArr x g) := by
  cases x <;> exact ⟨rfl, rfl, rfl, rfl, rfl, rfl⟩

theorem SameData.trans {a b c : Arch} (h : SameData a b) (g : SameData b c) : SameData a c :=
  ⟨g.acc.trans h.acc, g.accP.trans h.accP, g.scr.trans h.scr, g.tiles.trans h.tiles, g.leases.trans h.leases,
    g.oq.trans h.oq⟩

/-- The ports and the flight of a pass are no data of its core. -/
theorem passEnd_sameData (s : State) (f : MX) (fed : Nat) : SameData s.arch (s.passEnd f fed).arch := by
  have hports : SameData s.arch ((mArrs f).foldl (fun a x => a.modArr x (fun r => { r with portStream := fed })) s.arch) :=
    List.foldlRecOn (motive := fun a : Arch => SameData s.arch a) _ _ ⟨rfl, rfl, rfl, rfl, rfl, rfl⟩ fun a ha x _ =>
      ha.trans (sameData_modArr a x _)
  unfold State.passEnd State.mIssue
  rw [arch_modArch, arch_modArch]
  exact hports.trans ⟨rfl, rfl, rfl, rfl, rfl, rfl⟩

theorem panLacks_congr (old : Core) {c d : Core} (hhold : d.hold = c.hold) (hshad : d.shadows = c.shadows) :
    old.panLacks d = old.panLacks c := by
  unfold Core.panLacks Core.shadUsed Core.holdUsed
  rw [hhold, hshad]

/-- Ending a pass takes no room in the Pan. -/
theorem panLacks_passEnd (old : Core) (s : State) (f : MX) (fed : Nat) :
    old.panLacks (s.passEnd f fed).here = old.panLacks s.here := by
  unfold State.passEnd State.mIssue
  rw [here_modArch, here_modArch]
  rfl

/-! ### MSTR -/

/-- The state of an MSTR with the rows of its ranges rs applied and its leases taken. -/
def strRows (s : State) (f : MX) (rs : List MRange) (row : Nat → MRow) (n : Nat) : State :=
  ((s.mAcquire f).modHere (passRows f (s.arch.m0.stat f) (s.arch.m1.stat f) row n)).modArch
    (fun a => a.lease rs (s.cycle + n * mCpr f))

/-- The rows are those applied to the core as it was, with the order that the wait for a tile has added. -/
theorem strRows_here (s : State) (f : MX) (rs : List MRange) (row : Nat → MRow) (n : Nat) :
    ∃ l, (strRows s f rs row n).here =
      (withLog l (passRows f (s.arch.m0.stat f) (s.arch.m1.stat f) row n s.here)).modArch
        (fun a => a.lease rs (s.cycle + n * mCpr f)) := by
  obtain ⟨l, hl⟩ := mAcquire_here s f
  refine ⟨l, ?_⟩
  rw [strRows, here_modArch, here_modHere, hl, passRows_withLog]

theorem strRows_data (s : State) (f : MX) (rs : List MRange) (row : Nat → MRow) (n : Nat) :
    let c := passRows f (s.arch.m0.stat f) (s.arch.m1.stat f) row n s.here
    let t := strRows s f rs row n
    t.arch.acc = c.arch.acc ∧ t.arch.accP = c.arch.accP ∧ t.arch.scr = s.arch.scr ∧ t.arch.tiles = s.arch.tiles ∧
      t.arch.leases = s.arch.leases ++ rs.map (fun r => ⟨r.first, r.last, s.cycle + n * mCpr f⟩) := by
  intro c t
  obtain ⟨l, hhere⟩ := strRows_here s f rs row n
  have harch : t.arch = ({ c.arch with scrLog := l } : Arch).lease rs (s.cycle + n * mCpr f) := congrArg Core.arch hhere
  obtain ⟨hscr, htiles, hleases, _⟩ := (passRows_accOnly f (s.arch.m0.stat f) (s.arch.m1.stat f) row n s.here).same
  rw [harch]
  exact ⟨rfl, rfl, hscr, htiles, congrArg (· ++ _) hleases⟩

theorem exec_mstr (h : Hdr) (f : MX) (s : State) : exec (.mstr h f) s = execMstr h f s := rfl

theorem exec_mstr_done {h : Hdr} {f : MX} {s : State} {r sc : MRange} {rs : List MRange} {row : Nat → MRow} {n nb len : Nat}
    (hrun : runs (.mstr h f) h s) (hn : n = (s.arch.mcfgOf f).mrows) (hn0 : n ≠ 0) (hlen : len = mKps f * mBits f.tb / 8)
    (hnb : nb = mBlocks f f.tb) (hop : s.mOperand f (s.arch.mcfgOf f).pitchB n len = .range r)
    (hsc : sc = ⟨(s.arch.mcfgOf f).sclB, nb, n, nb⟩) (hrs : rs = if nb = 0 then [r] else [r, sc])
    (hrange : s.mRangeFault rs = none) (hpass : s.passFault f = none)
    (hport : s.arch.portBusy (mArrs f) s.cycle (fun m => m.portStream) = false)
    (hlease : s.arch.leaseLack rs.length = false)
    (hrow : ∀ m, row m = ⟨((s.mview f).scrRead (r.row m) len).toArray, mBits f.tb,
      ((s.mview f).scrRead (sc.row m) nb).toArray, s.arch.scrPoisoned (r.row m) len || s.arch.scrPoisoned (sc.row m) nb⟩)
    (hroom : s.here.panLacks (passRows f (s.arch.m0.stat f) (s.arch.m1.stat f) row n s.here) = false) :
    exec (.mstr h f) s = .next (s.wordDone ((strRows s f rs row n).passEnd f (s.cycle + n * mCpr f))) := by
  obtain ⟨l, hhere⟩ := strRows_here s f rs row n
  rw [exec_mstr, execMstr]
  refine runWord_done hrun ?_ ?_
  · subst hn hlen hnb hsc hrs
    rw [show row = _ from funext hrow]
    simp only [hn0, hop, hrange, hpass, hport, hlease, if_false, Bool.false_eq_true, or_self]
    rfl
  · rw [panRoom, panLacks_passEnd, hhere]
    exact hroom

/-! ### MSTRQ and MMV (R162, R178) -/

theorem here_foldl_modHere {β : Type} (g : β → Core → Core) (xs : List β) (s : State) :
    (xs.foldl (fun t x => t.modHere (g x)) s).here = xs.foldl (fun c x => g x c) s.here := by
  induction xs generalizing s with
  | nil => rfl
  | cons x xs ih => rw [List.foldl_cons, ih, here_modHere, List.foldl_cons]

theorem queue_eq_of_oq {s t : State} (h : t.arch.oq = s.arch.oq) (q : Nat) : t.queue q = s.queue q := by
  unfold State.queue
  rw [h]

/-- What a pop of n entries does to a core's restorable state. -/
def popEntries (q n : Nat) (a : Arch) : Arch :=
  { a with oq := a.oq.set (q % 8) ((a.oq[q % 8]'(Nat.mod_lt q (by decide))).drop n) (Nat.mod_lt q (by decide)) }

theorem popQueue_here (s : State) (q n : Nat) : (s.popQueue q n).here = s.here.modArch (popEntries q n) :=
  here_modArch s _

theorem queue_popQueue (s : State) (q n : Nat) : (s.popQueue q n).queue q = (s.queue q).drop n := by
  simp [State.queue, State.popQueue]

/-- What a queue-fed word has done when it has taken all its entries at once. -/
def drained (s : State) (q per total : Nat) (start : State → State) (step : State → Nat → List OqEnt → State) : State :=
  ((List.range total).foldl (fun t j => step t j (((s.queue q).drop (j * per)).take per)) (start s)).popQueue q (total * per)

/-- A queue-fed word that begins with all its entries in the queue takes them and ends. -/
theorem mDrain_all {s : State} {q per total cost : Nat} {pass : Bool} {start : State → State}
    {step : State → Nat → List OqEnt → State} {fin : State → Nat → State} (hprog : s.eng.prog = 0) (htotal : total ≠ 0)
    (hper : 0 < per) (hq : total * per ≤ (s.queue q).length)
    (hroom : s.here.panLacks (drained s q per total start step).here = false) :
    s.mDrain q per total cost pass start step fin = .done (fin (drained s q per total start step) (s.cycle + total * cost)) := by
  have hall : min ((s.queue q).length / per) total = total := Nat.min_eq_right ((Nat.le_div_iff_mul_le hper).2 hq)
  unfold drained at hroom ⊢
  simp only [State.mDrain, hprog, if_true, Nat.sub_zero, hall, htotal, if_false, Nat.zero_add, hroom, Bool.false_eq_true]

/-- Row m of a pass whose rows come from a queue. -/
def queueRow (s : State) (f : MX) (q per m : Nat) : MRow :=
  let es := ((s.queue q).drop (m * per)).take per
  let bs := (es.map (fun e => e.bytes)).flatten.toArray
  ⟨bs, typeWidth f.tb, if blockLen f.tb = 0 then #[] else bs.extract 192 256, es.any (fun e => e.poison)⟩

/-- The state of a queue pass with its rows applied and their entries taken. -/
def queueRows (s : State) (f : MX) (q per n : Nat) : State :=
  ((List.range n).foldl (fun t m => t.modHere (fun k => k.passRow f (s.arch.m0.stat f) (s.arch.m1.stat f) m
    (queueRow s f q per m))) (s.modHere (fun k => k.passStart f n))).popQueue q (n * per)

theorem exec_queue_pass {i : Instr} {h : Hdr} {f : MX} (hi : i = .mstrq h f ∨ i = .mmv h f) (s : State) :
    exec i s = runWord i h s (fun s => s.queuePass f) := by
  rcases hi with rfl | rfl <;> rfl

/-- The rows are those applied to the core as it was; then the queue gives up their entries. -/
theorem queueRows_here (s : State) (f : MX) (q per n : Nat) : (queueRows s f q per n).here =
    (passRows f (s.arch.m0.stat f) (s.arch.m1.stat f) (queueRow s f q per) n s.here).modArch (popEntries q (n * per)) := by
  rw [queueRows, popQueue_here, here_foldl_modHere, here_modHere]
  rfl

theorem queueRows_data (s : State) (f : MX) (q per n : Nat) :
    let c := passRows f (s.arch.m0.stat f) (s.arch.m1.stat f) (queueRow s f q per) n s.here
    let t := queueRows s f q per n
    t.arch.acc = c.arch.acc ∧ t.arch.accP = c.arch.accP ∧ t.arch.scr = s.arch.scr ∧ t.arch.tiles = s.arch.tiles ∧
      t.queue q = (s.queue q).drop (n * per) := by
  intro c t
  have harch : t.arch = popEntries q (n * per) c.arch := congrArg Core.arch (queueRows_here s f q per n)
  obtain ⟨hscr, htiles, _, hoq⟩ :=
    (passRows_accOnly f (s.arch.m0.stat f) (s.arch.m1.stat f) (queueRow s f q per) n s.here).same
  rw [harch]
  refine ⟨rfl, rfl, hscr, htiles, (queue_popQueue _ q (n * per)).trans (congrArg _ (queue_eq_of_oq ?_ q))⟩
  rw [State.arch, here_foldl_modHere, here_modHere]
  exact hoq

theorem exec_queuePass_done {i : Instr} {h : Hdr} {f : MX} {s : State} {n per q : Nat} (hi : i = .mstrq h f ∨ i = .mmv h f)
    (hrun : runs i h s) (hn : n = (s.arch.mcfgOf f).mrows) (hn0 : n ≠ 0)
    (hper : per = mEntries (mKps f) (typeWidth f.tb)) (hper0 : 0 < per) (hq : q = (f.spa.extractLsb' 0 3).toNat)
    (hpass : s.passFault f = none) (hprog : s.eng.prog = 0)
    (hport : s.arch.portBusy (mArrs f) s.cycle (fun m => m.portStream) = false) (hlen : n * per ≤ (s.queue q).length)
    (hroom : s.here.panLacks
      (passRows f (s.arch.m0.stat f) (s.arch.m1.stat f) (queueRow s f q per) n s.here) = false) :
    exec i s = .next (s.wordDone ((queueRows s f q per n).passEnd f (s.cycle + n * mCpr f))) := by
  have hrows : s.here.panLacks (queueRows s f q per n).here = false := by
    rw [queueRows_here]
    exact hroom
  rw [exec_queue_pass hi]
  refine runWord_done hrun ?_ ((panLacks_passEnd _ _ _ _).trans hrows)
  subst hn hper hq
  simp only [State.queuePass, hn0, hpass, hport, if_false, Bool.false_eq_true, and_false]
  exact mDrain_all hprog hn0 hper0 hlen hrows

/-! ### The obligation -/

/-- Settles O37: a pass is its rows applied in order and then its end, which moves no data; a row is one write of its
accumulators, each container the update of its old value. -/
theorem passWords : Obligations.PassWords := by
  unfold Obligations.PassWords
  refine ⟨fun h f s => ⟨?_, ?_⟩, fun f c x0 x1 m r => ⟨fun hst k hk => ?_, fun k => passRow_acc_outside f x0 x1 m r c,
    fun x n acc hint => ?_⟩⟩
  · intro r sc rs row c n nb len hrun hn hn0 hlen hnb hop hsc hrs hrange hpass hport hlease hrow hc hroom
    subst hc
    obtain ⟨hacc, haccP, hscr, htiles, hleases⟩ := strRows_data s f rs row n
    have hend := passEnd_sameData (strRows s f rs row n) f (s.cycle + n * mCpr f)
    exact ⟨_, exec_mstr_done hrun hn hn0 hlen hnb hop hsc hrs hrange hpass hport hlease hrow hroom,
      hend.acc.trans hacc, hend.accP.trans haccP, hend.scr.trans hscr, hend.tiles.trans htiles, hend.leases.trans hleases⟩
  · intro i row c n per q hi hrun hn hn0 hper hper0 hq hpass hprog hport hlen hrow hc hroom
    obtain rfl : row = queueRow s f q per := funext hrow
    subst hc
    obtain ⟨hacc, haccP, hscr, htiles, hqueue⟩ := queueRows_data s f q per n
    have hend := passEnd_sameData (queueRows s f q per n) f (s.cycle + n * mCpr f)
    exact ⟨_, exec_queuePass_done hi hrun hn hn0 hper hper0 hq hpass hprog hport hlen hroom,
      hend.acc.trans hacc, hend.accP.trans haccP, hend.scr.trans hscr, hend.tiles.trans htiles,
      (queue_eq_of_oq hend.oq q).trans hqueue⟩
  · rw [passRow_acc_inside f x0 x1 m r c hst hk, rowUpdate_one_container hst]
  · rw [mUpdate_integer hint, intPass_wraps]

end Sys2Proof.Proofs
end

section
/-! Reset values (O59): every core stands as `Core.reset`, and the tables of the device are empty, so that each entry reads
as its default. -/

namespace Sys2Proof.Proofs

open Sys2Proof Sys2Proof.Machine Sys2Proof.Laws

@[simp] theorem core_reset (c : CoreId) : State.reset.core c = Core.reset := by
  simp [State.core, State.reset]

theorem eng_reset (t : Thread) : Arch.reset.eng t = Eng.reset (decide (t = .chap)) := by
  cases t <;> rfl

@[simp] theorem bar_reset (n : Nat) : Arch.reset.bar n = Bar.reset := by
  simp [Arch.bar, Arch.reset]

@[simp] theorem ring_reset (n : Nat) : Arch.reset.ring n = Ring.reset := by
  simp [Arch.ring, Arch.reset]

@[simp] theorem stream_reset (n : Nat) : Arch.reset.stream n = Stream.reset := by
  simp [Arch.stream, Arch.reset]

@[simp] theorem port_reset (n : Nat) : Dev.reset.port n = Port.reset := by
  simp [Dev.port, Dev.reset]

@[simp] theorem monitor_reset (m : Nat) : Dev.reset.monitor m = Monitor.reset := by
  simp [Dev.monitor, Dev.reset]

theorem slot_reset (n k : Nat) : (Dev.reset.jobKey n).slot k = KeySlot.empty := by
  have h : Dev.reset.jobKey n = ⟨n, none, .empty, .empty⟩ := rfl
  simp [h, JobKey.slot]

/-- The values of one core after reset. -/
theorem core_reset_values : let a := Core.reset.arch
    a.bankPwr = 5 ∧ a.klim = 2 ^ 36 ∧ a.kwarn = 2 ^ 36 - 2 ^ 32 ∧ a.authmax = 8 ∧ a.poisonst = 0 ∧ a.pwstat = 0 ∧
    (∀ t, (a.eng t).status = (if t = .chap then 1 else 0) ∧ (a.eng t).cause = 0) ∧
    (∀ n, (a.bar n).st = .idle ∧ (a.bar n).arr = 0) ∧ (∀ n, (a.ring n).opened = false) ∧ (∀ n, (a.stream n).st = .closed) := by
  refine ⟨rfl, rfl, rfl, rfl, rfl, rfl, fun t => ?_, fun n => ?_, fun n => ?_, fun n => ?_⟩
  · change (Arch.reset.eng t).status = _ ∧ (Arch.reset.eng t).cause = 0
    rw [eng_reset]
    cases t <;> exact ⟨rfl, rfl⟩
  · exact ⟨congrArg Bar.st (bar_reset n), congrArg Bar.arr (bar_reset n)⟩
  · exact congrArg Ring.opened (ring_reset n)
  · exact congrArg Stream.st (stream_reset n)

/-- Settles O59: each value is read off `Core.reset`, `Dev.reset` or the default of an empty table. -/
theorem resetValues : Obligations.ResetValues := by
  unfold Obligations.ResetValues
  refine ⟨fun c => ?_, rfl, rfl, rfl, rfl, rfl, fun n => rfl, fun n => ?_, fun n => rfl, fun n => rfl, fun n => rfl, fun n k => ?_,
    fun n => rfl, fun m => ?_⟩
  · rw [core_reset]
    obtain ⟨hbank, hklim, hkwarn, hauth, hpois, hpw, heng, hbar, hring, hstream⟩ := core_reset_values
    exact ⟨hbank, hklim, hkwarn, hauth, hpois, hpw, heng, hbar, hring, hstream, fun _ => rfl, rfl, rfl, rfl, rfl, rfl, rfl, rfl, rfl, rfl, rfl⟩
  · change (Dev.reset.port n).st = .down ∧ (Dev.reset.port n).plerr = 0
    rw [port_reset]
    exact ⟨rfl, rfl⟩
  · exact congrArg KeySlot.st (slot_reset n k)
  · change (Dev.reset.monitor m).mn = 0xFFFFFFFF ∧ (Dev.reset.monitor m).mx = 0 ∧ (Dev.reset.monitor m).en = false
    rw [monitor_reset]
    exact ⟨rfl, rfl, rfl⟩

end Sys2Proof.Proofs
end

section
/-! Taking a trap (O16): outside a fatal case a trap of a kernel engine is one update of its own engine (`Eng.trap`) and of the
core's notes on results still to come. -/

namespace Sys2Proof.Proofs

open Sys2Proof Sys2Proof.Machine Sys2Proof.Laws

/-! ### What a change of the current core leaves alone -/

/-- A change of the current core's own state is seen nowhere else. -/
theorem sameOutside_modHere (s : State) (f : Core → Core) : s.sameOutside (s.modHere f) :=
  ⟨rfl, rfl, rfl, rfl, rfl, rfl, rfl, rfl, fun c hc => core_modHere_ne s f c hc⟩

/-! ### CAUSE (R307) -/

/-- The delay slot's target, as CAUSE holds it. -/
def causeTarget (d : Option (Bool × W64)) : BitVec 54 :=
  match d with
  | some (true, tgt) => tgt.extractLsb' 2 54
  | _ => 0

theorem causeOf_fields (code : BitVec 8) (d : Option (Bool × W64)) : causeOf code d =
    causeTarget d ++ BitVec.ofBool ((d.map Prod.fst).getD false) ++ BitVec.ofBool d.isSome ++ code := by
  rcases d with _ | ⟨_ | _, tgt⟩
  · exact BitVec.setWidth_eq_append (by omega)
  · rfl
  · rfl

theorem causeOf_code (code : BitVec 8) (d : Option (Bool × W64)) : (causeOf code d).extractLsb' 0 8 = code := by
  simp (disch := omega) only [causeOf_fields, extract_append_low, extract_whole]

theorem causeOf_target (code : BitVec 8) (d : Option (Bool × W64)) :
    (causeOf code d).extractLsb' 10 54 = causeTarget d := by
  simp (disch := omega) only [causeOf_fields, extract_append_high, extract_whole]

theorem causeOf_delay (code : BitVec 8) (d : Option (Bool × W64)) : (causeOf code d).getLsbD 8 = d.isSome := by
  rw [causeOf_fields, BitVec.getLsbD_append, BitVec.getLsbD_append]
  simp

theorem causeOf_taken (code : BitVec 8) (d : Option (Bool × W64)) :
    (causeOf code d).getLsbD 9 = (d.map Prod.fst).getD false := by
  rw [causeOf_fields, BitVec.getLsbD_append, BitVec.getLsbD_append, BitVec.getLsbD_append]
  simp

/-! ### STATUS (R306, R308) -/

theorem getLsbD_statusTrap (w : W64) (nx : Bool) (n : Nat) : (statusTrap w nx).getLsbD n =
    if n = 4 then w.getLsbD 0 else if n = 0 ∨ n = 1 then true else if n = 2 then nx else w.getLsbD n := by
  by_cases hn : n < 64
  · unfold statusTrap
    simp only [getLsbD_setBit _ _ hn, Nat.reduceLT, statusPriv]
    by_cases h4 : n = 4
    · simp [h4]
    · by_cases h2 : n = 2
      · simp [h2]
      · simp only [h4, h2, if_false]
        by_cases h1 : n = 1 <;> simp [h1]
  · rw [if_neg (by omega), if_neg (by omega), if_neg (by omega), BitVec.getLsbD_of_ge w n (by omega),
      BitVec.getLsbD_of_ge _ n (by omega)]

/-! ### The trap -/

/-- What a trap of a kernel engine does to the restorable state: its engine enters the handler, and no result of its own is
left to come. -/
def trapped (s : State) (code : BitVec 8) (ea : W64) (nx : Bool) (a : Arch) : Arch :=
  { (a.modEng s.cur.th (fun e => e.trap code ea nx)) with
    pend := a.pend.filter (fun p => p.th ≠ s.cur.th), named := a.named.filter (fun n => n.1 ≠ s.cur.th) }

theorem trapNx_kernel {s : State} {code : BitVec 8} (hth : s.cur.th ≠ .chap) (hfatal : s.eng.trapFatal code = false) (nx : Bool)
    (ea : W64) : s.trapNx nx code (some ea) = s.modArch (trapped s code ea nx) := by
  simp only [State.trapNx, State.given, if_neg hth, hfatal, Bool.false_eq_true, if_false]
  rfl

theorem trapped_eng (s : State) (code : BitVec 8) (ea : W64) (nx : Bool) (a : Arch) (t : Thread) :
    (trapped s code ea nx a).eng t = (a.modEng s.cur.th (fun e => e.trap code ea nx)).eng t := by
  cases t <;> rfl

/-- Settles O16: a trap is `Eng.trap` of its own engine, whose fields are read off, and no other engine, core or memory is
touched. -/
theorem trapEntry : Obligations.TrapEntry := by
  unfold Obligations.TrapEntry
  intro s nx code ea hth hfatal
  refine ⟨_, rfl, ?_⟩
  have heng : (s.trapNx nx code (some ea)).eng = s.eng.trap code ea nx := by
    rw [trapNx_kernel hth hfatal, eng_modArch, trapped_eng, eng_modEng_self]
    rfl
  rw [heng, trapNx_kernel hth hfatal]
  refine ⟨rfl, rfl, rfl, rfl, rfl, causeOf_code _ _, causeOf_delay _ _, causeOf_taken _ _, causeOf_target _ _,
    getLsbD_statusTrap _ _, rfl, rfl, rfl, rfl, rfl, rfl, ?_, fun t ht => ?_, sameOutside_modHere s _, ?_⟩
  · rw [arch_modArch]
    rfl
  · rw [arch_modArch, trapped_eng, eng_modEng_ne _ _ _ _ ht]
  · refine sameMemory_modHere s ?_
    change (s.arch.modEng s.cur.th _).scr = s.arch.scr
    exact archModEng_scr _ _ _

end Sys2Proof.Proofs
end

section
/-! The frame of the scalar words (O10): what such a word comes to is that it waits, or an update of its own engine which
leaves the saved state and every register but d (`KeepsBut`); its retirement is another such update. -/

namespace Sys2Proof.Proofs

open Sys2Proof Sys2Proof.Machine Sys2Proof.Laws

/-! ### Updates of the engine's registers (R61) -/

/-- From e to x the saved state stays, and of the general registers all but d. -/
structure KeepsBut (d : BitVec 5) (e x : Eng) : Prop where
  saved : e.sameSaved x
  regs : ∀ r, r ≠ d → x.getG r = e.getG r

theorem KeepsBut.trans {d : BitVec 5} {e x y : Eng} (h : KeepsBut d e x) (g : KeepsBut d x y) : KeepsBut d e y := by
  obtain ⟨⟨ht, hst, hca, hepc, hea, htv, hsp, hspP⟩, hregs⟩ := h
  obtain ⟨⟨gt, gst, gca, gepc, gea, gtv, gsp, gspP⟩, gregs⟩ := g
  exact ⟨⟨gt.trans ht, gst.trans hst, gca.trans hca, gepc.trans hepc, gea.trans hea, gtv.trans htv, gsp.trans hsp,
    gspP.trans hspP⟩, fun r hr => (gregs r hr).trans (hregs r hr)⟩

/-- An update that leaves registers and saved state alone. -/
theorem keepsBut_of_same {d : BitVec 5} {e x : Eng} (hs : e.sameSaved x) (hg : x.g = e.g) : KeepsBut d e x :=
  ⟨hs, fun r _ => by simp only [Eng.getG, hg]⟩

theorem keepsBut_setG (d : BitVec 5) (v : W64) (e : Eng) : KeepsBut d e (e.setG d v) :=
  ⟨⟨engSetG_t e d v, engSetG_status e d v, engSetG_cause e d v, engSetG_epc e d v, engSetG_eaddr e d v, engSetG_tvec e d v,
    engSetG_spill e d v, engSetG_spillP e d v⟩, fun r hr => by rw [getG_setG, if_neg (fun h => hr h.1)]⟩

theorem keepsBut_divBusy (d : BitVec 5) (n : Nat) (e : Eng) : KeepsBut d e { e with divBusy := n } :=
  keepsBut_of_same ⟨rfl, rfl, rfl, rfl, rfl, rfl, rfl, rfl⟩ rfl

theorem keepsBut_stalled (d : BitVec 5) (e : Eng) : KeepsBut d e { e with stalled := true } :=
  keepsBut_of_same ⟨rfl, rfl, rfl, rfl, rfl, rfl, rfl, rfl⟩ rfl

theorem keepsBut_retire (d : BitVec 5) (e : Eng) (was : Option (Bool × W64)) (now : Nat) : KeepsBut d e (e.retire was now) := by
  rcases was with _ | ⟨_ | _, tgt⟩ <;> exact keepsBut_of_same ⟨rfl, rfl, rfl, rfl, rfl, rfl, rfl, rfl⟩ rfl

/-- The end of a stall on the Pan counts its cycles (R348). -/
def panCounted (now : Nat) (e : Eng) : Eng :=
  match e.panSince with
  | some c0 => { e with stallcnt := e.stallcnt + BitVec.ofNat 64 (now - c0) }
  | none => e

theorem keepsBut_panCounted (d : BitVec 5) (now : Nat) (e : Eng) : KeepsBut d e (panCounted now e) := by
  unfold panCounted
  split <;> exact keepsBut_of_same ⟨rfl, rfl, rfl, rfl, rfl, rfl, rfl, rfl⟩ rfl

theorem wordDone_eq (s t : State) : s.wordDone t = (t.modEng (panCounted s.cycle)).retire s.eng.delay := rfl

/-! ### C's slot and the Chaperone's engine (R298, R299) -/

theorem slotUsed_kernel (c : Core) {t : Thread} (h : t ≠ .chap) (now : Nat) : c.slotUsed t now = c := by
  simp [Core.slotUsed, h]

theorem retiredUpTo_setChap (a : Arch) (x : Eng) {t : Thread} (h : t ≠ .chap) (now : Nat) :
    (a.setEng .chap x).retiredUpTo t now = a.retiredUpTo t now := by
  unfold Arch.retiredUpTo
  rw [eng_setEng_ne _ _ _ _ h, setEng_mflight]

theorem ofCode_ne_chap : ∀ b : BitVec 2, Thread.ofCode b ≠ .chap := by decide

theorem waitMet_setChap (a : Arch) (x : Eng) (now : Nat) : (a.setEng .chap x).waitMet .c now = a.waitMet .c now := by
  unfold Arch.waitMet
  simp only [eng_setEng_ne _ _ _ _ (ofCode_ne_chap _), retiredUpTo_setChap _ _ (ofCode_ne_chap _)]
  rfl

/-- Whether the Chaperone takes C's slot does not depend on its own engine. -/
theorem chapSlot_setChap (c : Core) (x : Eng) (now : Nat) :
    (c.modArch (fun a => a.setEng .chap x)).chapSlot now = c.chapSlot now := by
  unfold Core.chapSlot
  simp only [coreModArch_arch, waitMet_setChap]
  rfl

theorem slotUsed_setChap (c : Core) (x : Eng) (now : Nat) :
    (c.modArch (fun a => a.setEng .chap x)).slotUsed .chap now = (c.slotUsed .chap now).modArch (fun a => a.setEng .chap x) := by
  simp only [Core.slotUsed, chapSlot_setChap]
  rfl

/-! ### How such a word ends -/

theorem modHere_modHere (s : State) (f g : Core → Core) : (s.modHere f).modHere g = s.modHere (fun c => g (f c)) := by
  simp [State.modHere, State.modCore, State.setCore, State.core]

theorem setEng_setEng (a : Arch) (t : Thread) (x y : Eng) : (a.setEng t x).setEng t y = a.setEng t y := by cases t <;> rfl

/-- From s to u only the engine that runs has changed, and in it of registers and saved state only d; a word of the
Chaperone may have had C's slot. -/
def OwnEngine (d : BitVec 5) (s u : State) : Prop :=
  ∃ (c : Core) (x : Eng), (c = s.here ∨ (s.cur.th = .chap ∧ c = s.here.slotUsed .chap s.cycle)) ∧
    u = s.modHere (fun _ => c.modArch (fun a => a.setEng s.cur.th x)) ∧ KeepsBut d s.eng x

theorem ownEngine_modEng {d : BitVec 5} {s : State} {f : Eng → Eng} (h : KeepsBut d s.eng (f s.eng)) :
    OwnEngine d s (s.modEng f) := ⟨s.here, f s.eng, .inl rfl, rfl, h⟩

theorem ownEngine_refl (d : BitVec 5) (s : State) : OwnEngine d s s := by
  have h := ownEngine_modEng (d := d) (s := s) (f := id) (keepsBut_of_same ⟨rfl, rfl, rfl, rfl, rfl, rfl, rfl, rfl⟩ rfl)
  rwa [modEng_eq_self rfl] at h

theorem ownEngine_retire {d : BitVec 5} {s : State} {f : Eng → Eng} (h : KeepsBut d s.eng (f s.eng)) (was : Option (Bool × W64)) :
    OwnEngine d s ((s.modEng f).retire was) := by
  have hx : KeepsBut d s.eng ((f s.eng).retire was s.cycle) := h.trans (keepsBut_retire d _ was s.cycle)
  have hu : (s.modEng f).retire was = s.modHere (fun _ => ((s.here.modArch (fun a => a.setEng s.cur.th (f s.eng))).slotUsed
      s.cur.th s.cycle).modArch (fun a => a.modEng s.cur.th (fun e => e.retire was s.cycle))) := by
    unfold State.retire State.modEng State.modArch
    rw [modHere_modHere, modHere_modHere]
    rfl
  have hset : ∀ c : Core, (c.modArch (fun a => a.setEng s.cur.th (f s.eng))).modArch
      (fun a => a.modEng s.cur.th (fun e => e.retire was s.cycle)) =
        c.modArch (fun a => a.setEng s.cur.th ((f s.eng).retire was s.cycle)) := fun c => by
    simp only [Core.modArch, Arch.modEng, eng_setEng_self, setEng_setEng]
  by_cases hth : s.cur.th = .chap
  · refine ⟨s.here.slotUsed .chap s.cycle, _, .inr ⟨hth, rfl⟩, ?_, hx⟩
    rw [hu, ← hset, hth, slotUsed_setChap]
  · exact ⟨s.here, _, .inl rfl, by rw [hu, slotUsed_kernel _ hth, hset], hx⟩

/-- What a scalar word that writes only d comes to: it waits, or updates its engine so. -/
def ScalarEffect (d : BitVec 5) (s : State) (r : Res) : Prop :=
  r = .wait s ∨ ∃ f, r = .done (s.modEng f) ∧ KeepsBut d s.eng (f s.eng)

theorem ownEngine_finish {d : BitVec 5} {s : State} {r : Res} (h : ScalarEffect d s r) : OwnEngine d s (s.finish r) := by
  rcases h with rfl | ⟨f, rfl, hf⟩
  · change OwnEngine d s (if s.cur.th = .chap then s.modEng (fun e => { e with stalled := true }) else s)
    split
    · exact ownEngine_modEng (keepsBut_stalled d s.eng)
    · exact ownEngine_refl d s
  · have hroom : panRoom s (s.modEng f) := panRoom_of_same (by rw [here_modEng]; rfl) (by rw [here_modEng]; rfl)
    rw [finish_done hroom, wordDone_eq]
    have hcomp : (s.modEng f).modEng (panCounted s.cycle) = s.modEng (fun e => panCounted s.cycle (f e)) := by
      simp only [State.modEng, State.modArch, modHere_modHere, modHere_cur, Core.modArch, Arch.modEng, eng_setEng_self, setEng_setEng]
    rw [hcomp]
    exact ownEngine_retire (hf.trans (keepsBut_panCounted d _ _)) _

theorem ownEngine_runWord {d : BitVec 5} {i : Instr} {h : Hdr} {s u : State} {eff : State → Res} (hc : check2 i s.eng = none)
    (heff : ScalarEffect d s (eff s)) (hu : runWord i h s eff = .next u) : OwnEngine d s u := by
  rcases runWord_cases i h s eff with ⟨code, hbad, _⟩ | ⟨_, _, hrun⟩ | ⟨_, hrun⟩
  · rw [hc] at hbad
    cases hbad
  · cases hrun.symm.trans hu
    have hid := ownEngine_retire (f := id) (keepsBut_of_same (d := d) (e := s.eng) ⟨rfl, rfl, rfl, rfl, rfl, rfl, rfl, rfl⟩ rfl) s.eng.delay
    rwa [modEng_eq_self rfl] at hid
  · cases hrun.symm.trans hu
    exact ownEngine_finish heff

/-! ### The words (R82 to R89) -/

theorem scalarEffect_setG (d : BitVec 5) (v : W64) (s : State) : ScalarEffect d s (.done (s.setG d v)) :=
  .inr ⟨_, rfl, keepsBut_setG d v s.eng⟩

theorem scalarEffect_division (d : BitVec 5) (v : W64) (n : Nat) (s : State) : ScalarEffect d s
    (if s.cycle < s.eng.divBusy then .wait s else .done ((s.setG d v).modEng (fun e => { e with divBusy := n }))) := by
  split
  · exact .inl rfl
  · refine .inr ⟨fun e => { e.setG d v with divBusy := n }, ?_, (keepsBut_setG d v _).trans (keepsBut_divBusy d n _)⟩
    simp only [State.setG, State.modEng, State.modArch, modHere_modHere, modHere_cur, Core.modArch, Arch.modEng, eng_setEng_self,
      setEng_setEng]

/-- Every word that `scalarDest` names is run as a kernel word whose effect writes d alone. -/
theorem exec_scalar {i : Instr} {d : BitVec 5} (hd : scalarDest i = some d) (s : State) :
    ∃ (h : Hdr) (eff : State → Res), exec i s = runWord i h s eff ∧ ScalarEffect d s (eff s) := by
  unfold scalarDest at hd
  split at hd
  all_goals cases hd
  all_goals
    simp only [exec, execAdd, execSub, execMul, execMulh, execMulhu, execDiv, execDivu, execRem, execRemu, execAnd, execOr,
      execXor, execAndn, execOrn, execShl, execShr, execSar, execRotl, execMin, execMax, execMinu, execMaxu, execCmp, execSel,
      execLea, execClz, execCtz, execPopc, execBext, execBins, execBset, execBclr, execAddi, execMovi, execMoviZ, execMoviHi,
      execMfs, execMovw, execMovwZ, alu, aluIdx, count, division]
    refine ⟨_, _, rfl, ?_⟩
  case h_6 | h_7 | h_8 | h_9 => exact scalarEffect_division _ _ _ s
  all_goals exact scalarEffect_setG _ _ s

/-- Settles O10: whichever way such a word ends, only its own engine has changed (`OwnEngine`). -/
theorem scalarFrame : Obligations.ScalarFrame := by
  unfold Obligations.ScalarFrame
  intro i d s u hd hc hu
  obtain ⟨h, eff, hexec, heff⟩ := exec_scalar hd s
  obtain ⟨c, x, hslot, rfl, ⟨hsaved, hregs⟩⟩ := ownEngine_runWord hc heff (hexec ▸ hu)
  have harch : (s.modHere (fun _ => c.modArch (fun a => a.setEng s.cur.th x))).arch = c.arch.setEng s.cur.th x := by
    simp [State.arch]
  have heng : (s.modHere (fun _ => c.modArch (fun a => a.setEng s.cur.th x))).eng = x := by
    unfold State.eng
    rw [harch]
    exact eng_setEng_self _ _ _
  have hscr : c.arch.scr = s.here.arch.scr := by
    rcases hslot with rfl | ⟨_, rfl⟩ <;> rfl
  refine ⟨sameOutside_modHere s _, ⟨c, hslot, ?_, ?_⟩, ?_, fun r hr => ?_, rfl, sameMemory_modHere s ?_⟩
  · rw [here_modHere]
    rfl
  · rw [harch, Arch.sameButEng, eng_setEng_self]
  · rwa [heng]
  · unfold State.g
    rw [heng, hregs r hr]
  · simpa using hscr

end Sys2Proof.Proofs
end

section
/-! Special registers (O7): a read is one write of d; a write outside its range or privilege traps; a write of any register
but VBANKPWR is `State.writeSpr`; VBANKPWR takes its new value when no bank goes OFF, and asks for a commit point when one
does (R70 to R73). -/

namespace Sys2Proof.Proofs

open Sys2Proof Sys2Proof.Machine Sys2Proof.Laws

/-! ### Room in the Pan -/

/-- A change that keeps the core's hold queue and shadow records needs no room of the Pan. -/
theorem panRoom_modHere {s : State} {f : Core → Core} (hh : (f s.here).hold = s.here.hold)
    (hs : (f s.here).shadows = s.here.shadows) : panRoom s (s.modHere f) :=
  panRoom_of_same (by rw [here_modHere, hh]) (by rw [here_modHere, hs])

theorem panRoom_refl (s : State) : panRoom s s := panRoom_of_same rfl rfl

theorem panRoom_setG (s : State) (r : BitVec 5) (v : W64) : panRoom s (s.setG r v) := panRoom_modHere rfl rfl

/-- A kernel word whose check 2 fails traps (R27). -/
theorem runWord_check2 {i : Instr} {s : State} {code : BitVec 8} (hc : check2 i s.eng = some code) (h : Hdr) (eff : State → Res) :
    runWord i h s eff = .next (s.trap code none) := by
  simp [runWord, hc]

/-! ### Reading and writing special registers (R75, R89) -/

theorem exec_mfs (h : Hdr) (f : SI) (s : State) : exec (.mfs h f) s =
    runWord (.mfs h f) h s (fun s => .done (s.setG f.d (s.readSpr f.imm.toNat))) := rfl

theorem exec_mfs_runs {h : Hdr} {f : SI} {s : State} (hr : runs (.mfs h f) h s) :
    exec (.mfs h f) s = .next (s.wordDone (s.setG f.d (s.readSpr f.imm.toNat))) := by
  rw [exec_mfs]
  exact runWord_done hr rfl (panRoom_setG s _ _)

/-- What MTS does once check 2 has passed. -/
def mtsEffect (f : SI) (s : State) : Res :=
  if !sprRange f.imm.toNat (s.g f.a) then .trap Code.reservedField none
  else if f.imm.toNat = 0x011 then mtsBanks (s.g f.a) s
  else .done (s.writeSpr f.imm.toNat (s.g f.a))

theorem exec_mts (h : Hdr) (f : SI) (s : State) : exec (.mts h f) s = runWord (.mts h f) h s (mtsEffect f) := rfl

theorem panRoom_writeSpr (s : State) (n : Nat) (v : W64) : panRoom s (s.writeSpr n v) := by
  unfold State.writeSpr
  split
  case h_16 => exact panRoom_refl s
  all_goals exact panRoom_modHere rfl rfl

theorem exec_mts_range {h : Hdr} {f : SI} {s : State} (hr : runs (.mts h f) h s)
    (hbad : sprRange f.imm.toNat (s.g f.a) = false) : exec (.mts h f) s = .next (s.trap Code.reservedField none) := by
  rw [exec_mts, runWord_runs hr, mtsEffect, if_pos (by rw [hbad]; rfl)]
  rfl

theorem mtsEffect_in_range {f : SI} {s : State} (hok : sprRange f.imm.toNat (s.g f.a) = true) : mtsEffect f s =
    if f.imm.toNat = 0x011 then mtsBanks (s.g f.a) s else .done (s.writeSpr f.imm.toNat (s.g f.a)) := by
  rw [mtsEffect, if_neg (by rw [hok]; decide)]

theorem exec_mts_write {h : Hdr} {f : SI} {s : State} (hr : runs (.mts h f) h s)
    (hok : sprRange f.imm.toNat (s.g f.a) = true) (hn : f.imm.toNat ≠ 0x011) :
    exec (.mts h f) s = .next (s.wordDone (s.writeSpr f.imm.toNat (s.g f.a))) := by
  rw [exec_mts]
  exact runWord_done hr (by rw [mtsEffect_in_range hok, if_neg hn]) (panRoom_writeSpr s _ _)

/-- A value of at most 32 bits survives a 32-bit register. -/
theorem zeroExtend_32_64 {v : W64} (h : v.toNat < 2 ^ 32) : (v.zeroExtend 32).zeroExtend 64 = v := by
  apply BitVec.eq_of_toNat_eq
  simp only [BitVec.truncate_eq_setWidth, BitVec.toNat_setWidth]
  omega

/-- The registers that hold the whole of a value in their range (R75). -/
theorem readSpr_writeSpr {n : Nat} {s : State} {v : W64} (hok : sprRange n v = true)
    (hn : n ∈ [0x001, 0x002, 0x003, 0x004, 0x010, 0x013, 0x024, 0x025, 0x030, 0x031, 0x032]) :
    (s.writeSpr n v).readSpr n = v := by
  by_cases hslipw : n = 0x010
  · subst hslipw
    have hle : 1 ≤ v.toNat ∧ v.toNat ≤ 64 := by simpa [sprRange] using hok
    simpa [State.writeSpr, State.readSpr] using zeroExtend_32_64 (v := v) (by omega)
  · by_cases hauth : n = 0x032
    · subst hauth
      have hlt : v.toNat < 2 ^ 32 := by simpa [sprRange] using hok
      simpa [State.writeSpr, State.readSpr] using zeroExtend_32_64 hlt
    · simp only [List.mem_cons, List.not_mem_nil, or_false, hslipw, hauth, false_or] at hn
      rcases hn with rfl | rfl | rfl | rfl | rfl | rfl | rfl | rfl | rfl <;> simp [State.writeSpr, State.readSpr]

/-- CHSHARE keeps its second byte alone (R75, R299). -/
theorem readSpr_writeSpr_chshare (s : State) (v : W64) : (s.writeSpr 0x012 v).readSpr 0x012 = v &&& 0xFF00 := by
  have h : (s.writeSpr 0x012 v).readSpr 0x012 = (v.zeroExtend 32 &&& 0xFF00).zeroExtend 64 := by
    simp [State.writeSpr, State.readSpr]
  rw [h]
  have hmask : ∀ i < 64, (0xFF00 : W64).getLsbD i = (decide (i < 32) && (0xFF00 : W32).getLsbD i) := by decide
  apply BitVec.eq_of_getLsbD_eq
  intro i hi
  rw [BitVec.getLsbD_and, hmask i hi]
  simp only [BitVec.truncate_eq_setWidth, BitVec.getLsbD_setWidth, BitVec.getLsbD_and, hi, decide_true, Bool.true_and]
  rw [Bool.and_assoc, Bool.and_left_comm]

theorem check2_mfs {f : SI} {e : Eng} (ha : sprAssigned f.imm = true) (hno : sprAccess f.imm.toNat (statusPriv e.status) false = false)
    (h : Hdr) : check2 (.mfs h f) e = some Code.privilege := by
  simp [check2, ha, hno]

theorem check2_mts {f : SI} {e : Eng} (ha : sprAssigned f.imm = true) (hno : sprAccess f.imm.toNat (statusPriv e.status) true = false)
    (h : Hdr) : check2 (.mts h f) e = some Code.privilege := by
  simp [check2, ha, hno]

/-! ### VBANKPWR (R70 to R73) -/

/-- A write changes the fields of banks 2 to 11 alone. -/
theorem getLsbD_bankPwrWrite (old : W32) (v : W64) (n : Nat) :
    (bankPwrWrite old v).getLsbD n = if 4 ≤ n ∧ n < 24 then v.getLsbD n else old.getLsbD n := by
  by_cases h32 : n < 32
  · have hmask : (0x00FFFFF0 : W32).getLsbD n = decide (4 ≤ n ∧ n < 24) ∧ (0xFF00000F : W32).getLsbD n = !decide (4 ≤ n ∧ n < 24) := by
      revert n
      decide
    obtain ⟨hin, hout⟩ := hmask
    simp only [bankPwrWrite, BitVec.getLsbD_or, BitVec.getLsbD_and, hin, hout]
    by_cases h : 4 ≤ n ∧ n < 24 <;> simp [h, h32]
  · rw [if_neg (by omega), BitVec.getLsbD_of_ge _ n (by omega), BitVec.getLsbD_of_ge _ n (by omega)]

theorem setBankPwr_pwr (now : Nat) (new : W32) (a : Arch) : (a.setBankPwr now new).bankPwr = new := rfl

/-- The banks that a write turns OFF. -/
theorem noneOff {old new : W32} (h : turnsOff old new = false) :
    (List.range 12).filter (fun b => bankState old b ≠ 0 && bankState new b = 0) = [] := by
  simpa [turnsOff, List.filter_eq_nil_iff] using h

theorem mtsBanks_kept {v : W64} {s : State} (huse : s.arch.bankInUse s.cycle (bankPwrWrite s.arch.bankPwr v) = false)
    (hoff : turnsOff s.arch.bankPwr (bankPwrWrite s.arch.bankPwr v) = false) : mtsBanks v s =
      .done (s.modHere (fun c => c.modArch (fun a => a.setBankPwr s.cycle (bankPwrWrite s.arch.bankPwr v)))) := by
  simp only [mtsBanks, huse, hoff, noneOff hoff, Bool.false_eq_true, if_false, List.foldl_nil]

/-- The state in which the word at pc has asked for commit point n (R73). -/
def asking (s : State) (n : Nat) : State :=
  (s.modEng (fun e => { e with ask := some n })).modHere (fun c => c.requestCp .word)

theorem mtsBanks_off {v : W64} {s : State} (huse : s.arch.bankInUse s.cycle (bankPwrWrite s.arch.bankPwr v) = false)
    (hoff : turnsOff s.arch.bankPwr (bankPwrWrite s.arch.bankPwr v) = true) (hask : s.eng.ask = none) : mtsBanks v s =
      .wait (asking s (s.here.cpCount + s.here.cpReq.length + 1)) := by
  simp only [mtsBanks, huse, hoff, Bool.false_eq_true, if_false, if_true, State.askCp, hask, asking]


theorem exec_mts_banks {h : Hdr} {f : SI} {s : State} (hr : runs (.mts h f) h s) (hn : f.imm.toNat = 0x011)
    (hok : sprRange 0x011 (s.g f.a) = true) : exec (.mts h f) s = .next (s.finish (mtsBanks (s.g f.a) s)) := by
  rw [exec_mts, runWord_runs hr, mtsEffect_in_range (by rw [hn, hok]), if_pos hn]

/-- A word that waits for the commit point it has asked for keeps its place; its request is the core's last. -/
theorem finish_asking (s : State) (n : Nat) : (s.finish (.wait (asking s n))).here.cpReq = s.here.cpReq ++ [.word] ∧
    (s.finish (.wait (asking s n))).arch.bankPwr = s.arch.bankPwr ∧ (s.finish (.wait (asking s n))).eng.pc = s.eng.pc := by
  unfold State.finish asking
  by_cases hth : s.cur.th = .chap
  · simp [hth, State.stalledNow, State.arch, State.eng]
  · simp [hth, State.arch, State.eng]

/-- Settles O7: check 2 and the range decide whether the access is made; what is made is one update of the register. -/
theorem specialRegisterWords : Obligations.SpecialRegisterWords := by
  unfold Obligations.SpecialRegisterWords
  refine ⟨fun h f s => ⟨exec_mfs_runs, fun hr hok hn => ⟨exec_mts_write hr hok hn, readSpr_writeSpr hok,
      fun _ => readSpr_writeSpr_chshare s _⟩, exec_mts_range, fun ha hno => ?_, fun ha hno => ?_⟩,
    fun h f s hr hn hok huse => ⟨fun hoff => ?_, fun hoff hask => ?_⟩⟩
  · rw [exec_mfs]
    exact runWord_check2 (check2_mfs ha hno h) _ _
  · rw [exec_mts]
    exact runWord_check2 (check2_mts ha hno h) _ _
  · refine ⟨s.modHere (fun c => c.modArch (fun a => a.setBankPwr s.cycle (bankPwrWrite s.arch.bankPwr (s.g f.a)))), ?_,
      fun n hlo hhi => ?_, fun n hout => ?_⟩
    · rw [exec_mts_banks hr hn hok, mtsBanks_kept huse hoff, finish_done (panRoom_modHere rfl rfl)]
    · rw [← State.modArch, arch_modArch, setBankPwr_pwr, getLsbD_bankPwrWrite, if_pos ⟨hlo, hhi⟩]
    · rw [← State.modArch, arch_modArch, setBankPwr_pwr, getLsbD_bankPwrWrite, if_neg (by omega)]
  · rw [exec_mts_banks hr hn hok, mtsBanks_off huse hoff hask]
    exact ⟨_, rfl, finish_asking s _⟩

end Sys2Proof.Proofs
end

section
/-! The spill store, windows and scratchpad of the scalar words (O8): a load is one write of d, a store one run of bytes with
one shadow record at most, for its bytes lie within one granule. -/

namespace Sys2Proof.Proofs

open Sys2Proof Sys2Proof.Machine Sys2Proof.Laws

/-! ### The shadow pool (R347) -/

theorem eraseDups_length_le_one {α : Type} [BEq α] [LawfulBEq α] {l : List α} (h : l.length ≤ 1) : l.eraseDups.length ≤ 1 := by
  match l, h with
  | [], _ => exact Nat.zero_le _
  | [x], _ => simp [List.eraseDups_cons]

/-- One more record is one more copy at most. -/
theorem copiesOf_append_one (hs : List Shadow) (x : Shadow) : (copiesOf (hs ++ [x])).length ≤ (copiesOf hs).length + 1 := by
  unfold copiesOf
  rw [List.filter_append, List.map_append, List.eraseDups_append, List.length_append, Nat.add_le_add_iff_left]
  refine eraseDups_length_le_one ((List.length_filter_le _ _).trans ?_)
  rw [List.length_map]
  exact List.length_filter_le _ [x]

theorem shade_shadUsed (c : Core) (st : StoreId) (w : Writer) (gran : Nat) : (c.shade st w gran).shadUsed ≤ c.shadUsed + 1 := by
  unfold Core.shade
  simp only
  split
  · exact Nat.le_succ _
  · exact copiesOf_append_one _ _

@[simp] theorem shade_hold (c : Core) (st : StoreId) (w : Writer) (gran : Nat) : (c.shade st w gran).hold = c.hold := by
  unfold Core.shade
  simp only
  split <;> rfl

@[simp] theorem shadeRun_hold (c : Core) (st : StoreId) (w : Writer) (gran first n : Nat) :
    (c.shadeRun st w gran first n).hold = c.hold := by
  unfold Core.shadeRun
  split
  · rfl
  · exact List.foldlRecOn (motive := fun e : Core => e.hold = c.hold) _ _ rfl fun e he _ _ => by simpa using he

/-- A run within one granule is noted once. -/
theorem shadeRun_one_granule (c : Core) (st : StoreId) (w : Writer) {gran first n : Nat} (hn : n ≠ 0)
    (h : (first + n - 1) / gran = first / gran) : c.shadeRun st w gran first n = c.shade st w (first / gran * gran) := by
  simp [Core.shadeRun, hn, h]

/-- A word that writes within one granule of a store and puts nothing into the hold queue has room while the shadow pool
has. -/
theorem panRoom_one_granule {s t : State} {st : StoreId} {w : Writer} {gran first n : Nat} (hroom : s.here.shadUsed < 2048)
    (hn : n ≠ 0) (h : (first + n - 1) / gran = first / gran)
    (hs : t.here.shadows = (s.here.shadeRun st w gran first n).shadows) (hh : t.here.hold = s.here.hold) : panRoom s t := by
  have hle : t.here.shadUsed ≤ s.here.shadUsed + 1 := by
    have := shade_shadUsed s.here st w (first / gran * gran)
    rw [shadeRun_one_granule _ _ _ hn h] at hs
    rwa [Core.shadUsed, hs]
  have hhold : t.here.holdUsed = s.here.holdUsed := by simp [Core.holdUsed, hh]
  have hfull : ¬2048 < t.here.shadUsed := by omega
  simp [panRoom, Core.panLacks, hhold, hfull]

/-! ### Widths and bytes (R90) -/

theorem subBytes_cases (sub : BitVec 4) : subBytes sub = 1 ∨ subBytes sub = 2 ∨ subBytes sub = 4 ∨ subBytes sub = 8 := by
  revert sub
  decide

theorem subBytes_ne_zero (sub : BitVec 4) : subBytes sub ≠ 0 := by
  have := subBytes_cases sub
  omega

/-- An aligned access lies within one 512-byte granule. -/
theorem aligned_one_granule {sub : BitVec 4} {o : Nat} (base : Nat) (h : o % subBytes sub = 0) :
    (512 * base + o + subBytes sub - 1) / 512 = (512 * base + o) / 512 := by
  rcases subBytes_cases sub with hs | hs | hs | hs <;> rw [hs] at h ⊢ <;> omega

@[simp] theorem storeBytes_length (sub : BitVec 4) (v : W64) : (storeBytes sub v).length = subBytes sub :=
  natBytes_length _ _

theorem storeBytes_getElem (sub : BitVec 4) (v : W64) (k : Nat) (h : k < (storeBytes sub v).length) :
    (storeBytes sub v)[k] = BitVec.ofNat 8 (v.toNat / 256 ^ k) := by
  have hpow : (2 : Nat) ^ (8 * k) = 256 ^ k := Nat.pow_mul 2 8 k
  simp [storeBytes, natBytes, Nat.shiftRight_eq_div_pow, hpow]

/-- A store leaves the low bytes of its register, and every other byte as it was. -/
theorem get_put_storeBytes (st : Store Byte) (o : Nat) (sub : BitVec 4) (v : W64) (a : Nat) :
    Store.get 0 (Store.put 0 st o (storeBytes sub v)) a =
      if o ≤ a ∧ a < o + subBytes sub then BitVec.ofNat 8 (v.toNat / 256 ^ (a - o)) else Store.get 0 st a := by
  rw [get_put_getElem]
  by_cases h : o ≤ a ∧ a < o + subBytes sub
  · rw [dif_pos (by rw [storeBytes_length]; omega), if_pos h, storeBytes_getElem]
  · rw [dif_neg (by rw [storeBytes_length]; omega), if_neg h]

theorem misalign_aligned {o n : Nat} (h : o % n = 0) (r : Res) : misalign o n r = r := if_neg (not_not_intro h)

theorem panRoom_notePoison {s t : State} (h : panRoom s t) (p : Bool) : panRoom s (t.notePoison p) := by
  unfold State.notePoison
  split
  · rw [panRoom, here_modArch]
    exact h
  · exact h

/-! ### The spill store (R91) -/

theorem eng_modHere (s : State) (f : Core → Core) : (s.modHere f).eng = (f s.here).arch.eng s.cur.th := by
  simp [State.eng, State.arch]

theorem exec_spld_done {h : Hdr} {f : SI} {s : State} (hr : runs (.spld h f) h s) (ha : f.imm.toNat % subBytes f.sub = 0) :
    exec (.spld h f) s = .next (s.wordDone
      ((s.setG f.d (extend f.sub (Store.run 0 s.eng.spill f.imm.toNat (subBytes f.sub)))).notePoison
        (marked s.eng.spillP 64 f.imm.toNat (subBytes f.sub)))) := by
  have hexec : exec (.spld h f) s = execSpld h f s := rfl
  rw [hexec, execSpld]
  exact runWord_done hr (misalign_aligned ha _) (panRoom_notePoison (panRoom_setG s _ _) _)

/-- The state in which SPST has stored. -/
def spilled (f : SI) (s : State) : State :=
  s.modHere (fun c => c.spillWrite s.cur.th f.imm.toNat (storeBytes f.sub (s.g f.d)) false)

theorem exec_spst_done {h : Hdr} {f : SI} {s : State} (hr : runs (.spst h f) h s) (ha : f.imm.toNat % subBytes f.sub = 0)
    (hroom : s.here.shadUsed < 2048) : exec (.spst h f) s = .next (s.wordDone (spilled f s)) := by
  have hexec : exec (.spst h f) s = execSpst h f s := rfl
  rw [hexec, execSpst]
  refine runWord_done hr (misalign_aligned ha _) ?_
  have hgran := aligned_one_granule (32 * s.cur.th.code.toNat) ha
  refine panRoom_one_granule (st := .spill) (w := .own) (gran := 512) (first := s.cur.th.code.toNat * 16384 + f.imm.toNat)
    hroom (subBytes_ne_zero f.sub) (by omega) ?_ ?_
  · rw [spilled, here_modHere, Core.spillWrite, storeBytes_length]
    rfl
  · rw [spilled, here_modHere, Core.spillWrite]
    exact shadeRun_hold _ _ _ _ _ _

theorem spilled_eng_g (f : SI) (s : State) : (spilled f s).eng.g = s.eng.g := by
  rw [spilled, eng_modHere]
  simp [Core.spillWrite]
  rfl

theorem spilled_spill (f : SI) (s : State) (a : Nat) : Store.get 0 (spilled f s).eng.spill a =
    if f.imm.toNat ≤ a ∧ a < f.imm.toNat + subBytes f.sub then BitVec.ofNat 8 ((s.g f.d).toNat / 256 ^ (a - f.imm.toNat))
    else Store.get 0 s.eng.spill a := by
  rw [spilled, eng_modHere, spillWrite_spill, get_put_storeBytes]
  rfl

/-! ### Parameter windows (R92, R93) -/

theorem exec_pld_unbound {h : Hdr} {f : SI} {s : State} (hr : runs (.pld h f) h s)
    (hw : s.arch.wins[(f.n.extractLsb' 0 3).toNat] = none) :
    exec (.pld h f) s = .next (s.trap Code.paramUnbound (some (s.g f.a + f.imm.signExtend 64))) := by
  have hexec : exec (.pld h f) s = execPld h f s := rfl
  rw [hexec, execPld, runWord_runs hr]
  simp only [hw, BitVec.ofNat_toNat, BitVec.setWidth_eq]
  rfl

/-- What PLD leaves: d, the mark of poison, OOB of its window when it has read beyond the bound (R92). -/
def windowLoaded (f : SI) (w : Window) (o : Nat) (s : State) : State :=
  let t := (s.setG f.d (extend f.sub (s.windowBytes w o (subBytes f.sub)))).notePoison (s.windowPoison w o (subBytes f.sub))
  let t := if w.size < o + subBytes f.sub then
      t.modArch (fun a => { a with pwstat := a.pwstat ||| ((1 : W32) <<< (f.n.extractLsb' 0 3).toNat) })
    else t
  t.bumpFree

theorem panRoom_modArch {s t : State} (h : panRoom s t) (f : Arch → Arch) : panRoom s (t.modArch f) := by
  rw [panRoom, here_modArch]
  exact h

theorem exec_pld_done {h : Hdr} {f : SI} {s : State} {w : Window} (hr : runs (.pld h f) h s)
    (hw : s.arch.wins[(f.n.extractLsb' 0 3).toNat] = some w)
    (ha : (s.g f.a + f.imm.signExtend 64).toNat % subBytes f.sub = 0) : exec (.pld h f) s =
      .next (s.wordDone (windowLoaded f w (s.g f.a + f.imm.signExtend 64).toNat s)) := by
  have hexec : exec (.pld h f) s = execPld h f s := rfl
  rw [hexec, execPld]
  refine runWord_done hr ?_ ?_
  · simp only [hw, misalign_aligned ha]
    rfl
  · have hload := panRoom_notePoison (panRoom_setG s f.d (extend f.sub (s.windowBytes w
      (s.g f.a + f.imm.signExtend 64).toNat (subBytes f.sub)))) (s.windowPoison w (s.g f.a + f.imm.signExtend 64).toNat
      (subBytes f.sub))
    unfold windowLoaded
    simp only
    split
    · exact panRoom_modArch hload _
    · exact hload

/-- A change that leaves the five engines alone. -/
theorem eng_ext {a b : Arch} (hc : b.engC = a.engC) (ha : b.engA = a.engA) (hv : b.engV = a.engV) (hm : b.engM = a.engM)
    (hp : b.chap = a.chap) : b.eng = a.eng := by
  funext t
  cases t
  exacts [hc, ha, hv, hm, hp]

theorem eng_modArch_other (s : State) {f : Arch → Arch} (h : (f s.arch).eng = s.arch.eng) : (s.modArch f).eng = s.eng := by
  rw [eng_modArch, h]
  rfl

@[simp] theorem notePoison_eng (s : State) (p : Bool) : (s.notePoison p).eng = s.eng := by
  unfold State.notePoison
  split
  · exact eng_modArch_other s (eng_ext rfl rfl rfl rfl rfl)
  · rfl

@[simp] theorem notePoison_pwstat (s : State) (p : Bool) : (s.notePoison p).arch.pwstat = s.arch.pwstat := by
  unfold State.notePoison
  split
  · rw [arch_modArch]
  · rfl

@[simp] theorem setG_pwstat (s : State) (r : BitVec 5) (v : W64) : (s.setG r v).arch.pwstat = s.arch.pwstat := by
  rw [State.setG, State.modEng, arch_modArch, archModEng_pwstat]

@[simp] theorem eng_setG (s : State) (r : BitVec 5) (v : W64) : (s.setG r v).eng = s.eng.setG r v := eng_of_modEng s _

theorem windowLoaded_g {f : SI} (hd : f.d ≠ 0) (w : Window) (o : Nat) (s : State) :
    (windowLoaded f w o s).g f.d = extend f.sub (s.windowBytes w o (subBytes f.sub)) := by
  have heng : (windowLoaded f w o s).eng = s.eng.setG f.d (extend f.sub (s.windowBytes w o (subBytes f.sub))) := by
    unfold windowLoaded
    simp only
    split
    · refine (eng_modArch_other _ (eng_ext rfl rfl rfl rfl rfl)).trans ?_
      rw [notePoison_eng, eng_setG]
    · exact (notePoison_eng _ _).trans (eng_setG _ _ _)
  rw [State.g, heng, getG_setG, if_pos ⟨rfl, hd⟩]

theorem windowLoaded_pwstat (f : SI) (w : Window) (o : Nat) (s : State) : (windowLoaded f w o s).arch.pwstat =
    if w.size < o + subBytes f.sub then s.arch.pwstat ||| ((1 : W32) <<< (f.n.extractLsb' 0 3).toNat) else s.arch.pwstat := by
  unfold windowLoaded
  simp only
  split
  · refine (congrArg Arch.pwstat (arch_modArch _ _)).trans ?_
    rw [notePoison_pwstat, setG_pwstat]
  · exact (notePoison_pwstat _ _).trans (setG_pwstat _ _ _)

/-- Beyond its bound a window reads 0 (R92). -/
theorem windowBytes_beyond (s : State) (w : Window) {o n k : Nat} (hk : k < n) (hout : w.size ≤ o + k) :
    (s.windowBytes w o n).getD k 1 = 0 := by
  have hlen : k < (s.windowBytes w o n).length := by simpa [State.windowBytes] using hk
  rw [List.getD_eq_getElem _ _ hlen]
  simp [State.windowBytes, show ¬o + k < w.size by omega]

/-! ### Scratchpad (R94, R95) -/

/-- An access within range, aligned and outside the KEEP ranges of other contexts is made (R94, R303). -/
theorem scrChecks_ok {s : State} {e n : Nat} (hlt : e < 8388608) (ha : e % n = 0)
    (hkeep : s.keepHit s.cur.core s.here.ctx e n = false) (r : Res) : s.scrChecks e n r = r := by
  have hin : ¬Config.scrBytes ≤ e := by
    unfold Config.scrBytes
    omega
  rw [State.scrChecks, if_neg hin, misalign_aligned ha, hkeep]
  rfl

theorem scrChecks_range {s : State} {e : Nat} (h : 8388608 ≤ e) (n : Nat) (r : Res) :
    s.scrChecks e n r = .trap Code.reservedField (some (BitVec.ofNat 64 e)) := if_pos h

theorem scrChecks_misaligned {s : State} {e n : Nat} (hlt : e < 8388608) (ha : e % n ≠ 0) (r : Res) :
    s.scrChecks e n r = .trap Code.misaligned (some (BitVec.ofNat 64 e)) := by
  have hin : ¬Config.scrBytes ≤ e := by
    unfold Config.scrBytes
    omega
  rw [State.scrChecks, if_neg hin, misalign, if_pos ha]

theorem ofNat_scrAddr (s : State) (f : SI) : BitVec.ofNat 64 (s.scrAddr f) = s.g f.a + f.imm.signExtend 64 :=
  BitVec.ofNat_toNat _ _ |>.trans (BitVec.setWidth_eq _)

theorem exec_sld (h : Hdr) (f : SI) (s : State) : exec (.sld h f) s = runWord (.sld h f) h s (fun s =>
    s.scrChecks (s.scrAddr f) (subBytes f.sub) (.done ((s.setG f.d (extend f.sub
      ((s.lview (subBytes f.sub)).scrRead (s.scrAddr f) (subBytes f.sub)))).notePoison
        (s.arch.scrPoisoned (s.scrAddr f) (subBytes f.sub))))) := rfl

/-- The state in which SST has stored. -/
def scrStored (f : SI) (s : State) : State :=
  s.modHere (fun c => c.scrWrite .own (.l s.cur.th) (s.scrAddr f) (storeBytes f.sub (s.g f.d)) false (subBytes f.sub))

theorem exec_sst (h : Hdr) (f : SI) (s : State) : exec (.sst h f) s = runWord (.sst h f) h s (fun s =>
    s.scrChecks (s.scrAddr f) (subBytes f.sub)
      (if s.arch.leased (s.scrAddr f) (subBytes f.sub) then .wait s else .done (scrStored f s))) := rfl

/-- A word whose effect is a trap takes it. -/
theorem runWord_trap {i : Instr} {h : Hdr} {s : State} {eff : State → Res} {code : BitVec 8} {ea : Option W64}
    (hr : runs i h s) (he : eff s = .trap code ea) : runWord i h s eff = .next (s.trap code ea) := by
  rw [runWord_runs hr, he]
  rfl

theorem exec_sld_done {h : Hdr} {f : SI} {s : State} (hr : runs (.sld h f) h s) (hlt : s.scrAddr f < 8388608)
    (ha : s.scrAddr f % subBytes f.sub = 0) (hkeep : s.keepHit s.cur.core s.here.ctx (s.scrAddr f) (subBytes f.sub) = false) :
    exec (.sld h f) s = .next (s.wordDone
      ((s.setG f.d (extend f.sub ((s.lview (subBytes f.sub)).scrRead (s.scrAddr f) (subBytes f.sub)))).notePoison
        (s.arch.scrPoisoned (s.scrAddr f) (subBytes f.sub)))) := by
  rw [exec_sld]
  exact runWord_done hr (scrChecks_ok hlt ha hkeep _) (panRoom_notePoison (panRoom_setG s _ _) _)

theorem exec_sst_done {h : Hdr} {f : SI} {s : State} (hr : runs (.sst h f) h s) (hlt : s.scrAddr f < 8388608)
    (ha : s.scrAddr f % subBytes f.sub = 0) (hkeep : s.keepHit s.cur.core s.here.ctx (s.scrAddr f) (subBytes f.sub) = false)
    (hlease : s.arch.leased (s.scrAddr f) (subBytes f.sub) = false) (hroom : s.here.shadUsed < 2048) :
    exec (.sst h f) s = .next (s.wordDone (scrStored f s)) := by
  rw [exec_sst]
  refine runWord_done hr ?_ ?_
  · rw [scrChecks_ok hlt ha hkeep, hlease]
    rfl
  · have hgran := aligned_one_granule 0 ha
    refine panRoom_one_granule (st := .scratch) (w := .own) (gran := 512) (first := s.scrAddr f) hroom (subBytes_ne_zero f.sub)
      (by omega) ?_ ?_
    · rw [scrStored, here_modHere, Core.scrWrite, storeBytes_length]
      rfl
    · rw [scrStored, here_modHere, Core.scrWrite]
      exact shadeRun_hold _ _ _ _ _ _

theorem scrStored_eng (f : SI) (s : State) : (scrStored f s).eng = s.eng := by
  rw [scrStored, eng_modHere, Core.scrWrite, alter_arch, shadeRun_arch]
  exact congrFun (eng_ext rfl rfl rfl rfl rfl) _

theorem scrStored_scr (f : SI) (s : State) (a : Nat) : Store.get 0 (scrStored f s).arch.scr a =
    if s.scrAddr f ≤ a ∧ a < s.scrAddr f + subBytes f.sub then BitVec.ofNat 8 ((s.g f.d).toNat / 256 ^ (a - s.scrAddr f))
    else Store.get 0 s.arch.scr a := by
  rw [scrStored, State.arch, here_modHere, scrWrite_scr, get_put_storeBytes]
  rfl

/-! ### The obligation -/

/-- Settles O8: the checks of each form decide whether it traps; a form that passes them is one load of d or one store of a
run of bytes within a granule. -/
theorem spillWindowAndScratchWords : Obligations.SpillWindowAndScratchWords := by
  unfold Obligations.SpillWindowAndScratchWords
  refine ⟨fun h f s => ⟨exec_spld_done, fun hr ha hroom => ?_, fun w hr hw ha => ?_, exec_pld_unbound⟩,
    fun h f s => ⟨exec_sld_done, fun hr hlt ha hkeep hlease hroom => ?_, fun hr hge => ?_, fun hr hge => ?_,
      fun hr hlt hmis => ?_⟩⟩
  · exact ⟨_, exec_spst_done hr ha hroom, spilled_eng_g f s, spilled_spill f s⟩
  · exact ⟨_, exec_pld_done hr hw ha, fun hd => windowLoaded_g hd w _ s, fun k hk hout => windowBytes_beyond s w hk hout,
      windowLoaded_pwstat f w _ s⟩
  · exact ⟨_, exec_sst_done hr hlt ha hkeep hlease hroom, scrStored_eng f s, scrStored_scr f s⟩
  · rw [exec_sld, ← ofNat_scrAddr]
    exact runWord_trap hr (scrChecks_range hge _ _)
  · rw [exec_sst, ← ofNat_scrAddr]
    exact runWord_trap hr (scrChecks_range hge _ _)
  · rw [exec_sst, ← ofNat_scrAddr]
    exact runWord_trap hr (scrChecks_misaligned hlt hmis _)

end Sys2Proof.Proofs
end

section
/-! What deposits leave alone: placements and writes that leases have held back, marks, semaphores and the ends of operations
change a core's memories, barriers and sequencer, in its state and in its checkpoints, but no engine, no commit point and
no held effect (R172, R246, R249, R351). -/

namespace Sys2Proof.Proofs

open Sys2Proof Sys2Proof.Machine Sys2Proof.Laws

/-! ### The frame -/

/-- What a commit point is, but for the state that it saves. -/
def ckptTag (k : Ckpt) : Nat × CpKind × Nat × Bool := (k.num, k.kind, k.takenAt, k.sealedNow)

/-- A core without what deposits may change. -/
def depositRest (c : Core) : Core :=
  { c with arch := Arch.reset, ckpts := [], shadows := [], cpReq := [], real := none, heldPlace := [], heldScr := [] }

/-- From c to d at most deposits have been made. -/
structure DepositFrame (c d : Core) : Prop where
  eng : d.arch.eng = c.arch.eng
  mflight : d.arch.mflight = c.arch.mflight
  tags : d.ckpts.map ckptTag = c.ckpts.map ckptTag
  rest : depositRest d = depositRest c

namespace DepositFrame

theorem refl (c : Core) : DepositFrame c c := ⟨rfl, rfl, rfl, rfl⟩

theorem trans {c d e : Core} (h : DepositFrame c d) (g : DepositFrame d e) : DepositFrame c e :=
  ⟨g.eng.trans h.eng, g.mflight.trans h.mflight, g.tags.trans h.tags, g.rest.trans h.rest⟩

theorem foldl {β : Type} (f : Core → β → Core) (hf : ∀ c x, DepositFrame c (f c x)) (xs : List β) (c : Core) :
    DepositFrame c (xs.foldl f c) :=
  List.foldlRecOn (motive := DepositFrame c) xs f (refl c) fun _ he x _ => he.trans (hf _ x)

variable {c d : Core} (h : DepositFrame c d)
include h

theorem hold : d.hold = c.hold := (congrArg Core.hold h.rest :)
theorem cpCount : d.cpCount = c.cpCount := (congrArg Core.cpCount h.rest :)
theorem region : d.region = c.region := (congrArg Core.region h.rest :)
theorem restart : d.restart = c.restart := (congrArg Core.restart h.rest :)
theorem strikes : d.strikes = c.strikes := (congrArg Core.strikes h.rest :)
theorem rgstrk : d.rgstrk = c.rgstrk := (congrArg Core.rgstrk h.rest :)
theorem rgroll : d.rgroll = c.rgroll := (congrArg Core.rgroll h.rest :)
theorem task : d.task = c.task := (congrArg Core.task h.rest :)

end DepositFrame

/-! ### Changes by a writer class -/

/-- A change of the restorable state that touches neither an engine nor an M word in flight. -/
def SparesEngines (f : Arch → Arch) : Prop := ∀ a, (f a).eng = a.eng ∧ (f a).mflight = a.mflight

theorem sparesEngines_ext {f : Arch → Arch} (hc : ∀ a, (f a).engC = a.engC) (ha : ∀ a, (f a).engA = a.engA)
    (hv : ∀ a, (f a).engV = a.engV) (hm : ∀ a, (f a).engM = a.engM) (hp : ∀ a, (f a).chap = a.chap)
    (hf : ∀ a, (f a).mflight = a.mflight) : SparesEngines f :=
  fun a => ⟨eng_ext (hc a) (ha a) (hv a) (hm a) (hp a), hf a⟩

theorem depositFrame_modArch {f : Arch → Arch} (h : SparesEngines f) (c : Core) : DepositFrame c (c.modArch f) :=
  ⟨(h c.arch).1, (h c.arch).2, rfl, rfl⟩

theorem keep_tags (c : Core) (f : Arch → Arch) : (c.keep f).ckpts.map ckptTag = c.ckpts.map ckptTag := by
  simp [Core.keep, ckptTag]

theorem depositFrame_keep {f : Arch → Arch} (h : SparesEngines f) (c : Core) : DepositFrame c (c.keep f) :=
  ⟨(h c.arch).1, (h c.arch).2, keep_tags c f, rfl⟩

theorem depositFrame_keepFrom {f : Arch → Arch} (h : SparesEngines f) (n : Nat) (c : Core) : DepositFrame c (c.keepFrom n f) := by
  refine ⟨(h c.arch).1, (h c.arch).2, ?_, rfl⟩
  have htag : ∀ k : Ckpt, ckptTag (if n < k.num then { k with save := f k.save } else k) = ckptTag k := fun k => by
    split <;> rfl
  simp [Core.keepFrom, htag]

theorem depositFrame_alter {f : Arch → Arch} (h : SparesEngines f) (w : Writer) (c : Core) : DepositFrame c (c.alter w f) := by
  cases w with
  | own => exact depositFrame_modArch h c
  | outside => exact depositFrame_keep h c
  | command n => exact depositFrame_keepFrom h n c

theorem depositFrame_alterBars {f : Arch → Arch} (h : SparesEngines f) (w : Writer) (c : Core) :
    DepositFrame c (c.alterBars w f) := by
  unfold Core.alterBars
  split
  · exact ⟨rfl, rfl, rfl, rfl⟩
  · exact depositFrame_alter h _ c

/-! ### Records of the Pan -/

theorem depositFrame_shade (st : StoreId) (w : Writer) (gran : Nat) (c : Core) : DepositFrame c (c.shade st w gran) := by
  unfold Core.shade
  simp only
  split
  · exact .refl c
  · exact ⟨rfl, rfl, rfl, rfl⟩

theorem depositFrame_shadeRun (st : StoreId) (w : Writer) (gran first n : Nat) (c : Core) :
    DepositFrame c (c.shadeRun st w gran first n) := by
  unfold Core.shadeRun
  split
  · exact .refl c
  · exact .foldl _ (fun c _ => depositFrame_shade st w _ c) _ c

theorem depositFrame_spoil (st : StoreId) (n : Nat) (c : Core) : DepositFrame c (c.spoil st n) := by
  unfold Core.spoil
  split
  · exact .refl c
  · split
    · exact .refl c
    · exact ⟨rfl, rfl, rfl, rfl⟩

/-! ### Scratchpad, barriers, semaphores -/

theorem sparesEngines_scrPut (p : Via) (unit at_ addr : Nat) (bs : List Byte) (poison : Bool) :
    SparesEngines (fun a => a.scrPut p unit at_ addr bs poison) :=
  sparesEngines_ext (fun _ => rfl) (fun _ => rfl) (fun _ => rfl) (fun _ => rfl) (fun _ => rfl) (fun _ => rfl)

theorem sparesEngines_orderNewest (k tok : Nat) : SparesEngines (fun a => a.orderNewest k tok) :=
  sparesEngines_ext (fun _ => rfl) (fun _ => rfl) (fun _ => rfl) (fun _ => rfl) (fun _ => rfl) (fun _ => rfl)

theorem sparesEngines_modBar (n : Nat) (f : Bar → Bar) : SparesEngines (fun a => a.modBar n f) :=
  sparesEngines_ext (fun _ => rfl) (fun _ => rfl) (fun _ => rfl) (fun _ => rfl) (fun _ => rfl) (fun _ => rfl)

theorem sparesEngines_credit (n chunk : Nat) : SparesEngines (fun a => a.credit n chunk) :=
  sparesEngines_ext (fun _ => rfl) (fun _ => rfl) (fun _ => rfl) (fun _ => rfl) (fun _ => rfl) (fun _ => rfl)

theorem sparesEngines_addSem (n : Nat) (v : W32) : SparesEngines (fun a => a.addSem n v) :=
  sparesEngines_ext (fun _ => rfl) (fun _ => rfl) (fun _ => rfl) (fun _ => rfl) (fun _ => rfl) (fun _ => rfl)

theorem sparesEngines_modRing (n : Nat) (f : Ring → Ring) : SparesEngines (fun a => a.modRing n f) :=
  sparesEngines_ext (fun _ => rfl) (fun _ => rfl) (fun _ => rfl) (fun _ => rfl) (fun _ => rfl) (fun _ => rfl)

theorem depositFrame_scrWrite (w : Writer) (p : Via) (addr : Nat) (bs : List Byte) (poison : Bool) (unit at_ : Nat) (c : Core) :
    DepositFrame c (c.scrWrite w p addr bs poison unit at_) :=
  (depositFrame_shadeRun .scratch w 512 addr bs.length c).trans (depositFrame_alter (sparesEngines_scrPut p unit at_ addr bs poison) w _)

theorem depositFrame_scrOrHold (w : Writer) (addr : Nat) (bs : List Byte) (tok : Option Nat) (poison : Bool) (c : Core) :
    DepositFrame c (c.scrOrHold w addr bs tok poison) := by
  unfold Core.scrOrHold
  split
  · exact ⟨rfl, rfl, rfl, rfl⟩
  · cases tok with
    | none => exact depositFrame_scrWrite w .t addr bs poison 4 0 c
    | some k => exact (depositFrame_scrWrite w .t addr bs poison 4 0 c).trans (depositFrame_alter (sparesEngines_orderNewest 1 k) w _)

theorem depositFrame_scrDrain (c : Core) : DepositFrame c c.scrDrain := by
  unfold Core.scrDrain
  split
  · exact .refl c
  · exact .trans (d := { c with heldScr := [] }) ⟨rfl, rfl, rfl, rfl⟩
      (.foldl _ (fun c (h : HeldScr) => depositFrame_scrOrHold h.w h.addr h.bytes h.tok h.poison c) _ _)

theorem depositFrame_placeScr (w : Writer) (p : Via) (n : Nat) (b : Bar) (chunk : Nat) (bs : List Byte) (poison : Bool) (c : Core) :
    DepositFrame c (c.placeScr w p n b chunk bs poison) :=
  .trans (.foldl _ (fun c _ => depositFrame_scrWrite w p _ _ poison 4 0 c) _ c)
    (depositFrame_alter (sparesEngines_orderNewest _ _) w _)

theorem depositFrame_creditBar (w : Writer) (n chunk : Nat) (c : Core) : DepositFrame c (c.creditBar w n chunk) := by
  have hspoil : ∀ e : Core, DepositFrame e (if w = .own then e else e.spoil .barWord n) := fun e => by
    split
    · exact .refl e
    · exact depositFrame_spoil .barWord n e
  exact ((depositFrame_shadeRun .bar w 512 _ 1 c).trans (hspoil _)).trans (depositFrame_alterBars (sparesEngines_credit n chunk) w _)

theorem depositFrame_modBarAs (w : Writer) (n : Nat) (f : Bar → Bar) (c : Core) : DepositFrame c (c.modBarAs w n f) :=
  depositFrame_alterBars (sparesEngines_modBar n f) w c

theorem depositFrame_semAdd (w : Writer) (n : Nat) (v : W32) (c : Core) : DepositFrame c (c.semAdd w n v) := by
  unfold Core.semAdd
  split
  · exact ⟨rfl, rfl, rfl, rfl⟩
  · exact depositFrame_alter (sparesEngines_addSem n v) _ c

/-- A commit point that the program does not place is requested, or nothing happens (R215). -/
theorem autoCp_cases (c : Core) : c.autoCp = c ∨ c.autoCp = c.requestCp .word := (ite_eq_or_eq _ _ _).symm

theorem depositFrame_autoCp (c : Core) : DepositFrame c c.autoCp := by
  rcases autoCp_cases c with h | h <;> rw [h]
  · exact .refl c
  · exact ⟨rfl, rfl, rfl, rfl⟩

/-! ### Operations of the sequencer (R398) -/

theorem depositFrame_opSignal (sm : Option Nat) (c : Core) : DepositFrame c (c.opSignal sm) := by
  cases sm with
  | none => exact .refl c
  | some n => exact (depositFrame_semAdd .outside n 1 c).trans (depositFrame_autoCp _)

theorem depositFrame_modSeq (f : Seq → Seq) (c : Core) : DepositFrame c (c.modSeq f) :=
  depositFrame_modArch (f := fun a => { a with seq := f a.seq })
    (sparesEngines_ext (fun _ => rfl) (fun _ => rfl) (fun _ => rfl) (fun _ => rfl) (fun _ => rfl) (fun _ => rfl)) c

theorem depositFrame_modFlow (n : Nat) (f : Flow → Flow) (c : Core) : DepositFrame c (c.modFlow n f) :=
  depositFrame_modSeq (fun q => q.setFlow n (f (c.flow n))) c

theorem depositFrame_opDone (o : TOp) (c : Core) : DepositFrame c (c.opDone o) := by
  unfold Core.opDone
  exact (((depositFrame_modSeq _ c).trans (depositFrame_modFlow _ _ _)).trans (depositFrame_opSignal o.lsem _)).trans
    (depositFrame_opSignal o.asem _)

theorem depositFrame_settleOps (c : Core) : DepositFrame c c.settleOps := by
  refine .foldl _ (fun c o => ?_) _ c
  split
  · exact depositFrame_opDone o c
  · exact .refl c

/-! ### What leases have held back (R172) -/

theorem depositFrame_land (b : Bar) (p : HeldPlace) (c : Core) : DepositFrame c (c.land b p) := by
  have hcount : ∀ e : Core, DepositFrame e (match p.count with
      | some k => if b.lmap = 0 then e else e.scrWrite .outside .t (b.countAddr p.chunk) (natBytes 2 k) false
      | none => e) := fun e => by
    split
    · split
      · exact .refl e
      · exact depositFrame_scrWrite _ _ _ _ _ _ _ e
    · exact .refl e
  exact (((hcount c).trans (depositFrame_placeScr .outside .t p.bar b p.chunk p.bytes p.poison _)).trans
    (depositFrame_creditBar .outside p.bar p.chunk _)).trans (depositFrame_settleOps _)

theorem depositFrame_placeHeld (c : Core) : DepositFrame c c.placeHeld := by
  refine .foldl _ (fun c p => ?_) _ c
  simp only
  split
  · exact .refl c
  · refine .trans (d := { c with heldPlace := c.heldPlace.filter (fun q => q ≠ p) }) ⟨rfl, rfl, rfl, rfl⟩ ?_
    split
    · exact .refl _
    · split
      · exact depositFrame_modBarAs .outside p.bar _ _
      · exact depositFrame_land _ p _

theorem depositFrame_leaseEnds (c : Core) : DepositFrame c c.leaseEnds :=
  (depositFrame_placeHeld c).trans (depositFrame_scrDrain _)

end Sys2Proof.Proofs
end

section
/-! Commit points (R343 to R345): what taking one adds, and what sealing one frees. -/

namespace Sys2Proof.Proofs

open Sys2Proof Sys2Proof.Machine Sys2Proof.Laws

/-! ### Taking a commit point (R344, R346) -/

/-- With no pre-emption a commit point changes nothing besides. -/
theorem atPoint_no_preempt {c : Core} (h : c.preempt = none) (k : CpKind) : c.atPoint k = c := by
  cases k <;> simp [Core.atPoint, h]

/-- A held effect as a commit point taken in a cycle leaves it (R346). -/
def covered (n now : Nat) (h : Held) : Held := if h.cover.isNone ∧ h.since < now then { h with cover := some n } else h

theorem cover_of_covered {n now : Nat} {h : Held} (hs : (covered n now h).since < now) : (covered n now h).cover ≠ none := by
  unfold covered at hs ⊢
  split
  · exact Option.some_ne_none n
  next hno =>
    rw [if_neg hno] at hs
    intro hc
    exact hno ⟨by rw [hc]; rfl, hs⟩

theorem take_eq (c : Core) (k : CpKind) (now : Nat) : ∃ a : Arch, c.take k now =
    { c with arch := a, cpCount := c.cpCount + 1, ckpts := c.ckpts ++ [⟨c.cpCount + 1, k, now, false, a.forPoint k⟩],
             hold := c.hold.map (covered (c.cpCount + 1) now) } := by
  unfold Core.take
  by_cases h : k = .sealSection
  · simp only [if_pos h]
    exact ⟨_, rfl⟩
  · simp only [if_neg h]
    exact ⟨_, rfl⟩

theorem exec_commitPointTaken (core : CoreId) (s : State) : exec (.commitPointTaken core) s = .next (s.takePoint core) := rfl

theorem takePoint_taken {s : State} {core : CoreId} {k : CpKind} {rest : List CpKind} (hreq : (s.core core).cpReq = k :: rest)
    (hpre : (s.core core).preempt = none) (hcan : (s.core core).canTake s.cycle = true) :
    s.takePoint core = s.setCore core (({ s.core core with cpReq := rest } : Core).take k s.cycle) := by
  unfold State.takePoint
  simp only [hreq, hcan, if_true]
  rw [atPoint_no_preempt (c := { s.core core with cpReq := rest }) hpre]

theorem takePoint_waits {s : State} {core : CoreId} (hcan : (s.core core).canTake s.cycle = false) : s.takePoint core = s := by
  unfold State.takePoint
  simp only [hcan, Bool.false_eq_true, if_false]
  split <;> rfl

/-! ### Sealing (R345) -/

/-- A checkpoint as the seal of commit point k leaves it. -/
def sealedBy (k j : Ckpt) : Ckpt := if j.num = k.num then { j with sealedNow := true } else j

@[simp] theorem sealedBy_num (k j : Ckpt) : (sealedBy k j).num = j.num := by unfold sealedBy; split <;> rfl
@[simp] theorem sealedBy_kind (k j : Ckpt) : (sealedBy k j).kind = j.kind := by unfold sealedBy; split <;> rfl

theorem sealedBy_sealed (k j : Ckpt) : (sealedBy k j).sealedNow = (j.sealedNow || decide (j.num = k.num)) := by
  unfold sealedBy
  split
  next h => simp [h]
  next h => simp [h]

/-- The checkpoints that stay when commit point k has sealed. -/
def keptAfter (c : Core) (k : Ckpt) : List Ckpt :=
  (c.ckpts.map (sealedBy k)).filter (fun j => decide (k.num ≤ j.num) ||
    ({ c with ckpts := c.ckpts.map (sealedBy k) } : Core).retains j)

/-- A core without what a seal changes. -/
def sealRest (c : Core) : Core := { c with arch := Arch.reset, ckpts := [], shadows := [], attLoop := none }

theorem sealPoint_rest (c : Core) (k : Ckpt) : sealRest (c.sealPoint k) = sealRest c := by
  unfold Core.sealPoint
  simp only
  split <;> rfl

theorem sealPoint_tags (c : Core) (k : Ckpt) : (c.sealPoint k).ckpts.map ckptTag = (keptAfter c k).map ckptTag := by
  unfold Core.sealPoint
  simp only
  split
  · exact keep_tags _ _
  · rfl

/-- A checkpoint of the second list stands in the first, but for the state that it saves. -/
theorem exists_of_tags {xs ys : List Ckpt} (h : xs.map ckptTag = ys.map ckptTag) {j : Ckpt} (hj : j ∈ xs) :
    ∃ i ∈ ys, i.num = j.num ∧ i.kind = j.kind ∧ i.sealedNow = j.sealedNow := by
  have hmem : ckptTag j ∈ ys.map ckptTag := h ▸ List.mem_map_of_mem hj
  obtain ⟨i, hi, htag⟩ := List.mem_map.1 hmem
  simp only [ckptTag, Prod.mk.injEq] at htag
  obtain ⟨hnum, hkind, _, hsealed⟩ := htag
  exact ⟨i, hi, hnum, hkind, hsealed⟩

/-- What stays was there before, sealed now if it is the commit point, and is no older unless a drain or refill needs it. -/
theorem sealPoint_old {c : Core} {k j : Ckpt} (hj : j ∈ (c.sealPoint k).ckpts) : ∃ i ∈ c.ckpts, i.num = j.num ∧ i.kind = j.kind ∧
    j.sealedNow = (i.sealedNow || decide (i.num = k.num)) ∧
      (k.num ≤ i.num ∨ ({ c with ckpts := c.ckpts.map (sealedBy k) } : Core).retains (sealedBy k i) = true) := by
  obtain ⟨x, hx, hnum, hkind, hsealed⟩ := exists_of_tags (sealPoint_tags c k) hj
  obtain ⟨hmem, hkept⟩ := List.mem_filter.1 hx
  obtain ⟨i, hi, rfl⟩ := List.mem_map.1 hmem
  rw [sealedBy_num] at hnum
  rw [sealedBy_kind] at hkind
  refine ⟨i, hi, hnum, hkind, by rw [← hsealed, sealedBy_sealed], ?_⟩
  simpa using hkept

/-- What is no older than the commit point stays. -/
theorem sealPoint_new {c : Core} {k i : Ckpt} (hi : i ∈ c.ckpts) (hle : k.num ≤ i.num) : ∃ j ∈ (c.sealPoint k).ckpts,
    j.num = i.num ∧ j.sealedNow = (i.sealedNow || decide (i.num = k.num)) := by
  have hkept : sealedBy k i ∈ keptAfter c k := List.mem_filter.2 ⟨List.mem_map_of_mem hi, by simp [hle]⟩
  obtain ⟨j, hj, hnum, _, hsealed⟩ := exists_of_tags (sealPoint_tags c k).symm hkept
  exact ⟨j, hj, by rw [hnum, sealedBy_num], by rw [hsealed, sealedBy_sealed]⟩

/-- Without a pre-emption or a refill no checkpoint is kept for one. -/
theorem retains_none {c : Core} {k : Ckpt} (hpre : c.preempt = none) (hk : ∀ p, k.kind ≠ .refill p) : c.retains k = false := by
  unfold Core.retains
  split
  · rw [hpre]
  next p hp => exact absurd hp (hk p)
  · rfl

theorem exec_commitPointSealed (core : CoreId) (s : State) :
    exec (.commitPointSealed core) s = .next (s.modCore core (fun c => c.sealDue s.cycle)) := rfl

theorem sealDue_due {c : Core} {k : Ckpt} {now : Nat} (hre : c.restart = none)
    (hfind : c.ckpts.find? (fun k => !k.sealedNow) = some k) (hdue : k.takenAt + 160 ≤ now) : c.sealDue now = c.sealPoint k := by
  have hdelay : k.takenAt + Config.sealDelay ≤ now := hdue
  simp [Core.sealDue, hre, hfind, hdelay]

/-! ### Every seal that is due (R352) -/

/-- What seals leave: the region, what is requested and counted of it, checkpoints of kinds that were there, and a sealed one
where there was one. -/
structure SealsOnly (c d : Core) : Prop where
  rest : sealRest d = sealRest c
  kinds : ∀ j ∈ d.ckpts, ∃ i ∈ c.ckpts, i.kind = j.kind
  seals : (∃ k ∈ c.ckpts, k.sealedNow = true) → ∃ k ∈ d.ckpts, k.sealedNow = true

theorem SealsOnly.refl (c : Core) : SealsOnly c c := ⟨rfl, fun j hj => ⟨j, hj, rfl⟩, id⟩

theorem SealsOnly.trans {c d e : Core} (h : SealsOnly c d) (g : SealsOnly d e) : SealsOnly c e := by
  refine ⟨g.rest.trans h.rest, fun j hj => ?_, fun hs => g.seals (h.seals hs)⟩
  obtain ⟨i, hi, hkind⟩ := g.kinds j hj
  obtain ⟨x, hx, hkind'⟩ := h.kinds i hi
  exact ⟨x, hx, hkind'.trans hkind⟩

theorem sealsOnly_sealPoint {c : Core} {k : Ckpt} (hk : k ∈ c.ckpts) : SealsOnly c (c.sealPoint k) := by
  refine ⟨sealPoint_rest c k, fun j hj => ?_, fun _ => ?_⟩
  · obtain ⟨i, hi, _, hkind, _⟩ := sealPoint_old hj
    exact ⟨i, hi, hkind⟩
  · obtain ⟨j, hj, _, hsealed⟩ := sealPoint_new hk (le_refl k.num)
    exact ⟨j, hj, by simp [hsealed]⟩

theorem sealsOnly_sealDue (c : Core) (now : Nat) : SealsOnly c (c.sealDue now) := by
  unfold Core.sealDue
  split
  · exact .refl c
  · split
    next k hk =>
      split
      · exact sealsOnly_sealPoint (List.mem_of_find?_eq_some hk)
      · exact .refl c
    · exact .refl c

theorem sealsOnly_sealAllDue (c : Core) (now : Nat) : SealsOnly c (c.sealAllDue now) :=
  List.foldlRecOn (motive := SealsOnly c) _ _ (.refl c) fun _ he _ _ => he.trans (sealsOnly_sealDue _ now)

end Sys2Proof.Proofs
end

section
/-! Rollbacks (R350 to R352, R357): held effects that no commit point covers are discarded, the engines stop, and when the
rollback is over the checkpoint's engines are back. -/

namespace Sys2Proof.Proofs

open Sys2Proof Sys2Proof.Machine Sys2Proof.Laws

/-! ### Discarding held effects (R276, R350) -/

theorem unreserve_core (s : State) (k q ring : Nat) (j : CoreId) : DepositFrame (s.core j) ((s.unreserve k q ring).core j) ∧
    ((s.unreserve k q ring).core j).shadows = (s.core j).shadows := by
  unfold State.unreserve
  split
  · by_cases hj : j = coreId k
    · subst hj
      rw [core_modCore_self]
      exact ⟨depositFrame_keep (sparesEngines_modRing ring _) _, rfl⟩
    · rw [core_modCore_ne _ _ _ _ hj]
      exact ⟨.refl _, rfl⟩
  · exact ⟨.refl _, rfl⟩

@[simp] theorem unreserve_now (s : State) (k q ring : Nat) : (s.unreserve k q ring).now = s.now := by
  unfold State.unreserve
  split <;> rfl

/-- A core without the held effects of a kind, its commands and its count of discards as given. -/
def withoutEffects (c : Core) (lost : Held → Bool) (xq : List XCmd) (n : W32) : Core :=
  { c with hold := c.hold.filter (fun h => !lost h), xq := xq, rgdisc := n }

theorem discard_core (s : State) (core : CoreId) (lost : Held → Bool) : (s.discard core lost).now = s.now ∧
    ((s.discard core lost).core core).shadows = (s.core core).shadows ∧
    ∃ xq n, DepositFrame (withoutEffects (s.core core) lost xq n) ((s.discard core lost).core core) := by
  unfold State.discard
  simp only
  refine List.foldlRecOn (motive := fun t : State => t.now = s.now ∧ (t.core core).shadows = (s.core core).shadows ∧
    ∃ xq n, DepositFrame (withoutEffects (s.core core) lost xq n) (t.core core)) _ _ ⟨rfl, ?_, ?_⟩ ?_
  · rw [core_setCore_self]
  · rw [core_setCore_self]
    exact ⟨_, _, .refl _⟩
  rintro t ⟨hnow, hshadows, xq, n, hframe⟩ h -
  split
  next k q r _ _ _ _ =>
    obtain ⟨hun, hsh⟩ := unreserve_core t k q r core
    exact ⟨(unreserve_now _ _ _ _).trans hnow, hsh.trans hshadows, xq, n, hframe.trans hun⟩
  · exact ⟨hnow, hshadows, xq, n, hframe⟩
  · exact ⟨hnow, hshadows, xq, n, hframe⟩

/-! ### A rollback begins (R350) -/

/-- What the rollback of a core to a checkpoint leaves as it begins. -/
structure RollBegun (c : Core) (k : Ckpt) (st : RegionSt) (now : Nat) (d : Core) : Prop where
  region : d.region = st
  restart : d.restart = some (k.num, now + 24 + c.restores k.num)
  cpReq : d.cpReq = []
  mflight : d.arch.mflight = []
  hold : d.hold = c.hold.filter (fun h => !c.undone k.num h)
  tags : d.ckpts.map ckptTag = c.ckpts.map ckptTag
  strikes : d.strikes = c.strikes
  rgstrk : d.rgstrk = c.rgstrk

theorem restores_of_shadows {c d : Core} (h : d.shadows = c.shadows) (n : Nat) : d.restores n = c.restores n := by
  unfold Core.restores
  rw [h]

theorem rollTo_begun (s : State) (core : CoreId) (k : Ckpt) (st : RegionSt) :
    RollBegun (s.core core) k st s.cycle ((s.rollTo core k st).core core) := by
  obtain ⟨hnow, hshadows, xq, n, hlost⟩ := discard_core s core ((s.core core).undone k.num)
  have hcycle : (s.discard core ((s.core core).undone k.num)).cycle = s.cycle := by
    unfold State.cycle
    rw [hnow]
  unfold State.rollTo
  simp only [core_modCore_self, hcycle, restores_of_shadows hshadows]
  have hends := depositFrame_leaseEnds (((s.discard core ((s.core core).undone k.num)).core core).modArch
    (fun a => { a with mflight := [], leases := [] }))
  exact ⟨rfl, rfl, rfl, hends.mflight, hends.hold.trans hlost.hold, hends.tags.trans hlost.tags,
    hends.strikes.trans hlost.strikes, hends.rgstrk.trans hlost.rgstrk⟩

/-- Every effect that stays held is covered by a commit point. -/
theorem RollBegun.covered {c d : Core} {k : Ckpt} {st : RegionSt} {now : Nat} (h : RollBegun c k st now d) :
    ∀ x ∈ d.hold, x.cover ≠ none := by
  intro x hx hnone
  rw [h.hold, List.mem_filter] at hx
  simp [Core.undone, hnone] at hx

/-! ### Strikes (R341, R342, R352) -/

theorem exec_strike_outside (s : State) : exec (.strike []) s = .next (s.modDev (fun d => { d with dstrk := d.dstrk + 1 })) := rfl

theorem exec_strike_near (core : CoreId) (s : State) : exec (.strike [core]) s =
    .next (s.modCore core (fun c => { c with strikes := c.strikes ++ [s.cycle] })) := by
  have hexec : exec (.strike [core]) s = execStrike [core] s := rfl
  rw [hexec]
  simp [execStrike, List.eraseDups_cons]

/-- The core as a report of its oldest strike finds it. -/
def reported (now : Nat) (c : Core) : Core :=
  { c.sealAllDue now with strikes := (c.sealAllDue now).strikes.drop 1, rgstrk := (c.sealAllDue now).rgstrk + 1 }

theorem exec_strikeReport (core : CoreId) (s : State) : exec (.strikeReport core) s = .next (s.strikeReport core) := rfl

/-- Seals and reports leave all but checkpoints, shadows and marks, besides what counts the strike. -/
theorem reported_rest (now : Nat) (c : Core) : sealRest (reported now c) =
    { sealRest c with strikes := c.strikes.drop 1, rgstrk := c.rgstrk + 1 } := by
  have hrest := (sealsOnly_sealAllDue c now).rest
  have hstrikes : (c.sealAllDue now).strikes = c.strikes := (congrArg Core.strikes hrest :)
  have hcount : (c.sealAllDue now).rgstrk = c.rgstrk := (congrArg Core.rgstrk hrest :)
  calc sealRest (reported now c) = { sealRest (c.sealAllDue now) with
          strikes := (c.sealAllDue now).strikes.drop 1, rgstrk := (c.sealAllDue now).rgstrk + 1 } := rfl
    _ = _ := by rw [hrest, hstrikes, hcount]

theorem reported_region (now : Nat) (c : Core) : (reported now c).region = c.region := (congrArg Core.region (reported_rest now c) :)
theorem reported_preempt (now : Nat) (c : Core) : (reported now c).preempt = c.preempt := (congrArg Core.preempt (reported_rest now c) :)
theorem reported_rgstrk (now : Nat) (c : Core) : (reported now c).rgstrk = c.rgstrk + 1 := (congrArg Core.rgstrk (reported_rest now c) :)
theorem reported_strikes (now : Nat) (c : Core) : (reported now c).strikes = c.strikes.drop 1 :=
  (congrArg Core.strikes (reported_rest now c) :)

/-- What a report does once the strike is counted. -/
def afterReport (s : State) (core : CoreId) : State :=
  match (s.core core).region with
  | .idle | .faulted => s
  | _ =>
    match (s.core core).target with
    | none => s
    | some k => (s.modCore core (fun c => { c with recov := none })).rollTo core k .rollback

theorem strikeReport_eq {s : State} {core : CoreId} (hs : (s.core core).strikes ≠ []) (hr : (s.core core).region ≠ .rollback) :
    s.strikeReport core = afterReport (s.modCore core (reported s.cycle)) core := by
  have hcore : s.modCore core (fun c =>
      let c := if c.region = .rollback then c else c.sealAllDue s.cycle
      { c with strikes := c.strikes.drop 1, rgstrk := c.rgstrk + 1 }) = s.modCore core (reported s.cycle) := by
    simp only [State.modCore, if_neg hr, reported]
  unfold State.strikeReport
  rw [if_neg (by simpa using hs)]
  simp only [hcore]
  rfl

theorem strikeReport_idle {s : State} {core : CoreId} (hs : (s.core core).strikes ≠ []) (hr : (s.core core).region = .idle) :
    s.strikeReport core = s.modCore core (reported s.cycle) := by
  rw [strikeReport_eq hs (by simp [hr])]
  simp [afterReport, reported_region, hr]

theorem strikeReport_active {s : State} {core : CoreId} {k : Ckpt} (hs : (s.core core).strikes ≠ [])
    (hr : (s.core core).region = .active) (hk : (reported s.cycle (s.core core)).target = some k) : s.strikeReport core =
      ((s.modCore core (reported s.cycle)).modCore core (fun c => { c with recov := none })).rollTo core k .rollback := by
  rw [strikeReport_eq hs (by simp [hr])]
  simp [afterReport, reported_region, hr, hk]

/-- Where no drain or refill has a checkpoint of its own, a strike returns to the last sealed one. -/
theorem target_reported {c : Core} {now : Nat} (hpre : c.preempt = none) (hk : ∀ j ∈ c.ckpts, ∀ p, j.kind ≠ .refill p)
    (hs : ∃ k ∈ c.ckpts, k.sealedNow = true) :
    ∃ k ∈ (reported now c).ckpts, k.sealedNow = true ∧ (reported now c).target = some k := by
  have hseals := sealsOnly_sealAllDue c now
  have hretains : (reported now c).ckpts.filter (fun k => (reported now c).retains k) = [] := by
    refine List.filter_eq_nil_iff.2 fun k hkm => ?_
    obtain ⟨i, hi, hkind⟩ := hseals.kinds k hkm
    rw [retains_none ((reported_preempt now c).trans hpre) (fun p => hkind ▸ hk i hi p)]
    exact Bool.false_ne_true
  obtain ⟨j, hj, hsealed⟩ := hseals.seals hs
  have hne : (reported now c).ckpts.filter (fun k => k.sealedNow) ≠ [] :=
    List.ne_nil_of_mem (List.mem_filter.2 ⟨hj, hsealed⟩)
  have hlast := List.mem_filter.1 (List.getLast_mem hne)
  refine ⟨_, hlast.1, hlast.2, ?_⟩
  unfold Core.target
  rw [hretains]
  exact List.getLast?_eq_some_getLast hne

end Sys2Proof.Proofs
end

section
/-! The end of a rollback (R350, R351), iteration recoveries (R357), and uncorrectable errors (R340, R354). -/

namespace Sys2Proof.Proofs

open Sys2Proof Sys2Proof.Machine Sys2Proof.Laws

/-! ### The checkpoint is back (R350) -/

/-- The engine has the registers, latches, place and instance number of a checkpoint's. -/
def SameProgress (d e : Eng) : Prop := d.g = e.g ∧ d.t = e.t ∧ d.pc = e.pc ∧ d.inst = e.inst

theorem restored_progress (save live : Arch) (n : Nat) (th : Thread) : SameProgress ((save.restored live n).eng th) (save.eng th) := by
  cases th <;> exact ⟨rfl, rfl, rfl, rfl⟩

/-- What a rollback that has ended leaves of a core. -/
structure RolledBack (c : Core) (k : Ckpt) (d : Core) : Prop where
  region : d.region = .active
  restart : d.restart = none
  rgroll : d.rgroll = c.rgroll + 1
  cpCount : d.cpCount = k.num
  eng : ∀ th, SameProgress (d.arch.eng th) (k.save.eng th)

theorem RolledBack.deposits {c d e : Core} {k : Ckpt} (h : RolledBack c k d) (hframe : DepositFrame d e) : RolledBack c k e :=
  ⟨hframe.region.trans h.region, hframe.restart.trans h.restart, hframe.rgroll.trans h.rgroll, hframe.cpCount.trans h.cpCount,
    hframe.eng ▸ h.eng⟩

theorem RolledBack.holdEff {c d : Core} {k : Ckpt} (h : RolledBack c k d) (now : Nat) (e : Eff) (n : Nat) (th : Thread) (pc : W64)
    (epoch va unit : Nat) : RolledBack c k (d.holdEff now e n th pc epoch va unit) :=
  ⟨h.region, h.restart, h.rgroll, h.cpCount, h.eng⟩

theorem restoreTo_rolledBack {c : Core} {k : Ckpt} (hrecov : c.recov = none) : RolledBack c k (c.restoreTo k) := by
  unfold Core.restoreTo
  simp only [hrecov]
  refine RolledBack.deposits ⟨rfl, rfl, rfl, rfl, ?_⟩ (depositFrame_leaseEnds _)
  exact restored_progress k.save c.arch k.num

theorem reviveRoutines_deposits (s : State) (core : CoreId) : DepositFrame (s.core core) ((s.reviveRoutines core).core core) := by
  unfold State.reviveRoutines
  simp only
  rw [core_modCore_self]
  refine DepositFrame.trans ?_ (depositFrame_modSeq (fun _ => _) _)
  refine List.foldlRecOn (motive := fun t : State => DepositFrame (s.core core) (t.core core)) _ _ (.refl _) ?_
  exact fun t ht _ _ => ht

theorem recordOut_rolledBack {s : State} {core : CoreId} {c : Core} {k : Ckpt} (h : RolledBack c k (s.core core)) (th : Thread)
    (epoch : Nat) (r : FaultRec) (o : ObjRef) (page : Nat) :
    RolledBack c k ((s.recordOut core th epoch r o page).core core) := by
  have hcore : (s.recordOut core th epoch r o page).core core = (s.core core).holdEff s.cycle
      (.record (dieOf core) r o page s.dev.detected) (s.recordEntries (dieOf core)) th r.pc epoch r.va.toNat :=
    core_modCore_self s core fun _ => _
  rw [hcore]
  exact h.holdEff _ _ _ _ _ _ _ _

theorem reparkStream_rolledBack {s : State} {core : CoreId} {c : Core} {k : Ckpt} (h : RolledBack c k (s.core core)) (n : Nat) :
    RolledBack c k ((s.reparkStream core n).core core) := by
  unfold State.reparkStream
  simp only
  split
  · exact h
  · refine List.foldlRecOn (motive := fun t : State => RolledBack c k (t.core core)) _ _ h fun t ht p _ => ?_
    split
    · exact ht
    · exact recordOut_rolledBack ht _ _ _ _ _

theorem repark_rolledBack {s : State} {core : CoreId} {c : Core} {k : Ckpt} (h : RolledBack c k (s.core core)) :
    RolledBack c k ((s.repark core).core core) :=
  List.foldlRecOn (motive := fun t : State => RolledBack c k (t.core core)) _ _ h fun _ ht n _ => reparkStream_rolledBack ht n

theorem exec_rollbackComplete (core : CoreId) (s : State) : exec (.rollbackComplete core) s = .next (s.rollDone core) := rfl

theorem rollDone_early {s : State} {core : CoreId} {n due : Nat} (hre : (s.core core).restart = some (n, due)) (hdue : s.cycle < due) :
    s.rollDone core = s := by
  simp [State.rollDone, hre, hdue]

theorem rollDone_rolledBack {s : State} {core : CoreId} {n due : Nat} {k : Ckpt} (hre : (s.core core).restart = some (n, due))
    (hdue : due ≤ s.cycle) (hconf : (s.core core).conflict n = none) (hrecov : (s.core core).recov = none)
    (hfind : (s.core core).ckpts.find? (fun k => k.num = n) = some k) :
    RolledBack (s.core core) k ((s.rollDone core).core core) := by
  have hdone : s.rollDone core = ((s.setCore core ((s.core core).restoreTo k)).reviveRoutines core).repark core := by
    simp [State.rollDone, hre, Nat.not_lt.2 hdue, hconf, hfind]
  rw [hdone]
  refine repark_rolledBack (RolledBack.deposits ?_ (reviveRoutines_deposits _ core))
  rw [core_setCore_self]
  exact restoreTo_rolledBack hrecov

/-! ### A granule with two shadows (R351) -/

/-- A fatal fault leaves its region faulted, and its record is held. -/
theorem fatalOn_faulted {s : State} {core : CoreId} {tk : Task} (htask : (s.core core).task = some tk) (code : BitVec 8) (pc ea : W64) :
    ((s.fatalOn core code pc ea).core core).region = .faulted ∧ ∃ (e : Held) (r : FaultRec) (m : Nat),
      e ∈ ((s.fatalOn core code pc ea).core core).hold ∧ e.eff = .record (dieOf core) r .other 0 m ∧ r.code = code ∧ r.kind = 4 ∧
        r.core = core.val := by
  unfold State.fatalOn
  simp only [htask, State.recordOut]
  rw [core_modCore_self]
  have hdev : ∀ (t : State) (f : Dev → Dev), (t.modDev f).core core = t.core core := fun _ _ => rfl
  simp only [hdev, core_modCore_self, core_setCore_self]
  exact ⟨rfl, _, _, _, List.mem_map_of_mem (List.mem_append_right _ (List.mem_singleton_self _)), rfl, rfl, rfl, rfl⟩

theorem rollDone_conflict {s : State} {core : CoreId} {n due st g : Nat} {tk : Task} (hre : (s.core core).restart = some (n, due))
    (hdue : due ≤ s.cycle) (hconf : (s.core core).conflict n = some (st, g)) (htask : (s.core core).task = some tk) :
    ∃ (t : State) (pc ea : W64), s.rollDone core = t.fatalOn core Code.shadowConflict pc ea ∧ (t.core core).task = some tk := by
  have hgiven : ∀ (t : State) (v : Option W64), ((t.given v).2.core core) = t.core core := fun t v => by cases v <;> rfl
  unfold State.rollDone
  simp only [hre, if_neg (Nat.not_lt.2 hdue), hconf]
  refine ⟨_, _, _, rfl, ?_⟩
  rw [hgiven, hgiven, core_modCore_self]
  exact htask

/-! ### Iteration recovery (R357) -/

theorem exec_iterationRecoveryRollback (core : CoreId) (s : State) :
    exec (.iterationRecoveryRollback core) s = .next (s.recoverNow core) := rfl

theorem recoverNow_sealed {s : State} {core : CoreId} {r : Recov} {k : Ckpt} (hrecov : (s.core core).recov = some r)
    (hregion : (s.core core).region = .recovery) (hre : (s.core core).restart = none)
    (hpoint : (s.core core).recoveryPoint r = some k) (hsealed : k.sealedNow = true) :
    s.recoverNow core = s.rollTo core k .recovery := by
  simp [State.recoverNow, hrecov, hregion, hre, hpoint, hsealed]

/-! ### Uncorrectable errors (R340, R354) -/

theorem exec_uncorrectableError (p : ErrPlace) (s : State) : exec (.uncorrectableError p) s = execUncorrectableError p s := rfl

theorem error_tile {core : CoreId} {r i : Nat} (hr : r < 768) (hi : i < 16) (s : State) : exec (.uncorrectableError (.tile core r i)) s =
    .next (s.modCore core (fun c => c.strikeCell .tile (r * 16 + i / 2) (fun a => a.poisonRow 0 r i))) := by
  rw [exec_uncorrectableError]
  simp [execUncorrectableError, Nat.not_le.2 hr, Nat.not_le.2 hi]

theorem error_scratch {core : CoreId} {a : Nat} (ha : a < 8388608) (s : State) : exec (.uncorrectableError (.scratch core a)) s =
    .next (s.modCore core (fun c => c.strikeCell .scratch (a / 512 * 512) (fun x =>
      { x with scrP := Store.set false x.scrP (a / 64) true }))) := by
  have hin : ¬ Config.scrBytes ≤ a := Nat.not_le.2 ha
  rw [exec_uncorrectableError]
  simp [execUncorrectableError, hin]

theorem error_barMem {core : CoreId} {a : Nat} (ha : a < 65536) (s : State) : exec (.uncorrectableError (.barMem core a)) s =
    .next (s.modCore core (fun c => c.strikeCell .bar (a / 512 * 512) (fun x =>
      { x with barP := Store.set false x.barP (a / 64) true }))) := by
  rw [exec_uncorrectableError]
  simp [execUncorrectableError, Nat.not_le.2 ha]

theorem error_hbm {a : Nat} (ha : a < 576000000000) (s : State) : exec (.uncorrectableError (.hbm a)) s =
    .next (s.modDev (fun d => { d with hbmP := Store.set false d.hbmP (a / 64) true })) := by
  have hin : ¬ Config.hbmBytes ≤ a := Nat.not_le.2 ha
  rw [exec_uncorrectableError]
  simp [execUncorrectableError, hin]

/-! ### Bank wakes (R71) -/

theorem exec_bankWakeDone (core : CoreId) (bank : Nat) (s : State) : exec (.bankWakeDone core bank) s = .next (s.modCore core
    (fun c => c.modArch (fun a =>
      if Store.get 0 a.bankWake bank ≤ s.cycle then { a with bankWake := Store.set 0 a.bankWake bank 0 } else a))) := rfl

theorem bankWakeDone_over {core : CoreId} {bank : Nat} {s : State} (h : Store.get 0 (s.core core).arch.bankWake bank ≤ s.cycle) :
    exec (.bankWakeDone core bank) s = .next (s.modCore core
      (fun c => c.modArch (fun a => { a with bankWake := Store.set 0 a.bankWake bank 0 }))) := by
  rw [exec_bankWakeDone]
  simp only [State.modCore, Core.modArch, h, if_true]

end Sys2Proof.Proofs
end

section
/-! Effects that leave the hold queue (R346): the head that may not leave changes no memory; one that leaves is performed. -/

namespace Sys2Proof.Proofs

open Sys2Proof Sys2Proof.Machine Sys2Proof.Laws

/-! ### What a release does to the rest -/

theorem autoCp_arch (c : Core) : c.autoCp.arch = c.arch := by
  rcases autoCp_cases c with h | h <;> rw [h]
  rfl

theorem producerStall_arch (c : Core) (who : Nat) : (c.producerStall who).arch = c.arch := by
  unfold Core.producerStall
  split
  · rfl
  · simp only
    split <;> rfl

theorem producerGoes_arch (c : Core) (who : Nat) : (c.producerGoes who).arch = c.arch := by
  unfold Core.producerGoes
  split <;> rfl

theorem foldl_arch {β : Type} (f : Core → β → Core) (hf : ∀ c x, (f c x).arch = c.arch) (xs : List β) (c : Core) :
    (xs.foldl f c).arch = c.arch :=
  List.foldlRecOn (motive := fun d : Core => d.arch = c.arch) xs f rfl fun _ hd x _ => (hf _ x).trans hd

theorem pump_arch (now : Nat) (c : Core) : (Core.pump now c).arch = c.arch := by
  have hheld : ∀ xs : List (Nat × Nat), (xs.foldl (fun (c : Core) x =>
      c.holdEff now (.flit x.1 x.2) 1 .c c.arch.seq.pc c.cpCount 0) c).arch = c.arch :=
    fun xs => foldl_arch (fun (c : Core) x => c.holdEff now (.flit x.1 x.2) 1 .c c.arch.seq.pc c.cpCount 0) (fun _ _ => rfl) xs c
  unfold Core.pump
  simp only
  rw [autoCp_arch]
  split
  · rw [producerStall_arch]
    exact hheld _
  · split
    · exact hheld _
    · rw [producerGoes_arch]
      exact hheld _

theorem irq_rest (s : State) (vec : Nat) : (s.irq vec).cores = s.cores ∧ (s.irq vec).dev.hbm = s.dev.hbm ∧
    (s.irq vec).dev.host = s.dev.host := by
  unfold State.irq
  split <;> exact ⟨rfl, rfl, rfl⟩

theorem finishInval_rest (s : State) : s.finishInval.cores = s.cores ∧ s.finishInval.dev.hbm = s.dev.hbm ∧
    s.finishInval.dev.host = s.dev.host := by
  unfold State.finishInval
  split
  next op n _ =>
    by_cases hdone : op = 6 ∧ s.invDone ⟨if n < 65536 then some n else none, none⟩ s.dev.wseq = true
    · rw [if_pos hdone]
      exact irq_rest _ _
    · rw [if_neg hdone]
      exact ⟨rfl, rfl, rfl⟩
  · exact ⟨rfl, rfl, rfl⟩

theorem askFlush_dev (s : State) (core : CoreId) (scope : Nat) (p : MemWr → Bool) : (s.askFlush core scope p).dev = s.dev := by
  unfold State.askFlush
  split <;> rfl

/-- What the head of the hold queue does when its turn comes. -/
def afterRelease (s : State) (core : CoreId) : State := (s.modCore core (Core.pump s.cycle)).finishInval.bumpFree

theorem afterRelease_hbm (s : State) (core : CoreId) : (afterRelease s core).dev.hbm = s.dev.hbm :=
  (finishInval_rest (s.modCore core (Core.pump s.cycle))).2.1

theorem afterRelease_host (s : State) (core : CoreId) : (afterRelease s core).dev.host = s.dev.host :=
  (finishInval_rest (s.modCore core (Core.pump s.cycle))).2.2

theorem afterRelease_arch (s : State) (core j : CoreId) : ((afterRelease s core).core j).arch = (s.core j).arch := by
  have hcores : (afterRelease s core).core j = (s.modCore core (Core.pump s.cycle)).core j := by
    unfold State.core
    exact congrArg (fun cs : Vector Core 64 => cs[j]) (finishInval_rest (s.modCore core (Core.pump s.cycle))).1
  rw [hcores]
  by_cases hj : j = core
  · subst hj
    rw [core_modCore_self, pump_arch]
  · rw [core_modCore_ne _ _ _ _ hj]

theorem exec_heldEffectRelease (core : CoreId) (s : State) :
    exec (.heldEffectRelease core) s = .next (s.releaseHead core).finishInval.bumpFree := rfl

theorem release_waits {s : State} {core : CoreId} {h : Held} {rest : List Held} (hhold : (s.core core).hold = h :: rest)
    (hleave : s.mayLeave core h = false) : ∃ t : State, exec (.heldEffectRelease core) s = .next (afterRelease t core) ∧ t.dev = s.dev := by
  rw [exec_heldEffectRelease]
  unfold State.releaseHead
  simp only [hhold, hleave, Bool.not_false, if_true]
  refine ⟨_, rfl, ?_⟩
  split
  · split
    · exact askFlush_dev _ _ _ _
    · rfl
  · rfl

/-- An effect that leaves is performed, unless it is a replay's. -/
theorem release_performs {s : State} {core : CoreId} {h : Held} {rest : List Held} {tk : Task} (hhold : (s.core core).hold = h :: rest)
    (hleave : s.mayLeave core h = true) (htask : (s.core core).task = some tk) (hrep : tk.replay = false)
    (haud : tk.audited = false) : exec (.heldEffectRelease core) s =
      .next (afterRelease ((s.modCore core (fun c => { c with hold := rest })).performEffect core h) core) := by
  have hlog : s.logEffect core h = s := by simp [State.logEffect, htask, hrep, haud]
  rw [exec_heldEffectRelease]
  unfold State.releaseHead
  simp only [hhold, hleave, Bool.not_true, Bool.false_eq_true, if_false, htask, hrep, Bool.false_and, hlog]
  rfl

/-! ### A write to HBM (R229, R346) -/

theorem writePlace_alone_hbm {d : Dev} {p : Place} {bs : List Byte} {au : Author} (hk : p.kind = 0)
    (hend : p.pa + bs.length ≤ Config.hbmBytes) (halone : ∀ w ∈ d.wlog, w.au.core ≠ au.core → w.au.at_ ≠ au.at_) (pol : Nat)
    (po : Bool) (a : Nat) : Store.get 0 (d.writePlace p pol bs po au).hbm a =
      if p.pa ≤ a ∧ a < p.pa + bs.length then bs.getD (a - p.pa) 0 else Store.get 0 d.hbm a := by
  have hsame := writePlace_sameBytes_mixed d p pol bs po au
  rw [mixed_alone halone] at hsame
  refine (congrArg (fun m => Store.get 0 m a) hsame.hbm).trans ((writePlace_device_hbm hk pol bs po a).trans ?_)
  by_cases h : p.pa ≤ a ∧ a < p.pa + bs.length
  · obtain ⟨hlo, hhi⟩ := h
    have hin : a - p.pa < bs.length := by omega
    rw [dif_pos ⟨hlo, hin, by omega⟩, if_pos ⟨hlo, hhi⟩]
    simp [List.getD, List.getElem?_eq_getElem hin]
  · rw [if_neg h, dif_neg (fun hc => h ⟨hc.1, by omega⟩)]

/-- Who performs a held effect that no command and no stream made. -/
def holder (s : State) (core : CoreId) (h : Held) : Author := ⟨core.val, h.fromTh, .x, 0, h.id, h.va, h.unit, s.cycle + 1⟩

theorem performEffect_write {s : State} {core : CoreId} {h : Held} {pos pol : Nat} {p : Place} {bs : List Byte} {po : List Bool}
    (heff : h.eff = .write .other pos pol [(p, bs)] po) (hk : p.kind = 0) :
    s.performEffect core h = s.modDev (fun d => d.writePlace p pol bs (po.getD 0 false) (holder s core h)) := by
  have hlost : s.dev.lostLines [(p, bs)] = [] := by simp [Dev.lostLines, Dev.lostPlace, hk]
  unfold State.performEffect
  simp only [heff, hlost]
  rfl

/-! ### A signal (R225, R243) -/

/-- What counts of a core's semaphores: its own, and those put aside for a replay. -/
def SameSems (c d : Core) : Prop := d.real = c.real ∧ d.arch.sems = c.arch.sems

theorem sameSems_order (c : Core) (r : Nat) (p : ScrWr → Bool) : SameSems c (c.modArch (fun a => a.order r p)) := ⟨rfl, rfl⟩

/-- The order in which scratchpad writes are known is no part of what a signal counts. -/
theorem signalArrives_core (s : State) (core : CoreId) (id k n : Nat) (j : CoreId) :
    SameSems (s.core j) ((s.signalArrives core id k n).core j) := by
  let here : ScrWr → Bool := fun w => w.known.contains (signalTok core.val id)
  let learned : Core → Core := fun c => if c.arch.scrLog.any here then c.modArch (fun a => a.order (farTok k n) here) else c
  let t : State := { s with cores := s.cores.map learned }
  have hlearned : SameSems (s.core j) (t.core j) := by
    have hcore : t.core j = learned (s.core j) := by
      simp only [State.core, t, Fin.getElem_fin, Vector.getElem_map]
    rw [hcore]
    simp only [learned]
    split
    · exact sameSems_order _ _ _
    · exact ⟨rfl, rfl⟩
  have hcore : (s.signalArrives core id k n).core j =
    (t.modCore (coreId k) (fun c => c.modArch (fun a => a.order (semFarTok n) here))).core j := rfl
  rw [hcore]
  by_cases hj : j = coreId k
  · subst hj
    rw [core_modCore_self]
    exact hlearned
  · rw [core_modCore_ne _ _ _ _ hj]
    exact hlearned

theorem sem_semAdd {c : Core} (hreal : c.real = none) (m : Nat) (v : W32) : (c.semAdd .outside m v).arch.sem m = c.arch.sem m + v := by
  have hadd : c.semAdd .outside m v = c.keep (fun a => a.addSem m v) := by
    unfold Core.semAdd
    rw [hreal]
    rfl
  rw [hadd]
  simp [Core.keep, Arch.addSem, Arch.setSem, Arch.sem]

theorem performEffect_signal {s : State} {core : CoreId} {h : Held} {k m n : Nat} (heff : h.eff = .signal k m n)
    (hreal : (s.core (coreId k)).real = none) : ((s.performEffect core h).core (coreId k)).arch.sem m =
      (s.core (coreId k)).arch.sem m + BitVec.ofNat 32 n := by
  obtain ⟨hr, hs⟩ := signalArrives_core s core h.id k m (coreId k)
  unfold State.performEffect
  simp only [heff, core_modCore_self, autoCp_arch]
  rw [sem_semAdd (hr.trans hreal)]
  unfold Arch.sem
  rw [hs]

end Sys2Proof.Proofs
end

section
/-! The events of the containment region (O45), clause by clause, and the obligation. -/

namespace Sys2Proof.Proofs

open Sys2Proof Sys2Proof.Machine Sys2Proof.Laws

/-! ### The clauses -/

section Clauses

variable {core : CoreId} {s : State}

theorem bankWakeDone_wakes {bank : Nat} (h : Store.get 0 (s.core core).arch.bankWake bank ≤ s.cycle) : ∃ t : State,
    exec (.bankWakeDone core bank) s = .next t ∧ Store.get 0 (t.core core).arch.bankWake bank = 0 ∧
      ∀ b, b ≠ bank → Store.get 0 (t.core core).arch.bankWake b = Store.get 0 (s.core core).arch.bankWake b := by
  refine ⟨_, bankWakeDone_over h, ?_, fun b hb => ?_⟩
  · rw [core_modCore_self]
    exact (get_set 0 (s.core core).arch.bankWake bank 0 bank).trans (if_pos rfl)
  · rw [core_modCore_self]
    exact (get_set 0 (s.core core).arch.bankWake bank 0 b).trans (if_neg hb)

theorem commitPointTaken_adds {k : CpKind} {rest : List CpKind} (hreq : (s.core core).cpReq = k :: rest)
    (hpre : (s.core core).preempt = none) (hcan : (s.core core).canTake s.cycle = true) : ∃ (t : State) (cp : Ckpt),
      exec (.commitPointTaken core) s = .next t ∧ (t.core core).cpReq = rest ∧ (t.core core).cpCount = (s.core core).cpCount + 1 ∧
      (t.core core).ckpts = (s.core core).ckpts ++ [cp] ∧ cp.num = (s.core core).cpCount + 1 ∧ cp.kind = k ∧
      cp.takenAt = s.cycle ∧ cp.sealedNow = false ∧ ∀ h ∈ (t.core core).hold, h.since < s.cycle → h.cover ≠ none := by
  obtain ⟨a, ha⟩ := take_eq { s.core core with cpReq := rest } k s.cycle
  refine ⟨_, ⟨(s.core core).cpCount + 1, k, s.cycle, false, a.forPoint k⟩,
    (exec_commitPointTaken core s).trans (congrArg _ (takePoint_taken hreq hpre hcan)), ?_⟩
  rw [core_setCore_self, ha]
  refine ⟨rfl, rfl, rfl, rfl, rfl, rfl, rfl, fun h hh hs => ?_⟩
  obtain ⟨h', _, rfl⟩ := List.mem_map.1 hh
  exact cover_of_covered hs

theorem commitPointSealed_seals {k : Ckpt} (hre : (s.core core).restart = none) (hpre : (s.core core).preempt = none)
    (hkinds : ∀ j ∈ (s.core core).ckpts, ∀ p, j.kind ≠ .refill p)
    (hfind : (s.core core).ckpts.find? (fun k => !k.sealedNow) = some k) (hdue : k.takenAt + 160 ≤ s.cycle) : ∃ t : State,
      exec (.commitPointSealed core) s = .next t ∧ (∃ j ∈ (t.core core).ckpts, j.num = k.num) ∧
      ∀ j ∈ (t.core core).ckpts, k.num ≤ j.num ∧ (j.num = k.num → j.sealedNow = true) := by
  refine ⟨_, exec_commitPointSealed core s, ?_⟩
  rw [core_modCore_self, sealDue_due hre hfind hdue]
  refine ⟨?_, fun j hj => ?_⟩
  · obtain ⟨j, hj, hnum, _⟩ := sealPoint_new (List.mem_of_find?_eq_some hfind) (le_refl k.num)
    exact ⟨j, hj, hnum⟩
  · obtain ⟨i, hi, hnum, _, hsealed, hkept⟩ := sealPoint_old hj
    refine ⟨?_, fun hk => by rw [hsealed, hnum, hk]; simp⟩
    rcases hkept with hle | hret
    · exact hnum ▸ hle
    · exact absurd (hret.symm.trans (retains_none hpre (fun p => (sealedBy_kind k i).symm ▸ hkinds i hi p))) (by decide)

theorem release_write {h : Held} {rest : List Held} {tk : Task} (hhold : (s.core core).hold = h :: rest)
    (hleave : s.mayLeave core h = true) (htask : (s.core core).task = some tk) (hrep : tk.replay = false)
    (haud : tk.audited = false) {pos pol : Nat} {p : Place} {bs : List Byte} {po : List Bool}
    (heff : h.eff = .write .other pos pol [(p, bs)] po) (hk : p.kind = 0) (hend : p.pa + bs.length ≤ 576000000000)
    (halone : ∀ w ∈ s.dev.wlog, w.au.core ≠ core.val → w.au.at_ ≠ s.cycle + 1) : ∃ t : State,
      exec (.heldEffectRelease core) s = .next t ∧ ∀ a, Store.get 0 t.dev.hbm a =
        if p.pa ≤ a ∧ a < p.pa + bs.length then bs.getD (a - p.pa) 0 else Store.get 0 s.dev.hbm a := by
  refine ⟨_, release_performs hhold hleave htask hrep haud, fun a => ?_⟩
  rw [afterRelease_hbm, performEffect_write heff hk]
  exact writePlace_alone_hbm (d := s.dev) hk hend halone pol _ a

theorem release_signal {h : Held} {rest : List Held} {tk : Task} (hhold : (s.core core).hold = h :: rest)
    (hleave : s.mayLeave core h = true) (htask : (s.core core).task = some tk) (hrep : tk.replay = false)
    (haud : tk.audited = false) {k m n : Nat} (heff : h.eff = .signal k m n) (hreal : (s.core (coreId k)).real = none) : ∃ t : State,
      exec (.heldEffectRelease core) s = .next t ∧
        (t.core (coreId k)).arch.sem m = (s.core (coreId k)).arch.sem m + BitVec.ofNat 32 n := by
  have hdrop : SameSems (s.core (coreId k)) ((s.modCore core (fun c => { c with hold := rest })).core (coreId k)) := by
    by_cases hj : coreId k = core
    · rw [hj, core_modCore_self]
      exact ⟨rfl, rfl⟩
    · rw [core_modCore_ne _ _ _ _ hj]
      exact ⟨rfl, rfl⟩
  refine ⟨_, release_performs hhold hleave htask hrep haud, ?_⟩
  rw [afterRelease_arch, performEffect_signal heff (hdrop.1.trans hreal)]
  unfold Arch.sem
  rw [hdrop.2]

theorem strikeReport_rolls (hs : (s.core core).strikes ≠ []) (hr : (s.core core).region = .active)
    (hpre : (s.core core).preempt = none) (hkinds : ∀ j ∈ (s.core core).ckpts, ∀ p, j.kind ≠ .refill p)
    (hseal : ∃ k ∈ (s.core core).ckpts, k.sealedNow = true) :
    ∃ (t : State) (n : Nat), exec (.strikeReport core) s = .next t ∧ (t.core core).region = .rollback ∧
      (t.core core).rgstrk = (s.core core).rgstrk + 1 ∧ (t.core core).strikes = (s.core core).strikes.drop 1 ∧
      (t.core core).restart = some (n, s.cycle + 24 + ((s.core core).sealAllDue s.cycle).restores n) ∧
      (∃ j ∈ (t.core core).ckpts, j.num = n ∧ j.sealedNow = true) ∧ (t.core core).cpReq = [] ∧
      (t.core core).arch.mflight = [] ∧ ∀ h ∈ (t.core core).hold, h.cover ≠ none := by
  obtain ⟨k, hk, hsealed, htarget⟩ := target_reported (now := s.cycle) hpre hkinds hseal
  let u := (s.modCore core (reported s.cycle)).modCore core (fun c => { c with recov := none })
  have hcore : u.core core = { reported s.cycle (s.core core) with recov := none } := by
    simp only [u, core_modCore_self]
  have hroll := rollTo_begun u core k .rollback
  rw [hcore] at hroll
  obtain ⟨j, hj, htag⟩ := List.mem_map.1 (hroll.tags.symm ▸ List.mem_map_of_mem hk)
  simp only [ckptTag, Prod.mk.injEq] at htag
  obtain ⟨hnum, _, _, hjs⟩ := htag
  exact ⟨_, k.num, (exec_strikeReport core s).trans (congrArg _ (strikeReport_active hs hr htarget)), hroll.region,
    hroll.rgstrk.trans (reported_rgstrk _ _), hroll.strikes.trans (reported_strikes _ _), hroll.restart,
    ⟨j, hj, hnum, hjs.trans hsealed⟩, hroll.cpReq, hroll.mflight, hroll.covered⟩

theorem strikeReport_counts (hs : (s.core core).strikes ≠ []) (hr : (s.core core).region = .idle) : ∃ t : State,
    exec (.strikeReport core) s = .next t ∧ (t.core core).region = .idle ∧ (t.core core).rgstrk = (s.core core).rgstrk + 1 := by
  refine ⟨_, (exec_strikeReport core s).trans (congrArg _ (strikeReport_idle hs hr)), ?_⟩
  rw [core_modCore_self]
  exact ⟨(reported_region _ _).trans hr, reported_rgstrk _ _⟩

theorem rollbackComplete_restores {n due : Nat} {k : Ckpt} (hre : (s.core core).restart = some (n, due)) (hdue : due ≤ s.cycle)
    (hconf : (s.core core).conflict n = none) (hrecov : (s.core core).recov = none)
    (hfind : (s.core core).ckpts.find? (fun k => k.num = n) = some k) : ∃ t : State,
      exec (.rollbackComplete core) s = .next t ∧ (t.core core).region = .active ∧ (t.core core).restart = none ∧
        (t.core core).rgroll = (s.core core).rgroll + 1 ∧ (t.core core).cpCount = n ∧
        ∀ th, ((t.core core).arch.eng th).g = (k.save.eng th).g ∧ ((t.core core).arch.eng th).t = (k.save.eng th).t ∧
          ((t.core core).arch.eng th).pc = (k.save.eng th).pc ∧ ((t.core core).arch.eng th).inst = (k.save.eng th).inst := by
  have hback := rollDone_rolledBack hre hdue hconf hrecov hfind
  have hnum : k.num = n := by simpa using List.find?_some hfind
  exact ⟨_, exec_rollbackComplete core s, hback.region, hback.restart, hback.rgroll, hback.cpCount.trans hnum, hback.eng⟩

theorem rollbackComplete_conflict {n due st g : Nat} {tk : Task} (hre : (s.core core).restart = some (n, due)) (hdue : due ≤ s.cycle)
    (hconf : (s.core core).conflict n = some (st, g)) (htask : (s.core core).task = some tk) : ∃ t : State,
      exec (.rollbackComplete core) s = .next t ∧ (t.core core).region = .faulted ∧
        ∃ (e : Held) (r : FaultRec) (m : Nat), e ∈ (t.core core).hold ∧ e.eff = .record (dieOf core) r .other 0 m ∧
          r.code = Code.shadowConflict ∧ r.kind = 4 ∧ r.core = core.val := by
  obtain ⟨t, pc, ea, hdone, htask'⟩ := rollDone_conflict hre hdue hconf htask
  exact ⟨_, (exec_rollbackComplete core s).trans (congrArg _ hdone), fatalOn_faulted htask' _ _ _⟩

theorem iterationRecovery_rolls {r : Recov} {k : Ckpt} (hrecov : (s.core core).recov = some r)
    (hregion : (s.core core).region = .recovery) (hre : (s.core core).restart = none)
    (hpoint : (s.core core).recoveryPoint r = some k) (hsealed : k.sealedNow = true) : ∃ t : State,
      exec (.iterationRecoveryRollback core) s = .next t ∧ (t.core core).region = .recovery ∧
      ∃ due, (t.core core).restart = some (k.num, due) := by
  have hroll := rollTo_begun s core k .recovery
  exact ⟨_, (exec_iterationRecoveryRollback core s).trans (congrArg _ (recoverNow_sealed hrecov hregion hre hpoint hsealed)),
    hroll.region, _, hroll.restart⟩

end Clauses

/-! ### The obligation -/

theorem get_set_self {α : Type} [DecidableEq α] (d : α) (st : Store α) (k : Nat) (v : α) :
    Store.get d (Store.set d st k v) k = v :=
  (get_set d st k v k).trans (if_pos rfl)

/-- Settles O45: each clause is what the lemma named says of its event. -/
theorem regionEvents : Obligations.RegionEvents := by
  unfold Obligations.RegionEvents
  intro core s
  refine ⟨fun bank => bankWakeDone_wakes, fun k rest hreq hpre => ⟨commitPointTaken_adds hreq hpre, fun hcan => ?_⟩,
    fun k hre hpre hkinds hfind hdue => commitPointSealed_seals hre hpre hkinds hfind hdue,
    fun h rest hhold => ⟨fun hleave => ?_, fun tk hleave htask hrep haud => ⟨?_, ?_⟩⟩, ⟨_, exec_strike_outside s, rfl⟩,
    ⟨_, exec_strike_near core s, ?_, rfl⟩, strikeReport_rolls, strikeReport_counts,
    fun n due hre => ⟨fun hdue => ?_, fun k hdue hconf hrecov hfind => rollbackComplete_restores hre hdue hconf hrecov hfind,
      fun st g tk hdue hconf htask _ => rollbackComplete_conflict hre hdue hconf htask⟩,
    fun r k hrecov hregion hre hpoint hsealed => iterationRecovery_rolls hrecov hregion hre hpoint hsealed,
    fun r i hr hi => ⟨_, error_tile hr hi s, ?_⟩, fun a ha => ⟨_, error_scratch ha s, ?_⟩,
    fun a ha => ⟨_, error_barMem ha s, ?_⟩, fun a ha => ⟨_, error_hbm ha s, get_set_self _ _ _ _, rfl⟩⟩
  · rw [exec_commitPointTaken, takePoint_waits hcan]
  · obtain ⟨t, hexec, hdev⟩ := release_waits hhold hleave
    exact ⟨_, hexec, (afterRelease_hbm t core).trans (congrArg Dev.hbm hdev), (afterRelease_host t core).trans (congrArg Dev.host hdev)⟩
  · exact fun pos pol p bs po heff hk hend halone => release_write hhold hleave htask hrep haud heff hk hend halone
  · exact fun k m n heff hreal => release_signal hhold hleave htask hrep haud heff hreal
  · rw [core_modCore_self]
  · rw [exec_rollbackComplete, rollDone_early hre hdue]
  · rw [core_modCore_self]
    exact ⟨get_set_self _ _ _ _, rfl⟩
  · rw [core_modCore_self]
    exact ⟨get_set_self _ _ _ _, rfl⟩
  · rw [core_modCore_self]
    exact ⟨get_set_self _ _ _ _, rfl⟩

end Sys2Proof.Proofs
end

section
/-! Tile tasks (R74, R289 to R293, R359 to R362): what binding sets, what the end of a task leaves, and how an audit compares. -/

namespace Sys2Proof.Proofs

open Sys2Proof Sys2Proof.Machine Sys2Proof.Laws

/-! ### The context's state and commit points that are sealed at once (R302, R341) -/

@[simp] theorem settleCtx_cores (s : State) (ctx : Nat) : (s.settleCtx ctx).cores = s.cores := by
  unfold State.settleCtx
  simp only
  split <;> rfl

theorem settleCtx_core (s : State) (ctx : Nat) (j : CoreId) : (s.settleCtx ctx).core j = s.core j := by
  unfold State.core
  rw [settleCtx_cores]

/-- The device without its contexts. -/
def withoutCtxs (d : Dev) : Dev := { d with ctxs := [] }

theorem settleCtx_dev (s : State) (ctx : Nat) : withoutCtxs (s.settleCtx ctx).dev = withoutCtxs s.dev := by
  unfold State.settleCtx
  simp only
  split <;> rfl

/-- A checkpoint that is sealed as it is taken changes no engine, nor the task, the region or the pre-emption. -/
structure KeepsTask (c d : Core) : Prop where
  arch : d.arch = c.arch
  task : d.task = c.task
  region : d.region = c.region
  preempt : d.preempt = c.preempt

theorem takeSealed_keepsTask {k : CpKind} (hk : k ≠ .sealSection) (c : Core) (now : Nat) : KeepsTask c (c.takeSealed k now) := by
  unfold Core.takeSealed Core.take
  simp only [if_neg hk]
  exact ⟨rfl, rfl, rfl, rfl⟩

/-! ### Binding (R74, R289) -/

/-- The engine stands at a kernel entry in user mode. -/
structure AtEntry (e : Eng) (pc tvec : W64) : Prop where
  pc : e.pc = pc
  run : e.run = .run
  status : e.status = 0
  inst : e.inst = 0
  tvec : e.tvec = tvec

theorem bound_atEntry (a : Arch) (b : Bundle) (ord : Nat) (x : Ctx) (i : Image) (now busy : Nat) {th : Thread} (hth : th ∈ kernelThreads) :
    AtEntry ((a.bound b ord x i now busy).eng th) (BitVec.ofNat 64 (i.addr + i.textOff)) x.tvec := by
  cases th with
  | chap => exact absurd hth (by decide)
  | c | a | v | m => exact ⟨rfl, rfl, rfl, rfl, rfl⟩

/-- What binding leaves of its core. -/
structure Bound (c : Core) (b : Bundle) (ord : Nat) (x : Ctx) (i : Image) : Prop where
  task : ∃ tk, c.task = some tk ∧ tk.bundle = b.id ∧ tk.ord = ord ∧ tk.ctx = b.ctx ∧ tk.st = .running
  region : c.region = .active
  eng : ∀ th ∈ kernelThreads, AtEntry (c.arch.eng th) (BitVec.ofNat 64 (i.addr + i.textOff)) x.tvec

theorem Bound.takeSealed {c : Core} {b : Bundle} {ord : Nat} {x : Ctx} {i : Image} (h : Bound c b ord x i) (now : Nat) :
    Bound (c.takeSealed .binding now) b ord x i := by
  obtain ⟨harch, htask, hregion, _⟩ := takeSealed_keepsTask (k := .binding) (by decide) c now
  exact ⟨htask ▸ h.task, hregion.trans h.region, harch ▸ h.eng⟩

theorem bindTask_bound (s : State) (core : CoreId) (b : Bundle) (ord delay : Nat) (i : Image) (replay : Option Audit) (audited : Bool) :
    Bound ((s.bindTask core b ord delay i replay audited).core core) b ord (s.dev.ctx b.ctx) i := by
  unfold State.bindTask
  simp only [settleCtx_core, core_modCore_self]
  refine Bound.takeSealed ?_ _
  exact ⟨⟨_, rfl, rfl, rfl, rfl, rfl⟩, rfl, fun th hth => bound_atEntry _ _ _ _ _ _ _ hth⟩

/-! ### The walker (R290, R291) -/

@[simp] theorem sample_ctxs (d : Dev) (audit : Bool) : (d.sample audit).1.ctxs = d.ctxs := by
  unfold Dev.sample
  split <;> rfl

theorem bindNext_bound {s : State} {die n : Nat} {b : Bundle} {i : Image} (himg : (s.dev.ctx b.ctx).image b.img = some i) :
    Bound ((s.bindNext die n b).core (coreId n)) b b.next (s.dev.ctx b.ctx) i := by
  unfold State.bindNext
  simp only [himg]
  refine Eq.subst (motive := fun x => Bound _ b b.next x i) ?_ (bindTask_bound _ _ _ _ _ _ _ _)
  exact congrArg (fun xs => Store.get Ctx.free xs b.ctx) (sample_ctxs s.dev i.audit)

theorem exec_walkerBind (die : Fin 2) (s : State) : exec (.walkerBind die.val) s = .next (s.walk die) := by
  have hdie : (⟨die.val % 2, Nat.mod_lt _ (by decide)⟩ : Fin 2) = die := Fin.ext (Nat.mod_eq_of_lt die.isLt)
  have hexec : exec (.walkerBind die.val) s = .next (s.walk ⟨die.val % 2, Nat.mod_lt _ (by decide)⟩) := rfl
  rw [hexec, hdie]

/-- A walker whose binding is noted. -/
def bindNoted (s : State) (die : Fin 2) (w : Walker) : State :=
  s.modDev (fun d => { d with walkers := d.walkers.set die { w with lastBind := s.uncore + 1 } })

theorem walk_binds {s : State} {die : Fin 2} {n : Nat} {b : Bundle} {w : Walker} (hlast : s.dev.walkers[die].lastBind ≤ s.uncore)
    (hfind : ((List.range 32).map (fun k => 32 * die.val + k)).find? (fun n => !(s.candidates n).isEmpty ||
      ((s.core (coreId n)).isFree && !(s.dev.replayFor n).isEmpty)) = some n)
    (hpick : s.dev.walkers[die].pick (s.uncore / 4096) (s.candidates n)
      (if (s.core (coreId n)).isFree then s.dev.replayFor n else []) = some (.inl b, w)) :
    s.walk die = (bindNoted s die w).bindNext die.val n b := by
  unfold State.walk
  simp only [if_neg (Nat.not_lt.2 hlast), hfind, hpick]
  rfl

/-! ### The end of a task (R293, R360) -/

theorem vacate_ends (c : Core) : c.vacate.task = none ∧ c.vacate.region = .idle ∧ c.vacate.arch.scr = c.arch.scr := by
  unfold Core.vacate
  refine ⟨rfl, rfl, ?_⟩
  simp only
  split <;> rfl

theorem exec_tileTaskRetire (core : CoreId) (s : State) : exec (.tileTaskRetire core) s = execTileTaskRetire core s := rfl

theorem tileTaskRetire_waits {core : CoreId} {s : State} (h : s.mayRetire core = false) : exec (.tileTaskRetire core) s = .next s := by
  rw [exec_tileTaskRetire]
  unfold execTileTaskRetire
  cases htask : (s.core core).task with
  | none => simp [htask]
  | some t => simp [htask, h]

theorem tileTaskRetire_retires {core : CoreId} {s : State} {tk : Task} (htask : (s.core core).task = some tk)
    (hrep : tk.replay = false) (h : s.mayRetire core = true) : ∃ t : State, exec (.tileTaskRetire core) s = .next t ∧
      t.core core = (s.core core).vacate := by
  rw [exec_tileTaskRetire]
  unfold execTileTaskRetire
  simp only [htask, h, hrep, Bool.not_true, Bool.false_eq_true, or_self, if_false]
  refine ⟨_, rfl, ?_⟩
  rw [settleCtx_core]
  exact core_modCore_self _ core Core.vacate

/-! ### Audits (R360, R362) -/

theorem exec_auditReplayDone (core : CoreId) (s : State) : exec (.auditReplayDone core) s = execAuditReplayDone core s := rfl

theorem auditReplayDone_compares {core : CoreId} {s : State} {tk : Task} {a : Audit} (htask : (s.core core).task = some tk)
    (hrep : tk.replay = true) (h : s.mayRetire core = true)
    (hfind : s.dev.audits.find? (fun a => a.b.id = tk.bundle && a.ord = tk.ord) = some a) : exec (.auditReplayDone core) s =
      .next (((s.modCore core Core.vacate).settleCtx tk.ctx).compare a core.val tk.sig) := by
  rw [exec_auditReplayDone]
  unfold execAuditReplayDone
  simp [htask, h, hrep, hfind]

theorem compare_equal {s : State} {a : Audit} {core : Nat} {sig : W64} (hfirst : a.replays = []) (hsig : sig = a.sig) :
    s.compare a core sig = s.modDev (fun d => { d with mtch := d.mtch + 1, audits := d.audits.filter (fun x =>
      !(x.b.id = a.b.id && x.ord = a.ord)) }) := by
  unfold State.compare
  simp only [hfirst, if_pos hsig]
  rfl

/-- An audit with the first replay's signature, which waits for a second. -/
def secondReplay (a : Audit) (core : Nat) (sig : W64) (x : Audit) : Audit :=
  if x.b.id = a.b.id ∧ x.ord = a.ord then { x with replays := [(core, sig)], toBind := true } else x

theorem compare_differs {s : State} {a : Audit} {core : Nat} {sig : W64} (hfirst : a.replays = []) (hsig : sig ≠ a.sig) :
    s.compare a core sig = s.modDev (fun d => { d with audits := d.audits.map (secondReplay a core sig) }) := by
  unfold State.compare
  simp only [hfirst, if_neg hsig]
  rfl

/-- A core that is left without its task. -/
theorem clearTask_ends (s : State) (core : CoreId) : ((s.clearTask core).core core).task = none ∧
    (s.clearTask core).dev.aban = s.dev.aban := by
  unfold State.clearTask
  simp only
  refine List.foldlRecOn (motive := fun t : State => (t.core core).task = none ∧ t.dev.aban = s.dev.aban) _ _ ⟨?_, ?_⟩ ?_
  · exact (congrArg Core.task (core_setCore_self s _ core) :).trans (vacate_ends _).1
  · change ((s.setCore core _).dev.taskOver core).aban = s.dev.aban
    unfold Dev.taskOver
    split <;> rfl
  · rintro t ⟨htask, haban⟩ h -
    split
    next k q r _ _ _ _ =>
      refine ⟨(unreserve_core t k q r core).1.task.trans htask, ?_⟩
      unfold State.unreserve
      split <;> exact haban
    · exact ⟨htask, haban⟩

theorem abandonAudit_replay {s : State} {core : CoreId} {tk : Task} (htask : (s.core core).task = some tk) (hrep : tk.replay = true) :
    s.abandonAudit core = (s.modDev (fun d => { (d.dropAudit tk) with aban := d.aban + 1 })).clearTask core := by
  unfold State.abandonAudit
  simp only [htask, hrep, if_true]

theorem exec_auditReplayAbandon (core : CoreId) (s : State) : exec (.auditReplayAbandon core) s = execAuditReplayAbandon core s := rfl

theorem auditReplayAbandon_ends {core : CoreId} {s : State} {tk : Task} (htask : (s.core core).task = some tk) (hrep : tk.replay = true)
    (hlong : ((s.core core).noteUnmet s.cycle).waitsLong s.cycle = true) : ∃ t : State,
      exec (.auditReplayAbandon core) s = .next t ∧ t.dev.aban = s.dev.aban + 1 ∧ (t.core core).task = none := by
  obtain ⟨hnone, haban⟩ := clearTask_ends (s.modDev (fun d => { (d.dropAudit tk) with aban := d.aban + 1 })) core
  have hexec : exec (.auditReplayAbandon core) s = .next (((s.modDev (fun d =>
      { (d.dropAudit tk) with aban := d.aban + 1 })).clearTask core).settleCtx tk.ctx) := by
    rw [exec_auditReplayAbandon, ← abandonAudit_replay htask hrep]
    unfold execAuditReplayAbandon
    simp [htask, hrep, hlong]
  refine ⟨_, hexec, ?_, ?_⟩
  · exact (congrArg Dev.aban (settleCtx_dev _ tk.ctx) :).trans haban
  · rw [settleCtx_core]
    exact hnone

end Sys2Proof.Proofs
end

section
/-! Pre-emption (R311 to R314) and answers to service requests (R317). -/

namespace Sys2Proof.Proofs

open Sys2Proof Sys2Proof.Machine Sys2Proof.Laws

/-! ### The request (R311) -/

theorem exec_walkerPreemptRequest (bundle : Nat) (s : State) :
    exec (.walkerPreemptRequest bundle) s = execWalkerPreemptRequest bundle s := rfl

/-- A core whose task is no replay and of another context takes the request. -/
theorem latch_asks {s : State} {core : CoreId} {b : Bundle} {tk : Task} (htask : (s.core core).task = some tk)
    (hst : tk.st = .running) (hrep : tk.replay = false) (hctx : tk.ctx ≠ b.ctx) (hpre : (s.core core).preempt = none) :
    (((s.latch core b).1).core core).preempt = some (Preempt.ask b.id) := by
  unfold State.latch
  simp [htask, hpre, hst, hrep, hctx]

theorem walkerPreemptRequest_asks {core : CoreId} {s : State} {b r : Bundle} {tk : Task} (hb : s.dev.bundle b.id = some b)
    (hact : b.st = .active) (hleft : b.next < b.total) (hcls : b.cls = 0) (hsince : b.since + 4096 ≤ s.uncore)
    (hcores : s.dev.coresOf b.ctx b.cores = [core.val]) (htask : (s.core core).task = some tk) (hst : tk.st = .running)
    (hrep : tk.replay = false) (hctx : tk.ctx ≠ b.ctx) (hsaved : (s.core core).saved = []) (hr : s.dev.bundle tk.bundle = some r)
    (hrcls : 2 ≤ r.cls) (hwalks : s.dev.walks b.ctx core.val = true) (hpre : (s.core core).preempt = none) : ∃ t : State,
      exec (.walkerPreemptRequest b.id) s = .next t ∧ (t.core core).preempt = some (Preempt.ask b.id) := by
  refine ⟨_, ?_, latch_asks htask hst hrep hctx hpre⟩
  rw [exec_walkerPreemptRequest]
  simp [execWalkerPreemptRequest, hb, State.expressAsks, hact, hleft, hcls, hsince, hcores, coreId_val, htask, hst, hsaved, hr,
    hrcls, hwalks]

/-! ### The drain (R312) -/

/-- Every engine of a list changes, and only those. -/
theorem eng_foldl_modEng {f : Eng → Eng} {ts : List Thread} (hnodup : ts.Nodup) (a : Arch) (th : Thread) :
    (ts.foldl (fun (a : Arch) t => a.modEng t f) a).eng th = if th ∈ ts then f (a.eng th) else a.eng th := by
  induction ts generalizing a with
  | nil => simp
  | cons t ts ih =>
    obtain ⟨hnot, hrest⟩ := List.nodup_cons.1 hnodup
    rw [List.foldl_cons, ih hrest]
    by_cases h : th = t
    · subst h
      simp [hnot]
    · simp [h, eng_modEng_ne _ _ _ _ h]

theorem running_nodup (a : Arch) : a.running.Nodup := List.Nodup.filter _ (by decide)

theorem toStub_eng (a : Arch) (pc : Nat) {th : Thread} (h : th ∈ a.running) : (a.toStub pc).eng th = (a.eng th).toStub pc := by
  unfold Arch.toStub
  rw [eng_foldl_modEng (running_nodup a), if_pos h]

theorem exec_preemptDrainEntry (core : CoreId) (s : State) : exec (.preemptDrainEntry core) s = .next (s.drainEntry core) := rfl

theorem drainEntry_enters {core : CoreId} {s : State} {p : Preempt} {n : Nat} (hpre : (s.core core).preempt = some p)
    (hst : p.st = .latched (some n)) (hat : (s.core core).arch.running.all (fun th => ((s.core core).arch.eng th).waitsAt n) = true)
    (hcan : (s.core core).canTake s.cycle = true) (hreq : (s.core core).cpReq = []) (hreg : (s.core core).region = .active) :
    s.drainEntry core = s.modCore core (fun c => ({ (c.modArch (fun a => a.toStub p.drain)) with
      preempt := some { p with st := .draining n, ended := [] } } : Core).take .drainEntry s.cycle) := by
  unfold State.drainEntry
  simp only [hpre, hst, hat, hcan, hreq, hreg, List.isEmpty_nil, and_self, if_true]

/-- An entry to the drain takes its commit point and leaves the state as it is besides. -/
theorem take_drainEntry (c : Core) (now : Nat) : (c.take .drainEntry now).arch = c.arch ∧ (c.take .drainEntry now).preempt = c.preempt ∧
    (c.take .drainEntry now).cpCount = c.cpCount + 1 := ⟨rfl, rfl, rfl⟩

theorem preemptDrainEntry_enters {core : CoreId} {s : State} {p : Preempt} {n : Nat} (hpre : (s.core core).preempt = some p)
    (hst : p.st = .latched (some n)) (hat : (s.core core).arch.running.all (fun th => ((s.core core).arch.eng th).waitsAt n) = true)
    (hcan : (s.core core).canTake s.cycle = true) (hreq : (s.core core).cpReq = []) (hreg : (s.core core).region = .active) : ∃ t : State,
      exec (.preemptDrainEntry core) s = .next t ∧ (t.core core).preempt = some { p with st := .draining n, ended := [] } ∧
      (t.core core).cpCount = (s.core core).cpCount + 1 ∧ ∀ th ∈ (s.core core).arch.running,
        ((t.core core).arch.eng th).run = .stub ∧ ((t.core core).arch.eng th).pc = BitVec.ofNat 64 p.drain := by
  refine ⟨_, (exec_preemptDrainEntry core s).trans (congrArg _ (drainEntry_enters hpre hst hat hcan hreq hreg)), ?_⟩
  rw [core_modCore_self]
  obtain ⟨harch, hpre', hcount⟩ := take_drainEntry ({ ((s.core core).modArch (fun a => a.toStub p.drain)) with
    preempt := some { p with st := .draining n, ended := [] } }) s.cycle
  refine ⟨hpre', hcount, fun th hth => ?_⟩
  rw [harch]
  have heng := toStub_eng (s.core core).arch p.drain hth
  exact ⟨congrArg Eng.run heng, congrArg Eng.pc heng⟩

theorem exec_preemptStallTimeout (core : CoreId) (s : State) :
    exec (.preemptStallTimeout core) s = execPreemptStallTimeout core s := rfl

theorem preemptStallTimeout_over {core : CoreId} {s : State} {p : Preempt} {n : Nat} (hpre : (s.core core).preempt = some p)
    (hst : p.st = .latched (some n)) (hsince : p.since + 64 ≤ s.cycle)
    (hshort : (s.core core).arch.running.filter (fun th => !((s.core core).arch.eng th).waitsAt n) ≠ [])
    (hstalled : ∀ th ∈ (s.core core).arch.running, ((s.core core).arch.eng th).waitsAt n = false →
      ((s.core core).arch.eng th).stalled = true ∧ ((s.core core).arch.eng th).busy + 64 ≤ s.cycle) :
    exec (.preemptStallTimeout core) s =
      .next (s.modCore core (fun c => { c with preempt := some { p with st := .latched none, low := n + 1 } })) := by
  have hall : ((s.core core).arch.running.filter (fun th => !((s.core core).arch.eng th).waitsAt n)).all (fun t =>
      ((s.core core).arch.eng t).stalled && decide (((s.core core).arch.eng t).busy + 64 ≤ s.cycle)) = true := by
    refine List.all_eq_true.2 fun th hth => ?_
    obtain ⟨hrun, hnot⟩ := List.mem_filter.1 hth
    obtain ⟨hstall, hbusy⟩ := hstalled th hrun (by simpa using hnot)
    rw [hstall, decide_eq_true hbusy]
    rfl
  have hne : ((s.core core).arch.running.filter (fun th => !((s.core core).arch.eng th).waitsAt n)).isEmpty = false :=
    List.isEmpty_eq_false_iff.2 hshort
  rw [exec_preemptStallTimeout]
  unfold execPreemptStallTimeout
  simp only [hpre, hst, hsince, hne, hall, Bool.not_false, and_self, if_true]

/-! ### PREEMPTED (R313) -/

theorem exec_preemptComplete (core : CoreId) (s : State) : exec (.preemptComplete core) s = execPreemptComplete core s := rfl

theorem writeBlock_core (s : State) (core : CoreId) (v : Saved) (n : Nat) (j : CoreId) : (s.writeBlock core v n).core j = s.core j := by
  unfold State.writeBlock
  simp only
  split
  · rfl
  · exact List.foldlRecOn (motive := fun t : State => t.core j = s.core j) _ _ rfl fun _ ht _ _ => ht

theorem preemptComplete_waits {core : CoreId} {s : State} {p : Preempt} {n : Nat} {tk : Task} (hpre : (s.core core).preempt = some p)
    (hst : p.st = .saving n) (htask : (s.core core).task = some tk) (hdrain : (s.core core).drained = false) :
    exec (.preemptComplete core) s = .next s := by
  rw [exec_preemptComplete]
  unfold execPreemptComplete
  simp [hpre, htask, hst, hdrain]

theorem preemptComplete_saves {core : CoreId} {s : State} {p : Preempt} {n : Nat} {tk : Task} (hpre : (s.core core).preempt = some p)
    (hst : p.st = .saving n) (htask : (s.core core).task = some tk) (hdrain : (s.core core).drained = true) : ∃ t : State,
      exec (.preemptComplete core) s = .next t ∧ t.core core = { (s.core core).vacate with
        saved := (s.core core).saved ++ [(s.core core).saveTask tk { p with st := .refilling n } s.now], xq := [] } := by
  rw [exec_preemptComplete]
  unfold execPreemptComplete
  simp only [hpre, htask, hst, hdrain, Bool.not_true, Bool.false_eq_true, if_false]
  refine ⟨_, rfl, ?_⟩
  rw [settleCtx_core, core_modCore_self, writeBlock_core]

/-! ### The refill (R314) -/

theorem exec_refillStart (core : CoreId) (s : State) : exec (.refillStart core) s = execRefillStart core s := rfl

/-- What the start of a refill leaves of its core. -/
structure Refilled (v : Saved) (c : Core) : Prop where
  task : c.task = some { v.task with st := .running }
  region : c.region = .active
  preempt : c.preempt = some { v.pre with ended := [] }
  slipw : c.arch.slipw = v.slipw
  loops : c.arch.loops = v.loops
  sids : c.arch.sids = v.sids
  eng : ∀ th ∈ kernelThreads, th ∉ v.doneSet → (c.arch.eng th).run = .stub ∧ (c.arch.eng th).pc = BitVec.ofNat 64 v.pre.refill

theorem Refilled.takeSealed {v : Saved} {c : Core} (h : Refilled v c) (p : Preempt) (now : Nat) :
    Refilled v (c.takeSealed (.refill p) now) := by
  obtain ⟨harch, htask, hregion, hpre⟩ := takeSealed_keepsTask (k := .refill p) (by simp) c now
  exact ⟨htask.trans h.task, hregion.trans h.region, hpre.trans h.preempt, harch ▸ h.slipw, harch ▸ h.loops, harch ▸ h.sids,
    harch ▸ h.eng⟩

theorem refilled_eng (a : Arch) (v : Saved) (n : Nat) (tvec : W64) (now : Nat) {th : Thread} (hth : th ∈ kernelThreads)
    (hlive : th ∉ v.doneSet) : ((a.refilled v n tvec now).eng th).run = .stub ∧
      ((a.refilled v n tvec now).eng th).pc = BitVec.ofNat 64 v.pre.refill := by
  cases th with
  | chap => exact absurd hth (by decide)
  | c | a | v | m => simp [Arch.refilled, Arch.eng, hlive, Eng.toStub]

theorem refillStart_refills {core : CoreId} {s : State} {v : Saved} {n : Nat}
    (hv : (s.refillOf core).map (s.readBlock core) = some v) (hst : v.pre.st = .refilling n) : ∃ t : State,
      exec (.refillStart core) s = .next t ∧ Refilled v (t.core core) := by
  rw [exec_refillStart]
  unfold execRefillStart
  simp only [hv, hst]
  refine ⟨_, rfl, ?_⟩
  rw [settleCtx_core, core_modCore_self]
  refine Refilled.takeSealed ?_ _ _
  exact ⟨rfl, rfl, by simp only [hst], rfl, rfl, rfl, fun th hth hlive => refilled_eng _ _ _ _ _ hth hlive⟩

/-! ### Service requests (R317) -/

theorem exec_svcAnswer (core : CoreId) (th : Thread) (status value : W64) (s : State) : exec (.svcAnswer core th status value) s =
    .next (s.modCore core (fun c => { c with svcs := c.svcs.map (fun (r : SvcReq) =>
      if r.th = th ∧ r.answer.isNone then { r with answer := some (status, value) } else r) })) := rfl

/-! ### The obligation -/

/-- Settles O47: each clause is what the lemma named says of its event. -/
theorem tileTaskEvents : Obligations.TileTaskEvents := by
  unfold Obligations.TileTaskEvents
  intro core s
  refine ⟨fun die n b w i _ hlast hfind hpick himg => ?_, fun tk htask hrep hret => ?_, tileTaskRetire_waits,
    fun tk a htask hrep hret hfind hfirst => ?_, fun tk htask hrep hlong => auditReplayAbandon_ends htask hrep hlong,
    fun b tk r hb hact hleft hcls hsince hcores htask hst hrep hctx hsaved hr hrcls hwalks hpre => ?_,
    fun p n hpre hst => ⟨preemptDrainEntry_enters hpre hst, fun hsince hshort hstalled =>
      ⟨_, preemptStallTimeout_over hpre hst hsince hshort hstalled, ?_⟩⟩,
    fun p n tk hpre hst htask => ⟨fun hdrain => ?_, preemptComplete_waits hpre hst htask⟩, fun v n hv hst => ?_,
    fun th status value => ⟨_, exec_svcAnswer core th status value s, ?_⟩⟩
  · obtain ⟨⟨tk, htask, hid, hord, hctx, hst⟩, hregion, heng⟩ := bindNext_bound (s := bindNoted s die w) (die := die.val) (n := n) himg
    refine ⟨_, tk, (exec_walkerBind die s).trans (congrArg _ (walk_binds hlast hfind hpick)), htask, hid, hord, hctx, hst, hregion,
      fun th hth => ?_⟩
    obtain ⟨hpc, hrun, hstatus, hinst, htvec⟩ := heng th hth
    exact ⟨hpc, hrun, hstatus, hinst, htvec⟩
  · obtain ⟨t, hexec, hcore⟩ := tileTaskRetire_retires htask hrep hret
    exact ⟨t, hexec, hcore ▸ vacate_ends (s.core core)⟩
  · have hdev := settleCtx_dev (s.modCore core Core.vacate) tk.ctx
    have hends : (((s.modCore core Core.vacate).settleCtx tk.ctx).core core).task = none := by
      rw [settleCtx_core, core_modCore_self]
      exact (vacate_ends _).1
    refine ⟨fun hsig => ⟨_, (auditReplayDone_compares htask hrep hret hfind).trans (congrArg _ (compare_equal hfirst hsig)), ?_, hends, ?_⟩,
      fun hsig => ⟨_, (auditReplayDone_compares htask hrep hret hfind).trans (congrArg _ (compare_differs hfirst hsig)), ?_, ?_⟩⟩
    · exact congrArg (· + 1) (congrArg Dev.mtch hdev :)
    · rintro x hx ⟨hid, hord⟩
      simpa [hid, hord] using (List.mem_filter.1 hx).2
    · exact (congrArg Dev.mism hdev :)
    · have haudits : ((s.modCore core Core.vacate).settleCtx tk.ctx).dev.audits = s.dev.audits := (congrArg Dev.audits hdev :)
      refine ⟨secondReplay a core.val tk.sig a, List.mem_map_of_mem (haudits ▸ List.mem_of_find?_eq_some hfind), ?_⟩
      simp [secondReplay]
  · obtain ⟨t, hexec, hask⟩ := walkerPreemptRequest_asks hb hact hleft hcls hsince hcores htask hst hrep hctx hsaved hr hrcls hwalks hpre
    exact ⟨t, _, hexec, hask, rfl, rfl⟩
  · rw [core_modCore_self]
  · obtain ⟨t, hexec, hcore⟩ := preemptComplete_saves hpre hst htask hdrain
    obtain ⟨hnone, hidle, _⟩ := vacate_ends (s.core core)
    refine ⟨t, (s.core core).saveTask tk { p with st := .refilling n } s.now, hexec, ?_⟩
    rw [hcore]
    exact ⟨hnone, hidle, rfl, rfl, rfl, rfl, rfl, rfl⟩
  · obtain ⟨t, hexec, htask, hregion, hpre, hslipw, hloops, hsids, heng⟩ := refillStart_refills hv hst
    exact ⟨t, hexec, htask, hregion, hpre, hslipw, hloops, hsids, heng⟩
  · rw [core_modCore_self]
    simp only [Option.isNone_iff_eq_none]

end Sys2Proof.Proofs
end

section
/-! Results of the scalar words (O1 to O5, O11): a word that runs and writes d retires with that one write; beside it stand
the facts about 64-bit words that tie each value written to the integers and bits of R82 to R88. -/

namespace Sys2Proof.Proofs

open Sys2Proof Sys2Proof.Machine Sys2Proof.Laws

/-! ### How a scalar word ends -/

section Ends
variable {i : Instr} {h : Hdr} {s : State}

theorem runWord_setG (hr : runs i h s) (d : BitVec 5) (v : State → W64) :
    runWord i h s (fun s => .done (s.setG d (v s))) = .next (s.wordDone (s.setG d (v s))) :=
  runWord_done hr rfl (panRoom_setG s _ _)

theorem alu_runs (hr : runs i h s) (f : S3) (op : W64 → W64 → W64) :
    alu i h f s op = .next (s.wordDone (s.setG f.d (op (s.g f.a) (s.op2 f)))) :=
  runWord_setG hr f.d (fun s => op (s.g f.a) (s.op2 f))

theorem aluIdx_runs (hr : runs i h s) (f : S3) (op : W64 → Nat → W64) :
    aluIdx i h f s op = .next (s.wordDone (s.setG f.d (op (s.g f.a) (s.idx f)))) :=
  runWord_setG hr f.d (fun s => op (s.g f.a) (s.idx f))

theorem count_runs (hr : runs i h s) (f : S3) (op : W64 → Nat) :
    count i h f s op = .next (s.wordDone (s.setG f.d (BitVec.ofNat 64 (op (s.g f.a))))) :=
  runWord_setG hr f.d (fun s => BitVec.ofNat 64 (op (s.g f.a)))

/-- A division word waits while its engine's divider is busy (R83). -/
theorem division_busy (hr : runs i h s) (hb : s.cycle < s.eng.divBusy) (f : S3) (op : W64 → W64 → W64) :
    division i h f s op = .next (if s.cur.th = .chap then s.stalledNow else s) := by
  rw [division, runWord_runs hr, if_pos hb]
  rfl

/-- With the divider free a division word writes d and takes the divider (R83, R99). -/
theorem division_free (hr : runs i h s) (hb : s.eng.divBusy ≤ s.cycle) (f : S3) (op : W64 → W64 → W64) :
    division i h f s op = .next (s.wordDone ((s.setG f.d (op (s.g f.a) (s.g f.b))).modEng
      (fun e => { e with divBusy := s.cycle + 36 }))) :=
  runWord_done hr (if_neg hb.not_gt) (panRoom_modArch (panRoom_setG s _ _) _)

end Ends

theorem g_setG_self (s : State) {d : BitVec 5} (hd : d ≠ 0) (v : W64) : (s.setG d v).g d = v := by
  rw [State.g, eng_setG, getG_setG, if_pos ⟨rfl, hd⟩]

theorem g_setG_ne (s : State) {d r : BitVec 5} (hne : r ≠ d) (v : W64) : (s.setG d v).g r = s.g r := by
  rw [State.g, eng_setG, getG_setG, if_neg (fun h => hne h.1), State.g]

/-! ### Products (R82) -/

theorem mul_eq_ofNat (a b : W64) : a * b = BitVec.ofNat 64 (a.toNat * b.toNat) := by
  simp [BitVec.ofNat_mul]

/-- Bits 64 to 127 of an integer are the low bits of its quotient by 2^64, rounded down. -/
theorem high_ofInt (z : Int) : (BitVec.ofInt 128 z).extractLsb' 64 64 = BitVec.ofInt 64 (z / 2 ^ 64) := by
  apply BitVec.eq_of_toNat_eq
  rw [BitVec.extractLsb'_toNat, Nat.shiftRight_eq_div_pow, BitVec.toNat_ofInt, BitVec.toNat_ofInt]
  omega

theorem mulHigh_eq (a b : W64) : mulHigh a b = BitVec.ofInt 64 (a.toInt * b.toInt / 2 ^ 64) := by
  rw [← high_ofInt, BitVec.ofInt_mul]
  rfl

theorem mulHighU_eq (a b : W64) : mulHighU a b = BitVec.ofNat 64 (a.toNat * b.toNat / 2 ^ 64) := by
  have hprod : a.zeroExtend 128 * b.zeroExtend 128 = BitVec.ofInt 128 (a.toNat * b.toNat : Nat) := by
    rw [BitVec.ofInt_natCast, BitVec.ofNat_mul, BitVec.ofNat_toNat, BitVec.ofNat_toNat]
  rw [mulHighU, hprod, high_ofInt, ← BitVec.ofInt_natCast]
  norm_cast

/-- Settles O1: each word is one write of d; the products are those of the integers. -/
theorem arithmeticResults : Obligations.ArithmeticResults := by
  unfold Obligations.ArithmeticResults
  refine fun h s => ⟨fun f hr => alu_runs hr f (· + ·), fun f hr => alu_runs hr f (· - ·),
    fun f hr => runWord_setG hr f.d (fun s => s.g f.a + f.imm.signExtend 64), fun f hr => ?_, fun f hr => ?_, fun f hr => ?_⟩
  · rw [← mul_eq_ofNat]
    exact alu_runs hr f (· * ·)
  · rw [← mulHigh_eq]
    exact alu_runs hr f mulHigh
  · rw [← mulHighU_eq]
    exact alu_runs hr f mulHighU

/-! ### Quotients and remainders (R83) -/

/-- The quotient rounded toward zero; the one that does not fit, -2^63 by -1, wraps to -2^63. -/
theorem divS_eq (a b : W64) :
    divS a b = if b = 0 then 0xFFFFFFFFFFFFFFFF else BitVec.ofInt 64 (a.toInt.tdiv b.toInt) := by
  have hquot : a.sdiv b = BitVec.ofInt 64 (a.toInt.tdiv b.toInt) :=
    BitVec.eq_of_toInt_eq (by rw [BitVec.toInt_sdiv, BitVec.toInt_ofInt])
  rw [divS, hquot]

theorem divU_eq (a b : W64) :
    divU a b = if b = 0 then 0xFFFFFFFFFFFFFFFF else BitVec.ofNat 64 (a.toNat / b.toNat) := by
  have hquot : a.udiv b = BitVec.ofNat 64 (a.toNat / b.toNat) := by
    rw [BitVec.udiv_eq, ← BitVec.toNat_udiv, BitVec.ofNat_toNat, BitVec.setWidth_eq]
  rw [divU, hquot]

theorem remS_eq (a b : W64) : remS a b = if b = 0 then a else BitVec.ofInt 64 (a.toInt.tmod b.toInt) := by
  rw [remS, ← BitVec.toInt_srem, BitVec.ofInt_toInt]

theorem remU_eq (a b : W64) : remU a b = if b = 0 then a else BitVec.ofNat 64 (a.toNat % b.toNat) := by
  have hrem : a.umod b = BitVec.ofNat 64 (a.toNat % b.toNat) := by
    rw [BitVec.umod_eq, ← BitVec.toNat_umod, BitVec.ofNat_toNat, BitVec.setWidth_eq]
  rw [remU, hrem]

/-- Settles O2: the four words differ in the function of their operands alone. -/
theorem divisionResults : Obligations.DivisionResults := by
  unfold Obligations.DivisionResults
  intro h f s
  simp only [← divS_eq, ← divU_eq, ← remS_eq, ← remU_eq]
  constructor
  · rintro t hb rfl
    exact ⟨fun hr => division_busy hr hb f divS, fun hr => division_busy hr hb f divU,
      fun hr => division_busy hr hb f remS, fun hr => division_busy hr hb f remU⟩
  · intro hb
    exact ⟨fun hr => division_free hr hb f divS, fun hr => division_free hr hb f divU,
      fun hr => division_free hr hb f remS, fun hr => division_free hr hb f remU⟩

/-! ### Bits of logic forms and shifts (R82) -/

theorem idx_lt (s : State) (f : S3) : s.idx f < 64 := BitVec.isLt _

theorem getLsbD_not_of_lt (b : W64) {n : Nat} (hn : n < 64) : (~~~b).getLsbD n = !b.getLsbD n := by
  rw [BitVec.getLsbD_not, decide_eq_true hn, Bool.true_and]

theorem getLsbD_shl (a : W64) (r : Nat) {n : Nat} (hn : n < 64) :
    (a <<< r).getLsbD n = (decide (r ≤ n) && a.getLsbD (n - r)) := by
  rw [BitVec.getLsbD_shiftLeft, decide_eq_true hn, Bool.true_and, ← decide_not, decide_eq_decide.2 Nat.not_lt]

/-- Beyond bit 63 an arithmetic shift finds the sign. -/
theorem getLsbD_sar (a : W64) (r : Nat) {n : Nat} (hn : n < 64) :
    (a.sshiftRight r).getLsbD n = a.getLsbD (min 63 (n + r)) := by
  rw [BitVec.getLsbD_sshiftRight, decide_eq_false hn.not_ge, Bool.not_false, Bool.true_and]
  split
  case isTrue hin => rw [Nat.min_eq_right (by omega), Nat.add_comm]
  case isFalse hout => rw [Nat.min_eq_left (by omega), BitVec.msb_eq_getLsbD_last]

/-- A rotation takes bit n to bit n + r modulo 64. -/
theorem getLsbD_rotl (a : W64) {r n : Nat} (hr : r < 64) (hn : n < 64) :
    (a.rotateLeft r).getLsbD ((n + r) % 64) = a.getLsbD n := by
  rw [BitVec.getLsbD_rotateLeft_of_le hr]
  by_cases hin : n + r < 64
  · rw [Nat.mod_eq_of_lt hin, decide_eq_false (by omega), decide_eq_true hin, Nat.add_sub_cancel]
    rfl
  · have hmod : (n + r) % 64 = n + r - 64 := by omega
    rw [hmod, decide_eq_true (by omega), show 64 - r + (n + r - 64) = n by omega]
    rfl

/-- Settles O3: bit by bit. -/
theorem logicAndShiftResults : Obligations.LogicAndShiftResults := by
  unfold Obligations.LogicAndShiftResults
  refine fun h f s => ⟨fun hr => ⟨_, alu_runs hr f (· &&& ·), fun n _ => BitVec.getLsbD_and⟩,
    fun hr => ⟨_, alu_runs hr f (· ||| ·), fun n _ => BitVec.getLsbD_or⟩,
    fun hr => ⟨_, alu_runs hr f (· ^^^ ·), fun n _ => BitVec.getLsbD_xor⟩,
    fun hr => ⟨_, alu_runs hr f (fun a b => a &&& ~~~b), fun n hn => ?_⟩,
    fun hr => ⟨_, alu_runs hr f (fun a b => a ||| ~~~b), fun n hn => ?_⟩,
    fun hr => ⟨_, aluIdx_runs hr f (fun a n => a <<< n), fun n hn => getLsbD_shl _ _ hn⟩,
    fun hr => ⟨_, aluIdx_runs hr f (fun a n => a >>> n), fun n _ => ?_⟩,
    fun hr => ⟨_, aluIdx_runs hr f (fun a n => a.sshiftRight n), fun n hn => getLsbD_sar _ _ hn⟩,
    fun hr => ⟨_, aluIdx_runs hr f (fun a n => a.rotateLeft n), fun n hn => getLsbD_rotl _ (idx_lt s f) hn⟩⟩
  · rw [BitVec.getLsbD_and, getLsbD_not_of_lt _ hn]
  · rw [BitVec.getLsbD_or, getLsbD_not_of_lt _ hn]
  · rw [BitVec.getLsbD_ushiftRight, Nat.add_comm]

/-! ### Minima, maxima and conditions (R82, R84) -/

section MinMax
variable (a b : W64)

theorem toInt_minS : (if b.slt a then b else a).toInt = min a.toInt b.toInt := by
  rw [apply_ite BitVec.toInt, min_comm, min_def_lt]
  simp only [BitVec.slt_iff_toInt_lt]

theorem toInt_maxS : (if a.slt b then b else a).toInt = max a.toInt b.toInt := by
  rw [apply_ite BitVec.toInt, max_def_lt]
  simp only [BitVec.slt_iff_toInt_lt]

theorem toNat_minU : (if b.ult a then b else a).toNat = min a.toNat b.toNat := by
  rw [apply_ite BitVec.toNat, min_comm, min_def_lt]
  simp only [BitVec.ult_iff_toNat_lt]

theorem toNat_maxU : (if a.ult b then b else a).toNat = max a.toNat b.toNat := by
  rw [apply_ite BitVec.toNat, max_def_lt]
  simp only [BitVec.ult_iff_toNat_lt]

/-- The condition codes of R84. -/
theorem condHolds_iff (cc : BitVec 4) :
    (cc = 0x0 → (condHolds cc a b = true ↔ a = b)) ∧ (cc = 0x1 → (condHolds cc a b = true ↔ a ≠ b)) ∧
    (cc = 0x2 → (condHolds cc a b = true ↔ a.toInt < b.toInt)) ∧ (cc = 0x3 → (condHolds cc a b = true ↔ b.toInt ≤ a.toInt)) ∧
    (cc = 0x4 → (condHolds cc a b = true ↔ a.toNat < b.toNat)) ∧ (cc = 0x5 → (condHolds cc a b = true ↔ b.toNat ≤ a.toNat)) ∧
    (cc = 0x6 → (condHolds cc a b = true ↔ b.toInt < a.toInt)) ∧ (cc = 0x7 → (condHolds cc a b = true ↔ a.toInt ≤ b.toInt)) ∧
    (cc = 0x8 → (condHolds cc a b = true ↔ b.toNat < a.toNat)) ∧ (cc = 0x9 → (condHolds cc a b = true ↔ a.toNat ≤ b.toNat)) ∧
    (cc = 0xA → (condHolds cc a b = true ↔ a &&& b ≠ 0)) ∧ (cc = 0xB → (condHolds cc a b = true ↔ a &&& b = 0)) := by
  refine ⟨?_, ?_, ?_, ?_, ?_, ?_, ?_, ?_, ?_, ?_, ?_, ?_⟩ <;> rintro rfl
  exacts [beq_iff_eq, bne_iff_ne, BitVec.slt_iff_toInt_lt, BitVec.sle_iff_toInt_le, BitVec.ult_iff_toNat_lt,
    BitVec.ule_iff_toNat_le, BitVec.slt_iff_toInt_lt, BitVec.sle_iff_toInt_le, BitVec.ult_iff_toNat_lt,
    BitVec.ule_iff_toNat_le, bne_iff_ne, beq_iff_eq]

end MinMax

/-- SEL writes the register that bit n of g[c] chooses (R85). -/
theorem exec_sel_runs {h : Hdr} {f : S3} {s : State} (hr : runs (.sel h f) h s) : exec (.sel h f) s =
    .next (s.wordDone (s.setG f.d (if (s.g f.c).getLsbD f.n.toNat then s.g f.a else s.g f.b))) :=
  runWord_setG hr f.d (fun s => if (s.g f.c).getLsbD f.n.toNat then s.g f.a else s.g f.b)

/-- Settles O4: a minimum or maximum is the operand that the comparison chooses; CMP writes one bit, the condition's. -/
theorem compareAndSelectResults : Obligations.CompareAndSelectResults := by
  unfold Obligations.CompareAndSelectResults
  exact fun h f s => ⟨fun hr => ⟨_, alu_runs hr f (fun a b => if b.slt a then b else a), toInt_minS _ _⟩,
    fun hr => ⟨_, alu_runs hr f (fun a b => if a.slt b then b else a), toInt_maxS _ _⟩,
    fun hr => ⟨_, alu_runs hr f (fun a b => if b.ult a then b else a), toNat_minU _ _⟩,
    fun hr => ⟨_, alu_runs hr f (fun a b => if a.ult b then b else a), toNat_maxU _ _⟩,
    fun hr => ⟨condHolds f.cond (s.g f.a) (s.cmpOp2 f),
      runWord_setG hr f.d (fun s => setBit (s.g f.d) f.n.toNat (condHolds f.cond (s.g f.a) (s.cmpOp2 f))),
      condHolds_iff _ _ _⟩, exec_sel_runs⟩

/-! ### Immediates and addresses (R86, R87) -/

/-- MOVI.HI sets the upper half and keeps the lower. -/
theorem append_low_eq (x : W32) (w : W64) :
    (x ++ w.extractLsb' 0 32 : W64) = BitVec.ofNat 64 (x.toNat * 2 ^ 32 + w.toNat % 2 ^ 32) := by
  have hlow : (w.extractLsb' 0 32).toNat = w.toNat % 2 ^ 32 := by rw [BitVec.extractLsb'_toNat, Nat.shiftRight_zero]
  apply BitVec.eq_of_toNat_eq
  rw [BitVec.toNat_append, hlow, ← Nat.shiftLeft_add_eq_or_of_lt (Nat.mod_lt _ (by decide)), Nat.shiftLeft_eq,
    BitVec.toNat_ofNat]
  omega

/-- The address sum is that of the integers modulo 2^64. -/
theorem lea_eq (a b : W64) (n : Nat) (x : W32) :
    a + (b <<< n) + x.signExtend 64 = BitVec.ofInt 64 (a.toNat + b.toNat * 2 ^ n + x.toInt) := by
  have hshift : b <<< n = BitVec.ofNat 64 (b.toNat * 2 ^ n) :=
    BitVec.eq_of_toNat_eq (by rw [BitVec.toNat_shiftLeft, Nat.shiftLeft_eq, BitVec.toNat_ofNat])
  have hsum : BitVec.ofInt 64 (a.toNat + b.toNat * 2 ^ n) = a + BitVec.ofNat 64 (b.toNat * 2 ^ n) := by
    rw [BitVec.ofInt_add, BitVec.ofInt_natCast, BitVec.ofNat_toNat, BitVec.setWidth_eq, ← BitVec.ofInt_natCast]
    norm_cast
  rw [hshift, BitVec.ofInt_add, hsum]
  rfl

theorem exec_lea_runs {h : Hdr} {f : S3} {s : State} (hr : runs (.lea h f) h s) : exec (.lea h f) s =
    .next (s.wordDone (s.setG f.d
      (BitVec.ofInt 64 ((s.g f.a).toNat + (s.g f.b).toNat * 2 ^ f.n.toNat + f.imm.toInt)))) := by
  rw [← lea_eq]
  exact runWord_setG hr f.d (fun s => s.g f.a + (s.g f.b <<< f.n.toNat) + f.imm.signExtend 64)

/-! ### Counts (R88) -/

theorem leadZeros_le (w : W64) (n : Nat) : leadZeros w n ≤ n := by
  induction n with
  | zero => exact le_rfl
  | succ n ih => rw [leadZeros]; split <;> omega

/-- The bits that a count of leading zeros passes are 0. -/
theorem leadZeros_zeros (w : W64) (n : Nat) : ∀ k < leadZeros w n, w.getLsbD (n - 1 - k) = false := by
  induction n with
  | zero => exact fun k hk => absurd hk (Nat.not_lt_zero k)
  | succ n ih =>
    intro k hk
    rw [leadZeros] at hk
    split at hk
    case isTrue => exact absurd hk (Nat.not_lt_zero k)
    case isFalse htop =>
      cases k with
      | zero => exact Bool.not_eq_true _ ▸ htop
      | succ k => rw [← ih k (by omega)]; congr 1; omega

/-- The bit at which it stops is 1. -/
theorem leadZeros_stop (w : W64) (n : Nat) : leadZeros w n < n → w.getLsbD (n - 1 - leadZeros w n) = true := by
  induction n with
  | zero => exact fun h => absurd h (Nat.not_lt_zero _)
  | succ n ih =>
    rw [leadZeros]
    split
    case isTrue htop => exact fun _ => htop
    case isFalse =>
      intro h
      rw [← ih (by omega)]
      congr 1
      omega

theorem trailZeros_le (w : W64) (k n : Nat) : trailZeros w k n ≤ n := by
  induction n generalizing k with
  | zero => exact le_rfl
  | succ n ih => rw [trailZeros]; split <;> have := ih (k + 1) <;> omega

/-- The bits that a count of trailing zeros passes are 0. -/
theorem trailZeros_zeros (w : W64) (k n : Nat) : ∀ j < trailZeros w k n, w.getLsbD (k + j) = false := by
  induction n generalizing k with
  | zero => exact fun j hj => absurd hj (Nat.not_lt_zero j)
  | succ n ih =>
    intro j hj
    rw [trailZeros] at hj
    split at hj
    case isTrue => exact absurd hj (Nat.not_lt_zero j)
    case isFalse hlow =>
      cases j with
      | zero => exact Bool.not_eq_true _ ▸ hlow
      | succ j => rw [← ih (k + 1) j (by omega)]; congr 1; omega

/-- The bit at which it stops is 1. -/
theorem trailZeros_stop (w : W64) (k n : Nat) : trailZeros w k n < n → w.getLsbD (k + trailZeros w k n) = true := by
  induction n generalizing k with
  | zero => exact fun h => absurd h (Nat.not_lt_zero _)
  | succ n ih =>
    rw [trailZeros]
    split
    case isTrue hlow => exact fun _ => hlow
    case isFalse =>
      intro h
      rw [← ih (k + 1) (by omega)]
      congr 1
      omega

theorem oneBits_eq (w : W64) (n : Nat) : oneBits w n = (List.range n).countP (fun n => w.getLsbD n) := by
  induction n with
  | zero => rfl
  | succ n ih => rw [oneBits, ih, List.range_succ, List.countP_append, List.countP_singleton]

/-- Settles O5: each word is one write of d, with the value of the lemma named. -/
theorem constantAndBitResults : Obligations.ConstantAndBitResults := by
  unfold Obligations.ConstantAndBitResults
  refine ⟨fun h s => ⟨fun f hr => runWord_setG hr f.d (fun _ => f.imm.signExtend 64), fun f hr => ?_, fun f hr => ?_,
      fun f hr => runWord_setG hr f.d (fun _ => f.imm.signExtend 64), fun f hr => ?_, fun f => exec_lea_runs⟩,
    fun h f s => ⟨
      fun hr => ⟨_, count_runs hr f (fun w => leadZeros w 64), leadZeros_le _ _, leadZeros_zeros _ _, leadZeros_stop _ _⟩,
      fun hr => ⟨_, count_runs hr f (fun w => trailZeros w 0 64), trailZeros_le _ _ _, fun k hk => ?_, fun hlt => ?_⟩,
      fun hr => ?_, fun hr => aluIdx_runs hr f (fun a n => if a.getLsbD n then 1 else 0),
      fun hr => ⟨_, runWord_setG hr f.d (fun s => setBit (s.g f.a) (s.idx f) ((s.g f.c).getLsbD 0)),
        fun n hn => getLsbD_setBit _ (idx_lt s f) hn _⟩,
      fun hr => ⟨_, aluIdx_runs hr f (fun a n => setBit a n true), fun n hn => getLsbD_setBit _ (idx_lt s f) hn _⟩,
      fun hr => ⟨_, aluIdx_runs hr f (fun a n => setBit a n false), fun n hn => getLsbD_setBit _ (idx_lt s f) hn _⟩⟩⟩
  · rw [BitVec.ofNat_toNat]
    exact runWord_setG hr f.d (fun _ => f.imm.zeroExtend 64)
  · rw [← append_low_eq]
    exact runWord_setG hr f.d (fun s => f.imm ++ (s.g f.d).extractLsb' 0 32)
  · rw [BitVec.ofNat_toNat]
    exact runWord_setG hr f.d (fun _ => f.imm.zeroExtend 64)
  · simpa using trailZeros_zeros _ 0 64 k hk
  · simpa using trailZeros_stop _ 0 64 hlt
  · rw [← oneBits_eq]
    exact count_runs hr f (fun w => oneBits w 64)

/-! ### SEL and LEA, whole (R85, R87) -/

theorem sel_fields_zero {h : Hdr} {f : S3} (hw : WellFormed (.sel h f) = true) : f.i = 0 ∧ f.cond = 0 := by
  have hall : (decide (f.i = 0) && decide (f.cond = 0) && decide (f.imm = 0)) = true := hw
  simp only [Bool.and_eq_true, decide_eq_true_eq] at hall
  exact hall.1

theorem lea_fields_zero {h : Hdr} {f : S3} (hw : WellFormed (.lea h f) = true) : f.i = 0 ∧ f.c = 0 ∧ f.cond = 0 := by
  have hall : (decide (f.i = 0) && decide (f.c = 0) && decide (f.cond = 0)) = true := hw
  simpa only [Bool.and_eq_true, decide_eq_true_eq, and_assoc] using hall

/-- Settles O11: the results are those of O4 and O5, and a write of d leaves every other register. -/
theorem selectAndAddressRules : Obligations.SelectAndAddressRules := by
  unfold Obligations.SelectAndAddressRules
  exact fun h f s => ⟨fun hr => ⟨_, exec_sel_runs hr, fun hd => g_setG_self s hd _, fun _ hne => g_setG_ne s hne _⟩,
    fun hr => ⟨_, exec_lea_runs hr, fun hd => g_setG_self s hd _, fun _ hne => g_setG_ne s hne _⟩,
    sel_fields_zero, lea_fields_zero⟩

end Sys2Proof.Proofs
end

section
/-! The cross-engine queues (O9): a push and a pop each set one queue, and what orders its entry; the pop beside that changes
only what is ordered before the engine that pops. -/

namespace Sys2Proof.Proofs

open Sys2Proof Sys2Proof.Machine Sys2Proof.Laws

theorem runWord_stall {i : Instr} {h : Hdr} {s t : State} {eff : State → Res} (hr : runs i h s) (he : eff s = .stall t) :
    runWord i h s eff = .next t.stalledNow := by
  rw [runWord_runs hr, he]
  rfl

/-- Queue q takes the entries l, and m changes the notes of what orders each of them (R97). -/
def setQueue (q : Fin 16) (l : List W64) (m : List (List Nat) → List (List Nat)) (a : Arch) : Arch :=
  { a with putx := a.putx.set q l, putxSeq := a.putxSeq.set q (m a.putxSeq[q]) }

section Queue
variable (s : State) (q : Fin 16) (l : List W64) (m : List (List Nat) → List (List Nat))

theorem setQueue_self : (s.modArch (setQueue q l m)).arch.putx[q] = l := by
  rw [arch_modArch]
  exact Vector.getElem_set_self q.isLt

theorem setQueue_ne {p : Fin 16} (hp : p ≠ q) : (s.modArch (setQueue q l m)).arch.putx[p] = s.arch.putx[p] := by
  rw [arch_modArch]
  exact Vector.getElem_set_ne q.isLt p.isLt (fun h => hp (Fin.ext h.symm))

theorem setQueue_scr : (s.modArch (setQueue q l m)).arch.scr = s.arch.scr := by
  rw [arch_modArch]
  rfl

theorem setQueue_eng : (s.modArch (setQueue q l m)).eng = s.eng :=
  eng_modArch_other s (eng_ext rfl rfl rfl rfl rfl)

end Queue

/-! ### PUTX (R96, R97) -/

/-- The queue from the engine that runs to the one that PUTX names. -/
def putQueue (f : S3) (s : State) : Fin 16 := qIndex s.cur.th.code (f.n.extractLsb' 0 2)

theorem exec_putx (h : Hdr) (f : S3) (s : State) : exec (.putx h f) s = runWord (.putx h f) h s (fun s =>
    if (s.arch.eng (Thread.ofCode (f.n.extractLsb' 0 2))).done then .done s
    else if 8 ≤ (s.arch.putx[putQueue f s]).length then .stall s
    else .done (s.modArch (setQueue (putQueue f s) (s.arch.putx[putQueue f s] ++ [s.g f.a])
      (· ++ [s.pushed])))) := rfl

section Putx
variable {h : Hdr} {f : S3} {s : State}

theorem exec_putx_room (hr : runs (.putx h f) h s) (hd : (s.arch.eng (Thread.ofCode (f.n.extractLsb' 0 2))).done = false)
    (hroom : (s.arch.putx[putQueue f s]).length < 8) : exec (.putx h f) s = .next (s.wordDone
      (s.modArch (setQueue (putQueue f s) (s.arch.putx[putQueue f s] ++ [s.g f.a])
        (· ++ [s.pushed])))) := by
  rw [exec_putx]
  refine runWord_done hr ?_ (panRoom_modHere rfl rfl)
  rw [hd, if_neg Bool.false_ne_true, if_neg hroom.not_ge]

theorem exec_putx_done (hr : runs (.putx h f) h s) (hd : (s.arch.eng (Thread.ofCode (f.n.extractLsb' 0 2))).done = true) :
    exec (.putx h f) s = .next (s.wordDone s) := by
  rw [exec_putx]
  exact runWord_done hr (if_pos hd) (panRoom_refl s)

theorem exec_putx_full (hr : runs (.putx h f) h s) (hd : (s.arch.eng (Thread.ofCode (f.n.extractLsb' 0 2))).done = false)
    (hfull : 8 ≤ (s.arch.putx[putQueue f s]).length) : exec (.putx h f) s = .next s.stalledNow := by
  rw [exec_putx]
  refine runWord_stall hr ?_
  rw [hd, if_neg Bool.false_ne_true, if_pos hfull]

end Putx

/-! ### What a pop orders (R97, R227) -/

section Order
variable (s : State) (r : Nat) (p : ScrWr → Bool) (q : MemWr → Bool)

theorem eng_order : (s.order s.cur.core r p q).eng = s.eng := by
  obtain ⟨l, hl⟩ := order_here s r p q
  rw [State.eng, State.arch, hl]
  exact congrFun (eng_ext rfl rfl rfl rfl rfl) _

theorem scr_order : (s.order s.cur.core r p q).arch.scr = s.arch.scr := by
  obtain ⟨l, hl⟩ := order_here s r p q
  rw [State.arch, hl]
  rfl

theorem putx_order : (s.order s.cur.core r p q).arch.putx = s.arch.putx := by
  obtain ⟨l, hl⟩ := order_here s r p q
  rw [State.arch, hl]
  rfl

theorem panRoom_order : panRoom s (s.order s.cur.core r p q) := by
  obtain ⟨l, hl⟩ := order_here s r p q
  exact panRoom_of_same (by rw [hl]; rfl) (by rw [hl]; rfl)

theorem sameMemory_devOrder (rs : List Nat) : s.sameMemory (s.modDev (fun d => d.order rs q)) :=
  ⟨fun _ => rfl, fun _ => rfl, fun _ => rfl, fun _ _ => rfl⟩

theorem sameMemory_order : s.sameMemory (s.order s.cur.core r p q) :=
  sameMemory_trans (sameMemory_modHere s (f := fun c => c.modArch (fun a => a.order r p)) rfl) (sameMemory_devOrder _ _ _)

theorem sameButOrder_order : s.sameButOrder (s.order s.cur.core r p q) := by
  obtain ⟨l, hl⟩ := order_here s r p q
  refine ⟨rfl, rfl, rfl, rfl, rfl, rfl, rfl, rfl, fun c hc => 
    core_modCore_ne s s.cur.core (fun c => c.modArch (fun a => a.order r p)) c hc, ?_⟩
  rw [hl]
  rfl

end Order

theorem sameButOrder_modArch {s t : State} (h : s.sameButOrder t) (f : Arch → Arch) : s.sameButOrder (t.modArch f) := by
  obtain ⟨hnow, hagenda, hphase, hcur, hirqs, hwire, hresp, hdev, hcores, hhere⟩ := h
  refine ⟨hnow, hagenda, hphase, hcur, hirqs, hwire, hresp, hdev, fun c hc => ?_, ?_⟩
  · rw [core_modArch_ne _ _ _ (hcur ▸ hc), hcores c hc]
  · rw [here_modArch, hhere]
    rfl

/-! ### GETX (R96, R98) -/

/-- The queue from the engine that GETX names to the one that runs. -/
def getQueue (f : S3) (s : State) : Fin 16 := qIndex (f.n.extractLsb' 0 2) s.cur.th.code

/-- What GETX does once check 2 has passed. -/
def getxEffect (f : S3) (s : State) : Res :=
  match s.arch.putx[getQueue f s] with
  | [] => .stall s
  | v :: l => .done ((s.popped (getQueue f s) l).setG f.d v)

theorem exec_getx (h : Hdr) (f : S3) (s : State) : exec (.getx h f) s = runWord (.getx h f) h s (getxEffect f) := rfl

/-- The state in which a pop of queue q has ordered what the push of its head was ordered after. -/
def popOrdered (s : State) (q : Fin 16) : State :=
  let ws := (s.arch.putxSeq[q]).headD []
  s.order s.cur.core (lReader s.cur.th) (fun w => ws.contains (2 * w.seq)) (fun w => ws.contains (2 * w.seq + 1))

theorem popped_eq (s : State) (q : Fin 16) (l : List W64) :
    s.popped q l = (popOrdered s q).modArch (setQueue q l (·.drop 1)) := rfl

section Getx
variable {h : Hdr} {f : S3} {s : State}

theorem exec_getx_head (hr : runs (.getx h f) h s) {v : W64} {l : List W64} (hq : s.arch.putx[getQueue f s] = v :: l) :
    exec (.getx h f) s = .next (s.wordDone ((s.popped (getQueue f s) l).setG f.d v)) := by
  rw [exec_getx]
  refine runWord_done hr (by rw [getxEffect, hq]) ?_
  rw [popped_eq]
  exact panRoom_modArch (panRoom_modArch (panRoom_order s _ _ _) _) _

theorem exec_getx_empty (hr : runs (.getx h f) h s) (hq : s.arch.putx[getQueue f s] = []) :
    exec (.getx h f) s = .next s.stalledNow := by
  rw [exec_getx]
  exact runWord_stall hr (by rw [getxEffect, hq])

end Getx

/-! ### The obligation -/

/-- Settles O9: room, the partner's TASKEND and the head decide which way the word goes; a push or a pop is one `setQueue`. -/
theorem crossQueueWords : Obligations.CrossQueueWords := by
  unfold Obligations.CrossQueueWords
  refine fun h f s q => ⟨?_, exec_putx_done, ?_, ?_, ?_⟩
  · rintro hr rfl hd hroom
    exact ⟨_, exec_putx_room hr hd hroom, setQueue_self s _ _ _, fun p hp => setQueue_ne s _ _ _ hp, setQueue_scr s _ _ _,
      setQueue_eng s _ _ _, sameOutside_modHere s _, by rw [here_modArch]; rfl, sameMemory_modHere s rfl⟩
  · rintro hr rfl hd hfull
    exact exec_putx_full hr hd hfull
  · rintro v l hr rfl hhead
    refine ⟨_, exec_getx_head hr hhead, ?_⟩
    rw [popped_eq]
    refine ⟨setQueue_self _ _ _ _, fun p hp => ?_, (setQueue_scr _ _ _ _).trans (scr_order s _ _ _),
      (setQueue_eng _ _ _ _).trans (eng_order s _ _ _), sameButOrder_modArch (sameButOrder_order s _ _ _) _,
      sameMemory_trans (sameMemory_order s _ _ _) (sameMemory_modHere _ rfl)⟩
    exact (setQueue_ne _ _ _ _ hp).trans (congrArg (·[p]) (putx_order s _ _ _))
  · rintro hr rfl hempty
    exact exec_getx_empty hr hempty

end Sys2Proof.Proofs
end

section
/-! Branches (O12): a transfer word that decides leaves a pending branch in its engine, and that commutes with its own
retirement; an outcome goes to one queue of each engine it is pushed to. -/

namespace Sys2Proof.Proofs

open Sys2Proof Sys2Proof.Machine Sys2Proof.Laws

/-! ### Updates of the engine that runs and the retirement of its word -/

theorem modEng_modEng (s : State) (f g : Eng → Eng) : (s.modEng f).modEng g = s.modEng (fun e => g (f e)) := by
  simp only [State.modEng, State.modArch, modHere_modHere, modHere_cur, Core.modArch, Arch.modEng, eng_setEng_self, setEng_setEng]

theorem slotUsed_modEng (c : Core) (t : Thread) (f : Eng → Eng) (now : Nat) :
    (c.modArch (fun a => a.modEng t f)).slotUsed t now = (c.slotUsed t now).modArch (fun a => a.modEng t f) := by
  by_cases ht : t = .chap
  · subst ht
    exact slotUsed_setChap c (f (c.arch.eng .chap)) now
  · rw [slotUsed_kernel _ ht, slotUsed_kernel _ ht]

/-- A word's retirement is the use of its slot and one update of its engine, in whichever order. -/
theorem retire_modEng (s : State) (f : Eng → Eng) (was : Option (Bool × W64)) :
    (s.modEng f).retire was = (s.modHere (fun c => c.slotUsed s.cur.th s.cycle)).modEng (fun e => (f e).retire was s.cycle) := by
  have hslot : (s.modEng f).modHere (fun c => c.slotUsed s.cur.th s.cycle) =
      (s.modHere (fun c => c.slotUsed s.cur.th s.cycle)).modEng f := by
    unfold State.modEng State.modArch
    rw [modHere_modHere, modHere_modHere]
    exact congrArg s.modHere (funext fun c => slotUsed_modEng c s.cur.th f s.cycle)
  calc (s.modEng f).retire was
      = ((s.modEng f).modHere (fun c => c.slotUsed s.cur.th s.cycle)).modEng (fun e => e.retire was s.cycle) := rfl
    _ = _ := by rw [hslot, modEng_modEng]

/-- An update that neither the end of a stall nor retirement sees may come before or after them. -/
theorem wordDone_modEng {s : State} {f : Eng → Eng} (h : ∀ e, (panCounted s.cycle (f e)).retire s.eng.delay s.cycle =
    f ((panCounted s.cycle e).retire s.eng.delay s.cycle)) : s.wordDone (s.modEng f) = (s.wordDone s).modEng f := by
  rw [wordDone_eq, wordDone_eq, modEng_modEng, retire_modEng, retire_modEng, modEng_modEng]
  exact congrArg _ (funext h)

theorem wordDone_branchTo {s : State} (hd : s.eng.delay = none) (tk : Bool) (tgt : W64) :
    s.wordDone (s.branchTo tk tgt) = (s.wordDone s).branchTo tk tgt := by
  refine wordDone_modEng fun e => ?_
  rw [hd]
  unfold panCounted
  cases e.panSince <;> rfl

theorem panRoom_modEng {s t : State} (h : panRoom s t) (f : Eng → Eng) : panRoom s (t.modEng f) := panRoom_modArch h _

theorem panRoom_branchTo {s t : State} (h : panRoom s t) (tk : Bool) (tgt : W64) : panRoom s (t.branchTo tk tgt) := panRoom_modEng h _

/-! ### Where a word may stand (R112, R310) -/

theorem placeOk_no_delay {s : State} (hd : s.eng.delay = none) : s.placeOk false true = none := by simp [State.placeOk, hd]

theorem placeOk_delay {s : State} (hd : s.eng.delay ≠ none) (handlerOk : Bool) :
    s.placeOk false handlerOk = some Code.delaySlotBranch := by
  simp [State.placeOk, Option.isSome_iff_ne_none, hd]

theorem finish_checked_trap (s : State) {c : Option (BitVec 8)} {code : BitVec 8} (hc : c = some code) (r : Res) :
    s.finish (checked c none r) = s.trap code none := by rw [hc]; rfl

theorem runs_of_live {i : Instr} {h : Hdr} {s : State} (hl : s.live h = true) (hc : check2 i s.eng = none) : runs i h s := ⟨hc, hl⟩

/-! ### PBR, BR, BRO and JMPL (R111 to R118) -/

theorem relTarget_eq (s : State) (imm : BitVec 32) :
    s.relTarget imm = BitVec.ofInt 64 (s.eng.pc.toNat + 4 * imm.toInt) := by
  have hshift : imm.signExtend 64 <<< 2 = BitVec.ofInt 64 (4 * imm.toInt) := by
    rw [BitVec.shiftLeft_eq_mul_twoPow, BitVec.ofInt_mul, mul_comm]
    rfl
  rw [State.relTarget, hshift, BitVec.ofInt_add, BitVec.ofInt_natCast, BitVec.ofNat_toNat, BitVec.setWidth_eq]

theorem exec_pbr_runs {h : Hdr} {f : BrF} {s : State} (hr : runs (.pbr h f) h s) : exec (.pbr h f) s = .next (s.wordDone
    (s.modEng (fun e => e.setT f.t (BitVec.ofInt 64 (s.eng.pc.toNat + 4 * f.imm.toInt))))) := by
  rw [← relTarget_eq]
  exact runWord_done (eff := fun s => .done (s.modEng (fun e => e.setT f.t (s.relTarget f.imm)))) hr rfl
    (panRoom_modEng (panRoom_refl s) _)

theorem exec_br (h : Hdr) (f : BrF) (s : State) : exec (.br h f) s =
    if f.pusho = 1 ∧ !s.here.suppressed s.eng then .next (s.finish (brPush h f s))
    else if !s.live h then notTaken s
    else .next (s.finish (checked (s.placeOk false true) none (.done (s.branchTo true (s.eng.getT f.t))))) := rfl

theorem notTaken_no_delay {s : State} (hd : s.eng.delay = none) : notTaken s = .next (s.wordDone (s.branchTo false 0)) := by
  rw [notTaken, hd, wordDone_branchTo hd, finish_done (panRoom_refl s)]

theorem exec_br_no_push {h : Hdr} {f : BrF} {s : State} (hp : f.pusho = 0) (hd : s.eng.delay = none) : exec (.br h f) s =
    .next (s.wordDone (if s.live h then s.branchTo true (s.eng.getT f.t) else s.branchTo false 0)) := by
  rw [exec_br, if_neg (by simp [hp]), placeOk_no_delay hd]
  cases hl : s.live h
  · exact notTaken_no_delay hd
  · exact congrArg Host.Outcome.next (finish_done (panRoom_branchTo (panRoom_refl s) _ _))

theorem exec_br_push {h : Hdr} {f : BrF} {s : State} {a : Arch} (hp : f.pusho = 1) (hs : s.here.suppressed s.eng = false)
    (hd : s.eng.delay = none) (ha : s.arch.pushOutcome s.cur.th (s.eng.guard h) = some a) : exec (.br h f) s =
      .next (s.wordDone ((s.modArch (fun _ => a)).branchTo (s.eng.guard h) (s.eng.getT f.t))) := by
  rw [exec_br, if_pos (by simp [hp, hs]), brPush, placeOk_no_delay hd]
  simp only [checked, ha]
  rw [finish_done (panRoom_branchTo (panRoom_modArch (panRoom_refl s) _) _ _)]

/-- What BRO does when its queue is the one that it names toward its own engine. -/
def broEffect (f : BrF) (s : State) : Res :=
  checked (s.placeOk false true) none (match s.arch.bout[qIndex f.q s.cur.th.code] with
    | [] => .stall s
    | b :: l => .done ((s.modArch (fun a => { a with bout := a.bout.set (qIndex f.q s.cur.th.code) l })).branchTo b (s.eng.getT f.t)))

theorem exec_bro (h : Hdr) (f : BrF) (s : State) : exec (.bro h f) s = runWord (.bro h f) h s (broEffect f) := rfl

theorem exec_bro_head {h : Hdr} {f : BrF} {s : State} {b : Bool} {l : List Bool} (hr : runs (.bro h f) h s)
    (hd : s.eng.delay = none) (hq : s.arch.bout[qIndex f.q s.cur.th.code] = b :: l) : exec (.bro h f) s = .next (s.wordDone
      ((s.modArch (fun a => { a with bout := a.bout.set (qIndex f.q s.cur.th.code) l })).branchTo b (s.eng.getT f.t))) := by
  rw [exec_bro]
  refine runWord_done hr ?_ (panRoom_branchTo (panRoom_modArch (panRoom_refl s) _) _ _)
  rw [broEffect, placeOk_no_delay hd, hq]
  rfl

theorem exec_jmpl (h : Hdr) (f : BrF) (s : State) : exec (.jmpl h f) s = if !s.live h then notTaken s
    else .next (s.finish (checked (s.placeOk false true) none
      (.done ((s.modEng (fun e => e.setT f.tl e.nextSection)).branchTo true (s.relTarget f.imm))))) := rfl

theorem exec_jmpl_taken {h : Hdr} {f : BrF} {s : State} (hl : s.live h = true) (hd : s.eng.delay = none) : exec (.jmpl h f) s =
    .next (s.wordDone ((s.modEng (fun e => e.setT f.tl e.nextSection)).branchTo true
      (BitVec.ofInt 64 (s.eng.pc.toNat + 4 * f.imm.toInt)))) := by
  rw [exec_jmpl, hl, placeOk_no_delay hd, relTarget_eq]
  exact congrArg Host.Outcome.next (finish_done (panRoom_branchTo (panRoom_modEng (panRoom_refl s) _) _ _))

/-- No delay slot holds a transfer word (R112). -/
theorem exec_transfer_in_delay_slot {h : Hdr} {s : State} (hl : s.live h = true) (hd : s.eng.delay ≠ none) (f : BrF) :
    exec (.br h f) s = .next (s.trap Code.delaySlotBranch none) ∧
    exec (.bro h f) s = .next (s.trap Code.delaySlotBranch none) ∧
    exec (.jmpl h f) s = .next (s.trap Code.delaySlotBranch none) := by
  have hplace := placeOk_delay hd true
  refine ⟨?_, ?_, ?_⟩
  · rw [exec_br, brPush, finish_checked_trap s hplace, finish_checked_trap s hplace, hl]
    split <;> rfl
  · rw [exec_bro]
    exact runWord_trap (runs_of_live hl rfl) (by rw [broEffect, hplace]; rfl)
  · rw [exec_jmpl, hl, finish_checked_trap s hplace]
    rfl

/-! ### Outcome queues (R113, R116) -/

theorem qIndex_inj {x y u v : BitVec 2} : qIndex x y = qIndex u v ↔ x = u ∧ y = v := by revert x y u v; decide

/-- The thread of a code is the only kernel engine with it. -/
theorem kernel_code_iff : ∀ u ∈ kernelThreads, ∀ y : BitVec 2, u.code = y ↔ u = Thread.ofCode y := by decide

theorem ofCode_mem : ∀ y : BitVec 2, Thread.ofCode y ∈ kernelThreads := by decide

/-- Outcome b of engine t goes to the queue toward engine u. -/
def appendOutcome (t : Thread) (b : Bool) (a : Arch) (u : Thread) : Arch :=
  { a with bout := a.bout.set (qIndex t.code u.code) (a.bout[qIndex t.code u.code] ++ [b]) }

/-- The engines that an outcome of engine t is pushed to. -/
def outcomeTargets (a : Arch) (t : Thread) : List Thread := kernelThreads.filter (fun u => u.code ≠ t.code && !(a.eng u).done)

theorem pushOutcome_eq (a : Arch) (t : Thread) (b : Bool) : a.pushOutcome t b =
    if (outcomeTargets a t).any (fun u => decide (16 ≤ (a.bout[qIndex t.code u.code]).length)) then none
    else some ((outcomeTargets a t).foldl (appendOutcome t b) a) := rfl

theorem appendOutcome_bout (t : Thread) (b : Bool) (a : Arch) (u : Thread) (x y : BitVec 2) :
    (appendOutcome t b a u).bout[qIndex x y] =
      if x = t.code ∧ y = u.code then a.bout[qIndex x y] ++ [b] else a.bout[qIndex x y] := by
  by_cases hxy : x = t.code ∧ y = u.code
  · obtain ⟨rfl, rfl⟩ := hxy
    rw [if_pos ⟨rfl, rfl⟩]
    exact Vector.getElem_set_self _
  · rw [if_neg hxy]
    exact Vector.getElem_set_ne (qIndex _ _).isLt (qIndex _ _).isLt (fun h => hxy (qIndex_inj.1 (Fin.ext h.symm)))

theorem foldl_appendOutcome_rest (t : Thread) (b : Bool) (us : List Thread) (a : Arch) :
    us.foldl (appendOutcome t b) a = { a with bout := (us.foldl (appendOutcome t b) a).bout } := by
  induction us generalizing a with
  | nil => rfl
  | cons u us ih =>
    rw [List.foldl_cons, ih]
    rfl

theorem foldl_appendOutcome_bout (t : Thread) (b : Bool) {us : List Thread} (hn : (us.map Thread.code).Nodup) (a : Arch)
    (x y : BitVec 2) : (us.foldl (appendOutcome t b) a).bout[qIndex x y] =
      if x = t.code ∧ y ∈ us.map Thread.code then a.bout[qIndex x y] ++ [b] else a.bout[qIndex x y] := by
  induction us generalizing a with
  | nil => simp
  | cons u us ih =>
    obtain ⟨hu, hus⟩ := List.nodup_cons.1 hn
    rw [List.foldl_cons, ih hus, appendOutcome_bout]
    by_cases hyu : y = u.code
    · subst hyu
      simp [hu]
    · simp [hyu]

theorem mem_outcomeTargets_code (a : Arch) (t : Thread) (y : BitVec 2) :
    y ∈ (outcomeTargets a t).map Thread.code ↔ y ≠ t.code ∧ (a.eng (Thread.ofCode y)).done = false := by
  simp only [outcomeTargets, List.mem_map, List.mem_filter, Bool.and_eq_true, decide_eq_true_eq, Bool.not_eq_true']
  constructor
  · rintro ⟨u, ⟨hu, hne, hdone⟩, rfl⟩
    rw [← (kernel_code_iff u hu _).1 rfl]
    exact ⟨hne, hdone⟩
  · rintro ⟨hne, hdone⟩
    have hcode : (Thread.ofCode y).code = y := (kernel_code_iff _ (ofCode_mem y) y).2 rfl
    exact ⟨_, ⟨ofCode_mem y, by rwa [hcode], hdone⟩, hcode⟩

theorem outcomeTargets_codes_nodup (a : Arch) (t : Thread) : ((outcomeTargets a t).map Thread.code).Nodup :=
  (by decide : (kernelThreads.map Thread.code).Nodup).sublist (List.filter_sublist.map _)

theorem pushOutcome_room {a : Arch} {t : Thread} (b : Bool) (hroom : ∀ u ∈ kernelThreads, u.code ≠ t.code →
    (a.eng u).done = false → (a.bout[qIndex t.code u.code]).length < 16) :
    a.pushOutcome t b = some ((outcomeTargets a t).foldl (appendOutcome t b) a) := by
  have hany : (outcomeTargets a t).any (fun u => decide (16 ≤ (a.bout[qIndex t.code u.code]).length)) = false := by
    refine List.any_eq_false.2 fun u hu => ?_
    obtain ⟨hmem, hcond⟩ := List.mem_filter.1 hu
    simp only [Bool.and_eq_true, decide_eq_true_eq, Bool.not_eq_true'] at hcond
    simpa using hroom u hmem hcond.1 hcond.2
  rw [pushOutcome_eq, hany]
  rfl

/-! ### The obligation -/

/-- Settles O12: the words by their lemmas, the queues by the fold of `appendOutcome`, the retirement of the delay word by
its definition. -/
theorem branchWords : Obligations.BranchWords := by
  unfold Obligations.BranchWords
  refine ⟨fun h f s => ⟨exec_pbr_runs, exec_br_no_push, fun a => exec_br_push, ?_, exec_jmpl_taken,
    fun hl hd => exec_transfer_in_delay_slot hl hd f⟩, fun a t b hroom => ?_,
    fun e tgt now => ⟨rfl, rfl, rfl, rfl, rfl, rfl, rfl, rfl⟩⟩
  · rintro q b l hr hd rfl hq
    exact exec_bro_head hr hd hq
  · refine ⟨_, pushOutcome_room b hroom, foldl_appendOutcome_rest t b _ a, fun x y => ?_⟩
    rw [foldl_appendOutcome_bout t b (outcomeTargets_codes_nodup a t)]
    exact if_congr (and_congr_right fun _ => mem_outcomeTargets_code a t y) rfl rfl

end Sys2Proof.Proofs
end

section
/-! Hardware loops (O13, O14): LOOP and LOOPJ set one counter and put it on their engine's list; LBRK on an active loop
retires and then lets the trip count fall, which is all that the rest of its effect does to that count. -/

namespace Sys2Proof.Proofs

open Sys2Proof Sys2Proof.Machine Sys2Proof.Laws

/-! ### Counters (R120) -/

section Counters
variable (a : Arch) {lc : Nat} (h : lc < 4) (f : Loop → Loop)

theorem modLoop_self : (a.modLoop lc f).loops[lc] = f a.loops[lc] := by
  simp [Arch.modLoop, h]

theorem modLoop_ne {k : Nat} (hk : lc ≠ k) : (a.modLoop k f).loops[lc] = a.loops[lc] := by
  unfold Arch.modLoop
  split
  next hlt => exact Vector.getElem_set_ne hlt h hk.symm
  next => rfl

theorem modLoop_eng : (a.modLoop lc f).eng = a.eng := by
  unfold Arch.modLoop
  split
  · exact eng_ext rfl rfl rfl rfl rfl
  · rfl

variable {f}

theorem modLoop_keeps_n (hf : ∀ l, (f l).n = l.n) (k : Nat) : (a.modLoop k f).loops[lc].n = a.loops[lc].n := by
  by_cases hk : lc = k
  · subst hk
    rw [modLoop_self, hf]
  · rw [modLoop_ne a h f hk]

theorem freeLoop_keeps_n (k : Nat) : (a.freeLoop k).loops[lc].n = a.loops[lc].n := by
  unfold Arch.freeLoop
  generalize kernelThreads.all _ = left
  cases left
  · rfl
  · exact modLoop_keeps_n a h (f := fun l => { l with active := false }) (fun _ => rfl) k

theorem foldl_modLoop_keeps_n (hf : ∀ l, (f l).n = l.n) (ks : List Nat) :
    (ks.foldl (fun a k => a.modLoop k f) a).loops[lc].n = a.loops[lc].n := by
  induction ks generalizing a with
  | nil => rfl
  | cons k ks ih => rw [List.foldl_cons, ih, modLoop_keeps_n a h hf]

end Counters

theorem eng_modLoop (s : State) (lc : Nat) (f : Loop → Loop) : (s.modArch (fun a => a.modLoop lc f)).eng = s.eng :=
  eng_modArch_other s (modLoop_eng s.arch f)

@[simp] theorem arch_modEng_loops (s : State) (f : Eng → Eng) : (s.modEng f).arch.loops = s.arch.loops := by
  rw [State.modEng, arch_modArch, archModEng_loops]

@[simp] theorem retire_loops (s : State) (was : Option (Bool × W64)) : (s.retire was).arch.loops = s.arch.loops := by
  rw [State.retire, arch_modEng_loops, State.arch, here_modHere]
  rfl

/-! ### LBRK (R122, R126) -/

/-- A word whose guard is false retires and does nothing else (R25). -/
theorem runWord_unguarded {i : Instr} {h : Hdr} {s : State} (hc : check2 i s.eng = none) (hg : s.eng.guard h = false)
    (eff : State → Res) : runWord i h s eff = .next (s.retire s.eng.delay) := by
  simp [runWord, hc, hg]

/-- An inner loop that the engines of a list leave together with the loop around it. -/
def leftInner (gone : List Thread) (l : Loop) : Loop := { l with leftBy := l.leftBy ++ gone, active := false }

/-- Of all that LBRK does to a core, one update sets the trip count. -/
theorem lbrk_n (c : Core) {lc : Nat} (h : lc < 4) (cut : Nat) : (c.lbrk lc cut).arch.loops[lc].n = min c.arch.loops[lc].n cut := by
  unfold Core.lbrk
  lift_lets
  intro lp n fv nv gone inner voided _ a₁ a₂ a₃ again c₁ c₂
  have hn : n = min c.arch.loops[lc].n cut := by simp [n, lp, h]
  have ha₂ : a₂.loops[lc].n = n := by simp only [a₂, modLoop_self _ h]
  have ha₃ : a₃.loops[lc].n = n := (foldl_modLoop_keeps_n a₂ h (f := leftInner gone) (fun _ => rfl) inner).trans ha₂
  have hc₂ : c₂.arch.loops[lc].n = n := (freeLoop_keeps_n _ h lc).trans ha₃
  rw [← hn]
  split
  · exact ha₃
  · split
    · exact hc₂
    · exact hc₂

theorem exec_lbrk (h : Hdr) (f : BrF) (s : State) : exec (.lbrk h f) s = runWord (.lbrk h f) h s (fun s =>
    checked (s.placeOk false false) none
      (if !s.arch.loops[f.lc.toNat].active then .trap Code.reservedField none
       else .gone ((s.retire s.eng.delay).modHere
        (fun c => c.lbrk f.lc.toNat (lbrkCut s.eng s.arch.loops[f.lc.toNat] f.lc.toNat))))) := rfl

theorem exec_lbrk_active {h : Hdr} {f : BrF} {s : State} (hp : s.placeOk false false = none) (hr : runs (.lbrk h f) h s)
    (hact : s.arch.loops[f.lc.toNat].active = true) : exec (.lbrk h f) s = .next ((s.retire s.eng.delay).modHere
      (fun c => c.lbrk f.lc.toNat (lbrkCut s.eng s.arch.loops[f.lc.toNat] f.lc.toNat))) := by
  rw [exec_lbrk, runWord_runs hr, hp, hact]
  rfl

theorem exec_lbrk_inactive {h : Hdr} {f : BrF} {s : State} (hr : runs (.lbrk h f) h s) (hp : s.placeOk false false = none)
    (hact : s.arch.loops[f.lc.toNat].active = false) : exec (.lbrk h f) s = .next (s.trap Code.reservedField none) := by
  rw [exec_lbrk]
  exact runWord_trap hr (by rw [hp, hact]; rfl)

theorem lbrk_fields_zero {h : Hdr} {f : BrF} (hw : WellFormed (.lbrk h f) = true) : f = ⟨0, f.lc, 0, 0, 0, 0, 0, 0, 0, 0⟩ := by
  have hall : (decide (f.t = 0) && decide (f.pusho = 0) && decide (f.cr = 0) && decide (f.s = 0) && decide (f.q = 0) &&
    decide (f.gc = 0) && decide (f.r = 0) && decide (f.tl = 0) && decide (f.imm = 0)) = true := hw
  simp only [Bool.and_eq_true, decide_eq_true_eq] at hall
  obtain ⟨⟨⟨⟨⟨⟨⟨⟨ht, hpusho⟩, hcr⟩, hs⟩, hq⟩, hgc⟩, hr⟩, htl⟩, himm⟩ := hall
  cases f
  simp only [BrF.mk.injEq]
  exact ⟨ht, trivial, hpusho, hcr, hs, hq, hgc, hr, htl, himm⟩

/-- Settles O14: field by field, then by the guard and by the check of the counter. -/
theorem loopBreakRule : Obligations.LoopBreakRule := by
  unfold Obligations.LoopBreakRule
  refine fun h f s => ⟨lbrk_fields_zero, fun hg => ?_, exec_lbrk_inactive⟩
  rw [exec_lbrk]
  exact runWord_unguarded rfl hg _

/-! ### LOOP and LOOPJ (R120, R121, R125) -/

/-- The trip count of a LOOP word. -/
def loopCount (f : BrF) (s : State) : Nat := if f.cr = 1 then (s.g f.gc).toNat % 2 ^ 32 else f.imm.toNat

/-- The counter of a word is changed by g, and the engine that runs takes it onto its list. -/
def withLoop (s : State) (f : BrF) (g : Loop → Loop) : State :=
  (s.modArch (fun a => a.modLoop f.lc.toNat g)).modEng (fun e => { e with loops := ⟨f.lc.toNat, 0⟩ :: e.loops })

section Loops
variable (s : State) (f : BrF) (g : Loop → Loop)

theorem withLoop_eng : (withLoop s f g).eng = { s.eng with loops := ⟨f.lc.toNat, 0⟩ :: s.eng.loops } := by
  rw [withLoop, eng_of_modEng, eng_modLoop]

theorem withLoop_self : (withLoop s f g).arch.loops[f.lc.toNat] = g s.arch.loops[f.lc.toNat] := by
  simp only [withLoop, arch_modEng_loops, arch_modArch, modLoop_self]

theorem withLoop_ne {n : Fin 4} (hn : n.val ≠ f.lc.toNat) : (withLoop s f g).arch.loops[n] = s.arch.loops[n] := by
  simp only [withLoop, arch_modEng_loops, arch_modArch, Fin.getElem_fin, modLoop_ne _ _ _ hn]

theorem panRoom_withLoop : panRoom s (withLoop s f g) := panRoom_modEng (panRoom_modArch (panRoom_refl s) _) _

end Loops

theorem low_word_toNat (v : W64) : (v.extractLsb' 0 32).toNat = v.toNat % 2 ^ 32 := by simp [BitVec.extractLsb'_toNat]

/-- LOOP's effect behind check 4. -/
def loopEffect (f : BrF) (s : State) : Res :=
  match s.descHere with
  | none => .trap Code.reservedField none
  | some (i, d) =>
    if s.arch.loops[f.lc.toNat].active ∨ !descAgrees d f then .trap Code.reservedField none
    else .done (withLoop s f (fun _ => startLoop i d (if f.cr = 1 then ((s.g f.gc).extractLsb' 0 32).toNat else f.imm.toNat)
      s.arch.loops[f.lc.toNat].value))

theorem exec_loop (h : Hdr) (f : BrF) (s : State) : exec (.loop h f) s =
    runWord (.loop h f) h s (fun s => checked (s.placeOk false false) none (loopEffect f s)) := rfl

/-- LOOPJ's effect behind check 4. -/
def loopjEffect (f : BrF) (s : State) : Res :=
  match s.descHere with
  | none => .trap Code.reservedField none
  | some (_, d) =>
    if s.eng.loops.any (fun l => l.lc = f.lc.toNat) ∨ !descAgrees d f then .trap Code.reservedField none
    else if !s.arch.loops[f.lc.toNat].active ∨ s.arch.loops[f.lc.toNat].joinedBy.contains s.cur.th then .stall s
    else if s.arch.loops[f.lc.toNat].s ≠ f.s.toNat + 1 ∨ s.arch.loops[f.lc.toNat].rb ≠ f.r.getLsbD 0 then
      .trap Code.reservedField none
    else .done (withLoop s f (fun l => { l with joinedBy := l.joinedBy ++ [s.cur.th] }))

theorem exec_loopj (h : Hdr) (f : BrF) (s : State) : exec (.loopj h f) s =
    runWord (.loopj h f) h s (fun s => checked (s.placeOk false false) none (loopjEffect f s)) := rfl

section Words
variable {h : Hdr} {f : BrF} {s : State} (hp : s.placeOk false false = none)
include hp

theorem exec_loop_starts {i : Image} {d : LoopDesc} (hr : runs (.loop h f) h s) (hdesc : s.descHere = some (i, d))
    (hagree : descAgrees d f = true) (hidle : s.arch.loops[f.lc.toNat].active = false) : exec (.loop h f) s = .next (s.wordDone
      (withLoop s f (fun _ => startLoop i d (loopCount f s) s.arch.loops[f.lc.toNat].value))) := by
  rw [exec_loop]
  refine runWord_done hr ?_ (panRoom_withLoop s f _)
  rw [hp, checked, loopEffect, hdesc, loopCount, ← low_word_toNat]
  simp [hidle, hagree]

theorem exec_loop_no_descriptor (hr : runs (.loop h f) h s) (hdesc : s.descHere = none) :
    exec (.loop h f) s = .next (s.trap Code.reservedField none) := by
  rw [exec_loop]
  exact runWord_trap hr (by rw [hp, checked, loopEffect, hdesc])

theorem exec_loopj_joins {i : Image} {d : LoopDesc} (hr : runs (.loopj h f) h s) (hdesc : s.descHere = some (i, d))
    (hagree : descAgrees d f = true) (hout : s.eng.loops.any (fun l => l.lc = f.lc.toNat) = false)
    (hact : s.arch.loops[f.lc.toNat].active = true) (hnew : s.cur.th ∉ s.arch.loops[f.lc.toNat].joinedBy)
    (hs : s.arch.loops[f.lc.toNat].s = f.s.toNat + 1) (hrb : s.arch.loops[f.lc.toNat].rb = f.r.getLsbD 0) :
    exec (.loopj h f) s = .next (s.wordDone
      (withLoop s f (fun l => { l with joinedBy := l.joinedBy ++ [s.cur.th] }))) := by
  rw [exec_loopj]
  refine runWord_done hr ?_ (panRoom_withLoop s f _)
  rw [hp, checked, loopjEffect, hdesc]
  simp [hout, hagree, hact, hs, hrb, hnew]

theorem exec_loopj_waits (hr : runs (.loopj h f) h s) (hdesc : s.descHere.isSome = true) (hempty : s.eng.loops = [])
    (hagree : ∀ p ∈ s.descHere, descAgrees p.2 f = true) (hidle : s.arch.loops[f.lc.toNat].active = false) :
    exec (.loopj h f) s = .next s.stalledNow := by
  obtain ⟨⟨i, d⟩, hsome⟩ := Option.isSome_iff_exists.1 hdesc
  have hd : descAgrees d f = true := hagree _ hsome
  rw [exec_loopj]
  refine runWord_stall hr ?_
  rw [hp, checked, loopjEffect, hsome]
  simp [hempty, hd, hidle]

end Words

/-! ### The obligation -/

/-- Settles O13: LOOP and LOOPJ by `withLoop`, LBRK by its trip count. -/
theorem loopWords : Obligations.LoopWords := by
  unfold Obligations.LoopWords
  refine fun h f s hp => ⟨fun i d hr hdesc hagree hidle => ⟨_, exec_loop_starts hp hr hdesc hagree hidle, ?_⟩,
    fun i d => exec_loopj_joins hp, exec_loopj_waits hp, fun hr hact => ⟨_, exec_lbrk_active hp hr hact, ?_⟩,
    exec_loop_no_descriptor hp⟩
  · refine ⟨by rw [withLoop_eng], ?_⟩
    rw [withLoop_self]
    exact ⟨rfl, rfl, rfl, rfl, rfl, rfl, rfl, rfl, fun n hn => withLoop_ne s f _ hn⟩
  · rw [State.arch, here_modHere, lbrk_n _ f.lc.isLt]
    exact congrArg (fun l : Vector Loop 4 => min l[f.lc.toNat].n _) (retire_loops s s.eng.delay)

end Sys2Proof.Proofs
end

section
/-! TASKEND (O15). The model holds the word back until the engine's last VSTS has retired (R133, R154), on which the statement
makes no hypothesis: with a VSTS outstanding the word waits, and the engine is not done. -/

namespace Sys2Proof.Proofs

open Sys2Proof Sys2Proof.Machine Sys2Proof.Laws

/-- Retirement does not end an engine's part of the task. -/
theorem wordDone_done (s t : State) : (s.wordDone t).eng.done = t.eng.done := by
  have hslot : ∀ x : State, (x.modHere (fun c => c.slotUsed x.cur.th x.cycle)).eng.done = x.eng.done := fun x => by
    rw [eng_modHere, State.eng, State.arch]
    cases x.cur.th <;> rfl
  obtain ⟨_, _, _, _, _, _, _, _, _, _, _, _, hdone⟩ :=
    retire_keeps ((t.modEng (panCounted s.cycle)).modHere (fun c => c.slotUsed t.cur.th t.cycle)).eng s.eng.delay t.cycle
  have hpan : (panCounted s.cycle t.eng).done = t.eng.done := by
    unfold panCounted
    split <;> rfl
  rw [wordDone_eq, State.retire, eng_of_modEng]
  exact hdone.trans ((hslot _).trans (by rw [eng_of_modEng, hpan]))

theorem exec_taskend (h : Hdr) (f : SY) (s : State) : exec (.taskend h f) s = runWord (.taskend h f) h s (fun s =>
    checked (s.placeOk false false) none
      (if !s.eng.loops.isEmpty then .trap Code.sectionFormat none
       else if s.cycle < s.eng.sts.2 ∨ (s.cur.th = .m ∧ s.arch.mflight.any (fun m => decide (s.cycle < m.doneAt))) then .wait s
       else if s.cur.th = .a ∧ s.arch.streams.toList.any (fun t => t.st = .running || t.st = .parked) then .wait s
       else .done (s.modHere (fun c => c.taskEnd s.cur.th)))) := rfl

/-- TASKEND waits for a VSTS of its engine that has not retired. -/
theorem exec_taskend_waits {h : Hdr} {f : SY} {s : State} (hr : runs (.taskend h f) h s) (hp : s.placeOk false false = none)
    (hl : s.eng.loops = []) (hsts : s.cycle < s.eng.sts.2) (hth : s.cur.th ≠ .chap) : exec (.taskend h f) s = .next s := by
  rw [exec_taskend, runWord_runs hr, hp, checked]
  simp [hl, hsts, State.finish, hth]

/-- V after reset, with a VSTS that retires in cycle 1. -/
def storing : State := { State.reset with cur := ⟨0, .v⟩ }.modEng (fun e => { e with sts := (0, 1) })

theorem storing_eng : storing.eng = { Eng.reset false with sts := (0, 1) } := by
  rw [storing, eng_of_modEng]
  rw [State.eng, State.arch, State.here]
  exact congrArg (fun c : Core => { c.arch.eng .v with sts := (0, 1) }) (core_reset 0)

/-- Refutes O15: V with a VSTS that retires in the next cycle meets every hypothesis of the TASKEND clause, and its word
waits. -/
theorem not_nopAndTaskend : ¬ Obligations.NopAndTaskend := by
  unfold Obligations.NopAndTaskend
  intro hall
  obtain ⟨_, hend, _⟩ := hall ⟨0, 0, 0, 0⟩ ⟨0, 0, 0, 0, 0, 0, 0, 0, 0, 0, 0⟩ storing
  have hruns : runs (.taskend ⟨0, 0, 0, 0⟩ ⟨0, 0, 0, 0, 0, 0, 0, 0, 0, 0, 0⟩) ⟨0, 0, 0, 0⟩ storing := by
    refine ⟨rfl, ?_⟩
    rw [State.live, storing_eng]
    rfl
  have hplace : storing.placeOk false false = none := by
    rw [State.placeOk, storing_eng]
    rfl
  have hloops : storing.eng.loops = [] := by
    rw [storing_eng]
    rfl
  have hsts : storing.cycle < storing.eng.sts.2 := by
    rw [storing_eng]
    decide
  obtain ⟨t, hexec, hdone, _⟩ := hend hruns hplace hloops (fun hm => absurd hm (by decide)) (fun ha => absurd ha (by decide))
  rw [exec_taskend_waits hruns hplace hloops hsts (by decide)] at hexec
  have hsame : storing = storing.wordDone t := Host.Outcome.next.inj hexec
  have hnot : storing.eng.done = false := by
    rw [storing_eng]
    rfl
  rw [hsame, wordDone_done, hdone] at hnot
  cases hnot

end Sys2Proof.Proofs
end

section
/-! Launching (O46): rings, commands and bundles are tables of the device. Each event changes its own entry; completions,
translations and signals, which come along, leave the tables alone (`SameTables`). -/

namespace Sys2Proof.Proofs

open Sys2Proof Sys2Proof.Machine Sys2Proof.Laws

/-! ### What completions and translations leave alone (R278, R327) -/

/-- Two devices have the same rings, contexts, commands and bundles. -/
structure SameTables (d e : Dev) : Prop where
  hrings : e.hrings = d.hrings
  ctxs : e.ctxs = d.ctxs
  hcmds : e.hcmds = d.hcmds
  bundles : e.bundles = d.bundles
  nextBundle : e.nextBundle = d.nextBundle

namespace SameTables

theorem refl (d : Dev) : SameTables d d := ⟨rfl, rfl, rfl, rfl, rfl⟩

variable {d e f : Dev}

theorem trans (h : SameTables d e) (g : SameTables e f) : SameTables d f :=
  ⟨g.hrings.trans h.hrings, g.ctxs.trans h.ctxs, g.hcmds.trans h.hcmds, g.bundles.trans h.bundles,
    g.nextBundle.trans h.nextBundle⟩

theorem hring (h : SameTables d e) (ctx ring : Nat) : e.hring ctx ring = d.hring ctx ring := by
  rw [Dev.hring, h.hrings, Dev.hring]

theorem ctx (h : SameTables d e) (n : Nat) : e.ctx n = d.ctx n := by rw [Dev.ctx, h.ctxs, Dev.ctx]

theorem bundle (h : SameTables d e) (id : Nat) : e.bundle id = d.bundle id := by rw [Dev.bundle, h.bundles, Dev.bundle]

theorem foldl {β : Type} {f : State → β → State} (hf : ∀ s x, SameTables s.dev (f s x).dev) (xs : List β) (s : State) :
    SameTables s.dev (xs.foldl f s).dev :=
  List.foldlRecOn (motive := fun t : State => SameTables s.dev t.dev) xs f (refl s.dev) fun t h x _ => h.trans (hf t x)

end SameTables

theorem sameTables_irq (s : State) (vec : Nat) : SameTables s.dev (s.irq vec).dev := by
  unfold State.irq
  split <;> exact ⟨rfl, rfl, rfl, rfl, rfl⟩

theorem sameTables_completeAs (s : State) (c : CplTo) (code : BitVec 8) : SameTables s.dev (s.completeAs c code).dev := by
  unfold State.completeAs
  split
  · exact SameTables.refl _
  · simp only
    split
    · refine SameTables.trans ?_ (sameTables_irq _ _)
      exact ⟨rfl, rfl, rfl, rfl, rfl⟩
    · exact ⟨rfl, rfl, rfl, rfl, rfl⟩

theorem sameTables_complete (s : State) (c : Option CplTo) (code : BitVec 8) : SameTables s.dev (s.complete c code).dev := by
  cases c with
  | none => exact SameTables.refl _
  | some c => exact sameTables_completeAs s c code

theorem sameTables_fillCaches (s : State) (core : CoreId) (ctx va : Nat) : SameTables s.dev (s.fillCaches core ctx va).dev := by
  unfold State.fillCaches
  simp only
  split
  · split <;> exact ⟨rfl, rfl, rfl, rfl, rfl⟩
  · exact SameTables.refl _

theorem sameTables_fillRun (s : State) (core : CoreId) (ctx va n : Nat) : SameTables s.dev (s.fillRun core ctx va n).dev := by
  unfold State.fillRun
  split
  · exact SameTables.refl _
  · exact SameTables.foldl (fun s k => sameTables_fillCaches s core ctx _) _ s

theorem signalSealed_dev (s : State) (src : CoreId) (sg : WaitSig) : (s.signalSealed src sg).dev = s.dev := by
  unfold State.signalSealed
  split
  · rfl
  · split <;> rfl

/-! ### Entries of the tables -/

@[simp] theorem hring_setHring (d : Dev) (ctx ring : Nat) (r : HostRing) : (d.setHring ctx ring r).hring ctx ring = r :=
  get_set_self _ _ _ _

@[simp] theorem ctx_setCtx (d : Dev) (n : Nat) (x : Ctx) : (d.setCtx n x).ctx n = x := get_set_self _ _ _ _

theorem find_map_bundle {bs : List Bundle} {id : Nat} {b : Bundle} {f : Bundle → Bundle}
    (hb : bs.find? (fun b => b.id = id) = some b) (hf : (f b).id = id) :
    (bs.map (fun b => if b.id = id then f b else b)).find? (fun b => b.id = id) = some (f b) := by
  induction bs with
  | nil => cases hb
  | cons x xs ih =>
    by_cases hx : x.id = id
    · obtain rfl : x = b := by simpa [hx] using hb
      simp [hx, hf]
    · rw [List.find?_cons_of_neg (by simpa using hx)] at hb
      rw [List.map_cons, if_neg hx, List.find?_cons_of_neg (by simpa using hx)]
      exact ih hb

/-- A bundle is changed in its place, when the change keeps its id. -/
theorem bundle_modBundle {d : Dev} {id : Nat} {b : Bundle} {f : Bundle → Bundle} (hb : d.bundle id = some b) (hf : (f b).id = id) :
    (d.modBundle id f).bundle id = some (f b) := find_map_bundle hb hf

theorem bundle_of_filter (bs : List Bundle) (id : Nat) : (bs.filter (fun x => x.id ≠ id)).find? (fun x => x.id = id) = none := by
  simp [List.find?_eq_none]

theorem image_of_filter (is : List Image) (addr : Nat) : (is.filter (fun j => j.addr ≠ addr)).find? (fun i => i.addr = addr) = none := by
  simp [List.find?_eq_none]

/-! ### Rings (R277 to R281) -/

section Rings
variable {ctx ring : Nat} {s : State}

theorem exec_hostRingEnable (ctx ring : Nat) (s : State) :
    exec (.hostRingEnable ctx ring) s = execHostRingEnable ctx ring s := rfl

theorem hring_foldl_hostWord (a v : Nat → Nat) (ps : List Nat) (d : Dev) (ctx ring : Nat) :
    (ps.foldl (fun (d : Dev) p => d.hostWord (a p) (v p)) d).hring ctx ring = d.hring ctx ring :=
  List.foldlRecOn (motive := fun e : Dev => e.hring ctx ring = d.hring ctx ring) ps _ rfl fun _ h _ _ => h

theorem hostRingEnable_valid (hctx : ctx < 1024) (hring : ring < 16) (hst : (s.dev.hring ctx ring).st = .disabled)
    (hv : ((s.dev.hring ctx ring).setEn true).valid = true) : ∃ t : State, exec (.hostRingEnable ctx ring) s = .next t ∧
      (t.dev.hring ctx ring).st = .enabled ∧ (t.dev.hring ctx ring).expect =
        List.replicate (s.dev.hring ctx ring).producers (leAt (s.dev.hring ctx ring).recd 0x20 8) := by
  rw [exec_hostRingEnable]
  unfold execHostRingEnable
  simp only [hctx.not_ge, hring.not_ge, hst, hv, ne_eq, not_true, or_self, if_false, Bool.not_true, Bool.false_eq_true]
  refine ⟨_, rfl, ?_⟩
  split
  · rw [modDev_dev, hring_setHring]
    exact ⟨rfl, rfl⟩
  · rw [modDev_dev, hring_foldl_hostWord, modDev_dev, hring_setHring]
    exact ⟨rfl, rfl⟩

theorem hostRingEnable_invalid (hctx : ctx < 1024) (hring : ring < 16) (hst : (s.dev.hring ctx ring).st = .disabled)
    (hv : ((s.dev.hring ctx ring).setEn true).valid = false) : ∃ t : State, exec (.hostRingEnable ctx ring) s = .next t ∧
      (t.dev.hring ctx ring).st = .disabled := by
  rw [exec_hostRingEnable]
  unfold execHostRingEnable
  simp only [hctx.not_ge, hring.not_ge, hst, hv, ne_eq, not_true, or_self, if_false, Bool.not_false, if_true]
  refine ⟨_, rfl, ?_⟩
  rw [modDev_dev, hring_setHring]
  exact hst

theorem exec_hostRingDisable (ctx ring : Nat) (s : State) : exec (.hostRingDisable ctx ring) s =
    .next (if (s.dev.hring ctx ring).st = .disabled then s
      else s.modDev (fun d => d.setHring ctx ring
        { (s.dev.hring ctx ring).setEn false with st := .disabled, expect := [], turn := 0, bell := false })) := rfl

theorem hostRingDisable_disables (hst : (s.dev.hring ctx ring).st ≠ .disabled) : ∃ t : State,
    exec (.hostRingDisable ctx ring) s = .next t ∧ (t.dev.hring ctx ring).st = .disabled := by
  rw [exec_hostRingDisable, if_neg hst]
  exact ⟨_, rfl, by rw [modDev_dev, hring_setHring]⟩

theorem exec_doorbellWrite (ctx ring : Nat) (s : State) : exec (.doorbellWrite ctx ring) s =
    .next (if s.ready ∧ (s.dev.hring ctx ring).st = .enabled then
      s.modDev (fun d => d.setHring ctx ring { s.dev.hring ctx ring with bell := true }) else s) := rfl

theorem doorbellWrite_rings (hready : s.ready = true) (hst : (s.dev.hring ctx ring).st = .enabled) : ∃ t : State,
    exec (.doorbellWrite ctx ring) s = .next t ∧ t.dev.hring ctx ring = { s.dev.hring ctx ring with bell := true } := by
  rw [exec_doorbellWrite, if_pos ⟨hready, hst⟩]
  exact ⟨_, rfl, by rw [modDev_dev, hring_setHring]⟩

/-- A place of a table whose every entry a function changes, when it keeps the default. -/
theorem get_map {α : Type} {d : α} {f : α → α} (hd : f d = d) (st : Store α) (k : Nat) :
    Store.get d (st.map (fun p => (p.1, f p.2))) k = f (Store.get d st k) := by
  induction st with
  | nil => exact hd.symm
  | cons p st ih =>
    simp only [List.map_cons, Store.get, ih]
    split <;> rfl

/-- With nothing left to read, the rings wait for their next doorbells. -/
theorem serveRings_quiet (h : s.grantRing = none) (n ctx ring : Nat) : (State.serveRings (n + 1) s).dev.hring ctx ring =
    { s.dev.hring ctx ring with bell := false } := by
  rw [State.serveRings, h]
  exact get_map (f := fun r : HostRing => { r with bell := false }) rfl s.dev.hrings (16 * ctx + ring)

/-- A ring whose next entry of producer p has been read (R280, R281). -/
def ringRead (r : HostRing) (p : Nat) : HostRing :=
  { r with expect := r.expect.set p ((r.expect.getD p 0 + 1) % 2 ^ 64), turn := (p + 1) % r.producers }

theorem consume_hring (s : State) (ctx ring p : Nat) :
    (s.consume ctx ring p).dev.hring ctx ring = ringRead (s.dev.hring ctx ring) p := by
  have hread : ∀ d : Dev, d.hrings = (s.dev.setHring ctx ring (ringRead (s.dev.hring ctx ring) p)).hrings →
      d.hring ctx ring = ringRead (s.dev.hring ctx ring) p := fun d h => by
    rw [Dev.hring, h]
    exact hring_setHring _ _ _ _
  unfold State.consume
  simp only
  split
  · rw [(sameTables_completeAs _ _ _).hring]
    exact hread _ (by rw [modDev_dev]; split <;> rfl)
  · exact hread _ (by simp only [modDev_dev]; split <;> rfl)

/-- An overrun of producer p's entries faults the ring and completes with QUEUE_OVERRUN (R281). -/
def overrunFound (s : State) (ctx ring p : Nat) : State :=
  let r := s.dev.hring ctx ring
  let (tag, s) := s.given none
  (s.modDev (fun d => d.setHring ctx ring { r with st := .faulted, bell := false })).completeAs
    (CplTo.of ctx ring r p (r.expect.getD p 0) (tag.extractLsb' 0 32) false) Code.queueOverrun

/-- What a reading does, by what it finds. -/
def afterFound (s : State) (ctx ring p : Nat) : SeqFound → State
  | .ready => s.consume ctx ring p
  | _ => overrunFound s ctx ring p

/-- The reading is a variable while its definition is opened: compared as it stands, the kernel would evaluate `seqFound`,
whose arithmetic modulo 2^64 is on an unknown number. -/
theorem readEntry_of_found {p : Nat} {found : SeqFound} (h : s.seqFound ctx ring p = found) :
    s.readEntry ctx ring p = afterFound s ctx ring p found := by
  suffices hread : ∀ read, read = State.readEntry → read s ctx ring p = afterFound s ctx ring p found from hread _ rfl
  intro read hread
  delta State.readEntry at hread
  rw [hread]
  beta_reduce
  rw [h]
  cases found <;> rfl

theorem readEntry_ready {p : Nat} (h : s.seqFound ctx ring p = .ready) : s.readEntry ctx ring p = s.consume ctx ring p :=
  readEntry_of_found h

theorem readEntry_overrun {p : Nat} (h : s.seqFound ctx ring p = .overrun) :
    ((s.readEntry ctx ring p).dev.hring ctx ring).st = .faulted ∧ (s.readEntry ctx ring p).dev.hcmds = s.dev.hcmds := by
  rw [readEntry_of_found h]
  refine ⟨?_, (sameTables_completeAs _ _ _).hcmds⟩
  change ((State.completeAs _ _ _).dev.hring ctx ring).st = _
  rw [(sameTables_completeAs _ _ _).hring]
  exact congrArg HostRing.st (hring_setHring _ _ _ _)

end Rings

/-! ### Commands of a ring (R104, R105, R282, R285) -/

section Commands
variable {ctx ring : Nat} {s : State} {c : HostCmd}

theorem exec_loadImage (h : s.dev.hostCmd ctx ring 2 = some c) : exec (.loadImage (.host ctx ring)) s =
    .next ((s.modDev (fun d => d.dropCmd c)).load c) := by
  have hexec : exec (.loadImage (.host ctx ring)) s = execLoadImage (.host ctx ring) s := rfl
  rw [hexec]
  simp only [execLoadImage, h]

theorem exec_unloadImage (h : s.dev.hostCmd ctx ring 3 = some c) : exec (.unloadImage (.host ctx ring)) s =
    .next ((s.modDev (fun d => d.dropCmd c)).unload c) := by
  have hexec : exec (.unloadImage (.host ctx ring)) s = execUnloadImage (.host ctx ring) s := rfl
  rw [hexec]
  simp only [execUnloadImage, h]

theorem exec_launchBundle (h : s.dev.hostCmd ctx ring 1 = some c) : exec (.launchBundle (.host ctx ring)) s =
    .next ((s.modDev (fun d => d.dropCmd c)).submit (s.dev.chapCore 0) ctx c.addr
      (leAt (s.dev.hring ctx ring).recd 0x0B 1) none (some c.cpl)).1 := by
  have hexec : exec (.launchBundle (.host ctx ring)) s = execLaunchBundle (.host ctx ring) s := rfl
  rw [hexec]
  simp only [execLaunchBundle, h]

theorem load_registers (hx : (s.dev.ctx c.ctx).alive = true) (hnew : (s.dev.ctx c.ctx).image c.addr = none) (hal : c.addr % 64 = 0)
    {hd : List Byte} {i : Image} (hhd : s.imagePart (s.dev.chapCore 0) c.ctx c.addr 0 128 = .ok hd)
    (hi : imageOf c.addr c.size hd (s.imagePart (s.dev.chapCore 0) c.ctx c.addr) = .ok i) :
    ((s.load c).dev.ctx c.ctx).images = (s.dev.ctx c.ctx).images ++ [i] := by
  unfold State.load
  simp only [hx, hnew, hal, hhd, hi, Bool.not_true, Bool.false_eq_true, Option.isSome_none, or_self, if_false, ne_eq, not_true]
  rw [(sameTables_completeAs _ _ _).ctx, modDev_dev, ctx_setCtx]

theorem unload_removes {i : Image} (hi : (s.dev.ctx c.ctx).image c.addr = some i) (huse : i.use = 0) :
    ((s.unload c).dev.ctx c.ctx).image c.addr = none := by
  unfold State.unload
  simp only [hi, huse, if_true]
  rw [(sameTables_completeAs _ _ _).ctx, modDev_dev, ctx_setCtx]
  exact image_of_filter _ _

theorem submit_accepts {core : CoreId} {addr src : Nat} {die : Option Nat} {cpl : Option CplTo} {b : Bundle}
    (h : s.acceptCheck core ctx addr src die cpl = .ok b) :
    (s.submit core ctx addr src die cpl).1.dev.bundles = s.dev.bundles ++ [b] ∧
      (s.submit core ctx addr src die cpl).1.dev.nextBundle = s.dev.nextBundle + 1 := by
  have hfill : SameTables s.dev
      (b.pw.foldl (fun (s : State) p => s.fillRun core ctx p.1 p.2) (s.fillRun core ctx addr 320)).dev :=
    (sameTables_fillRun s core ctx addr 320).trans (SameTables.foldl (fun s (p : Nat × Nat) => sameTables_fillRun s core ctx p.1 p.2) _ _)
  unfold State.submit
  simp only [h, modDev_dev]
  exact ⟨by rw [hfill.bundles], by rw [hfill.nextBundle]⟩

end Commands

/-! ### Bundles (R286, R287, R292, R294 to R296) -/

section Bundles
variable {s : State} {b : Bundle}

theorem exec_bundleActivate (hb : s.dev.bundle b.id = some b) (hst : b.st = .waiting) :
    exec (.bundleActivate b.id) s = .next (s.tryActivate b).bumpFree := by
  have hexec : exec (.bundleActivate b.id) s = execBundleActivate b.id s := rfl
  rw [hexec]
  simp only [execBundleActivate, hb, hst, if_true]

/-- A bundle that goes on waiting, with what its dependences hold now and since when they are met (R286). -/
def evaluated (s : State) (b : Bundle) (met : Option Nat) (x : Bundle) : Bundle := { x with seen := b.deps.map s.depNow, met := met }

theorem tryActivate_unmet (hfault : s.depFault b = none) (hdeps : b.deps.all s.depMet = false) : s.tryActivate b =
    s.modDev (fun d => d.modBundle b.id (evaluated s b none)) := by
  simp only [State.tryActivate, hfault, hdeps, Bool.not_false, if_true]
  rfl

theorem tryActivate_full (hfault : s.depFault b = none) (hdeps : b.deps.all s.depMet = true)
    (hfull : 16 ≤ s.dev.activeOn b.die b.cls + s.earlierMet b (b.met.getD s.uncore) ∨ s.startFree b = false) : s.tryActivate b =
    s.modDev (fun d => d.modBundle b.id (evaluated s b (some (b.met.getD s.uncore)))) := by
  simp only [State.tryActivate, hfault, hdeps, Bool.not_true, Bool.false_eq_true, if_false]
  exact if_pos (hfull.imp_right fun h => by rw [h]; rfl)

theorem tryActivate_room (hfault : s.depFault b = none) (hdeps : b.deps.all s.depMet = true)
    (hroom : s.dev.activeOn b.die b.cls + s.earlierMet b (b.met.getD s.uncore) < 16) (hfree : s.startFree b = true) :
    s.tryActivate b = s.activate b := by
  simp only [State.tryActivate, hfault, hdeps, hfree, hroom.not_ge, Bool.not_true, Bool.false_eq_true, or_self, if_false]

theorem tryActivate_faulted {code : BitVec 8} (h : s.depFault b = some code) : s.tryActivate b = s.endWaiting b code := by
  simp only [State.tryActivate, h]

theorem endWaiting_ends (s : State) (b : Bundle) (code : BitVec 8) : (s.endWaiting b code).dev.bundle b.id = none := by
  rw [State.endWaiting, (sameTables_complete _ _ _).bundle]
  exact bundle_of_filter _ _

/-- The bundle as activation leaves it, without a routine. -/
def activated (s : State) (b : Bundle) (n : Nat) : Bundle :=
  { b with st := if n = 0 then .draining else .active, total := n, wins := s.windowsOf b, since := s.uncore
           actSeq := s.dev.nextAct, routineLive := b.tr }

theorem activate_bundle {n : Nat} {i : Image} (hb : s.dev.bundle b.id = some b) (himg : (s.dev.ctx b.ctx).image b.img = some i)
    (hcores : s.dev.coresOf b.ctx b.cores ≠ []) (hn : s.taskCount b = .ok n) (hxl : b.xl = false) (htr : b.tr = false) :
    (s.activate b).dev.bundle b.id = some (activated s b n) := by
  have hcopies : ∀ cores, s.copyList b cores = .ok [] := fun cores => by simp [State.copyList, hxl]
  unfold State.activate
  simp only [himg, hn, hcopies, htr, List.isEmpty_iff, hcores, Option.isNone_some, Bool.false_eq_true, or_self, if_false,
    Bool.not_false, if_true, List.foldl_nil, modDev_dev]
  refine Eq.trans ?_ (bundle_modBundle (f := fun _ => activated s b n) hb rfl)
  rw [activated, htr]
  rfl

theorem releaseImage_bundles (s : State) (ctx addr : Nat) : (s.releaseImage ctx addr).dev.bundles = s.dev.bundles := by
  unfold State.releaseImage
  simp only
  split
  · rfl
  · split
    · exact (SameTables.foldl (fun s c => sameTables_completeAs s c 0) _ _).bundles
    · rfl

theorem exec_bundleDone (bundle : Nat) (s : State) : exec (.bundleDone bundle) s = execBundleDone bundle s := rfl

theorem bundleDone_ends (hb : s.dev.bundle b.id = some b) (hst : b.st = .draining) (hlive : b.live = 0) (hcopies : b.copies = [])
    (hroutine : b.routineLive = false) : ∃ t : State, exec (.bundleDone b.id) s = .next t ∧ t.dev.bundle b.id = none := by
  rw [exec_bundleDone]
  unfold execBundleDone
  simp only [hb]
  rw [if_neg (by simp [hst, hlive, hcopies, hroutine])]
  refine ⟨_, rfl, ?_⟩
  rw [(sameTables_complete _ _ _).bundle, Dev.bundle]
  have hsignal : ∀ (p : Prop) [Decidable p] (t : State) (src : CoreId) (sg : WaitSig),
      (if p then t.signalSealed src sg else t).dev.bundles = t.dev.bundles := fun p _ t src sg => by
    split
    · rw [signalSealed_dev]
    · rfl
  rw [hsignal, releaseImage_bundles]
  exact bundle_of_filter _ _

/-- The promotion of a record that is eligible for it (R296). -/
def promote (s : State) (b : Bundle) : Bundle :=
  if b.st = .active ∧ b.next < b.total ∧ 2 ≤ b.cls - b.promoted ∧ b.since + 4096 * (b.promoted + 1) ≤ s.uncore then
    { b with promoted := b.promoted + 1 }
  else b

theorem exec_recordPromotion (bundle : Nat) (s : State) : exec (.recordPromotion bundle) s =
    .next (s.modDev (fun d => d.modBundle bundle (promote s))) := rfl

theorem recordPromotion_promotes (hb : s.dev.bundle b.id = some b) (hp : b.st = .active ∧ b.next < b.total ∧
    2 ≤ b.cls - b.promoted ∧ b.since + 4096 * (b.promoted + 1) ≤ s.uncore) : ∃ t : State,
      exec (.recordPromotion b.id) s = .next t ∧ t.dev.bundle b.id = some { b with promoted := b.promoted + 1 } := by
  have hpromote : promote s b = { b with promoted := b.promoted + 1 } := if_pos hp
  rw [exec_recordPromotion]
  refine ⟨_, rfl, ?_⟩
  rw [modDev_dev, bundle_modBundle hb (by rw [hpromote]), hpromote]

end Bundles

/-! ### A walker's window (R295) -/

/-- The walker of a die in the EXPRESS window of the present time. -/
def windowOpened (die : Fin 2) (s : State) : State :=
  s.modDev (fun d => if d.walkers[die].win = s.uncore / 4096 then d
    else { d with walkers := d.walkers.set die { d.walkers[die] with win := s.uncore / 4096, express := 0 } })

theorem exec_expressWindow (die : Fin 2) (s : State) : exec (.expressWindow die.val) s = .next (windowOpened die s) := by
  have hexec : exec (.expressWindow die.val) s = .next (windowOpened ⟨die.val % 2, Nat.mod_lt _ (by decide)⟩ s) := rfl
  rw [hexec, show (⟨die.val % 2, Nat.mod_lt _ (by decide)⟩ : Fin 2) = die from Fin.ext (Nat.mod_eq_of_lt die.isLt)]

theorem expressWindow_opens {die : Fin 2} {s : State} (h : s.dev.walkers[die].win ≠ s.uncore / 4096) : ∃ t : State,
    exec (.expressWindow die.val) s = .next t ∧ t.dev.walkers[die].express = 0 ∧ t.dev.walkers[die].win = s.uncore / 4096 := by
  rw [exec_expressWindow]
  refine ⟨_, rfl, ?_⟩
  rw [windowOpened, modDev_dev, if_neg h]
  simp

/-! ### The obligation -/

/-- Settles O46: each clause is what the lemma named says of its event. -/
theorem launchEvents : Obligations.LaunchEvents := by
  unfold Obligations.LaunchEvents
  intro ctx ring s hctx hring r
  refine ⟨hostRingEnable_valid hctx hring, hostRingEnable_invalid hctx hring, hostRingDisable_disables, ?_, doorbellWrite_rings,
    ?_, fun p _ _ => ⟨?_, readEntry_overrun⟩, ?_, ?_, ?_, fun b n i hb hst => ⟨?_, ?_, ?_, ?_⟩, ?_, ?_, ?_⟩
  · intro _ hst
    rw [exec_doorbellWrite, if_neg (fun h => hst h.2)]
  · intro hquiet n
    refine ⟨_, rfl, ?_⟩
    rw [serveRings_quiet hquiet]
    exact ⟨rfl, rfl⟩
  · intro hfound
    rw [readEntry_ready hfound, consume_hring]
    exact ⟨rfl, rfl, rfl⟩
  · rintro c hcmd rfl hx hnew hal hd i hhd hi
    exact ⟨_, exec_loadImage hcmd, load_registers (s := s.modDev (fun d => d.dropCmd c)) hx hnew hal hhd hi⟩
  · rintro c i hcmd rfl hi huse
    exact ⟨_, exec_unloadImage hcmd, unload_removes hi huse⟩
  · intro c b hcmd haccept
    exact ⟨_, exec_launchBundle hcmd, submit_accepts haccept⟩
  · intro hfault hdeps
    refine ⟨_, evaluated s b none b, exec_bundleActivate hb hst, ?_, hst⟩
    rw [bumpFree_dev, tryActivate_unmet hfault hdeps]
    exact bundle_modBundle hb rfl
  · intro hfault hdeps hroom htr himg hcores hn hxl
    have hfree : s.startFree b = true := by simp [State.startFree, htr]
    refine ⟨_, activated s b n, exec_bundleActivate hb hst, ?_, rfl, rfl, rfl, rfl⟩
    rw [bumpFree_dev, tryActivate_room hfault hdeps hroom hfree]
    exact activate_bundle hb himg hcores hn hxl htr
  · intro hfault hdeps hfull
    refine ⟨_, evaluated s b (some (b.met.getD s.uncore)) b, exec_bundleActivate hb hst, ?_, hst, rfl⟩
    rw [bumpFree_dev, tryActivate_full hfault hdeps hfull]
    exact bundle_modBundle hb rfl
  · intro code hfault
    refine ⟨_, exec_bundleActivate hb hst, ?_⟩
    rw [bumpFree_dev, tryActivate_faulted hfault]
    exact endWaiting_ends s b code
  · exact fun b => bundleDone_ends
  · exact fun b hb hst hnext hcls hsince => recordPromotion_promotes hb ⟨hst, hnext, hcls, hsince⟩
  · exact fun die => expressWindow_opens

end Sys2Proof.Proofs
end

section
/-! What a write of tile registers does (O29 to O34): the containers of one register and of nothing else in its file change, a
register costs eight granules of the shadow pool, and all that is not tile storage stays (`TileWrite`). -/

namespace Sys2Proof.Proofs

open Sys2Proof Sys2Proof.Machine Sys2Proof.Laws

/-! ### Containers laid over a register -/

/-- The container of its register that a cell writes (R62). -/
def cellPlace (x : Cell) : Nat := 64 * x.row + x.col

/-- The containers of a register after cells have been written over it. -/
def overlaid (old : List W32) (cells : List Cell) : Array W32 :=
  cells.foldl (fun arr x => arr.setIfInBounds (cellPlace x) x.val) old.toArray

theorem overlaid_concat (old : List W32) (cells : List Cell) (x : Cell) :
    overlaid old (cells ++ [x]) = (overlaid old cells).setIfInBounds (cellPlace x) x.val := by
  simp only [overlaid, List.foldl_append, List.foldl_cons, List.foldl_nil]

@[simp] theorem overlaid_size (old : List W32) (cells : List Cell) : (overlaid old cells).size = old.length := by
  induction cells using List.reverseRecOn with
  | nil => rfl
  | append_singleton xs x ih => rw [overlaid_concat, Array.size_setIfInBounds, ih]

/-- Where no cell lies, the old container stays. -/
theorem overlaid_of_ne {old : List W32} {cells : List Cell} {n : Nat} (h : ∀ x ∈ cells, n ≠ cellPlace x) :
    (overlaid old cells).getD n 0 = old.getD n 0 := by
  induction cells using List.reverseRecOn with
  | nil => simp [overlaid]
  | append_singleton xs x ih =>
    have hx : cellPlace x ≠ n := fun e => h x (by simp) e.symm
    rw [overlaid_concat, ← ih fun y hy => h y (List.mem_append_left _ hy), Array.getD_eq_getD_getElem?,
      Array.getElem?_setIfInBounds_ne hx, Array.getD_eq_getD_getElem?]

/-- No two cells write one container, and each writes one of the register. -/
structure Places (cells : List Cell) : Prop where
  apart : cells.Pairwise (fun x y => cellPlace x ≠ cellPlace y)
  within : ∀ x ∈ cells, cellPlace x < 1024

/-- A cell's container takes its value. -/
theorem overlaid_of_mem {old : List W32} {cells : List Cell} (h : cells.Pairwise (fun x y => cellPlace x ≠ cellPlace y))
    {x : Cell} (hx : x ∈ cells) (hlt : cellPlace x < old.length) : (overlaid old cells).getD (cellPlace x) 0 = x.val := by
  induction cells using List.reverseRecOn with
  | nil => cases hx
  | append_singleton xs y ih =>
    obtain ⟨hxs, _, hxy⟩ := List.pairwise_append.1 h
    rw [overlaid_concat, Array.getD_eq_getD_getElem?]
    rcases List.mem_append.1 hx with hx | hx
    · rw [Array.getElem?_setIfInBounds_ne (Ne.symm (hxy x hx y (by simp))), ← Array.getD_eq_getD_getElem?, ih hxs hx]
    · obtain rfl := List.mem_singleton.1 hx
      simp [hlt]

/-! ### What is not tile storage -/

/-- The restorable state a with the tile storage of b: values, poison and latency shadow of all three files. -/
def withFiles (a b : Arch) : Arch :=
  { a with
    tiles := b.tiles
    wfile := b.wfile
    latches := b.latches
    tileP := b.tileP
    wfileP := b.wfileP
    latchP := b.latchP
    pend := b.pend }

/-- From c to d only tile storage has changed, and the shadow pool holds at most n copies more. -/
structure TileWrite (n : Nat) (c d : Core) : Prop where
  files : d.arch = withFiles c.arch d.arch
  rest : d = { c with arch := d.arch, shadows := d.shadows }
  room : d.shadUsed ≤ c.shadUsed + n

theorem TileWrite.refl (c : Core) : TileWrite 0 c c := ⟨rfl, rfl, Nat.le_refl _⟩

theorem TileWrite.trans {m n : Nat} {c d e : Core} (h : TileWrite m c d) (g : TileWrite n d e) : TileWrite (m + n) c e := by
  refine ⟨g.files.trans ?_, g.rest.trans ?_, ?_⟩
  · rw [h.files]
    rfl
  · rw [h.rest]
  · have := h.room
    have := g.room
    omega

theorem TileWrite.mono {m n : Nat} {c d : Core} (h : TileWrite m c d) (hle : m ≤ n) : TileWrite n c d :=
  ⟨h.files, h.rest, h.room.trans (Nat.add_le_add_left hle _)⟩

/-- A change of the restorable state keeps the relation when it is one of tile storage. -/
theorem TileWrite.modArch {n : Nat} {c d : Core} (h : TileWrite n c d) {f : Arch → Arch}
    (hf : f d.arch = withFiles d.arch (f d.arch)) : TileWrite n c (d.modArch f) :=
  h.trans (n := 0) ⟨hf, rfl, Nat.le_refl _⟩

theorem tileWrite_foldl {β : Type} {f : Core → β → Core} {n : Nat} (h : ∀ c x, TileWrite n c (f c x)) (l : List β) (c : Core) :
    TileWrite (l.length * n) c (l.foldl f c) := by
  induction l generalizing c with
  | nil => exact (TileWrite.refl c).mono (Nat.zero_le _)
  | cons x l ih => exact ((h c x).trans (ih _)).mono (by rw [List.length_cons, Nat.succ_mul, Nat.add_comm])

theorem shade_tileWrite (c : Core) (st : StoreId) (w : Writer) (gran : Nat) : TileWrite 1 c (c.shade st w gran) := by
  refine ⟨?_, ?_, shade_shadUsed c st w gran⟩ <;>
  · unfold Core.shade
    simp only
    split <;> rfl

theorem files_of_write (a : Arch) (lvl : Nat) (st : Store W32) (marks : Store Bool) (pend : List Pend) :
    { (a.setTileStore lvl st).setMarks lvl marks with pend := pend } =
      withFiles a { (a.setTileStore lvl st).setMarks lvl marks with pend := pend } := by
  unfold Arch.setMarks Arch.setTileStore
  split
  · rfl
  · split <;> rfl

theorem tileStore_of_write (a : Arch) (lvl : Nat) (st : Store W32) (marks : Store Bool) (pend : List Pend) :
    Arch.tileStore { (a.setTileStore lvl st).setMarks lvl marks with pend := pend } lvl = st := by
  unfold Arch.tileStore Arch.setMarks Arch.setTileStore
  by_cases h0 : lvl = 0
  · simp only [h0, if_true]
  · by_cases h1 : lvl = 1 <;> simp [h0, h1]

theorem tiles_of_write {lvl : Nat} (h : lvl ≠ 0) (a : Arch) (st : Store W32) (marks : Store Bool) :
    ((a.setTileStore lvl st).setMarks lvl marks).tiles = a.tiles := by
  unfold Arch.setMarks Arch.setTileStore
  rw [if_neg h, if_neg h]
  split <;> rfl

/-! ### Writing a register (R29, R64, R65, R347) -/

/-- The core once the eight granules of a register are noted; latches have no copies. -/
def regShaded (c : Core) (lvl reg : Nat) : Core :=
  if lvl = 2 then c else
    (List.range 8).foldl (fun c g => c.shade (if lvl = 0 then .tile else .wfile) .own (reg * 16 + g)) c

theorem regShaded_tileWrite (c : Core) (lvl reg : Nat) : TileWrite (if lvl = 2 then 0 else 8) c (regShaded c lvl reg) := by
  unfold regShaded
  split
  · exact TileWrite.refl c
  · exact tileWrite_foldl (fun c g => shade_tileWrite c _ _ _) (List.range 8) c

theorem regShaded_arch (c : Core) (lvl reg : Nat) : (regShaded c lvl reg).arch = c.arch := by
  unfold regShaded
  split
  · rfl
  · refine List.foldlRecOn (motive := fun e : Core => e.arch = c.arch) _ _ rfl fun e he _ _ => ?_
    exact (shade_arch e _ _ _).trans he

section
variable (c : Core) (lvl reg ready now : Nat) (th : Thread) (cells : List Cell)

/-- A write of a register is one change of its file, after its granules have been noted. -/
theorem writeReg_eq : ∃ (marks : Store Bool) (pend : Arch → List Pend),
    c.writeReg lvl reg ready now th cells = (regShaded c lvl reg).modArch (fun a =>
      { ((a.setTileStore lvl (Store.put 0 (a.tileStore lvl) (reg * 1024) (overlaid (c.arch.regNow lvl reg) cells).toList)).setMarks
        lvl marks) with pend := pend a }) := by
  unfold Core.writeReg regShaded
  exact ⟨_, _, rfl⟩

theorem writeReg_tileWrite : TileWrite (if lvl = 2 then 0 else 8) c (c.writeReg lvl reg ready now th cells) := by
  obtain ⟨marks, pend, he⟩ := writeReg_eq c lvl reg ready now th cells
  rw [he]
  refine (regShaded_tileWrite c lvl reg).modArch ?_
  exact files_of_write _ _ _ _ _

theorem writeReg_tileStore : (c.writeReg lvl reg ready now th cells).arch.tileStore lvl =
    Store.put 0 (c.arch.tileStore lvl) (reg * 1024) (overlaid (c.arch.regNow lvl reg) cells).toList := by
  obtain ⟨marks, pend, he⟩ := writeReg_eq c lvl reg ready now th cells
  rw [he, coreModArch_arch, regShaded_arch]
  exact tileStore_of_write _ _ _ _ _

/-- A write of the operand file or a latch leaves the main file. -/
theorem writeReg_tiles_of_ne (h : lvl ≠ 0) : (c.writeReg lvl reg ready now th cells).arch.tiles = c.arch.tiles := by
  obtain ⟨marks, pend, he⟩ := writeReg_eq c lvl reg ready now th cells
  rw [he, coreModArch_arch, regShaded_arch, tiles_of_write h]

theorem regNow_length (a : Arch) : (a.regNow lvl reg).length = 1024 := run_length _ _ _ _

/-- A container of the file after a write: of the register what the cells leave, elsewhere what was there. -/
theorem get_writeReg (k : Nat) : Store.get 0 ((c.writeReg lvl reg ready now th cells).arch.tileStore lvl) k =
    if reg * 1024 ≤ k ∧ k < reg * 1024 + 1024 then (overlaid (c.arch.regNow lvl reg) cells).getD (k - reg * 1024) 0
    else Store.get 0 (c.arch.tileStore lvl) k := by
  rw [writeReg_tileStore, get_put, Array.length_toList, overlaid_size, regNow_length]
  split
  · simp [List.getD_eq_getElem?_getD, Array.getD_eq_getD_getElem?]
  · rfl

end

/-- Outside the register a write changes no container. -/
theorem get_writeReg_outside {c : Core} {lvl reg ready now : Nat} {th : Thread} {cells : List Cell} {k : Nat}
    (h : k / 1024 ≠ reg) : Store.get 0 ((c.writeReg lvl reg ready now th cells).arch.tileStore lvl) k =
      Store.get 0 (c.arch.tileStore lvl) k := by
  rw [get_writeReg, if_neg (by omega)]

/-- A cell's container reads as its value. -/
theorem get_writeReg_cell {c : Core} {lvl reg ready now : Nat} {th : Thread} {cells : List Cell} (hp : Places cells)
    {x : Cell} (hx : x ∈ cells) :
    Store.get 0 ((c.writeReg lvl reg ready now th cells).arch.tileStore lvl) (reg * 1024 + cellPlace x) = x.val := by
  have hlt := hp.within x hx
  rw [get_writeReg, if_pos ⟨by omega, by omega⟩, Nat.add_sub_cancel_left,
    overlaid_of_mem hp.apart hx (by rw [regNow_length]; exact hlt)]

/-- A container of the register that no cell names takes what the run of the register reads there. -/
theorem get_writeReg_of_ne {c : Core} {lvl reg ready now : Nat} {th : Thread} {cells : List Cell} {n : Nat} (hn : n < 1024)
    (h : ∀ x ∈ cells, n ≠ cellPlace x) :
    Store.get 0 ((c.writeReg lvl reg ready now th cells).arch.tileStore lvl) (reg * 1024 + n) = (c.arch.regNow lvl reg).getD n 0 := by
  rw [get_writeReg, if_pos ⟨by omega, by omega⟩, Nat.add_sub_cancel_left, overlaid_of_ne h]

end Sys2Proof.Proofs
end

section
/-! How a vector word runs (R69, R79, R129, R130, R133): with its banks on, its queue entries there and room in the Pan it
retires with its effect; all that is not tile storage stays (`KeepsData`). -/

namespace Sys2Proof.Proofs

open Sys2Proof Sys2Proof.Machine Sys2Proof.Laws

/-! ### Bank power (R69, R71) -/

theorem bankUse_on {s : State} {b : Nat} (h : bitsOf s.arch.bankPwr.toNat (2 * b + 1) (2 * b) = 1)
    (hw : Store.get 0 s.arch.bankWake b ≤ s.cycle) : s.bankUse b = .ok := by
  simp [State.bankUse, h, hw]

/-- Behind banks that are on a word's effect comes about, and its banks are named. -/
theorem withBanks_on {s : State} {regs : List Nat} (h : s.banksOn regs) (r : Res) :
    withBanks s regs r = s.bankNamed (banksOf regs) r := by
  have hok : ∀ b ∈ banksOf regs, s.bankUse b = .ok := fun b hb => bankUse_on (h b hb).1 (h b hb).2
  have hmap : (banksOf regs).map s.bankUse = (banksOf regs).map (fun _ => BankRes.ok) := List.map_congr_left hok
  simp [withBanks, hmap]

/-! ### All but the tile files -/

/-- From s to u the machine outside the current core is the same, and in it the engine's general registers, scratchpad and
accumulators. -/
structure KeepsData (s u : State) : Prop where
  cur : u.cur = s.cur
  dev : u.dev = s.dev
  others : ∀ k, k ≠ s.cur.core → u.core k = s.core k
  regs : u.eng.g = s.eng.g
  scr : u.arch.scr = s.arch.scr
  acc : u.arch.acc = s.arch.acc

theorem KeepsData.refl (s : State) : KeepsData s s := ⟨rfl, rfl, fun _ _ => rfl, rfl, rfl, rfl⟩

theorem KeepsData.trans {s t u : State} (h : KeepsData s t) (g : KeepsData t u) : KeepsData s u :=
  ⟨g.cur.trans h.cur, g.dev.trans h.dev, fun k hk => (g.others k (by rw [h.cur]; exact hk)).trans (h.others k hk),
    g.regs.trans h.regs, g.scr.trans h.scr, g.acc.trans h.acc⟩

theorem KeepsData.memory {s u : State} (h : KeepsData s u) : s.sameMemory u := by
  refine ⟨fun a => by rw [h.dev], fun a => by rw [h.dev], fun o => by rw [h.dev], fun k a => ?_⟩
  by_cases hk : k = s.cur.core
  · have hscr : (u.core u.cur.core).arch.scr = (s.core s.cur.core).arch.scr := h.scr
    rw [h.cur] at hscr
    rw [hk, hscr]
  · rw [h.others k hk]

theorem keepsData_modArch (s : State) {f : Arch → Arch} (hg : ((f s.arch).eng s.cur.th).g = s.eng.g)
    (hscr : (f s.arch).scr = s.arch.scr) (hacc : (f s.arch).acc = s.arch.acc) : KeepsData s (s.modArch f) := by
  refine ⟨rfl, rfl, fun k hk => core_modArch_ne s f k hk, ?_, ?_, ?_⟩
  · rw [State.eng, arch_modArch]
    exact hg
  · rw [arch_modArch, hscr]
  · rw [arch_modArch, hacc]

theorem keepsData_modEng (s : State) {f : Eng → Eng} (hg : (f s.eng).g = s.eng.g) : KeepsData s (s.modEng f) := by
  refine keepsData_modArch s ?_ (archModEng_scr _ _ _) (archModEng_acc _ _ _)
  rw [eng_modEng_self]
  exact hg

/-- A write of tile registers on the current core. -/
theorem keepsData_setCore {s : State} {n : Nat} {c : Core} (h : TileWrite n s.here c) : KeepsData s (s.setCore s.cur.core c) := by
  have harch : (s.setCore s.cur.core c).arch = c.arch := congrArg Core.arch (core_setCore_self s c s.cur.core)
  have heng : c.arch.eng s.cur.th = s.here.arch.eng s.cur.th := by
    rw [h.files]
    cases s.cur.th <;> rfl
  refine ⟨rfl, rfl, fun k hk => core_setCore_ne s c _ k hk, ?_, ?_, ?_⟩
  · rw [State.eng, harch]
    exact congrArg Eng.g heng
  · rw [harch, h.files]
    rfl
  · rw [harch, h.files]
    rfl

/-- A word that puts nothing into the hold queue and after which the shadow pool is not over its size has room in the Pan. -/
theorem panRoom_of_used {s t : State} (hhold : t.here.holdUsed = s.here.holdUsed) (hle : t.here.shadUsed ≤ 2048) : panRoom s t := by
  have hfull : ¬2048 < t.here.shadUsed := by omega
  simp [panRoom, Core.panLacks, hhold, hfull]

theorem TileWrite.holdUsed {n : Nat} {c d : Core} (h : TileWrite n c d) : d.holdUsed = c.holdUsed := by
  rw [Core.holdUsed, h.rest]
  rfl

/-! ### Writing a destination (R29, R64, R65) -/

theorem writeLatch_tileWrite (c : Core) (u : VUnit) (ready now : Nat) (th : Thread) (handler : Bool) (cells : List Cell) :
    TileWrite 0 c (c.writeLatch u ready now th handler cells) := by
  unfold Core.writeLatch
  split
  · exact TileWrite.refl c
  · split
    · exact TileWrite.refl c
    · exact writeReg_tileWrite _ 2 _ _ _ _ _

/-- A latch is a file of its own. -/
theorem writeLatch_files (c : Core) (u : VUnit) (ready now : Nat) (th : Thread) (handler : Bool) (cells : List Cell) :
    (c.writeLatch u ready now th handler cells).arch.tiles = c.arch.tiles ∧
      (c.writeLatch u ready now th handler cells).arch.wfile = c.arch.wfile := by
  unfold Core.writeLatch
  split
  · exact ⟨rfl, rfl⟩
  · split
    · exact ⟨rfl, rfl⟩
    · exact ⟨rfl, rfl⟩

section
variable (s : State) (d : BitVec 20) (u : VUnit) (lat : Nat) (cells : List Cell)

/-- The core once the named level and the operand-file copy have been written. -/
def destWritten : Core :=
  if tLvl d = 0 then
    let c := s.here.writeReg 0 (s.regOf d) (s.cycle + lat + 2) s.cycle s.cur.th cells
    if tView d = 0 ∧ 16 ≤ tIdx d then c.writeReg 1 (tIdx d % 16) (s.cycle + lat + 1) s.cycle s.cur.th cells else c
  else s.here.writeReg 1 (s.regOf d) (s.cycle + lat + 1) s.cycle s.cur.th cells

theorem writeDest_eq : s.writeDest d u lat cells = s.setCore s.cur.core
    ((destWritten s d lat cells).writeLatch u (s.cycle + lat) s.cycle s.cur.th s.eng.noLatch cells) := rfl

theorem destWritten_tileWrite : TileWrite 16 s.here (destWritten s d lat cells) := by
  unfold destWritten
  split
  · have hmain := writeReg_tileWrite s.here 0 (s.regOf d) (s.cycle + lat + 2) s.cycle s.cur.th cells
    simp only
    split
    · exact hmain.trans (writeReg_tileWrite _ 1 _ _ _ _ _)
    · exact hmain.mono (by decide)
  · exact (writeReg_tileWrite _ 1 _ _ _ _ _).mono (by decide)

theorem writeDest_here : (s.writeDest d u lat cells).here =
    (destWritten s d lat cells).writeLatch u (s.cycle + lat) s.cycle s.cur.th s.eng.noLatch cells :=
  core_setCore_self s _ s.cur.core

theorem writeDest_tileWrite : TileWrite 16 s.here (s.writeDest d u lat cells).here := by
  rw [writeDest_here]
  exact (destWritten_tileWrite s d lat cells).trans (writeLatch_tileWrite _ _ _ _ _ _ _)

theorem keepsData_writeDest : KeepsData s (s.writeDest d u lat cells) :=
  keepsData_setCore (n := 16) ((destWritten_tileWrite s d lat cells).trans (writeLatch_tileWrite _ _ _ _ _ _ _))

/-- The main file after a word whose destination is a main register. -/
theorem writeDest_tiles_main {d : BitVec 20} (h : tLvl d = 0) : (s.writeDest d u lat cells).arch.tiles =
    (s.here.writeReg 0 (s.regOf d) (s.cycle + lat + 2) s.cycle s.cur.th cells).arch.tiles := by
  rw [State.arch, writeDest_here, (writeLatch_files _ _ _ _ _ _ _).1, destWritten, if_pos h]
  simp only
  split
  · exact writeReg_tiles_of_ne _ _ _ _ _ _ _ (by decide)
  · rfl

/-- A word whose destination lies in the operand file leaves the main file. -/
theorem writeDest_tiles_operand {d : BitVec 20} (h : tLvl d ≠ 0) : (s.writeDest d u lat cells).arch.tiles = s.arch.tiles := by
  rw [State.arch, writeDest_here, (writeLatch_files _ _ _ _ _ _ _).1, destWritten, if_neg h]
  exact writeReg_tiles_of_ne _ _ _ _ _ _ _ (by decide)

theorem writeDest_wfile {d : BitVec 20} (h : tLvl d = 1) : (s.writeDest d u lat cells).arch.wfile =
    (s.here.writeReg 1 (s.regOf d) (s.cycle + lat + 1) s.cycle s.cur.th cells).arch.wfile := by
  rw [State.arch, writeDest_here, (writeLatch_files _ _ _ _ _ _ _).2, destWritten, if_neg (by omega)]

end

/-! ### The issue of a vector word -/

/-- The state in which a word's effect w is complete: its engine is busy, SRCNT counts and its banks are named. -/
def vIssued (s : State) (v : VForm) (w : State) : State :=
  s.nameBanks (banksOf (s.mainRegs v.named ++ v.regs)) (w.vIssue v).bumpFree

theorem modArch_id (s : State) : s.modArch (fun a => a) = s := by
  have h : s.cores.set s.cur.core s.cores[s.cur.core] = s.cores := Vector.set_getElem_self _
  exact congrArg (fun cs => { s with cores := cs }) h

theorem modArch_modArch (s : State) (f g : Arch → Arch) : (s.modArch f).modArch g = s.modArch (fun a => g (f a)) :=
  modHere_modHere s _ _

theorem modEng_tiles (s : State) (f : Eng → Eng) : (s.modEng f).arch.tiles = s.arch.tiles := by
  rw [State.modEng, arch_modArch, archModEng_tiles]

/-- An engine is one of five fields of the restorable state. -/
theorem eng_of_files {a b : Arch} (hc : b.engC = a.engC) (ha : b.engA = a.engA) (hv : b.engV = a.engV) (hm : b.engM = a.engM)
    (hch : b.chap = a.chap) (t : Thread) : b.eng t = a.eng t := by
  cases t
  · exact hc
  · exact ha
  · exact hv
  · exact hm
  · exact hch

section
variable (s w : State) (v : VForm) (bs : List Nat)

/-- Naming banks is a change of the engines' lists of named banks alone. -/
theorem nameBanks_eq : ∃ named : Arch → List (Thread × Nat × Nat), s.nameBanks bs w = w.modArch (fun a => { a with named := named a }) := by
  unfold State.nameBanks
  split
  · exact ⟨fun a => a.named, (modArch_id w).symm⟩
  · exact ⟨_, rfl⟩

theorem vIssue_eq : w.vIssue v =
    (w.modEng (fun e => { e with busy := w.cycle + (if fourGroups v.named then v.occ4 else v.occ1) })).modArch
      (fun a => { a with srcnt := a.srcnt + if v.rs then 1 else 0 }) := by
  unfold State.vIssue
  cases v.rs
  · simp only [Bool.false_eq_true, if_false, add_zero]
    exact (modArch_id _).symm
  · rfl

theorem vIssued_eq : ∃ named : Arch → List (Thread × Nat × Nat), vIssued s v w =
    (w.vIssue v).bumpFree.modArch (fun a => { a with named := named a }) := nameBanks_eq s _ _

theorem vIssue_arch : (w.vIssue v).arch.tiles = w.arch.tiles ∧ (w.vIssue v).arch.wfile = w.arch.wfile ∧
    (w.vIssue v).arch.oq = w.arch.oq ∧ (w.vIssue v).arch.srcnt = w.arch.srcnt + if v.rs then 1 else 0 := by
  rw [vIssue_eq, arch_modArch, State.modEng, arch_modArch]
  simp only [archModEng_tiles, archModEng_wfile, archModEng_oq, archModEng_srcnt, and_self]

/-- Issue moves no tile data: SRCNT counts (R54), and the queues are as the effect has left them. -/
theorem vIssued_arch : (vIssued s v w).arch.tiles = w.arch.tiles ∧ (vIssued s v w).arch.wfile = w.arch.wfile ∧
    (vIssued s v w).arch.oq = w.arch.oq ∧ (vIssued s v w).arch.srcnt = w.arch.srcnt + if v.rs then 1 else 0 := by
  obtain ⟨named, hn⟩ := vIssued_eq s w v
  rw [hn, arch_modArch]
  exact vIssue_arch w v

theorem keepsData_bumpFree : KeepsData s s.bumpFree := ⟨rfl, rfl, fun _ _ => rfl, rfl, rfl, rfl⟩

theorem keepsData_srcnt (n : Arch → W64) : KeepsData s (s.modArch (fun a => { a with srcnt := n a })) :=
  keepsData_modArch s (congrArg Eng.g (eng_of_files rfl rfl rfl rfl rfl _)) rfl rfl

theorem keepsData_named (n : Arch → List (Thread × Nat × Nat)) : KeepsData s (s.modArch (fun a => { a with named := n a })) :=
  keepsData_modArch s (congrArg Eng.g (eng_of_files rfl rfl rfl rfl rfl _)) rfl rfl

theorem keepsData_vIssued : KeepsData w (vIssued s v w) := by
  obtain ⟨named, hn⟩ := vIssued_eq s w v
  rw [hn, vIssue_eq]
  exact (((keepsData_modEng w rfl).trans (keepsData_srcnt _ _)).trans (keepsData_bumpFree _)).trans (keepsData_named _ _)

end

/-- A word whose form is ready retires with its effect when the Pan has room for it. -/
theorem vrun_done {i : Instr} {h : Hdr} {s t : State} {v : VForm} {eff : State → State → State} (hr : runs i h s)
    (hv : s.vectorReady v t) (hroom : panRoom s (eff s t)) :
    vrun i h s v eff = .next (s.wordDone (vIssued s v (eff s t))) := by
  obtain ⟨hlatch, hbanks, hpop, _⟩ := hv
  refine runWord_done hr ?_ ?_
  · simp only [hlatch, Bool.false_eq_true, if_false, withBanks_on hbanks, hpop]
    rfl
  · obtain ⟨named, hn⟩ := vIssued_eq s (eff s t) v
    rw [hn, vIssue_eq]
    exact panRoom_modArch (panRoom_modArch (panRoom_modEng hroom _) _) _

/-! ### Queue sources (R130) -/

/-- The sources pop one after the other; a queue that is too short stalls the word. -/
theorem popSources_cons (s : State) (o : BitVec 20) (os : List (BitVec 20)) (sh : Nat) : s.popSources (o :: os) sh =
    if isQueue o then
      if (s.queue (tPayload o)).length < popRows sh then none
      else (s.popQueue (tPayload o) (popRows sh)).popSources os sh
    else s.popSources os sh := by
  have hnone : ∀ l : List (BitVec 20), l.foldl (fun (t : Option State) o => t.bind (fun t =>
      if isQueue o then
        if (t.queue (tPayload o)).length < popRows sh then none else some (t.popQueue (tPayload o) (popRows sh))
      else some t)) none = none := fun l => by
    induction l with
    | nil => rfl
    | cons o l ih => exact ih
  unfold State.popSources
  rw [List.foldl_cons, Option.bind_some]
  by_cases hq : isQueue o = true
  · by_cases hl : (s.queue (tPayload o)).length < popRows sh
    · simpa only [hq, hl, if_true] using hnone os
    · simp only [hq, hl, if_true, if_false]
  · simp only [hq, Bool.false_eq_true, if_false]

/-- Whichever sources pop, the operand queues alone change. -/
theorem popSources_eq {s t : State} {os : List (BitVec 20)} {sh : Nat} (h : s.popSources os sh = some t) :
    ∃ q : Arch → Vector (List OqEnt) 8, t = s.modArch (fun a => { a with oq := q a }) := by
  induction os generalizing s with
  | nil => exact ⟨fun a => a.oq, by rw [← Option.some.inj h]; exact (modArch_id s).symm⟩
  | cons o os ih =>
    rw [popSources_cons] at h
    split at h
    · split at h
      · cases h
      · obtain ⟨q, rfl⟩ := ih h
        exact ⟨fun a => q (popEntries (tPayload o) (popRows sh) a), modArch_modArch s (popEntries _ _) _⟩
    · exact ih h

/-- What a word's destination depends on does not change when sources pop. -/
theorem popped_same {s t : State} {os : List (BitVec 20)} {sh : Nat} (h : s.popSources os sh = some t) :
    KeepsData s t ∧ (∀ d, t.regOf d = s.regOf d) ∧ t.arch.tiles = s.arch.tiles ∧ t.arch.srcnt = s.arch.srcnt ∧
      t.here.shadUsed = s.here.shadUsed ∧ t.here.hold = s.here.hold := by
  obtain ⟨q, rfl⟩ := popSources_eq h
  have heng : ({ s.here.arch with oq := q s.here.arch } : Arch).eng s.cur.th = s.eng := eng_of_files rfl rfl rfl rfl rfl _
  refine ⟨keepsData_modArch s (congrArg Eng.g heng) rfl rfl, fun d => ?_, ?_, ?_, ?_, ?_⟩
  · rw [State.regOf, State.rotate, State.eng, arch_modArch, here_modArch]
    exact congrArg (fun e => if tLvl d = 0 then s.here.rotate e (tReg d) else tReg d) heng
  · rw [arch_modArch]
  · rw [arch_modArch]
  · rw [here_modArch]
    rfl
  · rw [here_modArch]
    rfl

end Sys2Proof.Proofs
end

section
/-! What a vector word writes (O29 to O31, O33, O34): in a main file of the canonical form the containers of the destination's
cells and no others, whatever the word (`vrun_wrote`). -/

namespace Sys2Proof.Proofs

open Sys2Proof Sys2Proof.Machine Sys2Proof.Laws

/-! ### The places of a view (R62) -/

/-- The containers of a view, in view order, by their place in the register. -/
def viewPlaces (d : BitVec 20) : List Nat := (viewPos d).map (fun p => 64 * p.1 + p.2)

theorem tIdx_lt (d : BitVec 20) : tIdx d < 64 := (d.extractLsb' 0 6).isLt

theorem range_map_places {n : Nat} {g : Nat → Nat} (hinj : ∀ i < n, ∀ j < n, g i = g j → i = j) (hlt : ∀ k < n, g k < 1024) :
    ((List.range n).map g).Nodup ∧ ∀ m ∈ (List.range n).map g, m < 1024 := by
  refine ⟨List.nodup_range.map_on fun i hi j hj => hinj i (List.mem_range.1 hi) j (List.mem_range.1 hj), fun m hm => ?_⟩
  obtain ⟨k, hk, rfl⟩ := List.mem_map.1 hm
  exact hlt k (List.mem_range.1 hk)

/-- A view names no container twice, and only containers of its register. -/
theorem viewPlaces_spec (d : BitVec 20) : (viewPlaces d).Nodup ∧ ∀ n ∈ viewPlaces d, n < 1024 := by
  have hidx := tIdx_lt d
  unfold viewPlaces viewPos
  split <;> rw [List.map_map] <;> refine range_map_places (fun i _ j _ h => ?_) (fun k _ => ?_) <;>
    simp only [Function.comp_apply] at * <;> omega

theorem places_of_nodup {cells : List Cell} (h : (cells.map cellPlace).Nodup) (hlt : ∀ n ∈ cells.map cellPlace, n < 1024) :
    Places cells :=
  ⟨List.pairwise_map.1 h, fun _ hx => hlt _ (List.mem_map_of_mem hx)⟩

theorem destCells_map_place (d : BitVec 20) (f : Nat → Nat → Nat → W32 × Bool) :
    (destCells d f).map cellPlace = viewPlaces d := by
  rw [destCells, List.map_map, viewPlaces]
  conv_rhs => rw [← List.zipIdx_map_fst 0 (viewPos d), List.map_map]
  rfl

theorem destCells_places (d : BitVec 20) (f : Nat → Nat → Nat → W32 × Bool) : Places (destCells d f) := by
  obtain ⟨hnodup, hlt⟩ := viewPlaces_spec d
  exact places_of_nodup (by rwa [destCells_map_place]) (by rwa [destCells_map_place])

/-! ### The destination after the word -/

/-- In a file of the canonical form a container that no cell names stays. -/
theorem get_writeReg_kept {c : Core} {reg ready now : Nat} {th : Thread} {cells : List Cell}
    (hcanon : Store.wf 0 c.arch.tiles = true) {k : Nat} (h : ∀ x ∈ cells, k ≠ reg * 1024 + cellPlace x) :
    Store.get 0 (c.writeReg 0 reg ready now th cells).arch.tiles k = Store.get 0 c.arch.tiles k := by
  by_cases hk : k / 1024 = reg
  · obtain ⟨n, hn, rfl⟩ : ∃ n, n < 1024 ∧ k = reg * 1024 + n := ⟨k - reg * 1024, by omega, by omega⟩
    have hread := get_writeReg_of_ne (c := c) (lvl := 0) (reg := reg) (ready := ready) (now := now) (th := th) hn
      fun _ hx he => h _ hx (congrArg _ he)
    refine hread.trans ?_
    have hrun : c.arch.regNow 0 reg = _ := run_get 0 c.arch.tiles (reg * 1024) 1024 hcanon
    rw [hrun, List.getD_eq_getElem?_getD, List.getElem?_map, List.getElem?_range hn]
    rfl
  · exact get_writeReg_outside (lvl := 0) hk

/-- A destination written in t, which the sources' pops have left of s, when the rest of the word moves no data. -/
theorem wrote_of_writeDest {s t w : State} {os : List (BitVec 20)} {sh lat : Nat} {d : BitVec 20} {u : VUnit}
    {cells : List Cell} (hcanon : Store.wf 0 s.arch.tiles = true) (hpop : s.popSources os sh = some t) (hd : tLvl d ≤ 1)
    (hp : Places cells) (hkeep : KeepsData (t.writeDest d u lat cells) w)
    (htiles : w.arch.tiles = (t.writeDest d u lat cells).arch.tiles)
    (hwfile : w.arch.wfile = (t.writeDest d u lat cells).arch.wfile) : s.wrote w d cells := by
  obtain ⟨hsame, hreg, hpopped, _⟩ := popped_same hpop
  obtain hkept := (hsame.trans (keepsData_writeDest t d u lat cells)).trans hkeep
  refine ⟨fun x hx => ?_, fun k hk => ?_, hkept.regs, hkept.scr, hkept.acc, hkept.memory⟩
  · rw [Nat.add_assoc, ← hreg]
    rcases Nat.le_one_iff_eq_zero_or_eq_one.1 hd with h0 | h1
    · rw [h0, show w.arch.tileStore 0 = w.arch.tiles from rfl, htiles, writeDest_tiles_main t u lat cells h0]
      exact get_writeReg_cell (lvl := 0) hp hx
    · rw [h1, show w.arch.tileStore 1 = w.arch.wfile from rfl, hwfile, writeDest_wfile t u lat cells h1]
      exact get_writeReg_cell (lvl := 1) hp hx
  · rw [htiles]
    by_cases h0 : tLvl d = 0
    · rw [writeDest_tiles_main t u lat cells h0, ← hpopped]
      refine get_writeReg_kept (by rwa [← hpopped] at hcanon) fun x hx => ?_
      have := hk h0 x hx
      rwa [Nat.add_assoc, ← hreg] at this
    · rw [writeDest_tiles_operand t u lat cells h0, hpopped]

/-- What holds of every V word whose effect is one destination: over a canonical main file it writes the destination's cells
alone, its queue sources have popped and SRCNT counts (R54, R129, R130). -/
theorem vrun_wrote {i : Instr} {h : Hdr} {s t : State} {v : VForm} {eff : State → State → State} {d : BitVec 20} {u : VUnit}
    {lat : Nat} {cells : List Cell} (hcanon : Store.wf 0 s.arch.tiles = true) (hr : runs i h s) (hv : s.vectorReady v t)
    (hd : tLvl d ≤ 1) (hp : Places cells) (heff : eff s t = t.writeDest d u lat cells) :
    ∃ w : State, vrun i h s v eff = .next (s.wordDone w) ∧ w.arch.oq = t.arch.oq ∧
      w.arch.srcnt = s.arch.srcnt + (if v.rs then 1 else 0) ∧ s.wrote w d cells := by
  obtain ⟨_, _, hpop, hshad⟩ := id hv
  obtain ⟨_, _, _, hsrcnt, hused, hhold⟩ := popped_same hpop
  have hwrite := writeDest_tileWrite t d u lat cells
  have hroom : panRoom s (eff s t) := by
    rw [heff]
    refine panRoom_of_used ?_ ((hwrite.room.trans (Nat.add_le_add_right hused.le _)).trans hshad)
    rw [hwrite.holdUsed, Core.holdUsed, hhold, Core.holdUsed]
  obtain ⟨htiles, hwfile, hoq, hcnt⟩ := vIssued_arch s (eff s t) v
  rw [heff] at htiles hwfile hoq hcnt
  have hfiles : (t.writeDest d u lat cells).arch = withFiles t.arch (t.writeDest d u lat cells).arch := hwrite.files
  refine ⟨_, vrun_done hr hv hroom, ?_, ?_, ?_⟩ <;> rw [heff]
  · rw [hoq, hfiles]
    rfl
  · rw [hcnt, hfiles, ← hsrcnt]
    rfl
  · exact wrote_of_writeDest hcanon hpop hd hp (keepsData_vIssued _ _ _) htiles hwfile

end Sys2Proof.Proofs
end

section
/-! VTRN, ZIPn and UNZIPn (O32): n whole registers are written one after the other with containers read before the first of
them; their ranges may overlap. -/

namespace Sys2Proof.Proofs

open Sys2Proof Sys2Proof.Machine Sys2Proof.Laws

/-! ### Whole registers -/

/-- The cells of a whole register, by place. -/
def wholeCells (val : Nat → W32) (mark : Nat → Bool) : List Cell :=
  (List.range 1024).map (fun c => ⟨c / 64, c % 64, val c, mark c⟩)

theorem wholeCells_places (val : Nat → W32) (mark : Nat → Bool) : Places (wholeCells val mark) := by
  have hmap : (wholeCells val mark).map cellPlace = List.range 1024 := by
    rw [wholeCells, List.map_map]
    exact (List.map_congr_left fun c _ => Nat.div_add_mod c 64).trans (List.map_id _)
  exact places_of_nodup (by rw [hmap]; exact List.nodup_range) (by rw [hmap]; exact fun n => List.mem_range.1)

/-- A whole register takes its values; every other register stays. -/
theorem get_writeReg_whole (c : Core) (reg ready now : Nat) (th : Thread) (val : Nat → W32) (mark : Nat → Bool) (k : Nat) :
    Store.get 0 (c.writeReg 0 reg ready now th (wholeCells val mark)).arch.tiles k =
      if k / 1024 = reg then val (k % 1024) else Store.get 0 c.arch.tiles k := by
  split
  · next hk =>
    have hmem : (⟨k % 1024 / 64, k % 1024 % 64, val (k % 1024), mark (k % 1024)⟩ : Cell) ∈ wholeCells val mark :=
      List.mem_map.2 ⟨k % 1024, List.mem_range.2 (Nat.mod_lt _ (by decide)), rfl⟩
    have hget := get_writeReg_cell (c := c) (lvl := 0) (reg := reg) (ready := ready) (now := now) (th := th)
      (wholeCells_places val mark) hmem
    rwa [show reg * 1024 + cellPlace _ = k by simp only [cellPlace]; omega] at hget
  · next hk => exact get_writeReg_outside (lvl := 0) hk

/-- The core once m consecutive whole registers from d on have been written. -/
def wholeWrites (c : Core) (d ready now : Nat) (th : Thread) (val : Nat → Nat → W32) (mark : Nat → Nat → Bool) (m : Nat) : Core :=
  (List.range m).foldl (fun k q => k.writeReg 0 (d + q) ready now th (wholeCells (val q) (mark q))) c

theorem get_wholeWrites (c : Core) (d ready now : Nat) (th : Thread) (val : Nat → Nat → W32) (mark : Nat → Nat → Bool) (m k : Nat) :
    Store.get 0 (wholeWrites c d ready now th val mark m).arch.tiles k =
      if d ≤ k / 1024 ∧ k / 1024 < d + m then val (k / 1024 - d) (k % 1024) else Store.get 0 c.arch.tiles k := by
  induction m with
  | zero => rw [if_neg (by omega)]; rfl
  | succ m ih =>
    rw [wholeWrites, List.range_succ, List.foldl_append, List.foldl_cons, List.foldl_nil, get_writeReg_whole]
    by_cases hk : k / 1024 = d + m
    · rw [if_pos hk, if_pos (by omega), hk, Nat.add_sub_cancel_left]
    · rw [if_neg hk, ← wholeWrites, ih]
      by_cases hin : d ≤ k / 1024 ∧ k / 1024 < d + m
      · rw [if_pos hin, if_pos (by omega)]
      · rw [if_neg hin, if_neg (by omega)]

theorem wholeWrites_tileWrite (c : Core) (d ready now : Nat) (th : Thread) (val : Nat → Nat → W32) (mark : Nat → Nat → Bool) (m : Nat) :
    TileWrite (m * 8) c (wholeWrites c d ready now th val mark m) := by
  have h := tileWrite_foldl (n := 8) (fun c q => writeReg_tileWrite c 0 (d + q) ready now th (wholeCells (val q) (mark q)))
    (List.range m) c
  rwa [List.length_range] at h

/-! ### The word (R147 to R149) -/

section
variable (s : State) (f : VT) (n lat occ : Nat) (src : Nat → Nat → Nat × Nat)

/-- The container that register q of the destination takes at place c. -/
def multiVal (q c : Nat) : W32 :=
  ((((List.range n).map (fun q => (s.regRead 0 (s.regOf f.a + q) false).toArray)).toArray).getD (src q c).1 #[]).getD (src q c).2 0

/-- The mark that it takes. -/
def multiMark (q c : Nat) : Bool :=
  ((((List.range n).map (fun q => ((List.range 16).map (fun r => s.arch.rowMark 0 (s.regOf f.a + q) r)).toArray)).toArray).getD
    (src q c).1 #[]).getD ((src q c).2 / 64) false

/-- The core once the destination, its operand-file copy and the latch have been written. -/
def multiWritten : Core :=
  let c := wholeWrites s.here (s.regOf f.d) (s.cycle + lat + 2) s.cycle s.cur.th (multiVal s f n src) (multiMark s f n src) n
  let last := wholeCells (multiVal s f n src (n - 1)) (multiMark s f n src (n - 1))
  let c := if 16 ≤ tIdx f.d then c.writeReg 1 (tIdx f.d % 16) (s.cycle + lat + 1) s.cycle s.cur.th last else c
  c.writeLatch .net (s.cycle + lat) s.cycle s.cur.th s.eng.noLatch last

/-- The state in which the word's effect is complete. -/
def multiDone : State :=
  s.nameBanks (banksOf ((List.range n).map (fun q => s.regOf f.a + q) ++ (List.range n).map (fun q => s.regOf f.d + q)))
    ((s.setCore s.cur.core (multiWritten s f n lat src)).modEng (fun e => { e with busy := s.cycle + occ })).bumpFree

theorem multiWritten_tileWrite : TileWrite (8 * n + 8) s.here (multiWritten s f n lat src) := by
  have hmain := wholeWrites_tileWrite s.here (s.regOf f.d) (s.cycle + lat + 2) s.cycle s.cur.th (multiVal s f n src)
    (multiMark s f n src) n
  unfold multiWritten
  refine TileWrite.trans (m := 8 * n + 8) (n := 0) ?_ (writeLatch_tileWrite _ _ _ _ _ _ _)
  split
  · exact (hmain.trans (writeReg_tileWrite _ 1 _ _ _ _ _)).mono (by rw [Nat.mul_comm]; exact Nat.le_refl _)
  · exact hmain.mono (by omega)

theorem multiWritten_tiles : (multiWritten s f n lat src).arch.tiles =
    (wholeWrites s.here (s.regOf f.d) (s.cycle + lat + 2) s.cycle s.cur.th (multiVal s f n src) (multiMark s f n src) n).arch.tiles := by
  rw [multiWritten, (writeLatch_files _ _ _ _ _ _ _).1]
  split
  · exact writeReg_tiles_of_ne _ _ _ _ _ _ _ (by decide)
  · rfl

theorem multiDone_spec : (multiDone s f n lat occ src).arch.tiles = (multiWritten s f n lat src).arch.tiles ∧
    KeepsData s (multiDone s f n lat occ src) := by
  obtain ⟨named, hn⟩ := nameBanks_eq s
    ((s.setCore s.cur.core (multiWritten s f n lat src)).modEng (fun e => { e with busy := s.cycle + occ })).bumpFree
    (banksOf ((List.range n).map (fun q => s.regOf f.a + q) ++ (List.range n).map (fun q => s.regOf f.d + q)))
  rw [multiDone, hn]
  refine ⟨?_, (((keepsData_setCore (multiWritten_tileWrite s f n lat src)).trans (keepsData_modEng _ rfl)).trans
    (keepsData_bumpFree _)).trans (keepsData_named _ _)⟩
  rw [arch_modArch]
  exact (modEng_tiles _ _).trans (congrArg (fun c => c.arch.tiles) (core_setCore_self s _ s.cur.core))

end

/-- A word of this kind whose ranges fit and whose banks are on writes its registers. -/
theorem vMulti_done {i : Instr} {h : Hdr} {f : VT} {s : State} {n lat occ : Nat} {src : Nat → Nat → Nat × Nat}
    (hr : runs i h s) (ha : s.regOf f.a + n ≤ 768) (hd : s.regOf f.d + n ≤ 768)
    (hbanks : s.banksOn ((List.range n).map (fun q => s.regOf f.a + q) ++ (List.range n).map (fun q => s.regOf f.d + q)))
    (hshad : s.here.shadUsed + 8 * n + 8 ≤ 2048) :
    vMulti i h f s n lat occ src = .next (s.wordDone (multiDone s f n lat occ src)) := by
  refine runWord_done hr ?_ ?_
  · rw [if_neg (by omega), withBanks_on hbanks]
    rfl
  · have hwrite := multiWritten_tileWrite s f n lat src
    obtain ⟨named, hn⟩ := nameBanks_eq s
      ((s.setCore s.cur.core (multiWritten s f n lat src)).modEng (fun e => { e with busy := s.cycle + occ })).bumpFree
      (banksOf ((List.range n).map (fun q => s.regOf f.a + q) ++ (List.range n).map (fun q => s.regOf f.d + q)))
    have hset : (s.setCore s.cur.core (multiWritten s f n lat src)).here = multiWritten s f n lat src :=
      core_setCore_self s _ s.cur.core
    rw [multiDone, hn]
    refine panRoom_modArch (panRoom_modEng (panRoom_of_used ?_ ?_) _) _
    · rw [hset, hwrite.holdUsed]
    · rw [hset]
      have := hwrite.room
      omega

theorem getD_map_range {α : Type} (g : Nat → α) {n q : Nat} (d : α) (h : q < n) : (((List.range n).map g).toArray).getD q d = g q := by
  simp [Array.getD_eq_getD_getElem?, h]

/-- What such a word leaves: each container of the destination registers takes the container that the rule names, read before
the word wrote; every other main register and all other data stay. -/
theorem vMulti_wrote {i : Instr} {h : Hdr} {f : VT} {s : State} {n : Nat} (lat occ : Nat) {src : Nat → Nat → Nat × Nat}
    (hsrc : ∀ q c, q < n → c < 1024 → (src q c).1 < n) (hr : runs i h s) (ha : s.regOf f.a + n ≤ 768) (hd : s.regOf f.d + n ≤ 768)
    (hbanks : s.banksOn ((List.range n).map (fun q => s.regOf f.a + q) ++ (List.range n).map (fun q => s.regOf f.d + q)))
    (hshad : s.here.shadUsed + 8 * n + 8 ≤ 2048) : ∃ u : State, vMulti i h f s n lat occ src = .next (s.wordDone u) ∧
      (∀ q c, q < n → c < 1024 → Store.get 0 u.arch.tiles ((s.regOf f.d + q) * 1024 + c) =
        (s.regRead 0 (s.regOf f.a + (src q c).1) false).getD (src q c).2 0) ∧
      (∀ k, k / 1024 < s.regOf f.d ∨ s.regOf f.d + n ≤ k / 1024 →
        Store.get 0 u.arch.tiles k = Store.get 0 s.arch.tiles k) ∧ u.eng.g = s.eng.g ∧ u.arch.scr = s.arch.scr := by
  obtain ⟨htiles, hkeep⟩ := multiDone_spec s f n lat occ src
  refine ⟨_, vMulti_done hr ha hd hbanks hshad, fun q c hq hc => ?_, fun k hk => ?_, hkeep.regs, hkeep.scr⟩
  · have hreg : ((s.regOf f.d + q) * 1024 + c) / 1024 = s.regOf f.d + q := by omega
    rw [htiles, multiWritten_tiles, get_wholeWrites, hreg, if_pos (by omega), Nat.add_sub_cancel_left, multiVal,
      show ((s.regOf f.d + q) * 1024 + c) % 1024 = c by omega, getD_map_range _ _ (hsrc q c hq hc)]
    simp [Array.getD_eq_getD_getElem?, List.getD_eq_getElem?_getD]
  · rw [htiles, multiWritten_tiles, get_wholeWrites, if_neg (by omega)]
    rfl

theorem zipSrc_lt {n : Nat} (hn : 0 < n) (q c : Nat) : (zipSrc n q c).1 < n := Nat.mod_lt _ hn

theorem unzipSrc_lt {n q c : Nat} (hq : q < n) (hc : c < 1024) : (unzipSrc n q c).1 < n := by
  refine Nat.div_lt_of_lt_mul ?_
  calc n * c + q < n * (c + 1) := by rw [Nat.mul_succ]; omega
    _ ≤ n * 1024 := Nat.mul_le_mul_left n hc
    _ = 1024 * n := Nat.mul_comm ..

/-- Settles O32: each word is the writing of n whole registers, which differ in the rule for their containers alone. -/
theorem multiRegisterWords : Obligations.MultiRegisterWords := by
  unfold Obligations.MultiRegisterWords
  intro h f s i n src hmem hr ha hd hbanks hshad
  simp only [List.mem_cons, List.not_mem_nil, or_false, Prod.mk.injEq] at hmem
  rcases hmem with ⟨rfl, rfl, rfl⟩ | ⟨rfl, rfl, rfl⟩ | ⟨rfl, rfl, rfl⟩ | ⟨rfl, rfl, rfl⟩ | ⟨rfl, rfl, rfl⟩ | ⟨rfl, rfl, rfl⟩ |
    ⟨rfl, rfl, rfl⟩
  · exact vMulti_wrote 20 16 (fun q c _ _ => by omega) hr ha hd hbanks hshad
  · exact vMulti_wrote 16 8 (fun q c _ _ => zipSrc_lt (by decide) q c) hr ha hd hbanks hshad
  · exact vMulti_wrote 20 12 (fun q c _ _ => zipSrc_lt (by decide) q c) hr ha hd hbanks hshad
  · exact vMulti_wrote 24 16 (fun q c _ _ => zipSrc_lt (by decide) q c) hr ha hd hbanks hshad
  · exact vMulti_wrote 16 8 (fun q c hq hc => unzipSrc_lt hq hc) hr ha hd hbanks hshad
  · exact vMulti_wrote 20 12 (fun q c hq hc => unzipSrc_lt hq hc) hr ha hd hbanks hshad
  · exact vMulti_wrote 24 16 (fun q c hq hc => unzipSrc_lt hq hc) hr ha hd hbanks hshad

end Sys2Proof.Proofs
end

section
/-! What O29 says of the elements (R131, R132, R136, R137): a slot holds the exact result of the slots of its operands. -/

namespace Sys2Proof.Proofs

open Sys2Proof Sys2Proof.Machine Sys2Proof.Laws

/-! ### Slots (R48, R131) -/

/-- The number whose first m digits to the base 2^w are those of f. -/
def slotSum (w : Nat) (f : Nat → Nat) (m : Nat) : Nat := (List.range m).foldl (fun t h => t + f h % 2 ^ w * 2 ^ (w * h)) 0

theorem slotSum_succ (w : Nat) (f : Nat → Nat) (m : Nat) : slotSum w f (m + 1) = slotSum w f m + f m % 2 ^ w * 2 ^ (w * m) := by
  rw [slotSum, List.range_succ, List.foldl_append]
  rfl

theorem slotSum_lt (w : Nat) (f : Nat → Nat) (m : Nat) : slotSum w f m < 2 ^ (w * m) := by
  induction m with
  | zero => exact Nat.one_pos
  | succ m ih =>
    have hdigit : f m % 2 ^ w + 1 ≤ 2 ^ w := Nat.mod_lt _ (Nat.two_pow_pos w)
    calc slotSum w f (m + 1) = slotSum w f m + f m % 2 ^ w * 2 ^ (w * m) := slotSum_succ w f m
      _ < (f m % 2 ^ w + 1) * 2 ^ (w * m) := by rw [Nat.succ_mul]; omega
      _ ≤ 2 ^ w * 2 ^ (w * m) := Nat.mul_le_mul_right _ hdigit
      _ = 2 ^ (w * (m + 1)) := by rw [← Nat.pow_add, Nat.mul_succ, Nat.add_comm]

theorem slotSum_digit (w : Nat) (f : Nat → Nat) {m n : Nat} (h : n < m) : slotSum w f m / 2 ^ (w * n) % 2 ^ w = f n % 2 ^ w := by
  induction m with
  | zero => exact absurd h (Nat.not_lt_zero n)
  | succ m ih =>
    rw [slotSum_succ]
    rcases Nat.lt_succ_iff_lt_or_eq.1 h with hlt | rfl
    · obtain ⟨k, rfl⟩ := Nat.exists_eq_add_of_lt hlt
      have hpow : 2 ^ (w * (n + k + 1)) = 2 ^ (w * k) * 2 ^ w * 2 ^ (w * n) := by
        rw [← Nat.pow_add, ← Nat.pow_add]
        congr 1
        ring
      rw [hpow, ← Nat.mul_assoc, Nat.add_mul_div_right _ _ (Nat.two_pow_pos _), ← Nat.mul_assoc, Nat.add_mul_mod_self_right, ih hlt]
    · rw [Nat.add_mul_div_right _ _ (Nat.two_pow_pos _), Nat.div_eq_of_lt (slotSum_lt w f n), Nat.zero_add, Nat.mod_mod]

/-- A container built from slots holds them. -/
theorem slot_buildSlots {w n : Nat} (f : Nat → Nat) (h : n < 32 / w) : slot w n (buildSlots w f) = f n % 2 ^ w := by
  have hlt : slotSum w f (32 / w) < 2 ^ 32 :=
    (slotSum_lt w f _).trans_le (Nat.pow_le_pow_right (by decide) (Nat.mul_div_le 32 w))
  have hval : (buildSlots w f).toNat = slotSum w f (32 / w) := (BitVec.toNat_ofNat _ _).trans (Nat.mod_eq_of_lt hlt)
  rw [slot, hval, slotSum_digit w f h]

/-! ### Integer elements (R132, R136) -/

theorem wrapInt_lt (w : Nat) (x : Int) : wrapInt w x < 2 ^ w := by
  have hpos : (0 : Int) < 2 ^ w := Int.pow_pos (by decide)
  have hlt := Int.emod_lt_of_pos x hpos
  have hcast : ((2 ^ w : Nat) : Int) = 2 ^ w := by push_cast; rfl
  unfold wrapInt
  omega

/-- A slot of an element-wise integer form holds the exact result, wrapped, or under .sat clamped to the type's range. -/
theorem slot_elemCell (s : State) (o : ElemOp) {t w : Nat} {sg : Bool} (sat : Bool) (rm sh k i j : Nat) {n : Nat} (a b d : Src)
    (hfmt : intFmt t = some (w, sg)) (hpair : t ≠ 0x1E) (hw : typeWidth (BitVec.ofNat 5 t) = w) (ht : 3 ≤ t) (hn : n < 32 / w) :
    slot w n (s.elemCell o t rm sat sh a b d k i j).1 = intStore w sg sat (o.int (intVal w sg (slot w n (a.at sh k i j).1))
      (intVal w sg (slot w n (b.at sh k i j).1)) (intVal w sg (slot w n (d.at sh k i j).1))) := by
  have hnot : ¬t ≤ 2 := by omega
  simp only [State.elemCell, if_neg hpair, hw, slot_buildSlots _ hn, ElemOp.apply, if_neg hnot, hfmt]
  exact Nat.mod_eq_of_lt (wrapInt_lt _ _)

/-- A left shift by the width or more gives 0. -/
theorem shlElem_wrapped (t w x m : Nat) : shlElem t false w x m % 2 ^ w = if w ≤ m then 0 else x * 2 ^ m % 2 ^ w := by
  simp only [shlElem, Bool.false_eq_true, if_false]
  split
  · exact Nat.zero_mod _
  · rfl

theorem intVal_bounds {w : Nat} (hw : 0 < w) (x : Nat) : -(2 ^ (w - 1) : Int) ≤ intVal w true x ∧ intVal w true x < 2 ^ (w - 1) := by
  have hlt := Nat.mod_lt x (Nat.two_pow_pos w)
  have hhalf : 2 ^ w = 2 * 2 ^ (w - 1) := by rw [← Nat.pow_succ', Nat.succ_eq_add_one, Nat.sub_add_cancel hw]
  have hcast : ((2 ^ (w - 1) : Nat) : Int) = 2 ^ (w - 1) := by push_cast; rfl
  have hwhole : (2 ^ w : Int) = ((2 ^ w : Nat) : Int) := by push_cast; rfl
  have hval : intVal w true x = if 2 ^ w ≤ 2 * (x % 2 ^ w) then ((x % 2 ^ w : Nat) : Int) - 2 ^ w else ((x % 2 ^ w : Nat) : Int) := by
    simp [intVal]
  rw [hval, ← hcast, hwhole]
  generalize x % 2 ^ w = r at *
  generalize 2 ^ (w - 1) = p at *
  split <;> omega

theorem ediv_of_neg_small {a b : Int} (ha : a < 0) (hb : -b ≤ a) : a / b = -1 := by
  have hbpos : 0 < b := by omega
  refine le_antisymm (Int.le_of_lt_add_one (Int.ediv_lt_of_lt_mul hbpos (by omega))) (Int.le_ediv_of_mul_le hbpos (by omega))

/-- An arithmetic shift beyond the width gives the sign: the amount may be taken as width − 1. -/
theorem sarElem_floor {w : Nat} (hw : 0 < w) (x m : Nat) : sarElem w x m % 2 ^ w = (intVal w true x / 2 ^ m % 2 ^ w).toNat := by
  obtain ⟨hlo, hhi⟩ := intVal_bounds hw x
  have hshift : intVal w true x / 2 ^ min m (w - 1) = intVal w true x / 2 ^ m := by
    rcases Nat.le_total m (w - 1) with hle | hge
    · rw [Nat.min_eq_left hle]
    · have hpow : (2 : Int) ^ (w - 1) ≤ 2 ^ m := pow_le_pow_right₀ (by decide) hge
      rw [Nat.min_eq_right hge]
      rcases Int.lt_or_le (intVal w true x) 0 with hneg | hpos
      · rw [ediv_of_neg_small hneg (by omega), ediv_of_neg_small hneg (by omega)]
      · rw [Int.ediv_eq_zero_of_lt hpos hhi, Int.ediv_eq_zero_of_lt hpos (hhi.trans_le hpow)]
  rw [sarElem, Nat.mod_eq_of_lt (wrapInt_lt _ _), wrapInt, hshift]

end Sys2Proof.Proofs
end

section
/-! What remains true of O29, O30 and O33: over a main file of the canonical form the element-wise words, the moves, the
reductions and VIOTA leave what the statements say. -/

namespace Sys2Proof.Proofs

open Sys2Proof Sys2Proof.Machine Sys2Proof.Laws

/-! ### Element-wise words and moves (R129, R138, R144) -/

/-- The first half of O29, each of whose words is an `ewWord`. -/
theorem ewWord_wrote {i : Instr} {h : Hdr} {f : VT} {s t : State} {two acc rs : Bool} {ty : Option Nat} (lat : Nat)
    (cell : State → Src → Src → Src → Nat → Nat → Nat → W32 × Bool) (hcanon : Store.wf 0 s.arch.tiles = true) (hr : runs i h s)
    (hd : tLvl f.d ≤ 1) (hv : s.vectorReady
      ⟨f.d :: (if two then [f.a, f.b] else [f.a]), [], tShape f.d, if two then [f.a, f.b] else [f.a], rs, 4, 1⟩ t) :
    ∃ u : State, ewWord i h f s two acc ty rs lat cell = .next (s.wordDone u) ∧ u.arch.oq = t.arch.oq ∧
      u.arch.srcnt = s.arch.srcnt + (if rs then 1 else 0) ∧
      s.wrote u f.d (destCells f.d (cell s (s.source f.a (tShape f.d) ty false)
        (if two then s.sourceB f.a f.b (tShape f.d) ty else Src.none)
        (if acc then s.source f.d (tShape f.d) none true else Src.none))) :=
  vrun_wrote hcanon hr hv hd (destCells_places _ _) rfl

/-- VSPLAT, the rotations and the broadcasts are each a `vMove`. -/
theorem vMove_wrote {i : Instr} {h : Hdr} {f : VT} {s t : State} (u : VUnit) (lat : Nat)
    (cell : Src → Nat → Nat → Nat → Nat → W32 × Bool) (hcanon : Store.wf 0 s.arch.tiles = true) (hr : runs i h s)
    (hd : tLvl f.d ≤ 1) (hv : s.vectorReady ⟨[f.d, f.a], [], tShape f.d, [f.a], false, 4, 1⟩ t) :
    ∃ w : State, vMove i h f s u lat cell = .next (s.wordDone w) ∧ w.arch.oq = t.arch.oq ∧
      s.wrote w f.d (destCells f.d (cell (s.source f.a (tShape f.d) none false) (s.amount f.b))) := by
  obtain ⟨w, hexec, hoq, _, hwrote⟩ := vrun_wrote (eff := fun s t => t.writeDest f.d u lat
    (destCells f.d (cell (s.source f.a (tShape f.d) none false) (s.amount f.b)))) hcanon hr hv hd (destCells_places _ _) rfl
  exact ⟨w, hexec, hoq, hwrote⟩

/-! ### Reductions (R146) -/

theorem viewPos_lt (d : BitVec 20) : ∀ p ∈ viewPos d, p.1 < 16 ∧ p.2 < 64 := by
  have hidx := tIdx_lt d
  have hmod := Nat.mod_lt (tIdx d) (show 0 < 16 by decide)
  intro p hp
  unfold viewPos at hp
  split at hp <;> obtain ⟨k, hk, rfl⟩ := List.mem_map.1 hp <;> have := List.mem_range.1 hk <;> constructor <;> dsimp only <;> omega

/-- Cells depend on the containers of the register's own rows and columns alone. -/
theorem destCells_congr {d : BitVec 20} {f g : Nat → Nat → Nat → W32 × Bool}
    (h : ∀ k i j, k < (viewPos d).length → i < 16 → j < 64 → f k i j = g k i j) : destCells d f = destCells d g := by
  refine List.map_congr_left fun p hp => ?_
  obtain ⟨hrow, hcol⟩ := viewPos_lt d p.1 (List.fst_mem_of_mem_zipIdx hp)
  have hk : p.2 < (viewPos d).length := by simpa using List.snd_lt_add_of_mem_zipIdx hp
  rw [h p.2 p.1.1 p.1.2 hk hrow hcol]

/-- The container that a place of group g takes: the reduction of the source's containers that mem names. -/
def groupReduced (s : State) (f : VT) (per : Nat) (mem : Nat → Nat → Nat) (g i j : Nat) : W32 × Bool :=
  let xs := (List.range per).map (fun k =>
    (s.source f.a (tShape f.d) (some f.ty.toNat) false).at 0 (mem g k) (mem g k / 64) (mem g k % 64))
  (reduce f.ty.toNat f.fn.toNat f.rm.toNat (f.sat = 1) (s.rbits f.rm.toNat i j 0) (xs.map Prod.fst), xs.any Prod.snd)

/-- The containers of the source that a list of places names. -/
def groupOf (s : State) (f : VT) (places : List Nat) : List (W32 × Bool) :=
  places.map (fun k => (s.source f.a (tShape f.d) (some f.ty.toNat) false).at 0 k (k / 64) (k % 64))

/-- What the word computes: without .rs one result for each group, which its places share. -/
def sharedReduced (s : State) (f : VT) (groups : Nat) (mem : Nat → List Nat) (g i j : Nat) : W32 × Bool :=
  let gs := ((List.range groups).map (fun g => groupOf s f (mem g))).toArray
  let rs := gs.map (fun x => reduce f.ty.toNat f.fn.toNat f.rm.toNat (f.sat = 1) 0 (x.map (fun x => x.1)))
  (if f.rm.toNat = 4 then
      reduce f.ty.toNat f.fn.toNat f.rm.toNat (f.sat = 1) (s.rbits f.rm.toNat i j 0) ((gs.getD g []).map (fun x => x.1))
    else rs.getD g 0, (gs.getD g []).any (fun x => x.2))

theorem sharedReduced_eq (s : State) (f : VT) {groups per g : Nat} (mem : Nat → Nat → Nat) (i j : Nat) (hg : g < groups) :
    sharedReduced s f groups (fun g => (List.range per).map (mem g)) g i j = groupReduced s f per mem g i j := by
  have hgroup : groupOf s f ((List.range per).map (mem g)) = (List.range per).map (fun k =>
      (s.source f.a (tShape f.d) (some f.ty.toNat) false).at 0 (mem g k) (mem g k / 64) (mem g k % 64)) :=
    List.map_map
  unfold sharedReduced groupReduced
  simp only
  rw [List.map_toArray, List.map_map, getD_map_range _ _ hg, getD_map_range _ _ hg, Function.comp_apply, hgroup]
  by_cases hrs : f.rm.toNat = 4
  · rw [if_pos hrs]
  · rw [if_neg hrs, State.rbits, if_neg hrs]

/-- A reduction gives each place the reduction of its own group. -/
theorem vReduce_wrote {i : Instr} {h : Hdr} {f : VT} {s t : State} (u : VUnit) (lat : Nat) {per groups : Nat} (mem : Nat → Nat → Nat)
    {grp : Nat → Nat → Nat} (hgrp : ∀ i j, i < 16 → j < 64 → grp i j < groups) (hcanon : Store.wf 0 s.arch.tiles = true)
    (hr : runs i h s) (hd : tLvl f.d ≤ 1)
    (hv : s.vectorReady ⟨[f.d, f.a], [], tShape f.d, [f.a], decide (f.rm.toNat = 4), 4, 1⟩ t) :
    ∃ w : State, vReduce i h f s u lat groups (fun g => (List.range per).map (mem g)) grp = .next (s.wordDone w) ∧
      w.arch.oq = t.arch.oq ∧ s.wrote w f.d (destCells f.d (fun _ i j => groupReduced s f per mem (grp i j) i j)) := by
  obtain ⟨w, hexec, hoq, _, hwrote⟩ := vrun_wrote (eff := fun s t => t.writeDest f.d u lat (destCells f.d (fun _ i j =>
    sharedReduced s f groups (fun g => (List.range per).map (mem g)) (grp i j) i j))) hcanon hr hv hd (destCells_places _ _) rfl
  rw [destCells_congr fun k i j _ hi hj => sharedReduced_eq s f mem i j (hgrp i j hi hj)] at hwrote
  exact ⟨w, hexec, hoq, hwrote⟩

/-! ### VIOTA (R150) -/

/-- Entry k of the counts: how many of the first k positions hold. -/
theorem countBefore_eq (ms : List Bool) : countBefore ms = (List.range ms.length).map (fun k => (ms.take k).count true) := by
  have hfold : (ms.foldl (fun (acc : List Nat × Nat) m => (acc.2 :: acc.1, if m then acc.2 + 1 else acc.2)) ([], 0)) =
      (((List.range ms.length).map (fun k => (ms.take k).count true)).reverse, ms.count true) := by
    induction ms using List.reverseRecOn with
    | nil => rfl
    | append_singleton ms m ih =>
      have hinit : (List.range ms.length).map (fun k => ((ms ++ [m]).take k).count true) =
          (List.range ms.length).map (fun k => (ms.take k).count true) :=
        List.map_congr_left fun k hk => by rw [List.take_append_of_le_length (List.mem_range.1 hk).le]
      rw [List.foldl_append, ih, List.foldl_cons, List.foldl_nil, List.length_append, List.length_singleton, List.range_succ,
        List.map_append, hinit, List.map_singleton, List.take_left, List.reverse_append, List.count_append]
      cases m <;> rfl
  rw [countBefore, hfold, List.reverse_reverse]

theorem getD_countBefore {α : Type} (xs : List α) (p : α → Bool) {k : Nat} (hk : k < xs.length) :
    (countBefore (xs.map p)).toArray.getD k 0 = (xs.take k).countP p := by
  rw [countBefore_eq, List.length_map, getD_map_range _ _ hk, ← List.map_take, List.count, List.countP_map]
  congr 1
  funext x
  cases h : p x <;> simp [h]

theorem decide_countP_pos {α : Type} (xs : List α) (p : α → Bool) : decide (0 < xs.countP p) = xs.any p := by
  rw [Bool.eq_iff_iff, decide_eq_true_eq, List.countP_pos_iff, List.any_eq_true]

/-- VIOTA over a canonical main file: each position takes the source plus the count of set mask bits before it. -/
theorem viota_wrote {h : Hdr} {f : VM} {s t : State} (hcanon : Store.wf 0 s.arch.tiles = true) (hr : runs (.viota h f) h s)
    (hd : tLvl f.d ≤ 1) (hv : s.vectorReady ⟨[f.d, f.a], [f.mreg.toNat], tShape f.d, [f.a], false, 4, 1⟩ t) :
    ∃ u : State, exec (.viota h f) s = .next (s.wordDone u) ∧ s.wrote u f.d (destCells f.d (fun k i j =>
      let x := (s.source f.a (tShape f.d) (some 0x1C) false).at (tShape f.d) k i j
      (x.1 + BitVec.ofNat 32 (((viewPos f.d).take k).countP (fun p => (s.maskAt f p.1 p.2).1)),
        x.2 || ((viewPos f.d).take k).any (fun p => (s.maskAt f p.1 p.2).2)))) := by
  obtain ⟨w, hexec, _, _, hwrote⟩ := vrun_wrote (eff := fun s t => t.writeDest f.d .net 10 (destCells f.d (fun k i j =>
    let x := (s.source f.a (tShape f.d) (some 0x1C) false).at (tShape f.d) k i j
    (x.1 + BitVec.ofNat 32 ((countBefore ((viewPos f.d).map (fun p => (s.maskAt f p.1 p.2).1))).toArray.getD k 0),
      x.2 || decide (0 < (countBefore ((viewPos f.d).map (fun p => (s.maskAt f p.1 p.2).2))).toArray.getD k 0)))))
    hcanon hr hv hd (destCells_places _ _) rfl
  refine ⟨w, hexec, ?_⟩
  rwa [destCells_congr fun k i j hk _ _ => ?_] at hwrote
  rw [getD_countBefore _ _ hk, getD_countBefore _ _ hk, decide_countP_pos]

end Sys2Proof.Proofs
end

section
/-! Refutations of O29, O30, O31, O33 and O34. They say of every state that a word with a row as destination leaves the other
rows of its register; the model writes such a row back with the run of the whole register, which reads as its containers only
in a main file of the canonical form (`Store.wf`), and no hypothesis asks for that form. In `crossed` two containers stand in
the wrong order: the second reads as 7 by itself and as 0 in the run, and a word that writes row 0 makes it 0. Over a
canonical main file a destination changes as `State.wrote` says (`wrote_of_writeDest`, `vrun_wrote`). -/

namespace Sys2Proof.Proofs

open Sys2Proof Sys2Proof.Machine Sys2Proof.Laws

/-! ### A main file out of order -/

/-- Containers 65 and 64 of v0, not in the order of their places. -/
def crossedTiles : Store W32 := [(65, 1), (64, 7)]

/-- V after reset with that main file. -/
@[irreducible] def crossed : State := { State.reset with cur := ⟨0, .v⟩ }.modArch (fun a => { a with tiles := crossedTiles })

/-- Row 0 of v0 and of v1. -/
def row0 : BitVec 20 := 0x10000
def row1 : BitVec 20 := 0x10040

theorem crossed_here : crossed.here = Core.reset.modArch (fun a => { a with tiles := crossedTiles }) := by
  rw [crossed, here_modArch]
  exact congrArg (fun c : Core => c.modArch (fun a => { a with tiles := crossedTiles })) (core_reset 0)

theorem crossed_arch : crossed.arch = { Arch.reset with tiles := crossedTiles } := congrArg Core.arch crossed_here

theorem crossed_cur : crossed.cur = ⟨0, .v⟩ := by
  rw [crossed]
  rfl

theorem crossed_eng : crossed.eng = Eng.reset false := by
  rw [State.eng, crossed_arch, crossed_cur]
  rfl

theorem crossed_runs {i : Instr} (h : check2 i (Eng.reset false) = none) : runs i ⟨0, 0, 0, 0⟩ crossed := by
  refine ⟨by rw [crossed_eng]; exact h, ?_⟩
  rw [State.live, crossed_eng, crossed_here]
  rfl

/-- No loop rotates a register. -/
theorem crossed_regOf (o : BitVec 20) : crossed.regOf o = tReg o := by
  rw [State.regOf, State.rotate, crossed_eng, Core.rotate]
  exact ite_self _

/-- The banks of the first 64 registers are on. -/
theorem crossed_banksOn {regs : List Nat} (h : ∀ n ∈ regs, n < 64) : crossed.banksOn regs := by
  intro b hb
  obtain ⟨n, hn, rfl⟩ := List.mem_map.1 (List.mem_eraseDups.1 hb)
  rw [Nat.div_eq_of_lt (h n hn), crossed_arch]
  exact ⟨by decide, Nat.zero_le _⟩

theorem crossed_mainRegs {os : List (BitVec 20)} (h : ∀ o ∈ os, tReg o < 64) : ∀ n ∈ crossed.mainRegs os, n < 64 := by
  intro n hn
  obtain ⟨o, ho, rfl⟩ := List.mem_map.1 hn
  rw [crossed_regOf]
  exact h o (List.mem_of_mem_filter ho)

theorem crossed_shadUsed : crossed.here.shadUsed = 0 := by
  rw [crossed_here]
  rfl

/-- A word on rows of v0 and v1 is ready. -/
theorem crossed_ready {v : VForm} (hnamed : ∀ o ∈ v.named, tReg o < 64) (hregs : ∀ n ∈ v.regs, n < 64)
    (hpops : crossed.popSources v.pops v.shape = some crossed) : crossed.vectorReady v crossed := by
  refine ⟨?_, crossed_banksOn fun n hn => (List.mem_append.1 hn).elim (crossed_mainRegs hnamed n) (hregs n), hpops, ?_⟩
  · rw [State.latchRead, crossed_eng]
    rfl
  · rw [crossed_shadUsed]
    decide

/-! ### Row 0 written back -/

theorem wordDone_tiles (s t : State) : (s.wordDone t).arch.tiles = t.arch.tiles := by
  rw [wordDone_eq, State.retire, modEng_tiles, State.arch, here_modHere]
  exact modEng_tiles t _

/-- The cells of row 0 lie before container 64. -/
theorem row0_cells (f : Nat → Nat → Nat → W32 × Bool) : ∀ x ∈ destCells row0 f, cellPlace x < 64 := by
  intro x hx
  have hmem : cellPlace x ∈ viewPlaces row0 := destCells_map_place row0 f ▸ List.mem_map_of_mem hx
  have hrow : ∀ n ∈ viewPlaces row0, n < 64 := by decide
  exact hrow _ hmem

/-- After a write of row 0 container 64 reads as 0. -/
theorem crossed_writeDest (u : VUnit) (lat : Nat) {cells : List Cell} (h : ∀ x ∈ cells, cellPlace x < 64) :
    Store.get 0 (crossed.writeDest row0 u lat cells).arch.tiles 64 = 0 := by
  rw [writeDest_tiles_main crossed u lat cells rfl, crossed_regOf]
  refine (get_writeReg_of_ne (lvl := 0) (n := 64) (by decide) fun x hx => (h x hx).ne').trans ?_
  rw [crossed_here]
  rfl

/-- A state in which that container has changed is not what `State.wrote` says of a write of row 0. -/
theorem not_wrote_crossed {w : State} {cells : List Cell} (h : ∀ x ∈ cells, cellPlace x < 64)
    (hw : Store.get 0 w.arch.tiles 64 = 0) : ¬ crossed.wrote w row0 cells := by
  rintro ⟨_, hkept, _⟩
  have hreg : crossed.regOf row0 = 0 := crossed_regOf row0
  have hsame := hkept 64 fun _ x hx => by
    have := h x hx
    rw [cellPlace] at this
    rw [hreg]
    omega
  rw [hw, crossed_arch] at hsame
  exact absurd hsame (by decide)

/-- So no V word whose destination is row 0 has the next state that the statements claim. -/
theorem vrun_not_wrote {i : Instr} {v : VForm} {eff : State → State → State} {u : VUnit} {lat : Nat}
    {f : Nat → Nat → Nat → W32 × Bool} (hr : runs i ⟨0, 0, 0, 0⟩ crossed) (hv : crossed.vectorReady v crossed) {w : State}
    (hexec : vrun i ⟨0, 0, 0, 0⟩ crossed v eff = .next (crossed.wordDone w))
    (heff : eff crossed crossed = crossed.writeDest row0 u lat (destCells row0 f)) : ¬ crossed.wrote w row0 (destCells row0 f) := by
  have hroom : panRoom crossed (eff crossed crossed) := by
    have hwrite := writeDest_tileWrite crossed row0 u lat (destCells row0 f)
    rw [heff]
    exact panRoom_of_used hwrite.holdUsed (hwrite.room.trans (by rw [crossed_shadUsed]; decide))
  rw [vrun_done hr hv hroom] at hexec
  have hsame := congrArg (fun x : State => x.arch.tiles) (Host.Outcome.next.inj hexec)
  simp only [wordDone_tiles, (vIssued_arch _ _ _).1] at hsame
  exact not_wrote_crossed (row0_cells f) (by rw [← hsame, heff, crossed_writeDest u lat (row0_cells f)])

/-- A word that writes row 0 of v0 from row 1. -/
def rowWord : VT := ⟨row0, row1, 0, 0, 0, 0, 0⟩

theorem rows_low : ∀ o ∈ [row0, row1], tReg o < 64 := by
  simp only [List.mem_cons, List.not_mem_nil, or_false, forall_eq_or_imp, forall_eq]
  decide

/-- Its form is ready: rows pop no queue. -/
theorem rowWord_ready {o4 o1 : Nat} : crossed.vectorReady ⟨[row0, row1], [], tShape row0, [row1], false, o4, o1⟩ crossed :=
  crossed_ready rows_low (fun _ h => nomatch h) rfl

theorem exec_vmov (h : Hdr) (f : VT) (s : State) : exec (.vmov h f) s =
    vrun (.vmov h f) h s ⟨[f.d, f.a], [], tShape f.d, [f.a], false, 4, 1⟩ (fun s t =>
      t.writeDest f.d .alu 4 (destCells f.d (movCell f.d f.a (s.source f.a (tShape f.d) none false)))) := rfl

/-- Refutes O29: VMOV of row 1 to row 0 in `crossed`. -/
theorem not_elementwiseWords : ¬ Obligations.ElementwiseWords := by
  unfold Obligations.ElementwiseWords
  intro hall
  have hr : runs (.vmov ⟨0, 0, 0, 0⟩ rowWord) ⟨0, 0, 0, 0⟩ crossed := crossed_runs rfl
  obtain ⟨w, hexec, _, _, hwrote⟩ := hall.1 ⟨0, 0, 0, 0⟩ rowWord crossed crossed (.vmov ⟨0, 0, 0, 0⟩ rowWord) false false false
    none _ (List.mem_of_getElem? (i := 17) rfl) hr (by decide) rowWord_ready
  rw [exec_vmov] at hexec
  exact vrun_not_wrote hr rowWord_ready hexec rfl hwrote

theorem exec_vsplat (h : Hdr) (f : VT) (s : State) : exec (.vsplat h f) s =
    vrun (.vsplat h f) h s ⟨[f.d, f.a], [], tShape f.d, [f.a], false, 4, 1⟩ (fun s t =>
      let a := s.source f.a (tShape f.d) none false
      t.writeDest f.d .net 10 (destCells f.d (fun _ _ _ => a.cells.getD (s.amount f.b % max 1 a.cells.size) (0, false)))) := rfl

/-- Refutes O30: VSPLAT of a container of row 1 over row 0 in `crossed`. -/
theorem not_laneWords : ¬ Obligations.LaneWords := by
  unfold Obligations.LaneWords
  intro hall
  have hr : runs (.vsplat ⟨0, 0, 0, 0⟩ rowWord) ⟨0, 0, 0, 0⟩ crossed := crossed_runs rfl
  obtain ⟨w, hexec, _, hwrote⟩ := hall ⟨0, 0, 0, 0⟩ rowWord crossed crossed _ _ _ (List.mem_of_getElem? (i := 0) rfl) hr (by decide)
    rowWord_ready
  rw [exec_vsplat] at hexec
  exact vrun_not_wrote hr rowWord_ready hexec rfl hwrote

theorem exec_vsfu (h : Hdr) (f : VT) (s : State) : exec (.vsfu h f) s =
    vrun (.vsfu h f) h s ⟨[f.d, f.a], [], tShape f.d, [f.a], decide (f.rm.toNat = 4), 8, 2⟩ (fun s t =>
      t.writeDest f.d .sfu 12 (destCells f.d (fun k i j =>
        let x := (s.source f.a (tShape f.d) (some f.ty.toNat) false).at (tShape f.d) k i j
        (buildSlots (typeWidth f.ty) (fun n => sfuElem f.ty.toNat f.fn.toNat f.rm.toNat (s.rbits f.rm.toNat i j n)
          (Config.sfuZero f.fn.toNat f.ty.toNat f.rm.toNat) (slot (typeWidth f.ty) n x.1)), x.2)))) := rfl

/-- Refutes O31: VSFU from row 1 to row 0 in `crossed`. -/
theorem not_conversionWords : ¬ Obligations.ConversionWords := by
  unfold Obligations.ConversionWords
  intro hall
  have hr : runs (.vsfu ⟨0, 0, 0, 0⟩ rowWord) ⟨0, 0, 0, 0⟩ crossed := crossed_runs rfl
  obtain ⟨_, _, _, hsfu⟩ := hall ⟨0, 0, 0, 0⟩ rowWord crossed crossed (by decide)
  obtain ⟨w, hexec, hwrote⟩ := hsfu hr rowWord_ready
  rw [exec_vsfu] at hexec
  exact vrun_not_wrote hr rowWord_ready hexec rfl hwrote

/-- VSEL of row 1 over row 0, masked by v2. -/
def maskedWord : VM := ⟨row0, row1, 2, 0, 1, 0, 0, 0, 0, 0⟩

theorem exec_vsel (h : Hdr) (f : VM) (s : State) : exec (.vsel h f) s =
    vrun (.vsel h f) h s ⟨[f.d, f.a], [f.mreg.toNat], tShape f.d, [f.a], false, 4, 1⟩ (fun s t =>
      t.writeDest f.d .alu 4 (destCells f.d (fun k i j =>
        let x := if (s.maskAt f i j).1 then (s.source f.a (tShape f.d) none false).at (tShape f.d) k i j else s.destNow f.d i j
        (x.1, x.2 || (s.maskAt f i j).2)))) := rfl

/-- Refutes O33: VSEL from row 1 to row 0 in `crossed`. -/
theorem not_maskedWords : ¬ Obligations.MaskedWords := by
  unfold Obligations.MaskedWords
  intro hall
  have hr : runs (.vsel ⟨0, 0, 0, 0⟩ maskedWord) ⟨0, 0, 0, 0⟩ crossed := crossed_runs rfl
  have hready : crossed.vectorReady ⟨[row0, row1], [maskedWord.mreg.toNat], tShape row0, [row1], false, 4, 1⟩ crossed :=
    crossed_ready rows_low (fun n hn => by obtain rfl := List.mem_singleton.1 hn; decide) rfl
  obtain ⟨hsel, _⟩ := hall ⟨0, 0, 0, 0⟩ maskedWord crossed crossed (by decide) hready
  obtain ⟨w, hexec, hwrote⟩ := hsel hr
  rw [exec_vsel] at hexec
  exact vrun_not_wrote hr hready hexec rfl hwrote

/-! ### VLDS (R152) -/

/-- The cells that VLDS writes. -/
def vldsCells (s : State) (f : VT) : List Cell :=
  ((s.spans f).map (fun x => x.2.1.zipIdx.map (fun c =>
    (⟨x.1, c.1, BitVec.ofNat 32 (if f.ty = 0 then leAt ((s.lview 4).scrRead x.2.2.1 x.2.2.2) (ldStep f * c.2) (ldStep f)
      else unpack6 (leAt ((s.lview 4).scrRead x.2.2.1 x.2.2.2) (ldStep f * c.2) (ldStep f))),
      (s.lview 4).scrPoisoned x.2.2.1 x.2.2.2⟩ : Cell)))).flatten

/-- The state in which VLDS has loaded. -/
def vldsLoaded (s : State) (f : VT) : State :=
  (s.writeDest f.d .none (6 + spanCycles (s.spans f) - ((s.spans f).length + 3) / 4) (vldsCells s f)).modEng
    (fun e => { e with busy := s.cycle + spanCycles (s.spans f) })

/-- What VLDS does behind its banks. -/
def vldsEffect (s : State) (f : VT) : Res :=
  match s.spanFault (s.spans f) with
  | some (code, ea) => .trap code ea
  | none => .done (vldsLoaded s f)

theorem exec_vlds (h : Hdr) (f : VT) (s : State) : exec (.vlds h f) s =
    runWord (.vlds h f) h s (fun s => withBanks s (s.mainRegs [f.d]) (vldsEffect s f)) := rfl

theorem exec_vlds_done {h : Hdr} {f : VT} {s : State} (hr : runs (.vlds h f) h s) (hbanks : s.banksOn (s.mainRegs [f.d]))
    (hspan : s.spanFault (s.spans f) = none) (hshad : s.here.shadUsed + 16 ≤ 2048) :
    exec (.vlds h f) s = .next (s.wordDone (s.nameBanks (banksOf (s.mainRegs [f.d])) (vldsLoaded s f))) := by
  rw [exec_vlds]
  refine runWord_done hr ?_ ?_
  · rw [withBanks_on hbanks, vldsEffect, hspan]
    rfl
  · obtain ⟨named, hn⟩ := nameBanks_eq s (vldsLoaded s f) (banksOf (s.mainRegs [f.d]))
    have hwrite := writeDest_tileWrite s f.d .none (6 + spanCycles (s.spans f) - ((s.spans f).length + 3) / 4) (vldsCells s f)
    rw [hn]
    exact panRoom_modArch (panRoom_modEng (panRoom_of_used hwrite.holdUsed (hwrite.room.trans hshad)) _) _

/-- VLDS of row 0 of v0 from the start of the scratchpad. -/
def loadWord : VT := ⟨row0, 0, 0, 0, 0, 0, 0⟩

theorem crossed_spans : crossed.spans loadWord = [(0, List.range 64, 0, 256)] := by
  rw [State.spans, State.g, crossed_eng]
  rfl

theorem crossed_spanFault : crossed.spanFault (crossed.spans loadWord) = none := by
  have hctxs : crossed.dev.ctxs = [] := by
    rw [crossed]
    rfl
  rw [crossed_spans]
  simp [State.spanFault, State.keepHit, hctxs, Config.scrBytes]

/-- Whatever it loads, the word writes row 0. -/
theorem loadWord_cells (val : Nat × List Nat × Nat × Nat → Nat × Nat → W32) (mark : Nat × List Nat × Nat × Nat → Bool) :
    ∀ x ∈ ((crossed.spans loadWord).map (fun x => x.2.1.zipIdx.map (fun c => (⟨x.1, c.1, val x c, mark x⟩ : Cell)))).flatten,
      cellPlace x < 64 := by
  intro x hx
  rw [crossed_spans, List.map_singleton, List.flatten_singleton] at hx
  obtain ⟨c, hc, rfl⟩ := List.mem_map.1 hx
  have hcol := List.mem_range.1 (List.fst_mem_of_mem_zipIdx hc)
  simpa [cellPlace] using hcol

/-- Refutes O34: VLDS of row 0 in `crossed`. -/
theorem not_vectorMemoryWords : ¬ Obligations.VectorMemoryWords := by
  unfold Obligations.VectorMemoryWords
  intro hall
  have hr : runs (.vlds ⟨0, 0, 0, 0⟩ loadWord) ⟨0, 0, 0, 0⟩ crossed := crossed_runs rfl
  have hbanks : crossed.banksOn (crossed.mainRegs [loadWord.d]) :=
    crossed_banksOn (crossed_mainRegs fun o ho => by obtain rfl := List.mem_singleton.1 ho; decide)
  have hroom : crossed.here.shadUsed + 16 ≤ 2048 := by rw [crossed_shadUsed]; decide
  obtain ⟨hlds, _⟩ := hall ⟨0, 0, 0, 0⟩ loadWord ⟨0, 0, 0, 0, 0, 0, 0, 0, 0, 0⟩ crossed
  obtain ⟨w, hexec, hwrote⟩ := hlds hr (by decide) hbanks crossed_spanFault hroom
  rw [exec_vlds_done hr hbanks crossed_spanFault hroom] at hexec
  have hsame := congrArg (fun x : State => x.arch.tiles) (Host.Outcome.next.inj hexec)
  simp only [wordDone_tiles] at hsame
  obtain ⟨named, hn⟩ := nameBanks_eq crossed (vldsLoaded crossed loadWord) (banksOf (crossed.mainRegs [loadWord.d]))
  rw [hn, arch_modArch] at hsame
  refine not_wrote_crossed (loadWord_cells _ _) ?_ hwrote
  rw [← hsame]
  exact (congrArg (Store.get 0 · 64) (modEng_tiles _ _)).trans (crossed_writeDest .none _ (loadWord_cells _ _))

end Sys2Proof.Proofs
end

section
/-! Control of the arrays (O35). -/

namespace Sys2Proof.Proofs

open Sys2Proof Sys2Proof.Machine Sys2Proof.Laws

/-! ### Arrays -/

theorem arr_modArr (a : Arch) (x y : Bool) (g : Arr → Arr) :
    (a.modArr x g).arr y = if y = x then g (a.arr y) else a.arr y := by
  cases x <;> cases y <;> rfl

/-- A change of several arrays, each once. -/
theorem arr_foldl_modArr (g : Bool → Arr → Arr) {xs : List Bool} (h : xs.Nodup) (a : Arch) (y : Bool) :
    (xs.foldl (fun a x => a.modArr x (g x)) a).arr y = if y ∈ xs then g y (a.arr y) else a.arr y := by
  induction xs generalizing a with
  | nil => rfl
  | cons x xs ih =>
    obtain ⟨hx, hxs⟩ := List.nodup_cons.1 h
    rw [List.foldl_cons, ih hxs, arr_modArr]
    by_cases hy : y = x
    · subst hy
      simp [hx]
    · simp [hy]

theorem mArrs_nodup (f : MX) : (mArrs f).Nodup := by
  unfold mArrs
  split
  · decide
  · split <;> decide

/-- Changes of arrays leave accumulators, scratchpad, the main file, leases and queues alone. -/
theorem sameData_foldl_modArr (g : Bool → Arr → Arr) (xs : List Bool) (a : Arch) :
    SameData a (xs.foldl (fun a x => a.modArr x (g x)) a) :=
  List.foldlRecOn (motive := fun b : Arch => SameData a b) xs _ ⟨rfl, rfl, rfl, rfl, rfl, rfl⟩ fun _ hb x _ =>
    hb.trans (sameData_modArr _ x (g x))

theorem arr_mIssue (s : State) (xs : List Bool) (acc load : Bool) (at' : Nat) (x : Bool) :
    (s.mIssue xs acc load at').arch.arr x = s.arch.arr x := by
  unfold State.mIssue
  rw [arch_modArch]
  cases x <;> rfl

theorem sameData_mIssue (s : State) (xs : List Bool) (acc load : Bool) (at' : Nat) :
    SameData s.arch (s.mIssue xs acc load at').arch := by
  unfold State.mIssue
  rw [arch_modArch]
  exact ⟨rfl, rfl, rfl, rfl, rfl, rfl⟩

/-! ### MCFG (R163, R176) -/

/-- What MCFG has done with the configuration of its record. -/
def configured (s : State) (f : MX) (c : ArrCfg) : State :=
  (s.modArch (fun a => (mArrs f).foldl (fun a x => a.modArr x (fun r => { r with cfg := c })) a)).mIssue (mArrs f) false false
    (s.cycle + 2)

theorem configured_arr (s : State) (f : MX) (c : ArrCfg) (x : Bool) : (configured s f c).arch.arr x =
    if x ∈ mArrs f then { s.arch.arr x with cfg := c } else s.arch.arr x := by
  rw [configured, arr_mIssue, arch_modArch]
  exact arr_foldl_modArr (fun _ r => { r with cfg := c }) (mArrs_nodup f) s.arch x

theorem configured_data (s : State) (f : MX) (c : ArrCfg) : SameData s.arch (configured s f c).arch := by
  refine SameData.trans ?_ (sameData_mIssue _ _ _ _ _)
  rw [arch_modArch]
  exact sameData_foldl_modArr (fun _ r => { r with cfg := c }) (mArrs f) s.arch

/-- The effect of MCFG once its record has passed the checks of its range and of poison. -/
def mcfgEffect (s : State) (f : MX) : Res :=
  match mcfgRecord ((s.lview 4).scrRead (mSpa f) 64) with
  | none => .trap Code.reservedField none
  | some c => .done (configured s f c)

theorem exec_mcfg (h : Hdr) (f : MX) (s : State) : exec (.mcfg h f) s = execMcfg h f s := rfl

theorem exec_mcfg_checked {h : Hdr} {f : MX} {s : State} (hr : runs (.mcfg h f) h s)
    (hrange : s.mRangeFault [⟨mSpa f, 0, 1, 64⟩] = none) (hpoison : s.arch.scrPoisoned (mSpa f) 64 = false) :
    exec (.mcfg h f) s = .next (s.finish (mcfgEffect s f)) := by
  rw [exec_mcfg, execMcfg, runWord_runs hr]
  simp only [hrange, hpoison, Bool.false_eq_true, if_false]
  rfl

theorem exec_mcfg_done {h : Hdr} {f : MX} {s : State} {c : ArrCfg} (hr : runs (.mcfg h f) h s)
    (hrange : s.mRangeFault [⟨mSpa f, 0, 1, 64⟩] = none) (hpoison : s.arch.scrPoisoned (mSpa f) 64 = false)
    (hrec : mcfgRecord ((s.lview 4).scrRead (mSpa f) 64) = some c) :
    exec (.mcfg h f) s = .next (s.wordDone (configured s f c)) := by
  have hroom : panRoom s (configured s f c) := panRoom_modArch (panRoom_modArch (panRoom_refl s) _) _
  rw [exec_mcfg_checked hr hrange hpoison, mcfgEffect, hrec]
  exact congrArg _ (finish_done hroom)

theorem exec_mcfg_bad {h : Hdr} {f : MX} {s : State} (hr : runs (.mcfg h f) h s)
    (hrange : s.mRangeFault [⟨mSpa f, 0, 1, 64⟩] = none) (hpoison : s.arch.scrPoisoned (mSpa f) 64 = false)
    (hrec : mcfgRecord ((s.lview 4).scrRead (mSpa f) 64) = none) :
    exec (.mcfg h f) s = .next (s.trap Code.reservedField none) := by
  rw [exec_mcfg_checked hr hrange hpoison, mcfgEffect, hrec]
  rfl

/-! ### MSWAP (R165) -/

/-- The planes of the arrays that the word names are exchanged. -/
def swapped (s : State) (f : MX) : State :=
  s.modArch (fun a => (mArrs f).foldl (fun a x => a.modArr x (fun r => { r with stat1 := !r.stat1 })) a)

theorem swapped_arr {s : State} {f : MX} {x : Bool} (hx : x ∈ mArrs f) :
    (swapped s f).arch.arr x = { s.arch.arr x with stat1 := !(s.arch.arr x).stat1 } := by
  rw [swapped, arch_modArch]
  exact (arr_foldl_modArr (fun _ r => { r with stat1 := !r.stat1 }) (mArrs_nodup f) s.arch x).trans (if_pos hx)

theorem swapped_data (s : State) (f : MX) : SameData s.arch (swapped s f).arch := by
  rw [swapped, arch_modArch]
  exact sameData_foldl_modArr (fun _ r => { r with stat1 := !r.stat1 }) (mArrs f) s.arch

/-- Of an array whose planes are not joined the stationary plane is the one that is not the shadow. -/
theorem planes_of_swap {r : Arr} (hj : r.joined = false) :
    ({ r with stat1 := !r.stat1 } : Arr).stationary = r.shadow ∧ ({ r with stat1 := !r.stat1 } : Arr).shadow = r.stationary := by
  simp [Arr.stationary, Arr.shadow, Arr.plane, hj]

theorem exec_mswap (h : Hdr) (f : MX) (s : State) : exec (.mswap h f) s = execMswap h f s := rfl

theorem exec_mswap_done {h : Hdr} {f : MX} {s : State} (hr : runs (.mswap h f) h s)
    (hready : ∀ x ∈ mArrs f, (s.arch.arr x).joined = false ∧ (s.arch.arr x).shadow.st ≠ .needmeta ∧
      (s.arch.arr x).loading = false ∧ (s.arch.arr x).portStream ≤ s.cycle) :
    exec (.mswap h f) s = .next (s.wordDone (swapped s f)) := by
  have hfault : (mArrs f).any (fun x => (s.arch.arr x).joined || (s.arch.arr x).shadow.st = .needmeta) = false :=
    List.any_eq_false.2 fun x hx => by
      obtain ⟨hj, hst, _, _⟩ := hready x hx
      simp [hj, hst]
  have hheld : (mArrs f).any (fun x => (s.arch.arr x).loading || decide (s.cycle < (s.arch.arr x).portStream)) = false :=
    List.any_eq_false.2 fun x hx => by
      obtain ⟨_, _, hl, hport⟩ := hready x hx
      simp [hl, hport]
  rw [exec_mswap, execMswap]
  refine runWord_done hr ?_ (panRoom_modArch (panRoom_refl s) _)
  simp only [hfault, hheld, Bool.false_eq_true, if_false]
  rfl

/-! ### MFIN (R181) -/

/-- A word in flight for which MFIN waits. -/
def finAwaits (s : State) (f : MX) (m : MFlight) : Bool :=
  decide (s.cycle < m.doneAt) && (m.accForm || (m.m0 && (mArrs f).contains false) || (m.m1 && (mArrs f).contains true))

theorem exec_mfin (h : Hdr) (f : MX) (s : State) : exec (.mfin h f) s =
    runWord (.mfin h f) h s (fun s => if s.arch.mflight.any (finAwaits s f) then .stall s else .done s) := rfl

theorem exec_mfin_retired {h : Hdr} {f : MX} {s : State} (hr : runs (.mfin h f) h s)
    (hfin : ∀ m ∈ s.arch.mflight, m.doneAt ≤ s.cycle) : exec (.mfin h f) s = .next (s.wordDone s) := by
  have hnone : s.arch.mflight.any (finAwaits s f) = false :=
    List.any_eq_false.2 fun m hm => by simp [finAwaits, hfin m hm]
  rw [exec_mfin]
  refine runWord_done hr ?_ (panRoom_refl s)
  simp [hnone]

theorem exec_mfin_waits {h : Hdr} {f : MX} {s : State} (hr : runs (.mfin h f) h s)
    (hfly : ∃ m ∈ s.arch.mflight, s.cycle < m.doneAt ∧ m.accForm = true) : exec (.mfin h f) s = .next s.stalledNow := by
  obtain ⟨m, hm, hlate, hacc⟩ := hfly
  have hsome : s.arch.mflight.any (finAwaits s f) = true :=
    List.any_eq_true.2 ⟨m, hm, by simp [finAwaits, hlate, hacc]⟩
  rw [exec_mfin]
  exact runWord_stall hr (by simp [hsome])

/-! ### Handler mode (R175) -/

/-- The M words. -/
def matrixWords (h : Hdr) (f : MX) : List Instr := [.mcfg h f, .mldw h f, .mldwq h f, .mswap h f, .mstr h f, .mstrq h f,
  .mmv h f, .mspm h f, .macz h f, .macrd h f, .macst h f, .macld h f, .mfin h f]

section MatrixWords

variable {h : Hdr} {f : MX} {i : Instr} (hi : i ∈ matrixWords h f)
include hi

theorem exec_matrixWord (s : State) : ∃ eff, exec i s = runWord i h s eff := by
  simp only [matrixWords, List.mem_cons, List.not_mem_nil, or_false] at hi
  rcases hi with rfl | rfl | rfl | rfl | rfl | rfl | rfl | rfl | rfl | rfl | rfl | rfl | rfl
  all_goals
    unfold exec
    exact ⟨_, rfl⟩

theorem check2_matrixWord {e : Eng} (hh : e.inHandler = true) : check2 i e = some Code.matrixInHandler := by
  simp only [matrixWords, List.mem_cons, List.not_mem_nil, or_false] at hi
  rcases hi with rfl | rfl | rfl | rfl | rfl | rfl | rfl | rfl | rfl | rfl | rfl | rfl | rfl <;> exact if_pos hh

theorem exec_matrixWord_in_handler {s : State} (hh : s.eng.inHandler = true) :
    exec i s = .next (s.trap Code.matrixInHandler none) := by
  obtain ⟨eff, he⟩ := exec_matrixWord hi s
  rw [he, runWord_check2 (check2_matrixWord hi hh)]

end MatrixWords

/-! ### The obligation -/

/-- Settles O35: each word is one update of the arrays it names, which moves no data, or waits, or traps. -/
theorem arrayControlWords : Obligations.ArrayControlWords := by
  unfold Obligations.ArrayControlWords
  intro h f s
  refine ⟨fun c hr hrange hpoison hrec => ⟨_, exec_mcfg_done hr hrange hpoison hrec, fun x hx => ?_, fun x hx => ?_,
    (configured_data s f c).acc, (configured_data s f c).scr⟩, exec_mcfg_bad, fun hr hready => ⟨_, exec_mswap_done hr hready,
    fun x hx => ?_, (swapped_data s f).acc, (swapped_data s f).scr⟩, exec_mfin_retired, exec_mfin_waits,
    fun i hi hh => exec_matrixWord_in_handler hi hh⟩
  · rw [configured_arr, if_pos hx]
  · rw [configured_arr, if_neg hx]
  · rw [swapped_arr hx]
    exact planes_of_swap (hready x hx).1

end Sys2Proof.Proofs
end

section
/-! MACZ and MACLD (O38): each is a run of `Core.accPut`. MACLD reads its words as one run of bytes; in a scratchpad of the
canonical form (`Store.wf`) these are the bytes read word by word. -/

namespace Sys2Proof.Proofs

open Sys2Proof Sys2Proof.Machine Sys2Proof.Laws

/-! ### Lists in chunks, and stores written chunk by chunk -/

theorem chunks_eq {α : Type} {n : Nat} (hn : 0 < n) {m fuel : Nat} (hm : m ≤ fuel) {xs : List α} (hlen : xs.length = n * m) :
    chunks n fuel xs = (List.range m).map (fun i => (xs.drop (n * i)).take n) := by
  induction m generalizing fuel xs with
  | zero =>
    obtain rfl : xs = [] := List.length_eq_zero_iff.1 hlen
    cases fuel <;> rfl
  | succ m ih =>
    obtain ⟨fuel, rfl⟩ : ∃ k, fuel = k + 1 := ⟨fuel - 1, by omega⟩
    have hpos : 0 < xs.length := by rw [hlen]; positivity
    have hrest : (xs.drop n).length = n * m := by rw [List.length_drop, hlen, Nat.mul_succ]; omega
    rw [chunks, if_neg (by simpa using List.ne_nil_of_length_pos hpos), ih (by omega) hrest, List.range_succ_eq_map, List.map_cons,
      List.map_map]
    simp only [List.drop_drop, Function.comp_def, Nat.mul_zero, List.drop_zero, Nat.mul_succ, Nat.add_comm]

/-- Consecutive blocks of one length: each place takes its own block's value. -/
theorem get_foldl_put {α : Type} [DecidableEq α] (d : α) (st : Store α) (base : Nat) {w : Nat} (hw : 0 < w) (blk : Nat → List α) {m : Nat}
    (hblk : ∀ i < m, (blk i).length = w) (k : Nat) :
    Store.get d ((List.range m).foldl (fun st i => Store.put d st (base + w * i) (blk i)) st) k =
      if base ≤ k ∧ k < base + w * m then (blk ((k - base) / w)).getD ((k - base) % w) d else Store.get d st k := by
  induction m with
  | zero => rw [if_neg (by omega)]; rfl
  | succ m ih =>
    rw [List.range_succ, List.foldl_append, List.foldl_cons, List.foldl_nil, get_put, hblk m (Nat.lt_succ_self m),
      ih fun i hi => hblk i (Nat.lt_succ_of_lt hi)]
    by_cases hk : base + w * m ≤ k ∧ k < base + w * m + w
    · obtain ⟨j, rfl⟩ : ∃ j, k = base + (w * m + j) := ⟨k - base - w * m, by omega⟩
      have hj : j < w := by omega
      rw [if_pos hk, if_pos ⟨by omega, by rw [Nat.mul_succ]; omega⟩, Nat.add_sub_cancel_left, Nat.mul_add_div hw,
        Nat.div_eq_of_lt hj, Nat.add_zero, Nat.mul_add_mod, Nat.mod_eq_of_lt hj, ← Nat.add_assoc, Nat.add_sub_cancel_left]
    · rw [if_neg hk]
      by_cases hin : base ≤ k ∧ k < base + w * m
      · rw [if_pos hin, if_pos ⟨hin.1, by rw [Nat.mul_succ]; omega⟩]
      · rw [if_neg hin, if_neg (by rw [Nat.mul_succ]; omega)]

theorem foldl_zipIdx_map_range {α β : Type} (g : β → α × Nat → β) (f : Nat → α) (m : Nat) (b : β) :
    ((List.range m).map f).zipIdx.foldl g b = (List.range m).foldl (fun b i => g b (f i, i)) b := by
  have hzip : ((List.range m).map f).zipIdx = (List.range m).map (fun i => (f i, i)) :=
    List.ext_getElem (by simp) fun i _ _ => by simp
  rw [hzip, List.foldl_map]

/-! ### The readout port (R182) -/

theorem accIssue_sameData (s : State) (n late : Nat) : SameData s.arch (s.accIssue n late).arch := by
  refine SameData.trans ?_ (sameData_mIssue _ _ _ _ _)
  rw [arch_modArch]
  exact ⟨rfl, rfl, rfl, rfl, rfl, rfl⟩

theorem panRoom_accIssue {s t : State} (h : panRoom s t) (n late : Nat) : panRoom s (t.accIssue n late) :=
  panRoom_modArch (panRoom_modArch h _) _

/-! ### MACZ (R179) -/

/-- The state in which MACZ has cleared its containers. -/
def accCleared (s : State) (f : MX) : State :=
  s.modHere (fun c => c.accPut (mAcc f) (List.replicate (mCount f) 0) false false)

theorem exec_macz (h : Hdr) (f : MX) (s : State) : exec (.macz h f) s = execMacz h f s := rfl

theorem exec_macz_done {h : Hdr} {f : MX} {s : State} (hfree : s.accHeld = false) (hr : runs (.macz h f) h s)
    (hend : mAcc f + mCount f ≤ 2 ^ 20) (hroom : panRoom s (accCleared s f)) :
    exec (.macz h f) s = .next (s.wordDone ((accCleared s f).accIssue (f.tile.toNat + 1) 2)) := by
  rw [exec_macz, execMacz]
  refine runWord_done hr ?_ (panRoom_accIssue hroom _ _)
  rw [if_neg (Nat.not_lt.2 hend), hfree]
  rfl

theorem accCleared_scr (s : State) (f : MX) : (accCleared s f).arch.scr = s.arch.scr := by
  rw [accCleared, State.arch, here_modHere]
  exact (accPut_accOnly _ _ _ _ _).same.1

theorem get_accCleared (s : State) (f : MX) (k : Nat) : Store.get 0 (accCleared s f).arch.acc k =
    if mAcc f ≤ k ∧ k < mAcc f + mCount f then 0 else Store.get 0 s.arch.acc k := by
  rw [accCleared, State.arch, here_modHere, accPut_acc, get_put, List.length_replicate]
  by_cases hk : mAcc f ≤ k ∧ k < mAcc f + mCount f
  · rw [if_pos hk, if_pos hk, List.getD_replicate _ (by omega)]
  · rw [if_neg hk, if_neg hk]
    rfl

/-! ### MACLD (R180) -/

/-- The container that MACLD takes from number k of the words in the bytes that it has read. -/
def wordOf (bs : List Byte) (k : Nat) : W32 := BitVec.ofNat 32 (bytesNat ((bs.drop (4 * k)).take 4))

/-- The core with the bytes of a MACLD in its accumulators, 256 bytes at a time. -/
def accLoaded (f : MX) (bs : List Byte) (c : Core) : Core :=
  (chunks 256 (mCount f) bs).zipIdx.foldl (fun (c : Core) p =>
    c.accPut (mAcc f + 64 * p.2) ((chunks 4 65 p.1).map (fun b => BitVec.ofNat 32 (bytesNat b))) false true) c

theorem chunk_words {bs : List Byte} {i : Nat} (hlen : 256 * i + 256 ≤ bs.length) :
    (chunks 4 65 ((bs.drop (256 * i)).take 256)).map (fun b => BitVec.ofNat 32 (bytesNat b)) =
      (List.range 64).map (fun j => wordOf bs (64 * i + j)) := by
  rw [chunks_eq (n := 4) (m := 64) (by decide) (by decide) (by rw [List.length_take, List.length_drop]; omega), List.map_map]
  refine List.map_congr_left fun j hj => ?_
  have := List.mem_range.1 hj
  rw [Function.comp_apply, wordOf, List.drop_take, List.take_take, List.drop_drop, Nat.min_eq_left (by omega)]
  congr 5
  omega

theorem accLoaded_acc {f : MX} {bs : List Byte} (hlen : bs.length = 4 * mCount f) (c : Core) :
    (accLoaded f bs c).arch.acc = (List.range (16 * (f.tile.toNat + 1))).foldl (fun st i =>
      Store.put 0 st (mAcc f + 64 * i) ((List.range 64).map (fun j => wordOf bs (64 * i + j)))) c.arch.acc := by
  have hcount : mCount f = 64 * (16 * (f.tile.toNat + 1)) := by rw [mCount]; ring
  rw [accLoaded, chunks_eq (n := 256) (m := 16 * (f.tile.toNat + 1)) (by decide) (by omega) (by omega), foldl_zipIdx_map_range]
  refine (List.foldl_hom (fun c : Core => c.arch.acc) (g₂ := fun st i => Store.put 0 st (mAcc f + 64 * i)
    ((chunks 4 65 ((bs.drop (256 * i)).take 256)).map (fun b => BitVec.ofNat 32 (bytesNat b))))
    fun c i => (accPut_acc _ _ _ _ _).symm).symm.trans ?_
  refine List.foldl_ext _ _ _ fun st i hi => ?_
  have := List.mem_range.1 hi
  rw [chunk_words (by omega)]

theorem get_accLoaded {f : MX} {bs : List Byte} (hlen : bs.length = 4 * mCount f) (c : Core) (k : Nat) :
    Store.get 0 (accLoaded f bs c).arch.acc k =
      if mAcc f ≤ k ∧ k < mAcc f + mCount f then wordOf bs (k - mAcc f) else Store.get 0 c.arch.acc k := by
  have hcount : 64 * (16 * (f.tile.toNat + 1)) = mCount f := by rw [mCount]; ring
  rw [accLoaded_acc hlen, get_foldl_put 0 _ _ (by decide) _ (fun _ _ => by simp), hcount]
  refine if_congr Iff.rfl ?_ rfl
  rw [List.getD_eq_getElem _ _ (by simpa using Nat.mod_lt _ (by decide)), List.getElem_map, List.getElem_range, Nat.div_add_mod]

theorem accLoaded_accOnly (f : MX) (bs : List Byte) (c : Core) : AccOnly c.arch (accLoaded f bs c).arch :=
  accOnly_foldl _ (fun _ _ => accPut_accOnly _ _ _ _ _) _ _

/-- The marks that n KiB of scratchpad leave on the accumulators (R185). -/
def macldMarks (s : State) (f : MX) (n : Nat) (a : Arch) : Arch :=
  (List.range n).foldl (fun b k =>
    { b with accP := markWrite b.accP 256 (mAcc f + 256 * k) 256 (s.arch.scrPoisoned (mSpa f + 1024 * k) 1024) }) a

theorem macldMarks_same (s : State) (f : MX) (n : Nat) (a : Arch) :
    (macldMarks s f n a).acc = a.acc ∧ (macldMarks s f n a).scr = a.scr :=
  List.foldlRecOn (motive := fun b : Arch => b.acc = a.acc ∧ b.scr = a.scr) _ _ ⟨rfl, rfl⟩ fun _ hb _ _ => hb

/-- The bytes that MACLD reads. -/
def macldBytes (s : State) (f : MX) : List Byte := (s.lview 4).scrRead (mSpa f) (4 * mCount f)

/-- The state of MACLD before its issue is noted. -/
def macldDone (s : State) (f : MX) : State :=
  ((s.modHere (accLoaded f (macldBytes s f))).modArch (macldMarks s f (mCount f / 256))).modArch
    (fun a => a.lease [⟨mSpa f, 0, 1, 4 * mCount f⟩] (s.cycle + mCount f / 256))

theorem exec_macld (h : Hdr) (f : MX) (s : State) : exec (.macld h f) s = execMacld h f s := rfl

theorem exec_macld_done {h : Hdr} {f : MX} {s : State} (hfree : s.accHeld = false) (hr : runs (.macld h f) h s)
    (hend : mAcc f + mCount f ≤ 2 ^ 20) (hrange : s.mRangeFault [⟨mSpa f, 0, 1, 4 * mCount f⟩] = none)
    (hlease : s.arch.leaseLack 1 = false) (hroom : s.here.panLacks (accLoaded f (macldBytes s f) s.here) = false) :
    exec (.macld h f) s = .next (s.wordDone ((macldDone s f).accIssue (mCount f / 256) 8)) := by
  rw [exec_macld, execMacld]
  refine runWord_done hr ?_ (panRoom_accIssue (panRoom_modArch (panRoom_modArch ?_ _) _) _ _)
  · simp only [hrange, if_neg (Nat.not_lt.2 hend), hfree, hlease, Bool.false_eq_true, or_self, if_false]
    rfl
  · rw [panRoom, here_modHere]
    exact hroom

theorem macldDone_same (s : State) (f : MX) : (macldDone s f).arch.acc = (accLoaded f (macldBytes s f) s.here).arch.acc ∧
    (macldDone s f).arch.scr = s.arch.scr := by
  obtain ⟨hacc, hscr⟩ := macldMarks_same s f (mCount f / 256) (accLoaded f (macldBytes s f) s.here).arch
  rw [macldDone, arch_modArch, arch_modArch, State.arch, here_modHere]
  exact ⟨hacc, hscr.trans (accLoaded_accOnly f _ s.here).same.1⟩

/-- In a scratchpad of the canonical form a word of a run is the word read by itself. -/
theorem wordOf_run {st : Store Byte} (hcanon : Store.wf 0 st = true) (a : Nat) {k n : Nat} (hk : k < n) :
    wordOf (Store.run 0 st a (4 * n)) k = BitVec.ofNat 32 (bytesNat (Store.run 0 st (a + 4 * k) 4)) := by
  rw [wordOf, run_get _ _ _ _ hcanon, run_get _ _ _ _ hcanon, ← List.map_drop, ← List.map_take]
  congr 2
  refine List.ext_getElem (by simp; omega) fun i _ _ => ?_
  simp only [List.getElem_map, List.getElem_take, List.getElem_drop, List.getElem_range, Nat.add_assoc]

theorem get_macldDone (s : State) (f : MX) (k : Nat) : Store.get 0 (macldDone s f).arch.acc k =
    if mAcc f ≤ k ∧ k < mAcc f + mCount f then wordOf (macldBytes s f) (k - mAcc f) else Store.get 0 s.arch.acc k := by
  rw [(macldDone_same s f).1]
  exact get_accLoaded (run_length _ _ _ _) s.here k

/-! ### What remains true of O38 -/

/-- MACZ clears its containers and no others. -/
theorem macz_clears {h : Hdr} {f : MX} {s : State} (hfree : s.accHeld = false) (hr : runs (.macz h f) h s)
    (hend : mAcc f + mCount f ≤ 2 ^ 20) (hroom : panRoom s (accCleared s f)) :
    ∃ u : State, exec (.macz h f) s = .next (s.wordDone u) ∧ u.arch.scr = s.arch.scr ∧
      ∀ k, Store.get 0 u.arch.acc k = if mAcc f ≤ k ∧ k < mAcc f + mCount f then 0 else Store.get 0 s.arch.acc k := by
  refine ⟨_, exec_macz_done hfree hr hend hroom, ?_, fun k => ?_⟩
  · rw [(accIssue_sameData _ _ _).scr, accCleared_scr]
  · rw [(accIssue_sameData _ _ _).acc, get_accCleared]

/-- MACLD from a scratchpad of the canonical form: its containers take the words in order, the others stay. -/
theorem macld_loads {h : Hdr} {f : MX} {s : State} (hcanon : Store.wf 0 (s.lview 4).scr = true) (hfree : s.accHeld = false)
    (hr : runs (.macld h f) h s) (hend : mAcc f + mCount f ≤ 2 ^ 20) (hrange : s.mRangeFault [⟨mSpa f, 0, 1, 4 * mCount f⟩] = none)
    (hlease : s.arch.leaseLack 1 = false) (hroom : s.here.panLacks (accLoaded f (macldBytes s f) s.here) = false) :
    ∃ u : State, exec (.macld h f) s = .next (s.wordDone u) ∧ u.arch.scr = s.arch.scr ∧
      (∀ k, k < mCount f → Store.get 0 u.arch.acc (mAcc f + k) =
        BitVec.ofNat 32 (bytesNat ((s.lview 4).scrRead (mSpa f + 4 * k) 4))) ∧
      ∀ k, k < mAcc f ∨ mAcc f + mCount f ≤ k → Store.get 0 u.arch.acc k = Store.get 0 s.arch.acc k := by
  refine ⟨_, exec_macld_done hfree hr hend hrange hlease hroom, ?_, fun k hk => ?_, fun k hk => ?_⟩
  · rw [(accIssue_sameData _ _ _).scr, (macldDone_same s f).2]
  · rw [(accIssue_sameData _ _ _).acc, get_macldDone, if_pos (by omega), Nat.add_sub_cancel_left]
    exact wordOf_run hcanon _ hk
  · rw [(accIssue_sameData _ _ _).acc, get_macldDone, if_neg (by omega)]

end Sys2Proof.Proofs
end

section
/-! Refutation of O38 in its clause of MACLD. The statement reads the words of scratchpad one by one, the model all bytes at
once, and no hypothesis asks for a scratchpad of the canonical form (`Store.wf`), in which the two agree (`macld_loads`). -/

namespace Sys2Proof.Proofs

open Sys2Proof Sys2Proof.Machine Sys2Proof.Laws

/-! ### What the retirement of a word leaves alone -/

/-- What no engine's registers enter is as the word's effect left it when the word retires. -/
theorem wordDone_keeps {β : Type} {p : Arch → β} (hp : ∀ a th e, p (a.setEng th e) = p a) (s t : State) :
    p (s.wordDone t).arch = p t.arch := by
  have heng : ∀ (u : State) (f : Eng → Eng), p (u.modEng f).arch = p u.arch := fun u f => by
    rw [State.modEng, arch_modArch, Arch.modEng, hp]
  have hslot : ∀ u : State, p (u.modHere (fun c => c.slotUsed u.cur.th u.cycle)).arch = p u.arch := fun u => by
    rw [State.arch, here_modHere]
    exact hp u.arch .c _
  rw [wordDone_eq, State.retire, heng, hslot, heng]

theorem wordDone_acc (s t : State) : (s.wordDone t).arch.acc = t.arch.acc :=
  wordDone_keeps (p := Arch.acc) (fun _ th _ => by cases th <;> rfl) s t

theorem wordDone_arr (s t : State) (x : Bool) : (s.wordDone t).arch.arr x = t.arch.arr x :=
  wordDone_keeps (p := fun a => a.arr x) (fun _ th _ => by cases th <;> rfl) s t

/-- Two states in which a word may have left its core agree in the accumulators when the machine goes on to one state. -/
theorem acc_of_wordDone {s t u : State} (h : s.wordDone t = s.wordDone u) : t.arch.acc = u.arch.acc := by
  rw [← wordDone_acc s t, h, wordDone_acc]

theorem arr_of_wordDone {s t u : State} (h : s.wordDone t = s.wordDone u) (x : Bool) : t.arch.arr x = u.arch.arr x := by
  rw [← wordDone_arr s t, h, wordDone_arr]

/-! ### An idle region notes nothing (R341) -/

theorem shadeRun_idle {c : Core} (h : c.region = .idle) (st : StoreId) (w : Writer) (gran first n : Nat) :
    c.shadeRun st w gran first n = c := by
  unfold Core.shadeRun
  split
  · rfl
  · exact List.foldlRecOn (motive := fun d : Core => d = c) _ _ rfl fun d hd _ _ => by
      subst hd
      exact if_pos (.inl h)

theorem accPut_idle {c : Core} (h : c.region = .idle) (k : Nat) (vs : List W32) (po keep : Bool) :
    ∃ a : Arch, c.accPut k vs po keep = { c with arch := a } := by
  rw [Core.accPut, shadeRun_idle h]
  exact ⟨_, rfl⟩

theorem accLoaded_idle {c : Core} (h : c.region = .idle) (f : MX) (bs : List Byte) :
    ∃ a : Arch, accLoaded f bs c = { c with arch := a } :=
  List.foldlRecOn (motive := fun d : Core => ∃ a : Arch, d = { c with arch := a }) _ _ ⟨c.arch, rfl⟩ fun d hd p _ => by
    obtain ⟨a, rfl⟩ := hd
    exact accPut_idle (c := { c with arch := a }) h _ _ _ _

theorem panLacks_arch (c : Core) (a : Arch) : c.panLacks { c with arch := a } = false := by
  simp [Core.panLacks, Core.shadUsed, Core.holdUsed]

/-! ### A scratchpad out of order -/

/-- Bytes 4 and 0, not in the order of their places. -/
def crossedBytes : Store Byte := [(4, 1), (0, 7)]

/-- A plane of INT8 operands that waits for its masks. -/
def maskless : Plane := { Plane.reset with st := .needmeta, ta := 0x15, tb := 0x15, sp := 1 }

/-- M after reset with that scratchpad and that shadow plane. -/
@[irreducible] def mCrossed : State := { State.reset with cur := ⟨0, .m⟩ }.modArch (fun a =>
  { a with scr := crossedBytes, m0 := { a.m0 with p1 := maskless } })

theorem mCrossed_here : mCrossed.here = Core.reset.modArch (fun a =>
    { a with scr := crossedBytes, m0 := { a.m0 with p1 := maskless } }) := by
  rw [mCrossed, here_modArch]
  exact congrArg (fun c : Core => c.modArch (fun a => { a with scr := crossedBytes, m0 := { a.m0 with p1 := maskless } }))
    (core_reset 0)

theorem mCrossed_arch : mCrossed.arch =
    { Arch.reset with scr := crossedBytes, m0 := { Arr.reset with p1 := maskless } } := congrArg Core.arch mCrossed_here

theorem mCrossed_cur : mCrossed.cur = ⟨0, .m⟩ := by
  rw [mCrossed]
  rfl

theorem mCrossed_cycle : mCrossed.cycle = 0 := by
  rw [mCrossed]
  rfl

theorem mCrossed_eng : mCrossed.eng = Eng.reset false := by
  rw [State.eng, mCrossed_arch, mCrossed_cur]
  rfl

theorem mCrossed_runs {i : Instr} (h : check2 i (Eng.reset false) = none) : runs i ⟨0, 0, 0, 0⟩ mCrossed := by
  refine ⟨by rw [mCrossed_eng]; exact h, ?_⟩
  rw [State.live, mCrossed_eng, mCrossed_here]
  rfl

theorem mCrossed_lview (n : Nat) : mCrossed.lview n = mCrossed.arch := by
  rw [State.lview, Arch.seen, mCrossed_arch]
  exact if_pos rfl

/-- A range of one row within scratchpad is no other context's. -/
theorem mCrossed_range {a p n : Nat} (h : a + n ≤ 8388608) : mCrossed.mRangeFault [⟨a, p, 1, n⟩] = none := by
  have hctxs : mCrossed.dev.ctxs = [] := by
    rw [mCrossed]
    rfl
  simp [State.mRangeFault, State.keepHit, MRange.row, Config.scrBytes, hctxs, h]

/-! ### MACLD of its first 4 KiB -/

/-- MACLD of 1,024 containers from the start of scratchpad. -/
def loadAll : MX := ⟨0, 0, 0, 0, 0, 0, 0, 0, 0, 0, 0, 0⟩

/-- Refutes O38: MACLD reads its 4 KiB as one run, in which byte 0 of `mCrossed` reads as 0; byte 0 alone reads as 7. -/
theorem not_accumulatorWords : ¬ Obligations.AccumulatorWords := by
  unfold Obligations.AccumulatorWords
  intro hall
  have hfree : mCrossed.accHeld = false := by
    rw [State.accHeld, mCrossed_cycle, mCrossed_arch]
    rfl
  have hr : runs (.macld ⟨0, 0, 0, 0⟩ loadAll) ⟨0, 0, 0, 0⟩ mCrossed := mCrossed_runs rfl
  have hrange : mCrossed.mRangeFault [⟨mSpa loadAll, 0, 1, 4 * mCount loadAll⟩] = none := mCrossed_range (by decide)
  have hlease : mCrossed.arch.leaseLack 1 = false := by rw [mCrossed_arch]; rfl
  have hroom : mCrossed.here.panLacks (accLoaded loadAll (macldBytes mCrossed loadAll) mCrossed.here) = false := by
    obtain ⟨a, ha⟩ := accLoaded_idle (c := mCrossed.here) (by rw [mCrossed_here]; rfl) loadAll (macldBytes mCrossed loadAll)
    rw [ha, panLacks_arch]
  obtain ⟨_, hmacld, _⟩ := hall ⟨0, 0, 0, 0⟩ loadAll mCrossed hfree
  obtain ⟨u, hexec, _, hacc⟩ := hmacld _ hr (by decide) hrange hlease rfl hroom
  rw [exec_macld_done hfree hr (by decide) hrange hlease hroom] at hexec
  have hsame := acc_of_wordDone (Host.Outcome.next.inj hexec)
  have hzero := hacc 0 (by decide)
  rw [← hsame, (accIssue_sameData _ _ _).acc, get_macldDone, macldBytes, mCrossed_lview, mCrossed_arch] at hzero
  exact absurd hzero (by decide)

end Sys2Proof.Proofs
end

section
/-! MSPM puts the masks of a sparse plane as the run of bytes that it reads (R167, R173). In a scratchpad whose cells are not
in the order of their places a run and the single bytes differ, and there O36 fails in its clause of MSPM. -/

namespace Sys2Proof.Proofs

open Sys2Proof Sys2Proof.Machine Sys2Proof.Laws

theorem shadow_setPlane (r : Arr) (p : Plane) : (r.setPlane (!r.stat1) p).shadow = p := by
  unfold Arr.setPlane Arr.shadow Arr.plane
  cases r.stat1 <;> rfl

/-- The masks of an array that MSPM reads. -/
def maskBytes (s : State) (f : MX) (x : Bool) : List Byte :=
  (s.lview 4).scrRead (mSpa f + (if mBoth f && x then mMaskBytes f else 0)) (mMaskBytes f)

/-- The core that has noted the mask granules of the shadow planes (R351). -/
def masksNoted (f : MX) (c : Core) : Core :=
  (mArrs f).foldl (fun c x =>
    let k := !(c.arch.arr x).stat1
    (List.range ((mMaskBytes f + 511) / 512)).foldl (fun c g =>
      c.shade .plane .own ((if x then 512 else 0) + (if k then 256 else 0) + 96 + g)) c) c

/-- The cycles that MSPM takes for the masks of an array. -/
def maskCycles (f : MX) : Nat := (mMaskBytes f + 255) / 256

/-- One array's shadow plane with the masks read. -/
def maskPut (s : State) (f : MX) (b : Arch) (x : Bool) : Arch :=
  b.modArr x (fun m => ({ m with portLoad := s.cycle + maskCycles f } : Arr).setPlane (!m.stat1)
    { m.shadow with masks := Store.put 0 [] 0 (maskBytes s f x)
                    loadDone := some (s.cycle + maskCycles f)
                    poison := m.shadow.poison || b.scrPoisoned (mSpa f + (if mBoth f && x then mMaskBytes f else 0)) (mMaskBytes f) })

/-- The state of MSPM before its issue is noted. -/
def maskLoaded (s : State) (f : MX) : State :=
  (s.modHere (masksNoted f)).modArch (fun b =>
    ((mArrs f).foldl (maskPut s f) b).lease [⟨mSpa f, 0, 1, mMaskBytes f * (mArrs f).length⟩] (s.cycle + maskCycles f))

theorem exec_mspm (h : Hdr) (f : MX) (s : State) : exec (.mspm h f) s = execMspm h f s := rfl

theorem exec_mspm_done {h : Hdr} {f : MX} {s : State} (hr : runs (.mspm h f) h s)
    (hrange : s.mRangeFault [⟨mSpa f, 0, 1, mMaskBytes f * (mArrs f).length⟩] = none)
    (hready : ∀ x ∈ mArrs f, (s.arch.arr x).joined = false ∧ (s.arch.arr x).shadow.st = .needmeta ∧
      (s.arch.arr x).shadow.ta = f.ta ∧ (s.arch.arr x).shadow.tb = f.tb ∧ (s.arch.arr x).shadow.sp = f.sp ∧
      (s.arch.arr x).portLoad ≤ s.cycle) (hlease : s.arch.leaseLack 1 = false)
    (hroom : s.here.panLacks (masksNoted f s.here) = false) :
    exec (.mspm h f) s = .next (s.wordDone ((maskLoaded s f).mIssue (mArrs f) false true (s.cycle + maskCycles f + 4))) := by
  have hfits : (mArrs f).all (fun x => !(s.arch.arr x).joined &&
      ((s.arch.arr x).shadow.st = .loading || (s.arch.arr x).shadow.st = .needmeta) && (s.arch.arr x).shadow.ta = f.ta &&
      (s.arch.arr x).shadow.tb = f.tb && (s.arch.arr x).shadow.sp = f.sp) = true :=
    List.all_eq_true.2 fun x hx => by
      obtain ⟨hj, hst, hta, htb, hsp, _⟩ := hready x hx
      simp [hj, hst, hta, htb, hsp]
  have hfree : (mArrs f).any (fun x => (s.arch.arr x).loading || decide (s.cycle < (s.arch.arr x).portLoad)) = false :=
    List.any_eq_false.2 fun x hx => by
      obtain ⟨hj, hst, _, _, _, hport⟩ := hready x hx
      simp [Arr.loading, hj, hst, hport]
  have hpan : panRoom s (s.modHere (masksNoted f)) := by
    rw [panRoom, here_modHere]
    exact hroom
  rw [exec_mspm, execMspm]
  refine runWord_done hr ?_ (panRoom_modArch (panRoom_modArch hpan _) _)
  simp only [hrange, hfits, hfree, hlease, Bool.not_true, Bool.false_eq_true, or_self, if_false]
  rfl

theorem maskPut_masks (s : State) (f : MX) (b : Arch) (x y : Bool) : ((maskPut s f b x).arr y).shadow.masks =
    if y = x then Store.put 0 [] 0 (maskBytes s f x) else (b.arr y).shadow.masks := by
  rw [maskPut, arr_modArr]
  by_cases hy : y = x
  · rw [if_pos hy, if_pos hy]
    exact congrArg Plane.masks (shadow_setPlane { b.arr y with portLoad := s.cycle + maskCycles f } _)
  · rw [if_neg hy, if_neg hy]

theorem foldl_maskPut_masks (s : State) (f : MX) (xs : List Bool) (b : Arch) (y : Bool) :
    ((xs.foldl (maskPut s f) b).arr y).shadow.masks =
      if y ∈ xs then Store.put 0 [] 0 (maskBytes s f y) else (b.arr y).shadow.masks := by
  induction xs generalizing b with
  | nil => rfl
  | cons x xs ih =>
    rw [List.foldl_cons, ih, maskPut_masks]
    by_cases hy : y = x
    · subst hy
      simp
    · simp [hy]

theorem maskLoaded_masks {s : State} {f : MX} {x : Bool} (hx : x ∈ mArrs f) :
    ((maskLoaded s f).arch.arr x).shadow.masks = Store.put 0 [] 0 (maskBytes s f x) := by
  rw [maskLoaded, arch_modArch]
  refine (foldl_maskPut_masks s f (mArrs f) _ x).trans ?_
  rw [if_pos hx]

theorem get_maskLoaded {s : State} {f : MX} {x : Bool} (hx : x ∈ mArrs f) {j : Nat} (hj : j < mMaskBytes f) :
    Store.get 0 ((maskLoaded s f).arch.arr x).shadow.masks j = (maskBytes s f x).getD j 0 := by
  have hlen : (maskBytes s f x).length = mMaskBytes f := run_length _ _ _ _
  rw [maskLoaded_masks hx, get_put, if_pos ⟨Nat.zero_le _, by omega⟩, Nat.sub_zero]

theorem masksNoted_arch (f : MX) (c : Core) : (masksNoted f c).arch = c.arch :=
  List.foldlRecOn (motive := fun d : Core => d.arch = c.arch) _ _ rfl fun _ hd _ _ =>
    List.foldlRecOn (motive := fun e : Core => e.arch = c.arch) _ _ hd fun e he _ _ => (shade_arch e _ _ _).trans he

theorem maskLoaded_same (s : State) (f : MX) :
    (maskLoaded s f).arch.acc = s.arch.acc ∧ (maskLoaded s f).arch.scr = s.arch.scr := by
  have hfold : ∀ b : Arch, SameData b ((mArrs f).foldl (maskPut s f) b) := fun b =>
    List.foldlRecOn (motive := fun d : Arch => SameData b d) _ _ ⟨rfl, rfl, rfl, rfl, rfl, rfl⟩ fun d hd x _ =>
      hd.trans (sameData_modArr d x _)
  rw [maskLoaded, arch_modArch, State.arch, here_modHere, masksNoted_arch]
  exact ⟨(hfold s.arch).acc, (hfold s.arch).scr⟩

/-- What remains true of O36 for MSPM: from a scratchpad of the canonical form each array takes its masks byte by byte. -/
theorem mspm_loads {h : Hdr} {f : MX} {s : State} (hcanon : Store.wf 0 (s.lview 4).scr = true) (hr : runs (.mspm h f) h s)
    (hrange : s.mRangeFault [⟨mSpa f, 0, 1, mMaskBytes f * (mArrs f).length⟩] = none)
    (hready : ∀ x ∈ mArrs f, (s.arch.arr x).joined = false ∧ (s.arch.arr x).shadow.st = .needmeta ∧
      (s.arch.arr x).shadow.ta = f.ta ∧ (s.arch.arr x).shadow.tb = f.tb ∧ (s.arch.arr x).shadow.sp = f.sp ∧
      (s.arch.arr x).portLoad ≤ s.cycle) (hlease : s.arch.leaseLack 1 = false)
    (hroom : s.here.panLacks (masksNoted f s.here) = false) :
    ∃ u : State, exec (.mspm h f) s = .next (s.wordDone u) ∧ u.arch.acc = s.arch.acc ∧ u.arch.scr = s.arch.scr ∧
      ∀ x ∈ mArrs f, ∀ j, j < mMaskBytes f → Store.get 0 (u.arch.arr x).shadow.masks j =
        Store.get 0 (s.lview 4).scr (mSpa f + (if mBoth f && x then mMaskBytes f else 0) + j) := by
  refine ⟨_, exec_mspm_done hr hrange hready hlease hroom, ?_, ?_, fun x hx j hj => ?_⟩
  · rw [(sameData_mIssue _ _ _ _ _).acc, (maskLoaded_same s f).1]
  · rw [(sameData_mIssue _ _ _ _ _).scr, (maskLoaded_same s f).2]
  · rw [arr_mIssue, get_maskLoaded hx hj, maskBytes, Arch.scrRead, run_get _ _ _ _ hcanon,
      List.getD_eq_getElem _ _ (by simpa using hj), List.getElem_map, List.getElem_range]

theorem masksNoted_idle {c : Core} (h : c.region = .idle) (f : MX) : masksNoted f c = c :=
  List.foldlRecOn (motive := fun d : Core => d = c) _ _ rfl fun d hd _ _ => by
    subst hd
    exact List.foldlRecOn (motive := fun e : Core => e = d) _ _ rfl fun e he _ _ => by
      subst he
      exact if_pos (.inl h)

/-- MSPM of M0 for INT8 operands, from the start of scratchpad. -/
def loadMasks : MX := { loadAll with ta := 0x15, tb := 0x15, sp := 1 }

/-- Refutes O36: MSPM reads the masks of `mCrossed` as one run, in which byte 0 reads as 0; byte 0 alone reads as 7. -/
theorem not_stationaryLoads : ¬ Obligations.StationaryLoads := by
  unfold Obligations.StationaryLoads
  intro hall
  have hr : runs (.mspm ⟨0, 0, 0, 0⟩ loadMasks) ⟨0, 0, 0, 0⟩ mCrossed := mCrossed_runs rfl
  have hrange : mCrossed.mRangeFault [⟨mSpa loadMasks, 0, 1, mMaskBytes loadMasks * (mArrs loadMasks).length⟩] = none :=
    mCrossed_range (by decide)
  have hready : ∀ x ∈ mArrs loadMasks, (mCrossed.arch.arr x).joined = false ∧ (mCrossed.arch.arr x).shadow.st = .needmeta ∧
      (mCrossed.arch.arr x).shadow.ta = loadMasks.ta ∧ (mCrossed.arch.arr x).shadow.tb = loadMasks.tb ∧
      (mCrossed.arch.arr x).shadow.sp = loadMasks.sp ∧ (mCrossed.arch.arr x).portLoad ≤ mCrossed.cycle := by
    rw [mCrossed_arch, mCrossed_cycle]
    decide
  have hlease : mCrossed.arch.leaseLack 1 = false := by rw [mCrossed_arch]; rfl
  have hroom : mCrossed.here.panLacks (masksNoted loadMasks mCrossed.here) = false := by
    rw [masksNoted_idle (by rw [mCrossed_here]; rfl)]
    exact panLacks_arch mCrossed.here mCrossed.here.arch
  obtain ⟨_, _, hmspm⟩ := hall ⟨0, 0, 0, 0⟩ loadMasks mCrossed
  obtain ⟨u, hexec, _, _, hmasks⟩ := hmspm hr (by decide) hrange hready hlease (by rw [mCrossed_here]; decide)
  rw [exec_mspm_done hr hrange hready hlease hroom] at hexec
  have hsame := arr_of_wordDone (Host.Outcome.next.inj hexec) false
  have hzero := hmasks false (by decide) 0 (by decide)
  rw [← hsame, arr_mIssue, get_maskLoaded (by decide) (by decide), maskBytes, mCrossed_lview, mCrossed_arch] at hzero
  exact absurd hzero (by decide)

end Sys2Proof.Proofs
end

section
/-! Refutation of O48 in its clause of a copy to memory: a copy that reads the pool leaves the lines it reads in the LLC
(R237), each filled as one run of its home. In a pool whose cells are not in the order of their places the line then holds
other bytes than the home gave one by one. -/

namespace Sys2Proof.Proofs

open Sys2Proof Sys2Proof.Machine Sys2Proof.Laws

/-! ### What a read leaves in the LLC (R237) -/

/-- A line filled from a pool of the canonical form changes no byte. -/
theorem poolByte_putFilled {d : Dev} (hcanon : Store.wf 0 d.pool = true) (l o : Nat) :
    (d.putLine (d.fillLine l)).poolByte o = d.poolByte o := by
  have hline := getD_fillLine_bytes hcanon o
  rw [Dev.poolByte, findLine_putLine, fillLine_line]
  by_cases ho : o / 64 = l
  · subst ho
    rw [if_pos rfl]
    exact hline
  · rw [if_neg ho]
    rfl

theorem putLine_lines_length (d : Dev) (p : PoolLine) : (d.putLine p).lines.length ≤ d.lines.length + 1 := by
  rw [Dev.putLine, List.length_append, List.length_singleton]
  exact Nat.add_le_add_right (List.length_filter_le _ _) 1

/-- Filling lines keeps the pool and every byte of it as it is read, and takes one place of the LLC for each line. -/
theorem foldl_putFilled {d : Dev} (hcanon : Store.wf 0 d.pool = true) (ls : List Nat) :
    let e := ls.foldl (fun (d : Dev) l => d.putLine (d.fillLine l)) d
    (∀ o, e.poolByte o = d.poolByte o) ∧ e.llc.length + e.lines.length ≤ d.llc.length + d.lines.length + ls.length := by
  induction ls generalizing d with
  | nil => exact ⟨fun _ => rfl, le_rfl⟩
  | cons l ls ih =>
    obtain ⟨hbyte, hlen⟩ := ih (d := d.putLine (d.fillLine l)) hcanon
    have hput := putLine_lines_length d (d.fillLine l)
    have hllc : (d.putLine (d.fillLine l)).llc = d.llc := rfl
    refine ⟨fun o => (hbyte o).trans (poolByte_putFilled hcanon l o), hlen.trans ?_⟩
    rw [hllc, List.length_cons]
    omega

/-- What remains true of O48: with a pool of the canonical form and room in the LLC a shared read changes no byte of the pool. -/
theorem poolByte_sharePool {d : Dev} {off n : Nat} (hcanon : Store.wf 0 d.pool = true)
    (hroom : d.llc.length + d.lines.length + (linesOf off n).length ≤ llcLines) (o : Nat) :
    (d.sharePool off n).poolByte o = d.poolByte o := by
  obtain ⟨hbyte, hlen⟩ := foldl_putFilled hcanon ((linesOf off n).filter (fun l => (d.findLine l).isNone))
  have hfew := List.length_filter_le (fun l => (d.findLine l).isNone) (linesOf off n)
  rw [Dev.sharePool]
  by_cases hnone : ((linesOf off n).filter (fun l => (d.findLine l).isNone)).isEmpty = true
  · exact congrArg (Dev.poolByte · o) (if_pos hnone)
  · refine (congrArg (Dev.poolByte · o) (if_neg hnone)).trans ?_
    rw [fitLlc_of_room (by omega), hbyte]

/-! ### A pool out of order -/

/-- A running copy of 16 bytes from the second GiB, in one unit, to memory at 0x20000. -/
def poolCopy : XCmd :=
  ⟨0, ⟨0, 1, 0x40000000, 0x20000, 16, 0, 0, 0, 0, false, false, false, 16, 0, 0, 0, 0, false, false, 0, 0, 0, 0⟩,
    ⟨false, 0, 0, false, 0, 0, 0⟩, .running, 0, .c, 0, 0, 0, [], [], [], [], none, none, 0, (0, 0), true, none, none⟩

/-- A device whose page table maps the second GiB to pool region 0, which is ONLINE, with bytes 4 and 0 of its home crossed. -/
def crossedPool (d : Dev) : Dev :=
  { d.setCtx 0 placeCtx with
    hbm := Store.put 0 (mapEntries []) 0x100008 (natBytes 8 0x86400000ED)
    regions := [(0, ⟨0, 0, 0⟩)]
    pool := crossedBytes }

/-- Core 0 with that copy at the head of its X queue. -/
def poolCopying : State :=
  { (State.reset.setCore 0 { placeCore (State.reset.core 0) .c false with xq := [poolCopy] }) with
    dev := crossedPool State.reset.dev }

/-- The copy has its bytes and a place in memory for them. -/
theorem poolCopying_unit : ∃ bs po d p,
    poolCopying.unitOf 0 poolCopy (poolCopying.cmdView 0 poolCopy) false 0 = .ok bs po d (some p) :=
  ⟨_, _, _, _, rfl⟩

theorem exec_copySectorDone (core : CoreId) (cmd sector : Nat) (s : State) :
    exec (.copySectorDone core cmd sector) s = .next (s.copySector core cmd sector false).bumpFree := rfl

theorem poolCopying_byte : poolCopying.dev.poolByte 0 = 7 := by decide

/-- The line that the LLC has filled holds 0 in its byte 0. -/
theorem poolCopied_byte : (poolCopying.copySector 0 poolCopy.id 0 false).bumpFree.dev.poolByte 0 = 0 := by
  decide

/-- Refutes O48: the copy of `poolCopying` hands its sector to the Pan, and byte 0 of the pool reads 7 before and 0 after. -/
theorem not_memoryEvents : ¬ Obligations.MemoryEvents := by
  unfold Obligations.MemoryEvents
  intro hall
  obtain ⟨_, _, _, hcommands, _⟩ := hall 0 poolCopying
  obtain ⟨_, _, hcopy, _⟩ := hcommands poolCopy rfl rfl rfl rfl rfl
  obtain ⟨_, htoMemory⟩ := hcopy rfl rfl rfl rfl rfl rfl rfl rfl 0 rfl
  obtain ⟨bs, po, d, p, hunit⟩ := poolCopying_unit
  obtain ⟨t, _, hexec, _, _, hmemory⟩ := htoMemory bs po d p rfl hunit (by decide) (by decide)
  rw [exec_copySectorDone] at hexec
  obtain ⟨_, _, hpool, _⟩ := hmemory
  have hbyte := hpool 0
  rw [← Host.Outcome.next.inj hexec, poolCopied_byte, poolCopying_byte] at hbyte
  exact absurd hbyte (by decide)

end Sys2Proof.Proofs
end

section
/-! Refutation of O26 in its clause of SCLOSE.abort: it withdraws the fault records of the stream that it closes (R194), and a
stream number names a stream of one context (`sameOwner`). A record that another context's stream of the same number has left
at the fault ring stays there, while the statement asks of every record of that number and core that it has gone. -/

namespace Sys2Proof.Proofs

open Sys2Proof Sys2Proof.Machine Sys2Proof.Laws

/-! ### Withdrawing fault records (R194) -/

/-- The records that wait at a ring after a withdrawal are those that name another object, core or owner. -/
theorem mem_waiting_withdraw {d : Dev} {core : CoreId} {o : ObjRef} {ctx : Nat} {w : FaultRec × ObjRef × Nat × Nat} :
    w ∈ ((d.withdraw core o ctx).frings[dieOf core]).waiting ↔ w ∈ (d.frings[dieOf core]).waiting ∧
      ¬ (w.2.1 = o ∧ w.1.core = core.val ∧ sameOwner o w.1.ctx ctx = true) := by
  simp only [Dev.withdraw, Fin.getElem_fin, Vector.getElem_set_self, List.mem_filter, Bool.not_eq_true',
    ← Bool.not_eq_true, Bool.and_eq_true, decide_eq_true_eq, and_assoc]

/-- Held effects that are given up hold no entry of the Pan. -/
theorem holdUsed_filter_le (c : Core) (keep : Held → Bool) : ({ c with hold := c.hold.filter keep } : Core).holdUsed ≤ c.holdUsed :=
  (List.filter_sublist.map _).sum_le_sum (fun _ _ => Nat.zero_le _)

/-! ### SCLOSE.abort -/

/-- A stream that has been closed at once. -/
def cutShort (t : Stream) : Stream := { t with st := .closed, staged := [], parked := [] }

/-- What SCLOSE.abort leaves: its stream is CLOSED with nothing staged or parked, and the records of that stream are withdrawn. -/
def streamAborted (f : ST) (s : State) : State :=
  (s.modArch (fun a => a.modStream f.str.toNat cutShort)).withdraw s.cur.core (.stream f.str.toNat)

theorem streamAborted_dev (f : ST) (s : State) :
    (streamAborted f s).dev = s.dev.withdraw s.cur.core (.stream f.str.toNat) s.here.ctx := by
  have hcore : (s.modArch (fun a => a.modStream f.str.toNat cutShort)).core s.cur.core =
    s.here.modArch (fun a => a.modStream f.str.toNat cutShort) := here_modArch s _
  rw [streamAborted, State.withdraw, modDev_dev, modCore_dev, modArch_dev, hcore]
  rfl

theorem panRoom_streamAborted (f : ST) (s : State) : panRoom s (streamAborted f s) := by
  have hcore : (s.modArch (fun a => a.modStream f.str.toNat cutShort)).core s.cur.core =
    s.here.modArch (fun a => a.modStream f.str.toNat cutShort) := here_modArch s _
  obtain ⟨keep, hhold, hshadows⟩ : ∃ keep : Held → Bool, (streamAborted f s).here.hold = s.here.hold.filter keep ∧
      (streamAborted f s).here.shadows = s.here.shadows := by
    rw [streamAborted, State.withdraw, here_modDev, State.here, modCore_cur, modArch_cur, core_modCore_self, hcore]
    exact ⟨_, rfl, rfl⟩
  have hle : (streamAborted f s).here.holdUsed ≤ s.here.holdUsed := by
    rw [Core.holdUsed, hhold]
    exact holdUsed_filter_le s.here keep
  simp only [panRoom, Core.panLacks, Core.shadUsed, hshadows, Bool.or_eq_false_iff, Bool.and_eq_false_iff,
    decide_eq_false_iff_not]
  exact ⟨.inr (lt_irrefl _), .inr hle.not_gt⟩

theorem exec_scloseAbort {h : Hdr} {f : ST} {s : State} (hr : runs (.scloseAbort h f) h s) :
    exec (.scloseAbort h f) s = .next (s.wordDone (streamAborted f s)) :=
  runWord_done (eff := fun s => .done (streamAborted f s)) hr rfl (panRoom_streamAborted f s)

/-- What remains true of O26: no record of the stream itself, which is one of the running context, waits any longer. -/
theorem scloseAbort_withdraws {h : Hdr} {f : ST} {s : State} (hr : runs (.scloseAbort h f) h s) :
    ∃ u : State, exec (.scloseAbort h f) s = .next (s.wordDone u) ∧ ∀ w ∈ (u.dev.frings[dieOf s.cur.core]).waiting,
      ¬ (w.2.1 = .stream f.str.toNat ∧ w.1.core = s.cur.core.val ∧ w.1.ctx = s.here.ctx) := by
  refine ⟨_, exec_scloseAbort hr, fun w hw => ?_⟩
  rw [streamAborted_dev, mem_waiting_withdraw] at hw
  simpa [sameOwner] using hw.2

/-! ### A record of another context -/

/-- A sector of stream 0 of context 1, opened on core 0, met a page that is not present. -/
def otherRecord : FaultRec := ⟨0x40000, 0x200008, 0, 1, Code.pageNotPresent, 1, false, false, 0, 0, 1⟩

/-- A ring at which that record waits. -/
def otherWaiting : FaultRing := { FaultRing.reset with waiting := [(otherRecord, .stream 0, pageOf 0x40000, 0)] }

/-- A runs a task of context 0 on core 0, while that record waits at the core's ring. -/
def besideOther : State :=
  { State.reset.setCore 0 (placeCore (State.reset.core 0) .a false) with
    cur := ⟨0, .a⟩
    dev := { State.reset.dev.setCtx 0 placeCtx with frings := Vector.replicate 2 otherWaiting } }

/-- SCLOSE.abort of stream 0. -/
def abortFirst : ST := ⟨0, 0, 0, 0, 0, 0, 0, 0, 0, 0, 0⟩

theorem besideOther_runs : runs (.scloseAbort ⟨0, 0, 0, 0⟩ abortFirst) ⟨0, 0, 0, 0⟩ besideOther := ⟨rfl, rfl⟩

theorem besideOther_ctx : besideOther.here.ctx = 0 := rfl

/-- The record of context 1 waits before and after. -/
theorem otherRecord_waits :
    (otherRecord, .stream 0, pageOf 0x40000, 0) ∈ ((streamAborted abortFirst besideOther).dev.frings[dieOf besideOther.cur.core]).waiting := by
  rw [streamAborted_dev, mem_waiting_withdraw, besideOther_ctx]
  exact ⟨List.mem_singleton_self _, by decide⟩

/-- Refutes O26: on `besideOther` SCLOSE.abort of context 0's stream 0 leaves the record of context 1's stream 0. -/
theorem not_streamWords : ¬ Obligations.StreamWords := by
  unfold Obligations.StreamWords
  intro hall
  obtain ⟨_, _, _, habort, _⟩ := hall ⟨0, 0, 0, 0⟩ abortFirst besideOther
  obtain ⟨u, hexec, _, _, hgone, _⟩ := habort besideOther_runs
  rw [exec_scloseAbort besideOther_runs] at hexec
  have hsame := Host.Outcome.next.inj hexec
  have hdev : (streamAborted abortFirst besideOther).dev = u.dev := by
    rw [← wordDone_dev besideOther, hsame, wordDone_dev]
  rw [← hdev] at hgone
  exact hgone _ otherRecord_waits ⟨rfl, rfl⟩

end Sys2Proof.Proofs
end

section
/-! What a packet that this device sends leaves alone (R374, R375, R377): sealing raises one IVC and may raise events, sending
adds to one output queue or counts one packet shed. Beside them stand the entries of the ports and of the key slots. -/

namespace Sys2Proof.Proofs

open Sys2Proof Sys2Proof.Machine Sys2Proof.Laws

/-! ### Ports and key slots -/

theorem port_modPort {d : Dev} {n : Nat} (h : n < 79) (f : Port → Port) (m : Nat) :
    (d.modPort n f).port m = if m = n then f (d.port n) else d.port m := by
  have hmod : d.modPort n f = { d with ports := d.ports.set n (f d.ports[n]) } := dif_pos h
  have hn : d.port n = d.ports[n] := dif_pos h
  rw [hmod, hn]
  by_cases hm : m < 79
  · rw [Dev.port, dif_pos hm]
    by_cases he : m = n
    · subst he
      rw [if_pos rfl, Vector.getElem_set_self]
    · rw [if_neg he, Vector.getElem_set_ne _ _ (Ne.symm he), Dev.port, dif_pos hm]
  · rw [Dev.port, dif_neg hm, if_neg (by omega), Dev.port, dif_neg hm]

theorem port_modPort_self {d : Dev} {n : Nat} (h : n < 79) (f : Port → Port) : (d.modPort n f).port n = f (d.port n) := by
  rw [port_modPort h, if_pos rfl]

theorem modPort_beyond {d : Dev} {n : Nat} (h : ¬ n < 79) (f : Port → Port) : d.modPort n f = d := dif_neg h

/-- A change of one port that keeps some reading of it keeps that reading of every port. -/
theorem modPort_keeps {β : Type} {d : Dev} {n : Nat} {f : Port → Port} {p : Port → β} (hp : ∀ q, p (f q) = p q) (m : Nat) :
    p ((d.modPort n f).port m) = p (d.port m) := by
  by_cases hn : n < 79
  · rw [port_modPort hn]
    by_cases hm : m = n
    · rw [if_pos hm, hp, hm]
    · rw [if_neg hm]
  · rw [modPort_beyond hn]

theorem modPort_keys (d : Dev) (n : Nat) (f : Port → Port) : (d.modPort n f).keys = d.keys := by
  unfold Dev.modPort
  split <;> rfl

theorem jobKey_of_keys {d e : Dev} (h : d.keys = e.keys) (job : Nat) : d.jobKey job = e.jobKey job := by
  rw [Dev.jobKey, Dev.jobKey, h]

theorem jobKey_job (d : Dev) (job : Nat) : (d.jobKey job).job = job := by
  unfold Dev.jobKey
  cases hfind : d.keys.find? (fun k => k.job = job) with
  | none => rfl
  | some k => simpa using List.find?_some hfind

theorem jobKey_setJobKey (d : Dev) {k : JobKey} {job : Nat} (h : k.job = job) : (d.setJobKey k).jobKey job = k := by
  subst h
  have hother : (d.keys.filter (fun j => j.job ≠ k.job)).find? (fun j => j.job = k.job) = none :=
    List.find?_eq_none.2 fun j hj => by simpa using (List.mem_filter.1 hj).2
  rw [Dev.jobKey, Dev.setJobKey, List.find?_append, hother]
  simp

theorem setSlot_job (k : JobKey) (n : Nat) (x : KeySlot) : (k.setSlot n x).job = k.job := by
  unfold JobKey.setSlot
  split <;> rfl

@[simp] theorem slot_setSlot_self (k : JobKey) (n : Nat) (x : KeySlot) : (k.setSlot n x).slot n = x := by
  unfold JobKey.setSlot JobKey.slot
  split <;> rfl

/-- The two slots of a job key are told apart by the parity of their numbers. -/
theorem slot_setSlot_ne {n m : Nat} (h : m % 2 ≠ n % 2) (k : JobKey) (x : KeySlot) : (k.setSlot n x).slot m = k.slot m := by
  unfold JobKey.setSlot JobKey.slot
  by_cases hn : n % 2 = 0
  · rw [if_pos hn, if_neg (by omega), if_neg (by omega)]
  · rw [if_neg hn, if_pos (by omega), if_pos (by omega)]

theorem jobKey_modSlot (d : Dev) (job n : Nat) (f : KeySlot → KeySlot) :
    (d.modSlot job n f).jobKey job = (d.jobKey job).setSlot n (f ((d.jobKey job).slot n)) :=
  jobKey_setJobKey d (by rw [setSlot_job, jobKey_job])

/-! ### What sending changes -/

/-- Between the two cores at most events have been raised. -/
def Raised (c d : Core) : Prop := ∃ es : List TEvent,
  d.arch = { c.arch with seq := { c.arch.seq with evwaitq := c.arch.seq.evwaitq ++ es } } ∧ d.rx = c.rx

namespace Raised

theorem refl (c : Core) : Raised c c := ⟨[], by rw [List.append_nil], rfl⟩

theorem trans {c d e : Core} : Raised c d → Raised d e → Raised c e := by
  rintro ⟨es, harch, hrx⟩ ⟨fs, harch', hrx'⟩
  refine ⟨es ++ fs, ?_, hrx'.trans hrx⟩
  rw [harch', harch]
  simp only [List.append_assoc]

theorem raise (c : Core) (e : TEvent) : Raised c (c.raise e) := ⟨[e], rfl, rfl⟩

variable {c d : Core} (h : Raised c d)
include h

theorem scr : d.arch.scr = c.arch.scr := by obtain ⟨es, harch, _⟩ := h; rw [harch]
theorem bars : d.arch.bars = c.arch.bars := by obtain ⟨es, harch, _⟩ := h; rw [harch]
theorem barMem : d.arch.barMem = c.arch.barMem := by obtain ⟨es, harch, _⟩ := h; rw [harch]
theorem rx : d.rx = c.rx := by obtain ⟨es, _, hrx⟩ := h; exact hrx
theorem events {v : TEvent} (hv : v ∈ c.arch.seq.evwaitq) : v ∈ d.arch.seq.evwaitq := by
  obtain ⟨es, harch, _⟩ := h
  rw [harch]
  exact List.mem_append_left es hv

end Raised

/-- Between the two states packets of this device have at most been sealed, queued, shed and reported. -/
structure OnlySends (s t : State) : Prop where
  wire : t.wire = s.wire
  cores : ∀ k, Raised (s.core k) (t.core k)
  pauth : ∀ n, (t.dev.port n).pauth = (s.dev.port n).pauth

namespace OnlySends

theorem refl (s : State) : OnlySends s s := ⟨rfl, fun _ => .refl _, fun _ => rfl⟩

theorem trans {s t u : State} (h : OnlySends s t) (g : OnlySends t u) : OnlySends s u :=
  ⟨g.wire.trans h.wire, fun k => (h.cores k).trans (g.cores k), fun n => (g.pauth n).trans (h.pauth n)⟩

/-- A change of the device that keeps every port's count of failed tags. -/
theorem modDev {s : State} {f : Dev → Dev} (h : ∀ n, ((f s.dev).port n).pauth = (s.dev.port n).pauth) :
    OnlySends s (s.modDev f) := ⟨rfl, fun _ => .refl _, h⟩

theorem modPort (s : State) (n : Nat) {f : Port → Port} (h : ∀ q, (f q).pauth = q.pauth) :
    OnlySends s (s.modDev (fun d => d.modPort n f)) := modDev (modPort_keeps h)

theorem raise (s : State) (core : CoreId) (e : TEvent) : OnlySends s (s.modCore core (fun c => c.raise e)) := by
  refine ⟨rfl, fun k => ?_, fun _ => rfl⟩
  by_cases hk : k = core
  · subst hk
    rw [core_modCore_self]
    exact .raise _ _
  · rw [core_modCore_ne _ _ _ _ hk]
    exact .refl _

theorem keyEvent (s : State) (h : FlitHdr) (x : KeySlot) (slot : Nat) (evt : BitVec 8) (ivc : Nat) :
    OnlySends s (s.keyEvent h x slot evt ivc) := raise s _ _

end OnlySends

/-- Sealing, apart from the sealed packet, is a change of the slot's IVC and state and then at most two events. -/
theorem sealUnder_sends (s : State) (slot : Nat) (h : FlitHdr) (pt : List Byte) : OnlySends s (s.sealUnder slot h pt).2 := by
  have hevent : ∀ (t : State) (p : Prop) [Decidable p] (x : KeySlot) (evt : BitVec 8) (n : Nat) (g : FlitHdr),
      OnlySends t (if p then t.keyEvent g x slot evt n else t) := fun t p _ x evt n g => by
    split
    · exact .keyEvent t g x slot evt n
    · exact .refl t
  exact ((OnlySends.modDev fun _ => rfl).trans (hevent _ _ _ _ _ _)).trans (hevent _ _ _ _ _ _)

theorem sealUnder_dev (s : State) (slot : Nat) (h : FlitHdr) (pt : List Byte) :
    let n := ((s.dev.jobKey h.job.toNat).slot slot).ivc + 1
    (s.sealUnder slot h pt).2.dev = s.dev.modSlot h.job.toNat slot (fun y =>
      { y with ivc := n, st := if y.klim ≤ n then .exhausted else y.st }) := by
  have hevent : ∀ (t : State) (p : Prop) [Decidable p] (x : KeySlot) (evt : BitVec 8) (n : Nat) (g : FlitHdr),
      (if p then t.keyEvent g x slot evt n else t).dev = t.dev := fun t p _ x evt n g => by
    split <;> rfl
  exact (hevent _ _ _ _ _ _).trans (hevent _ _ _ _ _ _)

theorem emit_sends (s : State) (p : Nat) (inp : Option Nat) (x : Sent) : OnlySends s (s.emit p inp x) :=
  .modPort s p fun _ => rfl

theorem sendOn_sends (s : State) (w : Way) (inp : Option Nat) (x : Sent) : OnlySends s (s.sendOn w inp x) := by
  cases w with
  | out p vc rmb igrp => exact emit_sends s p inp _
  | shed p => exact .modPort s p fun _ => rfl
  | nowhere => exact .refl s

theorem sendOn_keys (s : State) (w : Way) (inp : Option Nat) (x : Sent) : (s.sendOn w inp x).dev.keys = s.dev.keys := by
  cases w with
  | out p vc rmb igrp => exact modPort_keys _ _ _
  | shed p => exact modPort_keys _ _ _
  | nowhere => rfl

/-- A packet that is sent on its way joins one output queue, with no header field changed but those of the way. -/
theorem sendOn_outq (s : State) (w : Way) (x : Sent) :
    (∀ n, ((s.sendOn w none x).dev.port n).outq = (s.dev.port n).outq) ∨
      ∃ n y, ((s.sendOn w none x).dev.port n).outq = (s.dev.port n).outq ++ [⟨y, none, none⟩] ∧ y.hdr = w.apply x.hdr := by
  cases w with
  | out p vc rmb igrp =>
    by_cases hp : p < 79
    · exact .inr ⟨p, _, congrArg Port.outq (port_modPort_self hp _), rfl⟩
    · have hdev : (s.sendOn (.out p vc rmb igrp) none x).dev = s.dev := by
        rw [State.sendOn, State.emit, modDev_dev, modPort_beyond hp]
      exact .inl fun n => by rw [hdev]
  | shed p => exact .inl (modPort_keeps (p := Port.outq) fun _ => rfl)
  | nowhere => exact .inl fun _ => rfl

theorem sendControl_sends (s : State) (h : FlitHdr) (pt : List Byte) : OnlySends s (s.sendControl h pt) := by
  unfold State.sendControl
  split
  · exact .raise s _ _
  · dsimp only
    split
    · split
      · exact .modDev fun _ => rfl
      · exact .refl s
    · exact (sealUnder_sends s _ _ _).trans (sendOn_sends _ _ _ _)

/-- A packet with a slot to seal it and a job to send it for raises that slot's IVC. -/
theorem sendControl_jobKey {s : State} {h : FlitHdr} {n : Nat} (hinject : s.dev.mayInject h = true)
    (hseal : (s.dev.jobKey h.job.toNat).sealing 1 = some n) (pt : List Byte) :
    let k := s.dev.jobKey h.job.toNat
    let i := (k.slot n).ivc + 1
    (s.sendControl h pt).dev.jobKey h.job.toNat =
      k.setSlot n { k.slot n with ivc := i, st := if (k.slot n).klim ≤ i then .exhausted else (k.slot n).st } := by
  unfold State.sendControl
  simp only [hinject, hseal, Bool.not_true, Bool.false_eq_true, if_false]
  rw [jobKey_of_keys (sendOn_keys _ _ _ _), sealUnder_dev]
  exact jobKey_modSlot _ _ _ _

/-- An answer to another device is a control packet; what it answers is told by its header and payload. -/
theorem answer_sends {s : State} {h : FlitHdr} (hfar : h.srank.toNat ≠ Config.rank) (ptype : BitVec 8) (pt : List Byte) :
    OnlySends s (s.answer h ptype pt) := by
  unfold State.answer
  simp only [if_neg hfar]
  exact sendControl_sends s _ pt

/-- A flit of another device is noted as arrived at its core; its acknowledgement is a packet sent. -/
theorem ackFlit_sends {s : State} {h : FlitHdr} (hfar : h.srank.toNat ≠ Config.rank) :
    OnlySends (s.modCore (coreId h.dcore.toNat) (fun c => c.setRx (((s.core (coreId h.dcore.toNat)).rxFlow h).note h.fsn.toNat)))
      (s.ackFlit h) := by
  have hbump : ∀ t u : State, OnlySends t.bumpFree u → OnlySends t u := fun _ _ g => ⟨g.wire, g.cores, g.pauth⟩
  refine hbump _ _ ?_
  unfold State.ackFlit
  simp only
  split <;> exact answer_sends hfar _ _

end Sys2Proof.Proofs
end

section
/-! The checks that an arriving packet passes (R369, R373): the port takes it or not, FEC has lost it or not, it is well formed,
its job is a member here, it is for this device, and its tag holds. Each failure counts at the port. -/

namespace Sys2Proof.Proofs

open Sys2Proof Sys2Proof.Machine Sys2Proof.Laws

/-- The port carries packets, and its receive buffer has room where flow control of the link counts (R369). -/
def Takes (s : State) (port : Nat) (h : FlitHdr) : Prop :=
  s.dev.carries port = true ∧ ((s.dev.port port).lfc = false ∨ s.dev.fits port h = true)

/-- A counter of the port has risen by one. -/
def CountsUp (n : Port → W64) (port : Nat) (s t : State) : Prop := n (t.dev.port port) = n (s.dev.port port) + 1

section Checks

variable {s : State} {port : Nat}

/-! ### The link (R369) -/

theorem linkIn_shut {h : FlitHdr} {fecOk : Bool} {checks : State → State}
    (hshut : s.dev.carries port = false ∨ ((s.dev.port port).lfc = true ∧ s.dev.fits port h = false)) :
    s.linkIn port h fecOk checks = s := by
  unfold State.linkIn
  rcases hshut with hcarries | ⟨hlfc, hfits⟩
  · simp [hcarries]
  · simp [hlfc, hfits]

theorem linkIn_takes {h : FlitHdr} (htakes : Takes s port h) (fecOk : Bool) (checks : State → State) :
    s.linkIn port h fecOk checks = if fecOk then checks s
      else if (s.dev.port port).llr then checks (s.fecLost port) else s.fecLost port := by
  obtain ⟨hcarries, hroom⟩ := htakes
  unfold State.linkIn
  rcases hroom with hlfc | hfits
  · simp [hcarries, hlfc]
  · simp [hcarries, hfits]

/-- With link-level retry a flit that FEC has lost is counted and comes again at once. -/
theorem linkIn_retried {h : FlitHdr} (htakes : Takes s port h) (hllr : (s.dev.port port).llr = true)
    (hagain : Takes (s.fecLost port) port h) (checks : State → State) :
    s.linkIn port h false checks = (s.fecLost port).linkIn port h true checks := by
  rw [linkIn_takes htakes, linkIn_takes hagain, if_neg Bool.false_ne_true, if_pos hllr, if_pos rfl]

/-! ### Counters (R387) -/

/-- What is only sent afterwards leaves the count of failed tags as it is. -/
theorem CountsUp.pauth_sends {t u : State} (hup : CountsUp Port.pauth port s t) (hsends : OnlySends t u) :
    CountsUp Port.pauth port s u := (hsends.pauth port).trans hup

section Counters

variable (hport : port < 79)
include hport

theorem countAt_port (f : Port → Port) : (s.countAt (some port) f).dev.port port = f (s.dev.port port) :=
  port_modPort_self hport f

theorem fecLost_counts : CountsUp Port.plerr port s (s.fecLost port) := congrArg Port.plerr (port_modPort_self hport _)

theorem malformed_counts : CountsUp Port.pmal port s (s.countAt (some port) Port.malformedUp) :=
  congrArg Port.pmal (countAt_port hport _)

theorem member_counts : CountsUp Port.pmemb port s (s.countAt (some port) Port.memberUp) :=
  congrArg Port.pmemb (countAt_port hport _)

theorem unopened_counts : CountsUp Port.pauth port s (s.countAt (some port) (fun q => { q with pauth := q.pauth + 1 })) :=
  congrArg Port.pauth (countAt_port hport _)

end Counters

/-! ### Membership (R379) -/

section Membership

variable {x : Sent} {arrive : W64 → State → State}

theorem routeIn_absent (hmember : s.dev.memberOf x.hdr.job.toNat = none) :
    s.routeIn port x arrive = s.countAt (some port) Port.memberUp := by
  unfold State.routeIn
  rw [hmember]

theorem routeIn_here {e : W64} (hmember : s.dev.memberOf x.hdr.job.toNat = some e) (hhere : x.hdr.drank.toNat = Config.rank) :
    s.routeIn port x arrive = if memberDx e then arrive e s else s.countAt (some port) Port.memberUp := by
  unfold State.routeIn
  rw [hmember]
  exact if_pos hhere

theorem routeIn_far {e : W64} (hmember : s.dev.memberOf x.hdr.job.toNat = some e) (hfar : x.hdr.drank.toNat ≠ Config.rank) :
    s.routeIn port x arrive = if memberFw e then s.forward x else s.countAt (some port) Port.memberUp := by
  unfold State.routeIn
  rw [hmember]
  exact if_neg hfar

end Membership

/-! ### Control packets -/

section Control

variable {p : Packet} {ptype : BitVec 8} {modes : List Nat} {act : W64 → State → List Byte → State}

theorem checkControl_malformed (hform : controlFormed p ptype modes = false) :
    s.checkControl port p ptype modes act = s.countAt (some port) Port.malformedUp := by
  unfold State.checkControl
  simp [hform]

theorem checkControl_absent (hform : controlFormed p ptype modes = true) (hmember : s.dev.memberOf p.hdr.job.toNat = none) :
    s.checkControl port p ptype modes act = s.countAt (some port) Port.memberUp := by
  unfold State.checkControl
  simp only [hform, Bool.not_true, Bool.false_eq_true, if_false]
  exact routeIn_absent hmember

variable {e : W64}

theorem checkControl_notDelivered (hform : controlFormed p ptype modes = true)
    (hmember : s.dev.memberOf p.hdr.job.toNat = some e) (hhere : p.hdr.drank.toNat = Config.rank) (hdx : memberDx e = false) :
    s.checkControl port p ptype modes act = s.countAt (some port) Port.memberUp := by
  unfold State.checkControl
  simp only [hform, Bool.not_true, Bool.false_eq_true, if_false]
  rw [routeIn_here hmember hhere, hdx]
  rfl

/-- A control packet whose tag fails is counted, and at most answered. -/
theorem checkControl_unopened (hport : port < 79) (hform : controlFormed p ptype modes = true)
    (hmember : s.dev.memberOf p.hdr.job.toNat = some e) (hhere : p.hdr.drank.toNat = Config.rank) (hdx : memberDx e = true)
    (hopen : s.dev.openPacket p.hdr p.payload p.tag = none) (hfar : p.hdr.srank.toNat ≠ Config.rank) :
    CountsUp Port.pauth port s (s.checkControl port p ptype modes act) := by
  refine CountsUp.pauth_sends (unopened_counts hport) ?_
  unfold State.checkControl
  simp only [hform, Bool.not_true, Bool.false_eq_true, if_false]
  rw [routeIn_here hmember hhere, if_pos hdx]
  simp only [hopen]
  split
  · exact .refl _
  · split <;> exact answer_sends hfar _ _

/-- A control packet passes the checks of R373 and carries this payload. -/
structure Opens (s : State) (port : Nat) (p : Packet) (e : W64) (pt : List Byte) : Prop where
  takes : Takes s port p.hdr
  fecOk : p.fecOk = true
  member : s.dev.memberOf p.hdr.job.toNat = some e
  here : p.hdr.drank.toNat = Config.rank
  dx : memberDx e = true
  plain : s.dev.openPacket p.hdr p.payload p.tag = some pt

theorem receiveControl_opens {pt : List Byte} (ho : Opens s port p e pt) (hform : controlFormed p ptype modes = true) :
    s.receiveControl port p ptype modes act = act e s pt := by
  unfold State.receiveControl State.checkControl
  rw [linkIn_takes ho.takes, if_pos ho.fecOk]
  simp only [hform, Bool.not_true, Bool.false_eq_true, if_false]
  rw [routeIn_here ho.member ho.here, if_pos ho.dx]
  simp only [ho.plain]

end Control

section Exec

variable (port : Nat) (p : Packet) (s : State)

theorem exec_ack : exec (.ack port p) s = .next (s.receiveControl port p 0x10 [0, 1, 3]
    (fun _ s pt => s.onAck (some port) p.hdr pt)).bumpFree := rfl
theorem exec_sack : exec (.sack port p) s = .next (s.receiveControl port p 0x11 [0, 1, 3]
    (fun _ s pt => s.onSack (some port) p.hdr pt)).bumpFree := rfl
theorem exec_trimn : exec (.trimn port p) s = .next (s.receiveControl port p 0x12 [0, 1, 3]
    (fun _ s pt => s.onTrimn (some port) p.hdr pt)).bumpFree := rfl
theorem exec_authn : exec (.authn port p) s = .next (s.receiveControl port p 0x13 [0, 1, 3]
    (fun _ s pt => s.onAuthn (some port) p.hdr pt)).bumpFree := rfl
theorem exec_marker : exec (.marker port p) s = .next (s.receiveControl port p 0x14 [0, 1, 2, 3]
    (fun _ s pt => s.onMarker (some port) p.hdr pt)).bumpFree := rfl
theorem exec_markack : exec (.markack port p) s = .next (s.receiveControl port p 0x15 [0, 1, 2, 3]
    (fun _ s pt => s.onMarkack (some port) p.hdr pt)).bumpFree := rfl
theorem exec_rload : exec (.rload port p) s = .next (s.receiveControl port p 0x16 [0]
    (fun e s pt => s.onRload (some port) e p.hdr pt)).bumpFree := rfl
theorem exec_ratom : exec (.ratom port p) s = .next (s.receiveControl port p 0x17 [0]
    (fun e s pt => s.onRatom (some port) e p.hdr pt)).bumpFree := rfl
theorem exec_credit : exec (.credit port p) s = .next (s.receiveControl port p 0x18 [0, 1, 3]
    (fun _ s pt => s.onCredit (some port) p.hdr pt)).bumpFree := rfl
theorem exec_seqmsg : exec (.seqmsg port p) s = .next (s.receiveControl port p 0x19 [3]
    (fun _ s pt => s.onSeqmsg (some port) p.hdr pt)).bumpFree := rfl

end Exec

/-- The control packets that may arrive at a port, with the type and the modes of each (R371). -/
noncomputable def controlWords (port : Nat) : List ((Packet → Instr) × BitVec 8 × List Nat) :=
  [(.ack port, 0x10, [0, 1, 3]), (.sack port, 0x11, [0, 1, 3]), (.trimn port, 0x12, [0, 1, 3]),
   (.authn port, 0x13, [0, 1, 3]), (.marker port, 0x14, [0, 1, 2, 3]), (.markack port, 0x15, [0, 1, 2, 3]),
   (.rload port, 0x16, [0]), (.ratom port, 0x17, [0]), (.credit port, 0x18, [0, 1, 3]), (.seqmsg port, 0x19, [3])]

/-- Each of them is checked under its type and modes; what it does once they hold depends on its header alone. -/
theorem exec_controlWords {c : (Packet → Instr) × BitVec 8 × List Nat} (hc : c ∈ controlWords port) :
    ∃ act : FlitHdr → W64 → State → List Byte → State, ∀ (p : Packet) (s : State),
      exec (c.1 p) s = .next (s.receiveControl port p c.2.1 c.2.2 (act p.hdr)).bumpFree := by
  simp only [controlWords, List.mem_cons, List.not_mem_nil, or_false] at hc
  rcases hc with rfl | rfl | rfl | rfl | rfl | rfl | rfl | rfl | rfl | rfl
  · exact ⟨fun h _ s pt => s.onAck (some port) h pt, exec_ack port⟩
  · exact ⟨fun h _ s pt => s.onSack (some port) h pt, exec_sack port⟩
  · exact ⟨fun h _ s pt => s.onTrimn (some port) h pt, exec_trimn port⟩
  · exact ⟨fun h _ s pt => s.onAuthn (some port) h pt, exec_authn port⟩
  · exact ⟨fun h _ s pt => s.onMarker (some port) h pt, exec_marker port⟩
  · exact ⟨fun h _ s pt => s.onMarkack (some port) h pt, exec_markack port⟩
  · exact ⟨fun h e s pt => s.onRload (some port) e h pt, exec_rload port⟩
  · exact ⟨fun h e s pt => s.onRatom (some port) e h pt, exec_ratom port⟩
  · exact ⟨fun h _ s pt => s.onCredit (some port) h pt, exec_credit port⟩
  · exact ⟨fun h _ s pt => s.onSeqmsg (some port) h pt, exec_seqmsg port⟩

/-! ### Data flits -/

section Data

variable {f : Flit}

theorem checkFlit_malformed (hform : dataFormed f = false) :
    s.checkFlit port f = s.countAt (some port) Port.malformedUp := by
  unfold State.checkFlit
  simp [hform]

theorem checkFlit_unicast (hform : dataFormed f = true) (hone : isMcast f.hdr.drank.toNat = false) :
    s.checkFlit port f = s.routeIn port ⟨port, f.hdr, f.payload, f.tag⟩ (fun e s => s.deliverFlit port f e) := by
  unfold State.checkFlit
  simp [hform, hone]

theorem deliverFlit_unopened (hport : port < 79) (htrim : f.hdr.trim = 0)
    (hopen : s.dev.openPacket f.hdr f.payload f.tag = none) (hmode : f.hdr.mode = 2) (e : W64) :
    CountsUp Port.pauth port s (s.deliverFlit port f e) := by
  unfold State.deliverFlit
  simp only [htrim, hopen, hmode]
  exact unopened_counts hport

theorem deliverFlit_opens {bs : List Byte} (htrim : f.hdr.trim = 0)
    (hopen : s.dev.openPacket f.hdr f.payload f.tag = some bs) (e : W64) :
    s.deliverFlit port f e = s.arriveData (some port) e (toRing f.hdr) f.hdr bs := by
  unfold State.deliverFlit
  simp [htrim, hopen]

theorem exec_data (port : Nat) (f : Flit) (s : State) : exec (.data port f) s = .next (s.receiveFlit port f).bumpFree := rfl

end Data

end Checks

end Sys2Proof.Proofs
end

section
/-! What acknowledgements and reports do to a flow (R372, R376, R378, R386): an acknowledged flit is no longer unacknowledged,
whatever window, events and operations make of it; a report adds its event and may fault the flow. -/

namespace Sys2Proof.Proofs

open Sys2Proof Sys2Proof.Machine Sys2Proof.Laws

/-! ### Flows of a core -/

theorem flow_setFlow (c : Core) (n : Nat) (f : Flow) (k : Nat) : (c.setFlow n f).flow k = if k = n then f else c.flow k :=
  get_set Flow.closed c.arch.seq.flows n f k

@[simp] theorem flow_setFlow_self (c : Core) (n : Nat) (f : Flow) : (c.setFlow n f).flow n = f := get_set_self _ _ _ _

theorem flow_of_seq {c d : Core} (h : d.arch.seq = c.arch.seq) (k : Nat) : d.flow k = c.flow k := by
  rw [Core.flow, h, Core.flow]

theorem flow_flowEvent (c : Core) (now n : Nat) (evt code : BitVec 8) (peer : Nat) (port : Option Nat) (kp fsn0 fsn1 arg k : Nat) :
    (c.flowEvent now n evt code peer port kp fsn0 fsn1 arg).flow k = c.flow k := rfl

theorem flowFor_some {c : Core} {h : FlitHdr} {f : Flow} (hf : c.flowFor h = some f) :
    c.flow h.flow.toNat = f ∧ f.st = .opened ∧ f.job = h.job.toNat := by
  unfold Core.flowFor at hf
  simp only at hf
  split at hf
  · next hopen =>
    cases hf
    exact ⟨rfl, hopen⟩
  · cases hf

/-! ### What leaves the sequencer alone -/

theorem alterBars_seq {f : Arch → Arch} (hf : ∀ a, (f a).seq = a.seq) (c : Core) (w : Writer) :
    (c.alterBars w f).arch.seq = c.arch.seq := by
  unfold Core.alterBars
  split
  · rfl
  · rw [alter_arch, hf]

theorem scrWrite_seq (c : Core) (w : Writer) (v : Via) (addr : Nat) (bs : List Byte) (po : Bool) (unit at_ : Nat) :
    (c.scrWrite w v addr bs po unit at_).arch.seq = c.arch.seq := by
  rw [Core.scrWrite, alter_arch, shadeRun_arch]
  rfl

theorem scrOrHold_seq (c : Core) (w : Writer) (addr : Nat) (bs : List Byte) (tok : Option Nat) (po : Bool) :
    (c.scrOrHold w addr bs tok po).arch.seq = c.arch.seq := by
  unfold Core.scrOrHold
  split
  · rfl
  · cases tok with
    | none => exact scrWrite_seq ..
    | some k =>
      dsimp only
      rw [alter_arch]
      exact scrWrite_seq ..

theorem modBarAs_seq (c : Core) (w : Writer) (n : Nat) (f : Bar → Bar) : (c.modBarAs w n f).arch.seq = c.arch.seq :=
  alterBars_seq (f := fun a => a.modBar n f) (fun _ => rfl) c w

theorem faultBar_seq (c : Core) (w : Writer) (n : Nat) (code : BitVec 8) (r : FaultRec) :
    (c.faultBar w n code r).arch.seq = c.arch.seq := by
  unfold Core.faultBar
  dsimp only
  split
  · rfl
  · split
    · exact modBarAs_seq ..
    · exact (scrOrHold_seq ..).trans (modBarAs_seq ..)

theorem semAdd_seq (c : Core) (w : Writer) (n : Nat) (v : W32) : (c.semAdd w n v).arch.seq = c.arch.seq := by
  unfold Core.semAdd
  split
  · rfl
  · rw [alter_arch]
    rfl

theorem opSignal_seq (c : Core) (sm : Option Nat) : (c.opSignal sm).arch.seq = c.arch.seq := by
  cases sm with
  | none => rfl
  | some n =>
    rw [Core.opSignal, autoCp_arch]
    exact semAdd_seq ..

/-- A flow that faults keeps all but its state and code, whatever barriers fault with it (R396). -/
theorem flow_flowFault (c : Core) (now core n : Nat) (code evt : BitVec 8) (peer : Nat) (port : Option Nat)
    (fsn0 fsn1 arg : Nat) : (c.flowFault now core n code evt peer port fsn0 fsn1 arg).flow n =
      { c.flow n with st := .faulted, code := code } := by
  rw [Core.flowFault, flow_flowEvent]
  refine (List.foldlRecOn (motive := fun d : Core => d.flow n =
    (c.setFlow n { c.flow n with st := .faulted, code := code }).flow n) _ _ rfl fun d hd o _ => ?_).trans
    (flow_setFlow_self ..)
  rw [flow_of_seq (faultBar_seq ..), hd]

/-! ### What only reports -/

/-- What an acknowledgement reads of a flit that is not acknowledged. -/
def ackKey (u : Unacked) : Bool × Nat × List Nat × List Nat := (u.sent, u.fsn, u.need, u.acks)

/-- From c to d flits may have been sent again or given up and events raised: no flow has a new flit for an acknowledgement, and
no event is gone. -/
structure Reported (c d : Core) : Prop where
  unacked : ∀ k, (d.flow k).unacked.map ackKey ⊆ (c.flow k).unacked.map ackKey
  events : c.arch.seq.evwaitq ⊆ d.arch.seq.evwaitq

namespace Reported

theorem refl (c : Core) : Reported c c := ⟨fun _ => List.Subset.refl _, List.Subset.refl _⟩

theorem trans {c d e : Core} (h : Reported c d) (g : Reported d e) : Reported c e :=
  ⟨fun k => List.Subset.trans (g.unacked k) (h.unacked k), List.Subset.trans h.events g.events⟩

theorem foldl {β : Type} (f : Core → β → Core) (hf : ∀ c x, Reported c (f c x)) (xs : List β) (c : Core) :
    Reported c (xs.foldl f c) :=
  List.foldlRecOn (motive := Reported c) xs f (refl c) fun _ he x _ => he.trans (hf _ x)

/-- What each step of a fold reports is still reported at its end. -/
theorem foldl_event {β : Type} {f : Core → β → Core} {p : β → TEvent → Prop} (hf : ∀ c x, Reported c (f c x))
    (hp : ∀ c x, ∃ v ∈ (f c x).arch.seq.evwaitq, p x v) (xs : List β) (c : Core) :
    ∀ x ∈ xs, ∃ v ∈ (xs.foldl f c).arch.seq.evwaitq, p x v := by
  induction xs generalizing c with
  | nil => exact fun x hx => absurd hx List.not_mem_nil
  | cons y ys ih =>
    intro x hx
    rcases List.mem_cons.1 hx with rfl | hx
    · obtain ⟨v, hv, hpv⟩ := hp c x
      exact ⟨v, (foldl f hf ys (f c x)).events hv, hpv⟩
    · exact ih (f c y) x hx

theorem of_seq {c d : Core} (h : d.arch.seq = c.arch.seq) : Reported c d :=
  ⟨fun k => by rw [flow_of_seq h]; exact List.Subset.refl _, by rw [h]; exact List.Subset.refl _⟩

theorem raise (c : Core) (e : TEvent) : Reported c (c.raise e) :=
  ⟨fun _ => List.Subset.refl _, List.subset_append_left _ _⟩

theorem setFlow {c : Core} {n : Nat} {f : Flow} (h : f.unacked.map ackKey ⊆ (c.flow n).unacked.map ackKey) :
    Reported c (c.setFlow n f) := by
  refine ⟨fun k => ?_, List.Subset.refl _⟩
  rw [flow_setFlow]
  by_cases hk : k = n
  · rw [if_pos hk, hk]
    exact h
  · rw [if_neg hk]
    exact List.Subset.refl _

theorem modFlow {c : Core} {n : Nat} {f : Flow → Flow} (h : ∀ g : Flow, (f g).unacked.map ackKey ⊆ g.unacked.map ackKey) :
    Reported c (c.modFlow n f) := setFlow (h _)

theorem flowEvent (c : Core) (now n : Nat) (evt code : BitVec 8) (peer : Nat) (port : Option Nat) (kp fsn0 fsn1 arg : Nat) :
    Reported c (c.flowEvent now n evt code peer port kp fsn0 fsn1 arg) := raise c _

theorem opDone (c : Core) (o : TOp) : Reported c (c.opDone o) := by
  have hfewer : ∀ f : Flow, (if f.id = o.flowId then { f with unacked := f.unacked.filter (fun u => u.op ≠ o.first) } else f
      : Flow).unacked.map ackKey ⊆ f.unacked.map ackKey := fun f => by
    split
    · exact List.map_subset _ (List.filter_subset_self _)
    · exact List.Subset.refl _
  have hops : Reported c (c.modSeq (fun q => { q with ops := q.ops.filter (fun p => p ≠ o) })) :=
    ⟨fun _ => List.Subset.refl _, List.Subset.refl _⟩
  exact ((hops.trans (modFlow hfewer)).trans (of_seq (opSignal_seq _ _))).trans (of_seq (opSignal_seq _ _))

theorem settleOps (c : Core) : Reported c c.settleOps :=
  foldl _ (fun c o => by
    split
    · exact opDone c o
    · exact refl c) _ c

theorem flowStops (c : Core) (core n : Nat) (code : BitVec 8) : Reported c (c.flowStops core n code) :=
  (modFlow (f := fun f => { f with st := .faulted, code := code }) fun _ => List.Subset.refl _).trans
    (foldl _ (fun _ _ => of_seq (faultBar_seq ..)) _ _)

theorem flowFault (c : Core) (now core n : Nat) (code evt : BitVec 8) (peer : Nat) (port : Option Nat) (fsn0 fsn1 arg : Nat) :
    Reported c (c.flowFault now core n code evt peer port fsn0 fsn1 arg) :=
  (flowStops c core n code).trans (raise _ _)

theorem sendAgain (c : Core) (now core k : Nat) (fsns : List Nat) : Reported c (c.sendAgain now core k fsns) := by
  refine foldl _ (fun c n => ?_) fsns c
  have hmark : ∀ us : List Unacked, (us.map (fun (v : Unacked) =>
      if v.fsn = n then { v with again := true, tries := v.tries + 1 } else v)).map ackKey = us.map ackKey := fun us => by
    rw [List.map_map]
    refine List.map_congr_left fun v _ => ?_
    rw [Function.comp_apply]
    split <;> rfl
  simp only
  split
  · exact refl c
  · split
    · exact refl c
    · split
      · exact flowFault ..
      · exact setFlow (by rw [hmark]; exact List.Subset.refl _)

theorem setWindow (c : Core) (k w wlast : Nat) : Reported c (c.setFlow k { c.flow k with w := w, wlast := wlast }) :=
  setFlow (List.Subset.refl _)

theorem congest (c : Core) (now k n m : Nat) (inTime : Bool) : Reported c (c.congest now k n m inTime) := by
  unfold Core.congest
  dsimp only
  split
  · exact ((setWindow c k _ _).trans (setWindow _ k _ _)).trans (flowEvent ..)
  · exact setWindow c k _ _

end Reported

/-! ### Acknowledgements (R372) -/

/-- A flit has been sent, the acknowledgement names it, it went to this peer alone and nobody has acknowledged it. -/
def Owed (peer : Nat) (hit : Nat → Bool) (u : Unacked) : Prop :=
  u.sent = true ∧ hit u.fsn = true ∧ u.need = [peer] ∧ u.acks = []

/-- No flit of flow k is owed by the peer. -/
def Gone (k peer : Nat) (hit : Nat → Bool) (c : Core) : Prop := ∀ u ∈ (c.flow k).unacked, ¬ Owed peer hit u

theorem Gone.reported {k peer : Nat} {hit : Nat → Bool} {c d : Core} (hgone : Gone k peer hit c) (h : Reported c d) :
    Gone k peer hit d := by
  intro u hu howed
  obtain ⟨v, hv, hkey⟩ := List.mem_map.1 (h.unacked k (List.mem_map_of_mem hu))
  simp only [ackKey, Prod.mk.injEq] at hkey
  obtain ⟨hsent, hfsn, hneed, hacks⟩ := hkey
  refine hgone v hv ?_
  rw [Owed, hsent, hfsn, hneed, hacks]
  exact howed

theorem Gone.left {k peer : Nat} {hit hit' : Nat → Bool} {c : Core} (hgone : Gone k peer (fun n => hit n || hit' n) c) :
    Gone k peer hit c := fun u hu ⟨hsent, hhit, hrest⟩ => hgone u hu ⟨hsent, Bool.or_eq_true_iff.2 (.inl hhit), hrest⟩

/-- Where an acknowledgement finds no flit for the first time, none is owed. -/
theorem gone_of_nothing_new {c : Core} {k peer : Nat} {hit : Nat → Bool} (h : (c.acknowledge k peer hit).1 = []) :
    Gone k peer hit c := by
  intro u hu ⟨hsent, hhit, hneed, hacks⟩
  have hnone := List.filter_eq_nil_iff.1 (List.map_eq_nil_iff.1 h) u hu
  simp [hsent, hhit, hneed, hacks] at hnone

theorem gone_acknowledge (c : Core) (k peer : Nat) (hit : Nat → Bool) : Gone k peer hit (c.acknowledge k peer hit).2 := by
  refine Gone.reported ?_ (Reported.settleOps _)
  intro u hu howed
  obtain ⟨hsent, hhit, hneed, hacks⟩ := howed
  rw [flow_setFlow_self] at hu
  obtain ⟨v, _, rfl⟩ := List.mem_map.1 (List.mem_filter.1 hu).1
  split at hacks
  · cases hacks
  · next hfresh =>
    rw [if_neg hfresh] at hsent hhit hneed
    simp [hsent, hhit, hneed, hacks] at hfresh

section Sender

variable {s : State} {h : FlitHdr} {f : Flow} (port : Option Nat) (pt : List Byte)

/-- After an ACK no flit within its bounds is owed by the peer. -/
theorem gone_onAck (hf : (s.core (coreId h.dcore.toNat)).flowFor h = some f) :
    Gone h.flow.toNat h.srank.toNat (fun n => fsnGe n (payWord pt 0) && fsnGe (payWord pt 1) n)
      ((s.onAck port h pt).core (coreId h.dcore.toNat)) := by
  unfold State.onAck
  simp only [hf]
  split
  · next hnone => exact gone_of_nothing_new hnone
  · rw [core_bumpFree, core_setCore_self]
    exact ((gone_acknowledge _ _ _ _).reported (.flowEvent ..)).reported (.congest ..)

/-- The FSNs that a SACK marks beyond its base. -/
def sackMarks (pt : List Byte) : List Nat :=
  ((List.range 224).filter (fun i => (pt.getD (4 + i / 8) 0).getLsbD (i % 8))).map (fun i => (payWord pt 0 + 1 + i) % 2 ^ 32)

/-- After a SACK no flit up to its base is owed by the peer. -/
theorem gone_onSack (hf : (s.core (coreId h.dcore.toNat)).flowFor h = some f) :
    Gone h.flow.toNat h.srank.toNat (fun n => fsnGe (payWord pt 0) n) ((s.onSack port h pt).core (coreId h.dcore.toNat)) := by
  have hack := (gone_acknowledge (s.core (coreId h.dcore.toNat)) h.flow.toNat h.srank.toNat
    (fun n => fsnGe (payWord pt 0) n || (sackMarks pt).contains n)).left
  have hevents : ∀ (rs : List (Nat × Nat)) (now rtt : Nat) (c : Core), Reported c (rs.foldl (fun (c : Core) r =>
      c.flowEvent now h.flow.toNat 0x01 0 h.srank.toNat port (f.kpOf r.1) r.1 r.2 rtt) c) := fun rs now rtt c =>
    .foldl _ (fun _ _ => .flowEvent ..) rs c
  unfold State.onSack
  simp only [hf]
  rw [core_bumpFree, core_setCore_self]
  split
  · exact hack.reported (hevents ..)
  · split
    · exact ((hack.reported (hevents ..)).reported (.flowEvent ..)).reported (.sendAgain ..)
    · exact (hack.reported (hevents ..)).reported (.flowEvent ..)

/-- A TRIMN reports each FSN that it names (R378, R386). -/
theorem events_onTrimn (hf : (s.core (coreId h.dcore.toNat)).flowFor h = some f) :
    ∀ n ∈ payFsns pt, ∃ v ∈ ((s.onTrimn port h pt).core (coreId h.dcore.toNat)).arch.seq.evwaitq,
      v.evt = 0x03 ∧ v.fsn0 = BitVec.ofNat 32 n := by
  have hevent : ∀ (c : Core) (n : Nat), ∃ v ∈ (c.flowEvent s.dtime h.flow.toNat 0x03 0 h.srank.toNat port (f.kpOf n) n n
      0).arch.seq.evwaitq, v.evt = 0x03 ∧ v.fsn0 = BitVec.ofNat 32 n := fun c n =>
    ⟨_, List.mem_append_right _ (List.mem_singleton_self _), rfl, rfl⟩
  unfold State.onTrimn
  simp only [hf]
  rw [core_modCore_self]
  refine Reported.foldl_event (fun c n => ?_) (fun c n => ?_) (payFsns pt) _
  · split
    · exact (Reported.flowEvent ..).trans (.sendAgain ..)
    · exact .flowEvent ..
  · obtain ⟨v, hv, hfields⟩ := hevent c n
    split
    · exact ⟨v, (Reported.sendAgain ..).events hv, hfields⟩
    · exact ⟨v, hv, hfields⟩

/-- An AUTHN of one flit, of a flow that software sends again (R376): the report is counted, or the flow faults. -/
theorem onAuthn_one {n : Nat} (hf : (s.core (coreId h.dcore.toNat)).flowFor h = some f) (hpt : payFsns pt = [n])
    (hauto : f.auto = false) : ((s.onAuthn port h pt).core (coreId h.dcore.toNat)).flow h.flow.toNat =
      if (s.core (coreId h.dcore.toNat)).arch.authmax.toNat ≤ f.authCount + 1 then
        { f with authCount := f.authCount + 1, authMark := f.seals, st := .faulted, code := Code.linkAuthExhausted }
      else { f with authCount := f.authCount + 1, authMark := f.seals } := by
  have hmax : ∀ (c : Core) (k : Nat) (g : Flow), (c.setFlow k g).arch.authmax = c.arch.authmax := fun _ _ _ => rfl
  unfold State.onAuthn
  dsimp only
  rw [core_modCore_self, hpt, List.foldl_cons, List.foldl_nil]
  simp only [hf, hauto, hmax, Bool.false_eq_true, if_false]
  split
  · rw [flow_flowFault, flow_setFlow_self]
  · rw [flow_flowEvent, flow_setFlow_self]

theorem onCredit_flow (hf : (s.core (coreId h.dcore.toNat)).flowFor h = some f) :
    ((s.onCredit port h pt).core (coreId h.dcore.toNat)).flow h.flow.toNat =
      { f with credit := f.credit + 512 * payWord pt 0 } := by
  unfold State.onCredit
  simp only [hf]
  rw [core_modCore_self, flow_setFlow_self]

end Sender

end Sys2Proof.Proofs
end

section
/-! What markers, requests and messages do (R193, R211, R371, R375, R398): a marker and its acknowledgement set key slots, a
remote load is answered by one sealed data flit for each 512 bytes, a remote atomic is one write at its home, a sequencer message
is accepted in order. -/

namespace Sys2Proof.Proofs

open Sys2Proof Sys2Proof.Machine Sys2Proof.Laws

/-! ### Key slots that change places (R375) -/

theorem slot_mod (k : JobKey) (n : Nat) : k.slot (n % 2) = k.slot n := by
  unfold JobKey.slot
  rw [Nat.mod_mod]

theorem setSlot_mod (k : JobKey) (n : Nat) (x : KeySlot) : k.setSlot (n % 2) x = k.setSlot n x := by
  unfold JobKey.setSlot
  rw [Nat.mod_mod]

section Switch

variable (k : JobKey) (n : Nat) (retires : SlotSt → Bool)

theorem switch_job : (k.switch n retires).job = k.job := (setSlot_job ..).trans (setSlot_job ..)

theorem switch_use : (k.switch n retires).use = some (n % 2) := rfl

theorem switch_slot : (k.switch n retires).slot n = { k.slot n with st := .current, await := [] } :=
  (slot_setSlot_ne (by omega) _ _).trans (slot_setSlot_self _ _ _)

theorem switch_slot_other : (k.switch n retires).slot (n + 1) =
    if retires (k.slot (n + 1)).st then { k.slot (n + 1) with st := .retired, await := [] } else k.slot (n + 1) :=
  slot_setSlot_self _ _ _

/-- The slot that has gone CURRENT seals while it lasts. -/
theorem switch_sealing (h : (k.slot n).ivc + 1 < (k.slot n).klim) : (k.switch n retires).sealing 1 = some (n % 2) := by
  have hleft : 1 ≤ ((k.switch n retires).slot (n % 2)).left := by
    rw [slot_mod, switch_slot]
    simp only [KeySlot.left, true_or, if_true]
    omega
  rw [JobKey.sealing, switch_use, Option.filter_some, if_pos (decide_eq_true hleft)]

end Switch

theorem onMarkack_jobKey {s : State} {h : FlitHdr} {pt : List Byte} (port : Option Nat)
    (hnext : ((s.dev.jobKey h.job.toNat).slot ((pt.headD 0).toNat % 2)).st = .next) :
    let k := s.dev.jobKey h.job.toNat
    let n := (pt.headD 0).toNat % 2
    let rest := (k.slot n).await.filter (fun r => r.rank ≠ h.srank.toNat)
    (s.onMarkack port h pt).dev.jobKey h.job.toNat =
      if rest = [] then k.switch n (· = .current) else k.setSlot n { k.slot n with await := rest } := by
  unfold State.onMarkack
  simp only [modDev_dev, hnext, ne_eq, not_true_eq_false, if_false]
  refine jobKey_setJobKey _ ?_
  split
  · rw [switch_job, jobKey_job]
  · rw [setSlot_job, jobKey_job]

/-- The last MARKACK that a NEXT slot awaits makes it CURRENT; another one is noted. -/
theorem onMarkack_slot {s : State} {h : FlitHdr} {pt : List Byte} (port : Option Nat)
    (hnext : ((s.dev.jobKey h.job.toNat).slot ((pt.headD 0).toNat % 2)).st = .next) :
    let k := s.dev.jobKey h.job.toNat
    let n := (pt.headD 0).toNat % 2
    let rest := (k.slot n).await.filter (fun r => r.rank ≠ h.srank.toNat)
    (rest = [] → (((s.onMarkack port h pt).dev.jobKey h.job.toNat).slot n).st = .current) ∧
      (rest ≠ [] → ((s.onMarkack port h pt).dev.jobKey h.job.toNat).slot n = { k.slot n with await := rest }) := by
  intro k n rest
  rw [onMarkack_jobKey port hnext]
  refine ⟨fun hrest => ?_, fun hrest => ?_⟩
  · rw [if_pos hrest]
    exact congrArg KeySlot.st (switch_slot k n _)
  · rw [if_neg hrest]
    exact slot_setSlot_self k n _

/-- With no control packet of the job waiting there is nothing to send. -/
theorem pumpControl_none {s : State} {job : Nat} (h : ∀ x ∈ s.dev.ctlq, x.1.job.toNat ≠ job) : s.pumpControl job = s := by
  have hmine : s.dev.ctlq.filter (fun x => decide (x.1.job.toNat = job)) = [] :=
    List.filter_eq_nil_iff.2 fun x hx => by simpa using h x hx
  have hrest : s.dev.ctlq.filter (fun x => !decide (x.1.job.toNat = job)) = s.dev.ctlq :=
    List.filter_eq_self.2 fun x hx => by simpa using h x hx
  have hpart : s.dev.ctlq.partition (fun x => decide (x.1.job.toNat = job)) = ([], s.dev.ctlq) := by
    rw [List.partition_eq_filter_filter, hmine]
    exact congrArg (Prod.mk []) hrest
  rw [State.pumpControl, hpart]
  rfl

theorem mayInject_of_dx {d : Dev} {h : FlitHdr} {e : W64} (hmember : d.memberOf h.job.toNat = some e) (hdx : memberDx e = true) :
    d.mayInject h = true := by
  rw [Dev.mayInject, hmember]
  simp [hdx]

/-- A MARKER makes its slot CURRENT, retires the other one unless that is EMPTY, and is acknowledged under the new slot. -/
theorem onMarker_jobKey {s : State} {h : FlitHdr} {pt : List Byte} {e : W64} (port : Option Nat)
    (hmember : s.dev.memberOf h.job.toNat = some e) (hdx : memberDx e = true) :
    let k := s.dev.jobKey h.job.toNat
    let n := (pt.headD 0).toNat % 2
    (k.slot n).st = .loaded ∨ (k.slot n).st = .next → (k.slot n).ivc + 1 < (k.slot n).klim →
      (∀ x ∈ s.dev.ctlq, x.1.job.toNat ≠ h.job.toNat) →
      (s.onMarker port h pt).dev.jobKey h.job.toNat = (k.switch n (· ≠ .empty)).setSlot n
        { k.slot n with st := .current, await := [], ivc := (k.slot n).ivc + 1 } := by
  intro k n hst hleft hidle
  have hready : (k.slot n).st = .loaded ∨ (k.slot n).st = .next ∨ (k.slot n).st = .current := by tauto
  have hnot : (k.slot n).st ≠ .current := by rcases hst with hst | hst <;> rw [hst] <;> decide
  have hkey : (s.modDev (fun d => d.setJobKey (k.switch n (· ≠ .empty)))).dev.jobKey h.job.toNat = k.switch n (· ≠ .empty) :=
    jobKey_setJobKey _ (by rw [switch_job, jobKey_job])
  have hpump : (s.modDev (fun d => d.setJobKey (k.switch n (· ≠ .empty)))).pumpControl h.job.toNat =
    s.modDev (fun d => d.setJobKey (k.switch n (· ≠ .empty))) := pumpControl_none hidle
  have hlim : ¬ (k.slot n).klim ≤ (k.slot n).ivc + 1 := by omega
  unfold State.onMarker
  dsimp only
  rw [if_pos hready, if_neg hnot, hpump]
  refine (sendControl_jobKey (s := s.modDev (fun d => d.setJobKey (k.switch n (· ≠ .empty))))
    (h := { answerHdr h 0x15 with vc := 1 }) (mayInject_of_dx hmember hdx)
    ((congrArg (fun k : JobKey => k.sealing 1) hkey).trans (switch_sealing k n _ hleft)) _).trans ?_
  refine (congrArg (fun j : JobKey => j.setSlot (n % 2) { j.slot (n % 2) with
    ivc := (j.slot (n % 2)).ivc + 1
    st := if (j.slot (n % 2)).klim ≤ (j.slot (n % 2)).ivc + 1 then .exhausted else (j.slot (n % 2)).st }) hkey).trans ?_
  dsimp only
  rw [slot_mod, switch_slot, if_neg hlim, setSlot_mod]

/-- A MARKER makes its slot CURRENT and the other one RETIRED unless that is EMPTY. -/
theorem onMarker_slots {s : State} {h : FlitHdr} {pt : List Byte} {e : W64} (port : Option Nat)
    (hmember : s.dev.memberOf h.job.toNat = some e) (hdx : memberDx e = true) :
    let k := s.dev.jobKey h.job.toNat
    let n := (pt.headD 0).toNat % 2
    (k.slot n).st = .loaded ∨ (k.slot n).st = .next → (k.slot n).ivc + 1 < (k.slot n).klim →
      (∀ x ∈ s.dev.ctlq, x.1.job.toNat ≠ h.job.toNat) →
      (((s.onMarker port h pt).dev.jobKey h.job.toNat).slot n).st = .current ∧
        ((k.slot (n + 1)).st ≠ .empty → (((s.onMarker port h pt).dev.jobKey h.job.toNat).slot (n + 1)).st = .retired) := by
  intro k n hst hleft hidle
  rw [onMarker_jobKey port hmember hdx hst hleft hidle]
  refine ⟨congrArg KeySlot.st (slot_setSlot_self _ _ _), fun hother => ?_⟩
  rw [slot_setSlot_ne (by omega), switch_slot_other, if_pos (decide_eq_true hother)]

theorem onMarker_ignored {s : State} {h : FlitHdr} {pt : List Byte} (port : Option Nat)
    (hst : ((s.dev.jobKey h.job.toNat).slot ((pt.headD 0).toNat % 2)).st ∈ [SlotSt.empty, .retired, .exhausted]) :
    s.onMarker port h pt = s := by
  unfold State.onMarker
  dsimp only
  refine if_neg ?_
  simp only [List.mem_cons, List.not_mem_nil, or_false] at hst
  rcases hst with hst | hst | hst <;> rw [hst] <;> decide

/-! ### Remote loads (R193, R398) -/

theorem apply_fields (w : Way) (h : FlitHdr) : (w.apply h).ptype = h.ptype ∧ (w.apply h).drank = h.drank ∧
    (w.apply h).obj = h.obj ∧ (w.apply h).fsn = h.fsn := by
  cases w <;> exact ⟨rfl, rfl, rfl, rfl⟩

/-- A data flit for another device, with a slot to seal it. -/
theorem sendData_far {s : State} {h : FlitHdr} {k : Nat} (hinject : s.dev.mayInject h = true)
    (hfar : h.drank.toNat ≠ Config.rank) (hseal : (s.dev.jobKey h.job.toNat).sealing 1 = some k) (bs : List Byte) :
    s.sendData h bs = (s.sealUnder k h bs).2.sendOn
      ((s.sealUnder k h bs).2.way (s.sealUnder k h bs).1.hdr (isExpress (s.sealUnder k h bs).1.hdr) 0) none (s.sealUnder k h bs).1 := by
  unfold State.sendData
  simp only [hinject, hfar, hseal, Bool.not_true, Bool.false_eq_true, if_false]

theorem sendData_sends {s : State} {h : FlitHdr} {k : Nat} (hinject : s.dev.mayInject h = true)
    (hfar : h.drank.toNat ≠ Config.rank) (hseal : (s.dev.jobKey h.job.toNat).sealing 1 = some k) (bs : List Byte) :
    (s.sendData h bs).wire = s.wire ∧
      ((∀ n, ((s.sendData h bs).dev.port n).outq = (s.dev.port n).outq) ∨
        ∃ n x, ((s.sendData h bs).dev.port n).outq = (s.dev.port n).outq ++ [⟨x, none, none⟩] ∧ x.hdr.ptype = h.ptype ∧
          x.hdr.drank = h.drank ∧ x.hdr.obj = h.obj ∧ x.hdr.fsn = h.fsn) ∧
      (((s.sendData h bs).dev.jobKey h.job.toNat).slot k).ivc = ((s.dev.jobKey h.job.toNat).slot k).ivc + 1 := by
  have hport : ∀ n, (s.sealUnder k h bs).2.dev.port n = s.dev.port n := fun n => by
    rw [sealUnder_dev]
    rfl
  rw [sendData_far hinject hfar hseal]
  refine ⟨((sealUnder_sends s k h bs).trans (sendOn_sends _ _ _ _)).wire, ?_, ?_⟩
  · rcases sendOn_outq (s.sealUnder k h bs).2 ((s.sealUnder k h bs).2.way (s.sealUnder k h bs).1.hdr
      (isExpress (s.sealUnder k h bs).1.hdr) 0) (s.sealUnder k h bs).1 with hnone | ⟨n, x, hsome, hhdr⟩
    · exact .inl fun n => (hnone n).trans (by rw [hport])
    · obtain ⟨hptype, hdrank, hobj, hfsn⟩ := apply_fields ((s.sealUnder k h bs).2.way (s.sealUnder k h bs).1.hdr
        (isExpress (s.sealUnder k h bs).1.hdr) 0) (s.sealUnder k h bs).1.hdr
      rw [hport] at hsome
      rw [← hhdr] at hptype hdrank hobj hfsn
      exact .inr ⟨n, x, hsome, hptype, hdrank, hobj, hfsn⟩
  · rw [jobKey_of_keys (sendOn_keys _ _ _ _), sealUnder_dev, jobKey_modSlot, slot_setSlot_self]

section Requests

variable {s : State} {h : FlitHdr} {pt : List Byte} {e : W64} (port : Option Nat)

theorem onRload_error {x : SourceErr}
    (hx : s.sourceVa (coreId h.dcore.toNat) (memberCtx e) (leAt pt 0 8) (leAt pt 8 4) = .error x) : s.onRload port e h pt = s := by
  unfold State.onRload
  simp only [hx]

/-- A load of at most 512 bytes is answered by one data flit, to the requester's object. -/
theorem onRload_one {bs : List Byte} {po : Bool} (hlo : 1 ≤ leAt pt 8 4) (hhi : leAt pt 8 4 ≤ 512)
    (hx : s.sourceVa (coreId h.dcore.toNat) (memberCtx e) (leAt pt 0 8) (leAt pt 8 4) = .ok (bs, po)) :
    ∃ (f : FlitHdr) (ct : List Byte), s.onRload port e h pt = s.sendData f ct ∧ f.ptype = 1 ∧ f.job = h.job ∧
      f.drank = h.srank ∧ f.obj = BitVec.ofNat 6 (leAt pt 16 1) ∧ f.fsn = h.fsn := by
  have hone : (leAt pt 8 4 + 511) / 512 = 1 := by omega
  unfold State.onRload
  simp only [hx, hone, List.range_one, List.foldl_cons, List.foldl_nil]
  exact ⟨_, _, rfl, rfl, rfl, rfl, rfl, rfl⟩

/-- The answer to a load of at most 512 bytes that can be sealed: one data flit at most, and one IVC used. -/
theorem onRload_sends {bs : List Byte} {po : Bool} {k : Nat} (hmember : s.dev.memberOf h.job.toNat = some e) (hdx : memberDx e = true)
    (hlo : 1 ≤ leAt pt 8 4) (hhi : leAt pt 8 4 ≤ 512)
    (hx : s.sourceVa (coreId h.dcore.toNat) (memberCtx e) (leAt pt 0 8) (leAt pt 8 4) = .ok (bs, po))
    (hfar : h.srank.toNat ≠ Config.rank) (hseal : (s.dev.jobKey h.job.toNat).sealing 1 = some k) :
    (s.onRload port e h pt).wire = s.wire ∧
      ((∀ n, ((s.onRload port e h pt).dev.port n).outq = (s.dev.port n).outq) ∨
        ∃ n x, ((s.onRload port e h pt).dev.port n).outq = (s.dev.port n).outq ++ [⟨x, none, none⟩] ∧ x.hdr.ptype = 1 ∧
          x.hdr.drank = h.srank ∧ x.hdr.obj = BitVec.ofNat 6 (leAt pt 16 1) ∧ x.hdr.fsn = h.fsn) ∧
      (((s.onRload port e h pt).dev.jobKey h.job.toNat).slot k).ivc = ((s.dev.jobKey h.job.toNat).slot k).ivc + 1 := by
  obtain ⟨f, ct, hone, hptype, hjob, hdrank, hobj, hfsn⟩ := onRload_one port hlo hhi hx
  rw [hone, ← hptype, ← hdrank, ← hobj, ← hfsn, ← hjob]
  exact sendData_sends (mayInject_of_dx (hjob ▸ hmember) hdx) (hdrank ▸ hfar) (hjob ▸ hseal) ct

/-! ### Remote atomics (R211, R398) -/

/-- As functions the two sides are one unfolding apart; applied, the kernel would evaluate the atomic to compare them. -/
theorem onRatom_eq_fun : @State.onRatom = fun s _ e h pt => (s.ratomPerform e h pt).2 := rfl

theorem onRatom_eq (e : W64) (h : FlitHdr) (pt : List Byte) : s.onRatom port e h pt = (s.ratomPerform e h pt).2 := by
  rw [onRatom_eq_fun]

/-- An atomic whose FSN has arrived before is not performed again. -/
theorem ratomPerform_again (hold : fsnGe h.fsn.toNat ((s.core (coreId h.dcore.toNat)).rxFlow h).base = false ∨
    ((s.core (coreId h.dcore.toNat)).rxFlow h).above.contains h.fsn.toNat = true) : s.ratomPerform e h pt = (none, s) := by
  unfold State.ratomPerform
  rcases hold with hold | hold
  · simp only [hold, Bool.not_false, Bool.true_or, if_true]
  · simp only [hold, Bool.or_true, Bool.true_or, if_true]

theorem onRatom_again (hold : fsnGe h.fsn.toNat ((s.core (coreId h.dcore.toNat)).rxFlow h).base = false ∨
    ((s.core (coreId h.dcore.toNat)).rxFlow h).above.contains h.fsn.toNat = true) : s.onRatom port e h pt = s := by
  rw [onRatom_eq, ratomPerform_again hold]

/-- An atomic on memory is one write of its new value. -/
theorem onRatom_hbm {q : Place} (hnew : fsnGe h.fsn.toNat ((s.core (coreId h.dcore.toNat)).rxFlow h).base = true)
    (hfirst : ((s.core (coreId h.dcore.toNat)).rxFlow h).above.contains h.fsn.toNat = false)
    (hw : leAt pt 8 1 ∈ [4, 8, 16]) (halign : leAt pt 0 8 % leAt pt 8 1 = 0)
    (hq : s.access (coreId h.dcore.toNat) (memberCtx e) (leAt pt 0 8) .rw = .ok q) (hk : q.kind = 0) :
    (s.onRatom port e h pt).dev = s.dev.writePlace q 0 (natBytes (leAt pt 8 1) (atomNew (leAt pt 9 1) (leAt pt 8 1)
      (bytesNat (s.dev.readPlace q (leAt pt 8 1))) (leAt pt 16 8) (leAt pt 24 8))) (s.dev.placePoison q (leAt pt 8 1))
      ⟨64, .c, .t, 0, 0, leAt pt 0 8, leAt pt 8 1, s.cycle + 1⟩ := by
  have hwidth : (decide (leAt pt 8 1 = 4) || decide (leAt pt 8 1 = 8) || decide (leAt pt 8 1 = 16)) = true := by
    simpa only [List.mem_cons, List.not_mem_nil, or_false, Bool.or_eq_true, decide_eq_true_eq, or_assoc] using hw
  have hzero : decide (leAt pt 0 8 % leAt pt 8 1 ≠ 0) = false := by
    rw [halign]
    rfl
  have hplace : q.kind ≠ 3 ∧ q.kind ≠ 2 ∧ q.kind ≠ 1 := by omega
  obtain ⟨hremote, hhost, hpool⟩ := hplace
  rw [onRatom_eq]
  unfold State.ratomPerform
  simp only [hnew, hfirst, hwidth, hzero, hq, hremote, hhost, hpool, false_and, Bool.not_true, Bool.or_false,
    Bool.false_eq_true, if_false, modDev_dev, modCore_dev]

/-- Where nothing else writes in the same cycle, the home of an atomic holds its new value. -/
theorem onRatom_get {q : Place} (hnew : fsnGe h.fsn.toNat ((s.core (coreId h.dcore.toNat)).rxFlow h).base = true)
    (hfirst : ((s.core (coreId h.dcore.toNat)).rxFlow h).above.contains h.fsn.toNat = false)
    (hw : leAt pt 8 1 ∈ [4, 8, 16]) (halign : leAt pt 0 8 % leAt pt 8 1 = 0)
    (hq : s.access (coreId h.dcore.toNat) (memberCtx e) (leAt pt 0 8) .rw = .ok q) (hk : q.kind = 0)
    (hend : q.pa + leAt pt 8 1 ≤ Config.hbmBytes)
    (halone : ∀ w ∈ s.dev.wlog, w.au.core ≠ 64 → w.au.at_ ≠ s.cycle + 1) {j : Nat} (hj : j < leAt pt 8 1) :
    Store.get 0 (s.onRatom port e h pt).dev.hbm (q.pa + j) = (natBytes (leAt pt 8 1) (atomNew (leAt pt 9 1) (leAt pt 8 1)
      (bytesNat (s.dev.readPlace q (leAt pt 8 1))) (leAt pt 16 8) (leAt pt 24 8))).getD j 0 := by
  rw [onRatom_hbm port hnew hfirst hw halign hq hk, writePlace_alone_hbm hk (by rw [natBytes_length]; exact hend) halone,
    if_pos (by rw [natBytes_length]; omega), Nat.add_sub_cancel_left]

end Requests

/-! ### Messages in order (R371, R383) -/

theorem rxFlow_key (c : Core) (h : FlitHdr) : (c.rxFlow h).srank = h.srank.toNat ∧ (c.rxFlow h).score = h.score.toNat ∧
    (c.rxFlow h).flow = h.flow.toNat := by
  unfold Core.rxFlow
  cases hfind : c.rx.find? (fun r => r.srank = h.srank.toNat && r.score = h.score.toNat && r.flow = h.flow.toNat) with
  | none => exact ⟨rfl, rfl, rfl⟩
  | some r => simpa [and_assoc] using List.find?_some hfind

theorem rxFlow_of_rx {c d : Core} (h : d.rx = c.rx) (hdr : FlitHdr) : d.rxFlow hdr = c.rxFlow hdr := by
  rw [Core.rxFlow, h, Core.rxFlow]

theorem rxFlow_setRx {c : Core} {h : FlitHdr} {r : RxFlow}
    (hr : r.srank = h.srank.toNat ∧ r.score = h.score.toNat ∧ r.flow = h.flow.toNat) : (c.setRx r).rxFlow h = r := by
  obtain ⟨hsrank, hscore, hflow⟩ := hr
  have hother : (c.rx.filter (fun q => !(q.srank = r.srank && q.score = r.score && q.flow = r.flow))).find?
      (fun r => r.srank = h.srank.toNat && r.score = h.score.toNat && r.flow = h.flow.toNat) = none :=
    List.find?_eq_none.2 fun q hq => by simpa [hsrank, hscore, hflow, imp_iff_not_or, or_assoc] using (List.mem_filter.1 hq).2
  rw [Core.rxFlow, Core.setRx, List.find?_append, hother]
  simp [hsrank, hscore, hflow]

theorem fsnGe_self (n : Nat) : fsnGe n n = true := by
  simp [fsnGe]

/-- The FSN that is awaited, with none above it, moves the base by one. -/
theorem note_awaited {r : RxFlow} (h : r.above = []) : r.note r.base = { r with base := (r.base + 1) % 2 ^ 32 } := by
  obtain ⟨srank, score, flow, base, above⟩ := r
  subst h
  simp [RxFlow.note, RxFlow.advance, fsnGe_self]

/-- DELIVERED is raised for a message. -/
def delivered (s : State) (port : Option Nat) (h : FlitHdr) (c : Core) : Core :=
  c.flowEvent s.dtime h.flow.toNat 0x0B 0 h.srank.toNat port h.kp.toNat h.fsn.toNat h.fsn.toNat (Config.freeWord s.free 10).toNat

theorem delivered_rx (s : State) (port : Option Nat) (h : FlitHdr) (c : Core) : (delivered s port h c).rx = c.rx := rfl

section Messages

variable {s : State} {h : FlitHdr} (port : Option Nat) (pt : List Byte)

/-- The message that is awaited is accepted: the base moves on, DELIVERED is raised, and an acknowledgement is sent. -/
theorem onSeqmsg_awaited (hfsn : h.fsn.toNat = ((s.core (coreId h.dcore.toNat)).rxFlow h).base)
    (habove : ((s.core (coreId h.dcore.toNat)).rxFlow h).above = []) (hfar : h.srank.toNat ≠ Config.rank) :
    (((s.onSeqmsg port h pt).core (coreId h.dcore.toNat)).rxFlow h).base =
        (((s.core (coreId h.dcore.toNat)).rxFlow h).base + 1) % 2 ^ 32 ∧
      ∃ v ∈ ((s.onSeqmsg port h pt).core (coreId h.dcore.toNat)).arch.seq.evwaitq,
        v.evt = 0x0B ∧ v.fsn0 = h.fsn ∧ v.peer = h.srank.toNat := by
  have hkey := rxFlow_key (s.core (coreId h.dcore.toNat)) h
  have hnote := note_awaited habove
  have hsends := (ackFlit_sends (s := s.modCore (coreId h.dcore.toNat) (delivered s port h)) hfar).cores (coreId h.dcore.toNat)
  rw [core_modCore_self, core_modCore_self, rxFlow_of_rx (delivered_rx s port h _), hfsn, hnote] at hsends
  have hact : s.onSeqmsg port h pt = (s.modCore (coreId h.dcore.toNat) (delivered s port h)).ackFlit h := if_pos hfsn
  rw [hact]
  refine ⟨?_, ?_⟩
  · rw [rxFlow_of_rx hsends.rx]
    exact congrArg RxFlow.base (rxFlow_setRx (by exact hkey))
  · exact ⟨_, hsends.events (List.mem_append_right _ (List.mem_singleton_self _)), rfl, by simp, rfl⟩

/-- A message that comes too early is passed over. -/
theorem onSeqmsg_early (hfsn : h.fsn.toNat ≠ ((s.core (coreId h.dcore.toNat)).rxFlow h).base)
    (hearly : fsnGe h.fsn.toNat ((s.core (coreId h.dcore.toNat)).rxFlow h).base = true) : s.onSeqmsg port h pt = s := by
  unfold State.onSeqmsg
  simp only [if_neg hfsn, if_pos hearly]

end Messages

end Sys2Proof.Proofs
end

section
/-! A data flit at its barrier (R249, R470): a chunk that is open, of a barrier in scratchpad that waits, is placed at once, its
mark is set, and the barrier counts its bytes. What the acknowledgement of the flit then sends changes none of that. -/

namespace Sys2Proof.Proofs

open Sys2Proof Sys2Proof.Machine Sys2Proof.Laws

/-! ### No replay (R360) -/

theorem realArch_of_none {c : Core} (h : c.real = none) : c.realArch = c.arch := by
  rw [Core.realArch, h]

theorem alterBars_outside {c : Core} (h : c.real = none) (f : Arch → Arch) : c.alterBars .outside f = c.keep f := by
  simp only [Core.alterBars, h, Core.alter]

theorem shade_real (c : Core) (st : StoreId) (w : Writer) (gran : Nat) : (c.shade st w gran).real = c.real := by
  unfold Core.shade
  dsimp only
  split <;> rfl

theorem shadeRun_real (c : Core) (st : StoreId) (w : Writer) (gran first n : Nat) : (c.shadeRun st w gran first n).real = c.real := by
  unfold Core.shadeRun
  split
  · rfl
  · exact List.foldlRecOn (motive := fun d : Core => d.real = c.real) _ _ rfl fun d hd _ _ => (shade_real ..).trans hd

theorem spoil_real_arch (c : Core) (st : StoreId) (n : Nat) : (c.spoil st n).real = c.real ∧ (c.spoil st n).arch = c.arch := by
  unfold Core.spoil
  split
  · exact ⟨rfl, rfl⟩
  · split <;> exact ⟨rfl, rfl⟩

theorem alter_real (c : Core) (w : Writer) (f : Arch → Arch) : (c.alter w f).real = c.real := by
  cases w <;> rfl

theorem scrWrite_real (c : Core) (w : Writer) (v : Via) (addr : Nat) (bs : List Byte) (po : Bool) (unit at_ : Nat) :
    (c.scrWrite w v addr bs po unit at_).real = c.real := (alter_real ..).trans (shadeRun_real ..)

/-! ### Placing a chunk (R249, R251) -/

/-- The first bytes of a run are read where they were written. -/
theorem get_put_take (st : Store Byte) (a : Nat) {bs : List Byte} {k len : Nat} (hk : k < len) (hlen : len ≤ bs.length) :
    Store.get 0 (Store.put 0 st a (bs.take len)) (a + k) = bs.getD k 0 := by
  rw [get_put, if_pos ⟨Nat.le_add_right a k, by simpa using ⟨hk, by omega⟩⟩, Nat.add_sub_cancel_left]
  simp [hk]

/-- Chunk number `chunk` of barrier n of the core is open and takes its bytes in scratchpad at once: no replay, lease, reduction or
deadline stands in the way, and no operation waits for it. -/
structure OpenChunk (c : Core) (n chunk : Nat) : Prop where
  real : c.real = none
  ops : c.arch.seq.ops = []
  held : c.heldPlace = []
  leases : c.arch.leases = []
  red : (c.arch.bar n).red = none
  dl : (c.arch.bar n).dl = false
  spb : (c.arch.bar n).spb = true
  tiled : (c.arch.bar n).tiled = false
  waiting : (c.arch.bar n).waiting = true
  inside : chunk < (c.arch.bar n).chunks
  unmarked : c.arch.marked (c.arch.bar n) chunk = false

theorem creditBar_arch {c : Core} (h : c.real = none) (n chunk : Nat) :
    (c.creditBar .outside n chunk).arch = c.arch.credit n chunk := by
  obtain ⟨hreal, harch⟩ := spoil_real_arch (c.shadeRun .bar .outside 512 ((c.arch.bar n).bmo + chunk / 8) 1) .barWord n
  rw [shadeRun_real] at hreal
  rw [shadeRun_arch] at harch
  unfold Core.creditBar
  simp only [Core.archFor, realArch_of_none h, reduceCtorEq, if_false]
  rw [alterBars_outside (hreal.trans h)]
  exact congrArg (fun a : Arch => a.credit n chunk) harch

theorem bar_credit (a : Arch) (n chunk : Nat) : (a.credit n chunk).bar n =
    { a.bar n with
      arr := (a.bar n).arr + (a.bar n).chunkLen chunk
      st := if (a.bar n).arr + (a.bar n).chunkLen chunk = (a.bar n).exp then .complete else .filling } := by
  rw [Arch.credit, Arch.bar, Arch.modBar]
  exact Vector.getElem_set_self _

theorem marked_setMark (a : Arch) (b : Bar) (chunk : Nat) : (a.setMark b chunk).marked b chunk = true := by
  have hlt : chunk % 8 < 8 := Nat.mod_lt _ (by decide)
  rw [Arch.setMark, Arch.marked, get_set_self]
  interval_cases chunk % 8 <;> simp

theorem marked_credit {a : Arch} {n : Nat} {b : Bar} (hb : a.bar n = b) (chunk : Nat) :
    (a.credit n chunk).marked b chunk = true := by
  subst hb
  exact marked_setMark a _ chunk

theorem bar_of_bars {a b : Arch} (h : a.bars = b.bars) (n : Nat) : a.bar n = b.bar n :=
  congrArg (fun v : Vector Bar 64 => v[n % 64]'(Nat.mod_lt n (by decide))) h

theorem settleOps_none {c : Core} (h : c.arch.seq.ops = []) : c.settleOps = c := by
  rw [Core.settleOps, h]
  rfl

section Land

variable {c : Core} {n chunk : Nat} (ho : OpenChunk c n chunk)
include ho

/-- What keeps a placement from being credited does not keep this one. -/
theorem placeCount_open : c.placeCount n chunk = none := by
  have hheld : c.chunkHeld n chunk = false := by rw [Core.chunkHeld, ho.held]; rfl
  have hst : (c.arch.bar n).st = .armed ∨ (c.arch.bar n).st = .filling := by simpa [Bar.waiting] using ho.waiting
  rw [Core.placeCount, hheld, Core.depositCount, realArch_of_none ho.real]
  simp only [if_neg (not_le.2 ho.inside), ho.unmarked]
  rcases hst with hst | hst <;> rw [hst] <;> rfl

theorem heldBack_open {p : HeldPlace} (hcount : p.count = none) :
    c.heldBack (c.arch.bar n) p = false := by
  have hlease : ∀ addr len, c.arch.leased addr len = false := fun addr len => by
    rw [Arch.leased, ho.leases]
    simp
  simp [Core.heldBack, Core.placeLeased, hcount, hlease]

/-- The chunk's bytes are one run of scratchpad; but for them a placement changes only the order of writes (R228). -/
theorem placeScr_open (bs : List Byte) (po : Bool) :
    let e := c.placeScr .outside .t n (c.arch.bar n) chunk bs po
    e.real = none ∧ e.arch.seq = c.arch.seq ∧ e.arch.bars = c.arch.bars ∧ e.arch.scr =
      Store.put 0 c.arch.scr ((c.arch.bar n).base + 512 * chunk) (bs.take ((c.arch.bar n).chunkLen chunk)) := by
  have hruns : (c.arch.bar n).runs chunk = [(0, (c.arch.bar n).base + 512 * chunk, (c.arch.bar n).chunkLen chunk)] := by
    simp [Bar.runs, ho.tiled]
  unfold Core.placeScr
  simp only [hruns, List.foldl_cons, List.foldl_nil, List.drop_zero]
  refine ⟨?_, ?_, ?_, ?_⟩
  · rw [alter_real, scrWrite_real, ho.real]
  · rw [alter_arch]
    exact scrWrite_seq ..
  · rw [alter_arch, Core.scrWrite, alter_arch, shadeRun_arch]
    rfl
  · rw [alter_arch]
    exact scrWrite_scr ..

/-- What a placement leaves: the chunk's bytes, its mark, and the bytes counted. -/
theorem land_open {p : HeldPlace} (hbar : p.bar = n) (hchunk : p.chunk = chunk) (hcount : p.count = none) :
    let d := c.land (c.arch.bar n) p
    d.arch.scr = Store.put 0 c.arch.scr ((c.arch.bar n).base + 512 * chunk) (p.bytes.take ((c.arch.bar n).chunkLen chunk)) ∧
      d.arch.marked (c.arch.bar n) chunk = true ∧
      (d.arch.bar n).arr = (c.arch.bar n).arr + (c.arch.bar n).chunkLen chunk := by
  obtain ⟨hreal, hseq, hbars, hscr⟩ := placeScr_open ho p.bytes p.poison
  have hcredit := creditBar_arch hreal n chunk
  have hb : (c.placeScr .outside .t n (c.arch.bar n) chunk p.bytes p.poison).arch.bar n = c.arch.bar n :=
    bar_of_bars hbars n
  have hops : ((c.placeScr .outside .t n (c.arch.bar n) chunk p.bytes p.poison).creditBar .outside n chunk).arch.seq.ops = [] := by
    rw [hcredit]
    exact (congrArg Seq.ops hseq).trans ho.ops
  have hland : c.land (c.arch.bar n) p = (c.placeScr .outside .t n (c.arch.bar n) chunk p.bytes p.poison).creditBar .outside n chunk := by
    unfold Core.land
    simp only [hcount, hbar, hchunk]
    exact settleOps_none hops
  simp only [hland, hcredit]
  refine ⟨hscr, ?_, ?_⟩
  · exact marked_credit hb chunk
  · rw [bar_credit, hb]

end Land

/-! ### The flit (R372, R373) -/

section Flit

variable {s : State} {h : FlitHdr} {e : W64}

/-- A barrier without a deadline has none to meet. -/
theorem deadline_none {core : CoreId} {n : Nat} (hreal : (s.core core).real = none) (hdl : ((s.core core).arch.bar n).dl = false) :
    s.deadline core n = s := by
  have hbar : s.barDeadline core .outside n = s := by
    unfold State.barDeadline
    simp [Core.archFor, realArch_of_none hreal, hdl]
  unfold State.deadline
  simp [realArch_of_none hreal, hdl, hbar, hreal]

/-- An open chunk is placed and credited. -/
theorem placeNet_open {core : CoreId} {n chunk : Nat} (ho : OpenChunk (s.core core) n chunk) (ctx : Nat) (bs : List Byte) (po : Bool) :
    let c := s.core core
    let b := c.arch.bar n
    s.placeNet core ctx n chunk bs po = (.ack, s.setCore core (c.land b ⟨n, chunk, b.gen, none, bs.take (b.chunkLen chunk), po⟩)) := by
  unfold State.placeNet State.placeChunk
  simp only [placeCount_open ho, realArch_of_none ho.real, ho.spb, if_true,
    heldBack_open ho (p := ⟨n, chunk, _, none, _, po⟩) rfl, Bool.false_eq_true, if_false]

theorem ackFlit_keeps (s : State) (hfar : h.srank.toNat ≠ Config.rank) :
    let c := s.core (coreId h.dcore.toNat)
    let d := (s.ackFlit h).core (coreId h.dcore.toNat)
    d.arch.scr = c.arch.scr ∧ d.arch.bars = c.arch.bars ∧ d.arch.barMem = c.arch.barMem := by
  have hsends := (ackFlit_sends (s := s) hfar).cores (coreId h.dcore.toNat)
  rw [core_modCore_self] at hsends
  exact ⟨hsends.scr, hsends.bars, hsends.barMem⟩

/-- The state in which an open chunk has been placed and credited. -/
def chunkLanded (s : State) (h : FlitHdr) (bs : List Byte) : State :=
  let c := s.core (coreId h.dcore.toNat)
  let b := c.arch.bar h.obj.toNat
  let n := h.chunk.toNat + h.fidx.toNat
  s.setCore (coreId h.dcore.toNat) (c.land b ⟨h.obj.toNat, n, b.gen, none, bs.take (b.chunkLen n), decide (h.pz = 1)⟩)

section Arrive

variable {bs : List Byte} (port : Option Nat)
  (ho : OpenChunk (s.core (coreId h.dcore.toNat)) h.obj.toNat (h.chunk.toNat + h.fidx.toNat))
include ho

theorem chunkLanded_core :
    let c := s.core (coreId h.dcore.toNat)
    let b := c.arch.bar h.obj.toNat
    let n := h.chunk.toNat + h.fidx.toNat
    let d := (chunkLanded s h bs).core (coreId h.dcore.toNat)
    d.arch.marked b n = true ∧ (d.arch.bar h.obj.toNat).arr = b.arr + b.chunkLen n ∧
      d.arch.scr = Store.put 0 c.arch.scr (b.base + 512 * n) (bs.take (b.chunkLen n)) := by
  obtain ⟨hscr, hmark, harr⟩ := land_open ho (p := ⟨h.obj.toNat, h.chunk.toNat + h.fidx.toNat, _, none, bs.take _,
    decide (h.pz = 1)⟩) rfl rfl rfl
  dsimp only
  rw [chunkLanded, core_setCore_self]
  exact ⟨hmark, harr, by rw [hscr, List.take_take, Nat.min_self]⟩

/-- A data flit for an open chunk of its context is placed; an unreliable one is not acknowledged. -/
theorem arriveData_eq (hctx : ((s.dev.ctx (memberCtx e)).cores.getLsbD (coreId h.dcore.toNat).val &&
      (s.dev.ctx (memberCtx e)).bara.getLsbD h.obj.toNat) = true) :
    s.arriveData port e false h bs = if h.mode = 2 then chunkLanded s h bs else (chunkLanded s h bs).ackFlit h := by
  have hreply : (s.core (coreId h.dcore.toNat)).isReply h = false := by rw [Core.isReply, ho.ops]; rfl
  unfold State.arriveData
  simp only [hctx, deadline_none ho.real ho.dl, realArch_of_none ho.real, ho.red, placeNet_open ho, hreply, Bool.false_eq_true,
    Bool.not_true, if_false, or_false]
  by_cases hmode : h.mode = 2
  · exact (if_pos (by simpa using hmode)).trans (if_pos hmode).symm
  · exact (if_neg (by simpa using hmode)).trans (if_neg hmode).symm

/-- A data flit of another device for an open chunk of its context leaves the placement, whatever acknowledges it. -/
theorem arriveData_open (hctx : ((s.dev.ctx (memberCtx e)).cores.getLsbD (coreId h.dcore.toNat).val &&
      (s.dev.ctx (memberCtx e)).bara.getLsbD h.obj.toNat) = true) (hfar : h.srank.toNat ≠ Config.rank) (hlen : bs.length = 512) :
    let c := s.core (coreId h.dcore.toNat)
    let b := c.arch.bar h.obj.toNat
    let n := h.chunk.toNat + h.fidx.toNat
    let d := (s.arriveData port e false h bs).core (coreId h.dcore.toNat)
    d.arch.marked b n = true ∧ (d.arch.bar h.obj.toNat).arr = b.arr + b.chunkLen n ∧
      ∀ k, k < b.chunkLen n → Store.get 0 d.arch.scr (b.base + 512 * n + k) = bs.getD k 0 := by
  intro c b n d
  obtain ⟨hmark, harr, hscr⟩ := chunkLanded_core (bs := bs) ho
  have hsame : d.arch.scr = ((chunkLanded s h bs).core (coreId h.dcore.toNat)).arch.scr ∧
      d.arch.bars = ((chunkLanded s h bs).core (coreId h.dcore.toNat)).arch.bars ∧
      d.arch.barMem = ((chunkLanded s h bs).core (coreId h.dcore.toNat)).arch.barMem := by
    simp only [d, arriveData_eq port ho hctx]
    split
    · exact ⟨rfl, rfl, rfl⟩
    · exact ackFlit_keeps _ hfar
  obtain ⟨hsameScr, hsameBars, hsameMem⟩ := hsame
  refine ⟨?_, ?_, fun k hk => ?_⟩
  · rw [Arch.marked, hsameMem]
    exact hmark
  · rw [bar_of_bars hsameBars]
    exact harr
  · rw [hsameScr, hscr]
    exact get_put_take _ _ hk (hlen ▸ Nat.min_le_left _ _)

end Arrive

end Flit

end Sys2Proof.Proofs
end

section
/-! The packets that arrive (O50), clause by clause, and the obligation. -/

namespace Sys2Proof.Proofs

open Sys2Proof Sys2Proof.Machine Sys2Proof.Laws

/-- An event goes on with a counter of the port risen by one. -/
def Counts (n : Port → W64) (port : Nat) (i : Instr) (s : State) : Prop := ∃ t : State, exec i s = .next t ∧ CountsUp n port s t

theorem Counts.of_next {n : Port → W64} {port : Nat} {i : Instr} {s t : State} (hexec : exec i s = .next t.bumpFree)
    (hup : CountsUp n port s t) : Counts n port i s := ⟨_, hexec, hup⟩

section Events

variable {s : State} {port : Nat}

/-! ### Data flits -/

section Data

variable {f : Flit}

theorem data_shut (hshut : s.dev.carries port = false ∨ ((s.dev.port port).lfc = true ∧ s.dev.fits port f.hdr = false)) :
    exec (.data port f) s = .next s.bumpFree := by
  rw [exec_data, State.receiveFlit, linkIn_shut hshut]

theorem data_again (htakes : Takes s port f.hdr) (hfec : f.fecOk = false) (hllr : (s.dev.port port).llr = true)
    (hagain : Takes (s.fecLost port) port f.hdr) :
    exec (.data port f) s = exec (.data port { f with fecOk := true }) (s.fecLost port) := by
  rw [exec_data, exec_data, State.receiveFlit, hfec, linkIn_retried htakes hllr hagain]
  rfl

theorem data_checked (htakes : Takes s port f.hdr) (hfec : f.fecOk = true) :
    exec (.data port f) s = .next (s.checkFlit port f).bumpFree := by
  rw [exec_data, State.receiveFlit, linkIn_takes htakes, if_pos hfec]

/-- A flit to one rank that is well formed goes by the membership of its job. -/
theorem data_routed (htakes : Takes s port f.hdr) (hfec : f.fecOk = true) (hform : dataFormed f = true)
    (hone : isMcast f.hdr.drank.toNat = false) : exec (.data port f) s =
      .next (s.routeIn port ⟨port, f.hdr, f.payload, f.tag⟩ (fun e s => s.deliverFlit port f e)).bumpFree := by
  rw [data_checked htakes hfec, checkFlit_unicast hform hone]

theorem data_forwarded {e : W64} (htakes : Takes s port f.hdr) (hfec : f.fecOk = true) (hform : dataFormed f = true)
    (hone : isMcast f.hdr.drank.toNat = false) (hmember : s.dev.memberOf f.hdr.job.toNat = some e)
    (hfar : f.hdr.drank.toNat ≠ Config.rank) (hfw : memberFw e = true) :
    exec (.data port f) s = .next (s.forward ⟨port, f.hdr, f.payload, f.tag⟩).bumpFree := by
  rw [data_routed htakes hfec hform hone, routeIn_far hmember hfar, if_pos hfw]

theorem data_delivered {e : W64} (htakes : Takes s port f.hdr) (hfec : f.fecOk = true) (hform : dataFormed f = true)
    (hone : isMcast f.hdr.drank.toNat = false) (hmember : s.dev.memberOf f.hdr.job.toNat = some e)
    (hhere : f.hdr.drank.toNat = Config.rank) (hdx : memberDx e = true) :
    exec (.data port f) s = .next (s.deliverFlit port f e).bumpFree := by
  rw [data_routed htakes hfec hform hone, routeIn_here hmember hhere, if_pos hdx]

/-- A flit for an open chunk of its context: its bytes lie at their place, the chunk is marked, and its bytes count. -/
theorem data_placed {e : W64} (htakes : Takes s port f.hdr) (hfec : f.fecOk = true) (hform : dataFormed f = true)
    (hone : isMcast f.hdr.drank.toNat = false) (hmember : s.dev.memberOf f.hdr.job.toNat = some e)
    (hhere : f.hdr.drank.toNat = Config.rank) (hdx : memberDx e = true) (htrim : f.hdr.trim = 0)
    {bs : List Byte} (hopen : s.dev.openPacket f.hdr f.payload f.tag = some bs) (hlen : bs.length = 512)
    (hfar : f.hdr.srank.toNat ≠ Config.rank) (hring : toRing f.hdr = false)
    (hctx : ((s.dev.ctx (memberCtx e)).cores.getLsbD (coreId f.hdr.dcore.toNat).val &&
      (s.dev.ctx (memberCtx e)).bara.getLsbD f.hdr.obj.toNat) = true)
    (ho : OpenChunk (s.core (coreId f.hdr.dcore.toNat)) f.hdr.obj.toNat (f.hdr.chunk.toNat + f.hdr.fidx.toNat)) :
    let core := coreId f.hdr.dcore.toNat
    let b := (s.core core).arch.bar f.hdr.obj.toNat
    let n := f.hdr.chunk.toNat + f.hdr.fidx.toNat
    ∃ t : State, exec (.data port f) s = .next t ∧ (t.core core).arch.marked b n = true ∧
      ((t.core core).arch.bar f.hdr.obj.toNat).arr = b.arr + b.chunkLen n ∧
      ∀ k, k < b.chunkLen n → Store.get 0 (t.core core).arch.scr (b.base + 512 * n + k) = bs.getD k 0 := by
  have hexec := data_delivered htakes hfec hform hone hmember hhere hdx
  rw [deliverFlit_opens htrim hopen, hring] at hexec
  obtain ⟨hmark, harr, hbytes⟩ := arriveData_open (some port) ho hctx hfar hlen
  exact ⟨_, hexec, hmark, harr, hbytes⟩

variable (hport : port < 79) (htakes : Takes s port f.hdr)
include hport htakes

theorem data_lost (hfec : f.fecOk = false) (hllr : (s.dev.port port).llr = false) : Counts Port.plerr port (.data port f) s := by
  refine .of_next (t := s.fecLost port) ?_ (fecLost_counts hport)
  rw [exec_data, State.receiveFlit, hfec, linkIn_takes htakes, hllr]
  rfl

theorem data_malformed (hfec : f.fecOk = true) (hform : dataFormed f = false) : Counts Port.pmal port (.data port f) s :=
  .of_next ((data_checked htakes hfec).trans (by rw [checkFlit_malformed hform])) (malformed_counts hport)

section Member

variable (hfec : f.fecOk = true) (hform : dataFormed f = true) (hone : isMcast f.hdr.drank.toNat = false)
include hfec hform hone

theorem data_absent (hmember : s.dev.memberOf f.hdr.job.toNat = none) : Counts Port.pmemb port (.data port f) s :=
  .of_next ((data_routed htakes hfec hform hone).trans (by rw [routeIn_absent hmember])) (member_counts hport)

variable {e : W64} (hmember : s.dev.memberOf f.hdr.job.toNat = some e)
include hmember

theorem data_notDelivered (hhere : f.hdr.drank.toNat = Config.rank) (hdx : memberDx e = false) :
    Counts Port.pmemb port (.data port f) s :=
  .of_next ((data_routed htakes hfec hform hone).trans (by rw [routeIn_here hmember hhere, hdx]; rfl)) (member_counts hport)

theorem data_notForwarded (hfar : f.hdr.drank.toNat ≠ Config.rank) (hfw : memberFw e = false) :
    Counts Port.pmemb port (.data port f) s :=
  .of_next ((data_routed htakes hfec hform hone).trans (by rw [routeIn_far hmember hfar, hfw]; rfl)) (member_counts hport)

theorem data_unopened (hhere : f.hdr.drank.toNat = Config.rank) (hdx : memberDx e = true) (htrim : f.hdr.trim = 0)
    (hopen : s.dev.openPacket f.hdr f.payload f.tag = none) (hmode : f.hdr.mode = 2) :
    Counts Port.pauth port (.data port f) s :=
  .of_next (data_delivered htakes hfec hform hone hmember hhere hdx) (deliverFlit_unopened hport htrim hopen hmode e)

end Member

end Data

/-! ### Control packets -/

section Control

variable {p : Packet} {c : (Packet → Instr) × BitVec 8 × List Nat} (hc : c ∈ controlWords port)

section Checks

include hc

theorem control_shut (hshut : s.dev.carries port = false ∨ ((s.dev.port port).lfc = true ∧ s.dev.fits port p.hdr = false)) :
    exec (c.1 p) s = .next s.bumpFree := by
  obtain ⟨act, hexec⟩ := exec_controlWords hc
  rw [hexec, State.receiveControl, linkIn_shut hshut]

theorem control_again (htakes : Takes s port p.hdr) (hfec : p.fecOk = false) (hllr : (s.dev.port port).llr = true)
    (hagain : Takes (s.fecLost port) port p.hdr) :
    exec (c.1 p) s = exec (c.1 { p with fecOk := true }) (s.fecLost port) := by
  obtain ⟨act, hexec⟩ := exec_controlWords hc
  rw [hexec, hexec, State.receiveControl, hfec, linkIn_retried htakes hllr hagain]
  rfl

theorem control_checked (htakes : Takes s port p.hdr) (hfec : p.fecOk = true) :
    ∃ act : W64 → State → List Byte → State,
      exec (c.1 p) s = .next (s.checkControl port p c.2.1 c.2.2 act).bumpFree := by
  obtain ⟨act, hexec⟩ := exec_controlWords hc
  exact ⟨act p.hdr, by rw [hexec, State.receiveControl, linkIn_takes htakes, if_pos hfec]⟩

theorem control_lost (hport : port < 79) (htakes : Takes s port p.hdr) (hfec : p.fecOk = false)
    (hllr : (s.dev.port port).llr = false) : Counts Port.plerr port (c.1 p) s := by
  obtain ⟨act, hexec⟩ := exec_controlWords hc
  refine .of_next (t := s.fecLost port) ?_ (fecLost_counts hport)
  rw [hexec, State.receiveControl, hfec, linkIn_takes htakes, hllr]
  rfl

/-- Where the checks count whatever effect could follow them, the packet counts. -/
theorem control_counts {n : Port → W64} (htakes : Takes s port p.hdr) (hfec : p.fecOk = true)
    (hup : ∀ act, CountsUp n port s (s.checkControl port p c.2.1 c.2.2 act)) : Counts n port (c.1 p) s := by
  obtain ⟨act, hexec⟩ := control_checked hc htakes hfec
  exact .of_next hexec (hup act)

end Checks

variable {e : W64} {pt : List Byte}

/-- A control packet that passes every check is the operation that its type names. -/
theorem next_opens {ptype : BitVec 8} {modes : List Nat} {act : W64 → State → List Byte → State} {i : Instr}
    (hexec : exec i s = .next (s.receiveControl port p ptype modes act).bumpFree) (ho : Opens s port p e pt)
    (hform : controlFormed p ptype modes = true) : exec i s = .next (act e s pt).bumpFree := by
  rw [hexec, receiveControl_opens ho hform]

/-- Stated on its own: the kernel would otherwise evaluate the atomic to compare two spellings of its result. -/
theorem ratom_opens (ho : Opens s port p e pt) (hform : controlFormed p 0x17 [0] = true) :
    exec (.ratom port p) s = .next (s.onRatom (some port) e p.hdr pt).bumpFree :=
  next_opens (exec_ratom port p s) ho hform

section Sender

variable {f : Flow} (ho : Opens s port p e pt) (hf : (s.core (coreId p.hdr.dcore.toNat)).flowFor p.hdr = some f)
include ho hf

/-- A report below AUTHMAX is counted; the report that reaches it faults the flow (R376). -/
theorem authn_reports (hform : controlFormed p 0x13 [0, 1, 3] = true) {n : Nat} (hpt : payFsns pt = [n]) (hauto : f.auto = false) :
    let core := coreId p.hdr.dcore.toNat
    (f.authCount + 1 < (s.core core).arch.authmax.toNat → ∃ t : State, exec (.authn port p) s = .next t ∧
      ((t.core core).flow p.hdr.flow.toNat).authCount = f.authCount + 1 ∧
      ((t.core core).flow p.hdr.flow.toNat).st = .opened) ∧
    ((s.core core).arch.authmax.toNat ≤ f.authCount + 1 → ∃ t : State, exec (.authn port p) s = .next t ∧
      ((t.core core).flow p.hdr.flow.toNat).st = .faulted ∧
      ((t.core core).flow p.hdr.flow.toNat).code = Code.linkAuthExhausted) := by
  obtain ⟨_, hopened, _⟩ := flowFor_some hf
  have hflow := onAuthn_one (some port) pt hf hpt hauto
  have hexec := next_opens (exec_authn port p s) ho hform
  refine ⟨fun hlt => ⟨_, hexec, ?_⟩, fun hle => ⟨_, hexec, ?_⟩⟩
  · rw [if_neg (by omega)] at hflow
    rw [core_bumpFree, hflow]
    exact ⟨rfl, hopened⟩
  · rw [if_pos hle] at hflow
    rw [core_bumpFree, hflow]
    exact ⟨rfl, rfl⟩

end Sender

end Control

end Events

/-! ### The obligation -/

/-- Settles O50: what the port takes passes the checks of R373 in their order (`linkIn_takes`, `routeIn_here`,
`deliverFlit_opens`, `receiveControl_opens`); a flit whose tag holds is a placement (`arriveData_open`), and each control packet
is the operation on the flow, slot, memory or event queue that its type names. -/
theorem packetEvents : Obligations.PacketEvents := by
  unfold Obligations.PacketEvents
  intro port s hport
  dsimp only
  refine fun f => ⟨data_shut, fun htakes => ⟨data_lost hport htakes, data_again htakes, data_malformed hport htakes,
    fun hfec hform hone => ⟨data_absent hport htakes hfec hform hone, fun e hmember =>
      ⟨data_notDelivered hport htakes hfec hform hone hmember, data_notForwarded hport htakes hfec hform hone hmember,
        data_forwarded htakes hfec hform hone hmember, fun hhere hdx htrim =>
          ⟨data_unopened hport htakes hfec hform hone hmember hhere hdx htrim,
            fun bs hopen hlen hfar hring hctx hreal hops hheld hleases hred hdl hspb htiled hwaiting hinside hunmarked =>
              data_placed htakes hfec hform hone hmember hhere hdx htrim hopen hlen hfar hring hctx
                ⟨hreal, hops, hheld, hleases, hred, hdl, hspb, htiled, hwaiting, hinside, hunmarked⟩⟩⟩⟩⟩, fun p =>
    ⟨fun c hc => ⟨control_shut hc, fun htakes => ⟨control_lost hc hport htakes, control_again hc htakes,
      fun hfec hform => control_counts hc htakes hfec fun _ => ?_, fun hfec hform =>
      ⟨fun hmember => control_counts hc htakes hfec fun _ => ?_, fun e hmember hhere =>
        ⟨fun hdx => control_counts hc htakes hfec fun _ => ?_, fun hdx hopen hfar =>
          control_counts hc htakes hfec fun _ => checkControl_unopened hport hform hmember hhere hdx hopen hfar⟩⟩⟩⟩,
    fun e pt htakes hfec hmember hhere hdx hopen => ?_⟩⟩
  case refine_1 =>
    rw [checkControl_malformed hform]
    exact malformed_counts hport
  case refine_2 =>
    rw [checkControl_absent hform hmember]
    exact member_counts hport
  case refine_3 =>
    rw [checkControl_notDelivered hform hmember hhere hdx]
    exact member_counts hport
  have ho : Opens s port p e pt := ⟨htakes, hfec, hmember, hhere, hdx, hopen⟩
  refine ⟨fun f hf => ⟨?_, ?_, ?_, ?_, ?_⟩, ⟨?_, ?_⟩, fun hform => ⟨?_, ?_⟩, fun hform => ⟨?_, ?_⟩, fun hform hfar => ⟨?_, ?_⟩⟩
  · exact fun hform => ⟨_, next_opens (exec_ack port p s) ho hform, gone_onAck (some port) pt hf⟩
  · exact fun hform => ⟨_, next_opens (exec_sack port p s) ho hform, gone_onSack (some port) pt hf⟩
  · exact fun hform => ⟨_, next_opens (exec_trimn port p s) ho hform, events_onTrimn (some port) pt hf⟩
  · exact fun hform n hpt hauto => authn_reports ho hf hform hpt hauto
  · exact fun hform => ⟨_, next_opens (exec_credit port p s) ho hform, onCredit_flow (some port) pt hf⟩
  · exact fun hform => ⟨fun hst hleft hidle =>
      ⟨_, next_opens (exec_marker port p s) ho hform, onMarker_slots (some port) hmember hdx hst hleft hidle⟩, fun hst =>
        (next_opens (exec_marker port p s) ho hform).trans (by rw [onMarker_ignored (some port) hst])⟩
  · intro hform hnext
    obtain ⟨hlast, hmore⟩ := onMarkack_slot (some port) hnext
    exact ⟨fun hrest => ⟨_, next_opens (exec_markack port p s) ho hform, hlast hrest⟩,
      fun hrest => ⟨_, next_opens (exec_markack port p s) ho hform, hmore hrest⟩⟩
  · exact fun x hx => (next_opens (exec_rload port p s) ho hform).trans (by rw [onRload_error (some port) hx])
  · exact fun bs po k hlo hhi hx hfar hseal =>
      ⟨_, next_opens (exec_rload port p s) ho hform, onRload_sends (some port) hmember hdx hlo hhi hx hfar hseal⟩
  · exact fun hagain => (ratom_opens ho hform).trans (by rw [onRatom_again (some port) hagain])
  · intro q hnew hfirst hw halign hq hk hend halone
    refine ⟨_, ratom_opens ho hform, fun j hj => ?_⟩
    rw [bumpFree_dev]
    exact onRatom_get (some port) hnew hfirst hw halign hq hk hend halone hj
  · exact fun hfsn habove => ⟨_, next_opens (exec_seqmsg port p s) ho hform, onSeqmsg_awaited (some port) pt hfsn habove hfar⟩
  · exact fun hfsn hearly => (next_opens (exec_seqmsg port p s) ho hform).trans (by rw [onSeqmsg_early (some port) pt hfsn hearly])

end Sys2Proof.Proofs
end

section
/-! What is ordered before what (R225, R227, R233). Orders, acquires and releases change the notes on the writes to scratchpad
and to memory, and nothing else: `OnlyOrders` says so once for all of them. -/

namespace Sys2Proof.Proofs

open Sys2Proof Sys2Proof.Machine Sys2Proof.Laws

/-! ### The device's notes -/

/-- A device without its notes on writes, releases, fault records and bundles. -/
def withoutNotes (d : Dev) : Dev :=
  { d with wlog := [], discarded := [], rels := [], frings := Vector.replicate 2 FaultRing.reset, detected := 0, bundles := [] }

/-- From d to e at most the notes have changed. -/
def OnlyNotes (d e : Dev) : Prop := withoutNotes e = withoutNotes d

namespace OnlyNotes

theorem refl (d : Dev) : OnlyNotes d d := rfl

theorem trans {d e f : Dev} (h : OnlyNotes d e) (g : OnlyNotes e f) : OnlyNotes d f := Eq.trans g h

theorem foldl {β : Type} {f : State → β → State} (hf : ∀ s x, OnlyNotes s.dev (f s x).dev) (xs : List β) (s : State) :
    OnlyNotes s.dev (xs.foldl f s).dev :=
  List.foldlRecOn (motive := fun t : State => OnlyNotes s.dev t.dev) xs f (refl s.dev) fun t h x _ => h.trans (hf t x)

variable {d e : Dev} (h : OnlyNotes d e)
include h

theorem hbm : e.hbm = d.hbm := (congrArg Dev.hbm h :)
theorem host : e.host = d.host := (congrArg Dev.host h :)
theorem pool : e.pool = d.pool := (congrArg Dev.pool h :)
theorem lines : e.lines = d.lines := (congrArg Dev.lines h :)
theorem regions : e.regions = d.regions := (congrArg Dev.regions h :)
theorem cxlUp : e.cxlUp = d.cxlUp := (congrArg Dev.cxlUp h :)
theorem flushed : e.flushed = d.flushed := (congrArg Dev.flushed h :)
theorem pxreqs : e.pxreqs = d.pxreqs := (congrArg Dev.pxreqs h :)
theorem poolByte (o : Nat) : e.poolByte o = d.poolByte o := poolByte_congr h.lines h.pool h.regions o

end OnlyNotes

/-! ### The log of writes -/

/-- Two entries of the log are notes on the same write. -/
def SameWrite (v w : MemWr) : Prop := w.au = v.au ∧ w.place = v.place ∧ w.seq = v.seq

/-- Every write in the log of e is one in the log of d. -/
def OnlyLearns (d e : Dev) : Prop := ∀ w ∈ e.wlog, ∃ v ∈ d.wlog, SameWrite v w

theorem onlyLearns_refl (d : Dev) : OnlyLearns d d := fun w hw => ⟨w, hw, rfl, rfl, rfl⟩

theorem OnlyLearns.trans {d e f : Dev} (h : OnlyLearns d e) (g : OnlyLearns e f) : OnlyLearns d f := by
  intro w hw
  obtain ⟨v, hv, hau, hplace, hseq⟩ := g w hw
  obtain ⟨u, hu, hau', hplace', hseq'⟩ := h v hv
  exact ⟨u, hu, hau.trans hau', hplace.trans hplace', hseq.trans hseq'⟩

theorem sameWrite_learn (w : MemWr) (rs : List Nat) : SameWrite w (w.learn rs) := by
  unfold MemWr.learn
  split <;> exact ⟨rfl, rfl, rfl⟩

theorem onlyLearns_order (d : Dev) (rs : List Nat) (p : MemWr → Bool) : OnlyLearns d (d.order rs p) := by
  intro w hw
  obtain ⟨v, hv, rfl⟩ := List.mem_map.1 hw
  refine ⟨v, hv, ?_⟩
  split
  · exact sameWrite_learn v rs
  · exact ⟨rfl, rfl, rfl⟩

/-! ### Orders -/

/-- From s to t at most what is ordered before what has changed. -/
structure OnlyOrders (s t : State) : Prop where
  now : t.now = s.now
  cur : t.cur = s.cur
  notes : OnlyNotes s.dev t.dev
  log : OnlyLearns s.dev t.dev
  core : ∀ k, ∃ l, t.core k = withLog l (s.core k)

namespace OnlyOrders

theorem refl (s : State) : OnlyOrders s s := ⟨rfl, rfl, .refl _, onlyLearns_refl _, fun k => ⟨(s.core k).arch.scrLog, rfl⟩⟩

theorem trans {s t u : State} (h : OnlyOrders s t) (g : OnlyOrders t u) : OnlyOrders s u := by
  refine ⟨g.now.trans h.now, g.cur.trans h.cur, h.notes.trans g.notes, h.log.trans g.log, fun k => ?_⟩
  obtain ⟨l, hl⟩ := h.core k
  obtain ⟨m, hm⟩ := g.core k
  exact ⟨m, by rw [hm, hl]; rfl⟩

theorem foldl {β : Type} {f : State → β → State} (hf : ∀ s x, OnlyOrders s (f s x)) (xs : List β) (s : State) :
    OnlyOrders s (xs.foldl f s) :=
  List.foldlRecOn (motive := OnlyOrders s) xs f (refl s) fun t h x _ => h.trans (hf t x)

theorem here {s t : State} (h : OnlyOrders s t) : ∃ l, t.here = withLog l s.here := by
  rw [State.here, h.cur]
  exact h.core s.cur.core

theorem sameMemory {s t : State} (h : OnlyOrders s t) : s.sameMemory t := by
  refine ⟨fun a => by rw [h.notes.hbm], fun a => by rw [h.notes.host], h.notes.poolByte, fun k a => ?_⟩
  obtain ⟨l, hl⟩ := h.core k
  rw [hl]
  rfl

end OnlyOrders

theorem onlyOrders_modCore (s : State) (core : CoreId) (r : Nat) (p : ScrWr → Bool) :
    OnlyOrders s (s.modCore core (fun c => c.modArch (fun a => a.order r p))) := by
  refine ⟨rfl, rfl, .refl _, onlyLearns_refl _, fun k => ?_⟩
  by_cases hk : k = core
  · subst hk
    exact ⟨_, core_modCore_self s k _⟩
  · exact ⟨(s.core k).arch.scrLog, core_modCore_ne s core _ k hk⟩

theorem onlyOrders_devOrder (s : State) (rs : List Nat) (q : MemWr → Bool) : OnlyOrders s (s.modDev (fun d => d.order rs q)) :=
  ⟨rfl, rfl, rfl, onlyLearns_order _ _ _, fun k => ⟨(s.core k).arch.scrLog, rfl⟩⟩

theorem onlyOrders_order (s : State) (core : CoreId) (r : Nat) (p : ScrWr → Bool) (q : MemWr → Bool) :
    OnlyOrders s (s.order core r p q) :=
  (onlyOrders_modCore s core r p).trans (onlyOrders_devOrder _ _ _)

theorem onlyOrders_inherits (s : State) (core : CoreId) (r from_ : Nat) : OnlyOrders s (s.inherits core r from_) :=
  onlyOrders_order s core r _ _

theorem onlyOrders_releaseL (s : State) (core : CoreId) (th : Thread) (tok : Nat) : OnlyOrders s (s.releaseL core th tok) :=
  onlyOrders_order s core tok _ _

/-- Every core learns of an order for the writes that a predicate picks. -/
theorem onlyOrders_everywhere (s : State) (tok : Nat) (p : ScrWr → Bool) : OnlyOrders s
    { s with cores := s.cores.map (fun (c : Core) => if c.arch.scrLog.any p then c.modArch (fun a => a.order tok p) else c) } := by
  refine ⟨rfl, rfl, .refl _, onlyLearns_refl _, fun k => ?_⟩
  simp only [State.core, Fin.getElem_fin, Vector.getElem_map]
  split
  · exact ⟨_, rfl⟩
  · exact ⟨(s.core k).arch.scrLog, rfl⟩

theorem onlyOrders_coverBy (s : State) (core : CoreId) (tok : Nat) (p : ScrWr → Bool) (q : MemWr → Bool) :
    OnlyOrders s (s.coverBy core tok p q) :=
  ((onlyOrders_modCore s core tok p).trans (onlyOrders_devOrder _ _ _)).trans (onlyOrders_everywhere _ _ _)

theorem onlyOrders_releaseAt (s : State) (core : CoreId) (p : Place) (n : Nat) (pw : ScrWr → Bool) (q : MemWr → Bool) :
    OnlyOrders s (s.releaseAt core p n pw q) := by
  unfold State.releaseAt
  split
  · exact .refl s
  · exact (onlyOrders_coverBy s core _ pw q).trans
      ⟨rfl, rfl, rfl, onlyLearns_refl _, fun k => ⟨((s.coverBy core _ pw q).core k).arch.scrLog, rfl⟩⟩

theorem onlyOrders_readRelease (s : State) (core : CoreId) (rs : List Nat) (p : Place) (n upto : Nat) :
    OnlyOrders s (s.readRelease core rs p n upto) :=
  .foldl (fun s _ => (OnlyOrders.foldl (fun s r => onlyOrders_order s core r _ _) rs s).trans (onlyOrders_everywhere _ _ _)) _ s

/-! ### What a command orders (R212, R225, R233) -/

theorem onlyOrders_cmdRead (s : State) (core : CoreId) (x : XCmd) (p : Place) (n upto : Nat) :
    OnlyOrders s (s.cmdRead core x p n upto) := by
  unfold State.cmdRead
  split
  · exact .refl s
  · exact onlyOrders_readRelease s core _ p n upto

theorem onlyOrders_cmdReleases (s : State) (core : CoreId) (x : XCmd) (p : Place) (n : Nat) :
    OnlyOrders s (s.cmdReleases core x p n) := by
  unfold State.cmdReleases
  simp only
  split
  · exact onlyOrders_releaseAt s core p n _ _
  · exact .refl s

end Sys2Proof.Proofs
end

section
/-! The nine X words (O27): the block is checked, and the command enters its core's X queue, traps or stalls (R205 to R208). -/

namespace Sys2Proof.Proofs

open Sys2Proof Sys2Proof.Machine Sys2Proof.Laws

/-! ### Putting a command into the queue (R205, R212) -/

/-- The entry that an X word makes of its block. -/
def newCmd (s : State) (b : CopyBlk) (sg : WaitSig) : XCmd :=
  { id := s.here.nextCmd, blk := b, sig := sg, st := .queued, fromCore := s.cur.core.val, fromTh := s.cur.th, pc := s.eng.pc
    ctx := s.here.ctx, epoch := s.here.cpCount, idx := [], doneSecs := [], heldSecs := [], parked := [], rmw := none
    reply := none, began := 0, asked := (s.dev.wseq, s.here.nextHold), met := false, fate := none, bundle := none }

/-- A core with one more command at the end of its queue. -/
def queueCmd (x : XCmd) (c : Core) : Core := { c with nextCmd := x.id + 1, xq := c.xq ++ [x] }

/-- The command of an X word in the queue, and what is ordered before it. -/
def pushedX (s : State) (b : CopyBlk) (sg : WaitSig) : State :=
  s.pushX s.cur.core b sg s.cur.core.val s.cur.th s.eng.pc s.here.ctx s.here.cpCount (s.dev.wseq, s.here.nextHold) none (some s.cur.th)

/-- What an X word's command is ordered after (R212, R227, R231). -/
theorem onlyOrders_heirs (s : State) (core : CoreId) (id : Nat) (th : Thread) : OnlyOrders s
    (((s.inherits core (cmdReader id) xQueue).inherits core (cmdReader id) (xHeir th)).inherits core (cmdCover id) (xHeir th)) :=
  ((onlyOrders_inherits s core _ _).trans (onlyOrders_inherits _ core _ _)).trans (onlyOrders_inherits _ core _ _)

theorem onlyOrders_pushedX (s : State) (b : CopyBlk) (sg : WaitSig) :
    OnlyOrders (s.modHere (queueCmd (newCmd s b sg))) (pushedX s b sg) := by
  have hheirs := onlyOrders_heirs (s.modHere (queueCmd (newCmd s b sg))) s.cur.core s.here.nextCmd s.cur.th
  unfold pushedX State.pushX
  simp only
  split
  · exact hheirs.trans (onlyOrders_releaseL _ _ _ _)
  · exact hheirs

/-- What an X word leaves when its command has been queued (R205, R215). -/
def cmdQueued (s : State) (b : CopyBlk) (sg : WaitSig) : State := (pushedX s b sg).modHere Core.autoCp

theorem pushedX_here (s : State) (b : CopyBlk) (sg : WaitSig) :
    ∃ l, (pushedX s b sg).here = withLog l (queueCmd (newCmd s b sg) s.here) := by
  obtain ⟨l, hl⟩ := (onlyOrders_pushedX s b sg).here
  exact ⟨l, by rw [hl, here_modHere]⟩

/-- A commit point that is requested touches neither queue. -/
theorem autoCp_queues (c : Core) : c.autoCp.xq = c.xq ∧ c.autoCp.hold = c.hold ∧ c.autoCp.shadows = c.shadows := by
  rcases autoCp_cases c with h | h <;> rw [h] <;> exact ⟨rfl, rfl, rfl⟩

section Queued
variable (s : State) (b : CopyBlk) (sg : WaitSig)

theorem cmdQueued_here : ∃ l, (cmdQueued s b sg).here = (withLog l (queueCmd (newCmd s b sg) s.here)).autoCp := by
  obtain ⟨l, hl⟩ := pushedX_here s b sg
  exact ⟨l, by rw [cmdQueued, here_modHere, hl]⟩

theorem cmdQueued_queues : (cmdQueued s b sg).here.xq = s.here.xq ++ [newCmd s b sg] ∧
    (cmdQueued s b sg).here.hold = s.here.hold ∧ (cmdQueued s b sg).here.shadows = s.here.shadows := by
  obtain ⟨l, hl⟩ := cmdQueued_here s b sg
  rw [hl]
  exact autoCp_queues _

theorem cmdQueued_arch : ∃ l, (cmdQueued s b sg).arch = { s.arch with scrLog := l } := by
  obtain ⟨l, hl⟩ := cmdQueued_here s b sg
  exact ⟨l, by rw [State.arch, hl, autoCp_arch]; rfl⟩

theorem cmdQueued_cur : (cmdQueued s b sg).cur = s.cur := (onlyOrders_pushedX s b sg).cur

theorem cmdQueued_eng : (cmdQueued s b sg).eng = s.eng := by
  obtain ⟨l, hl⟩ := cmdQueued_arch s b sg
  rw [State.eng, hl, cmdQueued_cur]
  exact congrFun (eng_ext rfl rfl rfl rfl rfl) _

theorem cmdQueued_streams : (cmdQueued s b sg).arch.streams = s.arch.streams := by
  obtain ⟨l, hl⟩ := cmdQueued_arch s b sg
  rw [hl]

theorem panRoom_cmdQueued : panRoom s (cmdQueued s b sg) := by
  obtain ⟨_, hhold, hshadows⟩ := cmdQueued_queues s b sg
  exact panRoom_of_same hhold hshadows

theorem sameMemory_cmdQueued : s.sameMemory (cmdQueued s b sg) :=
  sameMemory_trans (sameMemory_trans (sameMemory_modHere s (f := queueCmd (newCmd s b sg)) rfl) (onlyOrders_pushedX s b sg).sameMemory)
    (sameMemory_modHere _ (by rw [autoCp_arch]))

end Queued

/-! ### The words -/

/-- The X words of a class word, each with its form (R206). -/
def xForms (h : Hdr) (f : CM) : List (Instr × Nat) :=
  [(.xcopy h f, 1), (.xfill h f, 2), (.xacc h f, 3), (.xfao h f, 4), (.xcas h f, 5), (.xgath h f, 6), (.xscat h f, 7),
    (.xcmo h f, 8), (.xsig h f, 9)]

/-- The checks of an X word's block (R208). -/
def blockCheck (s : State) (bs : List Byte) (form : Nat) : Except (BitVec 8) CopyBlk :=
  s.copyCheck s.cur.core s.here.ctx bs 1 form false (statusPriv s.eng.status)

/-- What an X word does with a block that it has read. -/
def blockEffect (f : CM) (form : Nat) (s : State) (bs : List Byte) : Res :=
  match blockCheck s bs form with
  | .error code => .trap code (some (BitVec.ofNat 64 (f.blk.toNat * 64)))
  | .ok b =>
    if s.inReplay ∧ 3 ≤ form ∧ form ≤ 5 then .gone (s.abandonAudit s.cur.core)
    else if b.be ∧ !s.barOk b.bar then .trap Code.privilege (some (BitVec.ofNat 64 (f.blk.toNat * 64)))
    else if 64 ≤ s.here.queuedX + s.reserved s.cur.core 0 then .stall s
    else .done (cmdQueued s b (waitSig f bs s.cur.core))

/-- What an X word does once check 2 has passed. -/
def xEffect (f : CM) (form : Nat) (s : State) : Res := s.withBlock f (blockEffect f form s)

theorem exec_xForms {h : Hdr} {f : CM} {i : Instr} {n : Nat} (hmem : (i, n) ∈ xForms h f) (s : State) :
    exec i s = runWord i h s (xEffect f n) := by
  simp only [xForms, List.mem_cons, Prod.mk.injEq, List.not_mem_nil, or_false] at hmem
  obtain ⟨rfl, rfl⟩ | ⟨rfl, rfl⟩ | ⟨rfl, rfl⟩ | ⟨rfl, rfl⟩ | ⟨rfl, rfl⟩ | ⟨rfl, rfl⟩ | ⟨rfl, rfl⟩ | ⟨rfl, rfl⟩ | ⟨rfl, rfl⟩ := hmem <;>
    rfl

section Words
variable {f : CM} {s : State} {bs : List Byte} {n : Nat} {b : CopyBlk}

theorem blockEffect_error {code : BitVec 8} (hck : blockCheck s bs n = .error code) :
    blockEffect f n s bs = .trap code (some (BitVec.ofNat 64 (f.blk.toNat * 64))) := by
  rw [blockEffect, hck]

section Passed
variable (hck : blockCheck s bs n = .ok b) (hreplay : ¬(s.inReplay = true ∧ 3 ≤ n ∧ n ≤ 5)) (hbar : b.be = true → s.barOk b.bar = true)
include hck hreplay hbar

theorem blockEffect_ok : blockEffect f n s bs =
    if 64 ≤ s.here.queuedX + s.reserved s.cur.core 0 then .stall s else .done (cmdQueued s b (waitSig f bs s.cur.core)) := by
  have hown : ¬(b.be = true ∧ (!s.barOk b.bar) = true) := fun ⟨hbe, hno⟩ => by simp [hbar hbe] at hno
  rw [blockEffect, hck]
  simp only [if_neg hreplay, if_neg hown]

theorem blockEffect_done (hroom : s.here.queuedX + s.reserved s.cur.core 0 < 64) :
    blockEffect f n s bs = .done (cmdQueued s b (waitSig f bs s.cur.core)) := by
  rw [blockEffect_ok hck hreplay hbar, if_neg (Nat.not_le.2 hroom)]

theorem blockEffect_stall (hfull : 64 ≤ s.here.queuedX + s.reserved s.cur.core 0) : blockEffect f n s bs = .stall s := by
  rw [blockEffect_ok hck hreplay hbar, if_pos hfull]

end Passed

end Words

/-- Settles O27: the checks of the block and the room of the queue decide the way of the word; a command that is queued is
`newCmd`, and with it the word only orders (`onlyOrders_pushedX`) and may ask for a commit point. -/
theorem commandWords : Obligations.CommandWords := by
  unfold Obligations.CommandWords
  intro h f s bs i n hmem hr hblock hreplay
  have heff : xEffect f n s = blockEffect f n s bs := hblock _
  rw [exec_xForms hmem]
  refine ⟨fun b hck hbar hroom => ?_, fun b hck hbar hfull => ?_, fun code hck => ?_⟩
  · obtain ⟨hxq, hhold, _⟩ := cmdQueued_queues s b (waitSig f bs s.cur.core)
    exact ⟨_, newCmd s b (waitSig f bs s.cur.core),
      runWord_done hr (heff.trans (blockEffect_done hck hreplay hbar hroom)) (panRoom_cmdQueued _ _ _), hxq, rfl, rfl, rfl, rfl, rfl,
      rfl, rfl, cmdQueued_eng _ _ _, cmdQueued_streams _ _ _, hhold, sameMemory_cmdQueued _ _ _⟩
  · exact runWord_stall hr (heff.trans (blockEffect_stall hck hreplay hbar hfull))
  · exact runWord_trap hr (heff.trans (blockEffect_error hck))

end Sys2Proof.Proofs
end

section
/-! How the commands of a core end (R205, R212, R218). Completions, faults and signals change of the device its notes only, and
a core whose commands have nothing to do is left as it is; the single command of a core that ends leaves an empty queue. -/

namespace Sys2Proof.Proofs

open Sys2Proof Sys2Proof.Machine Sys2Proof.Laws

/-! ### The device -/

/-- A core without a command that has ended. -/
def dropCmd (x : XCmd) (c : Core) : Core := ({ c with xq := c.xq.filter (fun y => y.id ≠ x.id) } : Core).producerGoes (panCmd x.id)

/-- The record of a command's fault has entered the Pan (R218). -/
def faultRecorded (s : State) (core : CoreId) (x : XCmd) (code : BitVec 8) (va : Nat) (wr mal : Bool) : State :=
  ((s.modCore core (dropCmd x)).recordOut core x.fromTh x.epoch
    (x.record core ((s.core core).xPos x) code mal wr va (x.parked.filter (fun p => p.page = pageOf va)).length) (.command x.id)
    (pageOf va)).modCore core Core.autoCp

theorem faultOut_eq (s : State) (core : CoreId) (x : XCmd) (code : BitVec 8) (va : Nat) (wr mal : Bool) :
    s.faultOut core x code va wr mal =
      let t := (faultRecorded s core x code va wr mal).bundleCopyEnd core x code
      if x.bundle.isSome then t else t.modCore (coreId x.fromCore) (fun c => c.asyncKept x.epoch x.fromTh code va) := rfl

section Device
variable (s : State) (core : CoreId) (x : XCmd)

theorem signal_notes (issuer : CoreId) (w : Writer) (sg : WaitSig) (th : Thread) (pc : W64) (epoch : Nat) (p : ScrWr → Bool)
    (q : MemWr → Bool) : OnlyNotes s.dev (s.signal core issuer w sg th pc epoch p q).dev := by
  unfold State.signal
  split
  · exact .refl _
  · split
    · exact (onlyOrders_order s core _ p q).notes
    · split
      · exact .refl _
      · exact (onlyOrders_coverBy s core _ p q).notes

theorem bundleCopyEnd_notes (code : BitVec 8) : OnlyNotes s.dev (s.bundleCopyEnd core x code).dev := by
  unfold State.bundleCopyEnd
  split
  · exact .refl _
  · rfl

theorem cancelCmd_notes (code : BitVec 8) (va : Nat) (wr mal : Bool) : OnlyNotes s.dev (s.cancelCmd core x code va wr mal).dev := rfl

theorem faultRecorded_notes (code : BitVec 8) (va : Nat) (wr mal : Bool) :
    OnlyNotes s.dev (faultRecorded s core x code va wr mal).dev := rfl

theorem faultOut_notes (code : BitVec 8) (va : Nat) (wr mal : Bool) : OnlyNotes s.dev (s.faultOut core x code va wr mal).dev := by
  have hnotes := (faultRecorded_notes s core x code va wr mal).trans (bundleCopyEnd_notes _ core x code)
  rw [faultOut_eq]
  split <;> exact hnotes

theorem faultCmdOnly_notes (code : BitVec 8) (va : Nat) (wr mal : Bool) :
    OnlyNotes s.dev (s.faultCmdOnly core x code va wr mal).dev := by
  unfold State.faultCmdOnly
  simp only
  split
  · exact (cancelCmd_notes s core x code va wr mal).trans (faultOut_notes _ core x code va wr mal)
  · exact cancelCmd_notes s core x code va wr mal

theorem faultEnds_notes {t : State} (h : s.faultEnds core x = some t) : OnlyNotes s.dev t.dev := by
  unfold State.faultEnds at h
  split at h
  · split at h
    · obtain rfl := Option.some.inj h
      exact faultOut_notes s core x _ _ _ _
    · cases h
  · cases h

theorem settleOne_notes {t : State} (h : s.settleOne core = some t) : OnlyNotes s.dev t.dev := by
  unfold State.settleOne at h
  split at h
  next u hu =>
    obtain ⟨y, _, hy⟩ := List.exists_of_findSome?_eq_some hu
    obtain rfl := Option.some.inj h
    exact faultEnds_notes s core y hy
  next =>
    obtain ⟨y, _, rfl⟩ := Option.map_eq_some_iff.1 h
    split
    · exact faultCmdOnly_notes s core y _ _ _ _
    · exact (bundleCopyEnd_notes (s.modCore core (dropCmd y)) core y 0).trans (signal_notes _ core _ _ _ _ _ _ _ _)

theorem settleFuel_notes (fuel : Nat) : OnlyNotes s.dev (State.settleFuel fuel core s).dev := by
  induction fuel generalizing s with
  | zero => exact .refl _
  | succ fuel ih =>
    unfold State.settleFuel
    split
    · exact .refl _
    next t ht => exact (settleOne_notes s core ht).trans (ih t)

theorem replies_notes : OnlyNotes s.dev (s.replies core).dev := by
  refine .foldl (fun s x => ?_) _ s
  split
  · split <;> exact .refl _
  · exact .refl _

theorem settle_notes : OnlyNotes s.dev (s.settle core).dev := by
  refine ((replies_notes s core).trans (settleFuel_notes _ core 130)).trans (.foldl (fun s x => ?_) _ _)
  split
  · simp only
    split <;> rw [OnlyNotes] <;> exact congrArg withoutNotes (askFlush_dev s core _ _)
  · exact .refl _

theorem settleAll_notes : OnlyNotes s.dev s.settleAll.dev := by
  refine .foldl (fun s k => ?_) _ s
  split
  · exact .refl _
  · exact settle_notes s (coreId k)

theorem faultCmd_notes (code : BitVec 8) (va : Nat) (wr mal : Bool) : OnlyNotes s.dev (s.faultCmd core x code va wr mal).dev :=
  (faultCmdOnly_notes s core x code va wr mal).trans (settle_notes _ core)

end Device

/-! ### A core whose commands have nothing to do -/

/-- A command that neither waits to answer, nor has faulted, nor has done its work. -/
def Quiet (c : Core) (x : XCmd) : Prop := x.reply = none ∧ x.fate = none ∧ c.allDone x = false

section Quiet
variable {s : State} {core : CoreId} (h : ∀ x ∈ (s.core core).xq, Quiet (s.core core) x)
include h

theorem replies_quiet : s.replies core = s := by
  refine List.foldlRecOn (motive := fun t : State => t = s) _ _ rfl fun t ht x hx => ?_
  obtain ⟨hreply, _, _⟩ := h x hx
  rw [hreply, ht]

theorem settleOne_quiet : s.settleOne core = none := by
  have hfault : (s.core core).xq.findSome? (s.faultEnds core) = none := List.findSome?_eq_none_iff.2 fun x hx => by
    obtain ⟨_, hfate, _⟩ := h x hx
    rw [State.faultEnds, hfate]
  have hend : (s.core core).xq.find? (s.cmdEnds core) = none := List.find?_eq_none.2 fun x hx => by
    obtain ⟨_, _, hdone⟩ := h x hx
    simp [State.cmdEnds, hdone]
  rw [State.settleOne, hfault, hend]
  rfl

theorem settleFuel_quiet (fuel : Nat) : State.settleFuel fuel core s = s := by
  cases fuel with
  | zero => rfl
  | succ fuel => rw [State.settleFuel, settleOne_quiet h]

theorem settle_quiet : s.settle core = s := by
  rw [State.settle, replies_quiet h, settleFuel_quiet h]
  refine List.foldlRecOn (motive := fun t : State => t = s) _ _ rfl fun t ht x hx => ?_
  obtain ⟨_, _, hdone⟩ := h x hx
  rw [ht, if_neg (by simp [hdone])]

end Quiet

theorem quiet_of_empty {s : State} {core : CoreId} (h : (s.core core).xq = []) : ∀ x ∈ (s.core core).xq, Quiet (s.core core) x := by
  simp [h]

theorem settle_empty {s : State} {core : CoreId} (h : (s.core core).xq = []) : s.settle core = s := settle_quiet (quiet_of_empty h)

theorem afterAcq_empty {s : State} {core : CoreId} (h : (s.core core).xq = []) (id : Nat) : s.afterAcq core id = s := by
  simp [State.afterAcq, Core.cmd, h]

/-! ### The single command of a core -/

theorem producerGoes_queues (c : Core) (who : Nat) : (c.producerGoes who).xq = c.xq ∧ (c.producerGoes who).hold = c.hold := by
  unfold Core.producerGoes
  split <;> exact ⟨rfl, rfl⟩

theorem dropCmd_xq {x y : XCmd} {c : Core} (h : c.xq = [y]) (hid : y.id = x.id) : (dropCmd x c).xq = [] := by
  rw [dropCmd, (producerGoes_queues _ _).1]
  simp [h, hid]

theorem dropCmd_arch (x : XCmd) (c : Core) : (dropCmd x c).arch = c.arch := producerGoes_arch _ _

section Single
variable {s : State} {core : CoreId} {x : XCmd}

theorem cmd_single (h : (s.core core).xq = [x]) : (s.core core).cmd x.id = some x := by
  simp [Core.cmd, h]

theorem rmwOf_single {p : Place} (h : (s.core core).xq = [x]) (hrmw : x.rmw = some p) : (s.core core).rmwOf x.id = some (x, p) := by
  simp [Core.rmwOf, cmd_single h, hrmw]

/-- A command without a signal and outside a bundle leaves its queue as it ends. -/
theorem settleOne_single (hxq : (s.core core).xq = [x]) (hfate : x.fate = none) (hends : s.cmdEnds core x = true)
    (hse : x.sig.se = false) (hbundle : x.bundle = none) : s.settleOne core = some (s.modCore core (dropCmd x)) := by
  have hfault : (s.core core).xq.findSome? (s.faultEnds core) = none := by
    rw [hxq]
    simp [State.faultEnds, hfate]
  have hfind : (s.core core).xq.find? (s.cmdEnds core) = some x := by
    rw [hxq]
    simp [hends]
  rw [State.settleOne, hfault, hfind]
  simp only [Option.map_some, hse, Bool.false_eq_true, if_false, State.bundleCopyEnd, hbundle, State.signal, Bool.not_false,
    if_true, Option.some.injEq]
  rfl

theorem settle_single {t : State} (hreplies : s.replies core = t) (hxq : (t.core core).xq = [x]) (hfate : x.fate = none)
    (hends : t.cmdEnds core x = true) (hse : x.sig.se = false) (hbundle : x.bundle = none) :
    s.settle core = t.modCore core (dropCmd x) := by
  have hempty : ((t.modCore core (dropCmd x)).core core).xq = [] := by
    rw [core_modCore_self]
    exact dropCmd_xq hxq rfl
  have hfuel : State.settleFuel 130 core t = t.modCore core (dropCmd x) := by
    rw [State.settleFuel, settleOne_single hxq hfate hends hse hbundle]
    exact settleFuel_quiet (quiet_of_empty hempty) 129
  rw [State.settle, hreplies, hfuel, hempty]
  rfl

end Single

/-! ### The old value of a read-modify-write (R172, R211) -/

/-- A read-modify-write whose old value has reached RET. -/
def replied (x : XCmd) : XCmd := { x with doneSecs := [0], heldSecs := [], rmw := none, reply := none }

theorem sparesEngines_poisonst (n : W32) : SparesEngines (fun a => { a with poisonst := a.poisonst ||| n }) :=
  sparesEngines_ext (fun _ => rfl) (fun _ => rfl) (fun _ => rfl) (fun _ => rfl) (fun _ => rfl) (fun _ => rfl)

theorem depositFrame_noteDelivered (c : Core) (po : Bool) : DepositFrame c (c.noteDelivered po) := by
  unfold Core.noteDelivered
  split
  · exact depositFrame_modArch (sparesEngines_poisonst 2) c
  · exact .refl c

theorem DepositFrame.xq {c d : Core} (h : DepositFrame c d) : d.xq = c.xq := (congrArg Core.xq h.rest :)

/-- A core in whose scratchpad the old value of a command has been deposited. -/
def repliedCore (x : XCmd) (old : List Byte) (po : Bool) (c : Core) : Core :=
  ((c.scrWrite (.command x.epoch) .x x.blk.ret old po x.blk.unit).cmdWrites x 1).noteDelivered po

theorem depositFrame_repliedCore (x : XCmd) (old : List Byte) (po : Bool) (c : Core) : DepositFrame c (repliedCore x old po c) :=
  ((depositFrame_scrWrite _ _ _ _ _ _ _ c).trans (depositFrame_alter (sparesEngines_orderNewest _ _) _ _)).trans
    (depositFrame_noteDelivered _ _)

theorem noteDelivered_scr (c : Core) (po : Bool) : (c.noteDelivered po).arch.scr = c.arch.scr := by
  unfold Core.noteDelivered
  split <;> rfl

theorem repliedCore_scr (x : XCmd) (old : List Byte) (po : Bool) (c : Core) :
    (repliedCore x old po c).arch.scr = Store.put 0 c.arch.scr x.blk.ret old := by
  rw [repliedCore, noteDelivered_scr, Core.cmdWrites, alter_arch]
  exact scrWrite_scr c _ _ _ _ _ _ _

section Reply
variable {s : State} {core : CoreId} {x y : XCmd}

theorem finishReply_core (old : List Byte) (po : Bool) : (s.finishReply core x old po).core core =
    (repliedCore x old po (s.core core)).modCmd x.id replied := core_modCore_self s core _

theorem finishReply_xq (hxq : (s.core core).xq = [y]) (hid : y.id = x.id) (old : List Byte) (po : Bool) :
    ((s.finishReply core x old po).core core).xq = [replied y] := by
  rw [finishReply_core, Core.modCmd, (depositFrame_repliedCore x old po _).xq, hxq]
  simp [hid]

theorem finishReply_scr (old : List Byte) (po : Bool) :
    ((s.finishReply core x old po).core core).arch.scr = Store.put 0 (s.core core).arch.scr x.blk.ret old := by
  rw [finishReply_core]
  exact repliedCore_scr x old po _

theorem replies_single {old : List Byte} {po : Bool} (hxq : (s.core core).xq = [x]) (hreply : x.reply = some (old, po))
    (hleases : (s.core core).arch.leases = []) : s.replies core = s.finishReply core x old po := by
  have hfree : (s.core core).arch.leased x.blk.ret x.blk.unit = false := by simp [Arch.leased, hleases]
  rw [State.replies, hxq, List.foldl_cons, List.foldl_nil, hreply]
  simp only [hfree, Bool.false_eq_true, if_false]

end Reply

/-! ### Writes that are performed at DEVICE scope (R224) -/

/-- Every write in the log has come to the place that the policy gives: all but those to remote targets that have not
acknowledged. -/
def AllPerformed (s : State) : Prop := s.performed 1 (fun _ => true) = true

theorem doneAt_device (d e : Dev) (now : Nat) {v w : MemWr} (h : SameWrite v w) : d.doneAt now 1 w = e.doneAt now 1 v := by
  obtain ⟨_, hplace, hseq⟩ := h
  unfold Dev.doneAt
  rw [hplace, hseq]
  split <;> simp

theorem allPerformed_iff (s : State) : AllPerformed s ↔ ∀ w ∈ s.dev.wlog, s.dev.doneAt s.cycle 1 w = true := by
  simp [AllPerformed, State.performed]

theorem performed_of_all {s : State} (h : AllPerformed s) (p : MemWr → Bool) : s.performed 1 p = true := by
  rw [allPerformed_iff] at h
  simp only [State.performed, List.all_eq_true, Bool.or_eq_true]
  exact fun w hw => .inr (h w hw)

theorem allPerformed_of_log {s t : State} (h : AllPerformed s) (hnow : t.now = s.now) (hlog : OnlyLearns s.dev t.dev) :
    AllPerformed t := by
  rw [allPerformed_iff] at h ⊢
  intro w hw
  obtain ⟨v, hv, hsame⟩ := hlog w hw
  have hcycle : t.cycle = s.cycle := by rw [State.cycle, hnow, State.cycle]
  rw [hcycle, doneAt_device t.dev s.dev s.cycle hsame]
  exact h v hv

/-! ### A read-modify-write that comes to its end (R211, R213) -/

/-- A read-modify-write in progress, alone in its core's queue, with neither signal nor bundle, and nothing that holds back its
old value or its completion. -/
structure LoneRmw (s : State) (core : CoreId) (x : XCmd) : Prop where
  xq : (s.core core).xq = [x]
  form : x.blk.form ∈ [4, 5]
  st : x.st = .running
  fate : x.fate = none
  se : x.sig.se = false
  bundle : x.bundle = none
  leases : (s.core core).arch.leases = []
  performed : AllPerformed s

theorem modCmd_single {c : Core} {x : XCmd} (h : c.xq = [x]) (f : XCmd → XCmd) : (c.modCmd x.id f).xq = [f x] := by
  simp [Core.modCmd, h]

/-- With its unit done a read-modify-write has done all its work (R205). -/
theorem allDone_replied (c : Core) {x : XCmd} (hform : x.blk.form ∈ [4, 5]) (hst : x.st = .running) :
    c.allDone (replied x) = true := by
  simp only [List.mem_cons, List.not_mem_nil, or_false] at hform
  rcases hform with h | h <;> simp [Core.allDone, replied, hst, h]

/-- A command whose old value has come (R172). -/
def answered (old : List Byte) (po : Bool) (x : XCmd) : XCmd := { x with reply := some (old, po) }

/-- The old value of a command has come, and nothing has been done with it yet. -/
def answering (s : State) (core : CoreId) (x : XCmd) (old : List Byte) (po : Bool) : State :=
  s.modCore core (fun c => c.modCmd x.id (answered old po))

/-- The state when that value has been deposited and the command has ended. -/
def answeredState (s : State) (core : CoreId) (x : XCmd) (old : List Byte) (po : Bool) : State :=
  ((answering s core x old po).finishReply core (answered old po x) old po).modCore core (dropCmd (replied x))

theorem answering_arch (s : State) (core : CoreId) (x : XCmd) (old : List Byte) (po : Bool) :
    ((answering s core x old po).core core).arch = (s.core core).arch := by
  rw [answering, core_modCore_self]
  rfl

section Finish
variable {s : State} {core : CoreId} {x : XCmd} (h : LoneRmw s core x) (old : List Byte) (po : Bool)
include h

theorem answering_xq : ((answering s core x old po).core core).xq = [answered old po x] := by
  rw [answering, core_modCore_self]
  exact modCmd_single h.xq _

theorem finishReply_answering_xq :
    (((answering s core x old po).finishReply core (answered old po x) old po).core core).xq = [replied x] :=
  finishReply_xq (answering_xq h old po) rfl old po

theorem answeredState_xq : ((answeredState s core x old po).core core).xq = [] := by
  rw [answeredState, core_modCore_self]
  exact dropCmd_xq (finishReply_answering_xq h old po) rfl

theorem settle_answering : (answering s core x old po).settle core = answeredState s core x old po := by
  have hleases : ((answering s core x old po).core core).arch.leases = [] := by rw [answering_arch, h.leases]
  have hends : ((answering s core x old po).finishReply core (answered old po x) old po).cmdEnds core (replied x) = true := by
    have hperf : AllPerformed ((answering s core x old po).finishReply core (answered old po x) old po) := h.performed
    have hscope : (replied x).endScope = 1 := by simp [XCmd.endScope, replied, h.se]
    have hsent : ((answering s core x old po).finishReply core (answered old po x) old po).sigStalls core (replied x) = false := by
      simp [State.sigStalls, replied, h.se]
    rw [State.cmdEnds, allDone_replied _ h.form h.st, hscope, performed_of_all hperf, hsent]
    rfl
  exact settle_single (replies_single (answering_xq h old po) rfl hleases) (finishReply_answering_xq h old po) h.fate hends h.se
    h.bundle

theorem rmwFinish_eq : s.rmwFinish core x old po = answeredState s core x old po := by
  change ((answering s core x old po).settle core).afterAcq core x.id = _
  rw [settle_answering h, afterAcq_empty (answeredState_xq h old po)]

theorem rmwFinish_xq : ((s.rmwFinish core x old po).core core).xq = [] := by
  rw [rmwFinish_eq h, answeredState_xq h]

theorem rmwFinish_scr : ((s.rmwFinish core x old po).core core).arch.scr = Store.put 0 (s.core core).arch.scr x.blk.ret old := by
  rw [rmwFinish_eq h, answeredState, core_modCore_self, dropCmd_arch, finishReply_scr, answering_arch]
  rfl

theorem rmwFinish_notes : OnlyNotes s.dev (s.rmwFinish core x old po).dev := by
  rw [rmwFinish_eq h]
  rfl

end Finish

/-! ### A command that faults (R218) -/

theorem arch_modCore {f : Core → Core} (hf : ∀ c, (f c).arch = c.arch) (s : State) (k j : CoreId) :
    ((s.modCore k f).core j).arch = (s.core j).arch := by
  by_cases hj : j = k
  · subst hj
    rw [core_modCore_self]
    exact hf _
  · rw [core_modCore_ne _ _ _ _ hj]

/-- A command faults with a code: it leaves its queue, and the engine that issued it takes the code next. -/
structure Cut (s t : State) (core : CoreId) (x : XCmd) (code : BitVec 8) (va : Nat) : Prop where
  xq : (t.core core).xq = []
  async : ((t.core (coreId x.fromCore)).arch.eng x.fromTh).async =
    ((s.core (coreId x.fromCore)).arch.eng x.fromTh).async ++ [(code, BitVec.ofNat 64 va)]

theorem recordEntries_le (s : State) (die : Fin 2) : s.recordEntries die ≤ 2 := by
  unfold State.recordEntries
  split <;> decide

section Fault
variable {s : State} {core : CoreId} {x : XCmd} (hbe : x.blk.be = false) (code : BitVec 8) (va : Nat) (wr mal : Bool)

/-! #### The command is cancelled -/

section Cancel
include hbe

theorem cancelCmd_arch (j : CoreId) : ((s.cancelCmd core x code va wr mal).core j).arch = (s.core j).arch := by
  simp only [State.cancelCmd, State.withdraw, core_modDev, hbe, Bool.false_eq_true, if_false]
  refine (arch_modCore ?_ _ core j).trans (arch_modCore ?_ s core j) <;> exact fun _ => rfl

theorem cancelCmd_xq (hxq : (s.core core).xq = [x]) : ∃ y, ((s.cancelCmd core x code va wr mal).core core).xq = [y] ∧ y.id = x.id := by
  simp only [State.cancelCmd, State.withdraw, core_modDev, core_modCore_self, hbe, Bool.false_eq_true, if_false, hxq,
    List.map_cons, List.map_nil, if_true]
  exact ⟨_, rfl, rfl⟩

theorem cancelCmd_holdUsed : ((s.cancelCmd core x code va wr mal).core core).holdUsed ≤ (s.core core).holdUsed := by
  simp only [State.cancelCmd, State.withdraw, core_modDev, core_modCore_self, hbe, Bool.false_eq_true, if_false]
  exact (holdUsed_filter_le _ _).trans (holdUsed_filter_le (s.core core) _)

theorem cancelCmd_recordRoom (hroom : (s.core core).holdUsed + 2 ≤ 2048) :
    (s.cancelCmd core x code va wr mal).recordRoom core = true := by
  have hused := cancelCmd_holdUsed (s := s) (core := core) hbe code va wr mal
  have hentries := recordEntries_le (s.cancelCmd core x code va wr mal) (dieOf core)
  exact decide_eq_true (by omega)

end Cancel

/-! #### Its record, and the engine -/

theorem recordOut_arch (s : State) (core : CoreId) (th : Thread) (epoch : Nat) (r : FaultRec) (o : ObjRef) (page : Nat) (j : CoreId) :
    ((s.recordOut core th epoch r o page).core j).arch = (s.core j).arch := by
  rw [State.recordOut, core_modDev]
  refine arch_modCore ?_ s core j
  exact fun _ => rfl

theorem faultRecorded_arch (j : CoreId) : ((faultRecorded s core x code va wr mal).core j).arch = (s.core j).arch := by
  rw [faultRecorded, arch_modCore autoCp_arch, recordOut_arch, arch_modCore (dropCmd_arch x)]

theorem faultRecorded_xq {y : XCmd} (hxq : (s.core core).xq = [y]) (hid : y.id = x.id) :
    ((faultRecorded s core x code va wr mal).core core).xq = [] := by
  rw [faultRecorded, core_modCore_self, (autoCp_queues _).1, State.recordOut, core_modDev, core_modCore_self, core_modCore_self]
  exact dropCmd_xq hxq hid

theorem asyncKept_xq (s : State) (k j : CoreId) (epoch : Nat) (th : Thread) :
    ((s.modCore k (fun c => c.asyncKept epoch th code va)).core j).xq = (s.core j).xq := by
  by_cases hj : j = k
  · subst hj
    rw [core_modCore_self]
    rfl
  · rw [core_modCore_ne _ _ _ _ hj]

theorem faultOut_cut {y : XCmd} (hbundle : x.bundle = none) (hxq : (s.core core).xq = [y]) (hid : y.id = x.id) :
    Cut s (s.faultOut core x code va wr mal) core x code va := by
  have hout : s.faultOut core x code va wr mal = (faultRecorded s core x code va wr mal).modCore (coreId x.fromCore)
      (fun c => c.asyncKept x.epoch x.fromTh code va) := by
    rw [faultOut_eq]
    simp [hbundle, State.bundleCopyEnd]
  rw [hout]
  refine ⟨(asyncKept_xq _ _ _ _ _ _ _).trans (faultRecorded_xq code va wr mal hxq hid), ?_⟩
  rw [core_modCore_self, Core.asyncKept, Core.keepFrom, eng_modEng_self, faultRecorded_arch]

/-- A command that is alone in its queue, credits no barrier and belongs to no bundle is cut off while the Pan has room. -/
theorem faultCmd_cut (hbe : x.blk.be = false) (hbundle : x.bundle = none) (hxq : (s.core core).xq = [x])
    (hroom : (s.core core).holdUsed + 2 ≤ 2048) : Cut s (s.faultCmd core x code va wr mal) core x code va := by
  obtain ⟨y, hy, hid⟩ := cancelCmd_xq hbe code va wr mal hxq
  have hcut := faultOut_cut (s := s.cancelCmd core x code va wr mal) code va wr mal hbundle hy hid
  have hout : s.faultCmd core x code va wr mal = (s.cancelCmd core x code va wr mal).faultOut core x code va wr mal := by
    rw [State.faultCmd, State.faultCmdOnly, cancelCmd_recordRoom hbe code va wr mal hroom]
    exact settle_empty hcut.xq
  rw [hout]
  exact ⟨hcut.xq, by rw [hcut.async, cancelCmd_arch hbe]⟩

end Fault

end Sys2Proof.Proofs
end

section
/-! Fault records (R329 to R331): the oldest record of a die is posted once nothing holds it back, and the object that a posted
record names goes on or fails when the record is resolved. -/

namespace Sys2Proof.Proofs

open Sys2Proof Sys2Proof.Machine Sys2Proof.Laws

/-! ### What a write leaves in memory -/

section Written
variable {d : Dev} {p : Place} {bs : List Byte} {k : Nat} (hk : k < bs.length) (pol : Nat) (po : Bool)
include hk

theorem get_writePlace_host (hkind : p.kind = 2) : Store.get 0 (d.writePlace p pol bs po).host (p.pa + k) = bs.getD k 0 := by
  rw [writePlace_host_host hkind, dif_pos ⟨by omega, by omega⟩, List.getD_eq_getElem _ _ hk]
  simp only [Nat.add_sub_cancel_left]

theorem get_writePlace_device (hkind : p.kind = 0) (hend : p.pa + bs.length ≤ Config.hbmBytes) :
    Store.get 0 (d.writePlace p pol bs po).hbm (p.pa + k) = bs.getD k 0 := by
  rw [writePlace_device_hbm hkind, dif_pos ⟨by omega, by omega, by omega⟩, List.getD_eq_getElem _ _ hk]
  simp only [Nat.add_sub_cancel_left]

end Written

/-! ### Interrupt vectors (R421) -/

/-- A device without the LLC and what lies behind it. -/
def withoutPool (d : Dev) : Dev := { d with lines := [], llc := [], pool := [], poolP := [] }

theorem cleanLine_rest (d : Dev) (l : Nat) : withoutPool (d.cleanLine l) = withoutPool d := by
  unfold Dev.cleanLine
  split
  · rfl
  · split <;> rfl

theorem setLlc_rest (d : Dev) (ls : List LlcLine) : withoutPool { d with llc := ls } = withoutPool d := rfl

/-- Making room in the LLC touches nothing else. -/
theorem fitLlc_rest (d : Dev) : withoutPool d.fitLlc = withoutPool d := by
  have hfold : ∀ ls : List PoolLine,
      withoutPool (ls.foldl (fun (e : Dev) p => (e.cleanLine p.line).dropLine p.line) d) = withoutPool d := fun ls =>
    List.foldlRecOn (motive := fun e : Dev => withoutPool e = withoutPool d) ls _ rfl fun e he p _ => (cleanLine_rest e p.line).trans he
  unfold Dev.fitLlc
  simp only
  split
  · rfl
  · exact (setLlc_rest _ _).trans (hfold _)

theorem tables_of_rest {d e : Dev} (h : withoutPool e = withoutPool d) : e.msix = d.msix ∧ e.wlog = d.wlog :=
  ⟨(congrArg Dev.msix h :), (congrArg Dev.wlog h :)⟩

theorem fitLlc_msix (d : Dev) : d.fitLlc.msix = d.msix := (tables_of_rest (fitLlc_rest d)).1
theorem fitLlc_wlog (d : Dev) : d.fitLlc.wlog = d.wlog := (tables_of_rest (fitLlc_rest d)).2

/-- The notes on a write are no part of the vector table. -/
theorem note_msix (d : Dev) (n : Nat) (log : List MemWr) : ({ d with wseq := n, wlog := log } : Dev).msix = d.msix := rfl

theorem storePlace_host_msix {d : Dev} {p : Place} (hkind : p.kind = 2) (pol : Nat) (bs : List Byte) (po : Bool) :
    (d.storePlace p pol bs po).msix = d.msix := by
  simp [Dev.storePlace, hkind]

theorem writePlace_host_msix {d : Dev} {p : Place} (hkind : p.kind = 2) (pol : Nat) (bs : List Byte) (po : Bool) :
    (d.writePlace p pol bs po).msix = d.msix := by
  unfold Dev.writePlace
  simp only
  split
  · rfl
  · split
    · rfl
    · exact (note_msix _ _ _).trans ((fitLlc_msix _).trans (storePlace_host_msix hkind pol _ po))

theorem irq_irqs (s : State) (vec : Nat) : (s.irq vec).irqs = if s.dev.vecMasked vec then s.irqs else s.irqs ++ [vec] := by
  unfold State.irq
  split <;> rfl

theorem irq_dev (s : State) (vec : Nat) : (s.irq vec).dev = { s.dev with msix := (s.irq vec).dev.msix } := by
  unfold State.irq
  split <;> rfl

/-! ### Posting (R330) -/

/-- A fault ring whose places are all taken. -/
def RingFull (r : FaultRing) : Prop := (r.prod + 2 ^ 64 - r.cons) % 2 ^ 64 = 2 ^ (8 + r.logn)

/-- The ring after its oldest record has been posted. -/
def postedRing (r : FaultRing) (fr : FaultRec) (o : ObjRef) (page : Nat) (rest : List (FaultRec × ObjRef × Nat × Nat)) : FaultRing :=
  { r with prod := r.prod + 1, waiting := rest, posted := r.posted ++ [⟨r.prod % 2 ^ 32, fr, o, page, decide (3 < fr.kind)⟩] }

/-- The record of a ring's next index in memory, with the ring as it is then. -/
def recordPosted (s : State) (die : Fin 2) (r : FaultRing) (fr : FaultRec) (r' : FaultRing) : State :=
  s.modDev (fun d =>
    { (d.writePlace (d.ringPlace r r.prod) 1 (fr.bytes (r.prod % 2 ^ 32)) false) with frings := d.frings.set die r' })

theorem exec_faultRecordPost (die : Fin 2) (s : State) : exec (.faultRecordPost die.val) s = .next (s.postRecord die) :=
  congrArg (fun k => Host.Outcome.next (s.postRecord k)) (Fin.ext (Nat.mod_eq_of_lt die.isLt))

theorem freeCleared_of_kind {r : FaultRec} (hkind : r.kind ≤ 3) (s : State) (core : CoreId) : s.freeCleared core r = s := by
  unfold State.freeCleared
  split
  · rfl
  · exact if_neg fun h => by omega

@[simp] theorem faultRec_bytes_length (r : FaultRec) (seq : Nat) : (r.bytes seq).length = 32 := by
  simp [FaultRec.bytes, natBytes_length]

section Post
variable {s : State} {die : Fin 2} {r : FaultRing} (hr : s.dev.frings[die] = r)
include hr

theorem postRecord_closed (h : r.en = false ∨ r.waiting = [] ∨ RingFull r) : s.postRecord die = s := by
  unfold State.postRecord
  rw [hr]
  simp only
  split
  · rfl
  next fr o page det rest hw =>
    refine if_pos ?_
    rcases h with h | h | h
    · exact .inl (by simp [h])
    · rw [h] at hw
      cases hw
    · exact .inr (.inl h)

variable {fr : FaultRec} {o : ObjRef} {page det : Nat} {rest : List (FaultRec × ObjRef × Nat × Nat)}
  (hw : r.waiting = (fr, o, page, det) :: rest)
include hw

theorem postRecord_held (h : s.recordBefore die det = true ∨ s.lateHeld page = true) : s.postRecord die = s := by
  unfold State.postRecord
  rw [hr]
  simp only [hw]
  exact if_pos (.inr (.inr h))

section Posts
variable (hen : r.en = true) (hroom : ¬RingFull r) (hfirst : s.recordBefore die det = false) (hlate : s.lateHeld page = false)
  (hkind : fr.kind ≤ 3)
include hen hroom hfirst hlate hkind

theorem postRecord_posts : s.postRecord die =
    if r.own then recordPosted s die r fr (postedRing r fr o page rest)
    else (recordPosted s die r fr (postedRing r fr o page rest)).irq r.vec := by
  have hopen : ¬((!r.en) = true ∨ RingFull r ∨ s.recordBefore die det = true ∨ s.lateHeld page = true) := by
    simp [hen, hroom, hfirst, hlate]
  unfold State.postRecord
  rw [hr]
  simp only [hw]
  refine (if_neg hopen).trans ?_
  rw [freeCleared_of_kind hkind]
  rfl

/-- A ring that the Chaperone polls raises no interrupt (R330). -/
theorem postRecord_polled (hown : r.own = true) : s.postRecord die = recordPosted s die r fr (postedRing r fr o page rest) := by
  rw [postRecord_posts hr hw hen hroom hfirst hlate hkind, if_pos hown]

theorem postRecord_driver (hown : r.own = false) :
    s.postRecord die = (recordPosted s die r fr (postedRing r fr o page rest)).irq r.vec := by
  rw [postRecord_posts hr hw hen hroom hfirst hlate hkind, if_neg (by simp [hown])]

end Posts

end Post

section Posted
variable (s : State) (die : Fin 2) {r : FaultRing} (fr : FaultRec) (r' : FaultRing)

theorem recordPosted_ring : (recordPosted s die r fr r').dev.frings[die] = r' := by
  simp [recordPosted]

/-- The ring of the driver is in host memory (R330). -/
theorem recordPosted_host (hown : r.own = false) {k : Nat} (hk : k < 32) :
    Store.get 0 (recordPosted s die r fr r').dev.host (r.base.toNat + r.prod % 2 ^ (8 + r.logn) * 32 + k) =
      (fr.bytes (r.prod % 2 ^ 32)).getD k 0 := by
  have hplace : s.dev.ringPlace r r.prod = ⟨2, r.base.toNat + r.prod % 2 ^ (8 + r.logn) * 32, 0, 0⟩ := if_neg (by simp [hown])
  have hlen : k < (fr.bytes (r.prod % 2 ^ 32)).length := by simpa using hk
  have hhost : (recordPosted s die r fr r').dev.host =
    (s.dev.writePlace (s.dev.ringPlace r r.prod) 1 (fr.bytes (r.prod % 2 ^ 32)) false).host := rfl
  rw [hhost, hplace]
  exact get_writePlace_host hlen 1 false rfl

theorem recordPosted_vecMasked (hown : r.own = false) (vec : Nat) :
    (recordPosted s die r fr r').dev.vecMasked vec = s.dev.vecMasked vec := by
  have hkind : (s.dev.ringPlace r r.prod).kind = 2 := by simp [Dev.ringPlace, hown]
  have hmsix : (recordPosted s die r fr r').dev.msix = s.dev.msix := writePlace_host_msix hkind 1 _ false
  rw [Dev.vecMasked, hmsix, Dev.vecMasked]

/-- The ring of the Chaperone is in device memory (R330). -/
theorem recordPosted_hbm (hown : r.own = true) {k : Nat} (hk : k < 32)
    (hlow : r.base.toNat + r.prod % 2 ^ (8 + r.logn) * 32 < s.dev.pwbase.toNat)
    (hend : r.base.toNat + r.prod % 2 ^ (8 + r.logn) * 32 + 32 ≤ Config.hbmBytes) :
    Store.get 0 (recordPosted s die r fr r').dev.hbm (r.base.toNat + r.prod % 2 ^ (8 + r.logn) * 32 + k) =
      (fr.bytes (r.prod % 2 ^ 32)).getD k 0 := by
  have hplace : s.dev.ringPlace r r.prod = ⟨0, r.base.toNat + r.prod % 2 ^ (8 + r.logn) * 32, 0, 0⟩ := by
    rw [Dev.ringPlace, if_pos hown, Dev.physPlace, if_neg (Nat.not_le.2 hlow)]
  have hlen : k < (fr.bytes (r.prod % 2 ^ 32)).length := by simpa using hk
  have hhbm : (recordPosted s die r fr r').dev.hbm =
    (s.dev.writePlace (s.dev.ringPlace r r.prod) 1 (fr.bytes (r.prod % 2 ^ 32)) false).hbm := rfl
  rw [hhbm, hplace]
  exact get_writePlace_device hlen 1 false rfl (by simpa using hend)

end Posted

/-! ### Replay (R331) -/

theorem fin_mod_two (die : Fin 2) : (⟨die.val % 2, Nat.mod_lt die.val (by decide)⟩ : Fin 2) = die :=
  Fin.ext (Nat.mod_eq_of_lt die.isLt)

/-- The state in which a record counts as resolved. -/
def resolvedAs (s : State) (die : Fin 2) (p : PostedRec) : State := s.modDev (fun d => d.setResolved die p)

section Resolve
variable {s : State} {die : Fin 2} {seq : BitVec 32}

theorem resolve_none (h : s.dev.toResolve die seq = none) (act : BitVec 8) :
    exec (.resolveReplay die.val seq) s = .next s ∧ exec (.resolveFail die.val seq act) s = .next s := by
  change execResolveReplay die.val seq s = .next s ∧ execResolveFail die.val seq act s = .next s
  simp only [execResolveReplay, execResolveFail, fin_mod_two, h, and_self]

variable {p : PostedRec} (h : s.dev.toResolve die seq = some p)
include h

theorem resolveReplay_some : exec (.resolveReplay die.val seq) s =
    .next ((resolvedAs s die p).unpark (coreId p.fr.core) p.fr.ctx p.obj p.page) := by
  change execResolveReplay die.val seq s = _
  simp only [execResolveReplay, fin_mod_two, h]
  rfl

/-- Only the codes of a page's faults are taken (R331). -/
theorem resolveFail_refused {act : BitVec 8} (hact : act.toNat < 0x10 ∨ 0x13 < act.toNat) :
    exec (.resolveFail die.val seq act) s = .next s := by
  change execResolveFail die.val seq act s = _
  simp only [execResolveFail, fin_mod_two, h, if_pos hact]

theorem resolveFail_stream {act : BitVec 8} {n : Nat} (hlo : 0x10 ≤ act.toNat) (hhi : act.toNat ≤ 0x13) (hobj : p.obj = .stream n)
    (hctx : (s.core (coreId p.fr.core)).ctx = p.fr.ctx) (htask : (s.core (coreId p.fr.core)).task.isSome = true)
    (hst : ((s.core (coreId p.fr.core)).arch.stream n).st = .parked) : exec (.resolveFail die.val seq act) s =
      .next ((resolvedAs s die p).faultStream (coreId p.fr.core) n act p.fr.va.toNat) := by
  have hact : ¬(act.toNat < 0x10 ∨ 0x13 < act.toNat) := by omega
  change execResolveFail die.val seq act s = _
  simp only [execResolveFail, fin_mod_two, h, if_neg hact, hobj, core_modDev, hctx, htask, hst, and_self, if_true]
  rfl

end Resolve

/-! #### A command -/

/-- A running command that has done none of its sectors is not done (R205). -/
theorem allDone_untouched (c : Core) {x : XCmd} (hform : x.blk.form ∉ [4, 5, 9]) (htotal : 1 ≤ x.blk.total) (hdone : x.doneSecs = []) :
    c.allDone x = false := by
  have hsectors : ¬x.sectors ≤ 0 := by
    rw [XCmd.sectors]
    omega
  simp only [List.mem_cons, List.not_mem_nil, or_false, not_or] at hform
  obtain ⟨h4, h5, h9⟩ := hform
  unfold Core.allDone
  split
  next h => exact absurd h h9
  next h => exact absurd h h4
  next h => exact absurd h h5
  next => simp [hdone, hsectors]

/-- A command whose parked sectors all lie on the page of the record runs on. -/
theorem unpark_command {s : State} {core : CoreId} {x : XCmd} {ctx page : Nat} (hxq : (s.core core).xq = [x]) (hst : x.st = .parked)
    (hdone : x.doneSecs = []) (hreply : x.reply = none) (hfate : x.fate = none) (hform : x.blk.form ∉ [4, 5, 9])
    (htotal : 1 ≤ x.blk.total) (hpage : ∀ q ∈ x.parked, q.page = page) :
    ((s.unpark core ctx (.command x.id) page).core core).xq = [{ x with st := .running, parked := [] }] := by
  have hleft : x.parked.filter (fun q => q.page ≠ page) = [] := List.filter_eq_nil_iff.2 fun q hq => by simp [hpage q hq]
  let t := s.modCore core (fun c => c.modCmd x.id (fun (x : XCmd) =>
    let left := x.parked.filter (fun p => p.page ≠ page)
    { x with parked := left, st := if x.st = .parked ∧ left.isEmpty then .running else x.st }))
  have ht : (t.core core).xq = [{ x with st := .running, parked := [] }] := by
    rw [core_modCore_self, modCmd_single hxq]
    simp only [hleft, hst, List.isEmpty_nil, and_self, if_true]
  have hquiet : t.settle core = t := settle_quiet (by
    rw [ht]
    simpa using ⟨hreply, hfate, allDone_untouched _ hform htotal hdone⟩)
  change ((t.settle core).core core).xq = _
  rw [hquiet, ht]

/-! #### A stream -/

theorem stream_modStream (a : Arch) (n : Nat) (f : Stream → Stream) : (a.modStream n f).stream n = f (a.stream n) := by
  simp [Arch.modStream, Arch.stream]

/-- A stream whose parked sectors all lie on the page of the record, with bytes still to come, runs on. -/
theorem stream_unpark {t : Stream} {page : Nat} (hst : t.st = .parked) (hpage : ∀ q ∈ t.parked, q.page = page)
    (hmore : t.count ≠ t.pat.total) : (t.unpark page).st = .running ∧ (t.unpark page).parked = [] := by
  have hleft : t.parked.filter (fun q => q.page ≠ page) = [] := List.filter_eq_nil_iff.2 fun q hq => by simp [hpage q hq]
  have hunpark : t.unpark page = ({ t with parked := [], st := .running } : Stream).settle := by
    simp only [Stream.unpark, hleft, hst, if_true, List.isEmpty_nil]
  rw [hunpark]
  simp [Stream.settle, Stream.live, hmore]

theorem unpark_stream {s : State} {core : CoreId} {ctx n page : Nat} (hctx : (s.core core).ctx = ctx)
    (htask : (s.core core).task.isSome = true) :
    ((s.unpark core ctx (.stream n) page).core core).arch.stream n = ((s.core core).arch.stream n).unpark page := by
  rw [State.unpark, core_modCore_self, if_pos ⟨hctx, htask⟩, Core.keep, stream_modStream]

section FaultStream
variable (s : State) (core : CoreId) (n : Nat) (code : BitVec 8) (va : Nat)

theorem faultStream_arch : ((s.faultStream core n code va).core core).arch = ((((s.core core).modArch (fun a => a.modStream n (fun t =>
    { t with st := .faulted, code := code, staged := [], parked := [], ea := BitVec.ofNat 64 va }))).asyncOn .a code va)).arch := by
  rw [State.faultStream, State.withdraw, core_modDev, core_modCore_self, core_modCore_self]

/-- A stream that goes FAULTED keeps its code, and A takes it next (R196). -/
theorem faultStream_stream : (((s.faultStream core n code va).core core).arch.stream n).st = .faulted ∧
    (((s.faultStream core n code va).core core).arch.stream n).code = code := by
  have hstreams : ((s.faultStream core n code va).core core).arch.stream n = ((s.core core).arch.modStream n (fun t =>
      { t with st := .faulted, code := code, staged := [], parked := [], ea := BitVec.ofNat 64 va })).stream n := by
    rw [faultStream_arch]
    rfl
  rw [hstreams, stream_modStream]
  exact ⟨rfl, rfl⟩

theorem faultStream_async : ((s.faultStream core n code va).core core).arch.engA.async =
    (s.core core).arch.engA.async ++ [(code, BitVec.ofNat 64 va)] := by
  rw [faultStream_arch]
  rfl

end FaultStream

end Sys2Proof.Proofs
end

section
/-! The pool (R237, R238, R334, R336) and flushing reads (R240): a region that is lost, a line that goes home or away, and the
host writes that a flushing read covers. -/

namespace Sys2Proof.Proofs

open Sys2Proof Sys2Proof.Machine Sys2Proof.Laws

/-! ### Regions that are lost (R334, R336) -/

/-- Two devices have the same pool regions and CXL links. -/
structure SameRegions (d e : Dev) : Prop where
  regions : e.regions = d.regions
  cxlUp : e.cxlUp = d.cxlUp

theorem SameRegions.trans {d e f : Dev} (h : SameRegions d e) (g : SameRegions e f) : SameRegions d f :=
  ⟨g.regions.trans h.regions, g.cxlUp.trans h.cxlUp⟩

theorem OnlyNotes.sameRegions {d e : Dev} (h : OnlyNotes d e) : SameRegions d e := ⟨h.regions, h.cxlUp⟩

theorem SameRegions.foldl {β : Type} {f : State → β → State} (hf : ∀ s x, SameRegions s.dev (f s x).dev) (xs : List β) (s : State) :
    SameRegions s.dev (xs.foldl f s).dev :=
  List.foldlRecOn (motive := fun t : State => SameRegions s.dev t.dev) xs f ⟨rfl, rfl⟩ fun t h x _ => h.trans (hf t x)

/-- The read-modify-writes of a lost region change bytes of the pool and end their commands. -/
theorem faultRmws_sameRegions (s : State) (n : Nat) : SameRegions s.dev (s.faultRmws n).dev := by
  refine SameRegions.foldl (fun s k => SameRegions.foldl (fun s x => ?_) _ s) _ s
  split
  · exact ⟨rfl, rfl⟩
  next p _ =>
    simp only
    split
    · refine SameRegions.trans ?_ (faultCmd_notes _ (coreId k) x _ _ _ _).sameRegions
      rw [bumpFree_dev]
      split <;> exact ⟨rfl, rfl⟩
    · exact ⟨rfl, rfl⟩

theorem reportLoss_notes (s : State) (ls : List Nat) : OnlyNotes s.dev (s.reportLoss ls).dev := by
  refine .foldl (fun s p => ?_) _ s
  rfl

/-- An ONLINE region goes LOST; a region in another state stays as it is. -/
def lostRegion (r : Region) : Region := if r.st = 0 then { r with st := 1 } else r

theorem lostRegion_lostRegion (r : Region) : lostRegion (lostRegion r) = lostRegion r := by
  unfold lostRegion
  by_cases h : r.st = 0 <;> simp [h]

/-- The region is LOST, and its lines have left the LLC. -/
structure RegionGone (d e : Dev) (n : Nat) : Prop where
  regions : e.regions = Store.set regionDefault d.regions n { d.region n with st := 1 }
  cxlUp : e.cxlUp = d.cxlUp
  lines : ∀ l ∈ e.lines, l.line / 2 ^ 24 ≠ n

/-- A region is marked LOST and its lines are dropped; of the writes in the log of e, which the device is now, those that had
not reached their home count as discarded (R239). -/
def dropRegion (n : Nat) (r : Region) (e d : Dev) : Dev :=
  { d with
    lines := d.lines.filter (fun p => !decide (p.line / 2 ^ 24 = n))
    regions := Store.set regionDefault d.regions n { r with st := 1 }
    discarded := d.discarded ++ e.wlog.filter (fun w =>
      w.place.kind = 1 && decide ((w.place.pa - d.pwbase.toNat) / 2 ^ 30 = n) && !e.atHome w) }

theorem SameRegions.dropRegion {d e : Dev} (h : SameRegions d e) (n : Nat) : RegionGone d (dropRegion n (d.region n) e e) n := by
  refine ⟨congrArg (Store.set regionDefault · n _) h.regions, h.cxlUp, fun l hl => ?_⟩
  simpa using (List.mem_filter.1 hl).2

theorem RegionGone.notes {d e f : Dev} {n : Nat} (h : RegionGone d e n) (hnotes : OnlyNotes e f) : RegionGone d f n :=
  ⟨hnotes.regions.trans h.regions, hnotes.cxlUp.trans h.cxlUp, hnotes.lines ▸ h.lines⟩

theorem loseRegion_eq (s : State) (n : Nat) : s.loseRegion n =
    if (s.dev.region n).st ≠ 0 then s
    else ((s.faultRmws n).modDev (dropRegion n (s.dev.region n) (s.faultRmws n).dev)).reportLoss
      ((s.dev.lines.filter (fun p => decide (p.line / 2 ^ 24 = n) && p.dirty.any id)).map (fun p => p.line)) := by
  unfold State.loseRegion
  simp only
  rfl

theorem loseRegion_offline {s : State} {n : Nat} (h : (s.dev.region n).st ≠ 0) : s.loseRegion n = s := by
  rw [loseRegion_eq, if_pos h]

theorem loseRegion_online {s : State} {n : Nat} (h : (s.dev.region n).st = 0) : RegionGone s.dev (s.loseRegion n).dev n := by
  have hgone := (faultRmws_sameRegions s n).dropRegion n
  rw [loseRegion_eq, if_neg (not_not.2 h)]
  refine RegionGone.notes ?_ (reportLoss_notes _ _)
  rw [modDev_dev]
  exact hgone

theorem loseRegion_region (s : State) (n m : Nat) :
    (s.loseRegion n).dev.region m = if m = n then lostRegion (s.dev.region m) else s.dev.region m := by
  by_cases h : (s.dev.region n).st = 0
  · rw [Dev.region, (loseRegion_online h).regions, get_set]
    by_cases hm : m = n
    · rw [if_pos hm, if_pos hm, hm, lostRegion, if_pos h]
    · rw [if_neg hm, if_neg hm, Dev.region]
  · rw [loseRegion_offline h]
    by_cases hm : m = n
    · rw [if_pos hm, hm, lostRegion, if_neg h]
    · rw [if_neg hm]

theorem loseRegion_cxlUp (s : State) (n : Nat) : (s.loseRegion n).dev.cxlUp = s.dev.cxlUp := by
  by_cases h : (s.dev.region n).st = 0
  · exact (loseRegion_online h).cxlUp
  · rw [loseRegion_offline h]

theorem foldl_loseRegion_cxlUp (ns : List Nat) (s : State) :
    (ns.foldl (fun (s : State) n => s.loseRegion n) s).dev.cxlUp = s.dev.cxlUp :=
  List.foldlRecOn (motive := fun t : State => t.dev.cxlUp = s.dev.cxlUp) ns _ rfl fun t ht n _ => (loseRegion_cxlUp t n).trans ht

theorem foldl_loseRegion_region (ns : List Nat) (s : State) (m : Nat) :
    (ns.foldl (fun (s : State) n => s.loseRegion n) s).dev.region m =
      if m ∈ ns then lostRegion (s.dev.region m) else s.dev.region m := by
  induction ns generalizing s with
  | nil => simp
  | cons n ns ih =>
    rw [List.foldl_cons, ih, loseRegion_region]
    by_cases hn : m = n <;> by_cases hm : m ∈ ns <;> simp [hn, hm, lostRegion_lostRegion]

theorem mem_of_get_ne {α : Type} {d : α} {st : Store α} {k : Nat} (h : Store.get d st k ≠ d) : (k, Store.get d st k) ∈ st := by
  induction st with
  | nil => exact absurd rfl h
  | cons p st ih =>
    rw [Store.get] at h ⊢
    by_cases hp : p.1 = k
    · rw [if_pos hp, ← hp]
      exact List.mem_cons_self
    · rw [if_neg hp] at h ⊢
      exact List.mem_cons_of_mem _ (ih h)

/-- The regions that go LOST with a link. -/
def regionsBehind (d : Dev) (cxl : Nat) : List Nat := (d.regions.filter (fun p => p.2.port = cxl && p.2.st = 0)).map (fun p => p.1)

theorem mem_regionsBehind {d : Dev} {cxl n : Nat} (hst : (d.region n).st = 0) (hport : (d.region n).port = cxl) :
    n ∈ regionsBehind d cxl := by
  have hlisted : d.region n ≠ regionDefault := fun h => by
    rw [h] at hst
    cases hst
  exact List.mem_map.2 ⟨(n, d.region n), List.mem_filter.2 ⟨mem_of_get_ne hlisted, by simp [hst, hport]⟩, rfl⟩

/-- A link has gone down, and nothing else has happened yet. -/
def linkDown (s : State) (cxl : Nat) (h : cxl < 4) : State := s.modDev (fun d => { d with cxlUp := d.cxlUp.set cxl false })

theorem exec_poolLinkDown {cxl : Nat} (h : cxl < 4) (s : State) : exec (.poolLinkDown cxl) s =
    .next ((regionsBehind s.dev cxl).foldl (fun (s : State) n => s.loseRegion n) (linkDown s cxl h)) := by
  change execPoolLinkDown cxl s = _
  rw [execPoolLinkDown, dif_pos h]
  rfl

theorem exec_poolLinkUp {cxl : Nat} (h : cxl < 4) (s : State) :
    exec (.poolLinkUp cxl) s = .next (s.modDev (fun d => { d with cxlUp := d.cxlUp.set cxl true })) := by
  change execPoolLinkUp cxl s = _
  rw [execPoolLinkUp, dif_pos h]

/-- The regions behind a link that goes down are LOST. -/
theorem poolLinkDown_loses {cxl : Nat} (h : cxl < 4) (s : State) : ∃ t : State, exec (.poolLinkDown cxl) s = .next t ∧
    t.dev.cxlUp[cxl] = false ∧ ∀ n, (s.dev.region n).st = 0 → (s.dev.region n).port = cxl → (t.dev.region n).st = 1 := by
  refine ⟨_, exec_poolLinkDown h s, ?_, fun n hst hport => ?_⟩
  · simp only [foldl_loseRegion_cxlUp, linkDown, modDev_dev, Vector.getElem_set_self]
  · have hregion : (linkDown s cxl h).dev.region n = s.dev.region n := rfl
    rw [foldl_loseRegion_region, if_pos (mem_regionsBehind hst hport), hregion, lostRegion, if_pos hst]

theorem exec_regionFailureReport {n : Nat} (h : n < 4096) (s : State) :
    exec (.regionFailureReport n) s = .next (s.loseRegion n) := congrArg Host.Outcome.next (if_pos h)

theorem regionFailureReport_loses {n : Nat} (h : n < 4096) {s : State} (hst : (s.dev.region n).st = 0) :
    ∃ t : State, exec (.regionFailureReport n) s = .next t ∧ t.dev.region n = { s.dev.region n with st := 1 } ∧
      (∀ m, m ≠ n → t.dev.region m = s.dev.region m) ∧ ∀ l ∈ t.dev.lines, l.line / 2 ^ 24 ≠ n := by
  refine ⟨_, exec_regionFailureReport h s, ?_, fun m hm => ?_, (loseRegion_online hst).lines⟩
  · rw [loseRegion_region, if_pos rfl, lostRegion, if_pos hst]
  · rw [loseRegion_region, if_neg hm]

/-! ### Lines (R237, R238) -/

theorem findLine_congr {d e : Dev} (h : e.lines = d.lines) (l : Nat) : e.findLine l = d.findLine l := by
  rw [Dev.findLine, h, Dev.findLine]

/-- A line as its writing home leaves it. -/
def cleaned (p : PoolLine) : PoolLine := { p with dirty := List.replicate 64 false, since := 0 }

theorem cleaned_dirty (p : PoolLine) : (cleaned p).dirty.any id = false := by
  simp [cleaned]

section Line
variable {d : Dev} {line : Nat} {p : PoolLine} (hfind : d.findLine line = some p)
include hfind

theorem line_of_findLine : line = p.line := by
  have h := List.find?_some hfind
  simp only [decide_eq_true_eq] at h
  exact h.symm

variable (hdirty : p.dirty.any id = true)
include hdirty

/-- A dirty line is written home and stays in the LLC clean. -/
theorem cleanLine_dirty : d.cleanLine line = { (d.putLine (cleaned p)) with
    pool := Store.put 0 d.pool (d.homeOf (64 * line)) p.bytes
    poolP := Store.set false d.poolP (d.homeOf (64 * line) / 64) p.poison } := by
  rw [Dev.cleanLine, hfind]
  exact if_pos hdirty

theorem cleanLine_findLine : (d.cleanLine line).findLine line = some (cleaned p) := by
  rw [cleanLine_dirty hfind hdirty]
  exact (findLine_putLine d (cleaned p) line).trans (if_pos (line_of_findLine hfind))

theorem cleanLine_pool : (d.cleanLine line).pool = Store.put 0 d.pool (d.homeOf (64 * line)) p.bytes := by
  rw [cleanLine_dirty hfind hdirty]

theorem cleanLine_homeOf (o : Nat) : (d.cleanLine line).homeOf o = d.homeOf o := by
  refine homeOf_congr ?_ o
  rw [cleanLine_dirty hfind hdirty]
  rfl

end Line

theorem get_put_inside {st : Store Byte} {a n : Nat} {bs : List Byte} (hlen : bs.length = n) {k : Nat} (hk : k < n) :
    Store.get 0 (Store.put 0 st a bs) (a + k) = bs.getD k 0 := by
  rw [get_put, if_pos (by omega), Nat.add_sub_cancel_left]

theorem get_put_outside {st : Store Byte} {a n : Nat} {bs : List Byte} (hlen : bs.length = n) {j : Nat} (hj : j < a ∨ a + n ≤ j) :
    Store.get 0 (Store.put 0 st a bs) j = Store.get 0 st j := by
  rw [get_put, if_neg (by omega)]

/-! #### Snoops -/

/-- A snoop to Shared leaves an Exclusive line Shared. -/
def sharedLine (s : State) (line : Nat) : State :=
  s.modDev (fun d => match d.findLine line with | some p => d.putLine { p with excl := false } | none => d)

theorem exec_biSnoop_invalid {s : State} {line : Nat} {p : PoolLine} (hbusy : s.lineBusy line = false)
    (hstate : s.dev.poolState (64 * line) = 0) (hfind : s.dev.findLine line = some p) (hexcl : p.excl = true) :
    exec (.biSnoop line false) s = .next ((s.modDev (fun d => d.cleanLine line)).takenAway line).settleAll := by
  change execBiSnoop line false s = _
  simp [execBiSnoop, hbusy, hstate, hfind, hexcl]

theorem exec_biSnoop_shared {s : State} {line : Nat} {p : PoolLine} (hbusy : s.lineBusy line = false)
    (hstate : s.dev.poolState (64 * line) = 0) (hfind : s.dev.findLine line = some p) (hexcl : p.excl = true) :
    exec (.biSnoop line true) s = .next (sharedLine (s.modDev (fun d => d.cleanLine line)) line).settleAll := by
  change execBiSnoop line true s = _
  simp only [execBiSnoop, hbusy, hstate, hfind, hexcl, Bool.false_eq_true, ne_eq, not_true_eq_false, or_self, if_false, if_true,
    Bool.not_true]
  rfl

section Snoop
variable {s : State} {line : Nat} {p : PoolLine} (hfind : s.dev.findLine line = some p) (hdirty : p.dirty.any id = true)
  (hlen : p.bytes.length = 64)
include hfind hdirty hlen

/-- A line that goes to another agent may come back changed, and no other byte of the pool does (log entry 140). -/
theorem takenAway_line : let t := ((s.modDev (fun d => d.cleanLine line)).takenAway line).settleAll
    t.dev.findLine line = none ∧ ∀ a, a < s.dev.homeOf (64 * line) ∨ s.dev.homeOf (64 * line) + 64 ≤ a →
      Store.get 0 t.dev.pool a = Store.get 0 s.dev.pool a := by
  have hnotes := settleAll_notes ((s.modDev (fun d => d.cleanLine line)).takenAway line)
  refine ⟨(findLine_congr hnotes.lines line).trans (findLine_dropLine_self (s.dev.cleanLine line) line), fun a ha => ?_⟩
  have hpool : ((s.modDev (fun d => d.cleanLine line)).takenAway line).dev.pool = Store.put 0 (s.dev.cleanLine line).pool
    ((s.dev.cleanLine line).homeOf (64 * line)) ((s.modDev (fun d => d.cleanLine line)).freeBytes 64) := rfl
  rw [hnotes.pool, hpool, cleanLine_homeOf hfind hdirty, get_put_outside (by simp [State.freeBytes]) ha,
    cleanLine_pool hfind hdirty, get_put_outside hlen ha]

/-- A line that has been written home: clean, with its bytes, which its home holds. -/
def AtHome (d e : Dev) (line : Nat) (p q : PoolLine) : Prop :=
  e.findLine line = some q ∧ q.bytes = p.bytes ∧ q.dirty.any id = false ∧
    ∀ k, k < 64 → Store.get 0 e.pool (d.homeOf (64 * line) + k) = p.bytes.getD k 0

theorem atHome_cleanLine : AtHome s.dev (s.dev.cleanLine line) line p (cleaned p) := by
  refine ⟨cleanLine_findLine hfind hdirty, rfl, cleaned_dirty p, fun k hk => ?_⟩
  rw [cleanLine_pool hfind hdirty, get_put_inside hlen hk]

theorem atHome_sharedLine : AtHome s.dev (sharedLine (s.modDev (fun d => d.cleanLine line)) line).dev line p
    { cleaned p with excl := false } := by
  obtain ⟨hline, _, _, hbytes⟩ := atHome_cleanLine hfind hdirty hlen
  have hdev : (sharedLine (s.modDev (fun d => d.cleanLine line)) line).dev =
      (s.dev.cleanLine line).putLine { cleaned p with excl := false } := by
    rw [sharedLine, modDev_dev, modDev_dev, hline]
  rw [hdev]
  exact ⟨(findLine_putLine _ _ _).trans (if_pos (line_of_findLine hfind)), rfl, cleaned_dirty p, hbytes⟩

end Snoop

theorem AtHome.notes {d e f : Dev} {line : Nat} {p q : PoolLine} (h : AtHome d e line p q) (hnotes : OnlyNotes e f) :
    AtHome d f line p q := by
  obtain ⟨hline, hsame, hclean, hbytes⟩ := h
  exact ⟨(findLine_congr hnotes.lines line).trans hline, hsame, hclean, fun k hk => by rw [hnotes.pool, hbytes k hk]⟩

theorem exec_poolWriteAck {s : State} {line : Nat} (hstate : s.dev.poolState (64 * line) = 0) :
    exec (.poolWriteAck line) s = .next (s.modDev (fun d => d.cleanLine line)).settleAll :=
  congrArg Host.Outcome.next (if_pos hstate)

/-! ### Flushing reads (R240) -/

/-- The state in which a flushing read has come back. -/
def flushDone (s : State) (core : CoreId) (n : Nat) : State :=
  (s.modCore core (fun c => { c with flushAsk := none })).modDev (fun d => { d with flushed := max d.flushed n })

theorem exec_flushRead_none {s : State} {core : CoreId} (h : (s.core core).flushAsk = none) :
    exec (.flushReadCompletion core) s = .next s := by
  change execFlushReadCompletion core s = _
  rw [execFlushReadCompletion, h]

theorem exec_flushRead_some {s : State} {core : CoreId} {n : Nat} (h : (s.core core).flushAsk = some n) :
    exec (.flushReadCompletion core) s = .next (flushDone s core n).settleAll := by
  change execFlushReadCompletion core s = _
  rw [execFlushReadCompletion, h]
  rfl

theorem flushRead_covers {s : State} {core : CoreId} {n : Nat} (h : (s.core core).flushAsk = some n) :
    ∃ t : State, exec (.flushReadCompletion core) s = .next t ∧ t.dev.flushed = max s.dev.flushed n ∧ t.dev.host = s.dev.host :=
  ⟨_, exec_flushRead_some h, (settleAll_notes _).flushed, (settleAll_notes _).host⟩

end Sys2Proof.Proofs
end

section
/-! Host AtomicOps (R213, R428, R429): they complete, fail or go to the proxy ring, whose requests are claimed and answered. With
this the events of O49 are complete. -/

namespace Sys2Proof.Proofs

open Sys2Proof Sys2Proof.Machine Sys2Proof.Laws

/-! ### The operation on host memory (R213) -/

/-- A host AtomicOp in progress, alone in its core's queue, at a place to which nothing else writes in the same cycle. -/
structure HostAtomic (s : State) (core : CoreId) (x : XCmd) (p : Place) : Prop where
  rmw : x.rmw = some p
  kind : p.kind = 2
  reply : x.reply = none
  be : x.blk.be = false
  room : (s.core core).holdUsed + 2 ≤ 2048
  alone : ∀ w ∈ s.dev.wlog, w.au.core ≠ core.val → w.au.at_ ≠ s.cycle + 1
  lone : LoneRmw s core x

/-- Every core is as it was, but for what is ordered before what. -/
def SameCores (s t : State) : Prop := ∀ k, ∃ l, t.core k = withLog l (s.core k)

theorem eng_withLog (l : List ScrWr) (c : Core) (th : Thread) : (withLog l c).arch.eng th = c.arch.eng th :=
  congrFun (eng_ext rfl rfl rfl rfl rfl) th

theorem SameCores.lone {s t : State} {core : CoreId} {x : XCmd} (h : SameCores s t) (ht : AllPerformed t) (hs : LoneRmw s core x) :
    LoneRmw t core x := by
  obtain ⟨l, hl⟩ := h core
  exact ⟨by rw [hl]; exact hs.xq, hs.form, hs.st, hs.fate, hs.se, hs.bundle, by rw [hl]; exact hs.leases, ht⟩

theorem SameCores.async {s t : State} (h : SameCores s t) (k : CoreId) (th : Thread) :
    ((t.core k).arch.eng th).async = ((s.core k).arch.eng th).async := by
  obtain ⟨l, hl⟩ := h k
  rw [hl, eng_withLog]

/-- What a host AtomicOp stores. -/
def atomicBytes (s : State) (core : CoreId) (x : XCmd) (old : Nat) : List Byte :=
  natBytes x.blk.unit (rmwNew (s.cmdView core x) x.blk (old % 2 ^ (8 * x.blk.unit)))

/-- The state in which host memory holds the result. -/
def atomicStored (s : State) (core : CoreId) (x : XCmd) (p : Place) (old : Nat) : State :=
  (s.cmdRead core x p x.blk.unit s.dev.wseq).modDev (fun d =>
    d.writePlace p 0 (atomicBytes s core x old) false (x.author core 0 x.blk.dst s.cycle))

theorem onlyOrders_hostPerform (s : State) (core : CoreId) (x : XCmd) (p : Place) (old : Nat) :
    OnlyOrders (atomicStored s core x p old) (s.hostPerform core x p old) := by
  have hcycle : (s.cmdRead core x p x.blk.unit s.dev.wseq).cycle = s.cycle := by
    rw [State.cycle, (onlyOrders_cmdRead s core x p x.blk.unit s.dev.wseq).now, State.cycle]
  have hstored : s.hostPerform core x p old = (atomicStored s core x p old).cmdReleases core x p x.blk.unit := by
    rw [State.hostPerform, hcycle]
    rfl
  rw [hstored]
  exact onlyOrders_cmdReleases _ core x p x.blk.unit

theorem hostPerform_cores (s : State) (core : CoreId) (x : XCmd) (p : Place) (old : Nat) : SameCores s (s.hostPerform core x p old) := by
  intro k
  obtain ⟨l, hl⟩ := (onlyOrders_cmdRead s core x p x.blk.unit s.dev.wseq).core k
  obtain ⟨m, hm⟩ := (onlyOrders_hostPerform s core x p old).core k
  exact ⟨m, by rw [hm, atomicStored, core_modDev, hl]; rfl⟩

/-- The log after a write to host memory. -/
theorem writePlace_host_log {d : Dev} {p : Place} (hkind : p.kind = 2) (pol : Nat) (bs : List Byte) (po : Bool) (au : Author) :
    ∀ w ∈ (d.writePlace p pol bs po au).wlog, w.place = p ∨ w ∈ d.wlog := by
  have hlost : d.lostPlace p = false := lostPlace_of_kind_ne (by omega)
  have hstore : ∀ bs, (d.storePlace p pol bs po).wlog = d.wlog := fun bs => by simp [Dev.storePlace, hkind]
  unfold Dev.writePlace
  simp only [hlost, Bool.false_eq_true, if_false]
  split
  · exact fun w hw => .inr hw
  · intro w hw
    rw [fitLlc_wlog, hstore] at hw
    rcases List.mem_cons.1 hw with rfl | hw
    · exact .inl rfl
    · exact .inr hw

section Perform
variable {s : State} {core : CoreId} {x : XCmd} {p : Place} (h : HostAtomic s core x p)
include h

theorem hostPerform_allPerformed (old : Nat) : AllPerformed (s.hostPerform core x p old) := by
  have hread := onlyOrders_cmdRead s core x p x.blk.unit s.dev.wseq
  have hbefore := allPerformed_of_log h.lone.performed hread.now hread.log
  have hafter := onlyOrders_hostPerform s core x p old
  refine allPerformed_of_log ?_ hafter.now hafter.log
  rw [allPerformed_iff] at hbefore ⊢
  intro w hw
  rcases writePlace_host_log h.kind _ _ _ _ w hw with hp | hold
  · rw [Dev.doneAt, hp, h.kind]
    rfl
  · exact (doneAt_device _ _ _ ⟨rfl, rfl, rfl⟩).trans (hbefore w hold)

theorem hostPerform_host (old : Nat) {k : Nat} (hk : k < x.blk.unit) :
    Store.get 0 (s.hostPerform core x p old).dev.host (p.pa + k) = (atomicBytes s core x old).getD k 0 := by
  have halone : ∀ w ∈ (s.cmdRead core x p x.blk.unit s.dev.wseq).dev.wlog,
      w.au.core ≠ (x.author core 0 x.blk.dst s.cycle).core → w.au.at_ ≠ (x.author core 0 x.blk.dst s.cycle).at_ := fun w hw => by
    obtain ⟨v, hv, hau, _, _⟩ := (onlyOrders_cmdRead s core x p x.blk.unit s.dev.wseq).log w hw
    rw [hau]
    exact h.alone v hv
  have hlen : k < (atomicBytes s core x old).length := by rwa [atomicBytes, natBytes_length]
  have hsame := writePlace_sameBytes_mixed (s.cmdRead core x p x.blk.unit s.dev.wseq).dev p 0 (atomicBytes s core x old) false
    (x.author core 0 x.blk.dst s.cycle)
  rw [mixed_alone halone] at hsame
  rw [(onlyOrders_hostPerform s core x p old).notes.host, atomicStored, modDev_dev, hsame.host]
  exact get_writePlace_host hlen 0 false h.kind

theorem hostPerform_atomic (old : Nat) : LoneRmw (s.hostPerform core x p old) core x :=
  (hostPerform_cores s core x p old).lone (hostPerform_allPerformed h old) h.lone

/-! ### Completions (R213) -/

section Completion
variable (hfree : ∀ q ∈ s.dev.pxreqs, ¬(q.core = core.val ∧ q.cmd = x.id))
include hfree

/-- A completion finds its command, unless the proxy ring has it. -/
theorem atomic_open :
    ¬(p.kind ≠ 2 ∨ x.reply.isSome = true ∨ s.dev.pxreqs.any (fun q => q.core = core.val && q.cmd = x.id) = true) := by
  simpa [h.kind, h.reply] using hfree

theorem exec_atomicSuccess (old : BitVec 128) (po : Bool) : exec (.hostAtomicCompletion core x.id (.success old po)) s =
    .next ((s.hostPerform core x p old.toNat).rmwFinish core x (natBytes x.blk.unit old.toNat) po) := by
  change Host.Outcome.next (s.atomicCpl core x.id (.success old po)) = _
  rw [State.atomicCpl, rmwOf_single h.lone.xq h.rmw]
  exact congrArg Host.Outcome.next (if_neg (atomic_open h hfree))

theorem exec_atomicAbort : exec (.hostAtomicCompletion core x.id .completerAbort) s =
    .next (s.faultCmd core x Code.hostAtomicUnsupported x.blk.dst true) := by
  change Host.Outcome.next (s.atomicCpl core x.id .completerAbort) = _
  rw [State.atomicCpl, rmwOf_single h.lone.xq h.rmw]
  exact congrArg Host.Outcome.next (if_neg (atomic_open h hfree))

/-- What the completer does not support goes to the proxy ring, if there is one. -/
theorem exec_atomicUnsupported : exec (.hostAtomicCompletion core x.id .unsupportedRequest) s =
    .next (if s.dev.pxen then s.proxyPost core x p else s.faultCmd core x Code.hostProxyDisabled x.blk.dst true) := by
  change Host.Outcome.next (s.atomicCpl core x.id .unsupportedRequest) = _
  rw [State.atomicCpl, rmwOf_single h.lone.xq h.rmw]
  exact congrArg Host.Outcome.next (if_neg (atomic_open h hfree))

theorem exec_atomicTimeout (performed : Bool) : exec (.atomicCompletionTimeout core x.id performed) s =
    .next ((if performed then s.hostPerform core x p (bytesNat (s.dev.readPlace p x.blk.unit)) else s).faultCmd core x
      Code.hostCompletionTimeout x.blk.dst true) := by
  change execAtomicCompletionTimeout core x.id performed s = _
  rw [execAtomicCompletionTimeout, rmwOf_single h.lone.xq h.rmw]
  exact congrArg Host.Outcome.next (if_neg (atomic_open h hfree))

end Completion

theorem faultCmd_atomic (code : BitVec 8) : Cut s (s.faultCmd core x code x.blk.dst true) core x code x.blk.dst :=
  faultCmd_cut code x.blk.dst true false h.be h.lone.bundle h.lone.xq h.room

theorem hostPerform_fault (old : Nat) (code : BitVec 8) :
    Cut s ((s.hostPerform core x p old).faultCmd core x code x.blk.dst true) core x code x.blk.dst := by
  have hcores := hostPerform_cores s core x p old
  have hroom : ((s.hostPerform core x p old).core core).holdUsed + 2 ≤ 2048 := by
    obtain ⟨l, hl⟩ := hcores core
    rw [hl]
    exact h.room
  have hcut := faultCmd_cut code x.blk.dst true false h.be h.lone.bundle (hostPerform_atomic h old).xq hroom
  exact ⟨hcut.xq, by rw [hcut.async, hcores.async]⟩

/-- The operation succeeds: the old value is in RET, and the result in host memory. -/
theorem atomic_success (old : Nat) (po : Bool) : let t := (s.hostPerform core x p old).rmwFinish core x (natBytes x.blk.unit old) po
    (t.core core).xq = [] ∧
      (∀ k, k < x.blk.unit → Store.get 0 (t.core core).arch.scr (x.blk.ret + k) = (natBytes x.blk.unit old).getD k 0) ∧
      ∀ k, k < x.blk.unit → Store.get 0 t.dev.host (p.pa + k) = (atomicBytes s core x old).getD k 0 := by
  have hlone := hostPerform_atomic h old
  refine ⟨rmwFinish_xq hlone _ po, fun k hk => ?_, fun k hk => ?_⟩
  · rw [rmwFinish_scr hlone, get_put_inside (natBytes_length _ _) hk]
  · rw [(rmwFinish_notes hlone _ po).host, hostPerform_host h old hk]

end Perform

/-! ### The proxy ring (R428, R429) -/

/-- The device with one more request in its proxy ring. -/
def pxPosted (d : Dev) (core : CoreId) (x : XCmd) (now : Nat) (record : List Byte) : Dev :=
  { d with
    host := Store.put 0 d.host (d.pxbase.toNat + d.pxprod % 2 ^ d.pxlogn * 128) record
    pxprod := d.pxprod + 1
    pxreqs := d.pxreqs ++ [⟨d.pxprod, core.val, x.id, now, false⟩] }

/-- The record of a request begins with its number. -/
theorem proxyPost_eq (s : State) (core : CoreId) (x : XCmd) (p : Place) : ∃ rest : List Byte, s.proxyPost core x p =
    ({ s with dev := pxPosted s.dev core x s.dtime (natBytes 8 s.dev.pxprod ++ rest) } : State).irq s.dev.pxvec := by
  unfold State.proxyPost
  simp only [List.append_assoc]
  exact ⟨_, rfl⟩

theorem get_put_append (st : Store Byte) (a n : Nat) (bs rest : List Byte) (hlen : bs.length = n) {k : Nat} (hk : k < n) :
    Store.get 0 (Store.put 0 st a (bs ++ rest)) (a + k) = bs.getD k 0 := by
  rw [get_put, if_pos (by rw [List.length_append]; omega), Nat.add_sub_cancel_left, List.getD_append _ _ _ _ (by omega)]

theorem proxyPost_posts (s : State) (core : CoreId) (x : XCmd) (p : Place) : let t := s.proxyPost core x p
    t.dev.pxprod = s.dev.pxprod + 1 ∧
      t.irqs = (if s.dev.vecMasked s.dev.pxvec then s.irqs else s.irqs ++ [s.dev.pxvec]) ∧
      t.dev.pxreqs = s.dev.pxreqs ++ [⟨s.dev.pxprod, core.val, x.id, s.dtime, false⟩] ∧
      ∀ k, k < 8 → Store.get 0 t.dev.host (s.dev.pxbase.toNat + s.dev.pxprod % 2 ^ s.dev.pxlogn * 128 + k) =
        (natBytes 8 s.dev.pxprod).getD k 0 := by
  obtain ⟨rest, hpost⟩ := proxyPost_eq s core x p
  rw [hpost]
  refine ⟨by rw [irq_dev]; rfl, irq_irqs _ _, by rw [irq_dev]; rfl, fun k hk => ?_⟩
  rw [irq_dev]
  exact get_put_append _ _ 8 _ rest (natBytes_length _ _) hk

/-- A request has left the proxy ring. -/
def pxDropped (s : State) (n : Nat) : State := s.modDev (fun d => d.dropPx n)

section Proxy
variable {s : State} {core : CoreId} {x : XCmd} {p : Place} {q : ProxyReq}

theorem pxDropped_reqs (hreqs : s.dev.pxreqs = [q]) : (pxDropped s q.seq).dev.pxreqs = [] := by
  simp [pxDropped, Dev.dropPx, hreqs]

variable (h : HostAtomic s core x p)
include h

theorem pxDropped_atomic (n : Nat) : HostAtomic (pxDropped s n) core x p :=
  ⟨h.rmw, h.kind, h.reply, h.be, h.room, h.alone,
    ⟨h.lone.xq, h.lone.form, h.lone.st, h.lone.fate, h.lone.se, h.lone.bundle, h.lone.leases, h.lone.performed⟩⟩

variable (hcore : q.core = core.val) (hcmd : q.cmd = x.id)
include hcore hcmd

/-- A request finds its command. -/
theorem rmwOf_request (n : Nat) : ((s.modDev (fun d => d.dropPx n)).core (coreId q.core)).rmwOf q.cmd = some (x, p) := by
  rw [hcore, coreId_val, hcmd]
  exact rmwOf_single h.lone.xq h.rmw

variable (hreqs : s.dev.pxreqs = [q]) (hseq : q.seq < 2 ^ 63)
include hreqs hseq

/-- A claimed request is answered: the command takes its old value from the record. -/
theorem exec_pxdone (hready : s.ready = true) (hclaimed : q.claimed = true) : exec (.pxdone (BitVec.ofNat 64 q.seq)) s =
    .next ((pxDropped s q.seq).rmwFinish core x
      (Store.run 0 s.dev.host (s.dev.pxbase.toNat + q.seq % 2 ^ s.dev.pxlogn * 128 + 0x38) x.blk.unit) false) := by
  have hnum : (BitVec.ofNat 64 q.seq).toNat % 2 ^ 63 = q.seq := by
    rw [BitVec.toNat_ofNat]
    omega
  have hfind : s.dev.pxreqs.find? (fun q' => s.ready && q'.seq = q.seq && q'.claimed) = some q := by
    simp [hreqs, hready, hclaimed]
  have hof := rmwOf_request h hcore hcmd q.seq
  change execPxdone (BitVec.ofNat 64 q.seq) s = _
  unfold execPxdone
  simp only [hnum, hfind, hof]
  rw [hcore, coreId_val]
  rfl

/-- A request that nobody has claimed in time fails. -/
theorem exec_proxyClaimTimeout (hclaimed : q.claimed = false) (hlate : q.postedAt + 1000 * s.dev.pxtmo ≤ s.dtime) :
    exec (.proxyClaimTimeout (BitVec.ofNat 64 q.seq)) s =
      .next ((pxDropped s q.seq).faultCmd core x Code.hostCompletionTimeout x.blk.dst true) := by
  have hnum : (BitVec.ofNat 64 q.seq).toNat = q.seq := by
    rw [BitVec.toNat_ofNat]
    omega
  have hfind : s.dev.pxreqs.find? (fun q' => q'.seq = q.seq && !q'.claimed &&
      decide (q'.postedAt + 1000 * s.dev.pxtmo ≤ s.dtime)) = some q := by
    simp [hreqs, hclaimed, hlate]
  have hof := rmwOf_request h hcore hcmd q.seq
  change execProxyClaimTimeout (BitVec.ofNat 64 q.seq) s = _
  unfold execProxyClaimTimeout
  simp only [hnum, hfind, hof]
  rw [hcore, coreId_val]
  rfl

end Proxy

/-! #### Claims -/

/-- A claim of request n is granted: it is there, unclaimed, and in time. -/
def claimable (s : State) (n : Nat) : Bool :=
  s.dev.pxreqs.any (fun q => q.seq = n && !q.claimed && decide (s.dtime < q.postedAt + 1000 * s.dev.pxtmo))

/-- The device after a claim of request n, granted or not. -/
def claimed (n : Nat) (ok : Bool) (d : Dev) : Dev :=
  { d with
    pxok := ok
    pxseq := BitVec.ofNat 64 n
    pxreqs := if ok then d.pxreqs.map (fun (q : ProxyReq) => if q.seq = n then { q with claimed := true } else q) else d.pxreqs }

theorem exec_pxclaim (seq : BitVec 64) (s : State) : exec (.pxclaim seq) s =
    .next (if !s.ready then s else s.modDev (claimed (seq.toNat % 2 ^ 63) (claimable s (seq.toNat % 2 ^ 63)))) := rfl

theorem claimable_iff (s : State) (n : Nat) : claimable s n = true ↔
    ∃ q ∈ s.dev.pxreqs, q.seq = n ∧ q.claimed = false ∧ s.dtime < q.postedAt + 1000 * s.dev.pxtmo := by
  simp [claimable, and_assoc]

theorem claimed_all (n : Nat) (d : Dev) : ∀ q ∈ (claimed n true d).pxreqs, q.seq = n → q.claimed = true := by
  intro q hq hn
  obtain ⟨r, _, rfl⟩ := List.mem_map.1 (hq : q ∈ d.pxreqs.map _)
  by_cases hr : r.seq = n
  · rw [if_pos hr]
  · rw [if_neg hr] at hn
    exact absurd hn hr

end Sys2Proof.Proofs
end

section
/-! The events of faults, the pool and the host (O49), clause by clause, and the obligation. -/

namespace Sys2Proof.Proofs

open Sys2Proof Sys2Proof.Machine Sys2Proof.Laws

/-! ### Fault records (R329 to R331) -/

section Records
variable {s : State} {die : Fin 2}

theorem faultRecordPost_closed
    (h : s.dev.frings[die].en = false ∨ s.dev.frings[die].waiting = [] ∨ RingFull s.dev.frings[die]) :
    exec (.faultRecordPost die.val) s = .next s := by
  rw [exec_faultRecordPost, postRecord_closed rfl h]

variable {fr : FaultRec} {o : ObjRef} {page det : Nat} {rest : List (FaultRec × ObjRef × Nat × Nat)}

theorem faultRecordPost_held (hw : s.dev.frings[die].waiting = (fr, o, page, det) :: rest)
    (h : s.recordBefore die det = true ∨ s.lateHeld page = true) :
    exec (.faultRecordPost die.val) s = .next s := by
  rw [exec_faultRecordPost, postRecord_held rfl hw h]

/-- The ring, the interrupt and the bytes of a record that is posted. -/
theorem postRecord_effect {r : FaultRing} (hr : s.dev.frings[die] = r) (hw : r.waiting = (fr, o, page, det) :: rest)
    (hen : r.en = true) (hroom : ¬RingFull r) (hfirst : s.recordBefore die det = false) (hlate : s.lateHeld page = false)
    (hkind : fr.kind ≤ 3) :
    let a := r.base.toNat + r.prod % 2 ^ (8 + r.logn) * 32
    let t := s.postRecord die
    t.dev.frings[die] = postedRing r fr o page rest ∧
      (r.own = false → t.irqs = (if s.dev.vecMasked r.vec then s.irqs else s.irqs ++ [r.vec]) ∧
        ∀ k, k < 32 → Store.get 0 t.dev.host (a + k) = (fr.bytes (r.prod % 2 ^ 32)).getD k 0) ∧
      (r.own = true → a < s.dev.pwbase.toNat → a + 32 ≤ Config.hbmBytes → t.irqs = s.irqs ∧
        ∀ k, k < 32 → Store.get 0 t.dev.hbm (a + k) = (fr.bytes (r.prod % 2 ^ 32)).getD k 0) := by
  have hring := recordPosted_ring s die (r := r) fr (postedRing r fr o page rest)
  cases hown : r.own with
  | false =>
    rw [postRecord_driver hr hw hen hroom hfirst hlate hkind hown]
    refine ⟨by rw [irq_dev]; exact hring, fun _ => ⟨?_, fun k hk => ?_⟩, fun hyes => absurd hyes (by decide)⟩
    · rw [irq_irqs, recordPosted_vecMasked s die fr (postedRing r fr o page rest) hown]
      rfl
    · rw [irq_dev]
      exact recordPosted_host s die fr (postedRing r fr o page rest) hown hk
  | true =>
    rw [postRecord_polled hr hw hen hroom hfirst hlate hkind hown]
    refine ⟨hring, fun hno => absurd hno (by decide), fun _ hlow hend => ⟨rfl, fun k hk => ?_⟩⟩
    exact recordPosted_hbm s die fr (postedRing r fr o page rest) hown hk hlow hend

end Records

section Resolved
variable {s : State} {die : Fin 2} {seq : BitVec 32} {p : PostedRec} (h : s.dev.toResolve die seq = some p)
include h

theorem resolveReplay_command {x : XCmd} (hobj : p.obj = .command x.id) (hxq : (s.core (coreId p.fr.core)).xq = [x])
    (hst : x.st = .parked) (hdone : x.doneSecs = []) (hreply : x.reply = none) (hfate : x.fate = none)
    (hform : x.blk.form ∉ [4, 5, 9]) (htotal : 1 ≤ x.blk.total) (hpage : ∀ q ∈ x.parked, q.page = p.page) :
    ∃ t : State, exec (.resolveReplay die.val seq) s = .next t ∧
      (t.core (coreId p.fr.core)).xq = [{ x with st := .running, parked := [] }] := by
  refine ⟨_, resolveReplay_some h, ?_⟩
  rw [hobj]
  exact unpark_command (s := resolvedAs s die p) hxq hst hdone hreply hfate hform htotal hpage

variable {n : Nat} (hobj : p.obj = .stream n) (hctx : (s.core (coreId p.fr.core)).ctx = p.fr.ctx)
  (htask : (s.core (coreId p.fr.core)).task.isSome = true) (hst : ((s.core (coreId p.fr.core)).arch.stream n).st = .parked)
include hobj hctx htask hst

theorem resolveReplay_stream (hpage : ∀ q ∈ ((s.core (coreId p.fr.core)).arch.stream n).parked, q.page = p.page)
    (hmore : ((s.core (coreId p.fr.core)).arch.stream n).count ≠ ((s.core (coreId p.fr.core)).arch.stream n).pat.total) :
    ∃ t : State, exec (.resolveReplay die.val seq) s = .next t ∧ ((t.core (coreId p.fr.core)).arch.stream n).st = .running ∧
      ((t.core (coreId p.fr.core)).arch.stream n).parked = [] := by
  refine ⟨_, resolveReplay_some h, ?_⟩
  rw [hobj, unpark_stream (s := resolvedAs s die p) hctx htask]
  exact stream_unpark hst hpage hmore

theorem resolveFail_faults {act : BitVec 8} (hlo : 0x10 ≤ act.toNat) (hhi : act.toNat ≤ 0x13) :
    ∃ t : State, exec (.resolveFail die.val seq act) s = .next t ∧ ((t.core (coreId p.fr.core)).arch.stream n).st = .faulted ∧
      ((t.core (coreId p.fr.core)).arch.stream n).code = act ∧ (t.core (coreId p.fr.core)).arch.engA.async =
        (s.core (coreId p.fr.core)).arch.engA.async ++ [(act, BitVec.ofNat 64 p.fr.va.toNat)] := by
  obtain ⟨hfaulted, hcode⟩ := faultStream_stream (resolvedAs s die p) (coreId p.fr.core) n act p.fr.va.toNat
  exact ⟨_, resolveFail_stream h hlo hhi hobj hctx htask hst, hfaulted, hcode, faultStream_async _ _ _ _ _⟩

end Resolved

/-! ### Host AtomicOps (R213, R428, R429) -/

section Atomics
variable {s : State} {core : CoreId} {x : XCmd} {p : Place} (h : HostAtomic s core x p)
include h

section Free
variable (hfree : ∀ q ∈ s.dev.pxreqs, ¬(q.core = core.val ∧ q.cmd = x.id))
include hfree

theorem atomicCompletion_success (old : BitVec 128) (po : Bool) :
    ∃ t : State, exec (.hostAtomicCompletion core x.id (.success old po)) s = .next t ∧ (t.core core).xq = [] ∧
      (∀ k, k < x.blk.unit → Store.get 0 (t.core core).arch.scr (x.blk.ret + k) = (natBytes x.blk.unit old.toNat).getD k 0) ∧
      ∀ k, k < x.blk.unit → Store.get 0 t.dev.host (p.pa + k) = (atomicBytes s core x old.toNat).getD k 0 :=
  ⟨_, exec_atomicSuccess h hfree old po, atomic_success h old.toNat po⟩

theorem atomicCompletion_abort : ∃ t : State, exec (.hostAtomicCompletion core x.id .completerAbort) s = .next t ∧
    Cut s t core x Code.hostAtomicUnsupported x.blk.dst :=
  ⟨_, exec_atomicAbort h hfree, faultCmd_atomic h _⟩

theorem atomicCompletion_refused (hpx : s.dev.pxen = false) :
    ∃ t : State, exec (.hostAtomicCompletion core x.id .unsupportedRequest) s = .next t ∧
      Cut s t core x Code.hostProxyDisabled x.blk.dst :=
  ⟨_, (exec_atomicUnsupported h hfree).trans (congrArg _ (if_neg (by simp [hpx]))), faultCmd_atomic h _⟩

theorem atomicCompletion_proxied (hpx : s.dev.pxen = true) :
    exec (.hostAtomicCompletion core x.id .unsupportedRequest) s = .next (s.proxyPost core x p) :=
  (exec_atomicUnsupported h hfree).trans (congrArg _ (if_pos hpx))

theorem atomicTimeout_cut (performed : Bool) : ∃ t : State, exec (.atomicCompletionTimeout core x.id performed) s = .next t ∧
    Cut s t core x Code.hostCompletionTimeout x.blk.dst := by
  refine ⟨_, exec_atomicTimeout h hfree performed, ?_⟩
  cases performed with
  | false => exact faultCmd_atomic h _
  | true => exact hostPerform_fault h _ _

end Free

section Request
variable {q : ProxyReq} (hcore : q.core = core.val) (hcmd : q.cmd = x.id) (hreqs : s.dev.pxreqs = [q]) (hseq : q.seq < 2 ^ 63)
include hcore hcmd hreqs hseq

theorem pxdone_completes (hready : s.ready = true) (hclaimed : q.claimed = true) :
    ∃ t : State, exec (.pxdone (BitVec.ofNat 64 q.seq)) s = .next t ∧ t.dev.pxreqs = [] ∧ (t.core core).xq = [] := by
  have hlone := (pxDropped_atomic h q.seq).lone
  exact ⟨_, exec_pxdone h hcore hcmd hreqs hseq hready hclaimed, (rmwFinish_notes hlone _ _).pxreqs.trans (pxDropped_reqs hreqs),
    rmwFinish_xq hlone _ _⟩

theorem proxyClaimTimeout_cut (hclaimed : q.claimed = false) (hlate : q.postedAt + 1000 * s.dev.pxtmo ≤ s.dtime) :
    ∃ t : State, exec (.proxyClaimTimeout (BitVec.ofNat 64 q.seq)) s = .next t ∧ t.dev.pxreqs = [] ∧
      Cut s t core x Code.hostCompletionTimeout x.blk.dst := by
  obtain ⟨hxq, hasync⟩ := faultCmd_atomic (pxDropped_atomic h q.seq) Code.hostCompletionTimeout
  exact ⟨_, exec_proxyClaimTimeout h hcore hcmd hreqs hseq hclaimed hlate,
    (faultCmd_notes _ core x _ _ _ _).pxreqs.trans (pxDropped_reqs hreqs), hxq, hasync⟩

end Request

end Atomics

theorem pxclaim_unready {s : State} (h : s.ready = false) (seq : BitVec 64) : exec (.pxclaim seq) s = .next s := by
  rw [exec_pxclaim, if_pos (by simp [h])]

theorem pxclaim_ready {s : State} (h : s.ready = true) (seq : BitVec 64) : exec (.pxclaim seq) s =
    .next (s.modDev (claimed (seq.toNat % 2 ^ 63) (claimable s (seq.toNat % 2 ^ 63)))) := by
  rw [exec_pxclaim, if_neg (by simp [h])]

/-! ### The obligation -/

/-- Settles O49: posting, resolving, losses, snoops and flushing reads are as the lemmas above say of each event; a host AtomicOp
that ends is `atomic_success` or `faultCmd_atomic`, and one that the completer does not support is `proxyPost_posts`. -/
theorem faultAndPoolEvents : Obligations.FaultAndPoolEvents := by
  unfold Obligations.FaultAndPoolEvents
  intro core s
  refine ⟨fun die => ⟨faultRecordPost_closed, fun _ _ _ _ _ hw => faultRecordPost_held hw, ?post⟩,
    fun die seq act => ⟨fun h => resolve_none h act, fun p h => ⟨fun x => resolveReplay_command h, ?stream, resolveFail_refused h⟩⟩,
    fun cxl h => ⟨poolLinkDown_loses h s, exec_poolLinkUp h s⟩,
    fun n hn => ⟨regionFailureReport_loses hn, fun hst => by rw [exec_regionFailureReport hn, loseRegion_offline hst]⟩,
    ?lines, exec_flushRead_none, fun n => flushRead_covers, ?atomics, ?claims⟩
  case post =>
    intro fr o page det rest hen hw hroom hfirst hlate hkind
    obtain ⟨hring, hhost, hhbm⟩ := postRecord_effect rfl hw hen hroom hfirst hlate hkind
    exact ⟨_, exec_faultRecordPost die s, by rw [hring]; rfl, by rw [hring]; rfl,
      ⟨_, by rw [hring]; rfl, rfl, rfl, rfl, decide_eq_false (Nat.not_lt.2 hkind)⟩, hhost, hhbm⟩
  case stream =>
    exact fun n hobj hctx htask hst hpage hmore => ⟨resolveReplay_stream h hobj hctx htask hst hpage hmore,
      resolveFail_faults h hobj hctx htask hst⟩
  case lines =>
    intro line p hfind hdirty hlen
    refine ⟨fun hbusy hstate hexcl => ⟨⟨_, exec_biSnoop_invalid hbusy hstate hfind hexcl, takenAway_line hfind hdirty hlen⟩, ?_⟩,
      fun hstate => ?_⟩
    · obtain ⟨hline, hbytes, hclean, hhome⟩ := (atHome_sharedLine hfind hdirty hlen).notes (settleAll_notes _)
      exact ⟨_, _, exec_biSnoop_shared hbusy hstate hfind hexcl, hline, rfl, hbytes, hclean, hhome⟩
    · exact ⟨_, _, exec_poolWriteAck hstate, (atHome_cleanLine hfind hdirty hlen).notes (settleAll_notes _)⟩
  case atomics =>
    intro x p cut hxq hfate hroom halone hrmw hkind hse hbundle hbe hform hst hreply hleases hperf
    have h : HostAtomic s core x p := ⟨hrmw, hkind, hreply, hbe, hroom, halone, hxq, hform, hst, hfate, hse, hbundle, hleases, hperf⟩
    refine ⟨fun hfree => ⟨atomicCompletion_success h hfree, ?_, fun hpx => ?_, fun hpx =>
      ⟨_, atomicCompletion_proxied h hfree hpx, proxyPost_posts s core x p⟩, fun performed => ?_⟩, fun q hreqs hcore hcmd hseq =>
      ⟨pxdone_completes h hcore hcmd hreqs hseq, fun hclaimed hlate => ?_⟩⟩
    · obtain ⟨t, hexec, hempty, hasync⟩ := atomicCompletion_abort h hfree
      exact ⟨t, hexec, hempty, hasync⟩
    · obtain ⟨t, hexec, hempty, hasync⟩ := atomicCompletion_refused h hfree hpx
      exact ⟨t, hexec, hempty, hasync⟩
    · obtain ⟨t, hexec, hempty, hasync⟩ := atomicTimeout_cut h hfree performed
      exact ⟨t, hexec, hempty, hasync⟩
    · obtain ⟨t, hexec, hreqs', hempty, hasync⟩ := proxyClaimTimeout_cut h hcore hcmd hreqs hseq hclaimed hlate
      exact ⟨t, hexec, hreqs', hempty, hasync⟩
  case claims =>
    refine fun seq => ⟨fun h => pxclaim_unready h seq, fun h => ⟨_, pxclaim_ready h seq, rfl, claimable_iff s _, fun hok => ?_⟩⟩
    have hgranted : claimable s (seq.toNat % 2 ^ 63) = true := hok
    rw [hgranted]
    exact claimed_all _ _

end Sys2Proof.Proofs
end

section
/-! Runs that go on (O56), and the frozen device (O55)
Every meaning ends in a next state: the words through the frame that all of them share, the others by their own
branches. A frozen device takes no turn of a core, and of the events only the read-out and the resets. -/

namespace Sys2Proof.Proofs

open Sys2Proof Sys2Proof.Machine Sys2Proof.Laws

/-! ### Every meaning ends in a next state (R305, R308) -/

theorem exec_br_goesOn (h : Hdr) (f : BrF) (s : State) : ∃ t, exec (.br h f) s = .next t := by
  dsimp only [exec, execBr, notTaken]
  split_ifs <;> exact ⟨_, rfl⟩

theorem exec_jmpl_goesOn (h : Hdr) (f : BrF) (s : State) : ∃ t, exec (.jmpl h f) s = .next t := by
  dsimp only [exec, execJmpl, notTaken]
  split_ifs <;> exact ⟨_, rfl⟩

theorem exec_waitPoll_goesOn (core : CoreId) (th : Thread) (s : State) : ∃ t, exec (.waitPoll core th) s = .next t := by
  dsimp only [exec, execWaitPoll]
  cases State.atWait { s with cur := ⟨core, th⟩ } with
  | none => exact ⟨_, rfl⟩
  | some w => dsimp only; split_ifs <;> exact ⟨_, rfl⟩

theorem exec_waitTimeout_goesOn (core : CoreId) (th : Thread) (s : State) : ∃ t, exec (.waitTimeout core th) s = .next t := by
  dsimp only [exec, execWaitTimeout]
  cases State.atWait { s with cur := ⟨core, th⟩ } with
  | none => exact ⟨_, rfl⟩
  | some w => dsimp only; split_ifs <;> exact ⟨_, rfl⟩

theorem exec_evwaitTimeout_goesOn (core : CoreId) (s : State) : ∃ t, exec (.evwaitTimeout core) s = .next t := by
  dsimp only [exec, execEvwaitTimeout]
  split
  · split_ifs <;> exact ⟨_, rfl⟩
  · exact ⟨_, rfl⟩

theorem exec_dlineDeadline_goesOn (core : CoreId) (s : State) : ∃ t, exec (.dlineDeadline core) s = .next t := by
  dsimp only [exec, execDlineDeadline]
  split
  · split_ifs <;> exact ⟨_, rfl⟩
  · exact ⟨_, rfl⟩

/-- A kernel word runs in the frame of R25 and R27; BR and JMPL decide about their guard themselves (R116, R118). A
sequencer word runs in that of R394, and any other meaning is a next state as it stands. -/
theorem exec_goesOn (i : Instr) (s : State) : ∃ t, exec i s = .next t := by
  cases i
  case
    add | sub | addi | mul | mulh | mulhu | div | divu | rem | remu | and | or | xor | andn | orn | shl | shr | sar |
    rotl | min | max | minu | maxu | cmp | sel | movi | moviZ | moviHi | movw | movwZ | lea | clz | ctz | popc | bext |
    bins | bset | bclr | mfs | mts | spld | spst | pld | sld | sst | putx | getx | pbr | bro | loop | loopj | lbrk |
    nop | taskend | sopen | sclose | scloseAbort | sstat | sfeed | sdrain | spref | xcopy | xfill | xacc | xfao |
    xcas | xgath | xscat | xcmo | xsig | fence | ssig | swait | sset | barm | bwait | bwaitTile | btestTile |
    btestStat | btestCnt | btestLate | brst | rwaitf | rwaite | rclaim | rpub | rpubInit | rpubClose | rcons |
    rconsUpto | rconsPub | rconsCons | rconsClm | rconsDrops | rconsDropb | qpush | qpoll | tqpush | trap | svc |
    rett | rettAbort | yield | csave | csaveEnd | crest | crestEnd | idle | tlbinvPage | tlbinvAsid | tlbinvAll |
    tlbprobe | sealWord | sealWait | pmarkV | pmarkA | pclrV | pclrA | vadd | vsub | vmul | vfma | vfms | vmin | vmax |
    vabs | vneg | vand | vor | vxor | vnot | vshl | vshr | vsar | vcmp | vsel | vmov | vcvt | vrqs | vmaci | vdot4 |
    vsfu | vrotr | vrotc | vbcr | vbcc | vredr | vredc | vtrn | vperm | zip2 | zip3 | zip4 | unzip2 | unzip3 | unzip4 |
    cpush | cpop | vlds | vsts | vpop | vpopSkip | vpchk | viota | vsplat | mcfg | mldw | mldwq | mswap | mstr |
    mstrq | mmv | mspm | macz | macrd | macst | macld | mfin =>
    dsimp only [exec,
      execAdd, execSub, execAddi, execMul, execMulh, execMulhu, execDiv, execDivu, execRem, execRemu, execAnd, execOr,
      execXor, execAndn, execOrn, execShl, execShr, execSar, execRotl, execMin, execMax, execMinu, execMaxu, execCmp,
      execSel, execMovi, execMoviZ, execMoviHi, execMovw, execMovwZ, execLea, execClz, execCtz, execPopc, execBext,
      execBins, execBset, execBclr, execMfs, execMts, execSpld, execSpst, execPld, execSld, execSst, execPutx,
      execGetx, execPbr, execBro, execLoop, execLoopj, execLbrk, execNop, execTaskend, execSopen, execSclose,
      execScloseAbort, execSstat, execSfeed, execSdrain, execSpref, execXcopy, execXfill, execXacc, execXfao, execXcas,
      execXgath, execXscat, execXcmo, execXsig, execFence, execSsig, execSwait, execSset, execBarm, execBwait,
      execBwaitTile, execBtestTile, execBtestStat, execBtestCnt, execBtestLate, execBrst, execRwaitf, execRwaite,
      execRclaim, execRpub, execRpubInit, execRpubClose, execRcons, execRconsUpto, execRconsPub, execRconsCons,
      execRconsClm, execRconsDrops, execRconsDropb, execQpush, execQpoll, execTqpush, execTrap, execSvc, execRett,
      execRettAbort, execYield, execCsave, execCsaveEnd, execCrest, execCrestEnd, execIdle, execTlbinvPage,
      execTlbinvAsid, execTlbinvAll, execTlbprobe, execSealWord, execSealWait, execPmarkV, execPmarkA, execPclrV,
      execPclrA, execVadd, execVsub, execVmul, execVfma, execVfms, execVmin, execVmax, execVabs, execVneg, execVand,
      execVor, execVxor, execVnot, execVshl, execVshr, execVsar, execVcmp, execVsel, execVmov, execVcvt, execVrqs,
      execVmaci, execVdot4, execVsfu, execVrotr, execVrotc, execVbcr, execVbcc, execVredr, execVredc, execVtrn,
      execVperm, execZip2, execZip3, execZip4, execUnzip2, execUnzip3, execUnzip4, execCpush, execCpop, execVlds,
      execVsts, execVpop, execVpopSkip, execVpchk, execViota, execVsplat, execMcfg, execMldw, execMldwq, execMswap,
      execMstr, execMstrq, execMmv, execMspm, execMacz, execMacrd, execMacst, execMacld, execMfin, alu, aluIdx,
      division, count, vrun, vArith, vLogic, vBits, ewWord, vMove, vLane, vReduce, vMulti, xWord]
    exact runWord_next _ _ _ _
  case br h f => exact exec_br_goesOn h f s
  case jmpl h f => exact exec_jmpl_goesOn h f s
  case waitPoll core th => exact exec_waitPoll_goesOn core th s
  case waitTimeout core th => exact exec_waitTimeout_goesOn core th s
  case evwaitTimeout core => exact exec_evwaitTimeout_goesOn core s
  case dlineDeadline core => exact exec_dlineDeadline_goesOn core s
  all_goals exact ⟨_, rfl⟩

theorem turnStep_event (i : Instr) (s : State) : turnStep (.event i) s =
    if isEvent i && (!s.dev.frozen || thaws i) then exec i (s.stamp (eventRank i) false) else .next s := rfl

theorem turnStep_goesOn (t : Turn) (s : State) : ∃ u, turnStep t s = .next u := by
  cases t with
  | thread w =>
    cases hf : State.fetch { s with cur := w } with
    | go i u =>
      rw [turn_thread_go hf]
      split_ifs
      · exact ⟨_, rfl⟩
      · exact exec_goesOn i _
    | stop u => exact ⟨_, turn_thread_stop hf⟩
  | seq c =>
    cases hf : State.seqFetch { s with cur := ⟨c, .c⟩ } with
    | go i u =>
      rw [turn_seq_go hf]
      exact exec_goesOn i _
    | stop u => exact ⟨_, turn_seq_stop hf⟩
  | event i =>
    rw [turnStep_event]
    split_ifs
    · exact exec_goesOn i _
    · exact ⟨_, rfl⟩

theorem step_goesOn (s : State) : s.goesOn := by
  cases ha : s.agenda with
  | nil => exact ⟨_, step_idle ha⟩
  | cons a rest =>
    obtain ⟨u, hu⟩ := turnStep_goesOn a.turn (State.passTo { s with agenda := rest } (s.moment (s.now + a.dt) a.turn))
    exact ⟨u, (step_turn ha).trans hu⟩

/-- Settles O56: the head of the agenda always has a next state (`turnStep_goesOn`), since every meaning has one. -/
theorem noStepStops : Obligations.NoStepStops := by
  unfold Obligations.NoStepStops
  exact fun _ t _ => step_goesOn t

/-! ### What a frozen device does (R434) -/

/-- From s to t nothing of the device has moved but the place of the read-out. -/
def StandsStill (s t : State) : Prop :=
  t.cores = s.cores ∧ t.dev = { s.dev with scanChain := t.dev.scanChain, scanWord := t.dev.scanWord } ∧
    t.wire = s.wire ∧ t.irqs = s.irqs

/-- A reset has come to the device. -/
def HasRestarted (t : State) : Prop := t.cores = State.reset.cores ∧ t.dev.frozen = false ∧ t.dev.boot = 1

theorem hasRestarted_restart (s : State) : HasRestarted s.restart := ⟨rfl, rfl, rfl⟩

/-- Of the registers a frozen device takes a write of SCANADDR and a read of SCANDATA; no access does more. -/
theorem registerWrite_standsStill {s t : State} (hfr : s.dev.frozen = true) {bar off size : Nat} {x : Option W64}
    (ht : exec (.registerWrite bar off size x) s = .next t) : StandsStill s t := by
  cases hans : s.answers bar off size with
  | false =>
    cases (exec_unanswered hans x).symm.trans ht
    exact ⟨rfl, rfl, rfl, rfl⟩
  | true =>
    obtain ⟨_, _, rfl, _⟩ := (answers_frozen_iff hfr bar off size).1 hans
    cases x with
    | some v =>
      cases (exec_answered_write hans v).symm.trans ht
      rw [State.registerWrite, if_neg (show ¬0 = 2 by decide), hfr, if_pos rfl]
      split_ifs <;> exact ⟨rfl, rfl, rfl, rfl⟩
    | none =>
      cases (exec_answered_read hans).symm.trans ht
      unfold State.registerRead
      split_ifs <;> exact ⟨rfl, rfl, rfl, rfl⟩

/-- The events that a frozen device takes: the read-out leaves it standing, a reset ends the freeze (R432, R434). -/
theorem exec_thaws {s t : State} {i : Instr} (hfr : s.dev.frozen = true) (hi : thaws i = true) (ht : exec i s = .next t) :
    StandsStill s t ∨ HasRestarted t := by
  unfold thaws at hi
  split at hi
  · cases (exec_scandata_answers (.inl hfr)).symm.trans ht
    exact .inl ⟨rfl, rfl, rfl, rfl⟩
  · exact .inl (registerWrite_standsStill hfr ht)
  case h_8 => cases hi
  all_goals
    cases ht
    exact .inr (hasRestarted_restart s)

theorem seqFetch_frozen {s : State} (hfr : s.dev.frozen = true) : s.seqFetch = .stop s := by
  simp [State.seqFetch, hfr]

theorem turnStep_frozen {s t : State} {x : Turn} (hfr : s.dev.frozen = true) (ht : turnStep x s = .next t) :
    StandsStill s t ∨ HasRestarted t := by
  cases x with
  | thread w =>
    cases (turn_thread_stop (fetch_stop (s := { s with cur := w }) (.inr hfr))).symm.trans ht
    exact .inl ⟨rfl, rfl, rfl, rfl⟩
  | seq c =>
    cases (turn_seq_stop (seqFetch_frozen (s := { s with cur := ⟨c, .c⟩ }) hfr)).symm.trans ht
    exact .inl ⟨rfl, rfl, rfl, rfl⟩
  | event i =>
    rw [turnStep_event, hfr] at ht
    split_ifs at ht with hi
    · have hthaws : isEvent i = true ∧ thaws i = true := by simpa using hi
      exact exec_thaws (s := s.stamp (eventRank i) false) hfr hthaws.2 ht
    · cases ht
      exact .inl ⟨rfl, rfl, rfl, rfl⟩

/-- Settles O55: time only moves on in a frozen device (`passTo_frozen`), and whoever has the turn leaves it standing or
resets it (`turnStep_frozen`). -/
theorem frozenDeviceWaitsForReset : Obligations.FrozenDeviceWaitsForReset := by
  unfold Obligations.FrozenDeviceWaitsForReset
  intro s t hfr ht
  cases ha : s.agenda with
  | nil =>
    cases (step_idle ha).symm.trans ht
    rw [passTo_frozen hfr]
    exact .inl ⟨rfl, rfl, rfl, rfl⟩
  | cons a rest =>
    rw [step_turn ha, passTo_frozen (s := { s with agenda := rest }) hfr] at ht
    exact turnStep_frozen (s := { s with agenda := rest, now := s.moment (s.now + a.dt) a.turn }) hfr ht

end Sys2Proof.Proofs
end

section
/-! The sequencer's scalar, control and memory words (O39, O40)
The frame that every sequencer word shares is said once: what its end makes of its effect, and what a change of the
sequencer or a write to its local memory leaves alone. -/

namespace Sys2Proof.Proofs

open Sys2Proof Sys2Proof.Machine Sys2Proof.Laws

/-! ### The sequencer's part of the state (R388) -/

@[simp] theorem here_modSeq (s : State) (f : Seq → Seq) : (s.modSeq f).here = s.here.modSeq f := here_modArch s _

@[simp] theorem seq_modSeq (s : State) (f : Seq → Seq) : (s.modSeq f).seq = f s.seq := by
  simp [State.seq, State.modSeq]

@[simp] theorem modSeq_cur (s : State) (f : Seq → Seq) : (s.modSeq f).cur = s.cur := rfl
@[simp] theorem modSeq_dev (s : State) (f : Seq → Seq) : (s.modSeq f).dev = s.dev := rfl
@[simp] theorem modSeq_now (s : State) (f : Seq → Seq) : (s.modSeq f).now = s.now := rfl

@[simp] theorem seq_modDev (s : State) (f : Dev → Dev) : (s.modDev f).seq = s.seq := rfl

theorem modSeq_modSeq (s : State) (f g : Seq → Seq) : (s.modSeq f).modSeq g = s.modSeq (fun q => g (f q)) :=
  modArch_modArch s _ _

/-- A change of the sequencer is known by what it makes of the sequencer as it is. -/
theorem modSeq_congr {s : State} {f g : Seq → Seq} (h : f s.seq = g s.seq) : s.modSeq f = s.modSeq g := by
  have hc : s.here.modSeq f = s.here.modSeq g :=
    congrArg (fun q => ({ s.here with arch := { s.here.arch with seq := q } } : Core)) h
  exact congrArg (s.setCore s.cur.core) hc

theorem modSeq_eq_self {s : State} {f : Seq → Seq} (h : f s.seq = s.seq) : s.modSeq f = s := by
  have hc : s.here.modSeq f = s.here :=
    congrArg (fun q => ({ s.here with arch := { s.here.arch with seq := q } } : Core)) h
  exact modCore_eq_self s s.cur.core (fun c => c.modSeq f) hc

theorem seq_modHere_arch {s : State} {f : Core → Core} (h : (f s.here).arch = s.arch) : (s.modHere f).seq = s.seq := by
  rw [State.seq, State.arch, here_modHere, h]
  rfl

@[simp] theorem getX_zero (q : Seq) : q.getX 0 = 0 := rfl

@[simp] theorem setX_zero (q : Seq) (v : W64) : q.setX 0 v = q := rfl

@[simp] theorem setX_lmem (q : Seq) (r : BitVec 4) (v : W64) : (q.setX r v).lmem = q.lmem := by
  unfold Seq.setX
  split <;> rfl

@[simp] theorem setX_pc (q : Seq) (r : BitVec 4) (v : W64) : (q.setX r v).pc = q.pc := by
  unfold Seq.setX
  split <;> rfl

/-! ### How a sequencer word ends (R394) -/

theorem panRoom_modSeq {s t : State} (h : panRoom s t) (f : Seq → Seq) : panRoom s (t.modSeq f) := panRoom_modArch h _

/-- A sequencer word whose effect has come about and fits into the Pan is done. -/
theorem seqFinish_done {s t : State} (h : panRoom s t) : s.seqFinish (.done t) = s.seqDone t := by
  have hroom : s.here.panLacks t.here = false := h
  simp [State.seqFinish, State.seqDone, hroom]

theorem seqFinish_seqSet (s : State) (f : SeqW) (v : Seq → W64) : s.seqFinish (seqSet f s v) = s.seqWrites f.a (v s.seq) :=
  seqFinish_done (panRoom_modSeq (panRoom_refl s) _)

/-- A word that writes x[a] alone. -/
theorem runSeq_seqSet (s : State) (f : SeqW) (v : Seq → W64) : runSeq s (fun s => seqSet f s v) = .next (s.seqWrites f.a (v s.seq)) :=
  congrArg Host.Outcome.next (seqFinish_seqSet s f v)

theorem seqAlu_eq (f : SeqW) (s : State) (g : W64 → W64 → W64) :
    seqAlu f s g = .next (s.seqWrites f.a (g (s.seq.getX f.b) (s.seq.y f))) := runSeq_seqSet s f _

theorem seqWrites_zero (s : State) (v : W64) : s.seqWrites 0 v = s.seqDone s :=
  congrArg s.seqDone (modSeq_eq_self rfl)

theorem seqFinish_jump (s : State) (pc : W64) : s.seqFinish (s.seqJump pc) = s.seqAtPc pc := by
  refine (modSeq_modSeq s (fun q => { q with pc := pc, stallSince := none, busy := s.cycle + 2 })
    (fun q => { q with busy := max q.busy (s.cycle + 1) })).trans (modSeq_congr ?_)
  have hbusy : max (s.cycle + 2) (s.cycle + 1) = s.cycle + 2 := by omega
  exact congrArg (fun b => { s.seq with pc := pc, stallSince := none, busy := b }) hbusy

/-! ### Scalar words (R394) -/

theorem exec_seqShl_bits (f : SeqW) (s : State) (n : Nat) (hn : n < 64) :
    ((s.seq.getX f.b) <<< ((s.seq.y f).toNat % 64)).getLsbD n =
      (decide ((s.seq.y f).toNat % 64 ≤ n) && (s.seq.getX f.b).getLsbD (n - (s.seq.y f).toNat % 64)) := by
  rw [BitVec.getLsbD_shiftLeft]
  by_cases h : n < (s.seq.y f).toNat % 64
  · simp [hn, h]
  · simp [hn, h, Nat.le_of_not_lt h]

/-- Settles O39: each word writes one value to x[a] (`runSeq_seqSet`), whose bits or order are those of R394. -/
theorem sequencerScalarWords : Obligations.SequencerScalarWords := by
  unfold Obligations.SequencerScalarWords
  intro f s
  have halu : ∀ g : W64 → W64 → W64, seqAlu f s g = .next (s.seqWrites f.a (g (s.seq.getX f.b) (s.seq.y f))) := seqAlu_eq f s
  refine ⟨runSeq_seqSet s f (fun q => q.getX f.b), runSeq_seqSet s f (fun _ => f.lo.signExtend 64), halu (fun a b => a + b),
    halu (fun a b => a - b), ⟨_, halu (fun a b => a &&& b), fun n _ => BitVec.getLsbD_and⟩,
    ⟨_, halu (fun a b => a ||| b), fun n _ => BitVec.getLsbD_or⟩, ⟨_, halu (fun a b => a ^^^ b), fun n _ => BitVec.getLsbD_xor⟩,
    ⟨_, halu (fun a b => a <<< (b.toNat % 64)), exec_seqShl_bits f s⟩, ⟨_, halu (fun a b => a >>> (b.toNat % 64)), fun n _ => ?_⟩,
    ⟨condHolds f.f (s.seq.getX f.b) (s.seq.y f), halu (fun a b => if condHolds f.f a b then 1 else 0), condHolds_iff _ _ _⟩,
    fun ha => ?_, rfl⟩
  · rw [BitVec.getLsbD_ushiftRight, Nat.add_comm]
  · rw [ha, seqWrites_zero]

/-! ### The end of a routine (R389, R402) -/

theorem exec_halt (f : SeqW) (s : State) : exec (.halt f) s = .next (s.seqFinish
    (if f.imm.toNat = 0 then .gone (s.seqEnd 0)
     else if 255 < f.imm.toNat ∨ !Code.all.contains (BitVec.ofNat 8 f.imm.toNat) then .fault Code.reservedField
     else .gone (s.seqEnd (BitVec.ofNat 8 f.imm.toNat)))) := rfl

theorem seqEnd_zero {s : State} {r : Routine} (hr : s.seq.routine = some r) : s.seqEnd 0 =
    (s.modSeq (fun q => { q with running := false, routine := none, stallSince := none })).modDev
      (fun d => d.modBundle r.bundle (fun b => { b with routineLive := false })) := by
  simp only [State.seqEnd, hr]
  rfl

/-- The end of a routine with a code: its bundle fails, and a record goes out. -/
theorem seqEnd_code {s : State} {r : Routine} {code : BitVec 8} (hr : s.seq.routine = some r) (hc : code ≠ 0) :
    (s.seqEnd code).seq.running = false ∧ (s.seqEnd code).seq.routine = none ∧
      (s.seqEnd code).dev.bundles = (s.dev.modBundle r.bundle (fun b => { b.fail code with routineLive := false })).bundles := by
  simp only [State.seqEnd, hr, if_neg hc]
  have hrun : (s.modSeq (fun q => { q with running := false, routine := none, stallSince := none })).seq.running = false ∧
      (s.modSeq (fun q => { q with running := false, routine := none, stallSince := none })).seq.routine = none := by
    rw [seq_modSeq]
    exact ⟨rfl, rfl⟩
  have hseq : ∀ (t : State) (e : Nat) (x : FaultRec), (t.recordOut t.cur.core .c e x .other 0).seq = t.seq := fun t e x =>
    seq_modHere_arch (s := t)
      (f := fun c => c.holdEff t.cycle (.record (dieOf t.cur.core) x .other 0 t.dev.detected) (t.recordEntries (dieOf t.cur.core)) .c x.pc e x.va.toNat) rfl
  exact ⟨(congrArg Seq.running (hseq _ _ _)).trans hrun.1, (congrArg Seq.routine (hseq _ _ _)).trans hrun.2, rfl⟩

theorem seq_gone_ends (s t : State) :
    (s.seqFinish (.gone t)).seq.running = t.seq.running ∧ (s.seqFinish (.gone t)).seq.routine = t.seq.routine := by
  have h : (s.seqFinish (.gone t)).seq = { t.seq with busy := max t.seq.busy (s.cycle + 1) } := seq_modSeq t _
  rw [h]
  exact ⟨rfl, rfl⟩

theorem exec_halt_done {f : SeqW} {s : State} {r : Routine} (hr : s.seq.routine = some r) (hn : f.imm = 0) :
    ∃ t, exec (.halt f) s = .next t ∧ t.seq.running = false ∧ t.seq.routine = none ∧
      t.dev = s.dev.modBundle r.bundle (fun b => { b with routineLive := false }) := by
  rw [exec_halt, if_pos (by rw [hn]; rfl), seqEnd_zero hr]
  refine ⟨_, rfl, (seq_gone_ends s _).1.trans ?_, (seq_gone_ends s _).2.trans ?_, rfl⟩
  · rw [seq_modDev, seq_modSeq]
  · rw [seq_modDev, seq_modSeq]

theorem exec_halt_code {f : SeqW} {s : State} {r : Routine} {c : BitVec 8} (hr : s.seq.routine = some r) (hc : c ∈ Code.all)
    (h0 : c ≠ 0) (hn : f.imm = c.zeroExtend 32) : ∃ t, exec (.halt f) s = .next t ∧ t.seq.running = false ∧ t.seq.routine = none ∧
      t.dev.bundles = (s.dev.modBundle r.bundle (fun b => { b.fail c with routineLive := false })).bundles := by
  have hnat : f.imm.toNat = c.toNat := by
    rw [hn, BitVec.toNat_setWidth]
    exact Nat.mod_eq_of_lt (by omega)
  have hpos : c.toNat ≠ 0 := fun h => h0 (BitVec.eq_of_toNat_eq h)
  have hof : BitVec.ofNat 8 c.toNat = c := (BitVec.ofNat_toNat 8 c).trans c.setWidth_eq
  have hok : ¬(255 < c.toNat ∨ (!Code.all.contains c) = true) := by
    rw [not_or]
    exact ⟨by omega, by simpa using hc⟩
  obtain ⟨hrun, hroutine, hbundles⟩ := seqEnd_code hr h0
  rw [exec_halt, hnat, hof, if_neg hpos, if_neg hok]
  exact ⟨_, rfl, (seq_gone_ends s _).1.trans hrun, (seq_gone_ends s _).2.trans hroutine, hbundles⟩

theorem exec_halt_beyond {f : SeqW} {s : State} (hn : 255 < f.imm.toNat) : exec (.halt f) s = .next (s.seqEnd Code.reservedField) := by
  rw [exec_halt, if_neg (by omega), if_pos (.inl hn)]
  rfl

/-! ### Local memory (R394) -/

theorem place_ok {q : Seq} {f : SeqW} {n : Nat} (ha : (q.ea f).toNat % n = 0) (hlt : (q.ea f).toNat + n ≤ 2 ^ 18) :
    q.place f n = .ok (q.ea f).toNat := by
  rw [Seq.place]
  rw [if_neg (not_not.2 ha), if_neg (Nat.not_lt.2 hlt)]

theorem place_misaligned {q : Seq} {f : SeqW} {n : Nat} (ha : (q.ea f).toNat % n ≠ 0) : q.place f n = .error Code.misaligned :=
  if_pos ha

theorem place_beyond {q : Seq} {f : SeqW} {n : Nat} (ha : (q.ea f).toNat % n = 0) (hlt : 2 ^ 18 < (q.ea f).toNat + n) :
    q.place f n = .error Code.reservedField := by
  rw [Seq.place]
  rw [if_neg (not_not.2 ha), if_pos hlt]

theorem seqAt_ok {s : State} {f : SeqW} {n a : Nat} (h : s.seq.place f n = .ok a) (k : Nat → SeqRes) : s.seqAt f n k = k a := by
  simp only [State.seqAt, h]

theorem seqAt_error {s : State} {f : SeqW} {n : Nat} {code : BitVec 8} (h : s.seq.place f n = .error code) (k : Nat → SeqRes) :
    s.seqAt f n k = .fault code := by
  simp only [State.seqAt, h]

/-- The address that passes the checks is aligned and within local memory. -/
theorem place_ok_iff {q : Seq} {f : SeqW} {n a : Nat} : q.place f n = .ok a ↔
    (q.ea f).toNat % n = 0 ∧ (q.ea f).toNat + n ≤ 2 ^ 18 ∧ a = (q.ea f).toNat := by
  by_cases ha : (q.ea f).toNat % n = 0
  · by_cases hlt : (q.ea f).toNat + n ≤ 2 ^ 18
    · rw [place_ok ha hlt, Except.ok.injEq]
      exact ⟨fun h => ⟨ha, hlt, h.symm⟩, fun h => h.2.2.symm⟩
    · rw [place_beyond ha (by omega)]
      exact ⟨fun h => (nomatch h), fun h => absurd h.2.1 hlt⟩
  · rw [place_misaligned ha]
    simp [ha]

theorem lwrite_hold (s : State) (a : Nat) (bs : List Byte) : (s.lwrite a bs).here.hold = s.here.hold := by
  rw [State.lwrite, here_modSeq, here_modHere]
  exact shadeRun_hold _ _ _ _ _ _

theorem lwrite_shadows (s : State) (a : Nat) (bs : List Byte) :
    (s.lwrite a bs).here.shadows = (s.here.shadeRun .seqLmem .own 512 a bs.length).shadows := by
  rw [State.lwrite, here_modSeq, here_modHere]
  rfl

theorem lwrite_seq (s : State) (a : Nat) (bs : List Byte) :
    (s.lwrite a bs).seq = { s.seq with lmem := Store.put 0 s.seq.lmem a bs } := by
  rw [State.lwrite, seq_modSeq, seq_modHere_arch (shadeRun_arch _ _ _ _ _ _)]

theorem lwrite_sameMemory (s : State) (a : Nat) (bs : List Byte) : s.sameMemory (s.lwrite a bs) :=
  sameMemory_trans (sameMemory_modHere s (by rw [shadeRun_arch])) (sameMemory_modHere _ rfl)

/-- A write of n bytes aligned to a divisor of 512 lies within one granule of the shadow pool. -/
theorem panRoom_lwrite {s : State} {a : Nat} {bs : List Byte} (hroom : s.here.shadUsed < 2048) (hn : 0 < bs.length)
    (hdvd : bs.length ∣ 512) (ha : a % bs.length = 0) : panRoom s (s.lwrite a bs) := by
  refine panRoom_one_granule hroom (by omega) ?_ (lwrite_shadows s a bs) (lwrite_hold s a bs)
  obtain ⟨k, hk⟩ := hdvd
  generalize bs.length = n at *
  obtain ⟨m, rfl⟩ := Nat.dvd_of_mod_eq_zero ha
  have hlast : n * m + n - 1 = n * m + (n - 1) := by omega
  have hlow : (n - 1) / n = 0 := Nat.div_eq_of_lt (by omega)
  rw [hk, ← Nat.div_div_eq_div_mul, ← Nat.div_div_eq_div_mul, hlast, Nat.mul_add_div hn, hlow, Nat.mul_div_cancel_left m hn]
  rfl

theorem natBytes_getD {n k : Nat} (hk : k < n) (v : W64) : (natBytes n v.toNat).getD k 0 = v.extractLsb' (8 * k) 8 := by
  simp [natBytes, hk, BitVec.extractLsb']

theorem exec_ldx (f : SeqW) (s : State) : exec (.ldx f) s = .next (s.seqFinish (s.seqAt f (2 ^ f.f.toNat) (fun a =>
    seqSet f (s.modSeq (fun q => { q with ldx := (f.a.toNat, s.cycle + 2) }))
      (fun q => BitVec.ofNat 64 (bytesNat (q.lread a (2 ^ f.f.toNat))))))) := rfl

theorem exec_stx (f : SeqW) (s : State) : exec (.stx f) s = .next (s.seqFinish (s.seqAt f (2 ^ f.f.toNat) (fun a =>
    .done (s.lwrite a (natBytes (2 ^ f.f.toNat) (s.seq.getX f.a).toNat))))) := rfl

theorem exec_ldx_done {f : SeqW} {s : State} {n a : Nat} (hn : n = 2 ^ f.f.toNat) (hat : s.seq.place f n = .ok a) :
    exec (.ldx f) s = .next (s.seqDone (s.modSeq (fun q => ({ q with ldx := (f.a.toNat, s.cycle + 2) } : Seq).setX f.a
      (BitVec.ofNat 64 (bytesNat (Store.run 0 s.seq.lmem a n)))))) := by
  subst hn
  rw [exec_ldx, seqAt_ok hat, seqSet, modSeq_modSeq]
  refine congrArg Host.Outcome.next ((seqFinish_done (panRoom_modSeq (panRoom_refl s) _)).trans (congrArg s.seqDone ?_))
  exact modSeq_congr rfl

theorem exec_stx_done {f : SeqW} {s : State} {n a : Nat} (hn : n = 2 ^ f.f.toNat) (h8 : n ≤ 8) (hat : s.seq.place f n = .ok a)
    (hroom : s.here.shadUsed < 2048) :
    exec (.stx f) s = .next (s.seqDone (s.lwrite a (natBytes n (s.seq.getX f.a).toNat))) := by
  have hlen := natBytes_length n (s.seq.getX f.a).toNat
  have hf : f.f.toNat ≤ 9 := by
    by_contra h
    have := Nat.pow_le_pow_right (n := 2) (by decide) (show 10 ≤ f.f.toNat by omega)
    omega
  have hdvd : n ∣ 512 := hn ▸ Nat.pow_dvd_pow 2 hf
  have hpos : 0 < n := hn ▸ Nat.two_pow_pos _
  obtain ⟨hal, _, rfl⟩ := place_ok_iff.1 hat
  have hp : panRoom s (s.lwrite (s.seq.ea f).toNat (natBytes n (s.seq.getX f.a).toNat)) :=
    panRoom_lwrite hroom (by rwa [hlen]) (by rwa [hlen]) (by rwa [hlen])
  subst hn
  rw [exec_stx, seqAt_ok hat, seqFinish_done hp]

theorem get_lwrite_natBytes (s : State) (a n : Nat) (v : W64) (b : Nat) : Store.get 0 (s.lwrite a (natBytes n v.toNat)).seq.lmem b =
    if a ≤ b ∧ b < a + n then v.extractLsb' (8 * (b - a)) 8 else Store.get 0 s.seq.lmem b := by
  rw [lwrite_lmem, get_put, natBytes_length]
  by_cases h : a ≤ b ∧ b < a + n
  · rw [if_pos h, if_pos h, natBytes_getD (by omega)]
  · rw [if_neg h, if_neg h]

/-- LDX and STX fault alike where their address fails a check. -/
theorem exec_memory_fault {f : SeqW} {s : State} {i : Instr} (hi : i = .ldx f ∨ i = .stx f) {code : BitVec 8}
    (hat : s.seq.place f (2 ^ f.f.toNat) = .error code) : exec i s = .next (s.seqEnd code) := by
  rcases hi with rfl | rfl
  · rw [exec_ldx, seqAt_error hat]
    rfl
  · rw [exec_stx, seqAt_error hat]
    rfl

theorem exec_brcNz (f : SeqW) (s : State) : exec (.brcNz f) s =
    .next (s.seqFinish (if s.seq.getX f.a ≠ 0 then s.seqJump (s.seq.target f) else .done s)) := rfl

theorem exec_brcZ (f : SeqW) (s : State) : exec (.brcZ f) s =
    .next (s.seqFinish (if s.seq.getX f.a = 0 then s.seqJump (s.seq.target f) else .done s)) := rfl

/-- Settles O40: a branch, call or return is a jump (`seqFinish_jump`), HALT an end of the routine, LDX and STX an access to
local memory at an address that passes its checks or faults. -/
theorem sequencerControlAndMemoryWords : Obligations.SequencerControlAndMemoryWords := by
  unfold Obligations.SequencerControlAndMemoryWords
  intro f s
  have hjump : ∀ {i : Instr} {pc : W64}, exec i s = .next (s.seqFinish (s.seqJump pc)) → exec i s = .next (s.seqAtPc pc) :=
    fun h => h.trans (congrArg _ (seqFinish_jump s _))
  have hstay : s.seqFinish (.done s) = s.seqDone s := seqFinish_done (panRoom_refl s)
  refine ⟨hjump rfl, fun hx => ⟨?_, ?_⟩, fun hx => ⟨?_, ?_⟩, ?_, hjump rfl,
    fun r hr => ⟨exec_halt_done hr, fun c hc h0 hn => exec_halt_code hr hc h0 hn⟩, exec_halt_beyond, ?_⟩
  · rw [exec_brcNz, if_pos hx, seqFinish_jump]
    rfl
  · rw [exec_brcZ, if_neg hx, hstay]
  · rw [exec_brcZ, if_pos hx, seqFinish_jump]
    rfl
  · rw [exec_brcNz, if_neg (not_not.2 hx), hstay]
  · exact congrArg Host.Outcome.next (seqFinish_jump (s.modSeq (fun q => q.setX f.a (s.seq.pc + 8))) _)
  · intro n a
    refine ⟨fun ha hlt => exec_ldx_done rfl (place_ok ha hlt), fun h8 ha hlt hroom => ⟨_, exec_stx_done rfl h8 (place_ok ha hlt) hroom,
      get_lwrite_natBytes s _ _ _, ?_, lwrite_sameMemory s _ _⟩, fun i hi => ⟨fun ha => exec_memory_fault hi (place_misaligned ha),
      fun ha hlt => exec_memory_fault hi (place_beyond ha hlt)⟩⟩
    rw [lwrite_seq]

end Sys2Proof.Proofs
end

section
/-! Events, commands and semaphores of the sequencer (O41)
What an order leaves alone is said once for the state's queues, its engines and its sequencer; a release that raises a
semaphore of the own core is one effect that the sequencer's words share. -/

namespace Sys2Proof.Proofs

open Sys2Proof Sys2Proof.Machine Sys2Proof.Laws

/-! ### What an order leaves alone -/

namespace OnlyOrders

variable {s t : State}

theorem arch (h : OnlyOrders s t) : ∃ l, t.arch = { s.arch with scrLog := l } := by
  obtain ⟨l, hl⟩ := h.here
  exact ⟨l, congrArg Core.arch hl⟩

theorem hold (h : OnlyOrders s t) : t.here.hold = s.here.hold := by
  obtain ⟨l, hl⟩ := h.here
  rw [hl]
  rfl

theorem shadows (h : OnlyOrders s t) : t.here.shadows = s.here.shadows := by
  obtain ⟨l, hl⟩ := h.here
  rw [hl]
  rfl

theorem real (h : OnlyOrders s t) : t.here.real = s.here.real := by
  obtain ⟨l, hl⟩ := h.here
  rw [hl]
  rfl

theorem seq (h : OnlyOrders s t) : t.seq = s.seq := by
  obtain ⟨l, hl⟩ := h.arch
  rw [State.seq, hl]
  rfl

theorem sem (h : OnlyOrders s t) (n : Nat) : t.arch.sem n = s.arch.sem n := by
  obtain ⟨l, hl⟩ := h.arch
  rw [hl]
  rfl

theorem panRoom (h : OnlyOrders s t) : Machine.panRoom s t := panRoom_of_same h.hold h.shadows

theorem panRoom_left (h : OnlyOrders s t) {u : State} (hp : Machine.panRoom t u) : Machine.panRoom s u := by
  have hc : s.here.panLacks u.here = t.here.panLacks u.here := by
    unfold Core.panLacks Core.shadUsed Core.holdUsed
    rw [h.hold, h.shadows]
  exact hc.trans hp

end OnlyOrders

theorem onlyOrders_semAcquire (s : State) (core : CoreId) (r n scope : Nat) : OnlyOrders s (s.semAcquire core r n scope) := by
  unfold State.semAcquire
  split
  · exact onlyOrders_inherits s core r _
  · exact ((onlyOrders_inherits s core r _).trans (onlyOrders_inherits _ core r _)).trans (onlyOrders_everywhere _ _ _)

theorem onlyOrders_semSees (s : State) (core : CoreId) (t : Thread) (n : Nat) : OnlyOrders s (s.semSees core t n) :=
  ((onlyOrders_inherits s core _ _).trans (onlyOrders_inherits _ core _ _)).trans (onlyOrders_inherits _ core _ _)

/-! ### An increment of a semaphore of the own core (R243) -/

theorem semAdd_own (c : Core) (n : Nat) (v : W32) : c.semAdd .own n v = c.modArch (fun a => a.addSem n v) := rfl

theorem sem_addSem_self (a : Arch) (n : Nat) (v : W32) : (a.addSem n v).sem n = a.sem n + v := by
  simp [Arch.addSem, Arch.setSem, Arch.sem]

theorem sem_addSem_other (a : Arch) {n m : Nat} (v : W32) (h : n % 256 ≠ m % 256) : (a.addSem n v).sem m = a.sem m :=
  Vector.getElem_set_ne (Nat.mod_lt n (by decide)) (Nat.mod_lt m (by decide)) h

theorem modHere_congr {s : State} {f g : Core → Core} (h : f s.here = g s.here) : s.modHere f = s.modHere g :=
  congrArg (s.setCore s.cur.core) h

/-- A semaphore of the core rises, and its token covers what a release picks. -/
def semRaised (s : State) (n : Nat) (v : W32) (p : ScrWr → Bool) (q : MemWr → Bool) : State :=
  (s.order s.cur.core (semTok n) p q).modHere (fun c => (c.semAdd .own n v).autoCp)

section Raised

variable (s : State) (n : Nat) (v : W32) (p : ScrWr → Bool) (q : MemWr → Bool)

theorem semRaised_arch : ∃ l, (semRaised s n v p q).arch = { s.arch.addSem n v with scrLog := l } := by
  obtain ⟨l, hl⟩ := (onlyOrders_order s s.cur.core (semTok n) p q).arch
  refine ⟨l, ?_⟩
  rw [semRaised, State.arch, here_modHere, autoCp_arch]
  exact congrArg (fun a : Arch => a.addSem n v) hl

theorem semRaised_queues : (semRaised s n v p q).here.hold = s.here.hold ∧ (semRaised s n v p q).here.shadows = s.here.shadows := by
  obtain ⟨-, hhold, hshadows⟩ := autoCp_queues ((s.order s.cur.core (semTok n) p q).here.semAdd .own n v)
  have ho := onlyOrders_order s s.cur.core (semTok n) p q
  rw [semRaised, here_modHere, hhold, hshadows]
  exact ⟨ho.hold, ho.shadows⟩

theorem panRoom_semRaised : panRoom s (semRaised s n v p q) :=
  panRoom_of_same (semRaised_queues s n v p q).1 (semRaised_queues s n v p q).2

theorem semRaised_seq : (semRaised s n v p q).seq = s.seq := by
  obtain ⟨l, hl⟩ := semRaised_arch s n v p q
  rw [State.seq, hl]
  rfl

theorem semRaised_sem_self : (semRaised s n v p q).arch.sem n = s.arch.sem n + v := by
  obtain ⟨l, hl⟩ := semRaised_arch s n v p q
  rw [hl]
  exact sem_addSem_self s.arch n v

theorem semRaised_sem_other {m : Nat} (h : n % 256 ≠ m % 256) : (semRaised s n v p q).arch.sem m = s.arch.sem m := by
  obtain ⟨l, hl⟩ := semRaised_arch s n v p q
  rw [hl]
  exact sem_addSem_other s.arch v h

/-- A signal to a semaphore of the own core is such an increment. -/
theorem signal_own {issuer : CoreId} {sg : WaitSig} {th : Thread} {pc : W64} {epoch : Nat} (hse : sg.se = true)
    (hcore : sg.sigCore = s.cur.core.val) : s.signal s.cur.core issuer .own sg th pc epoch p q =
      semRaised s sg.ss (BitVec.ofNat 32 sg.si) p q := by
  simp only [State.signal, hse, hcore]
  rfl

end Raised

/-! ### EVWAIT, EVPOP and DLINE (R390, R395) -/

theorem exec_evwait (f : SeqW) (s : State) : exec (.evwait f) s = .next (s.seqFinish (if s.seq.evq ≠ [] ∨ s.evwaitOver f then s.evwaitDone f
    else .stall (s.modSeq (fun q => { q with stallSince := some (q.stallSince.getD s.cycle) })))) := rfl

theorem evwaitOver_unlimited {s : State} {f : SeqW} (h : s.seq.y f = 0) : s.evwaitOver f = false := by
  unfold State.evwaitOver
  split
  · rfl
  · simp [h]

theorem exec_evwait_done {s : State} {f : SeqW} (h : s.seq.evq ≠ []) :
    exec (.evwait f) s = .next (s.seqWrites f.a (BitVec.ofNat 64 s.seq.evq.length)) := by
  rw [exec_evwait, if_pos (.inl h), State.evwaitDone, seqFinish_seqSet]

theorem exec_evwait_stalls {s : State} {f : SeqW} (h : s.seq.evq = []) (hy : s.seq.y f = 0) :
    ∃ t, exec (.evwait f) s = .next t ∧ t.seq.pc = s.seq.pc ∧ t.seq.x = s.seq.x ∧ t.dev = s.dev := by
  have hno : ¬(s.seq.evq ≠ [] ∨ s.evwaitOver f = true) := by simp [h, evwaitOver_unlimited hy]
  rw [exec_evwait, if_neg hno]
  refine ⟨s.modSeq (fun q => { q with stallSince := some (q.stallSince.getD s.cycle) }), rfl, ?_, ?_, rfl⟩
  · rw [seq_modSeq]
  · rw [seq_modSeq]

theorem exec_dline (f : SeqW) (s : State) : exec (.dline f) s = .next (s.seqFinish
    (if (s.seq.ea f).toNat ≤ s.dtime ∨ s.seq.evq ≠ [] then seqSet f s (fun _ => BitVec.ofNat 64 s.dtime) else .stall s)) := rfl

theorem exec_evpop (f : SeqW) (s : State) : exec (.evpop f) s = .next (s.seqFinish (s.seqAt f 32 (fun a =>
    match s.seq.evq with
    | [] => seqSet f s (fun _ => 0)
    | e :: es => seqSet f ((s.lwrite a e.bytes).modSeq (fun q => { q with evq := es })) (fun _ => e.evt.zeroExtend 64)))) := rfl

theorem exec_evpop_none {s : State} {f : SeqW} {a : Nat} (hat : s.seq.place f 32 = .ok a) (h : s.seq.evq = []) :
    exec (.evpop f) s = .next (s.seqWrites f.a 0) := by
  rw [exec_evpop, seqAt_ok hat]
  simp only [h]
  rw [seqFinish_seqSet]

theorem event_bytes_length (e : TEvent) : e.bytes.length = 32 := by simp [TEvent.bytes, natBytes_length]

theorem getX_setX (q : Seq) {r : BitVec 4} (h : r ≠ 0) (v : W64) : (q.setX r v).getX r = v := by
  rw [Seq.setX, Seq.getX, if_neg h, if_neg h]
  exact Vector.getElem_set_self _

/-- What was written to local memory is read back from there. -/
theorem get_lwrite (s : State) {a k : Nat} {bs : List Byte} (hk : k < bs.length) :
    Store.get 0 (s.lwrite a bs).seq.lmem (a + k) = bs.getD k 0 := by
  rw [lwrite_lmem, get_put, if_pos ⟨Nat.le_add_right a k, Nat.add_lt_add_left hk a⟩, Nat.add_sub_cancel_left]

/-- The bytes of an event or command stand in local memory, x[a] holds v and f has its effect on the queues. -/
theorem handedOver (s : State) (a : Nat) (bs : List Byte) (f : Seq → Seq) (r : BitVec 4) (v : W64) (hf : ∀ q, (f q).lmem = q.lmem) :
    let t := ((s.lwrite a bs).modSeq f).modSeq (fun q => q.setX r v)
    t.seq = (f (s.lwrite a bs).seq).setX r v ∧ (r ≠ 0 → t.seq.getX r = v) ∧
      ∀ k, k < bs.length → Store.get 0 t.seq.lmem (a + k) = bs.getD k 0 := by
  have ht : (((s.lwrite a bs).modSeq f).modSeq (fun q => q.setX r v)).seq = (f (s.lwrite a bs).seq).setX r v := by
    rw [seq_modSeq, seq_modSeq]
  refine ⟨ht, fun hr => by rw [ht, getX_setX _ hr], fun k hk => ?_⟩
  rw [ht, setX_lmem, hf, get_lwrite s hk]

theorem exec_evpop_some {s : State} {f : SeqW} {a : Nat} (hat : s.seq.place f 32 = .ok a) {e : TEvent} {es : List TEvent}
    (h : s.seq.evq = e :: es) (hroom : s.here.shadUsed < 2048) : ∃ t, exec (.evpop f) s = .next (s.seqDone t) ∧
      t.seq.evq = es ∧ (f.a ≠ 0 → t.seq.getX f.a = e.evt.zeroExtend 64) ∧
      ∀ k, k < 32 → Store.get 0 t.seq.lmem (a + k) = e.bytes.getD k 0 := by
  have hlen := event_bytes_length e
  obtain ⟨hal, -, ha⟩ := place_ok_iff.1 hat
  have hp : panRoom s (s.lwrite a e.bytes) :=
    panRoom_lwrite hroom (by rw [hlen]; decide) (by rw [hlen]; decide) (by rw [hlen, ha]; exact hal)
  obtain ⟨hseq, hx, hbytes⟩ := handedOver s a e.bytes (fun q => { q with evq := es }) f.a (e.evt.zeroExtend 64) fun _ => rfl
  refine ⟨_, ?_, ?_, hx, fun k hk => hbytes k (by rw [hlen]; exact hk)⟩
  · rw [exec_evpop, seqAt_ok hat]
    simp only [h]
    exact congrArg Host.Outcome.next (seqFinish_done (panRoom_modSeq (panRoom_modSeq hp _) _))
  · rw [hseq, Seq.setX]
    split <;> rfl

/-! ### CMDPOP and SEMS.done (R274, R275, R395) -/

theorem popHead_length (h : Nat) : ∀ xs : List TCmd, (popHead h xs).length = xs.length
  | [] => rfl
  | x :: xs => by
    unfold popHead
    split
    · exact congrArg (· + 1) (popHead_length h xs)
    · rfl

theorem mem_popHead (h : Nat) {x : TCmd} : ∀ {xs : List TCmd}, xs.find? (fun x => !x.popped) = some x →
    { x with popped := true, handle := h } ∈ popHead h xs
  | y :: ys, hx => by
    unfold popHead
    by_cases hy : y.popped = true
    · rw [List.find?_cons_of_neg (by simp [hy])] at hx
      rw [if_pos hy]
      exact List.mem_cons_of_mem _ (mem_popHead h hx)
    · rw [List.find?_cons_of_pos (by simp [hy]), Option.some.injEq] at hx
      rw [if_neg hy, hx]
      exact List.mem_cons_self

theorem seqHead_find {s : State} {x : TCmd} (h : s.seqHead = some x) : s.seq.cmdq.find? (fun x => !x.popped) = some x := by
  unfold State.seqHead at h
  split at h
  · exact nomatch h
  · next y hy =>
    split at h
    · rwa [← h]
    · exact nomatch h

theorem exec_cmdpop (f : SeqW) (s : State) : exec (.cmdpop f) s = .next (s.seqFinish (s.seqAt f 64 (fun a =>
    match s.seqHead with
    | none => seqSet f s (fun _ => 0)
    | some x => seqSet f (((if x.we then s.seqAcquired x.ws else s).lwrite a (padTo 64 x.bytes)).modSeq
        (fun q => { q with cmdq := popHead s.seq.freeHandle q.cmdq })) (fun _ => BitVec.ofNat 64 s.seq.freeHandle)))) := rfl

theorem exec_cmdpop_none {s : State} {f : SeqW} {a : Nat} (hat : s.seq.place f 64 = .ok a) (h : s.seqHead = none) :
    exec (.cmdpop f) s = .next (s.seqWrites f.a 0) := by
  rw [exec_cmdpop, seqAt_ok hat]
  simp only [h]
  rw [seqFinish_seqSet]

theorem padTo_length (n : Nat) (bs : List Byte) : (padTo n bs).length = n := by
  simp [padTo, zeroBytes]
  omega

theorem getD_padTo {n k : Nat} (bs : List Byte) (hk : k < n) : (padTo n bs).getD k 0 = bs.getD k 0 := by
  rw [padTo, List.getD_eq_getElem?_getD, List.getElem?_take_of_lt hk, ← List.getD_eq_getElem?_getD]
  by_cases h : k < bs.length
  · rw [List.getD_append _ _ _ _ h]
  · rw [List.getD_append_right _ _ _ _ (Nat.le_of_not_lt h), List.getD_eq_default bs 0 (Nat.le_of_not_lt h), zeroBytes]
    by_cases h' : k - bs.length < n - bs.length
    · rw [List.getD_eq_getElem?_getD, List.getElem?_replicate_of_lt h']
      rfl
    · rw [List.getD_eq_default]
      simpa using h'

theorem exec_cmdpop_some {s : State} {f : SeqW} {a : Nat} (hat : s.seq.place f 64 = .ok a) {x : TCmd} (h : s.seqHead = some x)
    (hroom : s.here.shadUsed < 2048) : ∃ t, exec (.cmdpop f) s = .next (s.seqDone t) ∧
      (f.a ≠ 0 → t.seq.getX f.a = BitVec.ofNat 64 s.seq.freeHandle) ∧ t.seq.cmdq.length = s.seq.cmdq.length ∧
      (∃ y ∈ t.seq.cmdq, y = { x with popped := true, handle := s.seq.freeHandle }) ∧
      ∀ k, k < 64 → Store.get 0 t.seq.lmem (a + k) = x.bytes.getD k 0 := by
  have hlen := padTo_length 64 x.bytes
  obtain ⟨hal, -, ha⟩ := place_ok_iff.1 hat
  have ho : OnlyOrders s (if x.we then s.seqAcquired x.ws else s) := by
    split
    · exact onlyOrders_semAcquire s _ _ _ _
    · exact .refl s
  generalize hu : (if x.we then s.seqAcquired x.ws else s) = u at ho
  have hused : u.here.shadUsed < 2048 := by rwa [Core.shadUsed, ho.shadows]
  have hp : panRoom s (u.lwrite a (padTo 64 x.bytes)) := ho.panRoom_left
    (panRoom_lwrite hused (by rw [hlen]; decide) (by rw [hlen]; decide) (by rw [hlen, ha]; exact hal))
  obtain ⟨hseq, hx, hbytes⟩ := handedOver u a (padTo 64 x.bytes) (fun q => { q with cmdq := popHead s.seq.freeHandle q.cmdq }) f.a
    (BitVec.ofNat 64 s.seq.freeHandle) fun _ => rfl
  have hcmdq : (((u.lwrite a (padTo 64 x.bytes)).modSeq (fun q => { q with cmdq := popHead s.seq.freeHandle q.cmdq })).modSeq
      (fun q => q.setX f.a (BitVec.ofNat 64 s.seq.freeHandle))).seq.cmdq = popHead s.seq.freeHandle s.seq.cmdq := by
    rw [hseq, lwrite_seq, ho.seq, Seq.setX]
    split <;> rfl
  refine ⟨_, ?_, hx, ?_, ⟨_, ?_, rfl⟩, fun k hk => (hbytes k (by rw [hlen]; exact hk)).trans (getD_padTo _ hk)⟩
  · rw [exec_cmdpop, seqAt_ok hat]
    simp only [h, hu]
    exact congrArg Host.Outcome.next (seqFinish_done (panRoom_modSeq (panRoom_modSeq hp _) _))
  · rw [hcmdq, popHead_length]
  · rw [hcmdq]
    exact mem_popHead _ (seqHead_find h)

/-- The command of handle h has ended. -/
def cmdEnded (h : Nat) (q : Seq) : Seq := { q with cmdq := q.cmdq.filter (fun y => !(y.popped && y.handle = h)) }

theorem exec_semsDone_unknown {s : State} {f : SeqW} (h : ∀ x ∈ s.seq.cmdq, ¬(x.popped = true ∧ x.handle = (s.seq.getX f.b).toNat)) :
    exec (.semsDone f) s = .next (s.seqEnd Code.reservedField) := by
  have hnone : s.seq.cmdq.find? (fun x => x.popped && decide (x.handle = (s.seq.getX f.b).toNat)) = none :=
    List.find?_eq_none.2 fun x hx => by simpa using h x hx
  dsimp only [exec, execSemsDone, runSeq]
  rw [hnone]
  rfl

theorem exec_semsDone {s : State} {f : SeqW} {x : TCmd}
    (h : s.seq.cmdq.find? (fun x => x.popped && decide (x.handle = (s.seq.getX f.b).toNat)) = some x) (hreal : s.here.real = none) :
    ∃ epoch p q, exec (.semsDone f) s = .next (s.seqFinish (.done ((s.modSeq (cmdEnded x.handle)).signal s.cur.core (coreId x.fromCore) .own
      x.signalOf .c s.seq.pc epoch p q))) := by
  have hw : (s.modSeq (cmdEnded x.handle)).here.seqWriter = .own := by
    rw [here_modSeq, Core.seqWriter]
    simp [Core.modSeq, Core.modArch, hreal]
  refine ⟨(s.modSeq (cmdEnded x.handle)).here.cpCount, (s.modSeq (cmdEnded x.handle)).arch.tCovers, fun w => w.tCovers s.cur.core, ?_⟩
  rw [← hw]
  dsimp only [exec, execSemsDone, runSeq]
  rw [h]
  rfl

theorem exec_semsDone_done {s : State} {f : SeqW} {x : TCmd}
    (h : s.seq.cmdq.find? (fun x => x.popped && decide (x.handle = (s.seq.getX f.b).toNat)) = some x) (hreal : s.here.real = none)
    (hown : x.se = false ∨ x.sigCore = s.cur.core.val) : ∃ t : State, exec (.semsDone f) s = .next (s.seqDone t) ∧
      (∀ y ∈ t.seq.cmdq, ¬(y.popped = true ∧ y.handle = (s.seq.getX f.b).toNat)) ∧
      (x.se = true → t.arch.sem x.ss = s.arch.sem x.ss + BitVec.ofNat 32 x.si) ∧
      (x.se = false → ∀ n, t.arch.sem n = s.arch.sem n) := by
  obtain ⟨epoch, p, q, hexec⟩ := exec_semsDone h hreal
  have hhandle : x.handle = (s.seq.getX f.b).toNat := by
    have := List.find?_some h
    simp only [Bool.and_eq_true, decide_eq_true_eq] at this
    exact this.2
  let u := s.modSeq (cmdEnded x.handle)
  have hgone : ∀ {t : State}, t.seq = u.seq → ∀ y ∈ t.seq.cmdq, ¬(y.popped = true ∧ y.handle = (s.seq.getX f.b).toNat) := by
    intro t ht y hy ⟨hpopped, hy'⟩
    rw [ht, seq_modSeq] at hy
    have hkept := (List.mem_filter.1 hy).2
    simp [hpopped, hy', hhandle] at hkept
  have hu : ∀ n, u.arch.sem n = s.arch.sem n := fun n => by rw [State.arch, here_modSeq]; rfl
  have hpu : panRoom s u := panRoom_modSeq (panRoom_refl s) _
  by_cases hse : x.se = true
  · have hcore := hown.resolve_left (by simp [hse])
    have hsig : (s.modSeq (cmdEnded x.handle)).signal s.cur.core (coreId x.fromCore) .own x.signalOf .c s.seq.pc epoch p q =
        semRaised u x.ss (BitVec.ofNat 32 x.si) p q := signal_own u p q (sg := x.signalOf) hse hcore
    rw [hsig] at hexec
    have hp : panRoom s (semRaised u x.ss (BitVec.ofNat 32 x.si) p q) :=
      panRoom_of_same ((semRaised_queues u _ _ p q).1.trans (by rw [here_modSeq]; rfl))
        ((semRaised_queues u _ _ p q).2.trans (by rw [here_modSeq]; rfl))
    refine ⟨_, hexec.trans (congrArg _ (seqFinish_done hp)), hgone (semRaised_seq u _ _ p q), fun _ => ?_, fun hno => ?_⟩
    · exact (semRaised_sem_self u _ _ p q).trans (by rw [hu])
    · exact absurd (hse.symm.trans hno) (by decide)
  · have hsig : u.signal s.cur.core (coreId x.fromCore) .own x.signalOf .c s.seq.pc epoch p q = u := by
      simp [State.signal, TCmd.signalOf, hse]
    rw [hsig] at hexec
    exact ⟨u, hexec.trans (congrArg _ (seqFinish_done hpu)), hgone rfl, fun hyes => absurd hyes hse, fun _ => hu⟩

/-! ### SEMS and SEMW (R242, R243, R395) -/

theorem exec_sems (f : SeqW) (s : State) : exec (.sems f) s = .next (s.seqFinish (match s.seqSem f with
    | some code => .fault code
    | none => .done ((s.order s.cur.core (semTok f.imm.toNat) s.arch.tCovers (fun w => w.tCovers s.cur.core)).modHere
        (fun c => (c.semAdd c.seqWriter f.imm.toNat ((s.seq.getX f.b).extractLsb' 0 32)).autoCp)))) := rfl

theorem exec_semw (f : SeqW) (s : State) : exec (.semw f) s = .next (s.seqFinish (match s.seqSem f with
    | some code => .fault code
    | none => if semMet (s.here.realArch.sem f.imm.toNat) ((s.seq.getX f.b).extractLsb' 0 32) then .done (s.seqAcquired f.imm.toNat)
      else .stall s)) := rfl

theorem seqSem_ok {s : State} {f : SeqW} (hn : f.imm.toNat < 256) (ha : (s.dev.ctx s.seq.ctx).sema.getLsbD f.imm.toNat = true) :
    s.seqSem f = none := by
  rw [State.seqSem, if_neg (by omega), ha]
  rfl

theorem exec_sem_fault {s : State} {f : SeqW} {i : Instr} (hi : i = .sems f ∨ i = .semw f) {code : BitVec 8}
    (h : s.seqSem f = some code) : exec i s = .next (s.seqEnd code) := by
  rcases hi with rfl | rfl
  · rw [exec_sems, h]
    rfl
  · rw [exec_semw, h]
    rfl

theorem exec_sems_done {s : State} {f : SeqW} (hs : s.seqSem f = none) (hreal : s.here.real = none) :
    exec (.sems f) s = .next (s.seqDone (semRaised s f.imm.toNat ((s.seq.getX f.b).setWidth 32) s.arch.tCovers
      (fun w => w.tCovers s.cur.core))) := by
  have hval : (s.seq.getX f.b).extractLsb' 0 32 = (s.seq.getX f.b).setWidth 32 := by
    rw [BitVec.setWidth_eq_extractLsb' (by decide)]
  have hw : (s.order s.cur.core (semTok f.imm.toNat) s.arch.tCovers (fun w => w.tCovers s.cur.core)).here.seqWriter = .own := by
    rw [Core.seqWriter, (onlyOrders_order s _ _ _ _).real, hreal]
    rfl
  rw [exec_sems, hs, hval, ← seqFinish_done (panRoom_semRaised s _ _ _ _), semRaised]
  refine congrArg (fun t => Host.Outcome.next (s.seqFinish (.done t))) (modHere_congr ?_)
  rw [hw]

theorem semMet_iff (c v : W32) : semMet c v = true ↔ (c - v).toNat < 2 ^ 31 := decide_eq_true_iff

theorem exec_semw_met {s : State} {f : SeqW} (hs : s.seqSem f = none)
    (h : (s.here.realArch.sem f.imm.toNat - (s.seq.getX f.b).setWidth 32).toNat < 2 ^ 31) :
    exec (.semw f) s = .next (s.seqDone (s.seqAcquired f.imm.toNat)) := by
  have hp : panRoom s (s.seqAcquired f.imm.toNat) := (onlyOrders_semAcquire s s.cur.core tReader f.imm.toNat 1).panRoom
  rw [BitVec.setWidth_eq_extractLsb' (by decide)] at h
  rw [exec_semw, hs]
  simp only
  rw [if_pos ((semMet_iff _ _).2 h), seqFinish_done hp]

theorem exec_semw_waits {s : State} {f : SeqW} (hs : s.seqSem f = none)
    (h : 2 ^ 31 ≤ (s.here.realArch.sem f.imm.toNat - (s.seq.getX f.b).setWidth 32).toNat) : exec (.semw f) s = .next s := by
  rw [BitVec.setWidth_eq_extractLsb' (by decide)] at h
  rw [exec_semw, hs]
  simp only
  rw [if_neg (fun hmet => Nat.not_lt.2 h ((semMet_iff _ _).1 hmet))]
  rfl

/-- Settles O41: each word is its effect (`exec_evpop_some`, `exec_cmdpop_some`, `exec_semsDone_done`, `semRaised`), and what an
acquire or release adds is an order, which touches neither the Pan nor the sequencer (`OnlyOrders`). -/
theorem sequencerEventAndCommandWords : Obligations.SequencerEventAndCommandWords := by
  unfold Obligations.SequencerEventAndCommandWords
  intro f s
  refine ⟨exec_evwait_done, exec_evwait_stalls, fun ha hlt => ?_, fun h => ?_, fun hd he => ?_, fun ha hlt => ?_,
    exec_semsDone_unknown, fun x hx hreal hown => exec_semsDone_done hx hreal hown, fun hn ha => ?_, fun i hi => ⟨fun hn => ?_, fun hn ha => ?_⟩⟩
  · exact ⟨exec_evpop_none (place_ok ha hlt), fun e es h hroom => exec_evpop_some (place_ok ha hlt) h hroom⟩
  · rw [exec_dline, if_pos h, seqFinish_seqSet]
  · rw [exec_dline, if_neg (not_or.2 ⟨Nat.not_le.2 hd, not_not.2 he⟩)]
    rfl
  · exact ⟨exec_cmdpop_none (place_ok ha hlt), fun x h hroom => exec_cmdpop_some (place_ok ha hlt) h hroom⟩
  · have hs := seqSem_ok hn ha
    refine ⟨fun hreal => ⟨_, exec_sems_done hs hreal, semRaised_sem_self s _ _ _ _, fun n hlt hne => semRaised_sem_other s _ _ _ _ ?_⟩,
      exec_semw_met hs, exec_semw_waits hs⟩
    rw [Nat.mod_eq_of_lt hn, Nat.mod_eq_of_lt hlt]
    exact hne.symm
  · exact exec_sem_fault hi (if_pos (by omega))
  · refine exec_sem_fault hi ?_
    rw [State.seqSem, if_neg (by omega), ha]
    rfl

end Sys2Proof.Proofs
end

section
/-! FENCE and the semaphore words (O22)
What each word orders is an order (`OnlyOrders`); what is left of its effect is a change of one semaphore. -/

namespace Sys2Proof.Proofs

open Sys2Proof Sys2Proof.Machine Sys2Proof.Laws

namespace OnlyOrders

theorem eng {s t : State} (h : OnlyOrders s t) : t.eng = s.eng := by
  obtain ⟨l, hl⟩ := h.arch
  rw [State.eng, hl, h.cur]
  exact congrFun (eng_ext rfl rfl rfl rfl rfl) _

end OnlyOrders

theorem arch_modEng (s : State) (f : Eng → Eng) : (s.modEng f).arch = s.arch.modEng s.cur.th f := arch_modArch s _

theorem stalledNow_eng (s : State) : s.stalledNow.eng = { s.eng with stalled := true } := eng_of_modEng s _

theorem owned_ok {ok : Bool} (h : ok = true) (r : Res) : owned ok r = r := if_pos h

theorem owned_bad {ok : Bool} (h : ok = false) (r : Res) : owned ok r = .trap Code.privilege none := by
  rw [owned, h]
  rfl

/-! ### FENCE (R230 to R232) -/

theorem onlyOrders_fenced (s : State) (f : SY) (q : Nat × Nat) : OnlyOrders s (s.fenced f q) :=
  .foldl (fun s r => onlyOrders_order s _ r _ _) _ s

/-- A flushing read that is asked for is noted beside the state of the engines. -/
theorem askFlush_arch (s : State) (scope : Nat) (p : MemWr → Bool) : (s.askFlush s.cur.core scope p).arch = s.arch := by
  unfold State.askFlush
  split
  · change (s.modHere (fun c => { c with flushAsk := some s.dev.wseq })).arch = s.arch
    rw [State.arch, here_modHere]
    rfl
  · rfl

theorem askFlush_cur (s : State) (scope : Nat) (p : MemWr → Bool) : (s.askFlush s.cur.core scope p).cur = s.cur := by
  unfold State.askFlush
  split <;> rfl

theorem askFlush_eng (s : State) (scope : Nat) (p : MemWr → Bool) : (s.askFlush s.cur.core scope p).eng = s.eng := by
  rw [State.eng, askFlush_arch, askFlush_cur]
  rfl

/-- Ordering its writes a FENCE changes at most when its engine goes on. -/
theorem onlyOrders_busy {s t : State} (h : OnlyOrders s t) (n : Nat) :
    (t.modEng (fun e => { e with busy := n })).eng.g = s.eng.g ∧ (t.modEng (fun e => { e with busy := n })).arch.sems = s.arch.sems ∧
      (t.modEng (fun e => { e with busy := n })).here.hold = s.here.hold ∧
      (t.modEng (fun e => { e with busy := n })).here.shadows = s.here.shadows ∧
      s.sameMemory (t.modEng (fun e => { e with busy := n })) := by
  obtain ⟨l, hl⟩ := h.arch
  refine ⟨?_, ?_, ?_, ?_, sameMemory_trans h.sameMemory (sameMemory_modHere t ?_)⟩
  · rw [eng_of_modEng, h.eng]
  · rw [arch_modEng, archModEng_sems, hl]
  · rw [here_modEng, coreModArch_hold, h.hold]
  · rw [here_modEng, coreModArch_shadows, h.shadows]
  · exact archModEng_scr _ _ _

section Fence

variable {h : Hdr} {f : SY} {s : State} (hr : runs (.fence h f) h s)

include hr

theorem exec_fence_done (hlost : s.lostFor (fenceWr s.cur.core s.cur.th f.pa s.issuedAt.1) = none)
    (hperf : s.performed f.scope.toNat (fenceWr s.cur.core s.cur.th f.pa s.issuedAt.1) = true)
    (hl : f.pa.getLsbD 1 = true → s.arch.lPending s.cur.th s.cycle = false) :
    ∃ u : State, exec (.fence h f) s = .next (s.wordDone u) ∧ u.eng.g = s.eng.g ∧ u.arch.sems = s.arch.sems ∧
      u.here.hold = s.here.hold ∧ s.sameMemory u := by
  have hgo : (!s.performed f.scope.toNat (fenceWr s.cur.core s.cur.th f.pa s.issuedAt.1) ||
      (faL f.pa && s.arch.lPending s.cur.th s.cycle)) = false := by
    rw [hperf, Bool.not_true, Bool.false_or, Bool.and_eq_false_iff]
    by_cases hb : faL f.pa = true
    · exact .inr (hl hb)
    · exact .inl (Bool.eq_false_iff.2 hb)
  have ho := onlyOrders_fenced s f s.issuedAt
  obtain ⟨hg, hsems, hhold, hshadows, hmem⟩ := onlyOrders_busy ho (s.cycle + 2)
  dsimp only [exec, execFence]
  by_cases hc : f.scope.toNat = 0 ∧ faL f.pa ∧ s.eng.asked = none
  · refine ⟨_, runWord_done hr ?_ (panRoom_of_same hhold hshadows), hg, hsems, hhold, hmem⟩
    simp only [hlost, hgo, if_pos hc]
    rfl
  · obtain ⟨l, harch⟩ := ho.arch
    refine ⟨_, runWord_done hr ?_ ho.panRoom, by rw [ho.eng], by rw [harch], ho.hold, ho.sameMemory⟩
    simp only [hlost, hgo, if_neg hc]
    rfl

theorem exec_fence_waits (hlost : s.lostFor (fenceWr s.cur.core s.cur.th f.pa s.issuedAt.1) = none)
    (hperf : s.performed f.scope.toNat (fenceWr s.cur.core s.cur.th f.pa s.issuedAt.1) = false) :
    ∃ u : State, exec (.fence h f) s = .next u ∧ u.eng.pc = s.eng.pc ∧ u.eng.stalled = true ∧ u.eng.asked = some s.issuedAt := by
  dsimp only [exec, execFence]
  refine ⟨_, runWord_stall hr (t := (s.askFlush s.cur.core f.scope.toNat (fenceWr s.cur.core s.cur.th f.pa s.issuedAt.1)).modEng
    (fun e => { e with asked := some s.issuedAt })) ?_, ?_⟩
  · simp only [hlost, hperf]
    rfl
  · rw [stalledNow_eng, eng_of_modEng, askFlush_eng]
    exact ⟨rfl, rfl, rfl⟩

theorem exec_fence_lost {va : Nat} (hlost : s.lostFor (fenceWr s.cur.core s.cur.th f.pa s.issuedAt.1) = some va) :
    exec (.fence h f) s = .next (s.trap Code.poolRegionLost (some (BitVec.ofNat 64 va))) := by
  dsimp only [exec, execFence]
  refine runWord_trap hr ?_
  simp only [hlost]

end Fence

/-! ### SSIG (R254, R231, R233, R234) -/

theorem semVal_eq (s : State) (f : SY) : s.semVal f = BitVec.ofNat 32 ((s.g f.ga).toNat + f.opnd.toNat) := by
  apply BitVec.eq_of_toNat_eq
  have hop : f.opnd.toNat % 2 ^ 64 = f.opnd.toNat := Nat.mod_eq_of_lt (by omega)
  simp only [State.semVal, BitVec.extractLsb'_toNat, BitVec.toNat_add, BitVec.toNat_setWidth, BitVec.toNat_ofNat, hop]
  omega

theorem onlyOrders_semReleased (s : State) (n ord : Nat) : OnlyOrders s (s.semReleased n ord) := by
  unfold State.semReleased
  split
  · exact onlyOrders_inherits s _ _ _
  · exact onlyOrders_releaseL s _ _ _

/-- The effect of an SSIG that goes on. -/
def signalled (s : State) (f : SY) : State :=
  (s.semReleased f.obj.toNat f.ord.toNat).modHere (fun c => c.semAdd .own f.obj.toNat (s.semVal f))

section Signal

variable (s : State) (f : SY)

theorem signalled_arch : ∃ l, (signalled s f).arch = { s.arch.addSem f.obj.toNat (s.semVal f) with scrLog := l } := by
  obtain ⟨l, hl⟩ := (onlyOrders_semReleased s f.obj.toNat f.ord.toNat).arch
  refine ⟨l, ?_⟩
  rw [signalled, State.arch, here_modHere, semAdd_own]
  exact congrArg (fun a : Arch => a.addSem f.obj.toNat (s.semVal f)) hl

theorem panRoom_signalled : panRoom s (signalled s f) :=
  (onlyOrders_semReleased s f.obj.toNat f.ord.toNat).panRoom_left (panRoom_modHere rfl rfl)

theorem signalled_eng : (signalled s f).eng = s.eng := by
  obtain ⟨l, hl⟩ := signalled_arch s f
  have hcur : (signalled s f).cur = s.cur := (onlyOrders_semReleased s f.obj.toNat f.ord.toNat).cur
  rw [State.eng, hl, hcur]
  exact congrFun (eng_ext rfl rfl rfl rfl rfl) _

theorem signalled_sem_self : (signalled s f).arch.sem f.obj.toNat =
    s.arch.sem f.obj.toNat + BitVec.ofNat 32 ((s.g f.ga).toNat + f.opnd.toNat) := by
  obtain ⟨l, hl⟩ := signalled_arch s f
  rw [hl, ← semVal_eq]
  exact sem_addSem_self s.arch _ _

theorem signalled_sem_other {n : Nat} (hn : n % 256 ≠ f.obj.toNat) : (signalled s f).arch.sem n = s.arch.sem n := by
  obtain ⟨l, hl⟩ := signalled_arch s f
  have hobj : f.obj.toNat % 256 = f.obj.toNat := Nat.mod_eq_of_lt (by omega)
  rw [hl]
  exact sem_addSem_other s.arch _ (by rw [hobj]; exact hn.symm)

end Signal

section Ssig

variable {h : Hdr} {f : SY} {s : State} (hr : runs (.ssig h f) h s) (hok : s.semOk f.obj.toNat = true)

include hr hok

/-- An SSIG for which nothing is lost and nothing is left to wait for goes on. -/
theorem exec_ssig_done (hlost : f.ord = 0 ∨ s.lostFor (releaseWr s.cur.core s.cur.th) = none)
    (hfree : ¬(f.ord ≠ 0 ∧ 1 ≤ f.scope.toNat ∧ s.releaseHeld f.scope.toNat = true)) :
    exec (.ssig h f) s = .next (s.wordDone (signalled s f)) := by
  have hnone : (if f.ord = 0 then none else s.lostFor (releaseWr s.cur.core s.cur.th)) = none := by
    split
    · rfl
    · next hord => exact hlost.resolve_left hord
  dsimp only [exec, execSsig]
  refine runWord_done hr ?_ (panRoom_signalled s f)
  simp only [owned_ok hok, hnone, if_neg hfree]
  rfl

theorem exec_ssig_waits (hord : f.ord ≠ 0) (hscope : 1 ≤ f.scope.toNat) (hlost : s.lostFor (releaseWr s.cur.core s.cur.th) = none)
    (hheld : s.releaseHeld f.scope.toNat = true) :
    ∃ u : State, exec (.ssig h f) s = .next u ∧ u.arch.sems = s.arch.sems ∧ u.eng.pc = s.eng.pc ∧ u.eng.stalled = true := by
  dsimp only [exec, execSsig]
  refine ⟨_, runWord_stall hr (t := s.askFlush s.cur.core f.scope.toNat (releaseWr s.cur.core s.cur.th)) ?_, ?_, ?_⟩
  · simp only [owned_ok hok, if_neg hord, hlost, if_pos (And.intro hord (And.intro hscope hheld))]
  · rw [State.stalledNow, arch_modEng, archModEng_sems, askFlush_arch]
  · rw [stalledNow_eng, askFlush_eng]
    exact ⟨rfl, rfl⟩

theorem exec_ssig_lost (hord : f.ord ≠ 0) {va : Nat} (hlost : s.lostFor (releaseWr s.cur.core s.cur.th) = some va) :
    exec (.ssig h f) s = .next (s.trap Code.poolRegionLost (some (BitVec.ofNat 64 va))) := by
  dsimp only [exec, execSsig]
  refine runWord_trap hr ?_
  simp only [owned_ok hok, if_neg hord, hlost]

end Ssig

/-! ### SSET (R254) -/

theorem sem_setSem_self (a : Arch) (n : Nat) (v : W32) : (a.setSem n v).sem n = v := by simp [Arch.setSem, Arch.sem]

theorem sem_setSem_other (a : Arch) {n m : Nat} (v : W32) (h : n % 256 ≠ m % 256) : (a.setSem n v).sem m = a.sem m :=
  Vector.getElem_set_ne (Nat.mod_lt n (by decide)) (Nat.mod_lt m (by decide)) h

theorem exec_sset_done {h : Hdr} {f : SY} {s : State} (hr : runs (.sset h f) h s) (hok : s.semOk f.obj.toNat = true) :
    ∃ u : State, exec (.sset h f) s = .next (s.wordDone u) ∧
      u.arch.sem f.obj.toNat = BitVec.ofNat 32 ((s.g f.ga).toNat + f.opnd.toNat) ∧
      ∀ n : Nat, n % 256 ≠ f.obj.toNat → u.arch.sem n = s.arch.sem n := by
  have hobj : f.obj.toNat % 256 = f.obj.toNat := Nat.mod_eq_of_lt (by omega)
  let u := s.modHere (fun c => (c.modArch (fun a => a.setSem f.obj.toNat (s.semVal f))).hitWaits f.obj.toNat)
  have harch : ∀ n, u.arch.sem n = (s.arch.setSem f.obj.toNat (s.semVal f)).sem n := fun n => by
    rw [State.arch, here_modHere]
    rfl
  dsimp only [exec, execSset]
  refine ⟨u, runWord_done hr ?_ (panRoom_modHere rfl rfl), ?_, fun n hn => ?_⟩
  · simp only [owned_ok hok]
    rfl
  · rw [harch, sem_setSem_self, semVal_eq]
  · rw [harch, sem_setSem_other s.arch _ (by rw [hobj]; exact hn.symm)]

/-- A semaphore word outside the allocation traps. -/
theorem exec_sem_unowned {h : Hdr} {f : SY} {s : State} {i : Instr} (hi : i = .ssig h f ∨ i = .sset h f ∨ i = .swait h f)
    (hr : runs i h s) (hok : s.semOk f.obj.toNat = false) : exec i s = .next (s.trap Code.privilege none) := by
  rcases hi with rfl | rfl | rfl
  · dsimp only [exec, execSsig]
    exact runWord_trap hr (owned_bad hok _)
  · dsimp only [exec, execSset]
    exact runWord_trap hr (owned_bad hok _)
  · dsimp only [exec, execSwait]
    exact runWord_trap hr (owned_bad hok _)

/-- Settles O22: by cases of what each word finds (`exec_fence_done`, `exec_fence_waits`, `exec_ssig_done`, …). -/
theorem fenceAndSemaphoreWords : Obligations.FenceAndSemaphoreWords := by
  unfold Obligations.FenceAndSemaphoreWords
  intro h f s
  refine ⟨exec_fence_done, exec_fence_waits, fun va hr => exec_fence_lost hr, fun hr hok hgo => ?_, fun hr hok hord hscope hlost hfree => ?_,
    exec_ssig_waits, fun va hr hok hord hlost => exec_ssig_lost hr hok hord hlost, exec_sset_done, fun i hi => exec_sem_unowned hi⟩
  · have hfree : ¬(f.ord ≠ 0 ∧ 1 ≤ f.scope.toNat ∧ s.releaseHeld f.scope.toNat = true) := fun ⟨hord, hscope, _⟩ => by
      obtain ⟨hzero, -⟩ := hgo.resolve_left hord
      rw [hzero] at hscope
      exact absurd hscope (by decide)
    exact ⟨_, exec_ssig_done hr hok (hgo.imp_right And.right) hfree, signalled_sem_self s f, fun n => signalled_sem_other s f,
      by rw [signalled_eng]⟩
  · exact ⟨_, exec_ssig_done hr hok (.inr hlost) (fun hheld => absurd (hfree.symm.trans hheld.2.2) (by decide)), signalled_sem_self s f⟩

end Sys2Proof.Proofs
end

section
/-! The wait words (O23)
A wait word retires or stalls on as its first evaluation or its stall has found (`waitFound`); what it acquires is an order. -/

namespace Sys2Proof.Proofs

open Sys2Proof Sys2Proof.Machine Sys2Proof.Laws

/-! ### How a wait word ends (R245) -/

/-- What decides a wait word: the condition at issue, afterwards what the stalled wait has found. -/
def waitFound (s : State) (k : WaitCond) : Option WaitOut :=
  match s.eng.wait with | none => s.arch.evalCond k | some w => w.out

theorem waitFound_issue {s : State} (h : s.eng.wait = none) (k : WaitCond) : waitFound s k = s.arch.evalCond k := by
  simp only [waitFound, h]

theorem waitFound_stalled {s : State} {w : WaitSt} (h : s.eng.wait = some w) (k : WaitCond) : waitFound s k = w.out := by
  simp only [waitFound, h]

/-- The stall of a wait word at issue: it takes a slot where one is free. -/
def waitStalled (s : State) (k : WaitCond) : State :=
  (s.modEng (fun e => { e with wait := some ⟨s.cycle, decide (s.here.slotsUsed < 16), s.cycle + 64, 64, k, false, none⟩ })).modHere Core.autoCp

theorem waitStep_eq (s : State) (k : WaitCond) (gd : BitVec 5) (n : BitVec 6) (acq : State → State) : s.waitStep k gd n acq =
    match waitFound s k with
    | some .met => .done (s.waitDone gd n true acq)
    | some .unmet => .done (s.waitDone gd n false acq)
    | some (.trap code ea) => .trap code (some ea)
    | none => .stall ((if s.eng.wait.isSome then s else s.modEng (fun e =>
        { e with wait := some ⟨s.cycle, decide (s.here.slotsUsed < 16), s.cycle + 64, 64, k, false, none⟩ })).modHere Core.autoCp) := rfl

theorem panRoom_setGBit {s t : State} (h : panRoom s t) (r : BitVec 5) (n : Nat) (b : Bool) : panRoom s (t.setGBit r n b) := panRoom_modEng h _

theorem panRoom_waitDone {s : State} {acq : State → State} (h : OnlyOrders s (acq s)) (gd : BitVec 5) (n : BitVec 6) (met : Bool) :
    panRoom s (s.waitDone gd n met acq) := by
  refine panRoom_modEng (panRoom_setGBit ?_ _ _ _) _
  cases met
  · exact panRoom_refl s
  · exact h.panRoom

section Word

variable {i : Instr} {h : Hdr} {s : State} {eff : State → Res} {k : WaitCond} {gd : BitVec 5} {n : BitVec 6} {acq : State → State}
  (hr : runs i h s) (he : eff s = s.waitStep k gd n acq)

include hr he

theorem runWord_wait_met (hk : waitFound s k = some .met) (ho : OnlyOrders s (acq s)) :
    runWord i h s eff = .next (s.wordDone (s.waitDone gd n true acq)) :=
  runWord_done hr (by rw [he, waitStep_eq, hk]) (panRoom_waitDone ho _ _ _)

theorem runWord_wait_unmet (hk : waitFound s k = some .unmet) : runWord i h s eff = .next (s.wordDone
    ((s.setGBit gd n.toNat false).modEng (fun e => { e with busy := s.cycle + 3 }))) :=
  runWord_done hr (t := s.waitDone gd n false acq) (by rw [he, waitStep_eq, hk])
    (panRoom_modEng (panRoom_setGBit (panRoom_refl s) _ _ _) _)

theorem runWord_wait_trap {code : BitVec 8} {ea : W64} (hk : waitFound s k = some (.trap code ea)) :
    runWord i h s eff = .next (s.trap code (some ea)) := runWord_trap hr (by rw [he, waitStep_eq, hk])

theorem runWord_wait_stalls (hw : s.eng.wait = none) (hk : s.arch.evalCond k = none) :
    runWord i h s eff = .next (waitStalled s k).stalledNow := by
  refine runWord_stall hr ?_
  rw [he, waitStep_eq, waitFound_issue hw, hk, hw]
  rfl

end Word

theorem waitStalled_eng (s : State) (k : WaitCond) : (waitStalled s k).stalledNow.eng =
    { s.eng with wait := some ⟨s.cycle, decide (s.here.slotsUsed < 16), s.cycle + 64, 64, k, false, none⟩, stalled := true } := by
  rw [stalledNow_eng, waitStalled, eng_modHere, autoCp_arch]
  exact congrArg (fun e : Eng => { e with stalled := true }) (eng_of_modEng s _)

/-! ### What a met wait acquires (R233) -/

theorem onlyOrders_semWaited (s : State) (n ord scope : Nat) : OnlyOrders s (s.semWaited n ord scope) := by
  unfold State.semWaited
  split
  · exact onlyOrders_semSees s _ _ _
  · exact onlyOrders_semAcquire s _ _ _ _

theorem onlyOrders_chunkAcquire (s : State) (core : CoreId) (r n lo hi : Nat) : OnlyOrders s (s.chunkAcquire core r n lo hi) :=
  onlyOrders_order s core r _ _

theorem onlyOrders_tileAcquire (s : State) (core : CoreId) (r n : Nat) (tile : Option Nat) :
    OnlyOrders s (s.tileAcquire core r n tile) := by
  cases tile with
  | none => exact onlyOrders_chunkAcquire s _ _ _ _ _
  | some t =>
    unfold State.tileAcquire
    simp only
    split
    · exact onlyOrders_chunkAcquire s _ _ _ _ _
    · exact onlyOrders_chunkAcquire s _ _ _ _ _

/-! ### SWAIT, BWAIT and BWAIT.tile (R254 to R256) -/

/-- The threshold of an SWAIT. -/
theorem threshold_eq (s : State) (f : SY) :
    (s.g f.gb + f.opnd.zeroExtend 64).extractLsb' 0 32 = BitVec.ofNat 32 ((s.g f.gb).toNat + f.opnd.toNat) := by
  apply BitVec.eq_of_toNat_eq
  have hop : f.opnd.toNat % 2 ^ 64 = f.opnd.toNat := Nat.mod_eq_of_lt (by omega)
  simp only [BitVec.extractLsb'_toNat, BitVec.toNat_add, BitVec.toNat_setWidth, BitVec.toNat_ofNat, hop]
  omega

/-- The condition of an SWAIT. -/
def swaitCond (s : State) (f : SY) : WaitCond := .sem f.obj.toNat (BitVec.ofNat 32 ((s.g f.gb).toNat + f.opnd.toNat))

section Words

variable {h : Hdr} {f : SY} {s : State}

section Swait

variable (hr : runs (.swait h f) h s) (hok : s.semOk f.obj.toNat = true)

include hok in
theorem swait_effect : owned (s.semOk f.obj.toNat) (s.waitStep (.sem f.obj.toNat ((s.g f.gb + f.opnd.zeroExtend 64).extractLsb' 0 32))
    f.gd f.n (fun t => t.semWaited f.obj.toNat f.ord.toNat f.scope.toNat)) =
      s.waitStep (swaitCond s f) f.gd f.n (fun t => t.semWaited f.obj.toNat f.ord.toNat f.scope.toNat) := by
  rw [owned_ok hok, threshold_eq]
  rfl

include hr hok

theorem exec_swait_met (hk : waitFound s (swaitCond s f) = some .met) : exec (.swait h f) s = .next (s.wordDone
    (s.waitDone f.gd f.n true (fun t => t.semWaited f.obj.toNat f.ord.toNat f.scope.toNat))) := by
  dsimp only [exec, execSwait]
  exact runWord_wait_met hr (swait_effect hok) hk (onlyOrders_semWaited s _ _ _)

theorem exec_swait_unmet (hk : waitFound s (swaitCond s f) = some .unmet) : exec (.swait h f) s = .next (s.wordDone
    ((s.setGBit f.gd f.n.toNat false).modEng (fun e => { e with busy := s.cycle + 3 }))) := by
  dsimp only [exec, execSwait]
  exact runWord_wait_unmet hr (swait_effect hok) hk

theorem exec_swait_stalls (hw : s.eng.wait = none) (hk : s.arch.evalCond (swaitCond s f) = none) :
    ∃ u : State, exec (.swait h f) s = .next u ∧ u.eng.pc = s.eng.pc ∧ u.eng.g = s.eng.g ∧ u.eng.stalled = true ∧
      ∃ w : WaitSt, u.eng.wait = some w ∧ w.cond.obj = f.obj.toNat ∧ w.since = s.cycle ∧ w.out = none ∧
        (s.here.slotsUsed < 16 → w.slot = true) := by
  dsimp only [exec, execSwait]
  refine ⟨_, runWord_wait_stalls hr (swait_effect hok) hw hk, ?_⟩
  rw [waitStalled_eng]
  exact ⟨rfl, rfl, rfl, _, rfl, rfl, rfl, rfl, fun hslots => decide_eq_true hslots⟩

end Swait

theorem evalCond_sem (a : Arch) (n : Nat) (v : W32) : a.evalCond (.sem n v) = if (a.sem n - v).toNat < 2 ^ 31 then some .met else none := by
  by_cases hlt : (a.sem n - v).toNat < 2 ^ 31
  · rw [if_pos hlt, Arch.evalCond, if_pos ((semMet_iff _ _).2 hlt)]
  · rw [if_neg hlt, Arch.evalCond, if_neg (fun hm => hlt ((semMet_iff _ _).1 hm))]

theorem evalCond_bar_finished {a : Arch} {n : Nat} (hst : (a.bar n).st = .complete ∨ (a.bar n).st = .partialSt) :
    a.evalCond (.bar n) = some .met := by
  have hfin : (a.bar n).finished = true := by simpa [Bar.finished] using hst
  have hno : (a.bar n).st ≠ .faulted := by
    rcases hst with hst | hst <;> rw [hst] <;> decide
  simp only [Arch.evalCond, if_neg hno, hfin]
  rfl

theorem evalCond_bar_faulted {a : Arch} {n : Nat} (hst : (a.bar n).st = .faulted) :
    a.evalCond (.bar n) = some (.trap (a.bar n).code (BitVec.ofNat 64 (a.bar n).frec)) := by
  simp only [Arch.evalCond, if_pos hst]

theorem evalCond_tile_done {a : Arch} {n t : Nat} (hf : (a.bar n).st ≠ .faulted) (hi : (a.bar n).st ≠ .idle)
    (ht : t < (a.bar n).tiles) (hd : a.tileDone (a.bar n) t = true) : a.evalCond (.tile n t) = some .met := by
  simp only [Arch.evalCond, if_neg hf, if_neg hi, if_neg (Nat.not_le.2 ht), hd]
  rfl

/-- A barrier's wait is the step of its condition, inside the allocation. -/
theorem barWait_owned (hok : s.barOk f.obj.toNat = true) (k : WaitCond) : s.barWait f k = s.waitStep k f.gd f.n
    (fun t => t.tileAcquire s.cur.core s.reader f.obj.toNat (match k with | .tile _ t => some t | _ => none)) := owned_ok hok _

theorem exec_bwait_met (hr : runs (.bwait h f) h s) (hok : s.barOk f.obj.toNat = true) (hk : waitFound s (.bar f.obj.toNat) = some .met) :
    exec (.bwait h f) s = .next (s.wordDone
      (s.waitDone f.gd f.n true (fun t => t.tileAcquire s.cur.core s.reader f.obj.toNat none))) := by
  dsimp only [exec, execBwait]
  exact runWord_wait_met hr (barWait_owned hok _) hk (onlyOrders_tileAcquire s _ _ _ _)

theorem exec_bwait_trap (hr : runs (.bwait h f) h s) (hok : s.barOk f.obj.toNat = true) {code : BitVec 8} {ea : W64}
    (hk : waitFound s (.bar f.obj.toNat) = some (.trap code ea)) : exec (.bwait h f) s = .next (s.trap code (some ea)) := by
  dsimp only [exec, execBwait]
  exact runWord_wait_trap hr (barWait_owned hok _) hk

theorem exec_bwaitTile_met (hr : runs (.bwaitTile h f) h s) (hok : s.barOk f.obj.toNat = true)
    (hk : waitFound s (.tile f.obj.toNat (s.g f.gb + f.opnd.zeroExtend 64).toNat) = some .met) :
    exec (.bwaitTile h f) s = .next (s.wordDone (s.waitDone f.gd f.n true (fun t => t.tileAcquire s.cur.core s.reader f.obj.toNat
      (some (s.g f.gb + f.opnd.zeroExtend 64).toNat)))) := by
  dsimp only [exec, execBwaitTile]
  exact runWord_wait_met hr (barWait_owned hok _) hk (onlyOrders_tileAcquire s _ _ _ _)

theorem exec_barrierWait_unmet {i : Instr} (hi : i = .bwait h f ∨ i = .bwaitTile h f) (hr : runs i h s) (hok : s.barOk f.obj.toNat = true)
    {w : WaitSt} (hw : s.eng.wait = some w) (hout : w.out = some .unmet) : exec i s = .next (s.wordDone
      ((s.setGBit f.gd f.n.toNat false).modEng (fun e => { e with busy := s.cycle + 3 }))) := by
  rcases hi with rfl | rfl
  · dsimp only [exec, execBwait]
    exact runWord_wait_unmet hr (barWait_owned hok _) ((waitFound_stalled hw _).trans hout)
  · dsimp only [exec, execBwaitTile]
    exact runWord_wait_unmet hr (barWait_owned hok _) ((waitFound_stalled hw _).trans hout)

end Words

/-! ### What a look at a stalled wait finds (R245) -/

section Settle

variable {w : WaitSt} {a : Arch} {now : Nat} (hout : w.out = none)

include hout

/-- A poll that is due finds what the condition says. -/
theorem settle_poll_found (hslot : w.slot = false) (hdue : w.nextPoll ≤ now) {o : WaitOut} (hk : a.evalCond w.cond = some o) :
    w.settle a now = { w with out := some o, hit := false } := by
  simp [WaitSt.settle, hout, hslot, hdue, hk]

/-- A poll that is due and finds nothing doubles its interval. -/
theorem settle_poll_waits (hslot : w.slot = false) (hdue : w.nextPoll ≤ now) (hk : a.evalCond w.cond = none) (hhit : w.hit = false)
    (hlt : now < w.since + 65536) :
    w.settle a now = { w with interval := min 8192 (2 * w.interval), nextPoll := now + min 8192 (2 * w.interval) } := by
  simp [WaitSt.settle, hout, hslot, hdue, hk, hhit, Nat.not_le.2 hlt]

/-- The limit ends an unmet wait. -/
theorem settle_late (hlate : w.since + 65536 ≤ now) (hk : a.evalCond w.cond = none) :
    w.settle a now = { w with out := some .unmet, hit := false } := by
  simp [WaitSt.settle, hout, hlate, hk]

end Settle

/-- The words that wait. -/
def waitWordsOf (h : Hdr) (f : SY) : List Instr := [.swait h f, .bwait h f, .bwaitTile h f, .rwaitf h f, .rwaite h f]

/-- A stalled wait whose outcome is known retires as its word does. -/
theorem evalWait_word {t : State} {w : WaitSt} {bs : List Byte} {i : Instr} {h : Hdr} {f : SY} (hf : t.fetchUnit 12 = .ok bs)
    (hd : decodeWord (bytesWord bs) = .ok i) (hi : i ∈ waitWordsOf h f) :
    exec i (t.modEng (fun e => { e with wait := some w })) = .next (t.evalWait w) := by
  obtain ⟨v, hv⟩ := exec_goesOn i (t.modEng (fun e => { e with wait := some w }))
  have hev : t.evalWait w = v := by
    simp only [waitWordsOf, List.mem_cons, List.not_mem_nil, or_false] at hi
    unfold State.evalWait
    rcases hi with rfl | rfl | rfl | rfl | rfl <;> (simp only [hf, hd]; dsimp only [exec] at hv; rw [hv])
  rw [hev, hv]

section Events

variable {core : CoreId} {th : Thread} {s : State} {w : WaitSt} (hat : ({ s with cur := ⟨core, th⟩ } : State).atWait = some w)

include hat

theorem exec_waitPoll_look (hslot : w.slot = false) :
    exec (.waitPoll core th) s = .next (({ s with cur := ⟨core, th⟩ } : State).waitLook w) := by
  dsimp only [exec, execWaitPoll]
  simp only [hat, hslot]
  rfl

theorem exec_waitTimeout_early (hlt : s.cycle < w.since + 65536) : exec (.waitTimeout core th) s = .next s := by
  dsimp only [exec, execWaitTimeout]
  simp only [hat, if_pos hlt]

theorem exec_waitTimeout_look (hle : w.since + 65536 ≤ s.cycle) :
    exec (.waitTimeout core th) s = .next (({ s with cur := ⟨core, th⟩ } : State).waitLook w) := by
  dsimp only [exec, execWaitTimeout]
  simp only [hat, if_neg (Nat.not_lt.2 hle)]

end Events

theorem waitLook_stays {t : State} {w v : WaitSt} (hv : w.settle t.arch t.cycle = v) (hout : v.out = none) :
    t.waitLook w = t.modEng (fun e => { e with wait := some v }) := by
  simp [State.waitLook, hv, hout]

theorem waitLook_ends {t : State} {w v : WaitSt} (hv : w.settle t.arch t.cycle = v) (hout : v.out.isSome = true) :
    t.waitLook w = t.evalWait v := by
  simp [State.waitLook, hv, hout]

theorem waitLook_found {t : State} {w : WaitSt} {o : WaitOut} (hout : w.out = none) (hslot : w.slot = false) (hdue : w.nextPoll ≤ t.cycle)
    (hk : t.arch.evalCond w.cond = some o) : t.waitLook w = t.evalWait { w with out := some o, hit := false } :=
  waitLook_ends (settle_poll_found hout hslot hdue hk) rfl

theorem waitLook_late {t : State} {w : WaitSt} (hout : w.out = none) (hlate : w.since + 65536 ≤ t.cycle)
    (hk : t.arch.evalCond w.cond = none) : t.waitLook w = t.evalWait { w with out := some .unmet, hit := false } :=
  waitLook_ends (settle_late hout hlate hk) rfl

/-- Settles O23: a wait word ends as its condition or its stall has found (`waitStep_eq`), a look at a stalled one as its outcome
settles (`settle_poll_found`, `settle_poll_waits`, `settle_late`). -/
theorem waitWords : Obligations.WaitWords := by
  unfold Obligations.WaitWords
  refine ⟨fun h f s hw => ⟨fun hr hok => ⟨fun hlt => ?_, fun hle => ?_⟩, fun hr hok => ⟨fun hst => ?_, fun hst => ?_⟩,
    fun hr hok hf hi ht hd => ?_⟩, fun h f s w hw => ⟨fun hr hok => ⟨fun hout => ?_, fun hout => ?_⟩, fun i hi hr hok hout => ?_⟩,
    fun core th s t u w ht hat hout => ?_⟩
  · exact exec_swait_met hr hok ((waitFound_issue hw _).trans ((evalCond_sem _ _ _).trans (if_pos hlt)))
  · exact exec_swait_stalls hr hok hw ((evalCond_sem _ _ _).trans (if_neg (Nat.not_lt.2 hle)))
  · exact exec_bwait_met hr hok ((waitFound_issue hw _).trans (evalCond_bar_finished hst))
  · exact exec_bwait_trap hr hok ((waitFound_issue hw _).trans (evalCond_bar_faulted hst))
  · exact exec_bwaitTile_met hr hok ((waitFound_issue hw _).trans (evalCond_tile_done hf hi ht hd))
  · exact exec_swait_met hr hok ((waitFound_stalled hw _).trans hout)
  · exact exec_swait_unmet hr hok ((waitFound_stalled hw _).trans hout)
  · exact exec_barrierWait_unmet hi hr hok hw hout
  · subst ht
    refine ⟨fun hslot hdue => ⟨fun x hk hhit hlt hx => ?_, fun o bs i h f hk hu hf hd hi => ?_⟩, exec_waitTimeout_early hat,
      fun bs i h f hle hk hu hf hd hi => ?_⟩
    · rw [exec_waitPoll_look hat hslot, waitLook_stays ((settle_poll_waits hout hslot hdue hk hhit hlt).trans hx.symm) (by rw [hx, hout])]
    · rw [exec_waitPoll_look hat hslot, waitLook_found (t := { s with cur := ⟨core, th⟩ }) hout hslot hdue hk, hu]
      exact ⟨_, rfl, evalWait_word hf hd hi⟩
    · rw [exec_waitTimeout_look hat hle, waitLook_late (t := { s with cur := ⟨core, th⟩ }) hout hle hk, hu]
      exact ⟨_, rfl, evalWait_word hf hd hi⟩

end Sys2Proof.Proofs
end

section
/-! The ring words (O25)
Each word that uses a ring is one effect behind one check (`State.ringUse`). -/

namespace Sys2Proof.Proofs

open Sys2Proof Sys2Proof.Machine Sys2Proof.Laws

/-! ### Rings, and notes of the shadow pool that hold no copy (R347) -/

theorem ring_modRing (a : Arch) (n : Nat) (f : Ring → Ring) : (a.modRing n f).ring n = f (a.ring n) := by
  simp [Arch.modRing, Arch.ring]

theorem panRoom_of_copies {s t : State} (hu : t.here.shadUsed ≤ s.here.shadUsed) (hh : t.here.hold = s.here.hold) : panRoom s t := by
  have hold : t.here.holdUsed = s.here.holdUsed := by rw [Core.holdUsed, hh]; rfl
  simp [panRoom, Core.panLacks, hold, Nat.not_lt.2 hu]

/-- The notes of ring and barrier words hold no copy of a granule. -/
theorem shade_uncopied (c : Core) {st : StoreId} (h : 9 ≤ st.code) (w : Writer) (gran : Nat) : (c.shade st w gran).shadUsed = c.shadUsed := by
  unfold Core.shade
  simp only
  split
  · rfl
  · simp [Core.shadUsed, copiesOf, List.filter_append, Nat.not_lt.2 h]

/-- A word on ring n notes the ring and changes it. -/
def ringNoted (n : Nat) (f : Ring → Ring) (c : Core) : Core := (c.shade .ringWord .own n).modArch (fun a => a.modRing n f)

theorem panRoom_ringNoted (s : State) (n : Nat) (f : Ring → Ring) : panRoom s (s.modHere (ringNoted n f)) := by
  have hused := shade_uncopied s.here (st := .ringWord) (by decide) .own n
  refine panRoom_of_copies ?_ ?_
  · rw [here_modHere]
    exact hused.le
  · rw [here_modHere]
    exact shade_hold _ _ _ _

theorem ringNoted_ring (s : State) (n : Nat) (f : Ring → Ring) : (s.modHere (ringNoted n f)).arch.ring n = f (s.arch.ring n) := by
  rw [State.arch, here_modHere, ringNoted, coreModArch_arch, ring_modRing, shade_arch]
  rfl

theorem ringOf_fresh {bs : List Byte} {q : Ring} (h : ringOf bs = some q) : q.opened = true ∧ q.pub = 0 ∧ q.cons = 0 ∧ q.clm = 0 := by
  simp only [ringOf, Option.ite_none_right_eq_some, Option.some.injEq] at h
  obtain ⟨-, rfl⟩ := h
  exact ⟨rfl, rfl, rfl, rfl⟩

theorem onlyOrders_ringWaited (s : State) (n : Nat) : OnlyOrders s (s.ringWaited n) := onlyOrders_inherits s _ _ _

section Ring

variable {h : Hdr} {f : SY} {s : State} (hok : s.ringOk f.obj.toNat = true)

include hok

/-- A word on an open ring of its kinds has its effect. -/
theorem ringUse_open {kinds : Nat → Bool} (hopen : (s.arch.ring f.obj.toNat).opened = true)
    (hkind : kinds (s.arch.ring f.obj.toNat).prod = true) (r : Ring → Res) : s.ringUse f kinds r = r (s.arch.ring f.obj.toNat) := by
  simp only [State.ringUse, owned_ok hok, hopen, hkind]
  rfl

theorem ringUse_closed (hclosed : (s.arch.ring f.obj.toNat).opened = false) (kinds : Nat → Bool) (r : Ring → Res) :
    s.ringUse f kinds r = .trap Code.reservedField none := by
  simp only [State.ringUse, owned_ok hok, hclosed]
  rfl

/-! ### RCLAIM and RPUB (R260, R267) -/

section Producer

variable (hopen : (s.arch.ring f.obj.toNat).opened = true) (hprod : (s.arch.ring f.obj.toNat).prod = 0)

include hopen hprod

theorem exec_rclaim_done (hr : runs (.rclaim h f) h s) (h0 : 0 < s.ringK f) (hle : s.ringK f ≤ (s.arch.ring f.obj.toNat).nslot)
    (hfree : s.ringK f ≤ (s.arch.ring f.obj.toNat).nslot - ((s.arch.ring f.obj.toNat).clm - (s.arch.ring f.obj.toNat).cons)) :
    exec (.rclaim h f) s = .next (s.wordDone ((s.setG f.gd (BitVec.ofNat 64 (s.arch.ring f.obj.toNat).clm)).modArch
      (fun a => a.modRing f.obj.toNat (fun r => { r with clm := r.clm + s.ringK f })))) := by
  dsimp only [exec, execRclaim]
  refine runWord_done hr ?_ (panRoom_modArch (panRoom_setG s _ _) _)
  have hk : ¬(s.ringK f = 0 ∨ (s.arch.ring f.obj.toNat).nslot < s.ringK f) := by omega
  rw [ringUse_open hok hopen (decide_eq_true hprod), if_neg hk, if_pos hfree]

theorem exec_rclaim_full (hr : runs (.rclaim h f) h s) (h0 : 0 < s.ringK f) (hle : s.ringK f ≤ (s.arch.ring f.obj.toNat).nslot)
    (hfull : (s.arch.ring f.obj.toNat).nslot - ((s.arch.ring f.obj.toNat).clm - (s.arch.ring f.obj.toNat).cons) < s.ringK f) :
    exec (.rclaim h f) s = .next (s.wordDone (s.setG f.gd 0xFFFFFFFFFFFFFFFF)) := by
  dsimp only [exec, execRclaim]
  refine runWord_done hr ?_ (panRoom_setG s _ _)
  have hk : ¬(s.ringK f = 0 ∨ (s.arch.ring f.obj.toNat).nslot < s.ringK f) := by omega
  rw [ringUse_open hok hopen (decide_eq_true hprod), if_neg hk, if_neg (Nat.not_le.2 hfull)]

theorem exec_rpub_done (hr : runs (.rpub h f) h s) (hle : (s.arch.ring f.obj.toNat).pub + s.ringK f ≤ (s.arch.ring f.obj.toNat).clm) :
    exec (.rpub h f) s = .next (s.wordDone ((s.releaseL s.cur.core s.cur.th (ringTok f.obj.toNat)).modArch
      (fun a => a.modRing f.obj.toNat (fun r => { r with pub := r.pub + s.ringK f })))) := by
  dsimp only [exec, execRpub]
  refine runWord_done hr ?_ (panRoom_modArch (onlyOrders_releaseL s _ _ _).panRoom _)
  rw [ringUse_open hok hopen (decide_eq_true hprod), if_neg (Nat.not_lt.2 hle)]

end Producer

/-! ### RWAITF, RWAITE and RCONS (R268 to R270) -/

section Consumer

variable (hopen : (s.arch.ring f.obj.toNat).opened = true) (hprod : (s.arch.ring f.obj.toNat).prod ≠ 2)

include hopen hprod

theorem exec_rwaitf_met (hr : runs (.rwaitf h f) h s) (hw : s.eng.wait = none) (h0 : 0 < s.ringK f)
    (hle : s.ringK f ≤ (s.arch.ring f.obj.toNat).nslot)
    (hfilled : s.ringK f ≤ (s.arch.ring f.obj.toNat).pub - (s.arch.ring f.obj.toNat).cons) :
    exec (.rwaitf h f) s = .next (s.wordDone (s.waitDone f.gd f.n true (fun t => t.ringWaited f.obj.toNat))) := by
  have hk : ¬(s.ringK f = 0 ∨ (s.arch.ring f.obj.toNat).nslot < s.ringK f) := by omega
  have hmet : waitFound s (.filled f.obj.toNat (s.ringK f)) = some .met := (waitFound_issue hw _).trans (if_pos hfilled)
  dsimp only [exec, execRwaitf]
  refine runWord_wait_met (acq := fun t => t.ringWaited f.obj.toNat) hr ?_ hmet (onlyOrders_ringWaited s _)
  rw [ringUse_open hok hopen (decide_eq_true hprod), if_neg hk]

theorem exec_rwaite_met (hr : runs (.rwaite h f) h s) (hw : s.eng.wait = none) (h0 : 0 < s.ringK f)
    (hle : s.ringK f ≤ (s.arch.ring f.obj.toNat).nslot) (hfree : s.ringK f ≤ (s.arch.ring f.obj.toNat).nslot -
      ((s.arch.ring f.obj.toNat).clm - (s.arch.ring f.obj.toNat).cons) - (s.arch.ring f.obj.toNat).resv) :
    exec (.rwaite h f) s = .next (s.wordDone (s.waitDone f.gd f.n true id)) := by
  have hk : ¬(s.ringK f = 0 ∨ (s.arch.ring f.obj.toNat).nslot < s.ringK f) := by omega
  have hmet : waitFound s (.free f.obj.toNat (s.ringK f)) = some .met := (waitFound_issue hw _).trans (if_pos hfree)
  dsimp only [exec, execRwaite]
  refine runWord_wait_met (acq := id) hr ?_ hmet (.refl s)
  rw [ringUse_open hok hopen (decide_eq_true hprod), if_neg hk]

theorem exec_rcons_done (hr : runs (.rcons h f) h s) (hle : (s.arch.ring f.obj.toNat).cons + s.ringK f ≤ (s.arch.ring f.obj.toNat).pub) :
    exec (.rcons h f) s = .next (s.wordDone (s.modArch (fun a => a.modRing f.obj.toNat (fun r => { r with cons := r.cons + s.ringK f })))) := by
  dsimp only [exec, execRcons]
  refine runWord_done hr ?_ (panRoom_modArch (panRoom_refl s) _)
  rw [ringUse_open hok hopen (decide_eq_true hprod), if_neg (Nat.not_lt.2 hle)]

theorem exec_rconsUpto_done (hr : runs (.rconsUpto h f) h s) (hle : s.ringK f ≤ (s.arch.ring f.obj.toNat).pub) :
    exec (.rconsUpto h f) s = .next (s.wordDone (s.modArch (fun a => a.modRing f.obj.toNat
      (fun r => { r with cons := max r.cons (s.ringK f) })))) := by
  dsimp only [exec, execRconsUpto]
  refine runWord_done hr ?_ (panRoom_modArch (panRoom_refl s) _)
  rw [ringUse_open hok hopen (decide_eq_true hprod), if_neg (Nat.not_lt.2 hle)]

end Consumer

/-! ### Opening, closing and reading (R261, R262, R271) -/

theorem exec_rpubInit_done (hr : runs (.rpubInit h f) h s) (hclosed : (s.arch.ring f.obj.toNat).opened = false)
    (hal : (s.g f.ga + f.opnd.zeroExtend 64).toNat % 16 = 0)
    (hrange : s.recRange s.cur.core s.here.ctx (s.g f.ga + f.opnd.zeroExtend 64).toNat 16 = none)
    (hclean : s.arch.scrPoisoned (s.g f.ga + f.opnd.zeroExtend 64).toNat 16 = false) {q : Ring}
    (hq : ringOf ((s.lview 4).scrRead (s.g f.ga + f.opnd.zeroExtend 64).toNat 16) = some q)
    (hslots : s.recRange s.cur.core s.here.ctx q.base (q.slot * q.nslot) = none) :
    ∃ u : State, exec (.rpubInit h f) s = .next (s.wordDone u) ∧ u.arch.ring f.obj.toNat = q := by
  dsimp only [exec, execRpubInit]
  refine ⟨(s.modHere (ringNoted f.obj.toNat (fun _ => q))).modEng (fun e => { e with busy := s.cycle + 4 }),
    runWord_done hr ?_ (panRoom_modEng (panRoom_ringNoted s _ _) _), ?_⟩
  · rw [owned_ok hok, if_neg (not_not.2 hal)]
    simp only [hrange, hclean, hclosed, hq, hslots]
    rfl
  · have hring := ringNoted_ring s f.obj.toNat (fun _ => q)
    rw [arch_modEng, Arch.ring, archModEng_rings]
    exact hring

theorem exec_rpubClose_done (hr : runs (.rpubClose h f) h s) (hopen : (s.arch.ring f.obj.toNat).opened = true)
    (hstream : s.arch.ringStream f.obj.toNat = false) (hresv : (s.arch.ring f.obj.toNat).resv = 0) :
    ∃ u : State, exec (.rpubClose h f) s = .next (s.wordDone u) ∧
      u.arch.ring f.obj.toNat = { s.arch.ring f.obj.toNat with opened := false } := by
  dsimp only [exec, execRpubClose]
  refine ⟨_, runWord_done hr ?_ (panRoom_ringNoted s f.obj.toNat (fun r => { r with opened := false })), ringNoted_ring s _ _⟩
  have hidle : ¬(s.arch.ringStream f.obj.toNat = true ∨ (s.arch.ring f.obj.toNat).resv ≠ 0) := by simp [hstream, hresv]
  rw [ringUse_open hok hopen rfl, if_neg hidle]
  rfl

/-- A read form hands over the counter it names. -/
theorem runWord_ringRead {i : Instr} (hr : runs i h s) (v : Ring → Nat) : runWord i h s (fun s => s.ringRead f v) =
    .next (s.wordDone (s.setG f.gd (BitVec.ofNat 64 (v (s.arch.ring f.obj.toNat))))) :=
  runWord_done hr (owned_ok hok _) (panRoom_setG s _ _)

theorem exec_ring_closed {i : Instr} (hi : i ∈ [Instr.rclaim h f, .rpub h f, .rwaitf h f, .rwaite h f, .rcons h f, .rconsUpto h f,
    .rpubClose h f]) (hr : runs i h s) (hclosed : (s.arch.ring f.obj.toNat).opened = false) :
    exec i s = .next (s.trap Code.reservedField none) := by
  have huse := ringUse_closed hok hclosed
  simp only [List.mem_cons, List.not_mem_nil, or_false] at hi
  rcases hi with rfl | rfl | rfl | rfl | rfl | rfl | rfl
  · dsimp only [exec, execRclaim]
    exact runWord_trap hr (huse _ _)
  · dsimp only [exec, execRpub]
    exact runWord_trap hr (huse _ _)
  · dsimp only [exec, execRwaitf]
    exact runWord_trap hr (huse _ _)
  · dsimp only [exec, execRwaite]
    exact runWord_trap hr (huse _ _)
  · dsimp only [exec, execRcons]
    exact runWord_trap hr (huse _ _)
  · dsimp only [exec, execRconsUpto]
    exact runWord_trap hr (huse _ _)
  · dsimp only [exec, execRpubClose]
    exact runWord_trap hr (huse _ _)

end Ring

/-- Settles O25: behind its check (`ringUse_open`, `ringUse_closed`) each word moves one counter, reads one or waits on two. -/
theorem ringWords : Obligations.RingWords := by
  unfold Obligations.RingWords
  intro h f s r n hn hlt hok hring
  subst hn
  subst hring
  refine ⟨fun hopen hprod => ⟨exec_rclaim_done hok hopen hprod, exec_rclaim_full hok hopen hprod, exec_rpub_done hok hopen hprod⟩,
    fun hopen hprod => ⟨exec_rwaitf_met hok hopen hprod, exec_rwaite_met hok hopen hprod, exec_rcons_done hok hopen hprod,
      exec_rconsUpto_done hok hopen hprod⟩, fun hr hclosed hal hrange hclean _ q hq hslots => ?_, exec_rpubClose_done hok,
    fun hr => runWord_ringRead hok hr _, fun hr => runWord_ringRead hok hr _, fun hr => runWord_ringRead hok hr _,
    fun hr => runWord_ringRead hok hr _, fun hr => runWord_ringRead hok hr _, fun i hi => exec_ring_closed hok hi⟩
  obtain ⟨u, hu, hring⟩ := exec_rpubInit_done hok hr hclosed hal hrange hclean hq hslots
  exact ⟨u, hu, hring, ringOf_fresh hq⟩

end Sys2Proof.Proofs
end

section
/-! The command-queue words (O28)
The entry of an own T queue is there at once (`enqueue_own`); one for another core waits in the Pan (`enqueue_far`). -/

namespace Sys2Proof.Proofs

open Sys2Proof Sys2Proof.Machine Sys2Proof.Laws

/-! ### Taking an entry (R272 to R274) -/

/-- The core that is served takes its turn. -/
def pushServed (s : State) (k : CoreId) (q : Nat) : State :=
  s.modCore k (fun c => { c with pushTurn := Store.set 63 c.pushTurn q s.cur.core.val })

theorem pushServed_arch (s : State) (k : CoreId) (q : Nat) (c : CoreId) : ((pushServed s k q).core c).arch = (s.core c).arch := by
  by_cases hc : c = k
  · subst hc
    rw [pushServed, core_modCore_self]
  · rw [pushServed, core_modCore_ne _ _ _ _ hc]

theorem pushServed_here {s : State} {k : CoreId} (hk : k ≠ s.cur.core) (q : Nat) : (pushServed s k q).here = s.here :=
  core_modCore_ne s k _ _ hk.symm

/-- An entry for another core is held, and its reservation with it. -/
theorem enqueue_far {s : State} {k : CoreId} {q : Nat} (hk : k ≠ s.cur.core) (hq : q < 3) (bs : List Byte) (sg : WaitSig) :
    s.enqueue k q bs sg = (pushServed s k q).modHere (fun c => (c.holdEff s.cycle (.qentry k.val q (q - 3) bs sg s.sourceClass) 1
      s.cur.th s.eng.pc c.cpCount 0).autoCp) := by
  have hmin : min q 3 = q := Nat.min_eq_left hq.le
  have hcls : (pushServed s k q).sourceClass = s.sourceClass := by
    unfold State.sourceClass
    rw [pushServed_here hk]
    rfl
  have heng : (pushServed s k q).eng = s.eng := by rw [State.eng, State.arch, pushServed_here hk]; rfl
  unfold State.enqueue
  simp only
  rw [if_neg (fun h => hk h.1), if_neg (Nat.not_le.2 hq), hmin]
  change (pushServed s k q).modHere (fun c => (c.holdEff s.cycle (.qentry k.val q (q - 3) bs sg (pushServed s k q).sourceClass) 1
    s.cur.th (pushServed s k q).eng.pc c.cpCount 0).autoCp) = _
  rw [hcls, heng]

theorem holdEff_hold (c : Core) (now : Nat) (eff : Eff) (n : Nat) (th : Thread) (pc : W64) (epoch va : Nat) :
    ∃ e : Held, (c.holdEff now eff n th pc epoch va).hold = c.hold ++ [e] ∧ e.eff = eff ∧ e.entries = n := ⟨_, rfl, rfl, rfl⟩

theorem enqueue_far_held {s : State} {k : CoreId} {q : Nat} (hk : k ≠ s.cur.core) (hq : q < 3) (bs : List Byte) (sg : WaitSig) :
    ∃ e : Held, (s.enqueue k q bs sg).here.hold = s.here.hold ++ [e] ∧ e.eff = .qentry k.val q (q - 3) bs sg s.sourceClass ∧
      e.entries = 1 ∧ ∀ c, ((s.enqueue k q bs sg).core c).arch = (s.core c).arch := by
  rw [enqueue_far hk hq]
  obtain ⟨-, hhold, -⟩ := autoCp_queues ((pushServed s k q).here.holdEff s.cycle (.qentry k.val q (q - 3) bs sg s.sourceClass) 1
    s.cur.th s.eng.pc (pushServed s k q).here.cpCount 0)
  obtain ⟨e, he, heff, hentries⟩ := holdEff_hold (pushServed s k q).here s.cycle (.qentry k.val q (q - 3) bs sg s.sourceClass) 1
    s.cur.th s.eng.pc (pushServed s k q).here.cpCount 0
  refine ⟨e, ?_, heff, hentries, fun c => ?_⟩
  · rw [here_modHere, hhold, he, pushServed_here hk]
  · by_cases hc : c = s.cur.core
    · subst hc
      refine (congrArg Core.arch (here_modHere (pushServed s k q) _)).trans ?_
      rw [autoCp_arch]
      exact pushServed_arch s k q _
    · refine (congrArg Core.arch (core_modHere_ne (pushServed s k q) _ c hc)).trans (pushServed_arch s k q c)

/-- An own T entry: what comes before it, in order before what the sequencer does for it. -/
def ownQueued (s : State) : State := (pushServed s s.cur.core 1).inherits s.cur.core tReader (tHeir s.cur.th)

theorem enqueue_own (s : State) (bs : List Byte) (sg : WaitSig) : s.enqueue s.cur.core 1 bs sg = (ownQueued s).modArch (fun a =>
    { a with seq := { a.seq with cmdq := a.seq.cmdq ++ [tcmdOf bs sg (ownQueued s).here.ctx s.cur.core.val] } }) := by
  have hown : s.cur.core = s.cur.core ∧ (1 : Nat) ≠ 2 ∧ (pushServed s s.cur.core 1).slotLeased s.cur.core 1 = false := ⟨rfl, by decide, rfl⟩
  unfold State.enqueue
  exact (if_pos hown).trans rfl

theorem ownQueued_here (s : State) : ∃ l, (ownQueued s).here = withLog l { s.here with
    pushTurn := Store.set 63 s.here.pushTurn 1 s.cur.core.val } := by
  obtain ⟨l, hl⟩ := (onlyOrders_inherits (pushServed s s.cur.core 1) s.cur.core tReader (tHeir s.cur.th)).here
  exact ⟨l, hl.trans (congrArg (withLog l) (core_modCore_self s s.cur.core _))⟩

/-! ### QPUSH, QPOLL and TQPUSH (R273, R274, R276) -/

section Words

variable {h : Hdr} {f : CM} {s : State} {bs : List Byte} (hblk : ∀ c, s.withBlock f c = c bs) (hreplay : s.inReplay = false)

include hblk hreplay

section Checked

variable {k : CoreId} {q : Nat} (hcheck : s.pushCheck f bs 2 = none) (hk : k = coreId (s.g f.gt).toNat) (hq : q = queueOf f.qsel.toNat bs)

include hcheck hk hq

theorem exec_qpush_done (hroom : panRoom s (s.enqueue k q bs (waitSig f bs s.cur.core))) (hr : runs (.qpush h f) h s)
    (hmay : s.mayPush k q = true) : exec (.qpush h f) s = .next (s.wordDone (s.enqueue k q bs (waitSig f bs s.cur.core))) := by
  dsimp only [exec, execQpush]
  refine runWord_done hr ?_ hroom
  rw [hblk]
  simp only [hcheck, hreplay, ← hk, ← hq, hmay]
  rfl

theorem exec_qpush_waits (hr : runs (.qpush h f) h s) (hmay : s.mayPush k q = false) : ∃ u : State, exec (.qpush h f) s = .next u ∧
    u.eng.pc = s.eng.pc ∧ u.eng.stalled = true ∧ u.eng.pushTo = some (k.val, q) := by
  dsimp only [exec, execQpush]
  refine ⟨_, runWord_stall hr (t := s.modEng (fun e => { e with pushTo := some (k.val, q) })) ?_, ?_⟩
  · rw [hblk]
    simp only [hcheck, hreplay, ← hk, ← hq, hmay]
    rfl
  · rw [stalledNow_eng, eng_of_modEng]
    exact ⟨rfl, rfl, rfl⟩

theorem exec_qpoll_done (hroom : panRoom s (s.enqueue k q bs (waitSig f bs s.cur.core))) (hr : runs (.qpoll h f) h s)
    (hfree : s.queueRoom k q = true) (hnone : s.pushers k q = []) :
    exec (.qpoll h f) s = .next (s.wordDone ((s.enqueue k q bs (waitSig f bs s.cur.core)).setG f.gp 1)) := by
  dsimp only [exec, execQpoll]
  refine runWord_done hr ?_ (panRoom_modEng hroom _)
  rw [hblk]
  simp only [hcheck, hreplay, ← hk, ← hq, hfree, hnone]
  rfl

theorem exec_qpoll_full (hr : runs (.qpoll h f) h s) (hfull : s.queueRoom k q = false) :
    exec (.qpoll h f) s = .next (s.wordDone (s.setG f.gp 0)) := by
  dsimp only [exec, execQpoll]
  refine runWord_done hr ?_ (panRoom_setG s _ _)
  rw [hblk]
  simp only [hcheck, hreplay, ← hk, ← hq, hfull]
  rfl

end Checked

theorem exec_tqpush_done (hr : runs (.tqpush h f) h s) (hform : (blkForm bs 3 0 false).isSome = true) (hmay : s.mayPush s.cur.core 1 = true) :
    ∃ u : State, exec (.tqpush h f) s = .next (s.wordDone u) ∧
      u.arch.seq.cmdq = s.arch.seq.cmdq ++ [tcmdOf bs (waitSig f bs s.cur.core) s.here.ctx s.cur.core.val] ∧
      u.here.hold = s.here.hold := by
  obtain ⟨l, hl⟩ := ownQueued_here s
  have hok : ¬(blkForm bs 3 0 false).isNone = true := by simpa [Option.isSome_iff_ne_none] using hform
  have hhold : (s.enqueue s.cur.core 1 bs (waitSig f bs s.cur.core)).here.hold = s.here.hold := by
    rw [enqueue_own, here_modArch, coreModArch_hold, hl]
    rfl
  have hshadows : (s.enqueue s.cur.core 1 bs (waitSig f bs s.cur.core)).here.shadows = s.here.shadows := by
    rw [enqueue_own, here_modArch, coreModArch_shadows, hl]
    rfl
  dsimp only [exec, execTqpush]
  refine ⟨_, runWord_done hr ?_ (panRoom_of_same hhold hshadows), ?_, hhold⟩
  · rw [hblk]
    simp only [if_neg hok, hreplay, hmay]
    rfl
  · rw [enqueue_own, arch_modArch, State.arch, hl]
    rfl

end Words

/-- Settles O28: past its checks a word takes an entry (`exec_qpush_done`, `exec_qpoll_done`), is told that there is none or waits. -/
theorem queueWords : Obligations.QueueWords := by
  unfold Obligations.QueueWords
  intro h f s bs k q hblk hreplay
  exact ⟨fun hcheck hk hq hroom => ⟨exec_qpush_done hblk hreplay hcheck hk hq hroom, exec_qpush_waits hblk hreplay hcheck hk hq,
    exec_qpoll_done hblk hreplay hcheck hk hq hroom, exec_qpoll_full hblk hreplay hcheck hk hq⟩, exec_tqpush_done hblk hreplay,
    fun sg hk hq => enqueue_far_held hk hq bs sg⟩

end Sys2Proof.Proofs
end

section
/-! The barrier words (O24)
The views of a barrier read it; BARM and BRST note it in the shadow pool, clear its marks and set its state. -/

namespace Sys2Proof.Proofs

open Sys2Proof Sys2Proof.Machine Sys2Proof.Laws

/-! ### Barriers and their marks (R247) -/

theorem bar_modBar (a : Arch) (n : Nat) (f : Bar → Bar) : (a.modBar n f).bar n = f (a.bar n) := by simp [Arch.modBar, Arch.bar]

theorem bar_modBar_other (a : Arch) {n m : Nat} (f : Bar → Bar) (h : n % 64 ≠ m % 64) : (a.modBar n f).bar m = a.bar m :=
  Vector.getElem_set_ne (Nat.mod_lt n (by decide)) (Nat.mod_lt m (by decide)) h

/-- The byte of marks k, cleared. -/
theorem clearedByte_bit (x : Byte) {c k : Nat} (h : k < c) :
    (if 8 * (k / 8) + 8 ≤ c then 0 else x &&& ~~~(BitVec.ofNat 8 (2 ^ (c % 8) - 1))).getLsbD (k % 8) = false := by
  split
  · exact BitVec.getLsbD_zero
  · have hlow : k % 8 < c % 8 := by omega
    have hbit : (BitVec.ofNat 8 (2 ^ (c % 8) - 1)).getLsbD (k % 8) = true := by
      rw [BitVec.getLsbD_ofNat, Nat.testBit_two_pow_sub_one]
      simp [hlow, Nat.mod_lt k (show 8 > 0 by decide)]
    rw [BitVec.getLsbD_and, BitVec.getLsbD_not, hbit]
    simp

theorem marked_clearMarks (a : Arch) (b : Bar) {k : Nat} (h : k < b.chunks) : (a.clearMarks b).marked b k = false := by
  have hk : k / 8 < (b.chunks + 7) / 8 := by omega
  rw [Arch.marked, Arch.clearMarks]
  simp only
  rw [get_put, if_pos ⟨Nat.le_add_right _ _, by simp only [List.length_map, List.length_range]; omega⟩, Nat.add_sub_cancel_left,
    List.getD_eq_getElem?_getD, List.getElem?_map, List.getElem?_range hk]
  exact clearedByte_bit _ h

/-! ### Room for a run of granules (R347) -/

theorem foldl_shade_shadUsed (st : StoreId) (w : Writer) (g : Nat → Nat) (l : List Nat) (c : Core) :
    (l.foldl (fun c j => c.shade st w (g j)) c).shadUsed ≤ c.shadUsed + l.length := by
  induction l generalizing c with
  | nil => exact Nat.le_refl _
  | cons j l ih =>
    have hone := shade_shadUsed c st w (g j)
    have hrest := ih (c.shade st w (g j))
    simp only [List.foldl_cons, List.length_cons]
    omega

theorem shadeRun_shadUsed (c : Core) (st : StoreId) (w : Writer) (gran first n : Nat) :
    (c.shadeRun st w gran first n).shadUsed ≤ c.shadUsed + ((first + n - 1) / gran - first / gran + 1) := by
  unfold Core.shadeRun
  split
  · exact Nat.le_add_right _ _
  · have h := foldl_shade_shadUsed st w (fun j => (first / gran + j) * gran)
      (List.range ((first + n - 1) / gran - first / gran + 1)) c
    rwa [List.length_range] at h

/-- The notes of a word that acts on barrier n, whose marks are those of b. -/
def barNoted (n : Nat) (b : Bar) (c : Core) : Core := (c.shade .barWord .own n).shadeRun .bar .own 512 b.bmo ((b.chunks + 7) / 8)

theorem barNoted_arch (n : Nat) (b : Bar) (c : Core) : (barNoted n b c).arch = c.arch := by
  rw [barNoted, shadeRun_arch, shade_arch]

theorem barNoted_hold (n : Nat) (b : Bar) (c : Core) : (barNoted n b c).hold = c.hold := by
  rw [barNoted, shadeRun_hold, shade_hold]

theorem barNoted_shadUsed (n : Nat) (b : Bar) (c : Core) :
    (barNoted n b c).shadUsed ≤ c.shadUsed + ((b.bmo + (b.chunks + 7) / 8 - 1) / 512 - b.bmo / 512 + 1) := by
  have h := shadeRun_shadUsed (c.shade .barWord .own n) .bar .own 512 b.bmo ((b.chunks + 7) / 8)
  rwa [shade_uncopied c (by decide)] at h

/-- The state in which a word has acted on barrier n: its marks are cleared, f is its new state, waits on it take note, and
the reduction bound to it is gone. -/
def barActed (s : State) (n : Nat) (b : Bar) (f : Arch → Arch) : State :=
  (s.setCore s.cur.core (((barNoted n b s.here).modArch f).hitWaits (256 + n))).modDev (fun d =>
    { d with red := d.red.filter (fun r => !(r.core = s.cur.core.val && r.bar = n && s.here.real.isNone)) })

section Acted

variable (s : State) (n : Nat) (b : Bar) (f : Arch → Arch)

theorem barActed_here : (barActed s n b f).here = ((barNoted n b s.here).modArch f).hitWaits (256 + n) := core_setCore_self s _ _

theorem hitWaits_bar (c : Core) (k m : Nat) : (c.hitWaits k).arch.bar m = c.arch.bar m := rfl

theorem hitWaits_marked (c : Core) (k : Nat) (b : Bar) (m : Nat) : (c.hitWaits k).arch.marked b m = c.arch.marked b m := rfl

theorem barActed_bar (m : Nat) : (barActed s n b f).arch.bar m = (f s.arch).bar m := by
  rw [State.arch, barActed_here, hitWaits_bar, coreModArch_arch, barNoted_arch]
  rfl

theorem barActed_marked (m : Nat) : (barActed s n b f).arch.marked b m = (f s.arch).marked b m := by
  rw [State.arch, barActed_here, hitWaits_marked, coreModArch_arch, barNoted_arch]
  rfl

theorem panRoom_barActed
    (hroom : s.here.shadUsed + ((b.bmo + (b.chunks + 7) / 8 - 1) / 512 - b.bmo / 512 + 1) ≤ 2048) : panRoom s (barActed s n b f) := by
  refine panRoom_of_used ?_ ?_
  · have hh : (barActed s n b f).here.hold = s.here.hold := by
      rw [barActed_here]
      exact barNoted_hold n b s.here
    rw [Core.holdUsed, hh]
    rfl
  · rw [barActed_here]
    exact (barNoted_shadUsed n b s.here).trans hroom

end Acted

theorem bar_modEng (s : State) (f : Eng → Eng) (m : Nat) : (s.modEng f).arch.bar m = s.arch.bar m := by
  rw [arch_modEng]
  simp only [Arch.bar, archModEng_bars]

theorem marked_modEng (s : State) (f : Eng → Eng) (b : Bar) (m : Nat) : (s.modEng f).arch.marked b m = s.arch.marked b m := by
  rw [arch_modEng]
  simp only [Arch.marked, archModEng_barMem]

/-! ### The tests (R252, R256, R257) -/

theorem sameButOrder_tileAcquire (s : State) (r n : Nat) (tile : Option Nat) : s.sameButOrder (s.tileAcquire s.cur.core r n tile) := by
  cases tile with
  | none => exact sameButOrder_order s _ _ _
  | some t =>
    unfold State.tileAcquire
    simp only
    split
    · exact sameButOrder_order s _ _ _
    · exact sameButOrder_order s _ _ _

section Test

variable {h : Hdr} {f : SY} {s : State} (hok : s.barOk f.obj.toNat = true)

include hok

theorem exec_btestTile_not (hr : runs (.btestTile h f) h s)
    (hin : (s.arch.bar f.obj.toNat).st ≠ .idle → (s.g f.gb + f.opnd.zeroExtend 64).toNat < (s.arch.bar f.obj.toNat).tiles)
    (hnot : ¬((s.arch.bar f.obj.toNat).st ≠ .idle ∧
      s.arch.tileDone (s.arch.bar f.obj.toNat) (s.g f.gb + f.opnd.zeroExtend 64).toNat = true)) :
    exec (.btestTile h f) s = .next (s.wordDone (s.setG f.gd (setBit (s.g f.gd) f.n.toNat false))) := by
  dsimp only [exec, execBtestTile]
  refine runWord_done hr ?_ (panRoom_setG s _ _)
  have hbeyond : ¬((s.arch.bar f.obj.toNat).st ≠ .idle ∧ (s.arch.bar f.obj.toNat).tiles ≤ (s.g f.gb + f.opnd.zeroExtend 64).toNat) :=
    fun ⟨hi, hle⟩ => Nat.not_le.2 (hin hi) hle
  rw [owned_ok hok, if_neg hbeyond, if_neg hnot]
  rfl

theorem exec_btestTile_done (hr : runs (.btestTile h f) h s) (hi : (s.arch.bar f.obj.toNat).st ≠ .idle)
    (hlt : (s.g f.gb + f.opnd.zeroExtend 64).toNat < (s.arch.bar f.obj.toNat).tiles)
    (hdone : s.arch.tileDone (s.arch.bar f.obj.toNat) (s.g f.gb + f.opnd.zeroExtend 64).toNat = true) : ∃ t : State,
    exec (.btestTile h f) s = .next (s.wordDone (t.setG f.gd (setBit (s.g f.gd) f.n.toNat true))) ∧ t.eng = s.eng ∧
      t.arch.scr = s.arch.scr ∧ t.arch.bars = s.arch.bars ∧ s.sameButOrder t := by
  have ho := onlyOrders_tileAcquire s s.cur.core s.reader f.obj.toNat (some (s.g f.gb + f.opnd.zeroExtend 64).toNat)
  obtain ⟨l, hl⟩ := ho.arch
  refine ⟨s.tileAcquire s.cur.core s.reader f.obj.toNat (some (s.g f.gb + f.opnd.zeroExtend 64).toNat), ?_, ho.eng, by rw [hl],
    by rw [hl], sameButOrder_tileAcquire s _ _ _⟩
  dsimp only [exec, execBtestTile]
  refine runWord_done hr ?_ (panRoom_modEng ho.panRoom _)
  have hbeyond : ¬((s.arch.bar f.obj.toNat).st ≠ .idle ∧ (s.arch.bar f.obj.toNat).tiles ≤ (s.g f.gb + f.opnd.zeroExtend 64).toNat) :=
    fun ⟨_, hle⟩ => Nat.not_le.2 hlt hle
  have hg : s.g f.gd = (s.tileAcquire s.cur.core s.reader f.obj.toNat (some (s.g f.gb + f.opnd.zeroExtend 64).toNat)).g f.gd := by
    rw [State.g, State.g, ho.eng]
  rw [owned_ok hok, if_neg hbeyond, if_pos ⟨hi, hdone⟩, hg]
  rfl

/-- A view of the barrier is read into a register. -/
theorem runWord_barView {i : Instr} (hr : runs i h s) (v : Bar → W64) : runWord i h s (fun s =>
    owned (s.barOk f.obj.toNat) (.done (s.setG f.gd (v (s.arch.bar f.obj.toNat))))) =
      .next (s.wordDone (s.setG f.gd (v (s.arch.bar f.obj.toNat)))) :=
  runWord_done hr (owned_ok hok _) (panRoom_setG s _ _)

end Test

/-! ### BARM and BRST (R258, R259) -/

section Word

variable {h : Hdr} {f : SY} {s : State} {b : Bar} {d n : Nat} (hd : d = (s.g f.ga + f.opnd.zeroExtend 64).toNat) (hn : n = f.obj.toNat)
  (hok : s.barOk n = true)

/-- Arming sets a barrier to its descriptor, with the next generation. -/
def armedArch (n : Nat) (b : Bar) (a : Arch) : Arch := (a.modBar n (fun o => { b with st := .armed, gen := o.gen + 1 })).clearMarks b

theorem armedArch_bar (n : Nat) (b : Bar) (a : Arch) : (armedArch n b a).bar n = { b with st := .armed, gen := (a.bar n).gen + 1 } :=
  bar_modBar a n (fun o => { b with st := .armed, gen := o.gen + 1 })

/-- A barrier whose deadline is still to come goes on waiting (R250). -/
theorem barDeadline_early {t : State} {core : CoreId} {w : Writer} {n : Nat} {b : Bar} (hb : ((t.core core).archFor w).bar n = b)
    (hdl : b.dl = true → t.dtime < b.deadline) : t.barDeadline core w n = t := by
  have hoff : (b.waiting && b.dl && decide (b.deadline ≤ t.dtime)) = false := by
    by_cases hon : b.dl = true
    · simp [Nat.not_le.2 (hdl hon)]
    · simp [hon]
  unfold State.barDeadline
  simp only [hb, hoff]
  rfl

/-- The deadline of a barrier that is just armed is still to come. -/
theorem barDeadline_armed (s : State) (n : Nat) (b : Bar) (hdl : b.dl = true → s.dtime < b.deadline) :
    (barActed s n b (armedArch n b)).barDeadline s.cur.core
      (if (barActed s n b (armedArch n b)).here.real.isSome then .own else .outside) n = barActed s n b (armedArch n b) := by
  have hbar : ((barActed s n b (armedArch n b)).here.archFor
      (if (barActed s n b (armedArch n b)).here.real.isSome then .own else .outside)).bar n =
        { b with st := .armed, gen := (s.arch.bar n).gen + 1 } := by
    rw [← armedArch_bar, ← barActed_bar s n b]
    split
    · rfl
    · next hnone =>
      have hreal : (barActed s n b (armedArch n b)).here.real = none := by simpa using hnone
      simp only [Core.archFor, Core.realArch, hreal]
      rfl
  exact barDeadline_early (t := barActed s n b (armedArch n b)) (core := s.cur.core) hbar hdl

include hd hn hok

theorem exec_barm_done (hr : runs (.barm h f) h s) (hal : d % 64 = 0) (hidle : (s.arch.bar n).st = .idle)
    (hrange : s.recRange s.cur.core s.here.ctx d 64 = none) (hclean : s.arch.scrPoisoned d 64 = false)
    (hfields : barOk3 ((s.lview 4).scrRead d 64) = true) (hb : b = barOf ((s.lview 4).scrRead d 64))
    (hdl : b.dl = true → s.dtime < b.deadline) (hranges : ∀ r ∈ b.ranges, s.recRange s.cur.core s.here.ctx r.1 r.2 = none)
    (hapart : ∀ m, m < 64 → m ≠ n → (s.arch.bar m).st = .idle ∨ (s.arch.bar m).bmo + ((s.arch.bar m).chunks + 7) / 8 ≤ b.bmo ∨
      b.bmo + (b.chunks + 7) / 8 ≤ (s.arch.bar m).bmo) (hroom : s.here.shadUsed + 130 ≤ 2048) :
    ∃ u : State, exec (.barm h f) s = .next (s.wordDone u) ∧ u.arch.bar n = { b with st := .armed, gen := (s.arch.bar n).gen + 1 } ∧
      ∀ k, k < b.chunks → u.arch.marked b k = false := by
  have hfit : b.bmo + (b.chunks + 7) / 8 ≤ 65536 := by
    subst hb
    simp only [barOk3, Bool.and_eq_true, decide_eq_true_eq] at hfields
    exact hfields.1.2
  have hnone : b.ranges.findSome? (fun r => s.recRange s.cur.core s.here.ctx r.1 r.2) = none := List.findSome?_eq_none_iff.2 hranges
  have hfree : ((List.range 64).any (fun m => m ≠ n && (s.arch.bar m).st ≠ .idle &&
      decide ((s.arch.bar m).bmo < b.bmo + (b.chunks + 7) / 8) &&
        decide (b.bmo < (s.arch.bar m).bmo + ((s.arch.bar m).chunks + 7) / 8))) = false := by
    refine List.any_eq_false.2 fun m hm => ?_
    by_cases hmn : m = n
    · simp [hmn]
    · rcases hapart m (List.mem_range.1 hm) hmn with hi | hle | hle
      · simp [hi]
      · simp [Nat.not_lt.2 hle]
      · simp [Nat.not_lt.2 hle]
  refine ⟨(barActed s n b (armedArch n b)).modEng (fun e => { e with busy := s.cycle + 4 + (b.chunks + 4095) / 4096 }), ?_, ?_, fun k hk => ?_⟩
  · dsimp only [exec, execBarm]
    refine runWord_done hr ?_ (panRoom_modEng (panRoom_barActed s n b _ (by omega)) _)
    rw [← hn, owned_ok hok, ← hd, if_neg (not_not.2 hal), if_neg (not_not.2 hidle)]
    simp only [hrange, hclean, hfields, ← hb, hnone, hfree]
    exact congrArg (fun t : State => Res.done (t.modEng (fun e => { e with busy := s.cycle + 4 + (b.chunks + 4095) / 4096 })))
      (barDeadline_armed s n b hdl)
  · rw [bar_modEng, barActed_bar, armedArch_bar]
  · rw [marked_modEng, barActed_marked]
    exact marked_clearMarks _ b hk

theorem exec_barm_busy (hr : runs (.barm h f) h s) (hal : d % 64 = 0) (hidle : (s.arch.bar n).st ≠ .idle) :
    exec (.barm h f) s = .next (s.trap Code.reservedField (some (s.g f.ga + f.opnd.zeroExtend 64))) := by
  dsimp only [exec, execBarm]
  refine runWord_trap hr ?_
  rw [← hn, owned_ok hok, ← hd, if_neg (not_not.2 hal), if_pos hidle]

omit hd in
theorem exec_brst_done (hlt : n < 64) (hr : runs (.brst h f) h s) (hidle : (s.arch.bar n).st ≠ .idle)
    (hroom : s.here.shadUsed + ((s.arch.bar n).chunks / 4096 + 4) ≤ 2048) : ∃ u : State,
    exec (.brst h f) s = .next (s.wordDone u) ∧ (u.arch.bar n).st = .idle ∧ (u.arch.bar n).code = 0 ∧ (u.arch.bar n).red = none ∧
      ∀ m, m < 64 → m ≠ n → u.arch.bar m = s.arch.bar m := by
  let g : Arch → Arch := fun a => (a.clearMarks (s.arch.bar n)).modBar n (fun b => { b with st := .idle, code := 0, red := none })
  have hself : (g s.arch).bar n = { s.arch.bar n with st := .idle, code := 0, red := none } := bar_modBar _ n _
  refine ⟨(barActed s n (s.arch.bar n) g).modEng (fun e => { e with busy := s.cycle + 2 + ((s.arch.bar n).chunks + 4095) / 4096 }),
    ?_, ?_, ?_, ?_, fun m hm hmn => ?_⟩
  · dsimp only [exec, execBrst]
    refine runWord_done hr ?_ (panRoom_modEng (panRoom_barActed s n _ _ (by omega)) _)
    rw [← hn, owned_ok hok, if_neg hidle]
    rfl
  · rw [bar_modEng, barActed_bar, hself]
  · rw [bar_modEng, barActed_bar, hself]
  · rw [bar_modEng, barActed_bar, hself]
  · rw [bar_modEng, barActed_bar]
    exact bar_modBar_other _ _ (by rw [Nat.mod_eq_of_lt hm, Nat.mod_eq_of_lt hlt]; exact hmn.symm)

omit hd in
theorem exec_brst_idle (hr : runs (.brst h f) h s) (hidle : (s.arch.bar n).st = .idle) : ∃ u : State,
    exec (.brst h f) s = .next (s.wordDone u) ∧ u.arch.bars = s.arch.bars ∧ u.arch.barMem = s.arch.barMem := by
  refine ⟨(s.modHere (fun c => c.hitWaits (256 + n))).modEng (fun e => { e with busy := s.cycle + 2 }), ?_, ?_, ?_⟩
  · dsimp only [exec, execBrst]
    refine runWord_done hr ?_ (panRoom_modEng (panRoom_modHere rfl rfl) _)
    rw [← hn, owned_ok hok, if_pos hidle]
  · rw [arch_modEng, archModEng_bars, State.arch, here_modHere]
    rfl
  · rw [arch_modEng, archModEng_barMem, State.arch, here_modHere]
    rfl

end Word

/-- Settles O24: the tests read a view (`runWord_barView`), BARM and BRST act on the barrier (`barActed`) where their checks pass. -/
theorem barrierWords : Obligations.BarrierWords := by
  unfold Obligations.BarrierWords
  refine ⟨fun h f s hok => ⟨fun hr hi hlt => ⟨fun hnot => ?_, fun hdone => ?_⟩, fun hr hi => ?_, fun hr => ?_, fun hr => ?_, fun hr => ?_⟩,
    fun h f s b d n hd hn hlt hok => ⟨exec_barm_done hd hn hok, exec_brst_done hn hok hlt, exec_brst_idle hn hok, exec_barm_busy hd hn hok⟩⟩
  · exact exec_btestTile_not hok hr (fun _ => hlt) (fun hdone => absurd (hnot.symm.trans hdone.2) (by decide))
  · exact exec_btestTile_done hok hr hi hlt hdone
  · exact exec_btestTile_not hok hr (fun hno => absurd hi hno) (fun hno => hno.1 hi)
  · exact runWord_barView hok hr Bar.stat
  · exact runWord_barView hok hr Bar.cnt
  · exact runWord_barView hok hr Bar.lateView

end Sys2Proof.Proofs
end

section
/-! A fatal fault (O17)
The effects that no commit point covers are discarded, which touches no memory and no bundle; then the task's core, its
bundle and its context are marked, and the record follows what is left in the Pan. -/

namespace Sys2Proof.Proofs

open Sys2Proof Sys2Proof.Machine Sys2Proof.Laws

/-! ### What a discard leaves alone (R276, R350) -/

/-- From s to t at most reservations of rings, key slots and the discarding core's queues have changed. -/
structure DiscardFrame (s t : State) : Prop where
  keys : ∃ ks, t.dev = { s.dev with keys := ks }
  scr : ∀ c, (t.core c).arch.scr = (s.core c).arch.scr
  cur : t.cur = s.cur

namespace DiscardFrame

variable {s t u : State}

theorem trans (h : DiscardFrame s t) (g : DiscardFrame t u) : DiscardFrame s u := by
  obtain ⟨ks, hks⟩ := h.keys
  obtain ⟨ls, hls⟩ := g.keys
  exact ⟨⟨ls, by rw [hls, hks]⟩, fun c => (g.scr c).trans (h.scr c), g.cur.trans h.cur⟩

theorem sameMemory (h : DiscardFrame s t) : s.sameMemory t := by
  obtain ⟨ks, hks⟩ := h.keys
  exact ⟨fun a => by rw [hks], fun a => by rw [hks], fun o => by rw [hks]; rfl, fun c a => by rw [h.scr c]⟩

end DiscardFrame

theorem discardFrame_modCore (s : State) (core : CoreId) {f : Core → Core} (h : (f (s.core core)).arch.scr = (s.core core).arch.scr) :
    DiscardFrame s (s.modCore core f) := by
  refine ⟨⟨s.dev.keys, rfl⟩, fun c => ?_, rfl⟩
  by_cases hc : c = core
  · subst hc
    rw [core_modCore_self, h]
  · rw [core_modCore_ne _ _ _ _ hc]

theorem discardFrame_unreserve (s : State) (k q ring : Nat) : DiscardFrame s (s.unreserve k q ring) := by
  unfold State.unreserve
  split
  · exact discardFrame_modCore s _ rfl
  · exact ⟨⟨s.dev.keys, rfl⟩, fun _ => rfl, rfl⟩

theorem discardFrame_discard (s : State) (core : CoreId) (lost : Held → Bool) : DiscardFrame s (s.discard core lost) := by
  unfold State.discard
  refine List.foldlRecOn (motive := DiscardFrame s) _ _ (discardFrame_modCore s core (f := fun _ => _) rfl) fun t ht h _ => ?_
  split
  · exact ht.trans (discardFrame_unreserve t _ _ _)
  · exact ht.trans ⟨⟨_, rfl⟩, fun _ => rfl, rfl⟩
  · exact ht

/-! ### The fault, step by step (R305) -/

/-- The core of a task that a fatal fault has stopped. -/
def fatallyStopped (t : Task) (c : Core) : Core :=
  let stop : Eng → Eng := fun e => { e with run := .dead, wait := none, stalled := false, delay := none, pushTo := none }
  { c with
    arch := { c.arch with engC := stop c.arch.engC, engA := stop c.arch.engA, engV := stop c.arch.engV, engM := stop c.arch.engM
                          leases := [], mflight := [] }
    region := .faulted, recov := none, restart := none, cpReq := [], preempt := none, svcs := [], task := some { t with st := .faulted } }

/-- The bundle and the context of a task that a fatal fault has stopped. -/
def fatallyMarked (t : Task) (code : BitVec 8) (d : Dev) : Dev :=
  let d := if t.replay then d else d.modBundle t.bundle (fun b => { b.fail code with live := b.live - 1 })
  let x := d.ctx t.ctx
  if x.st = .resident ∨ x.st = .running ∨ x.st = .preempted then d.setCtx t.ctx { x with st := .faulted } else d

/-- What is held and not covered yet counts as covered by the commit point taken last. -/
def coverRest (c : Core) : Core :=
  { c with hold := c.hold.map (fun (h : Held) => if h.cover.isNone then { h with cover := some c.cpCount } else h) }

/-- The record of a fatal fault. -/
def fatalRecord (core : CoreId) (t : Task) (code : BitVec 8) (pc ea : W64) : FaultRec :=
  { va := ea, pc := pc, tag := 0, ctx := t.ctx, code := code, kind := 4, wr := false, mal := false, core := core.val, obj := 0, sect := 0 }

/-- The core stopped, its bundle and context marked. -/
def fatalMarks (s : State) (core : CoreId) (t : Task) (code : BitVec 8) : State :=
  ((s.discard core (fun h => h.cover.isNone)).modCore core (fatallyStopped t)).modDev (fatallyMarked t code)

section Fatal

variable {s : State} {core : CoreId} {t : Task} (code : BitVec 8) (pc ea : W64)

theorem fatalOn_eq (htask : (s.core core).task = some t) : s.fatalOn core code pc ea =
    ((fatalMarks s core t code).recordOut core .c ((fatalMarks s core t code).core core).cpCount
      (fatalRecord core t code pc ea) .other 0).modCore core coverRest := by
  simp only [State.fatalOn, htask]
  rfl

theorem fatalMarks_core : ((fatalMarks s core t code).core core) =
    fatallyStopped t ((s.discard core (fun h => h.cover.isNone)).core core) := core_modCore_self _ _ _

/-- The effects that are left are covered, and none of them is the new record. -/
theorem coverRest_hold {c : Core} {hs : List Held} {e : Held} (hc : c.hold = hs.filter (fun h => h.cover.isSome) ++ [e])
    (he : e.cover = none) : (coverRest c).hold = hs.filter (fun h => h.cover.isSome) ++ [{ e with cover := some c.cpCount }] := by
  have hkeep : (hs.filter (fun h => h.cover.isSome)).map (fun (h : Held) => if h.cover.isNone then { h with cover := some c.cpCount } else h) =
      hs.filter (fun h => h.cover.isSome) := by
    refine (List.map_congr_left fun h hmem => ?_).trans (List.map_id _)
    have hsome : h.cover.isSome = true := (List.mem_filter.1 hmem).2
    exact if_neg (by simpa [Option.isSome_iff_ne_none] using hsome)
  simp only [coverRest, hc, List.map_append, hkeep, List.map_cons, List.map_nil, he]
  rfl

theorem holdEff_fresh (c : Core) (now : Nat) (eff : Eff) (n : Nat) (th : Thread) (pc : W64) (epoch va : Nat) :
    ∃ e : Held, (c.holdEff now eff n th pc epoch va).hold = c.hold ++ [e] ∧ e.eff = eff ∧ e.cover = none := ⟨_, rfl, rfl, rfl⟩

theorem fatal_recordOut_core : ((fatalMarks s core t code).recordOut core .c ((fatalMarks s core t code).core core).cpCount
      (fatalRecord core t code pc ea) .other 0).core core =
    (fatallyStopped t ((s.discard core (fun h => h.cover.isNone)).core core)).holdEff (fatalMarks s core t code).cycle
      (.record (dieOf core) (fatalRecord core t code pc ea) .other 0 (fatalMarks s core t code).dev.detected)
      ((fatalMarks s core t code).recordEntries (dieOf core)) .c pc ((s.discard core (fun h => h.cover.isNone)).core core).cpCount ea.toNat := by
  rw [State.recordOut, core_modDev, core_modCore_self, fatalMarks_core]
  rfl

theorem sameMemory_recordOut (u : State) (k : CoreId) (th : Thread) (epoch : Nat) (r : FaultRec) (o : ObjRef) (page : Nat) :
    u.sameMemory (u.recordOut k th epoch r o page) :=
  sameMemory_trans (discardFrame_modCore u k rfl).sameMemory ⟨fun _ => rfl, fun _ => rfl, fun _ => rfl, fun _ _ => rfl⟩

theorem fatalOn_core (htask : (s.core core).task = some t) : ((s.fatalOn core code pc ea).core core).task = some { t with st := .faulted } ∧
    ((s.fatalOn core code pc ea).core core).region = .faulted ∧
    (∀ e ∈ kernelThreads, (((s.fatalOn core code pc ea).core core).arch.eng e).run = .dead) ∧
    ∃ (e : Held) (r : FaultRec) (n : Nat),
      ((s.fatalOn core code pc ea).core core).hold = (s.core core).hold.filter (fun h => h.cover.isSome) ++ [e] ∧
      e.eff = .record (dieOf core) r .other 0 n ∧ e.cover = some (s.core core).cpCount ∧
      r.kind = 4 ∧ r.code = code ∧ r.pc = pc ∧ r.va = ea ∧ r.ctx = t.ctx ∧ r.core = core.val := by
  obtain ⟨-, -, xq, n, hframe⟩ := discard_core s core (fun h => h.cover.isNone)
  have hhold : ((s.discard core (fun h => h.cover.isNone)).core core).hold = (s.core core).hold.filter (fun h => h.cover.isSome) :=
    hframe.hold.trans (List.filter_congr fun h _ => by dsimp only; cases h.cover <;> rfl)
  have hcp : ((s.discard core (fun h => h.cover.isNone)).core core).cpCount = (s.core core).cpCount := hframe.cpCount
  obtain ⟨e, he, heff, hcover⟩ := holdEff_fresh (fatallyStopped t ((s.discard core (fun h => h.cover.isNone)).core core))
    (fatalMarks s core t code).cycle (.record (dieOf core) (fatalRecord core t code pc ea) .other 0 (fatalMarks s core t code).dev.detected)
    ((fatalMarks s core t code).recordEntries (dieOf core)) .c pc
    ((s.discard core (fun h => h.cover.isNone)).core core).cpCount ea.toNat
  rw [fatalOn_eq code pc ea htask, core_modCore_self, fatal_recordOut_core]
  refine ⟨rfl, rfl, fun e he => ?_, _, _, _, coverRest_hold (hs := (s.core core).hold) (e := e) ?_ hcover, heff, congrArg some hcp,
    rfl, rfl, rfl, rfl, rfl, rfl⟩
  · simp only [kernelThreads, List.mem_cons, List.not_mem_nil, or_false] at he
    rcases he with rfl | rfl | rfl | rfl <;> rfl
  · rw [he]
    exact congrArg (· ++ [e]) hhold

/-! ### Its bundle, its context, and memory -/

theorem fail_id (b : Bundle) (code : BitVec 8) : (b.fail code).id = b.id := by
  unfold Bundle.fail
  split
  · rfl
  · rfl
  · split <;> rfl

theorem fatallyMarked_bundle (hreplay : t.replay = false) {d : Dev} {b : Bundle} (hb : d.bundle t.bundle = some b) :
    (fatallyMarked t code d).bundle t.bundle = some { b.fail code with live := b.live - 1 } := by
  have hid : b.id = t.bundle := by simpa using List.find?_some hb
  have hmod := bundle_modBundle (f := fun b => { b.fail code with live := b.live - 1 }) hb ((fail_id b code).trans hid)
  unfold fatallyMarked
  simp only [hreplay, Bool.false_eq_true, ↓reduceIte]
  split
  · exact hmod
  · exact hmod

theorem fatallyMarked_ctx (d : Dev) : ((fatallyMarked t code d).ctx t.ctx).st = (if (d.ctx t.ctx).st = .resident ∨ (d.ctx t.ctx).st = .running ∨
    (d.ctx t.ctx).st = .preempted then .faulted else (d.ctx t.ctx).st) := by
  have hctx : (if t.replay = true then d else d.modBundle t.bundle (fun b => { b.fail code with live := b.live - 1 })).ctx t.ctx = d.ctx t.ctx := by
    split <;> rfl
  unfold fatallyMarked
  simp only [hctx]
  split
  · rw [ctx_setCtx]
  · rw [hctx]

theorem fatallyMarked_sameMemory (u : State) : u.sameMemory (u.modDev (fatallyMarked t code)) := by
  have hdev : ∃ bs cs, fatallyMarked t code u.dev = { u.dev with bundles := bs, ctxs := cs } := by
    unfold fatallyMarked
    simp only
    split <;> split <;> exact ⟨_, _, rfl⟩
  obtain ⟨bs, cs, hdev⟩ := hdev
  exact ⟨fun a => by rw [modDev_dev, hdev], fun a => by rw [modDev_dev, hdev], fun o => by rw [modDev_dev, hdev]; rfl, fun _ _ => rfl⟩

/-- The device after the fault is the marked one, but for the numbering of records. -/
theorem fatalOn_dev (htask : (s.core core).task = some t) : ∃ n ks, (s.fatalOn core code pc ea).dev =
    { fatallyMarked t code { s.dev with keys := ks } with detected := n } := by
  obtain ⟨ks, hks⟩ := (discardFrame_discard s core (fun h => h.cover.isNone)).keys
  refine ⟨(fatalMarks s core t code).dev.detected + 1, ks, ?_⟩
  rw [fatalOn_eq code pc ea htask, ← hks]
  rfl

theorem sameMemory_modCore (u : State) (k : CoreId) {f : Core → Core} (h : (f (u.core k)).arch.scr = (u.core k).arch.scr) :
    u.sameMemory (u.modCore k f) := (discardFrame_modCore u k h).sameMemory

theorem sameMemory_fatalOn (htask : (s.core core).task = some t) : s.sameMemory (s.fatalOn core code pc ea) := by
  have hmarks : s.sameMemory (fatalMarks s core t code) :=
    sameMemory_trans (sameMemory_trans (discardFrame_discard s core (fun h => h.cover.isNone)).sameMemory
      (sameMemory_modCore _ core rfl)) (fatallyMarked_sameMemory code _)
  rw [fatalOn_eq code pc ea htask]
  exact sameMemory_trans (sameMemory_trans hmarks (sameMemory_recordOut _ _ _ _ _ _ _)) (sameMemory_modCore _ core rfl)

end Fatal

/-- Settles O17: the core that stops (`fatalOn_core`), its bundle and its context (`fatallyMarked`) and what is left alone. -/
theorem fatalFault : Obligations.FatalFault := by
  unfold Obligations.FatalFault
  intro s core code pc ea t htask hreplay
  obtain ⟨htask', hregion, hdead, hheld⟩ := fatalOn_core code pc ea htask
  obtain ⟨n, ks, hdev⟩ := fatalOn_dev code pc ea htask
  refine ⟨_, rfl, htask', hregion, hdead, hheld, fun b hb => ?_, ?_, sameMemory_fatalOn code pc ea htask⟩
  · rw [hdev]
    exact fatallyMarked_bundle code hreplay (d := { s.dev with keys := ks }) hb
  · rw [hdev]
    exact fatallyMarked_ctx code { s.dev with keys := ks }

end Sys2Proof.Proofs
end

section
/-! Returning from a trap (O18), TRAP, SVC and YIELD (O19)
RETT of an engine whose trapped instance an LBRK has made void goes to the header after LAST (R122), not to EPC. -/

namespace Sys2Proof.Proofs

open Sys2Proof Sys2Proof.Machine Sys2Proof.Laws

theorem runWord_gone {i : Instr} {h : Hdr} {s t : State} {eff : State → Res} (hr : runs i h s) (he : eff s = .gone t) :
    runWord i h s eff = .next t := by
  rw [runWord_runs hr, he]
  rfl

/-! ### RETT (R318) -/

theorem exec_rett_returns {h : Hdr} {f : SY} {s : State} (hr : runs (.rett h f) h s) (hm : s.eng.mayReturn = true) :
    exec (.rett h f) s = .next (s.modEng (fun e => e.ret s.cycle)) := by
  dsimp only [exec, execRett]
  exact runWord_gone hr (if_neg (by simp [hm]))

/-- V in its handler, entered at word 0 of an instance that an LBRK of another engine has made void since; the header
after LAST is at 8. -/
def voided : State := { State.reset with cur := ⟨0, .v⟩ }.modEng (fun e =>
  { e with run := .handler, status := 3, cause := 0, epc := 0, retVoid := some 8 })

theorem voided_eng : voided.eng = { Eng.reset false with run := .handler, status := 3, cause := 0, epc := 0, retVoid := some 8 } := by
  rw [voided, eng_of_modEng]
  rw [State.eng, State.arch, State.here]
  exact congrArg (fun c : Core => { c.arch.eng .v with run := .handler, status := 3, cause := 0, epc := 0, retVoid := some 8 }) (core_reset 0)

/-- Refutes O18: its clause for a word that is no delay word holds for no engine that returns from a void instance, since that
one goes on at the header after LAST. -/
theorem not_returnFromTrap : ¬ Obligations.ReturnFromTrap := by
  unfold Obligations.ReturnFromTrap
  intro hall
  have hruns : runs (.rett ⟨0, 0, 0, 0⟩ ⟨0, 0, 0, 0, 0, 0, 0, 0, 0, 0, 0⟩) ⟨0, 0, 0, 0⟩ voided := by
    refine ⟨rfl, ?_⟩
    rw [State.live, voided_eng]
    rfl
  have hmay : voided.eng.mayReturn = true := by
    rw [voided_eng]
    rfl
  obtain ⟨hreturn, -⟩ := hall ⟨0, 0, 0, 0⟩ ⟨0, 0, 0, 0, 0, 0, 0, 0, 0, 0, 0⟩ voided hruns
  obtain ⟨u, hexec, -, -, hplain, -⟩ := hreturn hmay
  rw [exec_rett_returns hruns hmay] at hexec
  have hcause : voided.eng.cause.getLsbD 8 = false := by
    rw [voided_eng]
    rfl
  obtain ⟨-, hpc⟩ := hplain hcause
  rw [← Host.Outcome.next.inj hexec, eng_of_modEng, voided_eng] at hpc
  exact absurd hpc (by decide)

/-! ### TRAP, SVC and RETT.abort (R316 to R318) -/

section Word

variable {h : Hdr} {f : SY} {s : State}

theorem panRoom_setG_of {t : State} (hp : panRoom s t) (r : BitVec 5) (v : W64) : panRoom s (t.setG r v) := panRoom_modEng hp _

theorem exec_trap_taken (hr : runs (.trap h f) h s) : exec (.trap h f) s = .next (s.trapNx true 0x0A (some (f.code.zeroExtend 64))) := by
  dsimp only [exec, execTrap]
  exact runWord_gone hr rfl

/-- Outside a replay and a loop with RB = 1 an SVC asks. -/
theorem exec_svc_asks (hr : runs (.svc h f) h s) (hrb : s.here.rbLoop s.eng = none) (hreplay : s.inReplay = false) :
    exec (.svc h f) s = .next (s.finish (s.svcAsk f)) := by
  dsimp only [exec, execSvc]
  rw [runWord_runs hr, if_neg (by simp [hrb]), if_neg (by simp [hreplay])]

/-- A word whose commit point has sealed goes on. -/
theorem askCp_ready {n : Nat} (hask : s.eng.ask = some n) (hsealed : s.here.cpSealed n = true) (must : Bool) : s.askCp must = .ready := by
  have hle : n ≤ s.here.cpCount := by
    rw [Core.cpSealed, Bool.and_eq_true] at hsealed
    exact of_decide_eq_true hsealed.1
  simp [State.askCp, hask, hsealed, hle]

theorem exec_svc_answered (hr : runs (.svc h f) h s) (hrb : s.here.rbLoop s.eng = none) (hreplay : s.inReplay = false) {n : Nat}
    {r : SvcReq} {v : W64} (hask : s.eng.ask = some n) (hsealed : s.here.cpSealed n = true)
    (hfind : s.here.svcs.find? (fun r => r.th = s.cur.th && r.cp = n) = some r) (hanswer : r.answer = some (0, v)) :
    exec (.svc h f) s = .next (s.wordDone ((s.modHere (fun c => { c with svcs := c.svcs.filter (fun q => q.th ≠ s.cur.th) })).setG f.gd v)) := by
  have hdone : s.svcAsk f = .done ((s.modHere (fun c => { c with svcs := c.svcs.filter (fun q => q.th ≠ s.cur.th) })).setG f.gd v) := by
    simp only [State.svcAsk, askCp_ready hask hsealed, hask, Option.getD_some, hfind, hanswer]
    rfl
  rw [exec_svc_asks hr hrb hreplay, hdone, finish_done (panRoom_setG_of (panRoom_modHere rfl rfl) _ _)]

theorem exec_svc_requests (hth : s.cur.th ≠ .chap) (hr : runs (.svc h f) h s) (hrb : s.here.rbLoop s.eng = none)
    (hreplay : s.inReplay = false) (hask : s.eng.ask = none) : ∃ u : State, exec (.svc h f) s = .next u ∧
      u.here.cpReq = s.here.cpReq ++ [.word] ∧ u.eng.pc = s.eng.pc ∧ u.here.svcs = s.here.svcs := by
  have hwait : s.svcAsk f = .wait ((s.modEng (fun e => { e with ask := some (s.here.cpCount + s.here.cpReq.length + 1) })).modHere
      (fun c => c.requestCp .word)) := by
    simp only [State.svcAsk, State.askCp, hask]
  refine ⟨_, (exec_svc_asks hr hrb hreplay).trans (by rw [hwait, State.finish, if_neg hth]), ?_, ?_, ?_⟩
  · rw [here_modHere, here_modEng]
    rfl
  · have heng : ((s.modEng (fun e => { e with ask := some (s.here.cpCount + s.here.cpReq.length + 1) })).modHere
        (fun c => c.requestCp .word)).eng = { s.eng with ask := some (s.here.cpCount + s.here.cpReq.length + 1) } :=
      (eng_modHere _ _).trans (eng_of_modEng s _)
    rw [heng]
  · rw [here_modHere, here_modEng]
    rfl

theorem exec_rettAbort_ends (hth : s.cur.th ≠ .chap) (hr : runs (.rettAbort h f) h s) (hm : s.eng.mayReturn = true) :
    exec (.rettAbort h f) s = .next (s.fatalOn s.cur.core
      (if Code.all.contains (s.eng.cause.extractLsb' 0 8) then s.eng.cause.extractLsb' 0 8 else Code.reservedField)
      s.eng.epc s.eng.eaddr) := by
  dsimp only [exec, execRettAbort]
  refine runWord_gone hr ?_
  rw [if_neg (by simp [hm]), if_neg hth]
  rfl

/-! ### YIELD (R319) -/

/-- Outside handlers YIELD gives way as `State.latch` decides. -/
theorem exec_yield (hr : runs (.yield h f) h s) (hplace : s.placeOk true false = none) : exec (.yield h f) s = .next (s.finish
    (match s.yieldTo with
     | none => .done ((s.setGBit f.gd f.n.toNat false).modEng (fun e => { e with busy := s.cycle + 2 }))
     | some b => if (s.latch s.cur.core b).2 ∧ (s.latch s.cur.core b).1.here.task.isNone then .gone (s.latch s.cur.core b).1
       else .done (((s.latch s.cur.core b).1.setGBit f.gd f.n.toNat (s.latch s.cur.core b).2).modEng
         (fun e => { e with busy := (s.latch s.cur.core b).1.cycle + 2 })))) := by
  dsimp only [exec, execYield]
  rw [runWord_runs hr, hplace, checked]
  cases s.yieldTo <;> rfl

theorem exec_yield_none (hr : runs (.yield h f) h s) (hplace : s.placeOk true false = none) (hno : s.yieldTo = none) :
    exec (.yield h f) s = .next (s.wordDone ((s.setGBit f.gd f.n.toNat false).modEng (fun e => { e with busy := s.cycle + 2 }))) := by
  rw [exec_yield hr hplace, hno, finish_done (panRoom_modEng (panRoom_setGBit (panRoom_refl s) _ _ _) _)]

/-- The core of a task that a request asks to give way. -/
def askedToYield (b : Nat) (c : Core) : Core :=
  { (c.modArch (fun a => { a with engC := a.engC.reissue, engA := a.engA.reissue, engV := a.engV.reissue, engM := a.engM.reissue })) with
    preempt := some (Preempt.ask b) }

theorem latch_eq {b : Bundle} {t : Task} (htask : s.here.task = some t) (hreplay : t.replay = false) (hrun : t.st = .running)
    (hctx : t.ctx ≠ b.ctx) (hfree : s.here.preempt = none) : s.latch s.cur.core b = (s.modHere (askedToYield b.id), true) := by
  have htask' : (s.core s.cur.core).task = some t := htask
  have hfree' : (s.core s.cur.core).preempt = none := hfree
  have hmay : ¬(false = true ∨ t.ctx = b.ctx ∨ t.st ≠ .running) := by simp [hctx, hrun]
  simp only [State.latch, htask', hfree']
  rw [if_neg hmay, if_neg (by decide), if_neg (by simp [hreplay])]
  rfl

theorem reissue_g (e : Eng) : e.reissue.g = e.g := by
  unfold Eng.reissue
  split <;> rfl

theorem askedToYield_g (b : Nat) (r : BitVec 5) : (s.modHere (askedToYield b)).g r = s.g r := by
  have hg : ((askedToYield b s.here).arch.eng s.cur.th).g = (s.here.arch.eng s.cur.th).g := by
    cases s.cur.th with
    | c => exact reissue_g _
    | a => exact reissue_g _
    | v => exact reissue_g _
    | m => exact reissue_g _
    | chap => rfl
  rw [State.g, eng_modHere, Eng.getG, hg]
  rfl

theorem exec_yield_latched (hr : runs (.yield h f) h s) (hplace : s.placeOk true false = none) {b : Bundle} {t : Task}
    (hto : s.yieldTo = some b) (htask : s.here.task = some t) (hreplay : t.replay = false) (hrun : t.st = .running)
    (hctx : t.ctx ≠ b.ctx) (hfree : s.here.preempt = none) : ∃ u : State, exec (.yield h f) s = .next (s.wordDone u) ∧
    (f.gd ≠ 0 → u.g f.gd = setBit (s.g f.gd) f.n.toNat true) ∧
    ∃ p : Preempt, u.here.preempt = some p ∧ p.beneficiary = b.id ∧ p.st = .latched none := by
  have htask' : (s.modHere (askedToYield b.id)).here.task = some t := by
    rw [here_modHere]
    exact htask
  have hstays : ¬(True ∧ (s.modHere (askedToYield b.id)).here.task.isNone = true) := fun ⟨_, hnone⟩ => by
    rw [htask'] at hnone
    exact Bool.noConfusion hnone
  refine ⟨((s.modHere (askedToYield b.id)).setGBit f.gd f.n.toNat true).modEng (fun e => { e with busy := s.cycle + 2 }), ?_, fun hgd => ?_,
    Preempt.ask b.id, ?_, rfl, rfl⟩
  · rw [exec_yield hr hplace, hto]
    simp only [latch_eq htask hreplay hrun hctx hfree]
    rw [if_neg hstays, ← finish_done (panRoom_modEng (panRoom_setGBit (panRoom_modHere rfl rfl) _ _ _) _)]
    rfl
  · rw [State.g, eng_of_modEng, State.setGBit, askedToYield_g, eng_setG]
    change ((s.modHere (askedToYield b.id)).eng.setG f.gd _).getG f.gd = _
    rw [getG_setG, if_pos ⟨rfl, hgd⟩]
  · rw [here_modEng, State.setGBit, State.setG, here_modEng, here_modHere]
    rfl

end Word

/-- Settles O19: each word is its effect, behind the checks that the statement's hypotheses pass. -/
theorem trapAndServiceWords : Obligations.TrapAndServiceWords := by
  unfold Obligations.TrapAndServiceWords
  refine ⟨fun h f s hth => ⟨fun hr _ => exec_trap_taken hr, fun n r v hr hrb hreplay hask hsealed hfind hanswer =>
    exec_svc_answered hr hrb hreplay hask hsealed hfind hanswer, exec_svc_requests hth, exec_rettAbort_ends hth⟩,
    fun h f s hr hplace => ⟨exec_yield_none hr hplace, fun b t hto htask hreplay hrun hctx hfree =>
      exec_yield_latched hr hplace hto htask hreplay hrun hctx hfree⟩⟩

end Sys2Proof.Proofs
end

section
/-! Translations, seals and marks (O21)
An invalidation filters the caches of every core and die and notes held effects (`State.invalidate`); SEAL asks for a commit
point; PMARK and PCLR write marks alone. -/

namespace Sys2Proof.Proofs

open Sys2Proof Sys2Proof.Machine Sys2Proof.Laws

/-! ### TLBINV (R337, R338) -/

/-- The translations that an invalidation leaves. -/
def keptEnts (v : InvSet) (l : List TlbEnt) : List TlbEnt := l.filter (fun t => !v.hits t)

theorem invalidate_core (s : State) (v : InvSet) (c : CoreId) : (s.invalidate v).core c =
    { s.core c with tlb := keptEnts v (s.core c).tlb
                    hold := (s.core c).hold.map (fun (h : Held) => if s.mayUse v h then { h with stale := true } else h) } := by
  simp only [State.invalidate, State.core, Fin.getElem_fin, Vector.getElem_map]
  rfl

theorem invalidate_devTlb (s : State) (v : InvSet) (d : Fin 2) : (s.invalidate v).dev.tlb[d] = keptEnts v (s.dev.tlb[d]) := by
  simp only [State.invalidate, Fin.getElem_fin, Vector.getElem_map]
  rfl

theorem panRoom_invalidate (s : State) (v : InvSet) : panRoom s (s.invalidate v) := by
  have hcore : (s.invalidate v).here = _ := invalidate_core s v s.cur.core
  have hused : (s.invalidate v).here.holdUsed = s.here.holdUsed := by
    rw [hcore, Core.holdUsed, Core.holdUsed, List.map_map]
    refine congrArg List.sum (List.map_congr_left fun h _ => ?_)
    simp only [Function.comp_apply]
    split <;> rfl
  have hshad : (s.invalidate v).here.shadUsed = s.here.shadUsed := by
    rw [hcore]
    rfl
  simp [panRoom, Core.panLacks, hused, hshad]

/-- An invalidation that has been asked for by the current engine. -/
def invAsked (s : State) (v : InvSet) : State := (s.invalidate v).modEng (fun e => { e with asked := some (s.dev.wseq, 0) })

theorem modEng_core_fields (s : State) (f : Eng → Eng) (c : CoreId) : ((s.modEng f).core c).tlb = (s.core c).tlb ∧
    ((s.modEng f).core c).hold = (s.core c).hold ∧ ((s.modEng f).core c).xq = (s.core c).xq := by
  by_cases hc : c = s.cur.core
  · subst hc
    change (s.modEng f).here.tlb = _ ∧ (s.modEng f).here.hold = _ ∧ (s.modEng f).here.xq = _
    rw [here_modEng]
    exact ⟨rfl, rfl, rfl⟩
  · rw [core_modEng_ne _ _ _ hc]
    exact ⟨rfl, rfl, rfl⟩

/-- Whether the accesses are over does not depend on any engine. -/
theorem invDone_modEng (s : State) (f : Eng → Eng) (v : InvSet) (n : Nat) : (s.modEng f).invDone v n = s.invDone v n := by
  have hall : ∀ p : Core → Bool, (∀ c : CoreId, p ((s.modEng f).core c) = p (s.core c)) → (s.modEng f).cores.toList.all p = s.cores.toList.all p := by
    intro p hp
    rw [Bool.eq_iff_iff, List.all_eq_true, List.all_eq_true]
    simp only [Vector.mem_toList_iff, Vector.mem_iff_getElem]
    constructor
    · rintro h _ ⟨k, hk, rfl⟩
      exact (hp ⟨k, hk⟩).symm.trans (h _ ⟨k, hk, rfl⟩)
    · rintro h _ ⟨k, hk, rfl⟩
      exact (hp ⟨k, hk⟩).trans (h _ ⟨k, hk, rfl⟩)
  unfold State.invDone
  rw [hall]
  · rfl
  · intro c
    obtain ⟨-, hhold, hxq⟩ := modEng_core_fields s f c
    rw [hhold, hxq]

theorem tlbinv_done {s : State} {v : InvSet} (hask : s.eng.asked = none) (hover : (s.invalidate v).invDone v s.dev.wseq = true) :
    s.tlbinv v = .done (invAsked s v) := by
  have hdone : (invAsked s v).invDone v s.dev.wseq = true := (invDone_modEng _ _ _ _).trans hover
  have hasked : (invAsked s v).eng.asked = some (s.dev.wseq, 0) := congrArg Eng.asked (eng_of_modEng _ _)
  unfold State.tlbinv
  simp only [hask, Option.isSome_none, Bool.false_eq_true, ↓reduceIte]
  change (if (invAsked s v).invDone v ((invAsked s v).eng.asked.getD (0, 0)).1 then Res.done (invAsked s v) else _) = _
  rw [hasked]
  exact if_pos hdone

theorem invAsked_tlb (s : State) (v : InvSet) : (∀ c : CoreId, ((invAsked s v).core c).tlb = keptEnts v (s.core c).tlb) ∧
    ∀ d : Fin 2, (invAsked s v).dev.tlb[d] = keptEnts v (s.dev.tlb[d]) := by
  refine ⟨fun c => ?_, fun d => invalidate_devTlb s v d⟩
  rw [invAsked, (modEng_core_fields _ _ c).1, invalidate_core]

/-- A TLBINV whose accesses are over retires with its translations gone. -/
theorem runWord_tlbinv {i : Instr} {h : Hdr} {s : State} {v : InvSet} {eff : State → Res} (hr : runs i h s) (he : eff s = s.tlbinv v)
    (hask : s.eng.asked = none) (hover : (s.invalidate v).invDone v s.dev.wseq = true) : ∃ u : State,
      runWord i h s eff = .next (s.wordDone u) ∧ (∀ c : CoreId, (u.core c).tlb = keptEnts v (s.core c).tlb) ∧
        ∀ d : Fin 2, u.dev.tlb[d] = keptEnts v (s.dev.tlb[d]) :=
  ⟨invAsked s v, runWord_done hr (he.trans (tlbinv_done hask hover)) (panRoom_modEng (panRoom_invalidate s v) _), invAsked_tlb s v⟩

theorem keptEnts_all (l : List TlbEnt) : keptEnts ⟨none, none⟩ l = [] := List.filter_eq_nil_iff.2 fun _ _ => by simp [InvSet.hits]

theorem keptEnts_asid (n : Nat) (l : List TlbEnt) : keptEnts ⟨some n, none⟩ l = l.filter (fun t => t.asid ≠ n) :=
  List.filter_congr fun t _ => by simp [InvSet.hits]

theorem asid_eq (s : State) (f : SY) : ((s.g f.gb).extractLsb' 0 16).toNat = (s.g f.gb).toNat % 2 ^ 16 := by
  rw [BitVec.extractLsb'_toNat, Nat.shiftRight_zero]

theorem page_eq (s : State) (f : SY) : bitsOf (s.g f.ga).toNat 55 16 = (s.g f.ga).toNat / 2 ^ 16 % 2 ^ 40 := by
  simp [bitsOf, Nat.shiftRight_eq_div_pow]

/-! ### TLBPROBE (R339) -/

/-- Filling the caches takes no room in the Pan and touches no memory. -/
theorem fillCaches_frame (s : State) (ctx va : Nat) :
    panRoom s (s.fillCaches s.cur.core ctx va) ∧ s.sameMemory (s.fillCaches s.cur.core ctx va) := by
  have hcore : ∀ t, panRoom s (s.modHere (fun c => { c with tlb := fillTlb 512 c.tlb t })) ∧
      s.sameMemory (s.modHere (fun c => { c with tlb := fillTlb 512 c.tlb t })) :=
    fun _ => ⟨panRoom_modHere rfl rfl, sameMemory_modHere s rfl⟩
  unfold State.fillCaches
  split
  · dsimp only
    split
    · exact hcore _
    · exact ⟨(hcore _).1, sameMemory_trans (hcore _).2 ⟨fun _ => rfl, fun _ => rfl, fun _ => rfl, fun _ _ => rfl⟩⟩
  · exact ⟨panRoom_refl s, sameMemory_refl s⟩

theorem sameMemory_modEng (s : State) (f : Eng → Eng) : s.sameMemory (s.modEng f) :=
  sameMemory_modHere s (f := fun c => c.modArch (fun a => a.modEng s.cur.th f)) (archModEng_scr _ _ _)

theorem sameMemory_bumpFree (s : State) : s.sameMemory s.bumpFree := ⟨fun _ => rfl, fun _ => rfl, fun _ => rfl, fun _ _ => rfl⟩

theorem exec_tlbprobe_done {h : Hdr} {f : SY} {s : State} (hr : runs (.tlbprobe h f) h s) (hva : (s.g f.ga).toNat < 2 ^ 56) :
    ∃ u : State, exec (.tlbprobe h f) s = .next (s.wordDone u) ∧
      (f.gd ≠ 0 → u.g f.gd = s.probe (statusPriv s.eng.status) (s.xlate s.cur.core s.here.ctx (s.g f.ga).toNat)) ∧ s.sameMemory u := by
  obtain ⟨hroom, hmem⟩ := fillCaches_frame s s.here.ctx (s.g f.ga).toNat
  have hbelow : ¬2 ^ 56 ≤ (s.g f.ga).toNat := Nat.not_le.2 hva
  dsimp only [exec, execTlbprobe]
  refine ⟨_, runWord_done hr ?_ (?_ : panRoom s (((s.fillCaches s.cur.core s.here.ctx (s.g f.ga).toNat).setG f.gd
    (s.probe (statusPriv s.eng.status) (s.xlate s.cur.core s.here.ctx (s.g f.ga).toNat))).bumpFree)), fun hgd => ?_, ?_⟩
  · rw [if_neg hbelow, if_neg hbelow]
  · exact panRoom_setG_of hroom _ _
  · change ((s.fillCaches s.cur.core s.here.ctx (s.g f.ga).toNat).setG f.gd _).eng.getG f.gd = _
    rw [eng_setG, getG_setG, if_pos ⟨rfl, hgd⟩]
  · exact sameMemory_trans (sameMemory_trans hmem (sameMemory_modEng _ _)) (sameMemory_bumpFree _)

/-! ### SEAL (R364) -/

section Seal

variable {h : Hdr} {f : SY} {s : State} {i : Instr}

/-- What a SEAL does once it stands where it may. -/
def sealEffect (waits : Bool) (s : State) : Res :=
  match s.askCp false with
  | .pending t => .wait t
  | .open_ => .wait s
  | .ready => if waits then (match s.askCp true with | .ready => .done s | _ => .stall s) else .done s

theorem exec_sealWord (hplace : s.placeOk true false = none) (hrb : s.here.rbLoop s.eng = none) (hr : runs (.sealWord h f) h s) :
    exec (.sealWord h f) s = .next (s.finish (sealEffect false s)) := by
  dsimp only [exec, execSealWord]
  rw [runWord_runs hr, hplace, checked, if_neg (by simp [hrb])]
  rfl

theorem exec_sealWait (hplace : s.placeOk true false = none) (hrb : s.here.rbLoop s.eng = none) (hr : runs (.sealWait h f) h s) :
    exec (.sealWait h f) s = .next (s.finish (sealEffect true s)) := by
  dsimp only [exec, execSealWait]
  rw [runWord_runs hr, hplace, checked, if_neg (by simp [hrb])]
  rfl

theorem exec_seal (hi : i = .sealWord h f ∨ i = .sealWait h f) (hplace : s.placeOk true false = none) (hrb : s.here.rbLoop s.eng = none)
    (hr : runs i h s) : ∃ waits, (i = .sealWord h f → waits = false) ∧ exec i s = .next (s.finish (sealEffect waits s)) := by
  rcases hi with rfl | rfl
  · exact ⟨false, fun _ => rfl, exec_sealWord hplace hrb hr⟩
  · exact ⟨true, fun hno => (nomatch hno), exec_sealWait hplace hrb hr⟩

theorem seal_asks (waits : Bool) (hask : s.eng.ask = none) : (s.finish (sealEffect waits s)).here.cpReq = s.here.cpReq ++ [.word] ∧
    (s.finish (sealEffect waits s)).eng.pc = s.eng.pc := by
  have hwait : sealEffect waits s = .wait (asking s (s.here.cpCount + s.here.cpReq.length + 1)) := by
    simp only [sealEffect, State.askCp, hask]
    rfl
  obtain ⟨hreq, -, hpc⟩ := finish_asking s (s.here.cpCount + s.here.cpReq.length + 1)
  rw [hwait]
  exact ⟨hreq, hpc⟩

theorem seal_sealed {n : Nat} (waits : Bool) (hask : s.eng.ask = some n) (hsealed : s.here.cpSealed n = true) :
    s.finish (sealEffect waits s) = s.wordDone s := by
  have hdone : sealEffect waits s = .done s := by
    cases waits <;> simp [sealEffect, askCp_ready hask hsealed]
  rw [hdone, finish_done (panRoom_refl s)]

theorem seal_taken {n : Nat} (hask : s.eng.ask = some n) (hle : n ≤ s.here.cpCount) :
    s.finish (sealEffect false s) = s.wordDone s := by
  have hready : s.askCp false = .ready := by simp [State.askCp, hask, hle]
  have hdone : sealEffect false s = .done s := by simp [sealEffect, hready]
  rw [hdone, finish_done (panRoom_refl s)]

end Seal

/-! ### PMARK and PCLR of a view (R365) -/

theorem viewRows_lt {o : BitVec 20} {x : Nat × List Nat} (hx : x ∈ viewRows o) : x.1 < 16 := by
  unfold viewRows at hx
  split at hx
  · obtain ⟨i, hi, rfl⟩ := List.mem_map.1 hx
    exact List.mem_range.1 hi
  · rw [List.mem_singleton.1 hx]
    exact Nat.mod_lt _ (by decide)
  · obtain ⟨i, hi, rfl⟩ := List.mem_map.1 hx
    exact List.mem_range.1 hi
  · obtain ⟨i, hi, rfl⟩ := List.mem_map.1 hx
    exact List.mem_range.1 hi

/-- Marks set row by row. -/
theorem get_foldl_set (m : Bool) (g : Nat × List Nat → Nat) (rows : List (Nat × List Nat)) (st : Store Bool) (k : Nat) :
    Store.get false (rows.foldl (fun st x => Store.set false st (g x) m) st) k =
      if rows.any (fun x => decide (k = g x)) then m else Store.get false st k := by
  induction rows generalizing st with
  | nil => rfl
  | cons x rows ih =>
    rw [List.foldl_cons, ih, get_set, List.any_cons]
    by_cases hk : k = g x
    · simp [hk]
    · simp only [hk, decide_false, Bool.false_or, if_false]

theorem row_key {r k : Nat} {o : BitVec 20} : ((viewRows o).any (fun x => decide (k = r * 16 + x.1)) = true) ↔
    (k / 16 = r ∧ (viewRows o).any (fun x => decide (x.1 = k % 16)) = true) := by
  simp only [List.any_eq_true, decide_eq_true_eq]
  constructor
  · rintro ⟨x, hx, rfl⟩
    have hlt := viewRows_lt hx
    exact ⟨by omega, x, hx, by omega⟩
  · rintro ⟨hr, x, hx, hk⟩
    exact ⟨x, hx, by omega⟩

/-- The marks of the rows of a view, as PMARK and PCLR leave them. -/
def rowsMarked (r : Nat) (o : BitVec 20) (m : Bool) (st : Store Bool) : Store Bool :=
  (viewRows o).foldl (fun st x => Store.set false st (r * 16 + x.1) m) st

theorem get_rowsMarked (r : Nat) (o : BitVec 20) (m : Bool) (st : Store Bool) (k : Nat) : Store.get false (rowsMarked r o m st) k =
    if k / 16 = r ∧ (viewRows o).any (fun x => decide (x.1 = k % 16)) then m else Store.get false st k := by
  rw [rowsMarked, get_foldl_set m (fun x => r * 16 + x.1)]
  simp only [row_key]

/-- The core whose rows are marked, with the granules noted that hold them. -/
def markedCore (s : State) (o : BitVec 20) (m : Bool) : Core :=
  ((List.range 8).foldl (fun (c : Core) g => c.shade (if tLvl o = 0 then .tile else .wfile) .own (s.regOf o * 16 + g)) s.here).modArch
    (fun a => a.setMarks (tLvl o) (rowsMarked (s.regOf o) o m (a.marks (tLvl o))))

theorem foldl_shade_kept (st : StoreId) (w : Writer) (g : Nat → Nat) (l : List Nat) (c : Core) :
    (l.foldl (fun c j => c.shade st w (g j)) c).arch = c.arch ∧ (l.foldl (fun c j => c.shade st w (g j)) c).hold = c.hold :=
  List.foldlRecOn (motive := fun d : Core => d.arch = c.arch ∧ d.hold = c.hold) l _ ⟨rfl, rfl⟩ fun d hd j _ =>
    ⟨(shade_arch d st w (g j)).trans hd.1, (shade_hold d st w (g j)).trans hd.2⟩

theorem markedCore_arch (s : State) (o : BitVec 20) (m : Bool) :
    (markedCore s o m).arch = s.arch.setMarks (tLvl o) (rowsMarked (s.regOf o) o m (s.arch.marks (tLvl o))) := by
  rw [markedCore, coreModArch_arch, (foldl_shade_kept _ .own (fun g => s.regOf o * 16 + g) _ _).1]
  rfl

theorem setMarks_files (a : Arch) (lvl : Nat) (st : Store Bool) : (a.setMarks lvl st).tiles = a.tiles ∧ (a.setMarks lvl st).wfile = a.wfile ∧
    (a.setMarks lvl st).marks lvl = st := by
  unfold Arch.setMarks Arch.marks
  split
  · exact ⟨rfl, rfl, rfl⟩
  · split
    · exact ⟨rfl, rfl, rfl⟩
    · exact ⟨rfl, rfl, rfl⟩

theorem panRoom_markedCore {s : State} (o : BitVec 20) (m : Bool) (hroom : s.here.shadUsed + 8 ≤ 2048) :
    panRoom s (s.modHere (fun _ => markedCore s o m)) := by
  refine panRoom_of_used ?_ ?_
  · have hh : (markedCore s o m).hold = s.here.hold := by
      rw [markedCore, coreModArch_hold, (foldl_shade_kept _ .own (fun g => s.regOf o * 16 + g) _ _).2]
    rw [here_modHere, Core.holdUsed, hh]
    rfl
  · have hs := foldl_shade_shadUsed (if tLvl o = 0 then .tile else .wfile) .own (fun g => s.regOf o * 16 + g) (List.range 8) s.here
    have hm : (markedCore s o m).shadUsed = ((List.range 8).foldl (fun c j => c.shade (if tLvl o = 0 then .tile else .wfile) .own
        (s.regOf o * 16 + j)) s.here).shadUsed := by
      rw [Core.shadUsed, markedCore, coreModArch_shadows, Core.shadUsed]
    rw [List.length_range] at hs
    rw [here_modHere, hm]
    exact hs.trans hroom

/-- The first two banks are on (R71). -/
theorem banksOn_low {s : State} {regs : List Nat} (hlow : ∀ o ∈ regs, o / 64 < 2) (hpwr : s.arch.bankPwr.extractLsb' 0 4 = (5 : BitVec 4))
    (h0 : Store.get 0 s.arch.bankWake 0 = 0) (h1 : Store.get 0 s.arch.bankWake 1 = 0) : s.banksOn regs := by
  intro b hb
  obtain ⟨o, ho, rfl⟩ := List.mem_map.1 (List.mem_eraseDups.1 hb)
  have hnib : s.arch.bankPwr.toNat % 16 = 5 := by
    have := congrArg BitVec.toNat hpwr
    simpa using this
  have hb2 := hlow o ho
  generalize o / 64 = b at hb2 ⊢
  interval_cases b
  · exact ⟨by simp only [bitsOf, Nat.shiftRight_eq_div_pow]; omega, by rw [h0]; exact Nat.zero_le _⟩
  · exact ⟨by simp only [bitsOf, Nat.shiftRight_eq_div_pow]; omega, by rw [h1]; exact Nat.zero_le _⟩

theorem markRows_eq (s : State) (o : BitVec 20) (m : Bool) : markRows o m s = withBanks s (s.mainRegs [o])
    (.done ((s.modHere (fun _ => markedCore s o m)).modEng (fun e => { e with busy := s.cycle + 2 }))) := by
  dsimp only [markRows, markedCore, rowsMarked, State.modHere, State.modCore]

theorem marks_modEng (a : Arch) (t : Thread) (f : Eng → Eng) (lvl : Nat) : (a.modEng t f).marks lvl = a.marks lvl := by
  unfold Arch.marks
  rw [archModEng_tileP, archModEng_wfileP, archModEng_latchP]

theorem runWord_markRows {i : Instr} {h : Hdr} {s : State} {o : BitVec 20} {m : Bool} (hr : runs i h s) (hbanks : s.banksOn (s.mainRegs [o]))
    (hroom : s.here.shadUsed + 8 ≤ 2048) : ∃ u : State, runWord i h s (fun s => markRows o m s) = .next (s.wordDone u) ∧
      u.arch.tiles = s.arch.tiles ∧ u.arch.wfile = s.arch.wfile ∧ ∀ k, Store.get false (u.arch.marks (tLvl o)) k =
        if k / 16 = s.regOf o ∧ (viewRows o).any (fun x => decide (x.1 = k % 16)) then m else Store.get false (s.arch.marks (tLvl o)) k := by
  obtain ⟨named, hnamed⟩ := nameBanks_eq (s := s) (bs := banksOf (s.mainRegs [o]))
    (w := (s.modHere (fun _ => markedCore s o m)).modEng (fun e => { e with busy := s.cycle + 2 }))
  obtain ⟨htiles, hwfile, hmarks⟩ := setMarks_files s.arch (tLvl o) (rowsMarked (s.regOf o) o m (s.arch.marks (tLvl o)))
  have harch : (s.nameBanks (banksOf (s.mainRegs [o])) ((s.modHere (fun _ => markedCore s o m)).modEng (fun e => { e with busy := s.cycle + 2 }))).arch =
      { (s.arch.setMarks (tLvl o) (rowsMarked (s.regOf o) o m (s.arch.marks (tLvl o)))).modEng s.cur.th (fun e => { e with busy := s.cycle + 2 }) with
        named := named ((s.arch.setMarks (tLvl o) (rowsMarked (s.regOf o) o m (s.arch.marks (tLvl o)))).modEng s.cur.th (fun e => { e with busy := s.cycle + 2 })) } := by
    rw [hnamed, arch_modArch, arch_modEng, State.arch, here_modHere, markedCore_arch]
    rfl
  refine ⟨s.nameBanks (banksOf (s.mainRegs [o])) ((s.modHere (fun _ => markedCore s o m)).modEng (fun e => { e with busy := s.cycle + 2 })),
    runWord_done hr ?_ ?_, ?_, ?_, fun k => ?_⟩
  · rw [markRows_eq, withBanks_on hbanks, State.bankNamed]
  · rw [hnamed]
    exact panRoom_modArch (panRoom_modEng (panRoom_markedCore o m hroom) _) _
  · rw [harch]
    exact (archModEng_tiles _ _ _).trans htiles
  · rw [harch]
    exact (archModEng_wfile _ _ _).trans hwfile
  · have hkept : (s.nameBanks (banksOf (s.mainRegs [o])) ((s.modHere (fun _ => markedCore s o m)).modEng
        (fun e => { e with busy := s.cycle + 2 }))).arch.marks (tLvl o) = rowsMarked (s.regOf o) o m (s.arch.marks (tLvl o)) := by
      rw [harch]
      exact (marks_modEng _ _ _ _).trans hmarks
    rw [hkept, get_rowsMarked]

/-! ### PMARK and PCLR of a scratchpad range (R365) -/

theorem runWord_markScratch {i : Instr} {h : Hdr} {s : State} {f : SY} {m : Bool} {e n : Nat} (hr : runs i h s)
    (he : e = (s.g f.ga + f.opnd.zeroExtend 64).toNat) (hn : n = (s.g f.gb).toNat) (he64 : e % 64 = 0) (hn64 : n % 64 = 0) (hpos : 0 < n)
    (hin : e + n ≤ 8388608) (hkeep : s.keepHit s.cur.core s.here.ctx e n = false) (hfree : s.arch.leased e n = false)
    (hroom : s.here.shadUsed + (n / 512 + 2) ≤ 2048) : ∃ u : State, runWord i h s (fun s => markScratch f m s) = .next (s.wordDone u) ∧
      u.arch.scr = s.arch.scr ∧
      ∀ k, Store.get false u.arch.scrP k = if e / 64 ≤ k ∧ k < (e + n) / 64 then m else Store.get false s.arch.scrP k := by
  let c := (s.here.shadeRun .scratch .own 512 e n).modArch (fun a =>
    { a with scrP := Store.put false a.scrP (e / 64) (List.replicate (n / 64) m) })
  have harch : c.arch = { s.arch with scrP := Store.put false s.arch.scrP (e / 64) (List.replicate (n / 64) m) } := by
    rw [coreModArch_arch, shadeRun_arch]
    rfl
  have hp : panRoom s (s.modHere (fun _ => c)) := by
    refine panRoom_of_used ?_ ?_
    · have hh : c.hold = s.here.hold := shadeRun_hold _ _ _ _ _ _
      rw [here_modHere, Core.holdUsed, hh]
      rfl
    · have hs := shadeRun_shadUsed s.here .scratch .own 512 e n
      rw [here_modHere]
      exact hs.trans (by omega)
  refine ⟨(s.modHere (fun _ => c)).modEng (fun x => { x with busy := s.cycle + 1 + (n + 4095) / 4096 }), runWord_done hr ?_ (panRoom_modEng hp _),
    ?_, fun k => ?_⟩
  · have hal : ¬(e % 64 ≠ 0 ∨ n % 64 ≠ 0) := by omega
    have hsize : ¬(n = 0 ∨ Config.scrBytes < e + n) := fun hno => hno.elim (by omega) (fun h => Nat.not_lt.2 hin h)
    unfold markScratch
    simp only [← he, ← hn]
    rw [if_neg hal, if_neg hsize, if_neg (by simp [hkeep]), if_neg (by simp [hfree])]
    rfl
  · rw [arch_modEng, archModEng_scr, State.arch, here_modHere, harch]
  · rw [arch_modEng, archModEng_scrP, State.arch, here_modHere, harch, get_put, List.length_replicate]
    have hsum : e / 64 + n / 64 = (e + n) / 64 := by omega
    rw [hsum]
    by_cases hk : e / 64 ≤ k ∧ k < (e + n) / 64
    · rw [if_pos hk, if_pos hk, List.getD_eq_getElem?_getD, List.getElem?_replicate_of_lt (by omega)]
      rfl
    · rw [if_neg hk, if_neg hk]

/-- Settles O21: TLBINV by `runWord_tlbinv`, SEAL by what the commit point it asks for has come to, the marks by `runWord_markRows`
and `runWord_markScratch`. -/
theorem translationAndSealWords : Obligations.TranslationAndSealWords := by
  unfold Obligations.TranslationAndSealWords
  refine ⟨fun h f s => ⟨fun v hask hover => ⟨fun hr hv => ?_, fun hr hv => ?_, fun hr hv => ?_⟩, fun hpriv => ⟨?_, ?_, ?_⟩, exec_tlbprobe_done⟩,
    fun h f s hplace => ⟨fun i hi hr hrb => ?_, fun m hr hlow hpwr h0 h1 hroom => ?_, fun m e n hr he hn he64 hn64 hpos hin hkeep hfree hroom => ?_⟩⟩
  · dsimp only [exec, execTlbinvAll]
    obtain ⟨u, hu, hcores, hdies⟩ := runWord_tlbinv (v := v) (eff := fun s => s.tlbinv ⟨none, none⟩) hr (congrArg s.tlbinv hv.symm) hask hover
    subst hv
    exact ⟨u, hu, fun c => (hcores c).trans (keptEnts_all _), fun d => (hdies d).trans (keptEnts_all _)⟩
  · dsimp only [exec, execTlbinvAsid]
    obtain ⟨u, hu, hcores, hdies⟩ := runWord_tlbinv (v := v)
      (eff := fun s => s.tlbinv ⟨some ((s.g f.gb).extractLsb' 0 16).toNat, none⟩) hr (by rw [asid_eq, ← hv]) hask hover
    subst hv
    exact ⟨u, hu, fun c => (hcores c).trans (keptEnts_asid _ _), fun d => (hdies d).trans (keptEnts_asid _ _)⟩
  · dsimp only [exec, execTlbinvPage]
    exact runWord_tlbinv (v := v) (eff := fun s => s.tlbinv ⟨some ((s.g f.gb).extractLsb' 0 16).toNat,
      some (bitsOf (s.g f.ga).toNat 55 16, f.opnd.toNat)⟩) hr (by rw [asid_eq, page_eq, ← hv]) hask hover
  · dsimp only [exec, execTlbinvAll]
    exact runWord_check2 (i := .tlbinvAll h f) (s := s) (code := Code.privilege) (by simp [check2, hpriv]) h _
  · dsimp only [exec, execTlbinvAsid]
    exact runWord_check2 (i := .tlbinvAsid h f) (s := s) (code := Code.privilege) (by simp [check2, hpriv]) h _
  · dsimp only [exec, execTlbinvPage]
    exact runWord_check2 (i := .tlbinvPage h f) (s := s) (code := Code.privilege) (by simp [check2, hpriv]) h _
  · obtain ⟨waits, hplain, hexec⟩ := exec_seal hi hplace hrb hr
    refine ⟨fun hask => ⟨_, hexec, seal_asks waits hask⟩, fun n hask hsealed => by rw [hexec, seal_sealed waits hask hsealed],
      fun n hask hle hword => ?_⟩
    rw [hexec, hplain hword, seal_taken hask hle]
  · have hbanks := banksOn_low (regs := s.mainRegs [f.opnd]) hlow hpwr h0 h1
    cases m
    · exact runWord_markRows hr hbanks hroom
    · exact runWord_markRows hr hbanks hroom
  · cases m
    · exact runWord_markScratch hr he hn he64 hn64 hpos hin hkeep hfree hroom
    · exact runWord_markScratch hr he hn he64 hn64 hpos hin hkeep hfree hroom

end Sys2Proof.Proofs
end

section
/-! Saving and restoring (O20)
CSAVE and CREST move one unit at a turn (`unitMoved_last`, `unitMoved_on`), behind the checks of their stub, range and image. -/

namespace Sys2Proof.Proofs

open Sys2Proof Sys2Proof.Machine Sys2Proof.Laws

/-! ### One unit of an image (R320) -/

theorem unitMoved_last {s t : State} {r : SaveRange} (hroom : panRoom s t) (hlast : s.eng.prog + 1 = r.units) :
    s.unitMoved t r = .done t := by
  have hfit : s.here.panLacks t.here = false := hroom
  simp only [State.unitMoved, hfit, Bool.false_eq_true, ↓reduceIte, if_pos hlast]

/-- The engine goes on with the next unit at its next turn. -/
def unitNext (s : State) (e : Eng) : Eng :=
  { e with prog := e.prog + 1, busy := s.cycle + 1, panSince := none
           stallcnt := match e.panSince with | some c0 => e.stallcnt + BitVec.ofNat 64 (s.cycle - c0) | none => e.stallcnt }

theorem unitMoved_on {s t : State} {r : SaveRange} (hroom : panRoom s t) (hmore : s.eng.prog + 1 ≠ r.units) :
    s.unitMoved t r = .gone (t.modEng (unitNext s)) := by
  have hfit : s.here.panLacks t.here = false := hroom
  simp only [State.unitMoved, hfit, Bool.false_eq_true, ↓reduceIte, if_neg hmore]
  rfl

/-- A word that goes on later may have named banks besides. -/
theorem bankNamed_gone (s : State) (bs : List Nat) (t : State) : ∃ named : Arch → List (Thread × Nat × Nat),
    s.bankNamed bs (.gone t) = .gone (t.modArch (fun a => { a with named := named a })) := by
  unfold State.bankNamed
  simp only
  split
  · exact ⟨fun a => a.named, congrArg Res.gone (modArch_id t).symm⟩
  · exact ⟨_, rfl⟩

theorem panRoom_nameBanks {s t : State} (hroom : panRoom s t) (bs : List Nat) : panRoom s (s.nameBanks bs t) := by
  obtain ⟨named, hnamed⟩ := nameBanks_eq (s := s) (bs := bs) (w := t)
  rw [hnamed]
  exact panRoom_modArch hroom _

/-- A word that moves the last unit of its image retires behind its banks. -/
theorem runWord_lastUnit {i : Instr} {h : Hdr} {s u : State} {regs : List Nat} {eff : State → Res} (hr : runs i h s)
    (he : eff s = withBanks s regs (.done u)) (hbanks : s.banksOn regs) (hroom : panRoom s u) :
    runWord i h s eff = .next (s.wordDone (s.nameBanks (banksOf regs) u)) :=
  runWord_done hr (by rw [he, withBanks_on hbanks]; rfl) (panRoom_nameBanks hroom _)

/-! ### CSAVE (R320) -/

/-- The effects of a unit of CSAVE, one for each granule of 64 bytes. -/
def unitHeld (s : State) (f : SY) (r : SaveRange) (va : Nat) (ps : List (Nat × Place)) : State :=
  s.setCore s.cur.core (ps.foldl (fun (c : Core) p => c.holdEff s.cycle (.write .other 0 0
    [(p.2, ((s.saveBytes f r (r.unitAt s.eng.prog).1 (r.unitAt s.eng.prog).2).1.drop (64 * p.1)).take 64)]
    [(s.saveBytes f r (r.unitAt s.eng.prog).1 (r.unitAt s.eng.prog).2).2 p.1]) 1 s.cur.th s.eng.pc c.cpCount
    (va + (r.unitAt s.eng.prog).1 + 64 * p.1)) s.here)

theorem foldl_holdEff (now : Nat) (e : Nat × Place → Eff) (th : Thread) (pc : W64) (va : Nat × Place → Nat) (ps : List (Nat × Place)) (c : Core) :
    let d := ps.foldl (fun (c : Core) p => c.holdEff now (e p) 1 th pc c.cpCount (va p)) c
    d.arch = c.arch ∧ d.shadows = c.shadows ∧ d.hold.length = c.hold.length + ps.length ∧ d.holdUsed = c.holdUsed + ps.length := by
  induction ps generalizing c with
  | nil => exact ⟨rfl, rfl, rfl, rfl⟩
  | cons p ps ih =>
    obtain ⟨harch, hshadows, hlen, hused⟩ := ih (c.holdEff now (e p) 1 th pc c.cpCount (va p))
    have hlen1 : (c.holdEff now (e p) 1 th pc c.cpCount (va p)).hold.length = c.hold.length + 1 := by
      simp [Core.holdEff]
    have hused1 : (c.holdEff now (e p) 1 th pc c.cpCount (va p)).holdUsed = c.holdUsed + 1 := by
      simp [Core.holdEff, Core.holdUsed]
    exact ⟨harch, hshadows, by rw [List.foldl_cons, hlen, hlen1, List.length_cons]; omega,
      by rw [List.foldl_cons, hused, hused1, List.length_cons]; omega⟩

section Save

variable {h : Hdr} {f : SY} {s : State} {r : SaveRange} {va : Nat}

theorem unitHeld_frame (ps : List (Nat × Place)) : (unitHeld s f r va ps).arch = s.arch ∧
    (unitHeld s f r va ps).here.shadows = s.here.shadows ∧ (unitHeld s f r va ps).here.hold.length = s.here.hold.length + ps.length ∧
    (unitHeld s f r va ps).here.holdUsed = s.here.holdUsed + ps.length := by
  have hhere : (unitHeld s f r va ps).here = _ := core_setCore_self s _ _
  have hfold := foldl_holdEff s.cycle (fun p => .write .other 0 0
    [(p.2, ((s.saveBytes f r (r.unitAt s.eng.prog).1 (r.unitAt s.eng.prog).2).1.drop (64 * p.1)).take 64)]
    [(s.saveBytes f r (r.unitAt s.eng.prog).1 (r.unitAt s.eng.prog).2).2 p.1]) s.cur.th s.eng.pc
    (fun p => va + (r.unitAt s.eng.prog).1 + 64 * p.1) ps s.here
  rw [State.arch, hhere]
  exact hfold

theorem panRoom_unitHeld {ps : List (Nat × Place)} (hroom : s.here.holdUsed + ps.length ≤ 2048) : panRoom s (unitHeld s f r va ps) := by
  obtain ⟨-, hshadows, -, hused⟩ := unitHeld_frame (s := s) (f := f) (r := r) (va := va) ps
  have hshad : (unitHeld s f r va ps).here.shadUsed = s.here.shadUsed := by rw [Core.shadUsed, hshadows]; rfl
  have hfull : ¬2048 < (unitHeld s f r va ps).here.holdUsed := by omega
  simp [panRoom, Core.panLacks, hshad, hfull]

/-- What a CSAVE does once its checks have passed. -/
theorem exec_csave (hr : runs (.csave h f) h s) (hstub : s.inStub false = true)
    (hrange : s.saveRange f (s.queue (s.g f.ga).toNat).length = some r) (hva : s.imageVa f r = some va) (hset : s.settledHere = true)
    (hunits : r.units ≠ 0) : exec (.csave h f) s = .next (s.finish (withBanks s (saveRegs f r) (s.saveUnit f r va))) := by
  dsimp only [exec, execCsave]
  rw [runWord_runs hr, if_neg (by simp [hstub])]
  simp only [hrange, hva, hset, if_neg hunits]
  rfl

theorem saveUnit_eq {ps : List (Nat × Place)} (hps : s.hamperPlaces (va + (r.unitAt s.eng.prog).1) (r.unitAt s.eng.prog).2 .w = .ok ps) :
    s.saveUnit f r va = s.unitMoved (unitHeld s f r va ps) r := by
  simp only [State.saveUnit, hps]
  rfl

theorem exec_csave_last {ps : List (Nat × Place)} (hr : runs (.csave h f) h s) (hstub : s.inStub false = true)
    (hrange : s.saveRange f (s.queue (s.g f.ga).toNat).length = some r) (hva : s.imageVa f r = some va)
    (hbanks : s.banksOn (saveRegs f r)) (hset : s.settledHere = true) (hlast : s.eng.prog + 1 = r.units)
    (hps : s.hamperPlaces (va + (r.unitAt s.eng.prog).1) (r.unitAt s.eng.prog).2 .w = .ok ps) (hroom : panRoom s (unitHeld s f r va ps)) :
    exec (.csave h f) s = .next (s.wordDone (s.nameBanks (banksOf (saveRegs f r)) (unitHeld s f r va ps))) := by
  rw [exec_csave hr hstub hrange hva hset (by omega), saveUnit_eq hps, unitMoved_last hroom hlast, withBanks_on hbanks, State.bankNamed,
    finish_done (panRoom_nameBanks hroom _)]

theorem exec_csave_on {ps : List (Nat × Place)} (hr : runs (.csave h f) h s) (hstub : s.inStub false = true)
    (hrange : s.saveRange f (s.queue (s.g f.ga).toNat).length = some r) (hva : s.imageVa f r = some va)
    (hbanks : s.banksOn (saveRegs f r)) (hset : s.settledHere = true) (hmore : s.eng.prog + 1 < r.units)
    (hps : s.hamperPlaces (va + (r.unitAt s.eng.prog).1) (r.unitAt s.eng.prog).2 .w = .ok ps)
    (hroom : s.here.holdUsed + ps.length ≤ 2048) : ∃ u : State, exec (.csave h f) s = .next u ∧ u.eng.pc = s.eng.pc ∧
      u.eng.prog = s.eng.prog + 1 ∧ u.here.hold.length = s.here.hold.length + ps.length := by
  obtain ⟨harch, -, hlen, -⟩ := unitHeld_frame (s := s) (f := f) (r := r) (va := va) ps
  obtain ⟨named, hgone⟩ := bankNamed_gone s (banksOf (saveRegs f r)) ((unitHeld s f r va ps).modEng (unitNext s))
  have heng : (unitHeld s f r va ps).eng = s.eng := by rw [State.eng, harch]; rfl
  have hnext : (((unitHeld s f r va ps).modEng (unitNext s)).modArch (fun a => { a with named := named a })).eng = unitNext s s.eng := by
    rw [eng_modArch_other _ (eng_ext rfl rfl rfl rfl rfl), eng_of_modEng, heng]
  refine ⟨((unitHeld s f r va ps).modEng (unitNext s)).modArch (fun a => { a with named := named a }), ?_, by rw [hnext]; rfl, by rw [hnext]; rfl, ?_⟩
  · rw [exec_csave hr hstub hrange hva hset (by omega), saveUnit_eq hps, unitMoved_on (panRoom_unitHeld hroom) (by omega),
      withBanks_on hbanks, hgone]
    rfl
  · rw [here_modArch, coreModArch_hold, here_modEng, coreModArch_hold, hlen]

/-! ### CREST (R320) -/

theorem exec_crest_last {ps : List (Nat × Place)} {u : State} (hr : runs (.crest h f) h s) (hstub : s.inStub true = true)
    (hrange : s.saveRange f (s.savedEntries f) = some r) (hva : s.imageVa f r = some va) (hbanks : s.banksOn (saveRegs f r))
    (hfree : f.code = 6 → s.arch.leased (r.first + (r.unitAt s.eng.prog).1) (r.unitAt s.eng.prog).2 = false)
    (hset : s.settledHere = true) (hlast : s.eng.prog + 1 = r.units)
    (hps : s.hamperPlaces (va + (r.unitAt s.eng.prog).1) (r.unitAt s.eng.prog).2 .r = .ok ps)
    (hu : u = s.restoreBytes f r (r.unitAt s.eng.prog).1 (ps.map (fun p =>
      (s.dev.readPlace p.2 (min 64 ((r.unitAt s.eng.prog).2 - 64 * p.1)),
        s.dev.placePoison p.2 (min 64 ((r.unitAt s.eng.prog).2 - 64 * p.1)))))) (hroom : panRoom s u) :
    exec (.crest h f) s = .next (s.wordDone (s.nameBanks (banksOf (saveRegs f r)) u)) := by
  have hunits : r.units ≠ 0 := by omega
  have hlease : ¬(f.code = 6 ∧ s.arch.leased (r.first + (r.unitAt s.eng.prog).1) (r.unitAt s.eng.prog).2 = true) :=
    fun ⟨hcode, hl⟩ => absurd ((hfree hcode).symm.trans hl) (by decide)
  have hunit : s.restoreUnit f r va = .done u := by
    rw [← unitMoved_last hroom hlast, hu]
    simp only [State.restoreUnit, hps, if_neg hlease]
  dsimp only [exec, execCrest]
  refine runWord_lastUnit hr ?_ hbanks hroom
  rw [if_neg (by simp [hstub])]
  simp only [hrange, hva, hset, if_neg hunits, hunit]
  rfl

/-! ### The end forms and IDLE (R312, R314, R321) -/

theorem slotUsed_eng_g (c : Core) (t u : Thread) (now : Nat) : ((c.slotUsed t now).arch.eng u).g = (c.arch.eng u).g := by
  cases u <;> rfl

theorem retire_engine_g (was : Option (Bool × W64)) (e : Eng) (now : Nat) : (e.retire was now).g = e.g := by
  rcases was with _ | ⟨_ | _, _⟩ <;> rfl

/-- The core after an engine has ended its stub. -/
def stubLeft (th : Thread) (k : CpKind) (c : Core) : Core :=
  match c.preempt with
  | none => c
  | some p =>
    let p := { p with ended := p.ended ++ [th] }
    let c := { c with preempt := some p }
    if c.arch.running.all (fun u => p.ended.contains u) then c.requestCp k else c

theorem stubLeft_arch (th : Thread) (k : CpKind) (c : Core) : (stubLeft th k c).arch = c.arch := by
  unfold stubLeft
  split
  · rfl
  · dsimp only
    split <;> rfl

theorem stubLeft_hold (th : Thread) (k : CpKind) (c : Core) : (stubLeft th k c).hold = c.hold := by
  unfold stubLeft
  split
  · rfl
  · dsimp only
    split <;> rfl

theorem stubEnds_eq (s : State) (k : CpKind) : s.stubEnds k =
    ((s.retire s.eng.delay).modEng (fun e => { e with run := .atN })).modHere (stubLeft s.cur.th k) := rfl

/-- The end of a stub leaves the registers of its engine and the hold queue alone. -/
theorem stubEnds_frame (s : State) (k : CpKind) : (s.stubEnds k).eng.run = .atN ∧ (s.stubEnds k).eng.g = s.eng.g ∧
    (s.stubEnds k).here.hold = s.here.hold := by
  have heng : (s.stubEnds k).eng = { (s.retire s.eng.delay).eng with run := .atN } := by
    rw [stubEnds_eq, eng_modHere, stubLeft_arch]
    exact eng_of_modEng _ _
  have hg : (s.retire s.eng.delay).eng.g = s.eng.g := by
    rw [State.retire, eng_of_modEng, retire_engine_g, eng_modHere, slotUsed_eng_g]
    rfl
  refine ⟨by rw [heng], by rw [heng]; exact hg, ?_⟩
  rw [stubEnds_eq, here_modHere, stubLeft_hold, here_modEng, coreModArch_hold, State.retire, here_modEng, coreModArch_hold, here_modHere]
  rfl

theorem exec_csaveEnd_done (hr : runs (.csaveEnd h f) h s) (hstub : s.inStub false = true) (hset : s.settledHere = true) :
    exec (.csaveEnd h f) s = .next (s.stubEnds .csaveEnd) := by
  dsimp only [exec, execCsaveEnd]
  exact runWord_gone hr ((if_neg (by simp [hstub])).trans (if_neg (by simp [hset])))

theorem exec_crestEnd_done (hr : runs (.crestEnd h f) h s) (hstub : s.inStub true = true) (hset : s.settledHere = true) :
    exec (.crestEnd h f) s = .next (s.stubEnds .crestEnd) := by
  dsimp only [exec, execCrestEnd]
  exact runWord_gone hr ((if_neg (by simp [hstub])).trans (if_neg (by simp [hset])))

theorem exec_idle_done (hr : runs (.idle h f) h s) (hth : s.cur.th = .chap) (hplace : s.placeOk true false = none)
    (hmask : (s.g f.ga).extractLsb' 0 6 ≠ (0 : BitVec 6)) (hmet : s.idleBits &&& s.g f.ga ≠ 0) :
    exec (.idle h f) s = .next (s.wordDone (s.setG f.gd s.idleBits)) := by
  have hmay : ¬(s.cur.th ≠ .chap ∨ (s.g f.ga).extractLsb' 0 6 = (0 : BitVec 6)) := fun hno => hno.elim (fun h => h hth) hmask
  dsimp only [exec, execIdle]
  refine runWord_done hr ?_ (panRoom_setG s _ _)
  rw [hplace, checked, if_neg hmay, if_neg hmet]

end Save

/-- Settles O20: a unit that is the last ends the word, another leaves it for the next turn; the end forms end the stub
(`stubEnds_frame`). -/
theorem saveAndRestoreWords : Obligations.SaveAndRestoreWords := by
  unfold Obligations.SaveAndRestoreWords
  intro h f s
  refine ⟨fun r va ps u hr hstub hrange hva hbanks hset hlast hps hu hroom => ?_, fun r va ps => exec_csave_on,
    fun r va ps u => exec_crest_last, fun hr hstub hset => ⟨_, exec_csaveEnd_done hr hstub hset, stubEnds_frame s _⟩,
    fun hr hstub hset => ⟨_, exec_crestEnd_done hr hstub hset, stubEnds_frame s _⟩, exec_idle_done, fun hr hstub => ?_, fun hr hstub => ?_,
    fun hpriv => ?_⟩
  · subst hu
    exact exec_csave_last hr hstub hrange hva hbanks hset hlast hps hroom
  · dsimp only [exec, execCsave]
    exact runWord_trap hr (if_pos (by simp [hstub]))
  · dsimp only [exec, execCrest]
    exact runWord_trap hr (if_pos (by simp [hstub]))
  · dsimp only [exec, execIdle]
    exact runWord_check2 (by simp [check2, hpriv]) h _

end Sys2Proof.Proofs
end

section
/-! Flows and sends of the sequencer (O42)
A send or request that passes its checks numbers its flits from the flow's next FSN and records its operation: what `OpSent`
says of the sequencer. What else it does (its flits enter the hold queue, pages that do not translate are reported, LSEM is
raised) leaves the sequencer alone. -/

namespace Sys2Proof.Proofs

open Sys2Proof Sys2Proof.Machine Sys2Proof.Laws

/-! ### FLOW (R396, R404) -/

theorem flow_setFlow_seq (q : Seq) (n : Nat) (f : Flow) (m : Nat) : (q.setFlow n f).flow m = if m = n then f else q.flow m :=
  get_set Flow.closed q.flows n f m

@[simp] theorem setX_ops (q : Seq) (r : BitVec 4) (v : W64) : (q.setX r v).ops = q.ops := by
  unfold Seq.setX
  split <;> rfl

@[simp] theorem flow_setX (q : Seq) (r : BitVec 4) (v : W64) (n : Nat) : (q.setX r v).flow n = q.flow n := by
  unfold Seq.setX
  split <;> rfl

theorem flowOf_opened {bs : List Byte} {n : Nat} {x : Flow} (h : flowOf bs = some (n, x)) : x.st = .opened := by
  unfold flowOf at h
  obtain ⟨-, h⟩ := Option.ite_none_left_eq_some.1 h
  cases h
  rfl

theorem flowStatus_length (s : State) (f : Flow) : (s.flowStatus f).length = 32 := by
  unfold State.flowStatus
  split
  · simp [natBytes_length, State.freeBytes]
  · simp [natBytes_length, zeroBytes]

/-- What FLOW.open makes of a descriptor's flow: it is numbered, bound and of the routine's context. -/
def openedFlow (q : Seq) (x : Flow) (job me : Nat) : Flow := { x with id := q.opens + 1, ctx := q.ctx, job := job, myrank := me }

/-- The sequencer once FLOW.open has opened flow n. -/
def flowOpened (n : Nat) (x : Flow) (job me : Nat) (q : Seq) : Seq :=
  { q.setFlow n (openedFlow q x job me) with opens := q.opens + 1 }

theorem flow_flowOpened (n : Nat) (x : Flow) (job me : Nat) (q : Seq) (m : Nat) :
    (flowOpened n x job me q).flow m = if m = n then openedFlow q x job me else q.flow m := flow_setFlow_seq q n _ m

theorem exec_flowOpen (f : SeqW) (s : State) : exec (.flowOpen f) s = .next (s.seqFinish (s.seqAt f 32 (fun a =>
    match flowOf (s.seq.lread a 32) with
    | none => .fault Code.reservedField
    | some (n, x) =>
      if (s.seq.flow n).st ≠ .closed then .fault Code.reservedField
      else
        match s.binding s.cur.core s.seq.ctx x.jki with
        | none => .fault Code.jobKeyAbsent
        | some (job, me) => .done (s.modSeq (flowOpened n x job me)).bumpFree))) := rfl

theorem exec_flowOpen_done {f : SeqW} {s : State} {a n job me : Nat} {x : Flow} (hat : s.seq.place f 32 = .ok a)
    (hflow : flowOf (s.seq.lread a 32) = some (n, x)) (hst : (s.seq.flow n).st = .closed)
    (hbind : s.binding s.cur.core s.seq.ctx x.jki = some (job, me)) : ∃ t : State, exec (.flowOpen f) s = .next (s.seqDone t) ∧
      t.seq.flow n = openedFlow s.seq x job me ∧ (t.seq.flow n).st = .opened ∧ ∀ m, m ≠ n → t.seq.flow m = s.seq.flow m := by
  have hflows (m : Nat) : (s.modSeq (flowOpened n x job me)).bumpFree.seq.flow m =
      if m = n then openedFlow s.seq x job me else s.seq.flow m := by
    have hseq : (s.modSeq (flowOpened n x job me)).bumpFree.seq = flowOpened n x job me s.seq := seq_modSeq s _
    rw [hseq, flow_flowOpened]
  refine ⟨_, ?_, (hflows n).trans (if_pos rfl), ?_, fun m hm => (hflows m).trans (if_neg hm)⟩
  · rw [exec_flowOpen, seqAt_ok hat]
    simp only [hflow, hst, ne_eq, not_true_eq_false, if_false, hbind]
    exact congrArg Host.Outcome.next (seqFinish_done (t := (s.modSeq (flowOpened n x job me)).bumpFree)
      (panRoom_modSeq (panRoom_refl s) _))
  · rw [hflows n, if_pos rfl]
    exact (flowOf_opened hflow : x.st = .opened)

theorem exec_flowClose (f : SeqW) (s : State) : exec (.flowClose f) s = .next (s.seqFinish (.done
    (s.modHere (fun c => c.closeFlow ((c.arch.seq.getX f.a).toNat % 1024))))) := rfl

theorem seq_modHere (s : State) (g : Core → Core) : (s.modHere g).seq = (g s.here).arch.seq := by
  rw [State.seq, State.arch, here_modHere]

theorem exec_flowClose_done {f : SeqW} {s : State} {n : Nat} (hn : n = (s.seq.getX f.a).toNat % 1024)
    (hp : panRoom s (s.modHere (fun c => c.closeFlow n))) : ∃ t : State, exec (.flowClose f) s = .next (s.seqDone t) ∧
      t.seq.flow n = Flow.closed ∧ (∀ m, m ≠ n → t.seq.flow m = s.seq.flow m) ∧
      ∀ o ∈ t.seq.ops, o.flowId ≠ (s.seq.flow n).id := by
  have hseq : (s.modHere (fun c => c.closeFlow n)).seq = { s.seq.setFlow n Flow.closed with
      ops := s.seq.ops.filter (fun o => o.flowId ≠ (s.seq.flow n).id) } := seq_modHere s _
  have hflows (m : Nat) : (s.modHere (fun c => c.closeFlow n)).seq.flow m = if m = n then Flow.closed else s.seq.flow m := by
    rw [hseq]
    exact flow_setFlow_seq s.seq n _ m
  refine ⟨_, ?_, (hflows n).trans (if_pos rfl), fun m hm => (hflows m).trans (if_neg hm), fun o ho => ?_⟩
  · have hclose : s.modHere (fun c => c.closeFlow ((c.arch.seq.getX f.a).toNat % 1024)) = s.modHere (fun c => c.closeFlow n) :=
      modHere_congr (by rw [hn]; rfl)
    rw [exec_flowClose, hclose]
    exact congrArg Host.Outcome.next (seqFinish_done hp)
  · rw [hseq] at ho
    exact of_decide_eq_true (List.mem_filter.1 ho).2

theorem exec_flowStat (f : SeqW) (s : State) : exec (.flowStat f) s = .next (s.seqFinish (s.seqAt f 32 (fun a =>
    .done (s.lwrite a (s.flowStatus (s.seq.flow ((s.seq.getX f.a).toNat % 1024)))).bumpFree))) := rfl

theorem exec_flowStat_done {f : SeqW} {s : State} {a : Nat} (hat : s.seq.place f 32 = .ok a) (hroom : s.here.shadUsed < 2048) :
    ∃ t : State, exec (.flowStat f) s = .next (s.seqDone t) ∧ ∀ k, k < 32 → Store.get 0 t.seq.lmem (a + k) =
      (s.flowStatus (s.seq.flow ((s.seq.getX f.a).toNat % 1024))).getD k 0 := by
  have hlen := flowStatus_length s (s.seq.flow ((s.seq.getX f.a).toNat % 1024))
  obtain ⟨hal, -, ha⟩ := place_ok_iff.1 hat
  have hp := panRoom_lwrite (a := a) hroom (by rw [hlen]; decide) (by rw [hlen]; decide) (by rw [hlen, ha]; exact hal)
  rw [exec_flowStat, seqAt_ok hat]
  exact ⟨_, congrArg Host.Outcome.next (seqFinish_done (t := (s.lwrite a _).bumpFree) hp), fun k hk => get_lwrite s (hlen.symm ▸ hk)⟩

/-! ### What a send leaves alone -/

theorem parkRecord_arch (s : State) (core : CoreId) (th : Thread) (epoch : Nat) (o : ObjRef) (r : FaultRec) (page : Nat) (k : CoreId) :
    ((s.parkRecord core th epoch o r page).core k).arch = (s.core k).arch := by
  unfold State.parkRecord
  dsimp only
  split
  · refine arch_modCore ?_ s core k
    exact fun _ => rfl
  · split
    · rfl
    · split
      · rfl
      · rw [arch_modCore autoCp_arch]
        exact recordOut_arch s core th epoch r o page k

theorem parkRecord_cur (s : State) (core : CoreId) (th : Thread) (epoch : Nat) (o : ObjRef) (r : FaultRec) (page : Nat) :
    (s.parkRecord core th epoch o r page).cur = s.cur := by
  unfold State.parkRecord
  dsimp only
  split
  · rfl
  · split
    · rfl
    · split <;> rfl

theorem parkFlits_seq (core : CoreId) (ctx id : Nat) (es : List SourceErr) (s : State) :
    (es.foldl (fun (s : State) e => s.parkFlit core ctx id e) s).seq = s.seq ∧
      (es.foldl (fun (s : State) e => s.parkFlit core ctx id e) s).cur = s.cur := by
  induction es generalizing s with
  | nil => exact ⟨rfl, rfl⟩
  | cons e es ih =>
    obtain ⟨hseq, hcur⟩ := ih (s.parkFlit core ctx id e)
    have hcur' : (s.parkFlit core ctx id e).cur = s.cur := parkRecord_cur _ _ _ _ _ _ _
    refine ⟨hseq.trans ?_, hcur.trans hcur'⟩
    rw [State.seq, State.arch, State.here, hcur']
    exact congrArg Arch.seq (parkRecord_arch _ _ _ _ _ _ _ _)

theorem pumped_seq (s : State) (now : Nat) : (s.modHere (Core.pump now)).seq = s.seq := seq_modHere_arch (pump_arch _ _)

/-- LSEM is raised, if the operation names one. -/
def lsemRaised (sm : Option Nat) (c : Core) : Core :=
  match sm with
  | some n => (c.semAdd c.seqWriter n 1).autoCp
  | none => c

theorem lsemRaised_seq (s : State) (sm : Option Nat) : (s.modHere (lsemRaised sm)).seq = s.seq := by
  rw [seq_modHere]
  cases sm with
  | none => rfl
  | some n => exact (congrArg Arch.seq (autoCp_arch _)).trans (semAdd_seq _ _ _ _)

/-- A send raises LSEM at once when all its flits are staged. -/
theorem stagedRaised_seq (s : State) (staged : Bool) (sm : Option Nat) :
    (if staged then s.modHere (lsemRaised sm) else s).seq = s.seq := by
  split
  · exact lsemRaised_seq s sm
  · rfl

/-! ### Sends and requests (R384, R398) -/

/-- The sequencer once an operation of n flits on flow f of descriptor d has been numbered and recorded. -/
def opRecorded (w : SeqW) (d : Desc) (f : Flow) (n : Nat) (us : List Unacked) (op : TOp) (q : Seq) : Seq :=
  ({ q.setFlow d.flow { f with nextFsn := (f.nextFsn + n) % 2 ^ 32, unacked := f.unacked ++ us } with ops := q.ops ++ [op] } :
    Seq).setX w.a (BitVec.ofNat 64 f.nextFsn)

/-- From s to t an operation of n flits has been numbered and recorded, and nothing else has happened to the sequencer. -/
def OpSent (w : SeqW) (d : Desc) (f : Flow) (n : Nat) (s t : State) : Prop :=
  ∃ us op, t.seq = opRecorded w d f n us op s.seq ∧ op.kind = d.kind ∧ op.first = f.nextFsn ∧ op.asem = semOf d.asem

theorem sendRequest_done (s : State) (w : SeqW) (d : Desc) (f : Flow) : ∃ t, s.sendRequest w d f = .done t ∧ OpSent w d f 1 s t := by
  refine ⟨_, rfl, _, _, (pumped_seq _ _).trans ((lsemRaised_seq _ (semOf d.lsem)).trans (seq_modSeq s _)), ?_⟩
  exact ⟨rfl, rfl, rfl⟩

/-- The sources of a send of descriptor d on flow f fail for no REMOTE page. -/
def SourcesLocal (s : State) (d : Desc) (f : Flow) : Prop :=
  ∀ k e, ({ s with free := s.free + k } : State).sourceOf s.cur.core s.seq.ctx d.ssp (d.addr + f.unit * k)
    (min f.unit (d.len - f.unit * k)) = .error e → e.remote = false

/-- A flit that is not staged says why its source could not be read. -/
theorem flitOf_error {s : State} {core : CoreId} {ctx : Nat} {d : Desc} {f : Flow} {need : List Nat} {drank : Nat} {late : Bool}
    {k : Nat} {e : SourceErr} (h : (s.flitOf core ctx d f need drank late k).2 = some e) :
    s.sourceOf core ctx d.ssp (d.addr + f.unit * k) (min f.unit (d.len - f.unit * k)) = .error e := by
  unfold State.flitOf at h
  dsimp only at h
  split at h
  · cases h
  · split at h
    · next he => exact he.trans (congrArg Except.error (Option.some.inj h))
    · cases h

theorem sendFlits_done {s : State} {d : Desc} {f : Flow} (hlocal : SourcesLocal s d f) (w : SeqW) (need : List Nat) (drank : Nat) :
    ∃ t, s.sendFlits w d f need drank = .done t ∧ OpSent w d f ((d.len + f.unit - 1) / f.unit) s t := by
  unfold State.sendFlits
  dsimp only
  split
  next e he =>
    obtain ⟨r, hr, hre⟩ := List.mem_filterMap.1 (List.mem_of_find?_eq_some he)
    obtain ⟨k, -, rfl⟩ := List.mem_map.1 hr
    have hremote := List.find?_some he
    rw [hlocal k e (flitOf_error hre)] at hremote
    cases hremote
  next =>
    refine ⟨_, rfl, _, _, (pumped_seq _ _).trans ((parkFlits_seq _ _ _ _ _).1.trans
      ((stagedRaised_seq _ _ (semOf d.lsem)).trans (seq_modSeq s _))), ?_⟩
    exact ⟨rfl, rfl, rfl⟩

theorem operate_done {s : State} {d : Desc} (w : SeqW) (hcheck : s.sendCheck d (s.seq.flow d.flow) = none)
    (hlocal : d.kind ≤ 3 → SourcesLocal s d (s.seq.flow d.flow)) : let f := s.seq.flow d.flow
    ∃ t, s.operate w d = .done t ∧ OpSent w d f (if 4 ≤ d.kind then 1 else (d.len + f.unit - 1) / f.unit) s t := by
  intro f
  unfold State.operate
  simp only [hcheck]
  by_cases hk : 4 ≤ d.kind
  · rw [if_pos hk, if_pos hk]
    exact sendRequest_done s w d f
  · rw [if_neg hk, if_neg hk]
    split
    · exact sendFlits_done (hlocal (by omega)) w _ _
    · exact sendFlits_done (hlocal (by omega)) w _ _

section OpSent

variable {w : SeqW} {d : Desc} {f : Flow} {n : Nat} {s t : State} (h : OpSent w d f n s t)

include h

theorem OpSent.getX (hw : w.a ≠ 0) : t.seq.getX w.a = BitVec.ofNat 64 f.nextFsn := by
  obtain ⟨us, op, hseq, -⟩ := h
  rw [hseq]
  exact getX_setX _ hw _

theorem OpSent.flow : ∃ us, ∀ m, t.seq.flow m =
    if m = d.flow then { f with nextFsn := (f.nextFsn + n) % 2 ^ 32, unacked := f.unacked ++ us } else s.seq.flow m := by
  obtain ⟨us, op, hseq, -⟩ := h
  refine ⟨us, fun m => ?_⟩
  rw [hseq, opRecorded, flow_setX]
  exact flow_setFlow_seq s.seq d.flow _ m

theorem OpSent.op : ∃ o ∈ t.seq.ops, o.kind = d.kind ∧ o.first = f.nextFsn ∧ o.asem = semOf d.asem := by
  obtain ⟨us, op, hseq, hop⟩ := h
  refine ⟨op, ?_, hop⟩
  rw [hseq, opRecorded, setX_ops]
  exact List.mem_append_right _ List.mem_cons_self

end OpSent

/-- What the checks and the effect of a form come to, whatever the form. -/
theorem finish_operate {s : State} {w : SeqW} {d : Desc} :
    (∀ code, s.sendCheck d (s.seq.flow d.flow) = some code → s.seqFinish (s.operate w d) = s.seqEnd code) ∧
    ∀ t, s.operate w d = .done t → panRoom s t → s.seqFinish (s.operate w d) = s.seqDone t := by
  refine ⟨fun code h => ?_, fun t h hp => ?_⟩
  · unfold State.operate
    simp only [h]
    rfl
  · rw [h]
    exact seqFinish_done hp

theorem exec_sendForm {f : SeqW} {s : State} {i : Instr} {k a : Nat}
    (hi : (k, i) ∈ [(1, Instr.put f), (2, .putm f), (3, .redc f), (4, .get f), (5, .atom f)]) (hat : s.seq.place f 64 = .ok a) :
    exec i s = .next (s.seqFinish (s.operate f (descOf k (s.seq.lread a 64)))) := by
  have hform : exec i s = sendForm k f s := by
    simp only [List.mem_cons, Prod.mk.injEq, List.not_mem_nil, or_false] at hi
    obtain ⟨rfl, rfl⟩ | ⟨rfl, rfl⟩ | ⟨rfl, rfl⟩ | ⟨rfl, rfl⟩ | ⟨rfl, rfl⟩ := hi
    all_goals rfl
  rw [hform, sendForm, runSeq, seqAt_ok hat]

theorem exec_xstep {f : SeqW} {s : State} {a : Nat} (hat : s.seq.place f 64 = .ok a) :
    let k := bitsOf (leAt (s.seq.lread a 64) 0x14 4) 7 6
    let d := descOf k (s.seq.lread a 64)
    exec (.xstep f) s = .next (s.seqFinish (if k = 0 then .fault Code.reservedField
      else s.operate f { d with flags := d.flags - 64 * k })) := by
  intro k d
  have hexec : exec (.xstep f) s = execXstep f s := rfl
  rw [hexec, execXstep, runSeq, seqAt_ok hat]

/-- Settles O42: each clause is the done or fault form of its word; the checks of a send, its numbering and its record are
`operate_done`, and what it leaves of the sequencer is `OpSent`. -/
theorem sequencerFlowWords : Obligations.SequencerFlowWords := by
  unfold Obligations.SequencerFlowWords
  intro f s
  refine ⟨fun a n x job me hat hflow hst hbind => exec_flowOpen_done hat hflow hst hbind, fun a hat hflow => ?_,
    fun n hn hp => exec_flowClose_done hn hp, fun a hat hroom => exec_flowStat_done hat hroom,
    fun i k a hi hat => ⟨fun code hcode => ?_, fun t _ ht hp => ?_⟩, ?_, fun a hat => ⟨fun hk => ?_, fun t hk ht hp => ?_⟩⟩
  · rw [exec_flowOpen, seqAt_ok hat]
    simp only [hflow]
    rfl
  · exact (exec_sendForm hi hat).trans (congrArg _ (finish_operate.1 code hcode))
  · exact (exec_sendForm hi hat).trans (congrArg _ (finish_operate.2 t ht hp))
  · intro d _ _ hcheck fl hlocal
    obtain ⟨t, ht, hsent⟩ := operate_done f hcheck hlocal
    obtain ⟨us, hflows⟩ := hsent.flow
    refine ⟨t, ht, hsent.getX, fun m hm => (hflows m).trans (if_neg hm), ?_, hsent.op⟩
    rw [hflows, if_pos rfl]
  · refine (exec_xstep hat).trans ?_
    rw [if_pos hk]
    rfl
  · refine (exec_xstep hat).trans ?_
    rw [if_neg hk]
    exact congrArg _ (finish_operate.2 t ht hp)

end Sys2Proof.Proofs
end

section
/-! Retransmission requests, job keys and plans of the sequencer (O43)
RETX, KEYLD, KEYSW and XPLAN. A key slot that is loaded or switched is read back through `jobKey_modSlot` and `switch_slot`. -/

namespace Sys2Proof.Proofs

open Sys2Proof Sys2Proof.Machine Sys2Proof.Laws

/-! ### RETX (R400) -/

theorem exec_retx (f : SeqW) (s : State) : exec (.retx f) s = .next (s.seqFinish (
    if (s.seq.flow ((s.seq.getX f.a).toNat % 1024)).st ≠ .opened then .fault Code.reservedField
    else .done (s.modHere (fun c => c.sendAgain s.dtime s.cur.core.val ((s.seq.getX f.a).toNat % 1024)
      (((List.range 64).filter (fun i => (s.seq.y f).getLsbD i)).map
        (fun i => ((s.seq.getX f.b).toNat % 2 ^ 32 + i) % 2 ^ 32)))))) := rfl

/-- The mask 1 names the base FSN alone. -/
theorem retx_one (base : Nat) :
    ((List.range 64).filter (fun i => (1#64).getLsbD i)).map (fun i => (base % 2 ^ 32 + i) % 2 ^ 32) = [base % 2 ^ 32] := by
  have hmask : (List.range 64).filter (fun i => (1#64).getLsbD i) = [0] := by decide
  rw [hmask, List.map_singleton, Nat.add_zero, Nat.mod_mod]

/-- The flow with its one flit marked to be sent again. -/
def againOnce (f : Flow) (u : Unacked) : Flow :=
  { f with retx := (f.retx + 1) % 2 ^ 64, unacked := [{ u with again := true, tries := u.tries + 1 }] }

theorem sendAgain_one {c : Core} {n : Nat} {u : Unacked} (hopen : (c.flow n).st = .opened) (hone : (c.flow n).unacked = [u])
    (hsent : u.sent = true) (hagain : u.again = false) (htries : u.tries < (c.flow n).rlim) (now core : Nat) :
    c.sendAgain now core n [u.fsn] = c.setFlow n (againOnce (c.flow n) u) := by
  unfold Core.sendAgain againOnce
  simp only [List.foldl_cons, List.foldl_nil, hone, List.find?_cons, hsent, hagain, decide_true, Bool.not_false, Bool.and_self, hopen,
    ne_eq, not_true_eq_false, if_false, if_neg (Nat.not_le.2 htries), List.map_cons, List.map_nil, if_true]

theorem exec_retx_one {f : SeqW} {s : State} {u : Unacked} {n : Nat} (hn : n = (s.seq.getX f.a).toNat % 1024)
    (hopen : (s.seq.flow n).st = .opened) (hy : s.seq.y f = 1) (hone : (s.seq.flow n).unacked = [u])
    (hfsn : u.fsn = (s.seq.getX f.b).toNat % 2 ^ 32) (hsent : u.sent = true) (hagain : u.again = false)
    (htries : u.tries < (s.seq.flow n).rlim) : ∃ t : State, exec (.retx f) s = .next (s.seqDone t) ∧
      t.seq.flow n = againOnce (s.seq.flow n) u := by
  have hsame : s.modHere (fun c => c.sendAgain s.dtime s.cur.core.val n [u.fsn]) =
      s.modHere (fun c => c.setFlow n (againOnce (s.seq.flow n) u)) :=
    modHere_congr (sendAgain_one (c := s.here) hopen hone hsent hagain htries _ _)
  have hnames := retx_one (s.seq.getX f.b).toNat
  rw [← hfsn] at hnames
  refine ⟨s.modHere (fun c => c.setFlow n (againOnce (s.seq.flow n) u)), ?_, ?_⟩
  · rw [exec_retx, ← hn, if_neg (fun h => h hopen), hy, ← hfsn]
    refine (congrArg (fun l => Host.Outcome.next (s.seqFinish (.done (s.modHere fun c =>
      c.sendAgain s.dtime s.cur.core.val n l)))) hnames).trans ?_
    rw [hsame]
    exact congrArg Host.Outcome.next (seqFinish_done (panRoom_modHere rfl rfl))
  · rw [seq_modHere]
    exact flow_setFlow_self s.here _ _

/-! ### KEYLD and KEYSW (R375, R401) -/

theorem withJob_some {s : State} {f : SeqW} {job me : Nat}
    (h : s.binding s.cur.core s.seq.ctx (s.seq.getX f.a).toNat = some (job, me)) (k : Nat → Nat → SeqRes) :
    s.withJob f k = k job me := by
  rw [State.withJob, h]

theorem withJob_none {s : State} {f : SeqW} (h : s.binding s.cur.core s.seq.ctx (s.seq.getX f.a).toNat = none)
    (k : Nat → Nat → SeqRes) : s.withJob f k = .fault Code.jobKeyAbsent := by
  rw [State.withJob, h]

/-- A key slot as KEYLD fills it. -/
def loadedSlot (s : State) (a : Nat) : KeySlot :=
  { st := .loaded, key := s.seq.lread a 32, ivc := 0, klim := s.arch.klim.toNat, kwarn := s.arch.kwarn.toNat
    loader := s.cur.core.val, await := [] }

/-- The device with slot n of a job key filled, which is no longer the slot that seals. -/
def keyLoaded (job n : Nat) (y : KeySlot) (d : Dev) : Dev :=
  let d := d.modSlot job n (fun _ => y)
  let k := d.jobKey job
  d.setJobKey (if k.use = some n then { k with use := none } else k)

theorem slot_keyLoaded (job n : Nat) (y : KeySlot) (d : Dev) (m : Nat) :
    ((keyLoaded job n y d).jobKey job).slot m = ((d.jobKey job).setSlot n y).slot m := by
  have hk : (d.modSlot job n (fun _ => y)).jobKey job = (d.jobKey job).setSlot n y := jobKey_modSlot d job n _
  have hjob : ((d.jobKey job).setSlot n y).job = job := (setSlot_job _ _ _).trans (jobKey_job d job)
  unfold keyLoaded
  dsimp only
  rw [hk]
  split
  · refine (congrArg (fun k : JobKey => k.slot m)
      (jobKey_setJobKey _ (k := { (d.jobKey job).setSlot n y with use := none }) hjob)).trans ?_
    rfl
  · rw [jobKey_setJobKey _ hjob]

/-- The slot that a KEYLD names is filled, and its register is 1. -/
def keyAnswered (f : SeqW) (s : State) (job a : Nat) : State :=
  (s.modDev (keyLoaded job (f.f.toNat % 2) (loadedSlot s a))).modSeq (fun q => q.setX f.c 1)

theorem bumpFree_seq (s : State) : s.bumpFree.seq = s.seq := rfl

theorem exec_keyld (f : SeqW) (s : State) : exec (.keyld f) s = .next (s.seqFinish (s.seqAt f 32 (fun a => s.withJob f (fun job _ =>
    if ((s.dev.jobKey job).slot (f.f.toNat % 2)).st = .loaded ∨ ((s.dev.jobKey job).slot (f.f.toNat % 2)).st = .current ∨
        ((s.dev.jobKey job).slot (f.f.toNat % 2)).st = .next then .done (s.modSeq (fun q => q.setX f.c 0))
    else .done (keyAnswered f s job a).bumpFree)))) := rfl

theorem exec_keyld_done {f : SeqW} {s : State} {a job me n : Nat} (hat : s.seq.place f 32 = .ok a)
    (hbind : s.binding s.cur.core s.seq.ctx (s.seq.getX f.a).toNat = some (job, me)) (hn : n = f.f.toNat % 2)
    (hst : ((s.dev.jobKey job).slot n).st = .empty ∨ ((s.dev.jobKey job).slot n).st = .retired ∨
      ((s.dev.jobKey job).slot n).st = .exhausted) : ∃ t : State, exec (.keyld f) s = .next (s.seqDone t) ∧
      (f.c ≠ 0 → t.seq.getX f.c = 1) ∧ (t.dev.jobKey job).slot n = loadedSlot s a ∧
      (t.dev.jobKey job).slot (n + 1) = (s.dev.jobKey job).slot (n + 1) := by
  subst hn
  have hp : panRoom s (keyAnswered f s job a) := panRoom_modSeq (t := s.modDev _) (panRoom_refl s) _
  refine ⟨(keyAnswered f s job a).bumpFree, ?_, fun hc => ?_,
    (slot_keyLoaded job _ _ s.dev _).trans (slot_setSlot_self _ _ _),
    (slot_keyLoaded job _ _ s.dev _).trans (slot_setSlot_ne (by omega) _ _)⟩
  · rw [exec_keyld, seqAt_ok hat, withJob_some hbind, if_neg]
    · exact congrArg Host.Outcome.next (seqFinish_done (t := (keyAnswered f s job a).bumpFree) hp)
    · rcases hst with h | h | h <;> rw [h] <;> decide
  · rw [bumpFree_seq, keyAnswered, seq_modSeq, getX_setX _ hc]

theorem exec_keysw (f : SeqW) (s : State) : exec (.keysw f) s = .next (s.seqFinish (s.withJob f (fun job me =>
    if ((s.dev.jobKey job).slot (f.f.toNat % 2)).st ≠ .loaded then .done (s.modSeq (fun q => q.setX f.c 0))
    else .done ((s.keySwitch job me (f.f.toNat % 2)).modSeq (fun q => q.setX f.c 1))))) := rfl

/-- With no peer the slot goes CURRENT at once, and no control packet of the job key waits to be sent. -/
theorem keySwitch_alone {s : State} {job : Nat} (hpeers : s.jobPeers job = []) (hctl : ∀ x ∈ s.dev.ctlq, x.1.job.toNat ≠ job)
    (me n : Nat) : ∃ q, s.keySwitch job me n =
      s.modDev (fun d => { d.setJobKey ((d.jobKey job).switch n (· = .current)) with ctlq := q }) := by
  have hmine : s.dev.ctlq.filter (fun x => x.1.job.toNat = job) = [] :=
    List.filter_eq_nil_iff.2 fun x hx => by simpa using hctl x hx
  unfold State.keySwitch
  dsimp only
  rw [if_pos hpeers, State.pumpControl]
  have hsame : (s.modDev (fun d => d.setJobKey ((d.jobKey job).switch n (· = .current)))).dev.ctlq = s.dev.ctlq := rfl
  rw [hsame, List.partition_eq_filter_filter, hmine]
  exact ⟨_, rfl⟩

theorem exec_keysw_done {f : SeqW} {s : State} {job me n : Nat} (hn : n = f.f.toNat % 2)
    (hbind : s.binding s.cur.core s.seq.ctx (s.seq.getX f.a).toNat = some (job, me))
    (hst : ((s.dev.jobKey job).slot n).st = .loaded) {t : State} (ht : t = (s.keySwitch job me n).modSeq (fun q => q.setX f.c 1))
    (hp : panRoom s t) : exec (.keysw f) s = .next (s.seqDone t) := by
  rw [exec_keysw, withJob_some hbind, ← hn, if_neg (fun h => h hst), ← ht]
  exact congrArg Host.Outcome.next (seqFinish_done hp)

theorem exec_keysw_alone {f : SeqW} {s : State} {job me n : Nat} (hn : n = f.f.toNat % 2)
    (hbind : s.binding s.cur.core s.seq.ctx (s.seq.getX f.a).toNat = some (job, me))
    (hst : ((s.dev.jobKey job).slot n).st = .loaded) (hpeers : s.jobPeers job = [])
    (hctl : ∀ x ∈ s.dev.ctlq, x.1.job.toNat ≠ job) : ∃ t : State, exec (.keysw f) s = .next (s.seqDone t) ∧
      (f.c ≠ 0 → t.seq.getX f.c = 1) ∧ ((t.dev.jobKey job).slot n).st = .current ∧
      (((s.dev.jobKey job).slot (n + 1)).st = .current → ((t.dev.jobKey job).slot (n + 1)).st = .retired) := by
  obtain ⟨q, hswitch⟩ := keySwitch_alone hpeers hctl me n
  have hkey : (((s.keySwitch job me n).modSeq (fun q => q.setX f.c 1)).dev.jobKey job) =
      (s.dev.jobKey job).switch n (· = .current) := by
    rw [hswitch]
    exact (jobKey_of_keys (d := s.dev.setJobKey ((s.dev.jobKey job).switch n (· = .current))) rfl job).symm.trans
      (jobKey_setJobKey _ ((switch_job _ _ _).trans (jobKey_job _ _)))
  have hseq : ((s.keySwitch job me n).modSeq (fun q => q.setX f.c 1)).seq = s.seq.setX f.c 1 := by
    rw [seq_modSeq, hswitch]
    rfl
  refine ⟨_, exec_keysw_done hn hbind hst rfl (panRoom_modSeq ?_ _), fun hc => ?_, ?_, fun hother => ?_⟩
  · rw [hswitch]
    exact panRoom_refl s
  · rw [hseq, getX_setX _ hc]
  · rw [hkey, switch_slot]
  · rw [hkey, switch_slot_other, hother]
    rfl

/-- KEYLD and KEYSW of a binding that names no job key fault. -/
theorem exec_key_absent {f : SeqW} {s : State} {i : Instr}
    (hi : i = .keyld f ∧ s.seq.place f 32 = .ok (s.seq.ea f).toNat ∨ i = .keysw f)
    (hbind : s.binding s.cur.core s.seq.ctx (s.seq.getX f.a).toNat = none) : exec i s = .next (s.seqEnd Code.jobKeyAbsent) := by
  obtain ⟨rfl, hat⟩ | rfl := hi
  · rw [exec_keyld, seqAt_ok hat, withJob_none hbind]
    rfl
  · rw [exec_keysw, withJob_none hbind]
    rfl

/-! ### XPLAN (R412) -/

theorem exec_xplan (f : SeqW) (s : State) : exec (.xplan f) s = .next (s.seqFinish (s.seqAt f 64 (fun a =>
    match s.plan (s.seq.lread a 64) with
    | none => .fault Code.reservedField
    | some p =>
      if leAt (s.seq.lread a 64) 0x2C 4 % 64 ≠ 0 then .fault Code.misaligned
      else
        let t := (s.lwrite (leAt (s.seq.lread a 64) 0x2C 4) p.steps.flatten).lwrite (a + 0x32) (natBytes 2 p.p2)
        let t := match p.bind with
          | none => t
          | some r => t.modHere (fun c => c.modBarAs c.seqWriter (leAt (s.seq.lread a 64) 0x29 1) (fun b => { b with red := some r }))
        .done (t.modSeq (fun q =>
          { (q.setX f.a (BitVec.ofNat 64 p.steps.length)) with busy := t.cycle + 4 + 2 * p.steps.length }))))) := rfl

/-- The sequencer once XPLAN has given the number of steps, busy until a cycle. -/
def planned (r : BitVec 4) (n busy : Nat) (q : Seq) : Seq := { q.setX r (BitVec.ofNat 64 n) with busy := busy }

theorem exec_xplan_done {f : SeqW} {s : State} {a : Nat} {p : Planned} (hat : s.seq.place f 64 = .ok a)
    (hplan : s.plan (s.seq.lread a 64) = some p) (hbind : p.bind = none) (hlist : leAt (s.seq.lread a 64) 0x2C 4 % 64 = 0)
    (hp : panRoom s ((s.lwrite (leAt (s.seq.lread a 64) 0x2C 4) p.steps.flatten).lwrite (a + 0x32) (natBytes 2 p.p2))) :
    ∃ t : State, exec (.xplan f) s = .next (s.seqDone t) ∧ (f.a ≠ 0 → t.seq.getX f.a = BitVec.ofNat 64 p.steps.length) ∧
      ∀ k, k < 2 → Store.get 0 t.seq.lmem (a + 0x32 + k) = (natBytes 2 p.p2).getD k 0 := by
  let u := s.lwrite (leAt (s.seq.lread a 64) 0x2C 4) p.steps.flatten
  refine ⟨(u.lwrite (a + 0x32) (natBytes 2 p.p2)).modSeq (planned f.a p.steps.length ((u.lwrite (a + 0x32) (natBytes 2 p.p2)).cycle + 4 + 2 * p.steps.length)),
    ?_, fun ha => ?_, fun k hk => ?_⟩
  · rw [exec_xplan, seqAt_ok hat]
    simp only [hplan, hbind, hlist, ne_eq, not_true_eq_false, if_false]
    exact congrArg Host.Outcome.next (seqFinish_done (panRoom_modSeq hp _))
  · rw [seq_modSeq]
    exact getX_setX _ ha _
  · have hlmem : ∀ (q : Seq) n b, (planned f.a n b q).lmem = q.lmem := fun q n b => setX_lmem q f.a _
    rw [seq_modSeq, hlmem]
    exact get_lwrite u (by rw [natBytes_length]; exact hk)

/-- Settles O43: each clause is the done or fault form of its word. -/
theorem sequencerKeyAndPlanWords : Obligations.SequencerKeyAndPlanWords := by
  unfold Obligations.SequencerKeyAndPlanWords
  intro f s
  refine ⟨fun hst => ?_, ?_, ?_, ?_, fun i hi hbind => exec_key_absent hi hbind, fun a hat => ⟨fun hplan => ?_, ?_⟩⟩
  · rw [exec_retx, if_pos hst]
    rfl
  · rintro u fl rfl hopen hy hone hfsn hsent hagain htries
    exact exec_retx_one rfl hopen hy hone hfsn hsent hagain htries
  · intro a job me hat hbind k n
    refine ⟨fun hst => ?_, fun hst => ?_⟩
    · obtain ⟨t, hexec, hx, hslot, hother⟩ := exec_keyld_done hat hbind rfl hst
      refine ⟨t, hexec, hx, ?_, ?_, ?_, ?_, hother⟩
      all_goals rw [hslot]; rfl
    · rw [exec_keyld, seqAt_ok hat, withJob_some hbind, if_pos hst]
      exact congrArg Host.Outcome.next (seqFinish_done (panRoom_modSeq (panRoom_refl s) _))
  · intro job me hbind k n
    refine ⟨fun hst => ?_, fun hst hpeers hctl => exec_keysw_alone rfl hbind hst hpeers hctl,
      fun t hst ht hp => exec_keysw_done rfl hbind hst ht hp⟩
    rw [exec_keysw, withJob_some hbind, if_pos hst]
    exact congrArg Host.Outcome.next (seqFinish_done (panRoom_modSeq (panRoom_refl s) _))
  · rw [exec_xplan, seqAt_ok hat]
    simp only [hplan]
    rfl
  · exact fun p hplan hbind hlist hp => exec_xplan_done hat hplan hbind hlist hp

end Sys2Proof.Proofs
end

section
/-! The command mailbox and its contexts (O53)
What the mailbox does around a command's effect is said once: an effect that is `Silent`, which raises no interrupt and leaves the
vectors alone, ends as `Ended` says. The effects of BUILD, RESIDE, CLEAR and TEARDOWN follow. -/

namespace Sys2Proof.Proofs

open Sys2Proof Sys2Proof.Machine Sys2Proof.Laws

/-! ### The mailbox (R423) -/

/-- CMDARG as a write of CMD leaves it. -/
def argued (c : Cmd) (s : State) : State := s.modDev (fun d => { d with cmdarg := c.arg })

theorem command_lost {s : State} (h : s.dev.cmdBusy.isSome = true) (c : Cmd) (eff : State → Option (BitVec 8) × State) :
    s.command c eff = s.modDev (fun d => { d with cmdarg := c.arg, cmdLost := true }) := if_pos h

theorem command_some {s t : State} {c : Cmd} {eff : State → Option (BitVec 8) × State} {code : BitVec 8}
    (h : s.dev.cmdBusy = none) (heff : eff (argued c s) = (some code, t)) : s.command c eff = t.cmdDone code := by
  have hfree : ¬ (argued c s).dev.cmdBusy.isSome = true := by
    rw [show (argued c s).dev.cmdBusy = none from h]
    decide
  unfold State.command
  refine (if_neg hfree).trans ?_
  rw [show eff (s.modDev (fun d => { d with cmdarg := c.arg })) = (some code, t) from heff]

theorem command_none {s t : State} {c : Cmd} {eff : State → Option (BitVec 8) × State}
    (h : s.dev.cmdBusy = none) (heff : eff (argued c s) = (none, t)) : s.command c eff = t := by
  have hfree : ¬ (argued c s).dev.cmdBusy.isSome = true := by
    rw [show (argued c s).dev.cmdBusy = none from h]
    decide
  unfold State.command
  refine (if_neg hfree).trans ?_
  rw [show eff (s.modDev (fun d => { d with cmdarg := c.arg })) = (none, t) from heff]

/-- From s to t no interrupt has been raised, and the mailbox's argument and the interrupt vectors are the same. -/
structure Silent (s t : State) : Prop where
  irqs : t.irqs = s.irqs
  msix : t.dev.msix = s.dev.msix
  cmdvec : t.dev.cmdvec = s.dev.cmdvec
  cmdarg : t.dev.cmdarg = s.dev.cmdarg

namespace Silent

theorem refl (s : State) : Silent s s := ⟨rfl, rfl, rfl, rfl⟩

theorem trans {s t u : State} (h : Silent s t) (h' : Silent t u) : Silent s u :=
  ⟨h'.irqs.trans h.irqs, h'.msix.trans h.msix, h'.cmdvec.trans h.cmdvec, h'.cmdarg.trans h.cmdarg⟩

theorem foldl {β : Type} {f : State → β → State} (hf : ∀ s x, Silent s (f s x)) (xs : List β) (s : State) : Silent s (xs.foldl f s) :=
  List.foldlRecOn (motive := Silent s) xs f (refl s) fun t ht x _ => ht.trans (hf t x)

theorem modCore (s : State) (core : CoreId) (f : Core → Core) : Silent s (s.modCore core f) := ⟨rfl, rfl, rfl, rfl⟩

end Silent

/-- Instruction i of command c ends the command at once: t follows s, the mailbox is free and holds the code and the argument, and
the interrupt of CMDVEC is raised unless it is masked. -/
def Ended (c : Cmd) (s : State) (i : Instr) (code : BitVec 8) (t : State) : Prop :=
  exec i s = .next t ∧ t.dev.cmdBusy = none ∧ t.dev.cmdCode = code ∧ t.dev.cmdarg = c.arg ∧
    t.irqs = (if s.dev.vecMasked s.dev.cmdvec then s.irqs else s.irqs ++ [s.dev.cmdvec])

theorem cmdDone_dev (s : State) (code : BitVec 8) :
    (s.cmdDone code).dev = { s.dev with cmdBusy := none, cmdCode := code, msix := (s.cmdDone code).dev.msix } := irq_dev _ _

theorem cmdDone_core (s : State) (code : BitVec 8) (core : CoreId) : (s.cmdDone code).core core = s.core core :=
  congrArg (fun v : Vector Core 64 => v[core]) (irq_rest _ _).1

theorem cmdDone_irqs (s : State) (code : BitVec 8) : (s.cmdDone code).irqs =
    if s.dev.vecMasked s.dev.cmdvec then s.irqs else s.irqs ++ [s.dev.cmdvec] := irq_irqs _ _

/-- A reading of the device that does not look at the mailbox or the vectors is as the effect left it. -/
theorem cmdDone_keeps {β : Type} {p : Dev → β}
    (hp : ∀ (d : Dev) b code m, p { d with cmdBusy := b, cmdCode := code, msix := m } = p d) (s : State) (code : BitVec 8) :
    p (s.cmdDone code).dev = p s.dev := by
  rw [cmdDone_dev]
  exact hp _ _ _ _

theorem silent_irqs {s t : State} (h : Silent s t) (code : BitVec 8) : (t.cmdDone code).irqs =
    if s.dev.vecMasked s.dev.cmdvec then s.irqs else s.irqs ++ [s.dev.cmdvec] := by
  rw [cmdDone_irqs, Dev.vecMasked, Dev.vecMasked, h.irqs, h.msix, h.cmdvec]

section Command

variable {c : Cmd} {s t : State} {i : Instr} {eff : State → Option (BitVec 8) × State} {code : BitVec 8}

theorem ended_effect (hbusy : s.dev.cmdBusy = none) (hi : exec i s = .next (s.command c eff))
    (heff : eff (argued c s) = (some code, t)) (hsilent : Silent (argued c s) t) : Ended c s i code (t.cmdDone code) := by
  refine ⟨hi.trans (congrArg _ (command_some hbusy heff)), ?_, ?_, ?_, silent_irqs hsilent code⟩
  · rw [cmdDone_dev]
  · rw [cmdDone_dev]
  · rw [cmdDone_dev]
    exact hsilent.cmdarg

/-- A command without a target number. -/
theorem ended_plain {act : State → BitVec 8 × State} (hbusy : s.dev.cmdBusy = none)
    (hi : exec i s = .next (s.command c (fun s => let (code, t) := act s; (some code, t))))
    (hact : act (argued c s) = (code, t)) (hsilent : Silent (argued c s) t) : Ended c s i code (t.cmdDone code) :=
  ended_effect hbusy hi (by rw [hact]) hsilent

theorem withTgt_beyond {n : Nat} (h : n ≤ c.tgt.toNat) (eff : Nat → State → BitVec 8 × State) (s : State) :
    withTgt c n eff s = (some Code.reservedField, s) := if_pos h

theorem withTgt_within {n : Nat} (h : c.tgt.toNat < n) (eff : Nat → State → BitVec 8 × State) (s : State) :
    withTgt c n eff s = (some (eff c.tgt.toNat s).1, (eff c.tgt.toNat s).2) := if_neg (Nat.not_le.2 h)

/-- A command that changes nothing ends with the code that it finds. -/
theorem ended_unchanged (hbusy : s.dev.cmdBusy = none) (hi : exec i s = .next (s.command c eff))
    (heff : eff (argued c s) = (some code, argued c s)) : ∃ t, Ended c s i code t :=
  ⟨_, ended_effect hbusy hi heff (Silent.refl _)⟩

theorem ended_beyond {n : Nat} {act : Nat → State → BitVec 8 × State} (hbusy : s.dev.cmdBusy = none) (hn : n ≤ c.tgt.toNat)
    (hi : exec i s = .next (s.command c (withTgt c n act))) : ∃ t, Ended c s i Code.reservedField t :=
  ended_unchanged hbusy hi (withTgt_beyond hn act _)

theorem ended_within {n : Nat} {act : Nat → State → BitVec 8 × State} (hbusy : s.dev.cmdBusy = none) (hn : c.tgt.toNat < n)
    (hi : exec i s = .next (s.command c (withTgt c n act))) (hact : act c.tgt.toNat (argued c s) = (code, t))
    (hsilent : Silent (argued c s) t) : Ended c s i code (t.cmdDone code) :=
  ended_effect hbusy hi (by rw [withTgt_within hn, hact]) hsilent

end Command

/-- Every command goes through the mailbox. -/
theorem exec_command (c : Cmd) (s : State) : ∀ i ∈ [Instr.build c, .reside c, .clear c, .teardown c, .preempt c, .inval c, .linkEnable c,
    .linkDrain c, .linkRetrain c, .linkDisable c, .regionFence c, .regionOnline c, .groupDefine c, .groupJoin c, .groupActivate c,
    .groupResume c, .groupSuspend c, .groupDissolve c, .attest c], ∃ eff, exec i s = .next (s.command c eff) := by
  simp only [List.mem_cons, List.not_mem_nil, or_false, forall_eq_or_imp, forall_eq]
  refine ⟨⟨_, rfl⟩, ⟨_, rfl⟩, ⟨_, rfl⟩, ⟨_, rfl⟩, ⟨_, rfl⟩, ⟨_, rfl⟩, ⟨_, rfl⟩, ⟨_, rfl⟩, ⟨_, rfl⟩, ⟨_, rfl⟩, ⟨_, rfl⟩, ⟨_, rfl⟩,
    ⟨_, rfl⟩, ⟨_, rfl⟩, ⟨_, rfl⟩, ⟨_, rfl⟩, ⟨_, rfl⟩, ⟨_, rfl⟩, ⟨_, rfl⟩⟩

theorem exec_link (c : Cmd) (s : State) : ∀ i ∈ [Instr.linkEnable c, .linkDrain c, .linkRetrain c, .linkDisable c],
    ∃ act, exec i s = .next (s.command c (withTgt c 79 act)) := by
  simp only [List.mem_cons, List.not_mem_nil, or_false, forall_eq_or_imp, forall_eq]
  exact ⟨⟨_, rfl⟩, ⟨_, rfl⟩, ⟨_, rfl⟩, ⟨_, rfl⟩⟩

theorem exec_group (c : Cmd) (s : State) : ∀ i ∈ [Instr.groupDefine c, .groupJoin c, .groupActivate c, .groupResume c, .groupSuspend c,
    .groupDissolve c], ∃ act, exec i s = .next (s.command c (withTgt c 256 act)) := by
  simp only [List.mem_cons, List.not_mem_nil, or_false, forall_eq_or_imp, forall_eq]
  exact ⟨⟨_, rfl⟩, ⟨_, rfl⟩, ⟨_, rfl⟩, ⟨_, rfl⟩, ⟨_, rfl⟩, ⟨_, rfl⟩⟩

/-! ### Every core in turn -/

/-- In a round over all cores, a core changes at its turn only. -/
theorem foldl_cores {f : State → Nat → State} {P : State → Prop} {s : State} (hP : P s) (hstep : ∀ u k, P u → P (f u k))
    (core : CoreId) (hother : ∀ u k, P u → core ≠ coreId k → (f u k).core core = u.core core) :
    P ((List.range 64).foldl f s) ∧
      ∃ u, P u ∧ u.core core = s.core core ∧ ((List.range 64).foldl f s).core core = (f u core.val).core core := by
  have hround : ∀ n, n ≤ 64 → P ((List.range n).foldl f s) ∧
      (n ≤ core.val → ((List.range n).foldl f s).core core = s.core core) ∧
      (core.val < n → ∃ u, P u ∧ u.core core = s.core core ∧ ((List.range n).foldl f s).core core = (f u core.val).core core) := by
    intro n
    induction n with
    | zero => exact fun _ => ⟨hP, fun _ => rfl, fun h => absurd h (Nat.not_lt_zero _)⟩
    | succ n ih =>
      intro hn
      obtain ⟨hPn, hbefore, hafter⟩ := ih (by omega)
      rw [List.range_succ, List.foldl_append, List.foldl_cons, List.foldl_nil]
      have hne (h : core.val ≠ n) : core ≠ coreId n := by
        rintro rfl
        exact h (Nat.mod_eq_of_lt hn)
      refine ⟨hstep _ _ hPn, fun h => ?_, fun h => ?_⟩
      · rw [hother _ _ hPn (hne (by omega)), hbefore (by omega)]
      · by_cases hc : core.val = n
        · exact ⟨_, hPn, hbefore (by omega), by rw [hc]⟩
        · obtain ⟨u, hu, hsame, hturn⟩ := hafter (by omega)
          exact ⟨u, hu, hsame, by rw [hother _ _ hPn (hne hc), hturn]⟩
  obtain ⟨hPn, -, hafter⟩ := hround 64 (Nat.le_refl 64)
  exact ⟨hPn, hafter core.isLt⟩

theorem exists_core {s : State} {c : Core} (h : c ∈ s.cores.toList) : ∃ k : CoreId, s.core k = c := by
  obtain ⟨n, hn, hc⟩ := Vector.mem_iff_getElem.1 (Vector.mem_toList_iff.1 h)
  exact ⟨⟨n, hn⟩, hc⟩

/-! ### BUILD and RESIDE (R301, R302) -/

theorem ctxOf_built {b : List Byte} {x : Ctx} (h : ctxOf b = some x) : x.st = .built := by
  unfold ctxOf at h
  obtain ⟨-, h⟩ := Option.ite_none_right_eq_some.1 h
  rw [← Option.some.inj h]

theorem build_bad {s : State} {a : Nat} (h : a % 64 ≠ 0 ∨ Config.hbmBytes < a + 128 ∨ ctxOf (Store.run 0 s.dev.hbm a 128) = none ∨
    (s.dev.ctx (leAt (Store.run 0 s.dev.hbm a 128) 0x0A 2)).st ≠ .free) : s.build a = (Code.reservedField, s) := by
  unfold State.build
  by_cases hplace : a % 64 ≠ 0 ∨ Config.hbmBytes < a + 128
  · exact if_pos hplace
  · refine (if_neg hplace).trans ?_
    cases hctx : ctxOf (Store.run 0 s.dev.hbm a 128) with
    | none => simp only [hctx]
    | some x =>
      simp only [hctx]
      have hst : (s.dev.ctx (leAt (Store.run 0 s.dev.hbm a 128) 0x0A 2)).st ≠ .free := by
        rw [hctx] at h
        rcases h with h | h | h | h
        · exact absurd (Or.inl h) hplace
        · exact absurd (Or.inr h) hplace
        · cases h
        · exact h
      exact if_pos hst

theorem build_good {s : State} {a : Nat} {x : Ctx} (halign : a % 64 = 0) (hend : a + 128 ≤ Config.hbmBytes)
    (hctx : ctxOf (Store.run 0 s.dev.hbm a 128) = some x)
    (hst : (s.dev.ctx (leAt (Store.run 0 s.dev.hbm a 128) 0x0A 2)).st = .free) :
    s.build a = (0, s.modDev (fun d => d.setCtx (leAt (Store.run 0 s.dev.hbm a 128) 0x0A 2) x)) := by
  have hplace : ¬ (a % 64 ≠ 0 ∨ Config.hbmBytes < a + 128) := fun h => h.elim (fun h => h halign) (Nat.not_lt.2 hend)
  unfold State.build
  refine (if_neg hplace).trans ?_
  simp only [hctx]
  exact if_neg (fun h => h hst)

/-- A core's turn when a context takes or gives up its objects. -/
def freshenCore (x : Ctx) (s : State) (k : Nat) : State :=
  if x.cores.getLsbD k ∧ s.dev.cemask.getLsbD k then
    (s.modCore (coreId k) (fun c => c.freshObjects x)).modDev (fun d =>
      { d with red := d.red.filter (fun e => !(e.core = k && x.bara.getLsbD e.bar)) })
  else s

theorem freshObjects_eq (s : State) (x : Ctx) : s.freshObjects x = (List.range 64).foldl (freshenCore x) s := rfl

theorem freshenCore_silent (x : Ctx) (s : State) (k : Nat) : Silent s (freshenCore x s k) := by
  unfold freshenCore
  split
  · exact ⟨rfl, rfl, rfl, rfl⟩
  · exact Silent.refl s

theorem freshObjects_silent (s : State) (x : Ctx) : Silent s (s.freshObjects x) := Silent.foldl (freshenCore_silent x) _ s

theorem freshenCore_cemask (x : Ctx) (s : State) (k : Nat) : (freshenCore x s k).dev.cemask = s.dev.cemask := by
  unfold freshenCore
  split <;> rfl

theorem freshenCore_other (x : Ctx) (s : State) (k : Nat) {core : CoreId} (h : core ≠ coreId k) :
    (freshenCore x s k).core core = s.core core := by
  unfold freshenCore
  split
  · rw [core_modDev]
    exact core_modCore_ne _ _ _ _ h
  · rfl

theorem freshObjects_core {s : State} {x : Ctx} {core : CoreId} (hx : x.cores.getLsbD core.val = true)
    (henabled : s.dev.cemask.getLsbD core.val = true) : (s.freshObjects x).core core = (s.core core).freshObjects x := by
  obtain ⟨-, u, hmask, hsame, hturn⟩ := foldl_cores (f := freshenCore x) (s := s) (P := fun u => u.dev.cemask = s.dev.cemask) rfl
    (fun u k hu => (freshenCore_cemask x u k).trans hu) core fun u k _ h => freshenCore_other x u k h
  rw [freshObjects_eq, hturn]
  unfold freshenCore
  rw [if_pos ⟨hx, by rw [hmask]; exact henabled⟩, core_modDev, coreId_val, core_modCore_self, hsame]

theorem freshObjects_arch {c : Core} (h : c.real = none) (x : Ctx) : (c.freshObjects x).arch =
    { c.arch with sems := freshSems x c.arch.sems, bars := freshBars x c.arch.bars, rings := freshRings x c.arch.rings } := by
  unfold Core.freshObjects
  simp only [h]
  rfl

/-- The objects of a context are fresh on a core. -/
def FreshOn (x : Ctx) (a : Arch) : Prop :=
  (∀ j : Fin 256, x.sema.getLsbD j.val = true → a.sems[j] = 0) ∧
  (∀ j : Fin 64, x.bara.getLsbD j.val = true → a.bars[j].st = .idle) ∧
  ∀ j : Fin 16, x.ringa.getLsbD j.val = true → a.rings[j].opened = false

theorem freshOn_freshObjects {c : Core} (h : c.real = none) (x : Ctx) : FreshOn x (c.freshObjects x).arch := by
  rw [freshObjects_arch h]
  refine ⟨fun j hj => ?_, fun j hj => ?_, fun j hj => ?_⟩
  · simp [freshSems, hj]
  · simp [freshBars, hj, Bar.reset]
  · simp [freshRings, hj, Ring.reset]

theorem reside_bad {s : State} {n : Nat} (h : (s.dev.ctx n).st ≠ .built ∨ s.dev.roomFor n (s.dev.ctx n) = false) :
    s.reside n = (Code.reservedField, s) := by
  refine if_pos (h.imp id fun h => ?_)
  rw [h]
  rfl

theorem reside_good {s : State} {n : Nat} (hst : (s.dev.ctx n).st = .built) (hroom : s.dev.roomFor n (s.dev.ctx n) = true) :
    s.reside n = (0, (s.freshObjects (s.dev.ctx n)).modDev (fun d => d.setCtx n { s.dev.ctx n with st := .resident })) := by
  refine if_neg ?_
  rw [hst, hroom]
  simp

/-! ### CLEAR (R302) -/

/-- The context's faulted tile task on a core is cleared, unless its record waits. -/
def clearAt (n : Nat) (waits : CoreId → Bool) (s : State) (j : Nat) : State :=
  match (s.core (coreId j)).task with
  | some t => if t.ctx = n ∧ t.st = .faulted ∧ !waits (coreId j) then s.clearTask (coreId j) else s
  | none => s

/-- The fatal record of a core still waits to be posted. -/
def fatalWaits (s : State) (k : CoreId) : Bool :=
  (s.dev.frings[dieOf k]).waiting.any (fun w => w.1.kind = 4 && w.1.core = k.val) || (s.core k).hold.any Held.fatal

theorem clearCtx_good {s : State} {n : Nat} (h : (s.dev.ctx n).st = .faulted) : s.clearCtx n = (0,
    ((List.range 64).foldl (clearAt n (fatalWaits s))
      (s.modDev (fun d => d.setCtx n { s.dev.ctx n with st := .resident }))).settleCtx n) := if_neg (fun hn => hn h)

/-- No core holds anything back, and none has a saved task. -/
def Unheld (s : State) : Prop := ∀ core : CoreId, (s.core core).hold = [] ∧ (s.core core).saved = []

theorem clearTask_unheld {s : State} {core : CoreId} (h : (s.core core).hold = []) :
    s.clearTask core = (s.setCore core ((s.core core).dropTask core).vacate).modDev (fun d => d.taskOver core) := by
  unfold State.clearTask
  simp only [h, List.filter_nil, List.foldl_nil]

theorem taskOver_eq (d : Dev) (core : CoreId) : ∃ ws, d.taskOver core = { d with discarded := ws } := by
  unfold Dev.taskOver
  split
  · exact ⟨d.discarded, rfl⟩
  · exact ⟨_, rfl⟩

section ClearAt

variable {n : Nat} {waits : CoreId → Bool} {s : State}

theorem clearAt_cases (s : State) (k : Nat) (hu : Unheld s) : clearAt n waits s k = s ∨ ∃ ws, clearAt n waits s k =
    (s.setCore (coreId k) ((s.core (coreId k)).dropTask (coreId k)).vacate).modDev (fun d => { d with discarded := ws }) := by
  unfold clearAt
  split
  · split
    · obtain ⟨ws, hws⟩ := taskOver_eq s.dev (coreId k)
      refine Or.inr ⟨ws, ?_⟩
      rw [clearTask_unheld (hu _).1]
      exact congrArg (fun d => { s.setCore (coreId k) ((s.core (coreId k)).dropTask (coreId k)).vacate with dev := d }) hws
    · exact Or.inl rfl
  · exact Or.inl rfl

theorem clearAt_other {k : Nat} {core : CoreId} (hu : Unheld s) (h : core ≠ coreId k) :
    (clearAt n waits s k).core core = s.core core := by
  obtain heq | ⟨ws, heq⟩ := clearAt_cases (n := n) (waits := waits) s k hu
  · rw [heq]
  · rw [heq, core_modDev, core_setCore_ne _ _ _ _ h]

theorem dropTask_unheld {c : Core} (h : c.hold = []) (core : CoreId) : (c.dropTask core).vacate.hold = [] := by
  change c.hold.filter _ = []
  rw [h, List.filter_nil]

theorem clearAt_unheld (hu : Unheld s) (k : Nat) : Unheld (clearAt n waits s k) := by
  intro core
  obtain heq | ⟨ws, heq⟩ := clearAt_cases (n := n) (waits := waits) s k hu
  · rw [heq]
    exact hu core
  · rw [heq, core_modDev]
    by_cases hc : core = coreId k
    · obtain ⟨hhold, hsaved⟩ := hu core
      rw [hc, core_setCore_self]
      subst hc
      exact ⟨dropTask_unheld hhold _, hsaved⟩
    · rw [core_setCore_ne _ _ _ _ hc]
      exact hu core

theorem clearAt_dev (hu : Unheld s) (k : Nat) : (clearAt n waits s k).dev.ctxs = s.dev.ctxs ∧ Silent s (clearAt n waits s k) := by
  obtain heq | ⟨ws, heq⟩ := clearAt_cases (n := n) (waits := waits) s k hu
  · rw [heq]
    exact ⟨rfl, Silent.refl s⟩
  · rw [heq]
    exact ⟨rfl, rfl, rfl, rfl, rfl⟩

/-- The turn of a core whose task is of the context, and of one whose task is not. -/
theorem clearAt_turn {core : CoreId} (hu : Unheld s) (hwaits : waits core = false) (hfaulted : ∀ t, (s.core core).task = some t → t.ctx = n →
    t.st = .faulted) : let c := (clearAt n waits s core.val).core core
    (∀ t, c.task = some t → t.ctx ≠ n) ∧
      ∀ t, (s.core core).task = some t → t.ctx = n → c.task = none ∧ c.region = .idle := by
  unfold clearAt
  rw [coreId_val]
  cases htask : (s.core core).task with
  | none =>
    refine ⟨fun t ht => ?_, fun t ht => (nomatch ht)⟩
    rw [htask] at ht
    cases ht
  | some y =>
    by_cases hctx : y.ctx = n
    · simp only
      rw [if_pos ⟨hctx, hfaulted y htask hctx, by rw [hwaits]; rfl⟩, clearTask_unheld (hu _).1, core_modDev, core_setCore_self]
      exact ⟨fun t ht => (nomatch ht), fun _ _ _ => ⟨rfl, rfl⟩⟩
    · simp only
      rw [if_neg (fun h => hctx h.1), htask]
      refine ⟨fun t ht => ?_, fun t ht hn => ?_⟩
      · cases ht
        exact hctx
      · cases ht
        exact absurd hn hctx

end ClearAt

/-- What clearing tasks leaves alone. -/
structure ClearKeeps (s u : State) : Prop where
  ctxs : u.dev.ctxs = s.dev.ctxs
  silent : Silent s u
  unheld : Unheld u

theorem ClearKeeps.clearAt {s u : State} {n : Nat} {waits : CoreId → Bool} (h : ClearKeeps s u) (k : Nat) :
    ClearKeeps s (clearAt n waits u k) :=
  ⟨(clearAt_dev h.unheld k).1.trans h.ctxs, h.silent.trans (clearAt_dev h.unheld k).2, clearAt_unheld h.unheld k⟩

/-- The cores of the context's faulted tasks have been cleared. -/
theorem cleared_cores {s v : State} {n : Nat} {waits : CoreId → Bool} (hv : (List.range 64).foldl (clearAt n waits) s = v)
    (hu : Unheld s) (hwaits : ∀ k, waits k = false)
    (hfaulted : ∀ core t, (s.core core).task = some t → t.ctx = n → t.st = .faulted) : ClearKeeps s v ∧ ∀ core,
      (∀ t, (v.core core).task = some t → t.ctx ≠ n) ∧
      ∀ t, (s.core core).task = some t → t.ctx = n → (v.core core).task = none ∧ (v.core core).region = .idle := by
  have hround (core : CoreId) := foldl_cores (f := clearAt n waits) (P := ClearKeeps s) ⟨rfl, Silent.refl s, hu⟩
    (fun u k hP => hP.clearAt k) core fun u k hP h => clearAt_other hP.unheld h
  rw [hv] at hround
  refine ⟨(hround (coreId 0)).1, fun core => ?_⟩
  obtain ⟨-, u, hkeeps, hsame, hturn⟩ := hround core
  have hfin := clearAt_turn (n := n) hkeeps.unheld (hwaits core)
    (fun t ht hn => hfaulted core t (by rw [← hsame]; exact ht) hn)
  rw [hsame] at hfin
  rw [hturn]
  exact hfin

/-- A task of the context runs on the core. -/
def runsTaskOf (n : Nat) (c : Core) : Bool :=
  match c.task with
  | some t => t.ctx = n && (t.st = .running || t.st = .sealing)
  | none => false

theorem settleCtx_eq (s : State) (n : Nat) : s.settleCtx n =
    if !((s.dev.ctx n).st = .resident || (s.dev.ctx n).st = .running || (s.dev.ctx n).st = .preempted) then s
    else s.modDev (fun d => d.setCtx n { s.dev.ctx n with
      st := if s.cores.toList.any (runsTaskOf n) then .running
        else if s.cores.toList.any (fun c => c.saved.any (fun v => v.task.ctx = n)) then .preempted else .resident }) := rfl

/-- A context none of whose tasks is left is RESIDENT. -/
theorem settleCtx_over {s : State} {n : Nat} (hst : (s.dev.ctx n).st = .resident)
    (hover : ∀ core t, (s.core core).task = some t → t.ctx ≠ n) (hu : Unheld s) :
    s.settleCtx n = s.modDev (fun d => d.setCtx n { s.dev.ctx n with st := .resident }) := by
  have hruns : s.cores.toList.any (runsTaskOf n) = false := by
    refine List.any_eq_false.2 fun c hc => ?_
    obtain ⟨k, rfl⟩ := exists_core hc
    unfold runsTaskOf
    cases htask : (s.core k).task with
    | none => exact fun h => (nomatch h)
    | some t => simp [hover k t htask]
  have hwaits : s.cores.toList.any (fun c => c.saved.any (fun v => v.task.ctx = n)) = false := by
    refine List.any_eq_false.2 fun c hc => ?_
    obtain ⟨k, rfl⟩ := exists_core hc
    rw [(hu k).2]
    exact fun h => (nomatch h)
  rw [settleCtx_eq, if_neg (by rw [hst]; decide), hruns, hwaits]
  rfl

/-- CLEAR once the context counts as RESIDENT. -/
def clearing (c : Cmd) (s : State) (n : Nat) : State :=
  (argued c s).modDev (fun d => d.setCtx n { s.dev.ctx n with st := .resident })

theorem clear_ended {c : Cmd} {s : State} {n : Nat} (hn : n = c.ctx.toNat) (hbusy : s.dev.cmdBusy = none)
    (hst : (s.dev.ctx n).st = .faulted) (hrings : ∀ d : Fin 2, s.dev.frings[d].waiting = [])
    (hfaulted : ∀ core t, (s.core core).task = some t → t.ctx = n → t.st = .faulted)
    (hheld : ∀ core : CoreId, (s.core core).saved = [] ∧ (s.core core).hold = []) : ∃ t, Ended c s (.clear c) 0 t ∧
      t.dev.ctx n = { s.dev.ctx n with st := .resident } ∧
      ∀ core y, (s.core core).task = some y → y.ctx = n → (t.core core).task = none ∧ (t.core core).region = .idle := by
  subst hn
  have hstart : Silent (argued c s) (clearing c s c.ctx.toNat) := ⟨rfl, rfl, rfl, rfl⟩
  have hwaits (k : CoreId) : fatalWaits (argued c s) k = false := by
    have hw : (argued c s).dev.frings[dieOf k].waiting = [] := hrings (dieOf k)
    have hh : ((argued c s).core k).hold = [] := (hheld k).2
    rw [fatalWaits, hw, hh]
    rfl
  have hgood : (argued c s).clearCtx c.ctx.toNat = (0, ((List.range 64).foldl (clearAt c.ctx.toNat (fatalWaits (argued c s))) (clearing c s c.ctx.toNat)).settleCtx c.ctx.toNat) :=
    clearCtx_good (s := argued c s) hst
  generalize hv : (List.range 64).foldl (clearAt c.ctx.toNat (fatalWaits (argued c s))) (clearing c s c.ctx.toNat) = v at hgood
  obtain ⟨⟨hctxs, hsilent, hun⟩, hcores⟩ := cleared_cores hv (fun k => ⟨(hheld k).2, (hheld k).1⟩) hwaits hfaulted
  have hctx : v.dev.ctx c.ctx.toNat = { s.dev.ctx c.ctx.toNat with st := .resident } := by
    rw [Dev.ctx, hctxs]
    exact ctx_setCtx s.dev _ _
  rw [settleCtx_over (by rw [hctx]) (fun core t ht => (hcores core).1 t ht) hun] at hgood
  refine ⟨_, ended_plain (act := fun s => s.clearCtx c.ctx.toNat) hbusy rfl hgood ?_, ?_, ?_⟩
  · exact (hstart.trans hsilent).trans ⟨rfl, rfl, rfl, rfl⟩
  · rw [cmdDone_keeps (p := fun d => d.ctx c.ctx.toNat) (fun _ _ _ _ => rfl)]
    refine (ctx_setCtx v.dev _ _).trans ?_
    rw [hctx]
  · intro core y hy hyn
    rw [cmdDone_core]
    exact (hcores core).2 y hy hyn

/-! ### TEARDOWN (R302) -/

theorem teardown_bad {s : State} {n : Nat} (h : (s.dev.ctx n).st = .free ∨ (s.dev.ctx n).st = .tornDown) :
    s.teardown n = (some Code.reservedField, s) := if_pos h

/-- A context is marked TORN DOWN, and the mailbox is busy with it. -/
def tornDown (n : Nat) (x : Ctx) (d : Dev) : Dev :=
  { d.setCtx n { Ctx.free with st := .tornDown, root := x.root, asid := x.asid } with cmdBusy := some (0x04, n) }

theorem teardown_good {s : State} {n : Nat} (hfree : (s.dev.ctx n).st ≠ .free) (htorn : (s.dev.ctx n).st ≠ .tornDown) :
    ∃ u : State, s.teardown n = (none, (u.modDev (fun d => tornDown n (s.dev.ctx n) (d.without n))).invalidate ⟨some (s.dev.ctx n).asid, none⟩) :=
  ⟨_, if_neg (fun h => h.elim hfree htorn)⟩

theorem invalidate_bundles (s : State) (v : InvSet) : (s.invalidate v).dev.bundles = s.dev.bundles := rfl

theorem invalidate_ctx (s : State) (v : InvSet) (n : Nat) : (s.invalidate v).dev.ctx n = s.dev.ctx n := rfl

theorem invalidate_cmdBusy (s : State) (v : InvSet) : (s.invalidate v).dev.cmdBusy = s.dev.cmdBusy := rfl

/-- No translation of an address space that was invalidated whole remains. -/
theorem asid_of_kept {a : Nat} {ts : List TlbEnt} : ∀ e ∈ keptEnts ⟨some a, none⟩ ts, e.asid ≠ a := by
  rw [keptEnts_asid]
  exact fun e he => of_decide_eq_true (List.mem_filter.1 he).2

theorem without_bundles (n : Nat) (d : Dev) : ∀ b ∈ (d.without n).bundles, b.ctx ≠ n :=
  fun _ hb => of_decide_eq_true (List.mem_filter.1 hb).2

theorem tornDown_ctx (n : Nat) (x : Ctx) (d : Dev) : ((tornDown n x d).ctx n).st = .tornDown :=
  congrArg Ctx.st (ctx_setCtx d n _)

theorem exec_teardown_good {c : Cmd} {s : State} {n : Nat} (hn : n = c.ctx.toNat) (hbusy : s.dev.cmdBusy = none)
    (hfree : (s.dev.ctx n).st ≠ .free) (htorn : (s.dev.ctx n).st ≠ .tornDown) : ∃ t, exec (.teardown c) s = .next t ∧
      (t.dev.ctx n).st = .tornDown ∧ t.dev.cmdBusy = some (0x04, n) ∧ (∀ b ∈ t.dev.bundles, b.ctx ≠ n) ∧
      ∀ core : CoreId, ∀ e ∈ (t.core core).tlb, e.asid ≠ (s.dev.ctx n).asid := by
  subst hn
  obtain ⟨u, hu⟩ := teardown_good (s := argued c s) hfree htorn
  have hexec : exec (.teardown c) s = .next (s.command c (fun s => s.teardown c.ctx.toNat)) := rfl
  refine ⟨_, hexec.trans (congrArg _ (command_none hbusy hu)), ?_, ?_, ?_, fun core e he => ?_⟩
  · rw [invalidate_ctx]
    exact tornDown_ctx _ _ (u.dev.without _)
  · rw [invalidate_cmdBusy]
    rfl
  · rw [invalidate_bundles]
    intro b hb
    exact without_bundles _ u.dev b hb
  · rw [invalidate_core] at he
    exact asid_of_kept e he

theorem teardownComplete_done {s : State} {n : Nat} (hst : (s.dev.ctx n).st = .tornDown) (hbusy : s.dev.cmdBusy = some (0x04, n))
    (hdone : s.invDone ⟨some (s.dev.ctx n).asid, none⟩ s.dev.wseq = true) : ∃ t : State, exec (.teardownComplete n) s = .next t ∧
      (t.dev.ctx n).st = .free ∧ t.dev.cmdBusy = none ∧
      t.irqs = (if s.dev.vecMasked s.dev.cmdvec then s.irqs else s.irqs ++ [s.dev.cmdvec]) := by
  have hexec : exec (.teardownComplete n) s = .next ((s.modDev (fun d => d.setCtx n Ctx.free)).cmdDone 0) :=
    congrArg _ (if_pos ⟨hst, hbusy, hdone⟩)
  refine ⟨_, hexec, ?_, ?_, silent_irqs (s := s) (t := s.modDev _) ⟨rfl, rfl, rfl, rfl⟩ 0⟩
  · rw [cmdDone_keeps (p := fun d => (d.ctx n).st) (fun _ _ _ _ => rfl)]
    exact congrArg Ctx.st (ctx_setCtx s.dev n _)
  · rw [cmdDone_dev]

theorem teardownComplete_waits {s : State} {n : Nat} (h : s.invDone ⟨some (s.dev.ctx n).asid, none⟩ s.dev.wseq = false) :
    exec (.teardownComplete n) s = .next s :=
  congrArg _ (if_neg fun hd => absurd (h.symm.trans hd.2.2) Bool.false_ne_true)

end Sys2Proof.Proofs
end

section
/-! The mailbox's other commands (O53)
PREEMPT, INVAL, the link commands, the pool regions, groups and attestation, each as an effect that is `Silent`. -/

namespace Sys2Proof.Proofs

open Sys2Proof Sys2Proof.Machine Sys2Proof.Laws

/-! ### PREEMPT (R311) -/

theorem preemptCmd_bad {s : State} {c : Cmd} {core : CoreId} {n : Nat} (hn : n = core.val)
    (h : s.dev.bundles.find? (fun b => b.ctx = c.ctx.toNat && b.addr = c.arg.toNat) = none ∨
      ∃ b, s.dev.bundles.find? (fun b => b.ctx = c.ctx.toNat && b.addr = c.arg.toNat) = some b ∧ (s.latch core b).2 = false) :
    s.preemptCmd c n = (Code.reservedField, s) := by
  subst hn
  unfold State.preemptCmd
  obtain hnone | ⟨b, hsome, hlatch⟩ := h
  · rw [hnone]
  · rw [hsome, coreId_val]
    simp only [hlatch]
    rfl

theorem latch_sameCtx {s : State} {core : CoreId} {b : Bundle} {t : Machine.Task} (htask : (s.core core).task = some t)
    (h : t.ctx = b.ctx) : s.latch core b = (s, false) := by
  unfold State.latch
  simp only [htask]
  exact if_pos (Or.inr (Or.inl h))

/-- A core asked to give way to a bundle. -/
def askedFor (b : Nat) (c : Core) : Core :=
  { (c.modArch (fun a => { a with engC := a.engC.reissue, engA := a.engA.reissue, engV := a.engV.reissue, engM := a.engM.reissue })) with
    preempt := some (Preempt.ask b) }

theorem latch_running {s : State} {core : CoreId} {b : Bundle} {t : Machine.Task} (htask : (s.core core).task = some t)
    (hctx : t.ctx ≠ b.ctx) (hst : t.st = .running) (hreplay : t.replay = false) (hpreempt : (s.core core).preempt = none) :
    s.latch core b = (s.modCore core (askedFor b.id), true) := by
  unfold State.latch
  simp only [htask, hpreempt, hst, hreplay, hctx, Bool.false_eq_true, ne_eq, not_true_eq_false, or_self, Option.isSome_none, ↓reduceIte]
  rfl

theorem preempt_latched {s : State} {c : Cmd} {core : CoreId} (hcore : core.val = c.tgt.toNat) (hbusy : s.dev.cmdBusy = none)
    {b : Bundle} {t : Machine.Task}
    (hfind : s.dev.bundles.find? (fun b => b.ctx = c.ctx.toNat && b.addr = c.arg.toNat) = some b)
    (htask : (s.core core).task = some t) (hctx : t.ctx ≠ b.ctx) (hst : t.st = .running) (hreplay : t.replay = false)
    (hpreempt : (s.core core).preempt = none) : ∃ u p, Ended c s (.preempt c) 0 u ∧ (u.core core).preempt = some p ∧
      p.beneficiary = b.id ∧ p.st = .latched none := by
  have hlatch : (argued c s).latch core b = ((argued c s).modCore core (askedFor b.id), true) :=
    latch_running htask hctx hst hreplay hpreempt
  have hcmd : (argued c s).preemptCmd c c.tgt.toNat = (0, (argued c s).modCore core (askedFor b.id)) := by
    have hfind' : (argued c s).dev.bundles.find? (fun b => b.ctx = c.ctx.toNat && b.addr = c.arg.toNat) = some b := hfind
    unfold State.preemptCmd
    rw [hfind', ← hcore, coreId_val]
    simp only [hlatch, if_true]
  refine ⟨_, Preempt.ask b.id, ended_within (act := fun n s => s.preemptCmd c n) hbusy (by rw [← hcore]; exact core.isLt) rfl hcmd
    (Silent.modCore _ _ _), ?_, rfl, rfl⟩
  rw [cmdDone_core, core_modCore_self]
  rfl

/-! ### INVAL (R338) -/

/-- What INVAL removes. -/
def invalSet (c : Cmd) : InvSet :=
  let n := if c.arg.getLsbD 0 then 65536 else c.tgt.toNat
  ⟨if n < 65536 then some n else none, none⟩

/-- With nothing held and no command in progress no access can still use a translation. -/
theorem invDone_idle {s : State} (v : InvSet) (hidle : ∀ core, (s.core core).hold = [] ∧ (s.core core).xq = [])
    (hremote : ∀ w ∈ s.dev.wlog, w.place.kind ≠ 3) (upTo : Nat) : s.invDone v upTo = true := by
  have hlog : s.dev.wlog.all (fun w => w.place.kind ≠ 3 || decide (upTo < w.seq) || !v.near w.au.va || s.dev.doneAt s.cycle 1 w) =
      true := List.all_eq_true.2 fun w hw => by simp [hremote w hw]
  unfold State.invDone
  rw [hlog, Bool.true_and]
  refine List.all_eq_true.2 fun c hc => ?_
  obtain ⟨k, rfl⟩ := exists_core hc
  rw [(hidle k).1, (hidle k).2]
  rfl

theorem inval_ended {c : Cmd} {s : State} (hbusy : s.dev.cmdBusy = none)
    (hidle : ∀ core, (s.core core).hold = [] ∧ (s.core core).xq = []) (hremote : ∀ w ∈ s.dev.wlog, w.place.kind ≠ 3) :
    Ended c s (.inval c) 0 (((argued c s).invalidate (invalSet c)).cmdDone 0) := by
  have hexec : exec (.inval c) s = .next (s.command c (fun s => s.inval c)) := rfl
  have hdone := invDone_idle (s := (argued c s).invalidate (invalSet c)) (invalSet c)
    (fun core => by
      rw [invalidate_core]
      obtain ⟨hhold, hxq⟩ := hidle core
      exact ⟨(congrArg (List.map _) hhold).trans rfl, hxq⟩) hremote
  refine ended_effect hbusy hexec (if_pos (hdone _)) ⟨rfl, rfl, rfl, rfl⟩

theorem invalSet_asid {c : Cmd} (h : c.arg.getLsbD 0 = false) : invalSet c = ⟨some c.tgt.toNat, none⟩ := by
  unfold invalSet
  simp only [h, Bool.false_eq_true, if_false, if_pos c.tgt.isLt]

theorem invalSet_all {c : Cmd} (h : c.arg.getLsbD 0 = true) : invalSet c = ⟨none, none⟩ := by
  unfold invalSet
  simp only [h, if_true, Nat.lt_irrefl, if_false]

theorem inval_dieTlb {c : Cmd} {s : State} (d : Fin 2) : (((argued c s).invalidate (invalSet c)).cmdDone 0).dev.tlb[d] =
    keptEnts (invalSet c) (s.dev.tlb[d]) :=
  (cmdDone_keeps (p := fun e => e.tlb[d]) (fun _ _ _ _ => rfl) _ _).trans (invalidate_devTlb _ _ d)

theorem inval_coreTlb {c : Cmd} {s : State} (core : CoreId) : ((((argued c s).invalidate (invalSet c)).cmdDone 0).core core).tlb =
    keptEnts (invalSet c) (s.core core).tlb := by
  rw [cmdDone_core, invalidate_core]
  rfl

/-! ### Links (R367) -/

theorem linkEvent_rest (s : State) (num : Nat) (old : LinkSt) : (s.linkEvent num old).dev = s.dev ∧ (s.linkEvent num old).irqs = s.irqs := by
  unfold State.linkEvent
  exact List.foldlRecOn (motive := fun t : State => t.dev = s.dev ∧ t.irqs = s.irqs) _ _ ⟨rfl, rfl⟩ fun t ht k _ => by
    split <;> exact ht

theorem setPort_rest {s : State} {n : Nat} (hn : n < 79) (q : Port) : (s.setPort n q).dev = s.dev.modPort n (fun _ => q) ∧
    (s.setPort n q).irqs = s.irqs := by
  unfold State.setPort
  dsimp only
  rw [if_neg (by omega)]
  split
  · exact linkEvent_rest _ _ _
  · exact ⟨rfl, rfl⟩

theorem modPort_rest (d : Dev) (n : Nat) (f : Port → Port) : (d.modPort n f).msix = d.msix ∧ (d.modPort n f).cmdvec = d.cmdvec ∧
    (d.modPort n f).cmdarg = d.cmdarg := by
  unfold Dev.modPort
  split <;> exact ⟨rfl, rfl, rfl⟩

theorem setPort_silent {s : State} {n : Nat} (hn : n < 79) (q : Port) : Silent s (s.setPort n q) := by
  obtain ⟨hdev, hirqs⟩ := setPort_rest (s := s) hn q
  obtain ⟨hmsix, hvec, harg⟩ := modPort_rest s.dev n (fun _ => q)
  refine ⟨hirqs, ?_, ?_, ?_⟩ <;> rw [hdev] <;> assumption

theorem setPort_port {s : State} {n : Nat} (hn : n < 79) (q : Port) : (s.setPort n q).dev.port n = q := by
  rw [(setPort_rest hn q).1, port_modPort_self hn]

section Link

variable {c : Cmd} {s : State} (hbusy : s.dev.cmdBusy = none) (hn : c.tgt.toNat < 79)

include hbusy hn

theorem link_set {i : Instr} {act : Nat → State → BitVec 8 × State} {q : Port} (hi : exec i s = .next (s.command c (withTgt c 79 act)))
    (hact : act c.tgt.toNat (argued c s) = (0, (argued c s).setPort c.tgt.toNat q)) :
    ∃ t, Ended c s i 0 t ∧ t.dev.port c.tgt.toNat = q :=
  ⟨_, ended_within hbusy hn hi hact (setPort_silent hn q),
    (cmdDone_keeps (p := fun d => d.port c.tgt.toNat) (fun _ _ _ _ => rfl) _ _).trans (setPort_port hn q)⟩

theorem linkEnable_ended (hst : (s.dev.port c.tgt.toNat).st = .down) : ∃ t, Ended c s (.linkEnable c) 0 t ∧
    t.dev.port c.tgt.toNat = { s.dev.port c.tgt.toNat with st := .training, since := s.dtime } :=
  link_set hbusy hn rfl (congrArg (Prod.mk _) (if_pos hst))

theorem linkDrain_ended (hst : (s.dev.port c.tgt.toNat).st = .up ∨ (s.dev.port c.tgt.toNat).st = .degraded) :
    ∃ t, Ended c s (.linkDrain c) 0 t ∧ t.dev.port c.tgt.toNat = { s.dev.port c.tgt.toNat with st := .draining } :=
  link_set hbusy hn rfl (congrArg (Prod.mk _) (if_pos hst))

theorem linkRetrain_ended : ∃ t, Ended c s (.linkRetrain c) 0 t ∧ (t.dev.port c.tgt.toNat = s.dev.port c.tgt.toNat ∨
    ((s.dev.port c.tgt.toNat).retired = 0 ∧
      t.dev.port c.tgt.toNat = { s.dev.port c.tgt.toNat with st := .up, active := portFull c.tgt.toNat })) := by
  let q : Port := { s.dev.port c.tgt.toNat with st := .up, active := portFull c.tgt.toNat }
  by_cases h : (s.dev.port c.tgt.toNat).st = .degraded ∧ (s.dev.port c.tgt.toNat).retired = 0 ∧ Config.freeBool s.free c.tgt.toNat
  · refine ⟨_, ended_within (act := State.linkRetrain) hbusy hn rfl (congrArg (Prod.mk _) (if_pos h))
      ((setPort_silent (s := argued c s) hn q).trans ⟨rfl, rfl, rfl, rfl⟩), Or.inr ⟨h.2.1, ?_⟩⟩
    exact (cmdDone_keeps (p := fun d => d.port c.tgt.toNat) (fun _ _ _ _ => rfl) _ _).trans (setPort_port (s := argued c s) hn q)
  · refine ⟨_, ended_within (act := State.linkRetrain) hbusy hn rfl (congrArg (Prod.mk _) (if_neg h)) ⟨rfl, rfl, rfl, rfl⟩, Or.inl ?_⟩
    exact cmdDone_keeps (p := fun d => d.port c.tgt.toNat) (fun _ _ _ _ => rfl) _ _

end Link

/-- A port without what is buffered there; what is dropped is counted. -/
theorem dropBuffered_port {d : Dev} {n : Nat} (hn : n < 79) : ((d.dropBuffered n).port n).outq = [] := by
  unfold Dev.dropBuffered
  dsimp only
  rw [port_modPort_self hn]
  simp [Dev.port, hn]

theorem dropBuffered_rest (d : Dev) (n : Nat) : (d.dropBuffered n).msix = d.msix ∧ (d.dropBuffered n).cmdvec = d.cmdvec ∧
    (d.dropBuffered n).cmdarg = d.cmdarg := by
  unfold Dev.dropBuffered
  exact modPort_rest _ _ _

theorem linkDisable_ended {c : Cmd} {s : State} (hbusy : s.dev.cmdBusy = none) (hn : c.tgt.toNat < 79)
    (hst : (s.dev.port c.tgt.toNat).st ≠ .down) : ∃ t, Ended c s (.linkDisable c) 0 t ∧ (t.dev.port c.tgt.toNat).st = .down ∧
      (t.dev.port c.tgt.toNat).outq = [] := by
  let u := (argued c s).modDev (fun d => d.dropBuffered c.tgt.toNat)
  have hu : Silent (argued c s) u := ⟨rfl, (dropBuffered_rest _ _).1, (dropBuffered_rest _ _).2.1, (dropBuffered_rest _ _).2.2⟩
  have hport : ((u.setPort c.tgt.toNat { u.dev.port c.tgt.toNat with st := .down }).cmdDone 0).dev.port c.tgt.toNat =
      { u.dev.port c.tgt.toNat with st := .down } :=
    (cmdDone_keeps (p := fun d => d.port c.tgt.toNat) (fun _ _ _ _ => rfl) _ _).trans (setPort_port hn _)
  refine ⟨_, ended_within (act := State.linkDisable) hbusy hn rfl (congrArg (Prod.mk _) (if_neg hst))
    (hu.trans (setPort_silent hn _)), ?_, ?_⟩
  · exact congrArg Port.st hport
  · exact (congrArg Port.outq hport).trans (dropBuffered_port hn)

/-! ### Pool regions (R334) -/

/-- A line goes home and is dropped. -/
def fencedLine (d : Dev) (l : Nat) : Dev := (d.cleanLine l).dropLine l

theorem fencedLines_rest (ls : List Nat) (d : Dev) : withoutPool (ls.foldl fencedLine d) = withoutPool d :=
  List.foldlRecOn (motive := fun e : Dev => withoutPool e = withoutPool d) ls _ rfl fun e he l _ => (cleanLine_rest e l).trans he

theorem cleanLine_lines {d : Dev} {l : Nat} {q : PoolLine} (hq : q ∈ (d.cleanLine l).lines) : ∃ p ∈ d.lines, p.line = q.line := by
  unfold Dev.cleanLine at hq
  split at hq
  next => exact ⟨q, hq, rfl⟩
  next p hp =>
    split at hq
    · rcases List.mem_append.1 hq with hq | hq
      · exact ⟨q, (List.mem_filter.1 hq).1, rfl⟩
      · rw [List.mem_singleton.1 hq]
        exact ⟨p, List.mem_of_find?_eq_some hp, rfl⟩
    · exact ⟨q, hq, rfl⟩

/-- The lines that stay were there before and are none of those that have been fenced. -/
theorem fencedLines_lines (ls : List Nat) (d : Dev) : ∀ q ∈ (ls.foldl fencedLine d).lines,
    q.line ∉ ls ∧ ∃ p ∈ d.lines, p.line = q.line := by
  induction ls generalizing d with
  | nil => exact fun q hq => ⟨List.not_mem_nil, q, hq, rfl⟩
  | cons l ls ih =>
    intro q hq
    obtain ⟨hout, p, hp, hline⟩ := ih _ q hq
    obtain ⟨hclean, hne⟩ := List.mem_filter.1 hp
    obtain ⟨p', hp', hline'⟩ := cleanLine_lines hclean
    refine ⟨?_, p', hp', hline'.trans hline⟩
    rw [List.mem_cons, not_or, ← hline]
    exact ⟨of_decide_eq_true hne, hline ▸ hout⟩

/-- The device once the lines ls of region n have gone and the region is FENCED. -/
def regionFenced (n : Nat) (ls : List Nat) (d : Dev) : Dev :=
  { ls.foldl fencedLine d with regions := Store.set regionDefault (ls.foldl fencedLine d).regions n { d.region n with st := 2 } }

theorem regionFence_eq {s : State} {n : Nat} (h : (s.dev.region n).st ≠ 2) : State.regionFence n s =
    (0, s.modDev (regionFenced n ((s.dev.lines.filter (fun p => p.line / 2 ^ 24 = n)).map (fun p => p.line)))) := if_neg h

theorem regionFenced_silent (s : State) (n : Nat) (ls : List Nat) : Silent s (s.modDev (regionFenced n ls)) :=
  have hrest := fencedLines_rest ls s.dev
  ⟨rfl, (congrArg Dev.msix hrest :), (congrArg Dev.cmdvec hrest :), (congrArg Dev.cmdarg hrest :)⟩

theorem regionFenced_region (n : Nat) (ls : List Nat) (d : Dev) : (regionFenced n ls d).region n = { d.region n with st := 2 } :=
  get_set_self _ _ _ _

section Region

variable {c : Cmd} {s : State} (hbusy : s.dev.cmdBusy = none) (hn : c.tgt.toNat < 4096)

include hbusy hn

theorem regionFence_ended (hst : (s.dev.region c.tgt.toNat).st ≠ 2) : ∃ t, Ended c s (.regionFence c) 0 t ∧
    t.dev.region c.tgt.toNat = { s.dev.region c.tgt.toNat with st := 2 } ∧ ∀ l ∈ t.dev.lines, l.line / 2 ^ 24 ≠ c.tgt.toNat := by
  let ls := (s.dev.lines.filter (fun p => p.line / 2 ^ 24 = c.tgt.toNat)).map (fun p => p.line)
  refine ⟨_, ended_within hbusy hn rfl (regionFence_eq (s := argued c s) hst) (regionFenced_silent _ _ _), ?_, ?_⟩
  · exact (cmdDone_keeps (p := fun d => d.region c.tgt.toNat) (fun _ _ _ _ => rfl) _ _).trans (regionFenced_region _ _ _)
  · rw [cmdDone_keeps (p := Dev.lines) (fun _ _ _ _ => rfl)]
    intro q hq hregion
    obtain ⟨hout, p, hp, hline⟩ := fencedLines_lines ls _ q hq
    refine hout (List.mem_map.2 ⟨p, List.mem_filter.2 ⟨hp, ?_⟩, hline⟩)
    exact decide_eq_true (by rw [hline]; exact hregion)

theorem region_unchanged {i : Instr} {act : Nat → State → BitVec 8 × State} {code : BitVec 8}
    (hi : exec i s = .next (s.command c (withTgt c 4096 act))) (hact : act c.tgt.toNat (argued c s) = (code, argued c s)) :
    ∃ t, Ended c s i code t ∧ t.dev.region c.tgt.toNat = s.dev.region c.tgt.toNat :=
  ⟨_, ended_within hbusy hn hi hact (Silent.refl _), cmdDone_keeps (p := fun d => d.region c.tgt.toNat) (fun _ _ _ _ => rfl) _ _⟩

/-- A region that cannot come ONLINE stays as it is. -/
theorem regionOnline_refused (hst : (s.dev.region c.tgt.toNat).st ≠ 0)
    (hno : ¬ ((s.dev.region c.tgt.toNat).st = 2 ∧
      s.dev.cxlUp[(s.dev.region c.tgt.toNat).port % 4]'(Nat.mod_lt _ (by decide)) = true ∧ Config.hdmDb c.tgt.toNat = true)) :
    ∃ t, Ended c s (.regionOnline c) Code.poolRegionLost t ∧ t.dev.region c.tgt.toNat = s.dev.region c.tgt.toNat :=
  region_unchanged hbusy hn rfl ((if_neg hst).trans (if_neg hno))

theorem regionOnline_up (hst : (s.dev.region c.tgt.toNat).st = 2)
    (hup : s.dev.cxlUp[(s.dev.region c.tgt.toNat).port % 4]'(Nat.mod_lt _ (by decide)) = true) :
    ∃ code t, Ended c s (.regionOnline c) code t ∧
      ((code = 0 ∧ t.dev.region c.tgt.toNat = { s.dev.region c.tgt.toNat with st := 0 }) ∨
        (code = Code.poolRegionLost ∧ t.dev.region c.tgt.toNat = s.dev.region c.tgt.toNat)) := by
  have hst0 : (s.dev.region c.tgt.toNat).st ≠ 0 := by
    rw [hst]
    decide
  by_cases hdb : Config.hdmDb c.tgt.toNat = true
  · refine ⟨0, _, ended_within (act := State.regionOnline) hbusy hn rfl ((if_neg hst0).trans (if_pos ⟨hst, hup, hdb⟩))
      ⟨rfl, rfl, rfl, rfl⟩, Or.inl ⟨rfl, ?_⟩⟩
    exact (cmdDone_keeps (p := fun d => d.region c.tgt.toNat) (fun _ _ _ _ => rfl) _ _).trans (get_set_self _ _ _ _)
  · obtain ⟨t, ht, hregion⟩ := regionOnline_refused hbusy hn hst0 (fun h => hdb h.2.2)
    exact ⟨_, t, ht, Or.inr ⟨rfl, hregion⟩⟩

end Region

/-! ### Groups (R405, R407) -/

theorem group_setGroup (d : Dev) (n : Nat) (g : Group) : (d.setGroup n g).group n = g := get_set_self _ _ _ _

section Group

variable {c : Cmd} {s : State} (hbusy : s.dev.cmdBusy = none) (hn : c.tgt.toNat < 256)

include hbusy hn

theorem group_set {i : Instr} {act : Nat → State → BitVec 8 × State} {g : Group}
    (hi : exec i s = .next (s.command c (withTgt c 256 act)))
    (hact : act c.tgt.toNat (argued c s) = (0, (argued c s).modDev (fun d => d.setGroup c.tgt.toNat g))) :
    ∃ t, Ended c s i 0 t ∧ t.dev.group c.tgt.toNat = g :=
  ⟨_, ended_within hbusy hn hi hact ⟨rfl, rfl, rfl, rfl⟩,
    (cmdDone_keeps (p := fun d => d.group c.tgt.toNat) (fun _ _ _ _ => rfl) _ _).trans (group_setGroup _ _ _)⟩

theorem groupDefine_ended {x : Group} (hst : (s.dev.group c.tgt.toNat).st = .dissolved) (hend : c.arg.toNat + 32 ≤ Config.hbmBytes)
    (hx : Machine.groupOf (Store.run 0 s.dev.hbm c.arg.toNat 32) = some x) :
    ∃ t, Ended c s (.groupDefine c) 0 t ∧ t.dev.group c.tgt.toNat = x := by
  refine group_set (act := State.groupDefine c.arg.toNat) hbusy hn rfl
    ((if_neg (fun h => h hst)).trans ((if_neg (Nat.not_lt.2 hend)).trans ?_))
  have hx' : Machine.groupOf (Store.run 0 (argued c s).dev.hbm c.arg.toNat 32) = some x := hx
  simp only [hx']

theorem groupDefine_bad (hst : (s.dev.group c.tgt.toNat).st = .dissolved)
    (hx : Machine.groupOf (Store.run 0 s.dev.hbm c.arg.toNat 32) = none) : ∃ t, Ended c s (.groupDefine c) Code.reservedField t := by
  refine ⟨_, ended_within (act := State.groupDefine c.arg.toNat) hbusy hn rfl ((if_neg (fun h => h hst)).trans ?_) (Silent.refl _)⟩
  have hx' : Machine.groupOf (Store.run 0 (argued c s).dev.hbm c.arg.toNat 32) = none := hx
  simp only [hx', ite_self]

theorem groupJoin_ended {e : W64} (hst : (s.dev.group c.tgt.toNat).st = .defined)
    (he : s.dev.memberOf (s.dev.group c.tgt.toNat).job = some e) :
    (memberDx e = true → ∃ t, Ended c s (.groupJoin c) 0 t ∧ t.dev.group c.tgt.toNat = { s.dev.group c.tgt.toNat with st := .joined }) ∧
    (memberDx e = false → ∃ t, Ended c s (.groupJoin c) Code.jobKeyAbsent t ∧ t.dev.group c.tgt.toNat = s.dev.group c.tgt.toNat) := by
  have hact : State.groupJoin c.tgt.toNat (argued c s) =
      if memberDx e then (0, (argued c s).setGroupSt c.tgt.toNat .joined) else (Code.jobKeyAbsent, argued c s) := by
    have he' : (argued c s).dev.memberOf ((argued c s).dev.group c.tgt.toNat).job = some e := he
    refine (if_neg (fun h => h hst)).trans ?_
    simp only [he']
  refine ⟨fun hdx => group_set hbusy hn rfl (hact.trans (if_pos hdx)), fun hdx => ⟨_, ended_within (act := State.groupJoin) hbusy hn rfl
    (hact.trans (if_neg (by rw [hdx]; decide))) (Silent.refl _), ?_⟩⟩
  exact cmdDone_keeps (p := fun d => d.group c.tgt.toNat) (fun _ _ _ _ => rfl) _ _

theorem groupDissolve_ended (hst : (s.dev.group c.tgt.toNat).st ≠ .dissolved) : ∃ t, Ended c s (.groupDissolve c) 0 t ∧
    (t.dev.group c.tgt.toNat).st = .dissolved := by
  refine ⟨_, ended_within (act := State.groupDissolve) hbusy hn rfl (congrArg (Prod.mk _) (if_neg hst)) ⟨rfl, rfl, rfl, rfl⟩, ?_⟩
  exact (cmdDone_keeps (p := fun d => (d.group c.tgt.toNat).st) (fun _ _ _ _ => rfl) _ _).trans
    (congrArg Group.st (group_setGroup s.dev _ Group.none))

end Group

/-! ### Attestation (R433) -/

/-- A device without what a write to device memory may change. -/
def withoutMemory (d : Dev) : Dev := { withoutPool d with hbm := [], hbmP := [], wseq := 0, wlog := [], discarded := [] }

theorem llcTouches_rest (ls : List Nat) (d : Dev) : withoutPool (ls.foldl Dev.llcTouch d) = withoutPool d :=
  List.foldlRecOn (motive := fun e : Dev => withoutPool e = withoutPool d) ls _ rfl fun _ he _ _ => he

theorem withoutMemory_of_rest {d e : Dev} (h : withoutPool e = withoutPool d) : withoutMemory e = withoutMemory d :=
  congrArg (fun d : Dev => { d with hbm := [], hbmP := [], wseq := 0, wlog := [], discarded := [] }) h

theorem storePlace_device_rest {d : Dev} {p : Place} (hkind : p.kind = 0) (bs : List Byte) (po : Bool) :
    withoutMemory (d.storePlace p 0 bs po) = withoutMemory d := by
  unfold Dev.storePlace
  rw [if_pos hkind]
  refine Eq.trans ?_ (withoutMemory_of_rest (llcTouches_rest (linesOf p.pa (bs.take (inHbm p.pa bs.length)).length) d))
  rfl

theorem noted_rest (d : Dev) (n : Nat) (log : List MemWr) : withoutMemory { d with wseq := n, wlog := log } = withoutMemory d := rfl

theorem writePlace_device_rest {d : Dev} {p : Place} (hkind : p.kind = 0) (bs : List Byte) (po : Bool) (au : Author) :
    withoutMemory (d.writePlace p 0 bs po au) = withoutMemory d := by
  unfold Dev.writePlace
  dsimp only
  split
  · rfl
  · split
    · rfl
    · exact (noted_rest _ _ _).trans ((withoutMemory_of_rest (fitLlc_rest _)).trans (storePlace_device_rest hkind _ po))

/-- The bytes that a report writes at ARG. -/
def reportBytes (s : State) (a : Nat) : List Byte :=
  let body := s.dev.attestBody (Store.run 0 s.dev.hbm a 32)
  body ++ (List.range 2820).map (Config.attestByte (body ++ natBytes 4 s.dev.sigsLeft))

/-- A report is written, and a signature is used up. -/
def attested (s : State) (a : Nat) : State :=
  s.modDev (fun d => { (d.writePlace ⟨0, a, 0, 0⟩ 0 (reportBytes s a) false) with sigsLeft := d.sigsLeft - 1 })

theorem attest_good {s : State} {a : Nat} (hend : a + 2988 ≤ Config.hbmBytes) (hleft : s.dev.sigsLeft ≠ 0) :
    s.attest a = (0, attested s a) := (if_neg (Nat.not_lt.2 hend)).trans (if_neg hleft)

theorem attested_silent (s : State) (a : Nat) : Silent s (attested s a) :=
  have hrest := writePlace_device_rest (d := s.dev) (p := ⟨0, a, 0, 0⟩) rfl (reportBytes s a) false Author.other
  ⟨rfl, (congrArg Dev.msix hrest :), (congrArg Dev.cmdvec hrest :), (congrArg Dev.cmdarg hrest :)⟩

theorem reportBytes_length (s : State) (a : Nat) : (reportBytes s a).length = 2988 := by
  simp [reportBytes, Dev.attestBody, natBytes_length, zeroBytes, run_length]

theorem getD_within {p q r : List Byte} {n k : Nat} (hp : p.length = n) (hk : k < q.length) : (p ++ q ++ r).getD (n + k) 0 = q.getD k 0 := by
  subst hp
  rw [List.append_assoc, List.getD_append_right _ _ _ _ (Nat.le_add_right _ _), Nat.add_sub_cancel_left, List.getD_append _ _ _ _ hk]

/-- The signed bytes begin with the version, 20 bytes of the device, the nonce and the enabled cores. -/
theorem reportBytes_eq (s : State) (a : Nat) : ∃ h r, h.length = 20 ∧
    reportBytes s a = natBytes 4 1 ++ h ++ Store.run 0 s.dev.hbm a 32 ++ natBytes 8 s.dev.cemask.toNat ++ r := by
  unfold reportBytes Dev.attestBody
  dsimp only
  generalize (List.range 2820).map _ = sig
  generalize (List.range 96).map _ = measured
  generalize hdev : (List.range 16).map (Config.attestByte []) = dev
  refine ⟨natBytes 4 (if Config.skoiq56 then 56 else 64) ++ dev, [s.dev.clusterPass] ++ zeroBytes 7 ++ measured ++ sig, ?_, ?_⟩
  · rw [List.length_append, natBytes_length, ← hdev, List.length_map, List.length_range]
  · simp only [List.append_assoc]

theorem reportBytes_version (s : State) (a : Nat) : (reportBytes s a).getD 0 0 = 1 := by
  obtain ⟨h, r, -, heq⟩ := reportBytes_eq s a
  rw [heq]
  rfl

theorem reportBytes_nonce {s : State} {a j : Nat} (hj : j < 32) :
    (reportBytes s a).getD (24 + j) 0 = (Store.run 0 s.dev.hbm a 32).getD j 0 := by
  obtain ⟨h, r, hlen, heq⟩ := reportBytes_eq s a
  rw [heq, List.append_assoc]
  exact getD_within (by simp [natBytes_length, hlen]) (by rw [run_length]; exact hj)

theorem reportBytes_cores {s : State} {a j : Nat} (hj : j < 8) :
    (reportBytes s a).getD (56 + j) 0 = (natBytes 8 s.dev.cemask.toNat).getD j 0 := by
  obtain ⟨h, r, hlen, heq⟩ := reportBytes_eq s a
  rw [heq]
  exact getD_within (by simp [natBytes_length, hlen, run_length]) (by rw [natBytes_length]; exact hj)

theorem attested_byte {s : State} {a k : Nat} (hend : a + 2988 ≤ Config.hbmBytes) (hk : k < 2988) :
    Store.get 0 (attested s a).dev.hbm (a + k) = (reportBytes s a).getD k 0 :=
  get_writePlace_device (d := s.dev) (p := ⟨0, a, 0, 0⟩) (by rw [reportBytes_length]; exact hk) 0 false rfl
    (by rw [reportBytes_length]; exact hend)

/-- ATTEST through the mailbox; its effect is named, since its bounds are too large for the kernel to evaluate. -/
theorem exec_attest (c : Cmd) (s : State) : ∃ eff, exec (.attest c) s = .next (s.command c eff) ∧
    ∀ u : State, eff u = (some (u.attest c.arg.toNat).1, (u.attest c.arg.toNat).2) := by
  refine ⟨_, rfl, fun u => ?_⟩
  generalize u.attest c.arg.toNat = r
  rfl

theorem attest_ended {c : Cmd} {s : State} (hbusy : s.dev.cmdBusy = none) (hend : c.arg.toNat + 2988 ≤ Config.hbmBytes)
    (hleft : s.dev.sigsLeft ≠ 0) : let a := c.arg.toNat
    ∃ t, Ended c s (.attest c) 0 t ∧ t.dev.sigsLeft = s.dev.sigsLeft - 1 ∧ Store.get 0 t.dev.hbm a = 1 ∧
      (∀ j, j < 32 → Store.get 0 t.dev.hbm (a + 24 + j) = (Store.run 0 s.dev.hbm a 32).getD j 0) ∧
      ∀ j, j < 8 → Store.get 0 t.dev.hbm (a + 56 + j) = (natBytes 8 s.dev.cemask.toNat).getD j 0 := by
  intro a
  have hrest := writePlace_device_rest (d := (argued c s).dev) (p := ⟨0, a, 0, 0⟩) rfl (reportBytes (argued c s) a) false Author.other
  have hbyte (k : Nat) (hk : k < 2988) : Store.get 0 ((attested (argued c s) a).cmdDone 0).dev.hbm (a + k) =
      (reportBytes (argued c s) a).getD k 0 :=
    (cmdDone_keeps (p := fun d => Store.get 0 d.hbm (a + k)) (fun _ _ _ _ => rfl) _ _).trans (attested_byte hend hk)
  obtain ⟨eff, hexec, heff⟩ := exec_attest c s
  refine ⟨_, ended_effect hbusy hexec ((heff _).trans (by rw [attest_good (s := argued c s) hend hleft])) (attested_silent _ a), cmdDone_keeps (p := Dev.sigsLeft) (fun _ _ _ _ => rfl) _ _, ?_, fun j hj => ?_, fun j hj => ?_⟩
  · exact (hbyte 0 (by decide)).trans (reportBytes_version _ _)
  · rw [Nat.add_assoc, hbyte _ (by omega)]
    exact reportBytes_nonce hj
  · rw [Nat.add_assoc, hbyte _ (by omega)]
    exact reportBytes_cores hj

/-! ### The obligation -/

section Clauses

variable {c : Cmd} {s : State} (hbusy : s.dev.cmdBusy = none)

include hbusy

theorem build_clause : let rcd := Store.run 0 s.dev.hbm c.arg.toNat 128
    (c.arg.toNat % 64 ≠ 0 ∨ Config.hbmBytes < c.arg.toNat + 128 ∨ ctxOf rcd = none ∨ (s.dev.ctx (leAt rcd 0x0A 2)).st ≠ .free →
      ∃ t, Ended c s (.build c) Code.reservedField t) ∧
    ∀ x, c.arg.toNat % 64 = 0 → c.arg.toNat + 128 ≤ Config.hbmBytes → ctxOf rcd = some x → (s.dev.ctx (leAt rcd 0x0A 2)).st = .free →
      ∃ t, Ended c s (.build c) 0 t ∧ t.dev.ctx (leAt rcd 0x0A 2) = x ∧ x.st = .built := by
  intro rcd
  refine ⟨fun h => ⟨_, ended_plain (act := fun s => s.build c.arg.toNat) hbusy rfl (build_bad (s := argued c s) h) (Silent.refl _)⟩,
    fun x halign hend hctx hst => ⟨_, ended_plain (act := fun s => s.build c.arg.toNat) hbusy rfl
      (build_good (s := argued c s) halign hend hctx hst) ⟨rfl, rfl, rfl, rfl⟩, ?_, ctxOf_built hctx⟩⟩
  exact (cmdDone_keeps (p := fun d => d.ctx _) (fun _ _ _ _ => rfl) _ _).trans (ctx_setCtx s.dev _ x)

theorem reside_ended (hst : (s.dev.ctx c.ctx.toNat).st = .built)
    (hroom : s.dev.roomFor c.ctx.toNat (s.dev.ctx c.ctx.toNat) = true) : let x := s.dev.ctx c.ctx.toNat
    ∃ t, Ended c s (.reside c) 0 t ∧ t.dev.ctx c.ctx.toNat = { x with st := .resident } ∧
      ∀ core : CoreId, x.cores.getLsbD core.val = true → s.dev.cemask.getLsbD core.val = true → (s.core core).real = none →
        FreshOn x (t.core core).arch := by
  intro x
  refine ⟨_, ended_plain (act := fun s => s.reside c.ctx.toNat) hbusy rfl (reside_good (s := argued c s) hst hroom)
    ((freshObjects_silent _ _).trans ⟨rfl, rfl, rfl, rfl⟩), ?_, fun core hx henabled hreal => ?_⟩
  · exact (cmdDone_keeps (p := fun d => d.ctx _) (fun _ _ _ _ => rfl) _ _).trans (ctx_setCtx _ _ _)
  · have hcore : ((argued c s).freshObjects x).core core = (s.core core).freshObjects x :=
      freshObjects_core (s := argued c s) hx henabled
    rw [cmdDone_core, core_modDev, show (argued c s).dev.ctx c.ctx.toNat = x from rfl, hcore]
    exact freshOn_freshObjects hreal _

theorem context_unchanged {i : Instr} {act : State → BitVec 8 × State}
    (hi : exec i s = .next (s.command c (fun s => let (code, t) := act s; (some code, t))))
    (hact : act (argued c s) = (Code.reservedField, argued c s)) : ∃ t, Ended c s i Code.reservedField t :=
  ⟨_, ended_plain hbusy hi hact (Silent.refl _)⟩

theorem preempt_refused {core : CoreId} (hcore : core.val = c.tgt.toNat)
    (h : s.dev.bundles.find? (fun b => b.ctx = c.ctx.toNat && b.addr = c.arg.toNat) = none ∨
      ∃ b, s.dev.bundles.find? (fun b => b.ctx = c.ctx.toNat && b.addr = c.arg.toNat) = some b ∧
        ((argued c s).latch core b).2 = false) : ∃ t, Ended c s (.preempt c) Code.reservedField t :=
  ⟨_, ended_within (act := fun n s => s.preemptCmd c n) hbusy (by rw [← hcore]; exact core.isLt) rfl
    (preemptCmd_bad (s := argued c s) hcore.symm h) (Silent.refl _)⟩

theorem region_clause (hn : c.tgt.toNat < 4096) : let r := s.dev.region c.tgt.toNat
    (r.st ≠ 2 → ∃ t, Ended c s (.regionFence c) 0 t ∧ t.dev.region c.tgt.toNat = { r with st := 2 } ∧
      ∀ l ∈ t.dev.lines, l.line / 2 ^ 24 ≠ c.tgt.toNat) ∧
    (r.st = 1 → ∃ t, Ended c s (.regionOnline c) Code.poolRegionLost t ∧ t.dev.region c.tgt.toNat = r) ∧
    (r.st = 2 → s.dev.cxlUp[r.port % 4]'(Nat.mod_lt r.port (by decide)) = false →
      ∃ t, Ended c s (.regionOnline c) Code.poolRegionLost t ∧ t.dev.region c.tgt.toNat = r) ∧
    (r.st = 2 → s.dev.cxlUp[r.port % 4]'(Nat.mod_lt r.port (by decide)) = true →
      ∃ code t, Ended c s (.regionOnline c) code t ∧ ((code = 0 ∧ t.dev.region c.tgt.toNat = { r with st := 0 }) ∨
        (code = Code.poolRegionLost ∧ t.dev.region c.tgt.toNat = r))) := by
  intro r
  refine ⟨fun hst => regionFence_ended hbusy hn hst, fun hst => ?_, fun hst hdown => ?_, fun hst hup => regionOnline_up hbusy hn hst hup⟩
  · exact regionOnline_refused hbusy hn (by rw [hst]; decide) fun h => absurd (hst.symm.trans h.1) (by decide)
  · exact regionOnline_refused hbusy hn (by rw [hst]; decide) fun h => Bool.false_ne_true (hdown.symm.trans h.2.1)

theorem group_clause (hn : c.tgt.toNat < 256) : let g := s.dev.group c.tgt.toNat
    (g.st = .joined → ∃ t, Ended c s (.groupActivate c) 0 t ∧ t.dev.group c.tgt.toNat = { g with st := .active }) ∧
    (g.st = .active → ∃ t, Ended c s (.groupSuspend c) 0 t ∧ t.dev.group c.tgt.toNat = { g with st := .suspended }) ∧
    (g.st = .suspended → ∃ t, Ended c s (.groupResume c) 0 t ∧ t.dev.group c.tgt.toNat = { g with st := .active }) :=
  ⟨fun hst => group_set hbusy hn rfl (congrArg (Prod.mk _) (if_pos (Or.inl hst))),
    fun hst => group_set hbusy hn rfl (congrArg (Prod.mk _) (if_pos hst)),
    fun hst => group_set hbusy hn rfl (congrArg (Prod.mk _) (if_pos (Or.inr hst)))⟩

theorem attest_refused {code : BitVec 8} (hact : (argued c s).attest c.arg.toNat = (code, argued c s)) :
    ∃ t, Ended c s (.attest c) code t := by
  obtain ⟨eff, hexec, heff⟩ := exec_attest c s
  exact ended_unchanged hbusy hexec ((heff _).trans (by rw [hact]))

end Clauses

/-- Settles O53: every clause is the effect of its command, carried through the mailbox by `ended_effect`. -/
theorem mailboxCommands : Obligations.MailboxCommands := by
  unfold Obligations.MailboxCommands
  intro c s n k ended bad
  refine ⟨fun hbusy i hi => ?_, fun hbusy => ⟨fun hn i hi => ?_, fun hn => ⟨ended_beyond hbusy hn rfl, ended_beyond hbusy hn rfl⟩,
    fun hn i hi => ?_, build_clause hbusy, ⟨fun h => ?_, fun hst hroom => reside_ended hbusy hst hroom, fun hst => ?_,
      fun hst hrings hfaulted hheld => clear_ended rfl hbusy hst hrings hfaulted hheld, fun h => ?_,
      fun hfree htorn => exec_teardown_good rfl hbusy hfree htorn⟩,
    fun core hcore => ⟨fun hnone => preempt_refused hbusy hcore (Or.inl hnone), fun b t hfind htask =>
      ⟨fun hctx => ?_, fun hctx hst hreplay hpreempt => preempt_latched hcore hbusy hfind htask hctx hst hreplay hpreempt⟩⟩,
    fun hn => ended_beyond hbusy hn rfl, fun hone hidle hremote => ⟨_, inval_ended hbusy hidle hremote, fun core e he => ?_,
      fun d e he => ?_⟩, fun hall hidle hremote => ⟨_, inval_ended hbusy hidle hremote, fun core => ?_, fun d => ?_⟩,
    fun hn => ⟨fun hst => linkEnable_ended hbusy hn hst, fun hst => linkDrain_ended hbusy hn hst,
      fun _ => linkRetrain_ended hbusy hn, fun hst => linkDisable_ended hbusy hn hst⟩, fun hn => region_clause hbusy hn,
    fun hn => ⟨fun x hst hend hx => groupDefine_ended hbusy hn hst hend hx, fun hst hx => groupDefine_bad hbusy hn hst hx,
      fun e hst he => groupJoin_ended hbusy hn hst he, (group_clause hbusy hn).1, (group_clause hbusy hn).2.1,
      (group_clause hbusy hn).2.2, fun hst => groupDissolve_ended hbusy hn hst⟩,
    ⟨fun hend => attest_refused hbusy (if_pos hend), fun hend hleft => attest_refused hbusy ?_,
      fun hend hleft => attest_ended hbusy hend hleft⟩⟩,
    fun ctx hst hbusy => ⟨fun hdone => teardownComplete_done hst hbusy hdone, fun h => teardownComplete_waits h⟩⟩
  · obtain ⟨eff, hexec⟩ := exec_command c s i hi
    rw [hexec, command_lost hbusy]
  · obtain ⟨act, hexec⟩ := exec_link c s i hi
    exact ended_beyond hbusy hn hexec
  · obtain ⟨act, hexec⟩ := exec_group c s i hi
    exact ended_beyond hbusy hn hexec
  · exact context_unchanged hbusy (act := fun s => s.reside c.ctx.toNat) rfl (reside_bad (s := argued c s) h)
  · exact context_unchanged hbusy (act := fun s => s.clearCtx c.ctx.toNat) rfl (if_pos hst)
  · exact ended_unchanged hbusy (eff := fun s => s.teardown c.ctx.toNat) rfl (teardown_bad (s := argued c s) h)
  · exact preempt_refused hbusy hcore (Or.inr ⟨b, hfind, congrArg Prod.snd (latch_sameCtx (s := argued c s) htask hctx)⟩)
  · rw [inval_coreTlb, invalSet_asid hone] at he
    exact asid_of_kept e he
  · rw [inval_dieTlb, invalSet_asid hone] at he
    exact asid_of_kept e he
  · rw [inval_coreTlb, invalSet_all hall, keptEnts_all]
  · rw [inval_dieTlb, invalSet_all hall, keptEnts_all]
  · exact (if_neg (Nat.not_lt.2 hend)).trans (if_pos hleft)

end Sys2Proof.Proofs
end

section
/-! Sealing, timers, routine starts and link states (O51)
A flow's one flit is sealed and queued, a port sends what waits there, timeouts are reported, routines start, and links change
state through `setPort`. -/

namespace Sys2Proof.Proofs

open Sys2Proof Sys2Proof.Machine Sys2Proof.Laws

/-! ### A core's next packet (R374, R384) -/

theorem pick_nil {α : Type} (s : State) (k : Nat) : s.pick k ([] : List α) = none := rfl

theorem pick_one {α : Type} (s : State) (k : Nat) (x : α) : s.pick k [x] = some x := by
  unfold State.pick
  rw [List.length_singleton, Nat.mod_one]
  rfl

theorem exec_transmit_none {s : State} {core : CoreId}
    (h : (s.core core).arch.seq.flows.filter (fun p => (s.core core).canSend p.1 p.2) = []) :
    exec (.flitTransmit (.core core)) s = .next s := by
  dsimp only [exec, execFlitTransmit]
  rw [h, List.map_nil, pick_nil]

theorem exec_transmit_one {s : State} {core : CoreId} {n : Nat} {f : Flow}
    (h : (s.core core).arch.seq.flows.filter (fun p => (s.core core).canSend p.1 p.2) = [(n, f)]) :
    exec (.flitTransmit (.core core)) s = .next { (s.transmit core n) with free := s.free + 8 } := by
  dsimp only [exec, execFlitTransmit]
  rw [h, List.map_singleton, pick_one]

/-- A staged flit is a packet of its own. -/
theorem packetOf_staged {u : Unacked} (hsrc : u.src = none) (hring : u.ring = false) (s : State) (core : CoreId) (f : Flow) :
    s.packetOf core f [u] = [(u, u.hdr, u.payload)] := by
  unfold State.packetOf State.payloadOf
  simp [hsrc, hring]

/-- A flit as it stands once it has been sealed and sent. -/
def sentAs (now slot no : Nat) (u : Unacked) : Unacked :=
  { u with sent := true, again := false, sentAt := now, sealNo := no, hdr := { u.hdr with kp := BitVec.ofNat 1 slot } }

theorem markSent_one {c : Core} {n : Nat} {f : Flow} {u : Unacked} (hflow : c.flow n = f) (hone : f.unacked = [u]) (hmode : f.mode ≠ 2)
    (hops : c.arch.seq.ops = []) (now slot : Nat) (fresh : Bool) : ∃ seals credit, c.markSent now n slot [u.fsn] fresh =
      c.setFlow n { f with unacked := [sentAs now slot (f.seals + 1) u], seals := seals, credit := credit } := by
  refine ⟨f.seals + 1, f.credit - (if fresh then u.size else 0), Eq.trans (settleOps_none ?_) ?_⟩
  · exact hops
  · simp [hflow, hone, hmode, sentAs]

/-- The only flit of a packet keeps its header. -/
theorem packetHdrs_one {h : FlitHdr} (hptype : h.ptype = 1) (hfidx : h.fidx = 0) (hfcnt : h.fcnt = 0) {ring : Bool}
    (hring : ring = false) (bs : List Byte) : packetHdrs [(h, bs)] ring = [(h, bs)] := by
  cases h
  dsimp only at hptype hfidx hfcnt
  subst hptype hfidx hfcnt hring
  rfl

section Transmit

variable {s : State} {core : CoreId} {n : Nat} {f : Flow} {u : Unacked} (hflow : (s.core core).flow n = f) (hnext : f.nextPacket = [u])
  (hsrc : u.src = none) (hring : u.ring = false)

include hflow hnext hsrc hring

theorem transmit_dropped (hinject : s.dev.mayInject u.hdr = false) : s.transmit core n =
    (s.setCore core ((s.core core).markSent s.dtime n 0 [u.fsn] (!u.again))).membershipDrop core u.hdr := by
  unfold State.transmit
  dsimp only
  rw [hflow, hnext, packetOf_staged hsrc hring]
  simp only [hinject, Bool.not_false, if_true, List.map_cons, List.map_nil, List.all_cons, List.all_nil, Bool.and_true]

theorem transmit_exhausted (hinject : s.dev.mayInject u.hdr = true) (hseal : (s.dev.jobKey f.job).sealing 1 = none)
    (hwait : (s.dev.jobKey f.job).mayWait = false) : s.transmit core n = s.keyExhausted core n (s.dev.jobKey f.job) := by
  unfold State.transmit
  dsimp only
  rw [hflow, hnext, packetOf_staged hsrc hring]
  simp only [hinject, hring, hseal, hwait, Bool.not_true, Bool.false_eq_true, if_false]

theorem transmit_sealed {slot p : Nat} {vc : BitVec 3} {rmb : BitVec 1} {igrp : BitVec 11} (hinject : s.dev.mayInject u.hdr = true)
    (hseal : (s.dev.jobKey f.job).sealing 1 = some slot) (hfar : u.hdr.drank.toNat ≠ Config.rank)
    (hcast : isMcast u.hdr.drank.toNat = false) (hway : s.way u.hdr (decide (f.cls = 0)) 0 = .out p vc rmb igrp)
    (hptype : u.hdr.ptype = 1) (hfidx : u.hdr.fidx = 0) (hfcnt : u.hdr.fcnt = 0) :
    let v := s.setCore core ((s.core core).markSent s.dtime n slot [u.fsn] (!u.again))
    s.transmit core n = (v.sealUnder slot u.hdr u.payload).2.sendOn (.out p vc rmb igrp) none (v.sealUnder slot u.hdr u.payload).1 := by
  intro v
  have hleft : 1 ≤ ((s.dev.jobKey f.job).slot slot).left := of_decide_eq_true (Option.filter_eq_some_iff.1 hseal).2
  have htake : [(u, u.hdr, u.payload)].take ((s.dev.jobKey f.job).slot slot).left = [(u, u.hdr, u.payload)] :=
    List.take_of_length_le hleft
  have hhdr : packetHdrs [(u.hdr, u.payload)] false = [(u.hdr, u.payload)] := packetHdrs_one hptype hfidx hfcnt rfl _
  unfold State.transmit
  dsimp only
  rw [hflow, hnext, packetOf_staged hsrc hring]
  simp only [hinject, hring, hseal, htake, hhdr, hcast, hway, Bool.not_true, Bool.false_eq_true, if_false, List.map_cons, List.map_nil,
    List.zip_cons_cons, List.zip_nil_right, List.all_cons, List.all_nil, Bool.and_true, reduceCtorEq, and_false]
  unfold State.sendPacket
  simp only [hcast, hfar, Bool.false_eq_true, if_false, List.foldl_cons, List.foldl_nil]
  rw [show v.way u.hdr (decide (f.cls = 0)) 0 = .out p vc rmb igrp from hway]

end Transmit

/-- The packet that sealing makes (R374). -/
theorem sealUnder_packet (s : State) (slot : Nat) (h : FlitHdr) (pt : List Byte) :
    let x := (s.dev.jobKey h.job.toNat).slot slot
    let g : FlitHdr := { h with kp := BitVec.ofNat 1 slot, ivc := BitVec.ofNat 64 x.ivc }
    (s.sealUnder slot h pt).1 = ⟨0, g, (gcmSeal x.key (hdrIv g) (hdrAad g) pt).1, (gcmSeal x.key (hdrIv g) (hdrAad g) pt).2⟩ := by
  intro x g
  unfold State.sealUnder
  dsimp only

theorem Raised.flow {c d : Core} (h : Raised c d) (n : Nat) : d.flow n = c.flow n := by
  obtain ⟨es, harch, -⟩ := h
  rw [Core.flow, harch]
  rfl

theorem flow_flowStops (c : Core) (core n : Nat) (code : BitVec 8) : (c.flowStops core n code).flow n =
    { c.flow n with st := .faulted, code := code } :=
  (flow_flowEvent (c.flowStops core n code) 0 n 0 code 0 none _ 0 0 0 n).symm.trans
    (flow_flowFault c 0 core n code 0 0 none 0 0 0)

section Transmitted

variable {s : State} {core : CoreId} {n : Nat} {f : Flow} {u : Unacked}
  (hflow : (s.core core).flow n = f) (hnext : f.nextPacket = [u]) (hsrc : u.src = none) (hring : u.ring = false)

include hflow hnext hsrc hring

theorem transmit_dropped_event (hone : f.unacked = [u]) (hmode : f.mode ≠ 2) (hops : (s.core core).arch.seq.ops = [])
    (hinject : s.dev.mayInject u.hdr = false) : let t := s.transmit core n
    ∃ v : TEvent, (t.core core).arch.seq.evwaitq = (s.core core).arch.seq.evwaitq ++ [v] ∧ v.evt = 0x0C ∧
      v.flow = u.hdr.flow.toNat ∧ t.wire = s.wire := by
  obtain ⟨seals, credit, hmark⟩ := markSent_one hflow hone hmode hops s.dtime 0 (!u.again)
  intro t
  rw [show t = _ from transmit_dropped hflow hnext hsrc hring hinject, hmark, State.membershipDrop, core_modCore_self,
    core_setCore_self]
  exact ⟨_, rfl, rfl, rfl, rfl⟩

theorem transmit_exhausted_flow (hinject : s.dev.mayInject u.hdr = true) (hseal : (s.dev.jobKey f.job).sealing 1 = none)
    (hwait : (s.dev.jobKey f.job).mayWait = false) : let t := s.transmit core n
    (t.core core).flow n = { f with st := .faulted, code := Code.keyExhausted } ∧ t.wire = s.wire := by
  intro t
  rw [show t = _ from transmit_exhausted hflow hnext hsrc hring hinject hseal hwait, State.keyExhausted]
  refine ⟨((OnlySends.raise _ _ _).cores core).flow n |>.trans ?_, rfl⟩
  rw [core_modCore_self, flow_flowStops, hflow]

theorem transmit_sealed_flit {slot p : Nat} {vc : BitVec 3} {rmb : BitVec 1} {igrp : BitVec 11} (hone : f.unacked = [u])
    (hmode : f.mode ≠ 2) (hops : (s.core core).arch.seq.ops = []) (hptype : u.hdr.ptype = 1) (hfidx : u.hdr.fidx = 0)
    (hfcnt : u.hdr.fcnt = 0) (hjob : u.hdr.job.toNat = f.job) (hp : p < 79) (hinject : s.dev.mayInject u.hdr = true)
    (hseal : (s.dev.jobKey f.job).sealing 1 = some slot) (hfar : u.hdr.drank.toNat ≠ Config.rank)
    (hcast : isMcast u.hdr.drank.toNat = false) (hway : s.way u.hdr (decide (f.cls = 0)) 0 = .out p vc rmb igrp) :
    let x := (s.dev.jobKey f.job).slot slot
    let h : FlitHdr := { u.hdr with kp := BitVec.ofNat 1 slot, ivc := BitVec.ofNat 64 x.ivc }
    let y := gcmSeal x.key (hdrIv h) (hdrAad h) u.payload
    let t := s.transmit core n
    t.wire = s.wire ∧
      (t.dev.port p).outq = (s.dev.port p).outq ++ [⟨⟨p, { h with vc := vc, rmb := rmb, igrp := igrp }, y.1, y.2⟩, none, none⟩] ∧
      ((t.dev.jobKey f.job).slot slot).ivc = x.ivc + 1 ∧
      ∃ w, ((t.core core).flow n).unacked = [w] ∧ w.fsn = u.fsn ∧ w.sent = true ∧ w.sentAt = s.dtime := by
  obtain ⟨seals, credit, hmark⟩ := markSent_one hflow hone hmode hops s.dtime slot (!u.again)
  intro x h y t
  rw [show t = _ from transmit_sealed hflow hnext hsrc hring hinject hseal hfar hcast hway hptype hfidx hfcnt, hmark]
  generalize hv : s.setCore core _ = v
  have hvdev : v.dev = s.dev := by rw [← hv]; rfl
  have hsends := (sealUnder_sends v slot u.hdr u.payload).trans
    (sendOn_sends _ (.out p vc rmb igrp) none (v.sealUnder slot u.hdr u.payload).1)
  have hdev := sealUnder_dev v slot u.hdr u.payload
  have hpacket : (v.sealUnder slot u.hdr u.payload).1 = ⟨0, h, y.1, y.2⟩ := by
    have hseal' := sealUnder_packet v slot u.hdr u.payload
    rw [hvdev, hjob] at hseal'
    exact hseal'
  have hport : (v.sealUnder slot u.hdr u.payload).2.dev.port p = s.dev.port p := by
    rw [hdev, hvdev]
    rfl
  refine ⟨hsends.wire.trans (by rw [← hv]; rfl), ?_, ?_, sentAs s.dtime slot (f.seals + 1) u, ?_, rfl, rfl, rfl⟩
  · rw [hpacket]
    refine (congrArg Port.outq (port_modPort_self hp _)).trans ?_
    rw [hport]
    rfl
  · rw [jobKey_of_keys (sendOn_keys _ _ _ _), hdev, ← hjob, jobKey_modSlot, slot_setSlot_self, hvdev, hjob]
  · refine (congrArg Flow.unacked ((hsends.cores core).flow n)).trans ?_
    rw [← hv, core_setCore_self, flow_setFlow_self]

end Transmitted

/-! ### What a port sends (R295) -/

theorem choose_nil (w : Walker) (cap win : Nat) : w.choose cap win [] = none := rfl

theorem eff_le {k : Nat} (hk : k ≤ 3) (w : Walker) (cap win : Nat) : w.eff cap win k ≤ 3 := by
  unfold Walker.eff
  split
  · repeat' split
    all_goals omega
  · exact hk

/-- In a new round every class has grants left. -/
theorem newRound_left (w : Walker) (k : Nat) : 0 < w.newRound.left k := by
  unfold Walker.left Walker.newRound
  split
  · exact Nat.succ_pos 7
  · split
    · exact Nat.succ_pos 3
    · exact Nat.succ_pos 0

/-- The class of a single request is granted. -/
theorem choose_one {k : Nat} (hk : k ≤ 3) (w : Walker) (cap win : Nat) :
    ∃ v, w.choose cap win [k] = some (w.eff cap win k, v) := by
  have hle := eff_le hk w cap win
  unfold Walker.choose
  simp only [List.map_cons, List.map_nil]
  generalize w.eff cap win k = e at hle ⊢
  by_cases he : e = 0
  · subst he
    exact ⟨_, rfl⟩
  · have hhas : [1, 2, 3].filter [e].contains = [e] := by
      obtain rfl | rfl | rfl : e = 1 ∨ e = 2 ∨ e = 3 := by omega
      all_goals rfl
    have hno : ¬ [e].contains 0 = true := by simpa using fun h => he h.symm
    have hleft : 0 < (if [e].any (fun k => decide (0 < w.left k)) then w else w.newRound).left e := by
      split
      next h => simpa using h
      next => exact newRound_left w e
    rw [if_neg hno, hhas]
    generalize (if [e].any (fun k => decide (0 < w.left k)) then w else w.newRound) = v at hleft ⊢
    simp only [List.find?_cons, hleft, decide_true, Option.map_some]
    exact ⟨_, rfl⟩

theorem vcClass_le (vc : Nat) : vcClass vc ≤ 3 := by
  unfold vcClass
  repeat' split
  all_goals decide

/-- A port with one flit that is not held sends it. -/
theorem next_one {p : Port} {o : OutFlit} (hout : p.outq = [o]) (hheld : o.held = none) (num win : Nat) :
    ∃ w, p.next num win = some (o, { p with outq := [], arb := w }) := by
  have hready : p.outq.filter (fun o => o.held.isNone) = [o] := by
    rw [hout, List.filter_cons_of_pos (by rw [hheld]; rfl), List.filter_nil]
  have herase : p.outq.erase o = [] := by rw [hout, List.erase_cons_head]
  unfold Port.next
  simp only [hready, List.map_cons, List.map_nil]
  by_cases hvc : o.x.hdr.vc.toNat ≤ 1 + p.dataVcs num
  · obtain ⟨w, hw⟩ := choose_one (vcClass_le o.x.hdr.vc.toNat) p.arb (p.cap num) win
    rw [List.find?_cons_of_neg (by simpa using hvc), List.find?_nil]
    simp only [hw, List.find?_cons, decide_true, Option.map_some, herase]
    exact ⟨_, rfl⟩
  · rw [List.find?_cons_of_pos (by simpa using hvc)]
    simp only [herase]
    exact ⟨_, rfl⟩

theorem next_empty {p : Port} (h : p.outq = []) (num win : Nat) : p.next num win = none := by
  unfold Port.next
  simp only [h, List.filter_nil, List.find?_nil, List.map_nil, choose_nil]

theorem exec_portSend_none {s : State} {port : Nat} (h : s.dev.carries port = false ∨ (s.dev.port port).outq = []) :
    exec (.flitTransmit (.port port)) s = .next s := by
  have hexec : exec (.flitTransmit (.port port)) s = .next (s.portSend port) := rfl
  rw [hexec, State.portSend]
  rcases h with h | h
  · rw [h]
    rfl
  · rw [next_empty h, ite_self]

theorem exec_portSend_one {s : State} {port : Nat} {o : OutFlit} (hp : port < 79) (hcarries : s.dev.carries port = true)
    (hout : (s.dev.port port).outq = [o]) (hheld : o.held = none) : ∃ t : State, exec (.flitTransmit (.port port)) s = .next t ∧
      t.wire = s.wire ++ [o.x] ∧ (t.dev.port port).outq = [] ∧ t.cores = s.cores := by
  obtain ⟨w, hw⟩ := next_one hout hheld port (s.uncore / 4096)
  have hexec : exec (.flitTransmit (.port port)) s = .next (s.portSend port) := rfl
  rw [hexec, State.portSend, hcarries, hw]
  exact ⟨_, rfl, rfl, congrArg Port.outq (port_modPort_self hp _), rfl⟩

/-! ### Timeouts (R372, R397) -/

/-- Without a MARKER that waits there is nothing to report. -/
theorem markerTimeout_idle {s : State} {core : CoreId} {n : Nat}
    (h : ∀ i, i < 2 → ((s.dev.jobKey ((s.core core).flow n).job).slot i).await = []) : s.markerTimeout core n = s := by
  have h0 : (s.dev.jobKey ((s.core core).flow n).job).s0.await = [] := h 0 (by decide)
  have h1 : (s.dev.jobKey ((s.core core).flow n).job).s1.await = [] := h 1 (by decide)
  unfold State.markerTimeout
  simp only [h0, h1, List.find?_nil]

theorem flowEvent_raises (c : Core) (now n : Nat) (evt code : BitVec 8) (peer : Nat) (port : Option Nat) (kp fsn0 fsn1 arg : Nat) :
    ∃ v, c.flowEvent now n evt code peer port kp fsn0 fsn1 arg = c.raise v ∧ v.evt = evt ∧ v.flow = n ∧
      v.fsn0 = BitVec.ofNat 32 fsn0 ∧ v.peer = peer := ⟨_, rfl, rfl, rfl, rfl, rfl⟩

/-- The oldest flit in flight is overdue. -/
def overdue (s : State) (f : Flow) (fsn : Nat) (u : Unacked) : Bool :=
  f.st = .opened && f.mode ≠ 2 && u.fsn = fsn && decide (u.sentAt + f.rto ≤ s.dtime) && !u.again

theorem exec_retransmitTimeout (core : CoreId) (n fsn : Nat) (hn : n < 1024) (s : State) : let c := s.core core
    let f := c.flow n
    exec (.retransmitTimeout core n fsn) s = .next (match (f.unacked.find? (fun u => u.sent)).filter (overdue s f fsn) with
      | none => s.markerTimeout core n
      | some u =>
        if f.auto ∧ f.rlim ≤ u.tries then s.setCore core (c.sendAgain s.dtime core.val n [u.fsn])
        else
          let c := c.setFlow n { f with unacked := f.unacked.map (fun (v : Unacked) => if v.fsn = u.fsn then { v with sentAt := s.dtime } else v) }
          let c := c.flowEvent s.dtime n 0x04 0 f.peer none u.hdr.kp.toNat u.fsn u.tries 0
          s.setCore core (if f.auto then c.sendAgain s.dtime core.val n [u.fsn] else c)) := by
  intro c f
  have hmod : n % 1024 = n := Nat.mod_eq_of_lt hn
  dsimp only [exec, execRetransmitTimeout]
  rw [hmod]
  rfl

section Timeout

variable {s : State} {core : CoreId} {n : Nat} {u : Unacked} (hn : n < 1024)
  (hfind : ((s.core core).flow n).unacked.find? (fun u => u.sent) = some u)

include hn hfind

theorem exec_timeout_early (hlate : overdue s ((s.core core).flow n) u.fsn u = false)
    (hawait : ∀ i, i < 2 → ((s.dev.jobKey ((s.core core).flow n).job).slot i).await = []) :
    exec (.retransmitTimeout core n u.fsn) s = .next s := by
  rw [exec_retransmitTimeout core n u.fsn hn, hfind, Option.filter_some, hlate]
  exact congrArg _ (markerTimeout_idle hawait)

theorem exec_timeout_reported (hlate : overdue s ((s.core core).flow n) u.fsn u = true) (hopen : ((s.core core).flow n).st = .opened)
    (hauto : ((s.core core).flow n).auto = false) : ∃ (t : State) (v : TEvent), exec (.retransmitTimeout core n u.fsn) s = .next t ∧
      (t.core core).arch.seq.evwaitq = (s.core core).arch.seq.evwaitq ++ [v] ∧ v.evt = 0x04 ∧ v.flow = n ∧
      v.fsn0 = BitVec.ofNat 32 u.fsn ∧ v.peer = ((s.core core).flow n).peer ∧ ((t.core core).flow n).st = .opened := by
  rw [exec_retransmitTimeout core n u.fsn hn, hfind, Option.filter_some, hlate]
  simp only [hauto, Bool.false_eq_true, false_and, if_false, if_true]
  obtain ⟨v, hraise, hevt, hflow, hfsn, hpeer⟩ := flowEvent_raises ((s.core core).setFlow n { (s.core core).flow n with
    auto := false
    unacked := ((s.core core).flow n).unacked.map (fun (v : Unacked) => if v.fsn = u.fsn then { v with sentAt := s.dtime } else v) })
    s.dtime n 0x04 0 ((s.core core).flow n).peer none u.hdr.kp.toNat u.fsn u.tries 0
  refine ⟨_, v, rfl, ?_, hevt, hflow, hfsn, hpeer, ?_⟩
  · rw [core_setCore_self, hraise]
    rfl
  · rw [core_setCore_self, flow_flowEvent, flow_setFlow_self]
    exact hopen

theorem exec_timeout_gives_up (hlate : overdue s ((s.core core).flow n) u.fsn u = true) (hopen : ((s.core core).flow n).st = .opened)
    (hauto : ((s.core core).flow n).auto = true) (htries : ((s.core core).flow n).rlim ≤ u.tries)
    (hone : ((s.core core).flow n).unacked = [u]) (hagain : u.again = false) : ∃ t : State,
      exec (.retransmitTimeout core n u.fsn) s = .next t ∧ ((t.core core).flow n).st = .faulted ∧
      ((t.core core).flow n).code = Code.deliveryTimeout := by
  have hsent : u.sent = true := List.find?_some hfind
  rw [exec_retransmitTimeout core n u.fsn hn, hfind, Option.filter_some, hlate]
  simp only [hauto, htries, and_self, if_true]
  have hgive : (s.core core).sendAgain s.dtime core.val n [u.fsn] = (s.core core).flowFault s.dtime core.val n Code.deliveryTimeout
      0x04 ((s.core core).flow n).peer none ((s.core core).flow n).oldest u.tries 0 := by
    unfold Core.sendAgain
    simp only [List.foldl_cons, List.foldl_nil, hone, List.find?_cons, hsent, hagain, decide_true, Bool.not_false, Bool.and_self,
      hopen, ne_eq, not_true_eq_false, if_false, htries, if_true]
  have hfault : ((s.core core).sendAgain s.dtime core.val n [u.fsn]).flow n =
      { (s.core core).flow n with st := .faulted, code := Code.deliveryTimeout } := by
    rw [hgive]
    exact flow_flowFault ..
  refine ⟨_, rfl, ?_⟩
  rw [core_setCore_self, hfault]
  exact ⟨rfl, rfl⟩

end Timeout

/-! ### Alignment (R415) -/

theorem exec_alignment {s : State} {port : Nat} {o : OutFlit} {at' : Nat} (hout : (s.dev.port port).outq = [o]) (hheld : o.held = some at') :
    exec (.alignmentTimeout port) s = .next (if at' + 256 ≤ s.dtime then
      s.modDev (fun d => d.modPort port (fun p => p.unhold o.x.hdr)) else s) := by
  dsimp only [exec, execAlignmentTimeout]
  rw [hout, List.find?_cons_of_pos (by rw [hheld]; rfl)]
  simp only [hheld, Option.getD_some]

theorem unhold_one {p : Port} {o : OutFlit} {at' : Nat} (hout : p.outq = [o]) (hheld : o.held = some at') :
    (p.unhold o.x.hdr).outq = [{ o with held := none }] := by
  simp [Port.unhold, hout, hheld, sameRed]

/-! ### Events and routine starts (R389, R390, R395) -/

theorem exec_eventPost (core : CoreId) (s : State) : exec (.transportEventPost core) s = .next (match (s.core core).arch.seq.evwaitq with
    | [] => s
    | _ :: _ =>
      if 512 ≤ (s.core core).arch.seq.evq.length then s
      else s.modCore core (fun c => c.keep (fun a =>
        { a with seq := { a.seq with
          evq := a.seq.evq ++ (a.seq.evwaitq.take 1).map (fun e => { e with time := BitVec.ofNat 64 s.dtime })
          evwaitq := a.seq.evwaitq.drop 1 } }))) := rfl

theorem exec_eventPost_one {s : State} {core : CoreId} {e : TEvent} {es : List TEvent}
    (h : (s.core core).arch.seq.evwaitq = e :: es) (hroom : (s.core core).arch.seq.evq.length < 512) : ∃ t : State,
      exec (.transportEventPost core) s = .next t ∧
      (t.core core).arch.seq.evq = (s.core core).arch.seq.evq ++ [{ e with time := BitVec.ofNat 64 s.dtime }] ∧
      (t.core core).arch.seq.evwaitq = es := by
  rw [exec_eventPost, h]
  simp only [if_neg (Nat.not_le.2 hroom)]
  refine ⟨_, rfl, ?_, ?_⟩
  · rw [core_modCore_self]
    simp only [Core.keep, h, List.take_succ_cons, List.take_zero, List.map_cons, List.map_nil]
  · rw [core_modCore_self]
    simp only [Core.keep, h, List.drop_succ_cons, List.drop_zero]

/-! Reading memory looks at nothing of a core but its translations. -/

theorem xlate_congr {s t : State} {core : CoreId} (hdev : t.dev = s.dev) (hfree : t.free = s.free) (hnow : t.now = s.now)
    (htlb : t.cores[core].tlb = s.cores[core].tlb) (ctx va unit : Nat) : t.xlate core ctx va unit = s.xlate core ctx va unit := by
  unfold State.xlate State.cached
  rw [hdev, hfree, hnow, htlb]

theorem readVirt_congr {s t : State} {core : CoreId} (hdev : t.dev = s.dev) (hfree : t.free = s.free) (hnow : t.now = s.now)
    (htlb : t.cores[core].tlb = s.cores[core].tlb) (ctx : Nat) (need : Need) (fuel va n : Nat) :
    t.readVirt core ctx need fuel va n = s.readVirt core ctx need fuel va n := by
  have haccess (va : Nat) : t.access core ctx va need = s.access core ctx va need := by
    unfold State.access
    rw [xlate_congr hdev hfree hnow htlb, hdev]
  induction fuel generalizing va n with
  | zero => rfl
  | succ fuel ih =>
    unfold State.readVirt
    simp only [haccess, ih, hdev]

/-- The sequencer as a routine starts. -/
def routineStarted (r : Routine) (rest : List Routine) (now : Nat) (q : Seq) : Seq :=
  { q with startq := rest, running := true, routine := some r, lastCtx := some r.ctx
           x := (Vector.replicate 16 (0 : W64)).set 1 (BitVec.ofNat 64 r.bundleVa), pc := 0, stallSince := none, busy := now + 1 }

/-- The state as a routine starts, before its bytes are read. -/
def startingOther (r : Routine) (rest : List Routine) (s : State) : State :=
  ((s.modHere (fun c => c.shadeRun .seqLmem .own 512 0 (2 ^ 18))).modSeq (fun q => { q with lmem := [] })).modSeq
    (routineStarted r rest s.cycle)

theorem seqStart_other {s : State} {r : Routine} {rest : List Routine} (h : s.seq.lastCtx = none) : s.seqStart r rest =
    match (startingOther r rest s).readVa s.cur.core r.ctx .r r.trout r.tlen with
    | .error (code, _) => (startingOther r rest s).seqEnd code
    | .ok (bs, _) => (startingOther r rest s).lwrite 0 bs := by
  have hother : decide (s.here.arch.seq.lastCtx ≠ some r.ctx) = true := decide_eq_true (by
    rw [show s.here.arch.seq.lastCtx = none from h]
    exact fun h => (nomatch h))
  unfold State.seqStart
  dsimp only
  rw [hother]
  rfl

theorem startingOther_seq (r : Routine) (rest : List Routine) (s : State) :
    (startingOther r rest s).seq = routineStarted r rest s.cycle { s.seq with lmem := [] } := by
  rw [startingOther, seq_modSeq, seq_modSeq, seq_modHere_arch (shadeRun_arch _ _ _ _ _ _)]

theorem shadeRun_tlb (c : Core) (st : StoreId) (w : Writer) (gran first n : Nat) : (c.shadeRun st w gran first n).tlb = c.tlb := by
  unfold Core.shadeRun
  split
  · rfl
  · refine List.foldlRecOn (motive := fun d : Core => d.tlb = c.tlb) _ _ rfl fun d hd j _ => ?_
    unfold Core.shade
    dsimp only
    split <;> exact hd

theorem tlb_modSeq (c : Core) (f : Seq → Seq) : (c.modSeq f).tlb = c.tlb := rfl

theorem startingOther_readVa (r : Routine) (rest : List Routine) (s : State) (ctx : Nat) (need : Need) (va n : Nat) :
    (startingOther r rest s).readVa s.cur.core ctx need va n = s.readVa s.cur.core ctx need va n := by
  have hhere : (startingOther r rest s).here.tlb = s.here.tlb := by
    rw [startingOther, here_modSeq, here_modSeq, here_modHere, tlb_modSeq, tlb_modSeq, shadeRun_tlb]
  unfold State.readVa
  exact readVirt_congr (s := s) (t := startingOther r rest s) rfl rfl rfl hhere ctx need _ va n

theorem exec_sequencerStart_done {s : State} {core : CoreId} {r : Routine} {rest : List Routine} {bs : List Byte} {po : Bool}
    (hstart : (s.core core).arch.seq.startq = r :: rest) (hidle : (s.core core).arch.seq.running = false)
    (hblocked : (s.core core).blocked = false) (hlast : (s.core core).arch.seq.lastCtx = none)
    (hread : s.readVa core r.ctx .r r.trout r.tlen = .ok (bs, po)) : ∃ t : State, exec (.sequencerStart core) s = .next t ∧
      (t.core core).arch.seq.running = true ∧ (t.core core).arch.seq.pc = 0 ∧ (t.core core).arch.seq.startq = rest ∧
      (t.core core).arch.seq.routine = some r ∧ (t.core core).arch.seq.getX 1 = BitVec.ofNat 64 r.bundleVa ∧
      ∀ k (h : k < bs.length), Store.get 0 (t.core core).arch.seq.lmem k = bs[k] := by
  let c : State := { s with cur := ⟨core, .c⟩ }
  have hread' : (startingOther r rest c).readVa c.cur.core r.ctx .r r.trout r.tlen = .ok (bs, po) := by
    rw [startingOther_readVa]
    exact (readVirt_congr (s := s) (t := c) rfl rfl rfl rfl _ _ _ _ _).trans hread
  have hbegin : c.seqStart r rest = (startingOther r rest c).lwrite 0 bs := by
    rw [seqStart_other (s := c) hlast, hread']
  have hexec : exec (.sequencerStart core) s = .next ((startingOther r rest c).lwrite 0 bs).bumpFree := by
    dsimp only [exec, execSequencerStart]
    rw [show State.seq { s with cur := ⟨core, .c⟩ } = (s.core core).arch.seq from rfl, hstart]
    simp only
    rw [if_neg, show State.seqStart { s with cur := ⟨core, .c⟩ } r rest = _ from hbegin]
    rintro (h | h)
    · exact Bool.false_ne_true (hidle.symm.trans h)
    · exact Bool.false_ne_true (hblocked.symm.trans h)
  have hseq : (((startingOther r rest c).lwrite 0 bs).bumpFree.core core).arch.seq =
      { routineStarted r rest c.cycle { c.seq with lmem := [] } with lmem := Store.put 0 [] 0 bs } := by
    refine (lwrite_seq (startingOther r rest c) 0 bs).trans ?_
    rw [startingOther_seq]
    rfl
  refine ⟨_, hexec, ?_⟩
  rw [hseq]
  refine ⟨rfl, rfl, rfl, rfl, rfl, fun k hk => ?_⟩
  refine (get_put_getElem _ _ _ _ _).trans ((dif_pos ⟨Nat.zero_le k, hk⟩).trans ?_)
  rfl

theorem exec_evwaitTimeout {s : State} {core : CoreId} {f : SeqW} : let c : State := { s with cur := ⟨core, .c⟩ }
    c.seqFetch = .go (.evwait f) c → exec (.evwaitTimeout core) s =
      .next (if c.evwaitOver f then c.seqWrites f.a (BitVec.ofNat 64 (s.core core).arch.seq.evq.length) else c) := by
  intro c h
  have hexec : exec (.evwaitTimeout core) s = match c.seqFetch with
      | .go (.evwait f) t => if t.evwaitOver f then runSeq t (fun t => t.evwaitDone f) else .next c
      | _ => .next c := rfl
  rw [hexec, h]
  simp only
  split
  · exact runSeq_seqSet c f _
  · rfl

theorem exec_dlineDeadline {s : State} {core : CoreId} {f : SeqW} : let c : State := { s with cur := ⟨core, .c⟩ }
    c.seqFetch = .go (.dline f) c → exec (.dlineDeadline core) s =
      .next (if ((s.core core).arch.seq.ea f).toNat ≤ s.dtime then c.seqWrites f.a (BitVec.ofNat 64 s.dtime) else c) := by
  intro c h
  have hexec : exec (.dlineDeadline core) s = match c.seqFetch with
      | .go (.dline f) t =>
        if (t.seq.ea f).toNat ≤ t.dtime then runSeq t (fun t => seqSet f t (fun _ => BitVec.ofNat 64 t.dtime)) else .next c
      | _ => .next c := rfl
  rw [hexec, h]
  simp only
  split
  · next hle => exact (runSeq_seqSet c f _).trans (congrArg _ (if_pos hle).symm)
  · next hgt => exact congrArg _ (if_neg hgt).symm

/-! ### Links (R366, R367) -/

/-- The state that a link's event leads to. -/
theorem port_after {s : State} {port : Nat} (hp : port < 79) {i : Instr} {q : Port} (h : exec i s = .next (s.setPort port q)) :
    ∃ t : State, exec i s = .next t ∧ t.dev.port port = q := ⟨_, h, setPort_port hp q⟩

section Links

variable {s : State} {port : Nat}

theorem exec_laneLoss {lost w : Nat} (hlost : 0 < lost) (hst : (s.dev.port port).st = .up ∨ (s.dev.port port).st = .degraded)
    (hw : portWidth port ((s.dev.port port).active - lost) = w) : exec (.laneLoss port lost) s = .next (s.setPort port
      { s.dev.port port with active := if w = 0 then (s.dev.port port).active - lost else w
                             st := workingState port w (s.dev.port port) }) := by
  subst hw
  refine congrArg _ (if_neg ?_)
  rintro (h | h)
  · omega
  · rcases hst with hst | hst <;> rw [hst] at h <;> cases h

theorem exec_blockRetire_working (hst : (s.dev.port port).st = .up) {q : Port}
    (hq : q = { s.dev.port port with retired := min 64 ((s.dev.port port).retired + 1) }) :
    exec (.blockRetire port) s = .next (s.setPort port { q with st := workingState port q.active q }) := by
  subst hq
  exact congrArg _ (if_pos (Or.inl hst))

theorem exec_blockRetire_down (hp : port < 79) (hst : (s.dev.port port).st = .down) (hret : (s.dev.port port).retired < 64) :
    exec (.blockRetire port) s = .next (s.modDev (fun d => d.modPort port (fun q => { q with retired := q.retired + 1 }))) := by
  have hmin : min 64 ((s.dev.port port).retired + 1) = (s.dev.port port).retired + 1 := by omega
  have hexec : exec (.blockRetire port) s = .next (s.setPort port { s.dev.port port with retired := min 64 ((s.dev.port port).retired + 1) }) :=
    congrArg _ (if_neg (by rw [hst]; decide))
  rw [hexec, hmin]
  refine congrArg _ ?_
  unfold State.setPort
  dsimp only
  rw [if_neg (by omega), if_neg (by rw [hst]; simp)]
  refine congrArg (fun d => { s with dev := d }) ?_
  simp only [Dev.modPort, Dev.port, hp, dif_pos]

theorem exec_trainingDone {passing w : Nat} (hst : (s.dev.port port).st = .training) (hw : portWidth port passing = w) :
    exec (.trainingDone port passing) s = .next (s.setPort port
      { s.dev.port port with active := if w = 0 then min passing (portFull port) else w, st := workingState port w (s.dev.port port)
                             llr := Config.freeBool s.free 16, lfc := Config.freeBool s.free 17 }).bumpFree := by
  subst hw
  exact congrArg _ (if_neg (fun h => h hst))

theorem portFull_pos (port : Nat) : portFull port ≠ 0 := by
  unfold portFull
  split <;> decide

theorem workingState_full {p : Port} (hblocks : 4 ≤ p.blocks) :
    workingState port (portFull port) p = if p.retired = 0 then .up else .degraded := by
  unfold workingState
  rw [if_neg (by rintro (h | h); exacts [portFull_pos port h, absurd hblocks (Nat.not_le.2 h)])]
  simp only [true_and]

theorem workingState_narrow {p : Port} {w : Nat} (hw : w ≠ 0) (hblocks : 4 ≤ p.blocks) (h : w ≠ portFull port ∨ p.retired ≠ 0) :
    workingState port w p = .degraded := by
  unfold workingState
  rw [if_neg (by rintro (h | h); exacts [hw h, absurd hblocks (Nat.not_le.2 h)])]
  exact if_neg fun hfull => h.elim (fun h => h hfull.1) (fun h => h hfull.2)

theorem workingState_none (p : Port) : workingState port 0 p = .failed := if_pos (Or.inl rfl)

variable (hp : port < 79)

include hp

theorem laneLoss_clause {lost : Nat} (hlost : 0 < lost) (hst : (s.dev.port port).st = .up ∨ (s.dev.port port).st = .degraded) :
    let p := s.dev.port port
    let w := portWidth port (p.active - lost)
    (w ≠ 0 → w < portFull port → 4 ≤ p.blocks → ∃ t : State, exec (.laneLoss port lost) s = .next t ∧
      t.dev.port port = { p with st := .degraded, active := w }) ∧
    (w = 0 → ∃ t : State, exec (.laneLoss port lost) s = .next t ∧ (t.dev.port port).st = .failed) := by
  intro p w
  refine ⟨fun hw hlt hblocks => ?_, fun hw => ?_⟩
  · have hexec := exec_laneLoss hlost hst (w := w) rfl
    rw [if_neg hw, workingState_narrow hw hblocks (Or.inl (Nat.ne_of_lt hlt))] at hexec
    exact port_after hp hexec
  · have hexec := exec_laneLoss hlost hst hw
    rw [workingState_none] at hexec
    obtain ⟨t, ht, hport⟩ := port_after hp hexec
    exact ⟨t, ht, congrArg Port.st hport⟩

theorem blockRetire_clause (hst : (s.dev.port port).st = .up) (hret : (s.dev.port port).retired < 60)
    (hactive : 0 < (s.dev.port port).active) : ∃ t : State, exec (.blockRetire port) s = .next t ∧
      t.dev.port port = { s.dev.port port with st := .degraded, retired := (s.dev.port port).retired + 1 } := by
  have hmin : min 64 ((s.dev.port port).retired + 1) = (s.dev.port port).retired + 1 := by omega
  have hexec := exec_blockRetire_working hst (q := { s.dev.port port with retired := (s.dev.port port).retired + 1 }) (by rw [hmin])
  rw [workingState_narrow (Nat.ne_of_gt hactive) (by simp only [Port.blocks]; omega) (Or.inr (Nat.succ_ne_zero _))] at hexec
  exact port_after hp hexec

theorem training_clause (hst : (s.dev.port port).st = .training) : let p := s.dev.port port
    let full := if p.retired = 0 then LinkSt.up else LinkSt.degraded
    (∀ passing, portWidth port passing = portFull port → 4 ≤ p.blocks → ∃ t : State,
      exec (.trainingDone port passing) s = .next t ∧ ∃ llr lfc, t.dev.port port =
        { p with st := full, active := portFull port, llr := llr, lfc := lfc }) ∧
    (∀ passing, portWidth port passing = 0 → ∃ t : State, exec (.trainingDone port passing) s = .next t ∧
      (t.dev.port port).st = .failed) ∧
    (p.since + 10000000 ≤ s.dtime → ∃ t : State, exec (.trainingTimeout port) s = .next t ∧
      t.dev.port port = { p with st := .failed }) ∧
    (s.dtime < p.since + 10000000 → exec (.trainingTimeout port) s = .next s) := by
  intro p full
  refine ⟨fun passing hw hblocks => ?_, fun passing hw => ?_, fun hover => port_after hp (congrArg _ (if_pos ⟨hst, hover⟩)),
    fun hearly => congrArg _ (if_neg fun h => Nat.not_lt.2 h.2 hearly)⟩
  · have hexec := exec_trainingDone hst hw
    rw [if_neg (portFull_pos port), workingState_full hblocks] at hexec
    exact ⟨_, hexec, _, _, setPort_port hp _⟩
  · have hexec := exec_trainingDone hst hw
    rw [workingState_none] at hexec
    exact ⟨_, hexec, congrArg Port.st (setPort_port hp _)⟩

end Links

theorem overdue_iff {s : State} {f : Flow} {u : Unacked} : overdue s f u.fsn u = true ↔
    f.st = .opened ∧ f.mode ≠ 2 ∧ u.sentAt + f.rto ≤ s.dtime ∧ u.again = false := by
  simp [overdue, and_assoc]

/-- Settles O51: transmission through `transmit_sealed_flit`, timers and starts through the form of each event, links through
`setPort_port`. -/
theorem transportEvents : Obligations.TransportEvents := by
  unfold Obligations.TransportEvents
  intro core s
  refine ⟨?_, fun port hp => ⟨fun h => exec_portSend_none h, fun o hcarries hout hheld => exec_portSend_one hp hcarries hout hheld⟩,
    ?_, fun port o at' hp hout hheld => ⟨fun hover => ?_, fun hearly => ?_⟩,
    ⟨fun e es hq => ⟨fun hroom => exec_eventPost_one hq hroom, fun hfull => ?_⟩, fun hq => ?_,
      fun r rest bs po hstart hidle hblocked hlast hread => exec_sequencerStart_done hstart hidle hblocked hlast hread, ?_⟩, ?_⟩
  · intro c flits
    refine ⟨fun h => exec_transmit_none h, ?_⟩
    intro n f u hflits hflow hnext hsrc _ hring hone hptype _ hjob hfidx hfcnt hmode hops key
    have hexec := exec_transmit_one hflits
    have hmode' : f.mode ≠ 2 := by rw [hmode]; decide
    refine ⟨fun hinject => ?_, fun hinject => ⟨fun hseal hwait => ?_, fun slot p vc rmb igrp hp hseal hfar hcast hway => ?_⟩⟩
    · obtain ⟨v, hv⟩ := transmit_dropped_event hflow hnext hsrc hring hone hmode' hops hinject
      exact ⟨_, v, hexec, hv⟩
    · obtain ⟨hfault, hwire⟩ := transmit_exhausted_flow hflow hnext hsrc hring hinject hseal hwait
      exact ⟨_, hexec, congrArg Flow.st hfault, congrArg Flow.code hfault, hwire⟩
    · exact ⟨_, hexec, transmit_sealed_flit hflow hnext hsrc hring hone hmode' hops hptype hfidx hfcnt hjob hp hinject hseal hfar hcast
        hway⟩
  · intro n u hn f hfind
    refine ⟨fun hno hawait => exec_timeout_early hn hfind ?_ hawait,
      fun hopen hmode hlate hagain hauto => exec_timeout_reported hn hfind (overdue_iff.2 ⟨hopen, hmode, hlate, hagain⟩) hopen hauto,
      fun hopen hmode hlate hagain hauto htries hone =>
        exec_timeout_gives_up hn hfind (overdue_iff.2 ⟨hopen, hmode, hlate, hagain⟩) hopen hauto htries hone hagain⟩
    refine Bool.eq_false_iff.2 fun h => ?_
    obtain ⟨hopen, hmode, hlate, hagain⟩ := overdue_iff.1 h
    rcases hno with hno | hno | hno | hno
    · exact hno hopen
    · exact hmode hno
    · exact absurd hlate (Nat.not_le.2 hno)
    · exact Bool.false_ne_true (hagain.symm.trans hno)
  · refine ⟨_, (exec_alignment hout hheld).trans (congrArg _ (if_pos hover)), ?_, rfl⟩
    exact (congrArg Port.outq (port_modPort_self hp _)).trans (unhold_one hout hheld)
  · exact (exec_alignment hout hheld).trans (congrArg _ (if_neg (Nat.not_le.2 hearly)))
  · rw [exec_eventPost, hq]
    exact congrArg _ (if_pos hfull)
  · rw [exec_eventPost, hq]
  · intro c f
    refine ⟨fun h => ⟨fun hover => ?_, fun hover => ?_⟩, fun h => ⟨fun hle => ?_, fun hgt => ?_⟩⟩
    · exact (exec_evwaitTimeout h).trans (congrArg _ (if_pos hover))
    · exact (exec_evwaitTimeout h).trans (congrArg _ (if_neg (by rw [hover]; decide)))
    · exact (exec_dlineDeadline h).trans (congrArg _ (if_pos hle))
    · exact (exec_dlineDeadline h).trans (congrArg _ (if_neg (Nat.not_le.2 hgt)))
  · intro port hp p full
    refine ⟨fun lost hlost hst => laneLoss_clause hp hlost hst, fun hst hret => exec_blockRetire_down hp hst hret,
      fun hst hret hactive => blockRetire_clause hp hst hret hactive, fun hst => training_clause hp hst,
      fun hst => ⟨fun passing => congrArg _ (if_pos hst), congrArg _ (if_neg fun h => hst h.1)⟩, fun hst hwaits => ?_,
      fun hst hempty => port_after hp (congrArg _ (if_pos ⟨hst, hempty⟩))⟩
    exact congrArg _ (if_neg fun h => Bool.false_ne_true (hwaits.symm.trans h.2))

end Sys2Proof.Proofs
end
